-- ==== Sys2Proof/Word.lean ====
section
/-! DEFINITION. The word types and the sparse lists that the state is built of. -/

namespace Sys2Proof

/-- A byte of a memory. -/
abbrev Byte := BitVec 8
/-- A 64-bit register, counter or address offset. -/
abbrev Word64 := BitVec 64
/-- 128 bits: an A register's data, a queue entry, a 16-byte unit. -/
abbrev Word128 := BitVec 128

/-- Values kept by number, at most one for each; a number that is not listed has its kind's default. -/
abbrev Sparse (α : Type) := List (Nat × α)

end Sys2Proof
end

