-- ==== Sys2Proof/Syntax.lean ====
section
/-! DEFINITION. The syntax: one constructor for each row of spec/opcode_table.json.

The first group are the rows with an encoding, their arguments the fields of the row in its order (03 R42).
The second group are the operations and events of spec/95_what_each_step_holds.md, which have no encoding:
the moves of the front end, the homes, the engines, the device front end and the outside world. Their arguments say
WHICH pending item the move takes up (a core, a context, a place in a list of items in flight) or carry what the
outside world supplies; everything else stands in the state. -/

namespace Sys2Proof

/-- An instruction, a hint, or an operation or event of the part. -/
inductive Instr where
  /-- ADD.w (R79). Adds two operands modulo 2^w into the destination. -/
  | add (w d a b : Nat)
  /-- SUB.w (R79). Subtracts B from A modulo 2^w into the destination. -/
  | sub (w d a b : Nat)
  /-- ADDI.w (R79). Adds an immediate to A modulo 2^w. -/
  | addi (w d a i : Nat)
  /-- MUL.w (R81). Writes the low w bits of the product of A and B. -/
  | mul (w d a b : Nat)
  /-- MULH.w (R81). Writes the high w bits of the signed product. -/
  | mulh (w d a b : Nat)
  /-- MULHU.w (R81). Writes the high w bits of the unsigned product. -/
  | mulhu (w d a b : Nat)
  /-- MULW.w (R81). Writes the full signed 2w-bit product to the 2W destination range. -/
  | mulw (w d a b : Nat)
  /-- MULWU.w (R81). Writes the full unsigned 2w-bit product to the 2W destination range. -/
  | mulwu (w d a b : Nat)
  /-- DIV.w (R82). Signed division truncating toward zero, with defined results for zero divisors. -/
  | div (w d a b : Nat)
  /-- DIVU.w (R82). Unsigned division, all ones on a zero divisor. -/
  | divu (w d a b : Nat)
  /-- REM.w (R82). Signed remainder with the sign of the dividend. -/
  | rem (w d a b : Nat)
  /-- REMU.w (R82). Unsigned remainder, the dividend on a zero divisor. -/
  | remu (w d a b : Nat)
  /-- MIN.w (R83). Writes the signed minimum of A and B. -/
  | min (w d a b : Nat)
  /-- MAX.w (R83). Writes the signed maximum of A and B. -/
  | max (w d a b : Nat)
  /-- MINU.w (R83). Writes the unsigned minimum of A and B. -/
  | minu (w d a b : Nat)
  /-- MAXU.w (R83). Writes the unsigned maximum of A and B. -/
  | maxu (w d a b : Nat)
  /-- ADDS.w (R80). Signed saturating addition. -/
  | adds (w d a b : Nat)
  /-- ADDUS.w (R80). Unsigned saturating addition. -/
  | addus (w d a b : Nat)
  /-- SUBS.w (R80). Signed saturating subtraction. -/
  | subs (w d a b : Nat)
  /-- SUBUS.w (R80). Unsigned saturating subtraction. -/
  | subus (w d a b : Nat)
  /-- NEG.w (R79). Writes the two's-complement negation of A. -/
  | neg (w d a : Nat)
  /-- ABS.w (R79). Writes the absolute value of signed A. -/
  | abs (w d a : Nat)
  /-- AND.w (R84). Bitwise AND of A and B. -/
  | and (w d a b : Nat)
  /-- OR.w (R84). Bitwise OR of A and B. -/
  | or (w d a b : Nat)
  /-- XOR.w (R84). Bitwise XOR of A and B. -/
  | xor (w d a b : Nat)
  /-- ANDN.w (R84). A AND NOT B. -/
  | andn (w d a b : Nat)
  /-- ANDI.w (R84). A AND a sign-extended immediate. -/
  | andi (w d a i : Nat)
  /-- ORI.w (R84). A OR a sign-extended immediate. -/
  | ori (w d a i : Nat)
  /-- XORI.w (R84). A XOR a sign-extended immediate. -/
  | xori (w d a i : Nat)
  /-- SHL.w (R85). Logical left shift by B mod w. -/
  | shl (w d a b : Nat)
  /-- SHR.w (R85). Logical right shift by B mod w. -/
  | shr (w d a b : Nat)
  /-- SAR.w (R85). Arithmetic right shift by B mod w. -/
  | sar (w d a b : Nat)
  /-- SHLI.w (R85). Logical left shift by an unsigned immediate below w. -/
  | shli (w d a i : Nat)
  /-- SHRI.w (R85). Logical right shift by an unsigned immediate below w. -/
  | shri (w d a i : Nat)
  /-- SARI.w (R85). Arithmetic right shift by an unsigned immediate below w. -/
  | sari (w d a i : Nat)
  /-- ROL.w (R85). Rotate left by B mod w. -/
  | rol (w d a b : Nat)
  /-- ROLI.w (R85). Rotate left by an unsigned immediate below w. -/
  | roli (w d a i : Nat)
  /-- FSHL.w (R86). Funnel shift left of the 2W range at A by B mod 2w, taking the high half. -/
  | fshl (w d a b : Nat)
  /-- FSHR.w (R86). Funnel shift right of the 2W range at A by B mod 2w, taking the low half. -/
  | fshr (w d a b : Nat)
  /-- SEL.w (R88). Writes A if the destination's old value is non-zero, else B. -/
  | sel (w d a b : Nat)
  /-- SEQ.w (R87). Writes 1 if A equals B, else 0. -/
  | seq (w d a b : Nat)
  /-- SNE.w (R87). Writes 1 if A differs from B, else 0. -/
  | sne (w d a b : Nat)
  /-- SLT.w (R87). Writes 1 if A is signed-less than B. -/
  | slt (w d a b : Nat)
  /-- SLTU.w (R87). Writes 1 if A is unsigned-less than B. -/
  | sltu (w d a b : Nat)
  /-- SLE.w (R87). Writes 1 if A is signed-less-or-equal to B. -/
  | sle (w d a b : Nat)
  /-- SLEU.w (R87). Writes 1 if A is unsigned-less-or-equal to B. -/
  | sleu (w d a b : Nat)
  /-- SEQI.w (R87). Writes 1 if A equals the sign-extended immediate. -/
  | seqi (w d a i : Nat)
  /-- SLTI.w (R87). Writes 1 if A is signed-less than the immediate. -/
  | slti (w d a i : Nat)
  /-- MOV.w (R89). Copies A to the destination. -/
  | mov (w d a : Nat)
  /-- MOVI.w (R89). Writes a sign-extended immediate to the destination. -/
  | movi (w d i : Nat)
  /-- EXTS.w (R90). Sign-extends the low n bits of A. -/
  | exts (w d a i : Nat)
  /-- EXTZ.w (R90). Zero-extends the low n bits of A. -/
  | extz (w d a i : Nat)
  /-- CLZ.w (R91). Counts leading zero bits of A. -/
  | clz (w d a : Nat)
  /-- CTZ.w (R91). Counts trailing zero bits of A. -/
  | ctz (w d a : Nat)
  /-- POPC.w (R91). Counts one bits of A. -/
  | popc (w d a : Nat)
  /-- BREV.w (R91). Reverses the bit order of A. -/
  | brev (w d a : Nat)
  /-- BEXT.w (R92). Gathers the bits of A selected by mask B. -/
  | bext (w d a b : Nat)
  /-- BEXTS.w (R92). Gathers masked bits of A and sign-extends the result. -/
  | bexts (w d a b : Nat)
  /-- BDEP.w (R92). Scatters the low bits of A to the one bits of mask B. -/
  | bdep (w d a b : Nat)
  /-- PADD.L4.w (R94). Lane-wise wrapping add on 4-bit lanes. -/
  | paddL4 (w d a b : Nat)
  /-- PADD.L8.w (R94). Lane-wise wrapping add on 8-bit lanes. -/
  | paddL8 (w d a b : Nat)
  /-- PADD.L16.w (R94). Lane-wise wrapping add on 16-bit lanes. -/
  | paddL16 (w d a b : Nat)
  /-- PADD.L32.w (R94). Lane-wise wrapping add on 32-bit lanes. -/
  | paddL32 (w d a b : Nat)
  /-- PSUB.L4.w (R94). Lane-wise wrapping subtract on 4-bit lanes. -/
  | psubL4 (w d a b : Nat)
  /-- PSUB.L8.w (R94). Lane-wise wrapping subtract on 8-bit lanes. -/
  | psubL8 (w d a b : Nat)
  /-- PSUB.L16.w (R94). Lane-wise wrapping subtract on 16-bit lanes. -/
  | psubL16 (w d a b : Nat)
  /-- PSUB.L32.w (R94). Lane-wise wrapping subtract on 32-bit lanes. -/
  | psubL32 (w d a b : Nat)
  /-- PMAXU.L4.w (R94). Lane-wise unsigned maximum on 4-bit lanes. -/
  | pmaxuL4 (w d a b : Nat)
  /-- PMAXU.L8.w (R94). Lane-wise unsigned maximum on 8-bit lanes. -/
  | pmaxuL8 (w d a b : Nat)
  /-- PMAXU.L16.w (R94). Lane-wise unsigned maximum on 16-bit lanes. -/
  | pmaxuL16 (w d a b : Nat)
  /-- PMAXU.L32.w (R94). Lane-wise unsigned maximum on 32-bit lanes. -/
  | pmaxuL32 (w d a b : Nat)
  /-- PMINU.L4.w (R94). Lane-wise unsigned minimum on 4-bit lanes. -/
  | pminuL4 (w d a b : Nat)
  /-- PMINU.L8.w (R94). Lane-wise unsigned minimum on 8-bit lanes. -/
  | pminuL8 (w d a b : Nat)
  /-- PMINU.L16.w (R94). Lane-wise unsigned minimum on 16-bit lanes. -/
  | pminuL16 (w d a b : Nat)
  /-- PMINU.L32.w (R94). Lane-wise unsigned minimum on 32-bit lanes. -/
  | pminuL32 (w d a b : Nat)
  /-- PMAXS.L4.w (R94). Lane-wise signed maximum on 4-bit lanes. -/
  | pmaxsL4 (w d a b : Nat)
  /-- PMAXS.L8.w (R94). Lane-wise signed maximum on 8-bit lanes. -/
  | pmaxsL8 (w d a b : Nat)
  /-- PMAXS.L16.w (R94). Lane-wise signed maximum on 16-bit lanes. -/
  | pmaxsL16 (w d a b : Nat)
  /-- PMAXS.L32.w (R94). Lane-wise signed maximum on 32-bit lanes. -/
  | pmaxsL32 (w d a b : Nat)
  /-- PMINS.L4.w (R94). Lane-wise signed minimum on 4-bit lanes. -/
  | pminsL4 (w d a b : Nat)
  /-- PMINS.L8.w (R94). Lane-wise signed minimum on 8-bit lanes. -/
  | pminsL8 (w d a b : Nat)
  /-- PMINS.L16.w (R94). Lane-wise signed minimum on 16-bit lanes. -/
  | pminsL16 (w d a b : Nat)
  /-- PMINS.L32.w (R94). Lane-wise signed minimum on 32-bit lanes. -/
  | pminsL32 (w d a b : Nat)
  /-- PADDSS.L4.w (R94). Lane-wise signed saturating add on 4-bit lanes. -/
  | paddssL4 (w d a b : Nat)
  /-- PADDSS.L8.w (R94). Lane-wise signed saturating add on 8-bit lanes. -/
  | paddssL8 (w d a b : Nat)
  /-- PADDSS.L16.w (R94). Lane-wise signed saturating add on 16-bit lanes. -/
  | paddssL16 (w d a b : Nat)
  /-- PADDSS.L32.w (R94). Lane-wise signed saturating add on 32-bit lanes. -/
  | paddssL32 (w d a b : Nat)
  /-- RMAXU.L4.w (R95). Unsigned maximum over all 4-bit lanes of A and B, written to lane 0. -/
  | rmaxuL4 (w d a b : Nat)
  /-- RMAXU.L8.w (R95). Unsigned maximum over all 8-bit lanes of A and B, written to lane 0. -/
  | rmaxuL8 (w d a b : Nat)
  /-- RMAXU.L16.w (R95). Unsigned maximum over all 16-bit lanes of A and B, written to lane 0. -/
  | rmaxuL16 (w d a b : Nat)
  /-- RMAXU.L32.w (R95). Unsigned maximum over all 32-bit lanes of A and B, written to lane 0. -/
  | rmaxuL32 (w d a b : Nat)
  /-- FADD.w (R247). FP32 lane-wise addition rounded once. -/
  | fadd (w d a b : Nat)
  /-- FSUB.w (R247). FP32 lane-wise subtraction rounded once. -/
  | fsub (w d a b : Nat)
  /-- FMUL.w (R247). FP32 lane-wise multiplication rounded once. -/
  | fmul (w d a b : Nat)
  /-- FMA.w (R247). FP32 fused multiply-add of A, B and the destination. -/
  | fma (w d a b : Nat)
  /-- FMULZ.w (R248). FP32 multiply in which a zero factor always gives zero. -/
  | fmulz (w d a b : Nat)
  /-- FMIN.w (R249). FP32 lane-wise minimum. -/
  | fmin (w d a b : Nat)
  /-- FMAX.w (R249). FP32 lane-wise maximum. -/
  | fmax (w d a b : Nat)
  /-- FRCP.w (R250). FP32 reciprocal rounded once. -/
  | frcp (w d a : Nat)
  /-- FRSQ.w (R250). FP32 reciprocal square root rounded once. -/
  | frsq (w d a : Nat)
  /-- FEXP2.w (R250). FP32 base-2 exponential rounded once. -/
  | fexp2 (w d a : Nat)
  /-- FLOG2.w (R250). FP32 base-2 logarithm rounded once. -/
  | flog2 (w d a : Nat)
  /-- FCMPEQ.w (R251). FP32 lane-wise equality compare. -/
  | fcmpeq (w d a b : Nat)
  /-- FCMPLT.w (R251). FP32 lane-wise less-than compare. -/
  | fcmplt (w d a b : Nat)
  /-- FCMPLE.w (R251). FP32 lane-wise less-or-equal compare. -/
  | fcmple (w d a b : Nat)
  /-- FCLASS.w (R252). Writes one class bit per FP32 lane. -/
  | fclass (w d a : Nat)
  /-- RADDF.w (R253). Sums the FP32 lanes of A in a fixed tree into lane 0. -/
  | raddf (w d a : Nat)
  /-- BADD.w (R247). BF16 lane-wise addition rounded once. -/
  | badd (w d a b : Nat)
  /-- BMUL.w (R247). BF16 lane-wise multiplication rounded once. -/
  | bmul (w d a b : Nat)
  /-- BFMA.w (R247). BF16 fused multiply-add of A, B and the destination. -/
  | bfma (w d a b : Nat)
  /-- BMAX.w (R249). BF16 lane-wise maximum. -/
  | bmax (w d a b : Nat)
  /-- BMIN.w (R249). BF16 lane-wise minimum. -/
  | bmin (w d a b : Nat)
  /-- CVT.dst.src.w (R255). Converts lanes between the formats named by the conversion code. -/
  | cvt (w d a t s : Nat)
  /-- CVTSR.dst.src.w (R257). Converts lanes to a narrower float with stochastic rounding from the core generator. -/
  | cvtsr (w d a t s : Nat)
  /-- SCACC.w (R260). Accumulates block-scaled INT32 lanes into FP32 lanes with one rounding. -/
  | scacc (w d a b : Nat)
  /-- AADD (R100). Adds two A registers modulo 2^64. -/
  | aadd (d a b : Nat)
  /-- ASUB (R100). Subtracts two A registers modulo 2^64. -/
  | asub (d a b : Nat)
  /-- AADDI (R100). Adds a sign-extended immediate to an A register. -/
  | aaddi (d a i : Nat)
  /-- AMUL (R100). Multiplies two A registers modulo 2^64. -/
  | amul (d a b : Nat)
  /-- AAND (R100). Bitwise AND of two A registers. -/
  | aand (d a b : Nat)
  /-- AOR (R100). Bitwise OR of two A registers. -/
  | aor (d a b : Nat)
  /-- AXOR (R100). Bitwise XOR of two A registers. -/
  | axor (d a b : Nat)
  /-- ASHLI (R100). Shifts an A register left by an immediate. -/
  | ashli (d a i : Nat)
  /-- ASHRI (R100). Shifts an A register right logically by an immediate. -/
  | ashri (d a i : Nat)
  /-- ASARI (R100). Shifts an A register right arithmetically by an immediate. -/
  | asari (d a i : Nat)
  /-- ASLT (R100). Sets 1 if ca is signed-less than cb. -/
  | aslt (d a b : Nat)
  /-- ASLTU (R100). Sets 1 if ca is unsigned-less than cb. -/
  | asltu (d a b : Nat)
  /-- AMOVI (R100). Writes a sign-extended immediate to an A register. -/
  | amovi (d i : Nat)
  /-- AUPI (R100). Writes the instruction's byte address plus an immediate. -/
  | aupi (d i : Nat)
  /-- AMOV (R101). Copies all 128 bits and the tag of an A register. -/
  | amov (d a : Nat)
  /-- APUSHQ (R101). Pushes an A register as one entry of LDQ0 or LDQ1. -/
  | apushq (q a : Nat)
  /-- APOPQ (R101). Pops the head of XAQ into an A register. -/
  | apopq (d : Nat)
  /-- CBASE (R102). Derives a capability with a raised base. -/
  | cbase (d a b : Nat)
  /-- CLEN (R102). Derives a capability with a new top at base plus length. -/
  | clen (d a b : Nat)
  /-- CPERM (R102). Derives a capability with permissions masked and LCL possibly set. -/
  | cperm (d a b : Nat)
  /-- CGET.field (R103). Reads one field of a capability into an untagged register. -/
  | cget (d a f : Nat)
  /-- CCLR (R103). Copies a register with its tag cleared. -/
  | cclr (d a : Nat)
  /-- LD.size (R105). Loads from memory into LDQ0 or LDQ1 through a capability. -/
  | ld (q c o z s r p : Nat)
  /-- LDX.size (R105). Loads into a queue at an offset plus a popped XAQ entry. -/
  | ldx (q c o z s r p : Nat)
  /-- LDA.size (R105). Loads from memory into an A register, untagged. -/
  | lda (d c o z s r p : Nat)
  /-- LDC.128 (R105). Loads a 16-byte unit with its tag into an A register. -/
  | ldc (d c o r p : Nat)
  /-- LDNIB.size (R107). Loads a nibble-addressed run from LM into a queue. -/
  | ldnib (q c o z s : Nat)
  /-- ST.size (R105). Stores the popped SDQ head to memory. -/
  | st (c o z r p : Nat)
  /-- STM.128 (R106). Stores the bytes of the popped SDQ entry selected by a mask register. -/
  | stm (m c o r p : Nat)
  /-- STX.size (R105). Stores the SDQ head at an offset plus a popped XAQ entry. -/
  | stx (c o z r p : Nat)
  /-- STA.size (R105). Stores the low bits of an A register to memory. -/
  | sta (d c o z r p : Nat)
  /-- STC.128 (R105). Stores a tagged capability with its tag set in memory. -/
  | stc (d c o r p : Nat)
  /-- STNIB.size (R107). Stores a nibble run popped from SDQ into LM. -/
  | stnib (c o z : Nat)
  /-- AMO.func.size (R110). Performs an atomic read-modify-write at the home and returns the old value. -/
  | amo (d a b f z o p : Nat)
  /-- AMOCAS.size (R111). Atomic compare-and-swap with expected value in cd and replacement in c(d+1). -/
  | amocas (d a b z o p : Nat)
  /-- FENCE.ACQ (R112). Holds the A head until earlier loads and atomics have their data. -/
  | fenceAcq (p : Nat)
  /-- FENCE.REL.scope (R112). Holds the A head until earlier accesses within the scope are acknowledged or have data. -/
  | fenceRel (p : Nat)
  /-- FENCE.AR.scope (R112). Holds the A head until both acquire and release conditions hold. -/
  | fenceAr (p : Nat)
  /-- XFENCE.scope (R113). Waits for store acknowledgements and for translation buffers and walkers in scope to drop stale translations. -/
  | xfence (p : Nat)
  /-- BMOV (R114). Copies cb bytes between two capability ranges in chunks of up to 16 bytes. -/
  | bmov (d a b : Nat)
  /-- REP.size (R115). Streams cb strided elements between memory and a queue. -/
  | rep (q a b z s t : Nat)
  /-- CSRR (R117). Reads a CSR into an A register after older X instructions have landed. -/
  | csrr (d i : Nat)
  /-- CSRW (R117). Writes a CSR through a capability with CSR permission. -/
  | csrw (d a i : Nat)
  /-- BEQ (R120). Branches when two A registers are equal. -/
  | beq (a b d : Nat)
  /-- BNE (R120). Branches when two A registers differ. -/
  | bne (a b d : Nat)
  /-- BLT (R120). Branches on signed less-than. -/
  | blt (a b d : Nat)
  /-- BGE (R120). Branches on signed greater-or-equal. -/
  | bge (a b d : Nat)
  /-- BLTU (R120). Branches on unsigned less-than. -/
  | bltu (a b d : Nat)
  /-- BGEU (R120). Branches on unsigned greater-or-equal. -/
  | bgeu (a b d : Nat)
  /-- BXQ (R120). Pops XAQ and branches when the value is non-zero. -/
  | bxq (d : Nat)
  /-- BXQZ (R120). Pops XAQ and branches when the value is zero. -/
  | bxqz (d : Nat)
  /-- J (R121). Jumps to an absolute word address. -/
  | j (t : Nat)
  /-- CALL (R121). Pushes the return address on the return stack and jumps. -/
  | call (t : Nat)
  /-- RET (R121). Pops the return stack and continues there. -/
  | ret
  /-- JR (R121). Jumps to the word address held in an A register. -/
  | jr (a : Nat)
  /-- LOOP (R122). Creates a hardware loop record with the count in ca, or skips the body on zero. -/
  | loop (a l : Nat)
  /-- END (R126). Ends the activation and frees its context, window and queues. -/
  | endAct
  /-- ECALL (R127). Raises the ECALL trap with the payload as TRAPVAL. -/
  | ecall (c : Nat)
  /-- BRK (R127). Raises the BRK trap with the payload as TRAPVAL. -/
  | brk (c : Nat)
  /-- SEND (R164). Sends the outgoing payload as a message to a handler on a target core. -/
  | send (a b r h : Nat)
  /-- SENDE (R167). Sends the outgoing payload as an active message command to an engine context. -/
  | sende (a b p : Nat)
  /-- REPLY (R166). Sends the outgoing payload to the target of a reply capability. -/
  | reply (a : Nat)
  /-- JARRIVE.scope (R170). Sends a release arrival to a join record, decremented at its home. -/
  | jarrive (a b p : Nat)
  /-- GANG (R171). Forms a gang of n cores that run the leader's instruction stream. -/
  | gang (n : Nat)
  /-- DISBAND (R172). Ends the gang's follower activations after draining. -/
  | disband
  /-- STACQ.P (R174). Requests a stage of a CM stage ring as producer or consumer. -/
  | stacq (d a b r : Nat)
  /-- STREL (R175). Releases an owned stage, toggling full and clearing the owner. -/
  | strel (d a b : Nat)
  /-- DQPUSH (R176). Pushes a range onto the core's siding. -/
  | dqpush (a b : Nat)
  /-- DQPOP (R176). Pops the top siding range into cd and c(d+1). -/
  | dqpop (d : Nat)
  /-- DQSPLIT (R176). Splits the top siding range in two. -/
  | dqsplit
  /-- DQSTEAL (R176). Steals the upper half of a victim siding's bottom range. -/
  | dqsteal (d a : Nat)
  /-- TLWAIT (R177). Holds the A head until an engine context's timeline counter reaches ca, then acquires. -/
  | tlwait (a x : Nat)
  /-- TLREAD (R177). Reads a context's timeline counter or last issue number. -/
  | tlread (d s x : Nat)
  /-- EVSIG (R178). Pulses an EVSIG line of the cluster's signal box, optionally as a release. -/
  | evsig (p l : Nat)
  /-- ERET (R179). Ends the trap activation and resumes the parked activation at TRAPPC. -/
  | eret
  /-- ERET.END (R179). Ends the trap activation and the parked activation it served. -/
  | eretEnd
  /-- WFI (R180). Holds the A head until a message is queued in any inbox of the core. -/
  | wfi
  /-- NOP (R55). Takes one dispatch cycle and changes no state. -/
  | nop
  /-- HIMM (R51). Supplies high immediate bits to the following XI or AI instruction. -/
  | himm (v : Nat)
  /-- HWID (R52). Gives the following X instruction separate extended source widths. -/
  | hwid (a b s t : Nat)
  /-- HMOD (R53). Sets rounding mode and saturation of the following float instruction. -/
  | hmod (m s : Nat)
  /-- HYLD (R54). Makes the activation yield its issue standing after its target dispatches. -/
  | hyld
  /-- MACQ (R316). Claims the macros of a mask for a matrix context. -/
  | macq (a k : Nat)
  /-- MREL (R317). Waits for the context to drain and releases its macros of a mask. -/
  | mrel (a k : Nat)
  /-- MREL.RES (R317). Resumes a parked matrix operation. -/
  | mrelRes (a k : Nat)
  /-- MREL.ABN (R317). Abandons a parked matrix operation and counts it as performed. -/
  | mrelAbn (a k : Nat)
  /-- MLDB (R318). Issues an operation loading B rows into a macro, recording and pinning the source. -/
  | mldb (d a b m k : Nat)
  /-- MSPEC (R319). Issues an operation loading one E2M1x special group into a macro. -/
  | mspec (d a b m k : Nat)
  /-- MZERO (R320). Issues an operation clearing ACC rows and their flags. -/
  | mzero (d a m k : Nat)
  /-- MMA (R321). Issues an operation streaming one A row through selected macros into ACC. -/
  | mma (d a b m k : Nat)
  /-- LNSCFG (R322). Pops four SDQ entries as the context's loop-nest record. -/
  | lnscfg (k : Nat)
  /-- MMAS (R323). Issues an operation running the loop nest of MMA iterations. -/
  | mmas (d a b m k : Nat)
  /-- MRD (R324). Reads four ACC columns into a load queue after the context's earlier operations. -/
  | mrd (q a k : Nat)
  /-- MRD.FLG (R324). Reads an ACC row's flags into a load queue. -/
  | mrdFlg (q a k : Nat)
  /-- MCOPY (R325). Issues an operation moving INT32 values between ACC and memory. -/
  | mcopy (d a b m k : Nat)
  /-- CHBOND (R290). Sets a bond-dimension register of an idle chain context. -/
  | chbond (a r k : Nat)
  /-- CHPROG (R290). Installs program and buffer capabilities on an idle chain context. -/
  | chprog (a b k : Nat)
  /-- CHPROG.KEEP (R290). Replaces the buffer of a parked chain context, keeping program and step. -/
  | chprogKeep (a b k : Nat)
  /-- CHRUN (R290). Issues a chain run, pinning the program, or arms it. -/
  | chrunStart (d m k : Nat)
  /-- CHRUN.RESUME (R294). Resumes a parked chain run, copying the boundary to a new buffer if installed. -/
  | chrunResume (a k : Nat)
  /-- CHRUN.ABN (R294). Abandons a parked chain run, releasing pins and macros. -/
  | chrunAbn (a k : Nat)
  /-- CHSTAT (R340). Reads a selected status word of a chain context. -/
  | chstat (d s k : Nat)
  /-- CHGRAD (R342). Sets the gradient capability and cursor of an idle chain context. -/
  | chgrad (a b k : Nat)
  /-- GRSET (R348). Pops a 256-bit descriptor and installs a grammar on an idle grammar context. -/
  | grset (a b k : Nat)
  /-- GRRED.op (R351). Issues a reduction of the grammar under a liftable operator. -/
  | grred (d a b o m k : Nat)
  /-- GRSCAN.op (R376). Issues an operation writing the offset grammar of a scan into the RRT. -/
  | grscan (d a b o m k : Nat)
  /-- GRSCAN.X.op (R377). Issues a scan that also writes scan values up to LIMIT positions. -/
  | grscanX (d a b o m k : Nat)
  /-- GRMV (R379). Issues a matrix-vector product over a matrix grammar. -/
  | grmv (d a b m k : Nat)
  /-- GRAT.op (R378). Issues a descent returning the scan value and element at one position. -/
  | grat (d a b o m k : Nat)
  /-- GRSTAT (R382). Reads a selected state word of a grammar context. -/
  | grstat (d s k : Nat)
  /-- GRSTAT.RES (R384). Resumes a parked grammar operation from the faulted item. -/
  | grstatRes (a k : Nat)
  /-- GRSTAT.ABN (R384). Abandons a parked grammar operation and counts it as performed. -/
  | grstatAbn (a k : Nat)
  /-- CPY (R282). Pops a 64-byte record and issues or arms a copy operation on a channel. -/
  | cpy (d a b m c : Nat)
  /-- CPYWP (R204). Reads a copy operation's write pointer, acquiring the bytes below it. -/
  | cpywp (d a c : Nat)
  /-- CPYCHK (R285). Issues a channel operation checking source rows against a CRC sidecar. -/
  | cpychkCheck (d a b c : Nat)
  /-- CPYCHK.RES (R286). Restarts the faulted chunk of a parked copy operation. -/
  | cpychkRes (a c : Nat)
  /-- CPYCHK.ABN (R286). Abandons a parked copy operation and counts it as performed. -/
  | cpychkAbn (a c : Nat)
  -- operations and events without an encoding
  /-- ILLEGAL_INSTRUCTION (R59). A word with an unassigned opcode or broken fields traps when it reaches its head. -/
  | illegalInstruction (w : Nat)
  /-- FETCH (R130). The front end fetches up to four words per activation into its buffers. -/
  | fetch (core ctx : Nat)
  /-- X_RESULT_LAND (R75). An X instruction's result lands in its destination after its latency. -/
  | xResultLand (core ctx idx : Nat)
  /-- QUEUE_STARVED (R20). A queue wait that can never be satisfied traps after persisting one further cycle. -/
  | queueStarved (core ctx half : Nat)
  /-- LOAD_DATA_RETURN (R17). Load or atomic reply data arrives in its reserved queue entry or register. -/
  | loadDataReturn (idx : Nat)
  /-- STORE_ACK (R208). A home's acknowledgement of a store or atomic reaches its sender. -/
  | storeAck (idx : Nat)
  /-- HOME_PERFORM (R208). An access arriving at its home is performed there in arrival order. -/
  | homePerform (idx : Nat)
  /-- CAE_CHECK_IN (R223). The CAE returns a least recently used line to its channel agent after the marker. -/
  | caeCheckIn (clu : Nat)
  /-- STAGE_GRANT (R152). A waiting stage request is served when a stage becomes available. -/
  | stageGrant (idx : Nat)
  /-- SIDING_STEAL_SERVE (R155). A steal request arriving at a victim siding is served indivisibly. -/
  | sidingStealServe (core : Nat)
  /-- LATE_ACCESS_FAULT (R108). A fault found after dispatch takes the instruction back precisely. -/
  | lateAccessFault (idx : Nat)
  /-- TRANSLATION_WALK_DONE (R439). A translation walk completes, filling the buffer or raising a translation fault. -/
  | translationWalkDone (core ctx : Nat)
  /-- WC_BUFFER_TIMEOUT (R226). A write-combining buffer is sent to the port 1 µs after its first byte. -/
  | wcBufferTimeout (clu idx : Nat)
  /-- MESSAGE_ARRIVAL (R137). A message reaches a core and is queued in the inbox its handler entry names. -/
  | messageArrival (idx : Nat)
  /-- OUTBOUND_DEPART (R438). A message leaves the core's outbound buffer into the network. -/
  | outboundDepart (core : Nat)
  /-- ADMISSION (R140). The core selects an inbox head and admits it as an activation when storage is free. -/
  | admission (core : Nat)
  /-- COPY_OUT (R194). A released victim's claimed storage is read out to its save area. -/
  | copyOut (core ctx : Nat)
  /-- ACTIVATION_RESTORE (R196). A copied-out activation is restored when storage is free and IQ0 is empty. -/
  | activationRestore (core : Nat)
  /-- ACTIVATION_PARK (R184). After a trap's drain the activation parks with its buffers recorded. -/
  | activationPark (core ctx : Nat)
  /-- TRAP_ACTIVATION_START (R188). A parked activation receives a privileged trap activation through entry 0. -/
  | trapActivationStart (core : Nat)
  /-- ENGINE_COMMAND_ARRIVAL (R167). A SENDE command arrives at an engine context, is checked and takes an issue number. -/
  | engineCommandArrival (idx : Nat)
  /-- COPY_OP_BEGIN (R263). A channel begins its next operation after the R218 wait. -/
  | copyOpBegin (clu k : Nat)
  /-- COPY_ROW_DELIVERED (R203). An acknowledged output row advances the channel's delivered count. -/
  | copyRowDelivered (clu k : Nat)
  /-- COPY_OP_PERFORMED (R263). A copy operation is performed, its pins released and its timeline advanced with a line pulse. -/
  | copyOpPerformed (clu k : Nat)
  /-- MATRIX_OP_BEGIN (R307). A matrix context begins its next operation after the R218 wait. -/
  | matrixOpBegin (clu k : Nat)
  /-- MMA_ITERATION (R311). One MMA iteration streams its A row and lands its sums in ACC. -/
  | mmaIteration (clu k : Nat)
  /-- MATRIX_OP_PERFORMED (R296). A matrix operation is performed and the context's timeline advances with a line pulse. -/
  | matrixOpPerformed (clu k : Nat)
  /-- MACRO_RELOAD (R313). A resumed context reclaims its macros and reloads recorded rows from pinned sources. -/
  | macroReload (clu ctxId : Nat)
  /-- CHAIN_RUN_BEGIN (R290). A chain run begins after the R218 wait. -/
  | chainRunBegin (clu k : Nat)
  /-- CHAIN_STEP (R293). The coupler performs one step of a chain run, contraction or gradient. -/
  | chainStep (clu k : Nat)
  /-- GRAMMAR_OP_BEGIN (R359). A yard operation begins once no other RRT pin overlaps its RRT. -/
  | grammarOpBegin (clu k : Nat)
  /-- GRAMMAR_OP_PERFORMED (R352). A grammar operation is performed and the context's timeline advances with a line pulse. -/
  | grammarOpPerformed (clu k : Nat)
  /-- ENGINE_FAULT_PARK (R192). An engine fault found after retirement parks the context and sends a kind-1 fault message. -/
  | engineFaultPark (clu ctxId : Nat)
  /-- ENGINE_PREEMPT_STOP (R198). An engine context stops for pre-emption at its next chunk boundary. -/
  | enginePreemptStop (clu ctxId : Nat)
  /-- SIGNAL_BOX_FIRE (R158). Counters reaching their thresholds make an output fire and subtract thresholds. -/
  | signalBoxFire (clu : Nat)
  /-- TIMER_PULSE (R161). A signal-box timer pulses its line every PERIOD ns. -/
  | timerPulse (clu t : Nat)
  /-- ENCODER_FRAME_DONE (R435). An encoder finishes a frame, writes results, clears OWN, advances the index and pulses its line. -/
  | encoderFrameDone (clu slot : Nat)
  /-- ENCBIND_BIND (R434). A write to ENCBIND binds an encoder stream to a cluster slot. -/
  | encbindBind (vf val : Nat)
  /-- ENCBIND_UNBIND (R434). A write to ENCBIND unbinds a stream after any frame in progress. -/
  | encbindUnbind (vf val : Nat)
  /-- CREATE (R396). The PF CREATE command starts clearing and keying a new partition. -/
  | create (part vf : Nat)
  /-- PARTITION_CLEAR_DONE (R396). CREATE finishes clearing the grant and the partition becomes active. -/
  | partitionClearDone (part : Nat)
  /-- DESTROY (R396). Ends a partition's regions, erases its key, unbinds its VFs and frees its resources. -/
  | destroy (part vf : Nat)
  /-- BINDVF (R396). Binds a VF's launch slots to a partition. -/
  | bindvf (part vf : Nat)
  /-- UNBINDVF (R394). Unbinds a VF from its partition. -/
  | unbindvf (part vf : Nat)
  /-- PARTITION_BAD_COMMAND (R394). An OP value other than 1–4 completes with RESULT 0x40. -/
  | partitionBadCommand (op : Nat)
  /-- DOOR (R402). A doorbell write queues a launch slot for service. -/
  | door (vf val : Nat)
  /-- SLOT_WRITE (R402). Writing a free or done slot stores the record and sets STATE to 0. -/
  | slotWrite (vf s rec : Nat)
  /-- LAUNCH (R405). A served LAUNCH record registers the region, places the image and copies sections. -/
  | launch (vf s : Nat)
  /-- LAUNCH_FIRST_MESSAGES (R407). Once all launch writes are performed, the first messages go to the target cores. -/
  | launchFirstMessages (vf s : Nat)
  /-- REGISTER (R403). A served REGISTER record checks the RCB chain and registers the region. -/
  | register (vf s : Nat)
  /-- REGION_END (R403). A served END record ends the region and its descendants and abandons their operations. -/
  | regionEnd (vf s : Nat)
  /-- PREPARE (R415). A served PREPARE record starts a multi-package launch from the coordinator. -/
  | prepare (vf s : Nat)
  /-- PREPARE_RECEIVE (R415). A named package receives the PREPARE, prepares and acknowledges or refuses. -/
  | prepareReceive (pkg rec : Nat)
  /-- PREPARE_ACK_RECEIVE (R415). The coordinator receives an acknowledgement and sends COMMIT once all have arrived. -/
  | prepareAckReceive (pkg : Nat)
  /-- PREPARE_TIMEOUT (R415). TIMEOUT expires without all acknowledgements and the coordinator sends ABORT. -/
  | prepareTimeout
  /-- COMMIT (R415). A prepared package receiving COMMIT sets LAUNCHED and sends first messages. -/
  | commit
  /-- ABORT (R415). A prepared package receiving ABORT discards the launch. -/
  | abort
  /-- QUANTUM_BOUNDARY (R413). At a quantum boundary a cluster draws a best-effort holder among eligible regions. -/
  | quantumBoundary (clu : Nat)
  /-- CONTRACT_RELEASE (R410). A contracted region is released each period and its first messages are sent again. -/
  | contractRelease (part off : Nat)
  /-- DEADLINE_EXPIRY (R410). An incomplete job at its deadline increments MISSES. -/
  | deadlineExpiry (part off : Nat)
  /-- BUDGET_EXHAUSTED (R410). A job that spends its budget stops being ready until its next release. -/
  | budgetExhausted (part off : Nat)
  /-- JOB_COMPLETE (R410). A job's completion frees its clusters for rescheduling. -/
  | jobComplete (part off : Nat)
  /-- ENERGY_CHARGE (R420). Every 1 µs the scheduler charges energy drawn to regions and checks limits. -/
  | energyCharge
  /-- ENERGY_WINDOW_BOUNDARY (R414). A new EPER window makes energy-exhausted best-effort regions eligible again. -/
  | energyWindowBoundary (part off : Nat)
  /-- LAZY_UNIT_RESTORE (R199). A saved unit is read back on its region's first access after return. -/
  | lazyUnitRestore (unit : Nat)
  /-- CLUSTER_POWER_GATE (R421). An idle cluster with no holder may be power-gated. -/
  | clusterPowerGate (clu : Nat)
  /-- CLUSTER_WAKE (R421). A gated cluster wakes before placement or admission. -/
  | clusterWake (clu : Nat)
  /-- DEVICE_RESET (R422). Reset starts every function's self-test. -/
  | deviceReset
  /-- SELF_TEST_PASS (R422). A function passes its self-test and sets its READY bit. -/
  | selfTestPass (fn : Nat)
  /-- UNIT_FAILURE (R423). A physical core or cluster fails and a spare takes over its logical number. -/
  | unitFailure (isClu num : Nat)
  /-- UNCORRECTABLE_MEMORY (R191). An uncorrectable error ends the access's activation or operation and sends a fault message.
  From 8192 on `core` stands for a cluster, and `ctx` for an engine context of it. -/
  | uncorrectableMemory (core ctx va pa : Nat)
  /-- LINK_DOWN (R168). A package link goes down and messages on its route are discarded with fault messages. -/
  | linkDown (link : Nat)
  /-- CXL_MEM_READ (R393). A host CXL.mem read is performed in a shared window or returns all ones. -/
  | cxlMemRead (vf pa len : Nat)
  /-- CXL_MEM_WRITE (R393). A host CXL.mem write is performed after any pin, clearing tags, or discarded. -/
  | cxlMemWrite (vf pa len val : Nat)
  /-- GET_VERSION (R416). SPDM GET_VERSION request answered by the responder. -/
  | getVersion (fn : Nat)
  /-- GET_CAPABILITIES (R416). SPDM GET_CAPABILITIES request answered by the responder. -/
  | getCapabilities (fn : Nat)
  /-- NEGOTIATE_ALGORITHMS (R416). SPDM algorithm negotiation selecting SHA-384 and brainpoolP384r1 ECDSA. -/
  | negotiateAlgorithms (fn offer : Nat)
  /-- GET_DIGESTS (R416). SPDM GET_DIGESTS request answered by the responder. -/
  | getDigests (fn : Nat)
  /-- GET_CERTIFICATE (R416). SPDM GET_CERTIFICATE request answered by the responder. -/
  | getCertificate (fn slot : Nat)
  /-- CHALLENGE (R416). SPDM CHALLENGE request signed by the responder. -/
  | challenge (fn slot : Nat)
  /-- GET_MEASUREMENTS (R416). SPDM GET_MEASUREMENTS returns the measurement blocks visible to the function. -/
  | getMeasurements (fn ix : Nat)
  /-- KEY_EXCHANGE (R416). SPDM KEY_EXCHANGE starts a secure session. -/
  | keyExchange (fn slot : Nat)
  /-- FINISH (R416). SPDM FINISH completes a secure session. -/
  | finish (fn : Nat)
  /-- DEBUG_TOKEN_SUBMIT (R428). DBGCMD 1 verifies a consent token and grants the debug scope. -/
  | debugTokenSubmit (vf : Nat)
  /-- DEBUG_SCOPE_REVOKE (R428). DBGCMD 2 withdraws the granted debug scope. -/
  | debugScopeRevoke (vf : Nat)
  /-- DEBUG_SCOPE_EXPIRY (R428). The debug scope ends at the token's expiry. -/
  | debugScopeExpiry (vf : Nat)
  /-- DBGDATA_WRITE (R428). A DBGDATA write writes the selected core CSR within scope. -/
  | dbgdataWrite (vf val : Nat)
  /-- DBGDATA_READ (R428). A DBGDATA read reads the selected core CSR within scope. -/
  | dbgdataRead (vf : Nat)
  /-- HALT (R429). Setting DBGCTL HALT stops the core dispatching. -/
  | halt (core : Nat)
  /-- DEBUG_RESUME (R132). Clearing HALT lets the core dispatch from the next cycle. -/
  | debugResume (core : Nat)
  /-- STEP (R430). A STEP write dispatches one instruction of STEPCTX on a halted core. -/
  | step (core ctx : Nat)
  /-- STEPDONE (R430). STEPDONE is set once everything the stepped instruction started has drained. -/
  | stepdone (core : Nat)
  /-- XB_WRITE (R389). A CSRW to XB waits for own-LM writes and then changes the execute boundary. -/
  | xbWrite (core val : Nat)
  /-- SEED_WRITE (R258). A CSRW to SEED resets the core's stochastic-rounding generator state. -/
  | seedWrite (core val : Nat)
  /-- LOTSTATE_WRITE (R143). A CSRW to LOTSTATE sets the lottery generator, storing 1 for 0. -/
  | lotstateWrite (core val : Nat)
  /-- ISSUEPOL_WRITE (R146). A CSRW to ISSUEPOL switches the issue policy from the next cycle. -/
  | issuepolWrite (core val : Nat)
  /-- SBDATA_WRITE (R158). A CSRW to SBDATA sets the selected signal-box item before the next cycle. -/
  | sbdataWrite (core val : Nat)
  /-- OVERRUN_CLEAR (R160). Writing one to an output's OVERRUN clears it. -/
  | overrunClear (clu out : Nat)
  /-- TRDST_WRITE (R431). A write to TRDST sets the trace drain ring and forces a time record. -/
  | trdstWrite (core val : Nat)
  /-- CLEAR (R432). Writing PCTL CLEAR zeroes every profile entry. -/
  | clear (core : Nat)
  /-- XFLAGS_WRITE (R243). A CSRW to XFLAGS sets the flags, later landings ORing into it. -/
  | xflagsWrite (core val : Nat)
  /-- TRACE_DRAIN (R431). Trace records drain in order from the cluster buffer into the HBM ring. -/
  | traceDrain (clu : Nat)
  /-- REGISTER_WRITE (R8). A write to a register with no behaviour of its own stores its RW fields. -/
  | registerWrite (core csr val : Nat)
  /-- PREPARE_REFUSAL_RECEIVE (R415). The coordinator receives a named package's refusal carrying its status, leading to ABORT and to the slot completing with that status. -/
  | prepareRefusalReceive (pkg status : Nat)
  deriving DecidableEq, Repr

end Sys2Proof
end

