-- ==== Sys2Proof/WellFormed.lean ====
section
/-! DEFINITION. Which instructions are well formed: every field inside its bits, and none of the values that the
instruction's own entry marks reserved (03 R43 to R46, R60). What depends on the state or on a hint (a slice beyond the
window, an immediate widened by HIMM) is checked by the meaning and stands in Machine/. -/

namespace Sys2Proof

/-- The width in bits that a W code names (02 R23). -/
def widthOf (w : Nat) : Nat :=
  match w with
  | 0 => 4
  | 1 => 8
  | 2 => 12
  | 3 => 16
  | 4 => 24
  | 5 => 32
  | 6 => 64
  | _ => 128

/-- The width `w` holds a whole number of lanes of `lane` bits (05 R93, 13 R240). -/
def laneWidth (lane w : Nat) : Bool := widthOf w % lane == 0

/-- The width in bits of a number format of a conversion code (13 R254); 0 for the reserved code 7. -/
def convBits (f : Nat) : Nat :=
  match f with
  | 0 => 32
  | 1 => 16
  | 2 => 8
  | 3 => 8
  | 4 => 8
  | 5 => 16
  | 6 => 32
  | _ => 0

/-- A conversion code of CVT that is not reserved, with a width of whole lanes (13 R254). -/
def convCode (w t s : Nat) : Bool :=
  t != s && !(decide (4 ≤ t) && decide (4 ≤ s)) && decide (t ≤ 6) && decide (s ≤ 6) &&
    widthOf w % Nat.max (convBits s) (convBits t) == 0

/-- A conversion code of CVTSR: FP32 to BF16, E4M3 or E5M2, and BF16 to E4M3 or E5M2 (13 R254). -/
def convCodeSR (w t s : Nat) : Bool :=
  ((s == 0 && decide (1 ≤ t) && decide (t ≤ 3)) || (s == 1 && decide (2 ≤ t) && decide (t ≤ 3))) &&
    widthOf w % Nat.max (convBits s) (convBits t) == 0

/-- Size codes 0 to 4, with the sign bit zero for size 4 (03 R45, R46). -/
def sizeSign (z s : Nat) : Bool := decide (z ≤ 4) && (z != 4 || s == 0)

/-- Ordering codes 0 to 2 and scope codes 0 to 5; a scope other than CORE only with ord 1 (03 R45, R46). -/
def ordScope (r p : Nat) : Bool := decide (r ≤ 2) && decide (p ≤ 5) && (r == 1 || p == 0)

/-- The ordering of an atomic: a scope other than CORE only with the ordering bit (06 R110). -/
def amoOrd (o p : Nat) : Bool := decide (p ≤ 5) && (o == 1 || p == 0)

/-- The registers of BMOV: pairs d, d+1 and a, a+1 and the count b, all distinct and none c0 (06 R114). -/
def bmovRegs (d a b : Nat) : Bool :=
  decide (1 ≤ d) && decide (d ≤ 30) && decide (1 ≤ a) && decide (a ≤ 30) && decide (1 ≤ b) &&
    d != a && d + 1 != a && d != a + 1 && b != d && b != d + 1 && b != a && b != a + 1

/-- The fields of REP: pairs a, a+1 and b, b+1 distinct and none c0; a store names no queue and no sign (06 R115). -/
def repFields (q a b z s t : Nat) : Bool :=
  decide (1 ≤ a) && decide (a ≤ 30) && decide (1 ≤ b) && decide (b ≤ 30) && a != b && a + 1 != b && a != b + 1 &&
    decide (z ≤ 4) && (if t == 1 then q == 0 && s == 0 else decide (q ≤ 1) && (z != 4 || s == 0))

/-- Without its reply bit SEND names no reply handler and no reply register (09 R164, R165). -/
def sendFields (r h b : Nat) : Bool := r == 1 || (h == 0 && b == 0)

/-- The operator codes of GRRED: 0 to 12, 0x20, 0x21 and 0x22 (18 R349, 20 R371). -/
def redOp (o : Nat) : Bool := decide (o ≤ 12) || (decide (32 ≤ o) && decide (o ≤ 34))

/-- The number of an engine context: class × 32 + index, eight channels and four of each other class (12 R219). -/
def contextNumber (id : Nat) : Bool :=
  match id / 32 with
  | 0 => decide (id % 32 < 8)
  | 1 | 2 | 3 => decide (id % 32 < 4)
  | _ => false

/-- Every field inside its bits and no reserved value; for an event, every number inside the range of the units it
names (00 R1, R2). -/
def Instr.wellFormed : Instr → Bool
  | .add w d a b => decide (w < 8) && decide (d < 128) && decide (a < 128) && decide (b < 128)
  | .sub w d a b => decide (w < 8) && decide (d < 128) && decide (a < 128) && decide (b < 128)
  | .addi w d a i => decide (w < 8) && decide (d < 128) && decide (a < 128) && decide (i < 128)
  | .mul w d a b => decide (w < 8) && decide (d < 128) && decide (a < 128) && decide (b < 128)
  | .mulh w d a b => decide (w < 8) && decide (d < 128) && decide (a < 128) && decide (b < 128)
  | .mulhu w d a b => decide (w < 8) && decide (d < 128) && decide (a < 128) && decide (b < 128)
  | .mulw w d a b => decide (w < 8) && decide (d < 128) && decide (a < 128) && decide (b < 128)
  | .mulwu w d a b => decide (w < 8) && decide (d < 128) && decide (a < 128) && decide (b < 128)
  | .div w d a b => decide (w < 8) && decide (d < 128) && decide (a < 128) && decide (b < 128)
  | .divu w d a b => decide (w < 8) && decide (d < 128) && decide (a < 128) && decide (b < 128)
  | .rem w d a b => decide (w < 8) && decide (d < 128) && decide (a < 128) && decide (b < 128)
  | .remu w d a b => decide (w < 8) && decide (d < 128) && decide (a < 128) && decide (b < 128)
  | .min w d a b => decide (w < 8) && decide (d < 128) && decide (a < 128) && decide (b < 128)
  | .max w d a b => decide (w < 8) && decide (d < 128) && decide (a < 128) && decide (b < 128)
  | .minu w d a b => decide (w < 8) && decide (d < 128) && decide (a < 128) && decide (b < 128)
  | .maxu w d a b => decide (w < 8) && decide (d < 128) && decide (a < 128) && decide (b < 128)
  | .adds w d a b => decide (w < 8) && decide (d < 128) && decide (a < 128) && decide (b < 128)
  | .addus w d a b => decide (w < 8) && decide (d < 128) && decide (a < 128) && decide (b < 128)
  | .subs w d a b => decide (w < 8) && decide (d < 128) && decide (a < 128) && decide (b < 128)
  | .subus w d a b => decide (w < 8) && decide (d < 128) && decide (a < 128) && decide (b < 128)
  | .neg w d a => decide (w < 8) && decide (d < 128) && decide (a < 128)
  | .abs w d a => decide (w < 8) && decide (d < 128) && decide (a < 128)
  | .and w d a b => decide (w < 8) && decide (d < 128) && decide (a < 128) && decide (b < 128)
  | .or w d a b => decide (w < 8) && decide (d < 128) && decide (a < 128) && decide (b < 128)
  | .xor w d a b => decide (w < 8) && decide (d < 128) && decide (a < 128) && decide (b < 128)
  | .andn w d a b => decide (w < 8) && decide (d < 128) && decide (a < 128) && decide (b < 128)
  | .andi w d a i => decide (w < 8) && decide (d < 128) && decide (a < 128) && decide (i < 128)
  | .ori w d a i => decide (w < 8) && decide (d < 128) && decide (a < 128) && decide (i < 128)
  | .xori w d a i => decide (w < 8) && decide (d < 128) && decide (a < 128) && decide (i < 128)
  | .shl w d a b => decide (w < 8) && decide (d < 128) && decide (a < 128) && decide (b < 128)
  | .shr w d a b => decide (w < 8) && decide (d < 128) && decide (a < 128) && decide (b < 128)
  | .sar w d a b => decide (w < 8) && decide (d < 128) && decide (a < 128) && decide (b < 128)
  | .shli w d a i => decide (w < 8) && decide (d < 128) && decide (a < 128) && decide (i < 128) && decide (i < widthOf w)
  | .shri w d a i => decide (w < 8) && decide (d < 128) && decide (a < 128) && decide (i < 128) && decide (i < widthOf w)
  | .sari w d a i => decide (w < 8) && decide (d < 128) && decide (a < 128) && decide (i < 128) && decide (i < widthOf w)
  | .rol w d a b => decide (w < 8) && decide (d < 128) && decide (a < 128) && decide (b < 128)
  | .roli w d a i => decide (w < 8) && decide (d < 128) && decide (a < 128) && decide (i < 128) && decide (i < widthOf w)
  | .fshl w d a b => decide (w < 8) && decide (d < 128) && decide (a < 128) && decide (b < 128)
  | .fshr w d a b => decide (w < 8) && decide (d < 128) && decide (a < 128) && decide (b < 128)
  | .sel w d a b => decide (w < 8) && decide (d < 128) && decide (a < 128) && decide (b < 128)
  | .seq w d a b => decide (w < 8) && decide (d < 128) && decide (a < 128) && decide (b < 128)
  | .sne w d a b => decide (w < 8) && decide (d < 128) && decide (a < 128) && decide (b < 128)
  | .slt w d a b => decide (w < 8) && decide (d < 128) && decide (a < 128) && decide (b < 128)
  | .sltu w d a b => decide (w < 8) && decide (d < 128) && decide (a < 128) && decide (b < 128)
  | .sle w d a b => decide (w < 8) && decide (d < 128) && decide (a < 128) && decide (b < 128)
  | .sleu w d a b => decide (w < 8) && decide (d < 128) && decide (a < 128) && decide (b < 128)
  | .seqi w d a i => decide (w < 8) && decide (d < 128) && decide (a < 128) && decide (i < 128)
  | .slti w d a i => decide (w < 8) && decide (d < 128) && decide (a < 128) && decide (i < 128)
  | .mov w d a => decide (w < 8) && decide (d < 128) && decide (a < 128)
  | .movi w d i => decide (w < 8) && decide (d < 128) && decide (i < 128)
  | .exts w d a i => decide (w < 8) && decide (d < 128) && decide (a < 128) && decide (i < 128) && decide (1 ≤ i) && decide (i < widthOf w)
  | .extz w d a i => decide (w < 8) && decide (d < 128) && decide (a < 128) && decide (i < 128) && decide (1 ≤ i) && decide (i < widthOf w)
  | .clz w d a => decide (w < 8) && decide (d < 128) && decide (a < 128)
  | .ctz w d a => decide (w < 8) && decide (d < 128) && decide (a < 128)
  | .popc w d a => decide (w < 8) && decide (d < 128) && decide (a < 128)
  | .brev w d a => decide (w < 8) && decide (d < 128) && decide (a < 128)
  | .bext w d a b => decide (w < 8) && decide (d < 128) && decide (a < 128) && decide (b < 128)
  | .bexts w d a b => decide (w < 8) && decide (d < 128) && decide (a < 128) && decide (b < 128)
  | .bdep w d a b => decide (w < 8) && decide (d < 128) && decide (a < 128) && decide (b < 128)
  | .paddL4 w d a b => decide (w < 8) && decide (d < 128) && decide (a < 128) && decide (b < 128)
  | .paddL8 w d a b => decide (w < 8) && decide (d < 128) && decide (a < 128) && decide (b < 128) && laneWidth 8 w
  | .paddL16 w d a b => decide (w < 8) && decide (d < 128) && decide (a < 128) && decide (b < 128) && laneWidth 16 w
  | .paddL32 w d a b => decide (w < 8) && decide (d < 128) && decide (a < 128) && decide (b < 128) && laneWidth 32 w
  | .psubL4 w d a b => decide (w < 8) && decide (d < 128) && decide (a < 128) && decide (b < 128)
  | .psubL8 w d a b => decide (w < 8) && decide (d < 128) && decide (a < 128) && decide (b < 128) && laneWidth 8 w
  | .psubL16 w d a b => decide (w < 8) && decide (d < 128) && decide (a < 128) && decide (b < 128) && laneWidth 16 w
  | .psubL32 w d a b => decide (w < 8) && decide (d < 128) && decide (a < 128) && decide (b < 128) && laneWidth 32 w
  | .pmaxuL4 w d a b => decide (w < 8) && decide (d < 128) && decide (a < 128) && decide (b < 128)
  | .pmaxuL8 w d a b => decide (w < 8) && decide (d < 128) && decide (a < 128) && decide (b < 128) && laneWidth 8 w
  | .pmaxuL16 w d a b => decide (w < 8) && decide (d < 128) && decide (a < 128) && decide (b < 128) && laneWidth 16 w
  | .pmaxuL32 w d a b => decide (w < 8) && decide (d < 128) && decide (a < 128) && decide (b < 128) && laneWidth 32 w
  | .pminuL4 w d a b => decide (w < 8) && decide (d < 128) && decide (a < 128) && decide (b < 128)
  | .pminuL8 w d a b => decide (w < 8) && decide (d < 128) && decide (a < 128) && decide (b < 128) && laneWidth 8 w
  | .pminuL16 w d a b => decide (w < 8) && decide (d < 128) && decide (a < 128) && decide (b < 128) && laneWidth 16 w
  | .pminuL32 w d a b => decide (w < 8) && decide (d < 128) && decide (a < 128) && decide (b < 128) && laneWidth 32 w
  | .pmaxsL4 w d a b => decide (w < 8) && decide (d < 128) && decide (a < 128) && decide (b < 128)
  | .pmaxsL8 w d a b => decide (w < 8) && decide (d < 128) && decide (a < 128) && decide (b < 128) && laneWidth 8 w
  | .pmaxsL16 w d a b => decide (w < 8) && decide (d < 128) && decide (a < 128) && decide (b < 128) && laneWidth 16 w
  | .pmaxsL32 w d a b => decide (w < 8) && decide (d < 128) && decide (a < 128) && decide (b < 128) && laneWidth 32 w
  | .pminsL4 w d a b => decide (w < 8) && decide (d < 128) && decide (a < 128) && decide (b < 128)
  | .pminsL8 w d a b => decide (w < 8) && decide (d < 128) && decide (a < 128) && decide (b < 128) && laneWidth 8 w
  | .pminsL16 w d a b => decide (w < 8) && decide (d < 128) && decide (a < 128) && decide (b < 128) && laneWidth 16 w
  | .pminsL32 w d a b => decide (w < 8) && decide (d < 128) && decide (a < 128) && decide (b < 128) && laneWidth 32 w
  | .paddssL4 w d a b => decide (w < 8) && decide (d < 128) && decide (a < 128) && decide (b < 128)
  | .paddssL8 w d a b => decide (w < 8) && decide (d < 128) && decide (a < 128) && decide (b < 128) && laneWidth 8 w
  | .paddssL16 w d a b => decide (w < 8) && decide (d < 128) && decide (a < 128) && decide (b < 128) && laneWidth 16 w
  | .paddssL32 w d a b => decide (w < 8) && decide (d < 128) && decide (a < 128) && decide (b < 128) && laneWidth 32 w
  | .rmaxuL4 w d a b => decide (w < 8) && decide (d < 128) && decide (a < 128) && decide (b < 128)
  | .rmaxuL8 w d a b => decide (w < 8) && decide (d < 128) && decide (a < 128) && decide (b < 128) && laneWidth 8 w
  | .rmaxuL16 w d a b => decide (w < 8) && decide (d < 128) && decide (a < 128) && decide (b < 128) && laneWidth 16 w
  | .rmaxuL32 w d a b => decide (w < 8) && decide (d < 128) && decide (a < 128) && decide (b < 128) && laneWidth 32 w
  | .fadd w d a b => decide (w < 8) && decide (d < 128) && decide (a < 128) && decide (b < 128) && laneWidth 32 w
  | .fsub w d a b => decide (w < 8) && decide (d < 128) && decide (a < 128) && decide (b < 128) && laneWidth 32 w
  | .fmul w d a b => decide (w < 8) && decide (d < 128) && decide (a < 128) && decide (b < 128) && laneWidth 32 w
  | .fma w d a b => decide (w < 8) && decide (d < 128) && decide (a < 128) && decide (b < 128) && laneWidth 32 w
  | .fmulz w d a b => decide (w < 8) && decide (d < 128) && decide (a < 128) && decide (b < 128) && laneWidth 32 w
  | .fmin w d a b => decide (w < 8) && decide (d < 128) && decide (a < 128) && decide (b < 128) && laneWidth 32 w
  | .fmax w d a b => decide (w < 8) && decide (d < 128) && decide (a < 128) && decide (b < 128) && laneWidth 32 w
  | .frcp w d a => decide (w < 8) && decide (d < 128) && decide (a < 128) && laneWidth 32 w
  | .frsq w d a => decide (w < 8) && decide (d < 128) && decide (a < 128) && laneWidth 32 w
  | .fexp2 w d a => decide (w < 8) && decide (d < 128) && decide (a < 128) && laneWidth 32 w
  | .flog2 w d a => decide (w < 8) && decide (d < 128) && decide (a < 128) && laneWidth 32 w
  | .fcmpeq w d a b => decide (w < 8) && decide (d < 128) && decide (a < 128) && decide (b < 128) && laneWidth 32 w
  | .fcmplt w d a b => decide (w < 8) && decide (d < 128) && decide (a < 128) && decide (b < 128) && laneWidth 32 w
  | .fcmple w d a b => decide (w < 8) && decide (d < 128) && decide (a < 128) && decide (b < 128) && laneWidth 32 w
  | .fclass w d a => decide (w < 8) && decide (d < 128) && decide (a < 128) && laneWidth 32 w
  | .raddf w d a => decide (w < 8) && decide (d < 128) && decide (a < 128) && laneWidth 32 w
  | .badd w d a b => decide (w < 8) && decide (d < 128) && decide (a < 128) && decide (b < 128) && laneWidth 16 w
  | .bmul w d a b => decide (w < 8) && decide (d < 128) && decide (a < 128) && decide (b < 128) && laneWidth 16 w
  | .bfma w d a b => decide (w < 8) && decide (d < 128) && decide (a < 128) && decide (b < 128) && laneWidth 16 w
  | .bmax w d a b => decide (w < 8) && decide (d < 128) && decide (a < 128) && decide (b < 128) && laneWidth 16 w
  | .bmin w d a b => decide (w < 8) && decide (d < 128) && decide (a < 128) && decide (b < 128) && laneWidth 16 w
  | .cvt w d a t s => decide (w < 8) && decide (d < 128) && decide (a < 128) && decide (t < 8) && decide (s < 8) && convCode w t s
  | .cvtsr w d a t s => decide (w < 8) && decide (d < 128) && decide (a < 128) && decide (t < 8) && decide (s < 8) && convCodeSR w t s
  | .scacc w d a b => decide (w < 8) && decide (d < 128) && decide (a < 128) && decide (b < 128) && laneWidth 32 w
  | .aadd d a b => decide (d < 32) && decide (a < 32) && decide (b < 32)
  | .asub d a b => decide (d < 32) && decide (a < 32) && decide (b < 32)
  | .aaddi d a i => decide (d < 32) && decide (a < 32) && decide (i < 16384)
  | .amul d a b => decide (d < 32) && decide (a < 32) && decide (b < 32)
  | .aand d a b => decide (d < 32) && decide (a < 32) && decide (b < 32)
  | .aor d a b => decide (d < 32) && decide (a < 32) && decide (b < 32)
  | .axor d a b => decide (d < 32) && decide (a < 32) && decide (b < 32)
  | .ashli d a i => decide (d < 32) && decide (a < 32) && decide (i < 16384) && decide (i < 64)
  | .ashri d a i => decide (d < 32) && decide (a < 32) && decide (i < 16384) && decide (i < 64)
  | .asari d a i => decide (d < 32) && decide (a < 32) && decide (i < 16384) && decide (i < 64)
  | .aslt d a b => decide (d < 32) && decide (a < 32) && decide (b < 32)
  | .asltu d a b => decide (d < 32) && decide (a < 32) && decide (b < 32)
  | .amovi d i => decide (d < 32) && decide (i < 16384)
  | .aupi d i => decide (d < 32) && decide (i < 16384)
  | .amov d a => decide (d < 32) && decide (a < 32)
  | .apushq q a => decide (q < 32) && decide (a < 32) && decide (q ≤ 1)
  | .apopq d => decide (d < 32)
  | .cbase d a b => decide (d < 32) && decide (a < 32) && decide (b < 32)
  | .clen d a b => decide (d < 32) && decide (a < 32) && decide (b < 32)
  | .cperm d a b => decide (d < 32) && decide (a < 32) && decide (b < 32)
  | .cget d a f => decide (d < 32) && decide (a < 32) && decide (f < 512) && decide (f ≤ 4)
  | .cclr d a => decide (d < 32) && decide (a < 32)
  | .ld q c o z s r p => decide (q < 32) && decide (c < 32) && decide (o < 32) && decide (z < 8) && decide (s < 2) && decide (r < 4) && decide (p < 8) && decide (q ≤ 1) && sizeSign z s && ordScope r p
  | .ldx q c o z s r p => decide (q < 32) && decide (c < 32) && decide (o < 32) && decide (z < 8) && decide (s < 2) && decide (r < 4) && decide (p < 8) && decide (q ≤ 1) && sizeSign z s && ordScope r p
  | .lda d c o z s r p => decide (d < 32) && decide (c < 32) && decide (o < 32) && decide (z < 8) && decide (s < 2) && decide (r < 4) && decide (p < 8) && sizeSign z s && ordScope r p
  | .ldc d c o r p => decide (d < 32) && decide (c < 32) && decide (o < 32) && decide (r < 4) && decide (p < 8) && decide (r ≤ 1) && ordScope r p
  | .ldnib q c o z s => decide (q < 32) && decide (c < 32) && decide (o < 32) && decide (z < 8) && decide (s < 2) && decide (q ≤ 1) && sizeSign z s
  | .st c o z r p => decide (c < 32) && decide (o < 32) && decide (z < 8) && decide (r < 4) && decide (p < 8) && decide (z ≤ 4) && ordScope r p
  | .stm m c o r p => decide (m < 32) && decide (c < 32) && decide (o < 32) && decide (r < 4) && decide (p < 8) && ordScope r p
  | .stx c o z r p => decide (c < 32) && decide (o < 32) && decide (z < 8) && decide (r < 4) && decide (p < 8) && decide (z ≤ 4) && ordScope r p
  | .sta d c o z r p => decide (d < 32) && decide (c < 32) && decide (o < 32) && decide (z < 8) && decide (r < 4) && decide (p < 8) && decide (z ≤ 4) && ordScope r p
  | .stc d c o r p => decide (d < 32) && decide (c < 32) && decide (o < 32) && decide (r < 4) && decide (p < 8) && decide (r ≤ 1) && ordScope r p
  | .stnib c o z => decide (c < 32) && decide (o < 32) && decide (z < 8) && decide (z ≤ 4)
  | .amo d a b f z o p => decide (d < 32) && decide (a < 32) && decide (b < 32) && decide (f < 16) && decide (z < 2) && decide (o < 2) && decide (p < 8) && decide (f ≤ 8) && amoOrd o p
  | .amocas d a b z o p => decide (d < 16) && decide (a < 32) && decide (b < 32) && decide (z < 2) && decide (o < 2) && decide (p < 8) && amoOrd o p
  | .fenceAcq p => decide (p < 8) && decide (p ≤ 5)
  | .fenceRel p => decide (p < 8) && decide (p ≤ 5)
  | .fenceAr p => decide (p < 8) && decide (p ≤ 5)
  | .xfence p => decide (p < 8) && decide (1 ≤ p) && decide (p ≤ 5)
  | .bmov d a b => decide (d < 32) && decide (a < 32) && decide (b < 32) && bmovRegs d a b
  | .rep q a b z s t => decide (q < 32) && decide (a < 32) && decide (b < 32) && decide (z < 8) && decide (s < 2) && decide (t < 2) && repFields q a b z s t
  | .csrr d i => decide (d < 32) && decide (i < 16384) && decide (i < 4096)
  | .csrw d a i => decide (d < 32) && decide (a < 32) && decide (i < 16384) && decide (i < 4096)
  | .beq a b d => decide (a < 32) && decide (b < 32) && decide (d < 16384)
  | .bne a b d => decide (a < 32) && decide (b < 32) && decide (d < 16384)
  | .blt a b d => decide (a < 32) && decide (b < 32) && decide (d < 16384)
  | .bge a b d => decide (a < 32) && decide (b < 32) && decide (d < 16384)
  | .bltu a b d => decide (a < 32) && decide (b < 32) && decide (d < 16384)
  | .bgeu a b d => decide (a < 32) && decide (b < 32) && decide (d < 16384)
  | .bxq d => decide (d < 16384)
  | .bxqz d => decide (d < 16384)
  | .j t => decide (t < 16384)
  | .call t => decide (t < 16384)
  | .ret => true
  | .jr a => decide (a < 32)
  | .loop a l => decide (a < 32) && decide (l < 4096) && decide (1 ≤ l)
  | .endAct => true
  | .ecall c => decide (c < 16777216)
  | .brk c => decide (c < 16777216)
  | .send a b r h => decide (a < 32) && decide (b < 32) && decide (r < 2) && decide (h < 256) && sendFields r h b
  | .sende a b p => decide (a < 32) && decide (b < 32) && decide (p < 2) && decide (p = 1 ∨ b = 0)
  | .reply a => decide (a < 32)
  | .jarrive a b p => decide (a < 32) && decide (b < 32) && decide (p < 8) && decide (p ≤ 5)
  | .gang n => decide (n < 16384) && (decide (n = 2) || decide (n = 4) || decide (n = 8))
  | .disband => true
  | .stacq d a b r => decide (d < 32) && decide (a < 32) && decide (b < 32) && decide (r < 2)
  | .strel d a b => decide (d < 32) && decide (a < 32) && decide (b < 32)
  | .dqpush a b => decide (a < 32) && decide (b < 32)
  | .dqpop d => decide (d < 16) && decide (1 ≤ d)
  | .dqsplit => true
  | .dqsteal d a => decide (d < 16) && decide (a < 32) && decide (1 ≤ d)
  | .tlwait a x => decide (a < 32) && decide (x < 256)
  | .tlread d s x => decide (d < 32) && decide (s < 2) && decide (x < 256)
  | .evsig p l => decide (p < 8) && decide (l < 32) && decide (p ≤ 5)
  | .eret => true
  | .eretEnd => true
  | .wfi => true
  | .nop => true
  | .himm v => decide (v < 16777216)
  | .hwid a b s t => decide (a < 8) && decide (b < 8) && decide (s < 2) && decide (t < 2)
  | .hmod m s => decide (m < 8) && decide (s < 2) && decide (m ≤ 5)
  | .hyld => true
  | .macq a k => decide (a < 32) && decide (k < 4)
  | .mrel a k => decide (a < 32) && decide (k < 4)
  | .mrelRes a k => decide (a < 32) && decide (k < 4)
  | .mrelAbn a k => decide (a < 32) && decide (k < 4)
  | .mldb d a b m k => decide (d < 32) && decide (a < 32) && decide (b < 32) && decide (m < 2) && decide (k < 4) && decide (1 ≤ b) && decide (b ≤ 30)
  | .mspec d a b m k => decide (d < 32) && decide (a < 32) && decide (b < 32) && decide (m < 2) && decide (k < 4) && decide (1 ≤ b) && decide (b ≤ 30)
  | .mzero d a m k => decide (d < 32) && decide (a < 32) && decide (m < 2) && decide (k < 4)
  | .mma d a b m k => decide (d < 32) && decide (a < 32) && decide (b < 32) && decide (m < 2) && decide (k < 4) && decide (1 ≤ b) && decide (b ≤ 29)
  | .lnscfg k => decide (k < 4)
  | .mmas d a b m k => decide (d < 32) && decide (a < 32) && decide (b < 32) && decide (m < 2) && decide (k < 4) && decide (1 ≤ b) && decide (b ≤ 29)
  | .mrd q a k => decide (q < 32) && decide (a < 32) && decide (k < 4) && decide (q ≤ 1)
  | .mrdFlg q a k => decide (q < 32) && decide (a < 32) && decide (k < 4) && decide (q ≤ 1)
  | .mcopy d a b m k => decide (d < 32) && decide (a < 32) && decide (b < 32) && decide (m < 2) && decide (k < 4) && decide (1 ≤ b) && decide (b ≤ 30)
  | .chbond a r k => decide (a < 32) && decide (r < 16) && decide (k < 4)
  | .chprog a b k => decide (a < 32) && decide (b < 32) && decide (k < 4)
  | .chprogKeep a b k => decide (a = 0) && decide (b < 32) && decide (k < 4)
  | .chrunStart d m k => decide (d < 32) && decide (m < 2) && decide (k < 4)
  | .chrunResume a k => decide (a < 32) && decide (k < 4)
  | .chrunAbn a k => decide (a < 32) && decide (k < 4)
  | .chstat d s k => decide (d < 32) && decide (s < 16) && decide (k < 4) && decide (s ≤ 10)
  | .chgrad a b k => decide (a < 32) && decide (b < 32) && decide (k < 4)
  | .grset a b k => decide (a < 32) && decide (b < 32) && decide (k < 4)
  | .grred d a b o m k => decide (d < 32) && decide (a < 32) && decide (b < 32) && decide (o < 64) && decide (m < 2) && decide (k < 4) && redOp o
  | .grscan d a b o m k => decide (d < 32) && decide (a < 32) && decide (b < 32) && decide (o < 32) && decide (m < 2) && decide (k < 4) && decide (o ≤ 12)
  | .grscanX d a b o m k => decide (d < 32) && decide (a < 32) && decide (b < 32) && decide (o < 32) && decide (m < 2) && decide (k < 4) && decide (o ≤ 12) && decide (1 ≤ b) && decide (b ≤ 30)
  | .grmv d a b m k => decide (d < 32) && decide (a < 32) && decide (b < 32) && decide (m < 2) && decide (k < 4) && decide (1 ≤ b) && decide (b ≤ 29)
  | .grat d a b o m k => decide (d < 32) && decide (a < 32) && decide (b < 32) && decide (o < 32) && decide (m < 2) && decide (k < 4) && decide (o ≤ 12) && decide (1 ≤ b) && decide (b ≤ 30)
  | .grstat d s k => decide (d < 32) && decide (s < 16) && decide (k < 4) && decide (s ≤ 10)
  | .grstatRes a k => decide (a < 32) && decide (k < 4)
  | .grstatAbn a k => decide (a < 32) && decide (k < 4)
  | .cpy d a b m c => decide (d < 32) && decide (a < 32) && decide (b < 32) && decide (m < 2) && decide (c < 8)
  | .cpywp d a c => decide (d < 32) && decide (a < 32) && decide (c < 8)
  | .cpychkCheck d a b c => decide (d < 32) && decide (a < 32) && decide (b < 32) && decide (c < 8)
  | .cpychkRes a c => decide (a < 32) && decide (c < 8)
  | .cpychkAbn a c => decide (a < 32) && decide (c < 8)
  | .illegalInstruction _ => true
  | .fetch core ctx => decide (core < 8192) && decide (ctx < 8)
  | .xResultLand core ctx _ => decide (core < 8192) && decide (ctx < 8)
  | .queueStarved core ctx half => decide (core < 8192) && decide (ctx < 8) && decide (half < 2)
  | .loadDataReturn _ => true
  | .storeAck _ => true
  | .homePerform _ => true
  | .caeCheckIn clu => decide (clu < 256)
  | .stageGrant _ => true
  | .sidingStealServe core => decide (core < 8192)
  | .lateAccessFault _ => true
  | .translationWalkDone core ctx =>
    (decide (core < 8192) && decide (ctx < 8)) || (decide (8192 ≤ core) && decide (core < 8448) && contextNumber ctx)
  | .wcBufferTimeout clu _ => decide (clu < 256)
  | .messageArrival _ => true
  | .outboundDepart core => decide (core < 8192)
  | .admission core => decide (core < 8192)
  | .copyOut core ctx => decide (core < 8192) && decide (ctx < 8)
  | .activationRestore core => decide (core < 8192)
  | .activationPark core ctx => decide (core < 8192) && decide (ctx < 8)
  | .trapActivationStart core => decide (core < 8192)
  | .engineCommandArrival _ => true
  | .copyOpBegin clu k => decide (clu < 256) && decide (k < 8)
  | .copyRowDelivered clu k => decide (clu < 256) && decide (k < 8)
  | .copyOpPerformed clu k => decide (clu < 256) && decide (k < 8)
  | .matrixOpBegin clu k => decide (clu < 256) && decide (k < 4)
  | .mmaIteration clu k => decide (clu < 256) && decide (k < 4)
  | .matrixOpPerformed clu k => decide (clu < 256) && decide (k < 4)
  | .macroReload clu ctxId => decide (clu < 256) && contextNumber ctxId
  | .chainRunBegin clu k => decide (clu < 256) && decide (k < 4)
  | .chainStep clu k => decide (clu < 256) && decide (k < 4)
  | .grammarOpBegin clu k => decide (clu < 256) && decide (k < 4)
  | .grammarOpPerformed clu k => decide (clu < 256) && decide (k < 4)
  | .engineFaultPark clu ctxId => decide (clu < 256) && contextNumber ctxId
  | .enginePreemptStop clu ctxId => decide (clu < 256) && contextNumber ctxId
  | .signalBoxFire clu => decide (clu < 256)
  | .timerPulse clu k => decide (clu < 256) && decide (k < 8)
  | .encoderFrameDone clu k => decide (clu < 256) && decide (k < 8)
  | .encbindBind vf _ => decide (vf < 256)
  | .encbindUnbind vf _ => decide (vf < 256)
  | .create part vf => decide (part < 64) && decide (vf < 256)
  | .partitionClearDone part => decide (part < 64)
  | .destroy part vf => decide (part < 64) && decide (vf < 256)
  | .bindvf part vf => decide (part < 64) && decide (vf < 256)
  | .unbindvf part vf => decide (part < 64) && decide (vf < 256)
  | .partitionBadCommand _ => true
  | .door vf _ => decide (vf < 256)
  | .slotWrite vf k _ => decide (vf < 256) && decide (k < 8)
  | .launch vf k => decide (vf < 256) && decide (k < 8)
  | .launchFirstMessages vf k => decide (vf < 256) && decide (k < 8)
  | .register vf k => decide (vf < 256) && decide (k < 8)
  | .regionEnd vf k => decide (vf < 256) && decide (k < 8)
  | .prepare vf k => decide (vf < 256) && decide (k < 8)
  | .prepareReceive pkg _ => decide (pkg < 16)
  | .prepareAckReceive pkg => decide (pkg < 16)
  | .prepareTimeout => true
  | .commit => true
  | .abort => true
  | .quantumBoundary clu => decide (clu < 256)
  | .contractRelease part off => decide (part < 64) && decide (off < 2 ^ 24)
  | .deadlineExpiry part off => decide (part < 64) && decide (off < 2 ^ 24)
  | .budgetExhausted part off => decide (part < 64) && decide (off < 2 ^ 24)
  | .jobComplete part off => decide (part < 64) && decide (off < 2 ^ 24)
  | .energyCharge => true
  | .energyWindowBoundary part off => decide (part < 64) && decide (off < 2 ^ 24)
  | .lazyUnitRestore _ => true
  | .clusterPowerGate clu => decide (clu < 256)
  | .clusterWake clu => decide (clu < 256)
  | .deviceReset => true
  | .selfTestPass fn => decide (fn < 314)
  | .unitFailure _ _ => true
  | .uncorrectableMemory core ctx _ _ =>
    (decide (core < 8192) && decide (ctx < 8)) || (decide (8192 ≤ core) && decide (core < 8448) && contextNumber ctx)
  | .linkDown link => decide (link < 12)
  | .cxlMemRead vf _ _ => decide (vf < 256)
  | .cxlMemWrite vf _ _ _ => decide (vf < 256)
  | .getVersion fn => decide (fn ≤ 256)
  | .getCapabilities fn => decide (fn ≤ 256)
  | .negotiateAlgorithms fn _ => decide (fn ≤ 256)
  | .getDigests fn => decide (fn ≤ 256)
  | .getCertificate fn _ => decide (fn ≤ 256)
  | .challenge fn _ => decide (fn ≤ 256)
  | .getMeasurements fn _ => decide (fn ≤ 256)
  | .keyExchange fn _ => decide (fn ≤ 256)
  | .finish fn => decide (fn ≤ 256)
  | .debugTokenSubmit vf => decide (vf < 256)
  | .debugScopeRevoke vf => decide (vf < 256)
  | .debugScopeExpiry vf => decide (vf < 256)
  | .dbgdataWrite vf _ => decide (vf < 256)
  | .dbgdataRead vf => decide (vf < 256)
  | .halt core => decide (core < 8192)
  | .debugResume core => decide (core < 8192)
  | .step core ctx => decide (core < 8192) && decide (ctx < 8)
  | .stepdone core => decide (core < 8192)
  | .xbWrite core _ => decide (core < 8192)
  | .seedWrite core _ => decide (core < 8192)
  | .lotstateWrite core _ => decide (core < 8192)
  | .issuepolWrite core _ => decide (core < 8192)
  | .sbdataWrite core _ => decide (core < 8192)
  | .overrunClear clu k => decide (clu < 256) && decide (k < 32)
  | .trdstWrite core _ => decide (core < 8192)
  | .clear core => decide (core < 8192)
  | .xflagsWrite core _ => decide (core < 8192)
  | .traceDrain clu => decide (clu < 256)
  | .registerWrite core _ _ => decide (core < 8192)
  | .prepareRefusalReceive pkg _ => decide (pkg < 16)

end Sys2Proof
end

