-- ==== Sys2Proof/Decode.lean ====
section
/-! DEFINITION. Words to instructions and back. `decode` is total on words: it splits the opcode byte by its two
hexadecimal digits (03 R56), takes the fields of the opcode's format (03 R42), refuses by name an unassigned opcode
(03 R59) and a word whose unused field is not zero or whose field value is reserved (03 R43 to R46, R60).
`encode` writes the same layouts. Events have no encoding. -/

namespace Sys2Proof

/-- Why a word is no instruction. -/
inductive Reject where
  /-- An unassigned opcode (03 R59). -/
  | unassigned (word : Nat)
  /-- An assigned opcode with a field that must be zero, or a reserved field value (03 R43, R60). -/
  | reserved (word : Nat)
  /-- Fewer than four bytes. -/
  | tooShort
  deriving DecidableEq, Repr

/-- The field of `n` bits of `w` whose lowest bit is `lo` (00 R5). -/
def fld (w lo n : Nat) : Nat := w / 2 ^ lo % 2 ^ n

/-- The opcodes 0x00 to 0x0F (03 R56), the low hexadecimal digit `lo`. -/
def decodeRow0 (lo w : Nat) : Except Reject Instr :=
  match lo with
  | 1 => .ok (.add (fld w 21 3) (fld w 14 7) (fld w 7 7) (fld w 0 7))
  | 2 => .ok (.sub (fld w 21 3) (fld w 14 7) (fld w 7 7) (fld w 0 7))
  | 3 => .ok (.addi (fld w 21 3) (fld w 14 7) (fld w 7 7) (fld w 0 7))
  | 4 => .ok (.mul (fld w 21 3) (fld w 14 7) (fld w 7 7) (fld w 0 7))
  | 5 => .ok (.mulh (fld w 21 3) (fld w 14 7) (fld w 7 7) (fld w 0 7))
  | 6 => .ok (.mulhu (fld w 21 3) (fld w 14 7) (fld w 7 7) (fld w 0 7))
  | 7 => .ok (.mulw (fld w 21 3) (fld w 14 7) (fld w 7 7) (fld w 0 7))
  | 8 => .ok (.mulwu (fld w 21 3) (fld w 14 7) (fld w 7 7) (fld w 0 7))
  | 9 => .ok (.div (fld w 21 3) (fld w 14 7) (fld w 7 7) (fld w 0 7))
  | 10 => .ok (.divu (fld w 21 3) (fld w 14 7) (fld w 7 7) (fld w 0 7))
  | 11 => .ok (.rem (fld w 21 3) (fld w 14 7) (fld w 7 7) (fld w 0 7))
  | 12 => .ok (.remu (fld w 21 3) (fld w 14 7) (fld w 7 7) (fld w 0 7))
  | 13 => .ok (.min (fld w 21 3) (fld w 14 7) (fld w 7 7) (fld w 0 7))
  | 14 => .ok (.max (fld w 21 3) (fld w 14 7) (fld w 7 7) (fld w 0 7))
  | 15 => .ok (.minu (fld w 21 3) (fld w 14 7) (fld w 7 7) (fld w 0 7))
  | _ => .error (.unassigned w)

/-- The opcodes 0x10 to 0x1F (03 R56), the low hexadecimal digit `lo`. -/
def decodeRow1 (lo w : Nat) : Except Reject Instr :=
  match lo with
  | 0 => .ok (.maxu (fld w 21 3) (fld w 14 7) (fld w 7 7) (fld w 0 7))
  | 1 => .ok (.adds (fld w 21 3) (fld w 14 7) (fld w 7 7) (fld w 0 7))
  | 2 => .ok (.addus (fld w 21 3) (fld w 14 7) (fld w 7 7) (fld w 0 7))
  | 3 => .ok (.subs (fld w 21 3) (fld w 14 7) (fld w 7 7) (fld w 0 7))
  | 4 => .ok (.subus (fld w 21 3) (fld w 14 7) (fld w 7 7) (fld w 0 7))
  | 5 => if fld w 0 7 == 0 then .ok (.neg (fld w 21 3) (fld w 14 7) (fld w 7 7)) else .error (.reserved w)
  | 6 => if fld w 0 7 == 0 then .ok (.abs (fld w 21 3) (fld w 14 7) (fld w 7 7)) else .error (.reserved w)
  | 7 => .ok (.and (fld w 21 3) (fld w 14 7) (fld w 7 7) (fld w 0 7))
  | 8 => .ok (.or (fld w 21 3) (fld w 14 7) (fld w 7 7) (fld w 0 7))
  | 9 => .ok (.xor (fld w 21 3) (fld w 14 7) (fld w 7 7) (fld w 0 7))
  | 10 => .ok (.andn (fld w 21 3) (fld w 14 7) (fld w 7 7) (fld w 0 7))
  | 11 => .ok (.andi (fld w 21 3) (fld w 14 7) (fld w 7 7) (fld w 0 7))
  | 12 => .ok (.ori (fld w 21 3) (fld w 14 7) (fld w 7 7) (fld w 0 7))
  | 13 => .ok (.xori (fld w 21 3) (fld w 14 7) (fld w 7 7) (fld w 0 7))
  | 14 => .ok (.shl (fld w 21 3) (fld w 14 7) (fld w 7 7) (fld w 0 7))
  | 15 => .ok (.shr (fld w 21 3) (fld w 14 7) (fld w 7 7) (fld w 0 7))
  | _ => .error (.unassigned w)

/-- The opcodes 0x20 to 0x2F (03 R56), the low hexadecimal digit `lo`. -/
def decodeRow2 (lo w : Nat) : Except Reject Instr :=
  match lo with
  | 0 => .ok (.sar (fld w 21 3) (fld w 14 7) (fld w 7 7) (fld w 0 7))
  | 1 => .ok (.shli (fld w 21 3) (fld w 14 7) (fld w 7 7) (fld w 0 7))
  | 2 => .ok (.shri (fld w 21 3) (fld w 14 7) (fld w 7 7) (fld w 0 7))
  | 3 => .ok (.sari (fld w 21 3) (fld w 14 7) (fld w 7 7) (fld w 0 7))
  | 4 => .ok (.rol (fld w 21 3) (fld w 14 7) (fld w 7 7) (fld w 0 7))
  | 5 => .ok (.roli (fld w 21 3) (fld w 14 7) (fld w 7 7) (fld w 0 7))
  | 6 => .ok (.fshl (fld w 21 3) (fld w 14 7) (fld w 7 7) (fld w 0 7))
  | 7 => .ok (.fshr (fld w 21 3) (fld w 14 7) (fld w 7 7) (fld w 0 7))
  | 8 => .ok (.sel (fld w 21 3) (fld w 14 7) (fld w 7 7) (fld w 0 7))
  | 9 => .ok (.seq (fld w 21 3) (fld w 14 7) (fld w 7 7) (fld w 0 7))
  | 10 => .ok (.sne (fld w 21 3) (fld w 14 7) (fld w 7 7) (fld w 0 7))
  | 11 => .ok (.slt (fld w 21 3) (fld w 14 7) (fld w 7 7) (fld w 0 7))
  | 12 => .ok (.sltu (fld w 21 3) (fld w 14 7) (fld w 7 7) (fld w 0 7))
  | 13 => .ok (.sle (fld w 21 3) (fld w 14 7) (fld w 7 7) (fld w 0 7))
  | 14 => .ok (.sleu (fld w 21 3) (fld w 14 7) (fld w 7 7) (fld w 0 7))
  | 15 => .ok (.seqi (fld w 21 3) (fld w 14 7) (fld w 7 7) (fld w 0 7))
  | _ => .error (.unassigned w)

/-- The opcodes 0x30 to 0x3F (03 R56), the low hexadecimal digit `lo`. -/
def decodeRow3 (lo w : Nat) : Except Reject Instr :=
  match lo with
  | 0 => .ok (.slti (fld w 21 3) (fld w 14 7) (fld w 7 7) (fld w 0 7))
  | 1 => if fld w 0 7 == 0 then .ok (.mov (fld w 21 3) (fld w 14 7) (fld w 7 7)) else .error (.reserved w)
  | 2 => if fld w 7 7 == 0 then .ok (.movi (fld w 21 3) (fld w 14 7) (fld w 0 7)) else .error (.reserved w)
  | 3 => .ok (.exts (fld w 21 3) (fld w 14 7) (fld w 7 7) (fld w 0 7))
  | 4 => .ok (.extz (fld w 21 3) (fld w 14 7) (fld w 7 7) (fld w 0 7))
  | 5 => if fld w 0 7 == 0 then .ok (.clz (fld w 21 3) (fld w 14 7) (fld w 7 7)) else .error (.reserved w)
  | 6 => if fld w 0 7 == 0 then .ok (.ctz (fld w 21 3) (fld w 14 7) (fld w 7 7)) else .error (.reserved w)
  | 7 => if fld w 0 7 == 0 then .ok (.popc (fld w 21 3) (fld w 14 7) (fld w 7 7)) else .error (.reserved w)
  | 8 => if fld w 0 7 == 0 then .ok (.brev (fld w 21 3) (fld w 14 7) (fld w 7 7)) else .error (.reserved w)
  | 9 => .ok (.bext (fld w 21 3) (fld w 14 7) (fld w 7 7) (fld w 0 7))
  | 10 => .ok (.bexts (fld w 21 3) (fld w 14 7) (fld w 7 7) (fld w 0 7))
  | 11 => .ok (.bdep (fld w 21 3) (fld w 14 7) (fld w 7 7) (fld w 0 7))
  | _ => .error (.unassigned w)

/-- The opcodes 0x40 to 0x4F (03 R56), the low hexadecimal digit `lo`. -/
def decodeRow4 (lo w : Nat) : Except Reject Instr :=
  match lo with
  | 0 => .ok (.paddL4 (fld w 21 3) (fld w 14 7) (fld w 7 7) (fld w 0 7))
  | 1 => .ok (.paddL8 (fld w 21 3) (fld w 14 7) (fld w 7 7) (fld w 0 7))
  | 2 => .ok (.paddL16 (fld w 21 3) (fld w 14 7) (fld w 7 7) (fld w 0 7))
  | 3 => .ok (.paddL32 (fld w 21 3) (fld w 14 7) (fld w 7 7) (fld w 0 7))
  | 4 => .ok (.psubL4 (fld w 21 3) (fld w 14 7) (fld w 7 7) (fld w 0 7))
  | 5 => .ok (.psubL8 (fld w 21 3) (fld w 14 7) (fld w 7 7) (fld w 0 7))
  | 6 => .ok (.psubL16 (fld w 21 3) (fld w 14 7) (fld w 7 7) (fld w 0 7))
  | 7 => .ok (.psubL32 (fld w 21 3) (fld w 14 7) (fld w 7 7) (fld w 0 7))
  | 8 => .ok (.pmaxuL4 (fld w 21 3) (fld w 14 7) (fld w 7 7) (fld w 0 7))
  | 9 => .ok (.pmaxuL8 (fld w 21 3) (fld w 14 7) (fld w 7 7) (fld w 0 7))
  | 10 => .ok (.pmaxuL16 (fld w 21 3) (fld w 14 7) (fld w 7 7) (fld w 0 7))
  | 11 => .ok (.pmaxuL32 (fld w 21 3) (fld w 14 7) (fld w 7 7) (fld w 0 7))
  | 12 => .ok (.pminuL4 (fld w 21 3) (fld w 14 7) (fld w 7 7) (fld w 0 7))
  | 13 => .ok (.pminuL8 (fld w 21 3) (fld w 14 7) (fld w 7 7) (fld w 0 7))
  | 14 => .ok (.pminuL16 (fld w 21 3) (fld w 14 7) (fld w 7 7) (fld w 0 7))
  | 15 => .ok (.pminuL32 (fld w 21 3) (fld w 14 7) (fld w 7 7) (fld w 0 7))
  | _ => .error (.unassigned w)

/-- The opcodes 0x50 to 0x5F (03 R56), the low hexadecimal digit `lo`. -/
def decodeRow5 (lo w : Nat) : Except Reject Instr :=
  match lo with
  | 0 => .ok (.pmaxsL4 (fld w 21 3) (fld w 14 7) (fld w 7 7) (fld w 0 7))
  | 1 => .ok (.pmaxsL8 (fld w 21 3) (fld w 14 7) (fld w 7 7) (fld w 0 7))
  | 2 => .ok (.pmaxsL16 (fld w 21 3) (fld w 14 7) (fld w 7 7) (fld w 0 7))
  | 3 => .ok (.pmaxsL32 (fld w 21 3) (fld w 14 7) (fld w 7 7) (fld w 0 7))
  | 4 => .ok (.pminsL4 (fld w 21 3) (fld w 14 7) (fld w 7 7) (fld w 0 7))
  | 5 => .ok (.pminsL8 (fld w 21 3) (fld w 14 7) (fld w 7 7) (fld w 0 7))
  | 6 => .ok (.pminsL16 (fld w 21 3) (fld w 14 7) (fld w 7 7) (fld w 0 7))
  | 7 => .ok (.pminsL32 (fld w 21 3) (fld w 14 7) (fld w 7 7) (fld w 0 7))
  | 8 => .ok (.paddssL4 (fld w 21 3) (fld w 14 7) (fld w 7 7) (fld w 0 7))
  | 9 => .ok (.paddssL8 (fld w 21 3) (fld w 14 7) (fld w 7 7) (fld w 0 7))
  | 10 => .ok (.paddssL16 (fld w 21 3) (fld w 14 7) (fld w 7 7) (fld w 0 7))
  | 11 => .ok (.paddssL32 (fld w 21 3) (fld w 14 7) (fld w 7 7) (fld w 0 7))
  | 12 => .ok (.rmaxuL4 (fld w 21 3) (fld w 14 7) (fld w 7 7) (fld w 0 7))
  | 13 => .ok (.rmaxuL8 (fld w 21 3) (fld w 14 7) (fld w 7 7) (fld w 0 7))
  | 14 => .ok (.rmaxuL16 (fld w 21 3) (fld w 14 7) (fld w 7 7) (fld w 0 7))
  | 15 => .ok (.rmaxuL32 (fld w 21 3) (fld w 14 7) (fld w 7 7) (fld w 0 7))
  | _ => .error (.unassigned w)

/-- The opcodes 0x60 to 0x6F (03 R56), the low hexadecimal digit `lo`. -/
def decodeRow6 (lo w : Nat) : Except Reject Instr :=
  match lo with
  | 0 => .ok (.fadd (fld w 21 3) (fld w 14 7) (fld w 7 7) (fld w 0 7))
  | 1 => .ok (.fsub (fld w 21 3) (fld w 14 7) (fld w 7 7) (fld w 0 7))
  | 2 => .ok (.fmul (fld w 21 3) (fld w 14 7) (fld w 7 7) (fld w 0 7))
  | 3 => .ok (.fma (fld w 21 3) (fld w 14 7) (fld w 7 7) (fld w 0 7))
  | 4 => .ok (.fmulz (fld w 21 3) (fld w 14 7) (fld w 7 7) (fld w 0 7))
  | 5 => .ok (.fmin (fld w 21 3) (fld w 14 7) (fld w 7 7) (fld w 0 7))
  | 6 => .ok (.fmax (fld w 21 3) (fld w 14 7) (fld w 7 7) (fld w 0 7))
  | 7 => if fld w 0 7 == 0 then .ok (.frcp (fld w 21 3) (fld w 14 7) (fld w 7 7)) else .error (.reserved w)
  | 8 => if fld w 0 7 == 0 then .ok (.frsq (fld w 21 3) (fld w 14 7) (fld w 7 7)) else .error (.reserved w)
  | 9 => if fld w 0 7 == 0 then .ok (.fexp2 (fld w 21 3) (fld w 14 7) (fld w 7 7)) else .error (.reserved w)
  | 10 => if fld w 0 7 == 0 then .ok (.flog2 (fld w 21 3) (fld w 14 7) (fld w 7 7)) else .error (.reserved w)
  | 11 => .ok (.fcmpeq (fld w 21 3) (fld w 14 7) (fld w 7 7) (fld w 0 7))
  | 12 => .ok (.fcmplt (fld w 21 3) (fld w 14 7) (fld w 7 7) (fld w 0 7))
  | 13 => .ok (.fcmple (fld w 21 3) (fld w 14 7) (fld w 7 7) (fld w 0 7))
  | 14 => if fld w 0 7 == 0 then .ok (.fclass (fld w 21 3) (fld w 14 7) (fld w 7 7)) else .error (.reserved w)
  | 15 => if fld w 0 7 == 0 then .ok (.raddf (fld w 21 3) (fld w 14 7) (fld w 7 7)) else .error (.reserved w)
  | _ => .error (.unassigned w)

/-- The opcodes 0x70 to 0x7F (03 R56), the low hexadecimal digit `lo`. -/
def decodeRow7 (lo w : Nat) : Except Reject Instr :=
  match lo with
  | 0 => .ok (.badd (fld w 21 3) (fld w 14 7) (fld w 7 7) (fld w 0 7))
  | 1 => .ok (.bmul (fld w 21 3) (fld w 14 7) (fld w 7 7) (fld w 0 7))
  | 2 => .ok (.bfma (fld w 21 3) (fld w 14 7) (fld w 7 7) (fld w 0 7))
  | 3 => .ok (.bmax (fld w 21 3) (fld w 14 7) (fld w 7 7) (fld w 0 7))
  | 4 => .ok (.bmin (fld w 21 3) (fld w 14 7) (fld w 7 7) (fld w 0 7))
  | 5 => if fld w 6 1 == 0 then .ok (.cvt (fld w 21 3) (fld w 14 7) (fld w 7 7) (fld w 3 3) (fld w 0 3)) else .error (.reserved w)
  | 6 => if fld w 6 1 == 0 then .ok (.cvtsr (fld w 21 3) (fld w 14 7) (fld w 7 7) (fld w 3 3) (fld w 0 3)) else .error (.reserved w)
  | 7 => .ok (.scacc (fld w 21 3) (fld w 14 7) (fld w 7 7) (fld w 0 7))
  | _ => .error (.unassigned w)

/-- The opcodes 0x80 to 0x8F (03 R56), the low hexadecimal digit `lo`. -/
def decodeRow8 (lo w : Nat) : Except Reject Instr :=
  match lo with
  | 0 => if fld w 0 9 == 0 then .ok (.aadd (fld w 19 5) (fld w 14 5) (fld w 9 5)) else .error (.reserved w)
  | 1 => if fld w 0 9 == 0 then .ok (.asub (fld w 19 5) (fld w 14 5) (fld w 9 5)) else .error (.reserved w)
  | 2 => .ok (.aaddi (fld w 19 5) (fld w 14 5) (fld w 0 14))
  | 3 => if fld w 0 9 == 0 then .ok (.amul (fld w 19 5) (fld w 14 5) (fld w 9 5)) else .error (.reserved w)
  | 4 => if fld w 0 9 == 0 then .ok (.aand (fld w 19 5) (fld w 14 5) (fld w 9 5)) else .error (.reserved w)
  | 5 => if fld w 0 9 == 0 then .ok (.aor (fld w 19 5) (fld w 14 5) (fld w 9 5)) else .error (.reserved w)
  | 6 => if fld w 0 9 == 0 then .ok (.axor (fld w 19 5) (fld w 14 5) (fld w 9 5)) else .error (.reserved w)
  | 7 => .ok (.ashli (fld w 19 5) (fld w 14 5) (fld w 0 14))
  | 8 => .ok (.ashri (fld w 19 5) (fld w 14 5) (fld w 0 14))
  | 9 => .ok (.asari (fld w 19 5) (fld w 14 5) (fld w 0 14))
  | 10 => if fld w 0 9 == 0 then .ok (.aslt (fld w 19 5) (fld w 14 5) (fld w 9 5)) else .error (.reserved w)
  | 11 => if fld w 0 9 == 0 then .ok (.asltu (fld w 19 5) (fld w 14 5) (fld w 9 5)) else .error (.reserved w)
  | 12 => if fld w 14 5 == 0 then .ok (.amovi (fld w 19 5) (fld w 0 14)) else .error (.reserved w)
  | 13 => if fld w 14 5 == 0 then .ok (.aupi (fld w 19 5) (fld w 0 14)) else .error (.reserved w)
  | 14 => if fld w 0 14 == 0 then .ok (.amov (fld w 19 5) (fld w 14 5)) else .error (.reserved w)
  | 15 => if fld w 0 14 == 0 then .ok (.apushq (fld w 19 5) (fld w 14 5)) else .error (.reserved w)
  | _ => .error (.unassigned w)

/-- The opcodes 0x90 to 0x9F (03 R56), the low hexadecimal digit `lo`. -/
def decodeRow9 (lo w : Nat) : Except Reject Instr :=
  match lo with
  | 0 => if fld w 0 19 == 0 then .ok (.apopq (fld w 19 5)) else .error (.reserved w)
  | 1 => if fld w 0 9 == 0 then .ok (.cbase (fld w 19 5) (fld w 14 5) (fld w 9 5)) else .error (.reserved w)
  | 2 => if fld w 0 9 == 0 then .ok (.clen (fld w 19 5) (fld w 14 5) (fld w 9 5)) else .error (.reserved w)
  | 3 => if fld w 0 9 == 0 then .ok (.cperm (fld w 19 5) (fld w 14 5) (fld w 9 5)) else .error (.reserved w)
  | 4 => if fld w 9 5 == 0 then .ok (.cget (fld w 19 5) (fld w 14 5) (fld w 0 9)) else .error (.reserved w)
  | 5 => if fld w 0 14 == 0 then .ok (.cclr (fld w 19 5) (fld w 14 5)) else .error (.reserved w)
  | 6 => .ok (.ld (fld w 19 5) (fld w 14 5) (fld w 9 5) (fld w 6 3) (fld w 5 1) (fld w 3 2) (fld w 0 3))
  | 7 => .ok (.ldx (fld w 19 5) (fld w 14 5) (fld w 9 5) (fld w 6 3) (fld w 5 1) (fld w 3 2) (fld w 0 3))
  | 8 => .ok (.lda (fld w 19 5) (fld w 14 5) (fld w 9 5) (fld w 6 3) (fld w 5 1) (fld w 3 2) (fld w 0 3))
  | 9 => if fld w 5 4 == 8 then .ok (.ldc (fld w 19 5) (fld w 14 5) (fld w 9 5) (fld w 3 2) (fld w 0 3)) else .error (.reserved w)
  | 10 => if fld w 0 5 == 0 then .ok (.ldnib (fld w 19 5) (fld w 14 5) (fld w 9 5) (fld w 6 3) (fld w 5 1)) else .error (.reserved w)
  | 11 => if fld w 19 5 == 0 && fld w 5 1 == 0 then .ok (.st (fld w 14 5) (fld w 9 5) (fld w 6 3) (fld w 3 2) (fld w 0 3)) else .error (.reserved w)
  | 12 => if fld w 5 4 == 8 then .ok (.stm (fld w 19 5) (fld w 14 5) (fld w 9 5) (fld w 3 2) (fld w 0 3)) else .error (.reserved w)
  | 13 => if fld w 19 5 == 0 && fld w 5 1 == 0 then .ok (.stx (fld w 14 5) (fld w 9 5) (fld w 6 3) (fld w 3 2) (fld w 0 3)) else .error (.reserved w)
  | 14 => if fld w 5 1 == 0 then .ok (.sta (fld w 19 5) (fld w 14 5) (fld w 9 5) (fld w 6 3) (fld w 3 2) (fld w 0 3)) else .error (.reserved w)
  | 15 => if fld w 5 4 == 8 then .ok (.stc (fld w 19 5) (fld w 14 5) (fld w 9 5) (fld w 3 2) (fld w 0 3)) else .error (.reserved w)
  | _ => .error (.unassigned w)

/-- The opcodes 0xA0 to 0xAF (03 R56), the low hexadecimal digit `lo`. -/
def decodeRowA (lo w : Nat) : Except Reject Instr :=
  match lo with
  | 0 => if fld w 19 5 == 0 && fld w 0 6 == 0 then .ok (.stnib (fld w 14 5) (fld w 9 5) (fld w 6 3)) else .error (.reserved w)
  | 1 => .ok (.amo (fld w 19 5) (fld w 14 5) (fld w 9 5) (fld w 5 4) (fld w 4 1) (fld w 3 1) (fld w 0 3))
  | 2 => if fld w 19 1 == 0 && fld w 5 4 == 0 then .ok (.amocas (fld w 20 4) (fld w 14 5) (fld w 9 5) (fld w 4 1) (fld w 3 1) (fld w 0 3)) else .error (.reserved w)
  | 3 => if fld w 3 21 == 1 then .ok (.fenceAcq (fld w 0 3)) else if fld w 3 21 == 9 then .ok (.fenceRel (fld w 0 3)) else if fld w 3 21 == 17 then .ok (.fenceAr (fld w 0 3)) else .error (.reserved w)
  | 4 => if fld w 3 21 == 1 then .ok (.xfence (fld w 0 3)) else .error (.reserved w)
  | 5 => if fld w 0 9 == 0 then .ok (.bmov (fld w 19 5) (fld w 14 5) (fld w 9 5)) else .error (.reserved w)
  | 6 => if fld w 0 4 == 0 then .ok (.rep (fld w 19 5) (fld w 14 5) (fld w 9 5) (fld w 6 3) (fld w 5 1) (fld w 4 1)) else .error (.reserved w)
  | 7 => if fld w 14 5 == 0 then .ok (.csrr (fld w 19 5) (fld w 0 14)) else .error (.reserved w)
  | 8 => .ok (.csrw (fld w 19 5) (fld w 14 5) (fld w 0 14))
  | _ => .error (.unassigned w)

/-- The opcodes 0xB0 to 0xBF (03 R56), the low hexadecimal digit `lo`. -/
def decodeRowB (lo w : Nat) : Except Reject Instr :=
  match lo with
  | 0 => .ok (.beq (fld w 19 5) (fld w 14 5) (fld w 0 14))
  | 1 => .ok (.bne (fld w 19 5) (fld w 14 5) (fld w 0 14))
  | 2 => .ok (.blt (fld w 19 5) (fld w 14 5) (fld w 0 14))
  | 3 => .ok (.bge (fld w 19 5) (fld w 14 5) (fld w 0 14))
  | 4 => .ok (.bltu (fld w 19 5) (fld w 14 5) (fld w 0 14))
  | 5 => .ok (.bgeu (fld w 19 5) (fld w 14 5) (fld w 0 14))
  | 6 => if fld w 14 10 == 0 then .ok (.bxq (fld w 0 14)) else .error (.reserved w)
  | 7 => if fld w 14 10 == 0 then .ok (.bxqz (fld w 0 14)) else .error (.reserved w)
  | 8 => if fld w 14 10 == 0 then .ok (.j (fld w 0 14)) else .error (.reserved w)
  | 9 => if fld w 14 10 == 0 then .ok (.call (fld w 0 14)) else .error (.reserved w)
  | 10 => if fld w 0 24 == 0 then .ok (.ret) else .error (.reserved w)
  | 11 => if fld w 19 5 == 0 && fld w 0 14 == 0 then .ok (.jr (fld w 14 5)) else .error (.reserved w)
  | 12 => if fld w 12 7 == 0 then .ok (.loop (fld w 19 5) (fld w 0 12)) else .error (.reserved w)
  | 13 => if fld w 0 24 == 0 then .ok (.endAct) else .error (.reserved w)
  | 14 => .ok (.ecall (fld w 0 24))
  | 15 => .ok (.brk (fld w 0 24))
  | _ => .error (.unassigned w)

/-- The opcodes 0xC0 to 0xCF (03 R56), the low hexadecimal digit `lo`. -/
def decodeRowC (lo w : Nat) : Except Reject Instr :=
  match lo with
  | 0 => if fld w 19 5 == 0 then .ok (.send (fld w 14 5) (fld w 9 5) (fld w 8 1) (fld w 0 8)) else .error (.reserved w)
  | 1 => if fld w 19 5 == 0 && fld w 1 8 == 0 then .ok (.sende (fld w 14 5) (fld w 9 5) (fld w 0 1)) else .error (.reserved w)
  | 2 => if fld w 19 5 == 0 && fld w 0 14 == 0 then .ok (.reply (fld w 14 5)) else .error (.reserved w)
  | 3 => if fld w 19 5 == 0 && fld w 3 6 == 0 then .ok (.jarrive (fld w 14 5) (fld w 9 5) (fld w 0 3)) else .error (.reserved w)
  | 4 => if fld w 14 10 == 0 then .ok (.gang (fld w 0 14)) else .error (.reserved w)
  | 5 => if fld w 0 24 == 0 then .ok (.disband) else .error (.reserved w)
  | 6 => if fld w 1 8 == 0 then .ok (.stacq (fld w 19 5) (fld w 14 5) (fld w 9 5) (fld w 0 1)) else .error (.reserved w)
  | 7 => if fld w 0 9 == 0 then .ok (.strel (fld w 19 5) (fld w 14 5) (fld w 9 5)) else .error (.reserved w)
  | 8 => if fld w 19 5 == 0 && fld w 0 9 == 0 then .ok (.dqpush (fld w 14 5) (fld w 9 5)) else .error (.reserved w)
  | 9 => if fld w 0 20 == 0 then .ok (.dqpop (fld w 20 4)) else .error (.reserved w)
  | 10 => if fld w 0 24 == 0 then .ok (.dqsplit) else .error (.reserved w)
  | 11 => if fld w 19 1 == 0 && fld w 0 14 == 0 then .ok (.dqsteal (fld w 20 4) (fld w 14 5)) else .error (.reserved w)
  | 12 => if fld w 19 5 == 0 && fld w 8 6 == 0 then .ok (.tlwait (fld w 14 5) (fld w 0 8)) else .error (.reserved w)
  | 13 => if fld w 9 10 == 0 then .ok (.tlread (fld w 19 5) (fld w 8 1) (fld w 0 8)) else .error (.reserved w)
  | 14 => if fld w 8 16 == 0 then .ok (.evsig (fld w 5 3) (fld w 0 5)) else .error (.reserved w)
  | 15 => if fld w 0 24 == 0 then .ok (.eret) else if fld w 0 24 == 1 then .ok (.eretEnd) else .error (.reserved w)
  | _ => .error (.unassigned w)

/-- The opcodes 0xD0 to 0xDF (03 R56), the low hexadecimal digit `lo`. -/
def decodeRowD (lo w : Nat) : Except Reject Instr :=
  match lo with
  | 0 => if fld w 19 5 == 0 && fld w 2 12 == 0 then .ok (.macq (fld w 14 5) (fld w 0 2)) else .error (.reserved w)
  | 1 => if fld w 19 5 == 0 && fld w 2 12 == 0 then .ok (.mrel (fld w 14 5) (fld w 0 2)) else if fld w 19 5 == 0 && fld w 2 12 == 2 then .ok (.mrelRes (fld w 14 5) (fld w 0 2)) else if fld w 19 5 == 0 && fld w 2 12 == 4 then .ok (.mrelAbn (fld w 14 5) (fld w 0 2)) else .error (.reserved w)
  | 2 => if fld w 3 6 == 0 then .ok (.mldb (fld w 19 5) (fld w 14 5) (fld w 9 5) (fld w 2 1) (fld w 0 2)) else .error (.reserved w)
  | 3 => if fld w 3 6 == 0 then .ok (.mspec (fld w 19 5) (fld w 14 5) (fld w 9 5) (fld w 2 1) (fld w 0 2)) else .error (.reserved w)
  | 4 => if fld w 3 11 == 0 then .ok (.mzero (fld w 19 5) (fld w 14 5) (fld w 2 1) (fld w 0 2)) else .error (.reserved w)
  | 5 => if fld w 3 6 == 0 then .ok (.mma (fld w 19 5) (fld w 14 5) (fld w 9 5) (fld w 2 1) (fld w 0 2)) else .error (.reserved w)
  | 6 => if fld w 2 22 == 0 then .ok (.lnscfg (fld w 0 2)) else .error (.reserved w)
  | 7 => if fld w 3 6 == 0 then .ok (.mmas (fld w 19 5) (fld w 14 5) (fld w 9 5) (fld w 2 1) (fld w 0 2)) else .error (.reserved w)
  | 8 => if fld w 2 12 == 0 then .ok (.mrd (fld w 19 5) (fld w 14 5) (fld w 0 2)) else if fld w 2 12 == 2 then .ok (.mrdFlg (fld w 19 5) (fld w 14 5) (fld w 0 2)) else .error (.reserved w)
  | 9 => if fld w 3 6 == 0 then .ok (.mcopy (fld w 19 5) (fld w 14 5) (fld w 9 5) (fld w 2 1) (fld w 0 2)) else .error (.reserved w)
  | _ => .error (.unassigned w)

/-- The opcodes 0xE0 to 0xEF (03 R56), the low hexadecimal digit `lo`. -/
def decodeRowE (lo w : Nat) : Except Reject Instr :=
  match lo with
  | 0 => if fld w 19 5 == 0 && fld w 6 8 == 0 then .ok (.chbond (fld w 14 5) (fld w 2 4) (fld w 0 2)) else .error (.reserved w)
  | 1 => if fld w 19 5 == 0 && fld w 2 7 == 0 then .ok (.chprog (fld w 14 5) (fld w 9 5) (fld w 0 2)) else if fld w 19 5 == 0 && fld w 2 7 == 1 then .ok (.chprogKeep (fld w 14 5) (fld w 9 5) (fld w 0 2)) else .error (.reserved w)
  | 2 => if fld w 5 14 == 0 && fld w 2 2 == 0 then .ok (.chrunStart (fld w 19 5) (fld w 4 1) (fld w 0 2)) else if fld w 19 5 == 0 && fld w 2 12 == 1 then .ok (.chrunResume (fld w 14 5) (fld w 0 2)) else if fld w 19 5 == 0 && fld w 2 12 == 2 then .ok (.chrunAbn (fld w 14 5) (fld w 0 2)) else .error (.reserved w)
  | 3 => if fld w 6 13 == 0 then .ok (.chstat (fld w 19 5) (fld w 2 4) (fld w 0 2)) else .error (.reserved w)
  | 4 => if fld w 19 5 == 0 && fld w 2 7 == 0 then .ok (.chgrad (fld w 14 5) (fld w 9 5) (fld w 0 2)) else .error (.reserved w)
  | 8 => if fld w 19 5 == 0 && fld w 2 7 == 0 then .ok (.grset (fld w 14 5) (fld w 9 5) (fld w 0 2)) else .error (.reserved w)
  | 9 => .ok (.grred (fld w 19 5) (fld w 14 5) (fld w 9 5) (fld w 3 6) (fld w 2 1) (fld w 0 2))
  | 10 => if fld w 3 1 == 0 then .ok (.grscan (fld w 19 5) (fld w 14 5) (fld w 9 5) (fld w 4 5) (fld w 2 1) (fld w 0 2)) else if fld w 3 1 == 1 then .ok (.grscanX (fld w 19 5) (fld w 14 5) (fld w 9 5) (fld w 4 5) (fld w 2 1) (fld w 0 2)) else .error (.reserved w)
  | 11 => if fld w 3 6 == 0 then .ok (.grmv (fld w 19 5) (fld w 14 5) (fld w 9 5) (fld w 2 1) (fld w 0 2)) else .error (.reserved w)
  | 12 => if fld w 3 1 == 0 then .ok (.grat (fld w 19 5) (fld w 14 5) (fld w 9 5) (fld w 4 5) (fld w 2 1) (fld w 0 2)) else .error (.reserved w)
  | 13 => if fld w 6 13 == 0 then .ok (.grstat (fld w 19 5) (fld w 2 4) (fld w 0 2)) else if fld w 19 5 == 0 && fld w 2 12 == 16 then .ok (.grstatRes (fld w 14 5) (fld w 0 2)) else if fld w 19 5 == 0 && fld w 2 12 == 32 then .ok (.grstatAbn (fld w 14 5) (fld w 0 2)) else .error (.reserved w)
  | _ => .error (.unassigned w)

/-- The opcodes 0xF0 to 0xFF (03 R56), the low hexadecimal digit `lo`. -/
def decodeRowF (lo w : Nat) : Except Reject Instr :=
  match lo with
  | 0 => if fld w 4 5 == 0 then .ok (.cpy (fld w 19 5) (fld w 14 5) (fld w 9 5) (fld w 3 1) (fld w 0 3)) else .error (.reserved w)
  | 1 => if fld w 3 11 == 0 then .ok (.cpywp (fld w 19 5) (fld w 14 5) (fld w 0 3)) else .error (.reserved w)
  | 2 => if fld w 3 6 == 0 then .ok (.cpychkCheck (fld w 19 5) (fld w 14 5) (fld w 9 5) (fld w 0 3)) else if fld w 19 5 == 0 && fld w 3 11 == 1 then .ok (.cpychkRes (fld w 14 5) (fld w 0 3)) else if fld w 19 5 == 0 && fld w 3 11 == 2 then .ok (.cpychkAbn (fld w 14 5) (fld w 0 3)) else .error (.reserved w)
  | 8 => .ok (.himm (fld w 0 24))
  | 9 => if fld w 0 16 == 0 then .ok (.hwid (fld w 21 3) (fld w 18 3) (fld w 17 1) (fld w 16 1)) else .error (.reserved w)
  | 10 => if fld w 0 20 == 0 then .ok (.hmod (fld w 21 3) (fld w 20 1)) else .error (.reserved w)
  | 11 => if fld w 0 24 == 0 then .ok (.hyld) else .error (.reserved w)
  | 12 => if fld w 0 24 == 0 then .ok (.nop) else .error (.reserved w)
  | 13 => if fld w 0 24 == 0 then .ok (.wfi) else .error (.reserved w)
  | _ => .error (.unassigned w)

/-- The fields of a word, before the reserved values of the entry are looked at. -/
def decodeFields (w : Nat) : Except Reject Instr :=
  let lo := fld w 24 4
  match fld w 28 4 with
  | 0 => decodeRow0 lo w
  | 1 => decodeRow1 lo w
  | 2 => decodeRow2 lo w
  | 3 => decodeRow3 lo w
  | 4 => decodeRow4 lo w
  | 5 => decodeRow5 lo w
  | 6 => decodeRow6 lo w
  | 7 => decodeRow7 lo w
  | 8 => decodeRow8 lo w
  | 9 => decodeRow9 lo w
  | 10 => decodeRowA lo w
  | 11 => decodeRowB lo w
  | 12 => decodeRowC lo w
  | 13 => decodeRowD lo w
  | 14 => decodeRowE lo w
  | 15 => decodeRowF lo w
  | _ => .error (.unassigned w)

/-- The instruction of a word, refused by name when its entry reserves one of its field values (03 R59, R60). -/
def decode (w : Nat) : Except Reject Instr :=
  match decodeFields w with
  | .ok i => if i.wellFormed then .ok i else .error (.reserved w)
  | .error e => .error e

/-- The word of four bytes, the first at the lowest address (03 R42: little-endian). -/
def wordOfBytes (b0 b1 b2 b3 : Byte) : Nat :=
  b0.toNat + 256 * b1.toNat + 65536 * b2.toNat + 16777216 * b3.toNat

/-- The instruction at the head of a list of bytes, and the bytes after it. Every instruction is four bytes long. -/
def decodeBytes : List Byte → Except Reject (Instr × List Byte)
  | b0 :: b1 :: b2 :: b3 :: rest =>
    match decode (wordOfBytes b0 b1 b2 b3) with
    | .ok i => .ok (i, rest)
    | .error e => .error e
  | _ => .error .tooShort

/-- The four bytes of a word, the lowest address first (03 R42). -/
def bytesOfWord (w : Nat) : List Byte :=
  [BitVec.ofNat 8 w, BitVec.ofNat 8 (w / 256), BitVec.ofNat 8 (w / 65536), BitVec.ofNat 8 (w / 16777216)]

/-- The instruction that `decodeBytes` reads from an instruction whose bits are `w`, laid out in memory order. Every
instruction has 32 bits; the bits above `nbits` are zero. -/
def decodeTableWord (nbits w : Nat) : Option Instr :=
  match decodeBytes (bytesOfWord (w % 2 ^ nbits)) with
  | .ok (i, _) => some i
  | .error _ => none

/-- The word of an instruction (03 R42), none for an event. -/
def encode : Instr → Option Nat
  | .add w d a b => some (0x01000000 + w * 2097152 + d * 16384 + a * 128 + b)
  | .sub w d a b => some (0x02000000 + w * 2097152 + d * 16384 + a * 128 + b)
  | .addi w d a i => some (0x03000000 + w * 2097152 + d * 16384 + a * 128 + i)
  | .mul w d a b => some (0x04000000 + w * 2097152 + d * 16384 + a * 128 + b)
  | .mulh w d a b => some (0x05000000 + w * 2097152 + d * 16384 + a * 128 + b)
  | .mulhu w d a b => some (0x06000000 + w * 2097152 + d * 16384 + a * 128 + b)
  | .mulw w d a b => some (0x07000000 + w * 2097152 + d * 16384 + a * 128 + b)
  | .mulwu w d a b => some (0x08000000 + w * 2097152 + d * 16384 + a * 128 + b)
  | .div w d a b => some (0x09000000 + w * 2097152 + d * 16384 + a * 128 + b)
  | .divu w d a b => some (0x0A000000 + w * 2097152 + d * 16384 + a * 128 + b)
  | .rem w d a b => some (0x0B000000 + w * 2097152 + d * 16384 + a * 128 + b)
  | .remu w d a b => some (0x0C000000 + w * 2097152 + d * 16384 + a * 128 + b)
  | .min w d a b => some (0x0D000000 + w * 2097152 + d * 16384 + a * 128 + b)
  | .max w d a b => some (0x0E000000 + w * 2097152 + d * 16384 + a * 128 + b)
  | .minu w d a b => some (0x0F000000 + w * 2097152 + d * 16384 + a * 128 + b)
  | .maxu w d a b => some (0x10000000 + w * 2097152 + d * 16384 + a * 128 + b)
  | .adds w d a b => some (0x11000000 + w * 2097152 + d * 16384 + a * 128 + b)
  | .addus w d a b => some (0x12000000 + w * 2097152 + d * 16384 + a * 128 + b)
  | .subs w d a b => some (0x13000000 + w * 2097152 + d * 16384 + a * 128 + b)
  | .subus w d a b => some (0x14000000 + w * 2097152 + d * 16384 + a * 128 + b)
  | .neg w d a => some (0x15000000 + w * 2097152 + d * 16384 + a * 128)
  | .abs w d a => some (0x16000000 + w * 2097152 + d * 16384 + a * 128)
  | .and w d a b => some (0x17000000 + w * 2097152 + d * 16384 + a * 128 + b)
  | .or w d a b => some (0x18000000 + w * 2097152 + d * 16384 + a * 128 + b)
  | .xor w d a b => some (0x19000000 + w * 2097152 + d * 16384 + a * 128 + b)
  | .andn w d a b => some (0x1A000000 + w * 2097152 + d * 16384 + a * 128 + b)
  | .andi w d a i => some (0x1B000000 + w * 2097152 + d * 16384 + a * 128 + i)
  | .ori w d a i => some (0x1C000000 + w * 2097152 + d * 16384 + a * 128 + i)
  | .xori w d a i => some (0x1D000000 + w * 2097152 + d * 16384 + a * 128 + i)
  | .shl w d a b => some (0x1E000000 + w * 2097152 + d * 16384 + a * 128 + b)
  | .shr w d a b => some (0x1F000000 + w * 2097152 + d * 16384 + a * 128 + b)
  | .sar w d a b => some (0x20000000 + w * 2097152 + d * 16384 + a * 128 + b)
  | .shli w d a i => some (0x21000000 + w * 2097152 + d * 16384 + a * 128 + i)
  | .shri w d a i => some (0x22000000 + w * 2097152 + d * 16384 + a * 128 + i)
  | .sari w d a i => some (0x23000000 + w * 2097152 + d * 16384 + a * 128 + i)
  | .rol w d a b => some (0x24000000 + w * 2097152 + d * 16384 + a * 128 + b)
  | .roli w d a i => some (0x25000000 + w * 2097152 + d * 16384 + a * 128 + i)
  | .fshl w d a b => some (0x26000000 + w * 2097152 + d * 16384 + a * 128 + b)
  | .fshr w d a b => some (0x27000000 + w * 2097152 + d * 16384 + a * 128 + b)
  | .sel w d a b => some (0x28000000 + w * 2097152 + d * 16384 + a * 128 + b)
  | .seq w d a b => some (0x29000000 + w * 2097152 + d * 16384 + a * 128 + b)
  | .sne w d a b => some (0x2A000000 + w * 2097152 + d * 16384 + a * 128 + b)
  | .slt w d a b => some (0x2B000000 + w * 2097152 + d * 16384 + a * 128 + b)
  | .sltu w d a b => some (0x2C000000 + w * 2097152 + d * 16384 + a * 128 + b)
  | .sle w d a b => some (0x2D000000 + w * 2097152 + d * 16384 + a * 128 + b)
  | .sleu w d a b => some (0x2E000000 + w * 2097152 + d * 16384 + a * 128 + b)
  | .seqi w d a i => some (0x2F000000 + w * 2097152 + d * 16384 + a * 128 + i)
  | .slti w d a i => some (0x30000000 + w * 2097152 + d * 16384 + a * 128 + i)
  | .mov w d a => some (0x31000000 + w * 2097152 + d * 16384 + a * 128)
  | .movi w d i => some (0x32000000 + w * 2097152 + d * 16384 + i)
  | .exts w d a i => some (0x33000000 + w * 2097152 + d * 16384 + a * 128 + i)
  | .extz w d a i => some (0x34000000 + w * 2097152 + d * 16384 + a * 128 + i)
  | .clz w d a => some (0x35000000 + w * 2097152 + d * 16384 + a * 128)
  | .ctz w d a => some (0x36000000 + w * 2097152 + d * 16384 + a * 128)
  | .popc w d a => some (0x37000000 + w * 2097152 + d * 16384 + a * 128)
  | .brev w d a => some (0x38000000 + w * 2097152 + d * 16384 + a * 128)
  | .bext w d a b => some (0x39000000 + w * 2097152 + d * 16384 + a * 128 + b)
  | .bexts w d a b => some (0x3A000000 + w * 2097152 + d * 16384 + a * 128 + b)
  | .bdep w d a b => some (0x3B000000 + w * 2097152 + d * 16384 + a * 128 + b)
  | .paddL4 w d a b => some (0x40000000 + w * 2097152 + d * 16384 + a * 128 + b)
  | .paddL8 w d a b => some (0x41000000 + w * 2097152 + d * 16384 + a * 128 + b)
  | .paddL16 w d a b => some (0x42000000 + w * 2097152 + d * 16384 + a * 128 + b)
  | .paddL32 w d a b => some (0x43000000 + w * 2097152 + d * 16384 + a * 128 + b)
  | .psubL4 w d a b => some (0x44000000 + w * 2097152 + d * 16384 + a * 128 + b)
  | .psubL8 w d a b => some (0x45000000 + w * 2097152 + d * 16384 + a * 128 + b)
  | .psubL16 w d a b => some (0x46000000 + w * 2097152 + d * 16384 + a * 128 + b)
  | .psubL32 w d a b => some (0x47000000 + w * 2097152 + d * 16384 + a * 128 + b)
  | .pmaxuL4 w d a b => some (0x48000000 + w * 2097152 + d * 16384 + a * 128 + b)
  | .pmaxuL8 w d a b => some (0x49000000 + w * 2097152 + d * 16384 + a * 128 + b)
  | .pmaxuL16 w d a b => some (0x4A000000 + w * 2097152 + d * 16384 + a * 128 + b)
  | .pmaxuL32 w d a b => some (0x4B000000 + w * 2097152 + d * 16384 + a * 128 + b)
  | .pminuL4 w d a b => some (0x4C000000 + w * 2097152 + d * 16384 + a * 128 + b)
  | .pminuL8 w d a b => some (0x4D000000 + w * 2097152 + d * 16384 + a * 128 + b)
  | .pminuL16 w d a b => some (0x4E000000 + w * 2097152 + d * 16384 + a * 128 + b)
  | .pminuL32 w d a b => some (0x4F000000 + w * 2097152 + d * 16384 + a * 128 + b)
  | .pmaxsL4 w d a b => some (0x50000000 + w * 2097152 + d * 16384 + a * 128 + b)
  | .pmaxsL8 w d a b => some (0x51000000 + w * 2097152 + d * 16384 + a * 128 + b)
  | .pmaxsL16 w d a b => some (0x52000000 + w * 2097152 + d * 16384 + a * 128 + b)
  | .pmaxsL32 w d a b => some (0x53000000 + w * 2097152 + d * 16384 + a * 128 + b)
  | .pminsL4 w d a b => some (0x54000000 + w * 2097152 + d * 16384 + a * 128 + b)
  | .pminsL8 w d a b => some (0x55000000 + w * 2097152 + d * 16384 + a * 128 + b)
  | .pminsL16 w d a b => some (0x56000000 + w * 2097152 + d * 16384 + a * 128 + b)
  | .pminsL32 w d a b => some (0x57000000 + w * 2097152 + d * 16384 + a * 128 + b)
  | .paddssL4 w d a b => some (0x58000000 + w * 2097152 + d * 16384 + a * 128 + b)
  | .paddssL8 w d a b => some (0x59000000 + w * 2097152 + d * 16384 + a * 128 + b)
  | .paddssL16 w d a b => some (0x5A000000 + w * 2097152 + d * 16384 + a * 128 + b)
  | .paddssL32 w d a b => some (0x5B000000 + w * 2097152 + d * 16384 + a * 128 + b)
  | .rmaxuL4 w d a b => some (0x5C000000 + w * 2097152 + d * 16384 + a * 128 + b)
  | .rmaxuL8 w d a b => some (0x5D000000 + w * 2097152 + d * 16384 + a * 128 + b)
  | .rmaxuL16 w d a b => some (0x5E000000 + w * 2097152 + d * 16384 + a * 128 + b)
  | .rmaxuL32 w d a b => some (0x5F000000 + w * 2097152 + d * 16384 + a * 128 + b)
  | .fadd w d a b => some (0x60000000 + w * 2097152 + d * 16384 + a * 128 + b)
  | .fsub w d a b => some (0x61000000 + w * 2097152 + d * 16384 + a * 128 + b)
  | .fmul w d a b => some (0x62000000 + w * 2097152 + d * 16384 + a * 128 + b)
  | .fma w d a b => some (0x63000000 + w * 2097152 + d * 16384 + a * 128 + b)
  | .fmulz w d a b => some (0x64000000 + w * 2097152 + d * 16384 + a * 128 + b)
  | .fmin w d a b => some (0x65000000 + w * 2097152 + d * 16384 + a * 128 + b)
  | .fmax w d a b => some (0x66000000 + w * 2097152 + d * 16384 + a * 128 + b)
  | .frcp w d a => some (0x67000000 + w * 2097152 + d * 16384 + a * 128)
  | .frsq w d a => some (0x68000000 + w * 2097152 + d * 16384 + a * 128)
  | .fexp2 w d a => some (0x69000000 + w * 2097152 + d * 16384 + a * 128)
  | .flog2 w d a => some (0x6A000000 + w * 2097152 + d * 16384 + a * 128)
  | .fcmpeq w d a b => some (0x6B000000 + w * 2097152 + d * 16384 + a * 128 + b)
  | .fcmplt w d a b => some (0x6C000000 + w * 2097152 + d * 16384 + a * 128 + b)
  | .fcmple w d a b => some (0x6D000000 + w * 2097152 + d * 16384 + a * 128 + b)
  | .fclass w d a => some (0x6E000000 + w * 2097152 + d * 16384 + a * 128)
  | .raddf w d a => some (0x6F000000 + w * 2097152 + d * 16384 + a * 128)
  | .badd w d a b => some (0x70000000 + w * 2097152 + d * 16384 + a * 128 + b)
  | .bmul w d a b => some (0x71000000 + w * 2097152 + d * 16384 + a * 128 + b)
  | .bfma w d a b => some (0x72000000 + w * 2097152 + d * 16384 + a * 128 + b)
  | .bmax w d a b => some (0x73000000 + w * 2097152 + d * 16384 + a * 128 + b)
  | .bmin w d a b => some (0x74000000 + w * 2097152 + d * 16384 + a * 128 + b)
  | .cvt w d a t s => some (0x75000000 + w * 2097152 + d * 16384 + a * 128 + t * 8 + s)
  | .cvtsr w d a t s => some (0x76000000 + w * 2097152 + d * 16384 + a * 128 + t * 8 + s)
  | .scacc w d a b => some (0x77000000 + w * 2097152 + d * 16384 + a * 128 + b)
  | .aadd d a b => some (0x80000000 + d * 524288 + a * 16384 + b * 512)
  | .asub d a b => some (0x81000000 + d * 524288 + a * 16384 + b * 512)
  | .aaddi d a i => some (0x82000000 + d * 524288 + a * 16384 + i)
  | .amul d a b => some (0x83000000 + d * 524288 + a * 16384 + b * 512)
  | .aand d a b => some (0x84000000 + d * 524288 + a * 16384 + b * 512)
  | .aor d a b => some (0x85000000 + d * 524288 + a * 16384 + b * 512)
  | .axor d a b => some (0x86000000 + d * 524288 + a * 16384 + b * 512)
  | .ashli d a i => some (0x87000000 + d * 524288 + a * 16384 + i)
  | .ashri d a i => some (0x88000000 + d * 524288 + a * 16384 + i)
  | .asari d a i => some (0x89000000 + d * 524288 + a * 16384 + i)
  | .aslt d a b => some (0x8A000000 + d * 524288 + a * 16384 + b * 512)
  | .asltu d a b => some (0x8B000000 + d * 524288 + a * 16384 + b * 512)
  | .amovi d i => some (0x8C000000 + d * 524288 + i)
  | .aupi d i => some (0x8D000000 + d * 524288 + i)
  | .amov d a => some (0x8E000000 + d * 524288 + a * 16384)
  | .apushq q a => some (0x8F000000 + q * 524288 + a * 16384)
  | .apopq d => some (0x90000000 + d * 524288)
  | .cbase d a b => some (0x91000000 + d * 524288 + a * 16384 + b * 512)
  | .clen d a b => some (0x92000000 + d * 524288 + a * 16384 + b * 512)
  | .cperm d a b => some (0x93000000 + d * 524288 + a * 16384 + b * 512)
  | .cget d a f => some (0x94000000 + d * 524288 + a * 16384 + f)
  | .cclr d a => some (0x95000000 + d * 524288 + a * 16384)
  | .ld q c o z s r p => some (0x96000000 + q * 524288 + c * 16384 + o * 512 + z * 64 + s * 32 + r * 8 + p)
  | .ldx q c o z s r p => some (0x97000000 + q * 524288 + c * 16384 + o * 512 + z * 64 + s * 32 + r * 8 + p)
  | .lda d c o z s r p => some (0x98000000 + d * 524288 + c * 16384 + o * 512 + z * 64 + s * 32 + r * 8 + p)
  | .ldc d c o r p => some (0x99000100 + d * 524288 + c * 16384 + o * 512 + r * 8 + p)
  | .ldnib q c o z s => some (0x9A000000 + q * 524288 + c * 16384 + o * 512 + z * 64 + s * 32)
  | .st c o z r p => some (0x9B000000 + c * 16384 + o * 512 + z * 64 + r * 8 + p)
  | .stm m c o r p => some (0x9C000100 + m * 524288 + c * 16384 + o * 512 + r * 8 + p)
  | .stx c o z r p => some (0x9D000000 + c * 16384 + o * 512 + z * 64 + r * 8 + p)
  | .sta d c o z r p => some (0x9E000000 + d * 524288 + c * 16384 + o * 512 + z * 64 + r * 8 + p)
  | .stc d c o r p => some (0x9F000100 + d * 524288 + c * 16384 + o * 512 + r * 8 + p)
  | .stnib c o z => some (0xA0000000 + c * 16384 + o * 512 + z * 64)
  | .amo d a b f z o p => some (0xA1000000 + d * 524288 + a * 16384 + b * 512 + f * 32 + z * 16 + o * 8 + p)
  | .amocas d a b z o p => some (0xA2000000 + d * 1048576 + a * 16384 + b * 512 + z * 16 + o * 8 + p)
  | .fenceAcq p => some (0xA3000008 + p)
  | .fenceRel p => some (0xA3000048 + p)
  | .fenceAr p => some (0xA3000088 + p)
  | .xfence p => some (0xA4000008 + p)
  | .bmov d a b => some (0xA5000000 + d * 524288 + a * 16384 + b * 512)
  | .rep q a b z s t => some (0xA6000000 + q * 524288 + a * 16384 + b * 512 + z * 64 + s * 32 + t * 16)
  | .csrr d i => some (0xA7000000 + d * 524288 + i)
  | .csrw d a i => some (0xA8000000 + d * 524288 + a * 16384 + i)
  | .beq a b d => some (0xB0000000 + a * 524288 + b * 16384 + d)
  | .bne a b d => some (0xB1000000 + a * 524288 + b * 16384 + d)
  | .blt a b d => some (0xB2000000 + a * 524288 + b * 16384 + d)
  | .bge a b d => some (0xB3000000 + a * 524288 + b * 16384 + d)
  | .bltu a b d => some (0xB4000000 + a * 524288 + b * 16384 + d)
  | .bgeu a b d => some (0xB5000000 + a * 524288 + b * 16384 + d)
  | .bxq d => some (0xB6000000 + d)
  | .bxqz d => some (0xB7000000 + d)
  | .j t => some (0xB8000000 + t)
  | .call t => some (0xB9000000 + t)
  | .ret => some (0xBA000000)
  | .jr a => some (0xBB000000 + a * 16384)
  | .loop a l => some (0xBC000000 + a * 524288 + l)
  | .endAct => some (0xBD000000)
  | .ecall c => some (0xBE000000 + c)
  | .brk c => some (0xBF000000 + c)
  | .send a b r h => some (0xC0000000 + a * 16384 + b * 512 + r * 256 + h)
  | .sende a b p => some (0xC1000000 + a * 16384 + b * 512 + p)
  | .reply a => some (0xC2000000 + a * 16384)
  | .jarrive a b p => some (0xC3000000 + a * 16384 + b * 512 + p)
  | .gang n => some (0xC4000000 + n)
  | .disband => some (0xC5000000)
  | .stacq d a b r => some (0xC6000000 + d * 524288 + a * 16384 + b * 512 + r)
  | .strel d a b => some (0xC7000000 + d * 524288 + a * 16384 + b * 512)
  | .dqpush a b => some (0xC8000000 + a * 16384 + b * 512)
  | .dqpop d => some (0xC9000000 + d * 1048576)
  | .dqsplit => some (0xCA000000)
  | .dqsteal d a => some (0xCB000000 + d * 1048576 + a * 16384)
  | .tlwait a x => some (0xCC000000 + a * 16384 + x)
  | .tlread d s x => some (0xCD000000 + d * 524288 + s * 256 + x)
  | .evsig p l => some (0xCE000000 + p * 32 + l)
  | .eret => some (0xCF000000)
  | .eretEnd => some (0xCF000001)
  | .wfi => some (0xFD000000)
  | .nop => some (0xFC000000)
  | .himm v => some (0xF8000000 + v)
  | .hwid a b s t => some (0xF9000000 + a * 2097152 + b * 262144 + s * 131072 + t * 65536)
  | .hmod m s => some (0xFA000000 + m * 2097152 + s * 1048576)
  | .hyld => some (0xFB000000)
  | .macq a k => some (0xD0000000 + a * 16384 + k)
  | .mrel a k => some (0xD1000000 + a * 16384 + k)
  | .mrelRes a k => some (0xD1000008 + a * 16384 + k)
  | .mrelAbn a k => some (0xD1000010 + a * 16384 + k)
  | .mldb d a b m k => some (0xD2000000 + d * 524288 + a * 16384 + b * 512 + m * 4 + k)
  | .mspec d a b m k => some (0xD3000000 + d * 524288 + a * 16384 + b * 512 + m * 4 + k)
  | .mzero d a m k => some (0xD4000000 + d * 524288 + a * 16384 + m * 4 + k)
  | .mma d a b m k => some (0xD5000000 + d * 524288 + a * 16384 + b * 512 + m * 4 + k)
  | .lnscfg k => some (0xD6000000 + k)
  | .mmas d a b m k => some (0xD7000000 + d * 524288 + a * 16384 + b * 512 + m * 4 + k)
  | .mrd q a k => some (0xD8000000 + q * 524288 + a * 16384 + k)
  | .mrdFlg q a k => some (0xD8000008 + q * 524288 + a * 16384 + k)
  | .mcopy d a b m k => some (0xD9000000 + d * 524288 + a * 16384 + b * 512 + m * 4 + k)
  | .chbond a r k => some (0xE0000000 + a * 16384 + r * 4 + k)
  | .chprog a b k => some (0xE1000000 + a * 16384 + b * 512 + k)
  | .chprogKeep a b k => some (0xE1000004 + a * 16384 + b * 512 + k)
  | .chrunStart d m k => some (0xE2000000 + d * 524288 + m * 16 + k)
  | .chrunResume a k => some (0xE2000004 + a * 16384 + k)
  | .chrunAbn a k => some (0xE2000008 + a * 16384 + k)
  | .chstat d s k => some (0xE3000000 + d * 524288 + s * 4 + k)
  | .chgrad a b k => some (0xE4000000 + a * 16384 + b * 512 + k)
  | .grset a b k => some (0xE8000000 + a * 16384 + b * 512 + k)
  | .grred d a b o m k => some (0xE9000000 + d * 524288 + a * 16384 + b * 512 + o * 8 + m * 4 + k)
  | .grscan d a b o m k => some (0xEA000000 + d * 524288 + a * 16384 + b * 512 + o * 16 + m * 4 + k)
  | .grscanX d a b o m k => some (0xEA000008 + d * 524288 + a * 16384 + b * 512 + o * 16 + m * 4 + k)
  | .grmv d a b m k => some (0xEB000000 + d * 524288 + a * 16384 + b * 512 + m * 4 + k)
  | .grat d a b o m k => some (0xEC000000 + d * 524288 + a * 16384 + b * 512 + o * 16 + m * 4 + k)
  | .grstat d s k => some (0xED000000 + d * 524288 + s * 4 + k)
  | .grstatRes a k => some (0xED000040 + a * 16384 + k)
  | .grstatAbn a k => some (0xED000080 + a * 16384 + k)
  | .cpy d a b m c => some (0xF0000000 + d * 524288 + a * 16384 + b * 512 + m * 8 + c)
  | .cpywp d a c => some (0xF1000000 + d * 524288 + a * 16384 + c)
  | .cpychkCheck d a b c => some (0xF2000000 + d * 524288 + a * 16384 + b * 512 + c)
  | .cpychkRes a c => some (0xF2000008 + a * 16384 + c)
  | .cpychkAbn a c => some (0xF2000010 + a * 16384 + c)
  | .illegalInstruction _ => none
  | .fetch _ _ => none
  | .xResultLand _ _ _ => none
  | .queueStarved _ _ _ => none
  | .loadDataReturn _ => none
  | .storeAck _ => none
  | .homePerform _ => none
  | .caeCheckIn _ => none
  | .stageGrant _ => none
  | .sidingStealServe _ => none
  | .lateAccessFault _ => none
  | .translationWalkDone _ _ => none
  | .wcBufferTimeout _ _ => none
  | .messageArrival _ => none
  | .outboundDepart _ => none
  | .admission _ => none
  | .copyOut _ _ => none
  | .activationRestore _ => none
  | .activationPark _ _ => none
  | .trapActivationStart _ => none
  | .engineCommandArrival _ => none
  | .copyOpBegin _ _ => none
  | .copyRowDelivered _ _ => none
  | .copyOpPerformed _ _ => none
  | .matrixOpBegin _ _ => none
  | .mmaIteration _ _ => none
  | .matrixOpPerformed _ _ => none
  | .macroReload _ _ => none
  | .chainRunBegin _ _ => none
  | .chainStep _ _ => none
  | .grammarOpBegin _ _ => none
  | .grammarOpPerformed _ _ => none
  | .engineFaultPark _ _ => none
  | .enginePreemptStop _ _ => none
  | .signalBoxFire _ => none
  | .timerPulse _ _ => none
  | .encoderFrameDone _ _ => none
  | .encbindBind _ _ => none
  | .encbindUnbind _ _ => none
  | .create _ _ => none
  | .partitionClearDone _ => none
  | .destroy _ _ => none
  | .bindvf _ _ => none
  | .unbindvf _ _ => none
  | .partitionBadCommand _ => none
  | .door _ _ => none
  | .slotWrite _ _ _ => none
  | .launch _ _ => none
  | .launchFirstMessages _ _ => none
  | .register _ _ => none
  | .regionEnd _ _ => none
  | .prepare _ _ => none
  | .prepareReceive _ _ => none
  | .prepareAckReceive _ => none
  | .prepareTimeout => none
  | .commit => none
  | .abort => none
  | .quantumBoundary _ => none
  | .contractRelease _ _ => none
  | .deadlineExpiry _ _ => none
  | .budgetExhausted _ _ => none
  | .jobComplete _ _ => none
  | .energyCharge => none
  | .energyWindowBoundary _ _ => none
  | .lazyUnitRestore _ => none
  | .clusterPowerGate _ => none
  | .clusterWake _ => none
  | .deviceReset => none
  | .selfTestPass _ => none
  | .unitFailure _ _ => none
  | .uncorrectableMemory _ _ _ _ => none
  | .linkDown _ => none
  | .cxlMemRead _ _ _ => none
  | .cxlMemWrite _ _ _ _ => none
  | .getVersion _ => none
  | .getCapabilities _ => none
  | .negotiateAlgorithms _ _ => none
  | .getDigests _ => none
  | .getCertificate _ _ => none
  | .challenge _ _ => none
  | .getMeasurements _ _ => none
  | .keyExchange _ _ => none
  | .finish _ => none
  | .debugTokenSubmit _ => none
  | .debugScopeRevoke _ => none
  | .debugScopeExpiry _ => none
  | .dbgdataWrite _ _ => none
  | .dbgdataRead _ => none
  | .halt _ => none
  | .debugResume _ => none
  | .step _ _ => none
  | .stepdone _ => none
  | .xbWrite _ _ => none
  | .seedWrite _ _ => none
  | .lotstateWrite _ _ => none
  | .issuepolWrite _ _ => none
  | .sbdataWrite _ _ => none
  | .overrunClear _ _ => none
  | .trdstWrite _ _ => none
  | .clear _ => none
  | .xflagsWrite _ _ => none
  | .traceDrain _ => none
  | .registerWrite _ _ _ => none
  | .prepareRefusalReceive _ _ => none

/-- The format kinds that matter to the front end and to hints (03 R11, R48). -/
def opcodeOf (w : Nat) : Nat := fld w 24 8

/-- The word is a hint (03 R11). -/
def isHint (w : Nat) : Bool := decide (0xF8 ≤ opcodeOf w) && decide (opcodeOf w ≤ 0xFB)

/-- The word goes to the X buffer (03 R11): opcodes 0x01 to 0x7F that are assigned. -/
def isXWord (w : Nat) : Bool :=
  let op := opcodeOf w
  (decide (1 ≤ op) && decide (op ≤ 0x3B)) || (decide (0x40 ≤ op) && decide (op ≤ 0x77))

/-- The word is a control transfer, LOOP included: fetch stops behind it (02 R14, 06 R122). -/
def isControl (w : Nat) : Bool :=
  let op := opcodeOf w
  (decide (0xB0 ≤ op) && decide (op ≤ 0xBC)) || op == 0xBE || op == 0xBF

/-- The instructions of format XI (03 R57). -/
def isXIOp (op : Nat) : Bool :=
  op == 0x03 || (decide (0x1B ≤ op) && decide (op ≤ 0x1D)) || (decide (0x21 ≤ op) && decide (op ≤ 0x23)) ||
    op == 0x25 || op == 0x2F || op == 0x30 || (decide (0x32 ≤ op) && decide (op ≤ 0x34))

/-- A target that accepts HIMM: the formats XI and AI but GANG, TLWAIT, TLREAD and EVSIG (03 R48). -/
def acceptsHimm (op : Nat) : Bool :=
  isXIOp op || op == 0x82 || (decide (0x87 ≤ op) && decide (op ≤ 0x89)) || op == 0x8C || op == 0x8D ||
    op == 0xA7 || op == 0xA8

/-- A target that accepts HWID: 0x01 to 0x3B but FSHL and FSHR (03 R48). -/
def acceptsHwid (op : Nat) : Bool := decide (1 ≤ op) && decide (op ≤ 0x3B) && op != 0x26 && op != 0x27

/-- A target that accepts HMOD: 0x60 to 0x77 (03 R48). -/
def acceptsHmod (op : Nat) : Bool := decide (0x60 ≤ op) && decide (op ≤ 0x77)

end Sys2Proof
end

