-- ==== Sys2Proof/Machine/Bits.lean ====
section
/-! DEFINITION. Fields, extensions and narrowing on numbers (00 R5, R9). -/

namespace Sys2Proof

/-- zext(x, n): the non-negative integer x[n−1:0] (00 R9). -/
def zext (x n : Nat) : Nat := x % 2 ^ n

/-- sext(x, n): the integer whose two's-complement n-bit form is x[n−1:0] (00 R9). -/
def sext (x n : Nat) : Int :=
  if x % 2 ^ n < 2 ^ n / 2 then (x % 2 ^ n : Int) else (x % 2 ^ n : Int) - 2 ^ n

/-- The n-bit two's-complement form of an integer: its low n bits. -/
def toBits (v : Int) (n : Nat) : Nat := (v % 2 ^ n).toNat

/-- sat(v, n, s) with s signed (00 R9). -/
def satS (v : Int) (n : Nat) : Int := max (-(2 ^ (n - 1))) (min v (2 ^ (n - 1) - 1))

/-- sat(v, n, s) with s unsigned (00 R9). -/
def satU (v : Int) (n : Nat) : Int := max 0 (min v (2 ^ n - 1))

/-- Bit `i` of `x`. -/
def bitAt (x i : Nat) : Bool := x / 2 ^ i % 2 == 1

/-- `x` with its bits [lo + n − 1 : lo] replaced by the low n bits of `v`. -/
def putFld (x lo n v : Nat) : Nat := x - fld x lo n * 2 ^ lo + v % 2 ^ n * 2 ^ lo

/-- Bit-wise AND of two numbers. -/
def bAnd (a b : Nat) : Nat := Nat.land a b

/-- Bit-wise OR of two numbers. -/
def bOr (a b : Nat) : Nat := Nat.lor a b

/-- Bit-wise XOR of two numbers. -/
def bXor (a b : Nat) : Nat := Nat.xor a b

/-- 1 for true. -/
def ofBool (b : Bool) : Nat := if b then 1 else 0

/-- The smaller multiple of `m` at or below `a`. -/
def alignDown (a m : Nat) : Nat := a - a % m

/-- The list 0, 1, …, n − 1. -/
def upTo (n : Nat) : List Nat := List.range n

/-- The number whose fields of `n` bits, lowest first, are the list. -/
def packFields (n : Nat) : List Nat → Nat
  | [] => 0
  | x :: rest => x % 2 ^ n + 2 ^ n * packFields n rest

/-- The `count` fields of `n` bits of a number, lowest first. -/
def splitFields (n count x : Nat) : List Nat := (upTo count).map (fun i => fld x (n * i) n)

end Sys2Proof
end

