-- ==== Sys2Proof/Config.lean ====
section
/-! DEFINITION. What one implementation fixes, and the free values: values the spec says result but does not state.
A free value is a constant with no body, so that nothing can be proved of it but what holds for every value. Each is
applied to an index that the state holds and advances, so that two draws need not agree. -/

namespace Sys2Proof.Config

/-- The number of this package within its load-store domain (06 R119, COREID.PKG). DESIGN CHOICE, log 10. -/
def package : Nat := 0

/-- The packages of the load-store domain, at most 16 (00 R1). DESIGN CHOICE, log 10: the domain is full. -/
def packages : Nat := 16

/-- Logical cores of the package (00 R1). -/
def cores : Nat := 8192

/-- Logical clusters of the package (00 R1). -/
def clusters : Nat := 256

/-- A random or secret word that the platform draws (22 R416, 23 R428). DESIGN CHOICE, log 2. -/
opaque freeWord : Nat → BitVec 384

/-- The energy in nJ that a unit draws over one charge interval (23 R418). DESIGN CHOICE, log 2. -/
opaque freeEnergy : Nat → BitVec 32

/-- The coded bytes of one AV1 frame: the length (23 R434). DESIGN CHOICE, log 2. -/
opaque frameLength : Nat → BitVec 32

/-- One byte of a coded AV1 frame (23 R434): the draw and the position in the frame. DESIGN CHOICE, log 2. -/
opaque frameByte : Nat → Nat → BitVec 8

/-- One word of an SPDM answer whose content the spec leaves to the standard it names (22 R416). DESIGN CHOICE, log 2. -/
opaque spdmWord : Nat → BitVec 384

/-- The range that a core of another package gives up to a steal: its low bound, and its high bound behind 64 bits (08 R154).
DESIGN CHOICE, log 91. -/
opaque remoteRange : Nat → BitVec 128

/-- A byte of an LM or CM unit whose saved copy stands in a retired block: the draw and the position in the unit (10 R199,
23 R427). DESIGN CHOICE, log 82. -/
opaque lostByte : Nat → Nat → BitVec 8

/-- The number of the HBM row that holds a physical address, within its 4 KiB block (23 R425, R427). DESIGN CHOICE, log 74. -/
opaque hbmRow : Nat → Nat

/-- The fuses of the boot ROM: the digest of the vendor's public key, and the security version (22 R417). DESIGN CHOICE,
log 2. -/
opaque vendorDigest : BitVec 384
opaque fusedVersion : Nat

/-- A firmware image by its number: its SHA-384 digest, its version, the 97 bytes of the public key that comes with it, and
r and s of its signature (22 R417). DESIGN CHOICE, log 2. -/
opaque imageDigest : Nat → BitVec 384
opaque imageVersion : Nat → Nat
opaque imageKey : Nat → BitVec 776
opaque imageR : Nat → BitVec 384
opaque imageS : Nat → BitVec 384

end Sys2Proof.Config
end

