-- ==== Sys2Proof/Machine/Sparse.lean ====
section
/-! DEFINITION. Tables with one entry per number: a list of pairs with rising numbers. `get` and `set` leave out entries
that equal the default; `put` lists every entry it is given. -/

namespace Sys2Proof

/-- The value listed for `k`, or the default. -/
def Sparse.get {α : Type} (d : α) : Sparse α → Nat → α
  | [], _ => d
  | (i, v) :: rest, k => if i = k then v else Sparse.get d rest k

/-- The value listed for `k`, if any. -/
def Sparse.look {α : Type} : Sparse α → Nat → Option α
  | [], _ => none
  | (i, v) :: rest, k => if i = k then some v else Sparse.look rest k

/-- The list without its entries for `k`. -/
def Sparse.drop {α : Type} (k : Nat) : Sparse α → Sparse α
  | [] => []
  | (i, v) :: rest => if i = k then Sparse.drop k rest else (i, v) :: Sparse.drop k rest

/-- Insert before the first greater number. -/
def Sparse.insert {α : Type} (k : Nat) (v : α) : Sparse α → Sparse α
  | [] => [(k, v)]
  | (i, u) :: rest => if k < i then (k, v) :: (i, u) :: rest else (i, u) :: Sparse.insert k v rest

/-- The table with `v` at `k`, listed even when it equals a default. -/
def Sparse.put {α : Type} (m : Sparse α) (k : Nat) (v : α) : Sparse α := Sparse.insert k v (Sparse.drop k m)

/-- The table with `v` at `k`; the default is not listed. -/
def Sparse.set {α : Type} [DecidableEq α] (d : α) (m : Sparse α) (k : Nat) (v : α) : Sparse α :=
  if v = d then Sparse.drop k m else Sparse.put m k v

/-- The numbers rise strictly from `lo` on, and no entry equals the default. -/
def Sparse.canonicalFrom {α : Type} [DecidableEq α] (d : α) : Nat → Sparse α → Bool
  | _, [] => true
  | lo, (i, v) :: rest => decide (lo ≤ i) && v != d && Sparse.canonicalFrom d (i + 1) rest

/-- The canonical form of a table with a default. -/
def Sparse.canonical {α : Type} [DecidableEq α] (d : α) (m : Sparse α) : Bool := Sparse.canonicalFrom d 0 m

end Sys2Proof
end

