-- ==== Sys2Proof/Machine/State.lean ====
section
/-! DEFINITION. The state of the whole part as plain data: cores and their activations, clusters and their engines,
memory with its tags, everything in flight between agents, the host's registers, and the order in which the agents move.
Each field names the rule that gives it. -/

namespace Sys2Proof.Machine

/-! ### The core and its activations -/

/-- The two halves of a core (02 R10). -/
inductive Half where
  | a
  | x
  deriving DecidableEq, Repr

/-- An A register: 128 data bits and a tag (02 R30). `wait` is 0, or the number of the access whose reply brings the
value (06 R98). -/
structure AReg where
  data : Word128 := 0
  tag  : Bool := false
  wait : Nat := 0
  deriving DecidableEq, Repr

/-- An entry of LDQ0, LDQ1 or SDQ (02 R16). `wait` is 0 when it holds data, else the number of the access that
reserved it (02 R17). -/
structure QEntry where
  data : Word128 := 0
  wait : Nat := 0
  deriving DecidableEq, Repr

/-- What a buffer entry holds: a word, the OVERLAY entry of 21 R387 or the LOOP_END_ILLEGAL entry of 06 R124. -/
inductive EntryKind where
  | word
  | overlay
  | loopEnd
  deriving DecidableEq, Repr

/-- An entry of an A or X buffer: a hint sequence and its target (02 R12, 03 R49). -/
structure Entry where
  /-- Word address of the first hint, or of the word itself. -/
  pc    : BitVec 14 := 0
  /-- Word address of the target word. -/
  wpc   : BitVec 14 := 0
  hints : List (BitVec 32) := []
  word  : BitVec 32 := 0
  kind  : EntryKind := .word
  /-- How many of the hints have taken their dispatch cycle. -/
  taken : Nat := 0
  /-- Place in the program order of the activation. -/
  seq   : Nat := 0
  /-- The one lane of a gang that executes the word again; none for a word of every member (08 R150, 10 R437). -/
  lane  : Option Nat := none
  deriving DecidableEq, Repr

/-- A loop record (06 R122). -/
structure LoopRec where
  first : BitVec 14
  last  : BitVec 14
  reg   : Nat
  count : Word64
  deriving DecidableEq, Repr

/-- A loop count to be written to `reg` behind the word with place `seq` (06 R123). -/
structure CountWrite where
  seq : Nat
  reg : Nat
  val : Word64
  deriving DecidableEq, Repr

/-- Where an X result goes (02 R19, R26). -/
inductive XDest where
  | slices (start bits : Nat)
  | sdq
  | xaq
  | outb
  | discard
  deriving DecidableEq, Repr

/-- An X write that has been dispatched and has not landed (02 R28), with the flags it raises (13 R243). -/
structure XWrite where
  dest  : XDest
  value : BitVec 256
  flags : BitVec 5 := 0
  deriving DecidableEq, Repr

/-- Membership in a gang (08 R149). -/
structure Gang where
  leaderCore : Nat
  leaderCtx  : Nat
  lane       : Nat
  size       : Nat
  deriving DecidableEq, Repr

/-- Why fetch of an activation has stopped (02 R14, R20; 06 R124; 21 R387). -/
inductive FetchStop where
  | running
  | control
  | ended
  | trapEntry
  deriving DecidableEq, Repr

/-- How a victim of pre-emption stood before it was stopped (10 R194). -/
inductive Stand where
  | running
  | draining (half : Half) (seq : Nat)
  | parked (pc : BitVec 14)
  deriving DecidableEq, Repr

/-- How an activation stands (10 R184, R194). -/
inductive Status where
  | running
  /-- A trap has been taken on the word with place `seq` of a half; older words of the other half go on. -/
  | draining (half : Half) (seq : Nat)
  /-- Parked, with TRAPPC at parking. -/
  | parked (pc : BitVec 14)
  /-- A victim of pre-emption: whether its window and its context are claimed, and how it stood. -/
  | victim (win ctx : Bool) (was : Stand)
  deriving DecidableEq, Repr

/-- What was fixed at admission (08 R141, R144). -/
structure ActInfo where
  /-- The model's own number of the activation, never reused. -/
  id       : Nat := 0
  header   : Word64 := 0
  /-- Admitting inbox 0 to 3; 4 for a trap activation (10 R188). -/
  inbox    : Nat := 1
  /-- For a trap activation, the number of the activation it serves. -/
  serves   : Option Nat := none
  priv     : Bool := false
  /-- Key of the region it belongs to (22 R409). -/
  region   : Nat := 0
  /-- Cycle of the original admission (10 R194). -/
  admitted : Nat := 0
  /-- Time base at arrival and at admission, in ns (23 R432). -/
  arrivedNs  : Nat := 0
  admittedNs : Nat := 0
  /-- First physical slice and number of slices of the window (02 R22). -/
  winBase  : Nat := 0
  winSize  : Nat := 16
  deriving DecidableEq, Repr

/-- The queues and payloads of an activation (02 R16, 08 R136). -/
structure ActQueues where
  ldq0    : List QEntry := []
  ldq1    : List QEntry := []
  sdq     : List Word128 := []
  xaq     : List Word64 := []
  inPay   : BitVec 512 := 0
  inLen   : Nat := 0
  inPos   : Nat := 0
  outPay  : BitVec 512 := 0
  outBits : Nat := 0
  deriving DecidableEq, Repr

/-- Fetch position, buffers, return stack and loop records (02 R12, R41; 06 R122). -/
structure ActFetch where
  pc       : BitVec 14 := 0
  /-- Fetch has run past word address 0x3FFF (02 R10). -/
  wrapped  : Bool := false
  stop     : FetchStop := .running
  abuf     : List Entry := []
  xbuf     : List Entry := []
  /-- Hints fetched whose target has not been fetched. -/
  seqHints : List (BitVec 32) := []
  seqPc    : BitVec 14 := 0
  nextSeq  : Nat := 0
  /-- The outer loop first. -/
  loops    : List LoopRec := []
  counts   : List CountWrite := []
  /-- Hardware part of the return stack, oldest first. -/
  rstack   : List (BitVec 14) := []
  /-- Entries in the spill area. -/
  spilled  : Nat := 0
  /-- Words with a lower place in program order were fetched before the current cycle (07 R130). -/
  seen     : Nat := 0
  deriving DecidableEq, Repr

/-- The operation of an access (06 R105 to R111, R114; 09 R170 to R176). -/
inductive AccKind where
  | load (q bits : Nat) (signed : Bool)
  | loadReg (d bits : Nat) (signed : Bool)
  | loadCap (d : Nat)
  /-- `odd` is 1 when the run starts in the high nibble of its first byte. -/
  | loadNib (q nibs odd : Nat) (signed : Bool)
  | store (data : Word128) (mask : BitVec 16)
  | storeNib (nibs odd : Nat) (data : Word128)
  | storeCap (data : Word128)
  | amo (d f bits : Nat) (operand : Word64)
  | amocas (d bits : Nat) (expect repl : Word64)
  | join
  | stacq (d role : Nat)
  | strel (stage : Nat)
  | steal (d : Nat)
  /-- The load of a BMOV chunk of `len` bytes; `dst` and `dstOff` are its destination's address and offset. -/
  | chunk (dst dstOff len : Nat) (code : Bool)
  /-- MRD (16 R324): the context id, the issue number that it waits for, the row, the first column, and whether it reads
  the flags. -/
  | mrd (q clu id upto row col : Nat) (flags : Bool)
  deriving DecidableEq, Repr

/-- One part of an access with one home (12 R208). -/
structure Piece where
  pa   : Nat
  off  : Nat
  len  : Nat
  done : Bool := false
  /-- Performed by the atomic engine of its line, which answers it (12 R209, R223). -/
  cae  : Bool := false
  deriving DecidableEq, Repr

/-- How far an access has come. -/
inductive AccStage where
  | sent
  /-- Every part has been performed; the answer is under way. -/
  | answered
  /-- Refused at its home (12 R221; 08 R153; 09 R174, R175). -/
  | refused (cause : Nat) (val : Nat)
  deriving DecidableEq, Repr

/-- An access of an activation between its dispatch and its answer, with what takes it back (06 R108). -/
structure Access where
  id      : Nat
  core    : Nat
  act     : Nat
  entry   : Entry
  kind    : AccKind
  /-- Effective virtual address. -/
  va      : Nat
  /-- The offset, which TRAPVAL reports for a stage ring (09 R174). -/
  off     : Nat
  /-- The capability carries CODE (12 R232). -/
  code    : Bool := false
  acquire : Bool := false
  nt      : Bool := false
  region  : Nat := 0
  pieces  : List Piece := []
  /-- What has come back: up to seventeen bytes, for a run of 32 nibbles that starts inside a byte (06 R107). -/
  data    : BitVec 136 := 0
  tag     : Bool := false
  popSdq  : List Word128 := []
  popXaq  : List Word64 := []
  /-- Registers to set back when the access is refused (06 R116). -/
  back    : List (Nat × AReg) := []
  /-- What the registers that wait for the answer hold when the access is taken back; a `wait` there names an older access
  whose answer is still to come (06 R98, R108). -/
  prev    : List (Nat × AReg) := []
  stage   : AccStage := .sent
  /-- The number of its answer in the order of sending, 0 before it is sent (12 R209). -/
  ansNo   : Nat := 0
  /-- A chunk or element that is sent again after an earlier one was refused: its answer has no effect (06 R116). -/
  ghost   : Bool := false
  deriving DecidableEq, Repr

/-- How far a walk has come (12 R227, R439): the address, the level that is read next, counted from the root, and its
table. -/
structure WalkPos where
  va    : Nat
  level : Nat := 0
  table : Nat
  deriving DecidableEq, Repr

/-- What an activation waits for, and its place in the issue policy (07 R134; 08 R152; 09 R180; 10 R184, R186). -/
structure ActFlow where
  status  : Status := .running
  /-- The access whose answer holds the A head. -/
  hold    : Option Nat := none
  /-- WFI holds the A head. -/
  wfi     : Bool := false
  /-- The access that waits for a translation walk, and how far the walk has come; none before its first read. -/
  walk    : Option Access := none
  walkAt  : Option WalkPos := none
  age     : Nat := 0
  mark    : Bool := false
  gang    : Option Gang := none
  /-- Turns in a row in which the oldest word of a drain was starved (10 R184). -/
  starved : Nat := 0
  /-- The port code of the queue for which the A head and the X head met conditions 1 to 3 of 02 R20 in the previous turn. -/
  lackA   : Option Nat := none
  lackX   : Option Nat := none
  /-- The count of the BMOV under way when it was first dispatched, with its place in program order (06 R114). -/
  whole   : Option (Nat × Nat) := none
  /-- The latest trap was that of an OVERLAY or LOOP_END_ILLEGAL entry of the A buffer itself (10 R185, R190). -/
  byEntry : Bool := false
  /-- A words that were taken back and have not been dispatched again: place in program order, and how many entries of SDQ
  and of XAQ they gave back (06 R108, 10 R437). -/
  putBack : List (Nat × Nat × Nat) := []
  deriving DecidableEq, Repr

/-- A resident activation (08 R144). -/
structure Activation where
  info : ActInfo := {}
  win  : BitVec 448 := 0
  regs : Sparse AReg := []
  q    : ActQueues := {}
  f    : ActFetch := {}
  pend : List XWrite := []
  flow : ActFlow := {}
  deriving DecidableEq, Repr

/-- A trap record (10 R183). -/
structure TrapRec where
  cause : BitVec 8 := 0
  ctx   : BitVec 3 := 0
  half  : Bool := false
  late  : Bool := false
  fpc   : BitVec 14 := 0
  pc    : BitVec 14 := 0
  val   : Word64 := 0
  /-- Time base at the fault in ns (10 R189). -/
  ns    : Nat := 0
  deriving DecidableEq, Repr

/-- A copied-out activation: what the record of 10 R195 holds stands in the save area; the rest is kept here. -/
structure Saved where
  act     : Activation
  /-- Its trap record. -/
  record  : TrapRec
  /-- The context it was copied out of, which gives the place of its record (22 R401). -/
  ctx     : Nat
  /-- Its window, and its other state, were copied out. -/
  winOut  : Bool
  ctxOut  : Bool
  deriving DecidableEq, Repr

/-- A message (08 R135), with the region that travels beside it (22 R409). -/
structure Message where
  header    : Word64
  reply     : Option Word128 := none
  payload   : BitVec 512 := 0
  region    : Nat := 0
  arrivedNs : Nat := 0
  /-- The context that sent it, for its trace record (23 R431). -/
  sctx      : Nat := 0
  deriving DecidableEq, Repr

/-- A command sent with SENDE (09 R167). -/
structure Command where
  payload : BitVec 512
  len     : Nat
  cap     : Option Word128
  core    : Nat
  region  : Nat
  deriving DecidableEq, Repr

/-- A message in the outbound buffer (09 R168): to a core, or to an engine context. -/
inductive Outgoing where
  | toCore (m : Message)
  | toEngine (pkg clu ctxId : Nat) (c : Command)
  deriving DecidableEq, Repr

/-- Issue state of one group of activations (07 R134, 10 R193). -/
structure IssueGroup where
  /-- The activation that dispatched last, by number. -/
  lastAct : Option Nat := none
  /-- The context after which the round-robin search starts. -/
  lastCtx : Option Nat := none
  deriving DecidableEq, Repr

/-- The debug module of a core (23 R429, R430). -/
structure Debug where
  halt     : Bool := false
  stepCtx  : BitVec 3 := 0
  stepDone : Bool := false
  stepPark : Bool := false
  /-- A step that has been asked for: its context, and the place of the instruction once it has begun, as BMOV and REP
  dispatch more than once. -/
  want     : Option Nat := none
  stepSeq  : Option Nat := none
  /-- A step whose effects drain: its context. -/
  stepping : Option Nat := none
  /-- The engine operation that the step issued: context id and issue number. -/
  stepOp   : Option (Nat × Nat) := none
  deriving DecidableEq, Repr

/-- An entry of the profile table (23 R432). -/
structure ProfEntry where
  core    : BitVec 13 := 0
  pkg     : BitVec 4 := 0
  valid   : Bool := false
  count   : Word64 := 0
  transit : Word64 := 0
  wait    : Word64 := 0
  run     : Word64 := 0
  deriving DecidableEq, Repr

/-- The CSRs of a core that hold a value of their own (06 R118; 02 R39; 08 R143, R146; 13 R243, R258; 23 R429, R432). -/
structure Csrs where
  xb     : BitVec 17 := 0x10000
  xflags : BitVec 5 := 0
  seed   : Word64 := 0
  /-- The generator of stochastic rounding (13 R258). -/
  rng    : Word64 := 0
  pol    : Bool := false
  t1     : BitVec 8 := 1
  t2     : BitVec 8 := 1
  t3     : BitVec 8 := 1
  lot    : BitVec 32 := 0
  trEn    : Bool := false
  trKinds : BitVec 7 := 0
  psel   : BitVec 5 := 0
  profEn : Bool := false
  deriving DecidableEq, Repr

/-- A logical core. -/
structure Core where
  acts     : Sparse Activation := []
  saved    : List Saved := []
  csr      : Csrs := {}
  trapRecs : Sparse TrapRec := []
  iq       : Sparse (List Message) := []
  /-- The standing selection of 08 R140: an inbox. -/
  selected : Option Nat := none
  /-- Numbers of the parked activations that await a trap activation, in order of parking (10 R188). -/
  parked   : List Nat := []
  /-- The outbound buffer, each message with the number of the activation that sends it. -/
  outbound : List (Nat × Outgoing) := []
  /-- The siding, bottom first (08 R154). -/
  siding   : List (Word64 × Word64) := []
  stolen   : BitVec 32 := 0
  taken    : BitVec 32 := 0
  urgent   : IssueGroup := {}
  normal   : IssueGroup := {}
  /-- The context between a hint and its target (03 R49). -/
  lock     : Option Nat := none
  /-- The activation, by number, whose HYLD target was dispatched in the core's previous turn (07 R134). -/
  yielded  : Option Nat := none
  /-- A gang's head has been dispatched here in the current cycle, in its leader's turn (08 R150). -/
  given    : Bool := false
  /-- The cycle in which the latest message was queued (09 R180). -/
  queued   : Option Nat := none
  dbg    : Debug := {}
  prof     : Sparse ProfEntry := []
  deriving DecidableEq, Repr

/-- What belongs to the physical core behind a logical one (06 R119; 23 R423, R424). -/
structure Phys where
  pcore  : BitVec 6 := 0
  pclu   : BitVec 7 := 0
  /-- CYCLE reads as the clock minus this. -/
  cycBase : Word64 := 0
  failed : Bool := false
  deriving DecidableEq, Repr

/-! ### Memory, accesses in flight, pins -/

/-- A home (12 R205, R206), a core's inboxes beside its LM (R209), or an engine context. -/
inductive Place where
  | lm (core : Nat)
  | cm (clu : Nat)
  | hbm (agent : Nat)
  | cxl
  | pkg (p : Nat)
  | engine (clu ctxId : Nat)
  deriving DecidableEq, Repr

/-- A source agent (12 R209). -/
inductive Agent where
  | core (k : Nat)
  | engine (clu ctxId : Nat)
  | home (p : Place)
  /-- The atomic engine of a cluster (12 R209, R222). -/
  | cae (clu : Nat)
  | front
  | host
  deriving DecidableEq, Repr

/-- A pin record (12 R220): a range of physical bytes, of which it covers those of one home, and the engine operation that it
serves. -/
structure Pin where
  lo    : Nat
  len   : Nat
  home  : Place
  clu   : Nat
  ctxId : Nat
  op    : Nat
  deriving DecidableEq, Repr

/-- What travels from an agent to a destination (12 R209). -/
inductive Body where
  /-- Part `k` of an access. -/
  | piece (acc k : Nat)
  /-- A pin request on its way to its home. -/
  | pin (p : Pin)
  | message (m : Message)
  | command (c : Command)
  /-- A write through CXL.mem: bytes, the first at the address. -/
  | hostWrite (pa : Nat) (bytes : List Byte)
  /-- A write-combining buffer on its way to the port (12 R226): line, valid bytes, data, and the translation roots of the
  stores in it (12 R231). -/
  | wcWrite (clu line : Nat) (valid : BitVec 64) (data : BitVec 512) (roots : List Nat)
  deriving DecidableEq, Repr

/-- Something in flight, with its number in the order of sending. -/
structure Packet where
  id   : Nat
  src  : Agent
  dst  : Place
  body : Body
  deriving DecidableEq, Repr

/-- A change of memory made within one step, applied at its end. -/
inductive MemOp where
  | byte (pa : Nat) (b : Byte)
  | tag (unit : Nat) (t : Bool)
  /-- Bytes and tags of a range become zero and clear. -/
  | zero (lo len : Nat)
  deriving DecidableEq, Repr

/-- The state of one 4 KiB unit of LM or CM (10 R199): whose data it holds, and for which regions a saved copy waits in
their save areas. -/
structure UnitRec where
  owner : Option Nat := none
  saved : List Nat := []
  deriving DecidableEq, Repr

/-! ### The units of a cluster -/

/-- A counter of the signal box (08 R160). -/
structure SbCounter where
  count  : BitVec 16 := 0
  thresh : BitVec 16 := 0
  insel  : BitVec 6 := 0
  deriving DecidableEq, Repr

/-- An output of the signal box (08 R160). -/
structure SbOutput where
  tmask   : BitVec 32 := 0
  target  : BitVec 8 := 0
  pending : Bool := false
  overrun : Bool := false
  en      : Bool := false
  deriving DecidableEq, Repr

/-- A timer of the signal box (08 R160, R161): PERIOD, and the time of its next pulse in ns. -/
structure SbTimer where
  period : BitVec 32 := 0
  next   : Nat := 0
  deriving DecidableEq, Repr

/-- The signal box of a cluster (08 R157 to R161). -/
structure SignalBox where
  idx      : BitVec 7 := 0
  counters : Sparse SbCounter := []
  terms    : Sparse (BitVec 32) := []
  outs     : Sparse SbOutput := []
  timers   : Sparse SbTimer := []
  /-- Lines that have pulsed and are not counted yet. -/
  pulses   : List Nat := []
  deriving DecidableEq, Repr

/-- An entry of a translation buffer (12 R230): the root, the level of the leaf, its page number and the entry. -/
structure TlbEntry where
  root  : Nat
  level : Nat
  page  : Nat
  entry : Word64
  deriving DecidableEq, Repr

/-- A write-combining buffer (12 R226): its line, valid bytes, data, the time of its first byte in ns, and the translation
roots of the stores in it (12 R231). The list of a cluster keeps the least recently written first. -/
structure WcBuf where
  line  : Nat
  valid : BitVec 64
  data  : BitVec 512
  first : Nat
  roots : List Nat := []
  deriving DecidableEq, Repr

/-- The trace encoder and buffer of a cluster (23 R429, R431). -/
structure Trace where
  wptr : BitVec 14 := 0
  dptr : BitVec 14 := 0
  lost : BitVec 32 := 0
  dst  : BitVec 48 := 0
  /-- Records written since TRDST was last written that are not drained, so that a full buffer is told from an empty one. -/
  held : Nat := 0
  /-- Next slot of the drain ring. -/
  ring : BitVec 16 := 0
  recs : Sparse Word128 := []
  /-- Time base at the last record; none when a time record must come first. -/
  last : Option Nat := none
  /-- Records of the cycle `cyc`, whose time base is `at_`: core, context, kind and data, in ascending core order. They enter
  the buffer once the cycle is over (23 R431). -/
  now  : List (Nat × Nat × Nat × Nat) := []
  cyc  : Nat := 0
  at_  : Nat := 0
  deriving DecidableEq, Repr

/-- A frame in progress (23 R435): its descriptor, the bytes of CM that hold back a holder change, as offsets and lengths,
and the STATUS of a frame that does not run. -/
structure Frame where
  desc    : BitVec 512
  ranges  : List (Nat × Nat)
  refusal : Nat
  /-- The holder of the cluster when the frame started, whose bytes it is made from (10 R199). -/
  region  : Option Nat := none
  deriving DecidableEq, Repr

/-- An encoder stream slot of a cluster (23 R434). -/
structure EncSlot where
  /-- Encoder, stream, frame-done line, ring offset in 64-byte units. -/
  bound : Option (Nat × Nat × Nat × Nat) := none
  index : BitVec 4 := 0
  frame : Option Frame := none
  /-- An unbind waits for the frame in progress. -/
  unbind : Bool := false
  deriving DecidableEq, Repr

/-- The timeline of an engine context (12 R219, 09 R177): the issue number most recently given, and the counter. -/
structure Timeline where
  issued  : Word64 := 0
  counter : Word64 := 0
  deriving DecidableEq, Repr

/-! ### Engine contexts (12 R218 to R220; 10 R192, R198; 14, 15, 16, 18) -/

/-- The 64-byte command record of a copy operation (11 R201, 14 R264). -/
abbrev CopyRec := BitVec 512

/-- A grammar operation as issued (18 R351; 20 R373): its kind as 20 R383 numbers it, its operator, X, the descriptor,
and the capabilities of the grammar, the table of rule results and the results; the offset, and the two registers behind
it. -/
structure GrammarOp where
  kind : Nat
  opc  : Nat := 0
  x    : Bool := false
  desc : BitVec 256
  gram : AReg
  rrt  : AReg
  res  : AReg
  off  : Nat
  arg1 : Nat := 0
  arg2 : Nat := 0
  deriving DecidableEq, Repr

/-- What an engine command does, with its operands. -/
inductive Work where
  /-- An operation that was counted as performed before it began (22 R403). -/
  | done
  /-- CPY and CPYCHK: the record, the source and the destination capability (14 R282, R285). -/
  | copy (record : CopyRec) (ca cb : AReg)
  | check (record : CopyRec) (ca cb : AReg)
  /-- The operations of a matrix context: the capability, the offset, and the parameter word (16 R318 to R325). -/
  | mldb (cap : AReg) (off par : Nat)
  | mspec (cap : AReg) (off par : Nat)
  | mzero (first count : Nat)
  /-- MMA is an MMAS with one iteration: offset, parameters, side offset, loop-nest record. -/
  | mmas (cap : AReg) (off par side : Nat) (nest : BitVec 512)
  | mcopy (cap : AReg) (off par : Nat)
  /-- A chain run: its program capability (15 R290). -/
  | chain (prog : AReg)
  | grammar (g : GrammarOp)
  deriving DecidableEq, Repr

/-- A command in the queue of an engine context, by its issue number. -/
structure EngCmd where
  issue  : Nat
  /-- The core that issued it; its own-LM addresses name that core's LM (02 R36). -/
  core   : Nat
  region : Nat
  /-- It waits for the signal box (08 R161). -/
  armed  : Bool := false
  /-- Stores and atomics of its activation that must be acknowledged before it begins (12 R218). -/
  waits  : List Nat := []
  /-- Its program range is pinned when it starts, not when it was issued: a START that came by SENDE (17 R343). -/
  pinLate : Bool := false
  work   : Work
  deriving DecidableEq, Repr

/-- How the operation at the head of a context's queue stands (10 R192). -/
inductive Run where
  | idle
  | running
  /-- A fault has been found; the message about it has not been sent. -/
  | faulted (code val : Nat)
  | parked (code val : Nat)
  deriving DecidableEq, Repr

/-- A miss of an engine context that a walker of the die serves: its number in the order of arrival, and how far the walk
has come (12 R230, R439). -/
structure EngWalk where
  id     : Nat
  region : Nat
  pos    : WalkPos
  deriving DecidableEq, Repr

/-- A walk that found no page: the address, the region, and the physical address of the entry when that lies in a retired
block (12 R229, 23 R427). -/
structure NoPage where
  va     : Nat
  region : Nat
  lost   : Option Nat := none
  deriving DecidableEq, Repr

/-- A range that an operation has still to have pinned (12 R220): the operation, the core whose own-LM addresses it uses, the
region, the agent that sends the requests, and the hold on the A head of the activation that retired the command, 0 for
none. -/
structure PinAsk where
  op     : Nat
  core   : Nat
  region : Nat
  src    : Agent
  va     : Nat
  len    : Nat
  hold   : Nat := 0
  deriving DecidableEq, Repr

/-- What every engine context has: its queue, its operation, the regions for which it was asked to stop, and those for which
it has stopped (10 R198, 22 R409). -/
structure EngCtx where
  queue   : List EngCmd := []
  run     : Run := .idle
  asked   : List Nat := []
  stopped : List Nat := []
  /-- The walk under way, and those that found no page and have not been heard of (12 R229, R230). -/
  walk    : Option EngWalk := none
  noPage  : List NoPage := []
  /-- Ranges whose pin requests wait for a walk, and those whose pages do not translate, which are asked for again when the
  operation is resumed (12 R220). -/
  owed    : List PinAsk := []
  late    : List PinAsk := []
  /-- Its macros were given up at a stop and must be claimed and loaded again (16 R313, 17 R337). -/
  lost    : Bool := false
  deriving DecidableEq, Repr

/-- The progress of a copy operation (14 R203, R259, R279). -/
structure CopyProg where
  /-- The next output row, and the 4 KiB piece of it. -/
  row       : Nat := 0
  piece     : Nat := 0
  /-- The conversion generator and the position in the group of 32 at the start of the row. -/
  gen       : BitVec 32 := 0
  pos       : Nat := 0
  /-- The chunk's record: its first row, with the generator and the position there. -/
  chunkRow  : Nat := 0
  chunkGen  : BitVec 32 := 0
  chunkPos  : Nat := 0
  delivered : Nat := 0
  /-- The source rows of a CRCM 2 operation, or of a CPYCHK, have been checked. -/
  verified  : Bool := false
  /-- The next source row to be checked, the 4 KiB piece of it, and the state of its CRC before that piece (14 R277). -/
  vrow      : Nat := 0
  vpiece    : Nat := 0
  crc       : BitVec 64 := BitVec.ofNat 64 (2 ^ 64 - 1)
  /-- The rows of a CPYCHK that did not match, and the first of them (14 R285). -/
  misses    : Nat := 0
  firstMiss : Nat := 2 ^ 64 - 1
  /-- Bytes of a compressed destination's data area in use (14 R275). -/
  used      : Nat := 0
  /-- Gathered rows that are pinned. -/
  gathered  : List Nat := []
  deriving DecidableEq, Repr

/-- A recorded source of a macro row or of a special group (16 R299): the capability, the offset, the format, and the
operation that loaded it. -/
structure RowSrc where
  cap    : AReg
  off    : Nat
  fmt    : BitVec 2
  core   : Nat
  region : Nat
  issue  : Nat
  deriving DecidableEq, Repr

/-- A macro (16 R297 to R300): its rows of 512 cells, the B format of each row, its specials by group, and its owner by
context id with the region that claimed it. -/
structure MacroUnit where
  rows  : Sparse (BitVec 2048) := []
  fmts  : Sparse (BitVec 2) := []
  specs : Sparse (BitVec 2560) := []
  owner : Option (Nat × Nat) := none
  deriving DecidableEq, Repr

/-- What a matrix context keeps beside its queue (16 R296). -/
structure MatrixCtx where
  /-- The macros it owns, by number, with the region that claimed each. -/
  owned : List (Nat × Nat) := []
  /-- Recorded sources: of rows by macro × 128 + row, of special groups by macro × 4 + group. -/
  rowSrc  : Sparse RowSrc := []
  specSrc : Sparse RowSrc := []
  /-- The loop-nest record. -/
  nest  : BitVec 512 := 0
  /-- The A rows of the two latest iterations. -/
  rowBuf : List (List Int) := []
  /-- The next iteration or row of the operation. -/
  step  : Nat := 0
  deriving DecidableEq, Repr

/-- Where a macro row that a chain context loaded came from (15 R292, 17 R331 to R333): the capability and offset of the
core, its format, whether it is transposed, its dimensions, and the row. -/
structure ChainSrc where
  cap    : AReg
  data   : Nat
  fmt    : Nat
  trans  : Bool
  nin    : Nat
  nout   : Nat
  bdo    : Nat
  n      : Nat
  row    : Nat
  core   : Nat
  region : Nat
  deriving DecidableEq, Repr

/-- The writes that a parked step has begun (15 R294, 17 R335): a gradient or a boundary, its ACC rows and columns, and how
they are written. -/
structure ChainWb where
  grad   : Bool
  rows   : Nat
  n      : Nat
  accrow : Nat
  shift  : Nat
  sw     : Nat
  p      : Nat
  b      : Nat
  bdo    : Nat
  q      : Nat
  /-- The gradient's writes have been sent, at this cursor, and the cursor has advanced (17 R334). -/
  sent   : Option Nat := none
  deriving DecidableEq, Repr

/-- A command that came through SENDE and waits for an idle chain context (17 R343): its opcode, f9, value, capability,
sender, and for a START its issue number. -/
structure ChainCmd where
  op     : Nat
  f9     : Nat
  val    : Nat
  cap    : Option Word128
  core   : Nat
  region : Nat
  issue  : Nat
  /-- Its region has ended: a START counts as performed, and nothing else happens (22 R403). -/
  dead   : Bool := false
  deriving DecidableEq, Repr

/-- What a chain context keeps beside its run (15 R288, R293; 17 R327). -/
structure ChainCtx where
  /-- BD0 to BD15; an unlisted one holds 1. -/
  bd     : Sparse (BitVec 16) := []
  prog   : AReg := {}
  buf    : AReg := {}
  grad   : AReg := {}
  cursor : Word64 := 0
  satc   : BitVec 32 := 0
  p      : Nat := 0
  d      : Nat := 0
  rm     : Nat := 0
  bw     : Nat := 0
  s      : Nat := 0
  /-- The variables of step 0 have been set, and its input fits. -/
  begun  : Bool := false
  ovf    : Bool := false
  wb     : Option ChainWb := none
  /-- The buffer that holds the boundary, when CHPROG.KEEP has named another. -/
  oldBuf : Option AReg := none
  /-- The macros it holds, with the region that claimed each, and those it gave up at a stop and will claim back (17 R337). -/
  held   : List (Nat × Nat) := []
  owed   : List (Nat × Nat) := []
  /-- The record of the current step has been read, so that the context stands at no boundary (17 R337). -/
  mid    : Bool := false
  /-- Ranges of the program, by offset and length, whose pins have been requested since the run began (15 R295). -/
  asked  : List (Nat × Nat) := []
  /-- The record of the current step, once it has been read (15 R293, R294). -/
  recd   : Option (BitVec 256) := none
  rowSrc : Sparse ChainSrc := []
  specSrc : Sparse ChainSrc := []
  cmds   : List ChainCmd := []
  deriving DecidableEq, Repr

/-- How far a grammar operation has come (19 R358, R367; 20 R376 to R381). -/
structure GrammarRun where
  /-- 0 rules, 1 fold, 2 expansion, 3 descent. -/
  phase : Nat := 0
  /-- The key of COUNTEQ and AFFINE, once it has been read (19 R362). -/
  key   : Option Nat := none
  /-- The next rule, top symbol, element or step of the phase. -/
  item  : Nat := 0
  /-- The running fold, and the length or position that goes with it. -/
  acc   : Nat := 0
  len   : Nat := 0
  /-- The row under way, and the row table once it has been read. -/
  row   : Nat := 0
  table : Option (List Nat) := none
  /-- The result record has been written. -/
  wrote : Bool := false
  /-- Symbols that the expansion has still to walk, and the next top symbol behind them. -/
  stack : List Nat := []
  top   : Nat := 0
  /-- Search and descent steps of GRAT (20 R381). -/
  steps : Nat := 0
  /-- The symbol that the descent has reached, the bound of the rules it may name, and what names it in TRAPVAL. -/
  sym   : Nat := 0
  lim   : Nat := 0
  here  : Nat := 0
  fin   : Bool := false
  deriving DecidableEq, Repr

/-- What a grammar context keeps beside its queue (18 R345; 20 R382): the installed grammar, the run, and KIND and the
counters of the latest operation. -/
structure GrammarCtx where
  gram  : AReg := {}
  rrt   : AReg := {}
  desc  : BitVec 256 := 0
  run   : GrammarRun := {}
  kind  : Nat := 0
  rules : Nat := 0
  tops  : Nat := 0
  reads : Nat := 0
  elems : Nat := 0
  deriving DecidableEq, Repr

/-- A stage request that waits at a ring (08 R152): the access that made it, and the ring's physical address. -/
structure RingWait where
  acc : Nat
  pa  : Nat
  deriving DecidableEq, Repr

/-! ### The host's side: registers, partitions, regions, health -/

/-- A partition (22 R395): its entry, with ACTIVE and CLEARING, its launch log (R416) and the two 256-bit keys in its key
slot, of the data and of the tweak (R397). -/
structure Partition where
  entry    : BitVec 1024 := 0
  log      : BitVec 384 := 0
  dataKey  : BitVec 256 := 0
  tweakKey : BitVec 256 := 0
  deriving DecidableEq, Repr

/-- How far the record that a VF is serving has come (22 R404 to R407). -/
inductive ServePhase where
  | idle
  /-- Slot `s` waits for its clusters (R406), or for wake-up. -/
  | waiting (s : Nat)
  /-- Slot `s` is placed; its first messages follow. -/
  | placed (s : Nat)
  deriving DecidableEq, Repr

/-- The registers of a VF (22 R402; 23 R428, R434). -/
structure Vf where
  slots   : Sparse (BitVec 1024) := []
  status  : Sparse (BitVec 8) := []
  /-- STATE of each slot. -/
  stat    : Sparse (BitVec 2) := []
  /-- Submitted slots in doorbell order. -/
  order   : List Nat := []
  phase   : ServePhase := .idle
  part    : BitVec 6 := 0
  bound   : Bool := false
  scope   : BitVec 4 := 0
  expiry  : Word64 := 0
  nonce   : BitVec 256 := 0
  token   : BitVec 2048 := 0
  dbgSel  : BitVec 21 := 0
  encStat : BitVec 8 := 0
  /-- Cluster and slot of the last accepted ENCBIND write. -/
  encSlot : Option (Nat × Nat) := none
  deriving DecidableEq, Repr

/-- The resolved fields of a region control block (22 R398, R399). -/
structure RegionFields where
  prio    : BitVec 8 := 0
  tickets : BitVec 16 := 0
  dataCap : AReg := {}
  cmask   : BitVec 256 := 0
  slices  : BitVec 16 := 0
  cims    : BitVec 8 := 0
  cmb     : BitVec 32 := 0
  hbmLen  : Word64 := 0
  hbmLo   : Word64 := 0
  energy  : Word64 := 0
  eper    : Word64 := 0
  fault   : Word64 := 0
  ptroot  : Word64 := 0
  savepa  : Word64 := 0
  quantum : Word64 := 0
  share   : BitVec 16 := 0
  deriving DecidableEq, Repr

/-- The contract of a region and the state of its job (22 R410 to R412). -/
structure Contract where
  period   : Word64 := 0
  budget   : Word64 := 0
  deadline : Word64 := 0
  admitted : Bool := false
  /-- Time of the latest release in ns; none before the first messages. -/
  release  : Option Nat := none
  next     : Nat := 0
  /-- Budget left, in ns. -/
  left     : Nat := 0
  /-- The job is not complete; it is ready; it holds its clusters, since this time. -/
  active   : Bool := false
  ready    : Bool := false
  held     : Option Nat := none
  /-- Its deadline has been looked at for this release. -/
  judged   : Bool := false
  deriving DecidableEq, Repr

/-- A registered region (22 R398, R403). -/
structure Region where
  eff      : RegionFields := {}
  /-- The keys of its ancestors, from the parent up to the root, as its registration found them. -/
  above    : List Nat := []
  launched : Bool := false
  /-- The record that launched it, whose first messages a contract sends again, and the time at which they were first sent
  (22 R410). -/
  record   : BitVec 1024 := 0
  t0       : Nat := 0
  rt       : Bool := false
  contract : Contract := {}
  /-- Energy spent in the window that starts at `window`, in nJ (22 R414). -/
  spent    : Nat := 0
  window   : Nat := 0
  deriving DecidableEq, Repr

/-- A PREPARE in progress (22 R415): at the coordinator, the packages whose answer is awaited and the time limit; at
another package, the coordinator. -/
structure Prepare where
  record   : BitVec 1024
  /-- The VF and slot at the coordinator. -/
  vf       : Nat
  slot     : Nat
  coord    : Option Nat
  awaiting : List Nat
  limit    : Nat
  prepared : Bool
  deriving DecidableEq, Repr

/-- The SPDM responder of one function (22 R416): how far the exchange has come, and the session. -/
structure Spdm where
  version    : Bool := false
  caps       : Bool := false
  negotiated : Bool := false
  exchange   : Bool := false
  session    : Bool := false
  deriving DecidableEq, Repr

/-- Where an uncorrectable error counts (23 R425): an HBM row, by its 4 KiB block and its number within it; a 4 KiB unit of
an LM, by physical cluster, core position and number; one of a CM; a physical core. -/
inductive ErrorSite where
  | row (block num : Nat)
  | lm (clu pos num : Nat)
  | cm (clu num : Nat)
  | core (clu pos : Nat)
  deriving DecidableEq, Repr

/-- The registers that only the PF reaches, and the functions behind them (22 R394; 23 R422 to R427). -/
structure Platform where
  pentry   : BitVec 1024 := 0
  busy     : Bool := false
  /-- The partition whose CREATE is clearing. -/
  clearing : Option Nat := none
  result   : BitVec 8 := 0
  readyClu : BitVec 256 := 0
  sched    : Bool := false
  cxl      : Bool := false
  hbm      : BitVec 12 := 0
  link     : BitVec 12 := 0
  enc      : BitVec 32 := 0
  health   : BitVec 5 := 0
  /-- Retired 4 KiB blocks of HBM; logical clusters that failed with no spare left. -/
  retired  : List Nat := []
  lostClu  : List Nat := []
  /-- HBM channel agents that have failed: all their blocks are retired (23 R424). -/
  deadAgents : List Nat := []
  /-- The last microsecond whose energy has been charged (23 R420). -/
  charged  : Nat := 0
  /-- Spare cores used in each cluster, and spare clusters used on each die. -/
  coreSpares : Sparse Nat := []
  cluSpares  : Sparse Nat := []
  /-- Uncorrectable errors met: the row, unit or core, and the time in ns. -/
  errors   : List (ErrorSite × Nat) := []
  /-- The firmware images of the device and of the scheduler, by number, and the updates that take effect at the next reset
  (22 R417). -/
  devImage    : Nat := 0
  schedImage  : Nat := 1
  devUpdate   : Option Nat := none
  schedUpdate : Option Nat := none
  deriving DecidableEq, Repr

/-- What leaves the device and is not modelled beyond its border. -/
inductive Outside where
  /-- A message to another package of the domain. -/
  | message (m : Message)
  /-- A command to an engine of another package. -/
  | command (pkg clu ctxId : Nat) (c : Command)
  /-- A part of an access to another package. -/
  | access (acc pa len : Nat)
  /-- A CXL event record: a reason, and a number that says of what. -/
  | event (reason what : Nat)
  /-- An MSI-X vector of a VF. -/
  | msix (vf vector : Nat)
  /-- A PREPARE, acknowledgement, refusal, COMMIT or ABORT on the package links. -/
  | link (pkg kind : Nat) (record : BitVec 1024)
  /-- An answer of a CXL.mem read: the address and the bytes. -/
  | memData (vf pa : Nat) (bytes : List Byte)
  /-- An answer of an SPDM responder: function, request code, status, and words of content. -/
  | spdm (fn code : Nat) (status : Nat) (words : List Nat)
  /-- The value of a DBGDATA read. -/
  | dbgData (vf : Nat) (val : Word64)
  deriving DecidableEq, Repr

/-! ### The whole part -/

/-- A logical cluster. -/
structure Cluster where
  sb       : SignalBox := {}
  tlb      : List TlbEntry := []
  wc       : List WcBuf := []
  /-- Checked-out HBM lines, the least recently used first (12 R223). -/
  cae      : List Nat := []
  /-- The holder region (22 R409). -/
  holder   : Option Nat := none
  /-- Messages at the ingress that wait for their region, in order of arrival, each with its core. -/
  ingress  : List (Nat × Message) := []
  /-- The scheduler's lottery state, and the number of the last quantum it has seen (22 R413). -/
  lot      : BitVec 32 := 0
  quantum  : Nat := 0
  /-- The last draw found no region for the cluster, which has had no holder since (22 R413). -/
  vacant   : Bool := false
  /-- Power-gated since this cycle, and the cycles that it has been gated before (23 R421). -/
  gated    : Option Nat := none
  slept    : Nat := 0
  energy   : Word64 := 0
  trace    : Trace := {}
  enc      : Sparse EncSlot := []
  ring     : List RingWait := []
  /-- Timelines and engine contexts by context id, class × 32 + index. -/
  tl       : Sparse Timeline := []
  eng      : Sparse EngCtx := []
  copies   : Sparse CopyProg := []
  matrix   : Sparse MatrixCtx := []
  chains   : Sparse ChainCtx := []
  grammars : Sparse GrammarCtx := []
  macs     : Sparse MacroUnit := []
  /-- The accumulator store (16 R304): rows of 512 columns of 32 bits, and the flags OVF and NAN of each row. -/
  acc      : Sparse (BitVec 16384) := []
  accFlags : Sparse (BitVec 2) := []
  deriving DecidableEq, Repr

/-- A move of one agent, in the agenda. -/
inductive Move where
  /-- The core's turn: fetch, and at most one dispatch. -/
  | core (k : Nat)
  /-- An event of Instr. -/
  | event (i : Instr)
  /-- An event that a message on the package links brings: its sender, its record, and the event (22 R415). -/
  | linked (pkg : Nat) (record : BitVec 1024) (i : Instr)
  /-- Time passes: cycles. -/
  | tick (n : Nat)
  deriving DecidableEq, Repr

/-- What became of the latest dispatch. -/
inductive Verdict where
  | none
  | stalled
  /-- A head has had an effect of its wait and is not dispatched yet (12 R226, R231). -/
  | waiting
  | trapped
  | done
  deriving DecidableEq, Repr

/-- The core and context that a dispatch acts for. -/
structure Focus where
  core : Nat := 0
  ctx  : Nat := 0
  /-- The half that the turn has chosen, where it matters which of two heads with the same hint is meant. -/
  half : Option Half := none
  deriving DecidableEq, Repr

/-- The state of the machine. -/
structure State where
  cores    : Sparse Core := []
  phys     : Sparse Phys := []
  clusters : Sparse Cluster := []
  /-- Physical bytes that are not zero (12 R205). -/
  mem      : Sparse Byte := []
  /-- The 16-byte units whose tag is set (02 R37). -/
  tags     : Sparse Bool := []
  /-- Changes of memory made in the step under way, the latest first. -/
  wlog     : List MemOp := []
  /-- Accesses of the save path to retired blocks in the step under way: the region whose save area it is, and the physical
  address. Their fault messages are sent at the end of the step (10 R191, 23 R427). -/
  saveErrs : List (Nat × Nat) := []
  /-- Records of 4 KiB units of LM and CM, by physical address over 4,096. -/
  units    : Sparse UnitRec := []
  /-- What is in flight, in order of sending. -/
  net      : List Packet := []
  accs     : List Access := []
  /-- The pins that their homes have recorded (12 R220). -/
  pins     : List Pin := []
  regions  : Sparse Region := []
  parts    : Sparse Partition := []
  vfs      : Sparse Vf := []
  platform : Platform := {}
  /-- Launches over several packages that are being prepared here, the oldest first (22 R415). -/
  prepare  : List Prepare := []
  /-- Sender and record of the message on the package links that the step under way receives (22 R415). -/
  link     : Option (Nat × BitVec 1024) := none
  spdm     : Sparse Spdm := []
  /-- Energy counters of the HBM stacks, and the accesses of each region to a stack since the last charge (23 R418, R420). -/
  hbmEnergy : Sparse Word64 := []
  hbmUse   : List (Nat × Nat) := []
  /-- Cycles since reset (00 R1). -/
  clock    : Nat := 0
  /-- Numbers of accesses, packets and activations given so far. -/
  nextId   : Nat := 1
  /-- The index of the next free value. -/
  fresh    : Nat := 0
  out      : List Outside := []
  agenda   : List Move := []
  focus    : Focus := {}
  verdict  : Verdict := .none
  deriving DecidableEq, Repr

/-- The generator state that a write of `seed` to SEED gives a core (13 R258). -/
def rngOfSeed (core : Nat) (seed : Word64) : Word64 :=
  let x := seed ^^^ BitVec.ofNat 64 (core * 0x9E3779B97F4A7C15)
  if x = 0 then 1 else x

/-- A logical core after reset (08 R143, 13 R258). -/
def Core.reset (k : Nat) : Core :=
  { csr := { rng := rngOfSeed k 0, lot := BitVec.ofNat 32 (k + 1) } }

/-- The physical core behind logical core `k` after reset: its own position. DESIGN CHOICE, log 3. -/
def Phys.reset (k : Nat) : Phys :=
  { pcore := BitVec.ofNat 6 (k % 32), pclu := BitVec.ofNat 7 (k / 32 % 64) }

/-- A logical cluster after reset (22 R413; log 3). -/
def Cluster.reset (g : Nat) : Cluster := { lot := BitVec.ofNat 32 (g + 1) }

/-- A VF after reset: its nonce is a free value (23 R428). -/
def Vf.reset (v : Nat) : Vf := { nonce := (Config.freeWord v).setWidth 256 }

/-- The machine right after reset: nothing is resident, nothing is in flight, memory reads zero. -/
def State.reset : State := { fresh := 256 }

/-- Why a run ends in a fault. No trap of the part stops it (10 R182), so no meaning raises one. -/
inductive Fault where
  /-- Never raised. The type holds it because a stopped machine needs a name; safe. -/
  | machineCheck
  deriving DecidableEq, Repr

/-- Why an instruction has no meaning in the model. -/
inductive Refusal where
  /-- Raised by an arm of exec whose instruction is not modelled yet; safe. No arm raises it. -/
  | notModelled (mnemonic : String)
  deriving DecidableEq, Repr

/-- The outcome of a step of this machine. -/
abbrev Out := Host.Outcome State Fault Refusal

end Sys2Proof.Machine
end

