-- ==== Sys2Proof/Machine/Memory.lean ====
section
/-! DEFINITION. Memory: one map of physical bytes with a tag for each 16-byte unit (02 R37, 12 R205). A step logs its
changes in `wlog`, the latest first; reads look there first; the end of the step applies the log to the memory it began with. A write of a byte clears
the tag of its unit; only a `tag` entry sets one. -/

namespace Sys2Proof.Machine

/-- What an address reads as behind a log of changes. -/
def byteIn (m : Sparse Byte) : List MemOp → Nat → Byte
  | [], pa => Sparse.get 0 m pa
  | .byte p b :: rest, pa => if p = pa then b else byteIn m rest pa
  | .tag _ _ :: rest, pa => byteIn m rest pa
  | .zero lo len :: rest, pa => if lo ≤ pa ∧ pa < lo + len then 0 else byteIn m rest pa

/-- The tag of a unit behind a log of changes. -/
def tagIn (m : Sparse Bool) : List MemOp → Nat → Bool
  | [], u => Sparse.get false m u
  | .byte p _ :: rest, u => if p / 16 = u then false else tagIn m rest u
  | .tag v t :: rest, u => if v = u then t else tagIn m rest u
  | .zero lo len :: rest, u => if lo ≤ 16 * u ∧ 16 * u < lo + len then false else tagIn m rest u

/-- One change applied to the bytes. -/
def MemOp.onBytes (op : MemOp) (m : Sparse Byte) : Sparse Byte :=
  match op with
  | .byte pa b => Sparse.set 0 m pa b
  | .tag _ _ => m
  | .zero lo len => m.filter (fun e => !(decide (lo ≤ e.1) && decide (e.1 < lo + len)))

/-- One change applied to the tags. -/
def MemOp.onTags (op : MemOp) (m : Sparse Bool) : Sparse Bool :=
  match op with
  | .byte pa _ => Sparse.set false m (pa / 16) false
  | .tag u t => Sparse.set false m u t
  | .zero lo len => m.filter (fun e => !(decide (lo ≤ 16 * e.1) && decide (16 * e.1 < lo + len)))

/-- The bytes of memory after a log of changes. -/
def applyBytes (m : Sparse Byte) : List MemOp → Sparse Byte
  | [] => m
  | op :: rest => op.onBytes (applyBytes m rest)

/-- The tags of memory after a log of changes. -/
def applyTags (m : Sparse Bool) : List MemOp → Sparse Bool
  | [] => m
  | op :: rest => op.onTags (applyTags m rest)

/-- The canonical form of memory: rising addresses, no byte listed that is zero, no tag listed that is clear. -/
def Memory.wf (s : State) : Bool :=
  Sparse.canonical (0 : Byte) s.mem && Sparse.canonical false s.tags

/-- The byte at a physical address. -/
def State.byteAt (s : State) (pa : Nat) : Byte := byteIn s.mem s.wlog pa

/-- The tag of the 16-byte unit with number `u` (02 R37). -/
def State.tagAt (s : State) (u : Nat) : Bool := tagIn s.tags s.wlog u

/-- `n` bytes from `pa` on. -/
def State.bytesAt (s : State) (pa : Nat) : Nat → List Byte
  | 0 => []
  | n + 1 => s.byteAt pa :: s.bytesAt (pa + 1) n

/-- The number whose bytes are the list, the lowest first (00 R5). -/
def ofBytes : List Byte → Nat
  | [] => 0
  | b :: rest => b.toNat + 256 * ofBytes rest

/-- The `n` bytes of a number, the lowest first. -/
def toBytes : Nat → Nat → List Byte
  | 0, _ => []
  | n + 1, v => BitVec.ofNat 8 v :: toBytes n (v / 256)

/-- The little-endian number of `n` bytes at `pa`. -/
def State.natAt (s : State) (pa n : Nat) : Nat := ofBytes (s.bytesAt pa n)

/-- Write one byte; the tag of its unit clears. -/
def State.putByte (s : State) (pa : Nat) (b : Byte) : State := { s with wlog := .byte pa b :: s.wlog }

/-- Write bytes from `pa` on, the lowest address first. -/
def State.putBytes (s : State) (pa : Nat) : List Byte → State
  | [] => s
  | b :: rest => (s.putByte pa b).putBytes (pa + 1) rest

/-- Write the `n` low bytes of a number at `pa`. -/
def State.putNat (s : State) (pa n v : Nat) : State := s.putBytes pa (toBytes n v)

/-- Set or clear the tag of a unit. -/
def State.putTag (s : State) (u : Nat) (t : Bool) : State := { s with wlog := .tag u t :: s.wlog }

/-- Zero a range and clear its tags. -/
def State.zeroRange (s : State) (lo len : Nat) : State := { s with wlog := .zero lo len :: s.wlog }

/-! ### The physical map (12 R205, R206) -/

/-- First physical byte of the LM of a logical core. -/
def lmBase (core : Nat) : Nat := 0xC000000000 + 0x10000 * core

/-- First physical byte of the CM of a logical cluster. -/
def cmBase (clu : Nat) : Nat := 0xC800000000 + 0x100000 * clu

/-- The first three rows of R205: the home inside a package. -/
def localPlace (pa : Nat) : Option Place :=
  if pa < 0xC000000000 then some (.hbm (pa / 4096 % 384))
  else if pa < 0xC020000000 then some (.lm ((pa - 0xC000000000) / 0x10000))
  else if decide (0xC800000000 ≤ pa) && decide (pa < 0xC810000000) then some (.cm ((pa - 0xC800000000) / 0x100000))
  else none

/-- The home of a physical address; none in no row of R205, in the row of the own package, or in that of a package
outside the domain (12 R207). -/
def placeOf (pa : Nat) : Option Place :=
  if pa < 0x100000000000 then localPlace pa
  else if pa < 0x200000000000 then some .cxl
  else if pa < 0x300000000000 then
    let p := (pa - 0x200000000000) / 2 ^ 40
    if p = Config.package then none
    else if decide (p < Config.packages) && (localPlace (pa % 2 ^ 40)).isSome then some (.pkg p)
    else none
  else none

/-- The die that the HBM stack of an address is attached to (12 R206). -/
def hbmDie (agent : Nat) : Nat := agent / 32 / 3

/-- A home lies within scope `p` of an activation on core `k` (12 R210). -/
def inScope (p k : Nat) (pl : Place) : Bool :=
  match pl with
  | .lm c => (p == 0 && c == k) || (p == 1 && c / 32 == k / 32) || (p == 2 && c / 2048 == k / 2048) || decide (3 ≤ p)
  | .cm g => (p == 1 && g == k / 32) || (p == 2 && g / 64 == k / 2048) || decide (3 ≤ p)
  | .hbm i => (p == 2 && hbmDie i == k / 2048) || decide (3 ≤ p)
  | .pkg _ => decide (4 ≤ p)
  | .cxl => decide (5 ≤ p)
  | .engine _ _ => false

/-- The time base in ns: 0.4 ns for each cycle (00 R1). -/
def State.ns (s : State) : Nat := s.clock * 2 / 5

/-! ### Units by number -/

def State.core (s : State) (k : Nat) : Core := Sparse.get (Core.reset k) s.cores k
def State.setCore (s : State) (k : Nat) (c : Core) : State := { s with cores := Sparse.put s.cores k c }
def State.physOf (s : State) (k : Nat) : Phys := Sparse.get (Phys.reset k) s.phys k
def State.setPhys (s : State) (k : Nat) (p : Phys) : State := { s with phys := Sparse.put s.phys k p }
def State.cluster (s : State) (g : Nat) : Cluster := Sparse.get (Cluster.reset g) s.clusters g
def State.setCluster (s : State) (g : Nat) (c : Cluster) : State := { s with clusters := Sparse.put s.clusters g c }
def State.vf (s : State) (v : Nat) : Vf := Sparse.get (Vf.reset v) s.vfs v
def State.setVf (s : State) (v : Nat) (x : Vf) : State := { s with vfs := Sparse.put s.vfs v x }
def State.part (s : State) (p : Nat) : Partition := Sparse.get {} s.parts p
def State.setPart (s : State) (p : Nat) (x : Partition) : State := { s with parts := Sparse.put s.parts p x }

/-- The region registered under a key: partition × 2^24 + offset of its RCB. -/
def State.region? (s : State) (key : Nat) : Option Region := Sparse.look s.regions key

/-- The region under a key, or one with no fields. -/
def State.region (s : State) (key : Nat) : Region := (s.region? key).getD {}
def State.setRegion (s : State) (key : Nat) (r : Region) : State := { s with regions := Sparse.put s.regions key r }

/-- The partition of a region key. -/
def partOf (key : Nat) : Nat := key / 2 ^ 24

/-- A block of HBM that has been retired (23 R424, R427). -/
def State.isRetired (s : State) (pa : Nat) : Bool :=
  decide (pa < 0xC000000000) &&
    (s.platform.retired.contains (pa / 4096) || s.platform.deadAgents.contains (pa / 4096 % 384))

/-! ### The fields of a partition entry (22 R395) -/

def Partition.granted (p : Partition) (g : Nat) : Bool := bitAt p.entry.toNat g
def Partition.hbmBase (p : Partition) : Nat := fld p.entry.toNat 256 64
def Partition.hbmLen (p : Partition) : Nat := fld p.entry.toNat 320 64
def Partition.owner (p : Partition) : Nat := fld p.entry.toNat 384 384
def Partition.active (p : Partition) : Bool := bitAt p.entry.toNat 768
def Partition.isClearing (p : Partition) : Bool := bitAt p.entry.toNat 769

/-- The active partition that owns a logical cluster. -/
def State.ownerOf (s : State) (g : Nat) : Option Nat :=
  (upTo 64).find? (fun p => (s.part p).active && (s.part p).granted g)

/-! ### Lazy saving of 4 KiB units of LM and CM (10 R199, 22 R401) -/

/-- The part of a region's save area that belongs to a cluster. -/
def saveArea (r : Region) (g : Nat) : Nat :=
  r.eff.savepa.toNat + 0x400000 * ((upTo g).filter (fun j => bitAt r.eff.cmask.toNat j)).length

/-- Where the record of a context lies; none when the region is not registered. -/
def State.recordPa (s : State) (region core ctx : Nat) : Option Nat :=
  (s.region? region).map (fun r => saveArea r (core / 32) + (core % 32 * 8 + ctx) * 0x900)

/-- A block that the record of a context lies in has been retired (23 R427): its address. -/
def State.recordLost (s : State) (region core ctx : Nat) : Option Nat :=
  (s.recordPa region core ctx).bind (fun pa => [pa, pa + 0x8FF].find? s.isRetired)

/-- The record of a context where it can be read and written; the save path reads and writes nothing of one that lies in a
retired block, and the activation ends when it is to be restored: DESIGN CHOICE, log 82. -/
def State.recordIn (s : State) (region core ctx : Nat) : Option Nat :=
  if (s.recordLost region core ctx).isSome then none else s.recordPa region core ctx

/-- Where a region saves the unit that starts at `pa` of LM or CM. -/
def unitSave (r : Region) (pa : Nat) : Nat :=
  match placeOf pa with
  | some (.lm c) => saveArea r (c / 32) + 0x100000 + c % 32 * 0x10000 + pa % 0x10000
  | some (.cm g) => saveArea r g + 0x300000 + pa % 0x100000
  | _ => 0

/-! ### The atomic engines' lines (12 R222, R223) -/

/-- The logical number of the atomic home cluster of an HBM address (12 R222). -/
def caeOf (pa : Nat) : Nat :=
  64 * hbmDie (pa / 4096 % 384) + bXor (bXor (fld pa 6 6) (fld pa 12 6)) (fld pa 18 6)

/-- The line of an HBM address is checked out (12 R223). -/
def State.checkedOut (s : State) (pa : Nat) : Bool := decide (pa < 0xC000000000) && (s.cluster (caeOf pa)).cae.contains (pa / 64)

/-- A line is checked out, or becomes the one used latest. -/
def State.caeUse (s : State) (pa : Nat) : State :=
  let g := caeOf pa
  let line := pa / 64
  let cl := s.cluster g
  s.setCluster g { cl with cae := cl.cae.filter (fun l => l != line) ++ [line] }

/-- The checked-out lines of a range are used: the agent forwards every access to them (12 R223). -/
def State.useRange (s : State) (pa len : Nat) : State :=
  if len = 0 then s
  else (upTo ((pa % 64 + len + 63) / 64)).foldl (fun t i =>
    let a := alignDown pa 64 + 64 * i
    if t.checkedOut a then t.caeUse a else t) s

/-- Copy `n` bytes with the tags of their units; both addresses are multiples of 16. -/
def State.copyUnits (s : State) (src dst n : Nat) : State :=
  let s0 := (s.useRange src n).useRange dst n
  let s1 := s0.putBytes dst (s.bytesAt src n)
  (upTo (n / 16)).foldl (fun t i => if s.tagAt (src / 16 + i) then t.putTag (dst / 16 + i) true else t) s1

/-- Save an LM or CM unit at `src` to `dst` in a region's save area. A retired block takes nothing (23 R427). -/
def State.saveUnit (s : State) (region src dst : Nat) : State :=
  if s.isRetired dst then { s with saveErrs := s.saveErrs ++ [(region, dst)] } else s.copyUnits src dst 4096

/-- The bytes of a unit whose saved copy is lost. -/
@[irreducible] def lostUnit (draw : Nat) : List Byte := (upTo 4096).map (fun i => Config.lostByte draw i)

/-- Read a saved unit back from `src` in a region's save area to `dst`. What stood in a retired block is lost, and the unit's bytes are
free values: DESIGN CHOICE, log 82. -/
def State.loadUnit (s : State) (region src dst : Nat) : State :=
  if s.isRetired src then
    { s.putBytes dst (lostUnit s.fresh) with fresh := s.fresh + 1, saveErrs := s.saveErrs ++ [(region, src)] }
  else s.copyUnits src dst 4096

/-- The unit of LM or CM that an address lies in is kept for its owner: before a write of another region it is copied to
the owner's save area; before any access of a region whose copy was saved it is read back. -/
def State.touch (s : State) (region pa : Nat) (write : Bool) : State :=
  if decide (pa < 0xC000000000) || decide (0xC810000000 ≤ pa) then s
  else
    let u := pa / 4096
    let rec0 := Sparse.get ({} : UnitRec) s.units u
    let restore := rec0.saved.contains region
    if !(write || restore) then s
    else
      let base := 4096 * u
      let other := match rec0.owner with
        | some r => if r = region then none else (s.region? r).map (fun x => (r, x))
        | none => none
      let s1 := match other with
        | some (r, x) => s.saveUnit r base (unitSave x base)
        | none => s
      let saved1 := match other with
        | some (r, _) => r :: rec0.saved.filter (fun q => q != r)
        | none => rec0.saved
      let s2 := match restore, s.region? region with
        | true, some x => s1.loadUnit region (unitSave x base) base
        | _, _ => s1
      { s2 with units := Sparse.set {} s2.units u
                  { owner := some region, saved := saved1.filter (fun q => q != region) } }

end Sys2Proof.Machine
end

