-- ==== Sys2Proof/Machine/Ops.lean ====
section
/-! DEFINITION. The operations that meanings share: reading and writing the registers of the activation in focus, taking
a trap and returning from one, dispatching a head, ending an activation, sending messages and fault messages, trace
records. -/

namespace Sys2Proof.Machine

/-! ### The activation in focus -/

def State.act? (s : State) (core ctx : Nat) : Option Activation := Sparse.look (s.core core).acts ctx

def State.setActAt (s : State) (core ctx : Nat) (a : Activation) : State :=
  let c := s.core core
  s.setCore core { c with acts := Sparse.put c.acts ctx a }

/-- The activation in focus. -/
def State.cur? (s : State) : Option Activation := s.act? s.focus.core s.focus.ctx

/-- The activation in focus, or a blank one. -/
def State.cur (s : State) : Activation := s.cur?.getD {}

def State.setCur (s : State) (a : Activation) : State := s.setActAt s.focus.core s.focus.ctx a

def State.curCore (s : State) : Core := s.core s.focus.core
def State.setCurCore (s : State) (c : Core) : State := s.setCore s.focus.core c

/-- The cluster of the core in focus. -/
def State.curClu (s : State) : Nat := s.focus.core / 32

def State.focusOn (s : State) (core ctx : Nat) : State := { s with focus := { core := core, ctx := ctx } }

/-- The context of the activation with number `id` on a core. -/
def State.ctxOf (s : State) (core id : Nat) : Option Nat :=
  ((s.core core).acts.find? (fun e => e.2.info.id == id)).map (fun e => e.1)

def Activation.buf (a : Activation) : Half → List Entry
  | .a => a.f.abuf
  | .x => a.f.xbuf

def Activation.setBuf (a : Activation) (h : Half) (b : List Entry) : Activation :=
  match h with
  | .a => { a with f := { a.f with abuf := b } }
  | .x => { a with f := { a.f with xbuf := b } }

/-- The head of a buffer; where it is empty, an entry at the fetch position without hints. -/
def Activation.headEntry (a : Activation) (h : Half) : Entry :=
  ((a.buf h).head?).getD { pc := a.f.pc, wpc := a.f.pc, seq := a.f.nextSeq }

/-- The head that the activation in focus dispatches: a gang member's is its leader's (08 R150). -/
def State.head (s : State) (h : Half) : Entry :=
  match s.cur.flow.gang with
  | some g => if g.lane = 0 then s.cur.headEntry h else ((s.act? g.leaderCore g.leaderCtx).getD {}).headEntry h
  | none => s.cur.headEntry h

/-! ### A registers (02 R30, R31) -/

/-- The register as it stands; c0 reads as untagged zero. -/
def Activation.reg (a : Activation) (r : Nat) : AReg := if r = 0 then {} else Sparse.get {} a.regs r

/-- The low 64 bits of a register. -/
def Activation.lo (a : Activation) (r : Nat) : Nat := (a.reg r).data.toNat % 2 ^ 64

/-- Write a register; a write to c0 is discarded. -/
def Activation.setReg (a : Activation) (r : Nat) (v : AReg) : Activation :=
  if r = 0 then a else { a with regs := Sparse.set {} a.regs r v }

/-- A register's value can be read by the A instruction with place `seq` (06 R98, R123). -/
def Activation.regReady (a : Activation) (seq r : Nat) : Bool :=
  r == 0 || ((a.reg r).wait == 0 && !(a.f.counts.any (fun w => w.reg == r && decide (w.seq < seq))))

/-- Write a register for the A instruction with place `seq`: older loop counts for it that have not landed are
overwritten in program order (06 R123). -/
def Activation.writeReg (a : Activation) (seq r : Nat) (v : AReg) : Activation :=
  let b := a.setReg r v
  { b with f := { b.f with counts := b.f.counts.filter (fun w => !(w.reg == r && decide (w.seq < seq))) } }

/-- What a register holds before the A instruction with place `seq`: the last older loop count that has not landed, or the
register as it stands (06 R123). -/
def Activation.regBefore (a : Activation) (seq r : Nat) : AReg :=
  match (a.f.counts.filter (fun w => w.reg == r && decide (w.seq < seq))).getLast? with
  | some w => { data := w.val.setWidth 128 }
  | none => a.reg r

/-- An untagged value of 64 bits. -/
def plain64 (v : Nat) : AReg := { data := BitVec.ofNat 128 (v % 2 ^ 64) }

/-- A loop count still has its place behind a word in the buffers, or behind the answer that its register waits for. -/
def CountWrite.blocked (w : CountWrite) (abuf xbuf : List Entry) (a : Activation) : Bool :=
  (abuf ++ xbuf).any (fun e => e.seq == w.seq) || abuf.any (fun e => decide (e.seq < w.seq)) || (a.reg w.reg).wait != 0

/-- Of the counts of a list, those land whose word has been dispatched and whose older A instructions have been; a count
waits behind an earlier one of its register only (06 R123). `kept` are those that wait. -/
def landFrom (abuf xbuf : List Entry) (a : Activation) (kept : List CountWrite) : List CountWrite → Activation
  | [] => { a with f := { a.f with counts := kept } }
  | w :: rest =>
    if w.blocked abuf xbuf a || kept.any (fun k => k.reg == w.reg) then landFrom abuf xbuf a (kept ++ [w]) rest
    else landFrom abuf xbuf (a.setReg w.reg (plain64 w.val.toNat)) kept rest

/-- The activation is a follower of a gang (08 R149). -/
def Activation.follows (a : Activation) : Bool :=
  match a.flow.gang with
  | some g => g.lane != 0
  | none => false

/-- Let the loop counts land that may. A follower's have their place in its leader's buffers (08 R150). -/
def Activation.landCounts (a : Activation) : Activation :=
  if a.follows then a else landFrom a.f.abuf a.f.xbuf a [] a.f.counts

/-! ### Capabilities (02 R32, R33, R35) -/

def AReg.base (c : AReg) : Nat := fld c.data.toNat 0 56
def AReg.topField (c : AReg) : Nat := fld c.data.toNat 56 56
/-- The top as R32 decodes it. -/
def AReg.top (c : AReg) : Nat := if c.topField = 0 ∧ c.base ≠ 0 then 2 ^ 56 else c.topField
def AReg.perms (c : AReg) : Nat := fld c.data.toNat 112 12
def AReg.perm (c : AReg) (b : Nat) : Bool := bitAt c.perms b

/-- The permission bits of R33, numbered from bit 112. -/
def permLD : Nat := 0
def permST : Nat := 1
def permLDC : Nat := 2
def permSTC : Nat := 3
def permENG : Nat := 4
def permMSG : Nat := 5
def permLCL : Nat := 6
def permAMO : Nat := 7
def permCODE : Nat := 8
def permCSR : Nat := 9

/-- A capability's 128 bits. -/
def capBits (base top perms : Nat) : Nat := base % 2 ^ 56 + 2 ^ 56 * (top % 2 ^ 56) + 2 ^ 112 * (perms % 2 ^ 12)

def mkCap (base top perms : Nat) : AReg := { data := BitVec.ofNat 128 (capBits base top perms), tag := true }

/-- The 128 bits are a capability that the part could have made (02 R32, R34). -/
def capShape (v : Nat) : Bool :=
  let c : AReg := { data := BitVec.ofNat 128 v }
  fld v 122 6 == 0 && decide (c.base ≤ c.top)

/-- Trap codes (10 R182). -/
def tILLEGAL_INSTRUCTION : Nat := 0x01
def tILLEGAL_OPERAND : Nat := 0x02
def tILLEGAL_HINT : Nat := 0x03
def tPRIVILEGE : Nat := 0x04
def tOVERLAY : Nat := 0x05
def tLOOP_END_ILLEGAL : Nat := 0x06
def tCALL_DEPTH : Nat := 0x07
def tBRK : Nat := 0x08
def tECALL : Nat := 0x09
def tQUEUE_STARVED : Nat := 0x0A
def tCAP_TAG : Nat := 0x10
def tCAP_BOUNDS : Nat := 0x11
def tCAP_PERM : Nat := 0x12
def tCAP_ALIGN : Nat := 0x13
def tALIGN : Nat := 0x18
def tTRANSLATION : Nat := 0x19
def tACCESS : Nat := 0x1A
def tENGINE_ONLY_PAGE : Nat := 0x1B
def tPINNED_WRITE : Nat := 0x1C
def tMACRO_NOT_OWNED : Nat := 0x28
def tACC_RANGE : Nat := 0x29
def tLNS_RANGE : Nat := 0x2A
def tBOUNDARY_OVERFLOW : Nat := 0x30
def tBOND_RANGE : Nat := 0x31
def tCHAIN_PROGRAM : Nat := 0x32
def tLIFT_REJECTED : Nat := 0x38
def tGRAMMAR_ORDER : Nat := 0x39
def tSYMBOL_RANGE : Nat := 0x3A
def tRRT_SIZE : Nat := 0x3B
def tCOPY_RECORD : Nat := 0x40
def tCRC_MISMATCH : Nat := 0x41
def tCOMPRESSED_FORMAT : Nat := 0x42
def tGANG_ABORT : Nat := 0x48
def tSTAGE_OWNER : Nat := 0x49
def tJOIN_UNDERFLOW : Nat := 0x4A
def tSIDING_FULL : Nat := 0x4B
def tUNCORRECTABLE_MEMORY : Nat := 0x50
def tLINK_DOWN : Nat := 0x51

/-! ### The attempt to dispatch a head -/

/-- What an attempt to dispatch gives: the head is not eligible, it traps, or it has its effect. -/
inductive Att where
  | stall
  | trap (cause val : Nat)
  | ok (s : State)
  /-- It has an effect and stays at the head (06 R114, R115). -/
  | stay (s : State)
  /-- It is not eligible yet, and its wait has an effect (12 R226, R231). -/
  | waits (s : State)

/-- The head waits until `b` holds (02 R13). -/
def Att.need (b : Bool) (k : Att) : Att := if b then k else .stall

/-- The check `b`, which raises a trap when it fails (03 R61). -/
def Att.check (b : Bool) (cause val : Nat) (k : Att) : Att := if b then k else .trap cause val

/-- The checks of R35 on capability `c`, in their order: tag, permissions, bounds, and an alignment with its code.
`off`, `size` and the length are in units of 1 / `unit` byte (06 R107). -/
def capCheck (c : AReg) (perms : List Nat) (off size unit align : Nat) (alignCause : Nat) (val : Nat) (k : Att) : Att :=
  .check c.tag tCAP_TAG val <|
  .check (perms.all (fun p => c.perm p)) tCAP_PERM val <|
  .check (decide (off + size ≤ unit * (c.top - c.base))) tCAP_BOUNDS val <|
  .check ((c.base + off) % align == 0) alignCause val k

/-! ### Hints (03 R48 to R53, R61) -/

def Entry.op (e : Entry) : Nat := opcodeOf e.word.toNat

def Entry.hwid (e : Entry) : Option Nat :=
  (e.hints.find? (fun h => opcodeOf h.toNat == 0xF9)).map (fun h => h.toNat)
def Entry.hmod (e : Entry) : Option Nat :=
  (e.hints.find? (fun h => opcodeOf h.toNat == 0xFA)).map (fun h => h.toNat)
def Entry.hyld (e : Entry) : Bool := e.hints.any (fun h => opcodeOf h.toNat == 0xFB)
def Entry.himms (e : Entry) : List Nat :=
  (e.hints.filter (fun h => opcodeOf h.toNat == 0xF8)).map (fun h => fld h.toNat 0 24)

/-- The immediate bits with those of HIMM before them, and how many they are (03 R51). -/
def immBits (himms : List Nat) (f i : Nat) : Nat × Nat :=
  match himms with
  | [] => (i, f)
  | [v] => (v * 2 ^ f + i, 24 + f)
  | v :: u :: _ => ((v * 2 ^ 24 + u) * 2 ^ f + i, 48 + f)

/-- The signed immediate (03 R51). -/
def Entry.immS (e : Entry) (f i : Nat) : Int := sext (immBits e.himms f i).1 (immBits e.himms f i).2

/-- The unsigned immediate (03 R51). -/
def Entry.immU (e : Entry) (f i : Nat) : Nat := (immBits e.himms f i).1

/-- The target reads a source in its B field: X3 forms but the unary ones (03 R52). -/
def readsB (op : Nat) : Bool :=
  !(isXIOp op) && op != 0x15 && op != 0x16 && op != 0x31 && !(decide (0x35 ≤ op) && decide (op ≤ 0x38))

/-- The target refuses a field value of HWID (03 R52). -/
def hwidRefused (op w hint : Nat) : Bool :=
  let aw := fld hint 21 3
  let bw := fld hint 18 3
  decide (w < aw) || decide (w < bw) ||
    (op == 0x32 && (aw != 0 || fld hint 17 1 != 0)) ||
    (!(readsB op) && (bw != 0 || fld hint 16 1 != 0))

/-- The target refuses the rounding mode of HMOD: SR before anything but CVTSR, anything else before CVTSR (13 R246). -/
def hmodRefused (op hint : Nat) : Bool := (fld hint 21 3 == 5) != (op == 0x76)

/-- The word that TRAPVAL of ILLEGAL_HINT names, if the sequence is refused (03 R48, R61). -/
def Entry.badHint (e : Entry) : Option Nat :=
  let op := e.op
  let unaccepted := e.hints.any (fun h =>
    let o := opcodeOf h.toNat
    (o == 0xF8 && !(acceptsHimm op)) || (o == 0xF9 && !(acceptsHwid op)) || (o == 0xFA && !(acceptsHmod op)))
  if isHint e.word.toNat || unaccepted then some e.word.toNat
  else match e.hwid, e.hmod with
    | some h, _ => if hwidRefused op (fld e.word.toNat 21 3) h then some h else none
    | none, some h => if hmodRefused op h then some h else none
    | none, none => none

/-- The first hint of a sequence with a reserved payload (03 R60, R61). -/
def Entry.reservedHint (e : Entry) : Option Nat :=
  (e.hints.find? (fun h => match decode h.toNat with | .ok _ => false | .error _ => true)).map (fun h => h.toNat)

/-- Steps 1 and 2 of R61 for a head that decodes: reserved hint payloads, then `illegal` (a field value that a hint made
reserved), then the hint sequence. -/
def guardHints (e : Entry) (illegal : Bool) (k : Att) : Att :=
  match e.reservedHint with
  | some w => .trap tILLEGAL_INSTRUCTION w
  | none =>
    .check (!illegal) tILLEGAL_INSTRUCTION e.word.toNat <|
    match e.badHint with
    | some w => .trap tILLEGAL_HINT w
    | none => k

/-- Step 3 of R61 (03 R58). -/
def guardPriv (a : Activation) (e : Entry) (k : Att) : Att := .check a.info.priv tPRIVILEGE e.word.toNat k

/-! ### Numbers, packets and messages -/

/-- The next number for an access, packet or activation. -/
def State.takeId (s : State) : State := { s with nextId := s.nextId + 1 }

def State.send (s : State) (src : Agent) (dst : Place) (b : Body) : State :=
  { s with net := s.net ++ [{ id := s.nextId, src := src, dst := dst, body := b }], nextId := s.nextId + 1 }

def State.emit (s : State) (o : Outside) : State := { s with out := s.out ++ [o] }

/-- A message header (08 R135). -/
def mkHeader (s : State) (dcore dpkg hid score spkg len rc origin : Nat) : Word64 :=
  BitVec.ofNat 64 (dcore % 2 ^ 13 + 2 ^ 13 * (dpkg % 16) + 2 ^ 17 * (hid % 256) + 2 ^ 25 * (score % 2 ^ 13) +
    2 ^ 38 * (spkg % 16) + 2 ^ 42 * (len % 128) + 2 ^ 49 * (rc % 2) + 2 ^ 50 * (origin % 4) +
    2 ^ 52 * (fld s.ns 4 12))

def Message.dcore (m : Message) : Nat := fld m.header.toNat 0 13
def Message.dpkg (m : Message) : Nat := fld m.header.toNat 13 4
def Message.hid (m : Message) : Nat := fld m.header.toNat 17 8
def Message.score (m : Message) : Nat := fld m.header.toNat 25 13
def Message.spkg (m : Message) : Nat := fld m.header.toNat 38 4
def Message.len (m : Message) : Nat := fld m.header.toNat 42 7
def Message.stime (m : Message) : Nat := fld m.header.toNat 52 12

/-- Where a message to a package and core goes. -/
def msgPlace (pkg core : Nat) : Place := if pkg = Config.package then .lm core else .pkg pkg

/-- A message leaves its agent. -/
def State.sendMessage (s : State) (src : Agent) (m : Message) : State :=
  s.send src (msgPlace m.dpkg m.dcore) (.message m)

/-- The fault domain of a region: the effective FAULT of the region, or of its partition's root (10 R189). -/
def State.faultDomain (s : State) (key : Nat) : Option (Nat × Nat) :=
  match s.region? key with
  | some r => some (r.eff.fault.toNat, key)
  | none =>
    let root := partOf key * 2 ^ 24
    (s.region? root).map (fun r => (r.eff.fault.toNat, root))

/-- The payload of a fault message (10 R189): `t` is the time base at the fault. -/
def faultPayload (t code kind place ctx eng val pc : Nat) : BitVec 512 :=
  BitVec.ofNat 512 (code % 256 + 2 ^ 8 * (kind % 256) + 2 ^ 16 * (place % 2 ^ 13 + 2 ^ 13 * (ctx % 8)) +
    2 ^ 32 * (eng % 256) + 2 ^ 64 * (val % 2 ^ 64) + 2 ^ 128 * (pc % 2 ^ 64) + 2 ^ 192 * (t % 2 ^ 64))

/-- A message about a fault at time `at_` to the fault domain of a region; without one, a CXL event record (10 R189).
`score` is the sending core by R135. -/
def State.faultMessageAt (s : State) (at_ : Nat) (src : Agent) (score : Nat) (region : Option Nat)
    (code kind place ctx eng val pc : Nat) : State :=
  match region.bind s.faultDomain with
  | some (f, key) =>
    s.sendMessage src
      { header := mkHeader s (fld f 0 13) (fld f 13 4) (fld f 17 8) score Config.package 32 0 2
        payload := faultPayload at_ code kind place ctx eng val pc
        region := key }
  | none => s.emit (.event code place)

/-- A message about a fault found now. -/
def State.faultMessage (s : State) (src : Agent) (score : Nat) (region : Option Nat)
    (code kind place ctx eng val pc : Nat) : State :=
  s.faultMessageAt s.ns src score region code kind place ctx eng val pc

/-- The region that owns a core or cluster: the holder, or the root of the partition that owns the cluster (10 R189). -/
def State.ownerRegion (s : State) (g : Nat) : Option Nat :=
  match (s.cluster g).holder with
  | some r => some r
  | none => (s.ownerOf g).map (fun p => p * 2 ^ 24)

/-- The number that R189 gives for the place where a fault is found, and the core that sends it (08 R135). A place that
belongs to no cluster sends as the lowest core of its die, or as core 0: DESIGN CHOICE, log 69. -/
def faultPlace (pa : Nat) (atomic : Bool) : Nat × Nat :=
  match placeOf pa with
  | some (.lm c) => (c, c / 32 * 32)
  | some (.cm g) => (32 * g, 32 * g)
  | some (.hbm i) => if atomic then (32 * caeOf pa, 32 * caeOf pa) else (0x1FFF, 64 * hbmDie i * 32)
  | _ => (0x1FFF, 0)

/-- The region that owns a location: the holder for LM and CM, the region whose root translated the access for HBM
(10 R189). -/
def State.locationRegion (s : State) (pa region : Nat) : Option Nat :=
  match placeOf pa with
  | some (.lm c) => s.ownerRegion (c / 32)
  | some (.cm g) => s.ownerRegion g
  | _ => some region

/-- What sends for a location: its home; for an atomic to HBM the atomic engine, which then has the line (12 R209, R223). -/
def homeAgent (pa : Nat) (atomic : Bool) : Agent :=
  match placeOf pa with
  | some (.hbm i) => if atomic then .cae (caeOf pa) else .home (.hbm i)
  | pl => .home (pl.getD .cxl)

/-- A fault message of a home (kind 2) about a location. -/
def State.homeFault (s : State) (pa region code val : Nat) (atomic : Bool) : State :=
  let pl := faultPlace pa atomic
  s.faultMessage (homeAgent pa atomic) pl.2 (s.locationRegion pa region) code 2 pl.1 0 0 val 0

/-! ### Trace records (23 R431) -/

def traceSlots : Nat := 16384

/-- One record of the time `now` enters the buffer; a full buffer drops it, or wraps over its oldest when TRDST is 0. -/
def Trace.push (t : Trace) (now : Nat) (r : Word128) : Trace :=
  if t.held < traceSlots then
    { t with recs := Sparse.put t.recs t.wptr.toNat r, wptr := t.wptr + 1, held := t.held + 1, last := some now }
  else if t.dst = 0 then
    { t with recs := Sparse.put t.recs t.wptr.toNat r, wptr := t.wptr + 1, dptr := t.dptr + 1, lost := t.lost + 1
             last := some now }
  else { t with lost := t.lost + 1 }

def traceWord (kind core ctx delta data : Nat) : Word128 :=
  BitVec.ofNat 128 (kind % 256 + 2 ^ 8 * (core % 32) + 2 ^ 13 * (ctx % 8) + 2 ^ 16 * (delta % 2 ^ 24) +
    2 ^ 64 * (data % 2 ^ 64))

/-- One record, behind a time record where one is due. -/
def Trace.add (t : Trace) (r : Nat × Nat × Nat × Nat) : Trace :=
  let late := match t.last with
    | some l => decide (2 ^ 24 ≤ t.at_ - l)
    | none => true
  let delta := match t.last with
    | some l => if late then 0 else t.at_ - l
    | none => 0
  let t1 := if late then t.push t.at_ (traceWord 15 0 0 0 t.at_) else t
  t1.push t.at_ (traceWord r.2.2.1 r.1 r.2.1 delta r.2.2.2)

/-- The records of a cycle that is over enter the buffer. -/
def Trace.settle (t : Trace) (clock : Nat) : Trace :=
  if t.cyc = clock then t else { t.now.foldl Trace.add t with now := [] }

/-- A record behind those of its own core and of lower ones (23 R431). -/
def insertRec (r : Nat × Nat × Nat × Nat) : List (Nat × Nat × Nat × Nat) → List (Nat × Nat × Nat × Nat)
  | [] => [r]
  | x :: rest => if x.1 ≤ r.1 then x :: insertRec r rest else r :: x :: rest

/-- A record of an event of a core. -/
def State.trace (s : State) (core ctx kind data : Nat) : State :=
  let c := s.core core
  if !(c.csr.trEn && bitAt c.csr.trKinds.toNat (kind - 1)) then s
  else
    let cl := s.cluster (core / 32)
    let now := s.ns
    let t := cl.trace.settle s.clock
    s.setCluster (core / 32) { cl with trace := { t with now := insertRec (core, ctx, kind, data) t.now, cyc := s.clock, at_ := now } }

/-! ### Trap records and traps (10 R183, R184) -/

def TrapRec.word (r : TrapRec) : Nat :=
  r.cause.toNat + 2 ^ 8 * r.ctx.toNat + 2 ^ 11 * ofBool r.half + 2 ^ 12 * ofBool r.late + 2 ^ 16 * r.fpc.toNat

def Half.isX : Half → Bool
  | .x => true
  | .a => false

/-- A trapping head executes again with all its hints (03 R50). -/
def Activation.rehint (a : Activation) (h : Half) : Activation :=
  a.setBuf h ((a.buf h).map (fun e => { e with taken := 0 }))

/-- TAKING A TRAP, the one operation: the record of the activation's context is written, the activation dispatches nothing
younger than the word, and drains (10 R183, R184). `e` is the trapping entry; `pc` is TRAPPC. -/
def State.trapAt (s : State) (core ctx : Nat) (h : Half) (e : Entry) (late : Bool) (cause val : Nat)
    (pc : BitVec 14) : State :=
  match s.act? core ctx with
  | none => s
  | some a =>
    let r : TrapRec :=
      { cause := BitVec.ofNat 8 cause, ctx := BitVec.ofNat 3 ctx, half := h.isX, late := late, fpc := e.wpc,
        pc := pc, val := BitVec.ofNat 64 val, ns := s.ns }
    let c := s.core core
    let s1 := s.setCore core { c with trapRecs := Sparse.set {} c.trapRecs ctx r
                                      lock := if c.lock = some ctx then none else c.lock }
    let b := a.rehint h
    let s2 := s1.setActAt core ctx
      { b with flow := { b.flow with status := .draining h e.seq, starved := 0, byEntry := e.kind != .word } }
    s2.trace core ctx 3 r.word

/-! ### Ending an activation (06 R126, 08 R145) -/

/-- An ending activation adds its delays to its sender's entry of the profile table (23 R432). -/
def profAdd (table : Sparse ProfEntry) (core pkg transit wait run : Nat) : Sparse ProfEntry :=
  let own := (upTo 31).find? (fun i =>
    let e := Sparse.get {} table i
    e.valid && e.core.toNat == core && e.pkg.toNat == pkg)
  let slot := match own with
    | some i => i
    | none => ((upTo 31).find? (fun i => !(Sparse.get ({} : ProfEntry) table i).valid)).getD 31
  let e := Sparse.get {} table slot
  let named : ProfEntry := if slot = 31 then e
    else { e with core := BitVec.ofNat 13 core, pkg := BitVec.ofNat 4 pkg, valid := true }
  Sparse.put table slot { named with
    count := named.count + 1, transit := named.transit + BitVec.ofNat 64 transit
    wait := named.wait + BitVec.ofNat 64 wait, run := named.run + BitVec.ofNat 64 run }

def Core.profile (c : Core) (a : Activation) (now : Nat) : Core :=
  let member := match a.flow.gang with
    | some g => g.lane != 0
    | none => false
  if c.csr.profEn && a.info.inbox != 4 && !member then
    let h := a.info.header.toNat
    let transit := (fld a.info.arrivedNs 4 12 + 4096 - fld h 52 12) % 4096 * 16
    let wait := a.info.admittedNs - a.info.arrivedNs
    { c with prof := profAdd c.prof (fld h 25 13) (fld h 38 4) transit wait (now - a.info.admittedNs) }
  else c

/-- The flags of X results that are still to land reach XFLAGS (13 R243). -/
def Core.raise (c : Core) (l : List XWrite) : Core :=
  { c with csr := { c.csr with xflags := c.csr.xflags ||| (l.map (fun p => p.flags)).foldl (· ||| ·) 0 } }

/-- Remove a resident activation: its context, window, registers and queues are free, and its pending results count for
XFLAGS. -/
def State.removeAct (s : State) (core ctx : Nat) : State :=
  match s.act? core ctx with
  | none => s
  | some a =>
    let c := s.core core
    s.setCore core { (c.profile a s.ns).raise a.pend with
      acts := Sparse.drop ctx c.acts
      parked := c.parked.filter (fun i => i != a.info.id)
      lock := if c.lock = some ctx then none else c.lock }

/-- A copied-out activation ends: its message counts (23 R432). -/
def Core.profileSaved (c : Core) (id now : Nat) : Core :=
  match c.saved.find? (fun v => v.act.info.id == id) with
  | some v => c.profile v.act now
  | none => c

/-- Remove an activation by number, resident or copied out, and nothing else. -/
def State.removeById (s : State) (core id : Nat) : State :=
  match s.ctxOf core id with
  | some ctx => s.removeAct core ctx
  | none =>
    let c := s.core core
    s.setCore core { (c.profileSaved id s.ns) with
      saved := c.saved.filter (fun v => v.act.info.id != id)
      parked := c.parked.filter (fun i => i != id) }

/-- The status that a victim goes back to. -/
def Stand.status : Stand → Status
  | .running => .running
  | .draining h q => .draining h q
  | .parked pc => .parked pc

/-- Where a victim of which nothing is claimed stood before it was stopped. -/
def Status.resumed : Status → Status
  | .victim false false was => was.status
  | st => st

/-- Victims of which nothing is claimed go on in place, when their region may run (10 R196, 22 R409). -/
def State.resumeVictims (s : State) (core : Nat) : State :=
  let c := s.core core
  let holder := (s.cluster (core / 32)).holder
  s.setCore core { c with acts := c.acts.map (fun e =>
    if (holder.isNone && (s.region? e.2.info.region).isNone) || holder == some e.2.info.region
    then (e.1, { e.2 with flow := { e.2.flow with status := e.2.flow.status.resumed } }) else e) }

/-- The activation of a context ends; a trap activation takes the one it serves with it (09 R179). -/
def State.endAct (s : State) (core ctx : Nat) : State :=
  match s.act? core ctx with
  | none => s
  | some a =>
    let s1 := (s.trace core ctx 2 (a.headEntry .a).wpc.toNat).removeAct core ctx
    let s2 := match a.info.serves with
      | some id => s1.removeById core id
      | none => s1
    s2.resumeVictims core

/-- The activation with a number ends, resident or copied out, and with it the one that it serves (09 R179). -/
def State.endById (s : State) (core id : Nat) : State :=
  match s.ctxOf core id with
  | some ctx => s.endAct core ctx
  | none =>
    let t := match ((s.core core).saved.find? (fun v => v.act.info.id == id)).bind (fun v => v.act.info.serves) with
      | some x => s.removeById core x
      | none => s
    t.removeById core id

/-- An access to a retired HBM block, or one that met an uncorrectable error: its activation ends and the fault domain of
the region that owns the page hears of it (10 R191, 23 R427). -/
def State.uncorrectable (s : State) (core act region va pa : Nat) : State :=
  let s1 := s.homeFault pa region tUNCORRECTABLE_MEMORY va false
  s1.endById core act

/-! ### Gangs (08 R149 to R151) -/

/-- The cores and contexts of the members of the gang that the activation in focus leads, its own first. -/
def State.gangMembers (s : State) (g : Gang) : List (Nat × Nat) :=
  (upTo g.size).filterMap (fun i =>
    if i = 0 then some (g.leaderCore, g.leaderCtx)
    else ((s.core (g.leaderCore + i)).acts.find? (fun e => match e.2.flow.gang with
        | some h => h.leaderCore == g.leaderCore && h.leaderCtx == g.leaderCtx && h.lane == i
        | none => false)).map (fun e => (g.leaderCore + i, e.1)))

/-- The activation leads this gang. -/
def Activation.leads (a : Activation) (g : Gang) : Bool :=
  match a.flow.gang with
  | some h => h.lane == 0 && h.leaderCore == g.leaderCore && h.leaderCtx == g.leaderCtx
  | none => false

/-- The leader of a gang, resident or copied out. -/
def State.gangLead (s : State) (g : Gang) : Option Activation :=
  match (s.act? g.leaderCore g.leaderCtx).filter (fun a => a.leads g) with
  | some a => some a
  | none => ((s.core g.leaderCore).saved.find? (fun v => v.act.leads g)).map (fun v => v.act)

/-- What stands in the buffers of an activation: those of a follower are filled with its gang's stream (08 R150). -/
def State.frontOf (s : State) (a : Activation) : ActFetch :=
  match a.flow.gang with
  | some g =>
    if a.follows then
      let l := ((s.gangLead g).getD {}).f
      { a.f with pc := l.pc, abuf := l.abuf, xbuf := l.xbuf }
    else a.f
  | none => a.f

/-- The leader goes on alone: words that only followers had to execute again go, but for the trapping one. -/
def Activation.leaveGang (a : Activation) (e : Entry) : Activation :=
  { a with
    f := { a.f with abuf := (a.f.abuf.filter (fun y => (y.lane.getD 0) == 0 || y == e)).map (fun y => { y with lane := none }) }
    flow := { a.flow with gang := none } }

/-- Every follower activation ends as by END. -/
def State.endFollowers (s : State) (g : Gang) : State :=
  ((s.gangMembers g).drop 1).foldl (fun t m => t.endAct m.1 m.2) s

/-- A trap of the activation in focus at the head of a half; on a gang member the gang is aborted (08 R151). It is no
dispatch that greedy or round-robin counts (07 R134): DESIGN CHOICE, log 68. An older word that traps in a drain takes the
place of the trap that was drained for: DEDUCED, log 25. -/
def State.takeTrap (s : State) (h : Half) (cause val : Nat) : State :=
  let e := s.head h
  match s.cur.flow.gang with
  | some g =>
    let s1 := s.endFollowers g
    let s2 := match s1.act? g.leaderCore g.leaderCtx with
      | some a => s1.setActAt g.leaderCore g.leaderCtx (a.leaveGang e)
      | none => s1
    let s3 := s2.focusOn g.leaderCore g.leaderCtx
    let s4 := s3.trapAt g.leaderCore g.leaderCtx h e false tGANG_ABORT (cause + 2 ^ 8 * g.lane) e.pc
    { s4 with verdict := .trapped }
  | none =>
    let s1 := s.trapAt s.focus.core s.focus.ctx h e false cause val e.pc
    { s1 with verdict := .trapped }

/-! ### Dispatch (02 R13, 03 R61) -/

/-- An acquiring load of the activation has not got its data (06 R109). -/
def State.acquiring (s : State) (id : Nat) : Bool := s.accs.any (fun x => x.act == id && x.acquire)

/-- The half may dispatch its head: it was fetched in an earlier cycle; the activation runs, or drains and the head is older
than the trapping word; the A head is not held (06 R112, 07 R130, 08 R152, 09 R180, 10 R184, R186). -/
def Activation.mayDispatch (a : Activation) (h : Half) : Bool :=
  decide ((a.headEntry h).seq < a.f.seen) &&
  (match a.flow.status with
    | .running => true
    | .draining k seq => k != h && decide ((a.headEntry h).seq < seq)
    | _ => false) &&
  (h.isX || (a.flow.hold.isNone && !a.flow.wfi && a.flow.walk.isNone))

/-- The group of an activation for the issue slot (10 R193). -/
def Activation.urgent (a : Activation) : Bool := a.info.inbox == 0 || a.info.inbox == 4

/-- An activation of a core, in context `ctx`, dispatched: its group's state, the yield of HYLD, and the end of a hint
sequence (07 R134; 10 R193; 03 R49). -/
def Core.issued (c : Core) (a : Activation) (ctx : Nat) (e : Entry) : Core :=
  let g : IssueGroup := { lastAct := some a.info.id, lastCtx := some ctx }
  let c1 := if a.urgent then { c with urgent := g } else { c with normal := g }
  { c1 with lock := none, yielded := if e.hyld then some a.info.id else c.yielded }

/-- HYLD's effect on its activation: its age is the cycle of the target, and round-robin marks it (07 R134). -/
def Activation.yields (a : Activation) (e : Entry) (now : Nat) (pol : Bool) : Activation :=
  if e.hyld then { a with flow := { a.flow with age := now, mark := a.flow.mark || pol } } else a

/-- The activation in focus dispatched. -/
def State.dispatched (s : State) (e : Entry) : State :=
  match s.cur? with
  | none => { s with verdict := .done }
  | some a =>
    let c := s.curCore
    { (s.setCurCore (c.issued a s.focus.ctx e)).setCur (a.yields e s.clock c.csr.pol) with verdict := .done }

/-- A word that was given back has been dispatched again. -/
def Activation.dropBack (a : Activation) (seq : Nat) : Activation :=
  { a with flow := { a.flow with putBack := a.flow.putBack.filter (fun p => p.1 != seq) } }

/-- What a half keeps about its head goes with it: the wait of QUEUE_STARVED, and for an A word what it gave back. -/
def Activation.headGone (a : Activation) (h : Half) : Activation :=
  match h with
  | .a => ({ a with flow := { a.flow with lackA := none } } : Activation).dropBack (a.headEntry .a).seq
  | .x => { a with flow := { a.flow with lackX := none } }

/-- The head of a half leaves its buffer; loop counts that may land do so (02 R12, 06 R123). -/
def Activation.popHead (a : Activation) (h : Half) : Activation :=
  ((a.headGone h).setBuf h (a.buf h).tail).landCounts

/-- The head has had its effect and leaves its buffer. -/
def State.finish (s : State) (h : Half) : State :=
  let e := s.cur.headEntry h
  let s1 := match s.cur? with
    | some a => s.setCur (a.popHead h)
    | none => s
  s1.dispatched e

/-- The attempt of every member in turn, by lanes: DESIGN CHOICE, log 78 (08 R150). -/
def gangRun (body : State → Att) : List (Nat × Nat) → State → Att
  | [], s => .ok s
  | (k, c) :: rest, s =>
    match body (s.focusOn k c) with
    | .ok t => gangRun body rest t
    | .stay t => match gangRun body rest t with
      | .ok u => .stay u
      | r => r
    | r => r

/-- The first member that fails a check once lower lanes have had their effects, such as a budget that these have used up. -/
def gangFail (body : State → Att) : List (Nat × Nat) → State → Option (Nat × Nat × Nat × Nat)
  | [], _ => none
  | (k, c) :: rest, s => match body (s.focusOn k c) with
    | .ok t => gangFail body rest t
    | .stay t => gangFail body rest t
    | .trap cause val => some (k, c, cause, val)
    | _ => none

/-- The members that execute a word: all, or the one lane whose access was taken back (10 R437). -/
def Gang.acting (g : Gang) (e : Entry) (ms : List (Nat × Nat)) : List (Nat × Nat) :=
  match e.lane with
  | none => ms
  | some l => ms.filter (fun m => m.1 == g.leaderCore + l)

/-- The first member that traps, in lane order; a stall of any member comes before every trap (08 R150, R151). -/
def gangVerdict (body : State → Att) (s : State) : List (Nat × Nat) → Option (Nat × Nat × Nat × Nat)
  | [] => none
  | (k, c) :: rest => match body (s.focusOn k c) with
    | .trap cause val => some (k, c, cause, val)
    | _ => gangVerdict body s rest

/-- The activation of a context, or a blank one. -/
def State.actAt (s : State) (core ctx : Nat) : Activation := (s.act? core ctx).getD {}

/-- What a step of context `ctx` has started drains from now on (23 R430). -/
def Core.stepDrains (c : Core) (ctx : Nat) : Core :=
  { c with dbg := { c.dbg with want := none, stepSeq := none, stepping := some ctx } }

/-- A follower has dispatched its gang's head: it counts for its group, and its core dispatches nothing else in the cycle
(07 R134, 08 R150); a step of it has had its instruction when the head has gone (23 R430). `a` is the follower before the
head's effect. -/
def State.noteFollower (s : State) (core ctx : Nat) (a : Activation) (e : Entry) (gone : Bool) : State :=
  let c := s.core core
  let d : Core := { c.issued a ctx e with given := true }
  let s1 := s.setCore core (if gone && d.dbg.want == some ctx then d.stepDrains ctx else d)
  match s1.act? core ctx with
  | some b =>
    if b.info.id = a.info.id then
      s1.setActAt core ctx ((if gone then b.dropBack e.seq else b).yields e s.clock c.csr.pol)
    else s1
  | none => s1

/-- Loop counts of the followers land with the leader's buffers (08 R150). -/
def State.landFollowers (s : State) (g : Gang) : State :=
  match s.act? g.leaderCore g.leaderCtx with
  | none => s
  | some l => ((s.gangMembers g).drop 1).foldl (fun t m => match t.act? m.1 m.2 with
      | some b => if b.f.counts.isEmpty then t
          else t.setActAt m.1 m.2 (landFrom l.f.abuf l.f.xbuf b [] b.f.counts)
      | none => t) s

/-- What a gang's dispatch leaves on the followers' cores. `s` is the state before the head's effect. -/
def State.noteGang (s : State) (g : Gang) (ms : List (Nat × Nat)) (e : Entry) (gone : Bool) (t : State) : State :=
  ((ms.drop 1).foldl (fun u m => u.noteFollower m.1 m.2 (s.actAt m.1 m.2) e gone) t).landFollowers g

/-- A follower's core can take the gang's head: no hint sequence of another activation is under way there, and it is not
halted, but for a step of the follower (03 R49; 07 R132; 08 R150). -/
def Core.takesGang (c : Core) (ctx : Nat) : Bool :=
  (c.lock.isNone || c.lock == some ctx) && (!c.dbg.halt || c.dbg.want == some ctx)

/-- A member can take the head of a half. -/
def State.memberReady (s : State) (h : Half) (m : Nat × Nat) : Bool :=
  match s.act? m.1 m.2 with
  | some b => b.flow.status == .running && (h.isX || (b.flow.hold.isNone && !b.flow.wfi && b.flow.walk.isNone)) &&
      (!b.follows || (s.core m.1).takesGang m.2)
  | none => false

def gangStalls (body : State → Att) (s : State) (ms : List (Nat × Nat)) : Bool :=
  ms.any (fun m => match body (s.focusOn m.1 m.2) with
    | .stall => true
    | _ => false)

/-- The head of half `h` of the activation in focus: not eligible, it keeps its place; failing a check, it traps;
otherwise it has the effect `body` gives and leaves its buffer. A gang's head acts on every member or on none; one whose
engine commands do not all find room stalls the gang, one of which a member has ended on its own stalls for good, and a BMOV
or REP behind HYLD yields with every chunk or element: DESIGN CHOICES, logs 78, 79 and 80. -/
def dispatch (h : Half) (body : State → Att) (s : State) : Out :=
  match s.cur? with
  | none => .next { s with verdict := .none }
  | some a =>
    if !(a.mayDispatch h) then .next { s with verdict := .stalled }
    else match a.flow.gang with
      | none => match body s with
        | .stall => .next { s with verdict := .stalled }
        | .trap cause val => .next (s.takeTrap h cause val)
        | .ok t => .next (t.finish h)
        | .stay t => .next (t.dispatched (a.headEntry h))
        | .waits t => .next { t with verdict := .waiting }
      | some g =>
        let ms := s.gangMembers g
        let who := g.acting (a.headEntry h) ms
        if ms.length != g.size || !(ms.all (s.memberReady h)) || gangStalls body s who then
          .next { s with verdict := .stalled }
        else match gangVerdict body s who with
          | some (k, c, cause, val) => .next ((s.focusOn k c).takeTrap h cause val)
          | none => match gangRun body who s with
            | .ok t => .next (s.noteGang g ms (a.headEntry h) true ((t.focusOn g.leaderCore g.leaderCtx).finish h))
            | .stay t =>
              .next (s.noteGang g ms (a.headEntry h) false ((t.focusOn g.leaderCore g.leaderCtx).dispatched (a.headEntry h)))
            | .waits t => .next { t.focusOn g.leaderCore g.leaderCtx with verdict := .waiting }
            | .trap _ _ => match gangFail body who s with
              | some (k, c, cause, val) => .next ((s.focusOn k c).takeTrap h cause val)
              | none => .next { s with verdict := .stalled }
            | .stall => .next { s with verdict := .stalled }

/-! ### Return from a trap (09 R179, 10 R190) -/

/-- The parked activation goes on. With TRAPPC unchanged its buffers stand; only when the trap of an OVERLAY or
LOOP_END_ILLEGAL entry parked it does that entry go, and fetch goes on at TRAPPC (10 R185). With TRAPPC changed the buffers
are discarded, and fetch goes on there; what has been dispatched stands. -/
def Activation.resumeAt (a : Activation) (parkedPc pc : BitVec 14) : Activation :=
  if pc = parkedPc then
    if a.flow.byEntry then
      { a with
        f := { a.f with pc := pc, wrapped := false, stop := .running, seqHints := []
                        abuf := a.f.abuf.filter (fun e => e.kind == .word) }
        flow := { a.flow with status := .running, byEntry := false } }
    else { a with flow := { a.flow with status := .running } }
  else
    let gone := a.f.abuf ++ a.f.xbuf
    ({ a with
      f := { a.f with
        pc := pc, wrapped := false, stop := .running, abuf := [], xbuf := [], seqHints := []
        counts := a.f.counts.filter (fun w => !(gone.any (fun e => e.seq == w.seq))) }
      flow := { a.flow with status := .running, byEntry := false, putBack := [], lackA := none, lackX := none } } :
      Activation).landCounts

/-- A parked activation's status and record: its parked TRAPPC. -/
def Status.parkedPc : Status → Option (BitVec 14)
  | .parked pc => some pc
  | .victim _ _ (.parked pc) => some pc
  | _ => none

/-- A trap record of three words of a save area (10 R183, R195); the time of the fault is not among them. -/
def TrapRec.ofWords (word pc val ns : Nat) : TrapRec :=
  { cause := BitVec.ofNat 8 word, ctx := BitVec.ofNat 3 (word / 2 ^ 8), half := bitAt word 11, late := bitAt word 12
    fpc := BitVec.ofNat 14 (word / 2 ^ 16), pc := BitVec.ofNat 14 pc, val := BitVec.ofNat 64 val, ns := ns }

/-- The trap record of a copied-out activation: in its record in the save area, or, when only its window was copied out, in
its context (10 R183, R195). -/
def State.savedRecord (s : State) (core : Nat) (v : Saved) : TrapRec :=
  if !v.ctxOut then Sparse.get {} (s.core core).trapRecs v.ctx
  else match s.recordIn v.act.info.region core v.ctx with
    | some pa => TrapRec.ofWords (s.natAt pa 8) (s.natAt (pa + 8) 8) (s.natAt (pa + 16) 8) v.record.ns
    | none => v.record

/-- The trap record of the activation with number `id`, resident or copied out (10 R183). -/
def State.recordOf (s : State) (core id : Nat) : TrapRec :=
  match s.ctxOf core id with
  | some ctx => Sparse.get {} (s.core core).trapRecs ctx
  | none => (((s.core core).saved.find? (fun v => v.act.info.id == id)).map (fun v => s.savedRecord core v)).getD {}

/-- Write the trap record of a copied-out activation where it stands. -/
def State.putSavedRecord (s : State) (core : Nat) (v : Saved) (r : TrapRec) : State :=
  let c := s.core core
  if !v.ctxOut then s.setCore core { c with trapRecs := Sparse.set {} c.trapRecs v.ctx r }
  else
    let s1 := s.setCore core
      { c with saved := c.saved.map (fun w => if w.act.info.id == v.act.info.id then { w with record := r } else w) }
    match s1.recordIn v.act.info.region core v.ctx with
    | some pa => (((s1.useRange pa 24).putNat pa 8 r.word).putNat (pa + 8) 8 r.pc.toNat).putNat (pa + 16) 8 r.val.toNat
    | none => s1

def State.setRecordOf (s : State) (core id : Nat) (r : TrapRec) : State :=
  let c := s.core core
  match s.ctxOf core id with
  | some ctx => s.setCore core { c with trapRecs := Sparse.set {} c.trapRecs ctx r }
  | none => match c.saved.find? (fun v => v.act.info.id == id) with
    | some v => s.putSavedRecord core v r
    | none => s

end Sys2Proof.Machine
end

