-- ==== Sys2Proof/Machine/Operands.lean ====
section
/-! DEFINITION. The operands of the X-half: slices, ports, 2W ranges and source widths (02 R16 to R27, 03 R47, R52), and
the one operation that every X instruction runs through. -/

namespace Sys2Proof.Machine

/-- Bits `[lo, lo + n)` and `[lo', lo' + n')` share a bit. -/
def overlaps (lo n lo' n' : Nat) : Bool := decide (lo < lo' + n') && decide (lo' < lo + n)

/-- Two X destinations share a slice or a queue (02 R28). -/
def XDest.meets : XDest → XDest → Bool
  | .slices s n, .slices t m => overlaps (4 * s) n (4 * t) m
  | .sdq, .sdq => true
  | .xaq, .xaq => true
  | .outb, .outb => true
  | _, _ => false

/-- No pending write touches the slices of an operand inside the window (02 R28, 03 R61). -/
def Activation.slicesFree (a : Activation) (f w : Nat) : Bool :=
  !(a.pend.any (fun p => p.dest.meets (.slices f (min w (4 * a.info.winSize - 4 * f)))))

/-- How many pending writes go to a queue. -/
def Activation.pendingTo (a : Activation) (d : XDest) : Nat := (a.pend.filter (fun p => p.dest == d)).length

/-- slice(f, w) of the window (00 R9). -/
def Activation.slice (a : Activation) (f w : Nat) : Nat := fld a.win.toNat (4 * f) w

/-- The head of a load queue that holds data. -/
def ldqHead : List QEntry → Option (Nat × List QEntry)
  | [] => none
  | e :: rest => if e.wait = 0 then some (e.data.toNat, rest) else none

/-- A read of an X source field: its value, and the activation after the pop; none when the head must wait (02 R18,
R19). -/
def Activation.readX (a : Activation) (lane f w : Nat) : Option (Nat × Activation) :=
  if f < 112 then (if a.slicesFree f w then some (a.slice f w, a) else none)
  else match f with
    | 0x70 => (ldqHead a.q.ldq0).map (fun r => (zext r.1 w, { a with q := { a.q with ldq0 := r.2 } }))
    | 0x71 => (ldqHead a.q.ldq1).map (fun r => (zext r.1 w, { a with q := { a.q with ldq1 := r.2 } }))
    | 0x78 => (ldqHead a.q.ldq0).map (fun r => (zext r.1 w, a))
    | 0x79 => (ldqHead a.q.ldq1).map (fun r => (zext r.1 w, a))
    | 0x74 =>
      some (zext ((a.q.inPay.toNat % 2 ^ (8 * a.q.inLen)) / 2 ^ a.q.inPos) w,
        { a with q := { a.q with inPos := a.q.inPos + w } })
    | 0x76 => some (zext lane w, a)
    | _ => some (0, a)

/-- The field may stand as a source of width `w` (02 R19, R24). -/
def Activation.srcOk (a : Activation) (f w : Nat) : Bool :=
  if f < 112 then decide (4 * f + w ≤ 4 * a.info.winSize)
  else f == 0x70 || f == 0x71 || f == 0x74 || f == 0x76 || f == 0x77 || f == 0x78 || f == 0x79

/-- Bits that have been or will be appended to the outgoing payload. -/
def Activation.outPending (a : Activation) : Nat :=
  a.q.outBits + ((a.pend.filter (fun p => p.dest == .outb)).map (fun p => p.value.toNat % 2 ^ 10)).foldl (· + ·) 0

/-- The slices of a destination lie in the window, or the port may stand there (02 R19, R24). -/
def Activation.dstOk (a : Activation) (f w : Nat) : Bool :=
  if f < 112 then decide (4 * f + w ≤ 4 * a.info.winSize)
  else f == 0x72 || f == 0x73 || f == 0x75 || f == 0x77

/-- The destination of a field. -/
def dstOf (f w : Nat) : XDest :=
  if f < 112 then .slices f w
  else match f with
    | 0x72 => .sdq
    | 0x73 => .xaq
    | 0x75 => .outb
    | _ => .discard

/-- The words of the sends (09 R164, R166, R167). -/
def isSend (w : Nat) : Bool := opcodeOf w == 0xC0 || opcodeOf w == 0xC1 || opcodeOf w == 0xC2

/-- The buffers that the activation in focus dispatches from: a gang member's are its leader's (08 R150). -/
def State.bufs (s : State) : List Entry × List Entry :=
  match s.cur.flow.gang with
  | some g =>
    let l := (s.act? g.leaderCore g.leaderCtx).getD {}
    (l.f.abuf, l.f.xbuf)
  | none => (s.cur.f.abuf, s.cur.f.xbuf)

/-- The lane index of the activation in focus, 0 outside a gang (02 R19). -/
def State.lane (s : State) : Nat :=
  match s.cur.flow.gang with
  | some g => g.lane
  | none => 0

/-- The queue that a destination pushes has a free entry; a push to outb waits for every older send (02 R13, 08 R136). -/
def State.dstReady (s : State) (a : Activation) (seq : Nat) (d : XDest) : Bool :=
  match d with
  | .sdq => decide (a.q.sdq.length + a.pendingTo .sdq < 16)
  | .xaq => decide (a.q.xaq.length + a.pendingTo .xaq < 8)
  | .outb => !(s.bufs.1.any (fun e => decide (e.seq < seq) && isSend e.word.toNat))
  | _ => true

/-- A source field with the width it is read at, and whether it is sign-extended to the operation width. -/
structure XSrc where
  field  : Nat
  width  : Nat
  signed : Bool := false
  /-- A 2W range: no port may stand here. -/
  wide   : Bool := false

/-- What an X instruction computes from its sources: the result, the flags it raises, and the core's CSRs. -/
structure XRes where
  value : Nat
  flags : Nat := 0
  csr   : Csrs

/-- The operands of an X instruction: sources A and B, the destination read as a source, and the destination. -/
structure XOp where
  a     : Option XSrc
  b     : Option XSrc
  c     : Option XSrc := none
  d     : Nat
  dw    : Nat
  dWide : Bool := false

/-- Extend a source of width `sw` to the operation width `w` (03 R52). -/
def extendSrc (v sw w : Nat) (signed : Bool) : Nat := if signed then toBits (sext v sw) w else v

/-- A source read; a port where a range must stand is not waited for, since the word traps. -/
def readOpt (a : Activation) (lane : Nat) : Option XSrc → Option (Nat × Activation)
  | none => some (0, a)
  | some x => if x.wide && decide (112 ≤ x.field) then some (0, a) else a.readX lane x.field x.width

def srcOkOpt (a : Activation) : Option XSrc → Bool
  | none => true
  | some x => a.srcOk x.field x.width && !(x.wide && decide (112 ≤ x.field))

def fieldOpt : Option XSrc → Nat
  | none => 0
  | some x => x.field

def extOpt (w v : Nat) : Option XSrc → Nat
  | none => v
  | some x => extendSrc v x.width w x.signed

/-- The queue write that a result becomes. A push to outb carries its width above the value, for the landing. -/
def xWrite (d : XDest) (dw value flags : Nat) : XWrite :=
  match d with
  | .slices s n => { dest := .slices s n, value := BitVec.ofNat 256 (zext value n), flags := BitVec.ofNat 5 flags }
  | .sdq => { dest := .sdq, value := BitVec.ofNat 256 (zext value dw), flags := BitVec.ofNat 5 flags }
  | .xaq => { dest := .xaq, value := BitVec.ofNat 256 (zext (zext value dw) 64), flags := BitVec.ofNat 5 flags }
  | .outb => { dest := .outb, value := BitVec.ofNat 256 (dw + 2 ^ 10 * zext value dw), flags := BitVec.ofNat 5 flags }
  | .discard => { dest := .discard, value := 0, flags := BitVec.ofNat 5 flags }

/-- AN X INSTRUCTION at the head of the X buffer: it waits for its sources and its destination queue (not for a port
where a range must stand: that word traps), makes the checks of R61 in their order, reads A and then B, and leaves its result as a pending write (02 R13, R19, R24, R26, R28). -/
def xBody (op : XOp) (w : Nat) (illegal : Bool) (f : Csrs → Nat → Nat → Nat → XRes) (s : State) : Att :=
  let a := s.cur
  let e := s.head .x
  match readOpt a s.lane op.a with
  | none => .stall
  | some (va, a1) =>
    match readOpt a1 s.lane op.b with
    | none => .stall
    | some (vb, a2) =>
      match readOpt a2 s.lane op.c with
      | none => .stall
      | some (vc, a3) =>
        let d := dstOf op.d op.dw
        .need ((op.dWide && decide (112 ≤ op.d)) || s.dstReady a e.seq d) <|
        guardHints e illegal <|
        .check (srcOkOpt a op.a) tILLEGAL_OPERAND (fieldOpt op.a) <|
        .check (srcOkOpt a op.b) tILLEGAL_OPERAND (fieldOpt op.b) <|
        .check (a.dstOk op.d op.dw && !(op.dWide && decide (112 ≤ op.d)) &&
            (d != .outb || decide (a.outPending + op.dw ≤ 512))) tILLEGAL_OPERAND op.d <|
        let r := f s.curCore.csr (extOpt w va op.a) (extOpt w vb op.b) (extOpt w vc op.c)
        .ok ((s.setCurCore { s.curCore with csr := r.csr }).setCur
          { a3 with pend := a3.pend ++ [xWrite d op.dw r.value r.flags] })

/-- A source of an integer instruction: HWID gives it a width and an extension of its own (03 R52). -/
def intSrc (e : Entry) (second : Bool) (field w : Nat) : XSrc :=
  match e.hwid with
  | some h =>
    if second then { field := field, width := widthOf (fld h 18 3), signed := fld h 16 1 == 1 }
    else { field := field, width := widthOf (fld h 21 3), signed := fld h 17 1 == 1 }
  | none => { field := field, width := w }

/-- An integer instruction `D ← f(A, B)` on the operation width in bits; A and B as the format gives them. -/
def intBody (wc d : Nat) (a b : Option Nat) (illegal : Entry → Bool) (f : Entry → Nat → Nat → Nat → Nat)
    (s : State) : Att :=
  let e := s.head .x
  let w := widthOf wc
  xBody { a := a.map (fun x => intSrc e false x w), b := b.map (fun x => intSrc e true x w), d := d, dw := w }
    w (illegal e) (fun c va vb _ => { value := f e w va vb, csr := c }) s

/-- Register form of two sources. -/
def execX3 (wc d a b : Nat) (f : Nat → Nat → Nat → Nat) (s : State) : Out :=
  dispatch .x (intBody wc d (some a) (some b) (fun _ => false) (fun _ w x y => f w x y)) s

/-- Register form of one source. -/
def execX2 (wc d a : Nat) (f : Nat → Nat → Nat) (s : State) : Out :=
  dispatch .x (intBody wc d (some a) none (fun _ => false) (fun _ w x _ => f w x)) s

/-- Immediate form with a signed immediate, narrowed to the operation width (03 R51). -/
def execXI (wc d a i : Nat) (f : Nat → Nat → Nat → Nat) (s : State) : Out :=
  dispatch .x (intBody wc d (some a) none (fun _ => false) (fun e w x _ => f w x (toBits (e.immS 7 i) w))) s

/-- Immediate form with an unsigned count; `bad` says which counts are reserved. -/
def execXC (wc d a i : Nat) (bad : Nat → Nat → Bool) (f : Nat → Nat → Nat → Nat) (s : State) : Out :=
  dispatch .x (intBody wc d (some a) none (fun e => bad (widthOf wc) (e.immU 7 i)) (fun e w x _ => f w x (e.immU 7 i))) s

/-- A pending write lands (05 R75): the slices, the tail of a queue or the outgoing payload take it, and its flags are
ORed into XFLAGS (13 R243). -/
def Activation.land (a : Activation) (p : XWrite) : Activation :=
  match p.dest with
  | .slices s n => { a with win := BitVec.ofNat 448 (putFld a.win.toNat (4 * s) n p.value.toNat) }
  | .sdq => { a with q := { a.q with sdq := a.q.sdq ++ [p.value.setWidth 128] } }
  | .xaq => { a with q := { a.q with xaq := a.q.xaq ++ [p.value.setWidth 64] } }
  | .outb =>
    let w := p.value.toNat % 2 ^ 10
    let v := p.value.toNat / 2 ^ 10
    { a with q := { a.q with
        outPay := BitVec.ofNat 512 (a.q.outPay.toNat + v % 2 ^ w * 2 ^ a.q.outBits), outBits := a.q.outBits + w } }
  | .discard => a

end Sys2Proof.Machine
end

