-- ==== Sys2Proof/Machine/AInt.lean ====
section
/-! DEFINITION. Address arithmetic, moves, queue transfers and capability operations of the A-half, 0x80 to 0x95
(06 R98 to R103). -/

namespace Sys2Proof.Machine

/-- An A instruction at the head: it waits for the registers it reads, and makes steps 1 and 2 of R61. -/
def aBody (rs : List Nat) (illegal : Entry → Bool) (k : Activation → Entry → Att) (s : State) : Att :=
  let a := s.cur
  let e := s.head .a
  .need (rs.all (fun r => a.regReady e.seq r)) (guardHints e (illegal e) (k a e))

/-- An A instruction that reads registers and writes one, and does nothing else. -/
def regBody (rs : List Nat) (d : Nat) (illegal : Entry → Bool) (v : Activation → Entry → AReg) (s : State) : Att :=
  aBody rs illegal (fun a e => .ok (s.setCur (a.writeReg e.seq d (v a e)))) s

/-- Two sources, 64 bits (06 R100). -/
def execA3 (d a b : Nat) (f : Nat → Nat → Nat) (s : State) : Out :=
  dispatch .a (regBody [a, b] d (fun _ => false) (fun act _ => plain64 (f (act.lo a) (act.lo b)))) s

def aAdd (x y : Nat) : Nat := (x + y) % 2 ^ 64
def aSub (x y : Nat) : Nat := (x + (2 ^ 64 - y)) % 2 ^ 64
def aMul (x y : Nat) : Nat := x * y % 2 ^ 64
def aSlt (x y : Nat) : Nat := ofBool (decide (sext x 64 < sext y 64))
def aSltu (x y : Nat) : Nat := ofBool (decide (x < y))

def execAadd (d a b : Nat) (s : State) : Out := execA3 d a b aAdd s
def execAsub (d a b : Nat) (s : State) : Out := execA3 d a b aSub s
def execAmul (d a b : Nat) (s : State) : Out := execA3 d a b aMul s
def execAand (d a b : Nat) (s : State) : Out := execA3 d a b bAnd s
def execAor (d a b : Nat) (s : State) : Out := execA3 d a b bOr s
def execAxor (d a b : Nat) (s : State) : Out := execA3 d a b bXor s
def execAslt (d a b : Nat) (s : State) : Out := execA3 d a b aSlt s
def execAsltu (d a b : Nat) (s : State) : Out := execA3 d a b aSltu s

/-- AADDI (06 R100). -/
def execAaddi (d a i : Nat) (s : State) : Out :=
  dispatch .a (regBody [a] d (fun _ => false) (fun act e => plain64 (aAdd (act.lo a) (toBits (e.immS 14 i) 64)))) s

/-- The immediate shifts read their count unsigned; 64 and more is reserved (06 R100). -/
def execAShift (d a i : Nat) (f : Nat → Nat → Nat) (s : State) : Out :=
  dispatch .a (regBody [a] d (fun e => decide (64 ≤ e.immU 14 i)) (fun act e => plain64 (f (act.lo a) (e.immU 14 i)))) s

def aShl (x n : Nat) : Nat := x * 2 ^ n % 2 ^ 64
def aShr (x n : Nat) : Nat := x / 2 ^ n
def aSar (x n : Nat) : Nat := toBits (sext x 64 / 2 ^ n) 64

def execAshli (d a i : Nat) (s : State) : Out := execAShift d a i aShl s
def execAshri (d a i : Nat) (s : State) : Out := execAShift d a i aShr s
def execAsari (d a i : Nat) (s : State) : Out := execAShift d a i aSar s

/-- AMOVI (06 R100). -/
def execAmovi (d i : Nat) (s : State) : Out :=
  dispatch .a (regBody [] d (fun _ => false) (fun _ e => plain64 (toBits (e.immS 14 i) 64))) s

/-- AUPI (06 R100): four times the word's own address, and the immediate. -/
def execAupi (d i : Nat) (s : State) : Out :=
  dispatch .a (regBody [] d (fun _ => false) (fun _ e => plain64 (toBits (4 * e.wpc.toNat + e.immS 14 i) 64))) s

/-- AMOV (06 R101): all 128 bits and the tag. -/
def execAmov (d a : Nat) (s : State) : Out :=
  dispatch .a (regBody [a] d (fun _ => false) (fun act _ => act.reg a)) s

/-- CCLR (06 R103): the 128 bits with the tag clear. -/
def execCclr (d a : Nat) (s : State) : Out :=
  dispatch .a (regBody [a] d (fun _ => false) (fun act _ => { data := (act.reg a).data })) s

/-- The queue that a load or APUSHQ fills. -/
def Activation.ldq (a : Activation) (q : Nat) : List QEntry := if q = 0 then a.q.ldq0 else a.q.ldq1

def Activation.setLdq (a : Activation) (q : Nat) (l : List QEntry) : Activation :=
  if q = 0 then { a with q := { a.q with ldq0 := l } } else { a with q := { a.q with ldq1 := l } }

/-- A free entry stands in a load queue (02 R17). -/
def Activation.ldqFree (a : Activation) (q : Nat) : Bool := decide ((a.ldq q).length < 16)

/-- APUSHQ (06 R101). -/
def execApushq (q a : Nat) (s : State) : Out :=
  dispatch .a (fun t => .need (t.cur.ldqFree q)
    (aBody [a] (fun _ => false)
      (fun act _ => .ok (t.setCur (act.setLdq q (act.ldq q ++ [{ data := (act.reg a).data }])))) t)) s

/-- APOPQ (06 R101). -/
def execApopq (d : Nat) (s : State) : Out :=
  dispatch .a (fun t => match t.cur.q.xaq with
    | [] => .stall
    | v :: rest => aBody [] (fun _ => false)
        (fun act e => .ok (t.setCur
          (({ act with q := { act.q with xaq := rest } } : Activation).writeReg e.seq d (plain64 v.toNat)))) t) s

/-- CBASE (06 R102): the base moves up by k; the result is tagged when it stays inside the source. -/
def capBase (c : AReg) (k : Nat) : AReg :=
  { data := BitVec.ofNat 128 (c.data.toNat / 2 ^ 56 * 2 ^ 56 + (c.base + k) % 2 ^ 56)
    tag := c.tag && decide (c.base + k ≤ c.top) && decide (c.base + k < 2 ^ 56) }

/-- CLEN (06 R102): the top becomes base + k. -/
def capLen (c : AReg) (k : Nat) : AReg :=
  { data := BitVec.ofNat 128 (putFld c.data.toNat 56 56 (c.base + k))
    tag := c.tag && decide (c.base + k ≤ c.top) }

/-- The permissions that CPERM leaves (06 R102): each bit only where k has it, LCL also where k sets it. -/
def permsOf (perms k : Nat) : Nat := bAnd (bAnd perms k) 0x3BF + bOr (bAnd perms 0x40) (bAnd k 0x40)

/-- CPERM (06 R102). -/
def capPerm (c : AReg) (k : Nat) : AReg :=
  { data := BitVec.ofNat 128 (putFld c.data.toNat 112 12 (permsOf c.perms k)), tag := c.tag }

/-- A derivation from `a` by the number in `b` (06 R102). -/
def execDerive (d a b : Nat) (f : AReg → Nat → AReg) (s : State) : Out :=
  dispatch .a (regBody [a, b] d (fun _ => false) (fun act _ => f (act.reg a) (act.lo b))) s

def execCbase (d a b : Nat) (s : State) : Out := execDerive d a b capBase s
def execClen (d a b : Nat) (s : State) : Out := execDerive d a b capLen s
def execCperm (d a b : Nat) (s : State) : Out := execDerive d a b capPerm s

/-- The field of CGET (06 R103): 0 base, 1 top, 2 perm, 3 tag, 4 length. The length wraps where an untagged register has its
top below its base: DESIGN CHOICE, log 67. -/
def capField (c : AReg) (f : Nat) : Nat :=
  match f with
  | 0 => c.base
  | 1 => c.top
  | 2 => c.perms
  | 3 => ofBool c.tag
  | _ => (c.top + 2 ^ 64 - c.base) % 2 ^ 64

/-- CGET (06 R103). -/
def execCget (d a f : Nat) (s : State) : Out :=
  dispatch .a (regBody [a] d (fun _ => false) (fun act _ => plain64 (capField (act.reg a) f))) s

end Sys2Proof.Machine
end

