-- ==== Sys2Proof/Machine/Csr.lean ====
section
/-! DEFINITION. The CSRs (06 R117 to R119): what each number reads as and what a write does, for the core's own
instructions, for the debug registers of a VF (23 R428) and for the register-write events. -/

namespace Sys2Proof.Machine

/-- The CSR numbers that CSRR may name (06 R118). -/
def csrAssigned (n : Nat) : Bool :=
  decide (n ≤ 0x00D) || (decide (0x010 ≤ n) && decide (n ≤ 0x0FF))

/-- The assigned numbers that no CSRW may name (06 R118). -/
def csrReadOnly (n : Nat) : Bool :=
  decide (n ≤ 0x002) || n == 0x00C || n == 0x00D || (decide (0x040 ≤ n) && decide (n ≤ 0x04F))

/-- The protected CSRs (06 R118). -/
def csrProtected (n : Nat) : Bool :=
  (decide (0x003 ≤ n) && decide (n ≤ 0x006)) || (decide (0x008 ≤ n) && decide (n ≤ 0x00B)) ||
    (decide (0x010 ≤ n) && decide (n ≤ 0x03F)) || (decide (0x050 ≤ n) && decide (n ≤ 0x0FF))

/-- A value of XB (02 R39). -/
def xbOk (v : Nat) : Bool := v % 4 == 0 && decide (0x1000 ≤ v) && decide (v ≤ 0x10000)

/-- READY as a core sees it (23 R422). -/
def State.readyWord (s : State) (core : Nat) : Nat :=
  let p := s.platform
  ofBool (bitAt p.readyClu.toNat (core / 32)) + 2 * ofBool p.sched + 4 * ofBool p.cxl + 2 ^ 3 * p.hbm.toNat +
    2 ^ 15 * p.link.toNat + 2 ^ 27 * p.enc.toNat

/-- The selected item of the signal box (08 R159, R160). -/
def SignalBox.data (b : SignalBox) : Nat :=
  let i := b.idx.toNat
  if i < 0x20 then
    let c := Sparse.get {} b.counters i
    c.count.toNat + 2 ^ 16 * c.thresh.toNat + 2 ^ 32 * c.insel.toNat
  else if i < 0x40 then (Sparse.get (0 : BitVec 32) b.terms (i - 0x20)).toNat
  else if i < 0x60 then
    let o := Sparse.get {} b.outs (i - 0x40)
    o.tmask.toNat + 2 ^ 32 * o.target.toNat + 2 ^ 40 * ofBool o.pending + 2 ^ 41 * ofBool o.overrun + 2 ^ 42 * ofBool o.en
  else if i < 0x68 then (Sparse.get {} b.timers (i - 0x60)).period.toNat
  else 0

/-- SBPEND: the PENDING bit of each output (08 R159). -/
def SignalBox.pendWord (b : SignalBox) : Nat :=
  packFields 1 ((upTo 32).map (fun i => ofBool (Sparse.get ({} : SbOutput) b.outs i).pending))

/-- A write of the selected item (08 R160, R161): OVERRUN clears where a one is written, PENDING does not change, and a
timer counts PERIOD from now. -/
def SignalBox.write (b : SignalBox) (v now : Nat) : SignalBox :=
  let i := b.idx.toNat
  if i < 0x20 then
    let x : SbCounter :=
      { count := BitVec.ofNat 16 v, thresh := BitVec.ofNat 16 (v / 2 ^ 16), insel := BitVec.ofNat 6 (v / 2 ^ 32) }
    { b with counters := Sparse.set {} b.counters i x }
  else if i < 0x40 then { b with terms := Sparse.set 0 b.terms (i - 0x20) (BitVec.ofNat 32 v) }
  else if i < 0x60 then
    let o := Sparse.get {} b.outs (i - 0x40)
    let x : SbOutput :=
      { tmask := BitVec.ofNat 32 v, target := BitVec.ofNat 8 (v / 2 ^ 32), pending := o.pending
        overrun := o.overrun && !(bitAt v 41), en := bitAt v 42 }
    { b with outs := Sparse.set {} b.outs (i - 0x40) x }
  else if i < 0x68 then
    let x : SbTimer := { period := BitVec.ofNat 32 v, next := if v % 2 ^ 32 = 0 then 0 else now + v % 2 ^ 32 }
    { b with timers := Sparse.set {} b.timers (i - 0x60) x }
  else b

/-- The activation whose trap record CSRs 0x004 to 0x006 reach: the one served, or the own (10 R183). -/
def State.trapOwner (s : State) : Nat := s.cur.info.serves.getD s.cur.info.id

/-- The record that CSRs 0x004 to 0x006 reach for the activation in focus. -/
def State.trapRecord (s : State) : TrapRec :=
  match s.cur.info.serves with
  | some id => s.recordOf s.focus.core id
  | none => Sparse.get {} s.curCore.trapRecs s.focus.ctx

def State.setTrapRecord (s : State) (r : TrapRec) : State :=
  match s.cur.info.serves with
  | some id => s.setRecordOf s.focus.core id r
  | none => s.setCurCore { s.curCore with trapRecs := Sparse.set {} s.curCore.trapRecs s.focus.ctx r }

/-- The value of a CSR of a core; trap records are those of the activation in focus. -/
def State.csrRead (s : State) (core n : Nat) : Nat :=
  let c := s.core core
  let ph := s.physOf core
  let cl := s.cluster (core / 32)
  let pe := Sparse.get {} c.prof c.csr.psel.toNat
  match n with
  | 0x000 => core + 2 ^ 13 * Config.package + 2 ^ 17 * (ph.pcore.toNat % 32) + 2 ^ 22 * ph.pclu.toNat
  | 0x001 => s.ns % 2 ^ 64
  | 0x002 => (BitVec.ofNat 64 s.clock - ph.cycBase).toNat
  | 0x003 => c.csr.xb.toNat
  | 0x004 => s.trapRecord.word
  | 0x005 => s.trapRecord.pc.toNat
  | 0x006 => s.trapRecord.val.toNat
  | 0x007 => c.csr.xflags.toNat
  | 0x008 => c.csr.seed.toNat
  | 0x009 => ofBool c.csr.pol
  | 0x00A => c.csr.t1.toNat + 2 ^ 8 * c.csr.t2.toNat + 2 ^ 16 * c.csr.t3.toNat
  | 0x00B => c.csr.lot.toNat
  | 0x00C => cl.energy.toNat
  | 0x00D => s.readyWord core
  | 0x010 => cl.sb.idx.toNat
  | 0x011 => cl.sb.data
  | 0x012 => cl.sb.pendWord
  | 0x040 => c.siding.length
  | 0x041 => c.stolen.toNat
  | 0x042 => c.taken.toNat
  | 0x050 => c.csr.psel.toNat
  | 0x051 => pe.core.toNat + 2 ^ 13 * pe.pkg.toNat + 2 ^ 17 * ofBool pe.valid
  | 0x052 => pe.count.toNat
  | 0x053 => pe.transit.toNat
  | 0x054 => pe.wait.toNat
  | 0x055 => pe.run.toNat
  | 0x056 => ofBool c.csr.profEn
  | 0x080 => ofBool c.dbg.halt + 2 ^ 2 * c.dbg.stepCtx.toNat + 2 ^ 5 * ofBool c.dbg.halt +
      2 ^ 6 * ofBool c.dbg.stepDone + 2 ^ 7 * ofBool c.dbg.stepPark
  | 0x081 => ofBool c.csr.trEn + 2 * c.csr.trKinds.toNat
  | 0x082 =>
    let t := cl.trace.settle s.clock
    t.wptr.toNat + 2 ^ 14 * t.lost.toNat + 2 ^ 46 * t.dptr.toNat
  | 0x083 => cl.trace.dst.toNat
  | _ => 0

/-- The core halts or resumes; each group's round-robin search then starts at context 0 (07 R132, R134). -/
def State.setHalt (s : State) (core : Nat) (h : Bool) : State :=
  let c := s.core core
  if c.dbg.halt = h then s
  else
    let c1 := { c with dbg := { c.dbg with halt := h, want := none, stepSeq := none } }
    let c2 := if h then c1 else
      { c1 with urgent := { c1.urgent with lastCtx := none }, normal := { c1.normal with lastCtx := none } }
    (s.setCore core c2).trace core 0 7 (ofBool h)

/-- A step is asked for: of a halted core, and of a context that holds an activation (23 R430). -/
def State.askStep (s : State) (core ctx : Nat) : State :=
  let c := s.core core
  if c.dbg.halt && (Sparse.look c.acts ctx).isSome then
    s.setCore core { c with dbg := { c.dbg with want := some ctx, stepSeq := none, stepDone := false, stepPark := false } }
  else s

/-- DBGCTL (23 R429). -/
def State.writeDbgctl (s : State) (core v : Nat) : State :=
  let s1 := s.setHalt core (bitAt v 0)
  let c := s1.core core
  let s2 := s1.setCore core { c with dbg := { c.dbg with
    stepCtx := BitVec.ofNat 3 (v / 4), stepDone := c.dbg.stepDone && !(bitAt v 6) } }
  if bitAt v 1 then s2.askStep core (fld v 2 3) else s2

/-- A value of TRDST: 0, or a multiple of 1 MiB with its ring inside the HBM allotment of the cluster's holder
(23 R429). Any other value is ignored: DESIGN CHOICE, log 11. -/
def State.trdstOk (s : State) (g v : Nat) : Bool :=
  v == 0 || (v % 0x100000 == 0 && match (s.cluster g).holder.bind s.region? with
    | some r =>
      let lo := (s.part (partOf ((s.cluster g).holder.getD 0))).hbmBase + r.eff.hbmLo.toNat
      decide (lo ≤ v) && decide (v + 0x100000 ≤ lo + r.eff.hbmLen.toNat)
    | none => false)

/-- What a write of 64 bits to a CSR of a core does; a number that takes no write changes nothing. -/
def State.csrWrite (s : State) (core n v : Nat) : State :=
  let c := s.core core
  let g := core / 32
  let cl := s.cluster g
  let csr (x : Csrs) : State := s.setCore core { c with csr := x }
  let sb (x : SignalBox) : State := s.setCluster g { cl with sb := x }
  match n with
  | 0x003 => if xbOk v then csr { c.csr with xb := BitVec.ofNat 17 v } else s
  | 0x004 => s.setTrapRecord { s.trapRecord with cause := BitVec.ofNat 8 v }
  | 0x005 => s.setTrapRecord { s.trapRecord with pc := BitVec.ofNat 14 v }
  | 0x006 => s.setTrapRecord { s.trapRecord with val := BitVec.ofNat 64 v }
  | 0x007 => csr { c.csr with xflags := BitVec.ofNat 5 v }
  | 0x008 => csr { c.csr with seed := BitVec.ofNat 64 v, rng := rngOfSeed core (BitVec.ofNat 64 v) }
  | 0x009 => csr { c.csr with pol := bitAt v 0 }
  | 0x00A => csr { c.csr with
      t1 := BitVec.ofNat 8 v, t2 := BitVec.ofNat 8 (v / 2 ^ 8), t3 := BitVec.ofNat 8 (v / 2 ^ 16) }
  | 0x00B => csr { c.csr with lot := if v % 2 ^ 32 = 0 then 1 else BitVec.ofNat 32 v }
  | 0x010 => sb { cl.sb with idx := BitVec.ofNat 7 v }
  | 0x011 => sb (cl.sb.write v s.ns)
  | 0x050 => csr { c.csr with psel := BitVec.ofNat 5 v }
  | 0x056 => s.setCore core
      { c with csr := { c.csr with profEn := bitAt v 0 }, prof := if bitAt v 1 then [] else c.prof }
  | 0x080 => s.writeDbgctl core v
  | 0x081 => csr { c.csr with trEn := bitAt v 0, trKinds := BitVec.ofNat 7 (v / 2) }
  | 0x083 =>
    if s.trdstOk g (v % 2 ^ 48) then
      s.setCluster g { cl with trace := { cl.trace.settle s.clock with dst := BitVec.ofNat 48 v, last := none, ring := 0 } }
    else s
  | _ => s

/-- Every X instruction of the activation older than the head has been dispatched and has landed (06 R117). -/
def State.xDrained (s : State) (seq : Nat) : Bool :=
  s.cur.pend.isEmpty && !(s.bufs.2.any (fun e => decide (e.seq < seq)))

/-- No access of the core to its own LM is on its way: a spill or reload keeps program order (02 R36). -/
def State.ownLmQuiet (s : State) (core : Nat) : Bool :=
  !(s.net.any (fun q => q.src == .core core && q.dst == .lm core))

/-- A store, or an atomic, whose acknowledgement fences and releases wait for (06 R109, R112). -/
def AccKind.isStore : AccKind → Bool
  | .store _ _ | .storeNib _ _ _ | .storeCap _ | .join | .strel _ | .amo _ _ _ _ | .amocas _ _ _ _ => true
  | _ => false

/-- Every earlier write of activation `id` whose home is the LM of its core has been performed; a refused one has not
(21 R389). -/
def State.ownWritesDone (s : State) (core id : Nat) : Bool :=
  !(s.accs.any (fun x => x.act == id && x.kind.isStore && x.stage != .answered &&
    x.pieces.any (fun p => placeOf p.pa == some (.lm core))))

/-- CSRR (06 R117). -/
def execCsrr (d i : Nat) (s : State) : Out :=
  dispatch .a (fun t =>
    let n := (t.head .a).immU 14 i
    .need (t.xDrained (t.head .a).seq) <|
    aBody [] (fun _ => decide (0x1000 ≤ n)) (fun a e =>
      .check (csrAssigned n) tILLEGAL_OPERAND n <|
      .ok (t.setCur (a.writeReg e.seq d (plain64 (t.csrRead t.focus.core n))))) t) s

/-- CSRW (06 R117): privilege, the capability, the number, the value. A write of XB waits for the activation's earlier
writes to its core's own LM (21 R389). -/
def execCsrw (d a i : Nat) (s : State) : Out :=
  dispatch .a (fun t =>
    let n := (t.head .a).immU 14 i
    .need (t.xDrained (t.head .a).seq && (n != 0x003 || t.ownWritesDone t.focus.core t.cur.info.id)) <|
    aBody [d, a] (fun _ => decide (0x1000 ≤ n)) (fun act e =>
      let v := act.lo a
      .check (act.info.priv || !(csrProtected n)) tPRIVILEGE e.word.toNat <|
      .check (act.reg d).tag tCAP_TAG d <|
      .check ((act.reg d).perm permCSR) tCAP_PERM d <|
      .check (csrAssigned n && !(csrReadOnly n)) tILLEGAL_OPERAND n <|
      .check (n != 0x003 || xbOk v) tILLEGAL_OPERAND v <|
      .ok (t.csrWrite t.focus.core n v)) t) s

end Sys2Proof.Machine
end

