-- ==== Sys2Proof/Machine/Network.lean ====
section
/-! DEFINITION. Translation (12 R227 to R231), the sending of an activation's accesses (12 R207 to R209), what fences and
releases wait for (06 R109, R112), and write-combining (12 R226). -/

namespace Sys2Proof.Machine

/-! ### Translation -/

/-- One level of the page tables (12 R227): lowest index bit, index bits, whether a leaf may stand there, and the
alignment of the next table. -/
structure Level where
  lo    : Nat
  bits  : Nat
  leaf  : Bool
  table : Bool
  align : Nat

def levels : List Level :=
  [{ lo := 43, bits := 13, leaf := false, table := true, align := 0x10000 },
   { lo := 30, bits := 13, leaf := true, table := true, align := 0x1000 },
   { lo := 21, bits := 9, leaf := true, table := true, align := 256 },
   { lo := 16, bits := 5, leaf := true, table := false, align := 1 }]

/-- A host physical address. -/
def isHost (pa : Nat) : Bool := decide (0x100000000000 ≤ pa) && decide (pa < 0x200000000000)

/-- What the entry of one level says: TRANSLATION, a leaf with its lowest page bit, or the next table. -/
inductive LevelRead where
  | invalid
  | leaf (lo entry : Nat)
  | table (pa : Nat)

/-- The physical address of the entry that a walk reads at one level. -/
def Level.entryAt (l : Level) (table va : Nat) : Nat := table + 8 * fld va l.lo l.bits

/-- The read of one level of a walk (12 R227, R229). -/
def readLevel (s : State) (va : Nat) (l : Level) (table : Nat) : LevelRead :=
  let e := s.natAt (l.entryAt table va) 8
  let pa := fld e 8 40 * 256
  if !(bitAt e 0) || fld e 6 2 != 0 || fld e 48 16 != 0 then .invalid
  else if bitAt e 1 then
    if l.leaf && pa % 2 ^ l.lo == 0 && (!(bitAt e 5) || isHost pa) then .leaf l.lo e else .invalid
  else if l.table && decide (pa < 0xC000000000) && pa % l.align == 0 then .table pa
  else .invalid

/-- The walk of one virtual address by the device's front end: the leaf's lowest page bit and its entry, or none for
TRANSLATION, and for an entry in a retired block (23 R427). -/
def walkFrom (s : State) (va : Nat) : List Level → Nat → Option (Nat × Nat)
  | [], _ => none
  | l :: rest, table => if s.isRetired (l.entryAt table va) then none else match readLevel s va l table with
    | .invalid => none
    | .leaf lo e => some (lo, e)
    | .table pa => walkFrom s va rest pa

/-- The translation root of a region (22 R399). -/
def State.rootOf (s : State) (region : Nat) : Nat := (s.region region).eff.ptroot.toNat

/-- The first address of the own-LM range (02 R36). -/
def ownLm : Nat := 0xFFFFFFFFFF0000

/-- What an access asks of its page. -/
structure Need where
  r      : Bool := false
  w      : Bool := false
  /-- An engine or the save path: ENGINE_ONLY pages are open to it (12 R229). -/
  engine : Bool := false
  /-- Allowed on host memory (12 R225). -/
  host   : Bool := true
  /-- Allowed in an LM alone (06 R107), or in a CM of the own package (09 R174). -/
  lmOnly : Bool := false
  cmOnly : Bool := false
  /-- A capability with LCL, which STC may store to an LM alone (02 R37). -/
  local_ : Bool := false

def inLm (pa : Nat) : Bool := match placeOf pa with
  | some (.lm _) => true
  | some (.pkg _) => decide (0xC000000000 ≤ pa % 2 ^ 40) && decide (pa % 2 ^ 40 < 0xC020000000)
  | _ => false

/-- The physical address lies in the memory granted to a region's partition and inside the region's budgets (12 R207,
22 R400). -/
def State.granted (s : State) (key pa : Nat) : Bool :=
  let p := s.part (partOf key)
  let r := s.region key
  match placeOf pa with
  | some (.lm c) => p.granted (c / 32)
  | some (.cm g) => p.granted g && decide (pa % 0x100000 < r.eff.cmb.toNat * 4096)
  | some (.hbm _) =>
    decide (p.hbmBase ≤ pa) && decide (pa < p.hbmBase + p.hbmLen) &&
      decide (p.hbmBase + r.eff.hbmLo.toNat ≤ pa) && decide (pa < p.hbmBase + r.eff.hbmLo.toNat + r.eff.hbmLen.toNat)
  | some _ => true
  | none => false

/-- The fault that a page raises for an access (12 R207, R225, R229; 06 R107; 02 R37; 09 R174), and whether TRAPVAL is the
offset instead of the address. The order of the tests is the model's, so that STC of a capability with LCL to host memory
raises ACCESS: DESIGN CHOICE, log 67. -/
def pageFault (s : State) (key : Nat) (n : Need) (entry pa : Nat) : Option (Nat × Bool) :=
  if !(s.granted key pa) then some (tACCESS, false)
  else if (n.r && !(bitAt entry 2)) || (n.w && !(bitAt entry 3)) then some (tACCESS, false)
  else if !n.engine && bitAt entry 4 then some (tENGINE_ONLY_PAGE, false)
  else if n.cmOnly && !(match placeOf pa with | some (.cm _) => true | _ => false) then some (tACCESS, true)
  else if isHost pa && !n.host then some (tACCESS, false)
  else if n.lmOnly && !(inLm pa) then some (tACCESS, false)
  else if n.local_ && !(inLm pa) then some (tCAP_PERM, true)
  else none

/-- The result of the translation stage. -/
inductive Trans where
  | miss
  /-- A fault, and whether TRAPVAL is the offset. -/
  | fault (cause : Nat) (offset : Bool)
  /-- The physical address and whether plain stores to its page combine (12 R226). -/
  | at_ (pa : Nat) (wc : Bool)

/-- An entry of the translation buffer that serves a root and an address (12 R230). -/
def tlbFind (root va : Nat) (l : List TlbEntry) : Option TlbEntry :=
  l.find? (fun e => e.root == root && e.page == va / 2 ^ e.level)

/-- The translation of one address for core `core` and a region. Own-LM addresses are not translated (02 R36). -/
def State.translate (s : State) (core key : Nat) (n : Need) (va : Nat) : Trans :=
  if ownLm ≤ va then
    if n.cmOnly then .fault tACCESS true else .at_ (lmBase core + (va - ownLm)) false
  else
    match tlbFind (s.region key).eff.ptroot.toNat va (s.cluster (core / 32)).tlb with
    | none => .miss
    | some e =>
      let ent := e.entry.toNat
      let pa := fld ent 8 40 * 256 + va % 2 ^ e.level
      match pageFault s key n ent pa with
      | some c => .fault c.1 c.2
      | none => .at_ pa (bitAt ent 5)

/-- A leaf enters the translation buffer of a cluster. When the buffer is full its oldest entry goes: DESIGN CHOICE,
log 12. -/
def State.tlbAdd (s : State) (clu root va lv e : Nat) : State :=
  let cl := s.cluster clu
  let x : TlbEntry := { root := root, level := lv, page := va / 2 ^ lv, entry := BitVec.ofNat 64 e }
  let kept := if cl.tlb.length < 4096 then cl.tlb else cl.tlb.tail
  s.setCluster clu { cl with tlb := kept ++ [x] }

/-! ### The parts of an access -/

def AccKind.need : AccKind → Need
  | .load _ _ _ | .loadReg _ _ _ | .chunk _ _ _ _ => { r := true }
  | .loadCap _ => { r := true, host := false }
  | .loadNib _ _ _ _ => { r := true, lmOnly := true }
  | .store _ _ => { w := true }
  | .storeNib _ _ _ => { w := true, lmOnly := true }
  | .storeCap d => { w := true, host := false, local_ := bitAt d.toNat 118 }
  | .amo _ _ _ _ | .amocas _ _ _ _ | .join => { r := true, w := true, host := false }
  | .stacq _ _ | .strel _ => { r := true, w := true, host := false, cmOnly := true }
  | .steal _ | .mrd _ _ _ _ _ _ _ => {}

/-- An access that brings data back (06 R112; DQSTEAL counts as an atomic, 09 R176). -/
def AccKind.isLoad : AccKind → Bool
  | .store _ _ | .storeNib _ _ _ | .storeCap _ | .join | .strel _ => false
  | _ => true

/-- The bytes an access covers from its effective address on. -/
def AccKind.span : AccKind → Nat
  | .load _ bits _ | .loadReg _ bits _ | .amo _ _ bits _ | .amocas _ bits _ _ => bits / 8
  | .loadCap _ | .storeCap _ | .join => 16
  | .loadNib _ nibs odd _ | .storeNib nibs odd _ => (nibs + odd + 1) / 2
  | .store _ mask => 16 - countLead mask.toNat 16
  | .stacq _ _ | .strel _ => 64
  | .steal _ | .mrd _ _ _ _ _ _ _ => 0
  | .chunk _ _ len _ => len
where
  /-- Zero bits above the highest one of 16 mask bits. -/
  countLead (m : Nat) : Nat → Nat
    | 0 => 0
    | n + 1 => if bitAt m n then 0 else countLead m n + 1

/-- Whether a write-combining buffer takes a store to this address (12 R226). -/
def combines (pa : Nat) (nt wc : Bool) : Bool := isHost pa && (nt || wc)

/-- Both addresses lie in the page of the first; the own-LM range is no page (12 R208, R227). -/
def State.samePage (s : State) (core key va vb : Nat) : Bool :=
  decide (ownLm ≤ va) ||
    match tlbFind (s.region key).eff.ptroot.toNat va (s.cluster (core / 32)).tlb with
    | some e => vb / 2 ^ e.level == e.page
    | none => false

/-- The translated parts of `len` bytes at `va`: one, or two where the bytes span two pages or two homes (12 R208). A masked
store covers the bytes from its effective address to the last one under the mask, so the page of `va` is translated, and
may fault, though the mask selects none of its bytes: DESIGN CHOICE, log 67. -/
def State.pieces (s : State) (core key : Nat) (n : Need) (va len : Nat) : Trans × List (Piece × Bool) :=
  let cut := 4096 - va % 4096
  match s.translate core key n va with
  | .miss => (.miss, [])
  | .fault c o => (.fault c o, [])
  | .at_ pa wc =>
    if len ≤ cut then (.at_ pa wc, [({ pa := pa, off := 0, len := len }, wc)])
    else match s.translate core key n (va + cut) with
      | .miss => (.miss, [])
      | .fault c o => (.fault c o, [])
      | .at_ pb wd =>
        if placeOf pa = placeOf pb ∧ s.samePage core key va (va + cut) = true then (.at_ pa wc, [({ pa := pa, off := 0, len := len }, wc)])
        else (.at_ pa wc, [({ pa := pa, off := 0, len := cut }, wc), ({ pa := pb, off := cut, len := len - cut }, wd)])

/-! ### What fences and releases wait for -/

/-- Some part of the access has its home within scope `p` of its core. -/
def Access.within (x : Access) (p : Nat) : Bool :=
  match x.kind with
  | .steal _ => false
  | _ => x.pieces.any (fun q => match placeOf q.pa with
    | some pl => inScope p x.core pl
    | none => false)

/-- No earlier store or atomic of the activation with its home within `p` is unacknowledged, and no such load lacks its
data (06 R109). -/
def State.released (s : State) (id p : Nat) : Bool :=
  !(s.accs.any (fun x => x.act == id && x.within p))

/-- MRD reads the accumulator store and no memory (16 R307). -/
def AccKind.isMrd : AccKind → Bool
  | .mrd _ _ _ _ _ _ _ => true
  | _ => false

/-- Every earlier load and atomic of the activation has its data (06 R112). -/
def State.acquired (s : State) (id : Nat) : Bool :=
  !(s.accs.any (fun x => x.act == id && x.kind.isLoad && !x.kind.isMrd))

/-- Write-combined bytes of a cluster are on their way to the port. -/
def State.wcInFlight (s : State) (clu : Nat) : Bool :=
  s.net.any (fun q => match q.body with
    | .wcWrite g _ _ _ _ => g == clu
    | _ => false)

/-- Send one buffer to the port (12 R226). -/
def State.wcSend (s : State) (clu : Nat) (b : WcBuf) : State :=
  let cl := s.cluster clu
  (s.setCluster clu { cl with wc := cl.wc.filter (fun x => x.line != b.line) }).send
    (.home (.cm clu)) .cxl (.wcWrite clu b.line b.valid b.data b.roots)

/-- Send every buffer of a cluster. -/
def State.wcFlush (s : State) (clu : Nat) : State := (s.cluster clu).wc.foldl (fun t b => t.wcSend clu b) s

/-- The wait of a release or FENCE.REL at scope `p`: at SYSTEM scope the write-combining buffers of the cluster are sent
and must have been acknowledged (12 R226); the members of a gang share these, and the leader waits for them. Behind a hint the wait has been made in the hint's cycle (03 R61). -/
def releaseWait (s : State) (id p : Nat) (k : Att) : Att :=
  if (s.head .a).taken ≠ 0 then k else
  .need (s.released id p) <|
  if s.lane ≠ 0 then k
  else if p = 5 ∧ !((s.cluster s.curClu).wc.isEmpty) then .waits (s.wcFlush s.curClu)
  else .need (p != 5 || !(s.wcInFlight s.curClu)) k

/-! ### Write-combining (12 R226) -/

/-- One byte of a store under a translation root enters a buffer of the cluster; the buffers stay in order of their latest
write. -/
def State.wcByte (s : State) (clu root pa : Nat) (b : Byte) : State :=
  let line := pa / 64
  let cl := s.cluster clu
  let s1 := match cl.wc.find? (fun x => x.line == line) with
    | some _ => s
    | none => match cl.wc with
      | old :: _ => if cl.wc.length < 16 then s else s.wcSend clu old
      | [] => s
  let cl1 := s1.cluster clu
  let old := (cl1.wc.find? (fun x => x.line == line)).getD { line := line, valid := 0, data := 0, first := s1.ns }
  let i := pa % 64
  let new : WcBuf := { old with
    valid := old.valid ||| BitVec.ofNat 64 (2 ^ i)
    data := BitVec.ofNat 512 (putFld old.data.toNat (8 * i) 8 b.toNat)
    roots := if old.roots.contains root then old.roots else old.roots ++ [root] }
  let s2 := s1.setCluster clu { cl1 with wc := cl1.wc.filter (fun x => x.line != line) ++ [new] }
  if new.valid = BitVec.ofNat 64 (2 ^ 64 - 1) then s2.wcSend clu new else s2

/-- The bytes of a store that fall in one part: position in the store and value. -/
def storeBytes (data mask : Nat) (p : Piece) : List (Nat × Byte) :=
  ((upTo p.len).filter (fun i => bitAt mask (p.off + i))).map
    (fun i => (p.pa + i, BitVec.ofNat 8 (fld data (8 * (p.off + i)) 8)))

/-! ### Sending an access -/

/-- The access with its parts leaves the core: its parts become packets; a store that combines enters the buffers and is
acknowledged there. -/
def State.launchAcc (s : State) (x : Access) (ps : List (Piece × Bool)) : State :=
  let clu := x.core / 32
  let root := (s.region x.region).eff.ptroot.toNat
  match x.kind with
  | .store data mask =>
    let direct := ps.filter (fun p => !(combines p.1.pa x.nt p.2))
    let s1 := (ps.filter (fun p => combines p.1.pa x.nt p.2)).foldl
      (fun t p => (storeBytes data.toNat mask.toNat p.1).foldl (fun u b => u.wcByte clu root b.1 b.2) t) s
    if direct.isEmpty then s1 else post s1 (direct.map (fun p => p.1))
  | _ => post s (ps.map (fun p => p.1))
where
  post (t : State) (ps : List Piece) : State :=
    let t1 := { t with accs := t.accs ++ [{ x with pieces := ps }] }
    (upTo ps.length).foldl (fun u i => match ps[i]? with
      | some p => match placeOf p.pa with
        | some pl => u.send (.core x.core) pl (.piece x.id i)
        | none => u
      | none => u) t1

/-- The access stays at the translation stage, and the A head with it (10 R186; 12 R226). -/
def State.holdAcc (s : State) (x : Access) : State :=
  match s.ctxOf x.core x.act with
  | some ctx => match s.act? x.core ctx with
    | some a => s.setActAt x.core ctx { a with flow := { a.flow with walk := some x } }
    | none => s
  | none => s

/-- A load overlaps a line of host memory (12 R226). -/
def Access.overLine (x : Access) (ps : List (Piece × Bool)) (line : Nat) : Bool :=
  x.kind.isLoad && ps.any (fun p => isHost p.1.pa && overlaps (64 * line) 64 p.1.pa p.1.len)

/-- A load overlaps combined bytes of its cluster that have not reached the port (12 R226). -/
def State.behindWc (s : State) (x : Access) (ps : List (Piece × Bool)) : Bool :=
  (s.cluster (x.core / 32)).wc.any (fun b => x.overLine ps b.line) || s.net.any (fun q => match q.body with
    | .wcWrite g l _ _ _ => g == x.core / 32 && x.overLine ps l
    | _ => false)

/-- The buffers that a load overlaps are sent, and the load waits for their acknowledgements; behind these, or with no such
buffer, it is sent itself (12 R226). -/
def State.sendAcc (s : State) (x : Access) (ps : List (Piece × Bool)) : State :=
  if s.behindWc x ps then
    (((s.cluster (x.core / 32)).wc.filter (fun b => x.overLine ps b.line)).foldl (fun t b => t.wcSend (x.core / 32) b) s).holdAcc x
  else s.launchAcc x ps

/-- A dispatched access goes to its homes when its pages stand in the translation buffer and allow it; otherwise it waits
at the translation stage for its walk, and the A head with it (10 R186). -/
def State.issueAcc (s : State) (x : Access) : State :=
  match s.pieces x.core x.region x.kind.need x.va x.kind.span with
  | (.at_ _ _, ps) => s.sendAcc x ps
  | _ => s.holdAcc x

end Sys2Proof.Machine
end

