-- ==== Sys2Proof/Machine/LoadStore.lean ====
section
/-! DEFINITION. Loads, stores, atomics, fences, block move and repeat of the A-half, 0x96 to 0xA6 (06 R104 to R116). -/

namespace Sys2Proof.Machine

/-- The activation's accesses may be sent: no acquiring load is outstanding (06 R109), and no message that it sent before
still stands in the outbound buffer (09 R168: messages and accesses are sent in program order). -/
def sendable (s : State) (k : Att) : Att :=
  .need (!(s.acquiring s.cur.info.id) && !(s.curCore.outbound.any (fun o => o.1 == s.cur.info.id))) k

/-- No fence and no engine command is sent past an acquiring load whose data has not arrived (06 R109). -/
def orderly (s : State) (k : Att) : Att := .need (!(s.acquiring s.cur.info.id)) k

/-- A new access of the activation in focus. -/
def State.newAcc (s : State) (e : Entry) (kind : AccKind) (va off : Nat) (code acquire nt : Bool) : Access :=
  { id := s.nextId, core := s.focus.core, act := s.cur.info.id, entry := e, kind := kind, va := va, off := off
    code := code, acquire := acquire, nt := nt, region := s.cur.info.region }

/-- The activation becomes `a` and its access is issued. -/
def State.emitAcc (s : State) (a : Activation) (x : Access) : State := (s.takeId.setCur a).issueAcc x

/-- The size in bytes of a size code (06 R105). -/
def sizeBytes (z : Nat) : Nat := 2 ^ z

/-- LD and LDX, with the part of the offset that LDX pops (06 R105). -/
def loadBody (q c o z sg r : Nat) (x : Option Word64) (s : State) : Att :=
  sendable s <| .need (s.cur.ldqFree q) <|
  aBody [c, o] (fun _ => false) (fun a e =>
    let off := (a.lo o + (match x with | some v => v.toNat | none => 0)) % 2 ^ 64
    let sz := sizeBytes z
    capCheck (a.reg c) [permLD] off sz 1 sz tALIGN off <|
    let acc := s.newAcc e (.load q (8 * sz) (sg == 1)) ((a.reg c).base + off) off false (r == 1) (r == 2)
    let a1 := match x with
      | some _ => { a with q := { a.q with xaq := a.q.xaq.tail } }
      | none => a
    .ok (s.emitAcc (a1.setLdq q (a1.ldq q ++ [{ wait := s.nextId }]))
      { acc with popXaq := x.toList })) s

/-- LD (06 R104, R105). -/
def execLd (q c o z sg r _p : Nat) (s : State) : Out := dispatch .a (loadBody q c o z sg r none) s

/-- LDX waits for its XAQ entry and pops it (06 R105). -/
def execLdx (q c o z sg r _p : Nat) (s : State) : Out :=
  dispatch .a (fun t => match t.cur.q.xaq with
    | [] => .stall
    | v :: _ => loadBody q c o z sg r (some v) t) s

/-- A register that waits for the answer of the access with the next number. -/
def Activation.awaitReg (a : Activation) (seq d id : Nat) : Activation :=
  a.writeReg seq d { (a.reg d) with wait := id }

/-- What a register waiting for the access holds when that is taken back (06 R98, R108). -/
def Activation.prevReg (a : Activation) (seq d : Nat) : List (Nat × AReg) := [(d, a.regBefore seq d)]

/-- LDA and LDC (06 R105). -/
def loadRegBody (d c o size : Nat) (perms : List Nat) (cause : Nat) (kind : AccKind) (r : Nat) (s : State) : Att :=
  sendable s <|
  aBody [c, o] (fun _ => false) (fun a e =>
    let off := a.lo o
    capCheck (a.reg c) perms off size 1 size cause off <|
    .ok (s.emitAcc (a.awaitReg e.seq d s.nextId)
      { s.newAcc e kind ((a.reg c).base + off) off false (r == 1) (r == 2) with prev := a.prevReg e.seq d })) s

/-- LDA (06 R104, R105). -/
def execLda (d c o z sg r _p : Nat) (s : State) : Out :=
  dispatch .a (loadRegBody d c o (sizeBytes z) [permLD] tALIGN (.loadReg d (8 * sizeBytes z) (sg == 1)) r) s

/-- LDC (06 R104, R105). -/
def execLdc (d c o r _p : Nat) (s : State) : Out :=
  dispatch .a (loadRegBody d c o 16 [permLD, permLDC] tCAP_ALIGN (.loadCap d) r) s

/-- LDNIB (06 R107): the offset counts nibbles. -/
def execLdnib (q c o z sg : Nat) (s : State) : Out :=
  dispatch .a (fun t => sendable t <| .need (t.cur.ldqFree q) <|
    aBody [c, o] (fun _ => false) (fun a e =>
      let off := a.lo o
      let nibs := 2 * sizeBytes z
      capCheck (a.reg c) [permLD] off nibs 2 1 tALIGN off <|
      .ok (t.emitAcc (a.setLdq q (a.ldq q ++ [{ wait := t.nextId }]))
        (t.newAcc e (.loadNib q nibs (off % 2) (sg == 1)) ((a.reg c).base + off / 2) off false false false))) t) s

/-- A store of a value that stands at the head of SDQ: the value is popped at dispatch (06 R105). -/
def popSdq (s : State) (k : Word128 → Activation → Att) : Att :=
  match s.cur.q.sdq with
  | [] => .stall
  | v :: rest => k v { s.cur with q := { s.cur.q with sdq := rest } }

/-- The wait of a store with ordering `r` at scope `p` (06 R109). -/
def orderStore (s : State) (r p : Nat) (k : Att) : Att :=
  if r = 1 then releaseWait s s.cur.info.id p k else k

/-- The mask of a store of `n` bytes. -/
def fullMask (n : Nat) : BitVec 16 := BitVec.ofNat 16 (2 ^ n - 1)

/-- ST and STX (06 R105). -/
def storeBody (c o z r p : Nat) (x : Option Word64) (s : State) : Att :=
  sendable s <| popSdq s (fun v popped =>
  aBody [c, o] (fun _ => false) (fun a e =>
    let off := (a.lo o + (match x with | some u => u.toNat | none => 0)) % 2 ^ 64
    let sz := sizeBytes z
    capCheck (a.reg c) [permST] off sz 1 sz tALIGN off <|
    orderStore s r p <|
    let acc := s.newAcc e (.store v (fullMask sz)) ((a.reg c).base + off) off ((a.reg c).perm permCODE) false (r == 2)
    let a1 := match x with
      | some _ => { popped with q := { popped.q with xaq := popped.q.xaq.tail } }
      | none => popped
    .ok (s.emitAcc a1 { acc with popSdq := [v], popXaq := x.toList })) s)

/-- ST (06 R104, R105). -/
def execSt (c o z r p : Nat) (s : State) : Out := dispatch .a (storeBody c o z r p none) s

/-- STX (06 R104, R105). -/
def execStx (c o z r p : Nat) (s : State) : Out :=
  dispatch .a (fun t => match t.cur.q.xaq with
    | [] => .stall
    | v :: _ => storeBody c o z r p (some v) t) s

/-- One more than the highest set bit of the low 16 bits, 0 when none is (06 R106). -/
def maskSpan (m : Nat) : Nat := 16 - AccKind.span.countLead (m % 2 ^ 16) 16

/-- STM (06 R106): the bytes under the mask; a zero mask reaches no home. -/
def execStm (m c o r p : Nat) (s : State) : Out :=
  dispatch .a (fun t => sendable t <| popSdq t (fun v popped =>
    aBody [c, o, m] (fun _ => false) (fun a e =>
      let off := a.lo o
      let mask := fld (a.reg m).data.toNat 0 16
      capCheck (a.reg c) [permST] off (maskSpan mask) 1 1 tALIGN off <|
      orderStore t r p <|
      if mask = 0 then .ok (t.setCur popped)
      else .ok (t.emitAcc popped
        { t.newAcc e (.store v (BitVec.ofNat 16 mask)) ((a.reg c).base + off) off ((a.reg c).perm permCODE) false
            (r == 2) with popSdq := [v] })) t)) s

/-- STA (06 R105): the low bits of a register. -/
def execSta (d c o z r p : Nat) (s : State) : Out :=
  dispatch .a (fun t => sendable t <|
    aBody [c, o, d] (fun _ => false) (fun a e =>
      let off := a.lo o
      let sz := sizeBytes z
      capCheck (a.reg c) [permST] off sz 1 sz tALIGN off <|
      orderStore t r p <|
      .ok (t.emitAcc a (t.newAcc e (.store (a.reg d).data (fullMask sz)) ((a.reg c).base + off) off
        ((a.reg c).perm permCODE) false (r == 2)))) t) s

/-- STC (06 R105): the checks on its capability, and then a tagged source. -/
def execStc (d c o r p : Nat) (s : State) : Out :=
  dispatch .a (fun t => sendable t <|
    aBody [c, o, d] (fun _ => false) (fun a e =>
      let off := a.lo o
      capCheck (a.reg c) [permST, permSTC] off 16 1 16 tCAP_ALIGN off <|
      .check (a.reg d).tag tCAP_TAG d <|
      orderStore t r p <|
      .ok (t.emitAcc a (t.newAcc e (.storeCap (a.reg d).data) ((a.reg c).base + off) off
        ((a.reg c).perm permCODE) false false))) t) s

/-- STNIB (06 R107). -/
def execStnib (c o z : Nat) (s : State) : Out :=
  dispatch .a (fun t => sendable t <| popSdq t (fun v popped =>
    aBody [c, o] (fun _ => false) (fun a e =>
      let off := a.lo o
      let nibs := 2 * sizeBytes z
      capCheck (a.reg c) [permST] off nibs 2 1 tALIGN off <|
      .ok (t.emitAcc popped
        { t.newAcc e (.storeNib nibs (off % 2) v) ((a.reg c).base + off / 2) off ((a.reg c).perm permCODE) false false
          with popSdq := [v] })) t)) s

/-! ### Atomics -/

/-- AMO and AMOCAS: the checks of R35 with permission AMO, and the waits of an ordered atomic (06 R110, R111). -/
def atomicBody (rs : List Nat) (d a b z o p : Nat) (kind : Activation → AccKind) (s : State) : Att :=
  sendable s <|
  aBody rs (fun _ => false) (fun act e =>
    let off := act.lo b
    let sz := 4 * 2 ^ z
    capCheck (act.reg a) [permAMO] off sz 1 sz tALIGN off <|
    orderStore s o p <|
    .ok (s.emitAcc (act.awaitReg e.seq d s.nextId)
      { s.newAcc e (kind act) ((act.reg a).base + off) off ((act.reg a).perm permCODE) (o == 1) false with
        prev := act.prevReg e.seq d })) s

/-- AMO (06 R110). -/
def execAmo (d a b f z o p : Nat) (s : State) : Out :=
  dispatch .a (atomicBody [a, b, d] d a b z o p
    (fun act => .amo d f (32 * 2 ^ z) (BitVec.ofNat 64 (act.lo d)))) s

/-- AMOCAS (06 R111): the d field is the even register's number over 2. -/
def execAmocas (d a b z o p : Nat) (s : State) : Out :=
  dispatch .a (atomicBody [a, b, 2 * d, 2 * d + 1] (2 * d) a b z o p
    (fun act => .amocas (2 * d) (32 * 2 ^ z) (BitVec.ofNat 64 (act.lo (2 * d)))
      (BitVec.ofNat 64 (act.lo (2 * d + 1))))) s

/-- The new value of an AMO (06 R110). -/
def amoNew (f n old v : Nat) : Nat :=
  match f with
  | 0 => v % 2 ^ n
  | 1 => (old + v) % 2 ^ n
  | 2 => bAnd old (v % 2 ^ n)
  | 3 => bOr old (v % 2 ^ n)
  | 4 => bXor old (v % 2 ^ n)
  | 5 => if sext old n ≤ sext v n then old else v % 2 ^ n
  | 6 => if sext old n ≤ sext v n then v % 2 ^ n else old
  | 7 => if old ≤ v % 2 ^ n then old else v % 2 ^ n
  | _ => if old ≤ v % 2 ^ n then v % 2 ^ n else old

/-! ### Fences -/

/-- FENCE.ACQ (06 R112). -/
def execFenceAcq (_p : Nat) (s : State) : Out :=
  dispatch .a (fun t => orderly t <| .need (t.acquired t.cur.info.id) <| aBody [] (fun _ => false) (fun _ _ => .ok t) t) s

/-- FENCE.REL (06 R112). -/
def execFenceRel (p : Nat) (s : State) : Out :=
  dispatch .a (fun t => orderly t <|
    aBody [] (fun _ => false) (fun _ _ => releaseWait t t.cur.info.id p (.ok t)) t) s

/-- FENCE.AR (06 R112). -/
def execFenceAr (p : Nat) (s : State) : Out :=
  dispatch .a (fun t => orderly t <| .need (t.acquired t.cur.info.id) <|
    aBody [] (fun _ => false) (fun _ _ => releaseWait t t.cur.info.id p (.ok t)) t) s

/-- A cluster whose translation buffer XFENCE covers at scope `p` (12 R231). -/
def fenceCovers (p core g : Nat) : Bool :=
  (p == 1 && g == core / 32) || (p == 2 && g / 64 == core / 2048) || decide (3 ≤ p)

/-- A core whose walks are made by walkers that XFENCE covers at scope `p`: at CLUSTER scope none (12 R231). -/
def walkersCovered (p core k : Nat) : Bool := p != 1 && fenceCovers p core (k / 32)

/-- A walk in progress is made anew from the root, and what it has read is discarded. -/
def Core.rewalk (c : Core) : Core :=
  { c with acts := c.acts.map (fun e => (e.1, { e.2 with flow := { e.2.flow with walkAt := none } })) }

/-- So are those of a cluster's engine contexts. -/
def Cluster.rewalk (c : Cluster) (root : Nat → Nat) : Cluster :=
  { c with eng := c.eng.map (fun e => (e.1, { e.2 with
      walk := e.2.walk.map (fun w => { w with pos := { va := w.pos.va, table := root w.region } }), noPage := [] })) }

/-- Every buffer in scope drops the entries of a root, and the walkers in scope what they have read (12 R231). -/
def State.dropRoot (s : State) (p core root : Nat) : State :=
  { s with
    clusters := s.clusters.map (fun e =>
      if fenceCovers p core e.1 then
        let c : Cluster := { e.2 with tlb := e.2.tlb.filter (fun x => x.root != root) }
        (e.1, if p != 1 then c.rewalk s.rootOf else c)
      else e)
    cores := s.cores.map (fun e => if walkersCovered p core e.1 then (e.1, e.2.rewalk) else e) }

/-- Accesses of the clusters in scope that an entry of a root translated, and that have not been performed; those of other
regions of the same root count (12 R231). -/
def State.translatedInScope (s : State) (p core root : Nat) : Bool :=
  s.accs.any (fun x => s.rootOf x.region == root && decide (x.va < ownLm) && x.kind.span != 0 && fenceCovers p core (x.core / 32) &&
    x.stage == .sent)

/-- A cluster in scope holds combined bytes of stores that an entry of the root translated, and these have not reached the
port (12 R226, R231). -/
def State.wcInScope (s : State) (p core root : Nat) : Bool :=
  s.clusters.any (fun e => fenceCovers p core e.1 && e.2.wc.any (fun b => b.roots.contains root)) ||
    s.net.any (fun q => match q.body with
      | .wcWrite g _ _ _ roots => fenceCovers p core g && roots.contains root
      | _ => false)

/-- Send those buffers to the port. -/
def State.wcFlushRoot (s : State) (p core root : Nat) : State :=
  s.clusters.foldl (fun t e =>
    if fenceCovers p core e.1 then (e.2.wc.filter (fun b => b.roots.contains root)).foldl (fun u b => u.wcSend e.1 b) t else t) s

/-- Some buffer in scope still holds an entry of the root, or bytes combined through one. -/
def State.staleInScope (s : State) (p core root : Nat) : Bool :=
  s.clusters.any (fun e => fenceCovers p core e.1 &&
    (e.2.tlb.any (fun x => x.root == root) || e.2.wc.any (fun b => b.roots.contains root)))

/-- XFENCE (06 R113, 12 R231): it waits as FENCE.REL does; the buffers in scope drop every entry of the activation's
root; it then holds the head until every access translated by a dropped entry has been performed. Behind a hint all this has
been done before the hint's cycle (03 R61). -/
def execXfence (p : Nat) (s : State) : Out :=
  dispatch .a (fun t => orderly t <|
    aBody [] (fun _ => false) (fun a e =>
      guardPriv a e <|
      releaseWait t a.info.id p <|
      let root := t.rootOf a.info.region
      let u := (t.dropRoot p t.focus.core root).wcFlushRoot p t.focus.core root
      let pending := t.translatedInScope p t.focus.core root || t.wcInScope p t.focus.core root
      if e.taken ≠ 0 then .ok u
      else if t.staleInScope p t.focus.core root && (pending || !e.hints.isEmpty) then .waits u
      else .need (!pending) (.ok u)) t) s

/-! ### Block move and repeat -/

/-- The chunks of this BMOV whose store its home has not acknowledged (06 R114). -/
def State.chunksOut (s : State) (id seq : Nat) : Nat :=
  (s.accs.filter (fun x => x.act == id && x.entry.seq == seq && !x.ghost)).length

/-- The count with which the BMOV at the head began, with `n` bytes left (06 R114). -/
def Activation.bmovTotal (a : Activation) (seq n : Nat) : Nat :=
  match a.flow.whole with
  | some (q, m) => if q = seq then m else n
  | none => n

/-- BMOV (06 R114): one chunk for each dispatch, of which the load is sent first and holds the head until its data has
come, with at most 8 chunks in flight: DESIGN CHOICE, log 26. When the two ranges overlap, as they stood when the BMOV
began, a chunk waits for the store before it. -/
def execBmov (d a b : Nat) (s : State) : Out :=
  dispatch .a (fun t => sendable t <|
    aBody [d, d + 1, a, a + 1, b] (fun _ => false) (fun act e =>
      let n := act.lo b
      if n = 0 then .ok t
      else
        let k := min 16 n
        let so := act.lo (a + 1)
        let dO := act.lo (d + 1)
        capCheck (act.reg a) [permLD] so k 1 1 tALIGN so <|
        capCheck (act.reg d) [permST] dO k 1 1 tALIGN dO <|
        let src := (act.reg a).base + so
        let dst := (act.reg d).base + dO
        let m := act.bmovTotal e.seq n
        let out := t.chunksOut act.info.id e.seq
        .need (decide (out < 8) && !(overlaps (src + n - m) m (dst + n - m) m && out != 0)) <|
        .stay (t.emitAcc { act with flow := { act.flow with hold := some t.nextId, whole := some (e.seq, m) } }
          (t.newAcc e (.chunk dst dO k ((act.reg d).perm permCODE)) src so false false false))) t) s

/-- The registers of BMOV after a chunk, and as they stood before it (06 R114). -/
def bmovAdvance (a : Activation) (e : Entry) (len : Nat) : Activation × List (Nat × AReg) :=
  let w := e.word.toNat
  let d := fld w 19 5
  let r := fld w 14 5
  let b := fld w 9 5
  (((a.setReg (r + 1) (plain64 (a.lo (r + 1) + len))).setReg (d + 1) (plain64 (a.lo (d + 1) + len))).setReg b
    (plain64 (a.lo b - len)),
   [(r + 1, a.reg (r + 1)), (d + 1, a.reg (d + 1)), (b, a.reg b)])

/-- One of the SDQ entries that the word with place `seq` gave back is popped again (06 R116). -/
def Activation.unput (a : Activation) (seq : Nat) : Activation :=
  { a with flow := { a.flow with putBack := a.flow.putBack.map (fun p => if p.1 = seq then (p.1, p.2.1 - 1, p.2.2) else p) } }

/-- REP (06 R115): one element for each dispatch. -/
def execRep (q a b z sg dir : Nat) (s : State) : Out :=
  dispatch .a (fun t => sendable t <|
    .need (t.cur.lo b == 0 || (if dir = 0 then t.cur.ldqFree q else !t.cur.q.sdq.isEmpty)) <|
    aBody [a, a + 1, b, b + 1] (fun _ => false) (fun act e =>
      let n := act.lo b
      if n = 0 then .ok t
      else
        let off := act.lo (a + 1)
        let sz := sizeBytes z
        let moved := (act.setReg (a + 1) (plain64 (off + act.lo (b + 1)))).setReg b (plain64 (n - 1))
        let back := [(a + 1, act.reg (a + 1)), (b, act.reg b)]
        let done (u : State) : Att := if n = 1 then .ok u else .stay u
        if dir = 0 then
          capCheck (act.reg a) [permLD] off sz 1 sz tALIGN off <|
          done (t.emitAcc (moved.setLdq q (moved.ldq q ++ [{ wait := t.nextId }]))
            { t.newAcc e (.load q (8 * sz) (sg == 1)) ((act.reg a).base + off) off false false false with back := back })
        else match act.q.sdq with
          | [] => .stall
          | v :: rest =>
            capCheck (act.reg a) [permST] off sz 1 sz tALIGN off <|
            done (t.emitAcc ({ moved with q := { moved.q with sdq := rest } }.unput e.seq)
              { t.newAcc e (.store v (fullMask sz)) ((act.reg a).base + off) off ((act.reg a).perm permCODE) false false
                with back := back, popSdq := [v] })) t) s

end Sys2Proof.Machine
end

