-- ==== Sys2Proof/Machine/Control.lean ====
section
/-! DEFINITION. Branches, jumps, calls, loops, END, ECALL, BRK and NOP (06 R120 to R127, 02 R41, 03 R55). -/

namespace Sys2Proof.Machine

/-- The transfer leaves the loops whose body does not hold its target, and those inside them (06 R125). A loop lies inside
those whose records are older, one that a subroutine has started inside its caller's too: DESIGN CHOICE, log 65. -/
def keepLoops (target : BitVec 14) (l : List LoopRec) : List LoopRec :=
  l.takeWhile (fun r => decide (r.first.toNat ≤ target.toNat) && decide (target.toNat ≤ r.last.toNat))

/-- Fetch goes on at an address (02 R14). -/
def Activation.goto (a : Activation) (pc : BitVec 14) : Activation :=
  { a with f := { a.f with pc := pc, wrapped := false, stop := .running } }

/-- Fetch goes on behind a transfer that is not taken. -/
def Activation.fallThrough (a : Activation) : Activation := { a with f := { a.f with stop := .running } }

/-- A taken transfer of the activation in focus is traced (23 R431). -/
def State.traceJump (s : State) (source target : BitVec 14) : State :=
  s.trace s.focus.core s.focus.ctx 4 (source.toNat + 2 ^ 16 * target.toNat)

/-- A control transfer: the leader of a gang, or an activation outside one, decides it; a follower goes with its leader
(08 R150). -/
def decides (s : State) (follower k : Att) : Att := if s.lane ≠ 0 then follower else k

/-- The target of a BR instruction (03 R44). -/
def branchTarget (e : Entry) (d : Nat) : BitVec 14 := BitVec.ofNat 14 (toBits (e.wpc.toNat + sext d 14) 14)

/-- A taken branch or jump: loops it leaves are removed. -/
def State.jumpTo (s : State) (a : Activation) (e : Entry) (target : BitVec 14) : State :=
  let b := { a with f := { a.f with loops := keepLoops target a.f.loops } }
  (s.setCur (b.goto target)).traceJump e.wpc target

/-- A compare branch (06 R120). -/
def execBranch (a b d : Nat) (rel : Nat → Nat → Bool) (s : State) : Out :=
  dispatch .a (fun t => aBody [a, b] (fun _ => false) (fun act e => decides t (.ok t) <|
    if rel (act.lo a) (act.lo b) then .ok (t.jumpTo act e (branchTarget e d)) else .ok (t.setCur act.fallThrough)) t) s

def execBeq (a b d : Nat) (s : State) : Out := execBranch a b d (fun x y => x == y) s
def execBne (a b d : Nat) (s : State) : Out := execBranch a b d (fun x y => x != y) s
def execBlt (a b d : Nat) (s : State) : Out := execBranch a b d (fun x y => decide (sext x 64 < sext y 64)) s
def execBge (a b d : Nat) (s : State) : Out := execBranch a b d (fun x y => decide (sext y 64 ≤ sext x 64)) s
def execBltu (a b d : Nat) (s : State) : Out := execBranch a b d (fun x y => decide (x < y)) s
def execBgeu (a b d : Nat) (s : State) : Out := execBranch a b d (fun x y => decide (y ≤ x)) s

/-- A branch on a value popped from XAQ (06 R120). -/
def execQueueBranch (d : Nat) (taken : Nat → Bool) (s : State) : Out :=
  dispatch .a (fun t => match t.cur.q.xaq with
    | [] => .stall
    | v :: rest => aBody [] (fun _ => false) (fun act e =>
        let b := { act with q := { act.q with xaq := rest } }
        decides t (.ok (t.setCur b)) <|
        if taken v.toNat then .ok (t.jumpTo b e (branchTarget e d)) else .ok (t.setCur b.fallThrough)) t) s

def execBxq (d : Nat) (s : State) : Out := execQueueBranch d (fun v => v != 0) s
def execBxqz (d : Nat) (s : State) : Out := execQueueBranch d (fun v => v == 0) s

/-- J (06 R121). -/
def execJ (target : Nat) (s : State) : Out :=
  dispatch .a (fun t => aBody [] (fun _ => false) (fun act e =>
    decides t (.ok t) <| .ok (t.jumpTo act e (BitVec.ofNat 14 target))) t) s

/-- JR (06 R121): a byte address that is a multiple of 4 below 2^16. -/
def execJr (a : Nat) (s : State) : Out :=
  dispatch .a (fun t => aBody [a] (fun _ => false) (fun act e =>
    let v := act.lo a
    decides t (.ok t) <|
    .check (v % 4 == 0 && decide (v < 65536)) tILLEGAL_OPERAND v <|
    .ok (t.jumpTo act e (BitVec.ofNat 14 (v / 4)))) t) s

/-! ### The return stack (02 R41) -/

/-- LM byte address of a spill slot. -/
def spillSlot (ctx depth : Nat) : Nat := 0x0800 + 256 * ctx + 4 * depth

/-- CALL (06 R121): the oldest of eight hardware entries is spilled first. -/
def execCall (target : Nat) (s : State) : Out :=
  dispatch .a (fun t =>
    .need (t.lane != 0 || decide (t.cur.f.rstack.length < 8) || t.ownLmQuiet t.focus.core) <|
    aBody [] (fun _ => false) (fun act e =>
      decides t (.ok t) <|
      .check (decide (act.f.rstack.length + act.f.spilled < 72)) tCALL_DEPTH 1 <|
      let pc := BitVec.ofNat 14 target
      let pa := lmBase t.focus.core + spillSlot t.focus.ctx act.f.spilled
      match act.f.rstack with
      | old :: rest =>
        if act.f.rstack.length < 8 then
          .ok ((t.setCur (({ act with f := { act.f with rstack := act.f.rstack ++ [e.wpc + 1] } } : Activation).goto pc)).traceJump
            e.wpc pc)
        else
          .ok ((((t.touch act.info.region pa true).putNat pa 4 old.toNat).setCur
            (({ act with f := { act.f with rstack := rest ++ [e.wpc + 1], spilled := act.f.spilled + 1 } } : Activation).goto
              pc)).traceJump e.wpc pc)
      | [] => .ok ((t.setCur (({ act with f := { act.f with rstack := [e.wpc + 1] } } : Activation).goto pc)).traceJump e.wpc pc))
      t) s

/-- RET (06 R121): with the hardware part empty the newest spill slot is reloaded. -/
def execRet (s : State) : Out :=
  dispatch .a (fun t =>
    .need (t.lane != 0 || !(t.cur.f.rstack.isEmpty) || t.ownLmQuiet t.focus.core) <|
    aBody [] (fun _ => false) (fun act e =>
      decides t (.ok t) <|
      .check (!(act.f.rstack.isEmpty) || act.f.spilled != 0) tCALL_DEPTH 0 <|
      match act.f.rstack.getLast? with
      | some pc =>
        .ok ((t.setCur (({ act with f := { act.f with rstack := act.f.rstack.dropLast } } : Activation).goto pc)).traceJump
          e.wpc pc)
      | none =>
        let pa := lmBase t.focus.core + spillSlot t.focus.ctx (act.f.spilled - 1)
        let u := t.touch act.info.region pa false
        let pc := BitVec.ofNat 14 (u.natAt pa 4)
        .ok ((u.setCur (({ act with f := { act.f with spilled := act.f.spilled - 1 } } : Activation).goto pc)).traceJump
          e.wpc pc)) t) s

/-! ### Hardware loops (06 R122, R124) -/

/-- Fetch goes on at word `p`; word 0x4000 lies past the last one, at the execute boundary at the latest (02 R10). -/
def Activation.gotoWord (a : Activation) (p : Nat) : Activation :=
  let b := a.goto (BitVec.ofNat 14 p)
  { b with f := { b.f with wrapped := decide (p = 0x4000) } }

/-- LOOP: a count of 0 skips the body; otherwise a record is made. With two records already present and a body that is not
inside an enclosing one, case 1 of R124 is reported first: DESIGN CHOICE, log 65. -/
def execLoop (a l : Nat) (s : State) : Out :=
  dispatch .a (fun t => aBody [a] (fun e => decide (0x3FFF < e.wpc.toNat + l)) (fun act e =>
    let p := e.wpc.toNat
    let n := act.lo a
    decides t (.ok t) <|
    if n = 0 then .ok (t.setCur (act.gotoWord (p + l + 1)))
    else
      .check (decide (act.f.loops.length < 2)) tLOOP_END_ILLEGAL 1 <|
      .check (act.f.loops.all (fun r =>
          !(decide (r.first.toNat ≤ p) && decide (p ≤ r.last.toNat)) || decide (p + l ≤ r.last.toNat)))
        tLOOP_END_ILLEGAL 2 <|
      let r : LoopRec := { first := BitVec.ofNat 14 (p + 1), last := BitVec.ofNat 14 (p + l), reg := a
                           count := BitVec.ofNat 64 n }
      .ok (t.setCur (({ act with f := { act.f with loops := act.f.loops ++ [r] } } : Activation).goto (e.wpc + 1)))) t) s

/-! ### END, ECALL, BRK, NOP -/

/-- END waits for the X-half of its activation (06 R126). -/
def xQuiet (s : State) (k : Att) : Att := .need (s.bufs.2.isEmpty && s.cur.pend.isEmpty) k

/-- END (06 R126). -/
def execEndAct (s : State) : Out :=
  dispatch .a (fun t => xQuiet t <| aBody [] (fun _ => false) (fun _ _ => .ok (t.endAct t.focus.core t.focus.ctx)) t) s

/-- ECALL and BRK complete and then trap; TRAPPC is the following word (06 R127, 10 R184). A gang is aborted instead. -/
def execTrapCall (cause c : Nat) (s : State) : Out :=
  dispatch .a (fun t => aBody [] (fun _ => false) (fun act e =>
    if act.flow.gang.isSome then .trap cause c
    else .ok ((t.setCur act.fallThrough).trapAt t.focus.core t.focus.ctx .a e false cause c (e.wpc + 1))) t) s

def execEcall (c : Nat) (s : State) : Out := execTrapCall tECALL c s
def execBrk (c : Nat) (s : State) : Out := execTrapCall tBRK c s

/-- NOP (03 R55). -/
def execNop (s : State) : Out := dispatch .a (fun t => aBody [] (fun _ => false) (fun _ _ => .ok t) t) s

/-! ### Hints (03 R49): a hint takes a dispatch cycle of its own, behind which its target follows at once -/

/-- The half whose head has this word as its next hint, or as an ill-placed target. -/
def hintHalf (a : Activation) (chosen : Option Half) (w : Nat) : Option Half :=
  let fits (h : Half) : Bool := (chosen.isNone || chosen == some h) && match (a.buf h).head? with
    | some e => (match e.hints[e.taken]? with
        | some x => x.toNat == w
        | none => e.word.toNat == w)
    | none => false
  if fits .a then some .a else if fits .x then some .x else none

/-- The issue slot of a core stays with the hint sequence of a context (03 R49). -/
def State.lockSlot (s : State) (core ctx : Nat) : State := s.setCore core { s.core core with lock := some ctx }

/-- The issue slot stays with the sequence of the activation in focus; for a gang, that of every member's core (08 R150). -/
def State.lockMembers (s : State) (a : Activation) : State :=
  let s1 := s.lockSlot s.focus.core s.focus.ctx
  match a.flow.gang with
  | some g => (s.gangMembers g).foldl (fun t m => t.lockSlot m.1 m.2) s1
  | none => s1

/-- A hint word at the head of its sequence: its cycle passes and the issue slot stays with the sequence. A hint that stands
where a target belongs raises ILLEGAL_HINT (03 R48). -/
def execHint (w : Nat) (s : State) : Out :=
  match s.cur? with
  | none => .next { s with verdict := .none }
  | some a => match hintHalf a s.focus.half w with
    | none => .next { s with verdict := .stalled }
    | some h => match a.buf h with
      | [] => .next { s with verdict := .stalled }
      | e :: rest =>
        if e.taken < e.hints.length then
          .next { (s.lockMembers a).setCur (a.setBuf h ({ e with taken := e.taken + 1 } :: rest)) with verdict := .done }
        else dispatch h (fun _ => guardHints e false .stall) s

def execHimm (v : Nat) (s : State) : Out := execHint (0xF8000000 + v) s
def execHwid (a b sg t : Nat) (s : State) : Out :=
  execHint (0xF9000000 + a * 2097152 + b * 262144 + sg * 131072 + t * 65536) s
def execHmod (m sat : Nat) (s : State) : Out := execHint (0xFA000000 + m * 2097152 + sat * 1048576) s
def execHyld (s : State) : Out := execHint 0xFB000000 s

end Sys2Proof.Machine
end

