-- ==== Sys2Proof/Machine/Admit.lean ====
section
/-! DEFINITION. Storage for activations, and the state of a new one (02 R22; 08 R138, R139, R141, R144; 22 R400). -/

namespace Sys2Proof.Machine

/-- The contexts in use: those of resident activations, and those that a partly copied-out victim keeps. -/
def Core.ctxUsed (c : Core) : List Nat :=
  c.acts.map (fun e => e.1) ++ (c.saved.filter (fun v => !v.ctxOut)).map (fun v => v.ctx)

/-- The lowest free context (08 R141). -/
def Core.freeCtx (c : Core) : Option Nat := (upTo 8).find? (fun i => !(c.ctxUsed.contains i))

/-- The windows in use, as first slice and size. -/
def Core.windows (c : Core) : List (Nat × Nat) :=
  c.acts.map (fun e => (e.2.info.winBase, e.2.info.winSize)) ++
    (c.saved.filter (fun v => !v.winOut)).map (fun v => (v.act.info.winBase, v.act.info.winSize))

/-- The lowest multiple of 16 from which `n` slices of the 512 are free of the given windows (08 R141). -/
def placeWindow (used : List (Nat × Nat)) (n : Nat) : Option Nat :=
  ((upTo 32).map (fun i => 16 * i)).find? (fun b =>
    decide (b + n ≤ 512) && used.all (fun u => !(overlaps b n u.1 u.2)))

/-- The window slices that a region holds on a core (22 R400). -/
def Core.slicesOf (c : Core) (region : Nat) : Nat :=
  ((c.acts.filter (fun e => e.2.info.region == region)).map (fun e => e.2.info.winSize)).foldl (· + ·) 0 +
    ((c.saved.filter (fun v => v.act.info.region == region && !v.winOut)).map (fun v => v.act.info.winSize)).foldl (· + ·) 0

/-- The region's budget of slices on one core allows `n` more (22 R400); a region that is not registered has none. -/
def State.slicesAllow (s : State) (core region n : Nat) : Bool :=
  match s.region? region with
  | some r => decide ((s.core core).slicesOf region + n ≤ r.eff.slices.toNat)
  | none => true

/-- Handler table entry `n` of a core (08 R138). -/
def State.handler (s : State) (core n : Nat) : Nat := s.natAt (lmBase core + 8 * n) 8

def hPc (e : Nat) : Nat := fld e 0 14
def hWin (e : Nat) : Nat := fld e 14 3
def hInbox (e : Nat) : Nat := fld e 17 2
def hPriv (e : Nat) : Bool := bitAt e 19
def hRbase (e : Nat) : Nat := fld e 24 12
def hRlen (e : Nat) : Nat := fld e 36 16

/-- The entry passes the checks of R139. -/
def handlerOk (e : Nat) : Bool :=
  bitAt e 20 && hWin e != 7 && decide (0x400 ≤ hPc e) && fld e 21 3 == 0 && fld e 52 12 == 0 &&
    decide (16 * hRbase e + hRlen e ≤ 0x10000)

/-- c3 at admission: the named region of the entry (08 R144). -/
def regionCap (e : Nat) : AReg :=
  if hRlen e = 0 then {}
  else
    let base := ownLm + 16 * hRbase e
    mkCap base (base + hRlen e) (2 ^ permLD + 2 ^ permST)

/-- A new activation of an entry for a message (08 R144). -/
def newActivation (s : State) (e : Nat) (m : Message) (inbox : Nat) (base : Nat) (serves : Option Nat) : Activation :=
  let r := s.region m.region
  { info := { id := s.nextId, header := m.header, inbox := inbox, serves := serves, priv := hPriv e, region := m.region
              admitted := s.clock, arrivedNs := m.arrivedNs, admittedNs := s.ns
              winBase := base, winSize := 16 * (hWin e + 1) }
    regs := Sparse.set {} (Sparse.set {} (Sparse.set {} (Sparse.set {} [] 1 { data := m.header.setWidth 128 })
      2 { r.eff.dataCap with wait := 0 }) 3 (regionCap e))
      4 (match m.reply with | some c => { data := c, tag := true } | none => {})
    q := { inPay := m.payload, inLen := m.len }
    f := { pc := BitVec.ofNat 14 (hPc e) }
    flow := { age := s.clock } }

/-- An activation takes a context; the context's trap record is zero (10 R183). -/
def State.install (s : State) (core ctx : Nat) (a : Activation) : State :=
  let c := s.core core
  (s.takeId.setCore core { c with acts := Sparse.put c.acts ctx a, trapRecs := Sparse.set {} c.trapRecs ctx {} }).trace
    core ctx 1 a.info.header.toNat

end Sys2Proof.Machine
end

