-- ==== Sys2Proof/Machine/Record.lean ====
section
/-! DEFINITION. The record of a copied-out activation in its region's save area (10 R195, 22 R401), which holds its state
until it is restored; what changes an activation wherever it stands: the answers and late faults of its accesses
(06 R98, R108; 10 R186, R187, R437) and the return from its trap (10 R190). Where R195 leaves the bits of a part open (loop
records, queue states), log 15 gives the layout. -/

namespace Sys2Proof.Machine

/-! ### Writing the record -/

/-- The 8 bytes at 0x018. A payload has 512 bits, so a position past its field reads on as the field's greatest value. -/
def recordFlags (a : Activation) : Nat :=
  a.f.pc.toNat + 2 ^ 14 * (a.info.winSize / 16 - 1) + 2 ^ 17 * ofBool a.info.priv +
    2 ^ 18 * ofBool a.flow.status.parkedPc.isSome + 2 ^ 19 * ofBool (a.info.inbox == 0) +
    2 ^ 20 * min 1023 a.q.inPos + 2 ^ 30 * (a.q.outBits % 2 ^ 10) +
    2 ^ 40 * (a.f.rstack.length + a.f.spilled) + 2 ^ 47 * a.f.loops.length + 2 ^ 49 * min 8 a.f.abuf.length +
    2 ^ 53 * a.f.xbuf.length

/-- The 16 bytes of a buffer entry: its hints, then its target. -/
def entryWords (e : Entry) : Nat := packFields 32 ((e.hints ++ [e.word]).map (fun w => w.toNat))

/-- The 16 bytes of a loop record. -/
def loopWords (r : LoopRec) : Nat :=
  r.first.toNat + 2 ^ 16 * r.last.toNat + 2 ^ 32 * (r.reg % 32) + 2 ^ 64 * r.count.toNat

/-- Write a list of fields of `n` bytes each from an address on. -/
def State.putList (s : State) (pa n : Nat) (l : List Nat) : State :=
  ((upTo l.length).zip l).foldl (fun t x => t.putNat (pa + n * x.1) n x.2) s

/-- The queue states of 0x780: valid, awaiting data. -/
def queueStates (a : Activation) : List Nat :=
  let ld (q : List QEntry) : List Nat :=
    (upTo 16).map (fun i => match q[i]? with
      | some e => 1 + 2 * ofBool (e.wait != 0)
      | none => 0)
  ld a.q.ldq0 ++ ld a.q.ldq1 ++ (upTo 16).map (fun i => ofBool (decide (i < a.q.sdq.length))) ++
    (upTo 8).map (fun i => ofBool (decide (i < a.q.xaq.length)))

/-- The window's part of the record. -/
def State.writeWindow (s : State) (pa : Nat) (a : Activation) : State :=
  (s.useRange (pa + 0x40) 64).putNat (pa + 0x40) 64 a.win.toNat

/-- All of the record but the window and the spill area. Entries that a late fault has put back beyond a buffer's or a queue's
places stay with the activation: DESIGN CHOICE, log 15. -/
def State.writeState (s : State) (pa : Nat) (a0 : Activation) (r : TrapRec) : State :=
  let a : Activation := { a0 with f := s.frontOf a0 }
  let s1 := (s.useRange pa 0x800).putList pa 8 [r.word, r.pc.toNat, r.val.toNat, recordFlags a]
  let s2 := s1.putNat (pa + 0x20) 32 0
  let s3 := s2.putList (pa + 0x80) 16 ((upTo 32).map (fun i => (a.reg i).data.toNat))
  let s4 := (upTo 32).foldl (fun t i => if (a.reg i).tag then t.putTag ((pa + 0x80) / 16 + i) true else t) s3
  let s5 := s4.putList (pa + 0x280) 16 (a.q.ldq0.map (fun e => e.data.toNat))
  let s6 := s5.putList (pa + 0x380) 16 (a.q.ldq1.map (fun e => e.data.toNat))
  let s7 := s6.putList (pa + 0x480) 16 ((a.q.sdq.take 16).map (fun v => v.toNat))
  let s8 := s7.putList (pa + 0x580) 8 ((a.q.xaq.take 8).map (fun v => v.toNat))
  let s9 := (s8.putNat (pa + 0x5C0) 64 a.q.inPay.toNat).putNat (pa + 0x600) 64 a.q.outPay.toNat
  let s10 := (s9.putList (pa + 0x640) 16 ((a.f.abuf.take 8).map entryWords)).putList (pa + 0x6C0) 16 (a.f.xbuf.map entryWords)
  let s11 := s10.putList (pa + 0x740) 4 (a.f.rstack.map (fun p => p.toNat))
  let s12 := s11.putList (pa + 0x760) 16 (a.f.loops.map loopWords)
  s12.putList (pa + 0x780) 1 (queueStates a)

/-- All of the record but the window; the spill area is the context's in the core's LM (02 R41). -/
def State.writeContext (s : State) (pa core ctx : Nat) (a : Activation) (r : TrapRec) : State :=
  ((s.writeState pa a r).useRange (pa + 0x800) 256).putBytes (pa + 0x800) (s.bytesAt (lmBase core + 0x800 + 256 * ctx) 256)

/-! ### Reading the record back -/

/-- A hint may follow the hints fetched so far (03 R48): two HIMM at most, and nothing behind HWID, HMOD or HYLD. -/
def hintFits (before : List (BitVec 32)) (w : Nat) : Bool :=
  before.all (fun h => opcodeOf h.toNat == 0xF8) && (opcodeOf w != 0xF8 || decide (before.length < 2))

/-- The hints and the target of an entry of up to four words. -/
def splitEntry (before : List (BitVec 32)) : List (BitVec 32) → List (BitVec 32) × BitVec 32
  | [] => (before, 0)
  | [w] => (before, w)
  | w :: rest => if isHint w.toNat && hintFits before w.toNat then splitEntry (before ++ [w]) rest else (before, w)

/-- The entry at an address; what the record does not hold (place, address, kind) is that of `e`. -/
def readEntry (s : State) (pa : Nat) (e : Entry) : Entry :=
  let ws := (upTo 4).map (fun i => BitVec.ofNat 32 (s.natAt (pa + 4 * i) 4))
  let r := if e.kind = .word then splitEntry [] ws else ([], (ws.head?).getD 0)
  { e with hints := r.1, word := r.2 }

/-- The `n` entries of a buffer. One that the buffer did not hold when it was copied out counts as fetched last, at the
fetch PC: DESIGN CHOICE, log 15. -/
def readEntries (s : State) (pa n seq : Nat) (pc : BitVec 14) (l : List Entry) : List Entry :=
  (upTo n).map (fun i => readEntry s (pa + 16 * i) ((l[i]?).getD { pc := pc, wpc := pc, seq := seq + i }))

/-- A load queue: its entries are those marked valid, head first. One marked as awaiting data waits for the access that
reserved it; without one it holds its bytes. -/
def readQueue (s : State) (pa states : Nat) (l : List QEntry) : List QEntry :=
  ((upTo 16).takeWhile (fun i => bitAt (s.natAt (states + i) 1) 0)).map (fun i =>
    { data := BitVec.ofNat 128 (s.natAt (pa + 16 * i) 16)
      wait := if bitAt (s.natAt (states + i) 1) 1 then ((l[i]?).map (fun e => e.wait)).getD 0 else 0 })

/-- How many entries of a store queue are marked valid. -/
def readCount (s : State) (states n : Nat) : Nat := ((upTo n).takeWhile (fun i => bitAt (s.natAt (states + i) 1) 0)).length

def readLoop (s : State) (pa : Nat) : LoopRec :=
  { first := BitVec.ofNat 14 (s.natAt pa 2), last := BitVec.ofNat 14 (s.natAt (pa + 2) 2), reg := s.natAt (pa + 4) 1 % 32
    count := BitVec.ofNat 64 (s.natAt (pa + 8) 8) }

/-- PARKED as the record holds it. -/
def Status.withParked (st : Status) (parked : Bool) (pc : BitVec 14) : Status :=
  if st.parkedPc.isSome = parked then st
  else
    let was : Stand := if parked then .parked pc else .running
    match st with
    | .victim w c _ => .victim w c was
    | _ => was.status

/-- Queues and payloads of a record. -/
def readQueues (s : State) (pa flags : Nat) (q : ActQueues) : ActQueues :=
  { q with
    ldq0 := readQueue s (pa + 0x280) (pa + 0x780) q.ldq0, ldq1 := readQueue s (pa + 0x380) (pa + 0x790) q.ldq1
    sdq := (upTo (readCount s (pa + 0x7A0) 16)).map (fun i => BitVec.ofNat 128 (s.natAt (pa + 0x480 + 16 * i) 16)) ++
      q.sdq.drop 16
    xaq := (upTo (readCount s (pa + 0x7B0) 8)).map (fun i => BitVec.ofNat 64 (s.natAt (pa + 0x580 + 8 * i) 8)) ++ q.xaq.drop 8
    inPay := BitVec.ofNat 512 (s.natAt (pa + 0x5C0) 64), inPos := fld flags 20 10
    outPay := BitVec.ofNat 512 (s.natAt (pa + 0x600) 64), outBits := fld flags 30 10 }

/-- Fetch position, buffers, return stack and loop records of a record. Of a depth of `d` return addresses the newest stand
in the hardware part, as many as were there or as the spill area leaves over. -/
def readFetch (s : State) (pa flags : Nat) (f : ActFetch) : ActFetch :=
  let pc := BitVec.ofNat 14 flags
  let na := min 8 (fld flags 49 4)
  let nx := min 8 (fld flags 53 4)
  let d := fld flags 40 7
  let spilled := max (min d f.spilled) (d - 8)
  { f with
    pc := pc, spilled := spilled
    abuf := readEntries s (pa + 0x640) na f.nextSeq pc f.abuf ++ f.abuf.drop 8
    xbuf := readEntries s (pa + 0x6C0) nx (f.nextSeq + 8) pc f.xbuf
    rstack := (upTo (d - spilled)).map (fun i => BitVec.ofNat 14 (s.natAt (pa + 0x740 + 4 * i) 4))
    loops := (upTo (min 2 (fld flags 47 2))).map (fun i => readLoop s (pa + 0x760 + 16 * i))
    nextSeq := if na ≤ f.abuf.length ∧ nx ≤ f.xbuf.length then f.nextSeq else f.nextSeq + 16
    seen := max f.seen (f.nextSeq + 16) }

/-- The activation as its record holds it: all of 10 R195 but the window. What a follower's record holds of its gang's stream is
the leader's: DESIGN CHOICE, log 15. -/
def State.readContext (s : State) (pa : Nat) (a : Activation) : Activation :=
  let flags := s.natAt (pa + 0x18) 8
  let reg (i : Nat) : AReg :=
    { data := BitVec.ofNat 128 (s.natAt (pa + 0x80 + 16 * i) 16), tag := s.tagAt ((pa + 0x80) / 16 + i), wait := (a.reg i).wait }
  let iq0 := bitAt flags 19
  { a with
    info := { a.info with
      winSize := 16 * (fld flags 14 3 + 1), priv := bitAt flags 17
      inbox := if iq0 then 0 else if a.info.inbox = 0 then 1 else a.info.inbox }
    regs := (upTo 32).foldl (fun m i => if i = 0 then m else Sparse.set {} m i (reg i)) []
    q := readQueues s pa flags a.q
    f := if a.follows then a.f else readFetch s pa flags a.f
    flow := { a.flow with status := a.flow.status.withParked (bitAt flags 18) (BitVec.ofNat 14 (s.natAt (pa + 8) 8)) } }

/-! ### Changing an activation, wherever it stands -/

/-- The record of a copied-out activation, when its other state than the window was copied out. -/
def State.recordAt (s : State) (core : Nat) (v : Saved) : Option Nat :=
  if v.ctxOut then s.recordIn v.act.info.region core v.ctx else none

/-- A copied-out activation as it stands now: in its record (10 R195). -/
def State.savedAct (s : State) (core : Nat) (v : Saved) : Activation :=
  match s.recordAt core v with
  | some pa => s.readContext pa v.act
  | none => v.act

/-- The activation with a number, resident or copied out. -/
def State.actById (s : State) (core id : Nat) : Option Activation :=
  match (s.core core).acts.find? (fun e => e.2.info.id == id) with
  | some e => some e.2
  | none => ((s.core core).saved.find? (fun v => v.act.info.id == id)).map (fun v => s.savedAct core v)

/-- Change a copied-out activation: its record is read, and written with the change (02 R21; 10 R187, R437). -/
def State.changeSaved (s : State) (core : Nat) (v : Saved) (f : Activation → Activation) : State :=
  let c := s.core core
  let b := f (s.savedAct core v)
  let s1 := s.setCore core
    { c with saved := c.saved.map (fun w => if w.act.info.id == v.act.info.id then { w with act := b } else w) }
  match s.recordAt core v with
  | some pa => s1.writeState pa b (s.savedRecord core v)
  | none => s1

/-- Change an activation by number, wherever it stands. -/
def State.changeAct (s : State) (core id : Nat) (f : Activation → Activation) : State :=
  let c := s.core core
  match s.ctxOf core id with
  | some _ => s.setCore core { c with acts := c.acts.map (fun e => if e.2.info.id == id then (e.1, f e.2) else e) }
  | none => match c.saved.find? (fun v => v.act.info.id == id) with
    | some v => s.changeSaved core v f
    | none => s

/-! ### Answers -/

/-- Data arrives at the queue entry that an access reserved (02 R17). -/
def fillQueue (id : Nat) (v : Word128) (q : List QEntry) : List QEntry :=
  q.map (fun e => if e.wait == id then { data := v } else e)

/-- A register takes the answer that it waits for. -/
def Activation.fillReg (a : Activation) (id d : Nat) (v : AReg) : Activation :=
  if (a.reg d).wait == id then (a.setReg d v).landCounts else a

/-- What a younger access would set back takes the answer too, where it waits for it (06 R98, R108). -/
def Access.fillPrev (id d : Nat) (v : AReg) (x : Access) : Access :=
  { x with prev := x.prev.map (fun r => if r.1 = d ∧ r.2.wait = id then (d, v) else r) }

/-- Every younger access of the activation takes the answer where it would set the register back. -/
def State.fillPrevs (s : State) (act id d : Nat) (v : AReg) : State :=
  { s with accs := s.accs.map (fun y => if y.act = act then y.fillPrev id d v else y) }

/-- The access that waits for its walk does so too. -/
def Activation.fillWalk (a : Activation) (id d : Nat) (v : AReg) : Activation :=
  { a with flow := { a.flow with walk := a.flow.walk.map (fun y => y.fillPrev id d v) } }

/-- Let go of the A head when this access held it. -/
def Activation.unhold (a : Activation) (id : Nat) : Activation :=
  if a.flow.hold = some id then { a with flow := { a.flow with hold := none } } else a

def signExt (v bits : Nat) (signed : Bool) : Word128 :=
  BitVec.ofNat 128 (if signed then toBits (sext v bits) 128 else zext v bits)

/-! ### Taking an access back (06 R108, R116) -/

/-- Put an entry back into a buffer at its place in program order, and in the order of lanes (10 R437). -/
def insertEntry (e : Entry) : List Entry → List Entry
  | [] => [e]
  | h :: rest =>
    if e.seq = h.seq ∧ e.lane = h.lane then e :: rest
    else if e.seq < h.seq ∨ (e.seq = h.seq ∧ e.lane.getD 0 < h.lane.getD 0) then e :: h :: rest
    else h :: insertEntry e rest

/-- Entries go back to the head of a queue, behind the first `n`, which older words have given back. -/
def giveBack {α : Type} (n : Nat) (xs q : List α) : List α := q.take n ++ xs ++ q.drop n

/-- The entries of SDQ and of XAQ that words older than `seq` have given back and not popped again. -/
def Activation.givenBefore (a : Activation) (seq : Nat) : Nat × Nat :=
  (a.flow.putBack.filter (fun p => decide (p.1 < seq))).foldl (fun t p => (t.1 + p.2.1, t.2 + p.2.2)) (0, 0)

/-- The register `r` of an access that is taken back: it holds again what it held before, while it waits for the answer. -/
def Activation.backReg (id : Nat) (a : Activation) (r : Nat × AReg) : Activation :=
  if (a.reg r.1).wait = id then a.setReg r.1 r.2 else a

/-- An access is taken back: its reservation is released, what it popped returns to the heads, its registers are set
back, and its word stands in the A buffer again (06 R108, R116); in a gang it is executed again by the lane that it belongs to
alone, and a follower's stands in its leader's buffer: DEDUCED, log 81. -/
def Activation.takeBack (a : Activation) (x : Access) : Activation :=
  let keep (q : List QEntry) : List QEntry := q.filter (fun e => e.wait != x.id)
  let n := a.givenBefore x.entry.seq
  let a1 := x.prev.foldl (Activation.backReg x.id)
    (x.back.foldl (fun t r => t.setReg r.1 r.2)
      ({ a with q := { a.q with ldq0 := keep a.q.ldq0, ldq1 := keep a.q.ldq1
                                sdq := giveBack n.1 x.popSdq a.q.sdq, xaq := giveBack n.2 x.popXaq a.q.xaq } } : Activation))
  let b : Activation := { a1 with
    f := { a1.f with abuf :=
      if a1.follows then a1.f.abuf else insertEntry { x.entry with taken := 0, lane := a1.flow.gang.map (fun g => g.lane) } a1.f.abuf }
    flow := { a1.flow with
      putBack := a1.flow.putBack.filter (fun p => p.1 != x.entry.seq) ++ [(x.entry.seq, x.popSdq.length, x.popXaq.length)]
      walk := if a1.flow.walk.any (fun y => y.id == x.id) then none else a1.flow.walk
      walkAt := if a1.flow.walk.any (fun y => y.id == x.id) then none else a1.flow.walkAt
      whole := none } }
  (x.prev.foldl (fun t r => t.fillWalk x.id r.1 r.2) b).unhold x.id

/-- Later chunks or elements of the same BMOV or REP that were already sent: they are sent again on re-execution (06 R116). -/
def State.siblings (s : State) (x : Access) : List Access :=
  s.accs.filter (fun y => y.act == x.act && y.entry.seq == x.entry.seq && decide (x.id < y.id) && !y.ghost)

/-- The one that waits for its walk. -/
def Activation.walkSibling (a : Activation) (x : Access) : List Access :=
  (a.flow.walk.filter (fun y => y.entry.seq == x.entry.seq && decide (x.id < y.id))).toList

/-- An access is taken back with the later chunks or elements of its word: what these popped returns behind it, in order,
and none of them holds the A head or waits for its walk. -/
def Activation.takeBackAll (a : Activation) (x : Access) (sibs : List Access) : Activation :=
  let w := a.walkSibling x
  let all := sibs ++ w
  let b := if w.isEmpty then a else { a with flow := { a.flow with walk := none, walkAt := none } }
  all.foldl (fun t y => t.unhold y.id) (b.takeBack { x with popSdq := x.popSdq ++ all.flatMap Access.popSdq })

/-- A word of a follower that was taken back stands in its leader's buffer. -/
def State.returnWord (s : State) (g : Gang) (e : Entry) : State :=
  match s.gangLead g with
  | some l => s.changeAct g.leaderCore l.info.id (fun a =>
      { a with f := { a.f with abuf := insertEntry { e with taken := 0, lane := some g.lane } a.f.abuf } })
  | none => s

/-- So does the word of a follower's access that waits for its walk, when the follower is stopped. -/
def State.returnWalk (s : State) (a : Activation) : State :=
  match a.flow.gang, a.flow.walk with
  | some g, some x => if a.follows then s.returnWord g x.entry else s
  | _, _ => s

/-- A fault found after dispatch (06 R108): the access is taken back, and the activation traps on it, unless it has
already parked or been stopped, or is draining for an older word (10 R437). -/
def State.lateFault (s : State) (x : Access) (cause val : Nat) : State :=
  let sibs := s.siblings x
  let s0 : State := { s with accs := s.accs.map (fun (y : Access) =>
    if sibs.any (fun z => z.id == y.id) then { y with ghost := true } else y) }
  let s1 := x.prev.foldl (fun t r => t.fillPrevs x.act x.id r.1 r.2) (s0.changeAct x.core x.act (fun a => a.takeBackAll x sibs))
  let back (t : State) : State := match (t.actById x.core x.act).bind (fun a => a.flow.gang.filter (fun _ => a.follows)) with
    | some g => t.returnWord g x.entry
    | none => t
  match s1.ctxOf x.core x.act with
  | none => back s1
  | some ctx => match s1.act? x.core ctx with
    | none => s1
    | some a =>
      let trapNow := match a.flow.status with
        | .running => true
        | .draining _ seq => decide (x.entry.seq < seq)
        | _ => false
      if !trapNow then back s1
      else match a.flow.gang with
        | some g =>
          let s2 := s1.endFollowers g
          let s3 := match s2.act? g.leaderCore g.leaderCtx with
            | some l =>
              let b := l.leaveGang x.entry
              s2.setActAt g.leaderCore g.leaderCtx { b with f := { b.f with abuf := insertEntry { x.entry with taken := 0, lane := none } b.f.abuf } }
            | none => s2
          s3.trapAt g.leaderCore g.leaderCtx .a x.entry true tGANG_ABORT (cause + 2 ^ 8 * g.lane) x.entry.pc
        | none => s1.trapAt x.core ctx .a x.entry true cause val x.entry.pc

/-- TRAPVAL of a fault at the translation stage (06 R105; 10 R182; 09 R174). -/
def Access.faultVal (x : Access) (offset : Bool) : Nat := if offset then x.off else x.va

/-! ### Walks (12 R227, R230, R439) -/

/-- The walkers of a die. -/
def walkersOf : Nat := 16

/-- The address that an access has still to have walked: its first page, and then its last. -/
def State.walkAddr (s : State) (x : Access) : Option Nat :=
  let tlb := (s.cluster (x.core / 32)).tlb
  ([x.va, x.va + (x.kind.span - 1)].filter (fun v => decide (v < ownLm))).find? (fun v => (tlbFind (s.rootOf x.region) v tlb).isNone)

/-- The misses of a die's cores and engine contexts that came before number `id`. -/
def State.olderMisses (s : State) (die id : Nat) : Nat :=
  ((s.cores.filter (fun c => c.1 / 2048 == die)).map (fun c =>
    (c.2.acts.filter (fun e => e.2.flow.walk.any (fun y => decide (y.id < id) && (s.walkAddr y).isSome))).length)).foldl (· + ·) 0 +
  ((s.clusters.filter (fun c => c.1 / 64 == die)).map (fun c =>
    (c.2.eng.filter (fun e => e.2.walk.any (fun w => decide (w.id < id)))).length)).foldl (· + ·) 0

/-- One of the die's walkers serves the miss with number `id`: misses are served in arrival order, 16 at once. -/
def State.hasWalker (s : State) (die id : Nat) : Bool := decide (s.olderMisses die id < walkersOf)

/-- The access that waited for its walk leaves the translation stage: it is sent, or its fault is raised (10 R186, 12 R229). A
load waits on for the acknowledgement of combined bytes that it overlaps (12 R226). -/
def State.walkDone (s : State) (x : Access) : State :=
  let s2 := s.changeAct x.core x.act (fun a => { a with flow := { a.flow with walk := none, walkAt := none } })
  match s.pieces x.core x.region x.kind.need x.va x.kind.span with
  | (.at_ _ _, ps) => s2.sendAcc x ps
  | (.fault c o, _) => s2.lateFault x c (x.faultVal o)
  | (.miss, _) => s2.lateFault x tTRANSLATION x.va

/-- What one read of a walk gives: an entry in a retired block, or what its level says (12 R227; 23 R427). -/
inductive WalkRead where
  | lost (pa : Nat)
  | level (r : LevelRead)

/-- One read of a walk, a load from the entry's HBM home, which forwards it to an atomic engine that has the line (12 R223,
R439). -/
def State.readWalk (s : State) (p : WalkPos) : State × WalkRead :=
  match levels[p.level]? with
  | none => (s, .level .invalid)
  | some l =>
    let pa := l.entryAt p.table p.va
    if s.isRetired pa then (s, .lost pa) else (s.useRange pa 8, .level (readLevel s p.va l p.table))

/-- One read of the walk for an access: the next table, or the leaf, which enters the translation buffer; an invalid entry
raises TRANSLATION and is never kept. -/
def State.walkRead (s : State) (x : Access) (a : Activation) (va : Nat) : State :=
  let root := s.rootOf x.region
  let p := match a.flow.walkAt with
    | some p => if p.va = va then p else { va := va, table := root }
    | none => { va := va, table := root }
  let setAt (t : State) (q : Option WalkPos) : State :=
    t.changeAct x.core x.act (fun b => { b with flow := { b.flow with walkAt := q } })
  let r := s.readWalk p
  match r.2 with
  | .lost pa => r.1.uncorrectable x.core x.act x.region x.va pa
  | .level (.table pa) => setAt r.1 (some { va := va, level := p.level + 1, table := pa })
  | .level (.leaf lo e) => setAt (r.1.tlbAdd (x.core / 32) root va lo e) none
  | .level .invalid => r.1.walkDone x

/-! ### Return from a trap (09 R179, 10 R190) -/

/-- A parked activation goes on at TRAPPC; a victim of pre-emption does so when it is no victim any more. -/
def Activation.goOn (pc : BitVec 14) (a : Activation) : Activation :=
  match a.flow.status with
  | .parked p => a.resumeAt p pc
  | .victim w c (.parked p) =>
    let b := a.resumeAt p pc
    { b with flow := { b.flow with status := .victim w c .running } }
  | _ => a

/-- RETURN FROM A TRAP: the activation with number `id` on a core resumes at TRAPPC as its record holds it; that of a
copied-out one is changed in its record. -/
def State.resumeParked (s : State) (core id : Nat) : State :=
  s.changeAct core id (Activation.goOn (s.recordOf core id).pc)

end Sys2Proof.Machine
end

