-- ==== Sys2Proof/Machine/Sync.lean ====
section
/-! DEFINITION. The message and synchronisation instructions, 0xC0 to 0xCF and 0xFD (09). -/

namespace Sys2Proof.Machine

/-- A core of this package, or of another of the domain, lies in the partition of a region (09 R164, 10 R436). What the
partitions of another package hold is not known here: log 13. -/
def State.coreInPartition (s : State) (key pkg core : Nat) : Bool :=
  if pkg = Config.package then (s.part (partOf key)).active && (s.part (partOf key)).granted (core / 32)
  else decide (pkg < Config.packages)

/-- The cluster of the core in focus belongs to the partition of the activation's region (10 R436). -/
def State.ownsCluster (s : State) (key clu : Nat) : Bool :=
  (s.part (partOf key)).active && (s.part (partOf key)).granted clu

/-- The word is an X instruction whose destination is outb (08 R136). -/
def pushesOutb (w : Nat) : Bool := isXWord w && fld w 14 7 == 0x75

/-- A send waits for a free entry of the outbound buffer and for every older push to outb (08 R136, 09 R168). -/
def sendReady (s : State) (k : Att) : Att :=
  .need (!(s.acquiring s.cur.info.id) && decide (s.curCore.outbound.length < 8) && s.cur.pendingTo .outb == 0 &&
    !(s.bufs.2.any (fun e => decide (e.seq < (s.head .a).seq) && pushesOutb e.word.toNat))) k

/-- The length in bytes of the outgoing payload, rounded up (08 R136). -/
def Activation.outLen (a : Activation) : Nat := (a.q.outBits + 7) / 8

/-- The outgoing payload is emptied and what was built of it enters the outbound buffer. -/
def State.enqueueOut (s : State) (o : Outgoing) : State :=
  let a := s.cur
  let s1 := s.setCur { a with q := { a.q with outPay := 0, outBits := 0 } }
  s1.setCurCore { s1.curCore with outbound := s1.curCore.outbound ++ [(a.info.id, o)] }

/-- A message of the activation in focus to a target in the header's layout (09 R164, R166). -/
def State.outMessage (s : State) (target : Nat) (reply : Option Word128) : Outgoing :=
  let a := s.cur
  .toCore
    { header := mkHeader s (fld target 0 13) (fld target 13 4) (fld target 17 8) s.focus.core Config.package a.outLen
        (ofBool reply.isSome) 0
      reply := reply, payload := a.q.outPay, region := a.info.region, sctx := s.focus.ctx }

/-- The shape of a reply capability (09 R165, R166), each failure with TRAPVAL the register number. -/
def replyCheck (c : AReg) (r : Nat) (k : Att) : Att :=
  .check c.tag tCAP_TAG r <|
  .check (c.perms == 2 ^ permMSG) tCAP_PERM r <|
  .check (c.top == c.base + 1 && decide (c.base < 2 ^ 25)) tCAP_BOUNDS r k

/-- SEND (09 R164). -/
def execSend (a b r h : Nat) (s : State) : Out :=
  dispatch .a (fun t => sendReady t <|
    aBody (if r = 1 ∧ h = 0 then [a, b] else [a]) (fun _ => false) (fun act _ =>
      let v := act.lo a
      .check (decide (v < 2 ^ 25) && fld v 17 8 != 0) tILLEGAL_OPERAND v <|
      .check (t.coreInPartition act.info.region (fld v 13 4) (fld v 0 13)) tACCESS v <|
      if r = 0 then .ok (t.enqueueOut (t.outMessage v none))
      else if h ≠ 0 then
        let base := t.focus.core + 2 ^ 13 * Config.package + 2 ^ 17 * h
        .ok (t.enqueueOut (t.outMessage v (some (mkCap base (base + 1) (2 ^ permMSG)).data)))
      else replyCheck (act.reg b) b (.ok (t.enqueueOut (t.outMessage v (some (act.reg b).data))))) t) s

/-- REPLY (09 R166). -/
def execReply (a : Nat) (s : State) : Out :=
  dispatch .a (fun t => sendReady t <|
    aBody [a] (fun _ => false) (fun act _ =>
      replyCheck (act.reg a) a (.ok (t.enqueueOut (t.outMessage (act.reg a).base none)))) t) s

/-- Contexts of an engine class: 8 copy channels, 4 of each other class (08 R157). -/
def classSize (cls : Nat) : Nat := if cls = 0 then 8 else if cls < 4 then 4 else 0

/-- A context id of classes 0 to 3 within its class (09 R167, R177). -/
def contextOk (id : Nat) : Bool := decide (id % 32 < classSize (id / 32))

/-- SENDE (09 R167). -/
def execSende (a b p : Nat) (s : State) : Out :=
  dispatch .a (fun t => sendReady t <|
    aBody (if p = 1 then [a, b] else [a]) (fun _ => false) (fun act _ =>
      let v := act.lo a
      let c := act.reg b
      let pkg := fld v 16 4
      let clu := fld v 8 8
      .check (contextOk (fld v 0 8) && decide (v < 2 ^ 20)) tILLEGAL_OPERAND v <|
      .check (t.coreInPartition act.info.region pkg (32 * clu)) tACCESS v <|
      .check (p == 0 || c.tag) tCAP_TAG b <|
      .check (p == 0 || (c.perm permMSG && c.perm permENG)) tCAP_PERM b <|
      .ok (t.enqueueOut (.toEngine pkg clu (fld v 0 8)
        { payload := act.q.outPay, len := act.outLen, cap := if p = 1 then some c.data else none
          core := t.focus.core, region := act.info.region }))) t) s

/-! ### Joins -/

/-- JARRIVE (09 R170): a release at its scope, performed at the record's home. -/
def execJarrive (a b p : Nat) (s : State) : Out :=
  dispatch .a (fun t => sendable t <|
    aBody [a, b] (fun _ => false) (fun act e =>
      let off := act.lo b
      capCheck (act.reg a) [permAMO] off 16 1 16 tALIGN off <|
      releaseWait t act.info.id p <|
      .ok (t.emitAcc act (t.newAcc e .join ((act.reg a).base + off) off ((act.reg a).perm permCODE) false false))) t) s

/-! ### Gangs -/

/-- A free context and window for a follower on a core (08 R149). A core that has failed without a spare has none, so GANG
waits (23 R424): DESIGN CHOICE, log 64. -/
def State.followerRoom (s : State) (core region n : Nat) : Option (Nat × Nat) :=
  let c := s.core core
  if (s.physOf core).failed then none else
  match c.freeCtx, placeWindow c.windows n with
  | some ctx, some base => if s.slicesAllow core region n then some (ctx, base) else none
  | _, _ => none

/-- A follower activation of lane `i`: the leader's registers, an empty window and empty queues (08 R149). Its incoming
payload is empty too: DESIGN CHOICE, log 64. -/
def State.addFollower (s : State) (n lane : Nat) (a : Activation) : State :=
  let k := s.focus.core + lane
  match s.followerRoom k a.info.region a.info.winSize with
  | some (ctx, base) =>
    s.install k ctx
      { info := { a.info with id := s.nextId, winBase := base, admitted := s.clock, serves := none }
        regs := a.regs
        flow := { age := s.clock, gang := some { leaderCore := s.focus.core, leaderCtx := s.focus.ctx
                                                 lane := lane, size := n } } }
  | none => s

/-- GANG (08 R149, 09 R171). -/
def execGang (n : Nat) (s : State) : Out :=
  dispatch .a (fun t => xQuiet t <|
    aBody (upTo 32) (fun _ => false) (fun act _ =>
      .check (t.focus.core % n == 0) tILLEGAL_OPERAND 0 <|
      .check act.flow.gang.isNone tILLEGAL_OPERAND 1 <|
      .check act.f.loops.isEmpty tILLEGAL_OPERAND 2 <|
      .need ((upTo (n - 1)).all (fun i =>
        (t.followerRoom (t.focus.core + i + 1) act.info.region act.info.winSize).isSome)) <|
      let u := (upTo (n - 1)).foldl (fun u i => u.addFollower n (i + 1) act) t
      .ok (u.setCur { act with flow := { act.flow with
        gang := some { leaderCore := t.focus.core, leaderCtx := t.focus.ctx, lane := 0, size := n } } })) t) s

/-- DISBAND (08 R151, 09 R172): followers end, the leader goes on alone; outside a gang only the wait is made. -/
def execDisband (s : State) : Out :=
  dispatch .a (fun t => xQuiet t <|
    aBody [] (fun _ => false) (fun act _ =>
      if t.lane ≠ 0 then .ok (t.endAct t.focus.core t.focus.ctx)
      else .ok (t.setCur { act with flow := { act.flow with gang := none } })) t) s

/-! ### Stage rings -/

/-- The access of STACQ and STREL holds the A head until its home has answered (08 R152, R153). -/
def ringBody (rs : List Nat) (a b : Nat) (kind : Activation → AccKind) (wait : Activation → Entry → Nat → Activation)
    (prev : Activation → Entry → List (Nat × AReg)) (rel : Bool) (bad : Activation → Option Nat) (s : State) : Att :=
  sendable s <|
  aBody rs (fun _ => false) (fun act e =>
    match bad act with
    | some v => .trap tILLEGAL_OPERAND v
    | none =>
      let off := act.lo b
      capCheck (act.reg a) [permAMO] off 64 1 16 tALIGN off <|
      orderStore s (ofBool rel) 3 <|
      let a1 := wait act e s.nextId
      .ok (s.emitAcc { a1 with flow := { a1.flow with hold := some s.nextId } }
        { s.newAcc e (kind act) ((act.reg a).base + off) off ((act.reg a).perm permCODE) false false with
          prev := prev act e })) s

/-- STACQ (09 R174). -/
def execStacq (d a b r : Nat) (s : State) : Out :=
  dispatch .a (ringBody [a, b] a b (fun _ => .stacq d r) (fun act e id => act.awaitReg e.seq d id)
    (fun act e => act.prevReg e.seq d) false
    (fun _ => none)) s

/-- STREL (09 R175): a release at PACKAGE scope; a value with a bit outside [63:32] and [3:0] is no stage. TRAPVAL is the
register number, by R182: DEDUCED, log 14. -/
def execStrel (d a b : Nat) (s : State) : Out :=
  dispatch .a (ringBody [a, b, d] a b (fun act => .strel (fld (act.lo d) 0 4)) (fun act _ _ => act)
    (fun _ _ => []) true
    (fun act => if fld (act.lo d) 4 28 = 0 then none else some d)) s

/-! ### The siding (08 R154, 09 R176) -/

/-- DQPUSH. -/
def execDqpush (a b : Nat) (s : State) : Out :=
  dispatch .a (fun t => aBody [a, b] (fun _ => false) (fun act _ =>
    let lo := act.lo a
    let hi := act.lo b
    let c := t.curCore
    if hi ≤ lo then .ok t
    else
      .check (decide (c.siding.length < 32)) tSIDING_FULL 32 <|
      .ok (t.setCurCore { c with siding := c.siding ++ [(BitVec.ofNat 64 lo, BitVec.ofNat 64 hi)] })) t) s

/-- The two registers of a returned range. -/
def Activation.writeRange (a : Activation) (seq d : Nat) (r : Word64 × Word64) : Activation :=
  (a.writeReg seq d (plain64 r.1.toNat)).writeReg seq (d + 1) (plain64 r.2.toNat)

/-- DQPOP: the d field is the even register's number over 2. -/
def execDqpop (d : Nat) (s : State) : Out :=
  dispatch .a (fun t => aBody [] (fun _ => false) (fun act e =>
    let c := t.curCore
    .ok ((t.setCurCore { c with siding := c.siding.dropLast }).setCur
      (act.writeRange e.seq (2 * d) (c.siding.getLast?.getD (0, 0))))) t) s

/-- DQSPLIT on a siding. -/
def splitTop (l : List (Word64 × Word64)) : List (Word64 × Word64) :=
  match l.getLast? with
  | some (lo, hi) =>
    if hi.toNat - lo.toNat < 2 then l
    else
      let m := BitVec.ofNat 64 (lo.toNat + (hi.toNat - lo.toNat) / 2)
      l.dropLast ++ [(m, hi), (lo, m)]
  | none => l

/-- DQSPLIT. -/
def execDqsplit (s : State) : Out :=
  dispatch .a (fun t => aBody [] (fun _ => false) (fun _ _ =>
    let c := t.curCore
    let n := (splitTop c.siding).length
    .check (decide (n ≤ 32)) tSIDING_FULL 32 <|
    .ok (t.setCurCore { c with siding := splitTop c.siding })) t) s

/-- A steal from the bottom of a siding: what is left, and the range taken. -/
def stealBottom : List (Word64 × Word64) → List (Word64 × Word64) × (Word64 × Word64)
  | [] => ([], (0, 0))
  | (lo, hi) :: rest =>
    let take := (hi.toNat - lo.toNat + 1) / 2
    let cut := BitVec.ofNat 64 (hi.toNat - take)
    (if hi.toNat - lo.toNat ≤ 1 then rest else (lo, cut) :: rest, (cut, hi))

/-- A steal served by the siding of core `k`; a range that is not empty counts (08 R156). -/
def State.serveSteal (s : State) (k : Nat) : State × (Word64 × Word64) :=
  let c := s.core k
  let r := stealBottom c.siding
  let n : BitVec 32 := if c.siding.isEmpty then 0 else 1
  (s.setCore k { c with siding := r.1, stolen := c.stolen + n }, r.2)

/-- A steal's answer counts at the thief. -/
def State.countTaken (s : State) (k : Nat) (r : Word64 × Word64) : State :=
  let c := s.core k
  if r.1 = r.2 then s else s.setCore k { c with taken := c.taken + 1 }

/-- DQSTEAL (09 R176): a steal from the own core is performed at once; another's siding serves it when it arrives. -/
def execDqsteal (d a : Nat) (s : State) : Out :=
  dispatch .a (fun t => sendable t <|
    aBody [a] (fun _ => false) (fun act e =>
      let v := act.lo a
      let pkg := fld v 13 4
      let k := fld v 0 13
      .check (decide (v < 2 ^ 17)) tILLEGAL_OPERAND v <|
      .check (t.coreInPartition act.info.region pkg k) tACCESS v <|
      if pkg = Config.package ∧ k = t.focus.core then
        let r := t.serveSteal k
        let u := r.1.countTaken k r.2
        .ok (u.setCur (act.writeRange e.seq (2 * d) r.2))
      else
        let id := t.nextId
        let a1 := (act.awaitReg e.seq (2 * d) id).awaitReg e.seq (2 * d + 1) id
        let x := { t.newAcc e (.steal (2 * d)) 0 0 false false false with
          prev := act.prevReg e.seq (2 * d) ++ act.prevReg e.seq (2 * d + 1)
          pieces := if pkg = Config.package then [{ pa := lmBase k, off := 0, len := 0 }] else [] }
        let u := t.takeId.setCur a1
        .ok ({ u with accs := u.accs ++ [x] }.send (.core t.focus.core) (msgPlace pkg k) (.piece id 0))) t) s

/-! ### Timelines and events -/

def State.timeline (s : State) (clu id : Nat) : Timeline := Sparse.get {} (s.cluster clu).tl id

/-- TLWAIT (09 R177). -/
def execTlwait (a x : Nat) (s : State) : Out :=
  dispatch .a (fun t => aBody [a] (fun _ => false) (fun act _ =>
    .check (contextOk x) tILLEGAL_OPERAND x <|
    .need (decide (act.lo a ≤ (t.timeline t.curClu x).counter.toNat)) (.ok t)) t) s

/-- TLREAD (09 R177). -/
def execTlread (d sel x : Nat) (s : State) : Out :=
  dispatch .a (fun t => aBody [] (fun _ => false) (fun act e =>
    .check (contextOk x) tILLEGAL_OPERAND x <|
    let tl := t.timeline t.curClu x
    .ok (t.setCur (act.writeReg e.seq d (plain64 (if sel = 1 then tl.issued.toNat else tl.counter.toNat))))) t) s

/-- A line of a cluster's signal box pulses (08 R157). -/
def State.pulse (s : State) (clu line : Nat) : State :=
  let cl := s.cluster clu
  s.setCluster clu { cl with sb := { cl.sb with pulses := cl.sb.pulses ++ [line] } }

/-- EVSIG (09 R178): it waits for what its scope asks, and for nothing else. -/
def execEvsig (p l : Nat) (s : State) : Out :=
  dispatch .a (fun t =>
    aBody [] (fun _ => false) (fun act _ =>
      if p = 0 then .ok (t.pulse t.curClu (32 + l))
      else releaseWait t act.info.id p (.ok (t.pulse t.curClu (32 + l)))) t) s

/-! ### Return from traps and waiting -/

/-- ERET and ERET.END are legal in a trap activation alone, and wait as END does (09 R179). -/
def eretBody (k : State → Activation → Att) (s : State) : Att :=
  xQuiet s <|
  aBody [] (fun _ => false) (fun act e =>
    guardPriv act e <|
    .check act.info.serves.isSome tILLEGAL_OPERAND 0 (k s act)) s

/-- ERET (09 R179, 10 R190): the trap activation ends and the one it served resumes. -/
def execEret (s : State) : Out :=
  dispatch .a (eretBody (fun t act =>
    match act.info.serves with
    | some id =>
      let u := (t.setCur { act with info := { act.info with serves := none } }).endAct t.focus.core t.focus.ctx
      .ok (u.resumeParked t.focus.core id)
    | none => .stall)) s

/-- ERET.END: both end. -/
def execEretEnd (s : State) : Out :=
  dispatch .a (eretBody (fun t _ => .ok (t.endAct t.focus.core t.focus.ctx))) s

/-- WFI (09 R180): it leaves its place and holds the A head until a message is queued; one that has been queued in this very
cycle releases it at once. -/
def execWfi (s : State) : Out :=
  dispatch .a (fun t => aBody [] (fun _ => false) (fun act e =>
    guardPriv act e <|
    .ok (t.setCur { act with flow := { act.flow with wfi := t.curCore.queued != some t.clock } })) t) s

end Sys2Proof.Machine
end

