-- ==== Sys2Proof/Machine/Home.lean ====
section
/-! DEFINITION. What homes do: arrival order, pins, performing accesses, joins, stage rings, atomics, the atomic engines,
and the answers that go back (12 R208 to R224, R232; 08 R147 to R153). -/

namespace Sys2Proof.Machine

/-! ### Pins (12 R220, R221) -/

/-- The pins that a home has recorded. -/
def State.pinsAt (s : State) (pl : Place) : List Pin := s.pins.filter (fun p => p.home == pl)

/-- A pin covers a byte of a range at one home (12 R220). -/
def Pin.covers (p : Pin) (lo len : Nat) : Bool := overlaps p.lo p.len lo len && some p.home == placeOf lo

/-- A write of `len` bytes at `lo`, inside one home, overlaps a pinned byte (12 R221). -/
def State.pinned (s : State) (lo len : Nat) : Bool := s.pins.any (fun p => p.covers lo len)

/-- Pins are released: recorded ones, and requests that are still on their way. -/
def State.dropPins (s : State) (f : Pin → Bool) : State :=
  { s with
    pins := s.pins.filter (fun p => !(f p))
    net := s.net.filter (fun q => match q.body with
      | .pin p => !(f p)
      | _ => true) }

/-- A home has a free pin record of its 256 (12 R220). -/
def State.pinRoom (s : State) (pl : Place) : Bool := decide ((s.pinsAt pl).length < 256)

/-- The region that a packet travels for. -/
def State.packetRegion (s : State) (q : Packet) : Option Nat :=
  match q.body with
  | .message m => some m.region
  | .command c => some c.region
  | .piece acc _ => (s.accs.find? (fun x => x.id == acc)).map (fun x => x.region)
  | _ => none

/-- A message waits at its destination for its region to hold the cluster: it holds back its own region alone (22 R409). -/
def State.waitsForHolder (s : State) (r : Packet) : Bool :=
  match r.body, r.dst with
  | .message m, .lm k => (s.cluster (k / 32)).holder != some m.region
  | .command c, .engine g _ => (s.cluster g).holder != some c.region
  | _, _ => false

/-- The home or atomic engine that sends a packet to a core, and the core. -/
def Packet.fromHome (q : Packet) : Option (Agent × Nat) :=
  match q.src, q.dst with
  | .home h, .lm k => some (.home h, k)
  | .cae g, .lm k => some (.cae g, k)
  | _, _ => none

/-- The agents that answer an access: the homes of its parts, or the atomic engines that performed them (12 R209, R223). -/
def Access.homes (x : Access) : List Agent :=
  x.pieces.filterMap (fun p => if p.cae then some (.cae (caeOf p.pa)) else (placeOf p.pa).map .home)

/-- An answer to a core of a home that was sent before the number `n` has not arrived (12 R209). -/
def State.answerBefore (s : State) (h : Agent) (core n : Nat) : Bool :=
  s.accs.any (fun y => y.core == core && y.ansNo != 0 && decide (y.ansNo < n) && y.homes.contains h)

/-- A write-combining buffer on its way: such packets keep no order (12 R226). -/
def Packet.isWc (q : Packet) : Bool :=
  match q.body with
  | .wcWrite _ _ _ _ _ => true
  | _ => false

/-- The packet is the first of its pair but for messages of other regions that wait for their holder, and no answer of its
home that was sent before it is still under way (12 R209, 22 R409). -/
def State.arrived (s : State) (q : Packet) : Bool :=
  q.isWc || (!(s.net.any (fun r => r.src == q.src && r.dst == q.dst && decide (r.id < q.id) &&
    !(s.waitsForHolder r && s.packetRegion r != s.packetRegion q))) &&
    !(q.fromHome.any (fun h => s.answerBefore h.1 h.2 q.id)))

/-- An answer is the first under way from its homes to its core (12 R209). -/
def State.answerArrived (s : State) (x : Access) : Bool :=
  x.homes.all (fun h => !(s.answerBefore h x.core x.ansNo) &&
    !(s.net.any (fun q => q.fromHome == some (h, x.core) && decide (q.id < x.ansNo))))

def State.dropPacket (s : State) (id : Nat) : State := { s with net := s.net.filter (fun q => q.id != id) }

/-! ### Writes at a home -/

/-- A write into another core's instruction store needs CODE (12 R232). -/
def State.codeOk (s : State) (core : Nat) (code : Bool) (lo : Nat) : Bool :=
  match placeOf lo with
  | some (.lm c) => c == core || code || decide ((s.core c).csr.xb.toNat ≤ lo - lmBase c)
  | _ => true

/-- The physical addresses of the bytes that a part of an access writes: of a masked store those under the mask
(06 R106, 12 R221). JARRIVE writes its whole record and STREL its whole descriptor: DESIGN CHOICE, log 90. -/
def Access.writes (x : Access) (p : Piece) : List Nat :=
  match x.kind with
  | .store data mask => (storeBytes data.toNat mask.toNat p).map (fun b => b.1)
  | .storeNib _ _ _ | .storeCap _ | .amo _ _ _ _ | .amocas _ _ _ _ | .join | .strel _ => (upTo p.len).map (fun i => p.pa + i)
  | _ => []

/-- Part `k` has been performed, by the atomic engine or by the home itself. -/
def Access.setPiece (x : Access) (k : Nat) (cae : Bool) : Access :=
  { x with pieces := ((upTo x.pieces.length).zip x.pieces).map (fun e => if e.1 = k then { e.2 with done := true, cae := cae } else e.2) }

/-- Every part has been performed. -/
def Access.complete (x : Access) : Bool := x.pieces.all (fun p => p.done)

/-- The access stands anew; when its home has answered it, the answer is sent now. -/
def State.putAcc (s : State) (x : Access) : State :=
  if x.stage = .sent then { s with accs := s.accs.map (fun y => if y.id == x.id then x else y) }
  else { s with accs := s.accs.map (fun y => if y.id == x.id then { x with ansNo := s.nextId } else y), nextId := s.nextId + 1 }

def State.dropAcc (s : State) (id : Nat) : State := { s with accs := s.accs.filter (fun y => y.id != id) }

/-- A run of nibbles stored: the named nibbles change, the others of the same bytes stay (02 R29). -/
def storeNibs (s : State) (pa odd nibs data off len : Nat) : State :=
  (upTo len).foldl (fun t i =>
    let byte := (s.byteAt (pa + i)).toNat
    let nib (h : Nat) : Nat :=
      let j := 2 * (off + i) + h
      if decide (odd ≤ j) && decide (j < odd + nibs) then fld data (4 * (j - odd)) 4 else fld byte (4 * h) 4
    t.putByte (pa + i) (BitVec.ofNat 8 (nib 0 + 16 * nib 1))) s

/-! ### The atomic engines (12 R222, R223) -/

/-- An atomic to a line that is not checked out waits while all 64 entries of its engine are in use (12 R223). -/
def State.caeFull (s : State) (pa : Nat) : Bool :=
  decide (pa < 0xC000000000) && !(s.checkedOut pa) && decide (64 ≤ (s.cluster (caeOf pa)).cae.length)

/-- What an access does to the lines it touches: an atomic checks its line out; any access that is forwarded to a
checked-out line uses it (12 R223). -/
def State.useLines (s : State) (atomic : Bool) (pa len : Nat) : State :=
  if decide (pa < 0xC000000000) && atomic then s.caeUse pa else s.useRange pa len

/-! ### Joins (08 R147, R148; 09 R169, R170) -/

def State.performJoin (s : State) (x : Access) (pa : Nat) : State :=
  let n := s.natAt pa 4
  if n = 0 then s.homeFault pa x.region tJOIN_UNDERFLOW x.va true
  else
    let word := s.natAt pa 8
    let pay := s.natAt (pa + 8) 8
    let s1 := s.putNat pa 4 (n - 1)
    if n ≠ 1 then s1
    else
      let hid := fld word 49 8
      let len := fld word 57 4
      if hid = 0 ∨ 8 < len ∨ fld word 61 3 ≠ 0 then s1.homeFault pa x.region tACCESS x.va true
      else s1.sendMessage (homeAgent pa true)
        { header := mkHeader s (fld word 32 13) (fld word 45 4) hid (faultPlace pa true).2 Config.package len 0 1
          payload := BitVec.ofNat 512 (pay % 2 ^ (8 * len)), region := x.region }

/-! ### Stage rings (08 R152, R153; 09 R173 to R175) -/

/-- The physical address of byte `i` of what an access covers; a stage-ring descriptor can lie across two pages (12 R208). -/
def Access.paOf (x : Access) (i : Nat) : Nat :=
  match x.pieces.find? (fun p => decide (p.off ≤ i) && decide (i < p.off + p.len)) with
  | some p => p.pa + (i - p.off)
  | none => 0

/-- The first word of a descriptor is legal, and its reserved bytes are zero. -/
def State.ringOk (s : State) (x : Access) : Bool :=
  let w := s.natAt (x.paOf 0) 8
  decide (fld w 4 4 ≤ fld w 0 4) && decide (fld w 8 4 ≤ fld w 0 4) && fld w 12 4 == 0 && fld w 16 16 != 0 &&
    fld w 48 16 == 0 && s.natAt (x.paOf 8) 8 == 0 && s.natAt (x.paOf 48) 16 == 0 &&
    (upTo 16).all (fun k => fld (s.natAt (x.paOf (16 + 2 * k)) 2) 13 2 == 0)

/-- The stage that a role may take now: at its index, without an owner, empty for a producer and full for a consumer. -/
def State.ringStage (s : State) (x : Access) (role : Nat) : Option Nat :=
  let w := s.natAt (x.paOf 0) 8
  let k := if role = 0 then fld w 4 4 else fld w 8 4
  let full := bitAt w (32 + k)
  let owned := bitAt (s.natAt (x.paOf (16 + 2 * k)) 2) 15
  if !owned && (full == (role == 1)) then some k else none

/-- Take stage `k`: its owner is set and the index advances; the answer of R174. -/
def State.takeStage (s : State) (x : Access) (role k : Nat) : State × Nat :=
  let w := s.natAt (x.paOf 0) 8
  let n := fld w 0 4 + 1
  let w1 := if role = 0 then putFld w 4 4 ((k + 1) % n) else putFld w 8 4 ((k + 1) % n)
  ((s.putNat (x.paOf 0) 8 w1).putNat (x.paOf (16 + 2 * k)) 2 (0x8000 + x.core), k + 2 ^ 32 * (64 + 16 * fld w 16 16 * k))

/-- The answer of a stage request. -/
def State.answerStage (s : State) (x : Access) (role k : Nat) : State :=
  let r := s.takeStage x role k
  r.1.putAcc { x with data := BitVec.ofNat 136 r.2, stage := .answered }

/-- The cluster at whose memory agent a ring's requests wait. -/
def Access.ringClu (x : Access) : Nat := (x.paOf 0 - 0xC800000000) / 0x100000

/-- A waiting request of the same ring and role. -/
def State.waitsAlike (s : State) (pa role : Nat) (w : RingWait) : Bool :=
  w.pa == pa && s.accs.any (fun y => y.id == w.acc && match y.kind with
    | .stacq _ r => r == role
    | _ => false)

/-- STACQ at its ring: refused, served, or waiting behind others of its role. -/
def State.performStacq (s : State) (x : Access) (role : Nat) : State :=
  let g := x.ringClu
  let cl := s.cluster g
  if !(s.ringOk x) then s.putAcc { x with stage := .refused tACCESS x.off }
  else match (if cl.ring.any (s.waitsAlike (x.paOf 0) role) then none else s.ringStage x role) with
    | some k => s.answerStage x role k
    | none => (s.putAcc x).setCluster g { cl with ring := cl.ring ++ [{ acc := x.id, pa := x.paOf 0 }] }

/-- STREL at its ring (08 R153). A stage number above NM1 reports the register number, by R182: DEDUCED, log 14. -/
def State.performStrel (s : State) (x : Access) (k : Nat) : State :=
  let w := s.natAt (x.paOf 0) 8
  if !(s.ringOk x) then s.putAcc { x with stage := .refused tACCESS x.off }
  else if fld w 0 4 < k then s.putAcc { x with stage := .refused tILLEGAL_OPERAND (fld x.entry.word.toNat 19 5) }
  else if s.natAt (x.paOf (16 + 2 * k)) 2 ≠ 0x8000 + x.core then s.putAcc { x with stage := .refused tSTAGE_OWNER k }
  else
    let w1 := putFld w (32 + k) 1 (1 - ofBool (bitAt w (32 + k)))
    ((s.putNat (x.paOf 0) 8 w1).putNat (x.paOf (16 + 2 * k)) 2 0).putAcc { x with stage := .answered }

/-- The stage request of an access that waits, if it is the first of its role at its ring and can be served: its role and
stage. -/
def State.grantable (s : State) (x : Access) : Option (Nat × Nat) :=
  match x.kind with
  | .stacq _ role => match (s.cluster x.ringClu).ring.find? (s.waitsAlike (x.paOf 0) role) with
    | some w => if w.acc = x.id then (s.ringStage x role).map (fun k => (role, k)) else none
    | none => none
  | _ => none

/-- STAGE_GRANT: the waiting request is served (08 R152). -/
def execStageGrant (idx : Nat) (s : State) : Out :=
  match s.accs[idx]? with
  | some x => match s.grantable x with
    | some (role, k) =>
      let cl := s.cluster x.ringClu
      .next ((s.setCluster x.ringClu { cl with ring := cl.ring.filter (fun w => w.acc != x.id) }).answerStage x role k)
    | none => .next s
  | none => .next s

/-! ### Performing one part of an access (12 R208) -/

/-- What a part does to memory, and what it reads. The access comes back with its data and the part done. -/
def State.performBytes (s : State) (x : Access) (k : Nat) (p : Piece) : State :=
  let y := x.setPiece k (s.checkedOut p.pa)
  let ended (z : Access) : Access := if z.complete && z.stage == .sent then { z with stage := .answered } else z
  match x.kind with
  | .load _ _ _ | .loadReg _ _ _ | .loadNib _ _ _ _ | .chunk _ _ _ _ =>
    s.putAcc (ended { y with data := BitVec.ofNat 136 (putFld y.data.toNat (8 * p.off) (8 * p.len) (s.natAt p.pa p.len)) })
  | .loadCap _ => s.putAcc (ended { y with data := BitVec.ofNat 136 (s.natAt p.pa 16), tag := s.tagAt (p.pa / 16) })
  | .store data mask =>
    ((storeBytes data.toNat mask.toNat p).foldl (fun t b => t.putByte b.1 b.2) s).putAcc (ended y)
  | .storeNib nibs odd data => (storeNibs s p.pa odd nibs data.toNat p.off p.len).putAcc (ended y)
  | .storeCap data => ((s.putNat p.pa 16 data.toNat).putTag (p.pa / 16) true).putAcc (ended y)
  | .amo _ f bits v =>
    let old := s.natAt p.pa (bits / 8)
    (s.putNat p.pa (bits / 8) (amoNew f bits old v.toNat)).putAcc (ended { y with data := BitVec.ofNat 136 old })
  | .amocas _ bits expect repl =>
    let old := s.natAt p.pa (bits / 8)
    let s1 := if old = zext expect.toNat bits then s.putNat p.pa (bits / 8) (zext repl.toNat bits) else s
    s1.putAcc (ended { y with data := BitVec.ofNat 136 old })
  | .join => (s.performJoin x p.pa).putAcc (ended y)
  | .stacq _ role => if y.complete && y.stage == .sent then s.performStacq y role else s.putAcc y
  | .strel stage => if y.complete && y.stage == .sent then s.performStrel y stage else s.putAcc y
  | .steal _ | .mrd _ _ _ _ _ _ _ => s

/-- The accesses of a region to an HBM stack are counted for the energy charge (23 R420). -/
def State.countHbm (s : State) (region pa : Nat) : State :=
  match placeOf pa with
  | some (.hbm i) =>
    let key := i / 32 + 16 * region
    { s with hbmUse := Sparse.put s.hbmUse key (Sparse.get 0 s.hbmUse key + 1) }
  | _ => s

def AccKind.isAtomic : AccKind → Bool
  | .amo _ _ _ _ | .amocas _ _ _ _ | .join => true
  | _ => false

/-- Each 4 KiB unit of a range is touched (10 R199). -/
def State.touchRange (s : State) (region pa len : Nat) (write : Bool) : State :=
  let s1 := s.touch region pa write
  let last := pa + (len - 1)
  if last / 4096 = pa / 4096 then s1 else s1.touch region last write

/-- One part of an access is performed at its home, or refused there for a byte that it writes (12 R221, R232). Each of two parts
is an access of its own: the other one is performed all the same (12 R208). -/
def State.performPiece (s : State) (x : Access) (k : Nat) (p : Piece) : State :=
  let w := x.writes p
  if s.isRetired p.pa then
    let y := { x.setPiece k false with ghost := true }
    (if y.complete then s.dropAcc x.id else s.putAcc y).uncorrectable x.core x.act x.region x.va p.pa
  else if w.any (fun b => s.pinned b 1 || !(s.codeOk x.core x.code b)) then
    s.putAcc { x.setPiece k (s.checkedOut p.pa) with stage := .refused tPINNED_WRITE x.va }
  else
    let stacq := match x.kind with
      | .stacq _ _ => true
      | _ => false
    let s1 := (s.touchRange x.region p.pa p.len (!w.isEmpty || stacq)).countHbm x.region p.pa
    (s1.useLines x.kind.isAtomic p.pa p.len).performBytes x k p

/-- A write through CXL.mem is held while a pin covers a byte of it (12 R221). -/
def State.hostHeld (s : State) (pa len : Nat) : Bool := s.pinned pa len

/-- A combined write holds a pinned byte: it waits at the port until the pin is released. DESIGN CHOICE, log 70. -/
def State.wcHeld (s : State) (line : Nat) (valid : BitVec 64) : Bool :=
  (upTo 64).any (fun i => bitAt valid.toNat i && s.pinned (64 * line + i) 1)

/-- A part of an access waits at its home for an entry of its atomic engine (12 R223). -/
def State.pieceWaits (s : State) (x : Access) (p : Piece) : Bool := x.kind.isAtomic && s.caeFull p.pa

/-- A steal from a core of another package leaves the device. The answer is a range that the other package gives up, or the
empty one (08 R154); which of them is a free value: DESIGN CHOICE, log 91. -/
def State.remoteSteal (s : State) (x : Access) (pkg : Nat) : State :=
  let v := (Config.remoteRange s.fresh).toNat
  let r := if v % 2 ^ 64 < v / 2 ^ 64 then v else 0
  (({ s with fresh := s.fresh + 1 } : State).emit (.access x.id pkg 0)).putAcc
    { x with data := BitVec.ofNat 136 r, stage := .answered }

/-- HOME_PERFORM: the packet at a place of the list is performed when it has arrived (12 R208, R209); a pin request is
recorded, or held for want of a record (R220). -/
def execHomePerform (idx : Nat) (s : State) : Out :=
  match s.net[idx]? with
  | none => .next s
  | some q =>
    if !(s.arrived q) then .next s
    else match q.body with
      | .piece acc k =>
        match s.accs.find? (fun x => x.id == acc) with
        | none => .next (s.dropPacket q.id)
        | some x =>
          match x.kind, q.dst with
          | .steal _, .pkg p => .next ((s.dropPacket q.id).remoteSteal x p)
          | .steal _, _ => .next s
          | _, _ => match x.pieces[k]? with
            | none => .next (s.dropPacket q.id)
            | some p => if s.pieceWaits x p then .next s else .next ((s.dropPacket q.id).performPiece x k p)
      | .pin p => if s.pinRoom q.dst then .next { s.dropPacket q.id with pins := s.pins ++ [p] } else .next s
      | .hostWrite pa bytes =>
        if s.hostHeld pa bytes.length then .next s
        else .next (((s.dropPacket q.id).useRange pa bytes.length).putBytes pa bytes)
      | .wcWrite _ line valid data _ =>
        if s.wcHeld line valid then .next s
        else .next ((upTo 64).foldl (fun t i => if bitAt valid.toNat i
          then t.putByte (64 * line + i) (BitVec.ofNat 8 (fld data.toNat (8 * i) 8)) else t) (s.dropPacket q.id))
      | _ => .next s

/-- An atomic waits at its agent for an entry of the atomic engine of a cluster. -/
def State.caeAsked (s : State) (clu : Nat) : Bool :=
  s.net.any (fun q => s.arrived q && match q.body with
    | .piece acc k => s.accs.any (fun x => x.id == acc && x.kind.isAtomic &&
        (x.pieces[k]?).any (fun p => caeOf p.pa == clu && s.caeFull p.pa))
    | _ => false)

/-- CAE_CHECK_IN: while all 64 entries are in use and a new line needs one, the least recently used line returns to its
agent. No access is ever in progress at the engine between two events (12 R223). -/
def execCaeCheckIn (clu : Nat) (s : State) : Out :=
  if !(s.caeAsked clu) then .next s
  else
    let cl := s.cluster clu
    .next (s.setCluster clu { cl with cae := cl.cae.tail })

/-- WC_BUFFER_TIMEOUT: a buffer whose first byte is 1 µs old is sent (12 R226). -/
def execWcBufferTimeout (clu idx : Nat) (s : State) : Out :=
  match (s.cluster clu).wc[idx]? with
  | some b => if b.first + 1000 ≤ s.ns then .next (s.wcSend clu b) else .next s
  | none => .next s

/-- SIDING_STEAL_SERVE: the first steal that has arrived at a core is served there (08 R155). -/
def execSidingStealServe (core : Nat) (s : State) : Out :=
  let isSteal (q : Packet) : Bool := q.dst == .lm core && (match q.body with
    | .piece acc _ => s.accs.any (fun x => x.id == acc && match x.kind with
        | .steal _ => true
        | _ => false)
    | _ => false) && s.arrived q
  match s.net.find? isSteal with
  | none => .next s
  | some q => match q.body with
    | .piece acc _ => match s.accs.find? (fun x => x.id == acc) with
      | some x =>
        let r := (s.dropPacket q.id).serveSteal core
        .next (r.1.putAcc { x with data := BitVec.ofNat 136 (r.2.1.toNat + 2 ^ 64 * r.2.2.toNat), stage := .answered })
      | none => .next s
    | _ => .next s

/-! ### Answers (02 R17, 06 R98, R108) -/

/-- The value that a load of `bits` bits leaves in its entry or register. -/
def loadValue (x : Access) : Word128 :=
  match x.kind with
  | .load _ bits sg | .loadReg _ bits sg => signExt x.data.toNat bits sg
  | .loadNib _ nibs odd sg => signExt (x.data.toNat / 2 ^ (4 * odd)) (4 * nibs) sg
  | .amo _ _ bits _ | .amocas _ bits _ _ => signExt x.data.toNat bits false
  | _ => x.data.setWidth 128

/-- The data of a BMOV chunk has come: its store is sent and the registers advance, unless the activation has been
stopped or parked, in which case the chunk is sent again later (06 R114, R116). -/
def State.chunkArrived (s : State) (x : Access) (dst dstOff len : Nat) (code : Bool) : State :=
  let s1 := s.changeAct x.core x.act (fun a => a.unhold x.id)
  match s1.ctxOf x.core x.act with
  | none => s1
  | some ctx => match s1.act? x.core ctx with
    | none => s1
    | some a =>
      let goes := match a.flow.status with
        | .running | .draining _ _ => true
        | _ => false
      if !goes then s1
      else
        let r := bmovAdvance a x.entry len
        let y : Access := { x with id := s1.nextId, kind := .store (x.data.setWidth 128) (fullMask len), va := dst, off := dstOff
                                   code := code, pieces := [], back := r.2, stage := .sent, ansNo := 0 }
        (s1.takeId.setActAt x.core ctx r.1).issueAcc y

/-- The value of columns `c` to `c + 3` of a row of the accumulator store (16 R324). -/
def Cluster.accWord (cl : Cluster) (row c : Nat) : Nat :=
  fld (Sparse.get (0 : BitVec 16384) cl.acc row).toNat (32 * c) 128

/-- What an MRD brings once every operation that it waits for has been performed (16 R307, R324). -/
def State.mrdValue (s : State) (x : Access) : Option Word128 :=
  match x.kind with
  | .mrd _ clu id upto row col flags =>
    let cl := s.cluster clu
    if (Sparse.get ({} : Timeline) cl.tl id).counter.toNat < upto then none
    else some (BitVec.ofNat 128 (if flags then (Sparse.get (0 : BitVec 2) cl.accFlags row).toNat else cl.accWord row col))
  | _ => none

/-- The registers that an answer writes, with their values. -/
def Access.answerRegs (x : Access) : List (Nat × AReg) :=
  match x.kind with
  | .loadReg d _ _ | .amo d _ _ _ | .amocas d _ _ _ => [(d, { data := loadValue x })]
  | .loadCap d => [(d, { data := x.data.setWidth 128, tag := x.tag })]
  | .stacq d _ => [(d, { data := (x.data.setWidth 64).setWidth 128 })]
  | .steal d => [(d, { data := (x.data.setWidth 64).setWidth 128 }), (d + 1, { data := BitVec.ofNat 128 (x.data.toNat / 2 ^ 64) })]
  | _ => []

/-- What an answer does to its activation: its queue entry is filled, or the registers that wait for it; and it lets go of
the A head. -/
def answerAct (x : Access) (a : Activation) : Activation :=
  match x.kind with
  | .load _ _ _ | .loadNib _ _ _ _ | .mrd _ _ _ _ _ _ _ =>
    { a with q := { a.q with ldq0 := fillQueue x.id (loadValue x) a.q.ldq0, ldq1 := fillQueue x.id (loadValue x) a.q.ldq1 } }
  | _ => x.answerRegs.foldl (fun t r => (t.fillReg x.id r.1 r.2).fillWalk x.id r.1 r.2) (a.unhold x.id)

/-- The answer of an access reaches its activation, and the younger accesses that would set its registers back. -/
def State.deliverAnswer (s : State) (x : Access) : State :=
  x.answerRegs.foldl (fun t r => t.fillPrevs x.act x.id r.1 r.2) ((s.dropAcc x.id).changeAct x.core x.act (answerAct x))

/-- LOAD_DATA_RETURN: the answer of a load, atomic, stage request or steal reaches its activation. -/
def execLoadDataReturn (idx : Nat) (s : State) : Out :=
  match s.accs[idx]? with
  | none => .next s
  | some x =>
    match s.mrdValue x with
    | some v => .next (s.deliverAnswer { x with data := v.setWidth 136 })
    | none =>
    if x.stage != .answered || !x.kind.isLoad || !(s.answerArrived x) then .next s
    else if x.ghost then .next (s.dropAcc x.id)
    else match x.kind with
      | .chunk dst dstOff len code => .next ((s.dropAcc x.id).chunkArrived x dst dstOff len code)
      | .steal _ =>
        .next ((s.countTaken x.core (x.data.setWidth 64, BitVec.ofNat 64 (x.data.toNat / 2 ^ 64))).deliverAnswer x)
      | _ => .next (s.deliverAnswer x)

/-- An earlier chunk or element of the same BMOV or REP is still unanswered, so that a refusal of it would send this one
again (06 R116). -/
def State.olderSibling (s : State) (x : Access) : Bool :=
  s.accs.any (fun y => y.act == x.act && y.entry.seq == x.entry.seq && decide (y.id < x.id) && !y.ghost)

/-- STORE_ACK: the acknowledgement of a store, join or stage release reaches its core (12 R208). -/
def execStoreAck (idx : Nat) (s : State) : Out :=
  match s.accs[idx]? with
  | none => .next s
  | some x =>
    if x.stage != .answered || x.kind.isLoad || (s.olderSibling x && !x.ghost) || !(s.answerArrived x) then .next s
    else .next (s.deliverAnswer x)

/-- The activation with a number stands between a hint and its target: no trap may fall there (03 R49). -/
def State.inSequence (s : State) (core act : Nat) : Bool :=
  match s.ctxOf core act with
  | some ctx => (s.core core).lock == some ctx
  | none => false

/-- LATE_ACCESS_FAULT: a refusal of the home reaches the core, with the answer of the other part (06 R108; 10 R186, R437;
12 R208). -/
def execLateAccessFault (idx : Nat) (s : State) : Out :=
  match s.accs[idx]? with
  | none => .next s
  | some x => match x.stage with
    | .refused cause val =>
      if !x.complete || !(s.answerArrived x) || s.inSequence x.core x.act then .next s
      else if x.ghost then .next (s.dropAcc x.id)
      else .next ((s.dropAcc x.id).lateFault x cause val)
    | _ => .next s

end Sys2Proof.Machine
end

