-- ==== Sys2Proof/Machine/Front.lean ====
section
/-! DEFINITION. The front end: fetch with hint sequences, loops and the execute boundary (02 R10 to R14, 03 R48 to R50,
06 R123, R124, 07 R130, 21 R387), the landing of X results (05 R75), QUEUE_STARVED (02 R20) and illegal words (03 R59). -/

namespace Sys2Proof.Machine

/-- What fetching the last word of a body does to the loops that end there, the inner first: counts to be written, the
records that stay, and the back edge (06 R123). -/
def loopEnds (seq : Nat) (w : BitVec 14) : List LoopRec → List CountWrite × List LoopRec × Option (BitVec 14)
  | [] => ([], [], none)
  | r :: outer =>
    if r.last ≠ w then
      let t := loopEnds seq w outer
      (t.1, r :: t.2.1, t.2.2)
    else
      let n := r.count - 1
      let cw : CountWrite := { seq := seq, reg := r.reg, val := n }
      if n ≠ 0 then ([cw], { r with count := n } :: outer, some r.first)
      else
        let t := loopEnds seq w outer
        (cw :: t.1, t.2.1, t.2.2)

/-- The word at which fetch stops for a loop body's end that is a control transfer or a hint (06 R124). -/
def badLoopEnd (w : Nat) : Bool := isHint w || (decide (0xB0 ≤ opcodeOf w) && decide (opcodeOf w ≤ 0xBF))

/-- The next fetch position. -/
def Activation.stepPc (a : Activation) : Activation :=
  { a with f := { a.f with pc := a.f.pc + 1, wrapped := a.f.pc == BitVec.ofNat 14 0x3FFF } }

/-- An entry that traps at the A head takes the place of a word, and fetch stops (06 R124, 21 R387). -/
def Activation.placeTrap (a : Activation) (e : Entry) : Activation :=
  { a with f := { a.f with abuf := a.f.abuf ++ [e], stop := .trapEntry, seqHints := [], nextSeq := a.f.nextSeq + 1 } }

/-- One word fetched: `w` is the word at the fetch position, `xb` the execute boundary. None when fetch is stopped or the
buffer is full. Two active loops that share an ill-placed end both lose their record at the trap: DESIGN CHOICE, log 65. -/
def Activation.fetchWord (a : Activation) (xb w : Nat) : Option Activation :=
  let pc := a.f.pc
  let first := if a.f.seqHints.isEmpty then pc else a.f.seqPc
  let addr := if a.f.wrapped then 0x10000 else 4 * pc.toNat
  if a.f.stop != .running then none
  else if xb ≤ addr then
    if a.f.abuf.length < 8 then
      some (a.placeTrap { pc := first, wpc := pc, word := BitVec.ofNat 32 addr, kind := .overlay, seq := a.f.nextSeq })
    else none
  else if badLoopEnd w && a.f.loops.any (fun r => r.last == pc) then
    if a.f.abuf.length < 8 then
      some (({ a with f := { a.f with loops := a.f.loops.filter (fun r => r.last != pc) } } : Activation).placeTrap
        { pc := pc, wpc := pc, word := BitVec.ofNat 32 w, kind := .loopEnd, seq := a.f.nextSeq })
    else none
  else if isHint w && hintFits a.f.seqHints w then
    some ({ a with f := { a.f with seqHints := a.f.seqHints ++ [BitVec.ofNat 32 w], seqPc := first } } : Activation).stepPc
  else
    let toX := isXWord w
    let buf := if toX then a.f.xbuf else a.f.abuf
    if 8 ≤ buf.length then none
    else
      let e : Entry := { pc := first, wpc := pc, hints := a.f.seqHints, word := BitVec.ofNat 32 w, seq := a.f.nextSeq }
      let ends := loopEnds a.f.nextSeq pc a.f.loops.reverse
      let stop := if isControl w then FetchStop.control else if opcodeOf w = 0xBD ∨ opcodeOf w = 0xCF then .ended else .running
      let b := ({ a with f := { a.f with
        abuf := if toX then a.f.abuf else a.f.abuf ++ [e], xbuf := if toX then a.f.xbuf ++ [e] else a.f.xbuf
        seqHints := [], nextSeq := a.f.nextSeq + 1, stop := stop
        loops := ends.2.1.reverse, counts := a.f.counts ++ ends.1 } } : Activation).stepPc
      some (match ends.2.2 with
        | some back => { b with f := { b.f with pc := back, wrapped := false } }
        | none => b)

/-- The front end reads the word at the fetch position: fetch goes on, below the execute boundary. -/
def Activation.readsWord (a : Activation) (xb : Nat) : Bool :=
  a.f.stop == .running && !a.f.wrapped && decide (4 * a.f.pc.toNat < xb)

/-- Up to `n` words fetched for the activation of a context; each read is an access of its region (10 R199). -/
def State.fetchN (s0 : State) (core ctx : Nat) : Nat → State
  | 0 => s0
  | n + 1 => match s0.act? core ctx with
    | none => s0
    | some a =>
      let pa := lmBase core + 4 * a.f.pc.toNat
      let s := if a.readsWord (s0.core core).csr.xb.toNat then s0.touch a.info.region pa false else s0
      match a.fetchWord (s.core core).csr.xb.toNat (s.natAt pa 4) with
      | none => s
      | some b =>
        let s1 := s.setActAt core ctx b
        let new := b.f.counts.drop a.f.counts.length
        let s2 := match a.flow.gang with
          | some g => ((s.gangMembers g).drop 1).foldl (fun (t : State) (m : Nat × Nat) => match t.act? m.1 m.2 with
              | some x => t.setActAt m.1 m.2 { x with f := { x.f with counts := x.f.counts ++ new } }
              | none => t) s1
          | none => s1
        s2.fetchN core ctx n

/-- The activation fetches: it runs or drains, and is no follower (08 R150). -/
def Activation.fetches (a : Activation) : Bool :=
  (match a.flow.status with
    | .running | .draining _ _ => true
    | _ => false) &&
  (match a.flow.gang with
    | some g => g.lane == 0
    | none => true)

/-- A new cycle of the activation's front end: what it has fetched so far can be dispatched now (07 R130). -/
def Activation.newCycle (a : Activation) : Activation := { a with f := { a.f with seen := max a.f.seen a.f.nextSeq } }

/-- FETCH: up to four words of one activation, which can be dispatched from the next cycle on (07 R130). -/
def execFetch (core ctx : Nat) (s : State) : Out :=
  match s.act? core ctx with
  | some a =>
    if a.fetches then .next ((s.setActAt core ctx a.newCycle).fetchN core ctx 4)
    else .next s
  | none => .next s

/-- X_RESULT_LAND: a pending write lands when no older one to the same place is left (02 R28, 05 R75, 13 R243). -/
def execXResultLand (core ctx idx : Nat) (s : State) : Out :=
  match s.act? core ctx with
  | none => .next s
  | some a => match a.pend[idx]? with
    | none => .next s
    | some p =>
      if (a.pend.take idx).any (fun q => q.dest.meets p.dest) then .next s
      else
        let b := ({ a with pend := a.pend.eraseIdx idx } : Activation).land p
        let s1 := s.setActAt core ctx b
        let c := s1.core core
        .next (s1.setCore core { c with csr := { c.csr with xflags := c.csr.xflags ||| p.flags } })

/-- ILLEGAL_INSTRUCTION: the head of the buffer that the word goes to is no instruction (03 R59 to R61). -/
def execIllegalInstruction (w : Nat) (s : State) : Out :=
  let h := if isXWord w then Half.x else Half.a
  dispatch h (fun t => .trap tILLEGAL_INSTRUCTION (((t.head h).reservedHint).getD w)) s

/-- The entries of OVERLAY and LOOP_END_ILLEGAL trap at the A head (06 R124, 21 R387). -/
def trapEntryTurn (s : State) : Out :=
  dispatch .a (fun t =>
    let e := t.head .a
    match e.kind with
    | .overlay => .trap tOVERLAY e.word.toNat
    | _ => .trap tLOOP_END_ILLEGAL 0) s

/-! ### QUEUE_STARVED (02 R20) -/

/-- The load queue that a source field pops or peeks, by its pop port. -/
def ldqPort (f : Nat) : Option Nat :=
  if f = 0x70 ∨ f = 0x78 then some 0x70 else if f = 0x71 ∨ f = 0x79 then some 0x71 else none

/-- Entries of SDQ that an A word pops (02 R20); those of a REP whose count is still to come are not known yet. -/
def sdqNeed (a : Activation) (w : Nat) : Nat :=
  match opcodeOf w with
  | 0x9B | 0x9C | 0x9D | 0xA0 => 1
  | 0xA6 => if bitAt w 4 && (a.reg (fld w 9 5)).wait == 0 && a.lo (fld w 9 5) != 0 then 1 else 0
  | 0xD6 | 0xF0 => 4
  | 0xF2 => if fld w 3 2 = 0 then 4 else 0
  | 0xE8 => 2
  | _ => 0

/-- An A word pops XAQ. -/
def xaqNeed (w : Nat) : Bool :=
  match opcodeOf w with
  | 0x90 | 0x97 | 0x9D | 0xB6 | 0xB7 => true
  | _ => false

/-- The load queues whose entries an X word lacks, by their pop port; the A field of a funnel shift pops none (02 R19). -/
def xLacks (a : Activation) (w : Nat) : List Nat :=
  let op := opcodeOf w
  let ra := if op = 0x26 ∨ op = 0x27 then some a else (a.readX 0 (fld w 7 7) 4).map (fun r => r.2)
  let la := if ra.isNone then (ldqPort (fld w 7 7)).toList else []
  let lb := if !(readsB op) then [] else match (ra.getD a).readX 0 (fld w 0 7) 4 with
    | none => (ldqPort (fld w 0 7)).toList
    | some _ => []
  la ++ lb

/-- The queues whose entries a head lacks, by their port codes (02 R20). A head that lacks entries of two queues names the
first of this list that starves: DESIGN CHOICE, log 68. -/
def lacks (a : Activation) (h : Half) (w : Nat) : List Nat :=
  match h with
  | .x => xLacks a w
  | .a => (if xaqNeed w && a.q.xaq.isEmpty then [0x73] else []) ++ (if a.q.sdq.length < sdqNeed a w then [0x72] else [])

/-- A word of the other half fills the queue with port code `q`. -/
def fills (q w : Nat) : Bool :=
  match q with
  | 0x72 | 0x73 => isXWord w && fld w 14 7 == q
  | _ =>
    (match opcodeOf w with
      | 0x8F | 0x96 | 0x97 | 0x9A | 0xD8 => true
      | 0xA6 => !(bitAt w 4)
      | _ => false) && fld w 19 5 == q - 0x70

/-- Something dispatched is still on its way to the queue. -/
def inFlight (a : Activation) (q : Nat) : Bool :=
  match q with
  | 0x70 => a.q.ldq0.any (fun e => e.wait != 0)
  | 0x71 => a.q.ldq1.any (fun e => e.wait != 0)
  | 0x72 => a.pendingTo .sdq != 0
  | _ => a.pendingTo .xaq != 0

def Half.other : Half → Half
  | .a => .x
  | .x => .a

/-- Conditions 1 to 3 of R20 for the head of a half; the port code when they hold. `l` holds the buffers and the fetch
state, `a` the queues: they differ for a follower of a gang (08 R150). -/
def starvedPort (l a : Activation) (h : Half) : Option Nat :=
  match (l.buf h).head? with
  | none => none
  | some e =>
    if e.kind != .word then none
    else
      let other := l.buf h.other
      let stopped := l.f.stop != .running || decide (8 ≤ (l.buf h).length)
      let stuck := match other.head? with
        | none => stopped
        | some o => o.kind == .word && !(lacks a h.other o.word.toNat).isEmpty
      (lacks a h e.word.toNat).find? (fun q =>
        !(inFlight a q) && !(other.any (fun o => o.kind == .word && fills q o.word.toNat)) && stuck)

/-- The port for which the head of a half met these conditions in the previous turn. -/
def Activation.lack (a : Activation) (h : Half) : Option Nat :=
  match h with
  | .a => a.flow.lackA
  | .x => a.flow.lackX

/-- The activation whose buffers an activation dispatches from: its own, or its gang's leader's. -/
def State.leaderOf (s : State) (a : Activation) : Activation :=
  match a.flow.gang with
  | some g => s.actAt g.leaderCore g.leaderCtx
  | none => a

/-- The head of a half is starved: the conditions hold, and did so a cycle before (02 R20); the port code. -/
def State.starvesAt (s : State) (a : Activation) (h : Half) : Option Nat :=
  match starvedPort (s.leaderOf a) a h with
  | some q => if (s.leaderOf a).mayDispatch h && a.lack h == some q then some q else none
  | none => none

/-- QUEUE_STARVED (02 R20), on an activation or a member of a gang (08 R151). -/
def execQueueStarved (core ctx half : Nat) (s : State) : Out :=
  let h := if half = 0 then Half.a else Half.x
  match s.act? core ctx with
  | none => .next s
  | some a => match s.starvesAt a h with
    | none => .next s
    | some q => .next ((s.focusOn core ctx).takeTrap h tQUEUE_STARVED q)

/-- The cycle's record of the conditions of R20, for the next one. -/
def State.noteLack (s : State) (a : Activation) : Activation :=
  { a with flow := { a.flow with lackA := starvedPort (s.leaderOf a) a .a, lackX := starvedPort (s.leaderOf a) a .x } }

/-- The oldest word that a drain still waits for lacks entries of a queue to which nothing is in flight: only the trapping
word, or a younger one, fills it (10 R184). -/
def Activation.drainStuck (a : Activation) : Bool :=
  match a.flow.status with
  | .draining h seq => match (a.buf h.other).head? with
    | some e => decide (e.seq < seq) && e.kind == .word && (lacks a h.other e.word.toNat).any (fun q => !(inFlight a q))
    | none => false
  | _ => false

/-- The drain of a trap is over: no older word is left in the other half, or the oldest has been starved for two turns
(10 R184). -/
def Activation.drained (a : Activation) : Bool :=
  match a.flow.status with
  | .draining h seq => decide (2 ≤ a.flow.starved) || !((a.buf h.other).any (fun e => decide (e.seq < seq)))
  | _ => false

end Sys2Proof.Machine
end

