-- ==== Sys2Proof/Machine/Deliver.lean ====
section
/-! DEFINITION. Messages on their way (08 R137, R139; 09 R168; 22 R409), admission with the lottery (08 R140 to R142),
claims and copying out (10 R194, R195, R197), restoring (10 R196), parking and trap activations (10 R184, R188, R189). -/

namespace Sys2Proof.Machine

/-! ### Departure and arrival -/

/-- The route to another package is down. Link `p mod 12` carries package `p`: DEDUCED, log 20. -/
def State.routeDown (s : State) (pkg : Nat) : Bool :=
  pkg != Config.package && !(bitAt s.platform.link.toNat (pkg % 12))

/-- OUTBOUND_DEPART: the oldest message of the outbound buffer enters the network; STIME is the time at which it does
(08 R135). On a route that is down it is discarded with a fault message (09 R168); a command of SENDE has no header, and its
target word stands for one: DESIGN CHOICE, log 77. -/
def execOutboundDepart (core : Nat) (s : State) : Out :=
  let c := s.core core
  match c.outbound with
  | [] => .next s
  | (_, o) :: rest =>
    let s1 := s.setCore core { c with outbound := rest }
    match o with
    | .toCore m =>
      let h := BitVec.ofNat 64 (putFld m.header.toNat 52 12 (fld s.ns 4 12))
      let m1 := { m with header := h }
      if s.routeDown m1.dpkg then
        .next (s1.faultMessage (.core core) 0 (some m1.region) tLINK_DOWN 2 0x1FFF 0 0 h.toNat 0)
      else .next ((s1.sendMessage (.core core) m1).trace core m1.sctx 5 h.toNat)
    | .toEngine pkg clu ctxId x =>
      if s.routeDown pkg then
        .next (s1.faultMessage (.core core) 0 (some x.region) tLINK_DOWN 2 0x1FFF 0 0
          (ctxId + 2 ^ 8 * clu + 2 ^ 16 * pkg) 0)
      else if pkg = Config.package then .next (s1.send (.core core) (.engine clu ctxId) (.command x))
      else .next (s1.emit (.command pkg clu ctxId x))

/-- A refused message: ACCESS with its header goes to the region that owns the core (08 R139). -/
def State.refuse (s : State) (core : Nat) (m : Message) : State :=
  s.faultMessage (.home (.lm core)) (core / 32 * 32) (s.ownerRegion (core / 32)) tACCESS 2 core 0 0 m.header.toNat 0

/-- The handler entry that a message names, when it may be admitted by it (08 R139). -/
def State.entryFor (s : State) (core : Nat) (m : Message) : Option Nat :=
  let e := s.handler core m.hid
  if m.hid != 0 && handlerOk e then some e else none

/-- A message is queued at a core: WFI lets go of the A heads there, and one dispatched later in this cycle does so at once
(09 R180). -/
def State.wakeWfi (s : State) (core : Nat) : State :=
  let c := s.core core
  s.setCore core { c with queued := some s.clock, acts := c.acts.map (fun e => (e.1, { e.2 with flow := { e.2.flow with wfi := false } })) }

/-- A message is queued in the inbox that its entry names, or refused; none when that inbox is full (08 R137, R139). -/
def State.deliver (s : State) (core : Nat) (m : Message) : Option State :=
  if (s.physOf core).failed then some (s.refuse core m)
  else
    let s1 := s.touch m.region (lmBase core) false
    match s1.entryFor core m with
    | none => some (s1.refuse core m)
    | some e =>
      let c := s1.core core
      let q := Sparse.get [] c.iq (hInbox e)
      if 32 ≤ q.length then none
      else some ((s1.setCore core
        { c with iq := Sparse.set [] c.iq (hInbox e) (q ++ [{ m with arrivedNs := s.ns }]) }).wakeWfi core)

/-- A message waits at the ingress of a cluster: behind those of its region already there, or for its region (22 R409). The
cluster refuses a message to a failed core at once (08 R139). -/
def State.ingressWaits (s : State) (core : Nat) (m : Message) : Bool :=
  let cl := s.cluster (core / 32)
  !(s.physOf core).failed &&
    (cl.holder != some m.region || cl.ingress.any (fun x => x.1 == core && x.2.region == m.region))

/-- The first message at an ingress that its region's hold lets in: the first of its region for its core, whatever waits
there for other regions (22 R409). -/
def State.ingressTake (s : State) (g : Nat) (seen : List (Nat × Message)) : List (Nat × Message) → Option State
  | [] => none
  | x :: rest =>
    let first := !(seen.any (fun y => y.1 == x.1 && y.2.region == x.2.region))
    if (s.cluster g).holder == some x.2.region && first then
      match s.deliver x.1 x.2 with
      | some t =>
        let cl := t.cluster g
        some (t.setCluster g { cl with ingress := seen.reverse ++ rest })
      | none => s.ingressTake g (x :: seen) rest
    else s.ingressTake g (x :: seen) rest

/-- The messages of a region at an ingress. -/
def Cluster.waiting (c : Cluster) (region : Nat) : Nat := (c.ingress.filter (fun x => x.2.region == region)).length

/-- MESSAGE_ARRIVAL: the packet at a place of the list reaches its core, or its cluster's ingress; a place behind the
list's end names a cluster whose ingress lets a message in. -/
def execMessageArrival (idx : Nat) (s : State) : Out :=
  match s.net[idx]? with
  | none =>
    let g := idx - s.net.length
    .next ((s.ingressTake g [] (s.cluster g).ingress).getD s)
  | some q => match q.body, q.dst with
    | .message m, .lm core =>
      if !(s.arrived q) then .next s
      else if s.ingressWaits core m then
        let cl := s.cluster (core / 32)
        if 64 ≤ cl.waiting m.region then .next s
        else .next ((s.dropPacket q.id).setCluster (core / 32) { cl with ingress := cl.ingress ++ [(core, m)] })
      else match s.deliver core m with
        | some t => .next (t.dropPacket q.id)
        | none => .next s
    | .message m, .pkg _ => if s.arrived q then .next ((s.dropPacket q.id).emit (.message m)) else .next s
    | _, _ => .next s

/-! ### Claims (10 R194, R195) -/

/-- A victim with a claimed part waits to be copied out. -/
def Status.claimed : Status → Bool
  | .victim w c _ => w || c
  | _ => false

def Core.claimPending (c : Core) : Bool := c.acts.any (fun e => e.2.flow.status.claimed)

/-- Activations of the region may be admitted and run on the core's cluster (22 R409). -/
def State.mayRun (s : State) (core region : Nat) : Bool :=
  match (s.cluster (core / 32)).holder with
  | some h => h == region
  | none => (s.region? region).isNone

/-- Storage of this activation may be claimed: by an IQ0 head or trap activation when it was admitted from IQ1 to IQ3, and
by anyone when its region has lost the cluster. -/
def State.claimable (s : State) (core : Nat) (urgent : Bool) (except : Option Nat) (a : Activation) : Bool :=
  some a.info.id != except && a.flow.gang.isNone &&
    (!(s.mayRun core a.info.region) || (urgent && !a.urgent))

/-- The youngest of a list of contexts with their activations, by admission. -/
def youngest : List (Nat × Activation) → Option (Nat × Activation)
  | [] => none
  | x :: rest => match youngest rest with
    | none => some x
    | some y => if x.2.info.admitted ≤ y.2.info.admitted then some y else some x

/-- How an activation stands, for the day it goes on. -/
def Status.stand : Status → Stand
  | .running => .running
  | .draining h q => .draining h q
  | .parked pc => .parked pc
  | .victim _ _ was => was

/-- An activation stops at once, with parts of it claimed. -/
def Activation.claim (a : Activation) (w c : Bool) : Activation :=
  let st := a.flow.status
  match st with
  | .victim w0 c0 was => { a with flow := { a.flow with status := .victim (w0 || w) (c0 || c) was } }
  | _ => { a with flow := { a.flow with status := .victim w c st.stand } }

/-- The windows that stand in the slice file and may not be claimed. -/
def State.fixedWindows (s : State) (core : Nat) (ok : Activation → Bool) : List (Nat × Nat) :=
  let c := s.core core
  (c.acts.filter (fun e => !(ok e.2))).map (fun e => (e.2.info.winBase, e.2.info.winSize)) ++
    (c.saved.filter (fun v => !v.winOut && !(ok v.act))).map (fun v => (v.act.info.winBase, v.act.info.winSize))

/-- The rest of a victim that was copied out with its window alone goes to its record: its context is claimed now. -/
def State.takeSavedContext (s : State) (core ctx : Nat) : State :=
  let c := s.core core
  let hit (v : Saved) : Bool := !v.ctxOut && v.ctx == ctx
  let r := Sparse.get ({} : TrapRec) c.trapRecs ctx
  let s1 := (c.saved.filter hit).foldl (fun (t : State) (v : Saved) => match s.recordIn v.act.info.region core v.ctx with
    | some pa => (t.touch v.act.info.region (lmBase core + 0x800) false).writeContext pa core ctx v.act r
    | none => t) s
  s1.setCore core { s1.core core with
    saved := (s1.core core).saved.map (fun v => if hit v then { v with ctxOut := true, record := r } else v) }

/-- The window of a copied-out activation that still stands in the slice file goes to its record at once: it dispatches
nothing. -/
def State.takeSavedWindow (s : State) (core base n : Nat) : State :=
  let c := s.core core
  let hit (v : Saved) : Bool := !v.winOut && overlaps base n v.act.info.winBase v.act.info.winSize
  let s1 := (c.saved.filter hit).foldl (fun (t : State) (v : Saved) => match s.recordIn v.act.info.region core v.ctx with
    | some pa => t.writeWindow pa v.act
    | none => t) s
  s1.setCore core { c with saved := c.saved.map (fun v => if hit v then { v with winOut := true } else v) }

/-- Mark what a window of `n` slices at `base`, and the context `ctx` when none is free, takes. -/
def State.markVictims (s : State) (core : Nat) (ok : Activation → Bool) (ctx : Option Nat) (base n : Nat) : State :=
  let c := s.core core
  let s1 := s.setCore core { c with acts := c.acts.map (fun e =>
    let w := ok e.2 && overlaps base n e.2.info.winBase e.2.info.winSize
    let x := ctx == some e.1
    if w || x then (e.1, e.2.claim w x) else e) }
  let s2 := s1.takeSavedWindow core base n
  match ctx with
  | some k => s2.takeSavedContext core k
  | none => s2

/-- The activation is a member of this gang. -/
def Activation.memberOf (g : Gang) (a : Activation) : Bool :=
  a.flow.gang.any (fun h => h.leaderCore == g.leaderCore && h.leaderCtx == g.leaderCtx)

/-- Every member of a gang that is resident stops and is claimed whole (10 R195). -/
def State.claimGang (s : State) (g : Gang) : State :=
  (s.gangMembers g).foldl (fun (t : State) (m : Nat × Nat) => match t.act? m.1 m.2 with
    | some a => if a.memberOf g then t.setActAt m.1 m.2 (a.claim true true) else t
    | none => t) s

/-- The budget of slices allows `n` more once the claimed windows of the region are gone (22 R400). -/
def State.budgetAfter (s : State) (core region n : Nat) (gone : Activation → Bool) : Bool :=
  match s.region? region with
  | some r =>
    let freed := (((s.core core).acts.filter (fun e => e.2.info.region == region && gone e.2)).map
      (fun e => e.2.info.winSize)).foldl (· + ·) 0
    decide ((s.core core).slicesOf region + n ≤ r.eff.slices.toNat + freed)
  | none => true

/-- CLAIM storage for a window of `n` slices (10 R194): the state with the victims marked, or none when nothing can be
claimed. With a free context only windows are claimed, and with no place among what may be claimed, nothing: DESIGN CHOICE,
log 89. -/
def State.claimFor (s : State) (core region n : Nat) (urgent : Bool) (except : Option Nat) : Option State :=
  let c := s.core core
  let ok := s.claimable core urgent except
  let parts := c.saved.filter (fun v => ok v.act)
  let ctxs := c.acts.filter (fun e => ok e.2) ++ (parts.filter (fun v => !v.ctxOut)).map (fun v => (v.ctx, v.act))
  if c.lock.isSome then none
  else if (c.freeCtx.isNone && ctxs.isEmpty) || (ctxs.isEmpty && parts.all (fun v => v.winOut)) then
    if !urgent then none
    else match youngest (c.acts.filter (fun e => e.2.flow.gang.isSome && !e.2.urgent)) with
      | some (_, a) => a.flow.gang.map (fun g => s.claimGang g)
      | none => none
  else
    let ctx := match c.freeCtx with
      | some _ => none
      | none => (youngest ctxs).map (fun e => e.1)
    match placeWindow (s.fixedWindows core ok) n with
    | none => none
    | some base =>
      let gone (a : Activation) : Bool := ok a && overlaps base n a.info.winBase a.info.winSize
      if s.budgetAfter core region n gone then some (s.markVictims core ok ctx base n) else none

/-- Storage that is free now: a context and a window within the budget (08 R141, 22 R400). -/
def State.freeStorage (s : State) (core region n : Nat) : Option (Nat × Nat) :=
  let c := s.core core
  match c.freeCtx, placeWindow c.windows n with
  | some ctx, some base => if s.slicesAllow core region n then some (ctx, base) else none
  | _, _ => none

/-! ### Admission (08 R140 to R142, R144) -/

/-- The messages of an inbox that may be admitted: those of the holder. -/
def State.admissible (s : State) (core i : Nat) : List Message :=
  let h := (s.cluster (core / 32)).holder
  (Sparse.get [] (s.core core).iq i).filter (fun m => h == some m.region)

/-- Take the first message that may be admitted out of an inbox. -/
def dropFirst (p : Message → Bool) : List Message → List Message
  | [] => []
  | m :: rest => if p m then rest else m :: dropFirst p rest

def State.popInbox (s : State) (core i : Nat) : State :=
  let c := s.core core
  let h := (s.cluster (core / 32)).holder
  s.setCore core { c with
    iq := Sparse.set [] c.iq i (dropFirst (fun m => h == some m.region) (Sparse.get [] c.iq i)) }

/-- The generator step of a draw (08 R142). -/
def lotStep (x : BitVec 32) : BitVec 32 :=
  let a := x ^^^ (x <<< 13)
  let b := a ^^^ (a >>> 17)
  b ^^^ (b <<< 5)

/-- The member of a list whose interval holds `v`; the intervals are as long as the tickets (08 R142). -/
def ticketAt (v : Nat) : List (Nat × Nat) → Option Nat
  | [] => none
  | (i, t) :: rest => if v < t then some i else ticketAt (v - t) rest

/-- A draw among members with tickets: the winner, for a generator that has been stepped to `x`. -/
def drawWinner (x : BitVec 32) (l : List (Nat × Nat)) : Option Nat :=
  let total := (l.map (fun e => e.2)).foldl (· + ·) 0
  if total = 0 then (l.head?).map (fun e => e.1) else ticketAt (x.toNat * total / 2 ^ 32) l

/-- TICKETS of an inbox. -/
def Csrs.tickets (c : Csrs) (i : Nat) : Nat :=
  match i with
  | 1 => c.t1.toNat
  | 2 => c.t2.toNat
  | _ => c.t3.toNat

/-- The selection of an inbox among IQ1 to IQ3, with a draw when two or more hold messages (08 R140). -/
def State.selectInbox (s : State) (core : Nat) : State :=
  let c := s.core core
  let e := [1, 2, 3].filter (fun i => !((s.admissible core i).isEmpty))
  match e with
  | [] => s.setCore core { c with selected := none }
  | [i] => s.setCore core { c with selected := some i }
  | _ =>
    let x := lotStep c.csr.lot
    s.setCore core { c with csr := { c.csr with lot := x }, selected := drawWinner x (e.map (fun i => (i, c.csr.tickets i))) }

/-- Admit the head of an inbox, refuse it, or claim storage for it; otherwise it waits. -/
def State.admitHead (s : State) (core i : Nat) (urgent : Bool) : State :=
  match s.admissible core i with
  | [] => s
  | m :: _ =>
    let s0 := s.touch m.region (lmBase core) false
    match s0.entryFor core m with
    | none =>
      let s1 := s0.popInbox core i
      (s1.setCore core { s1.core core with selected := none }).refuse core m
    | some e =>
      let n := 16 * (hWin e + 1)
      match s0.freeStorage core m.region n with
      | some (ctx, base) =>
        let s1 := s0.popInbox core i
        (s1.setCore core { s1.core core with selected := none }).install core ctx (newActivation s1 e m i base none)
      | none => (s0.claimFor core m.region n urgent none).getD s

/-- A copied-out activation that may be restored: the first whose region holds the cluster (10 R196). -/
def State.nextSaved (s : State) (core : Nat) : Option Saved :=
  (s.core core).saved.find? (fun v => s.mayRun core v.act.info.region)

/-- The first parked activation that awaits its trap activation and whose region may run (10 R188). -/
def State.nextParked (s : State) (core : Nat) : Option Nat :=
  (s.core core).parked.find? (fun id => match s.actById core id with
    | some a => s.mayRun core a.info.region
    | none => false)

/-- A core of a gang that a hint sequence under way is about to form: what GANG has found free there stays so (03 R49). -/
def State.gangReserved (s : State) (core : Nat) : Bool :=
  s.cores.any (fun k => k.1 / 32 == core / 32 && decide (k.1 ≤ core) && match k.2.lock with
    | some ctx => (s.act? k.1 ctx).any (fun a => match a.f.abuf with
        | e :: _ => decide (0 < e.taken) && opcodeOf e.word.toNat == 0xC4 && decide (core < k.1 + fld e.word.toNat 0 14)
        | [] => false)
    | none => false)

/-- A gated cluster wakes; its cores' clocks have stood still (06 R119, 23 R421). -/
def State.wake (s : State) (g : Nat) : State :=
  match (s.cluster g).gated with
  | none => s
  | some t =>
    let s1 := s.setCluster g { s.cluster g with gated := none, slept := (s.cluster g).slept + (s.clock - t) }
    (upTo 32).foldl (fun (u : State) i =>
      let p := u.physOf (32 * g + i)
      u.setPhys (32 * g + i) { p with cycBase := p.cycBase + BitVec.ofNat 64 (s.clock - t) }) s1

/-- A message of the holder waits in an inbox of the core. -/
def State.anyAdmissible (s : State) (core : Nat) : Bool := [0, 1, 2, 3].any (fun i => !((s.admissible core i).isEmpty))

/-- ADMISSION (08 R140): behind parked activations and claims in progress; IQ0 first, then a standing selection. A gated
cluster wakes first when a message is to be admitted (23 R421). -/
def execAdmission (core : Nat) (s : State) : Out :=
  let s := if s.anyAdmissible core then s.wake (core / 32) else s
  let c := s.core core
  if (s.physOf core).failed || c.claimPending || (s.nextParked core).isSome || s.gangReserved core then .next s
  else if !((s.admissible core 0).isEmpty) then
    .next ((s.setCore core { c with selected := none }).admitHead core 0 true)
  else if (s.nextSaved core).isSome then .next s
  else
    let stands := match c.selected with
      | some i => !((s.admissible core i).isEmpty)
      | none => false
    let s1 := if stands then s else if c.freeCtx.isSome then s.selectInbox core else s
    match (s1.core core).selected with
    | some i => .next (s1.admitHead core i false)
    | none => .next s1

/-! ### Copying out and restoring (10 R194 to R197) -/

/-- The scope of the acknowledgements that a word at the A head awaits: a fence or a release, JARRIVE, STREL, or EVSIG with a
scope (06 R128, 09 R181). -/
def awaitedScope (w : Nat) : Option Nat :=
  let op := opcodeOf w
  if op == 0xA3 then (if fld w 6 3 == 0 then none else some (fld w 0 3))
  else if op == 0xA4 || op == 0xC3 then some (fld w 0 3)
  else if op == 0xC7 then some 3
  else if op == 0xA1 || op == 0xA2 then (if bitAt w 3 then some (fld w 0 3) else none)
  else if decide (0x9B ≤ op) && decide (op ≤ 0x9F) && fld w 3 2 == 1 then some (fld w 0 3)
  else if op == 0xCE && fld w 5 3 != 0 then some (fld w 5 3)
  else none

/-- The scope that the A head of an activation awaits; a gang's head is its leader's. -/
def State.headScope (s : State) (a : Activation) : Option Nat :=
  match (s.frontOf a).abuf with
  | e :: _ => if e.kind == .word then awaitedScope e.word.toNat else none
  | [] => none

/-- The acknowledgements that the A head awaits have arrived; data of loads is not among them (06 R128, 10 R197). At SYSTEM
scope the combined writes of the cluster have been sent and acknowledged too (12 R226). -/
def State.headAcked (s : State) (core : Nat) (a : Activation) : Bool :=
  match s.headScope a with
  | none => true
  | some p => !(s.accs.any (fun x => x.act == a.info.id && x.within p && !x.kind.isLoad)) &&
      (p != 5 || ((s.cluster (core / 32)).wc.isEmpty && !(s.wcInFlight (core / 32))))

/-- A head that awaits SYSTEM scope has the write-combining buffers of its cluster sent (12 R226). -/
def State.mustFlush (s : State) (core : Nat) (a : Activation) : Bool :=
  s.headScope a == some 5 && !((s.cluster (core / 32)).wc.isEmpty)

/-- The victim's class releases it (10 R197). -/
def State.victimReleased (s : State) (core : Nat) (a : Activation) : Bool :=
  a.pend.isEmpty && s.headAcked core a && !(s.accs.any (fun x => x.act == a.info.id && match x.kind with
    | .amo _ _ _ _ | .amocas _ _ _ _ | .strel _ => true
    | _ => false))

/-- What a stop does to an activation: WFI counts as completed (09 R181), an access that waits for its walk is taken back
(10 R186), and a chunk that has not come is sent again (06 R116). -/
def Activation.stop (a : Activation) : Activation :=
  let b := { a with flow := { a.flow with wfi := false } }
  match b.flow.walk with
  | some x => b.takeBack x
  | none => b

def AccKind.isChunk : AccKind → Bool
  | .chunk _ _ _ _ => true
  | _ => false

/-- The claimed parts of a released victim go to its record: the window, and its other state. -/
def State.copyOut (s0 : State) (core ctx : Nat) (a : Activation) (w c : Bool) (was : Stand) : State :=
  let s := s0.returnWalk a
  let chunks := s.accs.filter (fun x => x.act == a.info.id && x.kind.isChunk)
  let b := chunks.foldl (fun (t : Activation) (x : Access) => t.unhold x.id) a.stop
  let s1 : State := { s with accs := s.accs.map (fun (x : Access) =>
    if chunks.any (fun y => y.id == x.id) then { x with ghost := true } else x) }
  let r := Sparse.get {} (s.core core).trapRecs ctx
  let b1 := { b with flow := { b.flow with status := .victim false false was } }
  let s2 := match s.recordIn a.info.region core ctx with
    | some pa =>
      let t := if w then s1.writeWindow pa b1 else s1
      if c then (t.touch a.info.region (lmBase core + 0x800) false).writeContext pa core ctx b1 r else t
    | none => s1
  let cr := s2.core core
  s2.setCore core { cr with
    acts := Sparse.drop ctx cr.acts
    saved := cr.saved ++ [{ act := b1, record := r, ctx := ctx, winOut := w, ctxOut := c }] }

/-- COPY_OUT: the claimed part of a released victim goes to its record. One whose record lies in a retired block meets an
uncorrectable error (10 R191, 23 R427). -/
def execCopyOut (core ctx : Nat) (s : State) : Out :=
  match s.act? core ctx with
  | none => .next s
  | some a => match a.flow.status with
    | .victim w c was =>
      if !(w || c) then .next s
      else if s.mustFlush core a then .next (s.wcFlush (core / 32))
      else if !(s.victimReleased core a) then .next s
      else match s.recordLost a.info.region core ctx with
        | some pa => .next (s.uncorrectable core a.info.id a.info.region pa pa)
        | none => .next (s.copyOut core ctx a w c was)
    | _ => .next s

/-- A restored gang leader has a new context: its members name it (08 R149). -/
def Activation.newLeader (core ctx new : Nat) (a : Activation) : Activation :=
  match a.flow.gang with
  | some g =>
    if g.leaderCore = core ∧ g.leaderCtx = ctx then
      { a with flow := { a.flow with gang := some { g with leaderCtx := new } } }
    else a
  | none => a

def State.renameLeader (s : State) (core ctx new : Nat) : State :=
  (upTo 8).foldl (fun (t : State) i =>
    let k := core + i
    let c := t.core k
    if c.acts.isEmpty && c.saved.isEmpty then t
    else t.setCore k { c with
      acts := c.acts.map (fun e => (e.1, e.2.newLeader core ctx new))
      saved := c.saved.map (fun v => { v with act := v.act.newLeader core ctx new }) }) s

/-- The copied-out activation takes its place again: what was copied out is read back from its record (10 R196). -/
def State.restoreAct (s0 : State) (core ctx base : Nat) (v : Saved) : State :=
  let pa := (s0.recordPa v.act.info.region core v.ctx).getD 0
  let s := s0.useRange pa 0x900
  let a := s.savedAct core v
  let win := if v.winOut then BitVec.ofNat 448 (s.natAt (pa + 0x40) 56) else a.win
  let st := match a.flow.status with
    | .victim _ _ was => was.status
    | x => x
  let b := { a with win := win, info := { a.info with winBase := base }, flow := { a.flow with status := st } }
  let c := s.core core
  let s1 := s.setCore core { c with
    acts := Sparse.put c.acts ctx b
    saved := c.saved.filter (fun x => x.act.info.id != v.act.info.id)
    trapRecs := Sparse.set {} c.trapRecs ctx (s.savedRecord core v) }
  let lead := match v.act.flow.gang with
    | some g => g.lane == 0
    | none => false
  let s2 := if lead then s1.renameLeader core v.ctx ctx else s1
  if v.ctxOut then
    (s2.touch a.info.region (lmBase core + 0x800) true).putBytes (lmBase core + 0x800 + 256 * ctx) (s.bytesAt (pa + 0x800) 256)
  else s2

/-- ACTIVATION_RESTORE: with IQ0 empty, the first copied-out activation takes free storage (10 R196), or ends when its record
lies in a retired block (10 R191, 23 R427). On a core that has failed without a spare nothing is restored (23 R424). -/
def execActivationRestore (core : Nat) (s : State) : Out :=
  let c := s.core core
  if !((s.admissible core 0).isEmpty) || c.claimPending || (s.physOf core).failed || s.gangReserved core then .next s
  else match s.nextSaved core with
    | none => .next s
    | some v =>
      let n := (s.savedAct core v).info.winSize
      let ctx := if v.ctxOut then c.freeCtx else some v.ctx
      let base := if v.winOut then placeWindow c.windows n else some v.act.info.winBase
      match ctx, base with
      | some x, some b =>
        if v.winOut && !(s.slicesAllow core v.act.info.region n) then .next s
        else match s.recordLost v.act.info.region core v.ctx with
          | some pa => .next (s.uncorrectable core v.act.info.id v.act.info.region pa pa)
          | none => .next (s.restoreAct core x b v)
      | _, _ => .next s

/-! ### Parking, trap activations, forwarding (10 R184, R188, R189) -/

/-- Entry 0 is usable (10 R188). -/
def State.trapEntry (s : State) (core : Nat) : Option Nat :=
  let e := s.handler core 0
  if handlerOk e && hPriv e then some e else none

/-- The trap of an activation is forwarded to the fault domain of the region that owns the core, and the activation ends
as by ERET.END (10 R189). -/
def State.forwardTrap (s : State) (core id : Nat) : State :=
  let r := s.recordOf core id
  let s1 := s.faultMessageAt r.ns (.core core) core (s.ownerRegion (core / 32)) r.cause.toNat 0 core r.ctx.toNat 0
    r.val.toNat r.pc.toNat
  s1.endById core id

/-- The drained activation parks while the trap entry is usable; otherwise its trap is forwarded. -/
def State.parkOrForward (core ctx : Nat) (a : Activation) (s : State) : State :=
  if (s.trapEntry core).isNone then s.forwardTrap core a.info.id
  else
    let pc := (Sparse.get ({} : TrapRec) (s.core core).trapRecs ctx).pc
    let s1 := s.setActAt core ctx { a with flow := { a.flow with status := .parked pc } }
    let c := s1.core core
    s1.setCore core { c with parked := c.parked ++ [a.info.id] }

/-- ACTIVATION_PARK: the drain is over; the activation parks, or its trap is forwarded. The read of entry 0 is an access of
the activation's region (10 R199). -/
def execActivationPark (core ctx : Nat) (s : State) : Out :=
  match s.act? core ctx with
  | none => .next s
  | some a =>
    if !a.drained then .next s
    else if a.info.serves.isSome then .next (s.forwardTrap core a.info.id)
    else .next (State.parkOrForward core ctx a (s.touch a.info.region (lmBase core) false))

/-- The message that starts a trap activation (10 R188). -/
def State.trapMessage (s : State) (core region : Nat) (r : TrapRec) : Message :=
  { header := mkHeader s core Config.package 0 core Config.package 32 0 2
    payload := faultPayload r.ns r.cause.toNat 0 core r.ctx.toNat 0 r.val.toNat r.pc.toNat
    region := region, arrivedNs := s.ns }

/-- The activation `id`, a parked one, is served: by a trap activation in free storage, by a claim, or by forwarding. On a core
that has failed without a spare no activation starts, and the trap is forwarded: DESIGN CHOICE, log 86. -/
def State.serveParked (core id : Nat) (a : Activation) (s : State) : State :=
  let c := s.core core
  match (s.trapEntry core).filter (fun _ => !(s.physOf core).failed) with
  | none => s.forwardTrap core id
  | some e =>
    let n := 16 * (hWin e + 1)
    match s.freeStorage core a.info.region n with
    | some (ctx, base) =>
      let m := s.trapMessage core a.info.region (s.recordOf core id)
      let s1 := s.setCore core { c with parked := c.parked.filter (fun i => i != id) }
      s1.install core ctx (newActivation s1 e m 4 base (some id))
    | none => match s.claimFor core a.info.region n true (some id) with
      | some t => t
      | none => if c.lock.isSome then s else s.forwardTrap core id

/-- TRAP_ACTIVATION_START: the activation that parked first is served. The read of entry 0 is an access of its region
(10 R199). -/
def execTrapActivationStart (core : Nat) (s : State) : Out :=
  if (s.core core).claimPending || s.gangReserved core then .next s
  else match s.nextParked core with
    | none => .next s
    | some id => match s.actById core id with
      | none => .next s
      | some a => .next (State.serveParked core id a (s.touch a.info.region (lmBase core) false))

end Sys2Proof.Machine
end

