-- ==== Sys2Proof/Machine/Engine.lean ====
section
/-! DEFINITION. What the four engine classes share: issuing commands (12 R218, R220; 08 R161), reading and writing memory
(12 R221, R229, R232), pins, faults and parking (10 R192), resuming and abandoning, performing (12 R219), stopping for
pre-emption (10 R198), and the signal box that starts armed commands (08 R157 to R161). -/

namespace Sys2Proof.Machine

/-! ### Contexts -/

/-- The engine context whose port a word of the A-half uses (03 R61). -/
def namedPort (w : Nat) : Option Nat :=
  match opcodeOf w with
  | 0xD2 | 0xD3 | 0xD4 | 0xD5 | 0xD7 | 0xD9 => some (32 + fld w 0 2)
  | 0xE9 | 0xEA | 0xEB | 0xEC => some (96 + fld w 0 2)
  | 0xF0 => some (fld w 0 3)
  | 0xF2 => if fld w 3 2 = 0 then some (fld w 0 3) else none
  | _ => none

/-- The engine context that the target of a hint sequence reserves: the next entry of its port, or the idle context that it acts on
(03 R49, R61; 15 R290; 16 R317; 17 R342; 18 R348). -/
def reservedCtx (w : Nat) : Option Nat :=
  let chain := some (64 + fld w 0 2)
  match opcodeOf w with
  | 0xE0 | 0xE4 => chain
  | 0xE1 => if fld w 2 7 = 0 then chain else none
  | 0xE2 => if fld w 2 2 = 0 then chain else none
  | 0xD1 => if fld w 2 12 = 0 then some (32 + fld w 0 2) else none
  | 0xE8 => some (96 + fld w 0 2)
  | _ => namedPort w

/-- A hint sequence of another core of the cluster has reserved an engine context (03 R49, R61); `mine` are the cores that ask
together. -/
def State.portTaken (s : State) (clu id : Nat) (mine : List Nat) : Bool :=
  s.cores.any (fun e => e.1 / 32 == clu && !(mine.contains e.1) && match e.2.lock with
    | some ctx => (s.act? e.1 ctx).any (fun a => match a.f.abuf with
        | h :: _ => decide (0 < h.taken) && reservedCtx h.word.toNat == some id
        | [] => false)
    | none => false)

/-- The core in focus, and the core that leads its gang. -/
def State.asking (s : State) : List Nat :=
  s.focus.core :: (match s.cur.flow.gang with
    | some g => [g.leaderCore]
    | none => [])

def State.eng (s : State) (clu id : Nat) : EngCtx := Sparse.get {} (s.cluster clu).eng id

def State.setEng (s : State) (clu id : Nat) (x : EngCtx) : State :=
  let cl := s.cluster clu
  s.setCluster clu { cl with eng := Sparse.set {} cl.eng id x }

def State.setTimeline (s : State) (clu id : Nat) (t : Timeline) : State :=
  let cl := s.cluster clu
  s.setCluster clu { cl with tl := Sparse.set {} cl.tl id t }

/-- The signal-box line of a context (08 R157). -/
def engLine (id : Nat) : Nat :=
  match id / 32 with
  | 0 => id % 32
  | 1 => 8 + id % 32
  | 2 => 12 + id % 32
  | _ => 16 + id % 32

/-- The operation at the head of the queue has begun. -/
def EngCtx.busy (x : EngCtx) : Bool := x.run != .idle

def EngCtx.anyArmed (x : EngCtx) : Bool := x.queue.any (fun c => c.armed)

/-- The queue of eight takes one more command, armed or not (14 R262). -/
def EngCtx.takes (x : EngCtx) (arm : Bool) : Bool := decide (x.queue.length < 8) && !(arm && x.anyArmed)

/-- No other core's hint sequence has reserved the context. -/
def State.ctxFree (s : State) (id : Nat) : Bool := !(s.portTaken s.curClu id s.asking)

/-- The port of a context takes a command of the activation in focus. -/
def State.portTakes (s : State) (id : Nat) (arm : Bool) : Bool :=
  (s.eng s.curClu id).takes arm && s.ctxFree id

/-- The operation at the head, when it has begun and goes on. -/
def EngCtx.current (x : EngCtx) : Option EngCmd :=
  match x.run, x.queue with
  | .running, c :: _ => some c
  | _, _ => none

/-- The operation at the head, begun or not. -/
def EngCtx.head (x : EngCtx) : Option EngCmd := x.queue.head?

/-! ### The signal box: outputs and targets (08 R160, R161) -/

/-- A context id, or an encoder stream slot, that an output may name (08 R160). -/
def sbTargetOk (t : Nat) : Bool := contextOk t || (t / 32 == 4 && decide (t % 32 < 8))

/-- An output at the target has a firing that waits. -/
def SignalBox.pendingAt (b : SignalBox) (target : Nat) : Option Nat :=
  (upTo 32).find? (fun k =>
    let o := Sparse.get ({} : SbOutput) b.outs k
    o.pending && o.target.toNat == target)

def SignalBox.setOut (b : SignalBox) (k : Nat) (o : SbOutput) : SignalBox := { b with outs := Sparse.set {} b.outs k o }

/-- A command armed at a target with a firing that waits starts at once (08 R161): the box without it, and whether there
was one. Of several outputs with this target the lowest-numbered is served: DESIGN CHOICE, log 88. -/
def State.takeFiring (s : State) (clu target : Nat) : Option State :=
  let cl := s.cluster clu
  (cl.sb.pendingAt target).map (fun k =>
    let o := Sparse.get {} cl.sb.outs k
    s.setCluster clu { cl with sb := cl.sb.setOut k { o with pending := false } })

/-! ### Issuing (12 R218, R220) -/

/-- The stores and atomics of an activation that are not acknowledged. -/
def State.unacked (s : State) (act : Nat) : List Nat :=
  (s.accs.filter (fun x => x.act == act && x.kind.isStore)).map (fun x => x.id)

/-- A command takes the next issue number of its context and enters the queue. -/
def State.issueEng (s : State) (clu id core region : Nat) (arm : Bool) (waits : List Nat) (w : Work) : State × Nat :=
  let t := s.timeline clu id
  let n := (t.issued + 1).toNat
  let s1 := s.setTimeline clu id { t with issued := t.issued + 1 }
  let r := if arm then (match s1.takeFiring clu id with
    | some u => (u, false)
    | none => (s1, true)) else (s1, false)
  let x := r.1.eng clu id
  (r.1.setEng clu id { x with queue := x.queue ++
    [{ issue := n, core := core, region := region, armed := r.2, waits := waits, work := w }] }, n)

/-- The address of an engine's access: own-LM addresses name the issuing core's LM, others go through the cluster's
translation buffer (02 R36, 12 R230). -/
def State.engTranslate (s : State) (clu core region : Nat) (n : Need) (va : Nat) : Trans :=
  s.translate (if ownLm ≤ va then core else 32 * clu) region n va

/-- A miss of a context goes to the walkers of the die, in the order of arrival; a context has one under way (12 R230). -/
def State.engWalk (s : State) (clu id region va : Nat) : State :=
  let x := s.eng clu id
  match x.walk with
  | some _ => s
  | none =>
    s.takeId.setEng clu id { x with walk := some { id := s.nextId, region := region, pos := { va := va, table := s.rootOf region } } }

/-- What the walk of an address has found, when it found no page. -/
def EngCtx.noPageAt (x : EngCtx) (region va : Nat) : Option NoPage := x.noPage.find? (fun n => n.va == va && n.region == region)

/-- The context has heard of it. -/
def EngCtx.hear (x : EngCtx) (region va : Nat) : EngCtx :=
  { x with noPage := x.noPage.filter (fun n => !(n.va == va && n.region == region)) }

def State.engHear (s : State) (clu id region va : Nat) : State := s.setEng clu id ((s.eng clu id).hear region va)

/-! ### Pins (12 R220) -/

/-- One more page, behind a run of physical bytes that it continues, or in a run of its own. -/
def addRun (runs : List (Nat × Nat)) (pa len : Nat) : List (Nat × Nat) :=
  match runs with
  | (lo, n) :: rest => if lo + n = pa then (lo, n + len) :: rest else (pa, len) :: runs
  | [] => [(pa, len)]

/-- How far a range has been translated: the runs of physical bytes, the latest first; the pages that do not translate; and what lies
behind a page whose walk is still to be made. -/
structure PinRange where
  runs : List (Nat × Nat) := []
  bad  : List (Nat × Nat) := []
  rest : Option (Nat × Nat) := none

/-- Translate the pages of a range; the first argument bounds them. -/
def State.pinPages (s : State) (clu id core region : Nat) : Nat → Nat → Nat → PinRange → PinRange
  | 0, _, _, p => p
  | k + 1, va, len, p =>
    if len = 0 then p
    else
      let cut := min len (4096 - va % 4096)
      let go (q : PinRange) : PinRange := s.pinPages clu id core region k (va + cut) (len - cut) q
      let bad : PinRange := { p with bad := p.bad ++ [(va, cut)] }
      match s.engTranslate clu core region { engine := true } va with
      | .at_ pa _ => go { p with runs := addRun p.runs pa cut }
      | .fault _ _ => go bad
      | .miss => if ((s.eng clu id).noPageAt region va).isSome then go bad else { p with rest := some (va, len) }

def State.pinPagesOf (s : State) (clu id : Nat) (q : PinAsk) : PinRange :=
  s.pinPages clu id q.core q.region (q.len / 4096 + 2) q.va q.len {}

/-- The homes of a run of physical bytes. -/
def runHomes (lo len : Nat) : List Place :=
  ((upTo ((lo % 4096 + len + 4095) / 4096)).filterMap (fun i => placeOf (alignDown lo 4096 + 4096 * i))).eraseDups

/-- The requests for a run: one to each home that has bytes of it. -/
def State.sendPins (s : State) (clu id op : Nat) (src : Agent) (run : Nat × Nat) : State :=
  (runHomes run.1 run.2).foldl (fun (t : State) pl =>
    t.send src pl (.pin { lo := run.1, len := run.2, home := pl, clu := clu, ctxId := id, op := op })) s

/-- The A head of an activation is held, or let go of again, for pins that are still to be sent. -/
def State.unholdPins (s : State) (core hold : Nat) : State :=
  if hold = 0 then s
  else
    let c := s.core core
    s.setCore core { c with
      acts := c.acts.map (fun e => (e.1, e.2.unhold hold))
      saved := c.saved.map (fun v => { v with act := v.act.unhold hold }) }

/-- What of a range translates is asked for; what does not is left out, since the operation meets the fault when it reads, and
is kept for a resumption. -/
def State.askRuns (s : State) (clu id : Nat) (q : PinAsk) (p : PinRange) : State :=
  let s1 := p.runs.reverse.foldl (fun (t : State) r => t.sendPins clu id q.op q.src r) s
  let x := p.bad.foldl (fun (y : EngCtx) b => y.hear q.region b.1) (s1.eng clu id)
  s1.setEng clu id { x with late := x.late ++ p.bad.map (fun b => { q with va := b.1, len := b.2, hold := 0 }) }

/-- The pin requests of a list of ranges are sent in order. One that needs a walk waits for it, with all behind it. -/
def State.servePins (clu id : Nat) : List PinAsk → State → State
  | [], s => s.setEng clu id { s.eng clu id with owed := [] }
  | q :: rest, s =>
    let p := s.pinPagesOf clu id q
    let s1 := s.askRuns clu id q p
    match p.rest with
    | none => State.servePins clu id rest (if rest.any (fun y => y.hold == q.hold) then s1 else s1.unholdPins q.core q.hold)
    | some r =>
      (s1.setEng clu id { s1.eng clu id with owed := { q with va := r.1, len := r.2 } :: rest }).engWalk clu id q.region r.1

/-- Ranges are to be pinned, behind those that still wait. -/
def State.askPins (s : State) (clu id : Nat) (l : List PinAsk) : State :=
  let x := s.eng clu id
  if l.isEmpty then s
  else if x.owed.isEmpty then State.servePins clu id l s
  else s.setEng clu id { x with owed := x.owed ++ l }

/-- The ranges of an operation, page by page, to their homes (12 R220). -/
def State.pinRange (s : State) (clu id core region op : Nat) (src : Agent) (va len : Nat) : State :=
  s.askPins clu id [{ op := op, core := core, region := region, src := src, va := va, len := len }]

/-- Pin a list of virtual ranges. -/
def State.pinRanges (s : State) (clu id core region op : Nat) (src : Agent) (l : List (Nat × Nat)) : State :=
  s.askPins clu id (l.map (fun r => { op := op, core := core, region := region, src := src, va := r.1, len := r.2 }))

/-- The pins of a command that the activation in focus retires: while one waits for a walk, the activation's A head is held, so
that no later access passes it (12 R220). -/
def State.pinRetired (s : State) (id : Nat) (l : List (Nat × Nat × Nat)) : State :=
  let clu := s.curClu
  let a := s.cur
  let n := s.nextId
  let t := s.takeId.askPins clu id (l.map (fun r =>
    { op := r.1, core := s.focus.core, region := a.info.region, src := .core s.focus.core, va := r.2.1, len := r.2.2, hold := n }))
  if (t.eng clu id).owed.any (fun q => q.hold == n) then t.setCur { t.cur with flow := { t.cur.flow with hold := some n } } else t

/-- AN ENGINE COMMAND OF AN INSTRUCTION retires: it is issued, its ranges are pinned, its number is traced, and a step
that is under way waits for it (12 R220; 23 R430, R431). The number is the second part. -/
def State.retireEng (s : State) (id : Nat) (arm : Bool) (w : Work) (pins : List (Nat × Nat)) : State × Nat :=
  let clu := s.curClu
  let a := s.cur
  let r := s.issueEng clu id s.focus.core a.info.region arm (s.unacked a.info.id) w
  let s1 := r.1.pinRetired id (pins.map (fun p => (r.2, p.1, p.2)))
  let s2 := s1.trace s.focus.core s.focus.ctx 6 r.2
  let c := s2.curCore
  let s3 := if c.dbg.want = some s.focus.ctx ∧ !arm then
    s2.setCurCore { c with dbg := { c.dbg with stepOp := some (id, r.2) } } else s2
  (s3, r.2)

/-- The test of 10 R436 for an instruction that acts on an engine context of its own cluster. -/
def guardCluster (s : State) (region id : Nat) (k : Att) : Att :=
  .check (s.ownsCluster region s.curClu) tACCESS id k

/-! ### Performing (12 R219) -/

/-- The pin of a source of the matrix unit carries its operation and its place: a macro row, or behind 1,024 a special
group (16 R299). -/
def sourceOp (issue place : Nat) : Nat := issue + 2 ^ 64 * (place + 1)

/-- The source that a pin stands for is recorded, by the operation that asked for the pin. -/
def Cluster.sourceKept (cl : Cluster) (id op : Nat) : Bool :=
  let m := Sparse.get ({} : MatrixCtx) cl.matrix id
  let place := op / 2 ^ 64 - 1
  let r := if place < 1024 then Sparse.look m.rowSrc place else Sparse.look m.specSrc (place - 1024)
  r.any (fun x => x.issue == op % 2 ^ 64)

/-- The pins of an operation are released; those of recorded sources stand (16 R299, R317). -/
def State.unpin (s : State) (clu id op : Nat) : State :=
  let cl := s.cluster clu
  let x := s.eng clu id
  let other (q : PinAsk) : Bool := q.op % 2 ^ 64 != op
  (s.setEng clu id { x with owed := x.owed.filter other, late := x.late.filter other }).dropPins (fun p =>
    p.clu == clu && p.ctxId == id && p.op % 2 ^ 64 == op && (decide (p.op < 2 ^ 64) || !(cl.sourceKept id p.op)))

/-- AN OPERATION IS PERFORMED, or counts as performed: its pins are released, the counter reaches its number, its line
pulses, and the context is free for the next (12 R219, 14 R263, R286). -/
def State.performEng (s : State) (clu id : Nat) : State :=
  let x := s.eng clu id
  match x.queue with
  | [] => s
  | c :: rest =>
    let s0 := s.unpin clu id c.issue
    let s1 := s0.setEng clu id { s0.eng clu id with queue := rest, run := .idle, noPage := [] }
    let t := s1.timeline clu id
    (s1.setTimeline clu id { t with counter := BitVec.ofNat 64 c.issue }).pulse clu (engLine id)

/-- What an engine context has sent before its next access has arrived (12 R209): a message that waits at an ingress has;
and the pins of the operation have been asked for and are recorded, before which it reads nothing (12 R220, 18 R351). -/
def State.engQuiet (s : State) (clu id issue : Nat) : Bool :=
  !((s.eng clu id).owed.any (fun q => q.op % 2 ^ 64 == issue)) &&
  !(s.net.any (fun q => (q.src == .engine clu id && !(s.waitsForHolder q)) || (match q.body with
    | .pin p => p.clu == clu && p.ctxId == id && p.op % 2 ^ 64 == issue
    | _ => false)))

/-- The operation at the head may begin: it is not armed, its activation's earlier stores are acknowledged, its pins are
recorded, and the context is not stopped for its region (12 R218, R220; 10 R198). A store that its home has refused holds it back
no more once the refusal has been delivered: DESIGN CHOICE, log 83. -/
def State.engMayBegin (s : State) (clu id : Nat) : Option EngCmd :=
  let x := s.eng clu id
  match x.queue with
  | [] => none
  | c :: _ =>
    if x.run == .idle && !c.armed && !(c.waits.any (fun i => s.accs.any (fun a => a.id == i))) &&
      !(x.stopped.contains c.region) && !(x.asked.contains c.region) && !x.lost && s.engQuiet clu id c.issue then some c else none

/-- The operation that is running, when the context is not stopped for its region. -/
def State.engRunning (s : State) (clu id : Nat) : Option EngCmd :=
  let x := s.eng clu id
  match x.current with
  | some c => if !(x.stopped.contains c.region) && !x.lost && s.engQuiet clu id c.issue then some c else none
  | none => none

/-- The context has been asked to stop at its next boundary. -/
def State.engAsked (s : State) (clu id region : Nat) : Bool := (s.eng clu id).asked.contains region

def State.setRun (s : State) (clu id : Nat) (r : Run) : State :=
  let x := s.eng clu id
  s.setEng clu id { x with run := r }

/-- A parked operation goes on (10 R192): the pins that its pages did not allow before are asked for again (12 R220). -/
def State.resumeRun (s : State) (clu id : Nat) : State :=
  let x := s.eng clu id
  let op := (x.queue.head?.map (fun c => c.issue)).getD 0
  let mine (q : PinAsk) : Bool := q.op % 2 ^ 64 == op
  (s.setEng clu id { x with run := .running, late := x.late.filter (fun q => !(mine q)) }).askPins clu id
    ((x.late.filter mine).map (fun q => { q with src := .engine clu id, hold := 0 }))

/-! ### Faults (10 R192) -/

/-- A fault message of kind 1 to the fault domain of the operation's region (10 R189). The region is DEDUCED, log 22. -/
def State.sendEngFault (s : State) (clu id region code val issue : Nat) : State :=
  s.faultMessage (.engine clu id) (32 * clu) (some region) code 1 (32 * clu) 0 id val issue

/-- The context parks at the fault it has found, and the message about it is sent (10 R192). -/
def State.sendFault (s : State) (clu id : Nat) : State :=
  let x := s.eng clu id
  match x.run, x.queue with
  | .faulted code val, c :: _ => (s.setRun clu id (.parked code val)).sendEngFault clu id c.region code val c.issue
  | _, _ => s

/-- ENGINE_FAULT_PARK. -/
def execEngineFaultPark (clu id : Nat) (s : State) : Out := .next (s.sendFault clu id)

/-- The parked operation that RES and ABN name by its number (14 R286, 20 R382); while the fault message is being sent they
wait. -/
def parkedCheck (s : State) (clu id v : Nat) (k : EngCmd → Att) : Att :=
  let x := s.eng clu id
  match x.run, x.queue with
  | .faulted _ _, _ => .stall
  | .parked _ _, c :: _ => .check (c.issue == v) tILLEGAL_OPERAND v (k c)
  | _, _ => .trap tILLEGAL_OPERAND v

/-! ### An engine's accesses -/

/-- The operation that accesses memory: its context, the core that issued it and its region; `exempt` when its own pins do
not refuse its writes (14 R280, 19 R359). -/
structure Eng where
  clu    : Nat
  id     : Nat
  core   : Nat
  region : Nat
  op     : Nat
  exempt : Bool := false

def EngCmd.eng (c : EngCmd) (clu id : Nat) : Eng := { clu := clu, id := id, core := c.core, region := c.region, op := c.issue }

/-- What a piece of engine work gives: it goes on; it has asked for pins, and is done again when they are recorded (12 R220);
it must have a page walked first, and is done again from its start (12 R230); it meets a fault that parks the operation, or an
uncorrectable error that ends it (10 R191, R192). -/
inductive EngRes (α : Type) where
  | ok (s : State) (v : α)
  | wait (s : State)
  | miss (region va : Nat)
  | fault (s : State) (code val : Nat)
  | ends (s : State)

def EngRes.andThen {α β : Type} (r : EngRes α) (f : State → α → EngRes β) : EngRes β :=
  match r with
  | .ok s v => f s v
  | .wait s => .wait s
  | .miss r v => .miss r v
  | .fault s c v => .fault s c v
  | .ends s => .ends s

/-- A check that parks the operation when it fails. -/
def EngRes.check {α : Type} (s : State) (b : Bool) (code val : Nat) (k : EngRes α) : EngRes α :=
  if b then k else .fault s code val

/-- Work over a list, in order, with the results. -/
def engMap {α β : Type} (f : State → α → EngRes β) : List α → State → EngRes (List β)
  | [], s => .ok s []
  | x :: rest, s => (f s x).andThen (fun t y => (engMap f rest t).andThen (fun u ys => .ok u (y :: ys)))

/-- Work over a list that carries a value along. -/
def engFold {α β : Type} (f : State → β → α → EngRes β) : List α → State → β → EngRes β
  | [], s, v => .ok s v
  | x :: rest, s, v => (f s v x).andThen (fun t w => engFold f rest t w)

/-- An uncorrectable error ends the operation: a message of kind 1 with its issue number goes to the fault domain of the
region that owns the page (10 R189, R191; 16 R312; 18 R353). -/
def State.engLost (s : State) (clu id region issue pa va : Nat) : State :=
  s.faultMessage (.engine clu id) (32 * clu) (s.locationRegion pa region) tUNCORRECTABLE_MEMORY 1 (32 * clu) 0 id va issue

/-- The physical address of one virtual address, or the fault of its translation (12 R229). -/
def engPage (e : Eng) (n : Need) (s : State) (va : Nat) : EngRes Nat :=
  match s.engTranslate e.clu e.core e.region { n with engine := true } va with
  | .at_ pa _ => .ok s pa
  | .fault c _ => .fault s c va
  | .miss => match (s.eng e.clu e.id).noPageAt e.region va with
    | none => .miss e.region va
    | some x =>
      let t := s.engHear e.clu e.id e.region va
      match x.lost with
      | none => .fault t tTRANSLATION va
      | some pa => .ends (t.engLost e.clu e.id e.region e.op pa va)

/-- Read `len` bytes, page by page; the first argument bounds the pages. -/
def engReadPages (e : Eng) (n : Need) : Nat → State → Nat → Nat → EngRes (List Byte)
  | 0, s, _, _ => .ok s []
  | k + 1, s, va, len =>
    if len = 0 then .ok s []
    else
      let cut := min len (4096 - va % 4096)
      (engPage e { n with r := true } s va).andThen (fun s1 pa =>
        if s1.isRetired pa then .ends (s1.engLost e.clu e.id e.region e.op pa va)
        else
          let s2 := ((s1.touch e.region pa false).countHbm e.region pa).useRange pa cut
          (engReadPages e n k s2 (va + cut) (len - cut)).andThen (fun s3 rest => .ok s3 (s2.bytesAt pa cut ++ rest)))

def engReadN (e : Eng) (n : Need) (s : State) (va len : Nat) : EngRes (List Byte) :=
  engReadPages e n (len / 4096 + 2) s va len

def engRead (e : Eng) (s : State) (va len : Nat) : EngRes (List Byte) := engReadN e {} s va len

/-- A little-endian number of `n` bytes. -/
def engNat (e : Eng) (s : State) (va n : Nat) : EngRes Nat := (engRead e s va n).andThen (fun t b => .ok t (ofBytes b))

/-- A pin refuses a write of an engine operation (12 R221). -/
def State.engPinned (s : State) (e : Eng) (pa len : Nat) : Bool :=
  s.pins.any (fun p => p.covers pa len && !(e.exempt && p.clu == e.clu && p.ctxId == e.id && p.op == e.op))

/-- Write bytes, page by page: a pinned byte, or an instruction store that the capability's CODE does not open, parks the
operation at the write (12 R221, R232). -/
def engWritePages (e : Eng) (n : Need) (code : Bool) : Nat → State → Nat → List Byte → EngRes Unit
  | 0, s, _, _ => .ok s ()
  | k + 1, s, va, b =>
    if b.isEmpty then .ok s ()
    else
      let cut := min b.length (4096 - va % 4096)
      (engPage e { n with w := true } s va).andThen (fun s1 pa =>
        if s1.isRetired pa then .ends (s1.engLost e.clu e.id e.region e.op pa va)
        else if s1.engPinned e pa cut || !(s1.codeOk Config.cores code pa) then .fault s1 tPINNED_WRITE va
        else
          let s2 := ((s1.touch e.region pa true).countHbm e.region pa).useRange pa cut
          engWritePages e n code k (s2.putBytes pa (b.take cut)) (va + cut) (b.drop cut))

def engWriteN (e : Eng) (n : Need) (c : AReg) (s : State) (va : Nat) (b : List Byte) : EngRes Unit :=
  engWritePages e n (c.perm permCODE) (b.length / 4096 + 2) s va b

/-- Write through the capability `c`, whose CODE counts. -/
def engWrite (e : Eng) (c : AReg) (s : State) (va : Nat) (b : List Byte) : EngRes Unit := engWriteN e {} c s va b

/-- The state after work from `s` of the operation at the head: what asks for pins leaves nothing but the requests, and a miss
nothing but its walk; a fault is kept until the context parks; an uncorrectable error ends the operation, as `fin` does. -/
def State.engDoneBy {α : Type} (s : State) (fin : State → State) (clu id : Nat) (r : EngRes α) (k : State → α → State) : State :=
  match r with
  | .ok t v => k t v
  | .wait t => t
  | .miss region va => s.engWalk clu id region va
  | .fault t c v => t.setRun clu id (.faulted c v)
  | .ends t => fin t

/-- The same, for operations whose end needs no more than `performEng`. -/
def State.engDone {α : Type} (s : State) (clu id : Nat) (r : EngRes α) (k : State → α → State) : State :=
  s.engDoneBy (fun t => t.performEng clu id) clu id r k

/-! ### An engine's walks (12 R230, R439) -/

/-- A walk ends, with the page that it found in the translation buffer, or without one: the pins that waited for it are asked
for. -/
def State.engWalked (s : State) (clu id : Nat) (n : Option NoPage) : State :=
  let x := s.eng clu id
  let s1 := s.setEng clu id { x with walk := none, noPage := x.noPage ++ n.toList }
  if x.owed.isEmpty then s1 else State.servePins clu id x.owed s1

/-- One read of the walk of an engine context. -/
def State.engWalkRead (s : State) (clu id : Nat) (w : EngWalk) : State :=
  let va := w.pos.va
  let root := s.rootOf w.region
  if (tlbFind root va (s.cluster clu).tlb).isSome then s.engWalked clu id none
  else
    let r := s.readWalk w.pos
    match r.2 with
    | .lost pa => r.1.engWalked clu id (some { va := va, region := w.region, lost := some pa })
    | .level (.table pa) =>
      r.1.setEng clu id { r.1.eng clu id with walk := some { w with pos := { va := va, level := w.pos.level + 1, table := pa } } }
    | .level (.leaf lo e) => (r.1.tlbAdd clu root va lo e).engWalked clu id none
    | .level .invalid => r.1.engWalked clu id (some { va := va, region := w.region })

/-- The next read of an engine's walk, when a walker serves it; without a walk the pins that still wait are asked for. -/
def State.engWalkStep (s : State) (clu id : Nat) : State :=
  let x := s.eng clu id
  match x.walk with
  | some w => if s.hasWalker (clu / 64) w.id then s.engWalkRead clu id w else s
  | none => if x.owed.isEmpty then s else State.servePins clu id x.owed s

/-- TRANSLATION_WALK_DONE: a walker of the die makes the next read of the walk that the activation of a context waits for;
when no walk is left to make, the access leaves the translation stage (12 R227, R230, R439; 10 R186). A number behind those of
the cores names the cluster of the engine context `ctx`. -/
def execTranslationWalkDone (core ctx : Nat) (s : State) : Out :=
  if 8192 ≤ core then .next (s.engWalkStep (core - 8192) ctx)
  else match s.act? core ctx with
    | none => .next s
    | some a => match a.flow.walk with
      | none => .next s
      | some x =>
        if (s.core core).lock == some ctx then .next s
        else match s.walkAddr x with
          | none => .next (s.walkDone x)
          | some va => if s.hasWalker (core / 2048) x.id then .next (s.walkRead x a va) else .next s

/-! ### Stopping for pre-emption (10 R198, 22 R409) -/

/-- Contexts with operations of the outgoing region are asked to stop; those of the incoming region go on. -/
def State.askEngines (s : State) (clu : Nat) (outgoing incoming : Option Nat) : State :=
  let cl := s.cluster clu
  let one (x : EngCtx) : EngCtx :=
    let x1 := { x with stopped := x.stopped.filter (fun r => incoming != some r) }
    let x2 := { x1 with asked := x1.asked.filter (fun r => incoming != some r) }
    match outgoing with
    | some r =>
      if x2.queue.any (fun c => c.region == r) && !(x2.stopped.contains r) && !(x2.asked.contains r) then { x2 with asked := x2.asked ++ [r] }
      else x2
    | none => x2
  s.setCluster clu { cl with eng := cl.eng.map (fun p => (p.1, one p.2)) }

/-! ### The signal box at work (08 R158, R161) -/

/-- Step 1 for one counter: the pulses of its line, saturating. -/
def SbCounter.add (c : SbCounter) (pulses : List Nat) : SbCounter :=
  let n := (pulses.filter (fun l => l == c.insel.toNat)).length
  { c with count := BitVec.ofNat 16 (min 0xFFFF (c.count.toNat + n)) }

def SbCounter.reached (c : SbCounter) : Bool := c.thresh != 0 && decide (c.thresh.toNat ≤ c.count.toNat)

/-- An output fires at its target: an armed command starts; else PENDING, or the firing is lost. `start` starts the armed
command of an encoder slot. -/
def State.fireAt (s : State) (clu k : Nat) (start : State → Nat → Option State) : State :=
  let cl := s.cluster clu
  let o := Sparse.get {} cl.sb.outs k
  let t := o.target.toNat
  let x := s.eng clu t
  let started := if t / 32 = 4 then start s (t % 32)
    else if x.anyArmed then
      some (s.setEng clu t { x with queue := x.queue.map (fun c => { c with armed := false }) })
    else none
  match started with
  | some u => u
  | none =>
    let o1 : SbOutput := (if o.pending then { o with overrun := true } else { o with pending := true })
    s.setCluster clu { cl with sb := cl.sb.setOut k o1 }

/-- The four steps of a cycle of the signal box (08 R158). -/
def State.sbCycle (s : State) (clu : Nat) (start : State → Nat → Option State) : State :=
  let cl := s.cluster clu
  let b := cl.sb
  let counters := (upTo 32).map (fun i => (Sparse.get ({} : SbCounter) b.counters i).add b.pulses)
  let reached (m : Nat) : Bool := ((upTo 32).zip counters).all (fun x => !(bitAt m x.1) || x.2.reached)
  let cmask (j : Nat) : Nat := (Sparse.get (0 : BitVec 32) b.terms j).toNat
  let true_ := (upTo 32).filter (fun j => cmask j != 0 && reached (cmask j))
  let fires := (upTo 32).filter (fun k =>
    let o := Sparse.get ({} : SbOutput) b.outs k
    o.en && sbTargetOk o.target.toNat && true_.any (fun j => bitAt o.tmask.toNat j))
  let used := true_.filter (fun j => fires.any (fun k => bitAt (Sparse.get ({} : SbOutput) b.outs k).tmask.toNat j))
  let after := ((upTo 32).zip counters).foldl (fun (m : Sparse SbCounter) (x : Nat × SbCounter) =>
    Sparse.set {} m x.1 (if used.any (fun j => bitAt (cmask j) x.1) then { x.2 with count := x.2.count - x.2.thresh } else x.2))
    b.counters
  let s1 := s.setCluster clu { cl with sb := { b with counters := after, pulses := [] } }
  fires.foldl (fun (t : State) (k : Nat) => t.fireAt clu k start) s1

/-- TIMER_PULSE: a timer that runs pulses its line at its time (08 R161). -/
def execTimerPulse (clu t : Nat) (s : State) : Out :=
  let cl := s.cluster clu
  let x := Sparse.get ({} : SbTimer) cl.sb.timers t
  if x.period = 0 ∨ s.ns < x.next ∨ 8 ≤ t then .next s
  else .next ((s.setCluster clu { cl with sb := { cl.sb with
    timers := Sparse.set {} cl.sb.timers t { x with next := x.next + x.period.toNat } } }).pulse clu (24 + t))

end Sys2Proof.Machine
end

