-- ==== Sys2Proof/Machine/Flags.lean ====
section
/-! DEFINITION. Number formats, rounding and the flags of XFLAGS (13 R234 to R245, R255 to R257). The X-half, the copy
engine and the matrix path round through this file. -/

namespace Sys2Proof.Machine

/-! ### Flags (13 R242, R243) -/

def flagNV : Nat := 1
def flagDZ : Nat := 2
def flagOF : Nat := 4
def flagUF : Nat := 8
def flagNX : Nat := 16

/-- What one lane gives: its code and the flags it raises. -/
structure FRes where
  code  : Nat
  flags : Nat := 0
  deriving DecidableEq, Repr

/-- The flags of a list of lanes, ORed. -/
def flagsOf (l : List FRes) : Nat := l.foldl (fun f r => bOr f r.flags) 0

/-! ### Formats (13 R235, R237) -/

/-- A binary format with infinities: width, M bits and bias. -/
structure Fmt where
  width : Nat
  m     : Nat
  bias  : Nat
  deriving DecidableEq, Repr

def fp32 : Fmt := { width := 32, m := 23, bias := 127 }
def bf16 : Fmt := { width := 16, m := 7, bias := 127 }
def e5m2 : Fmt := { width := 8, m := 2, bias := 15 }
/-- E4M3 as a field layout; its codes have no infinity (13 R236). -/
def e4m3 : Fmt := { width := 8, m := 3, bias := 7 }

def Fmt.signBit (f : Fmt) : Nat := 2 ^ (f.width - 1)
/-- The code of +∞: all exponent bits. -/
def Fmt.infCode (f : Fmt) : Nat := 2 ^ (f.width - 1) - 2 ^ f.m
def Fmt.quietBit (f : Fmt) : Nat := 2 ^ (f.m - 1)
def Fmt.defaultNan (f : Fmt) : Nat := f.infCode + f.quietBit
/-- The largest finite code. -/
def Fmt.maxCode (f : Fmt) : Nat := if f = e4m3 then 0x7E else f.infCode - 1
/-- The exponent of the unit in the last place of subnormals. -/
def Fmt.minUlp (f : Fmt) : Int := 1 - (f.bias : Int) - (f.m : Int)
def Fmt.withSign (f : Fmt) (neg : Bool) (mag : Nat) : Nat := if neg then f.signBit + mag else mag

/-- A value: a finite number (−1)^neg × n × 2^e, an infinity, or a NaN with its quieted code. -/
inductive FVal where
  | fin (neg : Bool) (n : Nat) (e : Int)
  | inf (neg : Bool)
  | nan (code : Nat) (signalling : Bool)
  deriving DecidableEq, Repr

/-- The value of a code (13 R235, R237). -/
def Fmt.dec (f : Fmt) (c : Nat) : FVal :=
  let neg := bitAt c (f.width - 1)
  let e := fld c f.m (f.width - 1 - f.m)
  let mant := fld c 0 f.m
  if e = 2 ^ (f.width - 1 - f.m) - 1 then
    if mant = 0 then .inf neg
    else .nan (if bitAt mant (f.m - 1) then c else c + f.quietBit) (!(bitAt mant (f.m - 1)))
  else if e = 0 then .fin neg mant f.minUlp
  else .fin neg (2 ^ f.m + mant) (f.minUlp + (e : Int) - 1)

/-- The value of an E4M3 code; its NaNs are quiet (13 R236). -/
def decE4M3 (c : Nat) : FVal :=
  let neg := bitAt c 7
  let e := fld c 3 4
  let mant := fld c 0 3
  if e = 15 ∧ mant = 7 then .nan (if neg then 0xFF else 0x7F) false
  else if e = 0 then .fin neg mant (-9)
  else .fin neg (8 + mant) ((e : Int) - 10)

/-- The value of an n-bit integer. -/
def decInt (n c : Nat) : FVal := .fin (decide (sext c n < 0)) (sext c n).natAbs 0

/-! ### Rounding (13 R241, R242, R257) -/

/-- The rounding modes; stochastic rounding carries its random word. -/
inductive RMode where
  | rne
  | rtz
  | rup
  | rdn
  | rna
  | sr (r : Nat)
  deriving DecidableEq, Repr

/-- The mode of an RM field (03 R53). -/
def rmode (c : Nat) : RMode :=
  match c with
  | 1 => .rtz
  | 2 => .rup
  | 3 => .rdn
  | 4 => .rna
  | _ => .rne

def RMode.isDown : RMode → Bool
  | .rdn => true
  | _ => false

/-- An exact magnitude with sign: m × 2^e with m in [n, n + 1), and m = n unless `sticky`. -/
structure Exact where
  neg    : Bool
  n      : Nat
  e      : Int
  sticky : Bool := false
  deriving DecidableEq, Repr

/-- A magnitude over 2^shift rounded to an integer, and whether that is inexact. -/
def roundAt (rm : RMode) (neg : Bool) (n : Nat) (sticky : Bool) (shift : Int) : Nat × Bool :=
  if shift ≤ 0 then (n * 2 ^ (-shift).toNat, sticky)
  else
    let d := 2 ^ shift.toNat
    let k := n / d
    let r := n % d
    let exact := r == 0 && !sticky
    let up := match rm with
      | .rne => decide (d < 2 * r) || (2 * r == d && (sticky || k % 2 == 1))
      | .rna => decide (d ≤ 2 * r)
      | .rtz => false
      | .rup => !neg && !exact
      | .rdn => neg && !exact
      | .sr w => !exact && decide (d * 2 ^ 32 ≤ r * 2 ^ 32 + w * d)
    (if up then k + 1 else k, !exact)

/-- floor(log2) of a magnitude that is not zero. -/
def Exact.log (x : Exact) : Int := x.e + (Nat.log2 x.n : Int)

/-- The result is tiny (13 R242): rounded with an unbounded exponent it lies below the smallest normal number. -/
def tiny (f : Fmt) (rm : RMode) (x : Exact) : Bool :=
  let k := (roundAt rm x.neg x.n x.sticky ((Nat.log2 x.n : Int) - (f.m : Int))).1
  let l := if k = 2 ^ (f.m + 1) then x.log + 1 else x.log
  decide (l < 1 - (f.bias : Int))

/-- The overflowed magnitude stays infinite before saturation (13 R241). -/
def toInfinity (rm : RMode) (neg : Bool) : Bool :=
  match rm with
  | .rtz => false
  | .rup => !neg
  | .rdn => neg
  | _ => true

/-- round(v, f, RM, SAT) with its flags (13 R241, R242). -/
def roundTo (f : Fmt) (rm : RMode) (sat : Bool) (x : Exact) : FRes :=
  if x.n = 0 then { code := f.withSign x.neg 0 }
  else
    let u := max (x.log - (f.m : Int)) f.minUlp
    let r := roundAt rm x.neg x.n x.sticky (u - x.e)
    let mag := (u - f.minUlp).toNat * 2 ^ f.m + r.1
    if f.maxCode < mag then
      { code := f.withSign x.neg (if toInfinity rm x.neg && !sat then f.maxCode + 1 else f.maxCode)
        flags := flagOF + flagNX }
    else
      { code := f.withSign x.neg mag
        flags := if r.2 then flagNX + (if tiny f rm x then flagUF else 0) else 0 }

/-! ### Exact sums and products -/

/-- The signed numerator of a finite value over 2^e, for an e at or below its own. -/
def numAt (neg : Bool) (n : Nat) (e e0 : Int) : Int :=
  let v : Int := n * 2 ^ (e - e0).toNat
  if neg then -v else v

/-- The exact sum of two finite values, with the sign of a zero sum by R245. -/
def exactSum (rm : RMode) (na : Bool) (a : Nat) (ea : Int) (nb : Bool) (b : Nat) (eb : Int) : Exact :=
  if a = 0 ∧ b = 0 then { neg := if na = nb then na else rm.isDown, n := 0, e := 0 }
  else
    let e0 := if a = 0 then eb else if b = 0 then ea else min ea eb
    let v := (if a = 0 then 0 else numAt na a ea e0) + (if b = 0 then 0 else numAt nb b eb e0)
    if v = 0 then { neg := rm.isDown, n := 0, e := 0 } else { neg := decide (v < 0), n := v.natAbs, e := e0 }

/-! ### NaN selection (13 R244) -/

def FVal.isNan : FVal → Bool
  | .nan _ _ => true
  | _ => false

def FVal.signals : FVal → Bool
  | .nan _ s => s
  | _ => false

/-- The choice of R244 among operands in order; none when no operand is a NaN. -/
def nanChoice (l : List FVal) : Option FRes :=
  let code : FVal → Nat
    | .nan c _ => c
    | _ => 0
  match l.find? FVal.signals with
  | some v => some { code := code v, flags := flagNV }
  | none => (l.find? FVal.isNan).map (fun v => { code := code v })

/-- An invalid operation (13 R244). -/
def Fmt.invalid (f : Fmt) : FRes := { code := f.defaultNan, flags := flagNV }

/-! ### Conversions (13 R254 to R257) -/

/-- Bits of a format number (13 R254). -/
def fmtWidth (n : Nat) : Nat :=
  match n with
  | 0 => 32
  | 1 => 16
  | 2 => 8
  | 3 => 8
  | 4 => 8
  | 5 => 16
  | _ => 32

/-- The value of a code in a format number. -/
def decFmt (n c : Nat) : FVal :=
  match n with
  | 0 => fp32.dec c
  | 1 => bf16.dec c
  | 2 => decE4M3 c
  | 3 => e5m2.dec c
  | 4 => decInt 8 c
  | 5 => decInt 16 c
  | _ => decInt 32 c

/-- A format with infinities by its number. -/
def floatFmt (n : Nat) : Fmt :=
  match n with
  | 0 => fp32
  | 1 => bf16
  | _ => e5m2

/-- The sign of a NaN of a format number and its payload with the width of the payload (13 R256). -/
def nanParts (n code : Nat) : Bool × Nat × Nat :=
  if n = 2 then (bitAt code 7, 0, 0)
  else
    let f := floatFmt n
    (bitAt code (f.width - 1), fld code 0 (f.m - 1), f.m - 1)

/-- A NaN carried to another format (13 R256). -/
def carryNan (f : Fmt) (neg : Bool) (payload bits : Nat) : Nat :=
  let p := f.m - 1
  f.withSign neg (f.defaultNan + (if bits ≤ p then payload * 2 ^ (p - bits) else payload / 2 ^ (bits - p)))

/-- The value of a magnitude is above 448. -/
def above448 (n : Nat) (e : Int) : Bool :=
  if 0 ≤ e then decide (448 < n * 2 ^ e.toNat) else decide (448 * 2 ^ (-e).toNat < n)

/-- Narrowing to E4M3 (13 R255). -/
def narrowE4M3 (rm : RMode) (sat : Bool) (v : FVal) : FRes :=
  let tooBig (neg : Bool) : FRes :=
    if sat then { code := e4m3.withSign neg 0x7E, flags := flagOF + flagNX }
    else { code := e4m3.withSign neg 0x7F, flags := flagNV }
  match v with
  | .fin neg n e => if above448 n e then tooBig neg else roundTo e4m3 rm sat { neg := neg, n := n, e := e }
  | .inf neg => tooBig neg
  | .nan c s => { code := c, flags := if s then flagNV else 0 }

/-- Narrowing to a signed integer of `bits` bits (13 R255). -/
def narrowInt (rm : RMode) (sat : Bool) (bits : Nat) (v : FVal) : FRes :=
  let lowest : Int := -(2 ^ (bits - 1))
  let out (neg : Bool) : FRes :=
    { code := toBits (if sat then (if neg then lowest else 2 ^ (bits - 1) - 1) else lowest) bits, flags := flagNV }
  match v with
  | .fin neg n e =>
    let r := roundAt rm neg n false (-e)
    let i : Int := if neg then -(r.1 : Int) else r.1
    if i < lowest ∨ 2 ^ (bits - 1) - 1 < i then out neg
    else { code := toBits i bits, flags := if r.2 then flagNX else 0 }
  | .inf neg => out neg
  | .nan _ _ => { code := toBits (if sat then 0 else lowest) bits, flags := flagNV }

/-- A finite value times 2^k. -/
def FVal.scale (k : Int) : FVal → FVal
  | .fin neg n e => .fin neg n (e + k)
  | v => v

/-- A value of format number `src` converted to format number `dst` (13 R255, R256). -/
def convertVal (dst src : Nat) (rm : RMode) (sat : Bool) (v : FVal) : FRes :=
  if dst = 2 then
    match v with
    | .nan q s => { code := e4m3.withSign (nanParts src q).1 0x7F, flags := if s then flagNV else 0 }
    | _ => narrowE4M3 rm sat v
  else if dst < 4 then
    let f := floatFmt dst
    match v with
    | .fin neg n e => roundTo f rm sat { neg := neg, n := n, e := e }
    | .inf neg =>
      if sat then { code := f.withSign neg f.maxCode, flags := flagOF + flagNX } else { code := f.withSign neg f.infCode }
    | .nan q s =>
      let p := nanParts src q
      { code := carryNan f p.1 p.2.1 p.2.2, flags := if s then flagNV else 0 }
  else narrowInt rm sat (fmtWidth dst) v

/-- One lane of CVT: from format number `src` to `dst` (13 R255, R256). -/
def convert (dst src : Nat) (rm : RMode) (sat : Bool) (c : Nat) : FRes := convertVal dst src rm sat (decFmt src c)

/-- One step of a core's generator (13 R258). -/
def rngStep (x : BitVec 64) : BitVec 64 :=
  let a := x ^^^ (x <<< 13)
  let b := a ^^^ (a >>> 7)
  b ^^^ (b <<< 17)

end Sys2Proof.Machine
end

