-- ==== Sys2Proof/Machine/XInt.lean ====
section
/-! DEFINITION. The scalar integer, bit and move instructions of the X-half, 0x01 to 0x3B (05 R74 to R92). Each has a
function on numbers, `w` the operation width in bits, `x` and `y` its sources as numbers below 2^w. -/

namespace Sys2Proof.Machine

/-- Zero bits above the highest one of the low `n` bits. -/
def countTop (x : Nat) : Nat → Nat
  | 0 => 0
  | n + 1 => if bitAt x n then 0 else countTop x n + 1

/-- Zero bits below the lowest one of the low `n` bits. -/
def countLow (x : Nat) : Nat → Nat
  | 0 => 0
  | n + 1 => if x % 2 = 1 then 0 else countLow (x / 2) n + 1

/-- Ones among the low `n` bits. -/
def countOnes (x : Nat) : Nat → Nat
  | 0 => 0
  | n + 1 => x % 2 + countOnes (x / 2) n

/-- The bits of `x` where `m` has ones, packed, and how many they are (05 R92). -/
def gather (x m : Nat) : Nat → Nat × Nat
  | 0 => (0, 0)
  | n + 1 =>
    let r := gather (x / 2) (m / 2) n
    if m % 2 = 1 then (x % 2 + 2 * r.1, r.2 + 1) else r

/-- The low bits of `x` placed where `m` has ones (05 R92). -/
def scatter (x m : Nat) : Nat → Nat
  | 0 => 0
  | n + 1 => if m % 2 = 1 then x % 2 + 2 * scatter (x / 2) (m / 2) n else 2 * scatter x (m / 2) n

/-- A count of the immediate shifts that is reserved (05 R85). -/
def countBad (w n : Nat) : Bool := decide (w ≤ n)

/-- A length of EXTS and EXTZ that is reserved (05 R90). -/
def lengthBad (w n : Nat) : Bool := n == 0 || decide (w ≤ n)

/-- ADD (05 R79). -/
def xAdd (w x y : Nat) : Nat := (x + y) % 2 ^ w

def execAdd (w d a b : Nat) (s : State) : Out := execX3 w d a b xAdd s

/-- SUB (05 R79). -/
def xSub (w x y : Nat) : Nat := (x + (2 ^ w - y)) % 2 ^ w

def execSub (w d a b : Nat) (s : State) : Out := execX3 w d a b xSub s

/-- ADDI (05 R79). -/
def xAddi (w x y : Nat) : Nat := (x + y) % 2 ^ w

def execAddi (w d a i : Nat) (s : State) : Out := execXI w d a i xAddi s

/-- MUL (05 R81). -/
def xMul (w x y : Nat) : Nat := x * y % 2 ^ w

def execMul (w d a b : Nat) (s : State) : Out := execX3 w d a b xMul s

/-- MULH (05 R81). -/
def xMulh (w x y : Nat) : Nat := toBits (sext x w * sext y w / 2 ^ w) w

def execMulh (w d a b : Nat) (s : State) : Out := execX3 w d a b xMulh s

/-- MULHU (05 R81). -/
def xMulhu (w x y : Nat) : Nat := x * y / 2 ^ w % 2 ^ w

def execMulhu (w d a b : Nat) (s : State) : Out := execX3 w d a b xMulhu s

/-- DIV (05 R82): truncating; all ones on a zero divisor. -/
def xDiv (w x y : Nat) : Nat := if y = 0 then 2 ^ w - 1 else toBits (Int.tdiv (sext x w) (sext y w)) w

def execDiv (w d a b : Nat) (s : State) : Out := execX3 w d a b xDiv s

/-- DIVU (05 R82). -/
def xDivu (w x y : Nat) : Nat := if y = 0 then 2 ^ w - 1 else x / y

def execDivu (w d a b : Nat) (s : State) : Out := execX3 w d a b xDivu s

/-- REM (05 R82): the sign of the dividend; the dividend on a zero divisor. -/
def xRem (w x y : Nat) : Nat := if y = 0 then x else toBits (sext x w - sext y w * Int.tdiv (sext x w) (sext y w)) w

def execRem (w d a b : Nat) (s : State) : Out := execX3 w d a b xRem s

/-- REMU (05 R82). -/
def xRemu (_ x y : Nat) : Nat := if y = 0 then x else x - y * (x / y)

def execRemu (w d a b : Nat) (s : State) : Out := execX3 w d a b xRemu s

/-- MIN (05 R83). -/
def xMin (w x y : Nat) : Nat := if sext x w ≤ sext y w then x else y

def execMin (w d a b : Nat) (s : State) : Out := execX3 w d a b xMin s

/-- MAX (05 R83). -/
def xMax (w x y : Nat) : Nat := if sext x w ≤ sext y w then y else x

def execMax (w d a b : Nat) (s : State) : Out := execX3 w d a b xMax s

/-- MINU (05 R83). -/
def xMinu (_ x y : Nat) : Nat := if x ≤ y then x else y

def execMinu (w d a b : Nat) (s : State) : Out := execX3 w d a b xMinu s

/-- MAXU (05 R83). -/
def xMaxu (_ x y : Nat) : Nat := if x ≤ y then y else x

def execMaxu (w d a b : Nat) (s : State) : Out := execX3 w d a b xMaxu s

/-- ADDS (05 R80). -/
def xAdds (w x y : Nat) : Nat := toBits (satS (sext x w + sext y w) w) w

def execAdds (w d a b : Nat) (s : State) : Out := execX3 w d a b xAdds s

/-- ADDUS (05 R80). -/
def xAddus (w x y : Nat) : Nat := toBits (satU ((x : Int) + y) w) w

def execAddus (w d a b : Nat) (s : State) : Out := execX3 w d a b xAddus s

/-- SUBS (05 R80). -/
def xSubs (w x y : Nat) : Nat := toBits (satS (sext x w - sext y w) w) w

def execSubs (w d a b : Nat) (s : State) : Out := execX3 w d a b xSubs s

/-- SUBUS (05 R80). -/
def xSubus (w x y : Nat) : Nat := toBits (satU ((x : Int) - y) w) w

def execSubus (w d a b : Nat) (s : State) : Out := execX3 w d a b xSubus s

/-- NEG (05 R79). -/
def xNeg (w x : Nat) : Nat := (2 ^ w - x) % 2 ^ w

def execNeg (w d a : Nat) (s : State) : Out := execX2 w d a xNeg s

/-- ABS (05 R79). -/
def xAbs (w x : Nat) : Nat := if sext x w < 0 then (2 ^ w - x) % 2 ^ w else x

def execAbs (w d a : Nat) (s : State) : Out := execX2 w d a xAbs s

/-- AND (05 R84). -/
def xAnd (_ x y : Nat) : Nat := bAnd x y

def execAnd (w d a b : Nat) (s : State) : Out := execX3 w d a b xAnd s

/-- OR (05 R84). -/
def xOr (_ x y : Nat) : Nat := bOr x y

def execOr (w d a b : Nat) (s : State) : Out := execX3 w d a b xOr s

/-- XOR (05 R84). -/
def xXor (_ x y : Nat) : Nat := bXor x y

def execXor (w d a b : Nat) (s : State) : Out := execX3 w d a b xXor s

/-- ANDN (05 R84): A and the complement of B. -/
def xAndn (w x y : Nat) : Nat := bAnd x (2 ^ w - 1 - y)

def execAndn (w d a b : Nat) (s : State) : Out := execX3 w d a b xAndn s

/-- ANDI (05 R84). -/
def xAndi (_ x y : Nat) : Nat := bAnd x y

def execAndi (w d a i : Nat) (s : State) : Out := execXI w d a i xAndi s

/-- ORI (05 R84). -/
def xOri (_ x y : Nat) : Nat := bOr x y

def execOri (w d a i : Nat) (s : State) : Out := execXI w d a i xOri s

/-- XORI (05 R84). -/
def xXori (_ x y : Nat) : Nat := bXor x y

def execXori (w d a i : Nat) (s : State) : Out := execXI w d a i xXori s

/-- SHL (05 R85): the count is B modulo w. -/
def xShl (w x y : Nat) : Nat := x * 2 ^ (y % w) % 2 ^ w

def execShl (w d a b : Nat) (s : State) : Out := execX3 w d a b xShl s

/-- SHR (05 R85). -/
def xShr (w x y : Nat) : Nat := x / 2 ^ (y % w)

def execShr (w d a b : Nat) (s : State) : Out := execX3 w d a b xShr s

/-- SAR (05 R85). -/
def xSar (w x y : Nat) : Nat := toBits (sext x w / 2 ^ (y % w)) w

def execSar (w d a b : Nat) (s : State) : Out := execX3 w d a b xSar s

/-- SHLI (05 R85): the count is the immediate. -/
def xShli (w x y : Nat) : Nat := x * 2 ^ (y % w) % 2 ^ w

def execShli (w d a i : Nat) (s : State) : Out := execXC w d a i countBad xShli s

/-- SHRI (05 R85). -/
def xShri (w x y : Nat) : Nat := x / 2 ^ (y % w)

def execShri (w d a i : Nat) (s : State) : Out := execXC w d a i countBad xShri s

/-- SARI (05 R85). -/
def xSari (w x y : Nat) : Nat := toBits (sext x w / 2 ^ (y % w)) w

def execSari (w d a i : Nat) (s : State) : Out := execXC w d a i countBad xSari s

/-- ROL (05 R85). -/
def xRol (w x y : Nat) : Nat := (x * 2 ^ (y % w) + x / 2 ^ (w - y % w)) % 2 ^ w

def execRol (w d a b : Nat) (s : State) : Out := execX3 w d a b xRol s

/-- ROLI (05 R85). -/
def xRoli (w x y : Nat) : Nat := (x * 2 ^ (y % w) + x / 2 ^ (w - y % w)) % 2 ^ w

def execRoli (w d a i : Nat) (s : State) : Out := execXC w d a i countBad xRoli s

/-- SEQ (05 R87). -/
def xSeq (_ x y : Nat) : Nat := ofBool (x == y)

def execSeq (w d a b : Nat) (s : State) : Out := execX3 w d a b xSeq s

/-- SNE (05 R87). -/
def xSne (_ x y : Nat) : Nat := ofBool (x != y)

def execSne (w d a b : Nat) (s : State) : Out := execX3 w d a b xSne s

/-- SLT (05 R87). -/
def xSlt (w x y : Nat) : Nat := ofBool (decide (sext x w < sext y w))

def execSlt (w d a b : Nat) (s : State) : Out := execX3 w d a b xSlt s

/-- SLTU (05 R87). -/
def xSltu (_ x y : Nat) : Nat := ofBool (decide (x < y))

def execSltu (w d a b : Nat) (s : State) : Out := execX3 w d a b xSltu s

/-- SLE (05 R87). -/
def xSle (w x y : Nat) : Nat := ofBool (decide (sext x w ≤ sext y w))

def execSle (w d a b : Nat) (s : State) : Out := execX3 w d a b xSle s

/-- SLEU (05 R87). -/
def xSleu (_ x y : Nat) : Nat := ofBool (decide (x ≤ y))

def execSleu (w d a b : Nat) (s : State) : Out := execX3 w d a b xSleu s

/-- SEQI (05 R87). -/
def xSeqi (_ x y : Nat) : Nat := ofBool (x == y)

def execSeqi (w d a i : Nat) (s : State) : Out := execXI w d a i xSeqi s

/-- SLTI (05 R87). -/
def xSlti (w x y : Nat) : Nat := ofBool (decide (sext x w < sext y w))

def execSlti (w d a i : Nat) (s : State) : Out := execXI w d a i xSlti s

/-- MOV (05 R89). -/
def xMov (_ x : Nat) : Nat := x

def execMov (w d a : Nat) (s : State) : Out := execX2 w d a xMov s

/-- EXTS (05 R90): the low n bits of A, n the immediate. -/
def xExts (w x y : Nat) : Nat := toBits (sext x y) w

def execExts (w d a i : Nat) (s : State) : Out := execXC w d a i lengthBad xExts s

/-- EXTZ (05 R90). -/
def xExtz (_ x y : Nat) : Nat := zext x y

def execExtz (w d a i : Nat) (s : State) : Out := execXC w d a i lengthBad xExtz s

/-- CLZ (05 R91). -/
def xClz (w x : Nat) : Nat := countTop x w

def execClz (w d a : Nat) (s : State) : Out := execX2 w d a xClz s

/-- CTZ (05 R91). -/
def xCtz (w x : Nat) : Nat := countLow x w

def execCtz (w d a : Nat) (s : State) : Out := execX2 w d a xCtz s

/-- POPC (05 R91). -/
def xPopc (w x : Nat) : Nat := countOnes x w

def execPopc (w d a : Nat) (s : State) : Out := execX2 w d a xPopc s

/-- BREV (05 R91). -/
def xBrev (w x : Nat) : Nat := packFields 1 (splitFields 1 w x).reverse

def execBrev (w d a : Nat) (s : State) : Out := execX2 w d a xBrev s

/-- BEXT (05 R92): gather the bits of A that the mask B selects. -/
def xBext (w x y : Nat) : Nat := (gather x y w).1

def execBext (w d a b : Nat) (s : State) : Out := execX3 w d a b xBext s

/-- BEXTS (05 R92): as BEXT, sign-extended from the bits gathered. -/
def xBexts (w x y : Nat) : Nat := if (gather x y w).2 = 0 then 0 else toBits (sext (gather x y w).1 (gather x y w).2) w

def execBexts (w d a b : Nat) (s : State) : Out := execX3 w d a b xBexts s

/-- BDEP (05 R92): scatter the low bits of A to the ones of the mask B. -/
def xBdep (w x y : Nat) : Nat := scatter x y w

def execBdep (w d a b : Nat) (s : State) : Out := execX3 w d a b xBdep s

/-- MOVI (05 R89): the immediate, sign-extended and narrowed. -/
def execMovi (w d i : Nat) (s : State) : Out :=
  dispatch .x (intBody w d none none (fun _ => false) (fun e n _ _ => toBits (e.immS 7 i) n)) s

/-- MULW and MULWU write the 2W range (05 R81). -/
def wideBody (wc d a b : Nat) (f : Nat → Nat → Nat → Nat) (s : State) : Att :=
  let e := s.head .x
  let w := widthOf wc
  xBody { a := some (intSrc e false a w), b := some (intSrc e true b w), d := d, dw := 2 * w, dWide := true } w false
    (fun c x y _ => { value := f w x y, csr := c }) s

/-- MULW (05 R81). -/
def xMulw (w x y : Nat) : Nat := toBits (sext x w * sext y w) (2 * w)

def execMulw (w d a b : Nat) (s : State) : Out := dispatch .x (wideBody w d a b xMulw) s

/-- MULWU (05 R81). -/
def xMulwu (_ x y : Nat) : Nat := x * y

def execMulwu (w d a b : Nat) (s : State) : Out := dispatch .x (wideBody w d a b xMulwu) s

/-- FSHL and FSHR read the 2W range that A names (05 R86). -/
def funnelBody (wc d a b : Nat) (f : Nat → Nat → Nat → Nat) (s : State) : Att :=
  let w := widthOf wc
  xBody { a := some { field := a, width := 2 * w, wide := true }, b := some { field := b, width := w }, d := d, dw := w }
    (2 * w) false (fun c x y _ => { value := f w x y, csr := c }) s

/-- FSHL (05 R86): `x` is the 2w-bit range. -/
def xFshl (w x y : Nat) : Nat := x * 2 ^ (y % (2 * w)) / 2 ^ w % 2 ^ w

def execFshl (w d a b : Nat) (s : State) : Out := dispatch .x (funnelBody w d a b xFshl) s

/-- FSHR (05 R86). -/
def xFshr (w x y : Nat) : Nat := x / 2 ^ (y % (2 * w)) % 2 ^ w

def execFshr (w d a b : Nat) (s : State) : Out := dispatch .x (funnelBody w d a b xFshr) s

/-- SEL (05 R88): the destination, read at w bits, decides between A and B; no port may stand there. -/
def selBody (wc d a b : Nat) (s : State) : Att :=
  let e := s.head .x
  let w := widthOf wc
  xBody { a := some (intSrc e false a w), b := some (intSrc e true b w), c := some { field := d, width := w, wide := true }
          d := d, dw := w, dWide := true } w false
    (fun c x y z => { value := if z ≠ 0 then x else y, csr := c }) s

def execSel (w d a b : Nat) (s : State) : Out := dispatch .x (selBody w d a b) s

end Sys2Proof.Machine
end

