-- ==== Sys2Proof/Machine/Float.lean ====
section
/-! DEFINITION. The float and conversion instructions, 0x60 to 0x77 (13 R246 to R260). -/

namespace Sys2Proof.Machine

/-! ### Lane operations (13 R247 to R253) -/

/-- ai + bi of non-NaN values. -/
def addVals (f : Fmt) (rm : RMode) (sat : Bool) (a b : FVal) : FRes :=
  match a, b with
  | .inf x, .inf y => if x = y then { code := f.withSign x f.infCode } else f.invalid
  | .inf x, _ => { code := f.withSign x f.infCode }
  | _, .inf y => { code := f.withSign y f.infCode }
  | .fin x n e, .fin y k g => roundTo f rm sat (exactSum rm x n e y k g)
  | _, _ => f.invalid

/-- FADD, BADD (13 R247). -/
def fAdd (f : Fmt) (rm : RMode) (sat : Bool) (x y : Nat) : FRes :=
  (nanChoice [f.dec x, f.dec y]).getD (addVals f rm sat (f.dec x) (f.dec y))

def FVal.negate : FVal → FVal
  | .fin s n e => .fin (!s) n e
  | .inf s => .inf (!s)
  | .nan c g => .nan c g

/-- FSUB (13 R244, R247). -/
def fSub (f : Fmt) (rm : RMode) (sat : Bool) (x y : Nat) : FRes :=
  (nanChoice [f.dec x, f.dec y]).getD (addVals f rm sat (f.dec x) (f.dec y).negate)

/-- The exact product of non-NaN values; none for 0 × ∞. -/
def mulVals (a b : FVal) : Option FVal :=
  match a, b with
  | .inf x, .inf y => some (.inf (x != y))
  | .inf x, .fin y n _ => if n = 0 then none else some (.inf (x != y))
  | .fin x n _, .inf y => if n = 0 then none else some (.inf (x != y))
  | .fin x n e, .fin y k g => some (.fin (x != y) (n * k) (e + g))
  | _, _ => none

/-- A non-NaN exact value rounded. -/
def roundVal (f : Fmt) (rm : RMode) (sat : Bool) : FVal → FRes
  | .fin s n e => roundTo f rm sat { neg := s, n := n, e := e }
  | .inf s => { code := f.withSign s f.infCode }
  | .nan c _ => { code := c }

/-- FMUL, BMUL (13 R247). -/
def fMul (f : Fmt) (rm : RMode) (sat : Bool) (x y : Nat) : FRes :=
  match nanChoice [f.dec x, f.dec y] with
  | some r => r
  | none => match mulVals (f.dec x) (f.dec y) with
    | some v => roundVal f rm sat v
    | none => f.invalid

/-- The operands are 0 and ∞. -/
def zeroTimesInf (a b : FVal) : Bool :=
  match a, b with
  | .inf _, .fin _ n _ => n == 0
  | .fin _ n _, .inf _ => n == 0
  | _, _ => false

/-- FMA, BFMA (13 R247): one rounding; 0 × ∞ raises NV even beside a quiet NaN. -/
def fMulAdd (f : Fmt) (rm : RMode) (sat : Bool) (x y z : Nat) : FRes :=
  let a := f.dec x
  let b := f.dec y
  match nanChoice [a, b, f.dec z] with
  | some r => if zeroTimesInf a b then { r with flags := flagNV } else r
  | none => match mulVals a b with
    | some p => addVals f rm sat p (f.dec z)
    | none => f.invalid

/-- A code is a zero of either sign. -/
def isZeroCode (f : Fmt) (c : Nat) : Bool := c % f.signBit == 0

/-- FMULZ (13 R248). -/
def fMulZ (f : Fmt) (rm : RMode) (sat : Bool) (x y : Nat) : FRes :=
  if isZeroCode f x || isZeroCode f y then
    { code := f.withSign (bitAt x (f.width - 1) != bitAt y (f.width - 1)) 0 }
  else fMul f rm sat x y

/-- The order of codes that are not NaN, with −0 below +0. -/
def orderKey (f : Fmt) (c : Nat) : Int :=
  if bitAt c (f.width - 1) then -((c % f.signBit : Nat) : Int) - 1 else (c % f.signBit : Nat)

/-- FMIN, FMAX, BMIN, BMAX (13 R249); `first` says of two keys whether the first operand is written. -/
def fPick (f : Fmt) (first : Int → Int → Bool) (x y : Nat) : FRes :=
  let a := f.dec x
  let b := f.dec y
  let nv := if a.signals || b.signals then flagNV else 0
  match a.isNan, b.isNan with
  | true, true => (nanChoice [a, b]).getD { code := 0 }
  | true, false => { code := y, flags := nv }
  | false, true => { code := x, flags := nv }
  | false, false => { code := if first (orderKey f x) (orderKey f y) then x else y }

def fMin (f : Fmt) (x y : Nat) : FRes := fPick f (fun i j => decide (i ≤ j)) x y
def fMax (f : Fmt) (x y : Nat) : FRes := fPick f (fun i j => decide (j ≤ i)) x y

/-- The order of R251, in which −0 equals +0. -/
def valueKey (f : Fmt) (c : Nat) : Int :=
  if bitAt c (f.width - 1) then -((c % f.signBit : Nat) : Int) else (c % f.signBit : Nat)

/-- FCMPEQ, FCMPLT, FCMPLE (13 R251). -/
def fCompare (f : Fmt) (quietOk : Bool) (rel : Int → Int → Bool) (x y : Nat) : FRes :=
  let a := f.dec x
  let b := f.dec y
  if a.isNan || b.isNan then
    { code := 0, flags := if !quietOk || a.signals || b.signals then flagNV else 0 }
  else { code := ofBool (rel (valueKey f x) (valueKey f y)) }

/-- FCLASS (13 R252). -/
def fClass (f : Fmt) (x : Nat) : FRes :=
  let neg := bitAt x (f.width - 1)
  let bit := match f.dec x with
    | .inf s => if s then 0 else 7
    | .nan _ s => if s then 8 else 9
    | .fin _ n _ =>
      if n = 0 then (if neg then 3 else 4)
      else if n < 2 ^ f.m then (if neg then 2 else 5)
      else (if neg then 1 else 6)
  { code := 2 ^ bit }

/-! ### Functions of one operand (13 R250) -/

/-- The integer square root, bit by bit from bit `i − 1` down. -/
def isqrtFrom (x : Nat) : Nat → Nat → Nat
  | 0, r => r
  | i + 1, r => isqrtFrom x i (if (r + 2 ^ i) * (r + 2 ^ i) ≤ x then r + 2 ^ i else r)

/-- 1 / (n × 2^e), n > 0. -/
def recipExact (neg : Bool) (n : Nat) (e : Int) : Exact :=
  let k := Nat.log2 n + 64
  { neg := neg, n := 2 ^ k / n, e := -e - (k : Int), sticky := 2 ^ k % n != 0 }

/-- 1 / sqrt(n × 2^e), n > 0. -/
def rsqrtExact (n : Nat) (e : Int) : Exact :=
  let k := Nat.log2 n + 64
  let t := if (((k : Int) + e) % 2 = 0) then k else k + 1
  let x := 2 ^ t / n
  let y := isqrtFrom x 40 0
  { neg := false, n := y, e := -(((t : Int) + e) / 2), sticky := 2 ^ t % n != 0 || y * y != x }

/-- Bits after the point in the evaluation of FEXP2 and FLOG2, whose values are irrational but where they are exact. The
result is the correct rounding unless the value lies within about 2^−300 of a boundary: DEDUCED, log 21. -/
def evalBits : Nat := 320

/-- ln 2 × 2^320. -/
def ln2 : Nat := 0xb17217f7d1cf79abc9e3b39803f2f6af40f343267298b62d8a0d175b8baafa2be7b876206debac98

/-- The terms x^i / i! of exp, from term `t` with index i on. -/
def expTerms (x : Nat) : Nat → Nat → Nat → Nat
  | 0, _, _ => 0
  | k + 1, i, t => t + expTerms x k (i + 1) (t * x / 2 ^ evalBits / (i + 1))

/-- 2^a for a finite a = n × 2^e that is not zero. -/
def exp2Exact (neg : Bool) (n : Nat) (e : Int) : Exact :=
  -- beyond ±2^10 the result rounds as that of 2^±1024
  if 1024 ≤ (if 0 ≤ e then n * 2 ^ e.toNat else n / 2 ^ (-e).toNat) then
    { neg := false, n := 1, e := if neg then -1024 else 1024 }
  else
    let d : Nat := 2 ^ (-e).toNat
    let v : Int := if neg then -((n * 2 ^ e.toNat : Nat) : Int) else (n * 2 ^ e.toNat : Nat)
    let i := v / (d : Int)
    let r := (v % (d : Int)).toNat
    if r = 0 then { neg := false, n := 1, e := i }
    else
      let y := expTerms (r * ln2 / d) 80 0 (2 ^ evalBits)
      { neg := false, n := y / 2 ^ 80, e := i - 240, sticky := true }

/-- The terms z^(2k+1) / (2k+1) of atanh z, with `p` the power for the odd number `j`. -/
def atanhTerms (z2 : Nat) : Nat → Nat → Nat → Nat
  | 0, _, _ => 0
  | k + 1, j, p => p / j + atanhTerms z2 k (j + 2) (p * z2 / 2 ^ evalBits)

/-- log2 of a = n × 2^e, n > 0: the exact integer for a power of two, else a value with its sign. -/
def log2Exact (n : Nat) (e : Int) : Exact :=
  let l := Nat.log2 n
  let i : Int := e + (l : Int)
  if n = 2 ^ l then { neg := decide (i < 0), n := i.natAbs, e := 0 }
  else
    let z := (n - 2 ^ l) * 2 ^ evalBits / (n + 2 ^ l)
    let lnm := 2 * atanhTerms (z * z / 2 ^ evalBits) 110 1 z
    let v : Int := i * (2 ^ evalBits : Nat) + ((lnm * 2 ^ evalBits / ln2 : Nat) : Int)
    { neg := decide (v < 0), n := v.natAbs / 2 ^ 80, e := -240, sticky := true }

def fRcp (f : Fmt) (rm : RMode) (sat : Bool) (x : Nat) : FRes :=
  match f.dec x with
  | .nan c s => (nanChoice [.nan c s]).getD { code := c }
  | .inf s => { code := f.withSign s 0 }
  | .fin s n e =>
    if n = 0 then { code := f.withSign s f.infCode, flags := flagDZ } else roundTo f rm sat (recipExact s n e)

def fRsq (f : Fmt) (rm : RMode) (sat : Bool) (x : Nat) : FRes :=
  match f.dec x with
  | .nan c s => (nanChoice [.nan c s]).getD { code := c }
  | .inf s => if s then f.invalid else { code := 0 }
  | .fin s n e =>
    if n = 0 then { code := f.withSign s f.infCode, flags := flagDZ }
    else if s then f.invalid else roundTo f rm sat (rsqrtExact n e)

def fExp2 (f : Fmt) (rm : RMode) (sat : Bool) (x : Nat) : FRes :=
  match f.dec x with
  | .nan c s => (nanChoice [.nan c s]).getD { code := c }
  | .inf s => { code := if s then 0 else f.infCode }
  | .fin s n e => if n = 0 then roundTo f rm sat { neg := false, n := 1, e := 0 } else roundTo f rm sat (exp2Exact s n e)

def fLog2 (f : Fmt) (rm : RMode) (sat : Bool) (x : Nat) : FRes :=
  match f.dec x with
  | .nan c s => (nanChoice [.nan c s]).getD { code := c }
  | .inf s => if s then f.invalid else { code := f.infCode }
  | .fin s n e =>
    if n = 0 then { code := f.withSign true f.infCode, flags := flagDZ }
    else if s then f.invalid else roundTo f rm sat (log2Exact n e)

/-- RADDF's tree (13 R253). -/
def fTree (rm : RMode) (sat : Bool) (l : List Nat) : FRes :=
  match l with
  | [a] => fAdd fp32 rm sat a 0x80000000
  | [a, b] => fAdd fp32 rm sat a b
  | [a, b, c, d] =>
    let p := fAdd fp32 rm sat a b
    let q := fAdd fp32 rm sat c d
    let r := fAdd fp32 rm sat p.code q.code
    { r with flags := bOr r.flags (bOr p.flags q.flags) }
  | _ => { code := 0 }

/-- SCACC on one lane (13 R260). -/
def fScale (rm : RMode) (sat : Bool) (x y z : Nat) : FRes :=
  let ea := fld y 0 8
  let eb := fld y 8 8
  if ea = 255 ∨ eb = 255 ∨ fld y 24 8 ≠ 0 then fp32.invalid
  else match fp32.dec z with
    | .nan c s => { code := c, flags := if s then flagNV else 0 }
    | d =>
      let v := sext x 32
      addVals fp32 rm sat d (.fin (decide (v < 0)) v.natAbs ((ea : Int) + (eb : Int) - 254 + sext (fld y 16 8) 8))

/-! ### The instructions -/

/-- RM and SAT of a head, with the default SAT (03 R53, 13 R246). -/
def Entry.rounding (e : Entry) (sat : Bool) : RMode × Bool :=
  match e.hmod with
  | some h => (rmode (fld h 21 3), bitAt h 20)
  | none => (.rne, sat)

/-- A float instruction on lanes of a format: sources A and B, and D as a source when `acc` (13 R246). -/
def floatBody (f : Fmt) (wc d : Nat) (a b : Option Nat) (acc : Bool) (g : RMode → Bool → Nat → Nat → Nat → FRes)
    (s : State) : Att :=
  let w := widthOf wc
  let r := (s.head .x).rounding false
  let src (x : Nat) : XSrc := { field := x, width := w }
  xBody { a := a.map src, b := b.map src, c := if acc then some { field := d, width := w, wide := true } else none
          d := d, dw := w, dWide := acc } w false
    (fun c x y z =>
      let l := (upTo (w / f.width)).map (fun i =>
        g r.1 r.2 (fld x (f.width * i) f.width) (fld y (f.width * i) f.width) (fld z (f.width * i) f.width))
      { value := packFields f.width (l.map (fun q => q.code)), flags := flagsOf l, csr := c }) s

/-- Two sources. -/
def execF3 (f : Fmt) (w d a b : Nat) (g : RMode → Bool → Nat → Nat → FRes) (s : State) : Out :=
  dispatch .x (floatBody f w d (some a) (some b) false (fun rm sat x y _ => g rm sat x y)) s

/-- Two sources and the destination. -/
def execF4 (f : Fmt) (w d a b : Nat) (g : RMode → Bool → Nat → Nat → Nat → FRes) (s : State) : Out :=
  dispatch .x (floatBody f w d (some a) (some b) true g) s

/-- One source. -/
def execF2 (f : Fmt) (w d a : Nat) (g : RMode → Bool → Nat → FRes) (s : State) : Out :=
  dispatch .x (floatBody f w d (some a) none false (fun rm sat x _ _ => g rm sat x)) s

def execFadd (w d a b : Nat) (s : State) : Out := execF3 fp32 w d a b (fAdd fp32) s
def execFsub (w d a b : Nat) (s : State) : Out := execF3 fp32 w d a b (fSub fp32) s
def execFmul (w d a b : Nat) (s : State) : Out := execF3 fp32 w d a b (fMul fp32) s
def execFma (w d a b : Nat) (s : State) : Out := execF4 fp32 w d a b (fMulAdd fp32) s
def execFmulz (w d a b : Nat) (s : State) : Out := execF3 fp32 w d a b (fMulZ fp32) s
def execFmin (w d a b : Nat) (s : State) : Out := execF3 fp32 w d a b (fun _ _ x y => fMin fp32 x y) s
def execFmax (w d a b : Nat) (s : State) : Out := execF3 fp32 w d a b (fun _ _ x y => fMax fp32 x y) s
def execFrcp (w d a : Nat) (s : State) : Out := execF2 fp32 w d a (fRcp fp32) s
def execFrsq (w d a : Nat) (s : State) : Out := execF2 fp32 w d a (fRsq fp32) s
def execFexp2 (w d a : Nat) (s : State) : Out := execF2 fp32 w d a (fExp2 fp32) s
def execFlog2 (w d a : Nat) (s : State) : Out := execF2 fp32 w d a (fLog2 fp32) s
def execFcmpeq (w d a b : Nat) (s : State) : Out :=
  execF3 fp32 w d a b (fun _ _ x y => fCompare fp32 true (fun i j => i == j) x y) s
def execFcmplt (w d a b : Nat) (s : State) : Out :=
  execF3 fp32 w d a b (fun _ _ x y => fCompare fp32 false (fun i j => decide (i < j)) x y) s
def execFcmple (w d a b : Nat) (s : State) : Out :=
  execF3 fp32 w d a b (fun _ _ x y => fCompare fp32 false (fun i j => decide (i ≤ j)) x y) s
def execFclass (w d a : Nat) (s : State) : Out := execF2 fp32 w d a (fun _ _ x => fClass fp32 x) s
def execBadd (w d a b : Nat) (s : State) : Out := execF3 bf16 w d a b (fAdd bf16) s
def execBmul (w d a b : Nat) (s : State) : Out := execF3 bf16 w d a b (fMul bf16) s
def execBfma (w d a b : Nat) (s : State) : Out := execF4 bf16 w d a b (fMulAdd bf16) s
def execBmax (w d a b : Nat) (s : State) : Out := execF3 bf16 w d a b (fun _ _ x y => fMax bf16 x y) s
def execBmin (w d a b : Nat) (s : State) : Out := execF3 bf16 w d a b (fun _ _ x y => fMin bf16 x y) s
def execScacc (w d a b : Nat) (s : State) : Out := execF4 fp32 w d a b fScale s

/-- RADDF: the tree's sum in lane 0, zero above it (13 R253). -/
def raddfBody (wc d a : Nat) (s : State) : Att :=
  let w := widthOf wc
  let r := (s.head .x).rounding false
  xBody { a := some { field := a, width := w }, b := none, d := d, dw := w } w false
    (fun c x _ _ =>
      let q := fTree r.1 r.2 (splitFields 32 (w / 32) x)
      { value := q.code, flags := q.flags, csr := c }) s

def execRaddf (w d a : Nat) (s : State) : Out := dispatch .x (raddfBody w d a) s

/-- The default SAT of a destination (13 R255). -/
def defaultSat (dst : Nat) : Bool := dst == 2 || decide (4 ≤ dst)

/-- CVT: n lanes of the source's width are read, n of the destination's written (13 R254, R255). -/
def cvtBody (wc d a dst src : Nat) (s : State) : Att :=
  let n := widthOf wc / max (fmtWidth src) (fmtWidth dst)
  let r := (s.head .x).rounding (defaultSat dst)
  xBody { a := some { field := a, width := n * fmtWidth src }, b := none, d := d, dw := n * fmtWidth dst }
    (n * fmtWidth src) false
    (fun c x _ _ =>
      let l := (splitFields (fmtWidth src) n x).map (fun q => convert dst src r.1 r.2 q)
      { value := packFields (fmtWidth dst) (l.map (fun q => q.code)), flags := flagsOf l, csr := c }) s

def execCvt (w d a t sr : Nat) (s : State) : Out := dispatch .x (cvtBody w d a t sr) s

/-- The lanes of CVTSR, each with one word of the generator (13 R257, R258). -/
def convertSR (dst src : Nat) (sat : Bool) : BitVec 64 → List Nat → List FRes × BitVec 64
  | x, [] => ([], x)
  | x, q :: rest =>
    let x1 := rngStep x
    let t := convertSR dst src sat x1 rest
    (convert dst src (.sr (x1.toNat / 2 ^ 32)) sat q :: t.1, t.2)

def cvtsrBody (wc d a dst src : Nat) (s : State) : Att :=
  let n := widthOf wc / max (fmtWidth src) (fmtWidth dst)
  let sat := ((s.head .x).rounding (defaultSat dst)).2
  xBody { a := some { field := a, width := n * fmtWidth src }, b := none, d := d, dw := n * fmtWidth dst }
    (n * fmtWidth src) false
    (fun c x _ _ =>
      let l := convertSR dst src sat c.rng (splitFields (fmtWidth src) n x)
      { value := packFields (fmtWidth dst) (l.1.map (fun q => q.code)), flags := flagsOf l.1, csr := { c with rng := l.2 } }) s

def execCvtsr (w d a t sr : Nat) (s : State) : Out := dispatch .x (cvtsrBody w d a t sr) s

end Sys2Proof.Machine
end

