-- ==== Sys2Proof/Machine/Copy.lean ====
section
/-! DEFINITION. The stream copy engine (11 R200 to R204; 14 R262 to R287). -/

namespace Sys2Proof.Machine

/-! ### The record (11 R201, 14 R264) -/

def CopyRec.f (r : CopyRec) (lo n : Nat) : Nat := fld r.toNat lo n
def CopyRec.soff (r : CopyRec) : Nat := r.f 0 64
def CopyRec.spitch (r : CopyRec) : Nat := r.f 64 32
def CopyRec.rows (r : CopyRec) : Nat := r.f 96 16
def CopyRec.cols (r : CopyRec) : Nat := r.f 112 16
def CopyRec.doff (r : CopyRec) : Nat := r.f 128 64
def CopyRec.dpitch (r : CopyRec) : Nat := r.f 192 32
def CopyRec.erows (r : CopyRec) : Nat := r.f 224 16
def CopyRec.ecols (r : CopyRec) : Nat := r.f 240 16
def CopyRec.sfmt (r : CopyRec) : Nat := r.f 256 8
def CopyRec.dfmt (r : CopyRec) : Nat := r.f 264 8
def CopyRec.trans (r : CopyRec) : Bool := r.f 272 1 == 1
def CopyRec.nosat (r : CopyRec) : Bool := r.f 273 1 == 1
def CopyRec.smode (r : CopyRec) : Nat := r.f 274 2
def CopyRec.rm (r : CopyRec) : Nat := r.f 276 3
def CopyRec.scale (r : CopyRec) : Nat := r.f 280 8
def CopyRec.hsize (r : CopyRec) : Nat := r.f 288 2
def CopyRec.spauto (r : CopyRec) : Bool := r.f 290 1 == 1
def CopyRec.gather (r : CopyRec) : Bool := r.f 291 1 == 1
def CopyRec.crcm (r : CopyRec) : Nat := r.f 292 2
def CopyRec.csrc (r : CopyRec) : Bool := r.f 294 1 == 1
def CopyRec.cdst (r : CopyRec) : Bool := r.f 295 1 == 1
def CopyRec.special (r : CopyRec) : Nat := r.f 296 5
def CopyRec.shp (r : CopyRec) : Bool := r.f 303 1 == 1
def CopyRec.srseed (r : CopyRec) : Nat := r.f 320 32
def CopyRec.sideoff (r : CopyRec) : Nat := r.f 352 48
def CopyRec.crcoff (r : CopyRec) : Nat := r.f 400 48
def CopyRec.goff (r : CopyRec) : Nat := r.f 448 48

/-- Bits of an element of a format code (14 R265); 0 for a reserved code. -/
def copyBits (f : Nat) : Nat :=
  match f with
  | 0x00 => 8
  | 0x01 => 16
  | 0x02 => 32
  | 0x03 => 16
  | 0x04 => 8
  | 0x05 => 8
  | 0x06 => 4
  | 0x07 => 8
  | 0x08 => 16
  | 0x09 => 32
  | 0x0A => 32
  | 0x0B => 64
  | _ => 0

def copyRaw (f : Nat) : Bool := f == 0 || f == 1 || f == 0x0A || f == 0x0B

def fmtE2M1x : Nat := 0x06

/-- The format number of 13 R254 for a format code. -/
def copyFmt (f : Nat) : Nat :=
  match f with
  | 0x02 => 0
  | 0x03 => 1
  | 0x05 => 2
  | 0x04 => 3
  | 0x07 => 4
  | 0x08 => 5
  | _ => 6

/-- ℓ, N and L of 14 R265. -/
def CopyRec.ell (r : CopyRec) : Nat := if r.trans then r.rows else r.cols
def CopyRec.outRows (r : CopyRec) : Nat := if r.trans then r.cols else r.rows
def CopyRec.rowLen (r : CopyRec) : Nat := r.ell * copyBits r.dfmt / 8
/-- Bytes of a source element. -/
def CopyRec.srcSize (r : CopyRec) : Nat := copyBits r.sfmt / 8
/-- Rows and columns that the source supplies. -/
def CopyRec.srcRows (r : CopyRec) : Nat := min r.rows r.erows
def CopyRec.srcCols (r : CopyRec) : Nat := min r.cols r.ecols
def CopyRec.group (r : CopyRec) : Nat := if r.hsize = 0 then 0 else 8 * 2 ^ r.hsize
/-- Bytes of a source row that are read. -/
def CopyRec.srcLen (r : CopyRec) : Nat := r.srcCols * r.srcSize
/-- The destination span (11 R203). -/
def CopyRec.span (r : CopyRec) : Nat := (r.outRows - 1) * r.dpitch + r.rowLen
def CopyRec.blocks (r : CopyRec) : Nat := r.outRows * (r.ell / 32)
/-- Bytes of the side plane (14 R271). -/
def CopyRec.sideLen (r : CopyRec) : Nat :=
  if r.dfmt = fmtE2M1x then 2 * r.blocks else if r.smode = 2 then 1 else if r.smode = 3 then r.blocks else 0
def CopyRec.sideAt (r : CopyRec) : Nat := r.sideoff + (if r.shp then 16 else 0)
/-- D and the worst-case size of a compressed buffer for `n` bytes of stream (14 R274, R275). -/
def compData (n : Nat) : Nat := 64 + 16 * ((4 * ((n + 511) / 512) + 15) / 16)
def compSize (n : Nat) : Nat := compData n + 512 * ((n + 511) / 512)

/-- The source footprint (11 R200): its length; 0 when it is empty or is taken by GATHER or CSRC's header. -/
def CopyRec.footLen (r : CopyRec) : Nat :=
  if r.csrc then 64
  else if r.gather || r.srcRows == 0 || r.srcCols == 0 then 0
  else (r.srcRows - 1) * r.spitch + r.srcLen

/-- The ranges in ca: start offset, length, and the bit of the field that places it (14 R266, R282). -/
def CopyRec.srcRanges (r : CopyRec) : List (Nat × Nat × Nat) :=
  [(if r.csrc then 0 else r.soff, r.footLen, 0)] ++
    (if r.gather then [(r.goff, 4 * r.rows, 448)] else []) ++
    (if r.crcm = 2 then [(r.crcoff, 8 * r.srcRows, 400)] else [])

/-- The ranges in cb, with `n` bytes from DOFF on. -/
def CopyRec.dstRanges (r : CopyRec) (n : Nat) : List (Nat × Nat × Nat) :=
  [(r.doff, n, 128)] ++
    (if r.shp then [(r.sideoff, 16, 352)] else []) ++
    [(r.sideAt, r.sideLen, 352)] ++
    (if r.crcm = 1 then [(r.crcoff, 8 * r.outRows, 400)] else [])

/-- The first 13 cases of 14 R266 in their order, each with the bit it reports. -/
def CopyRec.cases (r : CopyRec) (caBase : Nat) : List (Bool × Nat) :=
  let sRaw := copyRaw r.sfmt
  let dRaw := copyRaw r.dfmt
  let scaled := r.smode == 2 || r.smode == 3
  [ (r.rows == 0, 96), (r.cols == 0, 112),
    (copyBits r.sfmt == 0 || r.sfmt == fmtE2M1x, 256), (copyBits r.dfmt == 0, 264),
    (sRaw != dRaw || (sRaw && r.sfmt != r.dfmt), 256),
    (decide (6 ≤ r.rm), 276), (r.rm == 5 && !(r.dfmt == 3 || r.dfmt == 4 || r.dfmt == 5), 276),
    (r.dfmt == fmtE2M1x && r.rm != 0, 276),
    (r.smode != 0 && (sRaw || dRaw), 274), (r.smode == 1 && r.scale == 255, 280),
    (scaled && !(r.dfmt == 5 || r.dfmt == fmtE2M1x), 274),
    (r.hsize != 0 && (r.cols % r.group != 0 || sRaw || dRaw), 288),
    (r.spauto && r.dfmt != fmtE2M1x, 290), (r.special != 0 && r.dfmt != fmtE2M1x, 296),
    (r.nosat && r.dfmt == fmtE2M1x, 273),
    ((r.smode == 3 || r.dfmt == fmtE2M1x) && r.ell % 32 != 0, if r.trans then 96 else 112),
    (decide (r.dpitch < r.rowLen), 192),
    (r.crcm == 3, 292),
    (r.csrc && (r.gather || r.crcm == 2 || caBase % 64 != 0), 294),
    (r.cdst && (r.doff != 0 || r.dpitch != r.rowLen || r.dfmt == fmtE2M1x || scaled || r.shp || r.crcm == 1), 295),
    (r.sideoff != 0 && !r.shp && r.sideLen == 0, 352), (r.crcoff != 0 && r.crcm == 0, 400),
    (r.goff != 0 && !r.gather, 448),
    (r.f 279 1 != 0, 279), (r.f 301 2 != 0, 301), (r.f 304 16 != 0, 304), (r.f 496 16 != 0, 496) ]

/-- Case 14: the bits of the overlapping pairs of a source and a destination range, the destination span among them. -/
def CopyRec.meets (r : CopyRec) (caBase cbBase : Nat) : List Nat :=
  r.srcRanges.flatMap (fun a => ((r.dstRanges r.span).filter (fun b =>
    decide (0 < a.2.1) && decide (0 < b.2.1) && overlaps (caBase + a.1) a.2.1 (cbBase + b.1) b.2.1)).map
      (fun b => min a.2.2 b.2.2))

/-- The bit that COPY_RECORD reports, if the record is refused (14 R266). -/
def CopyRec.bad (r : CopyRec) (caBase cbBase : Nat) : Option Nat :=
  match (r.cases caBase).find? (fun c => c.1) with
  | some c => some c.2
  | none => (r.meets caBase cbBase).min?

/-- The start of the first range that does not lie in `n` bytes. -/
def outside (n : Nat) (l : List (Nat × Nat × Nat)) : Option Nat :=
  (l.find? (fun x => decide (0 < x.2.1) && decide (n < x.1 + x.2.1))).map (fun x => x.1)

/-- What a failed check of an engine command gives: a code and a value. -/
abbrev Refused := Option (Nat × Nat)

/-- The first failure of a list of checks. -/
def firstBad (l : List (Bool × Nat × Nat)) : Refused := (l.find? (fun x => !x.1)).map (fun x => x.2)

def boundsBad (n : Nat) (l : List (Nat × Nat × Nat)) : Refused := (outside n l).map (fun v => (tCAP_BOUNDS, v))

/-- The checks of 14 R282; `na` and `nb` stand for ca and cb in TRAPVAL. -/
def copyChecks (r : CopyRec) (ca cb : AReg) (na nb : Nat) : Refused :=
  (firstBad [(ca.tag, tCAP_TAG, na), (cb.tag, tCAP_TAG, nb),
    (ca.perm permLD && ca.perm permENG, tCAP_PERM, na),
    (cb.perm permST && cb.perm permENG && (!r.cdst || cb.perm permLD), tCAP_PERM, nb)]).or <|
  ((r.bad ca.base cb.base).map (fun v => (tCOPY_RECORD, v))).or <|
  (boundsBad (ca.top - ca.base) r.srcRanges).or
    (boundsBad (cb.top - cb.base) (r.dstRanges (if r.cdst then compSize r.span else r.span)))

/-- The fields that CPYCHK's record must leave zero, by lowest bit and width (14 R285). -/
def checkZero : List (Nat × Nat) :=
  [(192, 32), (264, 8), (272, 1), (273, 1), (274, 2), (276, 3), (279, 1), (280, 8), (288, 2), (290, 1), (291, 1),
   (292, 2), (294, 1), (295, 1), (296, 5), (301, 2), (303, 1), (304, 16), (320, 32), (352, 48), (448, 48), (496, 16)]

/-- The checks of 14 R285. -/
def checkChecks (r : CopyRec) (ca cb : AReg) (na nb : Nat) : Refused :=
  (firstBad ([(ca.tag, tCAP_TAG, na), (cb.tag, tCAP_TAG, nb),
    (ca.perm permLD && ca.perm permENG, tCAP_PERM, na),
    (cb.perm permLD && cb.perm permST && cb.perm permENG, tCAP_PERM, nb),
    (r.rows != 0, tCOPY_RECORD, 96), (r.cols != 0, tCOPY_RECORD, 112),
    (copyBits r.sfmt != 0 && r.sfmt != fmtE2M1x, tCOPY_RECORD, 256)] ++
    checkZero.map (fun x => (r.f x.1 x.2 == 0, tCOPY_RECORD, x.1)))).or <|
  (boundsBad (ca.top - ca.base) [(r.soff, r.footLen, 0)]).or
    (boundsBad (cb.top - cb.base) [(r.crcoff, 8 * r.srcRows, 0), (r.doff, 16, 0)])

/-- The virtual ranges that the command pins when it is issued (14 R281, R285). -/
def copyPins (r : CopyRec) (ca : AReg) : List (Nat × Nat) :=
  if r.csrc then [(ca.base, ca.top - ca.base)]
  else r.srcRanges.map (fun x => (ca.base + x.1, x.2.1))

def checkPins (r : CopyRec) (ca cb : AReg) : List (Nat × Nat) :=
  [(ca.base + r.soff, r.footLen), (cb.base + r.crcoff, 8 * r.srcRows)]

/-! ### Check sums (14 R277) -/

/-- One bit of the reflected CRC-64. -/
def crcBits : Nat → BitVec 64 → BitVec 64
  | 0, x => x
  | n + 1, x => crcBits n (if bitAt x.toNat 0 then (x >>> 1) ^^^ 0xC96C5795D7870F42 else x >>> 1)

/-- The state of a CRC-64 behind a list of bytes. -/
def crcRun (x : BitVec 64) (l : List Byte) : BitVec 64 :=
  l.foldl (fun (y : BitVec 64) (b : Byte) => crcBits 8 (y ^^^ b.setWidth 64)) x

/-- All ones: the first state of a CRC-64, and what its last is combined with. -/
def crcOnes : BitVec 64 := BitVec.ofNat 64 (2 ^ 64 - 1)

/-- The CRC-64 of a list of bytes. -/
def crc64 (l : List Byte) : Nat := (crcRun crcOnes l ^^^ crcOnes).toNat

/-! ### Compressed buffers (14 R274 to R276) -/

/-- A page of a compressed buffer must be ENGINE_ONLY and map CM. -/
def compPage (e : Eng) (n : Need) (s : State) (va : Nat) : EngRes Unit :=
  (engPage e n s va).andThen (fun t pa =>
    let only := match tlbFind (t.region e.region).eff.ptroot.toNat va (t.cluster e.clu).tlb with
      | some x => bitAt x.entry.toNat 4
      | none => false
    let cm := match placeOf pa with
      | some (.cm _) => true
      | _ => false
    .check t (decide (va < ownLm) && only && cm) tCOMPRESSED_FORMAT va (.ok t ()))

/-- The pages of a range, by the address in each. -/
def pagesOf (va len : Nat) : List Nat :=
  (upTo (len / 4096 + 2)).filterMap (fun i =>
    let a := if i = 0 then va else alignDown va 4096 + 4096 * i
    if a < va + len then some a else none)

def compRead (e : Eng) (s : State) (va len : Nat) : EngRes (List Byte) :=
  (engFold (fun t _ p => compPage e { r := true } t p) (pagesOf va len) s ()).andThen (fun t _ => engRead e t va len)

/-- The non-zero bytes of a sparse chunk put back under its map. -/
def unsparse (map : Nat) : Nat → Nat → List Byte → List Byte
  | _, 0, _ => []
  | i, n + 1, l =>
    if bitAt map i then (l.headD 0) :: unsparse map (i + 1) n l.tail else 0 :: unsparse map (i + 1) n l

/-- The bytes of one chunk of the stream. Data offsets count from the start of the data area, and addresses of faults in a header,
and of a row past SLEN, are the header's: DEDUCED, log 23. -/
def compChunk (e : Eng) (ca : AReg) (s : State) (i : Nat) : EngRes (List Byte) :=
  (compRead e s ca.base 64).andThen (fun s1 hb =>
    let h := ofBytes hb
    let slen := fld h 0 32
    let nch := fld h 32 32
    let d := ca.base + compData slen
    .check s1 (nch == (slen + 511) / 512 && fld h 96 416 == 0 && decide (i < nch)) tCOMPRESSED_FORMAT ca.base <|
    let ea := ca.base + 64 + 4 * i
    .check s1 (decide (ea + 4 ≤ ca.top)) tCOMPRESSED_FORMAT ea <|
    (compRead e s1 ea 4).andThen (fun s2 eb =>
      let w := ofBytes eb
      let kind := fld w 0 2
      let len := min 512 (slen - 512 * i)
      let at_ := d + 16 * fld w 4 28
      .check s2 (kind != 3 && fld w 2 2 == 0) tCOMPRESSED_FORMAT ea <|
      if kind = 0 then .ok s2 (List.replicate len 0)
      else if kind = 1 then
        .check s2 (decide (at_ + len ≤ ca.top)) tCOMPRESSED_FORMAT at_ (compRead e s2 at_ len)
      else
        .check s2 (decide (at_ + 64 ≤ ca.top)) tCOMPRESSED_FORMAT at_ <|
        (compRead e s2 at_ 64).andThen (fun s3 mb =>
          let map := ofBytes mb
          let n := ((upTo len).filter (fun j => bitAt map j)).length
          .check s3 (decide (at_ + 64 + n ≤ ca.top)) tCOMPRESSED_FORMAT at_ <|
          (compRead e s3 (at_ + 64) n).andThen (fun s4 nz => .ok s4 (unsparse map 0 len nz)))))

/-- Bytes of the decompressed stream. -/
def compBytes (e : Eng) (ca : AReg) (s : State) (off len : Nat) : EngRes (List Byte) :=
  if len = 0 then .ok s []
  else
    (compRead e s ca.base 64).andThen (fun s1 hb =>
      .check s1 (decide (off + len ≤ fld (ofBytes hb) 0 32)) tCOMPRESSED_FORMAT ca.base <|
      let first := off / 512
      let last := (off + len - 1) / 512
      (engMap (fun t i => compChunk e ca t (first + i)) (upTo (last - first + 1)) s1).andThen (fun s2 l =>
        .ok s2 ((l.flatten.drop (off % 512)).take len)))

/-- A chunk as it is stored: its kind and its data. -/
def compEncode (b : List Byte) : Nat × List Byte :=
  let nz := b.filter (fun x => x != 0)
  if nz.isEmpty then (0, [])
  else if 64 + nz.length < b.length then
    (2, toBytes 64 (packFields 1 (b.map (fun x => ofBool (x != 0)))) ++ nz)
  else (1, b)

/-! ### The path of an element (14 R267 to R272) -/

/-- Where source row `r` starts, and for a gathered row its bounds; its pin is asked for before it is read (14 R267, R280,
R281). -/
def copyRowAt (e : Eng) (r : CopyRec) (ca : AReg) (s : State) (row : Nat) : EngRes Nat :=
  if r.gather then
    (engNat e s (ca.base + r.goff + 4 * row) 4).andThen (fun s1 idx =>
      let off := r.soff + idx * r.spitch
      .check s1 (r.srcLen == 0 || decide (off + r.srcLen ≤ ca.top - ca.base)) tCOPY_RECORD row <|
      let cl := s1.cluster e.clu
      let p := Sparse.get {} cl.copies e.id
      if p.gathered.contains row || r.srcLen == 0 then .ok s1 off
      else
        let s2 := s1.setCluster e.clu { cl with copies := Sparse.put cl.copies e.id { p with gathered := row :: p.gathered } }
        .wait (s2.pinRange e.clu e.id e.core e.region e.op (.engine e.clu e.id) (ca.base + off) r.srcLen))
  else .ok s (r.soff + row * r.spitch)

/-- `n` elements of source row `row` from column `col` on. -/
def copyElems (e : Eng) (r : CopyRec) (ca : AReg) (s : State) (row col n : Nat) : EngRes (List Nat) :=
  (copyRowAt e r ca s row).andThen (fun s1 off =>
    let sz := r.srcSize
    let bytes := if r.csrc then compBytes e ca s1 (off + col * sz) (n * sz) else engRead e s1 (ca.base + off + col * sz) (n * sz)
    bytes.andThen (fun s2 b => .ok s2 (splitFields (8 * sz) n (ofBytes b))))

/-- One stage of the butterfly over pairs at distance `d` (14 R269). -/
def butterfly (d : Nat) (l : List Nat) : List Nat :=
  (upTo l.length).map (fun j =>
    let a := l.getD j 0
    if j / d % 2 = 0 then (fAdd fp32 .rne false a (l.getD (j + d) 0)).code
    else (fSub fp32 .rne false (l.getD (j - d) 0) a).code)

/-- An element widened to FP32 for the rotation: exactly, so that a signalling NaN stays one; INT32 by RNE (14 R269). -/
def copyWiden (src c : Nat) : Nat :=
  if src = 0 then c
  else
    let w := (convert 0 src .rne false c).code
    if (decFmt src c).signals then w - fp32.quietBit else w

/-- The rotation of one group, in FP32. -/
def hadamard (h : Nat) (l : List Nat) : List Nat :=
  let y := (upTo (Nat.log2 h)).foldl (fun (m : List Nat) k => butterfly (2 ^ k) m) l
  let f := if h = 16 then 0x3E800000 else 0x3E000000
  y.map (fun x => (fMul fp32 .rne false x f).code)

/-- The elements that a source row supplies from column `c0` on, `n` of them: format number and codes, none where no
source element supplies the position (14 R267, R268). Rotated groups are read whole. -/
def copyRun (e : Eng) (r : CopyRec) (ca : AReg) (s : State) (row c0 n : Nat) : EngRes (List (Option Nat)) :=
  if r.erows ≤ row then .ok s (List.replicate n none)
  else if r.hsize = 0 then
    let k := min n (r.ecols - c0)
    (copyElems e r ca s row c0 k).andThen (fun t l => .ok t (l.map some ++ List.replicate (n - k) none))
  else
    let h := r.group
    let g0 := c0 / h
    let g1 := (c0 + n - 1) / h
    (engMap (fun t i =>
      let g := h * (g0 + i)
      if r.ecols ≤ g then .ok t (List.replicate h none)
      else
        let k := min h (r.ecols - g)
        (copyElems e r ca t row g k).andThen (fun u l =>
          let x := l.map (copyWiden (copyFmt r.sfmt)) ++ List.replicate (h - k) 0
          .ok u ((hadamard h x).map some))) (upTo (g1 - g0 + 1)) s).andThen (fun t l =>
            .ok t ((l.flatten.drop (c0 % h)).take n))

/-- The elements of output row `j`, before scaling. -/
def copyOutRow (e : Eng) (r : CopyRec) (ca : AReg) (s : State) (j : Nat) : EngRes (List (Option Nat)) :=
  if r.trans then
    (engMap (fun t row => copyRun e r ca t row j 1) (upTo r.rows) s).andThen (fun t l => .ok t l.flatten)
  else copyRun e r ca s j 0 r.cols

/-- The format number of the values that reach the scaler. -/
def CopyRec.midFmt (r : CopyRec) : Nat := if r.hsize = 0 then copyFmt r.sfmt else 0

/-- floor(log2) of a finite value that is not zero. -/
def FVal.log? : FVal → Option Int
  | .fin _ n e => if n = 0 then none else some (e + (Nat.log2 n : Int))
  | _ => none

def FVal.isFin : FVal → Bool
  | .fin _ _ _ => true
  | _ => false

/-- s and X of a group of supplied values (14 R270). -/
def groupScale (emax : Int) (l : List FVal) : Int × Nat :=
  if l.all FVal.isFin then
    let s := match (l.filterMap FVal.log?).max? with
      | some g => min (emax - g) 127
      | none => 0
    (s, (127 - s).toNat)
  else (0, 255)

def CopyRec.emax (r : CopyRec) : Int := if r.dfmt = fmtE2M1x then 2 else 8

/-- s and X of the whole tile (SMODE 2). -/
def copyTileScale (e : Eng) (r : CopyRec) (ca : AReg) (s : State) : EngRes (Int × Nat) :=
  (engMap (fun t row => copyRun e r ca t row 0 r.cols) (upTo r.srcRows) s).andThen (fun t l =>
    .ok t (groupScale r.emax ((l.flatten.filterMap id).map (decFmt r.midFmt))))

/-- The scales of the blocks of an output row, or of the row as one block (14 R270). -/
def blockScale (r : CopyRec) (tile : Int × Nat) (block : List (Option Nat)) : Int × Nat :=
  match r.smode with
  | 0 => (0, 127)
  | 1 => ((r.scale : Int) - 127, 254 - r.scale)
  | 2 => tile
  | _ => groupScale r.emax ((block.filterMap id).map (decFmt r.midFmt))

/-- The random words of `n` positions (13 R259): each with the generator and position behind it. -/
def srWords : Nat → BitVec 32 → Nat → List Nat × BitVec 32 × Nat
  | 0, g, p => ([], g, p)
  | n + 1, g, p =>
    let g1 := if p = 0 then lotStep g else g
    let t := srWords n g1 ((p + 1) % 32)
    ((g1.rotateLeft p).toNat :: t.1, t.2)

/-- A value twice itself as a numerator over 2^k. -/
def doubled (neg : Bool) (n : Nat) (e : Int) : Int × Nat :=
  let v : Int := if neg then -(n : Int) else n
  if 0 ≤ e + 1 then (v * 2 ^ (e + 1).toNat, 0) else (v, (-(e + 1)).toNat)

/-- The standard half-unit values of E2M1x (13 R238). -/
def e2m1Std : List Int := [0, 1, -1, 2, -2, 3, -3, 4, -4, 6, -6, 8, -8, 12, -12]

/-- The code of a standard half-unit value. -/
def e2m1Code (h : Int) : Nat :=
  let m := match h.natAbs with
    | 6 => 5
    | 8 => 6
    | 12 => 7
    | k => k
  if h < 0 then 8 + m else m

/-- One value is a better choice than another: nearer to num / 2^k, then of smaller magnitude, then positive. -/
def e2m1Better (num : Int) (k : Nat) (x y : Int) : Bool :=
  let dx := (num - x * 2 ^ k).natAbs
  let dy := (num - y * 2 ^ k).natAbs
  decide (dx < dy) || (dx == dy && (decide (x.natAbs < y.natAbs) || (x.natAbs == y.natAbs && decide (y < x))))

/-- The member of C that a value takes (14 R272). -/
def e2m1Nearest (special : Int) (v : FVal) : Int :=
  let c := e2m1Std ++ [special]
  match v with
  | .fin neg n e =>
    let d := doubled neg n e
    c.foldl (fun (b : Int) (x : Int) => if e2m1Better d.1 d.2 x b then x else b) 0
  | .inf neg => c.foldl (fun (b : Int) (x : Int) => if neg then min b x else max b x) 0
  | .nan _ _ => 0

/-- rne(2v) of a finite value, when it is no standard value and lies in −16 … 15. -/
def e2m1Odd (v : FVal) : Option Int :=
  match v with
  | .fin neg n e =>
    let r := (roundAt .rne neg n false (-(e + 1))).1
    let k : Int := if neg then -(r : Int) else r
    if -16 ≤ k ∧ k ≤ 15 ∧ !(e2m1Std.contains k) then some k else none
  | _ => none

/-- The special value chosen for a block (14 R272). -/
def e2m1Special (l : List FVal) : Int :=
  let ks := l.filterMap e2m1Odd
  ks.foldl (fun (b : Int) (x : Int) =>
    if b = 0 then x
    else
      let cx := ks.count x
      let cb := ks.count b
      if cb < cx ∨ (cx = cb ∧ (x.natAbs < b.natAbs ∨ (x.natAbs = b.natAbs ∧ b < x))) then x else b) 0

/-- A block of E2M1x: the codes, X and the special byte (14 R272). -/
def e2m1Block (r : CopyRec) (sc : Int × Nat) (l : List (Option Nat)) : List Nat × Nat × Nat :=
  let vals := l.map (fun c => c.map (fun x => (decFmt r.midFmt x).scale sc.1))
  let sup := vals.filterMap id
  if sup.any FVal.isNan then (l.map (fun _ => 0), 255, 0)
  else
    let special := if r.spauto then e2m1Special sup else sext r.special 5
    let code (v : FVal) : Nat :=
      let h := e2m1Nearest special v
      if h = special ∧ !(e2m1Std.contains h) then 8 else e2m1Code h
    (vals.map (fun v => match v with
      | some x => code x
      | none => 0), sc.2, toBits special 5)

/-- Groups of 32 of a row. -/
def blocks32 (l : List (Option Nat)) : List (List (Option Nat)) :=
  (upTo (l.length / 32)).map (fun b => (l.drop (32 * b)).take 32)

/-- The codes of a converted row and its block scale bytes (14 R271). -/
def convertRow (r : CopyRec) (tile : Int × Nat) (words : List Nat) (l : List (Option Nat)) : List Nat × List Nat :=
  if copyRaw r.dfmt then (l.map (fun c => c.getD 0), [])
  else if r.dfmt = fmtE2M1x then
    let bs := (blocks32 l).map (fun b => e2m1Block r (blockScale r tile b) b)
    (bs.flatMap (fun b => b.1), bs.flatMap (fun b => [b.2.1, b.2.2]))
  else
    let scales := if r.smode = 3 then (blocks32 l).map (blockScale r tile) else [blockScale r tile l]
    let s (t : Nat) : Int := ((if r.smode = 3 then scales.getD (t / 32) (0, 127) else scales.headD (0, 127))).1
    let mode (t : Nat) : RMode := if r.rm = 5 then .sr (words.getD t 0) else rmode r.rm
    (((upTo l.length).zip l).map (fun x => match x.2 with
      | some c => (convertVal (copyFmt r.dfmt) r.midFmt (mode x.1) (!r.nosat) ((decFmt r.midFmt c).scale (s x.1))).code
      | none => 0), if r.smode = 3 then scales.map (fun x => x.2) else [])

/-- The bytes of a row of codes (14 R265). -/
def packRow (bits : Nat) (l : List Nat) : List Byte := toBytes (l.length * bits / 8) (packFields bits l)

/-- The shape record (14 R273). -/
def shapeRecord (r : CopyRec) (issue : Nat) : Nat :=
  r.dpitch + 2 ^ 32 * r.outRows + 2 ^ 48 * r.ell + 2 ^ 64 * r.dfmt + 2 ^ 72 * r.smode + 2 ^ 74 * r.hsize +
    2 ^ 76 * ofBool r.trans + 2 ^ 77 * ofBool r.spauto + 2 ^ 80 * (issue % 2 ^ 48)

/-! ### The operation (11 R203, 14 R278 to R281) -/

def State.copyProg (s : State) (clu k : Nat) : CopyProg := Sparse.get {} (s.cluster clu).copies k

def State.setCopyProg (s : State) (clu k : Nat) (p : CopyProg) : State :=
  let cl := s.cluster clu
  s.setCluster clu { cl with copies := Sparse.put cl.copies k p }

/-- Piece `k` of the bytes that a CRC of source row `row` covers (14 R277): the whole of a row of at most 4 KiB. -/
def coveredPiece (e : Eng) (r : CopyRec) (ca : AReg) (s : State) (row k : Nat) : EngRes (List Byte) :=
  (copyRowAt e r ca s row).andThen (fun t off =>
    engRead e t (ca.base + off + 4096 * k) (min 4096 (r.srcLen - 4096 * k)))

/-- The next chunk of covered source rows: a run of whole rows of at most 4 KiB in all, or one 4 KiB piece of a longer row
(14 R279). The rows that are complete, each with its CRC, and the progress behind them. Without a covered row nothing is read (11 R200,
14 R268). -/
def coverChunk (e : Eng) (r : CopyRec) (ca : AReg) (p : CopyProg) (s : State) : EngRes (List (Nat × Nat) × CopyProg) :=
  if r.srcRows ≤ p.vrow then .ok s ([], p)
  else if 4096 < r.srcLen then
    (coveredPiece e r ca s p.vrow p.vpiece).andThen (fun t b =>
      let x := crcRun p.crc b
      if r.srcLen ≤ 4096 * (p.vpiece + 1)
      then .ok t ([(p.vrow, (x ^^^ crcOnes).toNat)], { p with vrow := p.vrow + 1, vpiece := 0, crc := crcOnes })
      else .ok t ([], { p with vpiece := p.vpiece + 1, crc := x }))
  else
    let rows := (upTo (min (max 1 (4096 / r.srcLen)) (r.srcRows - p.vrow))).map (fun i => p.vrow + i)
    (engMap (fun t row => (coveredPiece e r ca t row 0).andThen (fun u b => .ok u (row, crc64 b))) rows s).andThen (fun t l =>
      .ok t (l, { p with vrow := p.vrow + rows.length }))

/-- A chunk of the source rows of a CRCM 2 operation is checked; all of them are, before any byte is written (14 R278). -/
def copyVerify (e : Eng) (r : CopyRec) (ca : AReg) (p : CopyProg) (s : State) : EngRes CopyProg :=
  (coverChunk e r ca p s).andThen (fun t x =>
    (engFold (fun u _ (y : Nat × Nat) => (engNat e u (ca.base + r.crcoff + 8 * y.1) 8).andThen (fun v c =>
      .check v (y.2 == c) tCRC_MISMATCH y.1 (.ok v ()))) x.1 t ()).andThen (fun u _ =>
        .ok u { x.2 with verified := decide (r.srcRows ≤ x.2.vrow) }))

/-- One output row made: its bytes, its block bytes, and the generator behind it. -/
def copyMakeRow (e : Eng) (r : CopyRec) (ca : AReg) (p : CopyProg) (s : State) (j : Nat) :
    EngRes (List Byte × List Nat × (Int × Nat) × BitVec 32 × Nat) :=
  (if r.smode = 2 then copyTileScale e r ca s else .ok s (0, 127)).andThen (fun s1 tile =>
    (copyOutRow e r ca s1 j).andThen (fun s2 l =>
      let w := if r.rm = 5 then srWords r.ell p.gen p.pos else ([], p.gen, p.pos)
      let c := convertRow r tile w.1 l
      .ok s2 (packRow (copyBits r.dfmt) c.1, c.2, tile, w.2.1, w.2.2)))

/-- What is written beside row `j` once its bytes are: its CRC, its block bytes, and with row 0 the shape record and the
tile's scale byte (14 R278). -/
def copyBeside (e : Eng) (r : CopyRec) (cb : AReg) (issue j : Nat) (row : List Byte) (side : List Nat) (tile : Int × Nat)
    (s : State) : EngRes Unit :=
  let put (on : Bool) (off n v : Nat) (t : State) : EngRes Unit :=
    if on then engWrite e cb t (cb.base + off) (toBytes n v) else .ok t ()
  (put (r.crcm == 1) (r.crcoff + 8 * j) 8 (crc64 row) s).andThen (fun s1 _ =>
    (put (!side.isEmpty) (r.sideAt + side.length * j) side.length (packFields 8 side) s1).andThen (fun s2 _ =>
      (put (r.shp && j == 0) r.sideoff 16 (shapeRecord r issue) s2).andThen (fun s3 _ =>
        put (r.smode == 2 && r.dfmt != fmtE2M1x && j == 0) r.sideAt 1 tile.2 s3)))

/-- Rows of a chunk (14 R279). -/
def CopyRec.chunkRows (r : CopyRec) : Nat := max 1 (4096 / r.rowLen)

/-- The count once rows up to `j` have been performed (11 R203). -/
def CopyRec.count (r : CopyRec) (j : Nat) : Nat := if j + 1 = r.outRows then r.span else (j + 1) * r.dpitch

/-- One piece of an output row: a whole row of at most 4 KiB, or 4 KiB of a longer one. -/
def copyPiece (e : Eng) (r : CopyRec) (ca cb : AReg) (issue : Nat) (p : CopyProg) (s : State) : EngRes CopyProg :=
  let j := p.row
  (copyMakeRow e r ca p s j).andThen (fun s1 m =>
    let part := (m.1.drop (4096 * p.piece)).take 4096
    (engWrite e cb s1 (cb.base + r.doff + j * r.dpitch + 4096 * p.piece) part).andThen (fun s2 _ =>
      let g := (s2.copyProg e.clu e.id).gathered
      if m.1.length ≤ 4096 * (p.piece + 1) then
        (copyBeside e r cb issue j m.1 m.2.1 m.2.2.1 s2).andThen (fun s3 _ =>
          let q := { p with row := j + 1, piece := 0, gen := m.2.2.2.1, pos := m.2.2.2.2
                            delivered := max p.delivered (r.count j), gathered := g }
          .ok s3 (if (j + 1) % r.chunkRows = 0 then { q with chunkRow := j + 1, chunkGen := q.gen, chunkPos := q.pos } else q))
      else .ok s2 { p with piece := p.piece + 1, gathered := g }))

/-- A write into a compressed buffer: each page of it is checked. -/
def compWrite (e : Eng) (cb : AReg) (s : State) (va : Nat) (b : List Byte) : EngRes Unit :=
  (engFold (fun u _ q => compPage e { w := true } u q) (pagesOf va b.length) s ()).andThen (fun u _ => engWrite e cb u va b)

/-- The compression chunks of a part of the stream, from chunk `first` on, are written with their entries; the bytes of the
data area in use behind them (14 R275). `d` is the offset of the data area, from which the data offsets count (log 23); that of an
all-zero chunk is 0: DESIGN CHOICE, log 84. -/
def copyCompress (e : Eng) (cb : AReg) (d first : Nat) (part : List Byte) (used : Nat) (s : State) : EngRes Nat :=
  engFold (fun t (n : Nat) i =>
    let c := compEncode ((part.drop (512 * i)).take 512)
    let off := if c.1 = 0 then 0 else (n + 15) / 16
    (compWrite e cb t (cb.base + d + 16 * off) c.2).andThen (fun u _ =>
      (compWrite e cb u (cb.base + 64 + 4 * (first + i)) (toBytes 4 (c.1 + 16 * off))).andThen (fun v _ =>
        .ok v (if c.1 = 0 then n else 16 * off + c.2.length)))) (upTo ((part.length + 511) / 512)) s used

/-- Rows made one behind the other: their bytes, and the progress before and behind the last of them. -/
def copyRows (e : Eng) (r : CopyRec) (ca : AReg) (p : CopyProg) (s : State) (rows : List Nat) :
    EngRes (List Byte × CopyProg × CopyProg) :=
  engFold (fun t (x : List Byte × CopyProg × CopyProg) j =>
    (copyMakeRow e r ca x.2.2 t j).andThen (fun u m =>
      .ok u (x.1 ++ m.1, x.2.2, { x.2.2 with gen := m.2.2.2.1, pos := m.2.2.2.2 }))) rows s ([], p, p)

/-- One chunk of a CDST operation: 8 compression chunks of the stream, the destination span; the header follows the last
(14 R275, R279). `p` stands at the row in which the chunk begins, with the generator at the start of that row. -/
def copyChunk (e : Eng) (r : CopyRec) (ca cb : AReg) (p : CopyProg) (s : State) : EngRes CopyProg :=
  let n := r.span
  let lo := 4096 * p.piece
  let hi := min n (lo + 4096)
  let last := (hi - 1) / r.rowLen
  let d := compData n
  (copyRows e r ca p s ((upTo (last + 1 - p.row)).map (fun i => p.row + i))).andThen (fun t x =>
    let part := (x.1.drop (lo - p.row * r.rowLen)).take (hi - lo)
    (copyCompress e cb d (8 * p.piece) part p.used t).andThen (fun u used =>
      let g := (u.copyProg e.clu e.id).gathered
      if hi < n then
        let q := if hi / r.rowLen = last then x.2.1 else x.2.2
        .ok u { q with row := hi / r.rowLen, piece := p.piece + 1, chunkRow := hi / r.rowLen, chunkGen := q.gen
                       chunkPos := q.pos, used := used, gathered := g }
      else
        (compWrite e cb u cb.base (toBytes 64 (n + 2 ^ 32 * ((n + 511) / 512) + 2 ^ 64 * used))).andThen (fun v _ =>
          .ok v { p with row := r.outRows, chunkRow := r.outRows, used := used, gathered := g })))

/-- A chunk of a CPYCHK: its rows are compared, and behind the last one the result is written (14 R285). -/
def copyCheck (e : Eng) (r : CopyRec) (ca cb : AReg) (p : CopyProg) (s : State) : EngRes CopyProg :=
  (coverChunk e r ca p s).andThen (fun t x =>
    (engFold (fun u (q : CopyProg) (y : Nat × Nat) => (engNat e u (cb.base + r.crcoff + 8 * y.1) 8).andThen (fun v c =>
      .ok v (if y.2 = c then q else { q with misses := q.misses + 1, firstMiss := min q.firstMiss y.1 }))) x.1 t x.2).andThen
      (fun u q =>
        if q.vrow < r.srcRows then .ok u q
        else (engWrite e cb u (cb.base + r.doff) (toBytes 16 (q.misses + 2 ^ 64 * q.firstMiss))).andThen (fun v _ =>
          .ok v { q with verified := true })))

/-- COPY_OP_BEGIN: the next operation begins (14 R263). -/
def execCopyOpBegin (clu k : Nat) (s : State) : Out :=
  match s.engMayBegin clu k with
  | none => .next s
  | some c =>
    let gen (r : CopyRec) : BitVec 32 := if r.srseed = 0 then 1 else BitVec.ofNat 32 r.srseed
    let start (r : CopyRec) : State :=
      (s.setCopyProg clu k { gen := gen r, chunkGen := gen r }).setRun clu k .running
    match c.work with
    | .copy r _ _ => .next (start r)
    | .check r _ _ => .next (start r)
    | _ => .next (s.performEng clu k)

/-- The operation stands at a chunk boundary, where a stop is allowed (10 R198, 14 R279). -/
def copyAtBoundary (r : CopyRec) (p : CopyProg) : Bool := p.row == p.chunkRow || decide (4096 < r.rowLen)

/-- COPY_ROW_DELIVERED: the running operation does its next piece of work: one output row, or a chunk of its source rows to
be checked, of a compressed destination, or of a CPYCHK. -/
def execCopyRowDelivered (clu k : Nat) (s : State) : Out :=
  match s.engRunning clu k with
  | none => .next s
  | some c =>
    let p := s.copyProg clu k
    let e : Eng := { c.eng clu k with exempt := true }
    let put (t : State) (q : CopyProg) : State := t.setCopyProg clu k q
    match c.work with
    | .copy r ca cb =>
      if r.outRows ≤ p.row then .next s
      else if s.engAsked clu k c.region && copyAtBoundary r p then .next s
      else if r.crcm = 2 ∧ !p.verified then
        .next (s.engDone clu k (copyVerify e r ca p s) (fun t q =>
          put t { q with gathered := (t.copyProg clu k).gathered }))
      else if r.cdst then .next (s.engDone clu k (copyChunk e r ca cb p s) put)
      else .next (s.engDone clu k (copyPiece e r ca cb c.issue p s) put)
    | .check r ca cb =>
      if p.verified || s.engAsked clu k c.region then .next s
      else .next (s.engDone clu k (copyCheck e r ca cb p s) put)
    | _ => .next s

/-- COPY_OP_PERFORMED: every row has been delivered (14 R263). -/
def execCopyOpPerformed (clu k : Nat) (s : State) : Out :=
  match s.engRunning clu k with
  | none => .next s
  | some c =>
    let p := s.copyProg clu k
    let complete := match c.work with
      | .copy r _ _ => decide (r.outRows ≤ p.row)
      | .check _ _ _ => p.verified
      | _ => false
    if complete then .next (s.performEng clu k) else .next s

/-- A resumed operation restarts its faulted chunk (14 R280); a row longer than 4 KiB restarts at its piece. -/
def State.copyResume (s : State) (clu k : Nat) : State :=
  let p := s.copyProg clu k
  (s.setCopyProg clu k { p with row := p.chunkRow, gen := p.chunkGen, pos := p.chunkPos }).resumeRun clu k

/-! ### Instructions (14 R282 to R286) -/

/-- The 64-byte record at the head of SDQ, when four entries stand there, and the activation without it. -/
def popRecord (a : Activation) : Option (CopyRec × Activation) :=
  match a.q.sdq with
  | w0 :: w1 :: w2 :: w3 :: rest =>
    some (BitVec.ofNat 512 (packFields 128 [w0.toNat, w1.toNat, w2.toNat, w3.toNat]), { a with q := { a.q with sdq := rest } })
  | _ => none

/-- A failed check traps. -/
def Refused.guard (r : Refused) (k : Att) : Att :=
  match r with
  | some (c, v) => .trap c v
  | none => k

/-- An engine command that writes its issue number to `d`. -/
def issueBody (s : State) (e : Entry) (a : Activation) (id d : Nat) (arm : Bool) (w : Work) (pins : List (Nat × Nat)) : Att :=
  let r := (s.setCur a).retireEng id arm w pins
  .ok (r.1.setCur (r.1.cur.writeReg e.seq d (plain64 r.2)))

/-- CPY (11 R200, 14 R282). -/
def execCpy (d a b m c : Nat) (s : State) : Out :=
  dispatch .a (fun t => orderly t <|
    match popRecord t.cur with
    | none => .stall
    | some (r, popped) =>
      .need (t.portTakes c (m == 1)) <|
      aBody [a, b] (fun _ => false) (fun act e =>
        (copyChecks r (act.reg a) (act.reg b) a b).guard <|
        issueBody t e popped c d (m == 1) (.copy r (act.reg a) (act.reg b)) (copyPins r (act.reg a))) t) s

/-- CPYCHK with function CHECK (14 R285). -/
def execCpychkCheck (d a b c : Nat) (s : State) : Out :=
  dispatch .a (fun t => orderly t <|
    match popRecord t.cur with
    | none => .stall
    | some (r, popped) =>
      .need (t.portTakes c false) <|
      aBody [a, b] (fun _ => false) (fun act e =>
        (checkChecks r (act.reg a) (act.reg b) a b).guard <|
        issueBody t e popped c d false (.check r (act.reg a) (act.reg b)) (checkPins r (act.reg a) (act.reg b))) t) s

/-- CPYWP (11 R204, 14 R283). -/
def execCpywp (d a c : Nat) (s : State) : Out :=
  dispatch .a (fun t => aBody [a] (fun _ => false) (fun act e =>
    let n := act.lo a
    let x := t.eng t.curClu c
    let here := x.busy && (match x.head with
      | some q => q.issue == n
      | none => false)
    let v := if n ≤ (t.timeline t.curClu c).counter.toNat then 2 ^ 64 - 1
      else if here then (match x.head with
        | some { work := .copy _ _ _, .. } => (t.copyProg t.curClu c).delivered
        | _ => 0)
      else 0
    .ok (t.setCur (act.writeReg e.seq d (plain64 v)))) t) s

/-- CPYCHK.RES (14 R286). -/
def execCpychkRes (a c : Nat) (s : State) : Out :=
  dispatch .a (fun t => orderly t <|
    aBody [a] (fun _ => false) (fun act _ =>
      guardCluster t act.info.region c <|
      parkedCheck t t.curClu c (act.lo a) (fun _ => .ok (t.copyResume t.curClu c))) t) s

/-- CPYCHK.ABN (14 R286). -/
def execCpychkAbn (a c : Nat) (s : State) : Out :=
  dispatch .a (fun t => orderly t <|
    aBody [a] (fun _ => false) (fun act _ =>
      guardCluster t act.info.region c <|
      parkedCheck t t.curClu c (act.lo a) (fun _ => .ok (t.performEng t.curClu c))) t) s

/-! ### Commands of SENDE (14 R287) -/

/-- What becomes of a command that reaches an engine context: it waits at the port, its check fails, or it acts. -/
inductive Arrival where
  | waits
  /-- Its block lies on a page that must be walked first (12 R230). -/
  | walks (region va : Nat)
  | refused (code val : Nat)
  | done (s : State)

/-- The block of a command is read with its tags through the command capability (14 R287): its offset and length checked,
then its bytes and the tags of its 16-byte units. -/
def readBlock (e : Eng) (cap : Option Word128) (off len : Nat) (s : State) : EngRes (Nat × List Bool) ⊕ (Nat × Nat) :=
  match cap with
  | none => .inr (tCAP_TAG, off)
  | some c =>
    let r : AReg := { data := c, tag := true }
    if !(r.perm permLD && r.perm permLDC && r.perm permENG) then .inr (tCAP_PERM, off)
    else if off % 16 ≠ 0 ∨ (r.base + off) % 16 ≠ 0 then .inr (tCAP_ALIGN, off)
    else if r.top - r.base < off + len then .inr (tCAP_BOUNDS, off)
    else
      .inl ((engReadN e { host := false } s (r.base + off) len).andThen (fun t b =>
        (engMap (fun u i => (engPage e { r := true, host := false } u (r.base + off + 16 * i)).andThen
          (fun v pa => .ok v (v.tagAt (pa / 16)))) (upTo (len / 16)) t).andThen (fun u tags => .ok u (ofBytes b, tags))))

/-- A capability register taken from 16 bytes of a block. -/
def blockCap (block : Nat) (tags : List Bool) (unit : Nat) : AReg :=
  { data := BitVec.ofNat 128 (fld block (128 * unit) 128), tag := tags.getD unit false }

/-- A command takes effect on arrival: it is issued for its sender, and the engine sends its pins (12 R218, R220). -/
def State.arriveEng (s : State) (clu id : Nat) (c : Command) (arm : Bool) (w : Work) (pins : List (Nat × Nat)) : State :=
  let r := s.issueEng clu id c.core c.region arm [] w
  r.1.pinRanges clu id c.core c.region r.2 (.engine clu id) pins

/-- A block that could not be read fails as its fault says. -/
def blockArrival (r : EngRes (Nat × List Bool) ⊕ (Nat × Nat)) (k : State → Nat → List Bool → Arrival) : Arrival :=
  match r with
  | .inr (c, v) => .refused c v
  | .inl (.ok s x) => k s x.1 x.2
  | .inl (.wait _) => .waits
  | .inl (.miss r v) => .walks r v
  | .inl (.fault _ c v) => .refused c v
  | .inl (.ends s) => .done s

/-- A check that refuses a command. -/
def Refused.arrival (r : Refused) (k : Arrival) : Arrival :=
  match r with
  | some (c, v) => .refused c v
  | none => k

/-- RES and ABN of a command. -/
def parkedArrival (s : State) (clu id v : Nat) (k : State) : Arrival :=
  let x := s.eng clu id
  match x.run, x.queue with
  | .faulted _ _, _ => .waits
  | .parked _ _, c :: _ => if c.issue = v then .done k else .refused tILLEGAL_OPERAND v
  | _, _ => .refused tILLEGAL_OPERAND v

/-- A command for a copy channel. -/
def copyArrival (s : State) (clu k : Nat) (c : Command) : Arrival :=
  let p := c.payload.toNat
  let op := fld p 0 8
  let f9 := fld p 8 16
  let off := fld p 64 64
  let bad : Arrival := .refused tILLEGAL_OPERAND (fld p 0 64)
  let e : Eng := { clu := clu, id := k, core := c.core, region := c.region, op := 0 }
  if c.len ≠ 16 ∨ fld p 24 40 ≠ 0 then bad
  else if op = 0xF0 then
    if fld f9 4 12 ≠ 0 then bad
    else
      let arm := bitAt f9 3
      if !((s.eng clu k).takes arm) || s.portTaken clu k [] then .waits
      else blockArrival (readBlock e c.cap off 96 s) (fun t b tags =>
        let r : CopyRec := BitVec.ofNat 512 b
        let ca := blockCap b tags 4
        let cb := blockCap b tags 5
        (copyChecks r ca cb 64 80).arrival (.done (t.arriveEng clu k c arm (.copy r ca cb) (copyPins r ca))))
  else if op = 0xF2 then
    if fld f9 5 11 ≠ 0 then bad
    else match fld f9 3 2 with
      | 0 =>
        if !((s.eng clu k).takes false) || s.portTaken clu k [] then .waits
        else blockArrival (readBlock e c.cap off 96 s) (fun t b tags =>
          let r : CopyRec := BitVec.ofNat 512 b
          let ca := blockCap b tags 4
          let cb := blockCap b tags 5
          (checkChecks r ca cb 64 80).arrival (.done (t.arriveEng clu k c false (.check r ca cb) (checkPins r ca cb))))
      | 1 => parkedArrival s clu k off (s.copyResume clu k)
      | 2 => parkedArrival s clu k off (s.performEng clu k)
      | _ => bad
  else bad

end Sys2Proof.Machine
end

