-- ==== Sys2Proof/Machine/Matrix.lean ====
section
/-! DEFINITION. The compute-in-memory matrix unit (16 R296 to R326). -/

namespace Sys2Proof.Machine

/-- The context id of matrix context `k`. -/
def matrixId (k : Nat) : Nat := 32 + k

def State.matrix (s : State) (clu id : Nat) : MatrixCtx := Sparse.get {} (s.cluster clu).matrix id

def State.setMatrix (s : State) (clu id : Nat) (m : MatrixCtx) : State :=
  let cl := s.cluster clu
  s.setCluster clu { cl with matrix := Sparse.put cl.matrix id m }

def Cluster.unit (cl : Cluster) (n : Nat) : MacroUnit := Sparse.get {} cl.macs n

def Cluster.setUnit (cl : Cluster) (n : Nat) (u : MacroUnit) : Cluster := { cl with macs := Sparse.set {} cl.macs n u }

/-- The numbers of the set bits of an 8-bit mask. -/
def maskList (m : Nat) : List Nat := (upTo 8).filter (fun i => bitAt m i)

/-! ### Ownership (16 R297, R316, R317; 22 R400) -/

/-- The macros of a cluster that a region has claimed (22 R400). -/
def Cluster.claimedBy (cl : Cluster) (region : Nat) : Nat :=
  ((upTo 8).filter (fun n => match (cl.unit n).owner with
    | some o => o.2 == region
    | none => false)).length

/-- A macro has an owner other than a context. -/
def MacroUnit.foreign (u : MacroUnit) (id : Nat) : Bool :=
  match u.owner with
  | some o => o.1 != id
  | none => false

def MacroUnit.mine (u : MacroUnit) (id : Nat) : Bool :=
  match u.owner with
  | some o => o.1 == id
  | none => false

/-- A claim of macros for a context and region with a budget: the lowest macro that stops it, by another owner or by the
budget. Which macro the budget reports is DEDUCED, log 24. -/
def Cluster.claimBad (cl : Cluster) (id region budget : Nat) (ms : List Nat) : Option Nat :=
  match ms.find? (fun n => (cl.unit n).foreign id) with
  | some n => some n
  | none =>
    let new := ms.filter (fun n => (cl.unit n).owner.isNone)
    if budget < cl.claimedBy region + new.length then new.head? else none

/-- Macros without an owner are claimed. -/
def Cluster.take (cl : Cluster) (id region : Nat) (ms : List Nat) : Cluster :=
  ms.foldl (fun (c : Cluster) n =>
    if (c.unit n).owner.isNone then c.setUnit n { c.unit n with owner := some (id, region) } else c) cl

/-- Macros are given up: they have no owner. -/
def Cluster.give (cl : Cluster) (id : Nat) (ms : List Nat) : Cluster :=
  ms.foldl (fun (c : Cluster) n =>
    if (c.unit n).mine id then c.setUnit n { c.unit n with owner := none } else c) cl

/-- The lowest macro of a list that a context does not own. -/
def Cluster.unowned (cl : Cluster) (id : Nat) (ms : List Nat) : Option Nat :=
  ms.find? (fun n => !((cl.unit n).mine id))

/-! ### Loading (16 R298 to R300) -/

/-- A macro row is loaded, with its format. -/
def Cluster.loadRow (cl : Cluster) (n row : Nat) (cells fmt : Nat) : Cluster :=
  let u := cl.unit n
  cl.setUnit n { u with rows := Sparse.set 0 u.rows row (BitVec.ofNat 2048 cells)
                        fmts := Sparse.set 0 u.fmts row (BitVec.ofNat 2 fmt) }

/-- A special group is loaded. -/
def Cluster.loadSpec (cl : Cluster) (n g : Nat) (v : Nat) : Cluster :=
  let u := cl.unit n
  cl.setUnit n { u with specs := Sparse.set 0 u.specs g (BitVec.ofNat 2560 v) }

/-- The 512 specials of 1,024 bytes: bits [4:0] of the odd bytes (16 R319). -/
def specBits (b : Nat) : Nat := packFields 5 ((upTo 512).map (fun n => fld b (16 * n + 8) 5))

/-- Earlier pins of a source's place are released (16 R299). -/
def State.replaceSource (s : State) (clu id place issue : Nat) : State :=
  s.dropPins (fun p => p.clu == clu && p.ctxId == id && p.op / 2 ^ 64 == place + 1 && decide (p.op % 2 ^ 64 < issue))

/-! ### Values (16 R298, R300 to R303) -/

/-- h of an E2M1x code with its special (13 R238). -/
def e2m1Value (code special : Nat) : Int :=
  let mag : Nat → Int := fun m => match m with
    | 5 => 6
    | 6 => 8
    | 7 => 12
    | k => (k : Int)
  if code = 8 then sext special 5 else if code < 8 then mag code else -(mag (code - 8))

/-- Element `n` of macro row `k`. -/
def MacroUnit.elem (u : MacroUnit) (k n : Nat) : Int :=
  let row := (Sparse.get (0 : BitVec 2048) u.rows k).toNat
  match (Sparse.get (0 : BitVec 2) u.fmts k).toNat with
  | 0 => sext (fld row (8 * n) 8) 8
  | 1 => sext (fld row (4 * n) 4) 4
  | _ => e2m1Value (fld row (4 * n) 4) (fld (Sparse.get (0 : BitVec 2560) u.specs (k / 32)).toNat (5 * n) 5)

/-- Columns of a row with a B format. -/
def fmtColumns (f : Nat) : Nat := if f = 0 then 256 else 512

/-- Fields of the parameter word of MMA (16 R321). -/
structure MmaPar where
  mask : Nat
  mrow : Nat
  k    : Nat
  arow : Nat
  c0   : Nat
  n    : Nat
  acol : Nat
  afmt : Nat
  awm1 : Nat

def mmaPar (p : Nat) : MmaPar :=
  { mask := fld p 0 8, mrow := fld p 8 7, k := fld p 15 7 + 1, arow := fld p 22 8, c0 := fld p 30 9, n := fld p 39 9 + 1
    acol := fld p 48 9, afmt := fld p 57 2, awm1 := fld p 59 5 }

/-- Bits of the container of an element of A (16 R301). -/
def MmaPar.container (m : MmaPar) : Nat :=
  if m.afmt = 2 then 8
  else if m.afmt = 3 then 4
  else if m.awm1 < 4 then 4 else if m.awm1 < 8 then 8 else if m.awm1 < 16 then 16 else 32

/-- Bytes of an A row. -/
def MmaPar.rowBytes (m : MmaPar) : Nat := (m.k * m.container + 7) / 8

/-- Bytes of the side entries. -/
def MmaPar.sideBytes (m : MmaPar) : Nat := 2 * ((m.k + 31) / 32)

/-- An E4M3 value times 2^9; a NaN streams as 0 (16 R302). -/
def e4m3Exact (c : Nat) : Int :=
  match decE4M3 c with
  | .fin neg n e => let v : Int := n * 2 ^ (e + 9).toNat; if neg then -v else v
  | _ => 0

/-- The elements of an A row, and whether one is a NaN. -/
def MmaPar.decode (m : MmaPar) (row side : Nat) : List Int × Bool :=
  let codes := splitFields m.container m.k row
  let b := m.awm1 + 1
  match m.afmt with
  | 0 => (codes.map (fun c => sext c b), false)
  | 1 => (codes.map (fun c => (zext c b : Int)), false)
  | 2 => (codes.map e4m3Exact, codes.any (fun c => (decE4M3 c).isNan))
  | _ => (((upTo m.k).zip codes).map (fun x => e2m1Value x.2 (fld side (16 * (x.1 / 32) + 8) 5)), false)

/-- The exact sum of one column (16 R303). -/
def columnSum (u : MacroUnit) (mrow n : Nat) (a : List Int) : Int :=
  (((upTo a.length).zip a).map (fun x => x.2 * u.elem (mrow + x.1) n)).foldl (· + ·) 0

/-! ### The accumulator store (16 R304) -/

/-- Sums added into consecutive columns of a row, with OVF. -/
def Cluster.accAdd (cl : Cluster) (row col : Nat) (sums : List Int) (nan : Bool) : Cluster :=
  let old := (Sparse.get (0 : BitVec 16384) cl.acc row).toNat
  let exact := ((upTo sums.length).zip sums).map (fun x => sext (fld old (32 * (col + x.1)) 32) 32 + x.2)
  let ovf := exact.any (fun v => decide (v < -(2 ^ 31)) || decide ((2 : Int) ^ 31 - 1 < v))
  let new := putFld old (32 * col) (32 * sums.length) (packFields 32 (exact.map (fun v => toBits v 32)))
  let f := Sparse.get (0 : BitVec 2) cl.accFlags row
  { cl with
    acc := Sparse.set 0 cl.acc row (BitVec.ofNat 16384 new)
    accFlags := Sparse.set 0 cl.accFlags row (f ||| BitVec.ofNat 2 (ofBool ovf + 2 * ofBool nan)) }

/-- A row and its flags become 0 (16 R320). -/
def Cluster.accZero (cl : Cluster) (row : Nat) : Cluster :=
  { cl with acc := Sparse.set 0 cl.acc row 0, accFlags := Sparse.set 0 cl.accFlags row 0 }

/-- ACC rows that a chain run other than `but` keeps for the writes it has begun: they stay reserved (15 R294, 17 R335). An
operation that would write one waits. DESIGN CHOICE, log 71. -/
def Cluster.accKept (cl : Cluster) (but lo n : Nat) : Bool :=
  cl.chains.any (fun c => c.1 != but && c.2.wb.any (fun w => overlaps w.accrow w.rows lo n))

/-! ### The loop nest (16 R308 to R310) -/

abbrev Nest := BitVec 512

def nestCnt (r : Nest) (j : Nat) : Nat := fld r.toNat (16 * j) 16
def nestAst (r : Nest) (j : Nat) : Int := sext (fld r.toNat (64 + 32 * j) 32) 32
def nestSst (r : Nest) (j : Nat) : Int := sext (fld r.toNat (192 + 32 * j) 32) 32
def nestRst (r : Nest) (j : Nat) : Int := sext (fld r.toNat (320 + 8 * j) 8) 8
def nestKst (r : Nest) (j : Nat) : Int := sext (fld r.toNat (352 + 8 * j) 8) 8
def nestMrt (r : Nest) (j : Nat) : Nat := fld r.toNat (384 + 8 * j) 3
def nestLevels (r : Nest) : Nat := fld r.toNat 416 2 + 1

/-- The record of a plain MMA: one iteration. -/
def oneNest : Nest := 1

/-- Iterations in all. -/
def nestTotal (r : Nest) : Nat := ((upTo (nestLevels r)).map (nestCnt r)).foldl (· * ·) 1

/-- The index vector of iteration `t`. -/
def nestIndex (r : Nest) (t : Nat) : List Nat :=
  ((upTo (nestLevels r)).foldl (fun (x : List Nat × Nat) j =>
    (x.1 ++ [x.2 % max 1 (nestCnt r j)], x.2 / max 1 (nestCnt r j))) ([], t)).1

/-- A base moved by the strides of an index vector. -/
def nestMove (r : Nest) (f : Nest → Nat → Int) (idx : List Nat) : Int :=
  (((upTo idx.length).zip idx).map (fun x => (x.2 : Int) * f r x.1)).foldl (· + ·) 0

/-- The least and the greatest value of a dimension (16 R310). -/
def nestBox (r : Nest) (f : Nest → Nat → Int) (base : Int) : Int × Int :=
  let far := (upTo (nestLevels r)).map (fun j => ((nestCnt r j : Int) - 1) * f r j)
  (base + (far.map (fun v => min 0 v)).foldl (· + ·) 0, base + (far.map (fun v => max 0 v)).foldl (· + ·) 0)

def rotl8 (m k : Nat) : Nat := m * 2 ^ k % 256 + m / 2 ^ (8 - k)

/-- The mask rotations that the iterations use. -/
def nestRotations (r : Nest) : List Nat :=
  (upTo (nestLevels r)).foldl (fun (l : List Nat) j =>
    (upTo 8).filter (fun v => l.any (fun x =>
      (upTo (min 8 (max 1 (nestCnt r j)))).any (fun i => (x + i * nestMrt r j) % 8 == v)))) [0]

/-- Every macro that some iteration uses. -/
def nestMacros (r : Nest) (mask : Nat) : List Nat :=
  (upTo 8).filter (fun n => (nestRotations r).any (fun k => bitAt (rotl8 mask k) n))

/-- The bit of the first offending field of a record (16 R322). -/
def nestBad (r : Nest) : Option Nat :=
  let lv := nestLevels r
  let bad : List (Bool × Nat) :=
    (upTo 4).map (fun j => (if j < lv then nestCnt r j == 0 else nestCnt r j != 0, 16 * j)) ++
      (upTo 4).map (fun j => (fld r.toNat (384 + 8 * j + 3) 5 != 0, 384 + 8 * j + 3)) ++
      [(fld r.toNat 418 94 != 0, 418)]
  (bad.find? (fun x => x.1)).map (fun x => x.2)

/-! ### Checks (16 R315, R318 to R325) -/

/-- The capability of a matrix instruction: `n` stands for its register. -/
def capBad (c : AReg) (perms : List Nat) (n : Nat) : Refused :=
  firstBad [(c.tag, tCAP_TAG, n), (perms.all (fun p => c.perm p), tCAP_PERM, n)]

/-- The format that a row will have once the commands issued so far are performed (16 R321). -/
def rowFormat (cl : Cluster) (x : EngCtx) (n row : Nat) : Nat :=
  let hit (c : EngCmd) : Option Nat := match c.work with
    | .mldb _ _ p => if fld p 0 3 = n ∧ fld p 3 7 ≤ row ∧ row ≤ fld p 3 7 + fld p 10 7 then some (fld p 17 2) else none
    | _ => none
  ((x.queue.filterMap hit).getLast?).getD (Sparse.get (0 : BitVec 2) (cl.unit n).fmts row).toNat

def mldbChecks (cl : Cluster) (id : Nat) (c : AReg) (n off p : Nat) : Refused :=
  (capBad c [permLD, permENG] n).or <|
  firstBad [
    (fld p 17 2 != 3 && fld p 51 13 == 0 && decide (fld p 3 7 + fld p 10 7 < 128), tILLEGAL_OPERAND, p),
    ((cl.unit (fld p 0 3)).mine id, tMACRO_NOT_OWNED, fld p 0 3),
    (decide (off + fld p 10 7 * fld p 19 32 + 256 ≤ c.top - c.base), tCAP_BOUNDS, off)]

def mspecChecks (cl : Cluster) (id : Nat) (c : AReg) (n off p : Nat) : Refused :=
  (capBad c [permLD, permENG] n).or <|
  firstBad [
    (fld p 5 59 == 0, tILLEGAL_OPERAND, p),
    ((cl.unit (fld p 0 3)).mine id, tMACRO_NOT_OWNED, fld p 0 3),
    (decide (off + 1024 ≤ c.top - c.base), tCAP_BOUNDS, off)]

def mzeroChecks (v : Nat) : Refused :=
  firstBad [(fld v 16 48 == 0, tILLEGAL_OPERAND, v),
    (decide (fld v 0 8 + fld v 8 8 ≤ 255), tACC_RANGE, fld v 0 8 + fld v 8 8)]

/-- MMA and MMAS; `loop` says that the traps of the box apply (16 R321, R323). -/
def mmaChecks (cl : Cluster) (x : EngCtx) (id : Nat) (loop : Bool) (r : Nest) (c : AReg) (n off p side : Nat) : Refused :=
  let m := mmaPar p
  let pop := (maskList m.mask).length
  let ms := nestMacros r m.mask
  let rows := nestBox r nestKst m.mrow
  let accs := nestBox r nestRst m.arow
  let a := nestBox r nestAst off
  let sd := nestBox r nestSst side
  let len : Int := (c.top - c.base : Nat)
  let u64 (v : Int) : Nat := toBits v 64
  let rowsOk := decide (0 ≤ rows.1) && decide (rows.2 + m.k ≤ 128)
  let fits := ms.all (fun k => (upTo 128).all (fun row =>
    decide ((row : Int) < rows.1) || decide (rows.2 + m.k ≤ (row : Int)) ||
      decide (m.c0 + m.n ≤ fmtColumns (rowFormat cl x k row))))
  (capBad c [permLD, permENG] n).or <|
  (firstBad [(m.mask != 0 && decide (m.awm1 ≤ 23) && (m.awm1 == 0 || decide (m.afmt < 2)), tILLEGAL_OPERAND, p)]).or <|
  ((cl.unowned id ms).map (fun k => (tMACRO_NOT_OWNED, k))).or <|
  firstBad [
    (!loop || nestCnt r 0 != 0, tLNS_RANGE, 0),
    (rowsOk, if loop then tLNS_RANGE else tILLEGAL_OPERAND, if loop then 1 else p),
    (fits, tILLEGAL_OPERAND, p),
    (decide (0 ≤ accs.1) && decide (accs.2 + pop - 1 ≤ 255), if loop then tLNS_RANGE else tACC_RANGE,
      if loop then 0 else m.arow + pop - 1),
    (decide (m.acol + m.n ≤ 512), tACC_RANGE, 0x10000 + m.acol + m.n - 1),
    (decide (0 ≤ a.1), tCAP_BOUNDS, u64 a.1), (decide (a.2 + m.rowBytes ≤ len), tCAP_BOUNDS, u64 a.2),
    (m.afmt != 3 || decide (0 ≤ sd.1), tCAP_BOUNDS, u64 sd.1),
    (m.afmt != 3 || decide (sd.2 + m.sideBytes ≤ len), tCAP_BOUNDS, u64 sd.2)]

def mcopyChecks (c : AReg) (n off p : Nat) : Refused :=
  let rows := fld p 8 8 + 1
  let cols := fld p 25 9 + 1
  let pitch := fld p 37 27
  (capBad c [if bitAt p 34 then permLD else permST, permENG] n).or <|
  firstBad [
    (fld p 35 2 == 0 && (rows == 1 || decide (4 * cols ≤ pitch)), tILLEGAL_OPERAND, p),
    (decide (fld p 0 8 + rows ≤ 256), tACC_RANGE, fld p 0 8 + rows - 1),
    (decide (fld p 16 9 + cols ≤ 512), tACC_RANGE, 0x10000 + fld p 16 9 + cols - 1),
    (decide (off + (rows - 1) * pitch + 4 * cols ≤ c.top - c.base), tCAP_BOUNDS, off)]

/-! ### One row or iteration (16 R311 to R313) -/

/-- The rows or iterations of an operation. -/
def workSteps : Work → Nat
  | .mldb _ _ p => fld p 10 7 + 1
  | .mspec _ _ _ => 1
  | .mzero _ n => n
  | .mmas _ _ _ _ r => nestTotal r
  | .mcopy _ _ p => fld p 8 8 + 1
  | _ => 0

/-- A source row is loaded and its source recorded. -/
def mldbStep (e : Eng) (s : State) (cap : AReg) (off p i : Nat) : EngRes Unit :=
  let n := fld p 0 3
  let row := fld p 3 7 + i
  let at_ := off + i * fld p 19 32
  let place := 128 * n + row
  (engRead e s (cap.base + at_) 256).andThen (fun t b =>
    let u := t.replaceSource e.clu e.id place e.op
    let m := u.matrix e.clu e.id
    let src : RowSrc := { cap := cap, off := at_, fmt := BitVec.ofNat 2 (fld p 17 2), core := e.core, region := e.region
                          issue := e.op }
    let v := u.setMatrix e.clu e.id { m with rowSrc := Sparse.put m.rowSrc place src }
    .ok (v.setCluster e.clu ((v.cluster e.clu).loadRow n row (ofBytes b) (fld p 17 2))) ())

def mspecStep (e : Eng) (s : State) (cap : AReg) (off p : Nat) : EngRes Unit :=
  let n := fld p 0 3
  let g := fld p 3 2
  let place := 4 * n + g
  (engRead e s (cap.base + off) 1024).andThen (fun t b =>
    let u := t.replaceSource e.clu e.id (1024 + place) e.op
    let m := u.matrix e.clu e.id
    let src : RowSrc := { cap := cap, off := off, fmt := 0, core := e.core, region := e.region, issue := e.op }
    let v := u.setMatrix e.clu e.id { m with specSrc := Sparse.put m.specSrc place src }
    .ok (v.setCluster e.clu ((v.cluster e.clu).loadSpec n g (specBits (ofBytes b)))) ())

/-- One iteration: the A row with its side entries, then the sums of every selected macro (16 R309, R312, R321). -/
def mmaStep (e : Eng) (s : State) (cap : AReg) (off p side : Nat) (r : Nest) (i : Nat) : EngRes Unit :=
  let m := mmaPar p
  let idx := nestIndex r i
  let a := (cap.base + nestMove r nestAst idx + off).toNat
  let sd := (cap.base + nestMove r nestSst idx + side).toNat
  let arow := (m.arow + nestMove r nestRst idx).toNat
  let mrow := (m.mrow + nestMove r nestKst idx).toNat
  let mask := rotl8 m.mask ((nestMove r (fun q j => (nestMrt q j : Int)) idx).toNat % 8)
  (engNat e s a m.rowBytes).andThen (fun t row =>
    (if m.afmt = 3 then engNat e t sd m.sideBytes else .ok t 0).andThen (fun u sv =>
      let d := m.decode row sv
      let x := u.matrix e.clu e.id
      let v := u.setMatrix e.clu e.id { x with rowBuf := (x.rowBuf ++ [d.1]).drop (x.rowBuf.length - 1) }
      let ms := maskList mask
      let cl := ((upTo ms.length).zip ms).foldl (fun (c : Cluster) (y : Nat × Nat) =>
        let unit := c.unit y.2
        c.accAdd (arow + y.1) m.acol ((upTo m.n).map (fun j => columnSum unit mrow (m.c0 + j) d.1)) d.2) (v.cluster e.clu)
      .ok (v.setCluster e.clu cl) ()))

def mcopyStep (e : Eng) (s : State) (cap : AReg) (off p i : Nat) : EngRes Unit :=
  let row := fld p 0 8 + i
  let col := fld p 16 9
  let cols := fld p 25 9 + 1
  let va := cap.base + off + i * fld p 37 27
  let cl := s.cluster e.clu
  let old := (Sparse.get (0 : BitVec 16384) cl.acc row).toNat
  if bitAt p 34 then
    (engRead e s va (4 * cols)).andThen (fun t b =>
      let c := t.cluster e.clu
      let new := BitVec.ofNat 16384 (putFld old (32 * col) (32 * cols) (ofBytes b))
      .ok (t.setCluster e.clu { c with acc := Sparse.set 0 c.acc row new }) ())
  else engWrite e cap s va (toBytes (4 * cols) (fld old (32 * col) (32 * cols)))

def matrixStep (e : Eng) (s : State) (w : Work) (i : Nat) : EngRes Unit :=
  match w with
  | .mldb c off p => mldbStep e s c off p i
  | .mspec c off p => mspecStep e s c off p
  | .mzero first _ => .ok (s.setCluster e.clu ((s.cluster e.clu).accZero (first + i))) ()
  | .mmas c off p side r => mmaStep e s c off p side r i
  | .mcopy c off p => mcopyStep e s c off p i
  | _ => .ok s ()

/-- The ACC rows that a row or an iteration of an operation writes: the first, and their number. -/
def accRowsOf (w : Work) (i : Nat) : Nat × Nat :=
  match w with
  | .mzero first _ => (first + i, 1)
  | .mmas _ _ p _ r =>
    let m := mmaPar p
    ((m.arow + nestMove r nestRst (nestIndex r i)).toNat, (maskList m.mask).length)
  | .mcopy _ _ p => if bitAt p 34 then (fld p 0 8 + i, 1) else (0, 0)
  | _ => (0, 0)

/-- MATRIX_OP_BEGIN (16 R307). -/
def execMatrixOpBegin (clu k : Nat) (s : State) : Out :=
  let id := matrixId k
  match s.engMayBegin clu id with
  | none => .next s
  | some c => match c.work with
    | .done => .next (s.performEng clu id)
    | _ => .next ((s.setMatrix clu id { s.matrix clu id with step := 0 }).setRun clu id .running)

/-- MMA_ITERATION: the running operation does its next iteration, or its next row (16 R311). -/
def execMmaIteration (clu k : Nat) (s : State) : Out :=
  let id := matrixId k
  match s.engRunning clu id with
  | none => .next s
  | some c =>
    let i := (s.matrix clu id).step
    let rows := accRowsOf c.work i
    if workSteps c.work ≤ i || s.engAsked clu id c.region || (s.cluster clu).accKept id rows.1 rows.2 then .next s
    else .next (s.engDone clu id (matrixStep (c.eng clu id) s c.work i) (fun t _ =>
      t.setMatrix clu id { t.matrix clu id with step := i + 1 }))

/-- MATRIX_OP_PERFORMED (16 R296). -/
def execMatrixOpPerformed (clu k : Nat) (s : State) : Out :=
  let id := matrixId k
  match s.engRunning clu id with
  | none => .next s
  | some c => if workSteps c.work ≤ (s.matrix clu id).step then .next (s.performEng clu id) else .next s

/-! ### Claiming back and reloading (16 R313) -/

/-- One recorded row is read back. -/
def reloadRow (clu id : Nat) (s : State) (x : Nat × RowSrc) : EngRes Unit :=
  let e : Eng := { clu := clu, id := id, core := x.2.core, region := x.2.region, op := x.2.issue }
  (engRead e s (x.2.cap.base + x.2.off) 256).andThen (fun t b =>
    .ok (t.setCluster clu ((t.cluster clu).loadRow (x.1 / 128) (x.1 % 128) (ofBytes b) x.2.fmt.toNat)) ())

def reloadSpec (clu id : Nat) (s : State) (x : Nat × RowSrc) : EngRes Unit :=
  let e : Eng := { clu := clu, id := id, core := x.2.core, region := x.2.region, op := x.2.issue }
  (engRead e s (x.2.cap.base + x.2.off) 1024).andThen (fun t b =>
    .ok (t.setCluster clu ((t.cluster clu).loadSpec (x.1 / 4) (x.1 % 4) (specBits (ofBytes b)))) ())

/-- The macros of a matrix context are claimed back and loaded from their recorded sources; what has none is zero. -/
def State.reloadMatrix (s : State) (clu id : Nat) : EngRes Unit :=
  let m := s.matrix clu id
  let cl := m.owned.foldl (fun (c : Cluster) n => c.setUnit n.1 { owner := some (id, n.2) }) (s.cluster clu)
  (engFold (fun t _ x => reloadRow clu id t x) m.rowSrc (s.setCluster clu cl) ()).andThen (fun t _ =>
    engFold (fun u _ x => reloadSpec clu id u x) m.specSrc t ())

/-! ### Instructions (16 R314 to R325) -/

/-- An instruction that issues an operation on matrix context `k`. -/
def matrixBody (rs : List Nat) (d arm k : Nat) (chk : State → Activation → Refused) (w : State → Activation → Work)
    (pins : State → Activation → Nat → List (Nat × Nat × Nat)) (s : State) : Att :=
  let id := matrixId k
  orderly s <|
  .need (s.portTakes id (arm == 1)) <|
  aBody rs (fun _ => false) (fun act e =>
    guardCluster s act.info.region id <|
    (chk s act).guard <|
    let r := s.retireEng id (arm == 1) (w s act) []
    let p := r.1.pinRetired id (pins s act r.2)
    .ok (p.setCur (p.cur.writeReg e.seq d (plain64 r.2)))) s

/-- The pins of the rows of an MLDB: the pin's number, the address and the length. -/
def mldbPins (c : AReg) (off p issue : Nat) : List (Nat × Nat × Nat) :=
  (upTo (fld p 10 7 + 1)).map (fun i =>
    (sourceOp issue (128 * fld p 0 3 + fld p 3 7 + i), c.base + off + i * fld p 19 32, 256))

def mspecPins (c : AReg) (off p issue : Nat) : List (Nat × Nat × Nat) :=
  [(sourceOp issue (1024 + 4 * fld p 0 3 + fld p 3 2), c.base + off, 1024)]

def mcopyPins (c : AReg) (off p issue : Nat) : List (Nat × Nat × Nat) :=
  if bitAt p 34 then [(issue, c.base + off, fld p 8 8 * fld p 37 27 + 4 * (fld p 25 9 + 1))] else []

/-- MACQ (16 R316; 22 R400). -/
def execMacq (a k : Nat) (s : State) : Out :=
  let id := matrixId k
  dispatch .a (fun t => orderly t <|
    aBody [a] (fun _ => false) (fun act _ =>
      let v := act.lo a
      let cl := t.cluster t.curClu
      let ms := maskList v
      guardCluster t act.info.region id <|
      .check (decide (v < 256)) tILLEGAL_OPERAND v <|
      match cl.claimBad id act.info.region (t.region act.info.region).eff.cims.toNat ms with
      | some n => .trap tMACRO_NOT_OWNED n
      | none =>
        let u := t.setCluster t.curClu (cl.take id act.info.region ms)
        let m := u.matrix t.curClu id
        let new := ms.filter (fun n => !(m.owned.any (fun o => o.1 == n)))
        .ok (u.setMatrix t.curClu id { m with owned := m.owned ++ new.map (fun n => (n, act.info.region)) })) t) s

/-- Macros are released: their recorded sources are dropped with their pins (16 R317). -/
def State.releaseMacros (s : State) (clu id : Nat) (ms : List Nat) : State :=
  let m := s.matrix clu id
  let gone := ms.filter (fun n => m.owned.any (fun o => o.1 == n))
  let s1 := s.setMatrix clu id { m with
    owned := m.owned.filter (fun n => !(gone.contains n.1))
    rowSrc := m.rowSrc.filter (fun x => !(gone.contains (x.1 / 128)))
    specSrc := m.specSrc.filter (fun x => !(gone.contains (x.1 / 4))) }
  let s2 := s1.setCluster clu ((s1.cluster clu).give id gone)
  let macroOf (place : Nat) : Nat := if place < 1024 then place / 128 else (place - 1024) / 4
  s2.dropPins (fun p => p.clu == clu && p.ctxId == id && decide (2 ^ 64 ≤ p.op) && gone.contains (macroOf (p.op / 2 ^ 64 - 1)))

/-- MREL waits until the context has performed everything issued (16 R317). -/
def execMrel (a k : Nat) (s : State) : Out :=
  let id := matrixId k
  dispatch .a (fun t => orderly t <|
    aBody [a] (fun _ => false) (fun act _ =>
      let v := act.lo a
      let tl := t.timeline t.curClu id
      guardCluster t act.info.region id <|
      .check (decide (v < 256)) tILLEGAL_OPERAND v <|
      .need (tl.counter == tl.issued) (.ok (t.releaseMacros t.curClu id (maskList v)))) t) s

/-- MREL.RES (16 R317). -/
def execMrelRes (a k : Nat) (s : State) : Out :=
  let id := matrixId k
  dispatch .a (fun t => orderly t <|
    aBody [a] (fun _ => false) (fun act _ =>
      guardCluster t act.info.region id <|
      parkedCheck t t.curClu id (act.lo a) (fun _ => .ok (t.resumeRun t.curClu id))) t) s

/-- MREL.ABN (16 R317). -/
def execMrelAbn (a k : Nat) (s : State) : Out :=
  let id := matrixId k
  dispatch .a (fun t => orderly t <|
    aBody [a] (fun _ => false) (fun act _ =>
      guardCluster t act.info.region id <|
      parkedCheck t t.curClu id (act.lo a) (fun _ => .ok (t.performEng t.curClu id))) t) s

/-- MLDB (16 R318). -/
def execMldb (d a b m k : Nat) (s : State) : Out :=
  dispatch .a (matrixBody [a, b, b + 1] d m k
    (fun t act => mldbChecks (t.cluster t.curClu) (matrixId k) (act.reg a) a (act.lo b) (act.lo (b + 1)))
    (fun _ act => .mldb (act.reg a) (act.lo b) (act.lo (b + 1)))
    (fun _ act n => mldbPins (act.reg a) (act.lo b) (act.lo (b + 1)) n)) s

/-- MSPEC (16 R319). -/
def execMspec (d a b m k : Nat) (s : State) : Out :=
  dispatch .a (matrixBody [a, b, b + 1] d m k
    (fun t act => mspecChecks (t.cluster t.curClu) (matrixId k) (act.reg a) a (act.lo b) (act.lo (b + 1)))
    (fun _ act => .mspec (act.reg a) (act.lo b) (act.lo (b + 1)))
    (fun _ act n => mspecPins (act.reg a) (act.lo b) (act.lo (b + 1)) n)) s

/-- MZERO (16 R320). -/
def execMzero (d a m k : Nat) (s : State) : Out :=
  dispatch .a (matrixBody [a] d m k (fun _ act => mzeroChecks (act.lo a))
    (fun _ act => .mzero (fld (act.lo a) 0 8) (fld (act.lo a) 8 8 + 1)) (fun _ _ _ => [])) s

/-- MMA (16 R321). -/
def execMma (d a b m k : Nat) (s : State) : Out :=
  dispatch .a (matrixBody [a, b, b + 1, b + 2] d m k
    (fun t act => mmaChecks (t.cluster t.curClu) (t.eng t.curClu (matrixId k)) (matrixId k) false oneNest (act.reg a) a
      (act.lo b) (act.lo (b + 1)) (act.lo (b + 2)))
    (fun _ act => .mmas (act.reg a) (act.lo b) (act.lo (b + 1)) (act.lo (b + 2)) oneNest) (fun _ _ _ => [])) s

/-- LNSCFG (16 R322). -/
def execLnscfg (k : Nat) (s : State) : Out :=
  let id := matrixId k
  dispatch .a (fun t => orderly t <|
    match popRecord t.cur with
    | none => .stall
    | some (r, popped) =>
      aBody [] (fun _ => false) (fun act _ =>
        guardCluster t act.info.region id <|
        Refused.guard ((nestBad r).map (fun v => (tLNS_RANGE, v))) <|
        let u := t.setCur popped
        .ok (u.setMatrix t.curClu id { u.matrix t.curClu id with nest := r })) t) s

/-- MMAS (16 R323). -/
def execMmas (d a b m k : Nat) (s : State) : Out :=
  dispatch .a (matrixBody [a, b, b + 1, b + 2] d m k
    (fun t act => mmaChecks (t.cluster t.curClu) (t.eng t.curClu (matrixId k)) (matrixId k) true
      (t.matrix t.curClu (matrixId k)).nest (act.reg a) a (act.lo b) (act.lo (b + 1)) (act.lo (b + 2)))
    (fun t act => .mmas (act.reg a) (act.lo b) (act.lo (b + 1)) (act.lo (b + 2)) (t.matrix t.curClu (matrixId k)).nest)
    (fun _ _ _ => [])) s

/-- MCOPY (16 R325). -/
def execMcopy (d a b m k : Nat) (s : State) : Out :=
  dispatch .a (matrixBody [a, b, b + 1] d m k (fun _ act => mcopyChecks (act.reg a) a (act.lo b) (act.lo (b + 1)))
    (fun _ act => .mcopy (act.reg a) (act.lo b) (act.lo (b + 1)))
    (fun _ act n => mcopyPins (act.reg a) (act.lo b) (act.lo (b + 1)) n)) s

/-- MRD and MRD.FLG reserve an entry, which is filled behind everything issued on the context (16 R324). -/
def mrdBody (q a k : Nat) (flags : Bool) (s : State) : Att :=
  let id := matrixId k
  orderly s <| .need (s.cur.ldqFree q) <|
  aBody [a] (fun _ => false) (fun act e =>
    let v := act.lo a
    let c := fld v 8 9
    guardCluster s act.info.region id <|
    .check (decide (v < 2 ^ 17)) tILLEGAL_OPERAND v <|
    .check (flags || decide (c + 4 ≤ 512)) tACC_RANGE (0x10000 + c + 3) <|
    let upto := (s.timeline s.curClu id).issued.toNat
    let x := s.newAcc e (.mrd q s.curClu id upto (fld v 0 8) c flags) 0 0 false false false
    let t := s.takeId.setCur (act.setLdq q (act.ldq q ++ [{ wait := s.nextId }]))
    .ok { t with accs := t.accs ++ [x] }) s

/-- MRD (16 R324). -/
def execMrd (q a k : Nat) (s : State) : Out := dispatch .a (mrdBody q a k false) s

/-- MRD.FLG (16 R324). -/
def execMrdFlg (q a k : Nat) (s : State) : Out := dispatch .a (mrdBody q a k true) s

/-! ### Commands of SENDE (16 R326) -/

/-- TRAPVAL of a capability check on arrival: no register is named, and the spec states no value (log 2). -/
def State.freeVal (s : State) : State × Nat := ({ s with fresh := s.fresh + 1 }, (Config.freeWord s.fresh).toNat % 2 ^ 64)

/-- A command for matrix context `id`. -/
def matrixArrival (s : State) (clu id : Nat) (c : Command) : Arrival :=
  let p := c.payload.toNat
  let op := fld p 0 8
  let f9 := fld p 8 16
  let v1 := fld p 64 64
  let v2 := fld p 128 64
  let v3 := fld p 192 64
  let bad : Arrival := .refused tILLEGAL_OPERAND (fld p 0 64)
  let arm := bitAt f9 2
  let cl := s.cluster clu
  let cap : AReg := match c.cap with
    | some d => { data := d, tag := true }
    | none => {}
  let n := s.freeVal.2
  let x := s.eng clu id
  let nest := (s.matrix clu id).nest
  let go (r : Refused) (w : Work) (pins : Nat → List (Nat × Nat × Nat)) : Arrival :=
    r.arrival (
      let i := s.issueEng clu id c.core c.region arm [] w
      .done (i.1.askPins clu id ((pins i.2).map (fun q =>
        { op := q.1, core := c.core, region := c.region, src := .engine clu id, va := q.2.1, len := q.2.2 }))))
  if c.len ≠ 32 ∨ fld p 24 40 ≠ 0 ∨ fld f9 3 13 ≠ 0 ∨
      !(op == 0xD2 || op == 0xD3 || op == 0xD4 || op == 0xD5 || op == 0xD7 || op == 0xD9) then bad
  else if !(x.takes arm) || s.portTaken clu id [] then .waits
  else match op with
    | 0xD2 => go (mldbChecks cl id cap n v1 v2) (.mldb cap v1 v2) (mldbPins cap v1 v2)
    | 0xD3 => go (mspecChecks cl id cap n v1 v2) (.mspec cap v1 v2) (mspecPins cap v1 v2)
    | 0xD4 => go (mzeroChecks v1) (.mzero (fld v1 0 8) (fld v1 8 8 + 1)) (fun _ => [])
    | 0xD5 => go (mmaChecks cl x id false oneNest cap n v1 v2 v3) (.mmas cap v1 v2 v3 oneNest) (fun _ => [])
    | 0xD7 => go (mmaChecks cl x id true nest cap n v1 v2 v3) (.mmas cap v1 v2 v3 nest) (fun _ => [])
    | _ => go (mcopyChecks cap n v1 v2) (.mcopy cap v1 v2) (mcopyPins cap v1 v2)

end Sys2Proof.Machine
end

