-- ==== Sys2Proof/Machine/Chain.lean ====
section
/-! DEFINITION. The coupler: chain runs and their instructions (15 R288 to R295; 17 R327 to R344). -/

namespace Sys2Proof.Machine

def chainId (k : Nat) : Nat := 64 + k

def State.chain (s : State) (clu id : Nat) : ChainCtx := Sparse.get {} (s.cluster clu).chains id

def State.setChain (s : State) (clu id : Nat) (c : ChainCtx) : State :=
  let cl := s.cluster clu
  s.setCluster clu { cl with chains := Sparse.set {} cl.chains id c }

/-- A bond register (15 R288). -/
def ChainCtx.bond (c : ChainCtx) (i : Nat) : Nat := (Sparse.get (1 : BitVec 16) c.bd i).toNat

def ChainCtx.setBond (c : ChainCtx) (i v : Nat) : ChainCtx := { c with bd := Sparse.set 1 c.bd i (BitVec.ofNat 16 v) }

/-- Bytes of the current boundary (17 R340). -/
def ChainCtx.boundary (c : ChainCtx) : Nat := c.d * c.p * c.rm * c.bw / 8

def capBytes (c : AReg) : Nat := c.top - c.base

/-- The bytes of the program that are pinned from issue on (15 R290). -/
def progPinned (c : AReg) : Nat := min 2048 (capBytes c)

/-- A run is performed or abandoned: its macros are released with their recorded sources, its pins too (15 R293, R294). -/
def State.endChain (s : State) (clu id : Nat) : State :=
  let c := s.chain clu id
  let s1 := s.setChain clu id { c with held := [], owed := [], rowSrc := [], specSrc := [], wb := none, oldBuf := none
                                       mid := false, asked := [], recd := none }
  let s2 := s1.setCluster clu ((s1.cluster clu).give id (c.held.map (fun h => h.1)))
  s2.performEng clu id

/-! ### Records and headers (15 R291, R292; 17 R333) -/

structure ChainRec where
  op     : Nat
  in_    : Nat
  out    : Nat
  shift  : Nat
  satw   : Nat
  iw     : Nat
  accrow : Nat
  rin    : Nat
  core   : Nat

def chainRec (r : Nat) : ChainRec :=
  { op := fld r 0 4, in_ := fld r 4 4, out := fld r 8 4, shift := fld r 12 5, satw := fld r 17 2, iw := fld r 19 2
    accrow := fld r 32 8, rin := fld r 40 24, core := fld r 64 64 }

/-- A record without a reserved value or field, for step `s` of a program of `len` bytes. -/
def chainRecOk (r s len : Nat) : Bool :=
  let c := chainRec r
  decide (c.op ≤ 3) && c.satw != 3 && fld r 21 11 == 0 && fld r 128 128 == 0 &&
    (if s = 0 then c.iw != 3 && c.rin != 0 else c.iw == 0 && c.rin == 0) &&
    (if c.op = 3 then r == 3 else c.core % 16 == 0 && decide (c.core + 16 ≤ len))

structure ChainHdr where
  nin  : Nat
  nout : Nat
  fmt  : Nat
  unit : Nat
  mrow : Nat
  data : Nat

def chainHdr (h : Nat) : ChainHdr :=
  { nin := fld h 0 16, nout := fld h 16 16, fmt := fld h 32 4, unit := fld h 36 3, mrow := fld h 39 7, data := fld h 64 64 }

/-- A header without a reserved value or field, for a step of kind `op` with its SHIFT and SATW. -/
def chainHdrOk (h op shift satw : Nat) : Bool :=
  let c := chainHdr h
  decide (1 ≤ c.nin) && decide (c.nin ≤ 4096) && decide (1 ≤ c.nout) && decide (c.nout ≤ 4096) && fld h 46 18 == 0 &&
    decide (c.fmt ≤ (if op = 2 then 1 else 2)) && (c.fmt != 2 || (c.mrow % 32 == 0 && op != 1)) &&
    (op != 2 || (shift == 0 && satw == 0))

/-- The column limit of a format (17 R332). -/
def chainColumns (fmt : Nat) : Nat := if fmt = 0 then 256 else 512

/-- Bits of a container. -/
def chainBits (fmt : Nat) : Nat := if fmt = 0 then 8 else 4

/-! ### Reading the program (15 R295) -/

/-- Bytes of the program capability. -/
def chainProg (e : Eng) (prog : AReg) (s : State) (off len : Nat) : EngRes Nat := engNat e s (prog.base + off) len

/-- What lies outside the range pinned at issue is pinned from the moment its step reads it: the state with the pin
requests sent; none where there is nothing to ask for. The step goes on when the pins are recorded. -/
def State.chainPin (s : State) (e : Eng) (prog : AReg) (off len : Nat) : Option State :=
  let lo := max off (progPinned prog)
  let hi := min (off + len) (capBytes prog)
  let c := s.chain e.clu e.id
  if hi ≤ lo ∨ c.asked.contains (off, len) then none
  else some ((s.setChain e.clu e.id { c with asked := c.asked ++ [(off, len)] }).pinRange e.clu e.id e.core e.region e.op
    (.engine e.clu e.id) (prog.base + lo) (hi - lo))

/-- Pin, and go on in a later move; or go on at once. -/
def chainPinThen {α : Type} (e : Eng) (prog : AReg) (s : State) (off len : Nat) (k : EngRes α) : EngRes α :=
  match s.chainPin e prog off len with
  | some t => .wait t
  | none => k

/-- A run of `n` elements of a core from element `first` on. -/
def chainElems (e : Eng) (x : ChainSrc) (s : State) (first n : Nat) : EngRes (List Nat) :=
  let w := chainBits x.fmt
  let lo := first * w / 8
  let hi := ((first + n) * w + 7) / 8
  (chainProg e x.cap s (x.data + lo) (hi - lo)).andThen (fun t v =>
    .ok t (splitFields w n (v / 2 ^ (first * w - 8 * lo))))

/-- The cells of a macro row of a core: row (α, j) of the core, or row (α, i) of the transposed one (15 R292, 17 R331). -/
def chainCells (e : Eng) (x : ChainSrc) (s : State) : EngRes Nat :=
  (if x.trans then
    let a := x.row / x.nout
    let i := x.row % x.nout
    (engMap (fun t j => chainElems e x t ((a * x.nin + j) * (x.nout * x.bdo) + i * x.bdo) x.bdo) (upTo x.nin) s).andThen
      (fun t l => .ok t l.flatten)
  else chainElems e x s (x.row * x.n) x.n).andThen (fun t l => .ok t (packFields (chainBits x.fmt) l))

/-- A macro row is loaded and its source recorded. -/
def chainFillRow (e : Eng) (unit row : Nat) (x : ChainSrc) (s : State) : EngRes Unit :=
  (chainCells e x s).andThen (fun t v =>
    let c := t.chain e.clu e.id
    let u := t.setChain e.clu e.id { c with rowSrc := Sparse.put c.rowSrc (128 * unit + row) x }
    .ok (u.setCluster e.clu ((u.cluster e.clu).loadRow unit row v x.fmt)) ())

/-- A macro row is loaded, unless it still holds this source (15 R292). -/
def chainLoadRow (e : Eng) (unit row : Nat) (x : ChainSrc) (s : State) : EngRes Unit :=
  if Sparse.look (s.chain e.clu e.id).rowSrc (128 * unit + row) = some x then .ok s ()
  else chainFillRow e unit row x s

/-- A special group of an E2M1x core is loaded (17 R332): `x.data` is the offset of its bytes, `x.n` their number. -/
def chainLoadSpec (e : Eng) (unit g : Nat) (x : ChainSrc) (s : State) : EngRes Unit :=
  (chainProg e x.cap s x.data x.n).andThen (fun t v =>
    let c := t.chain e.clu e.id
    let u := t.setChain e.clu e.id { c with specSrc := Sparse.put c.specSrc (4 * unit + g) x }
    .ok (u.setCluster e.clu ((u.cluster e.clu).loadSpec unit g
      (packFields 5 ((splitFields 8 x.n v).map (fun b => b % 32))))) ())

/-! ### The boundary and ACC (15 R293; 17 R329, R330, R333) -/

/-- Sums assigned to the first columns of an ACC row, with OVF when one does not fit; whether it was set. -/
def Cluster.accAssign (cl : Cluster) (row : Nat) (sums : List Int) : Cluster × Bool :=
  let old := (Sparse.get (0 : BitVec 16384) cl.acc row).toNat
  let ovf := sums.any (fun v => decide (v < -(2 ^ 31)) || decide ((2 : Int) ^ 31 - 1 < v))
  let new := BitVec.ofNat 16384 (putFld old 0 (32 * sums.length) (packFields 32 (sums.map (fun v => toBits v 32))))
  let f := Sparse.get (0 : BitVec 2) cl.accFlags row
  let fl := Sparse.set 0 cl.accFlags row (f ||| BitVec.ofNat 2 (ofBool ovf))
  ({ cl with acc := Sparse.set 0 cl.acc row new, accFlags := fl }, ovf)

/-- The sums of a step enter ACC, row by row. -/
def State.chainSums (s : State) (clu id accrow : Nat) (rows : List (List Int)) : State :=
  ((upTo rows.length).zip rows).foldl (fun (t : State) (x : Nat × List Int) =>
    let r := (t.cluster clu).accAssign (accrow + x.1) x.2
    let u := t.setCluster clu r.1
    let c := u.chain clu id
    u.setChain clu id { c with ovf := c.ovf || r.2 }) s

/-- The sum of products of two lists. -/
def dot (a b : List Int) : Int := (List.zipWith (fun x y => x * y) a b).foldl (· + ·) 0

/-- v / 2^SHIFT to nearest, ties to even (17 R330). -/
def requant (v : Int) (shift : Nat) : Int :=
  let r := (roundAt .rne (decide (v < 0)) v.natAbs false shift).1
  if v < 0 then -(r : Int) else r

/-- Column `c` of an ACC row as a signed number. -/
def Cluster.accAt (cl : Cluster) (row c : Nat) : Int :=
  sext (fld (Sparse.get (0 : BitVec 16384) cl.acc row).toNat (32 * c) 32) 32

/-- The requantised boundary of a writeback, in element order, and how many elements saturated. -/
def chainBoundary (cl : Cluster) (w : ChainWb) : List Nat × Nat :=
  let vals := (upTo w.p).flatMap (fun p => (upTo w.n).flatMap (fun n => (upTo w.q).map (fun q =>
    requant (cl.accAt (w.accrow + p * w.q + q) n) w.shift)))
  (vals.map (fun r => toBits (satS r w.sw) w.sw), (vals.filter (fun r => satS r w.sw != r)).length)

/-- The writes of a step are made, from ACC (15 R294, 17 R330, R333). -/
def chainWrite (e : Eng) (w : ChainWb) (s : State) : EngRes Unit :=
  let c := s.chain e.clu e.id
  let cl := s.cluster e.clu
  if w.grad then
    let vals := (upTo w.rows).flatMap (fun k => (upTo w.n).map (fun n => toBits (cl.accAt (w.accrow + k) n) 32))
    engWrite e c.grad s (c.grad.base + w.sent.getD c.cursor.toNat) (toBytes (4 * w.rows * w.n) (packFields 32 vals))
  else
    let b := (chainBoundary cl w).1
    engWriteN e { cmOnly := true } c.buf s c.buf.base (toBytes (b.length * w.sw / 8) (packFields w.sw b))

/-- The context behind the writes of a step: the run variables of a boundary, and the next step. -/
def ChainCtx.after (c : ChainCtx) (w : ChainWb) : ChainCtx :=
  let c1 := { c with s := c.s + 1, wb := none, mid := false, recd := none }
  if w.grad then c1 else { c1 with p := c.p * w.b, d := w.bdo, rm := w.q, bw := w.sw }

/-- The writes of a gradient are sent once every page of them translates, and the cursor advances (17 R334). -/
def chainSend (e : Eng) (w : ChainWb) (s : State) : EngRes Unit :=
  let c := s.chain e.clu e.id
  let lo := c.grad.base + c.cursor.toNat
  let pages := upTo ((lo % 4096 + 4 * w.rows * w.n + 4095) / 4096)
  (engFold (fun t _ i => (engPage e { w := true } t (max lo (4096 * (lo / 4096 + i)))).andThen (fun u _ => .ok u ()))
    pages s ()).andThen (fun t _ =>
      .ok (t.setChain e.clu e.id { t.chain e.clu e.id with
        wb := some { w with sent := some c.cursor.toNat }
        cursor := c.cursor + BitVec.ofNat 64 (16 * ((w.rows * w.n + 3) / 4)) }) ())

/-- The writes of a step; when they fault the context keeps what it was writing. Those of a gradient are sent in one move and
performed in a later one. -/
def chainFinish (e : Eng) (w : ChainWb) (s : State) : EngRes Unit :=
  let c := s.chain e.clu e.id
  let begun := s.setChain e.clu e.id { c with wb := some w }
  if w.grad && w.sent.isNone then chainSend e w begun
  else (chainWrite e w begun).andThen (fun t _ => .ok (t.setChain e.clu e.id ((t.chain e.clu e.id).after w)) ())

/-- The bytes that a boundary of `n` elements of `w` bits needs, with the step, as BOUNDARY_OVERFLOW reports them. -/
def overflowVal (bytes s : Nat) : Nat := bytes % 2 ^ 32 + 2 ^ 32 * (s % 64)

/-- The boundary as signed elements. -/
def chainInput (e : Eng) (c : ChainCtx) (s : State) : EngRes (List Int) :=
  (engReadN e { cmOnly := true } s c.buf.base c.boundary).andThen (fun t b =>
    .ok t ((splitFields c.bw (c.d * c.p * c.rm) (ofBytes b)).map (fun v => sext v c.bw)))

/-- Copy `len` bytes in ascending order, each read behind the write of the one before it (15 R294). The byte as the unit of
the order is DEDUCED, log 49. -/
def chainCopy (e : Eng) (src dst : AReg) (s : State) (len : Nat) : EngRes Unit :=
  engFold (fun t _ i => (engReadN e { cmOnly := true } t (src.base + i) 1).andThen (fun u b =>
    engWriteN e { cmOnly := true } dst u (dst.base + i) b)) (upTo len) s ()

/-- Stage 1 of RESUME: the boundary moves to the buffer that CHPROG.KEEP installed (15 R294). -/
def chainMove (e : Eng) (s : State) : EngRes Unit :=
  let c := s.chain e.clu e.id
  match c.oldBuf with
  | none => .ok s ()
  | some old =>
    .check s (decide (c.boundary ≤ capBytes c.buf)) tBOUNDARY_OVERFLOW (overflowVal c.boundary c.s) <|
    (chainCopy e old c.buf s c.boundary).andThen (fun u _ =>
      .ok (u.setChain e.clu e.id { u.chain e.clu e.id with oldBuf := none }) ())

/-- A macro is claimed for the run (15 R293, 17 R336, 22 R400). -/
def chainClaim (e : Eng) (unit : Nat) (s : State) : EngRes Unit :=
  let c := s.chain e.clu e.id
  let cl := s.cluster e.clu
  if c.held.any (fun h => h.1 == unit) then .ok s ()
  else match cl.claimBad e.id e.region (s.region e.region).eff.cims.toNat [unit] with
    | some n => .fault s tMACRO_NOT_OWNED n
    | none =>
      let t := s.setCluster e.clu (cl.take e.id e.region [unit])
      .ok (t.setChain e.clu e.id { t.chain e.clu e.id with held := c.held ++ [(unit, e.region)] }) ()

/-- The variables of a run at step 0, once its record is read, and the test of its input, which a resumed step does not make again
(15 R293, R294). -/
def chainStart (e : Eng) (r : ChainRec) (s : State) : EngRes Unit :=
  let c := s.chain e.clu e.id
  if c.begun then .ok s ()
  else
    let c1 := { c with p := 1, d := c.bond r.in_, rm := r.rin, bw := 8 * (r.iw + 1) }
    let t := s.setChain e.clu e.id { c1 with begun := true }
    .check t (decide (c1.boundary ≤ capBytes c1.buf)) tBOUNDARY_OVERFLOW (overflowVal c1.boundary 0) (.ok t ())

/-- The rows of B, or of U, are loaded: rows `mrow` to `mrow + rows − 1` of a macro, with the specials of an E2M1x core. -/
def chainLoad (e : Eng) (prog : AReg) (h : ChainHdr) (trans : Bool) (bdo rows n : Nat) (s : State) : EngRes Unit :=
  let src (i : Nat) : ChainSrc :=
    { cap := prog, data := h.data, fmt := h.fmt, trans := trans, nin := h.nin, nout := h.nout, bdo := bdo, n := n, row := i
      core := e.core, region := e.region }
  (engFold (fun t _ i => chainLoadRow e h.unit (h.mrow + i) (src i) t) (upTo rows) s ()).andThen (fun t _ =>
    if h.fmt = 2 then
      let spo := h.data + 16 * ((rows * n + 31) / 32)
      engFold (fun u _ g => chainLoadSpec e h.unit (h.mrow / 32 + g) { src g with data := spo + g * n } u)
        (upTo ((rows + 31) / 32)) t ()
    else .ok t ())

/-- The end of a core's data in the program capability. -/
def chainDataEnd (h : ChainHdr) (rows n : Nat) : Nat :=
  let codes := h.data + (rows * n * chainBits h.fmt + 7) / 8
  if h.fmt = 2 then max codes (h.data + 16 * ((rows * n + 31) / 32) + (rows + 31) / 32 * n) else codes

/-- The rows and columns of B, or of U, for a step whose header has been read: K, or M of a GRAD step, and N. -/
def chainShape (c : ChainCtx) (r : ChainRec) (h : ChainHdr) : Nat × Nat :=
  let n := (if r.op = 1 then h.nin else h.nout) * c.bond r.out
  if r.op = 2 then (c.p * (c.rm / h.nin), n) else (c.d * (if r.op = 1 then h.nout else h.nin), n)

/-- CONTRACT and CONTRACT_T behind the header (15 R293, 17 R331). -/
def chainContract (e : Eng) (prog : AReg) (r : ChainRec) (h : ChainHdr) (s : State) : EngRes Unit :=
  let c := s.chain e.clu e.id
  let t := r.op == 1
  let a := if t then h.nout else h.nin
  let b := if t then h.nin else h.nout
  let bdo := c.bond r.out
  let bad := r.core % 2 ^ 32 + 2 ^ 32 * (c.s % 64)
  .check s (c.bond r.in_ == c.d && c.rm % a == 0) tCHAIN_PROGRAM bad <|
  let q := c.rm / a
  let m := c.p * q
  let k := c.d * a
  let n := b * bdo
  let sw := 8 * (r.satw + 1)
  let need := c.p * b * bdo * q * sw / 8
  .check s (decide (need ≤ capBytes c.buf)) tBOUNDARY_OVERFLOW (overflowVal need c.s) <|
  .check s (decide (m + r.accrow ≤ 256)) tACC_RANGE (2 ^ 32 * (c.s % 64)) <|
  .check s (decide (k + h.mrow ≤ 128) && decide (n ≤ chainColumns h.fmt)) tCHAIN_PROGRAM bad <|
  if (s.cluster e.clu).accKept e.id r.accrow m then .ok s () else
  (chainClaim e h.unit s).andThen (fun s1 _ =>
    .check s1 (decide (chainDataEnd h k n ≤ capBytes prog)) tCHAIN_PROGRAM bad <|
    (chainLoad e prog h t bdo k n s1).andThen (fun s2 _ =>
      (chainInput e c s2).andThen (fun s3 el =>
        let u := (s3.cluster e.clu).unit h.unit
        let rows := (upTo c.p).flatMap (fun p => (upTo q).map (fun qq =>
          let av := (upTo k).map (fun kk => el.getD ((p * k + kk) * q + qq) 0)
          (upTo n).map (fun col => dot av ((upTo k).map (fun kk => u.elem (h.mrow + kk) col)))))
        let s4 := s3.chainSums e.clu e.id r.accrow rows
        let w : ChainWb := { grad := false, rows := m, n := n, accrow := r.accrow, shift := r.shift, sw := sw, p := c.p
                             b := b, bdo := bdo, q := q }
        let c4 := s4.chain e.clu e.id
        let sat := (chainBoundary (s4.cluster e.clu) w).2
        let s5 := s4.setChain e.clu e.id { c4 with satc := BitVec.ofNat 32 (min (2 ^ 32 - 1) (c4.satc.toNat + sat)) }
        chainFinish e w s5)))

/-- GRAD behind the header (17 R333). -/
def chainGrad (e : Eng) (prog : AReg) (r : ChainRec) (h : ChainHdr) (s : State) : EngRes Unit :=
  let c := s.chain e.clu e.id
  let bdo := c.bond r.out
  let bad := r.core % 2 ^ 32 + 2 ^ 32 * (c.s % 64)
  .check s (c.bond r.in_ == c.d && c.rm % h.nin == 0) tCHAIN_PROGRAM bad <|
  let q := c.rm / h.nin
  let m := c.p * q
  let k := c.d * h.nin
  let n := h.nout * bdo
  .check s (decide (m + h.mrow ≤ 128) && decide (n ≤ chainColumns h.fmt)) tCHAIN_PROGRAM bad <|
  .check s (decide (k + r.accrow ≤ 256)) tACC_RANGE (2 ^ 32 * (c.s % 64)) <|
  .check s (c.grad.tag && c.grad.perm permST && c.grad.perm permENG &&
      decide (c.cursor.toNat + 4 * k * n ≤ capBytes c.grad))
    tCHAIN_PROGRAM (c.cursor.toNat % 2 ^ 32 + 2 ^ 32 * (c.s % 64) + 2 ^ 38) <|
  if (s.cluster e.clu).accKept e.id r.accrow k then .ok s () else
  (chainClaim e h.unit s).andThen (fun s1 _ =>
    .check s1 (decide (chainDataEnd h m n ≤ capBytes prog)) tCHAIN_PROGRAM bad <|
    (chainLoad e prog h false bdo m n s1).andThen (fun s2 _ =>
      (chainInput e c s2).andThen (fun s3 el =>
        let u := (s3.cluster e.clu).unit h.unit
        let rows := (upTo k).map (fun kk =>
          let av := (upTo m).map (fun mm => el.getD ((mm / q * k + kk) * q + mm % q) 0)
          (upTo n).map (fun col => dot av ((upTo m).map (fun mm => u.elem (h.mrow + mm) col))))
        let s4 := s3.chainSums e.clu e.id r.accrow rows
        chainFinish e { grad := true, rows := k, n := n, accrow := r.accrow, shift := 0, sw := 32, p := 0, b := 0
                        bdo := bdo, q := q } s4)))

/-- The part of a step behind its record: the header is read, which pins it and the core data, and the step is done (15 R293,
R295). -/
def chainBehind (e : Eng) (prog : AReg) (r : ChainRec) (s : State) : EngRes Bool :=
  let c := s.chain e.clu e.id
  chainPinThen e prog s r.core 16 <|
  (chainProg e prog s r.core 16).andThen (fun s3 hv =>
    let h := chainHdr hv
    let z := chainShape c r h
    .check s3 (chainHdrOk hv r.op r.shift r.satw) tCHAIN_PROGRAM (r.core % 2 ^ 32 + 2 ^ 32 * (c.s % 64)) <|
    chainPinThen e prog s3 h.data (chainDataEnd h z.1 z.2 - h.data) <|
    (if r.op = 2 then chainGrad e prog r h s3 else chainContract e prog r h s3).andThen (fun t _ => .ok t false))

/-- The record of the current step: read once, so that a resumed step starts again at its header (15 R293, R294). -/
def chainRead (e : Eng) (prog : AReg) (s : State) : EngRes Nat :=
  let c := s.chain e.clu e.id
  match c.recd with
  | some v => .ok s v.toNat
  | none =>
    let off := 32 * c.s
    let bad := off % 2 ^ 32 + 2 ^ 32 * (c.s % 64)
    .check s (decide (c.s < 64) && decide (off + 32 ≤ capBytes prog)) tCHAIN_PROGRAM bad <|
    chainPinThen e prog s off 32 <|
    (chainProg e prog s off 32).andThen (fun t v =>
      .check t (chainRecOk v c.s (capBytes prog)) tCHAIN_PROGRAM bad <|
      .ok (t.setChain e.clu e.id { t.chain e.clu e.id with recd := some (BitVec.ofNat 256 v) }) v)

/-- One move of a step of a run; true when its END step has been performed (15 R293, R294). A step that must ask for pins, or
send a gradient, takes more than one move. -/
def chainStepOf (e : Eng) (prog : AReg) (s : State) : EngRes Bool :=
  (chainMove e s).andThen (fun t0 _ =>
    let c := t0.chain e.clu e.id
    match c.wb with
    | some w => (chainFinish e w t0).andThen (fun t _ => .ok t false)
    | none =>
      (chainRead e prog (t0.setChain e.clu e.id { c with mid := true })).andThen (fun s1 v =>
        let r := chainRec v
        (if c.s = 0 then chainStart e r s1 else .ok s1 ()).andThen (fun s2 _ =>
          if r.op = 3 then
            .check s2 ((s2.chain e.clu e.id).rm == 1) tCHAIN_PROGRAM (32 * c.s % 2 ^ 32 + 2 ^ 32 * (c.s % 64)) (.ok s2 true)
          else chainBehind e prog r s2)))

/-! ### The queue of SENDE commands (17 R343) and the events -/

/-- The context holds no run and no command waits (17 R339). -/
def State.chainIdle (s : State) (clu id : Nat) : Bool :=
  (s.eng clu id).queue.isEmpty && (s.chain clu id).cmds.isEmpty

/-- An instruction that needs an idle context may act on it: no other core's hint sequence has reserved it (03 R49). -/
def State.chainFree (s : State) (id : Nat) : Bool := s.chainIdle s.curClu id && s.ctxFree id

/-- A gradient capability and cursor are set (17 R342). -/
def ChainCtx.setGrad (c : ChainCtx) (cap : Option AReg) (cursor : Nat) : ChainCtx :=
  { c with grad := cap.getD {}, cursor := BitVec.ofNat 64 cursor }

/-- A command acts once the context is idle. -/
def State.chainAct (s : State) (clu id : Nat) (x : ChainCmd) : State :=
  let c := s.chain clu id
  if x.dead then
    let q := s.eng clu id
    s.setEng clu id { q with queue := q.queue ++ [{ issue := x.issue, core := x.core, region := x.region, work := .done }] }
  else match x.op with
  | 0xE0 => s.setChain clu id (c.setBond (fld x.f9 2 4) x.val)
  | 0xE4 => s.setChain clu id (c.setGrad (x.cap.map (fun d => { data := d, tag := true })) x.val)
  | _ =>
    let arm := bitAt x.f9 4
    let r := if arm then (match s.takeFiring clu id with
      | some u => (u, false)
      | none => (s, true)) else (s, false)
    let q := r.1.eng clu id
    let cmd : EngCmd := { issue := x.issue, core := x.core, region := x.region, armed := r.2, pinLate := true
                          work := .chain c.prog }
    r.1.setEng clu id { q with queue := q.queue ++ [cmd] }

/-- CHAIN_RUN_BEGIN: the run at the head begins; an idle context first acts on its oldest waiting command (15 R290). -/
def execChainRunBegin (clu k : Nat) (s : State) : Out :=
  let id := chainId k
  let c := s.chain clu id
  match (s.eng clu id).queue, c.cmds with
  | [], x :: rest => .next ((s.setChain clu id { c with cmds := rest }).chainAct clu id x)
  | _, _ => match s.engMayBegin clu id with
    | none => .next s
    | some q => match q.work with
      | .chain prog =>
        let t := s.setChain clu id { c with satc := 0, s := 0, p := 0, d := 0, rm := 0, bw := 0, begun := false, ovf := false
                                            wb := none, oldBuf := none, rowSrc := [], specSrc := [], mid := false, asked := []
                                            recd := none }
        let u := if q.pinLate
          then t.pinRanges clu id q.core q.region q.issue (.engine clu id) [(prog.base, progPinned prog)] else t
        .next (u.setRun clu id .running)
      | _ => .next (s.endChain clu id)

/-- CHAIN_STEP: the coupler performs one step (15 R293). -/
def execChainStep (clu k : Nat) (s : State) : Out :=
  let id := chainId k
  match s.engRunning clu id with
  | none => .next s
  | some q => match q.work with
    | .chain prog =>
      if s.engAsked clu id q.region ∧ !(s.chain clu id).mid then .next s
      else .next (s.engDoneBy (fun t => t.endChain clu id) clu id
        (chainStepOf { q.eng clu id with exempt := true } prog s)
        (fun t fin => if fin then t.endChain clu id else t))
    | _ => .next s

/-- The macros of a chain context are claimed back and loaded again from their recorded sources (17 R337). -/
def State.reloadChain (s : State) (clu id : Nat) : EngRes Unit :=
  let c := s.chain clu id
  let cl := c.owed.foldl (fun (d : Cluster) n => d.setUnit n.1 { owner := some (id, n.2) }) (s.cluster clu)
  let op := (((s.eng clu id).queue.head?).map (fun q => q.issue)).getD 0
  let eng (x : ChainSrc) : Eng := { clu := clu, id := id, core := x.core, region := x.region, op := op }
  let s1 := (s.setCluster clu cl).setChain clu id { c with held := c.held ++ c.owed, owed := [] }
  (engFold (fun t _ (x : Nat × ChainSrc) => chainFillRow (eng x.2) (x.1 / 128) (x.1 % 128) x.2 t) c.rowSrc s1 ()).andThen
    (fun t _ => engFold (fun u _ (x : Nat × ChainSrc) => chainLoadSpec (eng x.2) (x.1 / 4) (x.1 % 4) x.2 u) c.specSrc t ())

/-! ### Instructions (15 R289, R290; 17 R339 to R342) -/

/-- The checks of a buffer capability (15 R290). -/
def bufChecks (c : AReg) : Refused :=
  firstBad [(capBytes c != 0 && capBytes c % 16 == 0 && decide (capBytes c ≤ 0x100000), tCHAIN_PROGRAM, 0)]

def bondChecks (v : Nat) : Refused := firstBad [(decide (1 ≤ v) && decide (v ≤ 4096), tBOND_RANGE, v)]

/-- The checks of CHGRAD with a capability (17 R342). -/
def gradChecks (c : AReg) (n cursor : Nat) : Refused :=
  (capBad c [permST, permENG] n).or <|
  firstBad [(cursor % 16 == 0 && decide (cursor < capBytes c), tILLEGAL_OPERAND, cursor)]

/-- An instruction of a chain context: its registers, whether it waits for an idle context, and its effect. -/
def chainBody (rs : List Nat) (k : Nat) (idle : Bool) (f : State → Activation → Entry → Att) (s : State) : Att :=
  let id := chainId k
  orderly s <|
  .need (!idle || s.chainFree id) <|
  aBody rs (fun _ => false) (fun act e => guardCluster s act.info.region id (f s act e)) s

/-- CHBOND (15 R290). -/
def execChbond (a r k : Nat) (s : State) : Out :=
  dispatch .a (chainBody [a] k true (fun t act _ =>
    (bondChecks (act.lo a)).guard
      (.ok (t.setChain t.curClu (chainId k) ((t.chain t.curClu (chainId k)).setBond r (act.lo a)))))) s

/-- CHPROG (15 R290). -/
def execChprog (a b k : Nat) (s : State) : Out :=
  dispatch .a (chainBody [a, b] k true (fun t act _ =>
    let ca := act.reg a
    let cb := act.reg b
    (firstBad [(ca.tag, tCAP_TAG, a), (cb.tag, tCAP_TAG, b), (ca.perm permLD && ca.perm permENG, tCAP_PERM, a),
      (cb.perm permLD && cb.perm permST && cb.perm permENG, tCAP_PERM, b)]).guard <|
    (bufChecks cb).guard <|
    .check (decide (64 ≤ capBytes ca)) tCHAIN_PROGRAM 1 <|
    .ok (t.setChain t.curClu (chainId k) { t.chain t.curClu (chainId k) with prog := ca, buf := cb }))) s

/-- The checks of CHPROG.KEEP; `n` stands for cb's register (15 R290). -/
def keepChecks (s : State) (clu id : Nat) (cb : AReg) (n : Nat) : Refused :=
  let parked := match (s.eng clu id).run with
    | .parked _ _ => true
    | _ => false
  (firstBad [(parked, tILLEGAL_OPERAND, 2), ((s.chain clu id).wb.isNone, tILLEGAL_OPERAND, 3)]).or <|
  (capBad cb [permLD, permST, permENG] n).or (bufChecks cb)

/-- A new buffer for a parked run; the boundary stays where it is until RESUME (15 R290, R294). -/
def State.keepBuffer (s : State) (clu id : Nat) (cb : AReg) : State :=
  let c := s.chain clu id
  s.setChain clu id { c with buf := cb, oldBuf := some (c.oldBuf.getD c.buf) }

/-- CHPROG.KEEP (15 R290): the a field is 0. It waits for nothing; a fault that has been found counts as parked, so its message
is sent first (17 R339). -/
def execChprogKeep (_a b k : Nat) (s : State) : Out :=
  dispatch .a (chainBody [b] k false (fun t0 act _ =>
    let t := t0.sendFault t0.curClu (chainId k)
    (keepChecks t t.curClu (chainId k) (act.reg b) b).guard
      (.ok (t.keepBuffer t.curClu (chainId k) (act.reg b))))) s

/-- CHRUN START (15 R290). -/
def execChrunStart (d m k : Nat) (s : State) : Out :=
  dispatch .a (chainBody [] k true (fun t act e =>
    let c := t.chain t.curClu (chainId k)
    .check c.prog.tag tILLEGAL_OPERAND 0 <|
    issueBody t e act (chainId k) d (m == 1) (.chain c.prog) [(c.prog.base, progPinned c.prog)])) s

/-- CHRUN.RESUME (15 R294). -/
def execChrunResume (a k : Nat) (s : State) : Out :=
  dispatch .a (chainBody [a] k false (fun t0 act _ =>
    let t := t0.sendFault t0.curClu (chainId k)
    parkedCheck t t.curClu (chainId k) (act.lo a) (fun _ => .ok (t.resumeRun t.curClu (chainId k))))) s

/-- CHRUN.ABN (15 R294). -/
def execChrunAbn (a k : Nat) (s : State) : Out :=
  dispatch .a (chainBody [a] k false (fun t0 act _ =>
    let t := t0.sendFault t0.curClu (chainId k)
    parkedCheck t t.curClu (chainId k) (act.lo a) (fun _ => .ok (t.endChain t.curClu (chainId k))))) s

/-- The status word (17 R341). -/
def State.chainStatus (s : State) (clu id : Nat) : Nat :=
  let c := s.chain clu id
  let x := s.eng clu id
  let state := match x.queue, x.run with
    | [], _ => 0
    | _, .parked _ _ => 3
    | q :: _, .idle => if q.armed then 1 else 2
    | _, _ => 2
  let code := match x.run with
    | .parked cd _ => cd
    | _ => 0
  let stopped := state == 2 && (x.queue.head?).any (fun q => x.stopped.contains q.region)
  state + 2 ^ 2 * (c.s % 64) + 2 ^ 8 * (code % 256) + 2 ^ 16 * ofBool (state == 3 && c.wb.isSome) + 2 ^ 17 * ofBool stopped +
    2 ^ 18 * ofBool (c.satc != 0) + 2 ^ 19 * ofBool c.ovf +
    2 ^ 20 * packFields 1 ((upTo 8).map (fun n => ofBool (c.held.any (fun h => h.1 == n)))) +
    2 ^ 28 * min 3 c.cmds.length + 2 ^ 30 * ofBool (c.cmds.length == 4)

/-- The word that CHSTAT selects (17 R340). -/
def State.chainWord (s : State) (clu id sel : Nat) : Nat :=
  let c := s.chain clu id
  match sel with
  | 0 => s.chainStatus clu id
  | 1 => (s.timeline clu id).counter.toNat
  | 2 => (s.timeline clu id).issued.toNat
  | 3 => match (s.eng clu id).run with
    | .parked _ v => v
    | _ => 0
  | 4 => c.boundary
  | 5 => c.cursor.toNat
  | 10 => c.satc.toNat
  | _ => packFields 16 ((upTo 4).map (fun t => c.bond (4 * (sel - 6) + t)))

/-- CHSTAT (17 R340). -/
def execChstat (d sel k : Nat) (s : State) : Out :=
  dispatch .a (fun t => aBody [] (fun _ => false) (fun act e =>
    guardCluster t act.info.region (chainId k) <|
    .ok (t.setCur (act.writeReg e.seq d (plain64 (t.chainWord t.curClu (chainId k) sel))))) t) s

/-- CHGRAD (17 R342). -/
def execChgrad (a b k : Nat) (s : State) : Out :=
  dispatch .a (chainBody [a, b] k true (fun t act _ =>
    let c := t.chain t.curClu (chainId k)
    let v := act.lo b
    let put (cap : Option AReg) : Att := .ok (t.setChain t.curClu (chainId k) (c.setGrad cap v))
    if a = 0 then put none
    else (gradChecks (act.reg a) a v).guard (put (some (act.reg a))))) s

/-! ### Commands of SENDE (17 R343) -/

/-- A command that waits its turn: it acts at once on an idle context, else it is queued. -/
def State.chainQueue (s : State) (clu id : Nat) (x : ChainCmd) : Arrival :=
  let c := s.chain clu id
  if s.portTaken clu id [] then .waits
  else if s.chainIdle clu id then .done (s.chainAct clu id x)
  else if c.cmds.length < 4 then .done (s.setChain clu id { c with cmds := c.cmds ++ [x] })
  else .waits

/-- A command for chain context `id`. -/
def chainArrival (s : State) (clu id : Nat) (c : Command) : Arrival :=
  let p := c.payload.toNat
  let op := fld p 0 8
  let f9 := fld p 8 16
  let v := fld p 64 64
  let bad : Arrival := .refused tILLEGAL_OPERAND (fld p 0 64)
  let cap : Option AReg := c.cap.map (fun d => { data := d, tag := true })
  let n := s.freeVal.2
  let cmd : ChainCmd := { op := op, f9 := f9, val := v, cap := c.cap, core := c.core, region := c.region, issue := 0 }
  if c.len ≠ 16 ∨ fld p 24 40 ≠ 0 then bad
  else match op with
    | 0xE0 => if fld f9 6 10 ≠ 0 then bad else (bondChecks v).arrival (s.chainQueue clu id cmd)
    | 0xE1 =>
      if fld f9 2 14 ≠ 1 then bad
      else
        let t := s.sendFault clu id
        (keepChecks t clu id (cap.getD {}) n).arrival (.done (t.keepBuffer clu id (cap.getD {})))
    | 0xE2 =>
      if fld f9 5 11 ≠ 0 ∨ (bitAt f9 4 ∧ fld f9 2 2 ≠ 0) then bad
      else match fld f9 2 2 with
        | 0 =>
          if !(s.chain clu id).prog.tag then .refused tILLEGAL_OPERAND 0
          else if !(s.chainIdle clu id) && decide (4 ≤ (s.chain clu id).cmds.length) then .waits
          else
            let t := s.timeline clu id
            (s.setTimeline clu id { t with issued := t.issued + 1 }).chainQueue clu id
              { cmd with issue := (t.issued + 1).toNat }
        | 1 => parkedArrival (s.sendFault clu id) clu id v ((s.sendFault clu id).resumeRun clu id)
        | 2 => parkedArrival (s.sendFault clu id) clu id v ((s.sendFault clu id).endChain clu id)
        | _ => bad
    | 0xE4 =>
      if fld f9 2 14 ≠ 0 then bad
      else match cap with
        | none => s.chainQueue clu id cmd
        | some g => (gradChecks g n v).arrival (s.chainQueue clu id cmd)
    | _ => bad

end Sys2Proof.Machine
end

