-- ==== Sys2Proof/Machine/Encoder.lean ====
section
/-! DEFINITION. Encoder streams (23 R433 to R435). What AV1 gives for a frame is a free value: its length and its bytes. -/

namespace Sys2Proof.Machine

def State.encSlot (s : State) (clu k : Nat) : EncSlot := Sparse.get {} (s.cluster clu).enc k

def State.setEncSlot (s : State) (clu k : Nat) (x : EncSlot) : State :=
  let cl := s.cluster clu
  s.setCluster clu { cl with enc := Sparse.set {} cl.enc k x }

/-- The context id under which a stream slot pins: class 4 of the signal box's targets (08 R160). -/
def encId (k : Nat) : Nat := 128 + k % 8

/-! ### Descriptors (23 R435) -/

/-- Bytes of a sample, and of a row of luma or of the interleaved chroma rows. -/
def frameSample (d : BitVec 512) : Nat := 1 + fld d.toNat 112 1
def frameWidth (d : BitVec 512) : Nat := fld d.toNat 64 16
def frameHeight (d : BitVec 512) : Nat := fld d.toNat 80 16
def framePitch (d : BitVec 512) : Nat := fld d.toNat 96 16
def frameOutOff (d : BitVec 512) : Nat := fld d.toNat 160 32
def frameOutCap (d : BitVec 512) : Nat := fld d.toNat 192 32

/-- The input planes as offsets and lengths: luma, and chroma with half the rows, its two components interleaved.
PRESUMED, log 30. -/
def framePlanes (d : BitVec 512) : List (Nat × Nat) :=
  let row := frameWidth d * frameSample d
  [(fld d.toNat 0 32, (frameHeight d - 1) * framePitch d + row),
   (fld d.toNat 32 32, (frameHeight d / 2 - 1) * framePitch d + row)]

/-- The descriptor names a frame that the encoder takes (23 R433). -/
def frameOk (d : BitVec 512) : Bool :=
  let w := frameWidth d
  let h := frameHeight d
  w % 2 == 0 && h % 2 == 0 && decide (16 ≤ w) && decide (16 ≤ h) && decide (max w h ≤ 1920) && decide (min w h ≤ 1080) &&
    decide (w * frameSample d ≤ framePitch d) && decide (fld d.toNat 114 2 ≤ 1) && fld d.toNat 124 4 == 0 &&
    fld d.toNat 224 64 == 0 && fld d.toNat 328 183 == 0

/-- The bytes of CM that the holder may use (22 R400). -/
def State.cmLimit (s : State) (clu : Nat) : Nat :=
  match (s.cluster clu).holder.bind s.region? with
  | some r => min 0x100000 (r.eff.cmb.toNat * 4096)
  | none => 0x100000

/-- STATUS of a frame that does not run: 3 or 4; 0 for one that does. -/
def State.frameRefusal (s : State) (clu : Nat) (d : BitVec 512) : Nat :=
  if !(frameOk d) then 3
  else if (framePlanes d ++ [(frameOutOff d, frameOutCap d)]).any (fun r => decide (s.cmLimit clu < r.1 + r.2)) then 4
  else 0

/-- The address of the descriptor at a slot's index. -/
def EncSlot.at_ (x : EncSlot) (clu : Nat) : Nat :=
  cmBase clu + 64 * (match x.bound with | some b => b.2.2.2 | none => 0) + 64 * x.index.toNat

/-- The encoder accesses bytes of CM, unit by unit, for the region that held the cluster when the frame started (10 R199). -/
def State.encTouch (s : State) (region : Option Nat) (pa len : Nat) (write : Bool) : State :=
  match region with
  | some r => if len = 0 then s else (upTo ((pa % 4096 + len + 4095) / 4096)).foldl (fun (t : State) i =>
      t.touch r (alignDown pa 4096 + 4096 * i) write) s
  | none => s

/-- A frame starts when its descriptor is armed and no other is in progress: the pins of its input planes are requested. None
when nothing is armed (08 R161). -/
def State.frameStart (s : State) (clu k : Nat) : Option State :=
  let x := s.encSlot clu k
  match x.bound, x.frame with
  | some b, none =>
    let region := (s.cluster clu).holder
    let s0 := s.encTouch region (x.at_ clu) 64 false
    let d := BitVec.ofNat 512 (s0.natAt (x.at_ clu) 64)
    if x.unbind || !(bitAt d.toNat 511) then none
    else
      let runs := s.frameRefusal clu d == 0
      let ranges := [(64 * b.2.2.2, 1024)] ++ (if runs then framePlanes d ++ [(frameOutOff d, frameOutCap d)] else [])
      let f : Frame := { desc := d, ranges := ranges, refusal := s.frameRefusal clu d, region := region }
      let ask (t : State) (r : Nat × Nat) : State :=
        t.send (.engine clu (encId k)) (.cm clu)
          (.pin { lo := cmBase clu + r.1, len := r.2, home := .cm clu, clu := clu, ctxId := encId k, op := 0 })
      some ((if runs then framePlanes d else []).foldl ask (s0.setEncSlot clu k { x with frame := some f }))
  | _, _ => none

/-- The input planes of a frame that runs are read, and its output and its descriptor are written, unit by unit (10 R199). -/
def State.frameTouch (s : State) (clu d len : Nat) (f : Frame) : State :=
  let planes := if f.refusal = 0 then framePlanes f.desc else []
  let s1 := planes.foldl (fun (t : State) r => t.encTouch f.region (cmBase clu + r.1) r.2 false) s
  (s1.encTouch f.region (cmBase clu + frameOutOff f.desc) len true).encTouch f.region d 64 true

/-- ENCODER_FRAME_DONE, once its pins are recorded: the output, OUTLEN, STATUS and OWN are written, the index advances, and
the frame-done line pulses behind them (23 R435). -/
def execEncoderFrameDone (clu k : Nat) (s : State) : Out :=
  let x := s.encSlot clu k
  match x.frame, x.bound with
  | some f, some b =>
    let cap := frameOutCap f.desc
    let n := (Config.frameLength s.fresh).toNat
    let len := if f.refusal = 0 then min n cap else 0
    let bytes : List Byte := (upTo len).map (fun i => Config.frameByte s.fresh i)
    let status := if f.refusal ≠ 0 then f.refusal else if n ≤ cap then 1 else 2
    let d := x.at_ clu
    if !(s.engQuiet clu (encId k) 0) then .next s
    else
      let s1 := { s.dropPins (fun p => p.clu == clu && p.ctxId == encId k) with fresh := s.fresh + 1 }
      let s2 := ((s1.frameTouch clu d len f).putBytes (cmBase clu + frameOutOff f.desc) bytes).putNat (d + 36) 4 len
      let s3 := s2.putNat (d + 40) 1 status
      let s4 := s3.putNat (d + 63) 1 ((s3.byteAt (d + 63)).toNat % 128)
      let next : EncSlot := if x.unbind then {} else { x with index := x.index + 1, frame := none }
      .next ((s4.setEncSlot clu k next).pulse clu (20 + b.2.2.1))
  | _, _ => .next s

/-- A firing that waits at a slot starts the frame whose descriptor is armed now (08 R161). -/
def State.frameWaiting (s : State) (clu k : Nat) : State :=
  if ((s.cluster clu).sb.pendingAt (encId k)).isSome then
    match s.frameStart clu k with
    | some t => (t.takeFiring clu (encId k)).getD t
    | none => s
  else s

/-! ### Binding (23 R434) -/

/-- ENCSTAT of a VF: the result of the last ENCBIND write, and the ring index of the slot that the last accepted one named,
with whether a frame of it is in progress. -/
def State.encstat (s : State) (vf : Nat) : Nat :=
  let f := s.vf vf
  f.encStat.toNat + (match f.encSlot with
    | some p =>
      let x := s.encSlot p.1 p.2
      2 ^ 8 * x.index.toNat + 2 ^ 12 * ofBool x.frame.isSome
    | none => 0)

/-- A stream is bound somewhere. -/
def State.streamBound (s : State) (e st : Nat) : Bool :=
  s.clusters.any (fun c => c.2.enc.any (fun x => match x.2.bound with
    | some b => b.1 == e && b.2.1 == st
    | none => false))

/-- The result code of a write to ENCBIND; bit 22 says which of the two it is. An unbind of a slot that does not hold the
stream is a bad value: DEDUCED, log 31. -/
def State.encbindResult (s : State) (vf v : Nat) : Nat :=
  let e := fld v 0 5
  let st := fld v 5 4
  let g := fld v 9 8
  let k := fld v 17 3
  let x := s.encSlot g k
  let f := s.vf vf
  let mine := match x.bound with
    | some b => b.1 == e && b.2.1 == st
    | none => false
  if fld v 37 27 ≠ 0 ∨ g / 64 ≠ e / 8 ∨ 0x100000 < 64 * fld v 23 14 + 1024 ∨ (!(bitAt v 22) && !mine) then 0x40
  else if !(f.bound && (s.part f.part.toNat).granted g) then 0x41
  else if bitAt v 22 && (x.bound.isSome || s.streamBound e st) then 0x42
  else if bitAt v 22 && !(bitAt s.platform.enc.toNat e) then 0x43
  else 0x01

/-- ENCBIND_BIND: a write with bit 22 set. -/
def execEncbindBind (vf v : Nat) (s : State) : Out :=
  if !(bitAt v 22) then .next s
  else
    let r := s.encbindResult vf v
    let g := fld v 9 8
    let k := fld v 17 3
    let f := s.vf vf
    if r ≠ 0x01 then .next (s.setVf vf { f with encStat := BitVec.ofNat 8 r })
    else
      .next ((s.setVf vf { f with encStat := 1, encSlot := some (g, k) }).setEncSlot g k
        { bound := some (fld v 0 5, fld v 5 4, fld v 20 2, fld v 23 14) })

/-- ENCBIND_UNBIND: a write with bit 22 clear; a frame in progress ends first. -/
def execEncbindUnbind (vf v : Nat) (s : State) : Out :=
  if bitAt v 22 then .next s
  else
    let r := s.encbindResult vf v
    let g := fld v 9 8
    let k := fld v 17 3
    let f := s.vf vf
    if r ≠ 0x01 then .next (s.setVf vf { f with encStat := BitVec.ofNat 8 r })
    else
      let x := s.encSlot g k
      .next ((s.setVf vf { f with encStat := 1, encSlot := some (g, k) }).setEncSlot g k
        (if x.frame.isSome then { x with unbind := true } else {}))

/-- A frame in progress holds back a change to a holder that can address its bytes (23 R435). -/
def State.frameHolds (s : State) (clu region : Nat) : Bool :=
  let n := (s.region region).eff.cmb.toNat * 4096
  (s.cluster clu).enc.any (fun x => match x.2.frame with
    | some f => f.ranges.any (fun r => overlaps 0 n r.1 r.2)
    | none => false)

/-- A hint sequence is under way on a core of the cluster: no switch falls between a hint and its target (03 R49). -/
def State.midSequence (s : State) (clu : Nat) : Bool := s.cores.any (fun c => c.1 / 32 == clu && c.2.lock.isSome)

/-- What holds back a change of the holder of a cluster to a region. -/
def State.holdsBack (s : State) (clu region : Nat) : Bool := s.frameHolds clu region || s.midSequence clu

end Sys2Proof.Machine
end

