-- ==== Sys2Proof/Machine/Grammar.lean ====
section
/-! DEFINITION. The yard: grammars, rule results and liftable operators (18 R345 to R353; 19 R354 to R368; 20 R369 to R386). -/

namespace Sys2Proof.Machine

/-! ### The descriptor (18 R347, 20 R369) -/

def dNrules (d : BitVec 256) : Nat := fld d.toNat 0 32
def dNtop (d : BitVec 256) : Nat := fld d.toNat 32 32
def dRtoff (d : BitVec 256) : Nat := fld d.toNat 64 64
def dTopoff (d : BitVec 256) : Nat := fld d.toNat 128 64
def dTt (d : BitVec 256) : Nat := fld d.toNat 192 2
def dMat (d : BitVec 256) : Bool := bitAt d.toNat 194
def dNrows (d : BitVec 256) : Nat := fld d.toNat 200 24
/-- Byte offset of the row table. -/
def dRowoff (d : BitVec 256) : Nat := 4 * fld d.toNat 224 32

/-- The fields of a descriptor that may be wrong, in ascending bit order, each with its lowest bit (18 R348, 20 R370). -/
def descFields (d : BitVec 256) : List (Bool × Nat) :=
  [(decide (2 ^ 24 < dNrules d), 0), (dNtop d == 0, 32), (dRtoff d % 8 != 0, 64), (dTopoff d % 4 != 0, 128),
   (fld d.toNat 195 5 != 0, 195), (dMat d == (dNrows d == 0), 200), (!(dMat d) && dRowoff d != 0, 224)]

/-- The ranges that a descriptor places in the grammar capability: start offset and length. -/
def descRanges (d : BitVec 256) : List (Nat × Nat) :=
  [(dRtoff d, 8 * dNrules d), (dTopoff d, 4 * dNtop d)] ++
    (if dMat d then [(dRowoff d, 4 * (dNrows d + 1))] else [])

/-! ### Operators (18 R349, R350; 19 R361 to R363) -/

def opADDW64 : Nat := 0x01
def opCOUNTEQ : Nat := 0x09
def opSUMMAX : Nat := 0x0A
def opMOMENT1 : Nat := 0x0B
def opAFFINE : Nat := 0x0C

/-- w of a terminal type (19 R354). -/
def ttWidth (tt : Nat) : Nat :=
  match tt with
  | 1 => 16
  | 2 => 32
  | _ => 8

/-- The operator is liftable and accepts the terminal type (19 R361). -/
def opAccepts (opc tt : Nat) : Bool :=
  if opc ≤ 2 ∨ opc = 4 ∨ opc = opCOUNTEQ then true
  else if opc = opSUMMAX then decide (tt ≤ 1)
  else decide (opc ≤ 12) && decide (tt ≤ 2)

/-- B: the bytes of a result (19 R361). -/
def opBytes (opc tt : Nat) : Nat :=
  match opc with
  | 0 => 4
  | 1 => 8
  | 9 => 8
  | 10 => 10
  | 11 => 16
  | 12 => 8
  | _ => ttWidth tt / 8

/-- COUNTEQ and AFFINE have a key (19 R362). -/
def opKeyed (opc : Nat) : Bool := opc == opCOUNTEQ || opc == opAFFINE

/-- The element value of a terminal; none when it is out of range (19 R354). -/
def terminal (tt s : Nat) : Option Int :=
  match tt with
  | 0 => if fld s 8 23 = 0 then some (sext s 8) else none
  | 1 => if fld s 16 15 = 0 then some (sext s 16) else none
  | 2 => some (sext s 31)
  | _ => some (sext s 8)

/-- lift(x) as the bytes of a result. -/
def opLift (opc tt key : Nat) (x : Int) : Nat :=
  let w := ttWidth tt
  match opc with
  | 0 => toBits x 32
  | 1 => toBits x 64
  | 9 => ofBool (toBits x w == key % 2 ^ w)
  | 10 => toBits x 64 + 2 ^ 64 * toBits x 16
  | 11 => toBits x 64
  | 12 => key % 2 ^ 32 + 2 ^ 32 * toBits x 32
  | _ => toBits x w

/-- The identity of an operator. -/
def opIdentity (opc tt : Nat) : Nat :=
  let w := ttWidth tt
  match opc with
  | 2 => 2 ^ (w - 1)
  | 4 => 2 ^ (w - 1) - 1
  | 5 => 2 ^ w - 1
  | 6 => 2 ^ w - 1
  | 10 => 2 ^ 64 * 2 ^ 15
  | 12 => 1
  | _ => 0

/-- v1 ⊕ act(v2, k): the value of a run of length k followed by another (19 R360). -/
def opComb (opc tt k v1 v2 : Nat) : Nat :=
  let w := ttWidth tt
  match opc with
  | 0 => (v1 + v2) % 2 ^ 32
  | 1 => (v1 + v2) % 2 ^ 64
  | 2 => if sext v1 w < sext v2 w then v2 else v1
  | 3 => max v1 v2
  | 4 => if sext v2 w < sext v1 w then v2 else v1
  | 5 => min v1 v2
  | 6 => bAnd v1 v2
  | 7 => bOr v1 v2
  | 8 => bXor v1 v2
  | 9 => (v1 + v2) % 2 ^ 64
  | 10 =>
    let m1 := fld v1 64 16
    let m2 := fld v2 64 16
    (fld v1 0 64 + fld v2 0 64) % 2 ^ 64 + 2 ^ 64 * (if sext m1 16 < sext m2 16 then m2 else m1)
  | 11 =>
    (fld v1 0 64 + fld v2 0 64) % 2 ^ 64 +
      2 ^ 64 * ((fld v1 64 64 + fld v2 64 64 + k * fld v2 0 64) % 2 ^ 64)
  | _ =>
    fld v1 0 32 * fld v2 0 32 % 2 ^ 32 +
      2 ^ 32 * ((fld v2 0 32 * fld v1 32 32 + fld v2 32 32) % 2 ^ 32)

/-! ### The operation's operands -/

def GrammarOp.tt (g : GrammarOp) : Nat := dTt g.desc
def GrammarOp.bytes (g : GrammarOp) : Nat := opBytes g.opc g.tt
def GrammarOp.identity (g : GrammarOp) : Nat := opIdentity g.opc g.tt
def GrammarOp.comb (g : GrammarOp) (k v1 v2 : Nat) : Nat := opComb g.opc g.tt k v1 v2

/-- An entry holds the rule's length behind its result (19 R363, R366). -/
def GrammarOp.lens (g : GrammarOp) : Bool := g.kind == 1 || g.kind == 3 || g.opc == opMOMENT1

/-- F: the bytes of an entry (19 R365). -/
def GrammarOp.entry (g : GrammarOp) : Nat := g.bytes + (if g.lens then 8 else 0)

/-- The bytes of the table of rule results (19 R365). -/
def GrammarOp.rrtLen (g : GrammarOp) : Nat :=
  (dNrules g.desc + (if g.kind = 1 ∨ g.kind = 3 then dNtop g.desc else 0)) * g.entry

/-- The top sequence is folded row by row (20 R371, R376). -/
def GrammarOp.byRow (g : GrammarOp) : Bool := g.kind == 2 || (g.kind == 0 && dMat g.desc)

/-- NCOLS and the bytes of an element of x (20 R379). -/
def GrammarOp.ncols (g : GrammarOp) : Nat := fld g.arg2 8 24
def GrammarOp.xsize (g : GrammarOp) : Nat := 1 + fld g.arg2 0 1

/-- The read-only ranges that an operation pins at issue (18 R351, 20 R375). -/
def GrammarOp.pins (g : GrammarOp) : List (Nat × Nat) :=
  ((if g.kind = 2 then descRanges g.desc else (descRanges g.desc).take 2).map (fun r => (g.gram.base + r.1, r.2))) ++
    (if g.kind = 2 then [(g.res.base + g.off, g.ncols * g.xsize)] else [])

/-! ### One item of work (19 R358; 20 R376 to R381) -/

def State.grammar (s : State) (clu id : Nat) : GrammarCtx := Sparse.get {} (s.cluster clu).grammars id

def State.setGrammar (s : State) (clu id : Nat) (x : GrammarCtx) : State :=
  let cl := s.cluster clu
  s.setCluster clu { cl with grammars := Sparse.set {} cl.grammars id x }

/-- A value that a symbol contributes: the result, its length, and how many reads of the table it took. -/
structure SymVal where
  v     : Nat
  len   : Nat
  reads : Nat

/-- Entry `j` of the table: the result, and the length or start behind it. -/
def rrtEntry (e : Eng) (g : GrammarOp) (s : State) (j : Nat) : EngRes (Nat × Nat) :=
  (engNat e s (g.rrt.base + j * g.entry) g.entry).andThen (fun t v =>
    .ok t (v % 2 ^ (8 * g.bytes), if g.lens then v / 2 ^ (8 * g.bytes) else 0))

def rrtWrite (e : Eng) (g : GrammarOp) (s : State) (j v len : Nat) : EngRes Unit :=
  engWrite e g.rrt s (g.rrt.base + j * g.entry) (toBytes g.entry (v + (if g.lens then 2 ^ (8 * g.bytes) * len else 0)))

/-- The lift of a terminal; for GRMV its product with an element of x (19 R361, R368). -/
def liftTerminal (e : Eng) (g : GrammarOp) (key here : Nat) (s : State) (sym : Nat) : EngRes Nat :=
  match terminal g.tt sym with
  | none => .fault s tSYMBOL_RANGE here
  | some x =>
    if g.kind = 2 then
      let col := fld sym 8 23
      .check s (decide (col < g.ncols)) tSYMBOL_RANGE here <|
      (engNat e s (g.res.base + g.off + col * g.xsize) g.xsize).andThen (fun t b =>
        .ok t (toBits (x * sext b (8 * g.xsize)) 64))
    else .ok s (opLift g.opc g.tt key x)

/-- The value of a symbol that may name rules below `lim`; a reference beyond raises `code` with `val`, a terminal out of
range SYMBOL_RANGE with `here` (18 R352, R353). -/
def symValue (e : Eng) (g : GrammarOp) (key lim code val here : Nat) (s : State) (sym : Nat) : EngRes SymVal :=
  if bitAt sym 31 then
    let j := sym % 2 ^ 31
    .check s (decide (j < lim)) code val <|
    (rrtEntry e g s j).andThen (fun t x => .ok t { v := x.1, len := x.2, reads := 1 })
  else (liftTerminal e g key here s sym).andThen (fun t v => .ok t { v := v, len := 1, reads := 0 })

/-- The two symbols of rule `i` (19 R355). -/
def ruleSyms (e : Eng) (g : GrammarOp) (s : State) (i : Nat) : EngRes (Nat × Nat) :=
  (engNat e s (g.gram.base + dRtoff g.desc + 8 * i) 8).andThen (fun t v => .ok t (fld v 0 32, fld v 32 32))

/-- Top symbol `t`. -/
def topSym (e : Eng) (g : GrammarOp) (s : State) (t : Nat) : EngRes Nat :=
  engNat e s (g.gram.base + dTopoff g.desc + 4 * t) 4

/-- TRAPVAL of top position `t` (18 R353). -/
def topHere (t : Nat) : Nat := t % 2 ^ 32 + 2 ^ 32

/-- The first phase: one rule. -/
def grammarRule (e : Eng) (g : GrammarOp) (c : GrammarCtx) (key : Nat) (s : State) : EngRes GrammarCtx :=
  let i := c.run.item
  (ruleSyms e g s i).andThen (fun s1 r =>
    (symValue e g key i tGRAMMAR_ORDER i i s1 r.1).andThen (fun s2 l =>
      (symValue e g key i tGRAMMAR_ORDER i i s2 r.2).andThen (fun s3 q =>
        (rrtWrite e g s3 i (g.comb l.len l.v q.v) ((l.len + q.len) % 2 ^ 64)).andThen (fun s4 _ =>
          .ok s4 { c with run := { c.run with item := i + 1 }, rules := c.rules + 1, reads := c.reads + l.reads + q.reads }))))

/-- One top symbol of the fold; a scan writes its carry and start before it (20 R376). -/
def grammarTop (e : Eng) (g : GrammarOp) (c : GrammarCtx) (key : Nat) (s : State) : EngRes GrammarCtx :=
  let t := c.run.item
  let n := dNrules g.desc
  (if g.kind = 1 then rrtWrite e g s (n + t) c.run.acc c.run.len else .ok s ()).andThen (fun s1 _ =>
    (topSym e g s1 t).andThen (fun s2 sym =>
      (symValue e g key n tSYMBOL_RANGE (topHere t) (topHere t) s2 sym).andThen (fun s3 x =>
        .ok s3 { c with
          run := { c.run with
            item := t + 1, acc := g.comb c.run.len c.run.acc x.v, len := (c.run.len + x.len) % 2 ^ 64 }
          tops := c.tops + 1, reads := c.reads + x.reads })))

/-- The result record (18 R352; 20 R371, R376). -/
def grammarRecord (g : GrammarOp) (c : GrammarCtx) : List Byte :=
  toBytes 32 ((if g.byRow then 0 else c.run.acc) + 2 ^ 128 * dNrules g.desc + 2 ^ 160 * dNtop g.desc +
    2 ^ 192 * ((if g.kind = 1 then c.run.len else c.reads) % 2 ^ 64))

/-- The first word of a row table that breaks 19 R357: word 0 is 0, none falls, and the last is NTOP. -/
def badRowWord (ntop : Nat) (l : List Nat) : Option Nat :=
  let n := l.length - 1
  (upTo l.length).find? (fun r =>
    (r == 0 && l.getD 0 0 != 0) || (decide (0 < r) && decide (l.getD r 0 < l.getD (r - 1) 0)) || (r == n && l.getD r 0 != ntop))

/-- The row table is read and checked when the fold starts (19 R357). -/
def grammarRows (e : Eng) (g : GrammarOp) (c : GrammarCtx) (s : State) : EngRes GrammarCtx :=
  let n := dNrows g.desc + 1
  (engNat e s (g.gram.base + dRowoff g.desc) (4 * n)).andThen (fun t v =>
    let l := splitFields 32 n v
    match badRowWord (dNtop g.desc) l with
    | some r => .fault t tSYMBOL_RANGE (r + 2 ^ 33)
    | none => .ok t { c with run := { c.run with table := some l } })

/-- A row ends: its result is written, and the next one starts from the identity (20 R371, R379). -/
def grammarRowEnd (e : Eng) (g : GrammarOp) (c : GrammarCtx) (s : State) : EngRes GrammarCtx :=
  let r := c.run.row
  let put := if g.kind = 2 then engWrite e g.res s (g.res.base + g.arg1 + 8 * r) (toBytes 8 c.run.acc)
    else engWrite e g.res s (g.res.base + g.off + 32 + 16 * r) (toBytes 16 c.run.acc)
  put.andThen (fun t _ =>
    .ok t { c with run := { c.run with row := r + 1, acc := g.identity, len := 0 }
                   elems := if g.kind = 2 then c.elems + 1 else c.elems })

/-- The walk goes down to the leftmost terminal of a symbol; the argument bounds the rules on the way. -/
def walkDown (e : Eng) (g : GrammarOp) : Nat → State → Nat → List Nat → EngRes (Nat × List Nat)
  | 0, s, sym, stack => .ok s (sym, stack)
  | n + 1, s, sym, stack =>
    if bitAt sym 31 then
      (ruleSyms e g s (sym % 2 ^ 31)).andThen (fun t r => walkDown e g n t r.1 (r.2 :: stack))
    else .ok s (sym, stack)

/-- The third phase of GRSCAN.X: one element (20 R377). -/
def grammarElement (e : Eng) (g : GrammarOp) (c : GrammarCtx) (key : Nat) (s : State) : EngRes GrammarCtx :=
  let p := c.run.item
  let start : EngRes (Nat × List Nat × Nat) := match c.run.stack with
    | x :: rest => .ok s (x, rest, c.run.top)
    | [] => (topSym e g s c.run.top).andThen (fun t x => .ok t (x, [], c.run.top + 1))
  start.andThen (fun s1 x =>
    (walkDown e g (dNrules g.desc + 1) s1 x.1 x.2.1).andThen (fun s2 y =>
      (liftTerminal e g key 0 s2 y.1).andThen (fun s3 v =>
        let acc := g.comb p c.run.acc v
        (engWrite e g.res s3 (g.res.base + g.off + 32 + g.bytes * p) (toBytes g.bytes acc)).andThen (fun s4 _ =>
          .ok s4 { c with run := { c.run with item := p + 1, acc := acc, stack := y.2, top := x.2.2 }
                          elems := c.elems + 1 }))))

/-- The binary search over the starts for the largest t with start[t] ≤ p (19 R367); the first argument bounds the
halvings. -/
def grammarSearch (e : Eng) (g : GrammarOp) (p : Nat) : Nat → State → Nat → Nat → EngRes Nat
  | 0, s, lo, _ => .ok s lo
  | n + 1, s, lo, hi =>
    if hi ≤ lo then .ok s lo
    else
      let mid := (lo + hi + 1) / 2
      (rrtEntry e g s (dNrules g.desc + mid)).andThen (fun t x =>
        if x.2 ≤ p then grammarSearch e g p n t mid hi else grammarSearch e g p n t lo (mid - 1))

/-- GRAT writes its record and is done (20 R378). -/
def gratEnd (e : Eng) (g : GrammarOp) (c : GrammarCtx) (acc x steps : Nat) (s : State) : EngRes GrammarCtx :=
  (engWrite e g.res s (g.res.base + g.off) (toBytes 32 (acc + 2 ^ 128 * x + 2 ^ 192 * (steps % 2 ^ 64)))).andThen
    (fun t _ => .ok t { c with run := { c.run with fin := true } })

/-- Dependent reads of the search over `n` starts: ceil(log2(n + 1)) (20 R380). -/
def searchSteps (n : Nat) : Nat := if n = 0 then 0 else Nat.log2 n + 1

/-- The start of GRAT: the total length, and the search, whose steps are counted (20 R378, R381). -/
def gratStart (e : Eng) (g : GrammarOp) (c : GrammarCtx) (s : State) : EngRes GrammarCtx :=
  let n := dNrules g.desc
  let last := dNtop g.desc - 1
  let p := g.arg1
  (rrtEntry e g s (n + last)).andThen (fun s1 z =>
    (topSym e g s1 last).andThen (fun s2 sym =>
      let len : EngRes Nat := if bitAt sym 31 then
          .check s2 (decide (sym % 2 ^ 31 < n)) tSYMBOL_RANGE (topHere last)
            ((rrtEntry e g s2 (sym % 2 ^ 31)).andThen (fun t x => .ok t x.2))
        else .ok s2 1
      len.andThen (fun s3 l =>
        if (z.2 + l) % 2 ^ 64 ≤ p then gratEnd e g c g.identity 0 (2 ^ 64 - 1) s3
        else
          (grammarSearch e g p 33 s3 0 last).andThen (fun s4 t =>
            (rrtEntry e g s4 (n + t)).andThen (fun s5 x =>
              (topSym e g s5 t).andThen (fun s6 y =>
                .ok s6 { c with run := { c.run with
                  acc := x.1, len := x.2, sym := y, lim := n, here := topHere t, wrote := true
                  steps := searchSteps (dNtop g.desc) } }))))))

/-- One step of the descent (19 R367): a rule on the path, or the element at its end. -/
def gratStep (e : Eng) (g : GrammarOp) (c : GrammarCtx) (key : Nat) (s : State) : EngRes GrammarCtx :=
  let r := c.run
  let j := r.sym % 2 ^ 31
  if bitAt r.sym 31 then
    .check s (decide (j < r.lim)) (if r.item = 0 then tSYMBOL_RANGE else tGRAMMAR_ORDER) r.here <|
    (ruleSyms e g s j).andThen (fun s1 q =>
      (symValue e g key j tGRAMMAR_ORDER j j s1 q.1).andThen (fun s2 l =>
        let down := decide ((g.arg1 + 2 ^ 64 - r.len) % 2 ^ 64 < l.len)
        .ok s2 { c with
          run := { r with
            item := r.item + 1, steps := r.steps + 1, lim := j, here := j, sym := if down then q.1 else q.2
            acc := if down then r.acc else g.comb r.len r.acc l.v
            len := if down then r.len else (r.len + l.len) % 2 ^ 64 }
          elems := c.elems + 1 }))
  else
    match terminal g.tt r.sym with
    | none => .fault s tSYMBOL_RANGE r.here
    | some x => gratEnd e g c (g.comb r.len r.acc (opLift g.opc g.tt key x)) (toBits x 64) r.item s

/-- The next phase starts. -/
def GrammarCtx.enter (c : GrammarCtx) (g : GrammarOp) (phase : Nat) : GrammarCtx :=
  { c with run := { c.run with phase := phase, item := 0, acc := g.identity, len := 0 } }

/-- The next item of the running operation (19 R358). -/
def grammarItem (e : Eng) (g : GrammarOp) (c : GrammarCtx) (s : State) : EngRes GrammarCtx :=
  let r := c.run
  if opKeyed g.opc && r.key.isNone then
    (engNat e s (g.res.base + g.off + 8) 8).andThen (fun t v => .ok t { c with run := { r with key := some v } })
  else
    let key := r.key.getD 0
    match r.phase with
    | 0 => if r.item < dNrules g.desc then grammarRule e g c key s else .ok s (c.enter g 1)
    | 1 =>
      if g.byRow && r.table.isNone then grammarRows e g c s
      else if g.byRow && decide (r.row < dNrows g.desc) && decide ((r.table.getD []).getD (r.row + 1) 0 ≤ r.item) then
        grammarRowEnd e g c s
      else if r.item < dNtop g.desc then grammarTop e g c key s
      else if g.kind = 2 then .ok s { c with run := { r with fin := true } }
      else if !r.wrote then
        (engWrite e g.res s (g.res.base + g.off) (grammarRecord g c)).andThen (fun t _ =>
          .ok t { c with run := { r with wrote := true, fin := !g.x } })
      else .ok s { c with run := { r with phase := 2, item := 0, acc := g.identity } }
    | 2 => if r.item < min g.arg1 r.len then grammarElement e g c key s else .ok s { c with run := { r with fin := true } }
    | _ => if r.wrote then gratStep e g c key s else gratStart e g c s

/-! ### Events -/

def grammarId (k : Nat) : Nat := 0x60 + k % 4

/-- The pin of a table of rule results carries its operation behind a mark, since it is exclusive (19 R359, 20 R375). -/
def rrtOp (issue : Nat) : Nat := issue + 2 ^ 64

/-- The yard's accesses: its writes into its own table are not refused (18 R351). -/
def grammarEng (q : EngCmd) (clu id : Nat) : Eng :=
  { clu := clu, id := id, core := q.core, region := q.region, op := rrtOp q.issue, exempt := true }

/-- Another yard operation holds an overlapping table, or has asked for its pin (19 R359). -/
def State.rrtTaken (s : State) (l : List (Nat × Nat)) : Bool :=
  let hit (p : Pin) : Bool := p.ctxId / 32 == 3 && decide (2 ^ 64 ≤ p.op) && l.any (fun x => overlaps p.lo p.len x.1 x.2)
  s.pins.any hit || s.net.any (fun q => match q.body with
    | .pin p => hit p
    | _ => false)

/-- The state behind an item of the running operation: a fault keeps what it had. -/
def State.grammarDone (s : State) (clu id : Nat) (q : EngCmd) (g : GrammarOp) : State :=
  s.engDone clu id (grammarItem (grammarEng q clu id) g (s.grammar clu id) s) (fun t c => t.setGrammar clu id c)

/-- The pin of the table of rule results of an operation (18 R351). -/
def rrtAsk (clu id : Nat) (q : EngCmd) (g : GrammarOp) : PinAsk :=
  { op := rrtOp q.issue, core := q.core, region := q.region, src := .engine clu id, va := g.rrt.base, len := g.rrtLen }

/-- An operation begins: its table is pinned, and its key is read (19 R359, R362). -/
def State.grammarBegin (s : State) (clu id : Nat) (q : EngCmd) (g : GrammarOp) : State :=
  let s1 := s.askPins clu id [rrtAsk clu id q g]
  let run : GrammarRun := { phase := if g.kind = 3 then 3 else 0 }
  let s2 := (s1.setGrammar clu id
    { s1.grammar clu id with run := run, kind := g.kind, rules := 0, tops := 0, reads := 0, elems := 0 }).setRun clu id .running
  if opKeyed g.opc then s2.grammarDone clu id q g else s2

/-- GRAMMAR_OP_BEGIN: the next operation begins once its table's pages have been walked and no other table of rule results
overlaps its own (19 R359). A page that does not translate is left out, and met when it is used. -/
def execGrammarOpBegin (clu k : Nat) (s : State) : Out :=
  let id := grammarId k
  match s.engMayBegin clu id with
  | none => .next s
  | some q => match q.work with
    | .grammar g =>
      let p := s.pinPagesOf clu id (rrtAsk clu id q g)
      match p.rest with
      | some r => .next (s.engWalk clu id q.region r.1)
      | none => .next (if s.rrtTaken p.runs then s else s.grammarBegin clu id q g)
    | _ => .next (s.performEng clu id)

/-- A boundary at which the context stops: every 512 items of a phase, and every 512 search or descent steps of GRAT
(20 R381). -/
def grammarAtBoundary (c : GrammarCtx) : Bool := (if c.run.phase = 3 then c.run.steps else c.run.item) % 512 == 0

/-- GRAMMAR_OP_PERFORMED: the running operation does its next item of work, and when nothing is left it is performed
(18 R352). -/
def execGrammarOpPerformed (clu k : Nat) (s : State) : Out :=
  let id := grammarId k
  match s.engRunning clu id with
  | none => .next s
  | some q => match q.work with
    | .grammar g =>
      let c := s.grammar clu id
      if c.run.fin then .next (s.performEng clu id)
      else if s.engAsked clu id q.region && grammarAtBoundary c then .next s
      else .next (s.grammarDone clu id q g)
    | _ => .next s

/-! ### Instructions (18 R348, R351; 20 R374, R382, R384) -/

/-- Check 3 of 18 R351. -/
def liftChecks (opc tt : Nat) : Refused := firstBad [(opAccepts opc tt, tLIFT_REJECTED, opc + 2 ^ 8 * tt)]

/-- The capability of results; `n` stands for its register, and a keyed operator needs LD as well (19 R362). -/
def resChecks (c : AReg) (n opc : Nat) : Refused :=
  firstBad [(c.tag, tCAP_TAG, n), (c.perm permST && c.perm permENG && (!opKeyed opc || c.perm permLD), tCAP_PERM, n)]

/-- A range from `off` lies in a capability. -/
def rangeBad (c : AReg) (off len : Nat) : Refused := firstBad [(decide (off + len ≤ c.top - c.base), tCAP_BOUNDS, off)]

/-- The checks of an operation behind the partition's (18 R351; 20 R374). -/
def grammarChecks (g : GrammarOp) (n : Nat) : Refused :=
  (firstBad [(g.gram.tag, tILLEGAL_OPERAND, 0)]).or <|
  (if g.kind = 2 then
    (firstBad [(g.tt == 3 && dMat g.desc, tILLEGAL_OPERAND, 1),
      (fld g.arg2 1 7 == 0 && fld g.arg2 32 32 == 0 && decide (1 ≤ g.ncols) && decide (g.ncols ≤ 2 ^ 23), tILLEGAL_OPERAND, g.arg2),
      (g.res.tag, tCAP_TAG, n), (g.res.perm permLD && g.res.perm permST && g.res.perm permENG, tCAP_PERM, n)]).or <|
    (rangeBad g.res g.off (g.ncols * g.xsize)).or <|
    (rangeBad g.res g.arg1 (8 * dNrows g.desc)).or <|
    firstBad [(!(overlaps g.off (g.ncols * g.xsize) g.arg1 (8 * dNrows g.desc)), tILLEGAL_OPERAND, 2)]
  else
    (liftChecks g.opc g.tt).or <|
    (resChecks g.res n g.opc).or <|
    rangeBad g.res g.off (32 + (if g.x then g.arg1 * g.bytes else 0) +
      (if g.kind = 0 ∧ dMat g.desc then 16 * dNrows g.desc else 0))).or <|
  firstBad [(decide (g.rrtLen ≤ g.rrt.top - g.rrt.base), tRRT_SIZE, g.rrtLen)]

/-- The operation that an instruction or a command names, over the descriptor in force. -/
def GrammarCtx.op (c : GrammarCtx) (kind opc : Nat) (x : Bool) (res : AReg) (off arg1 arg2 : Nat) : GrammarOp :=
  { kind := kind, opc := opc, x := x, desc := c.desc, gram := c.gram, rrt := c.rrt, res := res, off := off, arg1 := arg1, arg2 := arg2 }

/-- An instruction that issues a grammar operation (18 R351, 20 R373). -/
def grammarBody (rs : List Nat) (d arm k n : Nat) (f : GrammarCtx → Activation → GrammarOp) (s : State) : Att :=
  let id := grammarId k
  orderly s <|
  .need (s.portTakes id (arm == 1)) <|
  aBody rs (fun _ => false) (fun act e =>
    let g := f (s.grammar s.curClu id) act
    guardCluster s act.info.region id <|
    (grammarChecks g n).guard <|
    issueBody s e act id d (arm == 1) (.grammar g) g.pins) s

/-- The context is idle (18 R345). -/
def State.grammarIdle (s : State) (clu id : Nat) : Bool := (s.eng clu id).queue.isEmpty

/-- GRSET may act on the context: it is idle, and no other core's hint sequence has reserved it (03 R49). -/
def State.grammarFree (s : State) (id : Nat) : Bool := s.grammarIdle s.curClu id && s.ctxFree id

/-- GRSET (18 R347, R348; 20 R370). -/
def execGrset (a b k : Nat) (s : State) : Out :=
  dispatch .a (fun t =>
    let id := grammarId k
    orderly t <|
    match t.cur.q.sdq with
    | w0 :: w1 :: rest =>
      .need (t.grammarFree id) <|
      aBody [a, b] (fun _ => false) (fun act _ =>
        let d := BitVec.ofNat 256 (packFields 128 [w0.toNat, w1.toNat])
        let ca := act.reg a
        let cb := act.reg b
        guardCluster t act.info.region id <|
        (firstBad [(ca.tag, tCAP_TAG, a), (cb.tag, tCAP_TAG, b), (ca.perm permLD && ca.perm permENG, tCAP_PERM, a),
          (cb.perm permLD && cb.perm permST && cb.perm permENG, tCAP_PERM, b)]).guard <|
        (firstBad ((descFields d).map (fun x => (!x.1, tILLEGAL_OPERAND, x.2)))).guard <|
        (firstBad ((descRanges d).map (fun r => (decide (r.1 + r.2 ≤ ca.top - ca.base), tCAP_BOUNDS, r.1)))).guard <|
        let c := t.grammar t.curClu id
        .ok ((t.setCur { act with q := { act.q with sdq := rest } }).setGrammar t.curClu id
          { c with gram := ca, rrt := cb, desc := d })) t
    | _ => .stall) s

/-- GRRED (18 R351). -/
def execGrred (d a b o m k : Nat) (s : State) : Out :=
  dispatch .a (grammarBody [a, b] d m k a (fun c act => c.op 0 o false (act.reg a) (act.lo b) 0 0)) s

/-- GRSCAN (20 R376). -/
def execGrscan (d a b o m k : Nat) (s : State) : Out :=
  dispatch .a (grammarBody [a, b] d m k a (fun c act => c.op 1 o false (act.reg a) (act.lo b) 0 0)) s

/-- GRSCAN.X (20 R377). -/
def execGrscanX (d a b o m k : Nat) (s : State) : Out :=
  dispatch .a (grammarBody [a, b, b + 1] d m k a (fun c act => c.op 1 o true (act.reg a) (act.lo b) (act.lo (b + 1)) 0)) s

/-- GRMV (20 R379). -/
def execGrmv (d a b m k : Nat) (s : State) : Out :=
  dispatch .a (grammarBody [a, b, b + 1, b + 2] d m k a (fun c act =>
    c.op 2 opADDW64 false (act.reg a) (act.lo b) (act.lo (b + 1)) (act.lo (b + 2)))) s

/-- GRAT (20 R378). -/
def execGrat (d a b o m k : Nat) (s : State) : Out :=
  dispatch .a (grammarBody [a, b, b + 1] d m k a (fun c act => c.op 3 o false (act.reg a) (act.lo b) (act.lo (b + 1)) 0)) s

/-- The status word (20 R383). -/
def State.grammarStatus (s : State) (clu id : Nat) : Nat :=
  let c := s.grammar clu id
  let x := s.eng clu id
  let state := match x.queue, x.run with
    | [], _ => 0
    | _, .parked _ _ => 3
    | q :: _, .idle => if q.armed then 1 else 2
    | _, _ => 2
  let code := match x.run with
    | .parked cd _ => cd
    | _ => 0
  let stopped := state == 2 && (x.queue.head?).any (fun q => x.stopped.contains q.region)
  state + 2 ^ 2 * ofBool stopped + 2 ^ 3 * (c.run.phase % 4) + 2 ^ 6 * (c.kind % 4) + 2 ^ 8 * (code % 256) +
    2 ^ 16 * (x.queue.length - ofBool x.busy)

/-- The word that GRSTAT selects (20 R382). -/
def State.grammarWord (s : State) (clu id sel : Nat) : Nat :=
  let c := s.grammar clu id
  match sel with
  | 0 => s.grammarStatus clu id
  | 1 => (s.timeline clu id).counter.toNat
  | 2 => (s.timeline clu id).issued.toNat
  | 3 => match (s.eng clu id).run with
    | .parked _ v => v
    | _ => 0
  | 4 => c.rules
  | 5 => c.tops
  | 6 => c.reads
  | 7 => c.elems
  | _ => 0

/-- GRSTAT READ (20 R382): one of the grammar instructions of R436. DEDUCED, log 41. -/
def execGrstat (d sel k : Nat) (s : State) : Out :=
  dispatch .a (fun t => aBody [] (fun _ => false) (fun act e =>
    guardCluster t act.info.region (grammarId k) <|
    .ok (t.setCur (act.writeReg e.seq d (plain64 (t.grammarWord t.curClu (grammarId k) sel))))) t) s

/-- GRSTAT.RES (20 R384). -/
def execGrstatRes (a k : Nat) (s : State) : Out :=
  dispatch .a (fun t => orderly t <|
    aBody [a] (fun _ => false) (fun act _ =>
      guardCluster t act.info.region (grammarId k) <|
      parkedCheck t t.curClu (grammarId k) (act.lo a) (fun _ => .ok (t.resumeRun t.curClu (grammarId k)))) t) s

/-- GRSTAT.ABN (20 R384). -/
def execGrstatAbn (a k : Nat) (s : State) : Out :=
  dispatch .a (fun t => orderly t <|
    aBody [a] (fun _ => false) (fun act _ =>
      guardCluster t act.info.region (grammarId k) <|
      parkedCheck t t.curClu (grammarId k) (act.lo a) (fun _ => .ok (t.performEng t.curClu (grammarId k)))) t) s

/-! ### Commands of SENDE (20 R385) -/

/-- A command for grammar context `id`; `n` stands for the register of its capability in TRAPVAL. -/
def grammarArrival (s : State) (clu id n : Nat) (c : Command) : Arrival :=
  let p := c.payload.toNat
  let op := fld p 0 8
  let f9 := fld p 8 16
  let v := fld p 64 64
  let v1 := fld p 128 64
  let v2 := fld p 192 64
  let bad : Arrival := .refused tILLEGAL_OPERAND (fld p 0 64)
  let res : AReg := match c.cap with
    | some d => { data := d, tag := true }
    | none => {}
  let x := s.grammar clu id
  let arm := bitAt f9 2
  let go (g : GrammarOp) : Arrival :=
    if !((s.eng clu id).takes arm) || s.portTaken clu id [] then .waits
    else (grammarChecks g n).arrival (.done (s.arriveEng clu id c arm (.grammar g) g.pins))
  if c.len ≠ 32 ∨ fld p 24 40 ≠ 0 ∨ fld f9 9 7 ≠ 0 then bad
  else match op with
    | 0xE9 => if redOp (fld f9 3 6) then go (x.op 0 (fld f9 3 6) false res v 0 0) else bad
    | 0xEA => if 12 < fld f9 4 5 then bad else go (x.op 1 (fld f9 4 5) (bitAt f9 3) res v v1 0)
    | 0xEB => if fld f9 3 6 ≠ 0 then bad else go (x.op 2 opADDW64 false res v v1 v2)
    | 0xEC => if 12 < fld f9 4 5 ∨ bitAt f9 3 then bad else go (x.op 3 (fld f9 4 5) false res v v1 0)
    | 0xED =>
      if fld f9 2 4 ≠ 0 ∨ bitAt f9 8 then bad
      else match fld f9 6 2 with
        | 1 => parkedArrival s clu id v (s.resumeRun clu id)
        | 2 => parkedArrival s clu id v (s.performEng clu id)
        | _ => bad
    | _ => bad

end Sys2Proof.Machine
end

