-- ==== Sys2Proof/Machine/EngineEvents.lean ====
section
/-! DEFINITION. What happens to engine contexts of every class: stopping for pre-emption and reloading macros (10 R198;
16 R313; 17 R337), commands that arrive by message (09 R167), the signal box (08 R158), and the end of a region (22 R403). -/

namespace Sys2Proof.Machine

/-! ### Stopping and reloading -/

/-- The context stands where a stop is allowed (10 R198): between two pieces of work, at a boundary of its class. -/
def State.engAtBoundary (s : State) (clu id : Nat) : Bool :=
  match (s.eng clu id).current with
  | some c => match c.work with
    | .copy r _ _ => copyAtBoundary r (s.copyProg clu id)
    | .grammar _ => grammarAtBoundary (s.grammar clu id)
    | .chain _ => !(s.chain clu id).mid
    | _ => true
  | none => true

/-- The macros that a context claimed are given up (16 R313, 17 R337); whether there were any. -/
def State.loseMacros (s : State) (clu id : Nat) : State × Bool :=
  let give (t : State) (own : List (Nat × Nat)) : State × Bool :=
    (t.setCluster clu ((t.cluster clu).give id (own.map (fun n => n.1))), !own.isEmpty)
  match id / 32 with
  | 1 => give s (s.matrix clu id).owned
  | 2 =>
    let c := s.chain clu id
    give (s.setChain clu id { c with held := [], owed := c.owed ++ c.held }) c.held
  | _ => (s, false)

/-- ENGINE_PREEMPT_STOP: a context stops for the regions for which it was asked: at its next boundary for that of the
operation at its head, whose macros then pass on; at once for any other. -/
def execEnginePreemptStop (clu id : Nat) (s : State) : Out :=
  let x := s.eng clu id
  let mine (r : Nat) : Bool := match x.head with
    | some c => c.region == r
    | none => true
  let go := x.asked.filter (fun r => !(mine r) || s.engAtBoundary clu id)
  if go.isEmpty then .next s
  else
    let l := if go.any mine then s.loseMacros clu id else (s, false)
    .next (l.1.setEng clu id { x with
      asked := x.asked.filter (fun r => !(go.contains r))
      stopped := x.stopped.filter (fun q => !(go.contains q)) ++ go, lost := x.lost || l.2 })

/-- A macro that the context must claim back has another owner. -/
def State.macrosTaken (s : State) (clu id : Nat) : Bool :=
  let own : List (Nat × Nat) := match id / 32 with
    | 1 => (s.matrix clu id).owned
    | 2 => (s.chain clu id).owed
    | _ => []
  own.any (fun n => ((s.cluster clu).unit n.1).foreign id)

/-- MACRO_RELOAD: a context that goes on claims its macros back and loads their recorded rows; a fault parks the operation
at its head. -/
def execMacroReload (clu id : Nat) (s : State) : Out :=
  let x := s.eng clu id
  let stands := match x.run with
    | .faulted _ _ | .parked _ _ => true
    | _ => false
  let held := match x.head with
    | some c => x.stopped.contains c.region
    | none => !x.stopped.isEmpty
  if !x.lost || stands || held || s.macrosTaken clu id then .next s
  else
    let r := if id / 32 = 1 then s.reloadMatrix clu id else s.reloadChain clu id
    match r with
    | .ok t _ => .next (t.setEng clu id { t.eng clu id with lost := false })
    | .wait t => .next t
    | .miss region va => .next (s.engWalk clu id region va)
    | .fault t c v => .next (if x.queue.isEmpty then t else t.setRun clu id (.faulted c v))
    | .ends t => .next (if id / 32 = 1 then t.performEng clu id else t.endChain clu id)

/-! ### Commands by message (09 R167) -/

/-- What a command does at a context of its class. `n` is the TRAPVAL of its capability checks where the spec names a
register. -/
def commandArrival (s : State) (clu id n : Nat) (c : Command) : Arrival :=
  match id / 32 with
  | 0 => copyArrival s clu id c
  | 1 => matrixArrival s clu id c
  | 2 => chainArrival s clu id c
  | _ => grammarArrival s clu id n c

/-- ENGINE_COMMAND_ARRIVAL: the command at a place of the list acts when it has arrived and its region holds the cluster; a
command that fails its checks is sent as a fault message to its sender's region. -/
def execEngineCommandArrival (idx : Nat) (s : State) : Out :=
  match s.net[idx]? with
  | none => .next s
  | some q => match q.body, q.dst with
    | .command c, .engine clu id =>
      if !(s.arrived q) || s.waitsForHolder q then .next s
      else match commandArrival s clu id s.freeVal.2 c with
        | .waits => .next s
        | .walks region va => .next (s.engWalk clu id region va)
        | .done t => .next (t.dropPacket q.id)
        | .refused code val =>
          let t := (s.freeVal.1.dropPacket q.id).setEng clu id { s.eng clu id with noPage := [] }
          .next (t.sendEngFault clu id c.region code val 0)
    | _, _ => .next s

/-! ### The signal box (08 R158, R161) -/

/-- SIGNAL_BOX_FIRE: one cycle of a cluster's signal box; a firing that waits at a stream slot starts a frame that has been
armed since. -/
def execSignalBoxFire (clu : Nat) (s : State) : Out :=
  let s1 := s.sbCycle clu (fun t k => t.frameStart clu k)
  .next ((upTo 8).foldl (fun (t : State) k => t.frameWaiting clu k) s1)

/-! ### The end of a region (22 R403) -/

/-- The operation at the head of a context ends as by an abandon. -/
def State.endOp (s : State) (clu id : Nat) : State := if id / 32 = 2 then s.endChain clu id else s.performEng clu id

/-- The operations of a region that stand at the head of a queue are counted as performed, one behind the other; the first
argument bounds them. -/
def State.endHeads (s : State) (clu id region : Nat) : Nat → State
  | 0 => s
  | n + 1 => match (s.eng clu id).queue with
    | c :: _ => if c.region = region ∨ c.work = .done then (s.endOp clu id).endHeads clu id region n else s
    | [] => s

/-- The operations of a region that stand behind those of others count as performed in their place. -/
def State.abandonCtx (s : State) (clu id region : Nat) : State :=
  let x := s.eng clu id
  let tail := x.queue.filter (fun c => c.region == region)
  let s1 := (s.endHeads clu id region 9)
  let y := s1.eng clu id
  let dead (c : EngCmd) : EngCmd :=
    if c.region = region then { c with work := .done, armed := false, waits := [] } else c
  let s2 := s1.setEng clu id { y with
    queue := y.queue.map dead
    asked := y.asked.filter (fun q => q != region)
    stopped := y.stopped.filter (fun q => q != region) }
  let s3 := tail.foldl (fun (t : State) c => t.unpin clu id c.issue) s2
  if id / 32 = 2 then
    let c := s3.chain clu id
    let mark (q : ChainCmd) : ChainCmd := if q.region = region then { q with dead := true } else q
    s3.setChain clu id { c with cmds := (c.cmds.filter (fun q => q.region != region || q.op == 0xE2)).map mark }
  else s3

/-- Every engine operation of a region is abandoned. -/
def State.abandonRegion (s : State) (region : Nat) : State :=
  s.clusters.foldl (fun (t : State) (g : Nat × Cluster) =>
    [0, 1, 2, 3, 4, 5, 6, 7, 0x20, 0x21, 0x22, 0x23, 0x40, 0x41, 0x42, 0x43, 0x60, 0x61, 0x62, 0x63].foldl
      (fun (u : State) id => u.abandonCtx g.1 id region) t) s

end Sys2Proof.Machine
end

