-- ==== Sys2Proof/Machine/Packed.lean ====
section
/-! DEFINITION. The packed instructions of the X-half, 0x40 to 0x5F (05 R93 to R95): one function on lanes of `l` bits, and
one meaning for each lane width. -/

namespace Sys2Proof.Machine

/-- A packed operation on two operands of `w` bits, lane by lane (05 R94). -/
def lanewise (l : Nat) (f : Nat → Nat → Nat) (w x y : Nat) : Nat :=
  packFields l ((upTo (w / l)).map (fun i => f (fld x (l * i) l) (fld y (l * i) l)))

/-- The packed opcodes take no width of their own for a source (05 R93). -/
def packedBody (wc d a b : Nat) (f : Nat → Nat → Nat → Nat) (s : State) : Att :=
  let w := widthOf wc
  xBody { a := some { field := a, width := w }, b := some { field := b, width := w }, d := d, dw := w } w false
    (fun c x y _ => { value := f w x y, csr := c }) s

/-- PADD on one lane (05 R94). -/
def paddLane (l x y : Nat) : Nat := (x + y) % 2 ^ l

def execPaddL4 (w d a b : Nat) (s : State) : Out := dispatch .x (packedBody w d a b (lanewise 4 (paddLane 4))) s

def execPaddL8 (w d a b : Nat) (s : State) : Out := dispatch .x (packedBody w d a b (lanewise 8 (paddLane 8))) s

def execPaddL16 (w d a b : Nat) (s : State) : Out := dispatch .x (packedBody w d a b (lanewise 16 (paddLane 16))) s

def execPaddL32 (w d a b : Nat) (s : State) : Out := dispatch .x (packedBody w d a b (lanewise 32 (paddLane 32))) s

/-- PSUB on one lane (05 R94). -/
def psubLane (l x y : Nat) : Nat := (x + (2 ^ l - y)) % 2 ^ l

def execPsubL4 (w d a b : Nat) (s : State) : Out := dispatch .x (packedBody w d a b (lanewise 4 (psubLane 4))) s

def execPsubL8 (w d a b : Nat) (s : State) : Out := dispatch .x (packedBody w d a b (lanewise 8 (psubLane 8))) s

def execPsubL16 (w d a b : Nat) (s : State) : Out := dispatch .x (packedBody w d a b (lanewise 16 (psubLane 16))) s

def execPsubL32 (w d a b : Nat) (s : State) : Out := dispatch .x (packedBody w d a b (lanewise 32 (psubLane 32))) s

/-- PMAXU on one lane (05 R94). -/
def pmaxuLane (_ x y : Nat) : Nat := if x ≤ y then y else x

def execPmaxuL4 (w d a b : Nat) (s : State) : Out := dispatch .x (packedBody w d a b (lanewise 4 (pmaxuLane 4))) s

def execPmaxuL8 (w d a b : Nat) (s : State) : Out := dispatch .x (packedBody w d a b (lanewise 8 (pmaxuLane 8))) s

def execPmaxuL16 (w d a b : Nat) (s : State) : Out := dispatch .x (packedBody w d a b (lanewise 16 (pmaxuLane 16))) s

def execPmaxuL32 (w d a b : Nat) (s : State) : Out := dispatch .x (packedBody w d a b (lanewise 32 (pmaxuLane 32))) s

/-- PMINU on one lane (05 R94). -/
def pminuLane (_ x y : Nat) : Nat := if x ≤ y then x else y

def execPminuL4 (w d a b : Nat) (s : State) : Out := dispatch .x (packedBody w d a b (lanewise 4 (pminuLane 4))) s

def execPminuL8 (w d a b : Nat) (s : State) : Out := dispatch .x (packedBody w d a b (lanewise 8 (pminuLane 8))) s

def execPminuL16 (w d a b : Nat) (s : State) : Out := dispatch .x (packedBody w d a b (lanewise 16 (pminuLane 16))) s

def execPminuL32 (w d a b : Nat) (s : State) : Out := dispatch .x (packedBody w d a b (lanewise 32 (pminuLane 32))) s

/-- PMAXS on one lane (05 R94). -/
def pmaxsLane (l x y : Nat) : Nat := if sext x l ≤ sext y l then y else x

def execPmaxsL4 (w d a b : Nat) (s : State) : Out := dispatch .x (packedBody w d a b (lanewise 4 (pmaxsLane 4))) s

def execPmaxsL8 (w d a b : Nat) (s : State) : Out := dispatch .x (packedBody w d a b (lanewise 8 (pmaxsLane 8))) s

def execPmaxsL16 (w d a b : Nat) (s : State) : Out := dispatch .x (packedBody w d a b (lanewise 16 (pmaxsLane 16))) s

def execPmaxsL32 (w d a b : Nat) (s : State) : Out := dispatch .x (packedBody w d a b (lanewise 32 (pmaxsLane 32))) s

/-- PMINS on one lane (05 R94). -/
def pminsLane (l x y : Nat) : Nat := if sext x l ≤ sext y l then x else y

def execPminsL4 (w d a b : Nat) (s : State) : Out := dispatch .x (packedBody w d a b (lanewise 4 (pminsLane 4))) s

def execPminsL8 (w d a b : Nat) (s : State) : Out := dispatch .x (packedBody w d a b (lanewise 8 (pminsLane 8))) s

def execPminsL16 (w d a b : Nat) (s : State) : Out := dispatch .x (packedBody w d a b (lanewise 16 (pminsLane 16))) s

def execPminsL32 (w d a b : Nat) (s : State) : Out := dispatch .x (packedBody w d a b (lanewise 32 (pminsLane 32))) s

/-- PADDSS on one lane (05 R94). -/
def paddssLane (l x y : Nat) : Nat := toBits (satS (sext x l + sext y l) l) l

def execPaddssL4 (w d a b : Nat) (s : State) : Out := dispatch .x (packedBody w d a b (lanewise 4 (paddssLane 4))) s

def execPaddssL8 (w d a b : Nat) (s : State) : Out := dispatch .x (packedBody w d a b (lanewise 8 (paddssLane 8))) s

def execPaddssL16 (w d a b : Nat) (s : State) : Out := dispatch .x (packedBody w d a b (lanewise 16 (paddssLane 16))) s

def execPaddssL32 (w d a b : Nat) (s : State) : Out := dispatch .x (packedBody w d a b (lanewise 32 (paddssLane 32))) s

/-- RMAXU (05 R95): the greatest lane of both operands, in lane 0. -/
def rmaxu (l w x y : Nat) : Nat :=
  ((splitFields l (w / l) x) ++ (splitFields l (w / l) y)).foldl (fun m v => if m ≤ v then v else m) 0

def execRmaxuL4 (w d a b : Nat) (s : State) : Out := dispatch .x (packedBody w d a b (rmaxu 4)) s

def execRmaxuL8 (w d a b : Nat) (s : State) : Out := dispatch .x (packedBody w d a b (rmaxu 8)) s

def execRmaxuL16 (w d a b : Nat) (s : State) : Out := dispatch .x (packedBody w d a b (rmaxu 16)) s

def execRmaxuL32 (w d a b : Nat) (s : State) : Out := dispatch .x (packedBody w d a b (rmaxu 32)) s

end Sys2Proof.Machine
end

