-- ==== Sys2Proof/Machine/Crypto.lean ====
section
/-! DEFINITION. SHA-384 and the verification of ECDSA signatures over brainpoolP384r1, which 22 R416 and 23 R428 name, and
AES-256-XTS, which 22 R397 names. The algorithms and constants are those of FIPS 180-4, FIPS 186, RFC 5639, FIPS 197 and
IEEE 1619: PRESUMED, log 32. -/

namespace Sys2Proof.Machine

/-! ### SHA-384 -/

def shaK0 : List (BitVec 64) :=
  [0x428A2F98D728AE22, 0x7137449123EF65CD, 0xB5C0FBCFEC4D3B2F, 0xE9B5DBA58189DBBC,
   0x3956C25BF348B538, 0x59F111F1B605D019, 0x923F82A4AF194F9B, 0xAB1C5ED5DA6D8118,
   0xD807AA98A3030242, 0x12835B0145706FBE, 0x243185BE4EE4B28C, 0x550C7DC3D5FFB4E2,
   0x72BE5D74F27B896F, 0x80DEB1FE3B1696B1, 0x9BDC06A725C71235, 0xC19BF174CF692694]

def shaK1 : List (BitVec 64) :=
  [0xE49B69C19EF14AD2, 0xEFBE4786384F25E3, 0x0FC19DC68B8CD5B5, 0x240CA1CC77AC9C65,
   0x2DE92C6F592B0275, 0x4A7484AA6EA6E483, 0x5CB0A9DCBD41FBD4, 0x76F988DA831153B5,
   0x983E5152EE66DFAB, 0xA831C66D2DB43210, 0xB00327C898FB213F, 0xBF597FC7BEEF0EE4,
   0xC6E00BF33DA88FC2, 0xD5A79147930AA725, 0x06CA6351E003826F, 0x142929670A0E6E70]

def shaK2 : List (BitVec 64) :=
  [0x27B70A8546D22FFC, 0x2E1B21385C26C926, 0x4D2C6DFC5AC42AED, 0x53380D139D95B3DF,
   0x650A73548BAF63DE, 0x766A0ABB3C77B2A8, 0x81C2C92E47EDAEE6, 0x92722C851482353B,
   0xA2BFE8A14CF10364, 0xA81A664BBC423001, 0xC24B8B70D0F89791, 0xC76C51A30654BE30,
   0xD192E819D6EF5218, 0xD69906245565A910, 0xF40E35855771202A, 0x106AA07032BBD1B8]

def shaK3 : List (BitVec 64) :=
  [0x19A4C116B8D2D0C8, 0x1E376C085141AB53, 0x2748774CDF8EEB99, 0x34B0BCB5E19B48A8,
   0x391C0CB3C5C95A63, 0x4ED8AA4AE3418ACB, 0x5B9CCA4F7763E373, 0x682E6FF3D6B2B8A3,
   0x748F82EE5DEFB2FC, 0x78A5636F43172F60, 0x84C87814A1F0AB72, 0x8CC702081A6439EC,
   0x90BEFFFA23631E28, 0xA4506CEBDE82BDE9, 0xBEF9A3F7B2C67915, 0xC67178F2E372532B]

def shaK4 : List (BitVec 64) :=
  [0xCA273ECEEA26619C, 0xD186B8C721C0C207, 0xEADA7DD6CDE0EB1E, 0xF57D4F7FEE6ED178,
   0x06F067AA72176FBA, 0x0A637DC5A2C898A6, 0x113F9804BEF90DAE, 0x1B710B35131C471B,
   0x28DB77F523047D84, 0x32CAAB7B40C72493, 0x3C9EBE0A15C9BEBC, 0x431D67C49C100D4C,
   0x4CC5D4BECB3E42B6, 0x597F299CFC657E2A, 0x5FCB6FAB3AD6FAEC, 0x6C44198C4A475817]

def shaConsts : List (BitVec 64) := shaK0 ++ shaK1 ++ shaK2 ++ shaK3 ++ shaK4

/-- The eight words of the running hash. -/
structure Sha where
  a : BitVec 64
  b : BitVec 64
  c : BitVec 64
  d : BitVec 64
  e : BitVec 64
  f : BitVec 64
  g : BitVec 64
  h : BitVec 64

def shaStart : Sha :=
  { a := 0xCBBB9D5DC1059ED8, b := 0x629A292A367CD507, c := 0x9159015A3070DD17, d := 0x152FECD8F70E5939
    e := 0x67332667FFC00B31, f := 0x8EB44A8768581511, g := 0xDB0C2E0D64F98FA7, h := 0x47B5481DBEFA4FA4 }

def shaRound (x : Sha) (k w : BitVec 64) : Sha :=
  let s1 := (x.e.rotateRight 14) ^^^ (x.e.rotateRight 18) ^^^ (x.e.rotateRight 41)
  let ch := (x.e &&& x.f) ^^^ (~~~x.e &&& x.g)
  let t1 := x.h + s1 + ch + k + w
  let s0 := (x.a.rotateRight 28) ^^^ (x.a.rotateRight 34) ^^^ (x.a.rotateRight 39)
  let maj := (x.a &&& x.b) ^^^ (x.a &&& x.c) ^^^ (x.b &&& x.c)
  { a := t1 + s0 + maj, b := x.a, c := x.b, d := x.c, e := x.d + t1, f := x.e, g := x.f, h := x.g }

/-- The rounds of a block; the list holds the next 16 words of the schedule. -/
def shaRounds : List (BitVec 64) → List (BitVec 64) → Sha → Sha
  | [], _, x => x
  | k :: ks, w, x =>
    let w0 := w.headD 0
    let w1 := w.getD 1 0
    let w14 := w.getD 14 0
    let s0 := (w1.rotateRight 1) ^^^ (w1.rotateRight 8) ^^^ (w1 >>> 7)
    let s1 := (w14.rotateRight 19) ^^^ (w14.rotateRight 61) ^^^ (w14 >>> 6)
    shaRounds ks (w.tail ++ [w0 + s0 + w.getD 9 0 + s1]) (shaRound x k w0)

def shaBlock (x : Sha) (w : List (BitVec 64)) : Sha :=
  let y := shaRounds shaConsts w x
  { a := x.a + y.a, b := x.b + y.b, c := x.c + y.c, d := x.d + y.d, e := x.e + y.e, f := x.f + y.f, g := x.g + y.g
    h := x.h + y.h }

/-- The number whose bytes are the list, the highest first. -/
def ofBytesBE (l : List Byte) : Nat := l.foldl (fun (n : Nat) (b : Byte) => 256 * n + b.toNat) 0

/-- The `n` bytes of a number, the highest first. -/
def toBytesBE (n v : Nat) : List Byte := (upTo n).map (fun i => BitVec.ofNat 8 (v / 256 ^ (n - 1 - i)))

/-- The blocks of a padded message; the first argument bounds them. -/
def shaBlocks : Nat → List Byte → Sha → Sha
  | 0, _, x => x
  | n + 1, l, x =>
    let w := (upTo 16).map (fun i => BitVec.ofNat 64 (ofBytesBE ((l.drop (8 * i)).take 8)))
    shaBlocks n (l.drop 128) (shaBlock x w)

/-- SHA-384 of a list of bytes, as a number whose highest byte is the first of the digest. -/
def sha384 (l : List Byte) : Nat :=
  let zeros := (239 - l.length % 128) % 128
  let padded := l ++ [0x80] ++ List.replicate zeros 0 ++ toBytesBE 16 (8 * l.length)
  let x := shaBlocks (padded.length / 128) padded shaStart
  ofBytesBE ([x.a, x.b, x.c, x.d, x.e, x.f].flatMap (fun w => toBytesBE 8 w.toNat))

/-! ### brainpoolP384r1 -/

def bpP : Nat := 0x8CB91E82A3386D280F5D6F7E50E641DF152F7109ED5456B412B1DA197FB71123ACD3A729901D1A71874700133107EC53
def bpA : Nat := 0x7BC382C63D8C150C3C72080ACE05AFA0C2BEA28E4FB22787139165EFBA91F90F8AA5814A503AD4EB04A8C7DD22CE2826
def bpB : Nat := 0x04A8C7DD22CE28268B39B55416F0447C2FB77DE107DCD2A62E880EA53EEB62D57CB4390295DBC9943AB78696FA504C11
def bpGx : Nat := 0x1D1C64F068CF45FFA2A63A81B7C13F6B8847A3E77EF14FE3DB7FCAFE0CBD10E8E826E03436D646AAEF87B2E247D4AF1E
def bpGy : Nat := 0x8ABE1D7520F9C2A45CB1EB8E95CFD55262B70B29FEEC5864E19C054FF99129280E4646217791811142820341263C5315
def bpN : Nat := 0x8CB91E82A3386D280F5D6F7E50E641DF152F7109ED5456B31F166E6CAC0425A7CF3AB6AF6B7FC3103B883202E9046565

/-- b^e modulo m, over the `n` low bits of e from the highest on. -/
def powMod (m b e : Nat) : Nat → Nat → Nat
  | 0, acc => acc
  | n + 1, acc => powMod m b e n (acc * acc % m * (if bitAt e n then b else 1) % m)

/-- The inverse modulo a prime. -/
def invMod (m b : Nat) : Nat := powMod m b (m - 2) 384 1

/-- A point of the curve; none is the point at infinity. -/
abbrev BpPoint := Option (Nat × Nat)

def bpAdd (p q : BpPoint) : BpPoint :=
  match p, q with
  | none, _ => q
  | _, none => p
  | some a, some b =>
    if a.1 = b.1 ∧ (a.2 + b.2) % bpP = 0 then none
    else
      let l := if a.1 = b.1 then (3 * a.1 * a.1 + bpA) * invMod bpP (2 * a.2 % bpP) % bpP
        else (b.2 + bpP - a.2) * invMod bpP ((b.1 + bpP - a.1) % bpP) % bpP
      let x := (l * l + 2 * bpP - a.1 - b.1) % bpP
      some (x, (l * (a.1 + bpP - x) + bpP - a.2) % bpP)

/-- k times a point, over the `n` low bits of k from the highest on. -/
def bpMul (k : Nat) (p : BpPoint) : Nat → BpPoint → BpPoint
  | 0, acc => acc
  | n + 1, acc =>
    let d := bpAdd acc acc
    bpMul k p n (if bitAt k n then bpAdd d p else d)

/-- ECDSA: the signature (r, s) of the digest z is one of the holder of the public key (x, y). -/
def ecdsaOk (x y r s z : Nat) : Bool :=
  let onCurve := decide (x < bpP) && decide (y < bpP) && (y * y) % bpP == (x * x * x + bpA * x + bpB) % bpP
  if !onCurve || r == 0 || s == 0 || decide (bpN ≤ r) || decide (bpN ≤ s) then false
  else
    let w := invMod bpN s
    let a := bpMul (z * w % bpN) (some (bpGx, bpGy)) 384 none
    let b := bpMul (r * w % bpN) (some (x, y)) 384 none
    match bpAdd a b with
    | some p => p.1 % bpN == r
    | none => false

/-! ### AES-256-XTS -/

/-- Multiplication in the field of AES; the first argument bounds the bits of the second factor. -/
def gfMul : Nat → Byte → Byte → Byte
  | 0, _, _ => 0
  | n + 1, x, y =>
    (if y.getLsbD 0 then x else 0) ^^^ gfMul n ((x <<< 1) ^^^ (if x.getLsbD 7 then 0x1B else 0)) (y >>> 1)

/-- The inverse, x to the power 254; 0 for 0. -/
def gfInv (x : Byte) : Byte := (List.replicate 253 ()).foldl (fun (y : Byte) _ => gfMul 8 y x) x

def aesSub (x : Byte) : Byte :=
  let y := gfInv x
  y ^^^ y.rotateLeft 1 ^^^ y.rotateLeft 2 ^^^ y.rotateLeft 3 ^^^ y.rotateLeft 4 ^^^ 0x63

def xorBytes (a b : List Byte) : List Byte := List.zipWith (· ^^^ ·) a b

/-- The key schedule from its eight words of the key on; the first argument bounds the words still to come. -/
def aesExpand : Nat → List (List Byte) → List (List Byte)
  | 0, w => w
  | n + 1, w =>
    let i := w.length
    let last := w.getLastD []
    let rcon : Byte := 1 <<< (i / 8 - 1)
    let temp :=
      if i % 8 = 0 then xorBytes ((last.drop 1 ++ last.take 1).map aesSub) [rcon, 0, 0, 0]
      else if i % 8 = 4 then last.map aesSub else last
    aesExpand n (w ++ [xorBytes (w.getD (i - 8) []) temp])

/-- The fifteen round keys of a key of 32 bytes. -/
def aesKeys (key : List Byte) : List (List Byte) :=
  let w := aesExpand 52 ((upTo 8).map (fun i => (key.drop (4 * i)).take 4))
  (upTo 15).map (fun r => ((w.drop (4 * r)).take 4).flatMap (fun x => x))

/-- The columns are mixed. -/
def aesMix (b : List Byte) : List Byte :=
  (upTo 16).map (fun i =>
    let at_ (k : Nat) : Byte := b.getD (4 * (i / 4) + (i + k) % 4) 0
    gfMul 8 (at_ 0) 2 ^^^ gfMul 8 (at_ 1) 3 ^^^ at_ 2 ^^^ at_ 3)

/-- Bytes are replaced and rows rotated. -/
def aesShift (b : List Byte) : List Byte := (upTo 16).map (fun i => aesSub (b.getD ((i + 4 * (i % 4)) % 16) 0))

/-- One block of 16 bytes under a schedule of round keys. -/
def aesBlock (keys : List (List Byte)) (b : List Byte) : List Byte :=
  let start := xorBytes b (keys.headD [])
  let inner := (keys.drop 1).dropLast.foldl (fun (x : List Byte) k => xorBytes (aesMix (aesShift x)) k) start
  xorBytes (aesShift inner) (keys.getLastD [])

/-- Blocks of a data unit under the running tweak; the first argument bounds them. -/
def xtsBlocks (keys : List (List Byte)) : Nat → Nat → List Byte → List Byte
  | 0, _, _ => []
  | n + 1, tweak, b =>
    let t := toBytes 16 tweak
    let next := (2 * tweak) % 2 ^ 128
    xorBytes (aesBlock keys (xorBytes (b.take 16) t)) t ++
      xtsBlocks keys n (if tweak < 2 ^ 127 then next else next.xor 0x87) (b.drop 16)

/-- A data unit of whole blocks under the keys of the data and of the tweak, with its number. -/
def xtsEncrypt (dataKey tweakKey : List Byte) (unit : Nat) (b : List Byte) : List Byte :=
  xtsBlocks (aesKeys dataKey) (b.length / 16) (ofBytes (aesBlock (aesKeys tweakKey) (toBytes 16 unit))) b

end Sys2Proof.Machine
end

