-- ==== Sys2Proof/Machine/Region.lean ====
section
/-! DEFINITION. Region control blocks and the registry (22 R398 to R401), admission of contracts (22 R411, R412), holders
(22 R409), the end of a region (22 R403), launch slots and launches (22 R402 to R407). -/

namespace Sys2Proof.Machine

/-! ### Region control blocks (22 R398, R399, R401) -/

def regionKey (part off : Nat) : Nat := part * 2 ^ 24 + off

/-- The 2,048 bits of the RCB at an offset of a partition's control area. -/
def State.rcb (s : State) (part off : Nat) : Nat := s.natAt ((s.part part).hbmBase + off) 256

/-- The own fields of an RCB. -/
def rcbFields (v : Nat) (tag : Bool) : RegionFields :=
  { prio := BitVec.ofNat 8 (fld v 8 8), tickets := BitVec.ofNat 16 (fld v 32 16)
    dataCap := { data := BitVec.ofNat 128 (fld v 128 128), tag := tag }, cmask := BitVec.ofNat 256 (fld v 256 256)
    slices := BitVec.ofNat 16 (fld v 512 16), cims := BitVec.ofNat 8 (fld v 528 8), cmb := BitVec.ofNat 32 (fld v 544 32)
    hbmLen := BitVec.ofNat 64 (fld v 576 64), hbmLo := BitVec.ofNat 64 (fld v 640 64)
    energy := BitVec.ofNat 64 (fld v 704 64), eper := BitVec.ofNat 64 (fld v 768 64)
    fault := BitVec.ofNat 64 (fld v 832 64), ptroot := BitVec.ofNat 64 (fld v 896 64)
    savepa := BitVec.ofNat 64 (fld v 960 64)
    quantum := if fld v 1280 64 = 0 then 100000 else BitVec.ofNat 64 (fld v 1280 64)
    share := if fld v 1344 16 = 0 then 800 else BitVec.ofNat 16 (fld v 1344 16) }

/-- The fields that an RCB's own values may hold: reserved bits, and the groups whose OVR bit is set (22 R398, R399). -/
def rcbOk (v off : Nat) : Bool :=
  let ovr := fld v 16 16
  let q := fld v 1280 64
  bitAt v 0 && fld v 4 4 == 0 && fld v 48 16 == 0 && fld v 536 8 == 0 && fld v 1219 13 == 0 && fld v 1264 16 == 0 &&
    fld v 1360 688 == 0 && decide (ovr < 2 ^ 13) &&
    (!(bitAt ovr 1) || (fld v 512 16 % 16 == 0 && decide (16 ≤ fld v 512 16) && decide (fld v 512 16 ≤ 512))) &&
    (!(bitAt ovr 2) || decide (fld v 528 8 ≤ 8)) &&
    (!(bitAt ovr 4) || (fld v 576 16 == 0 && fld v 640 16 == 0)) &&
    (!(bitAt ovr 8) || (fld v 849 8 != 0 && fld v 857 39 == 0)) &&
    (!(bitAt ovr 9) || (fld v 896 16 == 0 && decide (fld v 896 64 < 0xC000000000))) &&
    (!(bitAt ovr 10) || fld v 960 16 == 0) &&
    (off != 0 || (ovr == 0x1FFF && fld v 1 3 == 0 && fld v 64 64 == 0 &&
      (q == 0 || (decide (10000 ≤ q) && decide (q ≤ 10000000))) && decide (fld v 1344 16 ≤ 1000)))

/-- The effective fields: own groups where OVR has their bit, else the parent's; QUANTUM and RTSHARE are the root's. -/
def inheritRcb (ovr : Nat) (own par : RegionFields) : RegionFields :=
  let p (k : Nat) : RegionFields := if bitAt ovr k then own else par
  { prio := (p 7).prio, tickets := (p 6).tickets, dataCap := (p 11).dataCap, cmask := (p 0).cmask, slices := (p 1).slices
    cims := (p 2).cims, cmb := (p 3).cmb, hbmLen := (p 4).hbmLen, hbmLo := (p 4).hbmLo, energy := (p 5).energy
    eper := (p 5).eper, fault := (p 8).fault, ptroot := (p 9).ptroot, savepa := (p 10).savepa
    quantum := par.quantum, share := par.share }

/-- Effective values lie within the parent's. -/
def withinParent (e p : RegionFields) : Bool :=
  (e.cmask &&& ~~~p.cmask) == 0 && decide (e.slices.toNat ≤ p.slices.toNat) && decide (e.cims.toNat ≤ p.cims.toNat) &&
    decide (e.cmb.toNat ≤ p.cmb.toNat) && decide (e.energy.toNat ≤ p.energy.toNat) &&
    decide (p.hbmLo.toNat ≤ e.hbmLo.toNat) &&
    decide (e.hbmLo.toNat + e.hbmLen.toNat ≤ p.hbmLo.toNat + p.hbmLen.toNat)

/-- The clusters of a mask. -/
def maskClusters (m : BitVec 256) : List Nat := (upTo 256).filter (fun g => bitAt m.toNat g)

/-- Effective values lie within the partition, EPER is not 0, and the save area lies in the allotment (22 R399, R401). -/
def withinPart (p : Partition) (e : RegionFields) : Bool :=
  let lo := p.hbmBase + e.hbmLo.toNat
  (maskClusters e.cmask).all (fun g => p.granted g) && decide (e.hbmLo.toNat + e.hbmLen.toNat ≤ p.hbmLen) &&
    e.eper != 0 && decide (lo ≤ e.savepa.toNat) &&
    decide (e.savepa.toNat + 0x400000 * (maskClusters e.cmask).length ≤ lo + e.hbmLen.toNat)

/-- A resolved RCB: effective fields, DEPTH, the offsets of its ancestors, and ENERGY and EPER of the root. -/
structure Resolved where
  eff    : RegionFields
  depth  : Nat
  above  : List Nat
  rootE  : Nat
  rootP  : Nat

/-- The chain from an RCB up to its root; the first argument bounds its length. None for an invalid chain. -/
def State.resolve (s : State) (part : Nat) : Nat → Nat → Option Resolved
  | 0, _ => none
  | n + 1, off =>
    let p := s.part part
    let v := s.rcb part off
    let own := rcbFields v (s.tagAt ((p.hbmBase + off) / 16 + 1))
    if off % 256 ≠ 0 ∨ 2 ^ 24 < off + 256 ∨ !(rcbOk v off) then none
    else if off = 0 then
      if withinPart p own then
        some { eff := own, depth := 0, above := [], rootE := own.energy.toNat, rootP := own.eper.toNat }
      else none
    else match s.resolve part n (fld v 64 64) with
      | none => none
      | some q =>
        let e := inheritRcb (fld v 16 16) own q.eff
        if fld v 1 3 = q.depth + 1 ∧ withinParent e q.eff ∧ withinPart p e then
          some { q with eff := e, depth := q.depth + 1, above := fld v 64 64 :: q.above }
        else none

/-- Set or clear bit `b` of an RCB, which the scheduler writes. -/
def State.setRcbBit (s : State) (key b : Nat) (on : Bool) : State :=
  let pa := (s.part (partOf key)).hbmBase + key % 2 ^ 24 + b / 8
  s.putNat pa 1 (putFld (s.byteAt pa).toNat (b % 8) 1 (ofBool on))

/-- MISSES in the RCB is incremented, and wraps. -/
def State.addMiss (s : State) (key : Nat) : State :=
  let pa := (s.part (partOf key)).hbmBase + key % 2 ^ 24 + 154
  s.putNat pa 4 ((s.natAt pa 4 + 1) % 2 ^ 32)

/-! ### Contracts at registration (22 R411, R412) -/

/-- A sum of fractions, as numerator and denominator. -/
def addFrac (x : Nat × Nat) (n d : Nat) : Nat × Nat := (x.1 * d + n * x.2, x.2 * d)

/-- The contract fields of an RCB. -/
def rcbContract (v : Nat) : Contract :=
  { period := BitVec.ofNat 64 (fld v 1024 64), budget := BitVec.ofNat 64 (fld v 1088 64)
    deadline := BitVec.ofNat 64 (fld v 1152 64), admitted := true }

def contractOk (c : Contract) (r : Resolved) : Bool :=
  decide (1000 ≤ c.budget.toNat) && decide (c.budget.toNat ≤ c.deadline.toNat) &&
    decide (c.deadline.toNat ≤ c.period.toNat) && decide (c.period.toNat ≤ 2 ^ 40) &&
    decide (r.eff.energy.toNat * r.rootP ≤ r.rootE * c.period.toNat)

/-- The other admitted contracts of a partition. -/
def State.contracts (s : State) (key : Nat) : List Region :=
  (s.regions.filter (fun e => partOf e.1 == partOf key && e.1 != key && e.2.contract.admitted)).map (fun e => e.2)

/-- The test of R412: 0x02, 0x20 or 0x21. -/
def State.admitContract (s : State) (key : Nat) (c : Contract) (r : Resolved) : Nat :=
  let others := s.contracts key
  let shareOk (g : Nat) : Bool :=
    let sum := (others.filter (fun o => bitAt o.eff.cmask.toNat g)).foldl
      (fun (x : Nat × Nat) (o : Region) => addFrac x o.contract.budget.toNat o.contract.period.toNat)
      (c.budget.toNat, c.period.toNat)
    decide (sum.1 * 1000 ≤ r.eff.share.toNat * sum.2)
  let energy := others.foldl
    (fun (x : Nat × Nat) (o : Region) => addFrac x o.eff.energy.toNat o.contract.period.toNat)
    (r.eff.energy.toNat, c.period.toNat)
  if !((maskClusters r.eff.cmask).all shareOk) then 0x20
  else if r.rootE * energy.2 < energy.1 * r.rootP then 0x21
  else 0x02

/-- The first release behind the time `now`, of those at T0 + k × PERIOD (22 R410). -/
def nextRelease (t0 period now : Nat) : Nat := t0 + period * ((now - t0) / period + 1)

/-- The contract that an admitted registration leaves. Releases count from the first messages, also of a launch that was made
before the region had a contract (22 R410); a new PERIOD counts from the same T0: DEDUCED, log 87. -/
def Region.takeContract (old : Region) (c : Contract) (now : Nat) : Contract :=
  let next := nextRelease old.t0 c.period.toNat now
  if old.contract.admitted then
    { old.contract with
      period := c.period, budget := c.budget, deadline := c.deadline
      next := if old.contract.release.isSome ∧ old.contract.period ≠ c.period then next else old.contract.next }
  else if old.launched then { c with release := some (next - c.period.toNat), next := next, judged := true }
  else c

/-- REGISTER: the chain is checked and its effective fields are kept (22 R403): the state and the status. -/
def State.registerRegion (s : State) (part off : Nat) : State × Nat :=
  let key := regionKey part off
  match s.resolve part 8 off with
  | none => (s, 0x12)
  | some r =>
    let v := s.rcb part off
    let rt := bitAt v 1216
    let c := rcbContract v
    let old := s.region key
    let st := if rt then s.admitContract key c r else 0x01
    if (s.region? key).isNone ∧ 1024 ≤ s.regions.length then (s, 0x17)
    else if rt && !(contractOk c r) then (s, 0x12)
    else if 0x20 ≤ st then (s, st)
    else
      let kept : Contract := if rt then old.takeContract c s.ns else {}
      let new : Region := { old with eff := r.eff, above := r.above.map (regionKey part), rt := rt, contract := kept }
      ((s.setRegion key new).setRcbBit key 1217 rt, st)

/-! ### Holders (22 R409) -/

/-- The activations of a core whose region loses the cluster stop where they stand. -/
def State.stopOutgoing (s : State) (core : Nat) (new : Option Nat) : State :=
  let c := s.core core
  let goes (a : Activation) : Bool := some a.info.region != new && (match a.flow.status with
    | .victim _ _ _ => false
    | _ => true)
  let stop (a : Activation) : Activation :=
    a.stop.claim false false
  let s1 := c.acts.foldl (fun (t : State) e => if goes e.2 then t.returnWalk e.2 else t) s
  let d := s1.core core
  s1.setCore core { d with acts := d.acts.map (fun e => if goes e.2 then (e.1, stop e.2) else e) }

/-- A change of the holder of a cluster: the outgoing region's activations and engine contexts stop, those of the incoming
region go on. A gated cluster, which has no holder, wakes for one (23 R421). -/
def State.switchHolder (s : State) (g : Nat) (new : Option Nat) : State :=
  let old := (s.cluster g).holder
  if old = new then s
  else
    let s1 := (if new.isSome then s.wake g else s).askEngines g old new
    let s2 := s1.setCluster g { s1.cluster g with holder := new, vacant := false }
    let cores := (s2.cores.filter (fun c => c.1 / 32 == g)).map (fun c => c.1)
    cores.foldl (fun (t : State) k => (t.stopOutgoing k new).resumeVictims k) s2

/-- A cluster is given up. While a hint sequence is under way there its holder stays, and is decided at the next chance
(03 R49): the count of quanta that it has seen is set where none has it. -/
def State.vacate (s : State) (g : Nat) : State :=
  if s.midSequence g then s.setCluster g { s.cluster g with quantum := s.ns + 1 } else s.switchHolder g none

/-- A cluster passes to a region at once: nobody holds it, or a region that is gone (22 R406). -/
def State.freeFor (s : State) (g key : Nat) : Bool :=
  match (s.cluster g).holder with
  | none => true
  | some h => h == key || (s.region? h).isNone

/-! ### The end of a region (22 R403) -/

/-- A registered region is `top`, or lies below it: whether or not what stands between is registered. -/
def Region.below (top : Nat) (e : Nat × Region) : Bool := e.1 == top || e.2.above.contains top

/-- The activations of a region on one core end as by ERET.END, and its queued messages are discarded. -/
def State.endOnCore (s : State) (core key : Nat) : State :=
  let c := s.core core
  let mine := (c.acts.filter (fun e => e.2.info.region == key)).map (fun e => e.1)
  let s1 := mine.foldl (fun (t : State) ctx => t.endAct core ctx) s
  let d := s1.core core
  let gone := (d.saved.filter (fun v => v.act.info.region == key)).map (fun v => v.act.info.id)
  let s2 := gone.foldl (fun (t : State) id => t.removeById core id) s1
  let e := s2.core core
  s2.setCore core { e with
    iq := e.iq.map (fun q => (q.1, q.2.filter (fun (m : Message) => m.region != key)))
    outbound := e.outbound.filter (fun o => match o.2 with
      | .toCore m => m.region != key
      | .toEngine _ _ _ x => x.region != key) }

/-- One region ends. -/
def State.endOneRegion (s : State) (key : Nat) : State :=
  let s1 := s.cores.foldl (fun (t : State) (c : Nat × Core) => t.endOnCore c.1 key) s
  let s2 := s1.abandonRegion key
  let s3 := s2.clusters.foldl (fun (t : State) (c : Nat × Cluster) =>
    let cl := t.cluster c.1
    let u := t.setCluster c.1 { cl with ingress := cl.ingress.filter (fun x => x.2.region != key) }
    if cl.holder = some key then u.switchHolder c.1 none else u) s2
  let s4 : State := { s3 with
    net := s3.net.filter (fun q => match q.body with
      | .message m => m.region != key
      | .command x => x.region != key
      | _ => true)
    regions := Sparse.drop key s3.regions }
  (s4.setRcbBit key 1218 false).setRcbBit key 1217 false

/-- A region and all its descendants end. -/
def State.endRegion (s : State) (key : Nat) : State :=
  let l := (s.regions.filter (Region.below key)).map (fun e => e.1)
  l.foldl (fun (t : State) k => t.endOneRegion k) s

/-! ### Reading and writing for a region (22 R405) -/

/-- The physical address of a virtual one in a region's tables, for the front end. -/
def State.viewPa (s : State) (key : Nat) (n : Need) (va : Nat) : Option Nat :=
  match walkFrom s va levels (s.region key).eff.ptroot.toNat with
  | some (lv, e) =>
    let pa := fld e 8 40 * 256 + va % 2 ^ lv
    if va < ownLm ∧ pageFault s key { n with engine := true } e pa = none ∧ !(s.isRetired pa) then some pa else none
  | none => none

/-- Read `len` bytes page by page; none on a fault. The first argument bounds the pages. -/
def State.viewRead (key : Nat) : Nat → State → Nat → Nat → State × Option (List Byte)
  | 0, s, _, _ => (s, some [])
  | n + 1, s, va, len =>
    if len = 0 then (s, some [])
    else
      let cut := min len (4096 - va % 4096)
      match s.viewPa key { r := true } va with
      | none => (s, none)
      | some pa =>
        let s1 := (s.touch key pa false).useRange pa cut
        let rest := State.viewRead key n s1 (va + cut) (len - cut)
        (rest.1, rest.2.map (fun l => s1.bytesAt pa cut ++ l))

/-- Write bytes page by page through a capability, whose CODE counts (12 R232); false on a fault. A byte below the XB of a core
without CODE counts as a fault, which stops the launch: DESIGN CHOICE, log 85. -/
def State.viewWrite (key : Nat) (code : Bool) : Nat → State → Nat → List Byte → State × Bool
  | 0, s, _, _ => (s, true)
  | n + 1, s, va, b =>
    if b.isEmpty then (s, true)
    else
      let cut := min b.length (4096 - va % 4096)
      match s.viewPa key { w := true } va with
      | none => (s, false)
      | some pa =>
        if !(s.codeOk Config.cores code pa) then (s, false)
        else
          let s1 := (s.touch key pa true).useRange pa cut
          State.viewWrite key code n (s1.putBytes pa (b.take cut)) (va + cut) (b.drop cut)

/-- Every page that the tables map in [lo, hi) lies in what the region may reach (22 R404, 0x13). An entry in a retired block
maps nothing (23 R427). -/
def State.mappedOk (s : State) (key lo hi : Nat) : List Level → Nat → Nat → Bool
  | [], _, _ => true
  | l :: rest, table, at_ =>
    (upTo (2 ^ l.bits)).all (fun i =>
      let va := at_ + i * 2 ^ l.lo
      let e := s.natAt (table + 8 * i) 8
      let pa := fld e 8 40 * 256
      if s.isRetired (table + 8 * i) || !(bitAt e 0) || !(overlaps va (2 ^ l.lo) lo (hi - lo)) then true
      else if bitAt e 1 then
        let lower := max va lo
        let upper := min (va + 2 ^ l.lo) hi
        s.granted key (pa + (lower - va)) && s.granted key (pa + (upper - 1 - va))
      else mappedOk s key lo hi rest pa va)

/-- IMG and DATA (22 R404): all zero, or a capability inside what the region may reach. -/
def State.launchCapOk (s : State) (key v : Nat) (ld : Bool) : Bool :=
  let c : AReg := { data := BitVec.ofNat 128 v, tag := true }
  v == 0 || (capShape v && (!ld || c.perm permLD) &&
    s.mappedOk key c.base c.top levels (s.region key).eff.ptroot.toNat 0)

/-! ### Launch slots (22 R402 to R404) -/

def recKind (r : Nat) : Nat := fld r 0 8
def recPart (r : Nat) : Nat := fld r 8 6
def recHid (r : Nat) : Nat := fld r 16 8
def recLen (r : Nat) : Nat := fld r 24 7
def recTargets (r : Nat) : List Nat := (upTo (fld r 45 13 + 1)).map (fun i => fld r 32 13 + i)
def recOff (r : Nat) : Nat := fld r 64 64
def recImg (r : Nat) : Nat := fld r 128 128
def recData (r : Nat) : Nat := fld r 256 128
def recKey (r : Nat) : Nat := regionKey (recPart r) (recOff r)

/-- What 22 R404 refuses with 0x11 for a bound VF; TIMEOUT of a PREPARE counts among the fields: DEDUCED, log 33. -/
def recBad (f : Vf) (r : Nat) : Bool :=
  recPart r != f.part.toNat || fld r 14 2 != 0 || fld r 31 1 != 0 || fld r 58 6 != 0 || fld r 432 80 != 0 ||
    decide (64 < recLen r) ||
    (recKind r == 3 && (fld r 400 32 == 0 || decide (100000 < fld r 400 32)))

/-- A slot reaches STATE 3: its status, its vector, and the next slot in doorbell order (22 R402). -/
def State.completeSlot (s : State) (vf k status : Nat) : State :=
  let f := s.vf vf
  (s.setVf vf { f with
    status := Sparse.put f.status k (BitVec.ofNat 8 status), stat := Sparse.put f.stat k 3
    order := f.order.tail, phase := .idle }).emit (.msix vf 0)

/-- Slot `k` of a VF is served when it is first in doorbell order and nothing is being served; the common checks come
first. -/
def State.serveSlot (s : State) (vf k kind : Nat) (body : Nat → State → State) : State :=
  let f := s.vf vf
  let r := (Sparse.get (0 : BitVec 1024) f.slots k).toNat
  if f.order.head? ≠ some k ∨ f.phase ≠ .idle then s
  else if !f.bound then s.completeSlot vf k 0x11
  else if !s.platform.sched then s.completeSlot vf k 0x15
  else if 3 < recKind r then s.completeSlot vf k 0x10
  else if recBad f r then s.completeSlot vf k 0x11
  else if recKind r ≠ kind then s
  else body r (s.setVf vf { f with stat := Sparse.put f.stat k 2 })

/-- DOOR: a slot that is free or done is submitted (22 R402). -/
def execDoor (vf v : Nat) (s : State) : Out :=
  let f := s.vf vf
  let k := fld v 0 3
  let st := Sparse.get (0 : BitVec 2) f.stat k
  if v % 2 ^ 64 ≠ k ∨ st = 1 ∨ st = 2 then .next s
  else .next (s.setVf vf { f with stat := Sparse.put f.stat k 1, order := f.order ++ [k] })

/-- SLOT_WRITE: the record is stored and STATE is free (22 R402). -/
def execSlotWrite (vf k v : Nat) (s : State) : Out :=
  let f := s.vf vf
  let st := Sparse.get (0 : BitVec 2) f.stat k
  if 8 ≤ k ∨ st = 1 ∨ st = 2 then .next s
  else .next (s.setVf vf { f with slots := Sparse.put f.slots k (BitVec.ofNat 1024 v), stat := Sparse.put f.stat k 0 })

/-- REGISTER (22 R403). -/
def execRegister (vf k : Nat) (s : State) : Out :=
  .next (s.serveSlot vf k 1 (fun r t =>
    if 2 ^ 24 ≤ recOff r then t.completeSlot vf k 0x12
    else
      let q := t.registerRegion (recPart r) (recOff r)
      q.1.completeSlot vf k q.2))

/-- REGION_END (22 R403). -/
def execRegionEnd (vf k : Nat) (s : State) : Out :=
  .next (s.serveSlot vf k 2 (fun r t =>
    let u := if recOff r < 2 ^ 24 ∧ (t.region? (recKey r)).isSome then t.endRegion (recKey r) else t
    u.completeSlot vf k 0x01))

/-! ### Placing an image (22 R405, R406) -/

/-- The ready clusters of a region's CMASK. -/
def State.readyClusters (s : State) (key : Nat) : List Nat :=
  (maskClusters (s.region key).eff.cmask).filter (fun g => bitAt s.platform.readyClu.toNat g)

/-- A section of the image header: source offset, destination offset, length. -/
def imgSection (h i : Nat) : Nat × Nat × Nat := (fld h (128 + 192 * i) 64, fld h (192 + 192 * i) 64, fld h (256 + 192 * i) 64)

def imgSections (h : Nat) : List (Nat × Nat × Nat) := ((upTo 4).map (imgSection h)).filter (fun x => x.2.2 != 0)

/-- The header is valid (22 R405), for an image of `len` bytes and the DATA capability `d`. -/
def headerOk (h len : Nat) (d : AReg) : Bool :=
  let lm := fld h 0 32
  lm % 16 == 0 && decide (16 ≤ lm) && decide (lm ≤ 0x10000) && xbOk (fld h 32 17) && fld h 49 15 == 0 && fld h 896 128 == 0 &&
    decide (128 + lm ≤ len) && (fld h 96 32 == 0 || decide (fld h 64 32 + fld h 96 32 ≤ len)) &&
    (imgSections h).all (fun x => decide (x.1 + x.2.2 ≤ len) && d.perm permST && decide (x.2.1 + x.2.2 ≤ d.top - d.base))

/-- Steps 2 to 4 of R405: a status other than 0 stops the launch. -/
def State.launchChecks (s : State) (r : Nat) : State × Nat :=
  let key := recKey r
  if !(s.launchCapOk key (recImg r) true && s.launchCapOk key (recData r) false) then (s, 0x13)
  else
    let base := (s.part (recPart r)).hbmBase + recOff r
    let s1 := if recData r = 0 then s
      else
        let d : AReg := { data := BitVec.ofNat 128 (recData r), tag := true }
        let g := s.region key
        (((s.putNat (base + 16) 16 (recData r)).putTag (base / 16 + 1) true).setRcbBit key 27 true).setRegion key
          { g with eff := { g.eff with dataCap := d } }
    if recImg r = 0 then (s1, 0)
    else
      let img : AReg := { data := BitVec.ofNat 128 (recImg r) }
      let b := State.viewRead key 2 s1 img.base 128
      match b.2 with
      | none => (b.1, 0x14)
      | some l => if headerOk (ofBytes l) (img.top - img.base) (s1.region key).eff.dataCap then (b.1, 0) else (b.1, 0x14)

/-- The image bytes that a launch places and copies; none when a read faults. -/
def State.imageBytes (s : State) (r : Nat) : State × Option (Nat × List Byte × List (List Byte)) :=
  let key := recKey r
  let img : AReg := { data := BitVec.ofNat 128 (recImg r) }
  let read (t : State) (off len : Nat) : State × Option (List Byte) := State.viewRead key (len / 4096 + 2) t (img.base + off) len
  let a := read s 0 128
  match a.2 with
  | none => (a.1, none)
  | some hb =>
    let h := ofBytes hb
    let b := read a.1 128 (fld h 0 32)
    match b.2 with
    | none => (b.1, none)
    | some lm =>
      let c := (imgSections h).foldl (fun (x : State × Option (List (List Byte))) (sec : Nat × Nat × Nat) =>
        match x.2 with
        | none => x
        | some l =>
          let q := read x.1 sec.1 sec.2.2
          (q.1, q.2.map (fun y => l ++ [y]))) (b.1, some [])
      (c.1, c.2.map (fun l => (h, lm, l)))

/-- LM bytes and XB of every core of a cluster, which wakes first (22 R405, 23 R421). -/
def State.placeOn (s : State) (key g : Nat) (lm : List Byte) (xb : Nat) : State :=
  let s0 := s.wake g
  (upTo 32).foldl (fun (t : State) i =>
    let k := 32 * g + i
    if (t.physOf k).failed then t
    else
      let t1 := (upTo ((lm.length + 4095) / 4096)).foldl (fun (u : State) j => u.touch key (lmBase k + 4096 * j) true) t
      let t2 := t1.putBytes (lmBase k) lm
      let c := t2.core k
      t2.setCore k { c with csr := { c.csr with xb := BitVec.ofNat 17 xb } }) s0

/-- The launch log takes in what was placed and copied (22 R416). -/
def State.logLaunch (s : State) (r : Nat) (lm : List Byte) (secs : List (List Byte)) : State :=
  let p := s.part (recPart r)
  let inner := sha384 (lm ++ secs.flatMap (fun l => l))
  let m := sha384 (toBytesBE 48 p.log.toNat ++ toBytesBE 48 inner ++ toBytes 64 r)
  s.setPart (recPart r) { p with log := BitVec.ofNat 384 m }

/-- Steps 5 and 6: the image is placed and its sections are copied; a status other than 0 stops the launch. -/
def State.placeImage (s : State) (r : Nat) (clusters : List Nat) : State × Nat :=
  let key := recKey r
  let d := (s.region key).eff.dataCap
  let q := s.imageBytes r
  match q.2 with
  | none => (q.1, 0x14)
  | some x =>
    let s1 := clusters.foldl (fun (t : State) g => t.placeOn key g x.2.1 (fld x.1 32 17)) q.1
    let c := ((imgSections x.1).zip x.2.2).foldl (fun (y : State × Bool) (sec : (Nat × Nat × Nat) × List Byte) =>
      if !y.2 then y else State.viewWrite key (d.perm permCODE) (sec.2.length / 4096 + 2) y.1 (d.base + sec.1.2.1) sec.2) (s1, true)
    (c.1.logLaunch r x.2.1 x.2.2, if c.2 then 0 else 0x14)

/-- The handler entry of a core as a region sees it: in LM, or in its save area (10 R199). -/
def State.viewEntry (s : State) (key core hid : Nat) : Nat :=
  let pa := lmBase core + 8 * hid
  let u := Sparse.get ({} : UnitRec) s.units (pa / 4096)
  match u.saved.contains key, s.region? key with
  | true, some r => s.natAt (unitSave r (alignDown pa 4096) + pa % 4096) 8
  | _, _ => s.natAt pa 8

/-- Every target takes the first message: R139, and for a contract IQ0 (22 R404, 0x16). -/
def State.targetsOk (s : State) (r : Nat) : Bool :=
  let key := recKey r
  recHid r != 0 && (recTargets r).all (fun k =>
    let e := s.viewEntry key k (recHid r)
    handlerOk e && (!(s.region key).contract.admitted || hInbox e == 0))

/-- How a launch or a preparation stands. -/
inductive Placing where
  | waits
  | failed (status : Nat)
  | placed

/-- Steps 2 to 6 of R405: `began` when the checks have been made and the clusters are awaited. -/
def State.placeRegion (s : State) (r : Nat) (began : Bool) : State × Placing :=
  let key := recKey r
  let c := if began then (s, 0) else s.launchChecks r
  if c.2 ≠ 0 then (c.1, .failed c.2)
  else
    let cl := c.1.readyClusters key
    if cl.isEmpty || !((recTargets r).all (fun k => decide (k < 8192) && cl.contains (k / 32) && !(c.1.physOf k).failed)) then
      (c.1, .failed 0x15)
    else
      let s1 := if recImg r = 0 then c.1
        else cl.foldl (fun (t : State) g =>
          if t.freeFor g key && !(t.holdsBack g key) then t.switchHolder g (some key) else t) c.1
      if recImg r ≠ 0 ∧ !(cl.all (fun g => (s1.cluster g).holder == some key)) then (s1, .waits)
      else
        let p := if recImg r = 0 then (s1, 0) else s1.placeImage r cl
        if p.2 ≠ 0 then (p.1, .failed p.2)
        else if p.1.targetsOk r then (p.1, .placed) else (p.1, .failed 0x16)

/-- The first messages of a record, to its targets in ascending order (22 R407). -/
def State.firstMessages (s : State) (r : Nat) : State :=
  (recTargets r).foldl (fun (t : State) k =>
    t.sendMessage .front
      { header := mkHeader t k Config.package (recHid r) 0x1FFF Config.package (recLen r) 0 3
        payload := BitVec.ofNat 512 (zext (fld r 512 512) (8 * recLen r))
        region := recKey r }) s

/-- Step 7: the region is LAUNCHED, its first messages go out, and the first release of a contract counts from them. -/
def State.commitRegion (s : State) (r : Nat) : State :=
  let key := recKey r
  let g := s.region key
  let c := g.contract
  let c1 : Contract := if c.admitted then
      { c with release := some s.ns, next := s.ns + c.period.toNat, left := c.budget.toNat, active := true, ready := true
               held := none, judged := false }
    else c
  let s1 := s.setRegion key { g with launched := true, record := BitVec.ofNat 1024 r, t0 := s.ns, contract := c1
                                     spent := if c.admitted then 0 else g.spent }
  (s1.setRcbBit key 1218 true).firstMessages r

def State.setPhase (s : State) (vf : Nat) (p : ServePhase) : State := s.setVf vf { s.vf vf with phase := p }

/-- A LAUNCH goes on: a region that is not registered is registered first (22 R403). -/
def State.launchOn (s : State) (vf k r : Nat) (began : Bool) : State :=
  let key := recKey r
  let q := if began || ((s.region? key).isSome && decide (recOff r < 2 ^ 24)) then (s, 0x01)
    else if 2 ^ 24 ≤ recOff r then (s, 0x12) else s.registerRegion (recPart r) (recOff r)
  if q.2 ≠ 0x01 ∧ q.2 ≠ 0x02 then q.1.completeSlot vf k q.2
  else if (q.1.region? key).isNone then q.1.completeSlot vf k 0x01
  else
    let p := q.1.placeRegion r began
    match p.2 with
    | .waits => p.1.setPhase vf (.waiting k)
    | .failed st => p.1.completeSlot vf k st
    | .placed => p.1.setPhase vf (.placed k)

/-- The record of a slot. -/
def State.slotRec (s : State) (vf k : Nat) : Nat := (Sparse.get (0 : BitVec 1024) (s.vf vf).slots k).toNat

/-- LAUNCH: a LAUNCH record is served, or goes on when its clusters have come (22 R405, R406). -/
def execLaunch (vf k : Nat) (s : State) : Out :=
  let r := s.slotRec vf k
  .next (if (s.vf vf).phase = .waiting k ∧ recKind r = 0 then s.launchOn vf k r true
    else s.serveSlot vf k 0 (fun r t => t.launchOn vf k r false))

end Sys2Proof.Machine
end

