-- ==== Sys2Proof/Machine/Sched.lean ====
section
/-! DEFINITION. The scheduler: jobs of contracts (22 R410), best-effort quanta (22 R413), energy (22 R414; 23 R418, R420),
power gating (23 R421) and lazy restoring (10 R199). -/

namespace Sys2Proof.Machine

/-! ### Jobs (22 R410) -/

/-- A region has something left on a cluster: an activation, resident, parked or saved, or a queued message. -/
def State.liveOn (s : State) (g key : Nat) : Bool :=
  (s.cluster g).ingress.any (fun x => x.2.region == key) ||
    s.cores.any (fun c => c.1 / 32 == g &&
      (c.2.acts.any (fun e => e.2.info.region == key) || c.2.saved.any (fun v => v.act.info.region == key) ||
        c.2.iq.any (fun q => q.2.any (fun (m : Message) => m.region == key))))

/-- A message of the region is in transit to one of these clusters. -/
def State.inTransit (s : State) (key : Nat) (cl : List Nat) : Bool :=
  s.net.any (fun q => match q.body, q.dst with
    | .message m, .lm k => m.region == key && cl.contains (k / 32)
    | _, _ => false) ||
  s.cores.any (fun c => c.2.outbound.any (fun o => match o.2 with
    | .toCore m => m.region == key && m.dpkg == Config.package && cl.contains (m.dcore / 32)
    | .toEngine _ _ _ _ => false))

/-- The job of a contracted region is complete. -/
def State.jobDone (s : State) (key : Nat) : Bool :=
  let cl := maskClusters (s.region key).eff.cmask
  !(cl.any (fun g => s.liveOn g key)) && !(s.inTransit key cl)

def Contract.wants (c : Contract) : Bool := c.admitted && c.active && c.ready && decide (0 < c.left)

/-- Absolute deadline. -/
def Contract.due (c : Contract) : Nat := c.release.getD 0 + c.deadline.toNat

/-- Insert by deadline, with ties to the lower RCB offset. -/
def insertJob (x : Nat × Region) : List (Nat × Region) → List (Nat × Region)
  | [] => [x]
  | y :: rest =>
    if x.2.contract.due < y.2.contract.due ∨ (x.2.contract.due = y.2.contract.due ∧ x.1 < y.1) then x :: y :: rest
    else y :: insertJob x rest

/-- The ready jobs of a partition in the order of their deadlines. -/
def State.readyJobs (s : State) (part : Nat) : List (Nat × Region) :=
  (s.regions.filter (fun e => partOf e.1 == part && e.2.contract.wants)).foldr insertJob []

/-- The jobs that get their clusters: all of them or none (22 R410). -/
def grantJobs : List (Nat × Region) → BitVec 256 → List Nat
  | [], _ => []
  | x :: rest, taken =>
    if (x.2.eff.cmask &&& taken) = 0 then x.1 :: grantJobs rest (taken ||| x.2.eff.cmask) else grantJobs rest taken

/-- The budget that a job has spent since it was granted its clusters is taken off. -/
def Contract.charge (c : Contract) (now : Nat) : Contract :=
  match c.held with
  | some t => { c with left := c.left - (now - t), held := some now }
  | none => c

/-- The launches and preparations that await their clusters, or that have placed on them and not yet sent their messages: the
records. -/
def State.placings (s : State) (placed : Bool) : List Nat :=
  s.vfs.filterMap (fun v => match v.2.phase with
    | .waiting k => if placed then none else some (s.slotRec v.1 k)
    | .placed k => if placed then some (s.slotRec v.1 k) else none
    | .idle => none) ++
  (s.prepare.filter (fun p => p.coord.isSome && p.prepared == placed)).map (fun p => p.record.toNat)

/-- The regions that one of these places on a cluster. -/
def State.placers (s : State) (g : Nat) (placed : Bool) : List Nat :=
  ((s.placings placed).filter (fun r => recImg r != 0 && (s.region? (recKey r)).isSome &&
    (s.readyClusters (recKey r)).contains g)).map recKey

/-- The holder of a cluster is a launch that has placed there: it shares the cluster from its first messages on (22 R406). -/
def State.placing (s : State) (g : Nat) : Bool := (s.cluster g).holder.any (fun h => (s.placers g true).contains h)

/-- A job takes its clusters: those that nothing holds back change hands now. -/
def State.seatJob (s : State) (key : Nat) : State :=
  (maskClusters (s.region key).eff.cmask).foldl (fun (t : State) g =>
    if t.holdsBack g key || t.placing g then t else t.switchHolder g (some key)) s

/-- A contract's region holds a cluster that its job has lost or does not need, and nothing is being placed there for it. -/
def State.leaves (s : State) (part g : Nat) : Bool :=
  match (s.cluster g).holder with
  | none => false
  | some h => partOf h == part && (match s.region? h with
      | some r => r.contract.admitted && r.contract.held.isNone
      | none => false) && !((s.placers g true).contains h) && !((s.placers g false).contains h)

/-- The clusters of a partition's contracts are decided again: the granted jobs take theirs, and a job that is not granted
gives its own up. -/
def State.decideJobs (s : State) (part : Nat) : State :=
  let granted := grantJobs (s.readyJobs part) 0
  let now := s.ns
  let s1 : State := { s with regions := s.regions.map (fun e =>
    if partOf e.1 != part then e
    else
      let c := e.2.contract.charge now
      let h := if granted.contains e.1 then some (c.held.getD now) else none
      (e.1, { e.2 with contract := { c with held := h } })) }
  let s2 := granted.foldl (fun (t : State) k => t.seatJob k) s1
  (upTo Config.clusters).foldl (fun (t : State) g => if t.leaves part g then t.vacate g else t) s2

/-- The job that has been granted a cluster. -/
def State.jobOn (s : State) (g : Nat) : Option Nat :=
  (s.regions.find? (fun e => e.2.contract.held.isSome && e.2.contract.wants && bitAt e.2.eff.cmask.toNat g)).map (fun e => e.1)

def State.setContract (s : State) (key : Nat) (c : Contract) : State := s.setRegion key { s.region key with contract := c }

/-- LAUNCH_FIRST_MESSAGES: everything has been placed (22 R407). -/
def execLaunchFirstMessages (vf k : Nat) (s : State) : Out :=
  let r := s.slotRec vf k
  if (s.vf vf).phase ≠ .placed k ∨ recKind r ≠ 0 then .next s
  else if (s.region? (recKey r)).isNone then .next (s.completeSlot vf k 0x01)
  else
    let st := if (s.region (recKey r)).contract.admitted then 0x02 else 0x01
    .next (((s.commitRegion r).decideJobs (recPart r)).completeSlot vf k st)

/-- CONTRACT_RELEASE: the next release; with the previous job complete its first messages go out again. Else it sends no
message and gives no budget, but a new period begins, in which a job with budget left is ready (22 R410, R414). -/
def execContractRelease (part off : Nat) (s : State) : Out :=
  let key := regionKey part off
  let g := s.region key
  let c := g.contract
  if !c.admitted || c.release.isNone || decide (s.ns < c.next) then .next s
  else if c.active && !(s.jobDone key) then
    .next ((s.setRegion key
      { g with contract := { c with next := c.next + c.period.toNat, ready := true }, spent := 0 }).decideJobs part)
  else
    let c1 : Contract :=
      { c with release := some c.next, next := c.next + c.period.toNat, left := c.budget.toNat, active := true, ready := true
               held := none, judged := false }
    .next (((s.setRegion key { g with contract := c1, spent := 0 }).firstMessages g.record.toNat).decideJobs part)

/-- DEADLINE_EXPIRY: a job that is not complete at its deadline counts as a miss, once. -/
def execDeadlineExpiry (part off : Nat) (s : State) : Out :=
  let key := regionKey part off
  let g := s.region key
  let c := g.contract
  if !c.admitted || c.release.isNone || c.judged || decide (s.ns < c.due) then .next s
  else
    let s1 := s.setRegion key { g with contract := { c with judged := true } }
    if c.active && !(s.jobDone key) then .next (s1.addMiss key) else .next s1

/-- BUDGET_EXHAUSTED: the job stops being ready until its next release. -/
def execBudgetExhausted (part off : Nat) (s : State) : Out :=
  let key := regionKey part off
  let c := ((s.region key).contract).charge s.ns
  if c.held.isNone || decide (0 < c.left) then .next s
  else .next ((s.setContract key { c with ready := false, held := none }).decideJobs part)

/-- JOB_COMPLETE: nothing of the region is left on its clusters. -/
def execJobComplete (part off : Nat) (s : State) : Out :=
  let key := regionKey part off
  let c := ((s.region key).contract).charge s.ns
  if !c.active || !(s.jobDone key) then .next s
  else .next ((s.setContract key { c with active := false, ready := false, held := none }).decideJobs part)

/-! ### Best effort (22 R413, R414) -/

/-- A best-effort region has spent its energy of the window under way. -/
def Region.exhausted (r : Region) (now : Nat) : Bool :=
  now / r.eff.eper.toNat == r.window && decide (r.eff.energy.toNat ≤ r.spent)

/-- A region has a message waiting at a cluster's ingress, or a resident activation on it. -/
def State.waitsOrRuns (s : State) (g key : Nat) : Bool :=
  (s.cluster g).ingress.any (fun x => x.2.region == key) ||
    s.cores.any (fun c => c.1 / 32 == g && c.2.acts.any (fun e => e.2.info.region == key))

/-- Eligible for a draw on a cluster. -/
def State.eligibleOn (s : State) (g : Nat) (e : Nat × Region) : Bool :=
  e.2.launched && !e.2.contract.admitted && bitAt e.2.eff.cmask.toNat g && !(e.2.exhausted s.ns) && s.waitsOrRuns g e.1

/-- The winner among the eligible regions, with the generator behind it: a single one, or else a draw among those of the
highest PRIO. -/
def drawHolder (lot : BitVec 32) (l : List (Nat × Region)) : Option Nat × BitVec 32 :=
  match l with
  | [] => (none, lot)
  | [e] => (some e.1, lot)
  | _ =>
    let top := (l.map (fun e => e.2.eff.prio.toNat)).foldl max 0
    let x := lotStep lot
    (drawWinner x ((l.filter (fun e => e.2.eff.prio.toNat == top)).map (fun e => (e.1, e.2.eff.tickets.toNat))), x)

/-- QUANTUM of a partition in ns: of the registered root, else of the root's RCB (22 R398). -/
def State.quantumOf (s : State) (part : Nat) : Nat :=
  let root := match s.region? (regionKey part 0) with
    | some r => r.eff
    | none => rcbFields (s.rcb part 0) false
  max 1 root.quantum.toNat

/-- A region that is not eligible could still hold a cluster while no other takes part: it lacks only work there. -/
def State.mayIdle (s : State) (g key : Nat) : Bool :=
  match s.region? key with
  | some r => r.launched && !r.contract.admitted && bitAt r.eff.cmask.toNat g && !(r.exhausted s.ns)
  | none => false

/-- The quantum that a partition's clusters are in. -/
def State.quantumNow (s : State) (g : Nat) : Nat := s.ns / s.quantumOf ((s.ownerOf g).getD 0)

/-- No decision is due on a cluster: the quantum is the same, and the holder is eligible, or a draw has left the cluster without
one (22 R413). -/
def State.settled (s : State) (g : Nat) : Bool :=
  let cl := s.cluster g
  cl.quantum == s.quantumNow g && (match cl.holder with
    | some h => (s.regions.filter (s.eligibleOn g)).any (fun e => e.1 == h)
    | none => cl.vacant)

/-- The draw of a cluster (22 R413). With no region eligible a holder that lacks only work stays, and any other goes; a change
that is held back is drawn again later: DESIGN CHOICE, log 34. -/
def State.drawOn (s : State) (g : Nat) : State :=
  let d := drawHolder (s.cluster g).lot (s.regions.filter (s.eligibleOn g))
  let t := s.setCluster g { s.cluster g with lot := d.2, quantum := s.quantumNow g }
  match d.1, (s.cluster g).holder with
  | some key, _ => if s.holdsBack g key then s else t.switchHolder g (some key)
  | none, some h =>
    if s.mayIdle g h then t
    else if s.midSequence g then s
    else
      let u := t.switchHolder g none
      u.setCluster g { u.cluster g with vacant := true }
  | none, none => t.setCluster g { t.cluster g with vacant := true }

/-- A cluster's holder is decided: a launch that has placed there keeps it until its first messages; else a granted job comes
first, then a launch that waits for the cluster, then the draw (22 R406, R410, R413). -/
def State.redecide (s : State) (g : Nat) : State :=
  if s.placing g then s.setCluster g { s.cluster g with quantum := s.quantumNow g }
  else match s.jobOn g with
    | some key => if s.holdsBack g key then s else s.switchHolder g (some key)
    | none =>
      if s.settled g then s
      else match (s.placers g false).head? with
        | some key =>
          if s.holdsBack g key then s
          else (s.setCluster g { s.cluster g with quantum := s.quantumNow g }).switchHolder g (some key)
        | none => s.drawOn g

/-- QUANTUM_BOUNDARY: at a boundary of the root's QUANTUM, or when the holder is not eligible. -/
def execQuantumBoundary (g : Nat) (s : State) : Out := .next ((s.decideJobs ((s.ownerOf g).getD 0)).redecide g)

/-! ### Energy (22 R414; 23 R418, R420) -/

/-- Energy is charged to a region; a best-effort region's window is the one under way. -/
def State.chargeRegion (s : State) (key n : Nat) : State :=
  match s.region? key with
  | none => s
  | some r =>
    let w := if r.contract.admitted then r.window else s.ns / r.eff.eper.toNat
    s.setRegion key { r with spent := (if w = r.window ∨ r.contract.admitted then r.spent else 0) + n, window := w }

/-- The energy of a cluster over the last microsecond, a free value, goes to its holder. -/
def State.chargeCluster (s : State) (g : Nat) : State :=
  let cl := s.cluster g
  let e := Config.freeEnergy s.fresh
  let s1 := ({ s with fresh := s.fresh + 1 } : State).setCluster g { cl with energy := cl.energy + e.setWidth 64 }
  match cl.holder with
  | some h => s1.chargeRegion h e.toNat
  | none => s1

/-- The energy of a stack goes to the regions whose accesses reached it, in proportion. -/
def State.chargeStack (s : State) (k : Nat) : State :=
  let e := Config.freeEnergy s.fresh
  let use := s.hbmUse.filter (fun x => x.1 % 16 == k)
  let total := (use.map (fun x => x.2)).foldl (· + ·) 0
  let s1 : State := { s with fresh := s.fresh + 1
                             hbmEnergy := Sparse.put s.hbmEnergy k (Sparse.get 0 s.hbmEnergy k + e.setWidth 64) }
  use.foldl (fun (t : State) x => t.chargeRegion (x.1 / 16) (e.toNat * x.2 / total)) s1

/-- A cluster's holder is a best-effort region that has spent its energy. -/
def State.spentHolder (s : State) (g : Nat) : Bool :=
  match (s.cluster g).holder.bind s.region? with
  | some r => !r.contract.admitted && r.exhausted s.ns
  | none => false

/-- ENERGY_CHARGE: once for each microsecond (23 R420); jobs that have spent their energy stop being ready, and clusters whose
holder has spent its energy are decided again (22 R414). -/
def execEnergyCharge (s : State) : Out :=
  if s.ns / 1000 ≤ s.platform.charged then .next s
  else
    let s1 : State := { s with platform := { s.platform with charged := s.ns / 1000 } }
    let s2 := (upTo Config.clusters).foldl (fun (t : State) g => t.chargeCluster g) s1
    let s3 := (upTo 12).foldl (fun (t : State) k => t.chargeStack k) s2
    let spent (r : Region) : Bool := r.contract.wants && decide (r.eff.energy.toNat ≤ r.spent)
    let parts := ((s3.regions.filter (fun e => spent e.2)).map (fun e => partOf e.1)).eraseDups
    let s4 : State := { s3 with hbmUse := [], regions := s3.regions.map (fun e =>
      if spent e.2 then (e.1, { e.2 with contract := { e.2.contract with ready := false } }) else e) }
    let s5 := parts.foldl (fun (t : State) p => t.decideJobs p) s4
    .next ((upTo Config.clusters).foldl (fun (t : State) g => if t.spentHolder g then t.redecide g else t) s5)

/-- ENERGY_WINDOW_BOUNDARY: a new window of EPER ns (22 R414). -/
def execEnergyWindowBoundary (part off : Nat) (s : State) : Out :=
  let key := regionKey part off
  match s.region? key with
  | none => .next s
  | some r =>
    let w := s.ns / r.eff.eper.toNat
    if r.contract.admitted || w == r.window then .next s else .next (s.setRegion key { r with spent := 0, window := w })

/-! ### Lazy restoring, power gating, waking -/

/-- An access of a region to a unit has arrived at its home, and waits there for the unit to be read back (10 R199). -/
def State.unitAwaited (s : State) (unit region : Nat) : Bool :=
  s.net.any (fun q => s.arrived q && match q.body with
    | .piece acc k => s.accs.any (fun x => x.id == acc && x.region == region &&
        (x.pieces[k]?).any (fun p => overlaps (4096 * unit) 4096 p.pa p.len))
    | _ => false)

/-- LAZY_UNIT_RESTORE: a saved unit is read back for a region whose access has come to it (10 R199). -/
def execLazyUnitRestore (unit : Nat) (s : State) : Out :=
  match (Sparse.get ({} : UnitRec) s.units unit).saved.find? (s.unitAwaited unit) with
  | some region => .next (s.touch region (4096 * unit) false)
  | none => .next s

/-- The trace buffer counts as drained (23 R431). -/
def Trace.drained (t : Trace) : Bool := t.dst == 0 || (t.held == 0 && t.now.isEmpty)

/-- CLUSTER_POWER_GATE (23 R421). -/
def execClusterPowerGate (g : Nat) (s : State) : Out :=
  let cl := s.cluster g
  if cl.gated.isNone && cl.holder.isNone && !(cl.enc.any (fun x => x.2.frame.isSome)) && cl.trace.drained then
    .next (s.setCluster g { cl with gated := some s.clock })
  else .next s

/-- CLUSTER_WAKE (23 R421). -/
def execClusterWake (g : Nat) (s : State) : Out := .next (s.wake g)

end Sys2Proof.Machine
end

