-- ==== Sys2Proof/Machine/Partition.lean ====
section
/-! DEFINITION. The PF's partition commands (22 R394 to R397) and launches over several packages (22 R415). -/

namespace Sys2Proof.Machine

/-! ### Partition commands (22 R394, R396) -/

/-- A command completes with RESULT. -/
def State.pfResult (s : State) (r : Nat) : State :=
  { s with platform := { s.platform with busy := false, clearing := none, result := BitVec.ofNat 8 r } }

/-- The partitions that hold resources: active ones, and one that CREATE is clearing. -/
def Partition.holds (p : Partition) : Bool := p.active || p.isClearing

/-- RESULT of a CREATE; 0 when it may go on. The codes are tried in ascending order: DEDUCED, log 35. -/
def State.createResult (s : State) (part : Nat) : Nat :=
  let e : Partition := { entry := s.platform.pentry }
  let others := (s.parts.filter (fun x => x.1 != part && x.2.holds)).map (fun x => x.2)
  let cl := fld e.entry.toNat 0 256
  let gib := 0x40000000
  if others.any (fun o => bAnd cl (fld o.entry.toNat 0 256) != 0) || s.platform.lostClu.any (fun g => bitAt cl g) then 0x41
  else if e.hbmBase % gib ≠ 0 ∨ e.hbmLen = 0 ∨ e.hbmLen % gib ≠ 0 ∨ 0xC000000000 < e.hbmBase + e.hbmLen ∨
      others.any (fun o => overlaps e.hbmBase e.hbmLen o.hbmBase o.hbmLen) then 0x42
  else if (s.part part).holds then 0x43
  else 0

/-- CREATE: the entry is taken over and clearing begins, with new keys (22 R396, R397). -/
def execCreate (part _vf : Nat) (s : State) : Out :=
  if s.platform.busy then .next s
  else
    let r := s.createResult part
    if r ≠ 0 then .next (s.pfResult r)
    else
      let entry := s.platform.pentry.toNat % 2 ^ 768 + 2 ^ 769
      let s1 : State := { s with fresh := s.fresh + 2, platform := { s.platform with busy := true, clearing := some part } }
      .next (s1.setPart part
        { entry := BitVec.ofNat 1024 entry, dataKey := (Config.freeWord s.fresh).setWidth 256
          tweakKey := (Config.freeWord (s.fresh + 1)).setWidth 256 })

/-- The sources that a cluster's matrix contexts have recorded are dropped, with their pins (16 R299). -/
def State.dropSources (s : State) (g : Nat) : State :=
  let cl := s.cluster g
  (s.setCluster g { cl with
    matrix := cl.matrix.map (fun m => (m.1, { m.2 with owned := [], rowSrc := [], specSrc := [] })) }).dropPins
    (fun p => p.clu == g && decide (2 ^ 64 ≤ p.op))

/-- What CREATE makes zero or empty in a cluster. -/
def State.clearCluster (s : State) (g : Nat) : State :=
  let s1 := (s.zeroRange (lmBase (32 * g)) (32 * 0x10000)).zeroRange (cmBase g) 0x100000
  let s2 := s1.setCluster g { s1.cluster g with
    macs := [], acc := [], accFlags := [], tlb := [], holder := none, vacant := false, lot := BitVec.ofNat 32 (g + 1) }
  ({ s2 with
    cores := s2.cores.map (fun c => if c.1 / 32 = g then (c.1, { c.2 with siding := [], trapRecs := [] }) else c)
    units := s2.units.filter (fun u => placeOf (4096 * u.1) != some (.cm g) && !((upTo 32).any (fun i =>
      placeOf (4096 * u.1) == some (.lm (32 * g + i))))) } : State).dropSources g

/-- PARTITION_CLEAR_DONE: everything that R396 names has been done, and the partition is active. -/
def execPartitionClearDone (part : Nat) (s : State) : Out :=
  if s.platform.clearing ≠ some part then .next s
  else
    let p := s.part part
    let s1 := (upTo 256).foldl (fun (t : State) g => if p.granted g then t.clearCluster g else t) s
    let s2 := s1.zeroRange p.hbmBase p.hbmLen
    .next ((s2.setPart part { p with entry := BitVec.ofNat 1024 (p.entry.toNat % 2 ^ 768 + 2 ^ 768), log := 0 }).pfResult 0)

/-- What stands in the cells of the 64-byte line `line` of a grant: its bytes under the partition's keys, the line's number
as the tweak (22 R397). Every access meets the plain bytes, which the state holds. The keys and the tweak stand with their
first byte lowest: DEDUCED, log 72. -/
def State.storedLine (s : State) (part line : Nat) : List Byte :=
  let p := s.part part
  xtsEncrypt (toBytes 32 p.dataKey.toNat) (toBytes 32 p.tweakKey.toNat) line (s.bytesAt (64 * line) 64)

/-- DESTROY: every region ends, the keys are erased, the resources are unassigned and the VFs unbound (22 R396); what the
clusters' matrix contexts have recorded goes (16 R299). -/
def execDestroy (part _vf : Nat) (s : State) : Out :=
  if s.platform.busy then .next s
  else if !((s.part part).active) then .next (s.pfResult 0x43)
  else
    let l := (s.regions.filter (fun e => partOf e.1 == part)).map (fun e => e.1)
    let s1 := l.foldl (fun (t : State) k => t.endOneRegion k) s
    let unbind (f : Vf) : Vf := if f.bound && f.part.toNat == part then { f with bound := false, scope := 0 } else f
    let s2 : State := { s1 with vfs := s1.vfs.map (fun v => (v.1, unbind v.2)), parts := Sparse.drop part s1.parts }
    let p := s.part part
    let s3 := (upTo 256).foldl (fun (t : State) g => if p.granted g then (t.switchHolder g none).dropSources g else t) s2
    .next (s3.pfResult 0)

/-- BINDVF (22 R396). A consent to debug was given by the owner of one partition: it ends with the binding (23 R428). -/
def execBindvf (part vf : Nat) (s : State) : Out :=
  let f := s.vf vf
  if s.platform.busy then .next s
  else if !((s.part part).active) then .next (s.pfResult 0x43)
  else if f.bound && f.part.toNat != part then .next (s.pfResult 0x44)
  else .next ((s.setVf vf { f with bound := true, part := BitVec.ofNat 6 part, scope := if f.bound then f.scope else 0 }).pfResult 0)

/-- UNBINDVF (22 R394). -/
def execUnbindvf (part vf : Nat) (s : State) : Out :=
  let f := s.vf vf
  if s.platform.busy then .next s
  else if !((s.part part).active) then .next (s.pfResult 0x43)
  else if f.bound && f.part.toNat != part then .next (s.pfResult 0x44)
  else .next ((s.setVf vf { f with bound := false, scope := 0 }).pfResult 0)

/-- PARTITION_BAD_COMMAND: an OP other than 1 to 4, or a bit that must be zero (22 R394). -/
def execPartitionBadCommand (_op : Nat) (s : State) : Out :=
  if s.platform.busy then .next s else .next (s.pfResult 0x40)

/-! ### Launches over several packages (22 R415) -/

/-- Kinds of what goes over a package link: PREPARE, acknowledgement, refusal, COMMIT, ABORT. -/
def linkPREPARE : Nat := 0
def linkACK : Nat := 1
def linkREFUSAL : Nat := 2
def linkCOMMIT : Nat := 3
def linkABORT : Nat := 4

/-- The other packages that a record names. -/
def recPackages (r : Nat) : List Nat := (upTo 16).filter (fun n => bitAt (fld r 384 16) n && n != Config.package)

def State.tell (s : State) (pkgs : List Nat) (kind : Nat) (r : BitVec 1024) : State :=
  pkgs.foldl (fun (t : State) p => t.emit (.link p kind r)) s

/-- The same preparation: its record and who coordinates it. -/
def Prepare.same (p q : Prepare) : Bool := p.coord == q.coord && p.record == q.record && p.vf == q.vf && p.slot == q.slot

def State.dropPrep (s : State) (p : Prepare) : State := { s with prepare := s.prepare.filter (fun q => !(q.same p)) }

/-- A preparation is kept: in its place, or behind the others. -/
def State.keepPrep (s : State) (p : Prepare) : State :=
  { s with prepare := if s.prepare.any (fun q => q.same p) then s.prepare.map (fun q => if q.same p then p else q)
                      else s.prepare ++ [p] }

/-- A preparation of this record that another package coordinates. -/
def State.prepFrom (s : State) (pkg : Nat) (r : BitVec 1024) : Option Prepare :=
  s.prepare.find? (fun p => p.coord == some pkg && p.record == r)

/-- The message of the step under way names this preparation; a step that names no message means the oldest that it can
concern: DESIGN CHOICE, log 75. -/
def State.linkNames (s : State) (p : Prepare) : Bool :=
  match s.link with
  | some (pkg, r) => p.record == r && (p.coord.isNone || p.coord == some pkg)
  | none => true

/-- The preparation coordinated here that an answer of `pkg` is about. -/
def State.prepOwn (s : State) (pkg : Nat) : Option Prepare :=
  s.prepare.find? (fun p => p.coord.isNone && p.awaiting.contains pkg && s.linkNames p)

/-- The preparation coordinated elsewhere that a COMMIT or an ABORT is about: a COMMIT, of those that have prepared. -/
def State.prepOther (s : State) (prepared : Bool) : Option Prepare :=
  s.prepare.find? (fun p => p.coord.isSome && (p.prepared || !prepared) && s.linkNames p)

/-- ABORT at a package: what was placed stays as written, and its holding of the clusters ends. -/
def State.discardLaunch (s : State) (p : Prepare) : State :=
  let key := recKey p.record.toNat
  (s.readyClusters key).foldl (fun (t : State) g =>
    if (t.cluster g).holder = some key ∧ recImg p.record.toNat ≠ 0 then t.vacate g else t) (s.dropPrep p)

/-- The coordinator aborts: every named package hears of it, and the slot completes. -/
def State.abortAll (s : State) (p : Prepare) (status : Nat) : State :=
  ((s.discardLaunch p).tell (recPackages p.record.toNat) linkABORT p.record).completeSlot p.vf p.slot status

/-- The coordinator commits once every acknowledgement is there and it has prepared itself. -/
def State.commitAll (s : State) (p : Prepare) : State :=
  if p.awaiting.isEmpty && p.prepared then
    ((((s.dropPrep p).tell (recPackages p.record.toNat) linkCOMMIT p.record).commitRegion p.record.toNat).decideJobs
      (recPart p.record.toNat)).completeSlot p.vf p.slot 0x01
  else s.keepPrep p

/-- The named region is registered, in a partition whose number is PART (22 R415). -/
def State.preparable (s : State) (r : Nat) : Bool :=
  decide (recOff r < 2 ^ 24) && (s.region? (recKey r)).isSome && (s.part (recPart r)).active

/-- The coordinator's own preparation goes on: `began` when its checks have been made. -/
def State.prepareOwn (s : State) (p : Prepare) (began : Bool) : State :=
  let q := s.placeRegion p.record.toNat began
  match q.2 with
  | .waits => (q.1.setPhase p.vf (.waiting p.slot)).keepPrep p
  | .failed st => q.1.abortAll p st
  | .placed => (q.1.setPhase p.vf (.placed p.slot)).commitAll { p with prepared := true }

/-- PREPARE: the coordinator sends the record and prepares itself, or goes on when its clusters have come. A record that
does not name the own package, or no registered region, fails: DEDUCED, log 36. -/
def execPrepare (vf k : Nat) (s : State) : Out :=
  let r := s.slotRec vf k
  match s.prepare.find? (fun p => p.coord.isNone && p.vf == vf && p.slot == k) with
  | some p => if (s.vf vf).phase = .waiting k ∧ !p.prepared then .next (s.prepareOwn p true) else .next s
  | none =>
    .next (s.serveSlot vf k 3 (fun _ t =>
      if !(bitAt (fld r 384 16) Config.package) then t.completeSlot vf k 0x11
      else if !(t.preparable r) then t.completeSlot vf k 0x12
      else
        let p : Prepare :=
          { record := BitVec.ofNat 1024 r, vf := vf, slot := k, coord := none, awaiting := recPackages r
            limit := t.ns + 1000 * fld r 400 32, prepared := false }
        (t.tell (recPackages r) linkPREPARE p.record).prepareOwn p false))

/-- Another package's preparation goes on here: it acknowledges, refuses, or waits for its clusters. -/
def State.prepareFor (s : State) (pkg : Nat) (p : Prepare) (began : Bool) : State :=
  let q := s.placeRegion p.record.toNat began
  match q.2 with
  | .waits => q.1.keepPrep p
  | .failed st => (q.1.dropPrep p).emit (.link pkg (linkREFUSAL + 256 * st) p.record)
  | .placed => (q.1.keepPrep { p with prepared := true }).emit (.link pkg linkACK p.record)

/-- PREPARE_RECEIVE: a named package prepares, and acknowledges or refuses; it goes on when its clusters have come. -/
def execPrepareReceive (pkg r : Nat) (s : State) : Out :=
  let word := BitVec.ofNat 1024 r
  match s.prepFrom pkg word with
  | some p => if p.prepared then .next s else .next (s.prepareFor pkg p true)
  | none =>
    if !(bitAt (fld r 384 16) Config.package) || pkg == Config.package then .next s
    else if !(s.preparable r) then .next (s.emit (.link pkg (linkREFUSAL + 256 * 0x12) word))
    else
      .next (s.prepareFor pkg
        { record := word, vf := 0, slot := 0, coord := some pkg, awaiting := [], limit := 0, prepared := false } false)

/-- PREPARE_ACK_RECEIVE: an acknowledgement of a record counts within TIMEOUT; behind an ABORT it is ignored. -/
def execPrepareAckReceive (pkg : Nat) (s : State) : Out :=
  match s.prepOwn pkg with
  | some p =>
    if p.limit < s.ns then .next s else .next (s.commitAll { p with awaiting := p.awaiting.filter (fun n => n != pkg) })
  | none => .next s

/-- PREPARE_REFUSAL_RECEIVE: the coordinator aborts, and its slot completes with the refusing package's status. -/
def execPrepareRefusalReceive (pkg status : Nat) (s : State) : Out :=
  match s.prepOwn pkg with
  | some p => .next (s.abortAll p status)
  | none => .next s

/-- PREPARE_TIMEOUT: of the preparations coordinated here, those abort whose acknowledgements have not all come in time. -/
def execPrepareTimeout (s : State) : Out :=
  .next ((s.prepare.filter (fun p => p.coord.isNone && !p.awaiting.isEmpty && decide (p.limit ≤ s.ns))).foldl
    (fun (t : State) p => t.abortAll p 0x30) s)

/-- COMMIT of a record at a prepared package: step 7 (22 R405, R415). -/
def execCommit (s : State) : Out :=
  match s.prepOther true with
  | some p => .next (((s.dropPrep p).commitRegion p.record.toNat).decideJobs (recPart p.record.toNat))
  | none => .next s

/-- ABORT of a record at a package that prepares or has prepared. -/
def execAbort (s : State) : Out :=
  match s.prepOther false with
  | some p => .next (s.discardLaunch p)
  | none => .next s

end Sys2Proof.Machine
end

