-- ==== Sys2Proof/Machine/Platform.lean ====
section
/-! DEFINITION. The platform: readiness, spares and health (23 R422 to R427), uncorrectable errors (10 R191), package links
(09 R168), the host's loads and stores (22 R393), attestation (22 R416), debug access (23 R428 to R430), the trace drain
(23 R431), and register writes that arrive as events. -/

namespace Sys2Proof.Machine

def State.setPlatform (s : State) (p : Platform) : State := { s with platform := p }

/-! ### Readiness (23 R422) -/

/-- DEVICE_RESET: the state after reset; every VF draws a new nonce, and the free values go on behind those drawn. Memory of
the package reads zero, as after power-on (log 4); that of the host stays. Firmware updates take effect (22 R417). -/
def execDeviceReset (s : State) : Out :=
  let p := s.platform
  .next { State.reset with
    platform := { devImage := p.devUpdate.getD p.devImage, schedImage := p.schedUpdate.getD p.schedImage }
    mem := s.mem, tags := s.tags, wlog := .zero 0 0x100000000000 :: s.wlog
    fresh := s.fresh + 256, out := s.out, agenda := s.agenda, nextId := s.nextId
    vfs := (upTo 256).map (fun v => (v, { nonce := (Config.freeWord (s.fresh + v)).setWidth 256 })) }

/-- A firmware image may run: its key is the vendor's, its version is not below the fused one, and its signature verifies
(22 R417). -/
def firmwareOk (image : Nat) : Bool :=
  let key := toBytesBE 97 (Config.imageKey image).toNat
  sha384 key == Config.vendorDigest.toNat && decide (Config.fusedVersion ≤ Config.imageVersion image) &&
    ecdsaOk (ofBytesBE ((key.drop 1).take 48)) (ofBytesBE ((key.drop 49).take 48)) (Config.imageR image).toNat
      (Config.imageS image).toNat (Config.imageDigest image).toNat

/-- SELF_TEST_PASS: functions 0 to 255 are the clusters, 256 the scheduler, 257 the port, then 12 stacks, 12 links and 32
encoders. -/
def execSelfTestPass (fn : Nat) (s : State) : Out :=
  let p := s.platform
  .next (s.setPlatform (
    if fn < 256 then (if p.lostClu.contains fn then p else { p with readyClu := p.readyClu ||| BitVec.ofNat 256 (2 ^ fn) })
    else if fn = 256 then { p with sched := firmwareOk p.devImage && firmwareOk p.schedImage }
    else if fn = 257 then { p with cxl := true }
    else if fn < 270 then { p with hbm := p.hbm ||| BitVec.ofNat 12 (2 ^ (fn - 258)) }
    else if fn < 282 then { p with link := p.link ||| BitVec.ofNat 12 (2 ^ (fn - 270)) }
    else if fn < 314 then { p with enc := p.enc ||| BitVec.ofNat 32 (2 ^ (fn - 282)) }
    else p))

/-! ### Health (23 R423 to R425) -/

def hREPLREQ : Nat := 0
def hDEGRADED : Nat := 1
def hNOCLUSPARE : Nat := 2
def hNOCORESPARE : Nat := 3
def hREPEATUE : Nat := 4

def State.setHealth (s : State) (b : Nat) : State :=
  s.setPlatform { s.platform with health := s.platform.health ||| BitVec.ofNat 5 (2 ^ b) }

/-- A replacement request for a reason: REPLREQ is set and one event record is logged. -/
def State.replacement (s : State) (reason what : Nat) : State :=
  ((s.setHealth reason).setHealth hREPLREQ).emit (.event reason what)

/-- The activations of a failed logical core end, each with a fault message; its inboxes and siding are emptied, and its LM
and trap records are zero (23 R423). -/
def State.loseCore (s : State) (k : Nat) : State :=
  let s1 := (s.core k).acts.foldl (fun (t : State) (e : Nat × Activation) =>
    (t.faultMessage (.core k) k (t.ownerRegion (k / 32)) tUNCORRECTABLE_MEMORY 2 k 0 0 (2 ^ 63 + k) 0).endAct k e.1) s
  let c := s1.core k
  (s1.setCore k { c with iq := [], selected := none, siding := [], trapRecs := [], lock := none }).zeroRange (lmBase k) 0x10000

/-- Every operation of an engine context counts as performed; the argument bounds them. -/
def State.dropOps (s : State) (clu id : Nat) : Nat → State
  | 0 => s
  | n + 1 => if (s.eng clu id).queue.isEmpty then s else (s.endOp clu id).dropOps clu id n

/-- The cores of a failed cluster are lost; its CM, macros and accumulators are zero. Its engine operations count as
performed: DEDUCED, log 37. -/
def State.loseCluster (s : State) (g : Nat) : State :=
  let s1 := (upTo 32).foldl (fun (t : State) i => t.loseCore (32 * g + i)) s
  let s2 := (s1.cluster g).eng.foldl (fun (t : State) (e : Nat × EngCtx) => t.dropOps g e.1 9) s1
  let cl := s2.cluster g
  (s2.setCluster g { cl with macs := [], acc := [], accFlags := [] }).zeroRange (cmBase g) 0x100000

/-- The physical core behind a logical one: its cluster over all dies, and its position. -/
def State.physAt (s : State) (core : Nat) : Nat × Nat :=
  (66 * (core / 2048) + (s.physOf core).pclu.toNat, (s.physOf core).pcore.toNat)

/-- Where an uncorrectable error of a byte counts; none outside the package's memory. Which HBM row a byte lies in is a free
value: DESIGN CHOICE, log 74. -/
def State.errorSite (s : State) (pa : Nat) : Option ErrorSite :=
  match placeOf pa with
  | some (.hbm _) => some (.row (pa / 4096) (Config.hbmRow pa))
  | some (.lm k) => some (.lm (s.physAt k).1 (s.physAt k).2 (pa % 0x10000 / 4096))
  | some (.cm g) => some (.cm (s.physAt (32 * g)).1 (pa % 0x100000 / 4096))
  | _ => none

/-- An uncorrectable error is kept; the second within 24 hours at one place asks for a replacement, and an HBM row retires
its block (23 R425, R427). -/
def State.countAt (s : State) (x : ErrorSite) : State :=
  let day := 86400000000000
  let p := s.platform
  let again := p.errors.any (fun e => e.1 == x && decide (s.ns ≤ e.2 + day))
  let s1 := s.setPlatform { p with errors := p.errors ++ [(x, s.ns)] }
  if !again then s1
  else match x with
    | .row b _ =>
      let s2 := s1.replacement hREPEATUE b
      if s2.platform.retired.contains b then s2
      else s2.setPlatform { s2.platform with retired := s2.platform.retired ++ [b] }
    | .lm _ _ n => s1.replacement hREPEATUE n
    | .cm _ n => s1.replacement hREPEATUE n
    | .core _ n => s1.replacement hREPEATUE n

/-- An uncorrectable error at a physical address counts. -/
def State.countError (s : State) (pa : Nat) : State :=
  match s.errorSite pa with
  | some x => s.countAt x
  | none => s

/-- A logical core fails: a spare takes over, or none is left. PCORE shows a spare's position, 32 or 33, in its five bits,
and the spare's CYCLE has counted since reset but for the cycles that its cluster was gated: DESIGN CHOICE, log 66. -/
def State.coreFails (s : State) (k : Nat) : State :=
  let g := k / 32
  let used := Sparse.get 0 s.platform.coreSpares g
  let s1 := s.loseCore k
  if used < 2 then
    let s2 := s1.setPlatform { s1.platform with coreSpares := Sparse.put s1.platform.coreSpares g (used + 1) }
    let s3 := s2.setPhys k
      { s2.physOf k with pcore := BitVec.ofNat 6 (32 + used), cycBase := BitVec.ofNat 64 (s2.cluster g).slept }
    if used = 1 then s3.replacement hNOCORESPARE g else s3
  else (s1.setPhys k { s1.physOf k with failed := true }).setHealth hDEGRADED

/-- A logical cluster fails: a spare with 34 cores of its own takes over and is ready, or none is left (00 R1). -/
def State.clusterFails (s : State) (g : Nat) : State :=
  let d := g / 64
  let used := Sparse.get 0 s.platform.cluSpares d
  let s1 := s.loseCluster g
  let p := s1.platform
  if used < 2 then
    let s2 := (s1.setPlatform { p with
      cluSpares := Sparse.put p.cluSpares d (used + 1), coreSpares := Sparse.drop g p.coreSpares
      readyClu := p.readyClu ||| BitVec.ofNat 256 (2 ^ g) }).setCluster g { s1.cluster g with gated := none, slept := 0 }
    let s3 := (upTo 32).foldl (fun (t : State) i =>
      t.setPhys (32 * g + i) { pcore := BitVec.ofNat 6 i, pclu := BitVec.ofNat 7 (64 + used) }) s2
    if used = 1 then s3.replacement hNOCLUSPARE d else s3
  else
    (s1.setPlatform { p with
      readyClu := p.readyClu &&& ~~~(BitVec.ofNat 256 (2 ^ g)), lostClu := p.lostClu ++ [g] }).setHealth hDEGRADED

/-- UNIT_FAILURE: 0 a logical core, 1 a logical cluster, 2 an HBM stack, 3 an HBM channel by its agent, 4 an encoder
(23 R423, R424). An error in the logic of a physical core counts (23 R425). -/
def execUnitFailure (kind num : Nat) (s : State) : Out :=
  let p := s.platform
  .next (match kind with
    | 0 =>
      if 8192 ≤ num then s
      else
        let t := s.countAt (.core (s.physAt num).1 (s.physAt num).2)
        if (s.physOf num).failed then t else t.coreFails num
    | 1 => if num < 256 ∧ !(p.lostClu.contains num) then s.clusterFails num else s
    | 2 =>
      if num < 12 then
        (s.setPlatform { p with hbm := p.hbm &&& ~~~(BitVec.ofNat 12 (2 ^ num))
                                deadAgents := p.deadAgents ++ (upTo 32).map (fun i => 32 * num + i) }).setHealth hDEGRADED
      else s
    | 3 => if num < 384 then (s.setPlatform { p with deadAgents := p.deadAgents ++ [num] }).setHealth hDEGRADED else s
    | 4 =>
      if num < 32 then (s.setPlatform { p with enc := p.enc &&& ~~~(BitVec.ofNat 32 (2 ^ num)) }).setHealth hDEGRADED else s
    | _ => s)

/-! ### Capacity (23 R426) -/

/-- Retired blocks of a grant: those retired by errors, and those of failed channels (23 R427). -/
def State.lostBlocks (s : State) (p : Partition) : Nat :=
  let lo := p.hbmBase / 4096
  let hi := (p.hbmBase + p.hbmLen) / 4096
  let dead := s.platform.deadAgents.eraseDups
  let below (x a : Nat) : Nat := (x + 383 - a) / 384
  (s.platform.retired.eraseDups.filter (fun b => decide (lo ≤ b) && decide (b < hi) && !(dead.contains (b % 384)))).length +
    ((dead.filter (fun a => decide (a < 384))).map (fun a => below hi a - below lo a)).foldl (· + ·) 0

/-- CAPACITY of a VF: the ready clusters of its partition's CLMAP, the logical cores missing from them, and the retired blocks
of its grant. It follows every change at once. Zero for an unbound VF: DESIGN CHOICE, log 73. -/
def State.capacity (s : State) (vf : Nat) : Nat :=
  let f := s.vf vf
  if !f.bound then 0
  else
    let p := s.part f.part.toNat
    let ready := (upTo 256).filter (fun g => p.granted g && bitAt s.platform.readyClu.toNat g)
    let missing := (ready.flatMap (fun g => (upTo 32).filter (fun i => (s.physOf (32 * g + i)).failed))).length
    ready.length % 2 ^ 9 + 2 ^ 9 * (missing % 2 ^ 14) + 2 ^ 23 * (s.lostBlocks p % 2 ^ 32)

/-- The running operation of an engine context met an error at `pa`: it ends, with a message of kind 1 (10 R191; 16 R312). -/
def State.engineError (s : State) (clu id va pa : Nat) : State :=
  match (s.eng clu id).current with
  | none => s
  | some c => ((s.engLost clu id c.region c.issue pa va).endOp clu id).countError pa

/-- UNCORRECTABLE_MEMORY: an access of an activation met an error at `pa`, or, for a number behind those of the cores, an
access of the engine context `ctx` of the cluster `core − 8192` (10 R191). -/
def execUncorrectableMemory (core ctx va pa : Nat) (s : State) : Out :=
  if 8192 ≤ core then .next (s.engineError (core - 8192) ctx va pa)
  else match s.act? core ctx with
    | none => .next s
    | some a => .next ((s.uncorrectable core a.info.id a.info.region va pa).countError pa)

/-! ### Package links (09 R168, 22 R415, 23 R424) -/

/-- LINK_DOWN: its bit clears; messages on its route are discarded, each with a fault message to its sender's region; a
prepared package whose coordinator it led to discards the launch. -/
def execLinkDown (link : Nat) (s : State) : Out :=
  if 12 ≤ link then .next s
  else
    let p := s.platform
    let s1 := (s.setPlatform { p with link := p.link &&& ~~~(BitVec.ofNat 12 (2 ^ link)) }).setHealth hDEGRADED
    let s2 := s1.net.foldl (fun (t : State) (q : Packet) => match q.body, q.dst with
      | .message m, .pkg d =>
        if d % 12 = link then
          (t.dropPacket q.id).faultMessage q.src 0 (some m.region) tLINK_DOWN 2 0x1FFF 0 0 m.header.toNat 0
        else t
      | _, _ => t) s1
    .next (s2.prepare.foldl (fun (t : State) (p : Prepare) => match p.coord with
      | some c => if c % 12 = link ∧ p.prepared then (t.discardLaunch p).emit (.event 0x31 c) else t
      | none => t) s2)

/-! ### The host's loads and stores (22 R393, R396) -/

/-- A range lies in the shared window of the partition that a VF serves: the control area. -/
def State.sharedWindow (s : State) (vf pa len : Nat) : Bool :=
  let f := s.vf vf
  let p := s.part f.part.toNat
  f.bound && p.active && decide (p.hbmBase ≤ pa) && decide (pa + len ≤ p.hbmBase + 2 ^ 24) && decide (0 < len) &&
    (upTo ((pa % 4096 + len + 4095) / 4096)).all (fun i => !(s.isRetired (alignDown pa 4096 + 4096 * i)))

/-- CXL_MEM_READ: bytes of a shared window, behind the host's earlier writes to the same homes; else all ones. -/
def execCxlMemRead (vf pa len : Nat) (s : State) : Out :=
  if !(s.sharedWindow vf pa len) then
    .next ((s.emit (.memData vf pa (List.replicate len 0xFF))).emit (.event 0 pa))
  else if s.net.any (fun q => q.src == .host && (runHomes pa len).contains q.dst) then .next s
  else .next ((s.useRange pa len).emit (.memData vf pa (s.bytesAt pa len)))

/-- The write of each 4 KiB block goes to its home; the first argument bounds the blocks. -/
def State.hostWrites : Nat → State → Nat → List Byte → State
  | 0, s, _, _ => s
  | n + 1, s, pa, b =>
    if b.isEmpty then s
    else
      let cut := min b.length (4096 - pa % 4096)
      State.hostWrites n (s.send .host ((placeOf pa).getD .cxl) (.hostWrite pa (b.take cut))) (pa + cut) (b.drop cut)

/-- CXL_MEM_WRITE: bytes on their way to a shared window, or discarded. -/
def execCxlMemWrite (vf pa len v : Nat) (s : State) : Out :=
  if !(s.sharedWindow vf pa len) then .next (s.emit (.event 0 pa))
  else .next (State.hostWrites (len / 4096 + 2) s pa (toBytes len v))

/-! ### Attestation (22 R416)

The order of requests, the request codes and the error codes are those of SPDM 1.3: PRESUMED, log 38. Function 256 is the
PF. -/

def State.spdmOf (s : State) (fn : Nat) : Spdm := Sparse.get {} s.spdm fn

/-- An answer with its words, and the responder's new state. -/
def State.answer (s : State) (fn code : Nat) (x : Spdm) (words : List Nat) : State :=
  ({ s with spdm := Sparse.put s.spdm fn x } : State).emit (.spdm fn code 0 words)

/-- An error answer: 0x01 an invalid request, 0x04 one that was not expected. -/
def State.refuseSpdm (s : State) (fn code err : Nat) : State := s.emit (.spdm fn code err [])

/-- An answer whose content the standard, and not the spec, lays down: one free word. -/
def State.freeAnswer (s : State) (fn code : Nat) (x : Spdm) (words : List Nat) : State :=
  ({ s with fresh := s.fresh + 1 } : State).answer fn code x (words ++ [(Config.spdmWord (s.fresh + 256)).toNat])

/-- GET_VERSION begins an exchange anew: version 1.3. -/
def execGetVersion (fn : Nat) (s : State) : Out := .next (s.answer fn 0x84 { version := true } [0x13])

/-- GET_CAPABILITIES. -/
def execGetCapabilities (fn : Nat) (s : State) : Out :=
  let x := s.spdmOf fn
  if !x.version then .next (s.refuseSpdm fn 0xE1 0x04) else .next (s.freeAnswer fn 0xE1 { x with caps := true } [])

/-- NEGOTIATE_ALGORITHMS: bit 0 of the offer is SHA-384, bit 1 ECDSA over brainpoolP384r1 in the extended field. -/
def execNegotiateAlgorithms (fn offer : Nat) (s : State) : Out :=
  let x := s.spdmOf fn
  if !x.caps then .next (s.refuseSpdm fn 0xE3 0x04)
  else if bitAt offer 0 && bitAt offer 1 then .next (s.answer fn 0xE3 { x with negotiated := true } [3])
  else .next (({ s with spdm := Sparse.put s.spdm fn {} } : State).refuseSpdm fn 0xE3 0x01)

/-- A request that needs negotiated algorithms. -/
def State.negotiated (s : State) (fn code : Nat) (k : Spdm → State) : State :=
  let x := s.spdmOf fn
  if x.negotiated then k x else s.refuseSpdm fn code 0x04

/-- GET_DIGESTS. -/
def execGetDigests (fn : Nat) (s : State) : Out :=
  .next (s.negotiated fn 0x81 (fun x => s.freeAnswer fn 0x81 x []))

/-- GET_CERTIFICATE. -/
def execGetCertificate (fn slot : Nat) (s : State) : Out :=
  .next (s.negotiated fn 0x82 (fun x => if 8 ≤ slot then s.refuseSpdm fn 0x82 0x01 else s.freeAnswer fn 0x82 x [slot]))

/-- CHALLENGE: signed by the responder. -/
def execChallenge (fn slot : Nat) (s : State) : Out :=
  .next (s.negotiated fn 0x83 (fun x => if 8 ≤ slot then s.refuseSpdm fn 0x83 0x01 else s.freeAnswer fn 0x83 x [slot]))

/-- The measurement blocks that a function sees: the boot ROM, the firmware images, the partition table with its 64 entries
for the PF, and launch logs. That of an image is its digest: DEDUCED, log 38. -/
def State.measurements (s : State) (fn : Nat) : List (Nat × Nat) :=
  let logs := s.parts.filter (fun p => p.2.active && (fn == 256 || ((s.vf fn).bound && (s.vf fn).part.toNat == p.1)))
  [(1, (Config.spdmWord 1).toNat), (2, (Config.imageDigest s.platform.devImage).toNat),
    (3, (Config.imageDigest s.platform.schedImage).toNat)] ++
    (if fn = 256 then (upTo 64).map (fun p => (4, (s.part p).entry.toNat)) else []) ++
    logs.map (fun p => (0x20 + p.1, p.2.log.toNat))

/-- GET_MEASUREMENTS: 0 asks for the number of blocks, 0xFF for all of them. -/
def execGetMeasurements (fn ix : Nat) (s : State) : Out :=
  .next (s.negotiated fn 0xE0 (fun x =>
    let l := s.measurements fn
    if ix = 0 then s.freeAnswer fn 0xE0 x [(l.map (fun m => m.1)).eraseDups.length]
    else
      let m := if ix = 0xFF then l else l.filter (fun y => y.1 == ix)
      if m.isEmpty then s.refuseSpdm fn 0xE0 0x01 else s.freeAnswer fn 0xE0 x (m.flatMap (fun y => [y.1, y.2]))))

/-- KEY_EXCHANGE. -/
def execKeyExchange (fn slot : Nat) (s : State) : Out :=
  .next (s.negotiated fn 0xE4 (fun x =>
    if 8 ≤ slot then s.refuseSpdm fn 0xE4 0x01 else s.freeAnswer fn 0xE4 { x with exchange := true } [slot]))

/-- FINISH. -/
def execFinish (fn : Nat) (s : State) : Out :=
  let x := s.spdmOf fn
  if !x.exchange then .next (s.refuseSpdm fn 0xE5 0x04)
  else .next (s.freeAnswer fn 0xE5 { x with exchange := false, session := true } [])

/-! ### Debug access (23 R428 to R430) -/

/-- A submitted token is accepted. The digest and the numbers stand with their first byte lowest: DEDUCED, log 39. -/
def State.tokenOk (s : State) (vf : Nat) : Bool :=
  let f := s.vf vf
  let b := toBytes 256 f.token.toNat
  let num (lo : Nat) : Nat := ofBytesBE ((b.drop lo).take 48)
  let key := (b.drop 48).take 97
  f.bound && ofBytesBE (toBytes 48 (s.part f.part.toNat).owner) == sha384 key &&
    key.headD 0 == 0x04 && ecdsaOk (num 49) (num 97) (num 160) (num 208) (sha384 (b.take 160)) &&
    fld f.token.toNat 0 256 == f.nonce.toNat && fld f.token.toNat 256 8 == f.part.toNat &&
    decide (s.ns < fld f.token.toNat 320 64)

/-- DEBUG_TOKEN_SUBMIT: a write of 1 to DBGCMD; the nonce changes either way. -/
def execDebugTokenSubmit (vf : Nat) (s : State) : Out :=
  let f := s.vf vf
  let g : Vf := if s.tokenOk vf then
      { f with scope := BitVec.ofNat 4 (fld f.token.toNat 264 4), expiry := BitVec.ofNat 64 (fld f.token.toNat 320 64) }
    else f
  let t : State := { s with fresh := s.fresh + 1 }
  .next (t.setVf vf { g with nonce := (Config.freeWord s.fresh).setWidth 256 })

/-- DEBUG_SCOPE_REVOKE: a write of 2 to DBGCMD. -/
def execDebugScopeRevoke (vf : Nat) (s : State) : Out := .next (s.setVf vf { s.vf vf with scope := 0 })

/-- DEBUG_SCOPE_EXPIRY. -/
def execDebugScopeExpiry (vf : Nat) (s : State) : Out :=
  let f := s.vf vf
  if s.ns < f.expiry.toNat then .next s else .next (s.setVf vf { f with scope := 0 })

/-- The CSR that DBGSEL names lies within the scope: halt and step, trace, profile, or any by CSR access. DEDUCED, log 40. -/
def State.dbgAllowed (s : State) (vf : Nat) : Bool :=
  let f := s.vf vf
  let core := fld f.dbgSel.toNat 0 13
  let n := fld f.dbgSel.toNat 13 8
  let bit := if n = 0x80 then 0 else if 0x80 ≤ n then 1 else 2
  f.bound && (s.part f.part.toNat).active && (s.part f.part.toNat).granted (core / 32) && decide (0x50 ≤ n) &&
    decide (s.ns < f.expiry.toNat) && (bitAt f.scope.toNat 3 || bitAt f.scope.toNat bit)

/-- DBGDATA_WRITE. -/
def execDbgdataWrite (vf v : Nat) (s : State) : Out :=
  let f := s.vf vf
  let n := fld f.dbgSel.toNat 13 8
  if s.dbgAllowed vf then .next (s.csrWrite (fld f.dbgSel.toNat 0 13) n v) else .next s

/-- DBGDATA_READ: zero outside the scope. -/
def execDbgdataRead (vf : Nat) (s : State) : Out :=
  let f := s.vf vf
  let v := if s.dbgAllowed vf then s.csrRead (fld f.dbgSel.toNat 0 13) (fld f.dbgSel.toNat 13 8) else 0
  .next (s.emit (.dbgData vf (BitVec.ofNat 64 v)))

/-- HALT and DEBUG_RESUME (07 R132). -/
def execHalt (core : Nat) (s : State) : Out := .next (s.setHalt core true)
def execDebugResume (core : Nat) (s : State) : Out := .next (s.setHalt core false)

/-- STEP (23 R430). -/
def execStep (core ctx : Nat) (s : State) : Out := .next (s.askStep core ctx)

/-- Everything that the stepped instruction started has drained but for an engine operation (23 R430). -/
def State.stepDrained (s : State) (core ctx : Nat) : Bool :=
  let mine (id : Nat) : Bool := match s.ctxOf core id with
    | some x => x == ctx
    | none => true
  let still := match s.act? core ctx with
    | none => true
    | some a => a.pend.isEmpty && a.flow.walk.isNone && a.flow.hold.isNone && (match a.flow.status with
      | .draining _ _ => false
      | _ => true)
  still && !(s.accs.any (fun x => x.core == core && mine x.act)) && !((s.core core).outbound.any (fun o => mine o.1))

/-- The engine operation of a step: performed, parked (true), or neither. -/
def State.stepOpDone (s : State) (clu id n : Nat) : Option Bool :=
  if n ≤ (s.timeline clu id).counter.toNat then some false
  else match (s.eng clu id).run, (s.eng clu id).queue with
    | .parked _ _, c :: _ => if c.issue = n then some true else none
    | _, _ => none

/-- A step whose activation is gone before its dispatch has started nothing. -/
def State.stepLost (s : State) (core : Nat) : State :=
  match (s.core core).dbg.want with
  | none => s
  | some ctx => if (s.act? core ctx).isNone then s.setCore core ((s.core core).stepDrains ctx) else s

/-- STEPDONE (23 R430), of the latest step: while one awaits its dispatch, none is done. -/
def execStepdone (core : Nat) (s0 : State) : Out :=
  let s := s0.stepLost core
  let c := s.core core
  if c.dbg.want.isSome then .next s else
  match c.dbg.stepping with
  | none => .next s
  | some ctx =>
    let op := match c.dbg.stepOp with
      | none => some false
      | some (id, n) => s.stepOpDone (core / 32) id n
    match op with
    | some park =>
      if s.stepDrained core ctx then
        .next (s.setCore core { c with dbg := { c.dbg with stepping := none, stepOp := none, stepDone := true, stepPark := park } })
      else .next s
    | none => .next s

/-! ### Writes of registers (06 R117, R118; 00 R8) -/

/-- XB_WRITE: it waits for the core's own-LM writes (02 R39). -/
def execXbWrite (core v : Nat) (s : State) : Out :=
  if s.ownLmQuiet core then .next (s.csrWrite core 0x003 v) else .next s
def execSeedWrite (core v : Nat) (s : State) : Out := .next (s.csrWrite core 0x008 v)
def execLotstateWrite (core v : Nat) (s : State) : Out := .next (s.csrWrite core 0x00B v)
def execIssuepolWrite (core v : Nat) (s : State) : Out := .next (s.csrWrite core 0x009 v)
def execSbdataWrite (core v : Nat) (s : State) : Out := .next (s.csrWrite core 0x011 v)
def execTrdstWrite (core v : Nat) (s : State) : Out := .next (s.csrWrite core 0x083 v)
def execXflagsWrite (core v : Nat) (s : State) : Out := .next (s.csrWrite core 0x007 v)

/-- CLEAR: every profile entry is zero (23 R432). -/
def execClear (core : Nat) (s : State) : Out := .next (s.setCore core { s.core core with prof := [] })

/-- OVERRUN_CLEAR (08 R160). -/
def execOverrunClear (clu k : Nat) (s : State) : Out :=
  let cl := s.cluster clu
  let o := Sparse.get ({} : SbOutput) cl.sb.outs k
  if 32 ≤ k then .next s else .next (s.setCluster clu { cl with sb := cl.sb.setOut k { o with overrun := false } })

/-- REGISTER_WRITE: a register with no behaviour of its own takes its RW fields. Numbers below 0x1000 are CSRs of a core,
from 0x10000 on registers of the PF, from 0x20000 on registers of the VF with the core's number. Of PENTRY bits 768 and up
are RO or reserved (22 R395). -/
def execRegisterWrite (core n v : Nat) (s : State) : Out :=
  if n = 0x00A ∨ n = 0x010 ∨ n = 0x050 ∨ n = 0x081 then .next (s.csrWrite core n v)
  else if n = 0x056 then .next (s.csrWrite core n (v % 2))
  else if 0x10000 ≤ n ∧ n < 0x10060 ∧ n % 8 = 0 then
    let p := s.platform
    .next (s.setPlatform { p with pentry := BitVec.ofNat 1024 (putFld p.pentry.toNat (8 * (n - 0x10000)) 64 v) })
  else if 0x20A00 ≤ n ∧ n < 0x20B00 ∧ n % 8 = 0 ∧ core < 256 then
    let f := s.vf core
    .next (s.setVf core { f with token := BitVec.ofNat 2048 (putFld f.token.toNat (8 * (n - 0x20A00)) 64 v) })
  else if n = 0x20C00 ∧ core < 256 then .next (s.setVf core { s.vf core with dbgSel := BitVec.ofNat 21 v })
  else .next s

/-! ### The trace drain (23 R431) -/

/-- TRACE_DRAIN: the oldest record goes into the ring, which wraps after 65,536 records. -/
def execTraceDrain (clu : Nat) (s : State) : Out :=
  let cl := s.cluster clu
  let t := cl.trace.settle s.clock
  if t.dst = 0 ∨ t.held = 0 then .next s
  else
    let r := Sparse.get (0 : Word128) t.recs t.dptr.toNat
    let new : Trace := { t with recs := Sparse.drop t.dptr.toNat t.recs, dptr := t.dptr + 1, held := t.held - 1, ring := t.ring + 1 }
    let pa := t.dst.toNat + 16 * t.ring.toNat
    .next (((s.setCluster clu { cl with trace := new }).useRange pa 16).putNat pa 16 r.toNat)

end Sys2Proof.Machine
end

