-- ==== Sys2Proof/Machine/Dispatch.lean ====
section
/-! DEFINITION. One arm for each constructor of Instr: a direct call of its meaning. -/

namespace Sys2Proof.Machine

/-- The meaning of an instruction or event in a state. -/
def exec (i : Instr) (s : State) : Host.Outcome State Fault Refusal :=
  match i with
  | .add w d a b => Sys2Proof.Machine.execAdd w d a b s
  | .sub w d a b => Sys2Proof.Machine.execSub w d a b s
  | .addi w d a im => Sys2Proof.Machine.execAddi w d a im s
  | .mul w d a b => Sys2Proof.Machine.execMul w d a b s
  | .mulh w d a b => Sys2Proof.Machine.execMulh w d a b s
  | .mulhu w d a b => Sys2Proof.Machine.execMulhu w d a b s
  | .mulw w d a b => Sys2Proof.Machine.execMulw w d a b s
  | .mulwu w d a b => Sys2Proof.Machine.execMulwu w d a b s
  | .div w d a b => Sys2Proof.Machine.execDiv w d a b s
  | .divu w d a b => Sys2Proof.Machine.execDivu w d a b s
  | .rem w d a b => Sys2Proof.Machine.execRem w d a b s
  | .remu w d a b => Sys2Proof.Machine.execRemu w d a b s
  | .min w d a b => Sys2Proof.Machine.execMin w d a b s
  | .max w d a b => Sys2Proof.Machine.execMax w d a b s
  | .minu w d a b => Sys2Proof.Machine.execMinu w d a b s
  | .maxu w d a b => Sys2Proof.Machine.execMaxu w d a b s
  | .adds w d a b => Sys2Proof.Machine.execAdds w d a b s
  | .addus w d a b => Sys2Proof.Machine.execAddus w d a b s
  | .subs w d a b => Sys2Proof.Machine.execSubs w d a b s
  | .subus w d a b => Sys2Proof.Machine.execSubus w d a b s
  | .neg w d a => Sys2Proof.Machine.execNeg w d a s
  | .abs w d a => Sys2Proof.Machine.execAbs w d a s
  | .and w d a b => Sys2Proof.Machine.execAnd w d a b s
  | .or w d a b => Sys2Proof.Machine.execOr w d a b s
  | .xor w d a b => Sys2Proof.Machine.execXor w d a b s
  | .andn w d a b => Sys2Proof.Machine.execAndn w d a b s
  | .andi w d a im => Sys2Proof.Machine.execAndi w d a im s
  | .ori w d a im => Sys2Proof.Machine.execOri w d a im s
  | .xori w d a im => Sys2Proof.Machine.execXori w d a im s
  | .shl w d a b => Sys2Proof.Machine.execShl w d a b s
  | .shr w d a b => Sys2Proof.Machine.execShr w d a b s
  | .sar w d a b => Sys2Proof.Machine.execSar w d a b s
  | .shli w d a im => Sys2Proof.Machine.execShli w d a im s
  | .shri w d a im => Sys2Proof.Machine.execShri w d a im s
  | .sari w d a im => Sys2Proof.Machine.execSari w d a im s
  | .rol w d a b => Sys2Proof.Machine.execRol w d a b s
  | .roli w d a im => Sys2Proof.Machine.execRoli w d a im s
  | .fshl w d a b => Sys2Proof.Machine.execFshl w d a b s
  | .fshr w d a b => Sys2Proof.Machine.execFshr w d a b s
  | .sel w d a b => Sys2Proof.Machine.execSel w d a b s
  | .seq w d a b => Sys2Proof.Machine.execSeq w d a b s
  | .sne w d a b => Sys2Proof.Machine.execSne w d a b s
  | .slt w d a b => Sys2Proof.Machine.execSlt w d a b s
  | .sltu w d a b => Sys2Proof.Machine.execSltu w d a b s
  | .sle w d a b => Sys2Proof.Machine.execSle w d a b s
  | .sleu w d a b => Sys2Proof.Machine.execSleu w d a b s
  | .seqi w d a im => Sys2Proof.Machine.execSeqi w d a im s
  | .slti w d a im => Sys2Proof.Machine.execSlti w d a im s
  | .mov w d a => Sys2Proof.Machine.execMov w d a s
  | .movi w d im => Sys2Proof.Machine.execMovi w d im s
  | .exts w d a im => Sys2Proof.Machine.execExts w d a im s
  | .extz w d a im => Sys2Proof.Machine.execExtz w d a im s
  | .clz w d a => Sys2Proof.Machine.execClz w d a s
  | .ctz w d a => Sys2Proof.Machine.execCtz w d a s
  | .popc w d a => Sys2Proof.Machine.execPopc w d a s
  | .brev w d a => Sys2Proof.Machine.execBrev w d a s
  | .bext w d a b => Sys2Proof.Machine.execBext w d a b s
  | .bexts w d a b => Sys2Proof.Machine.execBexts w d a b s
  | .bdep w d a b => Sys2Proof.Machine.execBdep w d a b s
  | .paddL4 w d a b => Sys2Proof.Machine.execPaddL4 w d a b s
  | .paddL8 w d a b => Sys2Proof.Machine.execPaddL8 w d a b s
  | .paddL16 w d a b => Sys2Proof.Machine.execPaddL16 w d a b s
  | .paddL32 w d a b => Sys2Proof.Machine.execPaddL32 w d a b s
  | .psubL4 w d a b => Sys2Proof.Machine.execPsubL4 w d a b s
  | .psubL8 w d a b => Sys2Proof.Machine.execPsubL8 w d a b s
  | .psubL16 w d a b => Sys2Proof.Machine.execPsubL16 w d a b s
  | .psubL32 w d a b => Sys2Proof.Machine.execPsubL32 w d a b s
  | .pmaxuL4 w d a b => Sys2Proof.Machine.execPmaxuL4 w d a b s
  | .pmaxuL8 w d a b => Sys2Proof.Machine.execPmaxuL8 w d a b s
  | .pmaxuL16 w d a b => Sys2Proof.Machine.execPmaxuL16 w d a b s
  | .pmaxuL32 w d a b => Sys2Proof.Machine.execPmaxuL32 w d a b s
  | .pminuL4 w d a b => Sys2Proof.Machine.execPminuL4 w d a b s
  | .pminuL8 w d a b => Sys2Proof.Machine.execPminuL8 w d a b s
  | .pminuL16 w d a b => Sys2Proof.Machine.execPminuL16 w d a b s
  | .pminuL32 w d a b => Sys2Proof.Machine.execPminuL32 w d a b s
  | .pmaxsL4 w d a b => Sys2Proof.Machine.execPmaxsL4 w d a b s
  | .pmaxsL8 w d a b => Sys2Proof.Machine.execPmaxsL8 w d a b s
  | .pmaxsL16 w d a b => Sys2Proof.Machine.execPmaxsL16 w d a b s
  | .pmaxsL32 w d a b => Sys2Proof.Machine.execPmaxsL32 w d a b s
  | .pminsL4 w d a b => Sys2Proof.Machine.execPminsL4 w d a b s
  | .pminsL8 w d a b => Sys2Proof.Machine.execPminsL8 w d a b s
  | .pminsL16 w d a b => Sys2Proof.Machine.execPminsL16 w d a b s
  | .pminsL32 w d a b => Sys2Proof.Machine.execPminsL32 w d a b s
  | .paddssL4 w d a b => Sys2Proof.Machine.execPaddssL4 w d a b s
  | .paddssL8 w d a b => Sys2Proof.Machine.execPaddssL8 w d a b s
  | .paddssL16 w d a b => Sys2Proof.Machine.execPaddssL16 w d a b s
  | .paddssL32 w d a b => Sys2Proof.Machine.execPaddssL32 w d a b s
  | .rmaxuL4 w d a b => Sys2Proof.Machine.execRmaxuL4 w d a b s
  | .rmaxuL8 w d a b => Sys2Proof.Machine.execRmaxuL8 w d a b s
  | .rmaxuL16 w d a b => Sys2Proof.Machine.execRmaxuL16 w d a b s
  | .rmaxuL32 w d a b => Sys2Proof.Machine.execRmaxuL32 w d a b s
  | .fadd w d a b => Sys2Proof.Machine.execFadd w d a b s
  | .fsub w d a b => Sys2Proof.Machine.execFsub w d a b s
  | .fmul w d a b => Sys2Proof.Machine.execFmul w d a b s
  | .fma w d a b => Sys2Proof.Machine.execFma w d a b s
  | .fmulz w d a b => Sys2Proof.Machine.execFmulz w d a b s
  | .fmin w d a b => Sys2Proof.Machine.execFmin w d a b s
  | .fmax w d a b => Sys2Proof.Machine.execFmax w d a b s
  | .frcp w d a => Sys2Proof.Machine.execFrcp w d a s
  | .frsq w d a => Sys2Proof.Machine.execFrsq w d a s
  | .fexp2 w d a => Sys2Proof.Machine.execFexp2 w d a s
  | .flog2 w d a => Sys2Proof.Machine.execFlog2 w d a s
  | .fcmpeq w d a b => Sys2Proof.Machine.execFcmpeq w d a b s
  | .fcmplt w d a b => Sys2Proof.Machine.execFcmplt w d a b s
  | .fcmple w d a b => Sys2Proof.Machine.execFcmple w d a b s
  | .fclass w d a => Sys2Proof.Machine.execFclass w d a s
  | .raddf w d a => Sys2Proof.Machine.execRaddf w d a s
  | .badd w d a b => Sys2Proof.Machine.execBadd w d a b s
  | .bmul w d a b => Sys2Proof.Machine.execBmul w d a b s
  | .bfma w d a b => Sys2Proof.Machine.execBfma w d a b s
  | .bmax w d a b => Sys2Proof.Machine.execBmax w d a b s
  | .bmin w d a b => Sys2Proof.Machine.execBmin w d a b s
  | .cvt w d a t sg => Sys2Proof.Machine.execCvt w d a t sg s
  | .cvtsr w d a t sg => Sys2Proof.Machine.execCvtsr w d a t sg s
  | .scacc w d a b => Sys2Proof.Machine.execScacc w d a b s
  | .aadd d a b => Sys2Proof.Machine.execAadd d a b s
  | .asub d a b => Sys2Proof.Machine.execAsub d a b s
  | .aaddi d a im => Sys2Proof.Machine.execAaddi d a im s
  | .amul d a b => Sys2Proof.Machine.execAmul d a b s
  | .aand d a b => Sys2Proof.Machine.execAand d a b s
  | .aor d a b => Sys2Proof.Machine.execAor d a b s
  | .axor d a b => Sys2Proof.Machine.execAxor d a b s
  | .ashli d a im => Sys2Proof.Machine.execAshli d a im s
  | .ashri d a im => Sys2Proof.Machine.execAshri d a im s
  | .asari d a im => Sys2Proof.Machine.execAsari d a im s
  | .aslt d a b => Sys2Proof.Machine.execAslt d a b s
  | .asltu d a b => Sys2Proof.Machine.execAsltu d a b s
  | .amovi d im => Sys2Proof.Machine.execAmovi d im s
  | .aupi d im => Sys2Proof.Machine.execAupi d im s
  | .amov d a => Sys2Proof.Machine.execAmov d a s
  | .apushq q a => Sys2Proof.Machine.execApushq q a s
  | .apopq d => Sys2Proof.Machine.execApopq d s
  | .cbase d a b => Sys2Proof.Machine.execCbase d a b s
  | .clen d a b => Sys2Proof.Machine.execClen d a b s
  | .cperm d a b => Sys2Proof.Machine.execCperm d a b s
  | .cget d a f => Sys2Proof.Machine.execCget d a f s
  | .cclr d a => Sys2Proof.Machine.execCclr d a s
  | .ld q c o z sg r p => Sys2Proof.Machine.execLd q c o z sg r p s
  | .ldx q c o z sg r p => Sys2Proof.Machine.execLdx q c o z sg r p s
  | .lda d c o z sg r p => Sys2Proof.Machine.execLda d c o z sg r p s
  | .ldc d c o r p => Sys2Proof.Machine.execLdc d c o r p s
  | .ldnib q c o z sg => Sys2Proof.Machine.execLdnib q c o z sg s
  | .st c o z r p => Sys2Proof.Machine.execSt c o z r p s
  | .stm m c o r p => Sys2Proof.Machine.execStm m c o r p s
  | .stx c o z r p => Sys2Proof.Machine.execStx c o z r p s
  | .sta d c o z r p => Sys2Proof.Machine.execSta d c o z r p s
  | .stc d c o r p => Sys2Proof.Machine.execStc d c o r p s
  | .stnib c o z => Sys2Proof.Machine.execStnib c o z s
  | .amo d a b f z o p => Sys2Proof.Machine.execAmo d a b f z o p s
  | .amocas d a b z o p => Sys2Proof.Machine.execAmocas d a b z o p s
  | .fenceAcq p => Sys2Proof.Machine.execFenceAcq p s
  | .fenceRel p => Sys2Proof.Machine.execFenceRel p s
  | .fenceAr p => Sys2Proof.Machine.execFenceAr p s
  | .xfence p => Sys2Proof.Machine.execXfence p s
  | .bmov d a b => Sys2Proof.Machine.execBmov d a b s
  | .rep q a b z sg t => Sys2Proof.Machine.execRep q a b z sg t s
  | .csrr d im => Sys2Proof.Machine.execCsrr d im s
  | .csrw d a im => Sys2Proof.Machine.execCsrw d a im s
  | .beq a b d => Sys2Proof.Machine.execBeq a b d s
  | .bne a b d => Sys2Proof.Machine.execBne a b d s
  | .blt a b d => Sys2Proof.Machine.execBlt a b d s
  | .bge a b d => Sys2Proof.Machine.execBge a b d s
  | .bltu a b d => Sys2Proof.Machine.execBltu a b d s
  | .bgeu a b d => Sys2Proof.Machine.execBgeu a b d s
  | .bxq d => Sys2Proof.Machine.execBxq d s
  | .bxqz d => Sys2Proof.Machine.execBxqz d s
  | .j t => Sys2Proof.Machine.execJ t s
  | .call t => Sys2Proof.Machine.execCall t s
  | .ret => Sys2Proof.Machine.execRet s
  | .jr a => Sys2Proof.Machine.execJr a s
  | .loop a l => Sys2Proof.Machine.execLoop a l s
  | .endAct => Sys2Proof.Machine.execEndAct s
  | .ecall c => Sys2Proof.Machine.execEcall c s
  | .brk c => Sys2Proof.Machine.execBrk c s
  | .send a b r h => Sys2Proof.Machine.execSend a b r h s
  | .sende a b p => Sys2Proof.Machine.execSende a b p s
  | .reply a => Sys2Proof.Machine.execReply a s
  | .jarrive a b p => Sys2Proof.Machine.execJarrive a b p s
  | .gang n => Sys2Proof.Machine.execGang n s
  | .disband => Sys2Proof.Machine.execDisband s
  | .stacq d a b r => Sys2Proof.Machine.execStacq d a b r s
  | .strel d a b => Sys2Proof.Machine.execStrel d a b s
  | .dqpush a b => Sys2Proof.Machine.execDqpush a b s
  | .dqpop d => Sys2Proof.Machine.execDqpop d s
  | .dqsplit => Sys2Proof.Machine.execDqsplit s
  | .dqsteal d a => Sys2Proof.Machine.execDqsteal d a s
  | .tlwait a x => Sys2Proof.Machine.execTlwait a x s
  | .tlread d sg x => Sys2Proof.Machine.execTlread d sg x s
  | .evsig p l => Sys2Proof.Machine.execEvsig p l s
  | .eret => Sys2Proof.Machine.execEret s
  | .eretEnd => Sys2Proof.Machine.execEretEnd s
  | .wfi => Sys2Proof.Machine.execWfi s
  | .nop => Sys2Proof.Machine.execNop s
  | .himm v => Sys2Proof.Machine.execHimm v s
  | .hwid a b sg t => Sys2Proof.Machine.execHwid a b sg t s
  | .hmod m sg => Sys2Proof.Machine.execHmod m sg s
  | .hyld => Sys2Proof.Machine.execHyld s
  | .macq a k => Sys2Proof.Machine.execMacq a k s
  | .mrel a k => Sys2Proof.Machine.execMrel a k s
  | .mrelRes a k => Sys2Proof.Machine.execMrelRes a k s
  | .mrelAbn a k => Sys2Proof.Machine.execMrelAbn a k s
  | .mldb d a b m k => Sys2Proof.Machine.execMldb d a b m k s
  | .mspec d a b m k => Sys2Proof.Machine.execMspec d a b m k s
  | .mzero d a m k => Sys2Proof.Machine.execMzero d a m k s
  | .mma d a b m k => Sys2Proof.Machine.execMma d a b m k s
  | .lnscfg k => Sys2Proof.Machine.execLnscfg k s
  | .mmas d a b m k => Sys2Proof.Machine.execMmas d a b m k s
  | .mrd q a k => Sys2Proof.Machine.execMrd q a k s
  | .mrdFlg q a k => Sys2Proof.Machine.execMrdFlg q a k s
  | .mcopy d a b m k => Sys2Proof.Machine.execMcopy d a b m k s
  | .chbond a r k => Sys2Proof.Machine.execChbond a r k s
  | .chprog a b k => Sys2Proof.Machine.execChprog a b k s
  | .chprogKeep a b k => Sys2Proof.Machine.execChprogKeep a b k s
  | .chrunStart d m k => Sys2Proof.Machine.execChrunStart d m k s
  | .chrunResume a k => Sys2Proof.Machine.execChrunResume a k s
  | .chrunAbn a k => Sys2Proof.Machine.execChrunAbn a k s
  | .chstat d sg k => Sys2Proof.Machine.execChstat d sg k s
  | .chgrad a b k => Sys2Proof.Machine.execChgrad a b k s
  | .grset a b k => Sys2Proof.Machine.execGrset a b k s
  | .grred d a b o m k => Sys2Proof.Machine.execGrred d a b o m k s
  | .grscan d a b o m k => Sys2Proof.Machine.execGrscan d a b o m k s
  | .grscanX d a b o m k => Sys2Proof.Machine.execGrscanX d a b o m k s
  | .grmv d a b m k => Sys2Proof.Machine.execGrmv d a b m k s
  | .grat d a b o m k => Sys2Proof.Machine.execGrat d a b o m k s
  | .grstat d sg k => Sys2Proof.Machine.execGrstat d sg k s
  | .grstatRes a k => Sys2Proof.Machine.execGrstatRes a k s
  | .grstatAbn a k => Sys2Proof.Machine.execGrstatAbn a k s
  | .cpy d a b m c => Sys2Proof.Machine.execCpy d a b m c s
  | .cpywp d a c => Sys2Proof.Machine.execCpywp d a c s
  | .cpychkCheck d a b c => Sys2Proof.Machine.execCpychkCheck d a b c s
  | .cpychkRes a c => Sys2Proof.Machine.execCpychkRes a c s
  | .cpychkAbn a c => Sys2Proof.Machine.execCpychkAbn a c s
  | .illegalInstruction w => Sys2Proof.Machine.execIllegalInstruction w s
  | .fetch core ctx => Sys2Proof.Machine.execFetch core ctx s
  | .xResultLand core ctx idx => Sys2Proof.Machine.execXResultLand core ctx idx s
  | .queueStarved core ctx half => Sys2Proof.Machine.execQueueStarved core ctx half s
  | .loadDataReturn idx => Sys2Proof.Machine.execLoadDataReturn idx s
  | .storeAck idx => Sys2Proof.Machine.execStoreAck idx s
  | .homePerform idx => Sys2Proof.Machine.execHomePerform idx s
  | .caeCheckIn clu => Sys2Proof.Machine.execCaeCheckIn clu s
  | .stageGrant idx => Sys2Proof.Machine.execStageGrant idx s
  | .sidingStealServe core => Sys2Proof.Machine.execSidingStealServe core s
  | .lateAccessFault idx => Sys2Proof.Machine.execLateAccessFault idx s
  | .translationWalkDone core ctx => Sys2Proof.Machine.execTranslationWalkDone core ctx s
  | .wcBufferTimeout clu idx => Sys2Proof.Machine.execWcBufferTimeout clu idx s
  | .messageArrival idx => Sys2Proof.Machine.execMessageArrival idx s
  | .outboundDepart core => Sys2Proof.Machine.execOutboundDepart core s
  | .admission core => Sys2Proof.Machine.execAdmission core s
  | .copyOut core ctx => Sys2Proof.Machine.execCopyOut core ctx s
  | .activationRestore core => Sys2Proof.Machine.execActivationRestore core s
  | .activationPark core ctx => Sys2Proof.Machine.execActivationPark core ctx s
  | .trapActivationStart core => Sys2Proof.Machine.execTrapActivationStart core s
  | .engineCommandArrival idx => Sys2Proof.Machine.execEngineCommandArrival idx s
  | .copyOpBegin clu k => Sys2Proof.Machine.execCopyOpBegin clu k s
  | .copyRowDelivered clu k => Sys2Proof.Machine.execCopyRowDelivered clu k s
  | .copyOpPerformed clu k => Sys2Proof.Machine.execCopyOpPerformed clu k s
  | .matrixOpBegin clu k => Sys2Proof.Machine.execMatrixOpBegin clu k s
  | .mmaIteration clu k => Sys2Proof.Machine.execMmaIteration clu k s
  | .matrixOpPerformed clu k => Sys2Proof.Machine.execMatrixOpPerformed clu k s
  | .macroReload clu ctxId => Sys2Proof.Machine.execMacroReload clu ctxId s
  | .chainRunBegin clu k => Sys2Proof.Machine.execChainRunBegin clu k s
  | .chainStep clu k => Sys2Proof.Machine.execChainStep clu k s
  | .grammarOpBegin clu k => Sys2Proof.Machine.execGrammarOpBegin clu k s
  | .grammarOpPerformed clu k => Sys2Proof.Machine.execGrammarOpPerformed clu k s
  | .engineFaultPark clu ctxId => Sys2Proof.Machine.execEngineFaultPark clu ctxId s
  | .enginePreemptStop clu ctxId => Sys2Proof.Machine.execEnginePreemptStop clu ctxId s
  | .signalBoxFire clu => Sys2Proof.Machine.execSignalBoxFire clu s
  | .timerPulse clu t => Sys2Proof.Machine.execTimerPulse clu t s
  | .encoderFrameDone clu slot => Sys2Proof.Machine.execEncoderFrameDone clu slot s
  | .encbindBind vf val => Sys2Proof.Machine.execEncbindBind vf val s
  | .encbindUnbind vf val => Sys2Proof.Machine.execEncbindUnbind vf val s
  | .create part vf => Sys2Proof.Machine.execCreate part vf s
  | .partitionClearDone part => Sys2Proof.Machine.execPartitionClearDone part s
  | .destroy part vf => Sys2Proof.Machine.execDestroy part vf s
  | .bindvf part vf => Sys2Proof.Machine.execBindvf part vf s
  | .unbindvf part vf => Sys2Proof.Machine.execUnbindvf part vf s
  | .partitionBadCommand op => Sys2Proof.Machine.execPartitionBadCommand op s
  | .door vf val => Sys2Proof.Machine.execDoor vf val s
  | .slotWrite vf sg rec => Sys2Proof.Machine.execSlotWrite vf sg rec s
  | .launch vf sg => Sys2Proof.Machine.execLaunch vf sg s
  | .launchFirstMessages vf sg => Sys2Proof.Machine.execLaunchFirstMessages vf sg s
  | .register vf sg => Sys2Proof.Machine.execRegister vf sg s
  | .regionEnd vf sg => Sys2Proof.Machine.execRegionEnd vf sg s
  | .prepare vf sg => Sys2Proof.Machine.execPrepare vf sg s
  | .prepareReceive pkg rec => Sys2Proof.Machine.execPrepareReceive pkg rec s
  | .prepareAckReceive pkg => Sys2Proof.Machine.execPrepareAckReceive pkg s
  | .prepareTimeout => Sys2Proof.Machine.execPrepareTimeout s
  | .commit => Sys2Proof.Machine.execCommit s
  | .abort => Sys2Proof.Machine.execAbort s
  | .quantumBoundary clu => Sys2Proof.Machine.execQuantumBoundary clu s
  | .contractRelease part off => Sys2Proof.Machine.execContractRelease part off s
  | .deadlineExpiry part off => Sys2Proof.Machine.execDeadlineExpiry part off s
  | .budgetExhausted part off => Sys2Proof.Machine.execBudgetExhausted part off s
  | .jobComplete part off => Sys2Proof.Machine.execJobComplete part off s
  | .energyCharge => Sys2Proof.Machine.execEnergyCharge s
  | .energyWindowBoundary part off => Sys2Proof.Machine.execEnergyWindowBoundary part off s
  | .lazyUnitRestore unit => Sys2Proof.Machine.execLazyUnitRestore unit s
  | .clusterPowerGate clu => Sys2Proof.Machine.execClusterPowerGate clu s
  | .clusterWake clu => Sys2Proof.Machine.execClusterWake clu s
  | .deviceReset => Sys2Proof.Machine.execDeviceReset s
  | .selfTestPass fn => Sys2Proof.Machine.execSelfTestPass fn s
  | .unitFailure isClu num => Sys2Proof.Machine.execUnitFailure isClu num s
  | .uncorrectableMemory core ctx va pa => Sys2Proof.Machine.execUncorrectableMemory core ctx va pa s
  | .linkDown link => Sys2Proof.Machine.execLinkDown link s
  | .cxlMemRead vf pa len => Sys2Proof.Machine.execCxlMemRead vf pa len s
  | .cxlMemWrite vf pa len val => Sys2Proof.Machine.execCxlMemWrite vf pa len val s
  | .getVersion fn => Sys2Proof.Machine.execGetVersion fn s
  | .getCapabilities fn => Sys2Proof.Machine.execGetCapabilities fn s
  | .negotiateAlgorithms fn offer => Sys2Proof.Machine.execNegotiateAlgorithms fn offer s
  | .getDigests fn => Sys2Proof.Machine.execGetDigests fn s
  | .getCertificate fn slot => Sys2Proof.Machine.execGetCertificate fn slot s
  | .challenge fn slot => Sys2Proof.Machine.execChallenge fn slot s
  | .getMeasurements fn ix => Sys2Proof.Machine.execGetMeasurements fn ix s
  | .keyExchange fn slot => Sys2Proof.Machine.execKeyExchange fn slot s
  | .finish fn => Sys2Proof.Machine.execFinish fn s
  | .debugTokenSubmit vf => Sys2Proof.Machine.execDebugTokenSubmit vf s
  | .debugScopeRevoke vf => Sys2Proof.Machine.execDebugScopeRevoke vf s
  | .debugScopeExpiry vf => Sys2Proof.Machine.execDebugScopeExpiry vf s
  | .dbgdataWrite vf val => Sys2Proof.Machine.execDbgdataWrite vf val s
  | .dbgdataRead vf => Sys2Proof.Machine.execDbgdataRead vf s
  | .halt core => Sys2Proof.Machine.execHalt core s
  | .debugResume core => Sys2Proof.Machine.execDebugResume core s
  | .step core ctx => Sys2Proof.Machine.execStep core ctx s
  | .stepdone core => Sys2Proof.Machine.execStepdone core s
  | .xbWrite core val => Sys2Proof.Machine.execXbWrite core val s
  | .seedWrite core val => Sys2Proof.Machine.execSeedWrite core val s
  | .lotstateWrite core val => Sys2Proof.Machine.execLotstateWrite core val s
  | .issuepolWrite core val => Sys2Proof.Machine.execIssuepolWrite core val s
  | .sbdataWrite core val => Sys2Proof.Machine.execSbdataWrite core val s
  | .overrunClear clu out => Sys2Proof.Machine.execOverrunClear clu out s
  | .trdstWrite core val => Sys2Proof.Machine.execTrdstWrite core val s
  | .clear core => Sys2Proof.Machine.execClear core s
  | .xflagsWrite core val => Sys2Proof.Machine.execXflagsWrite core val s
  | .traceDrain clu => Sys2Proof.Machine.execTraceDrain clu s
  | .registerWrite core csr val => Sys2Proof.Machine.execRegisterWrite core csr val s
  | .prepareRefusalReceive pkg status => Sys2Proof.Machine.execPrepareRefusalReceive pkg status s

end Sys2Proof.Machine
end

