-- ==== Sys2Proof/Machine/Turn.lean ====
section
/-! DEFINITION. One turn of a core (02 R13; 03 R49, R61; 07 R130 to R134; 10 R193), one cycle of the part, the order in
which the agents move, and where a word stands that a fresh machine fetches next. -/

namespace Sys2Proof.Machine

/-- What follows an outcome. -/
def andThen (o : Out) (f : State → Out) : Out :=
  match o with
  | .next s => f s
  | .fault r => .fault r
  | .refused r => .refused r

/-! ### Words that are no instruction -/

/-- The bits that no row of an X opcode uses (03 R43). -/
def unusedBits (op : Nat) : Nat :=
  match op with
  | 0x75 | 0x76 => 0x40
  | 0x15 | 0x16 | 0x31 | 0x35 | 0x36 | 0x37 | 0x38 | 0x67 | 0x68 | 0x69 | 0x6A | 0x6E | 0x6F => 0x7F
  | 0x32 => 0x3F80
  | _ => 0

/-- The A registers that a word of the A-half names as sources, by its opcode (03 R61). -/
def namedRegs (w : Nat) : List Nat :=
  let d := fld w 19 5
  let a := fld w 14 5
  let b := fld w 9 5
  match opcodeOf w with
  | 0x82 | 0x87 | 0x88 | 0x89 | 0x8E | 0x8F | 0x94 | 0x95 | 0xBB | 0xC2 | 0xCB | 0xCC | 0xD0 | 0xD1 | 0xD4 | 0xD8 | 0xE0 | 0xF1 => [a]
  | 0x80 | 0x81 | 0x83 | 0x84 | 0x85 | 0x86 | 0x8A | 0x8B | 0x91 | 0x92 | 0x93 => [a, b]
  | 0x96 | 0x97 | 0x98 | 0x99 | 0x9A | 0x9B | 0x9D | 0xA0 => [a, b]
  | 0x9C | 0x9E | 0x9F | 0xA1 | 0xC7 => [a, b, d]
  | 0xA2 => [a, b, 2 * (d / 2), 2 * (d / 2) + 1]
  | 0xA5 => [d, d + 1, a, a + 1, b]
  | 0xA6 => [a, a + 1, b, b + 1]
  | 0xA8 => [d, a]
  | 0xB0 | 0xB1 | 0xB2 | 0xB3 | 0xB4 | 0xB5 => [d, a]
  | 0xBC => [d]
  | 0xC0 => if bitAt w 8 && fld w 0 8 == 0 then [a, b] else [a]
  | 0xC1 => if bitAt w 0 then [a, b] else [a]
  | 0xC3 | 0xC6 | 0xC8 => [a, b]
  | 0xE1 | 0xE4 | 0xE8 | 0xE9 | 0xF0 => [a, b]
  | 0xD2 | 0xD3 | 0xD9 | 0xEC => [a, b, b + 1]
  | 0xD5 | 0xD7 | 0xEB => [a, b, b + 1, b + 2]
  | 0xEA => if bitAt w 3 then [a, b, b + 1] else [a, b]
  | 0xF2 => if fld w 3 2 = 0 then [a, b] else [a]
  | 0xE2 => if fld w 2 2 = 0 then [] else [a]
  | 0xED => if fld w 6 2 = 0 then [] else [a]
  | _ => []

/-- The load queue in which a word of the A-half reserves an entry, or that it pushes. -/
def namedLdq (w : Nat) : Option Nat :=
  let d := fld w 19 5
  if 2 ≤ d then none
  else match opcodeOf w with
    | 0x8F | 0x96 | 0x97 | 0x9A | 0xD8 => some d
    | 0xA6 => if bitAt w 4 then none else some d
    | _ => none

/-- Everything that a word of the A-half names is there for the activation in focus: registers, queue entries and room, and
the engine port (03 R61). -/
def State.wordReady (s : State) (w : Nat) : Bool :=
  let a := s.cur
  (namedRegs w).all (fun r => a.regReady (s.head .a).seq r) &&
    (match namedLdq w with
      | some q => a.ldqFree q
      | none => true) &&
    (!(xaqNeed w) || !a.q.xaq.isEmpty) && decide (sdqNeed a w ≤ a.q.sdq.length) &&
    (match namedPort w with
      | some id => s.portTakes id false
      | none => true)

/-- The activations that dispatch with the one in focus: the members of its gang, or itself. -/
def State.togetherWith (s : State) : List (Nat × Nat) :=
  match s.cur.flow.gang with
  | some g => s.gangMembers g
  | none => [(s.focus.core, s.focus.ctx)]

/-- A word that is no instruction traps once everything it names is there (03 R61). An X word names what the instruction of
its opcode does, with the unused bits left out. -/
def illegalTurn (w : Nat) (s : State) : Out :=
  if isHint w then exec (.illegalInstruction w) s
  else if isXWord w then
    match decodeFields (w - Nat.land w (unusedBits (opcodeOf w))) with
    | .error _ => exec (.illegalInstruction w) s
    | .ok i => andThen (exec i s) (fun t => match t.verdict with
      | .stalled => .next t
      | _ => exec (.illegalInstruction w) s)
  else if s.togetherWith.all (fun m => (s.focusOn m.1 m.2).wordReady w) then exec (.illegalInstruction w) s
  else .next { s with verdict := .stalled }

/-! ### The attempt of one head -/

/-- The head of a half. -/
def State.headOf (s : State) (core ctx : Nat) (h : Half) : Option Entry := (s.act? core ctx).bind (fun a => (a.buf h).head?)

/-- The focus on a half of an activation. -/
def State.aim (s : State) (core ctx : Nat) (h : Half) : State :=
  { s with focus := { core := core, ctx := ctx, half := some h } }

/-- A word is tried: the instruction it decodes to, or the trap of a word that is none. -/
def execWord (w : Nat) (s : State) : Out :=
  match decode w with
  | .ok i => exec i s
  | .error _ => illegalTurn w s

/-- The target of a head is tried. A hint that stands where a target belongs fails its check before any hint of its sequence
takes its cycle (03 R48, R61). -/
def runTarget (core ctx : Nat) (h : Half) (s : State) : Out :=
  match s.headOf core ctx h with
  | none => .next { s with verdict := .stalled }
  | some e =>
    if e.kind != .word then trapEntryTurn (s.aim core ctx h)
    else if isHint e.word.toNat && (decode e.word.toNat).isOk then dispatch h (fun _ => guardHints e false .stall) (s.aim core ctx h)
    else execWord e.word.toNat (s.aim core ctx h)

/-- The hint of a head whose turn it is: none when all have been taken, or when its target is ill placed. -/
def Entry.dueHint (e : Entry) : Option Nat :=
  if e.kind != .word || isHint e.word.toNat then none else (e.hints[e.taken]?).map (fun h => h.toNat)

/-- A target that stands behind hints that have just taken their cycles. -/
def Entry.hinted (e : Entry) : Bool := e.kind == .word && !(e.hints.isEmpty) && e.taken == e.hints.length

/-- The word with a place at the head of a half, with hints that have taken their cycles, has been dispatched and stands there
with more chunks or elements to come: these make their own checks (06 R116). -/
def State.begun (s : State) (core ctx : Nat) (h : Half) (seq : Nat) : State :=
  match s.act? core ctx with
  | none => s
  | some a => match a.buf h with
    | [] => s
    | e :: rest =>
      if e.seq = seq ∧ Entry.hinted e = true then s.setActAt core ctx (a.setBuf h ({ e with taken := e.taken + 1 } :: rest)) else s

/-- The target behind its hints: its checks have been made in the first hint's cycle, so it cannot fail one now. What another
agent has changed since makes it complete without an effect instead: DESIGN CHOICE, log 76. -/
def runHinted (core ctx : Nat) (h : Half) (s : State) : Out :=
  let seq := ((s.headOf core ctx h).map (fun e => e.seq)).getD 0
  andThen (runTarget core ctx h s) (fun t => match t.verdict with
    | .trapped => dispatch h (fun u => .ok u) (s.aim core ctx h)
    | .done => .next (t.begun core ctx h seq)
    | _ => .next t)

/-- A head is tried: with hints to take, its target is checked, and then the hint takes its cycle (03 R49, R61). -/
def runHead (core ctx : Nat) (h : Half) (s : State) : Out :=
  match (s.headOf core ctx h).bind Entry.dueHint with
  | none => if (s.headOf core ctx h).any Entry.hinted then runHinted core ctx h s else runTarget core ctx h s
  | some w =>
    if (s.headOf core ctx h).any (fun e => decide (0 < e.taken)) then execWord w (s.aim core ctx h)
    else andThen (runTarget core ctx h s) (fun t => match t.verdict with
      | .done => execWord w (s.aim core ctx h)
      | _ => .next t)

/-- What has come of a head: it was eligible when it had its effect or trapped, and it takes the turn when its wait has had an
effect. -/
def eligible (o : Out) : Bool :=
  match o with
  | .next t => t.verdict == .done || t.verdict == .trapped || t.verdict == .waiting
  | _ => true

/-- The head was eligible, and its outcome. -/
def State.tryHalf (s : State) (core ctx : Nat) (h : Half) : Option Out :=
  if (s.headOf core ctx h).isNone then none
  else
    let o := runHead core ctx h s
    if eligible o then some o else none

/-- The halves of an activation, the one whose head is older first (07 R131). -/
def Activation.halves (a : Activation) : List Half :=
  match a.f.abuf.head?, a.f.xbuf.head? with
  | some p, some q => if p.seq < q.seq then [.a, .x] else [.x, .a]
  | some _, none => [.a]
  | none, some _ => [.x]
  | none, none => []

/-- The half between a hint and its target. -/
def Activation.lockedHalf (a : Activation) : Option Half :=
  a.halves.find? (fun h => (a.buf h).head?.any (fun e => decide (0 < e.taken)))

/-- The first half of an activation whose head is eligible, with its outcome (07 R131); a follower of a gang dispatches with
its leader only (08 R150). -/
def State.tryAct (s : State) (core ctx : Nat) : Option (Half × Out) :=
  match s.act? core ctx with
  | none => none
  | some a =>
    if a.follows then none
    else a.halves.findSome? (fun h => (s.tryHalf core ctx h).map (fun o => (h, o)))

/-! ### The issue policies (07 R134) -/

/-- Insert a context by age, the lower context first among equals. -/
def insertAge (x : Nat × Activation) : List (Nat × Activation) → List (Nat × Activation)
  | [] => [x]
  | y :: rest =>
    if x.2.flow.age < y.2.flow.age ∨ (x.2.flow.age = y.2.flow.age ∧ x.1 < y.1) then x :: y :: rest
    else y :: insertAge x rest

/-- Greedy-then-oldest: the one that dispatched last, then by age. -/
def greedyOrder (g : IssueGroup) (l : List (Nat × Activation)) : List Nat :=
  let keep (x : Nat × Activation) : Bool := g.lastAct == some x.2.info.id
  (l.filter keep).map (fun x => x.1) ++ ((l.filter (fun x => !(keep x))).foldr insertAge []).map (fun x => x.1)

/-- Round-robin: the contexts after the one that dispatched last, cyclically. -/
def robinOrder (g : IssueGroup) (l : List (Nat × Activation)) : List Nat :=
  let c := l.map (fun x => x.1)
  match g.lastCtx with
  | none => c
  | some k => c.filter (fun x => decide (k < x)) ++ c.filter (fun x => decide (x ≤ k))

/-- What a turn chooses: the context, the half, and what came of its head. -/
structure Choice where
  ctx  : Nat
  half : Half
  out  : Out

/-- The first activation of a list that has an eligible head. -/
def State.firstOf (s : State) (core : Nat) (l : List Nat) : Option Choice :=
  l.findSome? (fun c => (s.tryAct core c).map (fun r => { ctx := c, half := r.1, out := r.2 }))

/-- The mark of HYLD is cleared. -/
def State.unmark (s : State) (core ctx : Nat) : State :=
  match s.act? core ctx with
  | some a => s.setActAt core ctx { a with flow := { a.flow with mark := false } }
  | none => s

/-- The search of round-robin: marked activations are passed over and lose their mark; without another, the first of them
dispatches. -/
def State.robin (s : State) (core : Nat) (passed : Option Nat) : List Nat → State × Option Choice
  | [] => match passed with
    | some c => (s, s.firstOf core [c])
    | none => (s, none)
  | c :: rest =>
    if ((s.act? core c).map (fun a => a.flow.mark)).getD false then (s.unmark core c).robin core (passed.orElse fun _ => some c) rest
    else match s.firstOf core [c] with
      | some x => (s, some x)
      | none => s.robin core passed rest

/-- The choice within one group (10 R193). Under greedy-then-oldest an activation that yielded in the previous turn counts
as stalled (07 R134). -/
def State.chooseIn (s : State) (core : Nat) (yielded : Option Nat) (g : IssueGroup) (l : List (Nat × Activation)) :
    State × Option Choice :=
  if (s.core core).csr.pol then s.robin core none (robinOrder g l)
  else (s, s.firstOf core (greedyOrder g (l.filter (fun x => yielded != some x.2.info.id))))

/-- The half of a running activation at whose head the word with a place stands. -/
def State.halfOfSeq (s : State) (core ctx q : Nat) : Option Half :=
  (s.act? core ctx).bind (fun a =>
    if a.flow.status == .running then a.halves.find? (fun h => (a.buf h).head?.any (fun e => e.seq == q)) else none)

/-- On a halted core, the context whose step has trapped: its older words go on (10 R184, 23 R430). -/
def State.stepDrain (s : State) (core : Nat) : Option Nat :=
  (s.core core).dbg.stepping.filter (fun ctx => (s.act? core ctx).any (fun a => match a.flow.status with
    | .draining _ _ => true
    | _ => false))

/-- The choice of a core: the target of a sequence under way, whatever comes between; on a halted core the context of a step;
else the group of IQ0 and of trap activations, and then the other (03 R49; 07 R132; 10 R193; 23 R430). -/
def State.choose (s : State) (core : Nat) (yielded : Option Nat) : State × Option Choice :=
  let c := s.core core
  match c.lock with
  | some ctx =>
    let half := ((s.act? core ctx).bind Activation.lockedHalf).getD .a
    if (s.actAt core ctx).follows then (s, none)
    else (s, (s.tryHalf core ctx half).map (fun o => { ctx := ctx, half := half, out := o }))
  | none =>
    if c.dbg.halt then (s, ((c.dbg.want.orElse (fun _ => s.stepDrain core)).bind (fun ctx => match c.dbg.stepSeq with
      | none => s.firstOf core [ctx]
      | some q => (s.halfOfSeq core ctx q).bind (fun h => (s.tryHalf core ctx h).map (fun o => { ctx := ctx, half := h, out := o })))))
    else
      let r := s.chooseIn core yielded c.urgent (c.acts.filter (fun x => x.2.urgent))
      match r.2 with
      | some x => (r.1, some x)
      | none => r.1.chooseIn core yielded c.normal (c.acts.filter (fun x => !x.2.urgent))

/-! ### The turn -/

/-- Every resident activation fetches. -/
def fetchAll (core : Nat) : List Nat → State → Out
  | [], s => .next s
  | c :: rest, s => andThen (exec (.fetch core c) s) (fetchAll core rest)

/-- Of a draining activation, count the turns in a row in which its oldest word is starved (10 R184). -/
def Activation.countDrain (a : Activation) : Activation :=
  match a.flow.status with
  | .draining _ _ => { a with flow := { a.flow with starved := if a.drainStuck then a.flow.starved + 1 else 0 } }
  | _ => a

def State.countDrains (s : State) (core : Nat) : State :=
  let c := s.core core
  if c.acts.any (fun e => match e.2.flow.status with
    | .draining _ _ => true
    | _ => false) then s.setCore core { c with acts := c.acts.map (fun e => (e.1, e.2.countDrain)) } else s

/-- Each gang that is led from a core lets the loop counts of its followers land (08 R150). -/
def State.landGangs (s : State) (core : Nat) : State :=
  (s.core core).acts.foldl (fun t e => match e.2.flow.gang with
    | some g => if e.2.follows then t else t.landFollowers g
    | none => t) s

/-- The activations whose starvation a turn of a core looks at: its own but for followers, and the followers of the gangs
that it leads. -/
def State.watched (s : State) (core : Nat) : List (Nat × Nat) :=
  (s.core core).acts.flatMap (fun e => match e.2.flow.gang with
    | some g => if e.2.follows then [] else s.gangMembers g
    | none => [(core, e.1)])

/-- A head of a running activation that can never pop, where the core may dispatch it (02 R20; 03 R49; 08 R151): its core,
context and half. -/
def State.starvedHead (s : State) (core : Nat) : Option (Nat × Nat × Nat) :=
  if (s.core core).dbg.halt || (s.core core).lock.isSome then none
  else (s.watched core).findSome? (fun m =>
    let a := s.actAt m.1 m.2
    if a.flow.status != .running then none
    else if (s.starvesAt a .a).isSome then some (m.1, m.2, 0)
    else if (s.starvesAt a .x).isSome then some (m.1, m.2, 1)
    else none)

/-- What the watched activations show of the conditions of R20 is kept for the next turn. -/
def State.noteLacks (s : State) (core : Nat) : State :=
  (s.watched core).foldl (fun t m =>
    let a := s.actAt m.1 m.2
    if starvedPort (s.leaderOf a) a .a = a.flow.lackA ∧ starvedPort (s.leaderOf a) a .x = a.flow.lackX then t
    else t.setActAt m.1 m.2 (s.noteLack a)) s

/-- The dispatch of an ended activation counts for its group all the same (07 R134). -/
def State.noteDispatch (s : State) (core ctx : Nat) (a : Activation) (e : Entry) : State :=
  if (s.ctxOf core a.info.id).isSome then s
  else
    let c := s.core core
    s.setCore core { c.issued a ctx e with lock := c.lock }

/-- What a step has started drains from now on (23 R430). -/
def State.drainStep (s : State) (core ctx : Nat) : State := s.setCore core ((s.core core).stepDrains ctx)

/-- A step has dispatched: with the hint sequence or the instruction, whose place is `q`, still under way it goes on, else
it drains from now on (23 R430). -/
def State.noteStep (s : State) (core ctx q : Nat) : State :=
  let c := s.core core
  if c.dbg.want != some ctx || (c.lock.isSome && s.verdict != .trapped) then s
  else if s.verdict != .trapped && (s.halfOfSeq core ctx q).isSome then
    s.setCore core { c with dbg := { c.dbg with stepSeq := some q } }
  else s.drainStep core ctx

/-- A step whose instruction has left its head otherwise, as by a late fault, or whose activation is gone, drains from now on
(23 R430). -/
def State.settleStep (s : State) (core : Nat) : State :=
  let s := s.stepLost core
  match (s.core core).dbg.want, (s.core core).dbg.stepSeq with
  | some ctx, some q => if (s.halfOfSeq core ctx q).isNone then s.drainStep core ctx else s
  | _, _ => s

/-- After a choice: what a dispatch leaves beside the instruction's own effect. `s` is the state before. -/
def State.closeTurn (s : State) (core : Nat) (x : Choice) : Out :=
  andThen x.out (fun t =>
    let u := match s.act? core x.ctx, s.headOf core x.ctx x.half, t.verdict with
      | some a, some e, .done => if (s.headOf core x.ctx x.half).bind Entry.dueHint |>.isNone then t.noteDispatch core x.ctx a e else t
      | _, _, _ => t
    .next (u.noteStep core x.ctx (((s.headOf core x.ctx x.half).map (fun e => e.seq)).getD 0)))

/-- Dispatch at most one head (02 R13). A core whose follower has taken a gang's head in this cycle dispatches nothing else
(08 R150). -/
def dispatchTurn (core : Nat) (s : State) : Out :=
  let c := s.core core
  let s1 := (s.setCore core { c with yielded := none, given := false }).settleStep core
  if c.given then .next { s1 with verdict := .none }
  else match s1.starvedHead core with
  | some (k, ctx, half) => exec (.queueStarved k ctx half) s1
  | none =>
    let r := (s1.noteLacks core).choose core c.yielded
    match r.2 with
    | some x => r.1.closeTurn core x
    | none => .next { r.1 with verdict := .none }

/-- A core's turn: it fetches, and dispatches at most one instruction. -/
def coreTurn (core : Nat) (s : State) : Out :=
  andThen (fetchAll core ((s.core core).acts.map (fun e => e.1)) s)
    (fun t => dispatchTurn core ((t.landGangs core).countDrains core))

/-! ### Moves -/

/-- The turns of several cores. -/
def turns : List Nat → State → Out
  | [], s => .next s
  | k :: rest, s => andThen (coreTurn k s) (turns rest)

/-- One cycle: every core with an activation has its turn, and the clock moves. DESIGN CHOICE, log 1. -/
def cycle (s : State) : Out :=
  andThen (turns ((s.cores.filter (fun c => !c.2.acts.isEmpty)).map (fun c => c.1)) s)
    (fun t => .next { t with clock := t.clock + 1 })

/-- An event may stand in the agenda; an instruction comes from memory only. -/
def Instr.isEvent (i : Instr) : Bool := i.wellFormed && (encode i).isNone && !(match i with
  | .illegalInstruction _ => true
  | _ => false)

def runMove (m : Move) (s : State) : Out :=
  match m with
  | .core k => coreTurn k s
  | .event i => if Instr.isEvent i then exec i s else .next s
  | .linked pkg r i =>
    if Instr.isEvent i then andThen (exec i { s with link := some (pkg, r) }) (fun t => .next { t with link := none }) else .next s
  | .tick n => .next { s with clock := s.clock + n }

/-! ### The order of moves when the agenda names none -/

/-- Moves of accesses and packets. -/
def State.trafficMoves (s : State) : List (State → Out) :=
  (upTo s.accs.length).flatMap (fun i => [execLoadDataReturn i, execStoreAck i, execLateAccessFault i, execStageGrant i]) ++
  (((upTo s.net.length).zip s.net).flatMap (fun e => match e.2.body, e.2.dst with
    | .message _, _ => [execMessageArrival e.1]
    | .command _, _ => [execEngineCommandArrival e.1]
    | .piece _ _, .lm k => [execHomePerform e.1, execSidingStealServe k]
    | _, _ => [execHomePerform e.1])) ++
  (s.clusters.filter (fun g => decide (64 ≤ g.2.cae.length))).map (fun g => execCaeCheckIn g.1) ++
  (s.clusters.filter (fun g => !g.2.ingress.isEmpty)).flatMap (fun g =>
    [execClusterWake g.1, execMessageArrival (s.net.length + g.1)])

/-- Moves of a core beside its turn. -/
def coreMoves (k : Nat) (c : Core) : List (State → Out) :=
  c.acts.flatMap (fun e =>
    (if e.2.flow.walk.isSome then [execTranslationWalkDone k e.1] else []) ++
    (if e.2.pend.isEmpty then [] else [execXResultLand k e.1 0]) ++
    (match e.2.flow.status with
      | .draining _ _ => [execActivationPark k e.1]
      | .victim _ _ _ => [execCopyOut k e.1]
      | _ => [])) ++
  (if c.outbound.isEmpty then [] else [execOutboundDepart k]) ++
  (if c.dbg.stepping.isSome || c.dbg.want.isSome then [execStepdone k] else []) ++
  (if c.parked.isEmpty then [] else [execTrapActivationStart k]) ++
  (if c.saved.isEmpty then [] else [execActivationRestore k]) ++
  (if c.iq.isEmpty then [] else [execAdmission k])

/-- Moves of an engine context. -/
def engineMoves (g id : Nat) : List (State → Out) :=
  let k := id % 32
  [execEnginePreemptStop g id, execEngineFaultPark g id, execMacroReload g id] ++
  (match id / 32 with
    | 0 => [execCopyOpBegin g k, execCopyRowDelivered g k, execCopyOpPerformed g k]
    | 1 => [execMatrixOpBegin g k, execMmaIteration g k, execMatrixOpPerformed g k]
    | 2 => [execChainRunBegin g k, execChainStep g k]
    | _ => [execGrammarOpBegin g k, execGrammarOpPerformed g k])

/-- Moves of the units of a cluster. -/
def clusterMoves (g : Nat) (c : Cluster) : List (State → Out) :=
  c.eng.flatMap (fun e =>
    (if e.2.walk.isSome || !e.2.owed.isEmpty then [execTranslationWalkDone (8192 + g) e.1] else []) ++ engineMoves g e.1) ++
  (if c.sb.pulses.isEmpty && c.sb.counters.isEmpty then [] else [execSignalBoxFire g]) ++
  c.sb.timers.map (fun t => execTimerPulse g t.1) ++
  (c.enc.filter (fun e => e.2.frame.isSome)).map (fun e => execEncoderFrameDone g e.1) ++
  (upTo c.wc.length).map (fun i => execWcBufferTimeout g i) ++
  (if c.trace.drained then [] else [execTraceDrain g])

/-- Moves of the host's front end. -/
def State.hostMoves (s : State) : List (State → Out) :=
  (match s.platform.clearing with
    | some p => [execPartitionClearDone p]
    | none => []) ++
  s.vfs.flatMap (fun v =>
    (v.2.order.head?.map (fun k => [execLaunch v.1 k, execRegister v.1 k, execRegionEnd v.1 k, execPrepare v.1 k])).getD [] ++
    (match v.2.phase with
      | .placed k => [execLaunchFirstMessages v.1 k]
      | .waiting k => [execLaunch v.1 k]
      | .idle => []) ++
    (if v.2.scope = 0 then [] else [execDebugScopeExpiry v.1])) ++
  (if s.prepare.isEmpty then [] else [execPrepareTimeout])

/-- Moves of the scheduler. -/
def State.schedMoves (s : State) : List (State → Out) :=
  s.regions.flatMap (fun r =>
    let p := partOf r.1
    let o := r.1 % 2 ^ 24
    [execJobComplete p o, execBudgetExhausted p o, execDeadlineExpiry p o, execContractRelease p o, execEnergyWindowBoundary p o]) ++
  ((s.regions.flatMap (fun r => maskClusters r.2.eff.cmask)).eraseDups).map (fun g => execQuantumBoundary g) ++
  (if s.platform.charged < s.ns / 1000 then [execEnergyCharge] else [])

/-- What is pending inside the part. -/
def State.pending (s : State) : List (State → Out) :=
  s.trafficMoves ++ s.cores.flatMap (fun c => coreMoves c.1 c.2) ++ s.clusters.flatMap (fun g => clusterMoves g.1 g.2) ++
    s.hostMoves ++ s.schedMoves

/-- The two states are the same: within a step memory changes through the log only. -/
def unchanged (t s : State) : Bool :=
  decide ({ t with mem := [], tags := [] } = ({ s with mem := [], tags := [] } : State))

/-- The first of these events that changes anything, with its effect. -/
def State.firstEffect (s : State) : List (State → Out) → Option State
  | [] => none
  | f :: rest => match f s with
    | .next t => if unchanged t s then s.firstEffect rest else some t
    | _ => s.firstEffect rest

/-- Without an agenda, what is pending inside the part moves first, and then a cycle passes. DESIGN CHOICE, log 5. -/
def autoMove (s : State) : Out :=
  match s.firstEffect s.pending with
  | some t => .next t
  | none => cycle s

/-- One move: the first of the agenda, or the one that `autoMove` takes. -/
def oneMove (s : State) : Out :=
  match s.agenda with
  | m :: rest => runMove m { s with agenda := rest }
  | [] => autoMove s

/-- The retired blocks that the save path has met in the step are reported to the fault domains of their regions (10 R191). -/
def State.reportSaves (s : State) : State :=
  if s.saveErrs.isEmpty then s
  else { s.saveErrs.foldl (fun (t : State) e => t.homeFault e.2 e.1 tUNCORRECTABLE_MEMORY e.2 false) s with saveErrs := [] }

/-- The end of a step from `s`: memory is that of `s` with the step's changes applied, and no activation is in focus. -/
def State.closeStep (s t : State) : State :=
  { t.reportSaves with mem := applyBytes s.mem t.wlog, tags := applyTags s.tags t.wlog, wlog := [], focus := {} }

/-! ### A fresh machine that fetches a given word next -/

/-- A target for a hint word: HIMM before AMOVI, HWID before ADD, HMOD before FADD, HYLD before NOP (03 R48). -/
def hintTarget (w : Nat) : List Nat :=
  match opcodeOf w with
  | 0xF8 => [0x8C000000]
  | 0xF9 => [0x01E00000]
  | 0xFA => [0x60A00000]
  | 0xFB => [0xFC000000]
  | _ => []

/-- Bytes of memory from an address on. -/
def placeBytes (m : Sparse Byte) (pa : Nat) : List Byte → Sparse Byte
  | [] => m
  | b :: rest => placeBytes (Sparse.set 0 m pa b) (pa + 1) rest

/-- The activation that a load places: its fetch position is word 0x400, the first word behind the LM's fixed area. The word
there counts as fetched in the cycle before the load's step (log 6). -/
def freshActivation (id : Nat) : Activation :=
  { info := { id := id, priv := true, winSize := 112 }, f := { pc := 0x400, seen := 1 } }

/-- A word (and a target behind a hint) stands where core 0's only activation, in context 0, fetches next. The message that
admits it is left out: log 6. -/
def placeWord (s : State) (w : Nat) : State :=
  let bytes := (w :: hintTarget w).flatMap (fun x => toBytes 4 x)
  { s with
    mem := placeBytes s.mem (lmBase 0 + 0x1000) bytes
    cores := Sparse.put s.cores 0 { s.core 0 with acts := [(0, freshActivation s.nextId)], lock := none }
    nextId := s.nextId + 1
    wlog := [], agenda := [] }

end Sys2Proof.Machine
end

