-- ==== Sys2Proof/Machine/Step.lean ====
section
/-! DEFINITION. One step: one move of one agent, or one cycle. -/

namespace Sys2Proof.Machine

/-- One step. -/
def step (s : State) : Host.Outcome State Fault Refusal :=
  andThen (oneMove s) (fun t => .next (s.closeStep t))

/-- The state with an instruction word standing where `step` fetches next; the bits above `nbits` are zero. -/
def State.withFetchWord (s : State) (nbits w : Nat) : State := placeWord s (w % 2 ^ nbits % 2 ^ 32)

end Sys2Proof.Machine
end

