-- ==== Sys2Proof/Safety.lean ====
section
/-! DEFINITION. The terms in which claims are stated: what a state between two steps is like, when an activation can take the
head of a half, what an X instruction leaves behind, and what a step may leave alone. -/

namespace Sys2Proof

/-- The state is one that stands between two steps: no change of memory is outstanding and memory has its canonical form
(02 R37, 12 R205: one map of bytes, one tag for each unit). -/
def Settled (s : Machine.State) : Prop := s.wlog = [] ∧ Machine.Memory.wf s = true

/-- `n` steps of the machine end in a state: no fault and no refusal on the way. -/
def GoesOn (n : Nat) (s : Machine.State) : Prop := ∃ t, core.run n s = .next t

namespace Machine

/-- The activation in focus is `a`, in no gang; it may dispatch the head of half `h`; and the head's hint sequence is one
that its target takes (02 R13; 03 R48, R60; 10 R184). -/
structure Ready (s : State) (h : Half) (a : Activation) : Prop where
  here  : s.cur? = some a
  may   : a.mayDispatch h = true
  solo  : a.flow.gang = none
  valid : (a.headEntry h).reservedHint = none
  taken : (a.headEntry h).badHint = none

/-- The registers `rs` can be read by the A head of `a` (06 R98). -/
def Readable (a : Activation) (rs : List Nat) : Prop := ∀ r ∈ rs, a.regReady (a.headEntry .a).seq r = true

/-- The operands of an X instruction can be taken: A, B and the destination as a source are read in this order, giving the
values and the activation behind the pops; the destination's queue is free; every field may stand where it stands
(02 R13, R18, R19, R24; 05 R75). -/
structure XGo (s : State) (a : Activation) (op : XOp) (va vb vc : Nat) (a1 a2 a3 : Activation) : Prop where
  readA : readOpt a 0 op.a = some (va, a1)
  readB : readOpt a1 0 op.b = some (vb, a2)
  readC : readOpt a2 0 op.c = some (vc, a3)
  room  : s.dstReady a (a.headEntry .x).seq (dstOf op.d op.dw) = true
  srcA  : srcOkOpt a op.a = true
  srcB  : srcOkOpt a op.b = true
  dst   : (a.dstOk op.d op.dw && !(op.dWide && decide (112 ≤ op.d)) &&
            (dstOf op.d op.dw != .outb || decide (a.outPending + op.dw ≤ 512))) = true

/-- The state behind an X instruction: its result is a pending write of the activation, and the head has gone (02 R28). -/
def xDone (s : State) (op : XOp) (a : Activation) (r : XRes) : State :=
  ((s.setCurCore { s.curCore with csr := r.csr }).setCur
    { a with pend := a.pend ++ [xWrite (dstOf op.d op.dw) op.dw r.value r.flags] }).finish .x

/-- `i` runs as an X instruction on operands of `w` bits: wherever they can be taken, and `ok` holds of the head, it
completes with the result of `f` on the operands at the operation width. -/
def XRuns (i : Instr) (w : Nat) (op : Entry → XOp) (ok : Entry → Bool) (f : Entry → Csrs → Nat → Nat → Nat → XRes) : Prop :=
  ∀ (s : State) (a a1 a2 a3 : Activation) (va vb vc : Nat),
    Ready s .x a → ok (a.headEntry .x) = true → XGo s a (op (a.headEntry .x)) va vb vc a1 a2 a3 →
      exec i s = .next (xDone s (op (a.headEntry .x)) a3
        (f (a.headEntry .x) s.curCore.csr (extOpt w va (op (a.headEntry .x)).a) (extOpt w vb (op (a.headEntry .x)).b)
          (extOpt w vc (op (a.headEntry .x)).c)))

/-- The X-half of the activation is empty: no word in its buffer and no write that has not landed (06 R126). -/
def XQuiet (a : Activation) : Prop := a.f.xbuf = [] ∧ a.pend = []

/-- Activation `a` leads gang `g`, and the A head that it holds is eligible on every member, as an instruction is that needs
nothing but a quiet X-half: every lane has its member, each may dispatch, none has a write that has not landed, and the head is no
word that a single lane has to execute again (08 R150; 06 R126; 09 R172; 10 R437). -/
structure GangReady (s : State) (a : Activation) (g : Gang) : Prop where
  here    : s.cur? = some a
  may     : a.mayDispatch .a = true
  leads   : a.flow.gang = some g ∧ g.lane = 0 ∧ g.leaderCore = s.focus.core ∧ g.leaderCtx = s.focus.ctx ∧ 1 ≤ g.size
  whole   : (s.gangMembers g).length = g.size
  ready   : ∀ m ∈ s.gangMembers g, s.memberReady .a m = true
  follow  : ∀ m ∈ (s.gangMembers g).drop 1, ∃ b h, s.act? m.1 m.2 = some b ∧ b.flow.gang = some h ∧ h.lane ≠ 0 ∧
              h.leaderCore = g.leaderCore ∧ h.leaderCtx = g.leaderCtx ∧ b.pend = []
  quiet   : XQuiet a
  valid   : (a.headEntry .a).reservedHint = none
  taken   : (a.headEntry .a).badHint = none
  every   : (a.headEntry .a).lane = none

/-- Two sources and a destination, each `w` bits wide unless HWID says otherwise (02 R27, 03 R52). -/
def twoSrc (w d x y : Nat) (e : Entry) : XOp :=
  { a := some (intSrc e false x w), b := some (intSrc e true y w), d := d, dw := w }

/-- One source. -/
def oneSrc (w d x : Nat) (e : Entry) : XOp := { a := some (intSrc e false x w), b := none, d := d, dw := w }

/-- Two sources of the operation width: no HWID may stand before the instruction. -/
def plainSrc (w d x y : Nat) (_ : Entry) : XOp :=
  { a := some { field := x, width := w }, b := some { field := y, width := w }, d := d, dw := w }

/-- A floating-point operation on one lane: rounding mode, saturation, A, B and the destination. -/
abbrev LaneFn : Type := RMode → Bool → Nat → Nat → Nat → FRes

/-- What a floating-point instruction computes from operands of `n` bits: `f` on every lane of format `k` (13 R242). -/
def laneRes (n : Nat) (k : Fmt) (f : LaneFn) (e : Entry) (c : Csrs) (p q z : Nat) : XRes :=
  let l := (upTo (n / k.width)).map (fun i => f (e.rounding false).1 (e.rounding false).2
    (fld p (k.width * i) k.width) (fld q (k.width * i) k.width) (fld z (k.width * i) k.width))
  { value := packFields k.width (l.map (fun r => r.code)), flags := flagsOf l, csr := c }

/-- Every head will do. -/
def anyHead (_ : Entry) : Bool := true

/-- `i` runs as an A instruction: wherever the activation is ready and `pre` holds, it completes in `post`, from which the
head has gone. -/
def ARuns (i : Instr) (pre : State → Activation → Entry → Prop) (post : State → Activation → Entry → State) : Prop :=
  ∀ (s : State) (a : Activation), Ready s .a a → pre s a (a.headEntry .a) →
    exec i s = .next ((post s a (a.headEntry .a)).finish .a)

/-- `i` reads `rs`, writes `v` to register `d`, and does nothing else. -/
def RegRuns (i : Instr) (rs : List Nat) (d : Nat) (ok : Entry → Bool) (v : Activation → Entry → AReg) : Prop :=
  ARuns i (fun _ a e => Readable a rs ∧ ok e = true) (fun s a e => s.setCur (a.writeReg e.seq d (v a e)))

/-- The activation may send an access or a command: no acquiring load is outstanding, and no message that it sent earlier
still stands in the outbound buffer (06 R109, 09 R168). -/
def Sends (s : State) (a : Activation) : Prop :=
  s.acquiring a.info.id = false ∧ s.curCore.outbound.any (fun o => o.1 == a.info.id) = false

/-- The activation may send a fence or an engine command: no acquiring load is outstanding (06 R109). -/
def Orderly (s : State) (a : Activation) : Prop := s.acquiring a.info.id = false

/-- The activation may put a message into the outbound buffer: no acquiring load is outstanding, an entry is free, and every
older push to outb has landed (08 R136, 09 R168). -/
def SendsMessage (s : State) (a : Activation) : Prop :=
  s.acquiring a.info.id = false ∧ s.curCore.outbound.length < 8 ∧ a.pendingTo .outb = 0 ∧
    a.f.xbuf.any (fun e => decide (e.seq < (a.headEntry .a).seq) && pushesOutb e.word.toNat) = false

/-- A reply capability (09 R165). -/
def IsReply (c : AReg) : Prop :=
  c.tag = true ∧ c.perms = 2 ^ permMSG ∧ c.top = c.base + 1 ∧ c.base < 2 ^ 25

/-- The parked operation at the head of an engine context has issue number `n` (10 R192). -/
def ParkedWith (s : State) (clu id n : Nat) : Prop :=
  ∃ code val c rest, (s.eng clu id).run = .parked code val ∧ (s.eng clu id).queue = c :: rest ∧ c.issue = n

/-- What a release of the activation at scope `p` waits for has come about; with `r` other than 1 there is nothing to wait
for (06 R109, R112; 12 R226). -/
def Ordered (s : State) (a : Activation) (r p : Nat) : Prop :=
  r = 1 → s.released a.info.id p = true ∧
    (p = 5 → (s.cluster s.curClu).wc = [] ∧ s.wcInFlight s.curClu = false)

/-- The capability admits an access of `size` units of 1 / `unit` byte at `off`, aligned to `align` (02 R35). -/
def Admits (c : AReg) (perms : List Nat) (off size unit align : Nat) : Prop :=
  c.tag = true ∧ (∀ p ∈ perms, c.perm p = true) ∧ off + size ≤ unit * (c.top - c.base) ∧ (c.base + off) % align = 0

/-- The activation may issue a command of context `id` of its cluster: it is orderly, the context's queue takes one more,
which no other core's hint sequence has asked for, and its region owns the cluster (03 R49; 12 R218; 14 R262; 10 R436). -/
def CanIssue (s : State) (a : Activation) (id : Nat) (arm : Bool) : Prop :=
  Orderly s a ∧ s.portTakes id arm = true ∧ s.ownsCluster a.info.region s.curClu = true

/-- The activation may use context `id` otherwise: it is orderly, and its region owns the cluster (10 R436). -/
def CanUse (s : State) (a : Activation) : Prop := Orderly s a ∧ s.ownsCluster a.info.region s.curClu = true

/-- The state behind a command: it stands in the queue of its context with the next issue number, which `d` receives, and
its ranges are pinned (12 R218, R220). -/
def issued (s : State) (a : Activation) (e : Entry) (id d : Nat) (arm : Bool) (w : Work) (pins : List (Nat × Nat)) : State :=
  let r := (s.setCur a).retireEng id arm w pins
  r.1.setCur (r.1.cur.writeReg e.seq d (plain64 r.2))

/-- The same for an operation of the matrix unit, whose pins carry the places that they stand for (16 R299). -/
def issuedMatrix (s : State) (a : Activation) (e : Entry) (id d : Nat) (arm : Bool) (w : Work)
    (pins : Nat → List (Nat × Nat × Nat)) : State :=
  let r := s.retireEng id arm w []
  let p := r.1.pinRetired id (pins r.2)
  p.setCur (p.cur.writeReg e.seq d (plain64 r.2))

/-- Every byte and every tag of memory reads alike in the two states. -/
def SameMemory (s t : State) : Prop := (∀ pa, t.byteAt pa = s.byteAt pa) ∧ (∀ u, t.tagAt u = s.tagAt u)

/-- The event `i` has the effect `post` in every state in which `pre` holds. -/
def Happens (i : Instr) (pre : State → Prop) (post : State → State) : Prop := ∀ s, pre s → exec i s = .next (post s)

/-- The operation at the head of a context's queue runs there now (12 R219). -/
def Runs (s : State) (clu id : Nat) (c : EngCmd) : Prop := s.engRunning clu id = some c

/-- The record of a slot is served now: the slot is first in doorbell order, nothing else is being served, its VF is bound,
the scheduler is ready, and the record of kind `kind` is sound (22 R402). -/
def Served (s : State) (vf k kind : Nat) : Prop :=
  (s.vf vf).order.head? = some k ∧ (s.vf vf).phase = .idle ∧ (s.vf vf).bound = true ∧ s.platform.sched = true ∧
    recKind (s.slotRec vf k) = kind ∧ recBad (s.vf vf) (s.slotRec vf k) = false

/-- The state in which the record of a slot is being served. -/
def serving (s : State) (vf k : Nat) : State := s.setVf vf { s.vf vf with stat := Sparse.put (s.vf vf).stat k 2 }

/-- The state without the cores, the clusters, what is in flight and what only a step uses. -/
def State.outer (s : State) : State :=
  { s with cores := [], clusters := [], net := [], accs := [], pins := [], nextId := 0, focus := {}, verdict := .none }

/-- Nothing outside the cores, the clusters and what is in flight has changed: memory and its tags, the records of the
platform, of partitions and regions, the time and what went outside; and every accumulator and every CSR that a core holds
stands as it did. -/
structure Keeps (s t : State) : Prop where
  outer : t.outer = s.outer
  acc   : ∀ g, (t.cluster g).acc = (s.cluster g).acc ∧ (t.cluster g).accFlags = (s.cluster g).accFlags
  csr   : ∀ k, (t.core k).csr = (s.core k).csr

/-- As `Keeps`, but that flags of X results have reached XFLAGS: those of an activation that ends with results still to land
(13 R243). -/
structure KeepsButFlags (s t : State) : Prop where
  outer : t.outer = s.outer
  acc   : ∀ g, (t.cluster g).acc = (s.cluster g).acc ∧ (t.cluster g).accFlags = (s.cluster g).accFlags
  csr   : ∀ k, ∃ f, (t.core k).csr = { (s.core k).csr with xflags := (s.core k).csr.xflags ||| f }

/-- What a dispatch keeps: all that `Keeps` says, but for the XFLAGS that followers leave when their gang is aborted
(08 R151). -/
def Kept (s t : State) : Prop :=
  Keeps s t ∨ ((∃ a g, s.cur? = some a ∧ a.flow.gang = some g) ∧ t.verdict = .trapped ∧ KeepsButFlags s t)

/-- The general registers that an instruction writes at its dispatch, or leaves waiting for an answer (06 R98, R99). -/
def destRegs (i : Instr) : List Nat :=
  match i with
  | .aadd d _ _ | .asub d _ _ | .aaddi d _ _ | .amul d _ _ | .aand d _ _ | .aor d _ _ | .axor d _ _ | .ashli d _ _
  | .ashri d _ _ | .asari d _ _ | .aslt d _ _ | .asltu d _ _ | .amovi d _ | .aupi d _ | .amov d _ | .apopq d
  | .cbase d _ _ | .clen d _ _ | .cperm d _ _ | .cget d _ _ | .cclr d _ => [d]
  | .lda d _ _ _ _ _ _ | .ldc d _ _ _ _ | .amo d _ _ _ _ _ _ | .stacq d _ _ _ => [d]
  | .amocas d _ _ _ _ _ => [2 * d]
  | .rep _ a b _ _ _ => [a + 1, b]
  | .csrr d _ | .tlread d _ _ | .chstat d _ _ | .grstat d _ _ | .cpywp d _ _ => [d]
  | .dqpop d | .dqsteal d _ => [2 * d, 2 * d + 1]
  | .mldb d _ _ _ _ | .mspec d _ _ _ _ | .mzero d _ _ _ | .mma d _ _ _ _ | .mmas d _ _ _ _ | .mcopy d _ _ _ _
  | .chrunStart d _ _ | .grred d _ _ _ _ _ | .grscan d _ _ _ _ _ | .grscanX d _ _ _ _ _ | .grmv d _ _ _ _
  | .grat d _ _ _ _ _ | .cpy d _ _ _ _ | .cpychkCheck d _ _ _ => [d]
  | _ => []

/-- From `a` to `b` every register outside `ds` stands, but for the counts of hardware loops that were pending and may land
(06 R123); and no new count is pending. -/
structure SameRegs (ds : List Nat) (a b : Activation) : Prop where
  counts : ∀ w ∈ b.f.counts, w ∈ a.f.counts
  regs   : ∀ r, r ∉ ds → (∀ w ∈ a.f.counts, w.reg ≠ r) → b.reg r = a.reg r

/-- A cluster stands, but for the order in which its atomic engine gives up the lines that it has checked out (12 R223). -/
def SameCluster (c d : Cluster) : Prop := d = { c with cae := d.cae } ∧ ∀ l, l ∈ d.cae ↔ l ∈ c.cae

/-- From `s`, where activation `a` is in focus, to `t`: the other cores and the other clusters are untouched, but for the lines
that an access of the save area used latest; of the other activations of the core only their standing changes; and of the activation in focus, if it is still there, the registers
outside `ds` stand. -/
structure StaysHome (ds : List Nat) (a : Activation) (s t : State) : Prop where
  focus   : t.focus = s.focus
  core    : ∀ k, k ≠ s.focus.core → t.core k = s.core k
  cluster : ∀ g, g ≠ s.curClu → SameCluster (s.cluster g) (t.cluster g)
  others  : ∀ c b, c ≠ s.focus.ctx → t.act? s.focus.core c = some b →
              ∃ o, s.act? s.focus.core c = some o ∧ b = { o with flow := b.flow }
  own     : ∀ b, t.cur? = some b → SameRegs ds a b

/-- Activation `a` is alone on core `k`, in context `c`, and runs outside a gang; the core is neither held nor owes its slot to
a hint (02 R13; 03 R49, R54; 23 R429). -/
structure Alone (s : State) (k c : Nat) (a : Activation) : Prop where
  alone : (s.core k).acts = [(c, a)]
  free  : (s.core k).lock = none ∧ (s.core k).dbg.halt = false ∧ (s.core k).dbg.want = none ∧
            (s.core k).given = false ∧ (s.core k).yielded ≠ some a.info.id
  runs  : a.flow.status = .running ∧ a.flow.gang = none ∧ a.flow.mark = false

/-- Activation `a` of core `k` is about to fetch: its buffers are empty, no hint and no loop is open, and its fetch position
lies below XB (02 R10 to R14; 07 R130). -/
structure AboutToFetch (s : State) (k c : Nat) (a : Activation) : Prop where
  alone   : Alone s k c a
  buffers : a.f.abuf = [] ∧ a.f.xbuf = [] ∧ a.f.seqHints = [] ∧ a.f.loops = []
  goes    : a.f.stop = .running ∧ a.f.wrapped = false ∧ 4 * a.f.pc.toNat < (s.core k).csr.xb.toNat

/-- The word `e`, with no hint before it, heads half `h` of activation `a` of core `k` and is the oldest that it has fetched;
none is as old (02 R13; 07 R130). -/
structure HeadStands (s : State) (k c : Nat) (a : Activation) (h : Half) (e : Entry) : Prop where
  alone  : Alone s k c a
  head   : (a.buf h).head? = some e
  oldest : ∀ h' x, x ∈ a.buf h' → (h' = h ∧ x = e) ∨ e.seq < x.seq
  older  : e.seq < a.f.nextSeq
  plain  : e.kind = .word ∧ e.hints = [] ∧ isHint e.word.toNat = false

/-- The turn of core `k` in `s`, whose fetch gives `f`, is `exec i` for the head of half `h` of context `c`: around it stand
only the fetch before, what the opening of a turn notes, and the note of the dispatch after (02 R13; 07 R131 to R134). The same
turn ends in a step, whether the agenda names it or a cycle of the part runs it. -/
def TurnRuns (s f : State) (k c : Nat) (h : Half) (i : Instr) : Prop :=
  let o := f.setCore k { f.core k with yielded := none, given := false }
  let g := o.noteLacks k
  let turn := g.closeTurn k { ctx := c, half := h, out := exec i (g.aim k c h) }
  o.starvedHead k = none → eligible (exec i (g.aim k c h)) = true →
    coreTurn k s = turn ∧
    step { s with agenda := .core k :: s.agenda } = andThen turn (fun t => .next (s.closeStep t)) ∧
    (s.agenda = [] → s.firstEffect s.pending = none →
      s.cores.filter (fun x => !x.2.acts.isEmpty) = [(k, s.core k)] →
      step s = andThen turn (fun t => .next (s.closeStep { t with clock := t.clock + 1 })))

/-- The word that activation `a` of core `k` fetches next. -/
def State.nextWord (s : State) (k : Nat) (a : Activation) : Nat :=
  let pa := lmBase k + 4 * a.f.pc.toNat
  (s.touch a.info.region pa false).natAt pa 4

/-- The half whose buffer takes a word (02 R11). -/
def halfOf (w : Nat) : Half := if isXWord w then .x else .a

/-- The CSRs of a core that only a privileged activation may write, but for the generator of stochastic rounding, which
CVTSR steps (06 R118). -/
def Csrs.guarded (c : Csrs) : Csrs := { c with xflags := 0, rng := 0 }

/-- The unit of LM or CM at `pa` holds what `region` last saw there: nothing is to be saved or read back (10 R199). -/
def Settles (s : State) (region pa : Nat) : Prop :=
  pa < 0xC000000000 ∨ 0xC810000000 ≤ pa ∨
    (((Sparse.get ({} : UnitRec) s.units (pa / 4096)).owner = none ∨
      (Sparse.get ({} : UnitRec) s.units (pa / 4096)).owner = some region) ∧
     (Sparse.get ({} : UnitRec) s.units (pa / 4096)).saved.contains region = false)

/-- The access `x` has a piece `p` at hand at its home: its packet has arrived there, it is under way, nothing holds or refuses
it, and the units of LM or CM that it lies in need no copying (12 R208; 10 R186, R199; 21 R389). -/
def AtHome (s : State) (idx : Nat) (x : Access) (p : Piece) : Prop :=
  ∃ q acc k, s.net[idx]? = some q ∧ s.arrived q = true ∧ q.body = .piece acc k ∧
    s.accs.find? (fun y => y.id == acc) = some x ∧ x.pieces[k]? = some p ∧ s.isRetired p.pa = false ∧
    s.pieceWaits x p = false ∧ (∀ b ∈ x.writes p, s.pinned b 1 = false ∧ s.codeOk x.core x.code b = true) ∧
    Settles s x.region p.pa ∧ Settles s x.region (p.pa + (p.len - 1))

end Machine

end Sys2Proof
end

