-- ==== Sys2Proof/Certificates/Slice0/Obligations.lean ====
section
/-! DEFINITION. What is claimed of the model: one proposition for each obligation. Statements about an instruction say where it
completes and in which state; the frames stand together at the end. -/

section

open Sys2Proof Sys2Proof.Machine

/-! ### The X-half: results (05, 13) -/

/-- R79 to R82: the additive, multiplying and dividing instructions with a register in A and B write these functions of
the operation width `n` and the operands `p` and `q`, read unsigned; `sext` reads them signed. -/
def Obligations.XArithmeticResults : Prop :=
  ∀ w d x y : Nat, ∀ r ∈ ([
      (.add w d x y, fun n p q => (p + q) % 2 ^ n),
      (.sub w d x y, fun n p q => (p + (2 ^ n - q)) % 2 ^ n),
      (.mul w d x y, fun n p q => p * q % 2 ^ n),
      (.mulh w d x y, fun n p q => toBits (sext p n * sext q n / 2 ^ n) n),
      (.mulhu w d x y, fun n p q => p * q / 2 ^ n % 2 ^ n),
      (.div w d x y, fun n p q => if q = 0 then 2 ^ n - 1 else toBits (Int.tdiv (sext p n) (sext q n)) n),
      (.divu w d x y, fun n p q => if q = 0 then 2 ^ n - 1 else p / q),
      (.rem w d x y, fun n p q => if q = 0 then p else toBits (sext p n - sext q n * Int.tdiv (sext p n) (sext q n)) n),
      (.remu w d x y, fun _ p q => if q = 0 then p else p - q * (p / q)),
      (.adds w d x y, fun n p q => toBits (satS (sext p n + sext q n) n) n),
      (.addus w d x y, fun n p q => toBits (satU ((p : Int) + q) n) n),
      (.subs w d x y, fun n p q => toBits (satS (sext p n - sext q n) n) n),
      (.subus w d x y, fun n p q => toBits (satU ((p : Int) - q) n) n)] : List (Instr × (Nat → Nat → Nat → Nat))),
    XRuns r.1 (widthOf w) (twoSrc (widthOf w) d x y) anyHead
      (fun _ c p q _ => { value := r.2 (widthOf w) p q, csr := c })

/-- R83, R84, R87, R92: minimum, maximum, bitwise, comparing, gathering and scattering instructions. -/
def Obligations.XLogicResults : Prop :=
  ∀ w d x y : Nat, ∀ r ∈ ([
      (.min w d x y, fun n p q => if sext p n ≤ sext q n then p else q),
      (.max w d x y, fun n p q => if sext p n ≤ sext q n then q else p),
      (.minu w d x y, fun _ p q => if p ≤ q then p else q),
      (.maxu w d x y, fun _ p q => if p ≤ q then q else p),
      (.and w d x y, fun _ p q => bAnd p q),
      (.or w d x y, fun _ p q => bOr p q),
      (.xor w d x y, fun _ p q => bXor p q),
      (.andn w d x y, fun n p q => bAnd p (2 ^ n - 1 - q)),
      (.seq w d x y, fun _ p q => ofBool (p == q)),
      (.sne w d x y, fun _ p q => ofBool (p != q)),
      (.slt w d x y, fun n p q => ofBool (decide (sext p n < sext q n))),
      (.sltu w d x y, fun _ p q => ofBool (decide (p < q))),
      (.sle w d x y, fun n p q => ofBool (decide (sext p n ≤ sext q n))),
      (.sleu w d x y, fun _ p q => ofBool (decide (p ≤ q))),
      (.bext w d x y, fun n p q => (gather p q n).1),
      (.bexts w d x y, fun n p q =>
        if (gather p q n).2 = 0 then 0 else toBits (sext (gather p q n).1 (gather p q n).2) n),
      (.bdep w d x y, fun n p q => scatter p q n)] : List (Instr × (Nat → Nat → Nat → Nat))),
    XRuns r.1 (widthOf w) (twoSrc (widthOf w) d x y) anyHead
      (fun _ c p q _ => { value := r.2 (widthOf w) p q, csr := c })

/-- R85: the shifts and rotates. The register forms take the count B mod w; the immediate forms take the immediate, which
must be below w: a larger one is reserved. -/
def Obligations.XShiftResults : Prop :=
  (∀ w d x y : Nat, ∀ r ∈ ([
      (.shl w d x y, fun n p k => p * 2 ^ k % 2 ^ n),
      (.shr w d x y, fun _ p k => p / 2 ^ k),
      (.sar w d x y, fun n p k => toBits (sext p n / 2 ^ k) n),
      (.rol w d x y, fun n p k => (p * 2 ^ k + p / 2 ^ (n - k)) % 2 ^ n)] : List (Instr × (Nat → Nat → Nat → Nat))),
    XRuns r.1 (widthOf w) (twoSrc (widthOf w) d x y) anyHead
      (fun _ c p q _ => { value := r.2 (widthOf w) p (q % widthOf w), csr := c })) ∧
  (∀ w d x i : Nat, ∀ r ∈ ([
      (.shli w d x i, fun n p k => p * 2 ^ k % 2 ^ n),
      (.shri w d x i, fun _ p k => p / 2 ^ k),
      (.sari w d x i, fun n p k => toBits (sext p n / 2 ^ k) n),
      (.roli w d x i, fun n p k => (p * 2 ^ k + p / 2 ^ (n - k)) % 2 ^ n)] : List (Instr × (Nat → Nat → Nat → Nat))),
    XRuns r.1 (widthOf w) (oneSrc (widthOf w) d x) (fun e => decide (e.immU 7 i < widthOf w))
      (fun e c p _ _ => { value := r.2 (widthOf w) p (e.immU 7 i % widthOf w), csr := c }) ∧
    ∀ (s : State) (a a1 : Activation) (va : Nat), Ready s .x a → widthOf w ≤ (a.headEntry .x).immU 7 i →
      XGo s a (oneSrc (widthOf w) d x (a.headEntry .x)) va 0 0 a1 a1 a1 →
      exec r.1 s = .next (s.takeTrap .x 0x01 (a.headEntry .x).word.toNat))

/-- R79, R84, R87, R89, R90, R91: the instructions of one source, those with an immediate (signed, narrowed to the
operation width), MOVI, and the extensions by a count n with 1 ≤ n < w. R81, R86, R88: MULW and MULWU write the range of
2w bits; FSHL and FSHR read it in A; SEL reads its destination. -/
def Obligations.XUnaryImmediateAndWideResults : Prop :=
  ((∀ w d x : Nat, ∀ r ∈ ([
       (.neg w d x, fun n p => (2 ^ n - p) % 2 ^ n),
       (.abs w d x, fun n p => if sext p n < 0 then (2 ^ n - p) % 2 ^ n else p),
       (.mov w d x, fun _ p => p),
       (.clz w d x, fun n p => countTop p n),
       (.ctz w d x, fun n p => countLow p n),
       (.popc w d x, fun n p => countOnes p n),
       (.brev w d x, fun n p => packFields 1 (splitFields 1 n p).reverse)] : List (Instr × (Nat → Nat → Nat))),
     XRuns r.1 (widthOf w) (oneSrc (widthOf w) d x) anyHead
       (fun _ c p _ _ => { value := r.2 (widthOf w) p, csr := c })) ∧
   (∀ w d x i : Nat, ∀ r ∈ ([
       (.addi w d x i, fun n p q => (p + q) % 2 ^ n),
       (.andi w d x i, fun _ p q => bAnd p q),
       (.ori w d x i, fun _ p q => bOr p q),
       (.xori w d x i, fun _ p q => bXor p q),
       (.seqi w d x i, fun _ p q => ofBool (p == q)),
       (.slti w d x i, fun n p q => ofBool (decide (sext p n < sext q n)))] : List (Instr × (Nat → Nat → Nat → Nat))),
     XRuns r.1 (widthOf w) (oneSrc (widthOf w) d x) anyHead
       (fun e c p _ _ => { value := r.2 (widthOf w) p (toBits (e.immS 7 i) (widthOf w)), csr := c })) ∧
   (∀ w d i : Nat, XRuns (.movi w d i) (widthOf w) (fun _ => { a := none, b := none, d := d, dw := widthOf w }) anyHead
       (fun e c _ _ _ => { value := toBits (e.immS 7 i) (widthOf w), csr := c })) ∧
   (∀ w d x i : Nat, ∀ r ∈ ([
       (.exts w d x i, fun n p k => toBits (sext p k) n),
       (.extz w d x i, fun _ p k => zext p k)] : List (Instr × (Nat → Nat → Nat → Nat))),
     XRuns r.1 (widthOf w) (oneSrc (widthOf w) d x) (fun e => e.immU 7 i != 0 && decide (e.immU 7 i < widthOf w))
       (fun e c p _ _ => { value := r.2 (widthOf w) p (e.immU 7 i), csr := c }))) ∧
  (∀ w d x y : Nat,
     XRuns (.mulw w d x y) (widthOf w) (fun e => { twoSrc (widthOf w) d x y e with dw := 2 * widthOf w, dWide := true })
       anyHead (fun _ c p q _ => { value := toBits (sext p (widthOf w) * sext q (widthOf w)) (2 * widthOf w), csr := c }) ∧
     XRuns (.mulwu w d x y) (widthOf w) (fun e => { twoSrc (widthOf w) d x y e with dw := 2 * widthOf w, dWide := true })
       anyHead (fun _ c p q _ => { value := p * q, csr := c }) ∧
     XRuns (.fshl w d x y) (2 * widthOf w)
       (fun _ => { a := some { field := x, width := 2 * widthOf w, wide := true }
                   b := some { field := y, width := widthOf w }, d := d, dw := widthOf w }) anyHead
       (fun _ c p q _ => { value := p * 2 ^ (q % (2 * widthOf w)) / 2 ^ widthOf w % 2 ^ widthOf w, csr := c }) ∧
     XRuns (.fshr w d x y) (2 * widthOf w)
       (fun _ => { a := some { field := x, width := 2 * widthOf w, wide := true }
                   b := some { field := y, width := widthOf w }, d := d, dw := widthOf w }) anyHead
       (fun _ c p q _ => { value := p / 2 ^ (q % (2 * widthOf w)) % 2 ^ widthOf w, csr := c }) ∧
     XRuns (.sel w d x y) (widthOf w)
       (fun e => { twoSrc (widthOf w) d x y e with
         c := some { field := d, width := widthOf w, wide := true }, dWide := true }) anyHead
       (fun _ c p q z => { value := if z ≠ 0 then p else q, csr := c }))

/-- R93, R94, R95: the packed instructions, lane by lane, and RMAXU; `l` is the lane width. -/
def Obligations.PackedResults : Prop :=
  ∀ w d x y : Nat, ∀ r ∈ ([
      (4, .paddL4 w d x y, .psubL4 w d x y, .pmaxuL4 w d x y, .pminuL4 w d x y, .pmaxsL4 w d x y, .pminsL4 w d x y,
        .paddssL4 w d x y, .rmaxuL4 w d x y),
      (8, .paddL8 w d x y, .psubL8 w d x y, .pmaxuL8 w d x y, .pminuL8 w d x y, .pmaxsL8 w d x y, .pminsL8 w d x y,
        .paddssL8 w d x y, .rmaxuL8 w d x y),
      (16, .paddL16 w d x y, .psubL16 w d x y, .pmaxuL16 w d x y, .pminuL16 w d x y, .pmaxsL16 w d x y,
        .pminsL16 w d x y, .paddssL16 w d x y, .rmaxuL16 w d x y),
      (32, .paddL32 w d x y, .psubL32 w d x y, .pmaxuL32 w d x y, .pminuL32 w d x y, .pmaxsL32 w d x y,
        .pminsL32 w d x y, .paddssL32 w d x y, .rmaxuL32 w d x y)] :
      List (Nat × Instr × Instr × Instr × Instr × Instr × Instr × Instr × Instr)),
    let l := r.1
    let runs (i : Instr) (f : Nat → Nat → Nat → Nat) : Prop :=
      XRuns i (widthOf w) (plainSrc (widthOf w) d x y) anyHead (fun _ c p q _ => { value := f (widthOf w) p q, csr := c })
    runs r.2.1 (lanewise l (fun p q => (p + q) % 2 ^ l)) ∧
    runs r.2.2.1 (lanewise l (fun p q => (p + (2 ^ l - q)) % 2 ^ l)) ∧
    runs r.2.2.2.1 (lanewise l (fun p q => if p ≤ q then q else p)) ∧
    runs r.2.2.2.2.1 (lanewise l (fun p q => if p ≤ q then p else q)) ∧
    runs r.2.2.2.2.2.1 (lanewise l (fun p q => if sext p l ≤ sext q l then q else p)) ∧
    runs r.2.2.2.2.2.2.1 (lanewise l (fun p q => if sext p l ≤ sext q l then p else q)) ∧
    runs r.2.2.2.2.2.2.2.1 (lanewise l (fun p q => toBits (satS (sext p l + sext q l) l) l)) ∧
    runs r.2.2.2.2.2.2.2.2 (fun n p q =>
      ((splitFields l (n / l) p) ++ (splitFields l (n / l) q)).foldl (fun m v => if m ≤ v then v else m) 0)

/-- R242 to R253, R259: the floating-point instructions apply one function to each lane: the operations of Flags.lean in
the instruction's format, rounded as HMOD says. Flags of the lanes are joined and land with the result. -/
def Obligations.FloatResults : Prop :=
  (∀ w d x y : Nat, ∀ r ∈ ([
      (.fadd w d x y, fp32, fun m sat p q _ => fAdd fp32 m sat p q),
      (.fsub w d x y, fp32, fun m sat p q _ => fSub fp32 m sat p q),
      (.fmul w d x y, fp32, fun m sat p q _ => fMul fp32 m sat p q),
      (.fmulz w d x y, fp32, fun m sat p q _ => fMulZ fp32 m sat p q),
      (.fmin w d x y, fp32, fun _ _ p q _ => fMin fp32 p q),
      (.fmax w d x y, fp32, fun _ _ p q _ => fMax fp32 p q),
      (.fcmpeq w d x y, fp32, fun _ _ p q _ => fCompare fp32 true (fun i j => i == j) p q),
      (.fcmplt w d x y, fp32, fun _ _ p q _ => fCompare fp32 false (fun i j => decide (i < j)) p q),
      (.fcmple w d x y, fp32, fun _ _ p q _ => fCompare fp32 false (fun i j => decide (i ≤ j)) p q),
      (.badd w d x y, bf16, fun m sat p q _ => fAdd bf16 m sat p q),
      (.bmul w d x y, bf16, fun m sat p q _ => fMul bf16 m sat p q),
      (.bmin w d x y, bf16, fun _ _ p q _ => fMin bf16 p q),
      (.bmax w d x y, bf16, fun _ _ p q _ => fMax bf16 p q)] : List (Instr × Fmt × LaneFn)),
    XRuns r.1 (widthOf w) (plainSrc (widthOf w) d x y) anyHead (laneRes (widthOf w) r.2.1 r.2.2)) ∧
  (∀ w d x y : Nat, ∀ r ∈ ([
      (.fma w d x y, fp32, fMulAdd fp32), (.bfma w d x y, bf16, fMulAdd bf16),
      (.scacc w d x y, fp32, fScale)] : List (Instr × Fmt × LaneFn)),
    XRuns r.1 (widthOf w) (fun e => { plainSrc (widthOf w) d x y e with
        c := some { field := d, width := widthOf w, wide := true }, dWide := true }) anyHead
      (laneRes (widthOf w) r.2.1 r.2.2)) ∧
  (∀ w d x : Nat, ∀ r ∈ ([
      (.frcp w d x, fun m sat p _ _ => fRcp fp32 m sat p), (.frsq w d x, fun m sat p _ _ => fRsq fp32 m sat p),
      (.fexp2 w d x, fun m sat p _ _ => fExp2 fp32 m sat p), (.flog2 w d x, fun m sat p _ _ => fLog2 fp32 m sat p),
      (.fclass w d x, fun _ _ p _ _ => fClass fp32 p)] : List (Instr × LaneFn)),
    XRuns r.1 (widthOf w) (fun e => { plainSrc (widthOf w) d x 0 e with b := none }) anyHead
      (laneRes (widthOf w) fp32 r.2))

/-- R248, R251, R252: FMULZ is FMUL but for a factor of zero, which gives a zero with the exclusive or of the signs and no
flag; the compares write 1 or 0 with -0 equal to +0 and NaN in no relation, FCMPEQ raising NV for a signalling NaN only
and the others for any; FCLASS writes one class bit and raises nothing. -/
def Obligations.FloatRules : Prop :=
  let nan (p : Nat) : Prop := fld p 23 8 = 255 ∧ fld p 0 23 ≠ 0
  let snan (p : Nat) : Prop := nan p ∧ bitAt p 22 = false
  let key (p : Nat) : Int := if bitAt p 31 then -((p % 2 ^ 31 : Nat) : Int) else (p % 2 ^ 31 : Nat)
  let compare (nv : Nat → Nat → Prop) [∀ p q, Decidable (nv p q)] (rel : Int → Int → Bool) (p q : Nat) : FRes :=
    { code := if nan p ∨ nan q then 0 else ofBool (rel (key p) (key q)), flags := if nv p q then 1 else 0 }
  (∀ w d x y : Nat,
    XRuns (.fmulz w d x y) (widthOf w) (plainSrc (widthOf w) d x y) anyHead
      (laneRes (widthOf w) fp32 (fun m sat p q _ =>
        if p % 2 ^ 31 = 0 ∨ q % 2 ^ 31 = 0 then { code := if bitAt p 31 = bitAt q 31 then 0 else 2 ^ 31, flags := 0 }
        else fMul fp32 m sat p q)) ∧
    XRuns (.fcmpeq w d x y) (widthOf w) (plainSrc (widthOf w) d x y) anyHead
      (laneRes (widthOf w) fp32 (fun _ _ p q _ => compare (fun i j => snan i ∨ snan j) (fun i j => i == j) p q)) ∧
    XRuns (.fcmplt w d x y) (widthOf w) (plainSrc (widthOf w) d x y) anyHead
      (laneRes (widthOf w) fp32 (fun _ _ p q _ => compare (fun i j => nan i ∨ nan j) (fun i j => decide (i < j)) p q)) ∧
    XRuns (.fcmple w d x y) (widthOf w) (plainSrc (widthOf w) d x y) anyHead
      (laneRes (widthOf w) fp32 (fun _ _ p q _ => compare (fun i j => nan i ∨ nan j) (fun i j => decide (i ≤ j)) p q))) ∧
  (∀ w d x : Nat, XRuns (.fclass w d x) (widthOf w) (fun e => { plainSrc (widthOf w) d x 0 e with b := none }) anyHead
    (laneRes (widthOf w) fp32 (fun _ _ p _ _ =>
      let e := fld p 23 8
      let m := fld p 0 23
      let neg := bitAt p 31
      { code := 2 ^ (if e = 255 ∧ m ≠ 0 then (if bitAt p 22 then 9 else 8)
          else if e = 255 then (if neg then 0 else 7)
          else if e ≠ 0 then (if neg then 1 else 6)
          else if m ≠ 0 then (if neg then 2 else 5)
          else (if neg then 3 else 4)), flags := 0 })))

/-- R253 to R258: RADDF sums its lanes in the fixed tree; CVT and CVTSR convert lane by lane, CVTSR with one word of the
core's generator for each lane. -/
def Obligations.ReductionAndConversionResults : Prop :=
  (∀ w d x : Nat, XRuns (.raddf w d x) (widthOf w) (fun e => { plainSrc (widthOf w) d x 0 e with b := none }) anyHead
    (fun e c p _ _ =>
      let q := fTree (e.rounding false).1 (e.rounding false).2 (splitFields 32 (widthOf w / 32) p)
      { value := q.code, flags := q.flags, csr := c })) ∧
  (∀ w d x t u : Nat,
    let n := widthOf w / max (fmtWidth u) (fmtWidth t)
    let op : XOp := { a := some { field := x, width := n * fmtWidth u }, b := none, d := d, dw := n * fmtWidth t }
    XRuns (.cvt w d x t u) (n * fmtWidth u) (fun _ => op) anyHead (fun e c p _ _ =>
      let l := (splitFields (fmtWidth u) n p).map (fun q =>
        convert t u (e.rounding (defaultSat t)).1 (e.rounding (defaultSat t)).2 q)
      { value := packFields (fmtWidth t) (l.map (fun q => q.code)), flags := flagsOf l, csr := c }) ∧
    XRuns (.cvtsr w d x t u) (n * fmtWidth u) (fun _ => op) anyHead (fun e c p _ _ =>
      let l := convertSR t u (e.rounding (defaultSat t)).2 c.rng (splitFields (fmtWidth u) n p)
      { value := packFields (fmtWidth t) (l.1.map (fun q => q.code)), flags := flagsOf l.1, csr := { c with rng := l.2 } }))

/-! ### The A-half: registers, capabilities and memory (06) -/

/-- R31, R100: the integer instructions read the low 64 bits of their sources and write 64 bits, untagged and
zero-extended; AMOV copies 128 bits and the tag. A shift by 64 or more is reserved. -/
def Obligations.ARegisterResults : Prop :=
  (∀ d x y : Nat, ∀ r ∈ ([
      (.aadd d x y, fun p q => (p + q) % 2 ^ 64),
      (.asub d x y, fun p q => (p + (2 ^ 64 - q)) % 2 ^ 64),
      (.amul d x y, fun p q => p * q % 2 ^ 64),
      (.aand d x y, bAnd), (.aor d x y, bOr), (.axor d x y, bXor),
      (.aslt d x y, fun p q => ofBool (decide (sext p 64 < sext q 64))),
      (.asltu d x y, fun p q => ofBool (decide (p < q)))] : List (Instr × (Nat → Nat → Nat))),
    RegRuns r.1 [x, y] d anyHead (fun a _ => plain64 (r.2 (a.lo x) (a.lo y)))) ∧
  (∀ d x i : Nat, RegRuns (.aaddi d x i) [x] d anyHead
    (fun a e => plain64 ((a.lo x + toBits (e.immS 14 i) 64) % 2 ^ 64))) ∧
  (∀ d x i : Nat, ∀ r ∈ ([
      (.ashli d x i, fun p k => p * 2 ^ k % 2 ^ 64),
      (.ashri d x i, fun p k => p / 2 ^ k),
      (.asari d x i, fun p k => toBits (sext p 64 / 2 ^ k) 64)] : List (Instr × (Nat → Nat → Nat))),
    RegRuns r.1 [x] d (fun e => decide (e.immU 14 i < 64)) (fun a e => plain64 (r.2 (a.lo x) (e.immU 14 i))) ∧
    ∀ (s : State) (a : Activation), Ready s .a a → Readable a [x] → 64 ≤ (a.headEntry .a).immU 14 i →
      exec r.1 s = .next (s.takeTrap .a 0x01 (a.headEntry .a).word.toNat)) ∧
  (∀ d i : Nat, RegRuns (.amovi d i) [] d anyHead (fun _ e => plain64 (toBits (e.immS 14 i) 64)) ∧
    RegRuns (.aupi d i) [] d anyHead (fun _ e => plain64 (toBits (4 * e.wpc.toNat + e.immS 14 i) 64))) ∧
  (∀ d x : Nat, RegRuns (.amov d x) [x] d anyHead (fun a _ => a.reg x)) ∧
  ∀ (a : Activation) (seq d r : Nat) (v : AReg), r ≠ d → (a.writeReg seq d v).reg r = a.reg r

/-- R102: what CBASE, CLEN and CPERM derive from a capability `c` and the low 64 bits `k` of the second operand, field by
field, and the tag of the result, which needs a tagged source; and that a derivation never widens bounds or adds a
permission, but for LCL, which CPERM may set. -/
def Obligations.DerivationResults : Prop :=
  (∀ d x y : Nat,
    RegRuns (.cbase d x y) [x, y] d anyHead (fun a _ => capBase (a.reg x) (a.lo y)) ∧
    RegRuns (.clen d x y) [x, y] d anyHead (fun a _ => capLen (a.reg x) (a.lo y)) ∧
    RegRuns (.cperm d x y) [x, y] d anyHead (fun a _ => capPerm (a.reg x) (a.lo y))) ∧
  (∀ (c : AReg) (k : Nat),
    ((capBase c k).base = (c.base + k) % 2 ^ 56 ∧ (capBase c k).topField = c.topField ∧
      fld (capBase c k).data.toNat 112 16 = fld c.data.toNat 112 16 ∧
      ((capBase c k).tag = true ↔ c.tag = true ∧ c.base + k ≤ c.top ∧ c.base + k < 2 ^ 56)) ∧
    ((capLen c k).base = c.base ∧ (capLen c k).topField = (c.base + k) % 2 ^ 56 ∧
      fld (capLen c k).data.toNat 112 16 = fld c.data.toNat 112 16 ∧
      ((capLen c k).tag = true ↔ c.tag = true ∧ c.base + k ≤ c.top)) ∧
    ((capPerm c k).base = c.base ∧ (capPerm c k).topField = c.topField ∧
      fld (capPerm c k).data.toNat 124 4 = fld c.data.toNat 124 4 ∧
      (∀ b, b < 10 → b ≠ 6 → (capPerm c k).perm b = (c.perm b && bitAt k b)) ∧
      (capPerm c k).perm 6 = (c.perm 6 || bitAt k 6) ∧ (capPerm c k).perm 10 = false ∧ (capPerm c k).perm 11 = false ∧
      (capPerm c k).tag = c.tag)) ∧
  (∀ (c : AReg) (k : Nat), ∀ r ∈ [capBase c k, capLen c k, capPerm c k], r.tag = true →
    c.tag = true ∧ c.base ≤ r.base ∧ (c.base ≤ c.top → r.top ≤ c.top) ∧
      ∀ b, b ≠ permLCL → r.perm b = true → c.perm b = true)

/-- R101, R103: APUSHQ fills an entry of a load queue with 128 bits, the tag dropped; APOPQ pops the head of XAQ into a
register; CGET writes one field of a capability, tagged or not, and CCLR copies its bits without the tag. -/
def Obligations.QueueAndFieldTransfers : Prop :=
  (∀ q x : Nat, ARuns (.apushq q x) (fun _ a _ => Readable a [x] ∧ (a.ldq q).length < 16)
    (fun s a _ => s.setCur (a.setLdq q (a.ldq q ++ [{ data := (a.reg x).data }])))) ∧
  (∀ (d : Nat) (v : Word64) (rest : List Word64), ARuns (.apopq d) (fun _ a _ => a.q.xaq = v :: rest)
    (fun s a e => s.setCur (({ a with q := { a.q with xaq := rest } } : Activation).writeReg e.seq d (plain64 v.toNat)))) ∧
  (∀ d x f : Nat,
    RegRuns (.cclr d x) [x] d anyHead (fun a _ => { data := (a.reg x).data, tag := false }) ∧
    RegRuns (.cget d x f) [x] d anyHead (fun a _ => plain64 (match f with
      | 0 => (a.reg x).base
      | 1 => (a.reg x).top
      | 2 => (a.reg x).perms
      | 3 => ofBool (a.reg x).tag
      | _ => ((a.reg x).top + 2 ^ 64 - (a.reg x).base) % 2 ^ 64)))

/-- R105, R107: a load whose capability admits it reserves its queue entry or register and sends its access; the value
comes with the answer; the access keeps what the register held, which a late fault restores (R108, R437). The offset of
LDX adds the entry of XAQ that it pops; that of LDNIB counts nibbles. -/
def Obligations.LoadsComplete : Prop :=
  ∀ q d c o z sg r p : Nat,
    ARuns (.ld q c o z sg r p)
      (fun s a _ => Sends s a ∧ (a.ldq q).length < 16 ∧ Readable a [c, o] ∧
        Admits (a.reg c) [permLD] (a.lo o) (2 ^ z) 1 (2 ^ z))
      (fun s a e => s.emitAcc (a.setLdq q (a.ldq q ++ [{ wait := s.nextId }]))
        (s.newAcc e (.load q (8 * 2 ^ z) (sg == 1)) ((a.reg c).base + a.lo o) (a.lo o) false (r == 1) (r == 2))) ∧
    (∀ (v : Word64) (rest : List Word64), ARuns (.ldx q c o z sg r p)
      (fun s a _ => a.q.xaq = v :: rest ∧ Sends s a ∧ (a.ldq q).length < 16 ∧ Readable a [c, o] ∧
        Admits (a.reg c) [permLD] ((a.lo o + v.toNat) % 2 ^ 64) (2 ^ z) 1 (2 ^ z))
      (fun s a e => s.emitAcc
        ((({ a with q := { a.q with xaq := rest } } : Activation)).setLdq q (a.ldq q ++ [{ wait := s.nextId }]))
        { s.newAcc e (.load q (8 * 2 ^ z) (sg == 1)) ((a.reg c).base + (a.lo o + v.toNat) % 2 ^ 64)
            ((a.lo o + v.toNat) % 2 ^ 64) false (r == 1) (r == 2) with popXaq := [v] })) ∧
    ARuns (.lda d c o z sg r p)
      (fun s a _ => Sends s a ∧ Readable a [c, o] ∧ Admits (a.reg c) [permLD] (a.lo o) (2 ^ z) 1 (2 ^ z))
      (fun s a e => s.emitAcc (a.awaitReg e.seq d s.nextId)
        { s.newAcc e (.loadReg d (8 * 2 ^ z) (sg == 1)) ((a.reg c).base + a.lo o) (a.lo o) false (r == 1) (r == 2) with
          prev := a.prevReg e.seq d }) ∧
    ARuns (.ldc d c o r p)
      (fun s a _ => Sends s a ∧ Readable a [c, o] ∧ Admits (a.reg c) [permLD, permLDC] (a.lo o) 16 1 16)
      (fun s a e => s.emitAcc (a.awaitReg e.seq d s.nextId)
        { s.newAcc e (.loadCap d) ((a.reg c).base + a.lo o) (a.lo o) false (r == 1) (r == 2) with
          prev := a.prevReg e.seq d }) ∧
    ARuns (.ldnib q c o z sg)
      (fun s a _ => Sends s a ∧ (a.ldq q).length < 16 ∧ Readable a [c, o] ∧
        Admits (a.reg c) [permLD] (a.lo o) (2 * 2 ^ z) 2 1)
      (fun s a e => s.emitAcc (a.setLdq q (a.ldq q ++ [{ wait := s.nextId }]))
        (s.newAcc e (.loadNib q (2 * 2 ^ z) (a.lo o % 2) (sg == 1)) ((a.reg c).base + a.lo o / 2) (a.lo o)
          false false false))

/-- R105 to R107, R109: a store whose capability admits it takes its value from the head of SDQ or from a register and
sends its access; with ordering 1 it waits for what a release waits for. An STM with an empty mask sends nothing. -/
def Obligations.StoresComplete : Prop :=
  ∀ (d c o m z r p : Nat) (v : Word128) (rest : List Word128),
    ARuns (.st c o z r p)
      (fun s a _ => Sends s a ∧ a.q.sdq = v :: rest ∧ Readable a [c, o] ∧
        Admits (a.reg c) [permST] (a.lo o) (2 ^ z) 1 (2 ^ z) ∧ Ordered s a r p)
      (fun s a e => s.emitAcc { a with q := { a.q with sdq := rest } }
        { s.newAcc e (.store v (fullMask (2 ^ z))) ((a.reg c).base + a.lo o) (a.lo o) ((a.reg c).perm permCODE) false
            (r == 2) with popSdq := [v] }) ∧
    (∀ (u : Word64) (xs : List Word64), ARuns (.stx c o z r p)
      (fun s a _ => a.q.xaq = u :: xs ∧ Sends s a ∧ a.q.sdq = v :: rest ∧ Readable a [c, o] ∧
        Admits (a.reg c) [permST] ((a.lo o + u.toNat) % 2 ^ 64) (2 ^ z) 1 (2 ^ z) ∧ Ordered s a r p)
      (fun s a e => s.emitAcc { a with q := { a.q with sdq := rest, xaq := xs } }
        { s.newAcc e (.store v (fullMask (2 ^ z))) ((a.reg c).base + (a.lo o + u.toNat) % 2 ^ 64)
            ((a.lo o + u.toNat) % 2 ^ 64) ((a.reg c).perm permCODE) false (r == 2) with
          popSdq := [v], popXaq := [u] })) ∧
    ARuns (.stm m c o r p)
      (fun s a _ => Sends s a ∧ a.q.sdq = v :: rest ∧ Readable a [c, o, m] ∧
        Admits (a.reg c) [permST] (a.lo o) (maskSpan (fld (a.reg m).data.toNat 0 16)) 1 1 ∧ Ordered s a r p)
      (fun s a e =>
        let mask := fld (a.reg m).data.toNat 0 16
        let popped : Activation := { a with q := { a.q with sdq := rest } }
        if mask = 0 then s.setCur popped
        else s.emitAcc popped { s.newAcc e (.store v (BitVec.ofNat 16 mask)) ((a.reg c).base + a.lo o) (a.lo o)
          ((a.reg c).perm permCODE) false (r == 2) with popSdq := [v] }) ∧
    ARuns (.sta d c o z r p)
      (fun s a _ => Sends s a ∧ Readable a [c, o, d] ∧ Admits (a.reg c) [permST] (a.lo o) (2 ^ z) 1 (2 ^ z) ∧
        Ordered s a r p)
      (fun s a e => s.emitAcc a (s.newAcc e (.store (a.reg d).data (fullMask (2 ^ z))) ((a.reg c).base + a.lo o) (a.lo o)
        ((a.reg c).perm permCODE) false (r == 2))) ∧
    ARuns (.stc d c o r p)
      (fun s a _ => Sends s a ∧ Readable a [c, o, d] ∧ Admits (a.reg c) [permST, permSTC] (a.lo o) 16 1 16 ∧
        (a.reg d).tag = true ∧ Ordered s a r p)
      (fun s a e => s.emitAcc a (s.newAcc e (.storeCap (a.reg d).data) ((a.reg c).base + a.lo o) (a.lo o)
        ((a.reg c).perm permCODE) false false)) ∧
    ARuns (.stnib c o z)
      (fun s a _ => Sends s a ∧ a.q.sdq = v :: rest ∧ Readable a [c, o] ∧
        Admits (a.reg c) [permST] (a.lo o) (2 * 2 ^ z) 2 1)
      (fun s a e => s.emitAcc { a with q := { a.q with sdq := rest } }
        { s.newAcc e (.storeNib (2 * 2 ^ z) (a.lo o % 2) v) ((a.reg c).base + a.lo o / 2) (a.lo o)
            ((a.reg c).perm permCODE) false false with popSdq := [v] })

/-- R110 to R113: AMO and AMOCAS send their access and make their register wait; the fences complete once the waits of
their kind are over, and change nothing; XFENCE has then dropped the translations of its root within its scope. -/
def Obligations.AtomicsAndFencesComplete : Prop :=
  ∀ d x b f z o p : Nat,
    ARuns (.amo d x b f z o p)
      (fun s a _ => Sends s a ∧ Readable a [x, b, d] ∧ Admits (a.reg x) [permAMO] (a.lo b) (4 * 2 ^ z) 1 (4 * 2 ^ z) ∧
        Ordered s a o p)
      (fun s a e => s.emitAcc (a.awaitReg e.seq d s.nextId)
        { s.newAcc e (.amo d f (32 * 2 ^ z) (BitVec.ofNat 64 (a.lo d))) ((a.reg x).base + a.lo b) (a.lo b)
            ((a.reg x).perm permCODE) (o == 1) false with prev := a.prevReg e.seq d }) ∧
    ARuns (.amocas d x b z o p)
      (fun s a _ => Sends s a ∧ Readable a [x, b, 2 * d, 2 * d + 1] ∧
        Admits (a.reg x) [permAMO] (a.lo b) (4 * 2 ^ z) 1 (4 * 2 ^ z) ∧ Ordered s a o p)
      (fun s a e => s.emitAcc (a.awaitReg e.seq (2 * d) s.nextId)
        { s.newAcc e (.amocas (2 * d) (32 * 2 ^ z) (BitVec.ofNat 64 (a.lo (2 * d))) (BitVec.ofNat 64 (a.lo (2 * d + 1))))
            ((a.reg x).base + a.lo b) (a.lo b) ((a.reg x).perm permCODE) (o == 1) false with
          prev := a.prevReg e.seq (2 * d) }) ∧
    ARuns (.fenceAcq p) (fun s a _ => Orderly s a ∧ s.acquired a.info.id = true) (fun s _ _ => s) ∧
    ARuns (.fenceRel p) (fun s a _ => Orderly s a ∧ Ordered s a 1 p) (fun s _ _ => s) ∧
    ARuns (.fenceAr p) (fun s a _ => Orderly s a ∧ s.acquired a.info.id = true ∧ Ordered s a 1 p) (fun s _ _ => s) ∧
    ARuns (.xfence p)
      (fun s a e => Orderly s a ∧ a.info.priv = true ∧ Ordered s a 1 p ∧
        s.translatedInScope p s.focus.core (s.rootOf a.info.region) = false ∧
        s.wcInScope p s.focus.core (s.rootOf a.info.region) = false ∧
        (s.staleInScope p s.focus.core (s.rootOf a.info.region) = false ∨ e.hints = []))
      (fun s a _ => s.dropRoot p s.focus.core (s.rootOf a.info.region)) ∧
    (∀ (s : State) (a : Activation), Ready s .a a → Orderly s a → a.info.priv = true → Ordered s a 1 p →
      (a.headEntry .a).taken = 0 → s.staleInScope p s.focus.core (s.rootOf a.info.region) = true →
      (s.translatedInScope p s.focus.core (s.rootOf a.info.region) = true ∨
        s.wcInScope p s.focus.core (s.rootOf a.info.region) = true ∨ (a.headEntry .a).hints ≠ []) →
      exec (.xfence p) s = .next { (s.dropRoot p s.focus.core (s.rootOf a.info.region)).wcFlushRoot p s.focus.core
        (s.rootOf a.info.region) with verdict := .waiting })

/-- R114, R115: with a count of 0, BMOV and REP do nothing. BMOV otherwise sends the load of one chunk of at most 16 bytes
and keeps its place; no more than eight chunks are in flight, and of ranges that overlap only one. That a chunk's load is
sent once the data of the chunk before has come, and that chunks go in ascending order, is the model's choice of log 26.
REP sends one element, advances its offset and count, and keeps its place unless it was the last. -/
def Obligations.BlockMovesAndRepeats : Prop :=
  (∀ d x b : Nat, ARuns (.bmov d x b) (fun s a _ => Sends s a ∧ Readable a [d, d + 1, x, x + 1, b] ∧ a.lo b = 0)
    (fun s _ _ => s)) ∧
  (∀ (d x b : Nat) (s : State) (a : Activation), Ready s .a a → Sends s a → Readable a [d, d + 1, x, x + 1, b] →
    0 < a.lo b → Admits (a.reg x) [permLD] (a.lo (x + 1)) (min 16 (a.lo b)) 1 1 →
    Admits (a.reg d) [permST] (a.lo (d + 1)) (min 16 (a.lo b)) 1 1 →
    let e := a.headEntry .a
    let m := a.bmovTotal e.seq (a.lo b)
    s.chunksOut a.info.id e.seq < 8 →
    (overlaps ((a.reg x).base + a.lo (x + 1) + a.lo b - m) m ((a.reg d).base + a.lo (d + 1) + a.lo b - m) m = true →
      s.chunksOut a.info.id e.seq = 0) →
    exec (.bmov d x b) s = .next ((s.emitAcc { a with flow := { a.flow with hold := some s.nextId, whole := some (e.seq, m) } }
      (s.newAcc (a.headEntry .a) (.chunk ((a.reg d).base + a.lo (d + 1)) (a.lo (d + 1)) (min 16 (a.lo b))
        ((a.reg d).perm permCODE)) ((a.reg x).base + a.lo (x + 1)) (a.lo (x + 1)) false false false)).dispatched
      (a.headEntry .a))) ∧
  (∀ q x b z sg t : Nat, ARuns (.rep q x b z sg t)
    (fun s a _ => Sends s a ∧ Readable a [x, x + 1, b, b + 1] ∧ a.lo b = 0) (fun s _ _ => s)) ∧
  (∀ (q x b z sg : Nat) (s : State) (a : Activation), Ready s .a a → Sends s a → Readable a [x, x + 1, b, b + 1] →
    0 < a.lo b → (a.ldq q).length < 16 → Admits (a.reg x) [permLD] (a.lo (x + 1)) (2 ^ z) 1 (2 ^ z) →
    let moved := (a.setReg (x + 1) (plain64 (a.lo (x + 1) + a.lo (b + 1)))).setReg b (plain64 (a.lo b - 1))
    let t := s.emitAcc (moved.setLdq q (moved.ldq q ++ [{ wait := s.nextId }]))
      { s.newAcc (a.headEntry .a) (.load q (8 * 2 ^ z) (sg == 1)) ((a.reg x).base + a.lo (x + 1)) (a.lo (x + 1)) false
          false false with back := [(x + 1, a.reg (x + 1)), (b, a.reg b)] }
    exec (.rep q x b z sg 0) s = .next (if a.lo b = 1 then t.finish .a else t.dispatched (a.headEntry .a))) ∧
  (∀ (q x b z sg : Nat) (v : Word128) (rest : List Word128) (s : State) (a : Activation), Ready s .a a → Sends s a →
    Readable a [x, x + 1, b, b + 1] → 0 < a.lo b → a.q.sdq = v :: rest →
    Admits (a.reg x) [permST] (a.lo (x + 1)) (2 ^ z) 1 (2 ^ z) →
    let moved := (a.setReg (x + 1) (plain64 (a.lo (x + 1) + a.lo (b + 1)))).setReg b (plain64 (a.lo b - 1))
    let t := s.emitAcc (({ moved with q := { moved.q with sdq := rest } } : Activation).unput (a.headEntry .a).seq)
      { s.newAcc (a.headEntry .a) (.store v (fullMask (2 ^ z))) ((a.reg x).base + a.lo (x + 1)) (a.lo (x + 1))
          ((a.reg x).perm permCODE) false false with back := [(x + 1, a.reg (x + 1)), (b, a.reg b)], popSdq := [v] }
    exec (.rep q x b z sg 1) s = .next (if a.lo b = 1 then t.finish .a else t.dispatched (a.headEntry .a)))

/-! ### CSRs and control flow (06) -/

/-- R117, R118: CSRR brings the value of an assigned CSR; CSRW writes a CSR that may be written, in a privileged
activation or a CSR that is not protected, through a tagged capability with permission CSR. R118, R117: which CSR numbers
are assigned, read-only and protected; CSRR of an unassigned number and CSRW of an unassigned or read-only one raise
ILLEGAL_OPERAND with the number, CSRW behind its checks of the tag (CAP_TAG) and of permission CSR (CAP_PERM), both with
the register number. -/
def Obligations.CsrAccess : Prop :=
  ((∀ d i : Nat, ARuns (.csrr d i)
     (fun s _ e => s.xDrained e.seq = true ∧ e.immU 14 i < 0x1000 ∧ csrAssigned (e.immU 14 i) = true)
     (fun s a e => s.setCur (a.writeReg e.seq d (plain64 (s.csrRead s.focus.core (e.immU 14 i)))))) ∧
   (∀ d x i : Nat, ARuns (.csrw d x i)
     (fun s a e => s.xDrained e.seq = true ∧ Readable a [d, x] ∧ e.immU 14 i < 0x1000 ∧
       (a.info.priv = true ∨ csrProtected (e.immU 14 i) = false) ∧ (a.reg d).tag = true ∧
       (a.reg d).perm permCSR = true ∧ csrAssigned (e.immU 14 i) = true ∧ csrReadOnly (e.immU 14 i) = false ∧
       (e.immU 14 i = 0x003 → xbOk (a.lo x) = true ∧ s.ownWritesDone s.focus.core a.info.id = true))
     (fun s a e => s.csrWrite s.focus.core (e.immU 14 i) (a.lo x)))) ∧
  ((∀ n, (csrAssigned n = true ↔ n ≤ 0x00D ∨ (0x010 ≤ n ∧ n ≤ 0x0FF)) ∧
     (csrAssigned n = true ∧ csrReadOnly n = true ↔ n ≤ 0x002 ∨ n = 0x00C ∨ n = 0x00D ∨ (0x040 ≤ n ∧ n ≤ 0x04F)) ∧
     (csrAssigned n = true ∧ csrReadOnly n = false ∧ csrProtected n = false ↔ n = 0x007)) ∧
   (∀ (d i : Nat) (s : State) (a : Activation), Ready s .a a → s.xDrained (a.headEntry .a).seq = true →
     (a.headEntry .a).immU 14 i < 0x1000 → csrAssigned ((a.headEntry .a).immU 14 i) = false →
     exec (.csrr d i) s = .next (s.takeTrap .a 0x02 ((a.headEntry .a).immU 14 i))) ∧
   ∀ (d x i : Nat) (s : State) (a : Activation), Ready s .a a → s.xDrained (a.headEntry .a).seq = true →
     Readable a [d, x] → (a.headEntry .a).immU 14 i < 0x1000 →
     ((a.headEntry .a).immU 14 i = 0x003 → s.ownWritesDone s.focus.core a.info.id = true) →
     let n := (a.headEntry .a).immU 14 i
     (a.info.priv = true ∨ csrProtected n = false) →
     ((a.reg d).tag = false → exec (.csrw d x i) s = .next (s.takeTrap .a 0x10 d)) ∧
     ((a.reg d).tag = true → (a.reg d).perm permCSR = false → exec (.csrw d x i) s = .next (s.takeTrap .a 0x12 d)) ∧
     ((a.reg d).tag = true → (a.reg d).perm permCSR = true → (csrAssigned n = false ∨ csrReadOnly n = true) →
       exec (.csrw d x i) s = .next (s.takeTrap .a 0x02 n)) ∧
     ((a.reg d).tag = true → (a.reg d).perm permCSR = true → n = 0x003 → xbOk (a.lo x) = false →
       exec (.csrw d x i) s = .next (s.takeTrap .a 0x02 (a.lo x))))

/-- R120, R121, R125: a branch whose relation holds on the low 64 bits, J and JR go to their target and leave the loops
that do not hold it; otherwise fetch goes on behind the branch. BXQ and BXQZ pop what they look at, and wait while XAQ is
empty. -/
def Obligations.BranchesComplete : Prop :=
  (∀ x y d : Nat, ∀ r ∈ ([
      (.beq x y d, fun p q => p == q), (.bne x y d, fun p q => p != q),
      (.blt x y d, fun p q => decide (sext p 64 < sext q 64)), (.bge x y d, fun p q => decide (sext q 64 ≤ sext p 64)),
      (.bltu x y d, fun p q => decide (p < q)), (.bgeu x y d, fun p q => decide (q ≤ p))] :
      List (Instr × (Nat → Nat → Bool))),
    ARuns r.1 (fun _ a _ => Readable a [x, y]) (fun s a e =>
      if r.2 (a.lo x) (a.lo y) then s.jumpTo a e (branchTarget e d) else s.setCur a.fallThrough)) ∧
  (∀ (d : Nat) (v : Word64) (rest : List Word64), ∀ r ∈ ([(.bxq d, fun p => p != 0), (.bxqz d, fun p => p == 0)] :
      List (Instr × (Nat → Bool))),
    ARuns r.1 (fun _ a _ => a.q.xaq = v :: rest) (fun s a e =>
      let b : Activation := { a with q := { a.q with xaq := rest } }
      if r.2 v.toNat then s.jumpTo b e (branchTarget e d) else s.setCur b.fallThrough) ∧
    ∀ (s : State) (a : Activation), Ready s .a a → a.q.xaq = [] → exec r.1 s = .next { s with verdict := .stalled }) ∧
  (∀ t : Nat, ARuns (.j t) (fun _ _ _ => True) (fun s a e => s.jumpTo a e (BitVec.ofNat 14 t))) ∧
  (∀ x : Nat, ARuns (.jr x) (fun _ a _ => Readable a [x] ∧ a.lo x % 4 = 0 ∧ a.lo x < 65536)
    (fun s a e => s.jumpTo a e (BitVec.ofNat 14 (a.lo x / 4))))

/-- R41, R121: CALL pushes the following word's address, spilling the oldest of eight hardware entries to its slot of the
own LM; RET pops the newest, or reloads the newest spilled one. R122, R10: LOOP with a count of 0 goes behind the body,
which behind word 0x3FFF is the byte address 0x1_0000; otherwise it makes a loop record when it is the first or second and
lies wholly inside the outer body, and fetch goes on with the body. -/
def Obligations.CallsReturnsAndLoopsComplete : Prop :=
  ((∀ t : Nat, ARuns (.call t)
     (fun _ a _ => a.f.rstack.length < 8 ∧ a.f.rstack.length + a.f.spilled < 72)
     (fun s a e => (s.setCur (({ a with f := { a.f with rstack := a.f.rstack ++ [e.wpc + 1] } } : Activation).goto
       (BitVec.ofNat 14 t))).traceJump e.wpc (BitVec.ofNat 14 t))) ∧
   (∀ (t : Nat) (old : BitVec 14) (rest : List (BitVec 14)), ARuns (.call t)
     (fun s a _ => a.f.rstack = old :: rest ∧ 8 ≤ a.f.rstack.length ∧ a.f.rstack.length + a.f.spilled < 72 ∧
       s.ownLmQuiet s.focus.core = true)
     (fun s a e =>
       let pa := lmBase s.focus.core + spillSlot s.focus.ctx a.f.spilled
       (((s.touch a.info.region pa true).putNat pa 4 old.toNat).setCur
         (({ a with f := { a.f with rstack := rest ++ [e.wpc + 1], spilled := a.f.spilled + 1 } } : Activation).goto
           (BitVec.ofNat 14 t))).traceJump e.wpc (BitVec.ofNat 14 t))) ∧
   (∀ (pc : BitVec 14), ARuns .ret (fun _ a _ => a.f.rstack.getLast? = some pc)
     (fun s a e => (s.setCur (({ a with f := { a.f with rstack := a.f.rstack.dropLast } } : Activation).goto pc)).traceJump
       e.wpc pc)) ∧
   ARuns .ret (fun s a _ => a.f.rstack = [] ∧ a.f.spilled ≠ 0 ∧ s.ownLmQuiet s.focus.core = true)
     (fun s a e =>
       let pa := lmBase s.focus.core + spillSlot s.focus.ctx (a.f.spilled - 1)
       let u := s.touch a.info.region pa false
       let pc := BitVec.ofNat 14 (u.natAt pa 4)
       (u.setCur (({ a with f := { a.f with spilled := a.f.spilled - 1 } } : Activation).goto pc)).traceJump e.wpc pc)) ∧
  (∀ x l : Nat,
     ARuns (.loop x l) (fun _ a e => Readable a [x] ∧ e.wpc.toNat + l ≤ 0x3FFF ∧ a.lo x = 0)
       (fun s a e => s.setCur (a.gotoWord (e.wpc.toNat + l + 1))) ∧
     ARuns (.loop x l) (fun _ a e => Readable a [x] ∧ e.wpc.toNat + l ≤ 0x3FFF ∧ a.lo x ≠ 0 ∧ a.f.loops.length < 2 ∧
         ∀ r ∈ a.f.loops, r.first.toNat ≤ e.wpc.toNat → e.wpc.toNat ≤ r.last.toNat → e.wpc.toNat + l ≤ r.last.toNat)
       (fun s a e => s.setCur (({ a with f := { a.f with loops := a.f.loops ++
         [{ first := BitVec.ofNat 14 (e.wpc.toNat + 1), last := BitVec.ofNat 14 (e.wpc.toNat + l), reg := x
            count := BitVec.ofNat 64 (a.lo x) }] } } : Activation).goto (e.wpc + 1))))

/-- R126, R179, R180: END and ERET.END end their activation once its X-half is empty; ERET ends the trap activation and
resumes the one it serves; WFI holds the A head, unless a message has been queued for the core in this very cycle. In a
gang END ends every member (R151). R149, R151, R171, R172: GANG starts a follower on each of the next `n` − 1 cores and
makes the issuer its leader; DISBAND outside a gang does nothing but wait; in a gang the leader goes on alone with the
next instruction, and every follower ends. -/
def Obligations.EndsWaitsAndGangs : Prop :=
  (ARuns .endAct (fun _ a _ => XQuiet a) (fun s _ _ => s.endAct s.focus.core s.focus.ctx) ∧
   (∀ (s : State) (a : Activation) (g : Gang), GangReady s a g →
     ∃ t, exec .endAct s = .next t ∧ ∀ m ∈ s.gangMembers g, t.act? m.1 m.2 = none) ∧
   (∀ id : Nat, ARuns .eret (fun _ a _ => XQuiet a ∧ a.info.priv = true ∧ a.info.serves = some id)
     (fun s a _ => ((s.setCur { a with info := { a.info with serves := none } }).endAct s.focus.core s.focus.ctx).resumeParked
       s.focus.core id)) ∧
   ARuns .eretEnd (fun _ a _ => XQuiet a ∧ a.info.priv = true ∧ a.info.serves.isSome = true)
     (fun s _ _ => s.endAct s.focus.core s.focus.ctx) ∧
   ARuns .wfi (fun _ a _ => a.info.priv = true)
     (fun s a _ => s.setCur { a with flow := { a.flow with wfi := s.curCore.queued != some s.clock } })) ∧
  ((∀ n : Nat, ARuns (.gang n)
     (fun s a _ => XQuiet a ∧ Readable a (upTo 32) ∧ s.focus.core % n = 0 ∧ a.f.loops = [] ∧
       ∀ i ∈ upTo (n - 1), (s.followerRoom (s.focus.core + i + 1) a.info.region a.info.winSize).isSome = true)
     (fun s a _ => ((upTo (n - 1)).foldl (fun u i => u.addFollower n (i + 1) a) s).setCur
       { a with flow := { a.flow with
         gang := some { leaderCore := s.focus.core, leaderCtx := s.focus.ctx, lane := 0, size := n } } })) ∧
   ARuns .disband (fun _ a _ => XQuiet a) (fun s a _ => s.setCur { a with flow := { a.flow with gang := none } }) ∧
   ∀ (s : State) (a : Activation) (g : Gang), GangReady s a g →
     ∃ t, exec .disband s = .next t ∧
       t.act? s.focus.core s.focus.ctx = some ((({ a with flow := { a.flow with gang := none } } : Activation).popHead .a).yields
         (a.headEntry .a) s.clock s.curCore.csr.pol) ∧
       ∀ m ∈ (s.gangMembers g).drop 1, t.act? m.1 m.2 = none)

/-- R55: NOP goes to the A buffer, takes its cycle and changes nothing, and with a payload it is no instruction. R127:
ECALL and BRK take their trap with the payload as TRAPVAL and the following word's address as TRAPPC. -/
def Obligations.NopAndSystemCalls : Prop :=
  (encode .nop = some 0xFC000000 ∧ isXWord 0xFC000000 = false ∧
    (∀ p i, 0 < p → p < 2 ^ 24 → decode (0xFC000000 + p) ≠ .ok i) ∧ ARuns .nop (fun _ _ _ => True) (fun s _ _ => s)) ∧
  ∀ c : Nat, ∀ r ∈ ([(.ecall c, 0x09), (.brk c, 0x08)] : List (Instr × Nat)),
    ARuns r.1 (fun _ _ _ => True) (fun s a e =>
      (s.setCur a.fallThrough).trapAt s.focus.core s.focus.ctx .a e false r.2 c (e.wpc + 1))

/-- R49: a hint that is next in its sequence takes its cycle: it counts as taken and the issue slot stays with the
sequence. -/
def Obligations.HintsTakeTheirCycle : Prop :=
  ∀ (v x y sg t : Nat), ∀ r ∈ ([
      (.himm v, 0xF8000000 + v), (.hwid x y sg t, 0xF9000000 + x * 2097152 + y * 262144 + sg * 131072 + t * 65536),
      (.hmod x sg, 0xFA000000 + x * 2097152 + sg * 1048576), (.hyld, 0xFB000000)] : List (Instr × Nat)),
    ∀ (s : State) (a : Activation) (h : Half) (e : Entry) (rest : List Entry), s.cur? = some a →
      hintHalf a s.focus.half r.2 = some h → a.buf h = e :: rest → e.taken < e.hints.length →
      exec r.1 s = .next { (s.lockMembers a).setCur
        (a.setBuf h ({ e with taken := e.taken + 1 } :: rest)) with verdict := .done }

/-! ### Messages and synchronisation (09) -/

/-- R164 to R168: SEND, REPLY and SENDE put a message with the outgoing payload into the outbound buffer and empty the
payload, when their target has its form and lies in the partition. R177, R178: TLWAIT completes once the counter has
reached its number, TLREAD brings the counter or the last issue number, and EVSIG pulses input line 32 + `l` of the
cluster's signal box. -/
def Obligations.SendsAndTimelinesComplete : Prop :=
  (∀ x y h p : Nat,
     ARuns (.send x y 0 h)
       (fun s a _ => SendsMessage s a ∧ Readable a [x] ∧ a.lo x < 2 ^ 25 ∧ fld (a.lo x) 17 8 ≠ 0 ∧
         s.coreInPartition a.info.region (fld (a.lo x) 13 4) (fld (a.lo x) 0 13) = true)
       (fun s a _ => s.enqueueOut (s.outMessage (a.lo x) none)) ∧
     (h ≠ 0 → ARuns (.send x y 1 h)
       (fun s a _ => SendsMessage s a ∧ Readable a [x] ∧ a.lo x < 2 ^ 25 ∧ fld (a.lo x) 17 8 ≠ 0 ∧
         s.coreInPartition a.info.region (fld (a.lo x) 13 4) (fld (a.lo x) 0 13) = true)
       (fun s a _ =>
         let base := s.focus.core + 2 ^ 13 * Config.package + 2 ^ 17 * h
         s.enqueueOut (s.outMessage (a.lo x) (some (mkCap base (base + 1) (2 ^ permMSG)).data)))) ∧
     ARuns (.send x y 1 0)
       (fun s a _ => SendsMessage s a ∧ Readable a [x, y] ∧ a.lo x < 2 ^ 25 ∧ fld (a.lo x) 17 8 ≠ 0 ∧
         s.coreInPartition a.info.region (fld (a.lo x) 13 4) (fld (a.lo x) 0 13) = true ∧ IsReply (a.reg y))
       (fun s a _ => s.enqueueOut (s.outMessage (a.lo x) (some (a.reg y).data))) ∧
     ARuns (.reply x) (fun s a _ => SendsMessage s a ∧ Readable a [x] ∧ IsReply (a.reg x))
       (fun s a _ => s.enqueueOut (s.outMessage (a.reg x).base none)) ∧
     (p ≤ 1 → ARuns (.sende x y p)
       (fun s a _ => SendsMessage s a ∧ Readable a (if p = 1 then [x, y] else [x]) ∧ contextOk (fld (a.lo x) 0 8) = true ∧
         a.lo x < 2 ^ 20 ∧ s.coreInPartition a.info.region (fld (a.lo x) 16 4) (32 * fld (a.lo x) 8 8) = true ∧
         (p = 1 → (a.reg y).tag = true ∧ (a.reg y).perm permMSG = true ∧ (a.reg y).perm permENG = true))
       (fun s a _ => s.enqueueOut (.toEngine (fld (a.lo x) 16 4) (fld (a.lo x) 8 8) (fld (a.lo x) 0 8)
         { payload := a.q.outPay, len := a.outLen, cap := if p = 1 then some (a.reg y).data else none
           core := s.focus.core, region := a.info.region })))) ∧
  (∀ d x l k : Nat,
     ARuns (.tlwait x k)
       (fun s a _ => Readable a [x] ∧ contextOk k = true ∧ a.lo x ≤ (s.timeline s.curClu k).counter.toNat)
       (fun s _ _ => s) ∧
     ARuns (.tlread d l k) (fun _ _ _ => contextOk k = true)
       (fun s a e => s.setCur (a.writeReg e.seq d (plain64
         (if l = 1 then (s.timeline s.curClu k).issued.toNat else (s.timeline s.curClu k).counter.toNat)))) ∧
     ARuns (.evsig 0 l) (fun _ _ _ => True) (fun s _ _ => s.pulse s.curClu (32 + l)) ∧
     (k ≠ 0 → ARuns (.evsig k l) (fun s a _ => Ordered s a 1 k) (fun s _ _ => s.pulse s.curClu (32 + l))))

/-- R170, R174, R175: JARRIVE, STACQ and STREL send their access to its home, STACQ and STREL holding the A head. R154,
R176: the siding is a stack to its own core. DQPUSH pushes a range that is not empty, DQPOP pops the top or returns [0,
0), DQSPLIT halves the top, and DQSTEAL takes half of the bottom range of the own siding at once, or asks another core. -/
def Obligations.JoinsStagesAndSidingComplete : Prop :=
  (∀ d x y p r : Nat,
     ARuns (.jarrive x y p)
       (fun s a _ => Sends s a ∧ Readable a [x, y] ∧ Admits (a.reg x) [permAMO] (a.lo y) 16 1 16 ∧ Ordered s a 1 p)
       (fun s a e => s.emitAcc a (s.newAcc e .join ((a.reg x).base + a.lo y) (a.lo y) ((a.reg x).perm permCODE) false
         false)) ∧
     ARuns (.stacq d x y r)
       (fun s a _ => Sends s a ∧ Readable a [x, y] ∧ Admits (a.reg x) [permAMO] (a.lo y) 64 1 16)
       (fun s a e =>
         let b := a.awaitReg e.seq d s.nextId
         s.emitAcc { b with flow := { b.flow with hold := some s.nextId } }
           { s.newAcc e (.stacq d r) ((a.reg x).base + a.lo y) (a.lo y) ((a.reg x).perm permCODE) false false with
             prev := a.prevReg e.seq d }) ∧
     ARuns (.strel d x y)
       (fun s a _ => Sends s a ∧ Readable a [x, y, d] ∧ Admits (a.reg x) [permAMO] (a.lo y) 64 1 16 ∧ Ordered s a 1 3 ∧
         fld (a.lo d) 4 28 = 0)
       (fun s a e => s.emitAcc { a with flow := { a.flow with hold := some s.nextId } }
         (s.newAcc e (.strel (fld (a.lo d) 0 4)) ((a.reg x).base + a.lo y) (a.lo y) ((a.reg x).perm permCODE) false false))) ∧
  (∀ d x y : Nat,
     ARuns (.dqpush x y) (fun s a _ => Readable a [x, y] ∧ s.curCore.siding.length < 32)
       (fun s a _ => if a.lo y ≤ a.lo x then s else s.setCurCore { s.curCore with
         siding := s.curCore.siding ++ [(BitVec.ofNat 64 (a.lo x), BitVec.ofNat 64 (a.lo y))] }) ∧
     ARuns (.dqpop d) (fun _ _ _ => True)
       (fun s a e => (s.setCurCore { s.curCore with siding := s.curCore.siding.dropLast }).setCur
         (a.writeRange e.seq (2 * d) (s.curCore.siding.getLast?.getD (0, 0)))) ∧
     ARuns .dqsplit (fun s _ _ => (splitTop s.curCore.siding).length ≤ 32)
       (fun s _ _ => s.setCurCore { s.curCore with siding := splitTop s.curCore.siding }) ∧
     ARuns (.dqsteal d x)
       (fun s a _ => Sends s a ∧ Readable a [x] ∧ a.lo x < 2 ^ 17 ∧
         s.coreInPartition a.info.region (fld (a.lo x) 13 4) (fld (a.lo x) 0 13) = true)
       (fun s a e =>
         let pkg := fld (a.lo x) 13 4
         let k := fld (a.lo x) 0 13
         if pkg = Config.package ∧ k = s.focus.core then
           let r := s.serveSteal k
           (r.1.countTaken k r.2).setCur (a.writeRange e.seq (2 * d) r.2)
         else
           let u := s.takeId.setCur ((a.awaitReg e.seq (2 * d) s.nextId).awaitReg e.seq (2 * d + 1) s.nextId)
           { u with accs := u.accs ++ [{ s.newAcc e (.steal (2 * d)) 0 0 false false false with
                                           prev := a.prevReg e.seq (2 * d) ++ a.prevReg e.seq (2 * d + 1)
                                           pieces := if pkg = Config.package then
                                             [{ pa := lmBase k, off := 0, len := 0 }] else [] }] }.send
             (.core s.focus.core) (msgPlace pkg k) (.piece s.nextId 0)))

/-! ### Engine commands (11, 14 to 20) -/

/-- R200, R204, R281 to R286: CPY and CPYCHK issue an operation with the record that they pop, CPYWP brings the waypoint,
and CPYCHK.RES and CPYCHK.ABN act on the parked operation that they name. -/
def Obligations.CopiesComplete : Prop :=
  ∀ d x y m k : Nat,
    (∀ (r : CopyRec) (b : Activation), ARuns (.cpy d x y m k)
      (fun s a _ => Orderly s a ∧ s.portTakes k (m == 1) = true ∧ Readable a [x, y] ∧ popRecord a = some (r, b) ∧
        copyChecks r (a.reg x) (a.reg y) x y = none)
      (fun s a e => issued s b e k d (m == 1) (.copy r (a.reg x) (a.reg y)) (copyPins r (a.reg x)))) ∧
    (∀ (r : CopyRec) (b : Activation), ARuns (.cpychkCheck d x y k)
      (fun s a _ => Orderly s a ∧ s.portTakes k false = true ∧ Readable a [x, y] ∧ popRecord a = some (r, b) ∧
        checkChecks r (a.reg x) (a.reg y) x y = none)
      (fun s a e => issued s b e k d false (.check r (a.reg x) (a.reg y)) (checkPins r (a.reg x) (a.reg y)))) ∧
    ARuns (.cpywp d x k) (fun s a _ => Readable a [x] ∧ a.lo x ≤ (s.timeline s.curClu k).counter.toNat)
      (fun s a e => s.setCur (a.writeReg e.seq d (plain64 (2 ^ 64 - 1)))) ∧
    (∀ (n core region : Nat) (armed : Bool) (waits : List Nat) (r : CopyRec) (ca cb : AReg), ARuns (.cpywp d x k)
      (fun s a _ => Readable a [x] ∧ (s.timeline s.curClu k).counter.toNat < a.lo x ∧ (s.eng s.curClu k).busy = true ∧
        a.lo x = n ∧ (s.eng s.curClu k).head = some
          { issue := n, core := core, region := region, armed := armed, waits := waits, work := .copy r ca cb })
      (fun s a e => s.setCur (a.writeReg e.seq d (plain64 (s.copyProg s.curClu k).delivered)))) ∧
    ARuns (.cpywp d x k)
      (fun s a _ => Readable a [x] ∧ (s.timeline s.curClu k).counter.toNat < a.lo x ∧
        ((s.eng s.curClu k).busy = false ∨ ∀ q, (s.eng s.curClu k).head = some q → q.issue ≠ a.lo x))
      (fun s a e => s.setCur (a.writeReg e.seq d (plain64 0))) ∧
    ARuns (.cpychkRes x k) (fun s a _ => CanUse s a ∧ Readable a [x] ∧ ParkedWith s s.curClu k (a.lo x))
      (fun s _ _ => s.copyResume s.curClu k) ∧
    ARuns (.cpychkAbn x k) (fun s a _ => CanUse s a ∧ Readable a [x] ∧ ParkedWith s s.curClu k (a.lo x))
      (fun s _ _ => s.performEng s.curClu k)

/-- R316, R317, R322, R324: MACQ takes macros, MREL gives them back once everything issued is performed, MREL.RES and
MREL.ABN act on the parked operation, LNSCFG pops a loop nest, and MRD and MRD.FLG reserve an entry of a load queue. R318
to R323, R325: the commands of the matrix unit issue their operation when their checks pass. -/
def Obligations.MatrixCommandsComplete : Prop :=
  (∀ x q k : Nat,
     ARuns (.macq x k)
       (fun s a _ => CanUse s a ∧ Readable a [x] ∧ a.lo x < 256 ∧ (s.cluster s.curClu).claimBad (matrixId k) a.info.region
         (s.region a.info.region).eff.cims.toNat (maskList (a.lo x)) = none)
       (fun s a _ =>
         let u := s.setCluster s.curClu ((s.cluster s.curClu).take (matrixId k) a.info.region (maskList (a.lo x)))
         let c := u.matrix s.curClu (matrixId k)
         u.setMatrix s.curClu (matrixId k) { c with owned := c.owned ++
           ((maskList (a.lo x)).filter (fun n => !(c.owned.any (fun o => o.1 == n)))).map (fun n => (n, a.info.region)) }) ∧
     ARuns (.mrel x k)
       (fun s a _ => CanUse s a ∧ Readable a [x] ∧ a.lo x < 256 ∧
         (s.timeline s.curClu (matrixId k)).counter = (s.timeline s.curClu (matrixId k)).issued)
       (fun s a _ => s.releaseMacros s.curClu (matrixId k) (maskList (a.lo x))) ∧
     ARuns (.mrelRes x k) (fun s a _ => CanUse s a ∧ Readable a [x] ∧ ParkedWith s s.curClu (matrixId k) (a.lo x))
       (fun s _ _ => s.resumeRun s.curClu (matrixId k)) ∧
     ARuns (.mrelAbn x k) (fun s a _ => CanUse s a ∧ Readable a [x] ∧ ParkedWith s s.curClu (matrixId k) (a.lo x))
       (fun s _ _ => s.performEng s.curClu (matrixId k)) ∧
     (∀ (r : Nest) (b : Activation), ARuns (.lnscfg k)
       (fun s a _ => CanUse s a ∧ popRecord a = some (r, b) ∧ nestBad r = none)
       (fun s _ _ =>
         let u := s.setCur b
         u.setMatrix s.curClu (matrixId k) { u.matrix s.curClu (matrixId k) with nest := r })) ∧
     ∀ p ∈ ([(.mrd q x k, false), (.mrdFlg q x k, true)] : List (Instr × Bool)), ARuns p.1
       (fun s a _ => CanUse s a ∧ a.ldqFree q = true ∧ Readable a [x] ∧ a.lo x < 2 ^ 17 ∧
         (p.2 = true ∨ fld (a.lo x) 8 9 + 4 ≤ 512))
       (fun s a e =>
         let c := s.newAcc e (.mrd q s.curClu (matrixId k) (s.timeline s.curClu (matrixId k)).issued.toNat
           (fld (a.lo x) 0 8) (fld (a.lo x) 8 9) p.2) 0 0 false false false
         let t := s.takeId.setCur (a.setLdq q (a.ldq q ++ [{ wait := s.nextId }]))
         { t with accs := t.accs ++ [c] })) ∧
  (∀ d x y m k : Nat,
     let id := matrixId k
     ARuns (.mldb d x y m k)
       (fun s a _ => CanIssue s a id (m == 1) ∧ Readable a [x, y, y + 1] ∧
         mldbChecks (s.cluster s.curClu) id (a.reg x) x (a.lo y) (a.lo (y + 1)) = none)
       (fun s a e => issuedMatrix s a e id d (m == 1) (.mldb (a.reg x) (a.lo y) (a.lo (y + 1)))
         (mldbPins (a.reg x) (a.lo y) (a.lo (y + 1)))) ∧
     ARuns (.mspec d x y m k)
       (fun s a _ => CanIssue s a id (m == 1) ∧ Readable a [x, y, y + 1] ∧
         mspecChecks (s.cluster s.curClu) id (a.reg x) x (a.lo y) (a.lo (y + 1)) = none)
       (fun s a e => issuedMatrix s a e id d (m == 1) (.mspec (a.reg x) (a.lo y) (a.lo (y + 1)))
         (mspecPins (a.reg x) (a.lo y) (a.lo (y + 1)))) ∧
     ARuns (.mzero d x m k)
       (fun s a _ => CanIssue s a id (m == 1) ∧ Readable a [x] ∧ mzeroChecks (a.lo x) = none)
       (fun s a e => issuedMatrix s a e id d (m == 1) (.mzero (fld (a.lo x) 0 8) (fld (a.lo x) 8 8 + 1)) (fun _ => [])) ∧
     ARuns (.mma d x y m k)
       (fun s a _ => CanIssue s a id (m == 1) ∧ Readable a [x, y, y + 1, y + 2] ∧
         mmaChecks (s.cluster s.curClu) (s.eng s.curClu id) id false oneNest (a.reg x) x (a.lo y) (a.lo (y + 1))
           (a.lo (y + 2)) = none)
       (fun s a e => issuedMatrix s a e id d (m == 1) (.mmas (a.reg x) (a.lo y) (a.lo (y + 1)) (a.lo (y + 2)) oneNest)
         (fun _ => [])) ∧
     ARuns (.mmas d x y m k)
       (fun s a _ => CanIssue s a id (m == 1) ∧ Readable a [x, y, y + 1, y + 2] ∧
         mmaChecks (s.cluster s.curClu) (s.eng s.curClu id) id true (s.matrix s.curClu id).nest (a.reg x) x (a.lo y)
           (a.lo (y + 1)) (a.lo (y + 2)) = none)
       (fun s a e => issuedMatrix s a e id d (m == 1)
         (.mmas (a.reg x) (a.lo y) (a.lo (y + 1)) (a.lo (y + 2)) (s.matrix s.curClu id).nest) (fun _ => [])) ∧
     ARuns (.mcopy d x y m k)
       (fun s a _ => CanIssue s a id (m == 1) ∧ Readable a [x, y, y + 1] ∧
         mcopyChecks (a.reg x) x (a.lo y) (a.lo (y + 1)) = none)
       (fun s a e => issuedMatrix s a e id d (m == 1) (.mcopy (a.reg x) (a.lo y) (a.lo (y + 1)))
         (mcopyPins (a.reg x) (a.lo y) (a.lo (y + 1)))))

/-- R290, R294, R339, R340, R342: the commands of a chain context. CHBOND, CHPROG, CHRUN and CHGRAD wait until it is idle
and no other core's hint sequence has reserved it (R49); CHPROG.KEEP, CHRUN.RESUME and CHRUN.ABN wait for nothing. That
these three act behind the fault message of a run that has just stopped, a fault found counting as parked
(`State.sendFault`), is no rule of the spec but the model's choice: DEDUCED, log 49. -/
def Obligations.ChainsComplete : Prop :=
  ∀ d x y m r k : Nat,
    let id := chainId k
    ARuns (.chbond x r k)
      (fun s a _ => CanUse s a ∧ s.chainFree id = true ∧ Readable a [x] ∧ 1 ≤ a.lo x ∧ a.lo x ≤ 4096)
      (fun s a _ => s.setChain s.curClu id ((s.chain s.curClu id).setBond r (a.lo x))) ∧
    ARuns (.chprog x y k)
      (fun s a _ => CanUse s a ∧ s.chainFree id = true ∧ Readable a [x, y] ∧
        Admits (a.reg x) [permLD, permENG] 0 64 1 1 ∧ Admits (a.reg y) [permLD, permST, permENG] 0 0 1 1 ∧
        bufChecks (a.reg y) = none)
      (fun s a _ => s.setChain s.curClu id { s.chain s.curClu id with prog := a.reg x, buf := a.reg y }) ∧
    ARuns (.chprogKeep 0 y k)
      (fun s a _ => CanUse s a ∧ Readable a [y] ∧ keepChecks (s.sendFault s.curClu id) s.curClu id (a.reg y) y = none)
      (fun s a _ => (s.sendFault s.curClu id).keepBuffer s.curClu id (a.reg y)) ∧
    ARuns (.chrunStart d m k)
      (fun s a _ => CanUse s a ∧ s.chainFree id = true ∧ (s.chain s.curClu id).prog.tag = true)
      (fun s a e => issued s a e id d (m == 1) (.chain (s.chain s.curClu id).prog)
        [((s.chain s.curClu id).prog.base, progPinned (s.chain s.curClu id).prog)]) ∧
    ARuns (.chrunResume x k)
      (fun s a _ => CanUse s a ∧ Readable a [x] ∧ ParkedWith (s.sendFault s.curClu id) s.curClu id (a.lo x))
      (fun s _ _ => (s.sendFault s.curClu id).resumeRun s.curClu id) ∧
    ARuns (.chrunAbn x k)
      (fun s a _ => CanUse s a ∧ Readable a [x] ∧ ParkedWith (s.sendFault s.curClu id) s.curClu id (a.lo x))
      (fun s _ _ => (s.sendFault s.curClu id).endChain s.curClu id) ∧
    ARuns (.chstat d m k) (fun s a _ => s.ownsCluster a.info.region s.curClu = true)
      (fun s a e => s.setCur (a.writeReg e.seq d (plain64 (s.chainWord s.curClu id m)))) ∧
    ARuns (.chgrad 0 y k)
      (fun s a _ => CanUse s a ∧ s.chainFree id = true ∧ Readable a [0, y])
      (fun s a _ => s.setChain s.curClu id ((s.chain s.curClu id).setGrad none (a.lo y))) ∧
    (x ≠ 0 → ARuns (.chgrad x y k)
      (fun s a _ => CanUse s a ∧ s.chainFree id = true ∧ Readable a [x, y] ∧
        gradChecks (a.reg x) x (a.lo y) = none)
      (fun s a _ => s.setChain s.curClu id ((s.chain s.curClu id).setGrad (some (a.reg x)) (a.lo y))))

/-- R347, R351, R376 to R379, R382, R384: the commands of a grammar context. GRSET waits until it is idle, and no other
core's hint sequence has reserved it, and pops the descriptor; the others issue an operation on the tables that it holds. -/
def Obligations.GrammarsComplete : Prop :=
  ∀ d x y m o k : Nat,
    let id := grammarId k
    let issues (i : Instr) (rs : List Nat) (f : GrammarCtx → Activation → GrammarOp) : Prop := ARuns i
      (fun s a _ => CanIssue s a id (m == 1) ∧ Readable a rs ∧ grammarChecks (f (s.grammar s.curClu id) a) x = none)
      (fun s a e => issued s a e id d (m == 1) (.grammar (f (s.grammar s.curClu id) a)) (f (s.grammar s.curClu id) a).pins)
    (∀ (v w : Word128) (rest : List Word128), ARuns (.grset x y k)
      (fun s a _ => CanUse s a ∧ a.q.sdq = v :: w :: rest ∧ s.grammarFree id = true ∧ Readable a [x, y] ∧
        Admits (a.reg x) [permLD, permENG] 0 0 1 1 ∧ Admits (a.reg y) [permLD, permST, permENG] 0 0 1 1 ∧
        (∀ z ∈ descFields (BitVec.ofNat 256 (v.toNat + 2 ^ 128 * w.toNat)), z.1 = false) ∧
        ∀ z ∈ descRanges (BitVec.ofNat 256 (v.toNat + 2 ^ 128 * w.toNat)), z.1 + z.2 ≤ (a.reg x).top - (a.reg x).base)
      (fun s a _ => (s.setCur { a with q := { a.q with sdq := rest } }).setGrammar s.curClu id
        { s.grammar s.curClu id with
          gram := a.reg x, rrt := a.reg y, desc := BitVec.ofNat 256 (v.toNat + 2 ^ 128 * w.toNat) })) ∧
    issues (.grred d x y o m k) [x, y] (fun c a => c.op 0 o false (a.reg x) (a.lo y) 0 0) ∧
    issues (.grscan d x y o m k) [x, y] (fun c a => c.op 1 o false (a.reg x) (a.lo y) 0 0) ∧
    issues (.grscanX d x y o m k) [x, y, y + 1] (fun c a => c.op 1 o true (a.reg x) (a.lo y) (a.lo (y + 1)) 0) ∧
    issues (.grmv d x y m k) [x, y, y + 1, y + 2]
      (fun c a => c.op 2 opADDW64 false (a.reg x) (a.lo y) (a.lo (y + 1)) (a.lo (y + 2))) ∧
    issues (.grat d x y o m k) [x, y, y + 1] (fun c a => c.op 3 o false (a.reg x) (a.lo y) (a.lo (y + 1)) 0) ∧
    ARuns (.grstat d o k) (fun s a _ => s.ownsCluster a.info.region s.curClu = true)
      (fun s a e => s.setCur (a.writeReg e.seq d (plain64 (s.grammarWord s.curClu id o)))) ∧
    ARuns (.grstatRes x k) (fun s a _ => CanUse s a ∧ Readable a [x] ∧ ParkedWith s s.curClu id (a.lo x))
      (fun s _ _ => s.resumeRun s.curClu id) ∧
    ARuns (.grstatAbn x k) (fun s a _ => CanUse s a ∧ Readable a [x] ∧ ParkedWith s s.curClu id (a.lo x))
      (fun s _ _ => s.performEng s.curClu id)

/-! ### Events of cores and of memory (02, 05, 07, 08, 10, 12) -/

/-- R20, R59 to R61: a word that is no instruction traps with ILLEGAL_INSTRUCTION and the word; a head that waits for a
queue that nothing can fill traps with QUEUE_STARVED and the port, once that has stood for one further cycle. R28, R75,
R130, R243: an activation that fetches takes up to four words, none of which may be dispatched before its next turn; a
pending X write lands when no older one to the same place is left, and its flags join XFLAGS then. -/
def Obligations.CoreEventsComplete : Prop :=
  ((∀ (w : Nat) (s : State) (a : Activation), Ready s (if isXWord w then .x else .a) a →
     exec (.illegalInstruction w) s = .next (s.takeTrap (if isXWord w then .x else .a) tILLEGAL_INSTRUCTION w)) ∧
   ∀ (core ctx half q : Nat) (s : State) (a : Activation),
     Ready (s.focusOn core ctx) (if half = 0 then .a else .x) a →
     starvedPort a a (if half = 0 then .a else .x) = some q →
     (a.lack (if half = 0 then .a else .x) = some q → exec (.queueStarved core ctx half) s =
       .next ((s.focusOn core ctx).takeTrap (if half = 0 then .a else .x) tQUEUE_STARVED q)) ∧
     (a.lack (if half = 0 then .a else .x) ≠ some q → exec (.queueStarved core ctx half) s = .next s)) ∧
  ((∀ (core ctx : Nat) (a : Activation),
     Happens (.fetch core ctx) (fun s => s.act? core ctx = some a ∧ a.fetches = true)
       (fun s => (s.setActAt core ctx { a with f := { a.f with seen := max a.f.seen a.f.nextSeq } }).fetchN core ctx 4)) ∧
   (∀ (i : Instr) (s : State) (a : Activation), (encode i).isSome = true →
     (∀ v, i ≠ .himm v) → (∀ x y z w, i ≠ .hwid x y z w) → (∀ x y, i ≠ .hmod x y) → i ≠ .hyld →
     s.cur? = some a → (∀ h, a.f.seen ≤ (a.headEntry h).seq) → exec i s = .next { s with verdict := .stalled }) ∧
   ∀ (core ctx idx : Nat) (a : Activation) (p : XWrite),
     Happens (.xResultLand core ctx idx)
       (fun s => s.act? core ctx = some a ∧ a.pend[idx]? = some p ∧ ∀ q ∈ a.pend.take idx, q.dest.meets p.dest = false)
       (fun s =>
         let t := s.setActAt core ctx (({ a with pend := a.pend.eraseIdx idx } : Activation).land p)
         t.setCore core { t.core core with csr := { (t.core core).csr with
           xflags := (t.core core).csr.xflags ||| p.flags } }))

/-- R152, R155, R186, R208, R209, R223, R226, R227, R230, R439: the events of accesses. Each names its access by its place
in the list of those under way; an answer is taken when its pair order lets it arrive, a part of an access is performed
whatever has become of the other part, and a walk, of an activation or of an engine context (a number behind those of the
cores names its cluster), reads one level at a time. R155: a steal that has arrived is served at the victim's core from
the bottom of its siding, and its range goes back. A steal from a core of another package is answered with a free range,
which no statement names: DESIGN CHOICE, log 91. -/
def Obligations.AccessEventsComplete : Prop :=
  (∀ (idx : Nat) (x : Access),
     Happens (.loadDataReturn idx)
       (fun s => s.accs[idx]? = some x ∧ s.mrdValue x = none ∧ x.stage = .answered ∧ x.ghost = false ∧
         x.kind.isLoad = true ∧ s.answerArrived x = true ∧ (∀ u v n c, x.kind ≠ .chunk u v n c) ∧ ∀ d, x.kind ≠ .steal d)
       (fun s => x.answerRegs.foldl (fun t r => t.fillPrevs x.act x.id r.1 r.2)
         ((s.dropAcc x.id).changeAct x.core x.act (answerAct x))) ∧
     Happens (.storeAck idx)
       (fun s => s.accs[idx]? = some x ∧ s.mrdValue x = none ∧ x.stage = .answered ∧ x.kind.isLoad = false ∧
         s.olderSibling x = false ∧ s.answerArrived x = true)
       (fun s => (s.dropAcc x.id).changeAct x.core x.act (answerAct x)) ∧
     (∀ (q : Packet) (k : Nat) (p : Piece), Happens (.homePerform idx)
       (fun s => s.net[idx]? = some q ∧ s.arrived q = true ∧ q.body = .piece x.id k ∧
         s.accs.find? (fun y => y.id == x.id) = some x ∧ (∀ d, x.kind ≠ .steal d) ∧ x.pieces[k]? = some p ∧
         s.pieceWaits x p = false)
       (fun s => (s.dropPacket q.id).performPiece x k p)) ∧
     (∀ role k : Nat, Happens (.stageGrant idx)
       (fun s => s.accs[idx]? = some x ∧ s.grantable x = some (role, k))
       (fun s => (s.setCluster x.ringClu { s.cluster x.ringClu with
         ring := (s.cluster x.ringClu).ring.filter (fun w => w.acc != x.id) }).answerStage x role k)) ∧
     (∀ cause val : Nat, Happens (.lateAccessFault idx)
       (fun s => s.accs[idx]? = some x ∧ x.stage = .refused cause val ∧ x.complete = true ∧ x.ghost = false ∧
         s.answerArrived x = true ∧ s.inSequence x.core x.act = false)
       (fun s => (s.dropAcc x.id).lateFault x cause val)) ∧
     (∀ (core ctx : Nat) (a : Activation), Happens (.translationWalkDone core ctx)
       (fun s => core < 8192 ∧ s.act? core ctx = some a ∧ a.flow.walk = some x ∧ (s.core core).lock ≠ some ctx ∧
         s.walkAddr x = none)
       (fun s => s.walkDone x)) ∧
     (∀ (core ctx va : Nat) (a : Activation), Happens (.translationWalkDone core ctx)
       (fun s => core < 8192 ∧ s.act? core ctx = some a ∧ a.flow.walk = some x ∧ (s.core core).lock ≠ some ctx ∧
         s.walkAddr x = some va ∧ s.hasWalker (core / 2048) x.id = true)
       (fun s => s.walkRead x a va)) ∧
     (∀ (clu id : Nat) (w : EngWalk), Happens (.translationWalkDone (8192 + clu) id)
       (fun s => (s.eng clu id).walk = some w ∧ s.hasWalker (clu / 64) w.id = true) (fun s => s.engWalkRead clu id w)) ∧
     (∀ (clu : Nat) (b : WcBuf), Happens (.wcBufferTimeout clu idx)
       (fun s => (s.cluster clu).wc[idx]? = some b ∧ b.first + 1000 ≤ s.ns) (fun s => s.wcSend clu b)) ∧
     ∀ clu : Nat, Happens (.caeCheckIn clu) (fun s => s.caeAsked clu = true)
       (fun s => s.setCluster clu { s.cluster clu with cae := (s.cluster clu).cae.tail })) ∧
  ((∀ (core d : Nat) (x : Access) (q : Packet), Happens (.sidingStealServe core)
     (fun s => s.net = [q] ∧ s.arrived q = true ∧ q.dst = .lm core ∧ q.body = .piece x.id 0 ∧ s.accs = [x] ∧ x.kind = .steal d)
     (fun s =>
       let r := (s.dropPacket q.id).serveSteal core
       r.1.putAcc { x with data := BitVec.ofNat 136 (r.2.1.toNat + 2 ^ 64 * r.2.2.toNat), stage := .answered })) ∧
   ∀ (idx k d pkg : Nat) (x : Access) (q : Packet) (s : State), s.net[idx]? = some q → s.arrived q = true →
     q.body = .piece x.id k → q.dst = .pkg pkg → s.accs.find? (fun y => y.id == x.id) = some x → x.kind = .steal d →
     ∃ data, exec (.homePerform idx) s = .next ((({ s.dropPacket q.id with fresh := s.fresh + 1 } : State).emit
       (.access x.id pkg 0)).putAcc { x with data := data, stage := .answered }))

/-- R135, R138, R140, R168: a message that has arrived is delivered; the oldest outgoing message departs with its time;
and a waiting message is admitted. -/
def Obligations.MessageEventsComplete : Prop :=
  (∀ (idx core : Nat) (q : Packet) (m : Message) (t : State), Happens (.messageArrival idx)
    (fun s => s.net[idx]? = some q ∧ q.body = .message m ∧ q.dst = .lm core ∧ s.arrived q = true ∧
      s.ingressWaits core m = false ∧ s.deliver core m = some t)
    (fun _ => t.dropPacket q.id)) ∧
  (∀ (core id : Nat) (m : Message) (rest : List (Nat × Outgoing)), Happens (.outboundDepart core)
    (fun s => (s.core core).outbound = (id, .toCore m) :: rest ∧
      s.routeDown (fld (putFld m.header.toNat 52 12 (fld s.ns 4 12) % 2 ^ 64) 13 4) = false)
    (fun s =>
      let m1 := { m with header := BitVec.ofNat 64 (putFld m.header.toNat 52 12 (fld s.ns 4 12)) }
      ((s.setCore core { s.core core with outbound := rest }).sendMessage (.core core) m1).trace core
        m1.sctx 5 m1.header.toNat)) ∧
  (∀ core : Nat, Happens (.admission core)
    (fun s => (s.physOf core).failed = false ∧ (s.cluster (core / 32)).gated = none ∧ (s.core core).claimPending = false ∧
      s.gangReserved core = false ∧ s.nextParked core = none ∧ s.admissible core 0 ≠ [])
    (fun s => (s.setCore core { s.core core with selected := none }).admitHead core 0 true)) ∧
  ∀ core i : Nat, Happens (.admission core)
    (fun s => (s.physOf core).failed = false ∧ (s.cluster (core / 32)).gated = none ∧ (s.core core).claimPending = false ∧
      s.gangReserved core = false ∧ s.nextParked core = none ∧ s.admissible core 0 = [] ∧ s.nextSaved core = none ∧ (s.core core).selected = some i ∧
      s.admissible core i ≠ [])
    (fun s => s.admitHead core i false)

/-- R128, R184, R188, R195, R196: a drained activation parks, the first parked one is served by a trap activation in free
storage, a victim is copied out, and a saved activation comes back into free storage. A victim whose head awaits SYSTEM
scope has the write-combining buffers of its cluster sent first. That a victim, or a saved activation, whose record lies
in a retired block ends there as by an uncorrectable error is the model's choice: DESIGN CHOICE, log 82. -/
def Obligations.ParkingAndRestoringComplete : Prop :=
  (∀ (core ctx : Nat) (a : Activation), Happens (.activationPark core ctx)
    (fun s => s.act? core ctx = some a ∧ a.drained = true ∧ a.info.serves = none ∧
      ((s.touch a.info.region (lmBase core) false).trapEntry core).isSome = true)
    (fun s =>
      let u := s.touch a.info.region (lmBase core) false
      let t := u.setActAt core ctx { a with flow := { a.flow with
        status := .parked (Sparse.get ({} : TrapRec) (u.core core).trapRecs ctx).pc } }
      t.setCore core { t.core core with parked := (t.core core).parked ++ [a.info.id] })) ∧
  (∀ (core id ctx base : Nat) (a : Activation) (e : Nat), Happens (.trapActivationStart core)
    (fun s =>
      let u := s.touch a.info.region (lmBase core) false
      (s.core core).claimPending = false ∧ s.gangReserved core = false ∧ s.nextParked core = some id ∧ s.actById core id = some a ∧
      (u.physOf core).failed = false ∧ u.trapEntry core = some e ∧
      u.freeStorage core a.info.region (16 * (hWin e + 1)) = some (ctx, base))
    (fun s =>
      let u := s.touch a.info.region (lmBase core) false
      let t := u.setCore core { u.core core with parked := (u.core core).parked.filter (fun i => i != id) }
      t.install core ctx
        (newActivation t e (u.trapMessage core a.info.region (u.recordOf core id)) 4 base (some id)))) ∧
  (∀ (core ctx : Nat) (a : Activation) (w c : Bool) (was : Stand) (s : State), s.act? core ctx = some a →
    a.flow.status = .victim w c was → (w || c) = true → s.victimReleased core a = true →
    s.mustFlush core a = false → s.recordLost a.info.region core ctx = none → ∃ t v, exec (.copyOut core ctx) s = .next t ∧ Sparse.look (t.core core).acts ctx = none ∧
      (t.core core).saved = (s.core core).saved ++ [v] ∧ v.ctx = ctx ∧ v.winOut = w ∧ v.ctxOut = c ∧
      v.act.info = a.info ∧ v.act.win = a.win) ∧
  (∀ (core ctx pa : Nat) (a : Activation) (w c : Bool) (was : Stand), Happens (.copyOut core ctx)
    (fun s => s.act? core ctx = some a ∧ a.flow.status = .victim w c was ∧ (w || c) = true ∧
      (s.mustFlush core a = true ∨ s.victimReleased core a = true ∧ s.recordLost a.info.region core ctx = some pa))
    (fun s => if s.mustFlush core a then s.wcFlush (core / 32) else s.uncorrectable core a.info.id a.info.region pa pa)) ∧
  (∀ (core pa : Nat) (v : Saved) (x b : Nat), Happens (.activationRestore core)
    (fun s => s.admissible core 0 = [] ∧ (s.core core).claimPending = false ∧ (s.physOf core).failed = false ∧
      s.gangReserved core = false ∧ s.nextSaved core = some v ∧ s.recordLost v.act.info.region core v.ctx = some pa ∧
      (if v.ctxOut then (s.core core).freeCtx else some v.ctx) = some x ∧
      (if v.winOut then placeWindow (s.core core).windows (s.savedAct core v).info.winSize else
        some v.act.info.winBase) = some b ∧
      (v.winOut = true → s.slicesAllow core v.act.info.region (s.savedAct core v).info.winSize = true))
    (fun s => s.uncorrectable core v.act.info.id v.act.info.region pa pa)) ∧
  ∀ (core : Nat) (v : Saved) (x b : Nat), Happens (.activationRestore core)
    (fun s => s.admissible core 0 = [] ∧ (s.core core).claimPending = false ∧ (s.physOf core).failed = false ∧
      s.gangReserved core = false ∧ s.nextSaved core = some v ∧ s.recordLost v.act.info.region core v.ctx = none ∧
      (if v.ctxOut then (s.core core).freeCtx else some v.ctx) = some x ∧
      (if v.winOut then placeWindow (s.core core).windows (s.savedAct core v).info.winSize else
        some v.act.info.winBase) = some b ∧
      (v.winOut = true → s.slicesAllow core v.act.info.region (s.savedAct core v).info.winSize = true))
    (fun s => s.restoreAct core x b v)

/-! ### Events of engines, host, scheduler and platform (08, 10, 14 to 19, 22, 23) -/

/-- R218, R219, R263, R286, R296, R307, R362: an operation begins once it may, works, and is performed when its work is
done; a resumed or abandoned one follows the same way. That a grammar operation works one item at each event (log entry
50) and that a chain run starts with its run variables zero (log entry 49) are the model's choices. R192, R198, R313,
R337, R409: a fault parks the context and sends its message, to the region of the faulted operation (the model's reading,
log entry 22); at a boundary every region that was asked stops, and an operation of one of them that heads the queue loses
its macros, which MACRO_RELOAD brings back; before the boundary only the regions with no operation at the head stop. When
the reload runs, and that it is one event, is the model's choice (log entry 48). -/
def Obligations.EngineOperationsComplete : Prop :=
  (∀ (clu k : Nat) (c : EngCmd) (r : CopyRec) (ca cb : AReg),
     Happens (.copyOpBegin clu k)
       (fun s => s.engMayBegin clu k = some { c with work := .copy r ca cb })
       (fun s => (s.setCopyProg clu k
         { gen := if r.srseed = 0 then 1 else BitVec.ofNat 32 r.srseed
           chunkGen := if r.srseed = 0 then 1 else BitVec.ofNat 32 r.srseed }).setRun clu k .running) ∧
     Happens (.copyRowDelivered clu k)
       (fun s => Runs s clu k { c with work := .copy r ca cb } ∧ (s.copyProg clu k).row < r.outRows ∧
         s.engAsked clu k c.region = false ∧ (r.crcm = 2 → (s.copyProg clu k).verified = true) ∧ r.cdst = false)
       (fun s => s.engDone clu k
         (copyPiece { ({ c with work := .copy r ca cb } : EngCmd).eng clu k with exempt := true } r ca cb c.issue
           (s.copyProg clu k) s) (fun t q => t.setCopyProg clu k q)) ∧
     Happens (.copyRowDelivered clu k)
       (fun s => Runs s clu k { c with work := .copy r ca cb } ∧ (s.copyProg clu k).row < r.outRows ∧
         s.engAsked clu k c.region = false ∧ (r.crcm = 2 → (s.copyProg clu k).verified = true) ∧ r.cdst = true)
       (fun s => s.engDone clu k
         (copyChunk { ({ c with work := .copy r ca cb } : EngCmd).eng clu k with exempt := true } r ca cb (s.copyProg clu k) s)
         (fun t q => t.setCopyProg clu k q)) ∧
     Happens (.copyRowDelivered clu k)
       (fun s => Runs s clu k { c with work := .check r ca cb } ∧ (s.copyProg clu k).verified = false ∧
         s.engAsked clu k c.region = false)
       (fun s => s.engDone clu k
         (copyCheck { ({ c with work := .check r ca cb } : EngCmd).eng clu k with exempt := true } r ca cb (s.copyProg clu k) s)
         (fun t q => t.setCopyProg clu k q)) ∧
     Happens (.copyOpPerformed clu k)
       (fun s => Runs s clu k { c with work := .copy r ca cb } ∧ r.outRows ≤ (s.copyProg clu k).row)
       (fun s => s.performEng clu k) ∧
     Happens (.matrixOpBegin clu k)
       (fun s => s.engMayBegin clu (matrixId k) = some c ∧ c.work ≠ .done)
       (fun s => (s.setMatrix clu (matrixId k) { s.matrix clu (matrixId k) with step := 0 }).setRun clu (matrixId k) .running) ∧
     Happens (.mmaIteration clu k)
       (fun s => Runs s clu (matrixId k) c ∧ (s.matrix clu (matrixId k)).step < workSteps c.work ∧
         s.engAsked clu (matrixId k) c.region = false ∧
         (s.cluster clu).accKept (matrixId k) (accRowsOf c.work (s.matrix clu (matrixId k)).step).1
           (accRowsOf c.work (s.matrix clu (matrixId k)).step).2 = false)
       (fun s => s.engDone clu (matrixId k)
         (matrixStep (c.eng clu (matrixId k)) s c.work (s.matrix clu (matrixId k)).step)
         (fun t _ => t.setMatrix clu (matrixId k)
           { t.matrix clu (matrixId k) with step := (s.matrix clu (matrixId k)).step + 1 })) ∧
     Happens (.matrixOpPerformed clu k)
       (fun s => Runs s clu (matrixId k) c ∧ workSteps c.work ≤ (s.matrix clu (matrixId k)).step)
       (fun s => s.performEng clu (matrixId k)) ∧
     Happens (.chainRunBegin clu k)
       (fun s => s.engMayBegin clu (chainId k) = some { c with work := .chain ca })
       (fun s =>
         let t := s.setChain clu (chainId k) { s.chain clu (chainId k) with
           satc := 0, s := 0, p := 0, d := 0, rm := 0, bw := 0, begun := false, ovf := false, wb := none, oldBuf := none
           rowSrc := [], specSrc := [], mid := false, asked := [], recd := none }
         (if c.pinLate then t.pinRanges clu (chainId k) c.core c.region c.issue (.engine clu (chainId k))
           [(ca.base, progPinned ca)] else t).setRun clu (chainId k) .running) ∧
     Happens (.chainStep clu k)
       (fun s => Runs s clu (chainId k) { c with work := .chain ca } ∧
         (s.engAsked clu (chainId k) c.region = true → (s.chain clu (chainId k)).mid = true))
       (fun s => s.engDoneBy (fun t => t.endChain clu (chainId k)) clu (chainId k)
         (chainStepOf { ({ c with work := .chain ca } : EngCmd).eng clu (chainId k) with exempt := true } ca s)
         (fun t fin => if fin then t.endChain clu (chainId k) else t)) ∧
     (∀ g : GrammarOp, Happens (.grammarOpBegin clu k)
       (fun s => s.engMayBegin clu (grammarId k) = some { c with work := .grammar g } ∧
         (s.pinPagesOf clu (grammarId k) (rrtAsk clu (grammarId k) { c with work := .grammar g } g)).rest = none ∧
         s.rrtTaken (s.pinPagesOf clu (grammarId k) (rrtAsk clu (grammarId k) { c with work := .grammar g } g)).runs = false)
       (fun s => s.grammarBegin clu (grammarId k) { c with work := .grammar g } g)) ∧
     (∀ (g : GrammarOp) (r : Nat × Nat), Happens (.grammarOpBegin clu k)
       (fun s => s.engMayBegin clu (grammarId k) = some { c with work := .grammar g } ∧
         (s.pinPagesOf clu (grammarId k) (rrtAsk clu (grammarId k) { c with work := .grammar g } g)).rest = some r)
       (fun s => s.engWalk clu (grammarId k) c.region r.1)) ∧
     ∀ g : GrammarOp,
       Happens (.grammarOpPerformed clu k)
         (fun s => Runs s clu (grammarId k) { c with work := .grammar g } ∧ (s.grammar clu (grammarId k)).run.fin = true)
         (fun s => s.performEng clu (grammarId k)) ∧
       Happens (.grammarOpPerformed clu k)
         (fun s => Runs s clu (grammarId k) { c with work := .grammar g } ∧
           (s.grammar clu (grammarId k)).run.fin = false ∧ s.engAsked clu (grammarId k) c.region = false)
         (fun s => s.grammarDone clu (grammarId k) { c with work := .grammar g } g)) ∧
  (∀ (clu id code val : Nat) (c : EngCmd) (rest : List EngCmd),
     Happens (.engineFaultPark clu id)
       (fun s => (s.eng clu id).run = .faulted code val ∧ (s.eng clu id).queue = c :: rest)
       (fun s => (s.setRun clu id (.parked code val)).sendEngFault clu id c.region code val c.issue) ∧
     Happens (.enginePreemptStop clu id)
       (fun s => (s.eng clu id).queue = c :: rest ∧ (s.eng clu id).asked ≠ [] ∧ s.engAtBoundary clu id = true)
       (fun s =>
         let x := s.eng clu id
         let l := if x.asked.contains c.region then s.loseMacros clu id else (s, false)
         l.1.setEng clu id { x with
           asked := [], stopped := x.stopped.filter (fun q => !(x.asked.contains q)) ++ x.asked, lost := x.lost || l.2 }) ∧
     Happens (.enginePreemptStop clu id)
       (fun s => (s.eng clu id).queue = c :: rest ∧ s.engAtBoundary clu id = false ∧
         (s.eng clu id).asked.filter (fun r => r != c.region) ≠ [])
       (fun s =>
         let x := s.eng clu id
         let go := x.asked.filter (fun r => r != c.region)
         s.setEng clu id { x with
           asked := x.asked.filter (fun r => r == c.region), stopped := x.stopped.filter (fun q => !(go.contains q)) ++ go }) ∧
     ∀ t : State, Happens (.macroReload clu id)
       (fun s => id / 32 = 1 ∧ (s.eng clu id).lost = true ∧ (s.eng clu id).run = .idle ∧ (s.eng clu id).queue = [] ∧
         (s.eng clu id).stopped = [] ∧ s.macrosTaken clu id = false ∧ s.reloadMatrix clu id = .ok t ())
       (fun _ => t.setEng clu id { t.eng clu id with lost := false }))

/-- R158, R161, R167, R218: the signal box works once for each SIGNAL_BOX_FIRE, a timer pulses its line at its time, and a
command that arrives by message takes effect, waits for the walk that its translation misses, or is sent as a fault
message to its sender's region. -/
def Obligations.SignalsAndCommandsComplete : Prop :=
  (∀ clu : Nat, Happens (.signalBoxFire clu) (fun _ => True)
    (fun s => (upTo 8).foldl (fun (t : State) k => t.frameWaiting clu k) (s.sbCycle clu (fun t k => t.frameStart clu k)))) ∧
  (∀ clu t : Nat, Happens (.timerPulse clu t)
    (fun s => t < 8 ∧ (Sparse.get ({} : SbTimer) (s.cluster clu).sb.timers t).period ≠ 0 ∧
      (Sparse.get ({} : SbTimer) (s.cluster clu).sb.timers t).next ≤ s.ns)
    (fun s =>
      let cl := s.cluster clu
      let x := Sparse.get ({} : SbTimer) cl.sb.timers t
      (s.setCluster clu { cl with sb := { cl.sb with
        timers := Sparse.set {} cl.sb.timers t { x with next := x.next + x.period.toNat } } }).pulse clu (24 + t))) ∧
  ∀ (idx clu id : Nat) (q : Packet) (c : Command),
    (∀ t : State, Happens (.engineCommandArrival idx)
      (fun s => s.net[idx]? = some q ∧ q.body = .command c ∧ q.dst = .engine clu id ∧ s.arrived q = true ∧
        s.waitsForHolder q = false ∧ commandArrival s clu id s.freeVal.2 c = .done t)
      (fun _ => t.dropPacket q.id)) ∧
    (∀ region va : Nat, Happens (.engineCommandArrival idx)
      (fun s => s.net[idx]? = some q ∧ q.body = .command c ∧ q.dst = .engine clu id ∧ s.arrived q = true ∧
        s.waitsForHolder q = false ∧ commandArrival s clu id s.freeVal.2 c = .walks region va)
      (fun s => s.engWalk clu id region va)) ∧
    ∀ code val : Nat, Happens (.engineCommandArrival idx)
      (fun s => s.net[idx]? = some q ∧ q.body = .command c ∧ q.dst = .engine clu id ∧ s.arrived q = true ∧
        s.waitsForHolder q = false ∧ commandArrival s clu id s.freeVal.2 c = .refused code val)
      (fun s => ((s.freeVal.1.dropPacket q.id).setEng clu id { s.eng clu id with noPage := [] }).sendEngFault clu id c.region
        code val 0)

/-- R199, R433, R434, R435: a frame that runs is finished by its output, its length, its status and its OWN bit, and the
frame-done line pulses; binding and unbinding write ENCSTAT and the slot. Length and bytes of the output are free values
(log entry 2); that OUTLEN counts the bytes written and that STATUS is 2 exactly when the coded length exceeds OUTCAP is
the model's reading (log entry 52). R394, R396, R397: the partition commands, when nothing is in progress and their
conditions hold; a new partition draws its two keys; a bad command and one that fails completes with its code. -/
def Obligations.EncodersAndPartitionsComplete : Prop :=
  ((∀ (clu k e st l p : Nat) (f : Frame), Happens (.encoderFrameDone clu k)
     (fun s => (s.encSlot clu k).frame = some f ∧ (s.encSlot clu k).bound = some (e, st, l, p) ∧ f.refusal = 0 ∧
       (s.encSlot clu k).unbind = false ∧ s.engQuiet clu (encId k) 0 = true)
     (fun s =>
       let n := min (Config.frameLength s.fresh).toNat (frameOutCap f.desc)
       let d := (s.encSlot clu k).at_ clu
       let t : State := { s.dropPins (fun p => p.clu == clu && p.ctxId == encId k) with fresh := s.fresh + 1 }
       let u := (((t.frameTouch clu d n f).putBytes (cmBase clu + frameOutOff f.desc) ((upTo n).map (fun i => Config.frameByte s.fresh i))).putNat
         (d + 36) 4 n).putNat (d + 40) 1 (if (Config.frameLength s.fresh).toNat ≤ frameOutCap f.desc then 1 else 2)
       ((u.putNat (d + 63) 1 ((u.byteAt (d + 63)).toNat % 128)).setEncSlot clu k
         { s.encSlot clu k with index := (s.encSlot clu k).index + 1, frame := none }).pulse clu (20 + l))) ∧
   (∀ vf v : Nat, Happens (.encbindBind vf v) (fun s => bitAt v 22 = true ∧ s.encbindResult vf v = 0x01)
     (fun s => (s.setVf vf { s.vf vf with encStat := 1, encSlot := some (fld v 9 8, fld v 17 3) }).setEncSlot (fld v 9 8)
       (fld v 17 3) { bound := some (fld v 0 5, fld v 5 4, fld v 20 2, fld v 23 14) })) ∧
   ∀ vf v : Nat, Happens (.encbindUnbind vf v)
     (fun s => bitAt v 22 = false ∧ s.encbindResult vf v = 0x01 ∧ (s.encSlot (fld v 9 8) (fld v 17 3)).frame = none)
     (fun s => (s.setVf vf { s.vf vf with encStat := 1, encSlot := some (fld v 9 8, fld v 17 3) }).setEncSlot (fld v 9 8)
       (fld v 17 3) {})) ∧
  (∀ part vf op : Nat,
     Happens (.create part vf) (fun s => s.platform.busy = false ∧ s.createResult part = 0)
       (fun s => ({ s with fresh := s.fresh + 2, platform := { s.platform with busy := true, clearing := some part } } :
         State).setPart part
           { entry := BitVec.ofNat 1024 (s.platform.pentry.toNat % 2 ^ 768 + 2 ^ 769)
             dataKey := (Config.freeWord s.fresh).setWidth 256, tweakKey := (Config.freeWord (s.fresh + 1)).setWidth 256 }) ∧
     Happens (.create part vf) (fun s => s.platform.busy = false ∧ s.createResult part ≠ 0)
       (fun s => s.pfResult (s.createResult part)) ∧
     Happens (.partitionClearDone part) (fun s => s.platform.clearing = some part)
       (fun s => ((((upTo 256).foldl (fun (t : State) g => if (s.part part).granted g then t.clearCluster g else t) s).zeroRange
         (s.part part).hbmBase (s.part part).hbmLen).setPart part { s.part part with
           entry := BitVec.ofNat 1024 ((s.part part).entry.toNat % 2 ^ 768 + 2 ^ 768), log := 0 }).pfResult 0) ∧
     Happens (.destroy part vf) (fun s => s.platform.busy = false ∧ (s.part part).active = true)
       (fun s =>
         let t := ((s.regions.filter (fun e => partOf e.1 == part)).map (fun e => e.1)).foldl
           (fun (t : State) k => t.endOneRegion k) s
         let u : State := { t with
           vfs := t.vfs.map (fun v =>
             (v.1, if v.2.bound && v.2.part.toNat == part then { v.2 with bound := false, scope := 0 } else v.2))
           parts := Sparse.drop part t.parts }
         ((upTo 256).foldl (fun (t : State) g => if (s.part part).granted g then (t.switchHolder g none).dropSources g else t) u).pfResult
           0) ∧
     Happens (.destroy part vf) (fun s => s.platform.busy = false ∧ (s.part part).active = false) (fun s => s.pfResult 0x43) ∧
     Happens (.bindvf part vf)
       (fun s => s.platform.busy = false ∧ (s.part part).active = true ∧
         ((s.vf vf).bound = true → (s.vf vf).part.toNat = part))
       (fun s => (s.setVf vf { s.vf vf with
         bound := true, part := BitVec.ofNat 6 part, scope := if (s.vf vf).bound then (s.vf vf).scope else 0 }).pfResult 0) ∧
     Happens (.unbindvf part vf)
       (fun s => s.platform.busy = false ∧ (s.part part).active = true ∧
         ((s.vf vf).bound = true → (s.vf vf).part.toNat = part))
       (fun s => (s.setVf vf { s.vf vf with bound := false, scope := 0 }).pfResult 0) ∧
     Happens (.partitionBadCommand op) (fun s => s.platform.busy = false) (fun s => s.pfResult 0x40))

/-- R402, R403, R405, R407: a doorbell submits its slot, a written record stands in a slot that is not submitted, and a
served record launches, registers or ends its region. That a slot is served only once SCHED is set is R417's; the answers
of a launch before that are log entry 53, the model's choice. R415: the messages of a launch over several packages. A
message belongs to the preparation with its record and coordinator (`State.link`), or to the oldest that it can concern;
that, the codes and what may be prepared are the model's choice (log entries 75 and 36). -/
def Obligations.SlotsAndLaunchesComplete : Prop :=
  (∀ vf k v : Nat,
     Happens (.door vf k)
       (fun s => k < 8 ∧ (Sparse.get (0 : BitVec 2) (s.vf vf).stat k = 0 ∨ Sparse.get (0 : BitVec 2) (s.vf vf).stat k = 3))
       (fun s => s.setVf vf { s.vf vf with stat := Sparse.put (s.vf vf).stat k 1, order := (s.vf vf).order ++ [k] }) ∧
     Happens (.slotWrite vf k v)
       (fun s => k < 8 ∧ (Sparse.get (0 : BitVec 2) (s.vf vf).stat k = 0 ∨ Sparse.get (0 : BitVec 2) (s.vf vf).stat k = 3))
       (fun s => s.setVf vf { s.vf vf with
         slots := Sparse.put (s.vf vf).slots k (BitVec.ofNat 1024 v), stat := Sparse.put (s.vf vf).stat k 0 }) ∧
     Happens (.launch vf k) (fun s => Served s vf k 0) (fun s => (serving s vf k).launchOn vf k (s.slotRec vf k) false) ∧
     Happens (.launch vf k) (fun s => (s.vf vf).phase = .waiting k ∧ recKind (s.slotRec vf k) = 0)
       (fun s => s.launchOn vf k (s.slotRec vf k) true) ∧
     Happens (.launchFirstMessages vf k)
       (fun s => (s.vf vf).phase = .placed k ∧ recKind (s.slotRec vf k) = 0 ∧
         (s.region? (recKey (s.slotRec vf k))).isSome = true)
       (fun s => ((s.commitRegion (s.slotRec vf k)).decideJobs (recPart (s.slotRec vf k))).completeSlot vf k
         (if (s.region (recKey (s.slotRec vf k))).contract.admitted then 0x02 else 0x01)) ∧
     Happens (.register vf k) (fun s => Served s vf k 1 ∧ recOff (s.slotRec vf k) < 2 ^ 24)
       (fun s =>
         let q := (serving s vf k).registerRegion (recPart (s.slotRec vf k)) (recOff (s.slotRec vf k))
         q.1.completeSlot vf k q.2) ∧
     Happens (.regionEnd vf k)
       (fun s => Served s vf k 2 ∧ recOff (s.slotRec vf k) < 2 ^ 24 ∧
         ((serving s vf k).region? (recKey (s.slotRec vf k))).isSome = true)
       (fun s => ((serving s vf k).endRegion (recKey (s.slotRec vf k))).completeSlot vf k 0x01)) ∧
  ((∀ vf k : Nat, Happens (.prepare vf k)
     (fun s => Served s vf k 3 ∧ (∀ p ∈ s.prepare, p.coord = none → p.vf = vf → p.slot ≠ k) ∧
       bitAt (fld (s.slotRec vf k) 384 16) Config.package = true ∧ (serving s vf k).preparable (s.slotRec vf k) = true)
     (fun s =>
       let r := s.slotRec vf k
       let p : Prepare :=
         { record := BitVec.ofNat 1024 r, vf := vf, slot := k, coord := none, awaiting := recPackages r
           limit := s.ns + 1000 * fld r 400 32, prepared := false }
       let q := ((serving s vf k).tell (recPackages r) linkPREPARE p.record).placeRegion p.record.toNat false
       match q.2 with
       | .waits => (q.1.setPhase vf (.waiting k)).keepPrep p
       | .failed st => q.1.abortAll p st
       | .placed => (q.1.setPhase vf (.placed k)).commitAll { p with prepared := true })) ∧
   (∀ pkg r : Nat, Happens (.prepareReceive pkg r)
     (fun s => s.prepFrom pkg (BitVec.ofNat 1024 r) = none ∧ bitAt (fld r 384 16) Config.package = true ∧
       pkg ≠ Config.package ∧ s.preparable r = true)
     (fun s =>
       let p : Prepare := { record := BitVec.ofNat 1024 r, vf := 0, slot := 0, coord := some pkg, awaiting := [], limit := 0
                            prepared := false }
       let q := s.placeRegion p.record.toNat false
       match q.2 with
       | .waits => q.1.keepPrep p
       | .failed st => (q.1.dropPrep p).emit (.link pkg (linkREFUSAL + 256 * st) p.record)
       | .placed => (q.1.keepPrep { p with prepared := true }).emit (.link pkg linkACK p.record))) ∧
   (∀ (pkg : Nat) (p : Prepare), Happens (.prepareAckReceive pkg) (fun s => s.prepOwn pkg = some p ∧ s.ns ≤ p.limit)
     (fun s => s.commitAll { p with awaiting := p.awaiting.filter (fun n => n != pkg) })) ∧
   (∀ (pkg st : Nat) (p : Prepare), Happens (.prepareRefusalReceive pkg st) (fun s => s.prepOwn pkg = some p)
     (fun s => s.abortAll p st)) ∧
   (∀ p : Prepare, Happens .prepareTimeout
     (fun s => s.prepare = [p] ∧ p.coord = none ∧ p.awaiting ≠ [] ∧ p.limit ≤ s.ns) (fun s => s.abortAll p 0x30)) ∧
   (∀ p : Prepare, Happens .prepareTimeout (fun s => s.prepare = [p] ∧ (p.awaiting = [] ∨ s.ns < p.limit)) (fun s => s)) ∧
   (∀ p : Prepare, Happens .commit (fun s => s.prepOther true = some p)
     (fun s => ((s.dropPrep p).commitRegion p.record.toNat).decideJobs (recPart p.record.toNat))) ∧
   ∀ p : Prepare, Happens .abort (fun s => s.prepOther false = some p) (fun s => s.discardLaunch p))

/-- R406, R410, R413, R414: releases, deadlines, budgets and completions of jobs, and how a cluster's holder is decided: a
launch that has placed keeps the cluster until its first messages, else a granted job takes it, else a launch that waits
for it, else the draw. When the holder that no draw has replaced stays, and that a change is held back by a frame or by a
hint sequence and drawn again later, are the model's choices (log entry 34). R199, R414, R418, R420, R421: energy is
charged once for each microsecond, and a cluster whose holder has spent its energy is decided anew; a best-effort window
begins anew, a saved unit is read back, and a cluster that nothing holds is gated and wakes. -/
def Obligations.SchedulerAndEnergyComplete : Prop :=
  ((∀ part off : Nat, Happens (.contractRelease part off)
     (fun s =>
       let c := (s.region (regionKey part off)).contract
       c.admitted = true ∧ c.release.isSome = true ∧ c.next ≤ s.ns ∧ (c.active = false ∨ s.jobDone (regionKey part off) = true))
     (fun s =>
       let g := s.region (regionKey part off)
       let c : Contract := { g.contract with
         release := some g.contract.next, next := g.contract.next + g.contract.period.toNat
         left := g.contract.budget.toNat, active := true, ready := true, held := none, judged := false }
       ((s.setRegion (regionKey part off) { g with contract := c, spent := 0 }).firstMessages g.record.toNat).decideJobs
         part)) ∧
   (∀ part off : Nat, Happens (.contractRelease part off)
     (fun s =>
       let c := (s.region (regionKey part off)).contract
       c.admitted = true ∧ c.release.isSome = true ∧ c.next ≤ s.ns ∧ c.active = true ∧ s.jobDone (regionKey part off) = false)
     (fun s =>
       let g := s.region (regionKey part off)
       (s.setRegion (regionKey part off) { g with
         contract := { g.contract with next := g.contract.next + g.contract.period.toNat, ready := true }
         spent := 0 }).decideJobs part)) ∧
   (∀ part off : Nat, Happens (.deadlineExpiry part off)
     (fun s =>
       let c := (s.region (regionKey part off)).contract
       c.admitted = true ∧ c.release.isSome = true ∧ c.judged = false ∧ c.due ≤ s.ns ∧ c.active = true ∧
         s.jobDone (regionKey part off) = false)
     (fun s =>
       let g := s.region (regionKey part off)
       let t := s.setRegion (regionKey part off) { g with contract := { g.contract with judged := true } }
       let pa := (t.part (partOf (regionKey part off))).hbmBase + regionKey part off % 2 ^ 24 + 154
       t.putNat pa 4 ((t.natAt pa 4 + 1) % 2 ^ 32))) ∧
   (∀ part off : Nat, Happens (.budgetExhausted part off)
     (fun s =>
       let c := ((s.region (regionKey part off)).contract).charge s.ns
       c.held.isSome = true ∧ c.left = 0)
     (fun s => (s.setContract (regionKey part off) { ((s.region (regionKey part off)).contract).charge s.ns with
       ready := false, held := none }).decideJobs part)) ∧
   (∀ part off : Nat, Happens (.jobComplete part off)
     (fun s => (((s.region (regionKey part off)).contract).charge s.ns).active = true ∧
       s.jobDone (regionKey part off) = true)
     (fun s => (s.setContract (regionKey part off) { ((s.region (regionKey part off)).contract).charge s.ns with
       active := false, ready := false, held := none }).decideJobs part)) ∧
   ∀ g key : Nat,
     Happens (.quantumBoundary g) (fun s => (s.decideJobs ((s.ownerOf g).getD 0)).placing g = true)
       (fun s =>
         let t := s.decideJobs ((s.ownerOf g).getD 0)
         t.setCluster g { t.cluster g with quantum := t.quantumNow g }) ∧
     Happens (.quantumBoundary g)
       (fun s =>
         let t := s.decideJobs ((s.ownerOf g).getD 0)
         t.placing g = false ∧ t.jobOn g = some key ∧ t.holdsBack g key = false)
       (fun s => (s.decideJobs ((s.ownerOf g).getD 0)).switchHolder g (some key)) ∧
     Happens (.quantumBoundary g)
       (fun s =>
         let t := s.decideJobs ((s.ownerOf g).getD 0)
         t.placing g = false ∧ t.jobOn g = none ∧ (t.cluster g).quantum = t.quantumNow g ∧
           ((t.cluster g).holder = some key ∧ (∃ e ∈ t.regions, t.eligibleOn g e = true ∧ e.1 = key) ∨
             (t.cluster g).holder = none ∧ (t.cluster g).vacant = true))
       (fun s => s.decideJobs ((s.ownerOf g).getD 0)) ∧
     Happens (.quantumBoundary g)
       (fun s =>
         let t := s.decideJobs ((s.ownerOf g).getD 0)
         t.placing g = false ∧ t.jobOn g = none ∧ t.settled g = false ∧ (t.placers g false).head? = some key ∧
           t.holdsBack g key = false)
       (fun s =>
         let t := s.decideJobs ((s.ownerOf g).getD 0)
         (t.setCluster g { t.cluster g with quantum := t.quantumNow g }).switchHolder g (some key)) ∧
     Happens (.quantumBoundary g)
       (fun s =>
         let t := s.decideJobs ((s.ownerOf g).getD 0)
         t.placing g = false ∧ t.jobOn g = none ∧ t.settled g = false ∧ t.placers g false = [] ∧
           (drawHolder (t.cluster g).lot (t.regions.filter (t.eligibleOn g))).1 = some key ∧ t.holdsBack g key = false)
       (fun s =>
         let t := s.decideJobs ((s.ownerOf g).getD 0)
         (t.setCluster g { t.cluster g with
           lot := (drawHolder (t.cluster g).lot (t.regions.filter (t.eligibleOn g))).2
           quantum := t.quantumNow g }).switchHolder g (some key)) ∧
     Happens (.quantumBoundary g)
       (fun s =>
         let t := s.decideJobs ((s.ownerOf g).getD 0)
         t.placing g = false ∧ t.jobOn g = none ∧ t.settled g = false ∧ t.placers g false = [] ∧
           t.regions.filter (t.eligibleOn g) = [] ∧ (t.cluster g).holder = some key ∧ t.mayIdle g key = false ∧
           t.midSequence g = false)
       (fun s =>
         let t := s.decideJobs ((s.ownerOf g).getD 0)
         let u := (t.setCluster g { t.cluster g with quantum := t.quantumNow g }).switchHolder g none
         u.setCluster g { u.cluster g with vacant := true })) ∧
  (Happens .energyCharge (fun s => s.platform.charged < s.ns / 1000)
     (fun s =>
       let t : State := { s with platform := { s.platform with charged := s.ns / 1000 } }
       let u := (upTo 12).foldl (fun (u : State) k => u.chargeStack k)
         ((upTo Config.clusters).foldl (fun (u : State) g => u.chargeCluster g) t)
       let spent (r : Region) : Bool := r.contract.wants && decide (r.eff.energy.toNat ≤ r.spent)
       let v := (((u.regions.filter (fun e => spent e.2)).map (fun e => partOf e.1)).eraseDups).foldl
         (fun (v : State) p => v.decideJobs p)
         { u with hbmUse := [], regions := u.regions.map (fun e =>
             if spent e.2 then (e.1, { e.2 with contract := { e.2.contract with ready := false } }) else e) }
       (upTo Config.clusters).foldl (fun (w : State) g => if w.spentHolder g then w.redecide g else w) v) ∧
   (∀ (part off : Nat) (r : Region), Happens (.energyWindowBoundary part off)
     (fun s => s.region? (regionKey part off) = some r ∧ r.contract.admitted = false ∧ s.ns / r.eff.eper.toNat ≠ r.window)
     (fun s => s.setRegion (regionKey part off) { r with spent := 0, window := s.ns / r.eff.eper.toNat })) ∧
   (∀ unit key : Nat, Happens (.lazyUnitRestore unit)
     (fun s => (Sparse.get ({} : UnitRec) s.units unit).saved.find? (s.unitAwaited unit) = some key)
     (fun s => s.touch key (4096 * unit) false)) ∧
   (∀ g : Nat, Happens (.clusterPowerGate g)
     (fun s => (s.cluster g).gated = none ∧ (s.cluster g).holder = none ∧
       (∀ x ∈ (s.cluster g).enc, x.2.frame = none) ∧ (s.cluster g).trace.drained = true)
     (fun s => s.setCluster g { s.cluster g with gated := some s.clock })) ∧
   ∀ g : Nat, Happens (.clusterWake g) (fun _ => True) (fun s => s.wake g))

/-- R191, R417, R422 to R427: reset, readiness, failures, and links. Health bits are those of R425. A reset takes an
updated image and zeroes the package's own memory (the zeroing is log entry 4's choice); SCHED is set only where both
images pass. The numbers of the self-tests are log entry 55's, and which failure takes a cluster log entry 37's. An
uncorrectable error names an activation by its core and context; numbers from 8192 on name an engine context of a cluster
(log entry 56). All these are the model's choices. R393, R396: the host reads and writes the shared window of the
partition that its VF serves; outside it a read brings all ones, and a write is discarded, each with an event record. -/
def Obligations.PlatformAndHostComplete : Prop :=
  (Happens .deviceReset (fun _ => True) (fun s => { State.reset with
     platform := { devImage := s.platform.devUpdate.getD s.platform.devImage
                   schedImage := s.platform.schedUpdate.getD s.platform.schedImage }
     mem := s.mem, tags := s.tags, wlog := .zero 0 0x100000000000 :: s.wlog
     fresh := s.fresh + 256, out := s.out, agenda := s.agenda, nextId := s.nextId
     vfs := (upTo 256).map (fun v => (v, { nonce := (Config.freeWord (s.fresh + v)).setWidth 256 })) }) ∧
   (∀ fn : Nat, Happens (.selfTestPass fn) (fun s => fn < 256 ∧ s.platform.lostClu.contains fn = false)
     (fun s => s.setPlatform { s.platform with readyClu := s.platform.readyClu ||| BitVec.ofNat 256 (2 ^ fn) })) ∧
   Happens (.selfTestPass 256) (fun _ => True) 
     (fun s => s.setPlatform { s.platform with
       sched := firmwareOk s.platform.devImage && firmwareOk s.platform.schedImage }) ∧
   Happens (.selfTestPass 257) (fun _ => True) (fun s => s.setPlatform { s.platform with cxl := true }) ∧
   (∀ n : Nat, n < 12 → Happens (.selfTestPass (258 + n)) (fun _ => True)
     (fun s => s.setPlatform { s.platform with hbm := s.platform.hbm ||| BitVec.ofNat 12 (2 ^ n) })) ∧
   (∀ n : Nat, n < 12 → Happens (.selfTestPass (270 + n)) (fun _ => True)
     (fun s => s.setPlatform { s.platform with link := s.platform.link ||| BitVec.ofNat 12 (2 ^ n) })) ∧
   (∀ n : Nat, n < 32 → Happens (.selfTestPass (282 + n)) (fun _ => True)
     (fun s => s.setPlatform { s.platform with enc := s.platform.enc ||| BitVec.ofNat 32 (2 ^ n) })) ∧
   (∀ n : Nat, Happens (.unitFailure 0 n) (fun s => n < 8192 ∧ (s.physOf n).failed = false)
     (fun s => (s.countAt (.core (s.physAt n).1 (s.physAt n).2)).coreFails n)) ∧
   (∀ n : Nat, Happens (.unitFailure 1 n) (fun s => n < 256 ∧ s.platform.lostClu.contains n = false)
     (fun s => s.clusterFails n)) ∧
   (∀ (core ctx va pa : Nat) (a : Activation), Happens (.uncorrectableMemory core ctx va pa)
     (fun s => core < 8192 ∧ s.act? core ctx = some a)
     (fun s => (s.uncorrectable core a.info.id a.info.region va pa).countError pa)) ∧
   (∀ (clu id va pa : Nat) (c : EngCmd), Happens (.uncorrectableMemory (8192 + clu) id va pa)
     (fun s => (s.eng clu id).current = some c)
     (fun s => ((s.engLost clu id c.region c.issue pa va).endOp clu id).countError pa)) ∧
   ∀ l : Nat, l < 12 → Happens (.linkDown l) (fun s => s.net = [] ∧ s.prepare = [])
     (fun s => (s.setPlatform { s.platform with
       link := s.platform.link &&& ~~~(BitVec.ofNat 12 (2 ^ l)) }).setHealth hDEGRADED)) ∧
  (∀ vf pa len v : Nat,
     Happens (.cxlMemRead vf pa len) (fun s => s.sharedWindow vf pa len = true ∧
         ∀ q ∈ s.net, q.src = .host → (runHomes pa len).contains q.dst = false)
       (fun s => (s.useRange pa len).emit (.memData vf pa (s.bytesAt pa len))) ∧
     Happens (.cxlMemRead vf pa len) (fun s => s.sharedWindow vf pa len = false)
       (fun s => (s.emit (.memData vf pa (List.replicate len 0xFF))).emit (.event 0 pa)) ∧
     Happens (.cxlMemWrite vf pa len v) (fun s => s.sharedWindow vf pa len = true)
       (fun s => State.hostWrites (len / 4096 + 2) s pa (toBytes len v)) ∧
     Happens (.cxlMemWrite vf pa len v) (fun s => s.sharedWindow vf pa len = false) (fun s => s.emit (.event 0 pa)))

/-- R416: the requests of the attestation responder, each when it is expected. The codes and the order of requests are the
model's choice by log 38; the content of an answer is a free word where the standard alone lays it down. -/
def Obligations.AttestationComplete : Prop :=
  ∀ fn slot ix : Nat,
    Happens (.getVersion fn) (fun _ => True) (fun s => s.answer fn 0x84 { version := true } [0x13]) ∧
    Happens (.getCapabilities fn) (fun s => (s.spdmOf fn).version = true)
      (fun s => s.freeAnswer fn 0xE1 { s.spdmOf fn with caps := true } []) ∧
    Happens (.negotiateAlgorithms fn 3) (fun s => (s.spdmOf fn).caps = true)
      (fun s => s.answer fn 0xE3 { s.spdmOf fn with negotiated := true } [3]) ∧
    Happens (.getDigests fn) (fun s => (s.spdmOf fn).negotiated = true) (fun s => s.freeAnswer fn 0x81 (s.spdmOf fn) []) ∧
    Happens (.getCertificate fn slot) (fun s => (s.spdmOf fn).negotiated = true ∧ slot < 8)
      (fun s => s.freeAnswer fn 0x82 (s.spdmOf fn) [slot]) ∧
    Happens (.challenge fn slot) (fun s => (s.spdmOf fn).negotiated = true ∧ slot < 8)
      (fun s => s.freeAnswer fn 0x83 (s.spdmOf fn) [slot]) ∧
    Happens (.getMeasurements fn ix)
      (fun s => (s.spdmOf fn).negotiated = true ∧ ix ≠ 0 ∧ ix ≠ 0xFF ∧ ∃ m ∈ s.measurements fn, m.1 = ix)
      (fun s => s.freeAnswer fn 0xE0 (s.spdmOf fn)
        (((s.measurements fn).filter (fun y => y.1 == ix)).flatMap (fun y => [y.1, y.2]))) ∧
    Happens (.getMeasurements fn 0xFF) (fun s => (s.spdmOf fn).negotiated = true)
      (fun s => s.freeAnswer fn 0xE0 (s.spdmOf fn) ((s.measurements fn).flatMap (fun y => [y.1, y.2]))) ∧
    Happens (.keyExchange fn slot) (fun s => (s.spdmOf fn).negotiated = true ∧ slot < 8)
      (fun s => s.freeAnswer fn 0xE4 { s.spdmOf fn with exchange := true } [slot]) ∧
    Happens (.finish fn) (fun s => (s.spdmOf fn).exchange = true)
      (fun s => s.freeAnswer fn 0xE5 { s.spdmOf fn with exchange := false, session := true } [])

/-- R428 to R430, R432: debug tokens and scopes, the debug window, halting, stepping, and clearing the profile. A token
draws a new nonce, a free value, whether it is accepted or not. -/
def Obligations.DebugEventsComplete : Prop :=
  ∀ vf core ctx v : Nat,
    Happens (.debugTokenSubmit vf) (fun _ => True)
      (fun s =>
        let f := s.vf vf
        ({ s with fresh := s.fresh + 1 } : State).setVf vf { f with
          scope := if s.tokenOk vf then BitVec.ofNat 4 (fld f.token.toNat 264 4) else f.scope
          expiry := if s.tokenOk vf then BitVec.ofNat 64 (fld f.token.toNat 320 64) else f.expiry
          nonce := (Config.freeWord s.fresh).setWidth 256 }) ∧
    Happens (.debugScopeRevoke vf) (fun _ => True) (fun s => s.setVf vf { s.vf vf with scope := 0 }) ∧
    Happens (.debugScopeExpiry vf) (fun s => (s.vf vf).expiry.toNat ≤ s.ns)
      (fun s => s.setVf vf { s.vf vf with scope := 0 }) ∧
    Happens (.dbgdataWrite vf v) (fun s => s.dbgAllowed vf = true)
      (fun s => s.csrWrite (fld (s.vf vf).dbgSel.toNat 0 13) (fld (s.vf vf).dbgSel.toNat 13 8) v) ∧
    Happens (.dbgdataWrite vf v) (fun s => s.dbgAllowed vf = false) (fun s => s) ∧
    Happens (.dbgdataRead vf) (fun s => s.dbgAllowed vf = true)
      (fun s => s.emit (.dbgData vf
        (BitVec.ofNat 64 (s.csrRead (fld (s.vf vf).dbgSel.toNat 0 13) (fld (s.vf vf).dbgSel.toNat 13 8))))) ∧
    Happens (.dbgdataRead vf) (fun s => s.dbgAllowed vf = false) (fun s => s.emit (.dbgData vf 0)) ∧
    Happens (.halt core) (fun _ => True) (fun s => s.setHalt core true) ∧
    Happens (.debugResume core) (fun _ => True) (fun s => s.setHalt core false) ∧
    Happens (.step core ctx) (fun s => (s.core core).dbg.halt = true ∧ (s.act? core ctx).isSome = true)
      (fun s => s.setCore core { s.core core with
        dbg := { (s.core core).dbg with want := some ctx, stepSeq := none, stepDone := false, stepPark := false } }) ∧
    Happens (.stepdone core)
      (fun s => (s.core core).dbg.want = none ∧ (s.core core).dbg.stepping = some ctx ∧ (s.core core).dbg.stepOp = none ∧ s.stepDrained core ctx = true)
      (fun s => s.setCore core { s.core core with
        dbg := { (s.core core).dbg with stepping := none, stepOp := none, stepDone := true, stepPark := false } }) ∧
    Happens (.clear core) (fun _ => True) (fun s => s.setCore core { s.core core with prof := [] })

/-- R8, R117, R118, R160, R431: the writes of registers that have an event of their own are the CSR write with their
number; the others take their RW fields; and the trace drain moves the oldest record into the ring. R426, R434: CAPACITY
of a bound VF counts the ready clusters of its partition, the logical cores missing from them and the retired blocks of
its HBM grant; ENCSTAT holds the result of the last ENCBIND write, and of the slot that the last accepted one named the
ring index and whether a frame is in progress. -/
def Obligations.RegisterWritesComplete : Prop :=
  (∀ core v : Nat,
     Happens (.xbWrite core v) (fun s => s.ownLmQuiet core = true) (fun s => s.csrWrite core 0x003 v) ∧
     (∀ r ∈ ([(.seedWrite core v, 0x008), (.lotstateWrite core v, 0x00B), (.issuepolWrite core v, 0x009),
         (.sbdataWrite core v, 0x011), (.trdstWrite core v, 0x083), (.xflagsWrite core v, 0x007),
         (.registerWrite core 0x00A v, 0x00A), (.registerWrite core 0x010 v, 0x010), (.registerWrite core 0x050 v, 0x050),
         (.registerWrite core 0x081 v, 0x081)] : List (Instr × Nat)),
       Happens r.1 (fun _ => True) (fun s => s.csrWrite core r.2 v)) ∧
     (∀ k : Nat, Happens (.overrunClear core k) (fun _ => k < 32)
       (fun s => s.setCluster core { s.cluster core with
         sb := (s.cluster core).sb.setOut k
           { Sparse.get ({} : SbOutput) (s.cluster core).sb.outs k with overrun := false } })) ∧
     ∀ clu : Nat, Happens (.traceDrain clu)
       (fun s => ((s.cluster clu).trace.settle s.clock).dst ≠ 0 ∧ ((s.cluster clu).trace.settle s.clock).held ≠ 0)
       (fun s =>
         let t := (s.cluster clu).trace.settle s.clock
         ((s.setCluster clu { s.cluster clu with trace := { t with
           recs := Sparse.drop t.dptr.toNat t.recs, dptr := t.dptr + 1, held := t.held - 1, ring := t.ring + 1 } }).useRange
             (t.dst.toNat + 16 * t.ring.toNat) 16).putNat (t.dst.toNat + 16 * t.ring.toNat) 16 (Sparse.get (0 : Word128) t.recs t.dptr.toNat).toNat)) ∧
  ((∀ (s : State) (vf : Nat), (s.vf vf).bound = true →
     let p := s.part (s.vf vf).part.toNat
     let ready := (upTo 256).filter (fun g => p.granted g && bitAt s.platform.readyClu.toNat g)
     fld (s.capacity vf) 0 9 = ready.length ∧
     fld (s.capacity vf) 9 14 = (ready.map (fun g => ((upTo 32).filter (fun i => (s.physOf (32 * g + i)).failed)).length)).sum ∧
     fld (s.capacity vf) 23 32 = s.lostBlocks p % 2 ^ 32 ∧
     fld (s.capacity vf) 55 9 = 0) ∧
   ∀ (s : State) (vf g k : Nat),
     fld (s.encstat vf) 0 8 = (s.vf vf).encStat.toNat ∧
     ((s.vf vf).encSlot = some (g, k) →
       fld (s.encstat vf) 8 4 = (s.encSlot g k).index.toNat ∧ bitAt (s.encstat vf) 12 = (s.encSlot g k).frame.isSome))

/-! ### The machine as a whole -/

/-- R13, R130: the word that an activation fetches next goes with its address into the buffer that R11 gives, at the head
where the buffers were empty; and a head that stands when a turn begins, and decodes to `i`, is run by that turn, if it is
eligible: the turn is `exec i`, and the step that makes the turn is it too. A word that counts as fetched before (its
number is below `seen`, as that of a placed word is) runs in the turn that fetches it. -/
def Obligations.StepRunsDecoded : Prop :=
  (∀ (s : State) (k c : Nat) (a : Activation),
    AboutToFetch s k c a → isHint (s.nextWord k a) = false →
    ∃ f b e, fetchAll k [c] s = .next f ∧ HeadStands f k c b (halfOf (s.nextWord k a)) e ∧
      e.word.toNat = s.nextWord k a ∧ e.pc = a.f.pc ∧ e.wpc = a.f.pc ∧
      ∀ i, decode (s.nextWord k a) = .ok i → a.f.nextSeq < a.f.seen → TurnRuns s f k c (halfOf (s.nextWord k a)) i) ∧
  ∀ (s : State) (k c : Nat) (a : Activation) (h : Half) (e : Entry) (i : Instr),
    HeadStands s k c a h e → decode e.word.toNat = .ok i →
    ∃ f b, fetchAll k [c] s = .next f ∧ HeadStands f k c b h e ∧ TurnRuns s f k c h i

/-- R43 to R57: words written out from the encoding tables decode to their instructions, and reserved ones to none. -/
def Obligations.DecodeWords : Prop :=
  decode 0x01A40808 = .ok (.add 5 16 16 8) ∧ decode 0x04A03871 = .ok (.mul 5 0 112 113) ∧
  decode 0x96088A80 = .ok (.ld 1 2 5 2 0 0 0) ∧ decode 0x9E38C0C0 = .ok (.sta 7 3 0 3 0 0) ∧
  decode 0xA811C005 = .ok (.csrw 2 7 5) ∧ decode 0xBC500003 = .ok (.loop 10 3) ∧
  decode 0xB483BFFF = .ok (.bltu 16 14 (2 ^ 14 - 1)) ∧ decode 0xCC024060 = .ok (.tlwait 9 0x60) ∧
  decode 0xCF000000 = .ok .eret ∧ decode 0xA300004D = .ok (.fenceRel 5) ∧
  decode 0xFC000000 = .ok .nop ∧ decode 0xFB000000 = .ok .hyld ∧
  decode 0xE2500001 = .ok (.chrunStart 10 0 1) ∧ decode 0xEA509018 = .ok (.grscanX 10 2 8 1 0 0) ∧
  (∀ w ∈ [0x00000000, 0xFC000001, 0xFFFFFFFF], ∀ i, decode w ≠ .ok i)

/-- R43 to R47: every word of a well-formed instruction is read back, so that no bit of an encoding is dropped. -/
def Obligations.DecodeReadsEncode : Prop :=
  ∀ (i : Instr) (w : Nat), i.wellFormed = true → encode i = some w → decode w = .ok i

/-- R43, R60: a word decodes to one well-formed instruction at most, which has no other word; every bit of a word counts. -/
def Obligations.EncodeReadsDecode : Prop :=
  ∀ (w : Nat) (i : Instr), w < 2 ^ 32 → decode w = .ok i → i.wellFormed = true ∧ encode i = some w

/-- Right after reset: XB is 0x1_0000 (R39), the generators of the lottery are those of R143, trap records are zero
(R183), bond dimensions are 1 and the capabilities of a chain context are untagged (R288), counters are 0 (R262), no
function is ready (R422), memory reads zero, and nothing is resident. What the spec gives no reset value for stands in log
3. -/
def Obligations.ResetValues : Prop :=
  (∀ k, (State.reset.core k).csr.xb.toNat = 0x10000 ∧ (State.reset.core k).csr.lot = BitVec.ofNat 32 (k + 1) ∧
    (State.reset.core k).csr.xflags = 0 ∧ (State.reset.core k).csr.pol = false ∧
    (State.reset.core k).csr.t1 = 1 ∧ (State.reset.core k).csr.t2 = 1 ∧ (State.reset.core k).csr.t3 = 1 ∧
    (State.reset.core k).acts = [] ∧ (State.reset.core k).siding = [] ∧ (State.reset.core k).trapRecs = []) ∧
  (∀ g id, (State.reset.timeline g id).issued = 0 ∧ (State.reset.timeline g id).counter = 0) ∧
  (∀ g, (State.reset.cluster g).eng = [] ∧ (State.reset.cluster g).chains = [] ∧ (State.reset.cluster g).holder = none ∧
    (State.reset.cluster g).energy = 0) ∧
  (({} : ChainCtx).prog.tag = false ∧ ({} : ChainCtx).buf.tag = false ∧ ({} : ChainCtx).grad.tag = false ∧
    ({} : ChainCtx).cursor = 0 ∧ ∀ j, ({} : ChainCtx).bond j = 1) ∧
  (State.reset.platform.sched = false ∧ State.reset.platform.readyClu = 0 ∧ State.reset.platform.cxl = false ∧
    State.reset.platform.hbm = 0 ∧ State.reset.platform.link = 0) ∧
  (∀ pa, State.reset.byteAt pa = 0) ∧ (∀ u, State.reset.tagAt u = false) ∧ State.reset.regions = [] ∧ State.reset.clock = 0

/-- Reset leaves memory in its canonical form with no change outstanding. -/
def Obligations.ResetSettled : Prop := Settled State.reset

/-- Every step keeps memory in its canonical form, with each change of the step applied (R37, R205). -/
def Obligations.StepKeepsSettled : Prop := ∀ s t : State, Settled s → step s = .next t → Settled t

/-- R182: whatever happens to it, no instruction and no event stops the machine: a trap is a next state. -/
def Obligations.NoInstructionStops : Prop := ∀ (i : Instr) (s : State), ∃ t, exec i s = .next t

/-- R30: c0 reads as untagged zero, and a write to it is discarded, a tagged one included; every other register reads back
what was written to it last, and a write leaves the others alone. -/
def Obligations.RegisterFile : Prop :=
  ∀ (a : Activation) (q r : Nat) (v : AReg),
    a.reg 0 = {} ∧ a.setReg 0 v = a ∧ (r ≠ 0 → (a.setReg r v).reg r = v) ∧ (q ≠ r → (a.setReg r v).reg q = a.reg q)

/-- R37: a write of bytes changes these bytes and no other, and clears the tag of every unit that it overlaps and no
other; STC's write of a tag changes no byte and no other tag. -/
def Obligations.MemoryLaw : Prop :=
  ∀ (s : State) (pa : Nat) (l : List Byte),
    (∀ q, (s.putBytes pa l).byteAt q = if q < pa then s.byteAt q else (l[q - pa]?).getD (s.byteAt q)) ∧
    (∀ u, (s.putBytes pa l).tagAt u =
      if l ≠ [] ∧ pa / 16 ≤ u ∧ 16 * u < pa + l.length then false else s.tagAt u) ∧
    (∀ u t q, (s.putTag u t).byteAt q = s.byteAt q ∧ (s.putTag u t).tagAt q = if u = q then t else s.tagAt q)

/-- R50, R183, R184: a trap outside a gang writes the record of the activation's context (its cause and value, the
trapping word's address, and where it resumes), and from then on the activation drains: it dispatches nothing younger than
the trapping word. Its registers, window, queues and buffers stand, but that the hints before the trapping word count as
not executed (R50: they execute again); and so do the other cores, memory and every other record. -/
def Obligations.TrapEntry : Prop :=
  ∀ (s : State) (h : Half) (a : Activation) (cause val : Nat), s.cur? = some a → a.flow.gang = none →
    let e := a.headEntry h
    let t := s.takeTrap h cause val
    (∃ b, t.cur? = some b ∧ b.flow.status = .draining h e.seq ∧
      b.regs = a.regs ∧ b.win = a.win ∧ b.q = a.q ∧ b.f = (a.rehint h).f ∧ b.headEntry h = { e with taken := 0 } ∧
      b.pend = a.pend ∧ b.info = a.info ∧ b.flow.byEntry = (e.kind != .word) ∧
      b.mayDispatch h = false ∧ (b.mayDispatch h.other = true → (b.headEntry h.other).seq < e.seq)) ∧
    Sparse.get {} (t.curCore).trapRecs s.focus.ctx =
      { cause := BitVec.ofNat 8 cause, ctx := BitVec.ofNat 3 s.focus.ctx, half := h.isX, late := false, fpc := e.wpc,
        pc := e.pc, val := BitVec.ofNat 64 val, ns := s.ns } ∧
    (∀ c, c ≠ s.focus.ctx → Sparse.get {} (t.curCore).trapRecs c = Sparse.get {} s.curCore.trapRecs c ∧
      t.act? s.focus.core c = s.act? s.focus.core c) ∧
    (∀ k, k ≠ s.focus.core → t.core k = s.core k) ∧ SameMemory s t ∧ t.verdict = .trapped ∧
    (h = .a → Ready s .a a → (e.kind = .overlay → trapEntryTurn s = .next (s.takeTrap .a 0x05 e.word.toNat)) ∧
      (e.kind = .loopEnd → trapEntryTurn s = .next (s.takeTrap .a 0x06 0)))

/-- R185, R190, R388: the activation that a return from a trap resumes runs again. With TRAPPC as it was at parking both
buffers, the fetch position and the loop records stand exactly; only where its own entry of OVERLAY or LOOP_END_ILLEGAL
parked it (the entry was at the head and took the trap: `byEntry`, which TrapEntry sets) is that entry taken away, and
fetch begins again at TRAPPC, the words before it standing. With another TRAPPC the buffers are empty and fetch begins
there. Window, queues, loop records and return stack stand always, and the registers but for the counts of hardware loops
that land (R123). -/
def Obligations.ReturnFromTrap : Prop :=
  ∀ (a : Activation) (p pc : BitVec 14),
    let b := a.resumeAt p pc
    b.flow.status = .running ∧ SameRegs [] a b ∧ b.win = a.win ∧ b.q = a.q ∧ b.pend = a.pend ∧ b.info = a.info ∧
      b.f.loops = a.f.loops ∧ b.f.rstack = a.f.rstack ∧
    (pc = p → a.flow.byEntry = false → b.f = a.f ∧ b.regs = a.regs) ∧
    (pc = p → a.flow.byEntry = true →
      b.f = { a.f with pc := pc, wrapped := false, stop := .running, seqHints := []
                       abuf := a.f.abuf.filter (fun e => e.kind == .word) } ∧ b.regs = a.regs) ∧
    (pc ≠ p → b.f.abuf = [] ∧ b.f.xbuf = [] ∧ b.f.seqHints = [] ∧ b.f.pc = pc ∧ b.f.stop = .running)

/-- R35: the checks of an access of `LD` in their order: CAP_TAG, CAP_PERM, CAP_BOUNDS, ALIGN, each with the offset as
TRAPVAL. The capability operand c0 raises CAP_TAG. -/
def Obligations.CapabilityChecks : Prop :=
  ∀ (q d o z sg r p : Nat) (s : State) (a : Activation), Ready s .a a → Sends s a → (a.ldq q).length < 16 →
    Readable a [d, o] →
    let c := a.reg d
    let off := a.lo o
    (c.tag = false → exec (.ld q d o z sg r p) s = .next (s.takeTrap .a 0x10 off)) ∧
    (d = 0 → exec (.ld q d o z sg r p) s = .next (s.takeTrap .a 0x10 off)) ∧
    (c.tag = true → c.perm permLD = false → exec (.ld q d o z sg r p) s = .next (s.takeTrap .a 0x12 off)) ∧
    (c.tag = true → c.perm permLD = true → c.top - c.base < off + 2 ^ z →
      exec (.ld q d o z sg r p) s = .next (s.takeTrap .a 0x11 off)) ∧
    (c.tag = true → c.perm permLD = true → off + 2 ^ z ≤ c.top - c.base → (c.base + off) % 2 ^ z ≠ 0 →
      exec (.ld q d o z sg r p) s = .next (s.takeTrap .a 0x18 off))

/-- R58: XFENCE, WFI, ERET, ERET.END and a CSRW to a protected CSR, dispatched by an activation whose privileged bit is
clear, take PRIVILEGE with the instruction word as TRAPVAL; nothing else is changed. -/
def Obligations.PrivilegeTraps : Prop :=
  ∀ (s : State) (a : Activation), Ready s .a a → a.info.priv = false →
    (∀ p, Orderly s a → exec (.xfence p) s = .next (s.takeTrap .a 0x04 (a.headEntry .a).word.toNat)) ∧
    exec .wfi s = .next (s.takeTrap .a 0x04 (a.headEntry .a).word.toNat) ∧
    (XQuiet a → exec .eret s = .next (s.takeTrap .a 0x04 (a.headEntry .a).word.toNat) ∧
      exec .eretEnd s = .next (s.takeTrap .a 0x04 (a.headEntry .a).word.toNat)) ∧
    (∀ d x i, s.xDrained (a.headEntry .a).seq = true → Readable a [d, x] → (a.headEntry .a).immU 14 i < 0x1000 →
      ((a.headEntry .a).immU 14 i = 0x003 → s.ownWritesDone s.focus.core a.info.id = true) →
      csrProtected ((a.headEntry .a).immU 14 i) = true →
      exec (.csrw d x i) s = .next (s.takeTrap .a 0x04 (a.headEntry .a).word.toNat))

/-- R59: a word with one of the 38 unassigned opcodes, whatever its other bits, goes to the A buffer, is no control
transfer, and traps with ILLEGAL_INSTRUCTION and the word when it is at the head. -/
def Obligations.UnassignedOpcodesTrap : Prop :=
  ∀ w : Nat, w < 2 ^ 32 →
    (opcodeOf w = 0x00 ∨ (0x3C ≤ opcodeOf w ∧ opcodeOf w ≤ 0x3F) ∨ (0x78 ≤ opcodeOf w ∧ opcodeOf w ≤ 0x7F) ∨
      (0xA9 ≤ opcodeOf w ∧ opcodeOf w ≤ 0xAF) ∨ (0xDA ≤ opcodeOf w ∧ opcodeOf w ≤ 0xDF) ∨
      (0xE5 ≤ opcodeOf w ∧ opcodeOf w ≤ 0xE7) ∨ opcodeOf w = 0xEE ∨ opcodeOf w = 0xEF ∨
      (0xF3 ≤ opcodeOf w ∧ opcodeOf w ≤ 0xF7) ∨ opcodeOf w = 0xFE ∨ opcodeOf w = 0xFF) →
    isXWord w = false ∧ isHint w = false ∧ isControl w = false ∧ (∀ i, decode w ≠ .ok i) ∧
    ∀ (s : State) (a : Activation), Ready s .a a → execWord w s = .next (s.takeTrap .a 0x01 w)

/-- R58, R118: an activation without privilege, outside a gang, changes no guarded CSR of any core by dispatching anything
that a word encodes: those are the protected CSRs that `Csrs` holds (`Csrs.guarded`). The registers of the trap record, of
the signal box, of the trace, of the profile and DBGCTL stand elsewhere; of them this says nothing. -/
def Obligations.UnprivilegedKeepsProtected : Prop :=
  ∀ (i : Instr) (s t : State) (a : Activation), (encode i).isSome = true → s.cur? = some a → a.info.priv = false →
    a.flow.gang = none → exec i s = .next t → ∀ k, (t.core k).csr.guarded = (s.core k).csr.guarded

/-- The frame of a dispatch towards the rest of the part: whatever a word encodes but CALL and RET, which use the spill
area of the own LM, and CSRW and CVTSR, which write CSRs, changes no byte and no tag of memory, no accumulator, no CSR,
and nothing of the platform, of partitions and of regions (12 R208: an access is performed at its home, later); a trap
that aborts a gang lands the flags of its members' X results in XFLAGS (`Kept`; 08 R151, 13 R243). CHPROG.KEEP,
CHRUN.RESUME and CHRUN.ABN send a fault message that is still owed before they act, and one without a fault domain goes
outside as an event record: but for that they keep the same. END, DISBAND and ERET.END end activations whose flags land;
END keeps XFLAGS too where no other activation ends with its own, and DISBAND outside a gang. ERET outside a gang keeps
all of it where the activation that it serves holds a context; the record of one in the save area is written there (10
R183, R194). -/
def Obligations.DispatchKeepsTheRest : Prop :=
  (∀ (i : Instr) (s t : State), (encode i).isSome = true → (∀ n, i ≠ .call n) → i ≠ .ret → (∀ d x n, i ≠ .csrw d x n) →
    (∀ w d x u v, i ≠ .cvtsr w d x u v) → (∀ a b k, i ≠ .chprogKeep a b k) → (∀ a k, i ≠ .chrunResume a k) →
    (∀ a k, i ≠ .chrunAbn a k) → i ≠ .endAct → i ≠ .disband → i ≠ .eretEnd → i ≠ .eret → exec i s = .next t → Kept s t) ∧
  (∀ (a b k : Nat) (s t : State),
    (exec (.chprogKeep a b k) s = .next t ∨ exec (.chrunResume a k) s = .next t ∨ exec (.chrunAbn a k) s = .next t) →
    Kept s { t with out := s.out }) ∧
  (∀ s t : State, (exec .endAct s = .next t ∨ exec .disband s = .next t ∨ exec .eretEnd s = .next t) → KeepsButFlags s t) ∧
  (∀ (s t : State) (a : Activation), s.cur? = some a → a.flow.gang = none →
    ((a.info.serves = none ∧ exec .endAct s = .next t) ∨ exec .disband s = .next t) → Keeps s t) ∧
  ∀ (s t : State) (a b : Activation) (id c : Nat), s.cur? = some a → a.flow.gang = none → a.info.serves = some id →
    c ≠ s.focus.ctx → s.act? s.focus.core c = some b → b.info.id = id → exec .eret s = .next t → Keeps s t

/-- The frame of a dispatch within the part: whatever a word encodes but GANG, XFENCE and ERET leaves the other cores and
the other clusters alone, but for the order in which their atomic engines give up the lines that they have checked out (12
R223: an access of the save area uses one); of the other activations of the core only their standing changes; and of the
own registers those outside `destRegs` stand, but for the counts of hardware loops that land (R123). -/
def Obligations.DispatchStaysHome : Prop :=
  ∀ (i : Instr) (s t : State) (a : Activation), (encode i).isSome = true → (∀ n, i ≠ .gang n) → (∀ p, i ≠ .xfence p) →
    i ≠ .eret → s.cur? = some a → a.flow.gang = none → exec i s = .next t → StaysHome (destRegs i) a s t

/-- The frame of an access at its home (R208): a store, a nibble store, STC, AMO, AMOCAS, a load and a chunk of BMOV leave
every byte outside `Access.writes` of the part as it was. A store writes the bytes of its data that its mask names, a
nibble store the nibbles of its run and no other (R29, R106, R107). -/
def Obligations.HomeWritesItsBytes : Prop :=
  ∀ (idx : Nat) (s t : State) (x : Access) (p : Piece), AtHome s idx x p → exec (.homePerform idx) s = .next t →
    ((match x.kind with
      | .store _ _ | .storeNib _ _ _ => True
      | .storeCap _ => p.len = 16
      | .amo _ _ bits _ | .amocas _ bits _ _ => p.len = bits / 8
      | .load _ _ _ | .loadReg _ _ _ | .loadCap _ | .loadNib _ _ _ _ | .chunk _ _ _ _ => True
      | _ => False) →
      ∀ pa, pa ∉ x.writes p → t.byteAt pa = s.byteAt pa) ∧
    (∀ data mask, x.kind = .store data mask → ∀ i, i < p.len →
      t.byteAt (p.pa + i) = if bitAt mask.toNat (p.off + i) then BitVec.ofNat 8 (fld data.toNat (8 * (p.off + i)) 8)
        else s.byteAt (p.pa + i)) ∧
    ∀ nibs odd data, x.kind = .storeNib nibs odd data → ∀ i h, i < p.len → h < 2 →
      fld (t.byteAt (p.pa + i)).toNat (4 * h) 4 =
        if odd ≤ 2 * (p.off + i) + h ∧ 2 * (p.off + i) + h < odd + nibs
        then fld data.toNat (4 * (2 * (p.off + i) + h - odd)) 4 else fld (s.byteAt (p.pa + i)).toNat (4 * h) 4

/-- R105, R107, R110, R111: what an access brings back and leaves at its home. A load and a nibble load in one piece bring
the bytes, or the nibbles of the run, extended as the instruction says; AMO brings the old value and writes the new one of
its function; AMOCAS brings the old value and writes the replacement where the old value is the expected one. -/
def Obligations.HomeResults : Prop :=
  ∀ (idx : Nat) (s t : State) (x : Access) (p : Piece), AtHome s idx x p → x.stage = .sent → x.pieces = [p] → p.off = 0 →
    exec (.homePerform idx) s = .next t →
    (∀ q bits sg, (x.kind = .load q bits sg ∨ x.kind = .loadReg q bits sg) → bits = 8 * p.len →
      p.len ≤ 16 → ∃ y ∈ t.accs, y.id = x.id ∧ y.stage = .answered ∧ loadValue y = signExt (s.natAt p.pa p.len) bits sg) ∧
    (∀ q nibs odd sg, x.kind = .loadNib q nibs odd sg → odd + nibs ≤ 2 * p.len → p.len ≤ 17 →
      ∃ y ∈ t.accs, y.id = x.id ∧ y.stage = .answered ∧
        loadValue y = signExt (s.natAt p.pa p.len / 2 ^ (4 * odd)) (4 * nibs) sg) ∧
    (∀ d f bits (v : BitVec 64), x.kind = .amo d f bits v → bits = 32 ∨ bits = 64 → f ≤ 8 → p.len = bits / 8 →
      let old := s.natAt p.pa (bits / 8)
      let w := v.toNat % 2 ^ bits
      let less : Prop := (BitVec.ofNat bits old).toInt ≤ (BitVec.ofNat bits w).toInt
      (∃ y ∈ t.accs, y.id = x.id ∧ y.stage = .answered ∧ loadValue y = BitVec.ofNat 128 old) ∧
      t.natAt p.pa (bits / 8) =
        if f = 0 then w else if f = 1 then (old + w) % 2 ^ bits else if f = 2 then old &&& w else if f = 3 then old ||| w
        else if f = 4 then old ^^^ w else if f = 5 then (if less then old else w) else if f = 6 then (if less then w else old)
        else if f = 7 then min old w else max old w) ∧
    ∀ d bits (e r : BitVec 64), x.kind = .amocas d bits e r → bits = 32 ∨ bits = 64 → p.len = bits / 8 →
      let old := s.natAt p.pa (bits / 8)
      (∃ y ∈ t.accs, y.id = x.id ∧ y.stage = .answered ∧ loadValue y = BitVec.ofNat 128 old) ∧
      t.natAt p.pa (bits / 8) = if old = e.toNat % 2 ^ bits then r.toNat % 2 ^ bits else old

end
end

