-- ==== Sys2Proof/Laws/Sparse.lean ====
section
/-! SUPPORT. What reading a table gives behind each operation on it, and that the operations keep the canonical form. -/

namespace Sys2Proof

theorem Sparse.get_drop_self {α : Type} (d : α) (m : Sparse α) (k : Nat) : Sparse.get d (Sparse.drop k m) k = d := by
  induction m with
  | nil => rfl
  | cons e rest ih =>
    obtain ⟨i, v⟩ := e
    simp only [Sparse.drop]
    split
    · exact ih
    · rename_i h
      simp only [Sparse.get, if_neg h, ih]

theorem Sparse.get_drop_of_ne {α : Type} (d : α) (m : Sparse α) {k j : Nat} (h : k ≠ j) :
    Sparse.get d (Sparse.drop k m) j = Sparse.get d m j := by
  induction m with
  | nil => rfl
  | cons e rest ih =>
    obtain ⟨i, v⟩ := e
    simp only [Sparse.drop]
    split
    · rename_i hi
      subst hi
      simp only [Sparse.get, if_neg h, ih]
    · simp only [Sparse.get, ih]

theorem Sparse.get_insert_of_ne {α : Type} (d : α) (m : Sparse α) (v : α) {k j : Nat} (h : k ≠ j) :
    Sparse.get d (Sparse.insert k v m) j = Sparse.get d m j := by
  induction m with
  | nil => simp only [Sparse.insert, Sparse.get, if_neg h]
  | cons e rest ih =>
    obtain ⟨i, u⟩ := e
    simp only [Sparse.insert]
    split
    · simp only [Sparse.get, if_neg h]
    · simp only [Sparse.get, ih]

theorem Sparse.get_insert_self {α : Type} (d : α) (m : Sparse α) (k : Nat) (v : α) (h : Sparse.look m k = none) :
    Sparse.get d (Sparse.insert k v m) k = v := by
  induction m with
  | nil => simp [Sparse.insert, Sparse.get]
  | cons e rest ih =>
    obtain ⟨i, u⟩ := e
    simp only [Sparse.look] at h
    split at h
    · exact absurd h (by simp)
    · rename_i hi
      simp only [Sparse.insert]
      split
      · simp [Sparse.get]
      · simp only [Sparse.get, if_neg hi, ih h]

theorem Sparse.look_drop_self {α : Type} (m : Sparse α) (k : Nat) : Sparse.look (Sparse.drop k m) k = none := by
  induction m with
  | nil => rfl
  | cons e rest ih =>
    obtain ⟨i, v⟩ := e
    simp only [Sparse.drop]
    split
    · exact ih
    · rename_i h
      simp only [Sparse.look, if_neg h, ih]

theorem Sparse.look_drop_of_ne {α : Type} (m : Sparse α) {k j : Nat} (h : k ≠ j) :
    Sparse.look (Sparse.drop k m) j = Sparse.look m j := by
  induction m with
  | nil => rfl
  | cons e rest ih =>
    obtain ⟨i, v⟩ := e
    simp only [Sparse.drop]
    split
    · rename_i hi
      subst hi
      simp only [Sparse.look, if_neg h, ih]
    · simp only [Sparse.look, ih]

theorem Sparse.look_insert_of_ne {α : Type} (m : Sparse α) (v : α) {k j : Nat} (h : k ≠ j) :
    Sparse.look (Sparse.insert k v m) j = Sparse.look m j := by
  induction m with
  | nil => simp only [Sparse.insert, Sparse.look, if_neg h]
  | cons e rest ih =>
    obtain ⟨i, u⟩ := e
    simp only [Sparse.insert]
    split
    · simp only [Sparse.look, if_neg h]
    · simp only [Sparse.look, ih]

theorem Sparse.look_insert_self {α : Type} (m : Sparse α) (k : Nat) (v : α) (h : Sparse.look m k = none) :
    Sparse.look (Sparse.insert k v m) k = some v := by
  induction m with
  | nil => simp [Sparse.insert, Sparse.look]
  | cons e rest ih =>
    obtain ⟨i, u⟩ := e
    simp only [Sparse.look] at h
    split at h
    · exact absurd h (by simp)
    · rename_i hi
      simp only [Sparse.insert]
      split
      · simp [Sparse.look]
      · simp only [Sparse.look, if_neg hi, ih h]

@[simp] theorem Sparse.get_put_self {α : Type} (d : α) (m : Sparse α) (k : Nat) (v : α) :
    Sparse.get d (Sparse.put m k v) k = v :=
  Sparse.get_insert_self d _ k v (Sparse.look_drop_self m k)

theorem Sparse.get_put_of_ne {α : Type} (d : α) (m : Sparse α) (v : α) {k j : Nat} (h : k ≠ j) :
    Sparse.get d (Sparse.put m k v) j = Sparse.get d m j := by
  rw [Sparse.put, Sparse.get_insert_of_ne d _ v h, Sparse.get_drop_of_ne d m h]

@[simp] theorem Sparse.look_put_self {α : Type} (m : Sparse α) (k : Nat) (v : α) :
    Sparse.look (Sparse.put m k v) k = some v :=
  Sparse.look_insert_self _ k v (Sparse.look_drop_self m k)

theorem Sparse.look_put_of_ne {α : Type} (m : Sparse α) (v : α) {k j : Nat} (h : k ≠ j) :
    Sparse.look (Sparse.put m k v) j = Sparse.look m j := by
  rw [Sparse.put, Sparse.look_insert_of_ne _ v h, Sparse.look_drop_of_ne m h]

@[simp] theorem Sparse.get_set_self {α : Type} [DecidableEq α] (d : α) (m : Sparse α) (k : Nat) (v : α) :
    Sparse.get d (Sparse.set d m k v) k = v := by
  unfold Sparse.set
  split
  · rename_i h
    rw [Sparse.get_drop_self, h]
  · exact Sparse.get_put_self d m k v

theorem Sparse.get_set_of_ne {α : Type} [DecidableEq α] (d : α) (m : Sparse α) (v : α) {k j : Nat} (h : k ≠ j) :
    Sparse.get d (Sparse.set d m k v) j = Sparse.get d m j := by
  unfold Sparse.set
  split
  · exact Sparse.get_drop_of_ne d m h
  · exact Sparse.get_put_of_ne d m v h

/-- Reading a table with one entry replaced. -/
theorem Sparse.get_set {α : Type} [DecidableEq α] (d : α) (m : Sparse α) (v : α) (k j : Nat) :
    Sparse.get d (Sparse.set d m k v) j = if k = j then v else Sparse.get d m j := by
  split
  · rename_i h
    rw [h, Sparse.get_set_self]
  · rename_i h
    exact Sparse.get_set_of_ne d m v h

/-- Leaving out entries by number leaves the others as they read. -/
theorem Sparse.get_filter {α : Type} (d : α) (m : Sparse α) (p : Nat → Bool) (j : Nat) :
    Sparse.get d (m.filter (fun e => p e.1)) j = if p j then Sparse.get d m j else d := by
  induction m with
  | nil => simp only [List.filter_nil, Sparse.get, ite_self]
  | cons e rest ih =>
    obtain ⟨i, v⟩ := e
    by_cases hi : i = j
    · subst hi
      cases hp : p i <;> simp_all [Sparse.get]
    · cases hp : p i <;> simp_all [Sparse.get]

/-! ### The canonical form -/

theorem Sparse.canonicalFrom_mono {α : Type} [DecidableEq α] (d : α) {lo lo' : Nat} (h : lo' ≤ lo) (m : Sparse α)
    (hm : Sparse.canonicalFrom d lo m = true) : Sparse.canonicalFrom d lo' m = true := by
  cases m with
  | nil => rfl
  | cons e rest =>
    obtain ⟨i, v⟩ := e
    simp only [Sparse.canonicalFrom, Bool.and_eq_true, decide_eq_true_eq] at hm ⊢
    exact ⟨⟨Nat.le_trans h hm.1.1, hm.1.2⟩, hm.2⟩

theorem Sparse.canonicalFrom_drop {α : Type} [DecidableEq α] (d : α) (k : Nat) (m : Sparse α) :
    ∀ lo, Sparse.canonicalFrom d lo m = true → Sparse.canonicalFrom d lo (Sparse.drop k m) = true := by
  induction m with
  | nil => exact fun _ _ => rfl
  | cons e rest ih =>
    obtain ⟨i, v⟩ := e
    intro lo h
    simp only [Sparse.canonicalFrom, Bool.and_eq_true, decide_eq_true_eq] at h
    simp only [Sparse.drop]
    split
    · exact Sparse.canonicalFrom_mono d (Nat.le_succ_of_le h.1.1) _ (ih _ h.2)
    · simp only [Sparse.canonicalFrom, Bool.and_eq_true, decide_eq_true_eq]
      exact ⟨h.1, ih _ h.2⟩

theorem Sparse.canonicalFrom_insert {α : Type} [DecidableEq α] (d : α) (k : Nat) (v : α) (hv : v ≠ d) (m : Sparse α) :
    ∀ lo, lo ≤ k → Sparse.look m k = none → Sparse.canonicalFrom d lo m = true →
      Sparse.canonicalFrom d lo (Sparse.insert k v m) = true := by
  induction m with
  | nil =>
    intro lo hk _ _
    simp [Sparse.insert, Sparse.canonicalFrom, hk, hv]
  | cons e rest ih =>
    obtain ⟨i, u⟩ := e
    intro lo hk hl h
    simp only [Sparse.canonicalFrom, Bool.and_eq_true, decide_eq_true_eq] at h
    simp only [Sparse.look] at hl
    split at hl
    · exact absurd hl (by simp)
    · rename_i hi
      simp only [Sparse.insert]
      split
      · rename_i hki
        simp only [Sparse.canonicalFrom, Bool.and_eq_true, decide_eq_true_eq, bne_iff_ne, ne_eq]
        exact ⟨⟨hk, hv⟩, ⟨hki, by simpa using h.1.2⟩, h.2⟩
      · rename_i hki
        simp only [Sparse.canonicalFrom, Bool.and_eq_true, decide_eq_true_eq]
        exact ⟨h.1, ih _ (by omega) hl h.2⟩

theorem Sparse.canonicalFrom_filter {α : Type} [DecidableEq α] (d : α) (p : Nat × α → Bool) (m : Sparse α) :
    ∀ lo, Sparse.canonicalFrom d lo m = true → Sparse.canonicalFrom d lo (m.filter p) = true := by
  induction m with
  | nil => exact fun _ _ => rfl
  | cons e rest ih =>
    obtain ⟨i, v⟩ := e
    intro lo h
    simp only [Sparse.canonicalFrom, Bool.and_eq_true, decide_eq_true_eq] at h
    rw [List.filter_cons]
    split
    · simp only [Sparse.canonicalFrom, Bool.and_eq_true, decide_eq_true_eq]
      exact ⟨h.1, ih _ h.2⟩
    · exact Sparse.canonicalFrom_mono d (Nat.le_succ_of_le h.1.1) _ (ih _ h.2)

theorem Sparse.canonical_set {α : Type} [DecidableEq α] (d : α) (m : Sparse α) (k : Nat) (v : α)
    (h : Sparse.canonical d m = true) : Sparse.canonical d (Sparse.set d m k v) = true := by
  unfold Sparse.set
  split
  · exact Sparse.canonicalFrom_drop d k m 0 h
  · rename_i hv
    exact Sparse.canonicalFrom_insert d k v hv _ 0 (Nat.zero_le k) (Sparse.look_drop_self m k)
      (Sparse.canonicalFrom_drop d k m 0 h)

theorem Sparse.canonical_filter {α : Type} [DecidableEq α] (d : α) (m : Sparse α) (p : Nat × α → Bool)
    (h : Sparse.canonical d m = true) : Sparse.canonical d (m.filter p) = true :=
  Sparse.canonicalFrom_filter d p m 0 h

theorem Sparse.mem_of_look {α : Type} {m : Sparse α} {k : Nat} {v : α} (h : Sparse.look m k = some v) : (k, v) ∈ m := by
  induction m with
  | nil => cases h
  | cons e rest ih =>
    obtain ⟨i, u⟩ := e
    simp only [Sparse.look] at h
    split at h
    · rename_i hi; cases h; subst hi; exact List.mem_cons_self ..
    · exact List.mem_cons_of_mem _ (ih h)

end Sys2Proof
end

