-- ==== Sys2Proof/Laws/State.lean ====
section
/-! SUPPORT. What each update of the state leaves alone, field by field, and what reading a unit gives behind an update. -/

namespace Sys2Proof.Machine

@[simp] theorem State.setCore_phys (s : State) (k : Nat) (c : Core) : (s.setCore k c).phys = s.phys := rfl
@[simp] theorem State.setCore_clusters (s : State) (k : Nat) (c : Core) : (s.setCore k c).clusters = s.clusters := rfl
@[simp] theorem State.setCore_mem (s : State) (k : Nat) (c : Core) : (s.setCore k c).mem = s.mem := rfl
@[simp] theorem State.setCore_tags (s : State) (k : Nat) (c : Core) : (s.setCore k c).tags = s.tags := rfl
@[simp] theorem State.setCore_wlog (s : State) (k : Nat) (c : Core) : (s.setCore k c).wlog = s.wlog := rfl
@[simp] theorem State.setCore_units (s : State) (k : Nat) (c : Core) : (s.setCore k c).units = s.units := rfl
@[simp] theorem State.setCore_net (s : State) (k : Nat) (c : Core) : (s.setCore k c).net = s.net := rfl
@[simp] theorem State.setCore_accs (s : State) (k : Nat) (c : Core) : (s.setCore k c).accs = s.accs := rfl
@[simp] theorem State.setCore_pins (s : State) (k : Nat) (c : Core) : (s.setCore k c).pins = s.pins := rfl
@[simp] theorem State.setCore_regions (s : State) (k : Nat) (c : Core) : (s.setCore k c).regions = s.regions := rfl
@[simp] theorem State.setCore_parts (s : State) (k : Nat) (c : Core) : (s.setCore k c).parts = s.parts := rfl
@[simp] theorem State.setCore_vfs (s : State) (k : Nat) (c : Core) : (s.setCore k c).vfs = s.vfs := rfl
@[simp] theorem State.setCore_platform (s : State) (k : Nat) (c : Core) : (s.setCore k c).platform = s.platform := rfl
@[simp] theorem State.setCore_prepare (s : State) (k : Nat) (c : Core) : (s.setCore k c).prepare = s.prepare := rfl
@[simp] theorem State.setCore_link (s : State) (k : Nat) (c : Core) : (s.setCore k c).link = s.link := rfl
@[simp] theorem State.setCore_spdm (s : State) (k : Nat) (c : Core) : (s.setCore k c).spdm = s.spdm := rfl
@[simp] theorem State.setCore_hbmEnergy (s : State) (k : Nat) (c : Core) : (s.setCore k c).hbmEnergy = s.hbmEnergy := rfl
@[simp] theorem State.setCore_hbmUse (s : State) (k : Nat) (c : Core) : (s.setCore k c).hbmUse = s.hbmUse := rfl
@[simp] theorem State.setCore_clock (s : State) (k : Nat) (c : Core) : (s.setCore k c).clock = s.clock := rfl
@[simp] theorem State.setCore_nextId (s : State) (k : Nat) (c : Core) : (s.setCore k c).nextId = s.nextId := rfl
@[simp] theorem State.setCore_fresh (s : State) (k : Nat) (c : Core) : (s.setCore k c).fresh = s.fresh := rfl
@[simp] theorem State.setCore_out (s : State) (k : Nat) (c : Core) : (s.setCore k c).out = s.out := rfl
@[simp] theorem State.setCore_agenda (s : State) (k : Nat) (c : Core) : (s.setCore k c).agenda = s.agenda := rfl
@[simp] theorem State.setCore_focus (s : State) (k : Nat) (c : Core) : (s.setCore k c).focus = s.focus := rfl
@[simp] theorem State.setCore_verdict (s : State) (k : Nat) (c : Core) : (s.setCore k c).verdict = s.verdict := rfl

@[simp] theorem State.setPhys_cores (s : State) (k : Nat) (p : Phys) : (s.setPhys k p).cores = s.cores := rfl
@[simp] theorem State.setPhys_clusters (s : State) (k : Nat) (p : Phys) : (s.setPhys k p).clusters = s.clusters := rfl
@[simp] theorem State.setPhys_mem (s : State) (k : Nat) (p : Phys) : (s.setPhys k p).mem = s.mem := rfl
@[simp] theorem State.setPhys_tags (s : State) (k : Nat) (p : Phys) : (s.setPhys k p).tags = s.tags := rfl
@[simp] theorem State.setPhys_wlog (s : State) (k : Nat) (p : Phys) : (s.setPhys k p).wlog = s.wlog := rfl
@[simp] theorem State.setPhys_units (s : State) (k : Nat) (p : Phys) : (s.setPhys k p).units = s.units := rfl
@[simp] theorem State.setPhys_net (s : State) (k : Nat) (p : Phys) : (s.setPhys k p).net = s.net := rfl
@[simp] theorem State.setPhys_accs (s : State) (k : Nat) (p : Phys) : (s.setPhys k p).accs = s.accs := rfl
@[simp] theorem State.setPhys_pins (s : State) (k : Nat) (p : Phys) : (s.setPhys k p).pins = s.pins := rfl
@[simp] theorem State.setPhys_regions (s : State) (k : Nat) (p : Phys) : (s.setPhys k p).regions = s.regions := rfl
@[simp] theorem State.setPhys_parts (s : State) (k : Nat) (p : Phys) : (s.setPhys k p).parts = s.parts := rfl
@[simp] theorem State.setPhys_vfs (s : State) (k : Nat) (p : Phys) : (s.setPhys k p).vfs = s.vfs := rfl
@[simp] theorem State.setPhys_platform (s : State) (k : Nat) (p : Phys) : (s.setPhys k p).platform = s.platform := rfl
@[simp] theorem State.setPhys_prepare (s : State) (k : Nat) (p : Phys) : (s.setPhys k p).prepare = s.prepare := rfl
@[simp] theorem State.setPhys_link (s : State) (k : Nat) (p : Phys) : (s.setPhys k p).link = s.link := rfl
@[simp] theorem State.setPhys_spdm (s : State) (k : Nat) (p : Phys) : (s.setPhys k p).spdm = s.spdm := rfl
@[simp] theorem State.setPhys_hbmEnergy (s : State) (k : Nat) (p : Phys) : (s.setPhys k p).hbmEnergy = s.hbmEnergy := rfl
@[simp] theorem State.setPhys_hbmUse (s : State) (k : Nat) (p : Phys) : (s.setPhys k p).hbmUse = s.hbmUse := rfl
@[simp] theorem State.setPhys_clock (s : State) (k : Nat) (p : Phys) : (s.setPhys k p).clock = s.clock := rfl
@[simp] theorem State.setPhys_nextId (s : State) (k : Nat) (p : Phys) : (s.setPhys k p).nextId = s.nextId := rfl
@[simp] theorem State.setPhys_fresh (s : State) (k : Nat) (p : Phys) : (s.setPhys k p).fresh = s.fresh := rfl
@[simp] theorem State.setPhys_out (s : State) (k : Nat) (p : Phys) : (s.setPhys k p).out = s.out := rfl
@[simp] theorem State.setPhys_agenda (s : State) (k : Nat) (p : Phys) : (s.setPhys k p).agenda = s.agenda := rfl
@[simp] theorem State.setPhys_focus (s : State) (k : Nat) (p : Phys) : (s.setPhys k p).focus = s.focus := rfl
@[simp] theorem State.setPhys_verdict (s : State) (k : Nat) (p : Phys) : (s.setPhys k p).verdict = s.verdict := rfl

@[simp] theorem State.setCluster_cores (s : State) (g : Nat) (c : Cluster) : (s.setCluster g c).cores = s.cores := rfl
@[simp] theorem State.setCluster_phys (s : State) (g : Nat) (c : Cluster) : (s.setCluster g c).phys = s.phys := rfl
@[simp] theorem State.setCluster_mem (s : State) (g : Nat) (c : Cluster) : (s.setCluster g c).mem = s.mem := rfl
@[simp] theorem State.setCluster_tags (s : State) (g : Nat) (c : Cluster) : (s.setCluster g c).tags = s.tags := rfl
@[simp] theorem State.setCluster_wlog (s : State) (g : Nat) (c : Cluster) : (s.setCluster g c).wlog = s.wlog := rfl
@[simp] theorem State.setCluster_units (s : State) (g : Nat) (c : Cluster) : (s.setCluster g c).units = s.units := rfl
@[simp] theorem State.setCluster_net (s : State) (g : Nat) (c : Cluster) : (s.setCluster g c).net = s.net := rfl
@[simp] theorem State.setCluster_accs (s : State) (g : Nat) (c : Cluster) : (s.setCluster g c).accs = s.accs := rfl
@[simp] theorem State.setCluster_pins (s : State) (g : Nat) (c : Cluster) : (s.setCluster g c).pins = s.pins := rfl
@[simp] theorem State.setCluster_regions (s : State) (g : Nat) (c : Cluster) : (s.setCluster g c).regions = s.regions := rfl
@[simp] theorem State.setCluster_parts (s : State) (g : Nat) (c : Cluster) : (s.setCluster g c).parts = s.parts := rfl
@[simp] theorem State.setCluster_vfs (s : State) (g : Nat) (c : Cluster) : (s.setCluster g c).vfs = s.vfs := rfl
@[simp] theorem State.setCluster_platform (s : State) (g : Nat) (c : Cluster) : (s.setCluster g c).platform = s.platform := rfl
@[simp] theorem State.setCluster_prepare (s : State) (g : Nat) (c : Cluster) : (s.setCluster g c).prepare = s.prepare := rfl
@[simp] theorem State.setCluster_link (s : State) (g : Nat) (c : Cluster) : (s.setCluster g c).link = s.link := rfl
@[simp] theorem State.setCluster_spdm (s : State) (g : Nat) (c : Cluster) : (s.setCluster g c).spdm = s.spdm := rfl
@[simp] theorem State.setCluster_hbmEnergy (s : State) (g : Nat) (c : Cluster) : (s.setCluster g c).hbmEnergy = s.hbmEnergy := rfl
@[simp] theorem State.setCluster_hbmUse (s : State) (g : Nat) (c : Cluster) : (s.setCluster g c).hbmUse = s.hbmUse := rfl
@[simp] theorem State.setCluster_clock (s : State) (g : Nat) (c : Cluster) : (s.setCluster g c).clock = s.clock := rfl
@[simp] theorem State.setCluster_nextId (s : State) (g : Nat) (c : Cluster) : (s.setCluster g c).nextId = s.nextId := rfl
@[simp] theorem State.setCluster_fresh (s : State) (g : Nat) (c : Cluster) : (s.setCluster g c).fresh = s.fresh := rfl
@[simp] theorem State.setCluster_out (s : State) (g : Nat) (c : Cluster) : (s.setCluster g c).out = s.out := rfl
@[simp] theorem State.setCluster_agenda (s : State) (g : Nat) (c : Cluster) : (s.setCluster g c).agenda = s.agenda := rfl
@[simp] theorem State.setCluster_focus (s : State) (g : Nat) (c : Cluster) : (s.setCluster g c).focus = s.focus := rfl
@[simp] theorem State.setCluster_verdict (s : State) (g : Nat) (c : Cluster) : (s.setCluster g c).verdict = s.verdict := rfl

@[simp] theorem State.setVf_cores (s : State) (v : Nat) (x : Vf) : (s.setVf v x).cores = s.cores := rfl
@[simp] theorem State.setVf_phys (s : State) (v : Nat) (x : Vf) : (s.setVf v x).phys = s.phys := rfl
@[simp] theorem State.setVf_clusters (s : State) (v : Nat) (x : Vf) : (s.setVf v x).clusters = s.clusters := rfl
@[simp] theorem State.setVf_mem (s : State) (v : Nat) (x : Vf) : (s.setVf v x).mem = s.mem := rfl
@[simp] theorem State.setVf_tags (s : State) (v : Nat) (x : Vf) : (s.setVf v x).tags = s.tags := rfl
@[simp] theorem State.setVf_wlog (s : State) (v : Nat) (x : Vf) : (s.setVf v x).wlog = s.wlog := rfl
@[simp] theorem State.setVf_units (s : State) (v : Nat) (x : Vf) : (s.setVf v x).units = s.units := rfl
@[simp] theorem State.setVf_net (s : State) (v : Nat) (x : Vf) : (s.setVf v x).net = s.net := rfl
@[simp] theorem State.setVf_accs (s : State) (v : Nat) (x : Vf) : (s.setVf v x).accs = s.accs := rfl
@[simp] theorem State.setVf_pins (s : State) (v : Nat) (x : Vf) : (s.setVf v x).pins = s.pins := rfl
@[simp] theorem State.setVf_regions (s : State) (v : Nat) (x : Vf) : (s.setVf v x).regions = s.regions := rfl
@[simp] theorem State.setVf_parts (s : State) (v : Nat) (x : Vf) : (s.setVf v x).parts = s.parts := rfl
@[simp] theorem State.setVf_platform (s : State) (v : Nat) (x : Vf) : (s.setVf v x).platform = s.platform := rfl
@[simp] theorem State.setVf_prepare (s : State) (v : Nat) (x : Vf) : (s.setVf v x).prepare = s.prepare := rfl
@[simp] theorem State.setVf_link (s : State) (v : Nat) (x : Vf) : (s.setVf v x).link = s.link := rfl
@[simp] theorem State.setVf_spdm (s : State) (v : Nat) (x : Vf) : (s.setVf v x).spdm = s.spdm := rfl
@[simp] theorem State.setVf_hbmEnergy (s : State) (v : Nat) (x : Vf) : (s.setVf v x).hbmEnergy = s.hbmEnergy := rfl
@[simp] theorem State.setVf_hbmUse (s : State) (v : Nat) (x : Vf) : (s.setVf v x).hbmUse = s.hbmUse := rfl
@[simp] theorem State.setVf_clock (s : State) (v : Nat) (x : Vf) : (s.setVf v x).clock = s.clock := rfl
@[simp] theorem State.setVf_nextId (s : State) (v : Nat) (x : Vf) : (s.setVf v x).nextId = s.nextId := rfl
@[simp] theorem State.setVf_fresh (s : State) (v : Nat) (x : Vf) : (s.setVf v x).fresh = s.fresh := rfl
@[simp] theorem State.setVf_out (s : State) (v : Nat) (x : Vf) : (s.setVf v x).out = s.out := rfl
@[simp] theorem State.setVf_agenda (s : State) (v : Nat) (x : Vf) : (s.setVf v x).agenda = s.agenda := rfl
@[simp] theorem State.setVf_focus (s : State) (v : Nat) (x : Vf) : (s.setVf v x).focus = s.focus := rfl
@[simp] theorem State.setVf_verdict (s : State) (v : Nat) (x : Vf) : (s.setVf v x).verdict = s.verdict := rfl

@[simp] theorem State.setPart_cores (s : State) (p : Nat) (x : Partition) : (s.setPart p x).cores = s.cores := rfl
@[simp] theorem State.setPart_phys (s : State) (p : Nat) (x : Partition) : (s.setPart p x).phys = s.phys := rfl
@[simp] theorem State.setPart_clusters (s : State) (p : Nat) (x : Partition) : (s.setPart p x).clusters = s.clusters := rfl
@[simp] theorem State.setPart_mem (s : State) (p : Nat) (x : Partition) : (s.setPart p x).mem = s.mem := rfl
@[simp] theorem State.setPart_tags (s : State) (p : Nat) (x : Partition) : (s.setPart p x).tags = s.tags := rfl
@[simp] theorem State.setPart_wlog (s : State) (p : Nat) (x : Partition) : (s.setPart p x).wlog = s.wlog := rfl
@[simp] theorem State.setPart_units (s : State) (p : Nat) (x : Partition) : (s.setPart p x).units = s.units := rfl
@[simp] theorem State.setPart_net (s : State) (p : Nat) (x : Partition) : (s.setPart p x).net = s.net := rfl
@[simp] theorem State.setPart_accs (s : State) (p : Nat) (x : Partition) : (s.setPart p x).accs = s.accs := rfl
@[simp] theorem State.setPart_pins (s : State) (p : Nat) (x : Partition) : (s.setPart p x).pins = s.pins := rfl
@[simp] theorem State.setPart_regions (s : State) (p : Nat) (x : Partition) : (s.setPart p x).regions = s.regions := rfl
@[simp] theorem State.setPart_vfs (s : State) (p : Nat) (x : Partition) : (s.setPart p x).vfs = s.vfs := rfl
@[simp] theorem State.setPart_platform (s : State) (p : Nat) (x : Partition) : (s.setPart p x).platform = s.platform := rfl
@[simp] theorem State.setPart_prepare (s : State) (p : Nat) (x : Partition) : (s.setPart p x).prepare = s.prepare := rfl
@[simp] theorem State.setPart_link (s : State) (p : Nat) (x : Partition) : (s.setPart p x).link = s.link := rfl
@[simp] theorem State.setPart_spdm (s : State) (p : Nat) (x : Partition) : (s.setPart p x).spdm = s.spdm := rfl
@[simp] theorem State.setPart_hbmEnergy (s : State) (p : Nat) (x : Partition) : (s.setPart p x).hbmEnergy = s.hbmEnergy := rfl
@[simp] theorem State.setPart_hbmUse (s : State) (p : Nat) (x : Partition) : (s.setPart p x).hbmUse = s.hbmUse := rfl
@[simp] theorem State.setPart_clock (s : State) (p : Nat) (x : Partition) : (s.setPart p x).clock = s.clock := rfl
@[simp] theorem State.setPart_nextId (s : State) (p : Nat) (x : Partition) : (s.setPart p x).nextId = s.nextId := rfl
@[simp] theorem State.setPart_fresh (s : State) (p : Nat) (x : Partition) : (s.setPart p x).fresh = s.fresh := rfl
@[simp] theorem State.setPart_out (s : State) (p : Nat) (x : Partition) : (s.setPart p x).out = s.out := rfl
@[simp] theorem State.setPart_agenda (s : State) (p : Nat) (x : Partition) : (s.setPart p x).agenda = s.agenda := rfl
@[simp] theorem State.setPart_focus (s : State) (p : Nat) (x : Partition) : (s.setPart p x).focus = s.focus := rfl
@[simp] theorem State.setPart_verdict (s : State) (p : Nat) (x : Partition) : (s.setPart p x).verdict = s.verdict := rfl

@[simp] theorem State.setRegion_cores (s : State) (key : Nat) (r : Region) : (s.setRegion key r).cores = s.cores := rfl
@[simp] theorem State.setRegion_phys (s : State) (key : Nat) (r : Region) : (s.setRegion key r).phys = s.phys := rfl
@[simp] theorem State.setRegion_clusters (s : State) (key : Nat) (r : Region) : (s.setRegion key r).clusters = s.clusters := rfl
@[simp] theorem State.setRegion_mem (s : State) (key : Nat) (r : Region) : (s.setRegion key r).mem = s.mem := rfl
@[simp] theorem State.setRegion_tags (s : State) (key : Nat) (r : Region) : (s.setRegion key r).tags = s.tags := rfl
@[simp] theorem State.setRegion_wlog (s : State) (key : Nat) (r : Region) : (s.setRegion key r).wlog = s.wlog := rfl
@[simp] theorem State.setRegion_units (s : State) (key : Nat) (r : Region) : (s.setRegion key r).units = s.units := rfl
@[simp] theorem State.setRegion_net (s : State) (key : Nat) (r : Region) : (s.setRegion key r).net = s.net := rfl
@[simp] theorem State.setRegion_accs (s : State) (key : Nat) (r : Region) : (s.setRegion key r).accs = s.accs := rfl
@[simp] theorem State.setRegion_pins (s : State) (key : Nat) (r : Region) : (s.setRegion key r).pins = s.pins := rfl
@[simp] theorem State.setRegion_parts (s : State) (key : Nat) (r : Region) : (s.setRegion key r).parts = s.parts := rfl
@[simp] theorem State.setRegion_vfs (s : State) (key : Nat) (r : Region) : (s.setRegion key r).vfs = s.vfs := rfl
@[simp] theorem State.setRegion_platform (s : State) (key : Nat) (r : Region) : (s.setRegion key r).platform = s.platform := rfl
@[simp] theorem State.setRegion_prepare (s : State) (key : Nat) (r : Region) : (s.setRegion key r).prepare = s.prepare := rfl
@[simp] theorem State.setRegion_link (s : State) (key : Nat) (r : Region) : (s.setRegion key r).link = s.link := rfl
@[simp] theorem State.setRegion_spdm (s : State) (key : Nat) (r : Region) : (s.setRegion key r).spdm = s.spdm := rfl
@[simp] theorem State.setRegion_hbmEnergy (s : State) (key : Nat) (r : Region) : (s.setRegion key r).hbmEnergy = s.hbmEnergy := rfl
@[simp] theorem State.setRegion_hbmUse (s : State) (key : Nat) (r : Region) : (s.setRegion key r).hbmUse = s.hbmUse := rfl
@[simp] theorem State.setRegion_clock (s : State) (key : Nat) (r : Region) : (s.setRegion key r).clock = s.clock := rfl
@[simp] theorem State.setRegion_nextId (s : State) (key : Nat) (r : Region) : (s.setRegion key r).nextId = s.nextId := rfl
@[simp] theorem State.setRegion_fresh (s : State) (key : Nat) (r : Region) : (s.setRegion key r).fresh = s.fresh := rfl
@[simp] theorem State.setRegion_out (s : State) (key : Nat) (r : Region) : (s.setRegion key r).out = s.out := rfl
@[simp] theorem State.setRegion_agenda (s : State) (key : Nat) (r : Region) : (s.setRegion key r).agenda = s.agenda := rfl
@[simp] theorem State.setRegion_focus (s : State) (key : Nat) (r : Region) : (s.setRegion key r).focus = s.focus := rfl
@[simp] theorem State.setRegion_verdict (s : State) (key : Nat) (r : Region) : (s.setRegion key r).verdict = s.verdict := rfl

@[simp] theorem State.setActAt_phys (s : State) (core ctx : Nat) (a : Activation) : (s.setActAt core ctx a).phys = s.phys := rfl
@[simp] theorem State.setActAt_clusters (s : State) (core ctx : Nat) (a : Activation) : (s.setActAt core ctx a).clusters = s.clusters := rfl
@[simp] theorem State.setActAt_mem (s : State) (core ctx : Nat) (a : Activation) : (s.setActAt core ctx a).mem = s.mem := rfl
@[simp] theorem State.setActAt_tags (s : State) (core ctx : Nat) (a : Activation) : (s.setActAt core ctx a).tags = s.tags := rfl
@[simp] theorem State.setActAt_wlog (s : State) (core ctx : Nat) (a : Activation) : (s.setActAt core ctx a).wlog = s.wlog := rfl
@[simp] theorem State.setActAt_units (s : State) (core ctx : Nat) (a : Activation) : (s.setActAt core ctx a).units = s.units := rfl
@[simp] theorem State.setActAt_net (s : State) (core ctx : Nat) (a : Activation) : (s.setActAt core ctx a).net = s.net := rfl
@[simp] theorem State.setActAt_accs (s : State) (core ctx : Nat) (a : Activation) : (s.setActAt core ctx a).accs = s.accs := rfl
@[simp] theorem State.setActAt_pins (s : State) (core ctx : Nat) (a : Activation) : (s.setActAt core ctx a).pins = s.pins := rfl
@[simp] theorem State.setActAt_regions (s : State) (core ctx : Nat) (a : Activation) : (s.setActAt core ctx a).regions = s.regions := rfl
@[simp] theorem State.setActAt_parts (s : State) (core ctx : Nat) (a : Activation) : (s.setActAt core ctx a).parts = s.parts := rfl
@[simp] theorem State.setActAt_vfs (s : State) (core ctx : Nat) (a : Activation) : (s.setActAt core ctx a).vfs = s.vfs := rfl
@[simp] theorem State.setActAt_platform (s : State) (core ctx : Nat) (a : Activation) : (s.setActAt core ctx a).platform = s.platform := rfl
@[simp] theorem State.setActAt_prepare (s : State) (core ctx : Nat) (a : Activation) : (s.setActAt core ctx a).prepare = s.prepare := rfl
@[simp] theorem State.setActAt_link (s : State) (core ctx : Nat) (a : Activation) : (s.setActAt core ctx a).link = s.link := rfl
@[simp] theorem State.setActAt_spdm (s : State) (core ctx : Nat) (a : Activation) : (s.setActAt core ctx a).spdm = s.spdm := rfl
@[simp] theorem State.setActAt_hbmEnergy (s : State) (core ctx : Nat) (a : Activation) : (s.setActAt core ctx a).hbmEnergy = s.hbmEnergy := rfl
@[simp] theorem State.setActAt_hbmUse (s : State) (core ctx : Nat) (a : Activation) : (s.setActAt core ctx a).hbmUse = s.hbmUse := rfl
@[simp] theorem State.setActAt_clock (s : State) (core ctx : Nat) (a : Activation) : (s.setActAt core ctx a).clock = s.clock := rfl
@[simp] theorem State.setActAt_nextId (s : State) (core ctx : Nat) (a : Activation) : (s.setActAt core ctx a).nextId = s.nextId := rfl
@[simp] theorem State.setActAt_fresh (s : State) (core ctx : Nat) (a : Activation) : (s.setActAt core ctx a).fresh = s.fresh := rfl
@[simp] theorem State.setActAt_out (s : State) (core ctx : Nat) (a : Activation) : (s.setActAt core ctx a).out = s.out := rfl
@[simp] theorem State.setActAt_agenda (s : State) (core ctx : Nat) (a : Activation) : (s.setActAt core ctx a).agenda = s.agenda := rfl
@[simp] theorem State.setActAt_focus (s : State) (core ctx : Nat) (a : Activation) : (s.setActAt core ctx a).focus = s.focus := rfl
@[simp] theorem State.setActAt_verdict (s : State) (core ctx : Nat) (a : Activation) : (s.setActAt core ctx a).verdict = s.verdict := rfl

@[simp] theorem State.setCur_phys (s : State) (a : Activation) : (s.setCur a).phys = s.phys := rfl
@[simp] theorem State.setCur_clusters (s : State) (a : Activation) : (s.setCur a).clusters = s.clusters := rfl
@[simp] theorem State.setCur_mem (s : State) (a : Activation) : (s.setCur a).mem = s.mem := rfl
@[simp] theorem State.setCur_tags (s : State) (a : Activation) : (s.setCur a).tags = s.tags := rfl
@[simp] theorem State.setCur_wlog (s : State) (a : Activation) : (s.setCur a).wlog = s.wlog := rfl
@[simp] theorem State.setCur_units (s : State) (a : Activation) : (s.setCur a).units = s.units := rfl
@[simp] theorem State.setCur_net (s : State) (a : Activation) : (s.setCur a).net = s.net := rfl
@[simp] theorem State.setCur_accs (s : State) (a : Activation) : (s.setCur a).accs = s.accs := rfl
@[simp] theorem State.setCur_pins (s : State) (a : Activation) : (s.setCur a).pins = s.pins := rfl
@[simp] theorem State.setCur_regions (s : State) (a : Activation) : (s.setCur a).regions = s.regions := rfl
@[simp] theorem State.setCur_parts (s : State) (a : Activation) : (s.setCur a).parts = s.parts := rfl
@[simp] theorem State.setCur_vfs (s : State) (a : Activation) : (s.setCur a).vfs = s.vfs := rfl
@[simp] theorem State.setCur_platform (s : State) (a : Activation) : (s.setCur a).platform = s.platform := rfl
@[simp] theorem State.setCur_prepare (s : State) (a : Activation) : (s.setCur a).prepare = s.prepare := rfl
@[simp] theorem State.setCur_link (s : State) (a : Activation) : (s.setCur a).link = s.link := rfl
@[simp] theorem State.setCur_spdm (s : State) (a : Activation) : (s.setCur a).spdm = s.spdm := rfl
@[simp] theorem State.setCur_hbmEnergy (s : State) (a : Activation) : (s.setCur a).hbmEnergy = s.hbmEnergy := rfl
@[simp] theorem State.setCur_hbmUse (s : State) (a : Activation) : (s.setCur a).hbmUse = s.hbmUse := rfl
@[simp] theorem State.setCur_clock (s : State) (a : Activation) : (s.setCur a).clock = s.clock := rfl
@[simp] theorem State.setCur_nextId (s : State) (a : Activation) : (s.setCur a).nextId = s.nextId := rfl
@[simp] theorem State.setCur_fresh (s : State) (a : Activation) : (s.setCur a).fresh = s.fresh := rfl
@[simp] theorem State.setCur_out (s : State) (a : Activation) : (s.setCur a).out = s.out := rfl
@[simp] theorem State.setCur_agenda (s : State) (a : Activation) : (s.setCur a).agenda = s.agenda := rfl
@[simp] theorem State.setCur_focus (s : State) (a : Activation) : (s.setCur a).focus = s.focus := rfl
@[simp] theorem State.setCur_verdict (s : State) (a : Activation) : (s.setCur a).verdict = s.verdict := rfl

@[simp] theorem State.setCurCore_phys (s : State) (c : Core) : (s.setCurCore c).phys = s.phys := rfl
@[simp] theorem State.setCurCore_clusters (s : State) (c : Core) : (s.setCurCore c).clusters = s.clusters := rfl
@[simp] theorem State.setCurCore_mem (s : State) (c : Core) : (s.setCurCore c).mem = s.mem := rfl
@[simp] theorem State.setCurCore_tags (s : State) (c : Core) : (s.setCurCore c).tags = s.tags := rfl
@[simp] theorem State.setCurCore_wlog (s : State) (c : Core) : (s.setCurCore c).wlog = s.wlog := rfl
@[simp] theorem State.setCurCore_units (s : State) (c : Core) : (s.setCurCore c).units = s.units := rfl
@[simp] theorem State.setCurCore_net (s : State) (c : Core) : (s.setCurCore c).net = s.net := rfl
@[simp] theorem State.setCurCore_accs (s : State) (c : Core) : (s.setCurCore c).accs = s.accs := rfl
@[simp] theorem State.setCurCore_pins (s : State) (c : Core) : (s.setCurCore c).pins = s.pins := rfl
@[simp] theorem State.setCurCore_regions (s : State) (c : Core) : (s.setCurCore c).regions = s.regions := rfl
@[simp] theorem State.setCurCore_parts (s : State) (c : Core) : (s.setCurCore c).parts = s.parts := rfl
@[simp] theorem State.setCurCore_vfs (s : State) (c : Core) : (s.setCurCore c).vfs = s.vfs := rfl
@[simp] theorem State.setCurCore_platform (s : State) (c : Core) : (s.setCurCore c).platform = s.platform := rfl
@[simp] theorem State.setCurCore_prepare (s : State) (c : Core) : (s.setCurCore c).prepare = s.prepare := rfl
@[simp] theorem State.setCurCore_link (s : State) (c : Core) : (s.setCurCore c).link = s.link := rfl
@[simp] theorem State.setCurCore_spdm (s : State) (c : Core) : (s.setCurCore c).spdm = s.spdm := rfl
@[simp] theorem State.setCurCore_hbmEnergy (s : State) (c : Core) : (s.setCurCore c).hbmEnergy = s.hbmEnergy := rfl
@[simp] theorem State.setCurCore_hbmUse (s : State) (c : Core) : (s.setCurCore c).hbmUse = s.hbmUse := rfl
@[simp] theorem State.setCurCore_clock (s : State) (c : Core) : (s.setCurCore c).clock = s.clock := rfl
@[simp] theorem State.setCurCore_nextId (s : State) (c : Core) : (s.setCurCore c).nextId = s.nextId := rfl
@[simp] theorem State.setCurCore_fresh (s : State) (c : Core) : (s.setCurCore c).fresh = s.fresh := rfl
@[simp] theorem State.setCurCore_out (s : State) (c : Core) : (s.setCurCore c).out = s.out := rfl
@[simp] theorem State.setCurCore_agenda (s : State) (c : Core) : (s.setCurCore c).agenda = s.agenda := rfl
@[simp] theorem State.setCurCore_focus (s : State) (c : Core) : (s.setCurCore c).focus = s.focus := rfl
@[simp] theorem State.setCurCore_verdict (s : State) (c : Core) : (s.setCurCore c).verdict = s.verdict := rfl

@[simp] theorem State.focusOn_cores (s : State) (core ctx : Nat) : (s.focusOn core ctx).cores = s.cores := rfl
@[simp] theorem State.focusOn_phys (s : State) (core ctx : Nat) : (s.focusOn core ctx).phys = s.phys := rfl
@[simp] theorem State.focusOn_clusters (s : State) (core ctx : Nat) : (s.focusOn core ctx).clusters = s.clusters := rfl
@[simp] theorem State.focusOn_mem (s : State) (core ctx : Nat) : (s.focusOn core ctx).mem = s.mem := rfl
@[simp] theorem State.focusOn_tags (s : State) (core ctx : Nat) : (s.focusOn core ctx).tags = s.tags := rfl
@[simp] theorem State.focusOn_wlog (s : State) (core ctx : Nat) : (s.focusOn core ctx).wlog = s.wlog := rfl
@[simp] theorem State.focusOn_units (s : State) (core ctx : Nat) : (s.focusOn core ctx).units = s.units := rfl
@[simp] theorem State.focusOn_net (s : State) (core ctx : Nat) : (s.focusOn core ctx).net = s.net := rfl
@[simp] theorem State.focusOn_accs (s : State) (core ctx : Nat) : (s.focusOn core ctx).accs = s.accs := rfl
@[simp] theorem State.focusOn_pins (s : State) (core ctx : Nat) : (s.focusOn core ctx).pins = s.pins := rfl
@[simp] theorem State.focusOn_regions (s : State) (core ctx : Nat) : (s.focusOn core ctx).regions = s.regions := rfl
@[simp] theorem State.focusOn_parts (s : State) (core ctx : Nat) : (s.focusOn core ctx).parts = s.parts := rfl
@[simp] theorem State.focusOn_vfs (s : State) (core ctx : Nat) : (s.focusOn core ctx).vfs = s.vfs := rfl
@[simp] theorem State.focusOn_platform (s : State) (core ctx : Nat) : (s.focusOn core ctx).platform = s.platform := rfl
@[simp] theorem State.focusOn_prepare (s : State) (core ctx : Nat) : (s.focusOn core ctx).prepare = s.prepare := rfl
@[simp] theorem State.focusOn_link (s : State) (core ctx : Nat) : (s.focusOn core ctx).link = s.link := rfl
@[simp] theorem State.focusOn_spdm (s : State) (core ctx : Nat) : (s.focusOn core ctx).spdm = s.spdm := rfl
@[simp] theorem State.focusOn_hbmEnergy (s : State) (core ctx : Nat) : (s.focusOn core ctx).hbmEnergy = s.hbmEnergy := rfl
@[simp] theorem State.focusOn_hbmUse (s : State) (core ctx : Nat) : (s.focusOn core ctx).hbmUse = s.hbmUse := rfl
@[simp] theorem State.focusOn_clock (s : State) (core ctx : Nat) : (s.focusOn core ctx).clock = s.clock := rfl
@[simp] theorem State.focusOn_nextId (s : State) (core ctx : Nat) : (s.focusOn core ctx).nextId = s.nextId := rfl
@[simp] theorem State.focusOn_fresh (s : State) (core ctx : Nat) : (s.focusOn core ctx).fresh = s.fresh := rfl
@[simp] theorem State.focusOn_out (s : State) (core ctx : Nat) : (s.focusOn core ctx).out = s.out := rfl
@[simp] theorem State.focusOn_agenda (s : State) (core ctx : Nat) : (s.focusOn core ctx).agenda = s.agenda := rfl
@[simp] theorem State.focusOn_verdict (s : State) (core ctx : Nat) : (s.focusOn core ctx).verdict = s.verdict := rfl

@[simp] theorem State.takeId_cores (s : State) : (s.takeId).cores = s.cores := rfl
@[simp] theorem State.takeId_phys (s : State) : (s.takeId).phys = s.phys := rfl
@[simp] theorem State.takeId_clusters (s : State) : (s.takeId).clusters = s.clusters := rfl
@[simp] theorem State.takeId_mem (s : State) : (s.takeId).mem = s.mem := rfl
@[simp] theorem State.takeId_tags (s : State) : (s.takeId).tags = s.tags := rfl
@[simp] theorem State.takeId_wlog (s : State) : (s.takeId).wlog = s.wlog := rfl
@[simp] theorem State.takeId_units (s : State) : (s.takeId).units = s.units := rfl
@[simp] theorem State.takeId_net (s : State) : (s.takeId).net = s.net := rfl
@[simp] theorem State.takeId_accs (s : State) : (s.takeId).accs = s.accs := rfl
@[simp] theorem State.takeId_pins (s : State) : (s.takeId).pins = s.pins := rfl
@[simp] theorem State.takeId_regions (s : State) : (s.takeId).regions = s.regions := rfl
@[simp] theorem State.takeId_parts (s : State) : (s.takeId).parts = s.parts := rfl
@[simp] theorem State.takeId_vfs (s : State) : (s.takeId).vfs = s.vfs := rfl
@[simp] theorem State.takeId_platform (s : State) : (s.takeId).platform = s.platform := rfl
@[simp] theorem State.takeId_prepare (s : State) : (s.takeId).prepare = s.prepare := rfl
@[simp] theorem State.takeId_link (s : State) : (s.takeId).link = s.link := rfl
@[simp] theorem State.takeId_spdm (s : State) : (s.takeId).spdm = s.spdm := rfl
@[simp] theorem State.takeId_hbmEnergy (s : State) : (s.takeId).hbmEnergy = s.hbmEnergy := rfl
@[simp] theorem State.takeId_hbmUse (s : State) : (s.takeId).hbmUse = s.hbmUse := rfl
@[simp] theorem State.takeId_clock (s : State) : (s.takeId).clock = s.clock := rfl
@[simp] theorem State.takeId_fresh (s : State) : (s.takeId).fresh = s.fresh := rfl
@[simp] theorem State.takeId_out (s : State) : (s.takeId).out = s.out := rfl
@[simp] theorem State.takeId_agenda (s : State) : (s.takeId).agenda = s.agenda := rfl
@[simp] theorem State.takeId_focus (s : State) : (s.takeId).focus = s.focus := rfl
@[simp] theorem State.takeId_verdict (s : State) : (s.takeId).verdict = s.verdict := rfl

@[simp] theorem State.send_cores (s : State) (src : Agent) (dst : Place) (b : Body) : (s.send src dst b).cores = s.cores := rfl
@[simp] theorem State.send_phys (s : State) (src : Agent) (dst : Place) (b : Body) : (s.send src dst b).phys = s.phys := rfl
@[simp] theorem State.send_clusters (s : State) (src : Agent) (dst : Place) (b : Body) : (s.send src dst b).clusters = s.clusters := rfl
@[simp] theorem State.send_mem (s : State) (src : Agent) (dst : Place) (b : Body) : (s.send src dst b).mem = s.mem := rfl
@[simp] theorem State.send_tags (s : State) (src : Agent) (dst : Place) (b : Body) : (s.send src dst b).tags = s.tags := rfl
@[simp] theorem State.send_wlog (s : State) (src : Agent) (dst : Place) (b : Body) : (s.send src dst b).wlog = s.wlog := rfl
@[simp] theorem State.send_units (s : State) (src : Agent) (dst : Place) (b : Body) : (s.send src dst b).units = s.units := rfl
@[simp] theorem State.send_accs (s : State) (src : Agent) (dst : Place) (b : Body) : (s.send src dst b).accs = s.accs := rfl
@[simp] theorem State.send_pins (s : State) (src : Agent) (dst : Place) (b : Body) : (s.send src dst b).pins = s.pins := rfl
@[simp] theorem State.send_regions (s : State) (src : Agent) (dst : Place) (b : Body) : (s.send src dst b).regions = s.regions := rfl
@[simp] theorem State.send_parts (s : State) (src : Agent) (dst : Place) (b : Body) : (s.send src dst b).parts = s.parts := rfl
@[simp] theorem State.send_vfs (s : State) (src : Agent) (dst : Place) (b : Body) : (s.send src dst b).vfs = s.vfs := rfl
@[simp] theorem State.send_platform (s : State) (src : Agent) (dst : Place) (b : Body) : (s.send src dst b).platform = s.platform := rfl
@[simp] theorem State.send_prepare (s : State) (src : Agent) (dst : Place) (b : Body) : (s.send src dst b).prepare = s.prepare := rfl
@[simp] theorem State.send_link (s : State) (src : Agent) (dst : Place) (b : Body) : (s.send src dst b).link = s.link := rfl
@[simp] theorem State.send_spdm (s : State) (src : Agent) (dst : Place) (b : Body) : (s.send src dst b).spdm = s.spdm := rfl
@[simp] theorem State.send_hbmEnergy (s : State) (src : Agent) (dst : Place) (b : Body) : (s.send src dst b).hbmEnergy = s.hbmEnergy := rfl
@[simp] theorem State.send_hbmUse (s : State) (src : Agent) (dst : Place) (b : Body) : (s.send src dst b).hbmUse = s.hbmUse := rfl
@[simp] theorem State.send_clock (s : State) (src : Agent) (dst : Place) (b : Body) : (s.send src dst b).clock = s.clock := rfl
@[simp] theorem State.send_fresh (s : State) (src : Agent) (dst : Place) (b : Body) : (s.send src dst b).fresh = s.fresh := rfl
@[simp] theorem State.send_out (s : State) (src : Agent) (dst : Place) (b : Body) : (s.send src dst b).out = s.out := rfl
@[simp] theorem State.send_agenda (s : State) (src : Agent) (dst : Place) (b : Body) : (s.send src dst b).agenda = s.agenda := rfl
@[simp] theorem State.send_focus (s : State) (src : Agent) (dst : Place) (b : Body) : (s.send src dst b).focus = s.focus := rfl
@[simp] theorem State.send_verdict (s : State) (src : Agent) (dst : Place) (b : Body) : (s.send src dst b).verdict = s.verdict := rfl

@[simp] theorem State.emit_cores (s : State) (o : Outside) : (s.emit o).cores = s.cores := rfl
@[simp] theorem State.emit_phys (s : State) (o : Outside) : (s.emit o).phys = s.phys := rfl
@[simp] theorem State.emit_clusters (s : State) (o : Outside) : (s.emit o).clusters = s.clusters := rfl
@[simp] theorem State.emit_mem (s : State) (o : Outside) : (s.emit o).mem = s.mem := rfl
@[simp] theorem State.emit_tags (s : State) (o : Outside) : (s.emit o).tags = s.tags := rfl
@[simp] theorem State.emit_wlog (s : State) (o : Outside) : (s.emit o).wlog = s.wlog := rfl
@[simp] theorem State.emit_units (s : State) (o : Outside) : (s.emit o).units = s.units := rfl
@[simp] theorem State.emit_net (s : State) (o : Outside) : (s.emit o).net = s.net := rfl
@[simp] theorem State.emit_accs (s : State) (o : Outside) : (s.emit o).accs = s.accs := rfl
@[simp] theorem State.emit_pins (s : State) (o : Outside) : (s.emit o).pins = s.pins := rfl
@[simp] theorem State.emit_regions (s : State) (o : Outside) : (s.emit o).regions = s.regions := rfl
@[simp] theorem State.emit_parts (s : State) (o : Outside) : (s.emit o).parts = s.parts := rfl
@[simp] theorem State.emit_vfs (s : State) (o : Outside) : (s.emit o).vfs = s.vfs := rfl
@[simp] theorem State.emit_platform (s : State) (o : Outside) : (s.emit o).platform = s.platform := rfl
@[simp] theorem State.emit_prepare (s : State) (o : Outside) : (s.emit o).prepare = s.prepare := rfl
@[simp] theorem State.emit_link (s : State) (o : Outside) : (s.emit o).link = s.link := rfl
@[simp] theorem State.emit_spdm (s : State) (o : Outside) : (s.emit o).spdm = s.spdm := rfl
@[simp] theorem State.emit_hbmEnergy (s : State) (o : Outside) : (s.emit o).hbmEnergy = s.hbmEnergy := rfl
@[simp] theorem State.emit_hbmUse (s : State) (o : Outside) : (s.emit o).hbmUse = s.hbmUse := rfl
@[simp] theorem State.emit_clock (s : State) (o : Outside) : (s.emit o).clock = s.clock := rfl
@[simp] theorem State.emit_nextId (s : State) (o : Outside) : (s.emit o).nextId = s.nextId := rfl
@[simp] theorem State.emit_fresh (s : State) (o : Outside) : (s.emit o).fresh = s.fresh := rfl
@[simp] theorem State.emit_agenda (s : State) (o : Outside) : (s.emit o).agenda = s.agenda := rfl
@[simp] theorem State.emit_focus (s : State) (o : Outside) : (s.emit o).focus = s.focus := rfl
@[simp] theorem State.emit_verdict (s : State) (o : Outside) : (s.emit o).verdict = s.verdict := rfl

@[simp] theorem State.putByte_cores (s : State) (pa : Nat) (b : Byte) : (s.putByte pa b).cores = s.cores := rfl
@[simp] theorem State.putByte_phys (s : State) (pa : Nat) (b : Byte) : (s.putByte pa b).phys = s.phys := rfl
@[simp] theorem State.putByte_clusters (s : State) (pa : Nat) (b : Byte) : (s.putByte pa b).clusters = s.clusters := rfl
@[simp] theorem State.putByte_mem (s : State) (pa : Nat) (b : Byte) : (s.putByte pa b).mem = s.mem := rfl
@[simp] theorem State.putByte_tags (s : State) (pa : Nat) (b : Byte) : (s.putByte pa b).tags = s.tags := rfl
@[simp] theorem State.putByte_units (s : State) (pa : Nat) (b : Byte) : (s.putByte pa b).units = s.units := rfl
@[simp] theorem State.putByte_net (s : State) (pa : Nat) (b : Byte) : (s.putByte pa b).net = s.net := rfl
@[simp] theorem State.putByte_accs (s : State) (pa : Nat) (b : Byte) : (s.putByte pa b).accs = s.accs := rfl
@[simp] theorem State.putByte_pins (s : State) (pa : Nat) (b : Byte) : (s.putByte pa b).pins = s.pins := rfl
@[simp] theorem State.putByte_regions (s : State) (pa : Nat) (b : Byte) : (s.putByte pa b).regions = s.regions := rfl
@[simp] theorem State.putByte_parts (s : State) (pa : Nat) (b : Byte) : (s.putByte pa b).parts = s.parts := rfl
@[simp] theorem State.putByte_vfs (s : State) (pa : Nat) (b : Byte) : (s.putByte pa b).vfs = s.vfs := rfl
@[simp] theorem State.putByte_platform (s : State) (pa : Nat) (b : Byte) : (s.putByte pa b).platform = s.platform := rfl
@[simp] theorem State.putByte_prepare (s : State) (pa : Nat) (b : Byte) : (s.putByte pa b).prepare = s.prepare := rfl
@[simp] theorem State.putByte_link (s : State) (pa : Nat) (b : Byte) : (s.putByte pa b).link = s.link := rfl
@[simp] theorem State.putByte_spdm (s : State) (pa : Nat) (b : Byte) : (s.putByte pa b).spdm = s.spdm := rfl
@[simp] theorem State.putByte_hbmEnergy (s : State) (pa : Nat) (b : Byte) : (s.putByte pa b).hbmEnergy = s.hbmEnergy := rfl
@[simp] theorem State.putByte_hbmUse (s : State) (pa : Nat) (b : Byte) : (s.putByte pa b).hbmUse = s.hbmUse := rfl
@[simp] theorem State.putByte_clock (s : State) (pa : Nat) (b : Byte) : (s.putByte pa b).clock = s.clock := rfl
@[simp] theorem State.putByte_nextId (s : State) (pa : Nat) (b : Byte) : (s.putByte pa b).nextId = s.nextId := rfl
@[simp] theorem State.putByte_fresh (s : State) (pa : Nat) (b : Byte) : (s.putByte pa b).fresh = s.fresh := rfl
@[simp] theorem State.putByte_out (s : State) (pa : Nat) (b : Byte) : (s.putByte pa b).out = s.out := rfl
@[simp] theorem State.putByte_agenda (s : State) (pa : Nat) (b : Byte) : (s.putByte pa b).agenda = s.agenda := rfl
@[simp] theorem State.putByte_focus (s : State) (pa : Nat) (b : Byte) : (s.putByte pa b).focus = s.focus := rfl
@[simp] theorem State.putByte_verdict (s : State) (pa : Nat) (b : Byte) : (s.putByte pa b).verdict = s.verdict := rfl

@[simp] theorem State.putTag_cores (s : State) (u : Nat) (t : Bool) : (s.putTag u t).cores = s.cores := rfl
@[simp] theorem State.putTag_phys (s : State) (u : Nat) (t : Bool) : (s.putTag u t).phys = s.phys := rfl
@[simp] theorem State.putTag_clusters (s : State) (u : Nat) (t : Bool) : (s.putTag u t).clusters = s.clusters := rfl
@[simp] theorem State.putTag_mem (s : State) (u : Nat) (t : Bool) : (s.putTag u t).mem = s.mem := rfl
@[simp] theorem State.putTag_tags (s : State) (u : Nat) (t : Bool) : (s.putTag u t).tags = s.tags := rfl
@[simp] theorem State.putTag_units (s : State) (u : Nat) (t : Bool) : (s.putTag u t).units = s.units := rfl
@[simp] theorem State.putTag_net (s : State) (u : Nat) (t : Bool) : (s.putTag u t).net = s.net := rfl
@[simp] theorem State.putTag_accs (s : State) (u : Nat) (t : Bool) : (s.putTag u t).accs = s.accs := rfl
@[simp] theorem State.putTag_pins (s : State) (u : Nat) (t : Bool) : (s.putTag u t).pins = s.pins := rfl
@[simp] theorem State.putTag_regions (s : State) (u : Nat) (t : Bool) : (s.putTag u t).regions = s.regions := rfl
@[simp] theorem State.putTag_parts (s : State) (u : Nat) (t : Bool) : (s.putTag u t).parts = s.parts := rfl
@[simp] theorem State.putTag_vfs (s : State) (u : Nat) (t : Bool) : (s.putTag u t).vfs = s.vfs := rfl
@[simp] theorem State.putTag_platform (s : State) (u : Nat) (t : Bool) : (s.putTag u t).platform = s.platform := rfl
@[simp] theorem State.putTag_prepare (s : State) (u : Nat) (t : Bool) : (s.putTag u t).prepare = s.prepare := rfl
@[simp] theorem State.putTag_link (s : State) (u : Nat) (t : Bool) : (s.putTag u t).link = s.link := rfl
@[simp] theorem State.putTag_spdm (s : State) (u : Nat) (t : Bool) : (s.putTag u t).spdm = s.spdm := rfl
@[simp] theorem State.putTag_hbmEnergy (s : State) (u : Nat) (t : Bool) : (s.putTag u t).hbmEnergy = s.hbmEnergy := rfl
@[simp] theorem State.putTag_hbmUse (s : State) (u : Nat) (t : Bool) : (s.putTag u t).hbmUse = s.hbmUse := rfl
@[simp] theorem State.putTag_clock (s : State) (u : Nat) (t : Bool) : (s.putTag u t).clock = s.clock := rfl
@[simp] theorem State.putTag_nextId (s : State) (u : Nat) (t : Bool) : (s.putTag u t).nextId = s.nextId := rfl
@[simp] theorem State.putTag_fresh (s : State) (u : Nat) (t : Bool) : (s.putTag u t).fresh = s.fresh := rfl
@[simp] theorem State.putTag_out (s : State) (u : Nat) (t : Bool) : (s.putTag u t).out = s.out := rfl
@[simp] theorem State.putTag_agenda (s : State) (u : Nat) (t : Bool) : (s.putTag u t).agenda = s.agenda := rfl
@[simp] theorem State.putTag_focus (s : State) (u : Nat) (t : Bool) : (s.putTag u t).focus = s.focus := rfl
@[simp] theorem State.putTag_verdict (s : State) (u : Nat) (t : Bool) : (s.putTag u t).verdict = s.verdict := rfl

@[simp] theorem State.zeroRange_cores (s : State) (lo len : Nat) : (s.zeroRange lo len).cores = s.cores := rfl
@[simp] theorem State.zeroRange_phys (s : State) (lo len : Nat) : (s.zeroRange lo len).phys = s.phys := rfl
@[simp] theorem State.zeroRange_clusters (s : State) (lo len : Nat) : (s.zeroRange lo len).clusters = s.clusters := rfl
@[simp] theorem State.zeroRange_mem (s : State) (lo len : Nat) : (s.zeroRange lo len).mem = s.mem := rfl
@[simp] theorem State.zeroRange_tags (s : State) (lo len : Nat) : (s.zeroRange lo len).tags = s.tags := rfl
@[simp] theorem State.zeroRange_units (s : State) (lo len : Nat) : (s.zeroRange lo len).units = s.units := rfl
@[simp] theorem State.zeroRange_net (s : State) (lo len : Nat) : (s.zeroRange lo len).net = s.net := rfl
@[simp] theorem State.zeroRange_accs (s : State) (lo len : Nat) : (s.zeroRange lo len).accs = s.accs := rfl
@[simp] theorem State.zeroRange_pins (s : State) (lo len : Nat) : (s.zeroRange lo len).pins = s.pins := rfl
@[simp] theorem State.zeroRange_regions (s : State) (lo len : Nat) : (s.zeroRange lo len).regions = s.regions := rfl
@[simp] theorem State.zeroRange_parts (s : State) (lo len : Nat) : (s.zeroRange lo len).parts = s.parts := rfl
@[simp] theorem State.zeroRange_vfs (s : State) (lo len : Nat) : (s.zeroRange lo len).vfs = s.vfs := rfl
@[simp] theorem State.zeroRange_platform (s : State) (lo len : Nat) : (s.zeroRange lo len).platform = s.platform := rfl
@[simp] theorem State.zeroRange_prepare (s : State) (lo len : Nat) : (s.zeroRange lo len).prepare = s.prepare := rfl
@[simp] theorem State.zeroRange_link (s : State) (lo len : Nat) : (s.zeroRange lo len).link = s.link := rfl
@[simp] theorem State.zeroRange_spdm (s : State) (lo len : Nat) : (s.zeroRange lo len).spdm = s.spdm := rfl
@[simp] theorem State.zeroRange_hbmEnergy (s : State) (lo len : Nat) : (s.zeroRange lo len).hbmEnergy = s.hbmEnergy := rfl
@[simp] theorem State.zeroRange_hbmUse (s : State) (lo len : Nat) : (s.zeroRange lo len).hbmUse = s.hbmUse := rfl
@[simp] theorem State.zeroRange_clock (s : State) (lo len : Nat) : (s.zeroRange lo len).clock = s.clock := rfl
@[simp] theorem State.zeroRange_nextId (s : State) (lo len : Nat) : (s.zeroRange lo len).nextId = s.nextId := rfl
@[simp] theorem State.zeroRange_fresh (s : State) (lo len : Nat) : (s.zeroRange lo len).fresh = s.fresh := rfl
@[simp] theorem State.zeroRange_out (s : State) (lo len : Nat) : (s.zeroRange lo len).out = s.out := rfl
@[simp] theorem State.zeroRange_agenda (s : State) (lo len : Nat) : (s.zeroRange lo len).agenda = s.agenda := rfl
@[simp] theorem State.zeroRange_focus (s : State) (lo len : Nat) : (s.zeroRange lo len).focus = s.focus := rfl
@[simp] theorem State.zeroRange_verdict (s : State) (lo len : Nat) : (s.zeroRange lo len).verdict = s.verdict := rfl

/-! ### Reading a unit behind an update -/

@[simp] theorem State.core_setCore_self (s : State) (k : Nat) (c : Core) : (s.setCore k c).core k = c :=
  Sparse.get_put_self _ _ _ _

theorem State.core_setCore_of_ne (s : State) (c : Core) {k j : Nat} (h : k ≠ j) : (s.setCore k c).core j = s.core j :=
  Sparse.get_put_of_ne _ _ _ h

@[simp] theorem State.cluster_setCluster_self (s : State) (g : Nat) (c : Cluster) : (s.setCluster g c).cluster g = c :=
  Sparse.get_put_self _ _ _ _

theorem State.cluster_setCluster_of_ne (s : State) (c : Cluster) {g j : Nat} (h : g ≠ j) :
    (s.setCluster g c).cluster j = s.cluster j := Sparse.get_put_of_ne _ _ _ h

@[simp] theorem State.vf_setVf_self (s : State) (v : Nat) (x : Vf) : (s.setVf v x).vf v = x := Sparse.get_put_self _ _ _ _

@[simp] theorem State.part_setPart_self (s : State) (p : Nat) (x : Partition) : (s.setPart p x).part p = x :=
  Sparse.get_put_self _ _ _ _

@[simp] theorem State.region?_setRegion_self (s : State) (k : Nat) (r : Region) : (s.setRegion k r).region? k = some r :=
  Sparse.look_put_self _ _ _

@[simp] theorem State.cluster_setCore (s : State) (k g : Nat) (c : Core) : (s.setCore k c).cluster g = s.cluster g := rfl
@[simp] theorem State.core_setCluster (s : State) (g k : Nat) (c : Cluster) : (s.setCluster g c).core k = s.core k := rfl

/-- A context that an activation is put into holds it. -/
@[simp] theorem State.act?_setActAt_self (s : State) (core ctx : Nat) (a : Activation) :
    (s.setActAt core ctx a).act? core ctx = some a := by
  simp [State.act?, State.setActAt]

/-- The other contexts of the same core keep their activations. -/
theorem State.act?_setActAt_ctx (s : State) (core : Nat) (a : Activation) {ctx j : Nat} (h : ctx ≠ j) :
    (s.setActAt core ctx a).act? core j = s.act? core j := by
  simp [State.act?, State.setActAt, Sparse.look_put_of_ne _ _ h]

/-- The other cores keep theirs. -/
theorem State.act?_setActAt_core (s : State) (ctx : Nat) (a : Activation) {core k : Nat} (j : Nat) (h : core ≠ k) :
    (s.setActAt core ctx a).act? k j = s.act? k j := by
  simp [State.act?, State.setActAt, State.core_setCore_of_ne _ _ h]

@[simp] theorem State.cur?_setCur (s : State) (a : Activation) : (s.setCur a).cur? = some a := by
  simp [State.cur?, State.setCur]

@[simp] theorem State.cur_setCur (s : State) (a : Activation) : (s.setCur a).cur = a := by simp [State.cur]

/-- Memory reads alike in states that hold the same bytes and changes. -/
theorem State.byteAt_congr {s t : State} (hm : t.mem = s.mem) (hl : t.wlog = s.wlog) (pa : Nat) :
    t.byteAt pa = s.byteAt pa := by simp only [State.byteAt, hm, hl]

theorem State.tagAt_congr {s t : State} (hm : t.tags = s.tags) (hl : t.wlog = s.wlog) (u : Nat) :
    t.tagAt u = s.tagAt u := by simp only [State.tagAt, hm, hl]

/-! ### What stands of a core and of an activation -/

@[simp] theorem Core.profile_acts (c : Core) (a : Activation) (now : Nat) : (c.profile a now).acts = c.acts := by
  unfold Core.profile; extract_lets m; split <;> rfl
@[simp] theorem Core.profile_csr (c : Core) (a : Activation) (now : Nat) : (c.profile a now).csr = c.csr := by
  unfold Core.profile; extract_lets m; split <;> rfl
@[simp] theorem Core.profileSaved_acts (c : Core) (id now : Nat) : (c.profileSaved id now).acts = c.acts := by
  unfold Core.profileSaved; split <;> simp only [Core.profile_acts]
@[simp] theorem Core.profileSaved_csr (c : Core) (id now : Nat) : (c.profileSaved id now).csr = c.csr := by
  unfold Core.profileSaved; split <;> simp only [Core.profile_csr]

@[simp] theorem Core.issued_acts (c : Core) (a : Activation) (ctx : Nat) (e : Entry) : (c.issued a ctx e).acts = c.acts := by
  unfold Core.issued; dsimp only; split <;> rfl
@[simp] theorem Core.issued_csr (c : Core) (a : Activation) (ctx : Nat) (e : Entry) : (c.issued a ctx e).csr = c.csr := by
  unfold Core.issued; dsimp only; split <;> rfl
@[simp] theorem Activation.yields_regs (a : Activation) (e : Entry) (n : Nat) (p : Bool) : (a.yields e n p).regs = a.regs := by
  unfold Activation.yields; split <;> rfl
@[simp] theorem Activation.yields_f (a : Activation) (e : Entry) (n : Nat) (p : Bool) : (a.yields e n p).f = a.f := by
  unfold Activation.yields; split <;> rfl

/-! ### Registers of an activation (02 R30) -/

@[simp] theorem Activation.reg_zero (a : Activation) : a.reg 0 = {} := rfl

@[simp] theorem Activation.setReg_zero (a : Activation) (v : AReg) : a.setReg 0 v = a := rfl

theorem Activation.reg_setReg_self (a : Activation) (v : AReg) {r : Nat} (h : r ≠ 0) : (a.setReg r v).reg r = v := by
  simp [Activation.reg, Activation.setReg, h]

theorem Activation.reg_setReg_of_ne (a : Activation) (v : AReg) {r j : Nat} (h : r ≠ j) :
    (a.setReg r v).reg j = a.reg j := by
  unfold Activation.reg Activation.setReg
  split
  · rfl
  · split
    · rfl
    · exact Sparse.get_set_of_ne _ _ _ h

theorem Activation.reg_writeReg_of_ne (a : Activation) (seq : Nat) (v : AReg) {r j : Nat} (h : r ≠ j) :
    (a.writeReg seq r v).reg j = a.reg j := a.reg_setReg_of_ne v h

theorem Activation.reg_writeReg_self (a : Activation) (seq : Nat) (v : AReg) {r : Nat} (h : r ≠ 0) :
    (a.writeReg seq r v).reg r = v := a.reg_setReg_self v h

/-- A trace record goes to the trace buffer of the cluster. -/
theorem trace_core (s : State) (c x k d j : Nat) : (s.trace c x k d).core j = s.core j := by
  unfold State.trace; dsimp only; split <;> simp

end Sys2Proof.Machine
end

