-- ==== Sys2Proof/Laws/Ops.lean ====
section
/-! SUPPORT. What the shared operations do, each said once: dispatching a head, the checks in front of a meaning, and the
bodies that families of instructions share. -/

namespace Sys2Proof.Machine

/-! ### The activation in focus -/

theorem Ready.cur {s : State} {h : Half} {a : Activation} (r : Ready s h a) : s.cur = a := by
  rw [State.cur, r.here]; rfl

theorem Ready.head {s : State} {h : Half} {a : Activation} (r : Ready s h a) : s.head h = a.headEntry h := by
  rw [State.head, r.cur, r.solo]

theorem Ready.lane {s : State} {h : Half} {a : Activation} (r : Ready s h a) : s.lane = 0 := by
  rw [State.lane, r.cur, r.solo]

theorem Ready.bufs {s : State} {h : Half} {a : Activation} (r : Ready s h a) : s.bufs = (a.f.abuf, a.f.xbuf) := by
  rw [State.bufs, r.cur, r.solo]

/-! ### Dispatch (02 R13) -/

/-- A head whose body has its effect completes: the effect stands, and the head leaves its buffer. -/
theorem dispatch_ok {s t : State} {h : Half} {a : Activation} {body : State → Att} (r : Ready s h a)
    (hb : body s = .ok t) : dispatch h body s = .next (t.finish h) := by
  simp only [dispatch, r.here, r.may, r.solo, hb, Bool.not_true, Bool.false_eq_true, if_false]

/-- A head whose body has an effect and stays keeps its place. -/
theorem dispatch_stay {s t : State} {h : Half} {a : Activation} {body : State → Att} (r : Ready s h a)
    (hb : body s = .stay t) : dispatch h body s = .next (t.dispatched (a.headEntry h)) := by
  simp only [dispatch, r.here, r.may, r.solo, hb, Bool.not_true, Bool.false_eq_true, if_false]

/-- A head whose body fails a check takes the trap. -/
theorem dispatch_trap {s : State} {h : Half} {a : Activation} {body : State → Att} {cause val : Nat} (r : Ready s h a)
    (hb : body s = .trap cause val) : dispatch h body s = .next (s.takeTrap h cause val) := by
  simp only [dispatch, r.here, r.may, r.solo, hb, Bool.not_true, Bool.false_eq_true, if_false]

/-- A head that is not eligible stays, and its wait has its effect. -/
theorem dispatch_waits {s t : State} {h : Half} {a : Activation} {body : State → Att} (r : Ready s h a)
    (hb : body s = .waits t) : dispatch h body s = .next { t with verdict := .waiting } := by
  simp only [dispatch, r.here, r.may, r.solo, hb, Bool.not_true, Bool.false_eq_true, if_false]

/-- A head that is not eligible stays, and nothing happens. -/
theorem dispatch_stall {s : State} {h : Half} {a : Activation} {body : State → Att} (r : Ready s h a)
    (hb : body s = .stall) : dispatch h body s = .next { s with verdict := .stalled } := by
  simp only [dispatch, r.here, r.may, r.solo, hb, Bool.not_true, Bool.false_eq_true, if_false]

/-- A head that may not dispatch stays, and nothing happens. -/
theorem dispatch_held {s : State} {h : Half} {a : Activation} (body : State → Att) (here : s.cur? = some a)
    (may : a.mayDispatch h = false) : dispatch h body s = .next { s with verdict := .stalled } := by
  simp only [dispatch, here, may, Bool.not_false, if_true]

/-- Dispatch always answers a next state: no trap of the part stops the machine (10 R182). -/
theorem dispatch_next (h : Half) (body : State → Att) (s : State) : ∃ t, dispatch h body s = .next t := by
  dsimp only [dispatch]
  repeat' split
  all_goals exact ⟨_, rfl⟩

/-- An activation outside a gang decides its own control transfers (08 R150). -/
theorem decides_ok {s : State} {h : Half} {a : Activation} (r : Ready s h a) (f k : Att) : decides s f k = k := by
  simp only [decides, r.lane, ne_eq, not_true_eq_false, if_false]

/-! ### The checks in front of a meaning (03 R61) -/

@[simp] theorem Att.need_true (k : Att) : Att.need true k = k := rfl
@[simp] theorem Att.check_true (c v : Nat) (k : Att) : Att.check true c v k = k := rfl
@[simp] theorem Att.need_false (k : Att) : Att.need false k = .stall := rfl
@[simp] theorem Att.check_false (c v : Nat) (k : Att) : Att.check false c v k = .trap c v := rfl

/-- A sound hint sequence before a sound target passes steps 1 and 2. -/
theorem guardHints_ok {e : Entry} {k : Att} (hv : e.reservedHint = none) (ht : e.badHint = none) :
    guardHints e false k = k := by
  simp only [guardHints, hv, ht, Bool.not_false, Att.check_true]

theorem guardPriv_ok {a : Activation} {e : Entry} {k : Att} (hp : a.info.priv = true) : guardPriv a e k = k := by
  simp only [guardPriv, hp, Att.check_true]

/-- An activation that may send passes on. -/
theorem sendable_ok {s : State} {h : Half} {a : Activation} {k : Att} (r : Ready s h a) (hs : Sends s a) :
    sendable s k = k := by
  simp only [sendable, r.cur, hs.1, hs.2, Bool.not_false, Bool.and_self, Att.need_true]

theorem orderly_ok {s : State} {h : Half} {a : Activation} {k : Att} (r : Ready s h a) (hs : Orderly s a) :
    orderly s k = k := by
  simp only [orderly, r.cur, show s.acquiring a.info.id = false from hs, Bool.not_false, Att.need_true]

/-- A release whose waits are over passes on. -/
theorem releaseWait_ok {s : State} {a : Activation} {p : Nat} {k : Att} (h : Ordered s a 1 p) :
    releaseWait s a.info.id p k = k := by
  obtain ⟨hr, hw⟩ := h rfl
  by_cases hp : p = 5
  · simp [releaseWait, hr, (hw hp).1, (hw hp).2]
  · simp [releaseWait, hr, hp, bne_iff_ne.mpr hp]

theorem orderStore_ok {s : State} {h : Half} {a : Activation} {r p : Nat} {k : Att} (hd : Ready s h a)
    (ho : Ordered s a r p) : orderStore s r p k = k := by
  unfold orderStore
  split
  · rename_i h1
    subst h1
    rw [hd.cur, releaseWait_ok ho]
  · rfl

theorem popSdq_ok {s : State} {h : Half} {a : Activation} {v : Word128} {rest : List Word128}
    {k : Word128 → Activation → Att} (r : Ready s h a) (hq : a.q.sdq = v :: rest) :
    popSdq s k = k v { a with q := { a.q with sdq := rest } } := by
  simp only [popSdq, r.cur, hq]

/-- An activation that may send a message passes on. -/
theorem sendReady_ok {s : State} {a : Activation} {k : Att} (r : Ready s .a a) (h : SendsMessage s a) :
    sendReady s k = k := by
  obtain ⟨h1, h2, h3, h4⟩ := h
  have h5 : (s.bufs.2.any (fun e => decide (e.seq < (s.head .a).seq) && pushesOutb e.word.toNat)) = false := by
    rw [r.bufs, r.head]; exact h4
  simp only [sendReady, r.cur, h1, h2, h3, h5, decide_true, Bool.not_false, BEq.rfl, Bool.and_self, Att.need_true]

theorem xQuiet_ok {s : State} {h : Half} {a : Activation} {k : Att} (r : Ready s h a) (hx : XQuiet a) : xQuiet s k = k := by
  simp only [xQuiet, r.bufs, r.cur, hx.1, hx.2, List.isEmpty_nil, Bool.and_self, Att.need_true]

theorem replyCheck_ok {c : AReg} {r : Nat} {k : Att} (h : IsReply c) : replyCheck c r k = k := by
  obtain ⟨h1, h2, h3, h4⟩ := h
  simp only [replyCheck, h1, h2, h3, h4, decide_true, BEq.rfl, Bool.and_self, Att.check_true]

/-- RES and ABN reach their own part for the operation that is parked. -/
theorem parkedCheck_ok {s : State} {clu id v : Nat} {k : Att} (h : ParkedWith s clu id v) :
    parkedCheck s clu id v (fun _ => k) = k := by
  obtain ⟨code, val, c, rest, hr, hq, hi⟩ := h
  simp only [parkedCheck, hr, hq, hi, BEq.rfl, Att.check_true]

theorem guardCluster_ok {s : State} {region id : Nat} {k : Att} (h : s.ownsCluster region s.curClu = true) :
    guardCluster s region id k = k := by simp only [guardCluster, h, Att.check_true]

@[simp] theorem Refused.guard_none (k : Att) : Refused.guard none k = k := rfl

theorem readable_nil (a : Activation) : Readable a [] := by simp [Readable]

/-- A capability that admits the access passes on (02 R35). -/
theorem capCheck_ok {c : AReg} {perms : List Nat} {off size unit align cause val : Nat} {k : Att}
    (h : Admits c perms off size unit align) : capCheck c perms off size unit align cause val k = k := by
  obtain ⟨ht, hp, hb, ha⟩ := h
  have hp' : perms.all (fun p => c.perm p) = true := by simpa using hp
  simp only [capCheck, ht, hp', hb, ha, decide_true, BEq.rfl, Att.check_true]

/-! ### Bodies of the A-half -/

/-- An A instruction whose registers can be read reaches its own part. -/
theorem aBody_ok {s : State} {a : Activation} {rs : List Nat} {illegal : Entry → Bool} {k : Activation → Entry → Att}
    (r : Ready s .a a) (hr : Readable a rs) (hi : illegal (a.headEntry .a) = false) :
    aBody rs illegal k s = k a (a.headEntry .a) := by
  have hr' : rs.all (fun x => a.regReady (a.headEntry .a).seq x) = true := by simpa [Readable] using hr
  simp only [aBody, r.cur, r.head, hr', hi, Att.need_true, guardHints_ok r.valid r.taken]

/-- An instruction that only writes a register completes with its value. -/
theorem regBody_runs {i : Instr} {rs : List Nat} {d : Nat} {illegal : Entry → Bool} {v : Activation → Entry → AReg}
    {ok : Entry → Bool} (h : ∀ s, exec i s = dispatch .a (regBody rs d illegal v) s)
    (hok : ∀ e, ok e = true → illegal e = false) : RegRuns i rs d ok v := by
  intro s a r hp
  rw [h]
  exact dispatch_ok r (by rw [regBody, aBody_ok r hp.1 (hok _ hp.2)])

/-! ### Bodies of the X-half -/

/-- An X instruction whose operands can be taken leaves its result as a pending write. -/
theorem xBody_ok {s : State} {a a1 a2 a3 : Activation} {op : XOp} {w va vb vc : Nat} {f : Csrs → Nat → Nat → Nat → XRes}
    (r : Ready s .x a) (g : XGo s a op va vb vc a1 a2 a3) :
    xBody op w false f s = .ok ((s.setCurCore
        { s.curCore with csr := (f s.curCore.csr (extOpt w va op.a) (extOpt w vb op.b) (extOpt w vc op.c)).csr }).setCur
      { a3 with pend := a3.pend ++ [xWrite (dstOf op.d op.dw) op.dw
          (f s.curCore.csr (extOpt w va op.a) (extOpt w vb op.b) (extOpt w vc op.c)).value
          (f s.curCore.csr (extOpt w va op.a) (extOpt w vb op.b) (extOpt w vc op.c)).flags] }) := by
  simp only [xBody, r.cur, r.head, r.lane, g.readA, g.readB, g.readC, g.room, g.srcA, g.srcB, g.dst, Bool.or_true,
    Att.need_true, Att.check_true, guardHints_ok r.valid r.taken]

/-- An instruction whose meaning is an X body completes with the result of its function. -/
theorem xBody_runs {i : Instr} {w : Nat} {op : Entry → XOp} {ok : Entry → Bool}
    {f : Entry → Csrs → Nat → Nat → Nat → XRes} (illegal : Entry → Bool)
    (h : ∀ s, exec i s = dispatch .x (fun t => xBody (op (t.head .x)) w (illegal (t.head .x)) (f (t.head .x)) t) s)
    (hok : ∀ e, ok e = true → illegal e = false) : XRuns i w op ok f := by
  intro s a a1 a2 a3 va vb vc r ho g
  rw [h, dispatch_ok r (t := _) (by rw [r.head, hok _ ho]; exact xBody_ok r g)]
  rfl

/-! ### A head with a reserved field (03 R61) -/

theorem guardHints_bad {e : Entry} {k : Att} (hv : e.reservedHint = none) :
    guardHints e true k = .trap tILLEGAL_INSTRUCTION e.word.toNat := by
  simp only [guardHints, hv, Bool.not_true, Att.check_false]

theorem aBody_bad {s : State} {a : Activation} {rs : List Nat} {illegal : Entry → Bool} {k : Activation → Entry → Att}
    (r : Ready s .a a) (hr : Readable a rs) (hi : illegal (a.headEntry .a) = true) :
    aBody rs illegal k s = .trap tILLEGAL_INSTRUCTION (a.headEntry .a).word.toNat := by
  have : (rs.all fun r => a.regReady (a.headEntry .a).seq r) = true := List.all_eq_true.mpr hr
  simp only [aBody, r.cur, r.head, this, Att.need_true, hi, guardHints_bad r.valid]

theorem xBody_bad {s : State} {a a1 a2 a3 : Activation} {op : XOp} {w va vb vc : Nat} {f : Csrs → Nat → Nat → Nat → XRes}
    (r : Ready s .x a) (g : XGo s a op va vb vc a1 a2 a3) :
    xBody op w true f s = .trap tILLEGAL_INSTRUCTION (a.headEntry .x).word.toNat := by
  simp only [xBody, r.cur, r.head, r.lane, g.readA, g.readB, g.readC, g.room, Bool.or_true, Att.need_true,
    guardHints_bad r.valid]

theorem execXC_bad {s : State} {a a1 : Activation} {w d x i va : Nat} {bad : Nat → Nat → Bool} {f : Nat → Nat → Nat → Nat}
    (rd : Ready s .x a) (g : XGo s a (oneSrc (widthOf w) d x (a.headEntry .x)) va 0 0 a1 a1 a1)
    (e : bad (widthOf w) ((a.headEntry .x).immU 7 i) = true) :
    execXC w d x i bad f s = .next (s.takeTrap .x 0x01 (a.headEntry .x).word.toNat) := by
  refine dispatch_trap rd ?_
  simp only [intBody, rd.head, e]
  exact xBody_bad rd g

/-- Sending the buffers of a root of a list of clusters sends nothing where none of them in scope has such a buffer. -/
theorem flushRoot_none {p k r : Nat} (f : Nat × Cluster → Nat × Cluster) (hf : ∀ e, (f e).1 = e.1 ∧ (f e).2.wc = e.2.wc) :
    ∀ (l : Sparse Cluster) (t : State),
      l.any (fun e => fenceCovers p k e.1 && e.2.wc.any (fun b => b.roots.contains r)) = false →
      (l.map f).foldl (fun t e => if fenceCovers p k e.1 then
        (e.2.wc.filter (fun b => b.roots.contains r)).foldl (fun u b => u.wcSend e.1 b) t else t) t = t := by
  intro l
  induction l with
  | nil => intro t _; rfl
  | cons e rest ih =>
    intro t hl
    rw [List.any_cons, Bool.or_eq_false_iff] at hl
    rw [List.map_cons, List.foldl_cons, (hf e).1, (hf e).2]
    by_cases hc : fenceCovers p k e.1 = true
    · have hn : e.2.wc.filter (fun b => b.roots.contains r) = [] := by
        rw [List.filter_eq_nil_iff]
        intro b hb hr
        have h1 := hl.1
        rw [hc, Bool.true_and, List.any_eq_false] at h1
        exact h1 b hb hr
      simp only [if_pos hc, hn, List.foldl_nil]
      exact ih t hl.2
    · simp only [if_neg hc]
      exact ih t hl.2

/-- With no byte of the root in a write-combining buffer of the scope there is nothing to send (12 R231). -/
theorem wcFlushRoot_none {s : State} {p k r : Nat} (h : s.wcInScope p k r = false) :
    (s.dropRoot p k r).wcFlushRoot p k r = s.dropRoot p k r := by
  unfold State.wcInScope at h
  rw [Bool.or_eq_false_iff] at h
  refine flushRoot_none _ (fun e => ?_) _ _ h.1
  dsimp only
  by_cases hc : fenceCovers p k e.1 = true
  · rw [if_pos hc]
    by_cases hp : (p != 1) = true
    · rw [if_pos hp]; exact ⟨rfl, rfl⟩
    · rw [if_neg hp]; exact ⟨rfl, rfl⟩
  · rw [if_neg hc]; exact ⟨rfl, rfl⟩

end Sys2Proof.Machine
end

