-- ==== Sys2Proof/Laws/Answers.lean ====
section
/-! SUPPORT. Every instruction and every event answers a next state, one lemma each (10 R182: no trap stops the part). -/

namespace Sys2Proof.Machine

set_option Elab.async false

theorem next_add (w d a b : Nat) (s : State) : ∃ res, exec (.add w d a b) s = .next res := by
  show ∃ res, execAdd w d a b s = .next res
  unfold execAdd; unfold execX3; exact dispatch_next _ _ _

theorem next_sub (w d a b : Nat) (s : State) : ∃ res, exec (.sub w d a b) s = .next res := by
  show ∃ res, execSub w d a b s = .next res
  unfold execSub; unfold execX3; exact dispatch_next _ _ _

theorem next_addi (w d a im : Nat) (s : State) : ∃ res, exec (.addi w d a im) s = .next res := by
  show ∃ res, execAddi w d a im s = .next res
  unfold execAddi; unfold execXI; exact dispatch_next _ _ _

theorem next_mul (w d a b : Nat) (s : State) : ∃ res, exec (.mul w d a b) s = .next res := by
  show ∃ res, execMul w d a b s = .next res
  unfold execMul; unfold execX3; exact dispatch_next _ _ _

theorem next_mulh (w d a b : Nat) (s : State) : ∃ res, exec (.mulh w d a b) s = .next res := by
  show ∃ res, execMulh w d a b s = .next res
  unfold execMulh; unfold execX3; exact dispatch_next _ _ _

theorem next_mulhu (w d a b : Nat) (s : State) : ∃ res, exec (.mulhu w d a b) s = .next res := by
  show ∃ res, execMulhu w d a b s = .next res
  unfold execMulhu; unfold execX3; exact dispatch_next _ _ _

theorem next_mulw (w d a b : Nat) (s : State) : ∃ res, exec (.mulw w d a b) s = .next res := by
  show ∃ res, execMulw w d a b s = .next res
  unfold execMulw; exact dispatch_next _ _ _

theorem next_mulwu (w d a b : Nat) (s : State) : ∃ res, exec (.mulwu w d a b) s = .next res := by
  show ∃ res, execMulwu w d a b s = .next res
  unfold execMulwu; exact dispatch_next _ _ _

theorem next_div (w d a b : Nat) (s : State) : ∃ res, exec (.div w d a b) s = .next res := by
  show ∃ res, execDiv w d a b s = .next res
  unfold execDiv; unfold execX3; exact dispatch_next _ _ _

theorem next_divu (w d a b : Nat) (s : State) : ∃ res, exec (.divu w d a b) s = .next res := by
  show ∃ res, execDivu w d a b s = .next res
  unfold execDivu; unfold execX3; exact dispatch_next _ _ _

theorem next_rem (w d a b : Nat) (s : State) : ∃ res, exec (.rem w d a b) s = .next res := by
  show ∃ res, execRem w d a b s = .next res
  unfold execRem; unfold execX3; exact dispatch_next _ _ _

theorem next_remu (w d a b : Nat) (s : State) : ∃ res, exec (.remu w d a b) s = .next res := by
  show ∃ res, execRemu w d a b s = .next res
  unfold execRemu; unfold execX3; exact dispatch_next _ _ _

theorem next_min (w d a b : Nat) (s : State) : ∃ res, exec (.min w d a b) s = .next res := by
  show ∃ res, execMin w d a b s = .next res
  unfold execMin; unfold execX3; exact dispatch_next _ _ _

theorem next_max (w d a b : Nat) (s : State) : ∃ res, exec (.max w d a b) s = .next res := by
  show ∃ res, execMax w d a b s = .next res
  unfold execMax; unfold execX3; exact dispatch_next _ _ _

theorem next_minu (w d a b : Nat) (s : State) : ∃ res, exec (.minu w d a b) s = .next res := by
  show ∃ res, execMinu w d a b s = .next res
  unfold execMinu; unfold execX3; exact dispatch_next _ _ _

theorem next_maxu (w d a b : Nat) (s : State) : ∃ res, exec (.maxu w d a b) s = .next res := by
  show ∃ res, execMaxu w d a b s = .next res
  unfold execMaxu; unfold execX3; exact dispatch_next _ _ _

theorem next_adds (w d a b : Nat) (s : State) : ∃ res, exec (.adds w d a b) s = .next res := by
  show ∃ res, execAdds w d a b s = .next res
  unfold execAdds; unfold execX3; exact dispatch_next _ _ _

theorem next_addus (w d a b : Nat) (s : State) : ∃ res, exec (.addus w d a b) s = .next res := by
  show ∃ res, execAddus w d a b s = .next res
  unfold execAddus; unfold execX3; exact dispatch_next _ _ _

theorem next_subs (w d a b : Nat) (s : State) : ∃ res, exec (.subs w d a b) s = .next res := by
  show ∃ res, execSubs w d a b s = .next res
  unfold execSubs; unfold execX3; exact dispatch_next _ _ _

theorem next_subus (w d a b : Nat) (s : State) : ∃ res, exec (.subus w d a b) s = .next res := by
  show ∃ res, execSubus w d a b s = .next res
  unfold execSubus; unfold execX3; exact dispatch_next _ _ _

theorem next_neg (w d a : Nat) (s : State) : ∃ res, exec (.neg w d a) s = .next res := by
  show ∃ res, execNeg w d a s = .next res
  unfold execNeg; unfold execX2; exact dispatch_next _ _ _

theorem next_abs (w d a : Nat) (s : State) : ∃ res, exec (.abs w d a) s = .next res := by
  show ∃ res, execAbs w d a s = .next res
  unfold execAbs; unfold execX2; exact dispatch_next _ _ _

theorem next_and (w d a b : Nat) (s : State) : ∃ res, exec (.and w d a b) s = .next res := by
  show ∃ res, execAnd w d a b s = .next res
  unfold execAnd; unfold execX3; exact dispatch_next _ _ _

theorem next_or (w d a b : Nat) (s : State) : ∃ res, exec (.or w d a b) s = .next res := by
  show ∃ res, execOr w d a b s = .next res
  unfold execOr; unfold execX3; exact dispatch_next _ _ _

theorem next_xor (w d a b : Nat) (s : State) : ∃ res, exec (.xor w d a b) s = .next res := by
  show ∃ res, execXor w d a b s = .next res
  unfold execXor; unfold execX3; exact dispatch_next _ _ _

theorem next_andn (w d a b : Nat) (s : State) : ∃ res, exec (.andn w d a b) s = .next res := by
  show ∃ res, execAndn w d a b s = .next res
  unfold execAndn; unfold execX3; exact dispatch_next _ _ _

theorem next_andi (w d a im : Nat) (s : State) : ∃ res, exec (.andi w d a im) s = .next res := by
  show ∃ res, execAndi w d a im s = .next res
  unfold execAndi; unfold execXI; exact dispatch_next _ _ _

theorem next_ori (w d a im : Nat) (s : State) : ∃ res, exec (.ori w d a im) s = .next res := by
  show ∃ res, execOri w d a im s = .next res
  unfold execOri; unfold execXI; exact dispatch_next _ _ _

theorem next_xori (w d a im : Nat) (s : State) : ∃ res, exec (.xori w d a im) s = .next res := by
  show ∃ res, execXori w d a im s = .next res
  unfold execXori; unfold execXI; exact dispatch_next _ _ _

theorem next_shl (w d a b : Nat) (s : State) : ∃ res, exec (.shl w d a b) s = .next res := by
  show ∃ res, execShl w d a b s = .next res
  unfold execShl; unfold execX3; exact dispatch_next _ _ _

theorem next_shr (w d a b : Nat) (s : State) : ∃ res, exec (.shr w d a b) s = .next res := by
  show ∃ res, execShr w d a b s = .next res
  unfold execShr; unfold execX3; exact dispatch_next _ _ _

theorem next_sar (w d a b : Nat) (s : State) : ∃ res, exec (.sar w d a b) s = .next res := by
  show ∃ res, execSar w d a b s = .next res
  unfold execSar; unfold execX3; exact dispatch_next _ _ _

theorem next_shli (w d a im : Nat) (s : State) : ∃ res, exec (.shli w d a im) s = .next res := by
  show ∃ res, execShli w d a im s = .next res
  unfold execShli; unfold execXC; exact dispatch_next _ _ _

theorem next_shri (w d a im : Nat) (s : State) : ∃ res, exec (.shri w d a im) s = .next res := by
  show ∃ res, execShri w d a im s = .next res
  unfold execShri; unfold execXC; exact dispatch_next _ _ _

theorem next_sari (w d a im : Nat) (s : State) : ∃ res, exec (.sari w d a im) s = .next res := by
  show ∃ res, execSari w d a im s = .next res
  unfold execSari; unfold execXC; exact dispatch_next _ _ _

theorem next_rol (w d a b : Nat) (s : State) : ∃ res, exec (.rol w d a b) s = .next res := by
  show ∃ res, execRol w d a b s = .next res
  unfold execRol; unfold execX3; exact dispatch_next _ _ _

theorem next_roli (w d a im : Nat) (s : State) : ∃ res, exec (.roli w d a im) s = .next res := by
  show ∃ res, execRoli w d a im s = .next res
  unfold execRoli; unfold execXC; exact dispatch_next _ _ _

theorem next_fshl (w d a b : Nat) (s : State) : ∃ res, exec (.fshl w d a b) s = .next res := by
  show ∃ res, execFshl w d a b s = .next res
  unfold execFshl; exact dispatch_next _ _ _

theorem next_fshr (w d a b : Nat) (s : State) : ∃ res, exec (.fshr w d a b) s = .next res := by
  show ∃ res, execFshr w d a b s = .next res
  unfold execFshr; exact dispatch_next _ _ _

theorem next_sel (w d a b : Nat) (s : State) : ∃ res, exec (.sel w d a b) s = .next res := by
  show ∃ res, execSel w d a b s = .next res
  unfold execSel; exact dispatch_next _ _ _

theorem next_seq (w d a b : Nat) (s : State) : ∃ res, exec (.seq w d a b) s = .next res := by
  show ∃ res, execSeq w d a b s = .next res
  unfold execSeq; unfold execX3; exact dispatch_next _ _ _

theorem next_sne (w d a b : Nat) (s : State) : ∃ res, exec (.sne w d a b) s = .next res := by
  show ∃ res, execSne w d a b s = .next res
  unfold execSne; unfold execX3; exact dispatch_next _ _ _

theorem next_slt (w d a b : Nat) (s : State) : ∃ res, exec (.slt w d a b) s = .next res := by
  show ∃ res, execSlt w d a b s = .next res
  unfold execSlt; unfold execX3; exact dispatch_next _ _ _

theorem next_sltu (w d a b : Nat) (s : State) : ∃ res, exec (.sltu w d a b) s = .next res := by
  show ∃ res, execSltu w d a b s = .next res
  unfold execSltu; unfold execX3; exact dispatch_next _ _ _

theorem next_sle (w d a b : Nat) (s : State) : ∃ res, exec (.sle w d a b) s = .next res := by
  show ∃ res, execSle w d a b s = .next res
  unfold execSle; unfold execX3; exact dispatch_next _ _ _

theorem next_sleu (w d a b : Nat) (s : State) : ∃ res, exec (.sleu w d a b) s = .next res := by
  show ∃ res, execSleu w d a b s = .next res
  unfold execSleu; unfold execX3; exact dispatch_next _ _ _

theorem next_seqi (w d a im : Nat) (s : State) : ∃ res, exec (.seqi w d a im) s = .next res := by
  show ∃ res, execSeqi w d a im s = .next res
  unfold execSeqi; unfold execXI; exact dispatch_next _ _ _

theorem next_slti (w d a im : Nat) (s : State) : ∃ res, exec (.slti w d a im) s = .next res := by
  show ∃ res, execSlti w d a im s = .next res
  unfold execSlti; unfold execXI; exact dispatch_next _ _ _

theorem next_mov (w d a : Nat) (s : State) : ∃ res, exec (.mov w d a) s = .next res := by
  show ∃ res, execMov w d a s = .next res
  unfold execMov; unfold execX2; exact dispatch_next _ _ _

theorem next_movi (w d im : Nat) (s : State) : ∃ res, exec (.movi w d im) s = .next res := by
  show ∃ res, execMovi w d im s = .next res
  unfold execMovi; exact dispatch_next _ _ _

theorem next_exts (w d a im : Nat) (s : State) : ∃ res, exec (.exts w d a im) s = .next res := by
  show ∃ res, execExts w d a im s = .next res
  unfold execExts; unfold execXC; exact dispatch_next _ _ _

theorem next_extz (w d a im : Nat) (s : State) : ∃ res, exec (.extz w d a im) s = .next res := by
  show ∃ res, execExtz w d a im s = .next res
  unfold execExtz; unfold execXC; exact dispatch_next _ _ _

theorem next_clz (w d a : Nat) (s : State) : ∃ res, exec (.clz w d a) s = .next res := by
  show ∃ res, execClz w d a s = .next res
  unfold execClz; unfold execX2; exact dispatch_next _ _ _

theorem next_ctz (w d a : Nat) (s : State) : ∃ res, exec (.ctz w d a) s = .next res := by
  show ∃ res, execCtz w d a s = .next res
  unfold execCtz; unfold execX2; exact dispatch_next _ _ _

theorem next_popc (w d a : Nat) (s : State) : ∃ res, exec (.popc w d a) s = .next res := by
  show ∃ res, execPopc w d a s = .next res
  unfold execPopc; unfold execX2; exact dispatch_next _ _ _

theorem next_brev (w d a : Nat) (s : State) : ∃ res, exec (.brev w d a) s = .next res := by
  show ∃ res, execBrev w d a s = .next res
  unfold execBrev; unfold execX2; exact dispatch_next _ _ _

theorem next_bext (w d a b : Nat) (s : State) : ∃ res, exec (.bext w d a b) s = .next res := by
  show ∃ res, execBext w d a b s = .next res
  unfold execBext; unfold execX3; exact dispatch_next _ _ _

theorem next_bexts (w d a b : Nat) (s : State) : ∃ res, exec (.bexts w d a b) s = .next res := by
  show ∃ res, execBexts w d a b s = .next res
  unfold execBexts; unfold execX3; exact dispatch_next _ _ _

theorem next_bdep (w d a b : Nat) (s : State) : ∃ res, exec (.bdep w d a b) s = .next res := by
  show ∃ res, execBdep w d a b s = .next res
  unfold execBdep; unfold execX3; exact dispatch_next _ _ _

theorem next_paddL4 (w d a b : Nat) (s : State) : ∃ res, exec (.paddL4 w d a b) s = .next res := by
  show ∃ res, execPaddL4 w d a b s = .next res
  unfold execPaddL4; exact dispatch_next _ _ _

theorem next_paddL8 (w d a b : Nat) (s : State) : ∃ res, exec (.paddL8 w d a b) s = .next res := by
  show ∃ res, execPaddL8 w d a b s = .next res
  unfold execPaddL8; exact dispatch_next _ _ _

theorem next_paddL16 (w d a b : Nat) (s : State) : ∃ res, exec (.paddL16 w d a b) s = .next res := by
  show ∃ res, execPaddL16 w d a b s = .next res
  unfold execPaddL16; exact dispatch_next _ _ _

theorem next_paddL32 (w d a b : Nat) (s : State) : ∃ res, exec (.paddL32 w d a b) s = .next res := by
  show ∃ res, execPaddL32 w d a b s = .next res
  unfold execPaddL32; exact dispatch_next _ _ _

theorem next_psubL4 (w d a b : Nat) (s : State) : ∃ res, exec (.psubL4 w d a b) s = .next res := by
  show ∃ res, execPsubL4 w d a b s = .next res
  unfold execPsubL4; exact dispatch_next _ _ _

theorem next_psubL8 (w d a b : Nat) (s : State) : ∃ res, exec (.psubL8 w d a b) s = .next res := by
  show ∃ res, execPsubL8 w d a b s = .next res
  unfold execPsubL8; exact dispatch_next _ _ _

theorem next_psubL16 (w d a b : Nat) (s : State) : ∃ res, exec (.psubL16 w d a b) s = .next res := by
  show ∃ res, execPsubL16 w d a b s = .next res
  unfold execPsubL16; exact dispatch_next _ _ _

theorem next_psubL32 (w d a b : Nat) (s : State) : ∃ res, exec (.psubL32 w d a b) s = .next res := by
  show ∃ res, execPsubL32 w d a b s = .next res
  unfold execPsubL32; exact dispatch_next _ _ _

theorem next_pmaxuL4 (w d a b : Nat) (s : State) : ∃ res, exec (.pmaxuL4 w d a b) s = .next res := by
  show ∃ res, execPmaxuL4 w d a b s = .next res
  unfold execPmaxuL4; exact dispatch_next _ _ _

theorem next_pmaxuL8 (w d a b : Nat) (s : State) : ∃ res, exec (.pmaxuL8 w d a b) s = .next res := by
  show ∃ res, execPmaxuL8 w d a b s = .next res
  unfold execPmaxuL8; exact dispatch_next _ _ _

theorem next_pmaxuL16 (w d a b : Nat) (s : State) : ∃ res, exec (.pmaxuL16 w d a b) s = .next res := by
  show ∃ res, execPmaxuL16 w d a b s = .next res
  unfold execPmaxuL16; exact dispatch_next _ _ _

theorem next_pmaxuL32 (w d a b : Nat) (s : State) : ∃ res, exec (.pmaxuL32 w d a b) s = .next res := by
  show ∃ res, execPmaxuL32 w d a b s = .next res
  unfold execPmaxuL32; exact dispatch_next _ _ _

theorem next_pminuL4 (w d a b : Nat) (s : State) : ∃ res, exec (.pminuL4 w d a b) s = .next res := by
  show ∃ res, execPminuL4 w d a b s = .next res
  unfold execPminuL4; exact dispatch_next _ _ _

theorem next_pminuL8 (w d a b : Nat) (s : State) : ∃ res, exec (.pminuL8 w d a b) s = .next res := by
  show ∃ res, execPminuL8 w d a b s = .next res
  unfold execPminuL8; exact dispatch_next _ _ _

theorem next_pminuL16 (w d a b : Nat) (s : State) : ∃ res, exec (.pminuL16 w d a b) s = .next res := by
  show ∃ res, execPminuL16 w d a b s = .next res
  unfold execPminuL16; exact dispatch_next _ _ _

theorem next_pminuL32 (w d a b : Nat) (s : State) : ∃ res, exec (.pminuL32 w d a b) s = .next res := by
  show ∃ res, execPminuL32 w d a b s = .next res
  unfold execPminuL32; exact dispatch_next _ _ _

theorem next_pmaxsL4 (w d a b : Nat) (s : State) : ∃ res, exec (.pmaxsL4 w d a b) s = .next res := by
  show ∃ res, execPmaxsL4 w d a b s = .next res
  unfold execPmaxsL4; exact dispatch_next _ _ _

theorem next_pmaxsL8 (w d a b : Nat) (s : State) : ∃ res, exec (.pmaxsL8 w d a b) s = .next res := by
  show ∃ res, execPmaxsL8 w d a b s = .next res
  unfold execPmaxsL8; exact dispatch_next _ _ _

theorem next_pmaxsL16 (w d a b : Nat) (s : State) : ∃ res, exec (.pmaxsL16 w d a b) s = .next res := by
  show ∃ res, execPmaxsL16 w d a b s = .next res
  unfold execPmaxsL16; exact dispatch_next _ _ _

theorem next_pmaxsL32 (w d a b : Nat) (s : State) : ∃ res, exec (.pmaxsL32 w d a b) s = .next res := by
  show ∃ res, execPmaxsL32 w d a b s = .next res
  unfold execPmaxsL32; exact dispatch_next _ _ _

theorem next_pminsL4 (w d a b : Nat) (s : State) : ∃ res, exec (.pminsL4 w d a b) s = .next res := by
  show ∃ res, execPminsL4 w d a b s = .next res
  unfold execPminsL4; exact dispatch_next _ _ _

theorem next_pminsL8 (w d a b : Nat) (s : State) : ∃ res, exec (.pminsL8 w d a b) s = .next res := by
  show ∃ res, execPminsL8 w d a b s = .next res
  unfold execPminsL8; exact dispatch_next _ _ _

theorem next_pminsL16 (w d a b : Nat) (s : State) : ∃ res, exec (.pminsL16 w d a b) s = .next res := by
  show ∃ res, execPminsL16 w d a b s = .next res
  unfold execPminsL16; exact dispatch_next _ _ _

theorem next_pminsL32 (w d a b : Nat) (s : State) : ∃ res, exec (.pminsL32 w d a b) s = .next res := by
  show ∃ res, execPminsL32 w d a b s = .next res
  unfold execPminsL32; exact dispatch_next _ _ _

theorem next_paddssL4 (w d a b : Nat) (s : State) : ∃ res, exec (.paddssL4 w d a b) s = .next res := by
  show ∃ res, execPaddssL4 w d a b s = .next res
  unfold execPaddssL4; exact dispatch_next _ _ _

theorem next_paddssL8 (w d a b : Nat) (s : State) : ∃ res, exec (.paddssL8 w d a b) s = .next res := by
  show ∃ res, execPaddssL8 w d a b s = .next res
  unfold execPaddssL8; exact dispatch_next _ _ _

theorem next_paddssL16 (w d a b : Nat) (s : State) : ∃ res, exec (.paddssL16 w d a b) s = .next res := by
  show ∃ res, execPaddssL16 w d a b s = .next res
  unfold execPaddssL16; exact dispatch_next _ _ _

theorem next_paddssL32 (w d a b : Nat) (s : State) : ∃ res, exec (.paddssL32 w d a b) s = .next res := by
  show ∃ res, execPaddssL32 w d a b s = .next res
  unfold execPaddssL32; exact dispatch_next _ _ _

theorem next_rmaxuL4 (w d a b : Nat) (s : State) : ∃ res, exec (.rmaxuL4 w d a b) s = .next res := by
  show ∃ res, execRmaxuL4 w d a b s = .next res
  unfold execRmaxuL4; exact dispatch_next _ _ _

theorem next_rmaxuL8 (w d a b : Nat) (s : State) : ∃ res, exec (.rmaxuL8 w d a b) s = .next res := by
  show ∃ res, execRmaxuL8 w d a b s = .next res
  unfold execRmaxuL8; exact dispatch_next _ _ _

theorem next_rmaxuL16 (w d a b : Nat) (s : State) : ∃ res, exec (.rmaxuL16 w d a b) s = .next res := by
  show ∃ res, execRmaxuL16 w d a b s = .next res
  unfold execRmaxuL16; exact dispatch_next _ _ _

theorem next_rmaxuL32 (w d a b : Nat) (s : State) : ∃ res, exec (.rmaxuL32 w d a b) s = .next res := by
  show ∃ res, execRmaxuL32 w d a b s = .next res
  unfold execRmaxuL32; exact dispatch_next _ _ _

theorem next_fadd (w d a b : Nat) (s : State) : ∃ res, exec (.fadd w d a b) s = .next res := by
  show ∃ res, execFadd w d a b s = .next res
  unfold execFadd; unfold execF3; exact dispatch_next _ _ _

theorem next_fsub (w d a b : Nat) (s : State) : ∃ res, exec (.fsub w d a b) s = .next res := by
  show ∃ res, execFsub w d a b s = .next res
  unfold execFsub; unfold execF3; exact dispatch_next _ _ _

theorem next_fmul (w d a b : Nat) (s : State) : ∃ res, exec (.fmul w d a b) s = .next res := by
  show ∃ res, execFmul w d a b s = .next res
  unfold execFmul; unfold execF3; exact dispatch_next _ _ _

theorem next_fma (w d a b : Nat) (s : State) : ∃ res, exec (.fma w d a b) s = .next res := by
  show ∃ res, execFma w d a b s = .next res
  unfold execFma; unfold execF4; exact dispatch_next _ _ _

theorem next_fmulz (w d a b : Nat) (s : State) : ∃ res, exec (.fmulz w d a b) s = .next res := by
  show ∃ res, execFmulz w d a b s = .next res
  unfold execFmulz; unfold execF3; exact dispatch_next _ _ _

theorem next_fmin (w d a b : Nat) (s : State) : ∃ res, exec (.fmin w d a b) s = .next res := by
  show ∃ res, execFmin w d a b s = .next res
  unfold execFmin; unfold execF3; exact dispatch_next _ _ _

theorem next_fmax (w d a b : Nat) (s : State) : ∃ res, exec (.fmax w d a b) s = .next res := by
  show ∃ res, execFmax w d a b s = .next res
  unfold execFmax; unfold execF3; exact dispatch_next _ _ _

theorem next_frcp (w d a : Nat) (s : State) : ∃ res, exec (.frcp w d a) s = .next res := by
  show ∃ res, execFrcp w d a s = .next res
  unfold execFrcp; unfold execF2; exact dispatch_next _ _ _

theorem next_frsq (w d a : Nat) (s : State) : ∃ res, exec (.frsq w d a) s = .next res := by
  show ∃ res, execFrsq w d a s = .next res
  unfold execFrsq; unfold execF2; exact dispatch_next _ _ _

theorem next_fexp2 (w d a : Nat) (s : State) : ∃ res, exec (.fexp2 w d a) s = .next res := by
  show ∃ res, execFexp2 w d a s = .next res
  unfold execFexp2; unfold execF2; exact dispatch_next _ _ _

theorem next_flog2 (w d a : Nat) (s : State) : ∃ res, exec (.flog2 w d a) s = .next res := by
  show ∃ res, execFlog2 w d a s = .next res
  unfold execFlog2; unfold execF2; exact dispatch_next _ _ _

theorem next_fcmpeq (w d a b : Nat) (s : State) : ∃ res, exec (.fcmpeq w d a b) s = .next res := by
  show ∃ res, execFcmpeq w d a b s = .next res
  unfold execFcmpeq; unfold execF3; exact dispatch_next _ _ _

theorem next_fcmplt (w d a b : Nat) (s : State) : ∃ res, exec (.fcmplt w d a b) s = .next res := by
  show ∃ res, execFcmplt w d a b s = .next res
  unfold execFcmplt; unfold execF3; exact dispatch_next _ _ _

theorem next_fcmple (w d a b : Nat) (s : State) : ∃ res, exec (.fcmple w d a b) s = .next res := by
  show ∃ res, execFcmple w d a b s = .next res
  unfold execFcmple; unfold execF3; exact dispatch_next _ _ _

theorem next_fclass (w d a : Nat) (s : State) : ∃ res, exec (.fclass w d a) s = .next res := by
  show ∃ res, execFclass w d a s = .next res
  unfold execFclass; unfold execF2; exact dispatch_next _ _ _

theorem next_raddf (w d a : Nat) (s : State) : ∃ res, exec (.raddf w d a) s = .next res := by
  show ∃ res, execRaddf w d a s = .next res
  unfold execRaddf; exact dispatch_next _ _ _

theorem next_badd (w d a b : Nat) (s : State) : ∃ res, exec (.badd w d a b) s = .next res := by
  show ∃ res, execBadd w d a b s = .next res
  unfold execBadd; unfold execF3; exact dispatch_next _ _ _

theorem next_bmul (w d a b : Nat) (s : State) : ∃ res, exec (.bmul w d a b) s = .next res := by
  show ∃ res, execBmul w d a b s = .next res
  unfold execBmul; unfold execF3; exact dispatch_next _ _ _

theorem next_bfma (w d a b : Nat) (s : State) : ∃ res, exec (.bfma w d a b) s = .next res := by
  show ∃ res, execBfma w d a b s = .next res
  unfold execBfma; unfold execF4; exact dispatch_next _ _ _

theorem next_bmax (w d a b : Nat) (s : State) : ∃ res, exec (.bmax w d a b) s = .next res := by
  show ∃ res, execBmax w d a b s = .next res
  unfold execBmax; unfold execF3; exact dispatch_next _ _ _

theorem next_bmin (w d a b : Nat) (s : State) : ∃ res, exec (.bmin w d a b) s = .next res := by
  show ∃ res, execBmin w d a b s = .next res
  unfold execBmin; unfold execF3; exact dispatch_next _ _ _

theorem next_cvt (w d a t sg : Nat) (s : State) : ∃ res, exec (.cvt w d a t sg) s = .next res := by
  show ∃ res, execCvt w d a t sg s = .next res
  unfold execCvt; exact dispatch_next _ _ _

theorem next_cvtsr (w d a t sg : Nat) (s : State) : ∃ res, exec (.cvtsr w d a t sg) s = .next res := by
  show ∃ res, execCvtsr w d a t sg s = .next res
  unfold execCvtsr; exact dispatch_next _ _ _

theorem next_scacc (w d a b : Nat) (s : State) : ∃ res, exec (.scacc w d a b) s = .next res := by
  show ∃ res, execScacc w d a b s = .next res
  unfold execScacc; unfold execF4; exact dispatch_next _ _ _

theorem next_aadd (d a b : Nat) (s : State) : ∃ res, exec (.aadd d a b) s = .next res := by
  show ∃ res, execAadd d a b s = .next res
  unfold execAadd; unfold execA3; exact dispatch_next _ _ _

theorem next_asub (d a b : Nat) (s : State) : ∃ res, exec (.asub d a b) s = .next res := by
  show ∃ res, execAsub d a b s = .next res
  unfold execAsub; unfold execA3; exact dispatch_next _ _ _

theorem next_aaddi (d a im : Nat) (s : State) : ∃ res, exec (.aaddi d a im) s = .next res := by
  show ∃ res, execAaddi d a im s = .next res
  unfold execAaddi; exact dispatch_next _ _ _

theorem next_amul (d a b : Nat) (s : State) : ∃ res, exec (.amul d a b) s = .next res := by
  show ∃ res, execAmul d a b s = .next res
  unfold execAmul; unfold execA3; exact dispatch_next _ _ _

theorem next_aand (d a b : Nat) (s : State) : ∃ res, exec (.aand d a b) s = .next res := by
  show ∃ res, execAand d a b s = .next res
  unfold execAand; unfold execA3; exact dispatch_next _ _ _

theorem next_aor (d a b : Nat) (s : State) : ∃ res, exec (.aor d a b) s = .next res := by
  show ∃ res, execAor d a b s = .next res
  unfold execAor; unfold execA3; exact dispatch_next _ _ _

theorem next_axor (d a b : Nat) (s : State) : ∃ res, exec (.axor d a b) s = .next res := by
  show ∃ res, execAxor d a b s = .next res
  unfold execAxor; unfold execA3; exact dispatch_next _ _ _

theorem next_ashli (d a im : Nat) (s : State) : ∃ res, exec (.ashli d a im) s = .next res := by
  show ∃ res, execAshli d a im s = .next res
  unfold execAshli; unfold execAShift; exact dispatch_next _ _ _

theorem next_ashri (d a im : Nat) (s : State) : ∃ res, exec (.ashri d a im) s = .next res := by
  show ∃ res, execAshri d a im s = .next res
  unfold execAshri; unfold execAShift; exact dispatch_next _ _ _

theorem next_asari (d a im : Nat) (s : State) : ∃ res, exec (.asari d a im) s = .next res := by
  show ∃ res, execAsari d a im s = .next res
  unfold execAsari; unfold execAShift; exact dispatch_next _ _ _

theorem next_aslt (d a b : Nat) (s : State) : ∃ res, exec (.aslt d a b) s = .next res := by
  show ∃ res, execAslt d a b s = .next res
  unfold execAslt; unfold execA3; exact dispatch_next _ _ _

theorem next_asltu (d a b : Nat) (s : State) : ∃ res, exec (.asltu d a b) s = .next res := by
  show ∃ res, execAsltu d a b s = .next res
  unfold execAsltu; unfold execA3; exact dispatch_next _ _ _

theorem next_amovi (d im : Nat) (s : State) : ∃ res, exec (.amovi d im) s = .next res := by
  show ∃ res, execAmovi d im s = .next res
  unfold execAmovi; exact dispatch_next _ _ _

theorem next_aupi (d im : Nat) (s : State) : ∃ res, exec (.aupi d im) s = .next res := by
  show ∃ res, execAupi d im s = .next res
  unfold execAupi; exact dispatch_next _ _ _

theorem next_amov (d a : Nat) (s : State) : ∃ res, exec (.amov d a) s = .next res := by
  show ∃ res, execAmov d a s = .next res
  unfold execAmov; exact dispatch_next _ _ _

theorem next_apushq (q a : Nat) (s : State) : ∃ res, exec (.apushq q a) s = .next res := by
  show ∃ res, execApushq q a s = .next res
  unfold execApushq; exact dispatch_next _ _ _

theorem next_apopq (d : Nat) (s : State) : ∃ res, exec (.apopq d) s = .next res := by
  show ∃ res, execApopq d s = .next res
  unfold execApopq; exact dispatch_next _ _ _

theorem next_cbase (d a b : Nat) (s : State) : ∃ res, exec (.cbase d a b) s = .next res := by
  show ∃ res, execCbase d a b s = .next res
  unfold execCbase; unfold execDerive; exact dispatch_next _ _ _

theorem next_clen (d a b : Nat) (s : State) : ∃ res, exec (.clen d a b) s = .next res := by
  show ∃ res, execClen d a b s = .next res
  unfold execClen; unfold execDerive; exact dispatch_next _ _ _

theorem next_cperm (d a b : Nat) (s : State) : ∃ res, exec (.cperm d a b) s = .next res := by
  show ∃ res, execCperm d a b s = .next res
  unfold execCperm; unfold execDerive; exact dispatch_next _ _ _

theorem next_cget (d a f : Nat) (s : State) : ∃ res, exec (.cget d a f) s = .next res := by
  show ∃ res, execCget d a f s = .next res
  unfold execCget; exact dispatch_next _ _ _

theorem next_cclr (d a : Nat) (s : State) : ∃ res, exec (.cclr d a) s = .next res := by
  show ∃ res, execCclr d a s = .next res
  unfold execCclr; exact dispatch_next _ _ _

theorem next_ld (q c o z sg r p : Nat) (s : State) : ∃ res, exec (.ld q c o z sg r p) s = .next res := by
  show ∃ res, execLd q c o z sg r p s = .next res
  unfold execLd; exact dispatch_next _ _ _

theorem next_ldx (q c o z sg r p : Nat) (s : State) : ∃ res, exec (.ldx q c o z sg r p) s = .next res := by
  show ∃ res, execLdx q c o z sg r p s = .next res
  unfold execLdx; exact dispatch_next _ _ _

theorem next_lda (d c o z sg r p : Nat) (s : State) : ∃ res, exec (.lda d c o z sg r p) s = .next res := by
  show ∃ res, execLda d c o z sg r p s = .next res
  unfold execLda; exact dispatch_next _ _ _

theorem next_ldc (d c o r p : Nat) (s : State) : ∃ res, exec (.ldc d c o r p) s = .next res := by
  show ∃ res, execLdc d c o r p s = .next res
  unfold execLdc; exact dispatch_next _ _ _

theorem next_ldnib (q c o z sg : Nat) (s : State) : ∃ res, exec (.ldnib q c o z sg) s = .next res := by
  show ∃ res, execLdnib q c o z sg s = .next res
  unfold execLdnib; exact dispatch_next _ _ _

theorem next_st (c o z r p : Nat) (s : State) : ∃ res, exec (.st c o z r p) s = .next res := by
  show ∃ res, execSt c o z r p s = .next res
  unfold execSt; exact dispatch_next _ _ _

theorem next_stm (m c o r p : Nat) (s : State) : ∃ res, exec (.stm m c o r p) s = .next res := by
  show ∃ res, execStm m c o r p s = .next res
  unfold execStm; exact dispatch_next _ _ _

theorem next_stx (c o z r p : Nat) (s : State) : ∃ res, exec (.stx c o z r p) s = .next res := by
  show ∃ res, execStx c o z r p s = .next res
  unfold execStx; exact dispatch_next _ _ _

theorem next_sta (d c o z r p : Nat) (s : State) : ∃ res, exec (.sta d c o z r p) s = .next res := by
  show ∃ res, execSta d c o z r p s = .next res
  unfold execSta; exact dispatch_next _ _ _

theorem next_stc (d c o r p : Nat) (s : State) : ∃ res, exec (.stc d c o r p) s = .next res := by
  show ∃ res, execStc d c o r p s = .next res
  unfold execStc; exact dispatch_next _ _ _

theorem next_stnib (c o z : Nat) (s : State) : ∃ res, exec (.stnib c o z) s = .next res := by
  show ∃ res, execStnib c o z s = .next res
  unfold execStnib; exact dispatch_next _ _ _

theorem next_amo (d a b f z o p : Nat) (s : State) : ∃ res, exec (.amo d a b f z o p) s = .next res := by
  show ∃ res, execAmo d a b f z o p s = .next res
  unfold execAmo; exact dispatch_next _ _ _

theorem next_amocas (d a b z o p : Nat) (s : State) : ∃ res, exec (.amocas d a b z o p) s = .next res := by
  show ∃ res, execAmocas d a b z o p s = .next res
  unfold execAmocas; exact dispatch_next _ _ _

theorem next_fenceAcq (p : Nat) (s : State) : ∃ res, exec (.fenceAcq p) s = .next res := by
  show ∃ res, execFenceAcq p s = .next res
  unfold execFenceAcq; exact dispatch_next _ _ _

theorem next_fenceRel (p : Nat) (s : State) : ∃ res, exec (.fenceRel p) s = .next res := by
  show ∃ res, execFenceRel p s = .next res
  unfold execFenceRel; exact dispatch_next _ _ _

theorem next_fenceAr (p : Nat) (s : State) : ∃ res, exec (.fenceAr p) s = .next res := by
  show ∃ res, execFenceAr p s = .next res
  unfold execFenceAr; exact dispatch_next _ _ _

theorem next_xfence (p : Nat) (s : State) : ∃ res, exec (.xfence p) s = .next res := by
  show ∃ res, execXfence p s = .next res
  unfold execXfence; exact dispatch_next _ _ _

theorem next_bmov (d a b : Nat) (s : State) : ∃ res, exec (.bmov d a b) s = .next res := by
  show ∃ res, execBmov d a b s = .next res
  unfold execBmov; exact dispatch_next _ _ _

theorem next_rep (q a b z sg t : Nat) (s : State) : ∃ res, exec (.rep q a b z sg t) s = .next res := by
  show ∃ res, execRep q a b z sg t s = .next res
  unfold execRep; exact dispatch_next _ _ _

theorem next_csrr (d im : Nat) (s : State) : ∃ res, exec (.csrr d im) s = .next res := by
  show ∃ res, execCsrr d im s = .next res
  unfold execCsrr; exact dispatch_next _ _ _

theorem next_csrw (d a im : Nat) (s : State) : ∃ res, exec (.csrw d a im) s = .next res := by
  show ∃ res, execCsrw d a im s = .next res
  unfold execCsrw; exact dispatch_next _ _ _

theorem next_beq (a b d : Nat) (s : State) : ∃ res, exec (.beq a b d) s = .next res := by
  show ∃ res, execBeq a b d s = .next res
  unfold execBeq; unfold execBranch; exact dispatch_next _ _ _

theorem next_bne (a b d : Nat) (s : State) : ∃ res, exec (.bne a b d) s = .next res := by
  show ∃ res, execBne a b d s = .next res
  unfold execBne; unfold execBranch; exact dispatch_next _ _ _

theorem next_blt (a b d : Nat) (s : State) : ∃ res, exec (.blt a b d) s = .next res := by
  show ∃ res, execBlt a b d s = .next res
  unfold execBlt; unfold execBranch; exact dispatch_next _ _ _

theorem next_bge (a b d : Nat) (s : State) : ∃ res, exec (.bge a b d) s = .next res := by
  show ∃ res, execBge a b d s = .next res
  unfold execBge; unfold execBranch; exact dispatch_next _ _ _

theorem next_bltu (a b d : Nat) (s : State) : ∃ res, exec (.bltu a b d) s = .next res := by
  show ∃ res, execBltu a b d s = .next res
  unfold execBltu; unfold execBranch; exact dispatch_next _ _ _

theorem next_bgeu (a b d : Nat) (s : State) : ∃ res, exec (.bgeu a b d) s = .next res := by
  show ∃ res, execBgeu a b d s = .next res
  unfold execBgeu; unfold execBranch; exact dispatch_next _ _ _

theorem next_bxq (d : Nat) (s : State) : ∃ res, exec (.bxq d) s = .next res := by
  show ∃ res, execBxq d s = .next res
  unfold execBxq; unfold execQueueBranch; exact dispatch_next _ _ _

theorem next_bxqz (d : Nat) (s : State) : ∃ res, exec (.bxqz d) s = .next res := by
  show ∃ res, execBxqz d s = .next res
  unfold execBxqz; unfold execQueueBranch; exact dispatch_next _ _ _

theorem next_j (t : Nat) (s : State) : ∃ res, exec (.j t) s = .next res := by
  show ∃ res, execJ t s = .next res
  unfold execJ; exact dispatch_next _ _ _

theorem next_call (t : Nat) (s : State) : ∃ res, exec (.call t) s = .next res := by
  show ∃ res, execCall t s = .next res
  unfold execCall; exact dispatch_next _ _ _

theorem next_ret (s : State) : ∃ res, exec (.ret) s = .next res := by
  show ∃ res, execRet  s = .next res
  unfold execRet; exact dispatch_next _ _ _

theorem next_jr (a : Nat) (s : State) : ∃ res, exec (.jr a) s = .next res := by
  show ∃ res, execJr a s = .next res
  unfold execJr; exact dispatch_next _ _ _

theorem next_loop (a l : Nat) (s : State) : ∃ res, exec (.loop a l) s = .next res := by
  show ∃ res, execLoop a l s = .next res
  unfold execLoop; exact dispatch_next _ _ _

theorem next_endAct (s : State) : ∃ res, exec (.endAct) s = .next res := by
  show ∃ res, execEndAct  s = .next res
  unfold execEndAct; exact dispatch_next _ _ _

theorem next_ecall (c : Nat) (s : State) : ∃ res, exec (.ecall c) s = .next res := by
  show ∃ res, execEcall c s = .next res
  unfold execEcall; unfold execTrapCall; exact dispatch_next _ _ _

theorem next_brk (c : Nat) (s : State) : ∃ res, exec (.brk c) s = .next res := by
  show ∃ res, execBrk c s = .next res
  unfold execBrk; unfold execTrapCall; exact dispatch_next _ _ _

theorem next_send (a b r h : Nat) (s : State) : ∃ res, exec (.send a b r h) s = .next res := by
  show ∃ res, execSend a b r h s = .next res
  unfold execSend; exact dispatch_next _ _ _

theorem next_sende (a b p : Nat) (s : State) : ∃ res, exec (.sende a b p) s = .next res := by
  show ∃ res, execSende a b p s = .next res
  unfold execSende; exact dispatch_next _ _ _

theorem next_reply (a : Nat) (s : State) : ∃ res, exec (.reply a) s = .next res := by
  show ∃ res, execReply a s = .next res
  unfold execReply; exact dispatch_next _ _ _

theorem next_jarrive (a b p : Nat) (s : State) : ∃ res, exec (.jarrive a b p) s = .next res := by
  show ∃ res, execJarrive a b p s = .next res
  unfold execJarrive; exact dispatch_next _ _ _

theorem next_gang (n : Nat) (s : State) : ∃ res, exec (.gang n) s = .next res := by
  show ∃ res, execGang n s = .next res
  unfold execGang; exact dispatch_next _ _ _

theorem next_disband (s : State) : ∃ res, exec (.disband) s = .next res := by
  show ∃ res, execDisband  s = .next res
  unfold execDisband; exact dispatch_next _ _ _

theorem next_stacq (d a b r : Nat) (s : State) : ∃ res, exec (.stacq d a b r) s = .next res := by
  show ∃ res, execStacq d a b r s = .next res
  unfold execStacq; exact dispatch_next _ _ _

theorem next_strel (d a b : Nat) (s : State) : ∃ res, exec (.strel d a b) s = .next res := by
  show ∃ res, execStrel d a b s = .next res
  unfold execStrel; exact dispatch_next _ _ _

theorem next_dqpush (a b : Nat) (s : State) : ∃ res, exec (.dqpush a b) s = .next res := by
  show ∃ res, execDqpush a b s = .next res
  unfold execDqpush; exact dispatch_next _ _ _

theorem next_dqpop (d : Nat) (s : State) : ∃ res, exec (.dqpop d) s = .next res := by
  show ∃ res, execDqpop d s = .next res
  unfold execDqpop; exact dispatch_next _ _ _

theorem next_dqsplit (s : State) : ∃ res, exec (.dqsplit) s = .next res := by
  show ∃ res, execDqsplit  s = .next res
  unfold execDqsplit; exact dispatch_next _ _ _

theorem next_dqsteal (d a : Nat) (s : State) : ∃ res, exec (.dqsteal d a) s = .next res := by
  show ∃ res, execDqsteal d a s = .next res
  unfold execDqsteal; exact dispatch_next _ _ _

theorem next_tlwait (a x : Nat) (s : State) : ∃ res, exec (.tlwait a x) s = .next res := by
  show ∃ res, execTlwait a x s = .next res
  unfold execTlwait; exact dispatch_next _ _ _

theorem next_tlread (d sg x : Nat) (s : State) : ∃ res, exec (.tlread d sg x) s = .next res := by
  show ∃ res, execTlread d sg x s = .next res
  unfold execTlread; exact dispatch_next _ _ _

theorem next_evsig (p l : Nat) (s : State) : ∃ res, exec (.evsig p l) s = .next res := by
  show ∃ res, execEvsig p l s = .next res
  unfold execEvsig; exact dispatch_next _ _ _

theorem next_eret (s : State) : ∃ res, exec (.eret) s = .next res := by
  show ∃ res, execEret  s = .next res
  unfold execEret; exact dispatch_next _ _ _

theorem next_eretEnd (s : State) : ∃ res, exec (.eretEnd) s = .next res := by
  show ∃ res, execEretEnd  s = .next res
  unfold execEretEnd; exact dispatch_next _ _ _

theorem next_wfi (s : State) : ∃ res, exec (.wfi) s = .next res := by
  show ∃ res, execWfi  s = .next res
  unfold execWfi; exact dispatch_next _ _ _

theorem next_nop (s : State) : ∃ res, exec (.nop) s = .next res := by
  show ∃ res, execNop  s = .next res
  unfold execNop; exact dispatch_next _ _ _

theorem next_himm (v : Nat) (s : State) : ∃ res, exec (.himm v) s = .next res := by
  show ∃ res, execHimm v s = .next res
  unfold execHimm; unfold execHint; repeat' first | exact ⟨_, rfl⟩ | split | (dsimp only; split)
  all_goals first | exact ⟨_, rfl⟩ | exact dispatch_next _ _ _

theorem next_hwid (a b sg t : Nat) (s : State) : ∃ res, exec (.hwid a b sg t) s = .next res := by
  show ∃ res, execHwid a b sg t s = .next res
  unfold execHwid; unfold execHint; repeat' first | exact ⟨_, rfl⟩ | split | (dsimp only; split)
  all_goals first | exact ⟨_, rfl⟩ | exact dispatch_next _ _ _

theorem next_hmod (m sg : Nat) (s : State) : ∃ res, exec (.hmod m sg) s = .next res := by
  show ∃ res, execHmod m sg s = .next res
  unfold execHmod; unfold execHint; repeat' first | exact ⟨_, rfl⟩ | split | (dsimp only; split)
  all_goals first | exact ⟨_, rfl⟩ | exact dispatch_next _ _ _

theorem next_hyld (s : State) : ∃ res, exec (.hyld) s = .next res := by
  show ∃ res, execHyld  s = .next res
  unfold execHyld; unfold execHint; repeat' first | exact ⟨_, rfl⟩ | split | (dsimp only; split)
  all_goals first | exact ⟨_, rfl⟩ | exact dispatch_next _ _ _

theorem next_macq (a k : Nat) (s : State) : ∃ res, exec (.macq a k) s = .next res := by
  show ∃ res, execMacq a k s = .next res
  unfold execMacq; repeat' first | exact ⟨_, rfl⟩ | split | (dsimp only; split)
  all_goals first | exact ⟨_, rfl⟩ | exact dispatch_next _ _ _

theorem next_mrel (a k : Nat) (s : State) : ∃ res, exec (.mrel a k) s = .next res := by
  show ∃ res, execMrel a k s = .next res
  unfold execMrel; repeat' first | exact ⟨_, rfl⟩ | split | (dsimp only; split)
  all_goals first | exact ⟨_, rfl⟩ | exact dispatch_next _ _ _

theorem next_mrelRes (a k : Nat) (s : State) : ∃ res, exec (.mrelRes a k) s = .next res := by
  show ∃ res, execMrelRes a k s = .next res
  unfold execMrelRes; repeat' first | exact ⟨_, rfl⟩ | split | (dsimp only; split)
  all_goals first | exact ⟨_, rfl⟩ | exact dispatch_next _ _ _

theorem next_mrelAbn (a k : Nat) (s : State) : ∃ res, exec (.mrelAbn a k) s = .next res := by
  show ∃ res, execMrelAbn a k s = .next res
  unfold execMrelAbn; repeat' first | exact ⟨_, rfl⟩ | split | (dsimp only; split)
  all_goals first | exact ⟨_, rfl⟩ | exact dispatch_next _ _ _

theorem next_mldb (d a b m k : Nat) (s : State) : ∃ res, exec (.mldb d a b m k) s = .next res := by
  show ∃ res, execMldb d a b m k s = .next res
  unfold execMldb; exact dispatch_next _ _ _

theorem next_mspec (d a b m k : Nat) (s : State) : ∃ res, exec (.mspec d a b m k) s = .next res := by
  show ∃ res, execMspec d a b m k s = .next res
  unfold execMspec; exact dispatch_next _ _ _

theorem next_mzero (d a m k : Nat) (s : State) : ∃ res, exec (.mzero d a m k) s = .next res := by
  show ∃ res, execMzero d a m k s = .next res
  unfold execMzero; exact dispatch_next _ _ _

theorem next_mma (d a b m k : Nat) (s : State) : ∃ res, exec (.mma d a b m k) s = .next res := by
  show ∃ res, execMma d a b m k s = .next res
  unfold execMma; exact dispatch_next _ _ _

theorem next_lnscfg (k : Nat) (s : State) : ∃ res, exec (.lnscfg k) s = .next res := by
  show ∃ res, execLnscfg k s = .next res
  unfold execLnscfg; repeat' first | exact ⟨_, rfl⟩ | split | (dsimp only; split)
  all_goals first | exact ⟨_, rfl⟩ | exact dispatch_next _ _ _

theorem next_mmas (d a b m k : Nat) (s : State) : ∃ res, exec (.mmas d a b m k) s = .next res := by
  show ∃ res, execMmas d a b m k s = .next res
  unfold execMmas; exact dispatch_next _ _ _

theorem next_mrd (q a k : Nat) (s : State) : ∃ res, exec (.mrd q a k) s = .next res := by
  show ∃ res, execMrd q a k s = .next res
  unfold execMrd; exact dispatch_next _ _ _

theorem next_mrdFlg (q a k : Nat) (s : State) : ∃ res, exec (.mrdFlg q a k) s = .next res := by
  show ∃ res, execMrdFlg q a k s = .next res
  unfold execMrdFlg; exact dispatch_next _ _ _

theorem next_mcopy (d a b m k : Nat) (s : State) : ∃ res, exec (.mcopy d a b m k) s = .next res := by
  show ∃ res, execMcopy d a b m k s = .next res
  unfold execMcopy; exact dispatch_next _ _ _

theorem next_chbond (a r k : Nat) (s : State) : ∃ res, exec (.chbond a r k) s = .next res := by
  show ∃ res, execChbond a r k s = .next res
  unfold execChbond; exact dispatch_next _ _ _

theorem next_chprog (a b k : Nat) (s : State) : ∃ res, exec (.chprog a b k) s = .next res := by
  show ∃ res, execChprog a b k s = .next res
  unfold execChprog; exact dispatch_next _ _ _

theorem next_chprogKeep (a b k : Nat) (s : State) : ∃ res, exec (.chprogKeep a b k) s = .next res := by
  show ∃ res, execChprogKeep a b k s = .next res
  unfold execChprogKeep; exact dispatch_next _ _ _

theorem next_chrunStart (d m k : Nat) (s : State) : ∃ res, exec (.chrunStart d m k) s = .next res := by
  show ∃ res, execChrunStart d m k s = .next res
  unfold execChrunStart; exact dispatch_next _ _ _

theorem next_chrunResume (a k : Nat) (s : State) : ∃ res, exec (.chrunResume a k) s = .next res := by
  show ∃ res, execChrunResume a k s = .next res
  unfold execChrunResume; exact dispatch_next _ _ _

theorem next_chrunAbn (a k : Nat) (s : State) : ∃ res, exec (.chrunAbn a k) s = .next res := by
  show ∃ res, execChrunAbn a k s = .next res
  unfold execChrunAbn; exact dispatch_next _ _ _

theorem next_chstat (d sg k : Nat) (s : State) : ∃ res, exec (.chstat d sg k) s = .next res := by
  show ∃ res, execChstat d sg k s = .next res
  unfold execChstat; exact dispatch_next _ _ _

theorem next_chgrad (a b k : Nat) (s : State) : ∃ res, exec (.chgrad a b k) s = .next res := by
  show ∃ res, execChgrad a b k s = .next res
  unfold execChgrad; exact dispatch_next _ _ _

theorem next_grset (a b k : Nat) (s : State) : ∃ res, exec (.grset a b k) s = .next res := by
  show ∃ res, execGrset a b k s = .next res
  unfold execGrset; exact dispatch_next _ _ _

theorem next_grred (d a b o m k : Nat) (s : State) : ∃ res, exec (.grred d a b o m k) s = .next res := by
  show ∃ res, execGrred d a b o m k s = .next res
  unfold execGrred; exact dispatch_next _ _ _

theorem next_grscan (d a b o m k : Nat) (s : State) : ∃ res, exec (.grscan d a b o m k) s = .next res := by
  show ∃ res, execGrscan d a b o m k s = .next res
  unfold execGrscan; exact dispatch_next _ _ _

theorem next_grscanX (d a b o m k : Nat) (s : State) : ∃ res, exec (.grscanX d a b o m k) s = .next res := by
  show ∃ res, execGrscanX d a b o m k s = .next res
  unfold execGrscanX; exact dispatch_next _ _ _

theorem next_grmv (d a b m k : Nat) (s : State) : ∃ res, exec (.grmv d a b m k) s = .next res := by
  show ∃ res, execGrmv d a b m k s = .next res
  unfold execGrmv; exact dispatch_next _ _ _

theorem next_grat (d a b o m k : Nat) (s : State) : ∃ res, exec (.grat d a b o m k) s = .next res := by
  show ∃ res, execGrat d a b o m k s = .next res
  unfold execGrat; exact dispatch_next _ _ _

theorem next_grstat (d sg k : Nat) (s : State) : ∃ res, exec (.grstat d sg k) s = .next res := by
  show ∃ res, execGrstat d sg k s = .next res
  unfold execGrstat; exact dispatch_next _ _ _

theorem next_grstatRes (a k : Nat) (s : State) : ∃ res, exec (.grstatRes a k) s = .next res := by
  show ∃ res, execGrstatRes a k s = .next res
  unfold execGrstatRes; exact dispatch_next _ _ _

theorem next_grstatAbn (a k : Nat) (s : State) : ∃ res, exec (.grstatAbn a k) s = .next res := by
  show ∃ res, execGrstatAbn a k s = .next res
  unfold execGrstatAbn; exact dispatch_next _ _ _

theorem next_cpy (d a b m c : Nat) (s : State) : ∃ res, exec (.cpy d a b m c) s = .next res := by
  show ∃ res, execCpy d a b m c s = .next res
  unfold execCpy; exact dispatch_next _ _ _

theorem next_cpywp (d a c : Nat) (s : State) : ∃ res, exec (.cpywp d a c) s = .next res := by
  show ∃ res, execCpywp d a c s = .next res
  unfold execCpywp; exact dispatch_next _ _ _

theorem next_cpychkCheck (d a b c : Nat) (s : State) : ∃ res, exec (.cpychkCheck d a b c) s = .next res := by
  show ∃ res, execCpychkCheck d a b c s = .next res
  unfold execCpychkCheck; exact dispatch_next _ _ _

theorem next_cpychkRes (a c : Nat) (s : State) : ∃ res, exec (.cpychkRes a c) s = .next res := by
  show ∃ res, execCpychkRes a c s = .next res
  unfold execCpychkRes; exact dispatch_next _ _ _

theorem next_cpychkAbn (a c : Nat) (s : State) : ∃ res, exec (.cpychkAbn a c) s = .next res := by
  show ∃ res, execCpychkAbn a c s = .next res
  unfold execCpychkAbn; exact dispatch_next _ _ _

theorem next_illegalInstruction (w : Nat) (s : State) : ∃ res, exec (.illegalInstruction w) s = .next res := by
  show ∃ res, execIllegalInstruction w s = .next res
  unfold execIllegalInstruction; repeat' first | exact ⟨_, rfl⟩ | split | (dsimp only; split)
  all_goals first | exact ⟨_, rfl⟩ | exact dispatch_next _ _ _

theorem next_fetch (core ctx : Nat) (s : State) : ∃ res, exec (.fetch core ctx) s = .next res := by
  show ∃ res, execFetch core ctx s = .next res
  unfold execFetch; repeat' first | exact ⟨_, rfl⟩ | split | (dsimp only; split)
  all_goals first | exact ⟨_, rfl⟩ | exact dispatch_next _ _ _

theorem next_xResultLand (core ctx idx : Nat) (s : State) : ∃ res, exec (.xResultLand core ctx idx) s = .next res := by
  show ∃ res, execXResultLand core ctx idx s = .next res
  unfold execXResultLand; repeat' first | exact ⟨_, rfl⟩ | split | (dsimp only; split)
  all_goals first | exact ⟨_, rfl⟩ | exact dispatch_next _ _ _

theorem next_queueStarved (core ctx half : Nat) (s : State) : ∃ res, exec (.queueStarved core ctx half) s = .next res := by
  show ∃ res, execQueueStarved core ctx half s = .next res
  unfold execQueueStarved; repeat' first | exact ⟨_, rfl⟩ | split | (dsimp only; split)
  all_goals first | exact ⟨_, rfl⟩ | exact dispatch_next _ _ _

theorem next_loadDataReturn (idx : Nat) (s : State) : ∃ res, exec (.loadDataReturn idx) s = .next res := by
  show ∃ res, execLoadDataReturn idx s = .next res
  unfold execLoadDataReturn; repeat' first | exact ⟨_, rfl⟩ | split | (dsimp only; split)
  all_goals first | exact ⟨_, rfl⟩ | exact dispatch_next _ _ _

theorem next_storeAck (idx : Nat) (s : State) : ∃ res, exec (.storeAck idx) s = .next res := by
  show ∃ res, execStoreAck idx s = .next res
  unfold execStoreAck; repeat' first | exact ⟨_, rfl⟩ | split | (dsimp only; split)
  all_goals first | exact ⟨_, rfl⟩ | exact dispatch_next _ _ _

theorem next_homePerform (idx : Nat) (s : State) : ∃ res, exec (.homePerform idx) s = .next res := by
  show ∃ res, execHomePerform idx s = .next res
  unfold execHomePerform; repeat' first | exact ⟨_, rfl⟩ | split | (dsimp only; split)
  all_goals first | exact ⟨_, rfl⟩ | exact dispatch_next _ _ _

theorem next_caeCheckIn (clu : Nat) (s : State) : ∃ res, exec (.caeCheckIn clu) s = .next res := by
  show ∃ res, execCaeCheckIn clu s = .next res
  unfold execCaeCheckIn; repeat' first | exact ⟨_, rfl⟩ | split | (dsimp only; split)
  all_goals first | exact ⟨_, rfl⟩ | exact dispatch_next _ _ _

theorem next_stageGrant (idx : Nat) (s : State) : ∃ res, exec (.stageGrant idx) s = .next res := by
  show ∃ res, execStageGrant idx s = .next res
  unfold execStageGrant; repeat' first | exact ⟨_, rfl⟩ | split | (dsimp only; split)
  all_goals first | exact ⟨_, rfl⟩ | exact dispatch_next _ _ _

theorem next_sidingStealServe (core : Nat) (s : State) : ∃ res, exec (.sidingStealServe core) s = .next res := by
  show ∃ res, execSidingStealServe core s = .next res
  unfold execSidingStealServe; repeat' first | exact ⟨_, rfl⟩ | split | (dsimp only; split)
  all_goals first | exact ⟨_, rfl⟩ | exact dispatch_next _ _ _

theorem next_lateAccessFault (idx : Nat) (s : State) : ∃ res, exec (.lateAccessFault idx) s = .next res := by
  show ∃ res, execLateAccessFault idx s = .next res
  unfold execLateAccessFault; repeat' first | exact ⟨_, rfl⟩ | split | (dsimp only; split)
  all_goals first | exact ⟨_, rfl⟩ | exact dispatch_next _ _ _

theorem next_translationWalkDone (core ctx : Nat) (s : State) : ∃ res, exec (.translationWalkDone core ctx) s = .next res := by
  show ∃ res, execTranslationWalkDone core ctx s = .next res
  unfold execTranslationWalkDone; repeat' first | exact ⟨_, rfl⟩ | split | (dsimp only; split)
  all_goals first | exact ⟨_, rfl⟩ | exact dispatch_next _ _ _

theorem next_wcBufferTimeout (clu idx : Nat) (s : State) : ∃ res, exec (.wcBufferTimeout clu idx) s = .next res := by
  show ∃ res, execWcBufferTimeout clu idx s = .next res
  unfold execWcBufferTimeout; repeat' first | exact ⟨_, rfl⟩ | split | (dsimp only; split)
  all_goals first | exact ⟨_, rfl⟩ | exact dispatch_next _ _ _

theorem next_messageArrival (idx : Nat) (s : State) : ∃ res, exec (.messageArrival idx) s = .next res := by
  show ∃ res, execMessageArrival idx s = .next res
  unfold execMessageArrival; repeat' first | exact ⟨_, rfl⟩ | split | (dsimp only; split)
  all_goals first | exact ⟨_, rfl⟩ | exact dispatch_next _ _ _

theorem next_outboundDepart (core : Nat) (s : State) : ∃ res, exec (.outboundDepart core) s = .next res := by
  show ∃ res, execOutboundDepart core s = .next res
  unfold execOutboundDepart; repeat' first | exact ⟨_, rfl⟩ | split | (dsimp only; split)
  all_goals first | exact ⟨_, rfl⟩ | exact dispatch_next _ _ _

theorem next_admission (core : Nat) (s : State) : ∃ res, exec (.admission core) s = .next res := by
  show ∃ res, execAdmission core s = .next res
  unfold execAdmission; repeat' first | exact ⟨_, rfl⟩ | split | (dsimp only; split)
  all_goals first | exact ⟨_, rfl⟩ | exact dispatch_next _ _ _

theorem next_copyOut (core ctx : Nat) (s : State) : ∃ res, exec (.copyOut core ctx) s = .next res := by
  show ∃ res, execCopyOut core ctx s = .next res
  unfold execCopyOut; repeat' first | exact ⟨_, rfl⟩ | split | (dsimp only; split)
  all_goals first | exact ⟨_, rfl⟩ | exact dispatch_next _ _ _

theorem next_activationRestore (core : Nat) (s : State) : ∃ res, exec (.activationRestore core) s = .next res := by
  show ∃ res, execActivationRestore core s = .next res
  unfold execActivationRestore; repeat' first | exact ⟨_, rfl⟩ | split | (dsimp only; split)
  all_goals first | exact ⟨_, rfl⟩ | exact dispatch_next _ _ _

theorem next_activationPark (core ctx : Nat) (s : State) : ∃ res, exec (.activationPark core ctx) s = .next res := by
  show ∃ res, execActivationPark core ctx s = .next res
  unfold execActivationPark; repeat' first | exact ⟨_, rfl⟩ | split | (dsimp only; split)
  all_goals first | exact ⟨_, rfl⟩ | exact dispatch_next _ _ _

theorem next_trapActivationStart (core : Nat) (s : State) : ∃ res, exec (.trapActivationStart core) s = .next res := by
  show ∃ res, execTrapActivationStart core s = .next res
  unfold execTrapActivationStart; repeat' first | exact ⟨_, rfl⟩ | split | (dsimp only; split)
  all_goals first | exact ⟨_, rfl⟩ | exact dispatch_next _ _ _

theorem next_engineCommandArrival (idx : Nat) (s : State) : ∃ res, exec (.engineCommandArrival idx) s = .next res := by
  show ∃ res, execEngineCommandArrival idx s = .next res
  unfold execEngineCommandArrival; repeat' first | exact ⟨_, rfl⟩ | split | (dsimp only; split)
  all_goals first | exact ⟨_, rfl⟩ | exact dispatch_next _ _ _

theorem next_copyOpBegin (clu k : Nat) (s : State) : ∃ res, exec (.copyOpBegin clu k) s = .next res := by
  show ∃ res, execCopyOpBegin clu k s = .next res
  unfold execCopyOpBegin; repeat' first | exact ⟨_, rfl⟩ | split | (dsimp only; split)
  all_goals first | exact ⟨_, rfl⟩ | exact dispatch_next _ _ _

theorem next_copyRowDelivered (clu k : Nat) (s : State) : ∃ res, exec (.copyRowDelivered clu k) s = .next res := by
  show ∃ res, execCopyRowDelivered clu k s = .next res
  unfold execCopyRowDelivered; repeat' first | exact ⟨_, rfl⟩ | split | (dsimp only; split)
  all_goals first | exact ⟨_, rfl⟩ | exact dispatch_next _ _ _

theorem next_copyOpPerformed (clu k : Nat) (s : State) : ∃ res, exec (.copyOpPerformed clu k) s = .next res := by
  show ∃ res, execCopyOpPerformed clu k s = .next res
  unfold execCopyOpPerformed; repeat' first | exact ⟨_, rfl⟩ | split | (dsimp only; split)
  all_goals first | exact ⟨_, rfl⟩ | exact dispatch_next _ _ _

theorem next_matrixOpBegin (clu k : Nat) (s : State) : ∃ res, exec (.matrixOpBegin clu k) s = .next res := by
  show ∃ res, execMatrixOpBegin clu k s = .next res
  unfold execMatrixOpBegin; repeat' first | exact ⟨_, rfl⟩ | split | (dsimp only; split)
  all_goals first | exact ⟨_, rfl⟩ | exact dispatch_next _ _ _

theorem next_mmaIteration (clu k : Nat) (s : State) : ∃ res, exec (.mmaIteration clu k) s = .next res := by
  show ∃ res, execMmaIteration clu k s = .next res
  unfold execMmaIteration; repeat' first | exact ⟨_, rfl⟩ | split | (dsimp only; split)
  all_goals first | exact ⟨_, rfl⟩ | exact dispatch_next _ _ _

theorem next_matrixOpPerformed (clu k : Nat) (s : State) : ∃ res, exec (.matrixOpPerformed clu k) s = .next res := by
  show ∃ res, execMatrixOpPerformed clu k s = .next res
  unfold execMatrixOpPerformed; repeat' first | exact ⟨_, rfl⟩ | split | (dsimp only; split)
  all_goals first | exact ⟨_, rfl⟩ | exact dispatch_next _ _ _

theorem next_macroReload (clu ctxId : Nat) (s : State) : ∃ res, exec (.macroReload clu ctxId) s = .next res := by
  show ∃ res, execMacroReload clu ctxId s = .next res
  unfold execMacroReload; repeat' first | exact ⟨_, rfl⟩ | split | (dsimp only; split)
  all_goals first | exact ⟨_, rfl⟩ | exact dispatch_next _ _ _

theorem next_chainRunBegin (clu k : Nat) (s : State) : ∃ res, exec (.chainRunBegin clu k) s = .next res := by
  show ∃ res, execChainRunBegin clu k s = .next res
  unfold execChainRunBegin; repeat' first | exact ⟨_, rfl⟩ | split | (dsimp only; split)
  all_goals first | exact ⟨_, rfl⟩ | exact dispatch_next _ _ _

theorem next_chainStep (clu k : Nat) (s : State) : ∃ res, exec (.chainStep clu k) s = .next res := by
  show ∃ res, execChainStep clu k s = .next res
  unfold execChainStep; repeat' first | exact ⟨_, rfl⟩ | split | (dsimp only; split)
  all_goals first | exact ⟨_, rfl⟩ | exact dispatch_next _ _ _

theorem next_grammarOpBegin (clu k : Nat) (s : State) : ∃ res, exec (.grammarOpBegin clu k) s = .next res := by
  show ∃ res, execGrammarOpBegin clu k s = .next res
  unfold execGrammarOpBegin; repeat' first | exact ⟨_, rfl⟩ | split | (dsimp only; split)
  all_goals first | exact ⟨_, rfl⟩ | exact dispatch_next _ _ _

theorem next_grammarOpPerformed (clu k : Nat) (s : State) : ∃ res, exec (.grammarOpPerformed clu k) s = .next res := by
  show ∃ res, execGrammarOpPerformed clu k s = .next res
  unfold execGrammarOpPerformed; repeat' first | exact ⟨_, rfl⟩ | split | (dsimp only; split)
  all_goals first | exact ⟨_, rfl⟩ | exact dispatch_next _ _ _

theorem next_engineFaultPark (clu ctxId : Nat) (s : State) : ∃ res, exec (.engineFaultPark clu ctxId) s = .next res := by
  show ∃ res, execEngineFaultPark clu ctxId s = .next res
  unfold execEngineFaultPark; repeat' first | exact ⟨_, rfl⟩ | split | (dsimp only; split)
  all_goals first | exact ⟨_, rfl⟩ | exact dispatch_next _ _ _

theorem next_enginePreemptStop (clu ctxId : Nat) (s : State) : ∃ res, exec (.enginePreemptStop clu ctxId) s = .next res := by
  show ∃ res, execEnginePreemptStop clu ctxId s = .next res
  unfold execEnginePreemptStop; repeat' first | exact ⟨_, rfl⟩ | split | (dsimp only; split)
  all_goals first | exact ⟨_, rfl⟩ | exact dispatch_next _ _ _

theorem next_signalBoxFire (clu : Nat) (s : State) : ∃ res, exec (.signalBoxFire clu) s = .next res := by
  show ∃ res, execSignalBoxFire clu s = .next res
  unfold execSignalBoxFire; repeat' first | exact ⟨_, rfl⟩ | split | (dsimp only; split)
  all_goals first | exact ⟨_, rfl⟩ | exact dispatch_next _ _ _

theorem next_timerPulse (clu t : Nat) (s : State) : ∃ res, exec (.timerPulse clu t) s = .next res := by
  show ∃ res, execTimerPulse clu t s = .next res
  unfold execTimerPulse; repeat' first | exact ⟨_, rfl⟩ | split | (dsimp only; split)
  all_goals first | exact ⟨_, rfl⟩ | exact dispatch_next _ _ _

theorem next_encoderFrameDone (clu slot : Nat) (s : State) : ∃ res, exec (.encoderFrameDone clu slot) s = .next res := by
  show ∃ res, execEncoderFrameDone clu slot s = .next res
  unfold execEncoderFrameDone; repeat' first | exact ⟨_, rfl⟩ | split | (dsimp only; split)
  all_goals first | exact ⟨_, rfl⟩ | exact dispatch_next _ _ _

theorem next_encbindBind (vf val : Nat) (s : State) : ∃ res, exec (.encbindBind vf val) s = .next res := by
  show ∃ res, execEncbindBind vf val s = .next res
  unfold execEncbindBind; repeat' first | exact ⟨_, rfl⟩ | split | (dsimp only; split)
  all_goals first | exact ⟨_, rfl⟩ | exact dispatch_next _ _ _

theorem next_encbindUnbind (vf val : Nat) (s : State) : ∃ res, exec (.encbindUnbind vf val) s = .next res := by
  show ∃ res, execEncbindUnbind vf val s = .next res
  unfold execEncbindUnbind; repeat' first | exact ⟨_, rfl⟩ | split | (dsimp only; split)
  all_goals first | exact ⟨_, rfl⟩ | exact dispatch_next _ _ _

theorem next_create (part vf : Nat) (s : State) : ∃ res, exec (.create part vf) s = .next res := by
  show ∃ res, execCreate part vf s = .next res
  unfold execCreate; repeat' first | exact ⟨_, rfl⟩ | split | (dsimp only; split)
  all_goals first | exact ⟨_, rfl⟩ | exact dispatch_next _ _ _

theorem next_partitionClearDone (part : Nat) (s : State) : ∃ res, exec (.partitionClearDone part) s = .next res := by
  show ∃ res, execPartitionClearDone part s = .next res
  unfold execPartitionClearDone; repeat' first | exact ⟨_, rfl⟩ | split | (dsimp only; split)
  all_goals first | exact ⟨_, rfl⟩ | exact dispatch_next _ _ _

theorem next_destroy (part vf : Nat) (s : State) : ∃ res, exec (.destroy part vf) s = .next res := by
  show ∃ res, execDestroy part vf s = .next res
  unfold execDestroy; repeat' first | exact ⟨_, rfl⟩ | split | (dsimp only; split)
  all_goals first | exact ⟨_, rfl⟩ | exact dispatch_next _ _ _

theorem next_bindvf (part vf : Nat) (s : State) : ∃ res, exec (.bindvf part vf) s = .next res := by
  show ∃ res, execBindvf part vf s = .next res
  unfold execBindvf; repeat' first | exact ⟨_, rfl⟩ | split | (dsimp only; split)
  all_goals first | exact ⟨_, rfl⟩ | exact dispatch_next _ _ _

theorem next_unbindvf (part vf : Nat) (s : State) : ∃ res, exec (.unbindvf part vf) s = .next res := by
  show ∃ res, execUnbindvf part vf s = .next res
  unfold execUnbindvf; repeat' first | exact ⟨_, rfl⟩ | split | (dsimp only; split)
  all_goals first | exact ⟨_, rfl⟩ | exact dispatch_next _ _ _

theorem next_partitionBadCommand (op : Nat) (s : State) : ∃ res, exec (.partitionBadCommand op) s = .next res := by
  show ∃ res, execPartitionBadCommand op s = .next res
  unfold execPartitionBadCommand; repeat' first | exact ⟨_, rfl⟩ | split | (dsimp only; split)
  all_goals first | exact ⟨_, rfl⟩ | exact dispatch_next _ _ _

theorem next_door (vf val : Nat) (s : State) : ∃ res, exec (.door vf val) s = .next res := by
  show ∃ res, execDoor vf val s = .next res
  unfold execDoor; repeat' first | exact ⟨_, rfl⟩ | split | (dsimp only; split)
  all_goals first | exact ⟨_, rfl⟩ | exact dispatch_next _ _ _

theorem next_slotWrite (vf sg rec : Nat) (s : State) : ∃ res, exec (.slotWrite vf sg rec) s = .next res := by
  show ∃ res, execSlotWrite vf sg rec s = .next res
  unfold execSlotWrite; repeat' first | exact ⟨_, rfl⟩ | split | (dsimp only; split)
  all_goals first | exact ⟨_, rfl⟩ | exact dispatch_next _ _ _

theorem next_launch (vf sg : Nat) (s : State) : ∃ res, exec (.launch vf sg) s = .next res := by
  show ∃ res, execLaunch vf sg s = .next res
  unfold execLaunch; repeat' first | exact ⟨_, rfl⟩ | split | (dsimp only; split)
  all_goals first | exact ⟨_, rfl⟩ | exact dispatch_next _ _ _

theorem next_launchFirstMessages (vf sg : Nat) (s : State) : ∃ res, exec (.launchFirstMessages vf sg) s = .next res := by
  show ∃ res, execLaunchFirstMessages vf sg s = .next res
  unfold execLaunchFirstMessages; repeat' first | exact ⟨_, rfl⟩ | split | (dsimp only; split)
  all_goals first | exact ⟨_, rfl⟩ | exact dispatch_next _ _ _

theorem next_register (vf sg : Nat) (s : State) : ∃ res, exec (.register vf sg) s = .next res := by
  show ∃ res, execRegister vf sg s = .next res
  unfold execRegister; repeat' first | exact ⟨_, rfl⟩ | split | (dsimp only; split)
  all_goals first | exact ⟨_, rfl⟩ | exact dispatch_next _ _ _

theorem next_regionEnd (vf sg : Nat) (s : State) : ∃ res, exec (.regionEnd vf sg) s = .next res := by
  show ∃ res, execRegionEnd vf sg s = .next res
  unfold execRegionEnd; repeat' first | exact ⟨_, rfl⟩ | split | (dsimp only; split)
  all_goals first | exact ⟨_, rfl⟩ | exact dispatch_next _ _ _

theorem next_prepare (vf sg : Nat) (s : State) : ∃ res, exec (.prepare vf sg) s = .next res := by
  show ∃ res, execPrepare vf sg s = .next res
  unfold execPrepare; repeat' first | exact ⟨_, rfl⟩ | split | (dsimp only; split)
  all_goals first | exact ⟨_, rfl⟩ | exact dispatch_next _ _ _

theorem next_prepareReceive (pkg rec : Nat) (s : State) : ∃ res, exec (.prepareReceive pkg rec) s = .next res := by
  show ∃ res, execPrepareReceive pkg rec s = .next res
  unfold execPrepareReceive; repeat' first | exact ⟨_, rfl⟩ | split | (dsimp only; split)
  all_goals first | exact ⟨_, rfl⟩ | exact dispatch_next _ _ _

theorem next_prepareAckReceive (pkg : Nat) (s : State) : ∃ res, exec (.prepareAckReceive pkg) s = .next res := by
  show ∃ res, execPrepareAckReceive pkg s = .next res
  unfold execPrepareAckReceive; repeat' first | exact ⟨_, rfl⟩ | split | (dsimp only; split)
  all_goals first | exact ⟨_, rfl⟩ | exact dispatch_next _ _ _

theorem next_prepareTimeout (s : State) : ∃ res, exec (.prepareTimeout) s = .next res := by
  show ∃ res, execPrepareTimeout  s = .next res
  unfold execPrepareTimeout; repeat' first | exact ⟨_, rfl⟩ | split | (dsimp only; split)
  all_goals first | exact ⟨_, rfl⟩ | exact dispatch_next _ _ _

theorem next_commit (s : State) : ∃ res, exec .commit s = .next res := by
  show ∃ res, execCommit s = .next res
  unfold execCommit; repeat' first | exact ⟨_, rfl⟩ | split | (dsimp only; split)
  all_goals first | exact ⟨_, rfl⟩ | exact dispatch_next _ _ _

theorem next_abort (s : State) : ∃ res, exec .abort s = .next res := by
  show ∃ res, execAbort s = .next res
  unfold execAbort; repeat' first | exact ⟨_, rfl⟩ | split | (dsimp only; split)
  all_goals first | exact ⟨_, rfl⟩ | exact dispatch_next _ _ _

theorem next_quantumBoundary (clu : Nat) (s : State) : ∃ res, exec (.quantumBoundary clu) s = .next res := by
  show ∃ res, execQuantumBoundary clu s = .next res
  unfold execQuantumBoundary; repeat' first | exact ⟨_, rfl⟩ | split | (dsimp only; split)
  all_goals first | exact ⟨_, rfl⟩ | exact dispatch_next _ _ _

theorem next_contractRelease (part off : Nat) (s : State) : ∃ res, exec (.contractRelease part off) s = .next res := by
  show ∃ res, execContractRelease part off s = .next res
  unfold execContractRelease; repeat' first | exact ⟨_, rfl⟩ | split | (dsimp only; split)
  all_goals first | exact ⟨_, rfl⟩ | exact dispatch_next _ _ _

theorem next_deadlineExpiry (part off : Nat) (s : State) : ∃ res, exec (.deadlineExpiry part off) s = .next res := by
  show ∃ res, execDeadlineExpiry part off s = .next res
  unfold execDeadlineExpiry; repeat' first | exact ⟨_, rfl⟩ | split | (dsimp only; split)
  all_goals first | exact ⟨_, rfl⟩ | exact dispatch_next _ _ _

theorem next_budgetExhausted (part off : Nat) (s : State) : ∃ res, exec (.budgetExhausted part off) s = .next res := by
  show ∃ res, execBudgetExhausted part off s = .next res
  unfold execBudgetExhausted; repeat' first | exact ⟨_, rfl⟩ | split | (dsimp only; split)
  all_goals first | exact ⟨_, rfl⟩ | exact dispatch_next _ _ _

theorem next_jobComplete (part off : Nat) (s : State) : ∃ res, exec (.jobComplete part off) s = .next res := by
  show ∃ res, execJobComplete part off s = .next res
  unfold execJobComplete; repeat' first | exact ⟨_, rfl⟩ | split | (dsimp only; split)
  all_goals first | exact ⟨_, rfl⟩ | exact dispatch_next _ _ _

theorem next_energyCharge (s : State) : ∃ res, exec (.energyCharge) s = .next res := by
  show ∃ res, execEnergyCharge  s = .next res
  unfold execEnergyCharge; repeat' first | exact ⟨_, rfl⟩ | split | (dsimp only; split)
  all_goals first | exact ⟨_, rfl⟩ | exact dispatch_next _ _ _

theorem next_energyWindowBoundary (part off : Nat) (s : State) : ∃ res, exec (.energyWindowBoundary part off) s = .next res := by
  show ∃ res, execEnergyWindowBoundary part off s = .next res
  unfold execEnergyWindowBoundary; repeat' first | exact ⟨_, rfl⟩ | split | (dsimp only; split)
  all_goals first | exact ⟨_, rfl⟩ | exact dispatch_next _ _ _

theorem next_lazyUnitRestore (unit : Nat) (s : State) : ∃ res, exec (.lazyUnitRestore unit) s = .next res := by
  show ∃ res, execLazyUnitRestore unit s = .next res
  unfold execLazyUnitRestore; repeat' first | exact ⟨_, rfl⟩ | split | (dsimp only; split)
  all_goals first | exact ⟨_, rfl⟩ | exact dispatch_next _ _ _

theorem next_clusterPowerGate (clu : Nat) (s : State) : ∃ res, exec (.clusterPowerGate clu) s = .next res := by
  show ∃ res, execClusterPowerGate clu s = .next res
  unfold execClusterPowerGate; repeat' first | exact ⟨_, rfl⟩ | split | (dsimp only; split)
  all_goals first | exact ⟨_, rfl⟩ | exact dispatch_next _ _ _

theorem next_clusterWake (clu : Nat) (s : State) : ∃ res, exec (.clusterWake clu) s = .next res := by
  show ∃ res, execClusterWake clu s = .next res
  unfold execClusterWake; repeat' first | exact ⟨_, rfl⟩ | split | (dsimp only; split)
  all_goals first | exact ⟨_, rfl⟩ | exact dispatch_next _ _ _

theorem next_deviceReset (s : State) : ∃ res, exec (.deviceReset) s = .next res := by
  show ∃ res, execDeviceReset  s = .next res
  unfold execDeviceReset; repeat' first | exact ⟨_, rfl⟩ | split | (dsimp only; split)
  all_goals first | exact ⟨_, rfl⟩ | exact dispatch_next _ _ _

theorem next_selfTestPass (fn : Nat) (s : State) : ∃ res, exec (.selfTestPass fn) s = .next res := by
  show ∃ res, execSelfTestPass fn s = .next res
  unfold execSelfTestPass; repeat' first | exact ⟨_, rfl⟩ | split | (dsimp only; split)
  all_goals first | exact ⟨_, rfl⟩ | exact dispatch_next _ _ _

theorem next_unitFailure (isClu num : Nat) (s : State) : ∃ res, exec (.unitFailure isClu num) s = .next res := by
  show ∃ res, execUnitFailure isClu num s = .next res
  unfold execUnitFailure; repeat' first | exact ⟨_, rfl⟩ | split | (dsimp only; split)
  all_goals first | exact ⟨_, rfl⟩ | exact dispatch_next _ _ _

theorem next_uncorrectableMemory (core ctx va pa : Nat) (s : State) : ∃ res, exec (.uncorrectableMemory core ctx va pa) s = .next res := by
  show ∃ res, execUncorrectableMemory core ctx va pa s = .next res
  unfold execUncorrectableMemory; repeat' first | exact ⟨_, rfl⟩ | split | (dsimp only; split)
  all_goals first | exact ⟨_, rfl⟩ | exact dispatch_next _ _ _

theorem next_linkDown (link : Nat) (s : State) : ∃ res, exec (.linkDown link) s = .next res := by
  show ∃ res, execLinkDown link s = .next res
  unfold execLinkDown; repeat' first | exact ⟨_, rfl⟩ | split | (dsimp only; split)
  all_goals first | exact ⟨_, rfl⟩ | exact dispatch_next _ _ _

theorem next_cxlMemRead (vf pa len : Nat) (s : State) : ∃ res, exec (.cxlMemRead vf pa len) s = .next res := by
  show ∃ res, execCxlMemRead vf pa len s = .next res
  unfold execCxlMemRead; repeat' first | exact ⟨_, rfl⟩ | split | (dsimp only; split)
  all_goals first | exact ⟨_, rfl⟩ | exact dispatch_next _ _ _

theorem next_cxlMemWrite (vf pa len val : Nat) (s : State) : ∃ res, exec (.cxlMemWrite vf pa len val) s = .next res := by
  show ∃ res, execCxlMemWrite vf pa len val s = .next res
  unfold execCxlMemWrite; repeat' first | exact ⟨_, rfl⟩ | split | (dsimp only; split)
  all_goals first | exact ⟨_, rfl⟩ | exact dispatch_next _ _ _

theorem next_getVersion (fn : Nat) (s : State) : ∃ res, exec (.getVersion fn) s = .next res := by
  show ∃ res, execGetVersion fn s = .next res
  unfold execGetVersion; repeat' first | exact ⟨_, rfl⟩ | split | (dsimp only; split)
  all_goals first | exact ⟨_, rfl⟩ | exact dispatch_next _ _ _

theorem next_getCapabilities (fn : Nat) (s : State) : ∃ res, exec (.getCapabilities fn) s = .next res := by
  show ∃ res, execGetCapabilities fn s = .next res
  unfold execGetCapabilities; repeat' first | exact ⟨_, rfl⟩ | split | (dsimp only; split)
  all_goals first | exact ⟨_, rfl⟩ | exact dispatch_next _ _ _

theorem next_negotiateAlgorithms (fn offer : Nat) (s : State) : ∃ res, exec (.negotiateAlgorithms fn offer) s = .next res := by
  show ∃ res, execNegotiateAlgorithms fn offer s = .next res
  unfold execNegotiateAlgorithms; repeat' first | exact ⟨_, rfl⟩ | split | (dsimp only; split)
  all_goals first | exact ⟨_, rfl⟩ | exact dispatch_next _ _ _

theorem next_getDigests (fn : Nat) (s : State) : ∃ res, exec (.getDigests fn) s = .next res := by
  show ∃ res, execGetDigests fn s = .next res
  unfold execGetDigests; repeat' first | exact ⟨_, rfl⟩ | split | (dsimp only; split)
  all_goals first | exact ⟨_, rfl⟩ | exact dispatch_next _ _ _

theorem next_getCertificate (fn slot : Nat) (s : State) : ∃ res, exec (.getCertificate fn slot) s = .next res := by
  show ∃ res, execGetCertificate fn slot s = .next res
  unfold execGetCertificate; repeat' first | exact ⟨_, rfl⟩ | split | (dsimp only; split)
  all_goals first | exact ⟨_, rfl⟩ | exact dispatch_next _ _ _

theorem next_challenge (fn slot : Nat) (s : State) : ∃ res, exec (.challenge fn slot) s = .next res := by
  show ∃ res, execChallenge fn slot s = .next res
  unfold execChallenge; repeat' first | exact ⟨_, rfl⟩ | split | (dsimp only; split)
  all_goals first | exact ⟨_, rfl⟩ | exact dispatch_next _ _ _

theorem next_getMeasurements (fn ix : Nat) (s : State) : ∃ res, exec (.getMeasurements fn ix) s = .next res := by
  show ∃ res, execGetMeasurements fn ix s = .next res
  unfold execGetMeasurements; repeat' first | exact ⟨_, rfl⟩ | split | (dsimp only; split)
  all_goals first | exact ⟨_, rfl⟩ | exact dispatch_next _ _ _

theorem next_keyExchange (fn slot : Nat) (s : State) : ∃ res, exec (.keyExchange fn slot) s = .next res := by
  show ∃ res, execKeyExchange fn slot s = .next res
  unfold execKeyExchange; repeat' first | exact ⟨_, rfl⟩ | split | (dsimp only; split)
  all_goals first | exact ⟨_, rfl⟩ | exact dispatch_next _ _ _

theorem next_finish (fn : Nat) (s : State) : ∃ res, exec (.finish fn) s = .next res := by
  show ∃ res, execFinish fn s = .next res
  unfold execFinish; repeat' first | exact ⟨_, rfl⟩ | split | (dsimp only; split)
  all_goals first | exact ⟨_, rfl⟩ | exact dispatch_next _ _ _

theorem next_debugTokenSubmit (vf : Nat) (s : State) : ∃ res, exec (.debugTokenSubmit vf) s = .next res := by
  show ∃ res, execDebugTokenSubmit vf s = .next res
  unfold execDebugTokenSubmit; repeat' first | exact ⟨_, rfl⟩ | split | (dsimp only; split)
  all_goals first | exact ⟨_, rfl⟩ | exact dispatch_next _ _ _

theorem next_debugScopeRevoke (vf : Nat) (s : State) : ∃ res, exec (.debugScopeRevoke vf) s = .next res := by
  show ∃ res, execDebugScopeRevoke vf s = .next res
  unfold execDebugScopeRevoke; repeat' first | exact ⟨_, rfl⟩ | split | (dsimp only; split)
  all_goals first | exact ⟨_, rfl⟩ | exact dispatch_next _ _ _

theorem next_debugScopeExpiry (vf : Nat) (s : State) : ∃ res, exec (.debugScopeExpiry vf) s = .next res := by
  show ∃ res, execDebugScopeExpiry vf s = .next res
  unfold execDebugScopeExpiry; repeat' first | exact ⟨_, rfl⟩ | split | (dsimp only; split)
  all_goals first | exact ⟨_, rfl⟩ | exact dispatch_next _ _ _

theorem next_dbgdataWrite (vf val : Nat) (s : State) : ∃ res, exec (.dbgdataWrite vf val) s = .next res := by
  show ∃ res, execDbgdataWrite vf val s = .next res
  unfold execDbgdataWrite; repeat' first | exact ⟨_, rfl⟩ | split | (dsimp only; split)
  all_goals first | exact ⟨_, rfl⟩ | exact dispatch_next _ _ _

theorem next_dbgdataRead (vf : Nat) (s : State) : ∃ res, exec (.dbgdataRead vf) s = .next res := by
  show ∃ res, execDbgdataRead vf s = .next res
  unfold execDbgdataRead; repeat' first | exact ⟨_, rfl⟩ | split | (dsimp only; split)
  all_goals first | exact ⟨_, rfl⟩ | exact dispatch_next _ _ _

theorem next_halt (core : Nat) (s : State) : ∃ res, exec (.halt core) s = .next res := by
  show ∃ res, execHalt core s = .next res
  unfold execHalt; repeat' first | exact ⟨_, rfl⟩ | split | (dsimp only; split)
  all_goals first | exact ⟨_, rfl⟩ | exact dispatch_next _ _ _

theorem next_debugResume (core : Nat) (s : State) : ∃ res, exec (.debugResume core) s = .next res := by
  show ∃ res, execDebugResume core s = .next res
  unfold execDebugResume; repeat' first | exact ⟨_, rfl⟩ | split | (dsimp only; split)
  all_goals first | exact ⟨_, rfl⟩ | exact dispatch_next _ _ _

theorem next_step (core ctx : Nat) (s : State) : ∃ res, exec (.step core ctx) s = .next res := by
  show ∃ res, execStep core ctx s = .next res
  unfold execStep; repeat' first | exact ⟨_, rfl⟩ | split | (dsimp only; split)
  all_goals first | exact ⟨_, rfl⟩ | exact dispatch_next _ _ _

theorem next_stepdone (core : Nat) (s : State) : ∃ res, exec (.stepdone core) s = .next res := by
  show ∃ res, execStepdone core s = .next res
  unfold execStepdone; repeat' first | exact ⟨_, rfl⟩ | split | (dsimp only; split)
  all_goals first | exact ⟨_, rfl⟩ | exact dispatch_next _ _ _

theorem next_xbWrite (core val : Nat) (s : State) : ∃ res, exec (.xbWrite core val) s = .next res := by
  show ∃ res, execXbWrite core val s = .next res
  unfold execXbWrite; repeat' first | exact ⟨_, rfl⟩ | split | (dsimp only; split)
  all_goals first | exact ⟨_, rfl⟩ | exact dispatch_next _ _ _

theorem next_seedWrite (core val : Nat) (s : State) : ∃ res, exec (.seedWrite core val) s = .next res := by
  show ∃ res, execSeedWrite core val s = .next res
  unfold execSeedWrite; repeat' first | exact ⟨_, rfl⟩ | split | (dsimp only; split)
  all_goals first | exact ⟨_, rfl⟩ | exact dispatch_next _ _ _

theorem next_lotstateWrite (core val : Nat) (s : State) : ∃ res, exec (.lotstateWrite core val) s = .next res := by
  show ∃ res, execLotstateWrite core val s = .next res
  unfold execLotstateWrite; repeat' first | exact ⟨_, rfl⟩ | split | (dsimp only; split)
  all_goals first | exact ⟨_, rfl⟩ | exact dispatch_next _ _ _

theorem next_issuepolWrite (core val : Nat) (s : State) : ∃ res, exec (.issuepolWrite core val) s = .next res := by
  show ∃ res, execIssuepolWrite core val s = .next res
  unfold execIssuepolWrite; repeat' first | exact ⟨_, rfl⟩ | split | (dsimp only; split)
  all_goals first | exact ⟨_, rfl⟩ | exact dispatch_next _ _ _

theorem next_sbdataWrite (core val : Nat) (s : State) : ∃ res, exec (.sbdataWrite core val) s = .next res := by
  show ∃ res, execSbdataWrite core val s = .next res
  unfold execSbdataWrite; repeat' first | exact ⟨_, rfl⟩ | split | (dsimp only; split)
  all_goals first | exact ⟨_, rfl⟩ | exact dispatch_next _ _ _

theorem next_overrunClear (clu out : Nat) (s : State) : ∃ res, exec (.overrunClear clu out) s = .next res := by
  show ∃ res, execOverrunClear clu out s = .next res
  unfold execOverrunClear; repeat' first | exact ⟨_, rfl⟩ | split | (dsimp only; split)
  all_goals first | exact ⟨_, rfl⟩ | exact dispatch_next _ _ _

theorem next_trdstWrite (core val : Nat) (s : State) : ∃ res, exec (.trdstWrite core val) s = .next res := by
  show ∃ res, execTrdstWrite core val s = .next res
  unfold execTrdstWrite; repeat' first | exact ⟨_, rfl⟩ | split | (dsimp only; split)
  all_goals first | exact ⟨_, rfl⟩ | exact dispatch_next _ _ _

theorem next_clear (core : Nat) (s : State) : ∃ res, exec (.clear core) s = .next res := by
  show ∃ res, execClear core s = .next res
  unfold execClear; repeat' first | exact ⟨_, rfl⟩ | split | (dsimp only; split)
  all_goals first | exact ⟨_, rfl⟩ | exact dispatch_next _ _ _

theorem next_xflagsWrite (core val : Nat) (s : State) : ∃ res, exec (.xflagsWrite core val) s = .next res := by
  show ∃ res, execXflagsWrite core val s = .next res
  unfold execXflagsWrite; repeat' first | exact ⟨_, rfl⟩ | split | (dsimp only; split)
  all_goals first | exact ⟨_, rfl⟩ | exact dispatch_next _ _ _

theorem next_traceDrain (clu : Nat) (s : State) : ∃ res, exec (.traceDrain clu) s = .next res := by
  show ∃ res, execTraceDrain clu s = .next res
  unfold execTraceDrain; repeat' first | exact ⟨_, rfl⟩ | split | (dsimp only; split)
  all_goals first | exact ⟨_, rfl⟩ | exact dispatch_next _ _ _

theorem next_registerWrite (core csr val : Nat) (s : State) : ∃ res, exec (.registerWrite core csr val) s = .next res := by
  show ∃ res, execRegisterWrite core csr val s = .next res
  unfold execRegisterWrite; repeat' first | exact ⟨_, rfl⟩ | split | (dsimp only; split)
  all_goals first | exact ⟨_, rfl⟩ | exact dispatch_next _ _ _

theorem next_prepareRefusalReceive (pkg status : Nat) (s : State) : ∃ res, exec (.prepareRefusalReceive pkg status) s = .next res := by
  show ∃ res, execPrepareRefusalReceive pkg status s = .next res
  unfold execPrepareRefusalReceive; repeat' first | exact ⟨_, rfl⟩ | split | (dsimp only; split)
  all_goals first | exact ⟨_, rfl⟩ | exact dispatch_next _ _ _

end Sys2Proof.Machine
end

