-- ==== Sys2Proof/Laws/Attempts.lean ====
section
/-! SUPPORT. What every state that an attempt goes on to has, and a relation that every operation of a dispatch respects. -/

namespace Sys2Proof.Machine

/-- Every state that the attempt goes on to has `P`. -/
def Att.Holds (P : State → Prop) : Att → Prop
  | .stall => True
  | .trap _ _ => True
  | .ok t => P t
  | .stay t => P t
  | .waits t => P t

theorem Att.holds_stall {P : State → Prop} : Att.stall.Holds P := True.intro
theorem Att.holds_trap {P : State → Prop} {c v : Nat} : (Att.trap c v).Holds P := True.intro
theorem Att.holds_ok {P : State → Prop} {t : State} (h : P t) : (Att.ok t).Holds P := h
theorem Att.holds_stay {P : State → Prop} {t : State} (h : P t) : (Att.stay t).Holds P := h
theorem Att.holds_waits {P : State → Prop} {t : State} (h : P t) : (Att.waits t).Holds P := h

theorem Att.holds_need {P : State → Prop} {b : Bool} {k : Att} (h : k.Holds P) : (Att.need b k).Holds P := by
  unfold Att.need; split
  · exact h
  · trivial

theorem Att.holds_check {P : State → Prop} {b : Bool} {c v : Nat} {k : Att} (h : k.Holds P) :
    (Att.check b c v k).Holds P := by
  unfold Att.check; split
  · exact h
  · trivial

theorem Att.holds_capCheck {P : State → Prop} {c : AReg} {ps : List Nat} {o z u al ca v : Nat} {k : Att} (h : k.Holds P) :
    (capCheck c ps o z u al ca v k).Holds P := by
  unfold capCheck
  exact holds_check (holds_check (holds_check (holds_check h)))

theorem Att.holds_guardHints {P : State → Prop} {e : Entry} {b : Bool} {k : Att} (h : k.Holds P) :
    (guardHints e b k).Holds P := by
  unfold guardHints
  split
  · trivial
  · refine holds_check ?_
    split
    · trivial
    · exact h

theorem Att.holds_guardPriv {P : State → Prop} {a : Activation} {e : Entry} {k : Att} (h : k.Holds P) :
    (guardPriv a e k).Holds P := holds_check h

theorem Att.holds_guardCluster {P : State → Prop} {s : State} {r id : Nat} {k : Att} (h : k.Holds P) :
    (guardCluster s r id k).Holds P := holds_check h

theorem Att.holds_sendable {P : State → Prop} {s : State} {k : Att} (h : k.Holds P) : (sendable s k).Holds P := holds_need h

theorem Att.holds_orderly {P : State → Prop} {s : State} {k : Att} (h : k.Holds P) : (orderly s k).Holds P := holds_need h

theorem Att.holds_sendReady {P : State → Prop} {s : State} {k : Att} (h : k.Holds P) : (sendReady s k).Holds P := holds_need h

theorem Att.holds_xQuiet {P : State → Prop} {s : State} {k : Att} (h : k.Holds P) : (xQuiet s k).Holds P := holds_need h

/-- Behind the wait the results of the activation have landed. -/
theorem Att.holds_xQuiet_of {P : State → Prop} {s : State} {k : Att} (h : s.cur.pend = [] → k.Holds P) : (xQuiet s k).Holds P := by
  unfold xQuiet Att.need
  split
  · rename_i hq
    exact h (List.isEmpty_iff.mp ((Bool.and_eq_true _ _).mp hq).2)
  · trivial

theorem Att.holds_aBody {P : State → Prop} {rs : List Nat} {il : Entry → Bool} {k : Activation → Entry → Att} {s : State}
    (h : (k s.cur (s.head .a)).Holds P) : (aBody rs il k s).Holds P := holds_need (holds_guardHints h)

theorem Att.holds_popSdq {P : State → Prop} {s : State} {k : Word128 → Activation → Att}
    (h : ∀ v rest, s.cur.q.sdq = v :: rest → (k v { s.cur with q := { s.cur.q with sdq := rest } }).Holds P) :
    (popSdq s k).Holds P := by
  unfold popSdq; split
  · trivial
  · exact h _ _ ‹_›

theorem Att.holds_releaseWait {P : State → Prop} {s : State} {id p : Nat} {k : Att} (hw : P (s.wcFlush s.curClu))
    (h : k.Holds P) : (releaseWait s id p k).Holds P := by
  unfold releaseWait
  split
  · exact h
  · refine holds_need ?_
    split
    · exact h
    · split
      · exact hw
      · exact holds_need h

theorem Att.holds_orderStore {P : State → Prop} {s : State} {r p : Nat} {k : Att} (hw : P (s.wcFlush s.curClu))
    (h : k.Holds P) : (orderStore s r p k).Holds P := by
  unfold orderStore
  split
  · exact holds_releaseWait hw h
  · exact h

theorem Att.holds_decides {P : State → Prop} {s : State} {f k : Att} (hf : f.Holds P) (hk : k.Holds P) :
    (decides s f k).Holds P := by
  unfold decides; split
  · exact hf
  · exact hk

theorem Att.holds_replyCheck {P : State → Prop} {c : AReg} {r : Nat} {k : Att} (h : k.Holds P) :
    (replyCheck c r k).Holds P := holds_check (holds_check (holds_check h))

theorem Att.holds_parkedCheck {P : State → Prop} {s : State} {clu id v : Nat} {k : EngCmd → Att} (h : ∀ c, (k c).Holds P) :
    (parkedCheck s clu id v k).Holds P := by
  dsimp only [parkedCheck]
  split
  · trivial
  · exact holds_check (h _)
  · trivial

theorem Att.holds_guard {P : State → Prop} {r : Refused} {k : Att} (h : k.Holds P) : (r.guard k).Holds P := by
  unfold Refused.guard; split
  · trivial
  · exact h

theorem Att.holds_regBody {P : State → Prop} {rs : List Nat} {d : Nat} {il : Entry → Bool} {v : Activation → Entry → AReg}
    {s : State} (h : P (s.setCur (s.cur.writeReg (s.head .a).seq d (v s.cur (s.head .a))))) :
    (regBody rs d il v s).Holds P := holds_aBody h

theorem Att.holds_xBody {P : State → Prop} {op : XOp} {w : Nat} {il : Bool} {f : Csrs → Nat → Nat → Nat → XRes} {s : State}
    (h : ∀ p q z (a : Activation), a.regs = s.cur.regs → a.f = s.cur.f → a.info = s.cur.info → a.flow = s.cur.flow →
      P ((s.setCurCore { s.curCore with csr := (f s.curCore.csr p q z).csr }).setCur a)) :
    (xBody op w il f s).Holds P := by
  have hr : ∀ (a b : Activation) (l v : Nat) (o : Option XSrc), readOpt a l o = some (v, b) →
      b.regs = a.regs ∧ b.f = a.f ∧ b.info = a.info ∧ b.flow = a.flow := by
    intro a b l v o ho
    unfold readOpt at ho
    split at ho
    · cases ho; exact ⟨rfl, rfl, rfl, rfl⟩
    · split at ho
      · cases ho; exact ⟨rfl, rfl, rfl, rfl⟩
      · unfold Activation.readX at ho
        split at ho
        · split at ho
          · cases ho; exact ⟨rfl, rfl, rfl, rfl⟩
          · cases ho
        · split at ho <;> first
            | (cases ho; exact ⟨rfl, rfl, rfl, rfl⟩)
            | (simp only [Option.map_eq_some_iff] at ho; obtain ⟨_, _, h2⟩ := ho; cases h2; exact ⟨rfl, rfl, rfl, rfl⟩)
  dsimp only [xBody]
  split
  · trivial
  · rename_i ha
    split
    · trivial
    · rename_i hb
      split
      · trivial
      · rename_i hc
        refine holds_need (holds_guardHints (holds_check (holds_check (holds_check ?_))))
        obtain ⟨a1, a2, a3, a4⟩ := hr _ _ _ _ _ ha
        obtain ⟨b1, b2, b3, b4⟩ := hr _ _ _ _ _ hb
        obtain ⟨c1, c2, c3, c4⟩ := hr _ _ _ _ _ hc
        exact h _ _ _ _ (by rw [← a1, ← b1, ← c1]) (by rw [← a2, ← b2, ← c2]) (by rw [← a3, ← b3, ← c3])
          (by rw [← a4, ← b4, ← c4])


/-! ### A relation that every operation of a dispatch respects -/

/-- A gang's head has trapped on one of its members. -/
def GangTrapped (s t : State) : Prop :=
  (∃ a g, s.cur? = some a ∧ a.flow.gang = some g) ∧ ∃ k c h cause val, t = (s.focusOn k c).takeTrap h cause val

/-- What a dispatch does to every member, and what stands around it, respects `R`, unless a gang's head traps. -/
theorem dispatch_holds_or {R : State → State → Prop} (rfl_ : ∀ s, R s s) (trans : ∀ s t u, R s t → R t u → R s u)
    (focus : ∀ s k c, R s (s.focusOn k c)) (verdict : ∀ (s : State) v, R s { s with verdict := v })
    (trap : ∀ s a h c v, s.cur? = some a → a.flow.gang = none → R s (s.takeTrap h c v)) (fin : ∀ s h, R s (s.finish h))
    (disp : ∀ s e, R s (s.dispatched e)) (note : ∀ (u : State) g ms e b t, R t (u.noteGang g ms e b t)) {h : Half}
    {body : State → Att} (hb : ∀ s, (body s).Holds (R s)) {s t : State} (e : dispatch h body s = .next t) :
    R s t ∨ GangTrapped s t := by
  have gang : ∀ (l : List (Nat × Nat)) (u : State), (gangRun body l u).Holds (R u) := by
    intro l
    induction l with
    | nil => intro u; exact rfl_ u
    | cons m rest ih =>
      intro u
      have h1 := hb (u.focusOn m.1 m.2)
      have f1 := focus u m.1 m.2
      simp only [gangRun]
      cases hk : body (u.focusOn m.1 m.2) with
      | stall => trivial
      | trap _ _ => trivial
      | waits w => rw [hk] at h1; exact trans _ _ _ f1 h1
      | ok w =>
        rw [hk] at h1
        have h2 := ih w
        dsimp only
        cases hg : gangRun body rest w with
        | stall => trivial
        | trap _ _ => trivial
        | ok x => rw [hg] at h2; exact trans _ _ _ f1 (trans _ _ _ h1 h2)
        | stay x => rw [hg] at h2; exact trans _ _ _ f1 (trans _ _ _ h1 h2)
        | waits x => rw [hg] at h2; exact trans _ _ _ f1 (trans _ _ _ h1 h2)
      | stay w =>
        rw [hk] at h1
        have h2 := ih w
        dsimp only
        cases hg : gangRun body rest w with
        | stall => trivial
        | trap _ _ => trivial
        | ok x => rw [hg] at h2; exact trans _ _ _ f1 (trans _ _ _ h1 h2)
        | stay x => rw [hg] at h2; exact trans _ _ _ f1 (trans _ _ _ h1 h2)
        | waits x => rw [hg] at h2; exact trans _ _ _ f1 (trans _ _ _ h1 h2)
  dsimp only [dispatch] at e
  split at e
  · cases e; exact .inl (verdict _ _)
  · rename_i a ha
    split at e
    · cases e; exact .inl (verdict _ _)
    · split at e
      · rename_i hg
        have h1 := hb s
        split at e
        · cases e; exact .inl (verdict _ _)
        · cases e; exact .inl (trap _ _ _ _ _ ha hg)
        · rename_i w hw; rw [hw] at h1; cases e; exact .inl (trans _ _ _ h1 (fin _ _))
        · rename_i w hw; rw [hw] at h1; cases e; exact .inl (trans _ _ _ h1 (disp _ _))
        · rename_i w hw; rw [hw] at h1; cases e; exact .inl (trans _ _ _ h1 (verdict _ _))
      · rename_i g hg
        split at e
        · cases e; exact .inl (verdict _ _)
        · split at e
          · cases e; exact .inr ⟨⟨a, g, ha, hg⟩, _, _, _, _, _, rfl⟩
          · split at e
            · rename_i w hw; have h1 : (Att.ok w).Holds (R s) := hw ▸ gang _ s; cases e
              exact .inl (trans _ _ _ h1 (trans _ _ _ (trans _ _ _ (focus _ _ _) (fin _ _)) (note _ _ _ _ _ _)))
            · rename_i w hw; have h1 : (Att.stay w).Holds (R s) := hw ▸ gang _ s; cases e
              exact .inl (trans _ _ _ h1 (trans _ _ _ (trans _ _ _ (focus _ _ _) (disp _ _)) (note _ _ _ _ _ _)))
            · rename_i w hw; have h1 : (Att.waits w).Holds (R s) := hw ▸ gang _ s; cases e
              exact .inl (trans _ _ _ h1 (trans _ _ _ (focus _ _ _) (verdict _ _)))
            · split at e
              · cases e; exact .inr ⟨⟨a, g, ha, hg⟩, _, _, _, _, _, rfl⟩
              · cases e; exact .inl (verdict _ _)
            · cases e; exact .inl (verdict _ _)

/-- What a dispatch does to every member, and what stands around it, respects `R`. -/
theorem dispatch_holds {R : State → State → Prop} (rfl_ : ∀ s, R s s) (trans : ∀ s t u, R s t → R t u → R s u)
    (focus : ∀ s k c, R s (s.focusOn k c)) (verdict : ∀ (s : State) v, R s { s with verdict := v })
    (trap : ∀ s h c v, R s (s.takeTrap h c v)) (fin : ∀ s h, R s (s.finish h)) (disp : ∀ s e, R s (s.dispatched e))
    (note : ∀ (u : State) g ms e b t, R t (u.noteGang g ms e b t)) {h : Half} {body : State → Att}
    (hb : ∀ s, (body s).Holds (R s)) {s t : State} (e : dispatch h body s = .next t) : R s t := by
  rcases dispatch_holds_or rfl_ trans focus verdict (fun s _ h c v _ _ => trap s h c v) fin disp note hb e with h1 | ⟨_, k, c, h2, x, v, rfl⟩
  · exact h1
  · exact trans _ _ _ (focus _ _ _) (trap _ _ _ _)

end Sys2Proof.Machine
end

