-- ==== Sys2Proof/Laws/Memory.lean ====
section
/-! SUPPORT. Memory: the changes of a step applied read as they did in the log, and every change keeps the canonical form. -/

namespace Sys2Proof.Machine

theorem MemOp.onBytes_canonical (op : MemOp) (m : Sparse Byte) (h : Sparse.canonical (0 : Byte) m = true) :
    Sparse.canonical (0 : Byte) (op.onBytes m) = true := by
  cases op with
  | byte pa b => exact Sparse.canonical_set 0 m pa b h
  | tag u t => exact h
  | zero lo len => exact Sparse.canonical_filter 0 m _ h

theorem MemOp.onTags_canonical (op : MemOp) (m : Sparse Bool) (h : Sparse.canonical false m = true) :
    Sparse.canonical false (op.onTags m) = true := by
  cases op with
  | byte pa b => exact Sparse.canonical_set false m _ false h
  | tag u t => exact Sparse.canonical_set false m u t h
  | zero lo len => exact Sparse.canonical_filter false m _ h

/-- The changes of a step keep the canonical form of the bytes. -/
theorem applyBytes_canonical (m : Sparse Byte) (l : List MemOp) (h : Sparse.canonical (0 : Byte) m = true) :
    Sparse.canonical (0 : Byte) (applyBytes m l) = true := by
  induction l with
  | nil => exact h
  | cons op rest ih => exact op.onBytes_canonical _ ih

/-- The changes of a step keep the canonical form of the tags. -/
theorem applyTags_canonical (m : Sparse Bool) (l : List MemOp) (h : Sparse.canonical false m = true) :
    Sparse.canonical false (applyTags m l) = true := by
  induction l with
  | nil => exact h
  | cons op rest ih => exact op.onTags_canonical _ ih

/-- A byte reads after the step as it did behind the log. -/
theorem get_applyBytes (m : Sparse Byte) (l : List MemOp) (pa : Nat) :
    Sparse.get 0 (applyBytes m l) pa = byteIn m l pa := by
  induction l with
  | nil => rfl
  | cons op rest ih =>
    cases op with
    | byte p b => simp only [applyBytes, MemOp.onBytes, byteIn, Sparse.get_set, ih]
    | tag u t => simp only [applyBytes, MemOp.onBytes, byteIn, ih]
    | zero lo len =>
      simp only [applyBytes, MemOp.onBytes, byteIn]
      rw [Sparse.get_filter (0 : Byte) _ (fun i => !(decide (lo ≤ i) && decide (i < lo + len))) pa, ih]
      by_cases h : lo ≤ pa ∧ pa < lo + len
      · rw [if_pos h, if_neg (by simp [h.1, h.2])]
      · rw [if_neg h, if_pos (by simp; omega)]

/-- A tag reads after the step as it did behind the log. -/
theorem get_applyTags (m : Sparse Bool) (l : List MemOp) (u : Nat) :
    Sparse.get false (applyTags m l) u = tagIn m l u := by
  induction l with
  | nil => rfl
  | cons op rest ih =>
    cases op with
    | byte p b => simp only [applyTags, MemOp.onTags, tagIn, Sparse.get_set, ih]
    | tag v t => simp only [applyTags, MemOp.onTags, tagIn, Sparse.get_set, ih]
    | zero lo len =>
      simp only [applyTags, MemOp.onTags, tagIn]
      rw [Sparse.get_filter false _ (fun i => !(decide (lo ≤ 16 * i) && decide (16 * i < lo + len))) u, ih]
      by_cases h : lo ≤ 16 * u ∧ 16 * u < lo + len
      · rw [if_pos h, if_neg (by simp [h.1, h.2])]
      · rw [if_neg h, if_pos (by simp; omega)]

/-- A byte written reads back, and the others stay. -/
theorem State.byteAt_putByte (s : State) (pa q : Nat) (b : Byte) :
    (s.putByte pa b).byteAt q = if pa = q then b else s.byteAt q := rfl

/-- A byte written clears the tag of its unit (02 R37). -/
theorem State.tagAt_putByte (s : State) (pa u : Nat) (b : Byte) :
    (s.putByte pa b).tagAt u = if pa / 16 = u then false else s.tagAt u := rfl

theorem State.byteAt_putTag (s : State) (u q : Nat) (t : Bool) : (s.putTag u t).byteAt q = s.byteAt q := rfl

theorem State.tagAt_putTag (s : State) (u v : Nat) (t : Bool) :
    (s.putTag u t).tagAt v = if u = v then t else s.tagAt v := rfl

/-- Bytes written from `pa` on leave every address outside them. -/
theorem State.byteAt_putBytes_of_outside (l : List Byte) :
    ∀ (s : State) (pa q : Nat), (q < pa ∨ pa + l.length ≤ q) → (s.putBytes pa l).byteAt q = s.byteAt q := by
  induction l with
  | nil => intro s pa q _; rfl
  | cons b rest ih =>
    intro s pa q h
    simp only [List.length_cons] at h
    rw [State.putBytes, ih _ _ _ (by omega), State.byteAt_putByte, if_neg (by omega)]

/-- Bytes written from `pa` on read back. -/
theorem State.byteAt_putBytes (l : List Byte) :
    ∀ (s : State) (pa i : Nat) (h : i < l.length), (s.putBytes pa l).byteAt (pa + i) = l[i] := by
  induction l with
  | nil => intro s pa i h; exact absurd h (by simp)
  | cons b rest ih =>
    intro s pa i h
    cases i with
    | zero =>
      rw [State.putBytes, State.byteAt_putBytes_of_outside rest _ _ _ (by omega), State.byteAt_putByte, if_pos (by omega)]
      rfl
    | succ n =>
      have e : pa + (n + 1) = pa + 1 + n := by omega
      simp only [List.length_cons] at h
      rw [State.putBytes, e, ih _ _ _ (by omega)]
      rfl

end Sys2Proof.Machine
end

