-- ==== Sys2Proof/Laws/Writes.lean ====
section
/-! SUPPORT. Writes of memory change memory alone: the cores stand as they did. -/

namespace Sys2Proof.Machine

/-- Steps that keep the cores keep them together. -/
theorem foldl_cores {α : Type} {f : State → α → State} (h : ∀ t x, (f t x).cores = t.cores) :
    ∀ (l : List α) (s : State), (l.foldl f s).cores = s.cores := by
  intro l
  induction l with
  | nil => intro s; rfl
  | cons x rest ih => intro s; rw [List.foldl_cons, ih, h]

@[simp] theorem State.putBytes_cores (l : List Byte) : ∀ (s : State) (pa : Nat), (s.putBytes pa l).cores = s.cores := by
  induction l with
  | nil => intro s pa; rfl
  | cons b rest ih => intro s pa; exact ih _ _

@[simp] theorem State.putNat_cores (s : State) (pa n v : Nat) : (s.putNat pa n v).cores = s.cores := State.putBytes_cores _ _ _

@[simp] theorem State.putList_cores (s : State) (pa n : Nat) (l : List Nat) : (s.putList pa n l).cores = s.cores :=
  foldl_cores (fun t _ => t.putNat_cores _ _ _) _ _

@[simp] theorem State.caeUse_cores (s : State) (pa : Nat) : (s.caeUse pa).cores = s.cores := rfl

@[simp] theorem State.useRange_cores (s : State) (pa len : Nat) : (s.useRange pa len).cores = s.cores := by
  unfold State.useRange
  split
  · rfl
  · refine foldl_cores (fun t i => ?_) _ _
    dsimp only
    split <;> rfl

@[simp] theorem State.copyUnits_cores (s : State) (src dst n : Nat) : (s.copyUnits src dst n).cores = s.cores := by
  unfold State.copyUnits
  dsimp only
  rw [foldl_cores, State.putBytes_cores, State.useRange_cores, State.useRange_cores]
  intro t _
  split <;> rfl

@[simp] theorem State.saveUnit_cores (s : State) (region src dst : Nat) : (s.saveUnit region src dst).cores = s.cores := by
  unfold State.saveUnit
  split
  · rfl
  · exact s.copyUnits_cores _ _ _

@[simp] theorem State.loadUnit_cores (s : State) (region src dst : Nat) : (s.loadUnit region src dst).cores = s.cores := by
  unfold State.loadUnit
  split
  · exact State.putBytes_cores (lostUnit s.fresh) s dst
  · exact s.copyUnits_cores _ _ _

@[simp] theorem State.touch_cores (s : State) (region pa : Nat) (w : Bool) : (s.touch region pa w).cores = s.cores := by
  simp only [State.touch]
  split
  · rfl
  · split
    · rfl
    · dsimp only
      repeat' split
      all_goals simp only [State.saveUnit_cores, State.loadUnit_cores]

@[simp] theorem State.writeWindow_cores (s : State) (pa : Nat) (a : Activation) : (s.writeWindow pa a).cores = s.cores :=
  (State.putNat_cores _ _ _ _).trans (s.useRange_cores _ _)

@[simp] theorem State.writeState_cores (s : State) (pa : Nat) (a : Activation) (r : TrapRec) :
    (s.writeState pa a r).cores = s.cores := by
  simp only [State.writeState, State.putList_cores, State.putNat_cores]
  rw [foldl_cores, State.putList_cores, State.putNat_cores, State.putList_cores, State.useRange_cores]
  intro t i
  split <;> rfl

@[simp] theorem State.writeContext_cores (s : State) (pa core ctx : Nat) (a : Activation) (r : TrapRec) :
    (s.writeContext pa core ctx a r).cores = s.cores :=
  ((State.putBytes_cores _ _ _).trans (State.useRange_cores _ _ _)).trans (s.writeState_cores pa a r)

end Sys2Proof.Machine
end

