-- ==== Sys2Proof/Laws/Bodies.lean ====
section
/-! SUPPORT. What the bodies of whole families do: branches, commands of the engines, records of a slot, and what stays of
an activation through the operations of the network and of a trap. -/

namespace Sys2Proof.Machine

theorem branch_runs {i : Instr} {x y d : Nat} {f : Nat → Nat → Bool} (h : ∀ s, exec i s = execBranch x y d f s) :
    ARuns i (fun _ a _ => Readable a [x, y]) (fun s a e =>
      if f (a.lo x) (a.lo y) then s.jumpTo a e (branchTarget e d) else s.setCur a.fallThrough) := by
  intro s a rd hr
  rw [h]
  unfold execBranch
  refine dispatch_ok rd ?_
  rw [aBody_ok rd hr rfl]
  by_cases hf : f (a.lo x) (a.lo y) = true <;> simp [hf, decides_ok rd]

theorem queueBranch_runs {i : Instr} {d : Nat} {f : Nat → Bool} {v : Word64} {rest : List Word64} (h : ∀ s, exec i s = execQueueBranch d f s) :
    ARuns i (fun _ a _ => a.q.xaq = v :: rest) (fun s a e =>
      let b : Activation := { a with q := { a.q with xaq := rest } }
      if f v.toNat then s.jumpTo b e (branchTarget e d) else s.setCur b.fallThrough) := by
  intro s a rd hr
  rw [h]
  unfold execQueueBranch
  refine dispatch_ok rd ?_
  simp only [rd.cur, hr]
  rw [aBody_ok rd (readable_nil a) rfl]
  by_cases hf : f v.toNat = true <;> simp [hf, decides_ok rd]

theorem firstBad_none {l : List (Bool × Nat × Nat)} (h : ∀ z ∈ l, z.1 = true) : firstBad l = none := by
  have : l.find? (fun x => !x.1) = none := by
    rw [List.find?_eq_none]
    intro z hz; simp [h z hz]
  simp [firstBad, this]

theorem matrixBody_ok {s : State} {a : Activation} {rs : List Nat} {d arm k : Nat} {chk : State → Activation → Refused}
    {w : State → Activation → Work} {pins : State → Activation → Nat → List (Nat × Nat × Nat)} (r : Ready s .a a)
    (hi : CanIssue s a (matrixId k) (arm == 1)) (hr : Readable a rs) (hc : chk s a = none) :
    matrixBody rs d arm k chk w pins s =
      .ok (issuedMatrix s a (a.headEntry .a) (matrixId k) d (arm == 1) (w s a) (pins s a)) := by
  obtain ⟨h1, h2, h3⟩ := hi
  simp only [matrixBody, orderly_ok r h1, h2, aBody_ok (illegal := fun _ => false) r hr rfl, guardCluster_ok h3, hc,
    Att.need_true, Refused.guard_none]
  rfl

theorem grammarBody_ok {s : State} {a : Activation} {rs : List Nat} {d arm k n : Nat} {f : GrammarCtx → Activation → GrammarOp} (r : Ready s .a a)
    (hi : CanIssue s a (grammarId k) (arm == 1)) (hr : Readable a rs) (hc : grammarChecks (f (s.grammar s.curClu (grammarId k)) a) n = none) :
    grammarBody rs d arm k n f s =
      .ok (issued s a (a.headEntry .a) (grammarId k) d (arm == 1) (.grammar (f (s.grammar s.curClu (grammarId k)) a)) (f (s.grammar s.curClu (grammarId k)) a).pins) := by
  obtain ⟨h1, h2, h3⟩ := hi
  simp only [grammarBody, orderly_ok r h1, h2, aBody_ok (illegal := fun _ => false) r hr rfl, guardCluster_ok h3, hc,
    Att.need_true, Refused.guard_none]
  rfl

theorem chainBody_ok {s : State} {a : Activation} {rs : List Nat} {k : Nat} {idle : Bool} {f : State → Activation → Entry → Att} (r : Ready s .a a)
    (hu : CanUse s a) (hidle : idle = true → s.chainFree (chainId k) = true) (hr : Readable a rs) :
    chainBody rs k idle f s = f s a (a.headEntry .a) := by
  have hb : (!idle || s.chainFree (chainId k)) = true := by
    cases idle
    · rfl
    · simpa using hidle rfl
  simp only [chainBody, orderly_ok r hu.1, hb, aBody_ok (illegal := fun _ => false) r hr rfl, guardCluster_ok hu.2, Att.need_true]

theorem unhold_info (a : Activation) (id : Nat) : (a.unhold id).info = a.info ∧ (a.unhold id).win = a.win := by
  unfold Activation.unhold
  split <;> exact ⟨rfl, rfl⟩

theorem foldl_info (l : List Access) : ∀ a : Activation,
    (l.foldl (fun (t : Activation) (x : Access) => t.unhold x.id) a).info = a.info ∧
    (l.foldl (fun (t : Activation) (x : Access) => t.unhold x.id) a).win = a.win := by
  induction l with
  | nil => intro a; exact ⟨rfl, rfl⟩
  | cons x rest ih => intro a; exact ⟨(ih _).1.trans (unhold_info a x.id).1, (ih _).2.trans (unhold_info a x.id).2⟩

theorem setRegs_info (l : List (Nat × AReg)) : ∀ a : Activation,
    (l.foldl (fun t r => t.setReg r.1 r.2) a).info = a.info ∧ (l.foldl (fun t r => t.setReg r.1 r.2) a).win = a.win := by
  induction l with
  | nil => intro a; exact ⟨rfl, rfl⟩
  | cons x rest ih =>
    intro a
    refine ⟨(ih _).1.trans ?_, (ih _).2.trans ?_⟩ <;> (dsimp only; unfold Activation.setReg; split <;> rfl)

theorem backRegs_info (id : Nat) (l : List (Nat × AReg)) : ∀ a : Activation,
    (l.foldl (Activation.backReg id) a).info = a.info ∧ (l.foldl (Activation.backReg id) a).win = a.win := by
  induction l with
  | nil => intro a; exact ⟨rfl, rfl⟩
  | cons x rest ih =>
    intro a
    refine ⟨(ih _).1.trans ?_, (ih _).2.trans ?_⟩ <;>
      (unfold Activation.backReg Activation.setReg; split <;> (try split) <;> rfl)

theorem fillWalks_info (id : Nat) (l : List (Nat × AReg)) : ∀ a : Activation,
    (l.foldl (fun t r => t.fillWalk id r.1 r.2) a).info = a.info ∧
    (l.foldl (fun t r => t.fillWalk id r.1 r.2) a).win = a.win := by
  induction l with
  | nil => intro a; exact ⟨rfl, rfl⟩
  | cons x rest ih => intro a; exact ⟨(ih _).1, (ih _).2⟩

theorem takeBack_info (a : Activation) (x : Access) : (a.takeBack x).info = a.info ∧ (a.takeBack x).win = a.win := by
  unfold Activation.takeBack
  refine ⟨(unhold_info _ _).1.trans ((fillWalks_info _ _ _).1.trans ?_), (unhold_info _ _).2.trans ((fillWalks_info _ _ _).2.trans ?_)⟩
  · exact (backRegs_info _ _ _).1.trans (setRegs_info _ _).1
  · exact (backRegs_info _ _ _).2.trans (setRegs_info _ _).2

theorem stop_info (a : Activation) : a.stop.info = a.info ∧ a.stop.win = a.win := by
  unfold Activation.stop
  dsimp only
  split
  · exact takeBack_info _ _
  · exact ⟨rfl, rfl⟩

theorem serveSlot_served {s : State} {vf k kind : Nat} {body : Nat → State → State} (h : Served s vf k kind) (hk : kind ≤ 3) :
    s.serveSlot vf k kind body = body (s.slotRec vf k) (serving s vf k) := by
  obtain ⟨h1, h2, h3, h4, h5, h6⟩ := h
  unfold State.slotRec at h5 h6
  have h7 : ¬ (3 < recKind (Sparse.get 0 (s.vf vf).slots k).toNat) := by omega
  unfold State.serveSlot
  dsimp only
  rw [if_neg (by simp [h1, h2]), if_neg (by simp [h3]), if_neg (by simp [h4]), if_neg h7, if_neg (by rw [h6]; exact Bool.false_ne_true),
    if_neg (fun h => h h5)]
  rfl

theorem andThen_next {o : Out} {f : State → Out} {t : State} (h : andThen o f = .next t) : ∃ s, o = .next s ∧ f s = .next t := by
  cases o with
  | next s => exact ⟨s, rfl, h⟩
  | fault r => cases h
  | refused r => cases h

theorem cur_setCur (s : State) (a : Activation) : (s.setCur a).cur? = some a := by simp [State.cur?, State.setCur]

theorem trace_mem (s : State) (c x k d : Nat) : (s.trace c x k d).mem = s.mem ∧ (s.trace c x k d).tags = s.tags ∧ (s.trace c x k d).wlog = s.wlog ∧ (s.trace c x k d).focus = s.focus := by
  unfold State.trace; dsimp only; split <;> exact ⟨rfl, rfl, rfl, rfl⟩

/-- What landing counts keeps of an activation whose counts come from `l`. -/
structure Landed (l : List CountWrite) (b c : Activation) : Prop where
  flow : c.flow = b.flow
  win  : c.win = b.win
  q    : c.q = b.q
  pend : c.pend = b.pend
  info : c.info = b.info
  f    : { c.f with counts := [] } = { b.f with counts := [] }
  counts : ∀ w ∈ c.f.counts, w ∈ l
  regs : ∀ r, (∀ w ∈ l, w.reg ≠ r) → c.reg r = b.reg r

theorem landFrom_same (p q : List Entry) : ∀ (l kept : List CountWrite) (b : Activation),
    Landed (kept ++ l) b (landFrom p q b kept l) := by
  intro l
  induction l with
  | nil => intro kept b; exact ⟨rfl, rfl, rfl, rfl, rfl, rfl, fun w hw => by simpa [landFrom] using hw, fun _ _ => rfl⟩
  | cons w rest ih =>
    intro kept b
    rw [landFrom]
    split
    · have h := ih (kept ++ [w]) b
      rwa [List.append_assoc] at h
    · obtain ⟨h1, h2, h3, h4, h5, h6, h7, h8⟩ := ih kept (b.setReg w.reg (plain64 w.val.toNat))
      have hs : (b.setReg w.reg (plain64 w.val.toNat)).flow = b.flow ∧ (b.setReg w.reg (plain64 w.val.toNat)).win = b.win ∧
          (b.setReg w.reg (plain64 w.val.toNat)).q = b.q ∧ (b.setReg w.reg (plain64 w.val.toNat)).pend = b.pend ∧
          (b.setReg w.reg (plain64 w.val.toNat)).info = b.info ∧ (b.setReg w.reg (plain64 w.val.toNat)).f = b.f := by
        unfold Activation.setReg; split <;> exact ⟨rfl, rfl, rfl, rfl, rfl, rfl⟩
      have sub : ∀ v ∈ kept ++ rest, v ∈ kept ++ w :: rest := fun v hv => by
        rcases List.mem_append.mp hv with h | h
        · exact List.mem_append.mpr (.inl h)
        · exact List.mem_append.mpr (.inr (List.mem_cons_of_mem _ h))
      refine ⟨h1.trans hs.1, h2.trans hs.2.1, h3.trans hs.2.2.1, h4.trans hs.2.2.2.1, h5.trans hs.2.2.2.2.1, ?_, ?_, ?_⟩
      · rw [h6, hs.2.2.2.2.2]
      · intro v hv; exact sub v (h7 v hv)
      · intro r hr
        rw [h8 r (fun v hv => hr v (sub v hv))]
        exact Activation.reg_setReg_of_ne _ _ (hr w (by simp))

theorem landCounts_same (b : Activation) : Landed b.f.counts b b.landCounts := by
  unfold Activation.landCounts
  split
  · exact ⟨rfl, rfl, rfl, rfl, rfl, rfl, fun _ h => h, fun _ _ => rfl⟩
  · exact landFrom_same _ _ _ [] b

theorem queueBranch_stall {s : State} {a : Activation} {i : Instr} {d : Nat} {f : Nat → Bool}
    (hi : ∀ s, exec i s = execQueueBranch d f s) (rd : Ready s .a a) (h : a.q.xaq = []) :
    exec i s = .next { s with verdict := .stalled } := by
  rw [hi]
  unfold execQueueBranch
  refine dispatch_stall rd ?_
  simp only [rd.cur, h]

end Sys2Proof.Machine
end

