-- ==== Sys2Proof/Laws/Home.lean ====
section
/-! SUPPORT. What each operation of a dispatch leaves alone within the part: the lemmas under the frame `StaysHome`. -/

namespace Sys2Proof.Machine

/-! ### The registers of one activation -/

theorem SameRegs.refl (ds : List Nat) (a : Activation) : SameRegs ds a a := ⟨fun _ h => h, fun _ _ _ => rfl⟩

theorem SameRegs.of_eq {ds : List Nat} {a b c : Activation} (h : SameRegs ds a b) (hr : c.regs = b.regs)
    (hc : c.f.counts = b.f.counts) : SameRegs ds a c := by
  refine ⟨fun w hw => h.counts w (hc ▸ hw), fun r h1 h2 => ?_⟩
  rw [← h.regs r h1 h2, Activation.reg, Activation.reg, hr]

theorem SameRegs.setReg {ds : List Nat} {a b : Activation} {d : Nat} {v : AReg} (h : SameRegs ds a b) (hd : d ∈ ds) :
    SameRegs ds a (b.setReg d v) := by
  refine ⟨fun w hw => h.counts w ?_, fun r h1 h2 => ?_⟩
  · revert hw; unfold Activation.setReg; split <;> exact id
  · rw [Activation.reg_setReg_of_ne _ _ (fun e => h1 (by rw [← e]; exact hd)), h.regs r h1 h2]

theorem SameRegs.writeReg {ds : List Nat} {a b : Activation} {q d : Nat} {v : AReg} (h : SameRegs ds a b) (hd : d ∈ ds) :
    SameRegs ds a (b.writeReg q d v) := by
  have h1 := h.setReg (v := v) hd
  refine ⟨fun w hw => h1.counts w ?_, fun r h2 h3 => h1.regs r h2 h3⟩
  exact (List.mem_filter.mp hw).1

theorem SameRegs.awaitReg {ds : List Nat} {a b : Activation} {q d n : Nat} (h : SameRegs ds a b) (hd : d ∈ ds) :
    SameRegs ds a (b.awaitReg q d n) := h.writeReg hd

theorem SameRegs.writeRange {ds : List Nat} {a b : Activation} {q d : Nat} {r : Word64 × Word64} (h : SameRegs ds a b)
    (hd : d ∈ ds) (he : d + 1 ∈ ds) : SameRegs ds a (b.writeRange q d r) := (h.writeReg hd).writeReg he

theorem SameRegs.landFrom {ds : List Nat} {a : Activation} {p q : List Entry} : ∀ (l kept : List CountWrite) (b : Activation),
    SameRegs ds a b → (∀ w ∈ l, w ∈ a.f.counts) → (∀ w ∈ kept, w ∈ a.f.counts) →
    SameRegs ds a (landFrom p q b kept l) := by
  intro l
  induction l with
  | nil => intro kept b h _ hk; exact ⟨hk, h.regs⟩
  | cons w rest ih =>
    intro kept b h hl hk
    unfold Machine.landFrom
    have hw := hl w (List.mem_cons_self ..)
    have hr : ∀ x ∈ rest, x ∈ a.f.counts := fun x hx => hl x (List.mem_cons_of_mem _ hx)
    split
    · refine ih _ _ h hr (fun x hx => ?_)
      rcases List.mem_append.mp hx with h1 | h1
      · exact hk x h1
      · rw [List.mem_singleton.mp h1]; exact hw
    · refine ih _ _ ⟨fun x hx => h.counts x ?_, fun r h1 h2 => ?_⟩ hr hk
      · revert hx; unfold Activation.setReg; split <;> exact id
      · rw [Activation.reg_setReg_of_ne _ _ (h2 w hw), h.regs r h1 h2]

theorem SameRegs.landCounts {ds : List Nat} {a b : Activation} (h : SameRegs ds a b) : SameRegs ds a b.landCounts := by
  unfold Activation.landCounts
  split
  · exact h
  · exact h.landFrom _ _ _ h.counts (fun _ hw => absurd hw List.not_mem_nil)

theorem SameRegs.popHead {ds : List Nat} {a b : Activation} {hf : Half} (h : SameRegs ds a b) :
    SameRegs ds a (b.popHead hf) := by
  unfold Activation.popHead
  have h1 : SameRegs ds a (b.headGone hf) := by unfold Activation.headGone; split <;> exact h.of_eq rfl rfl
  have h2 : SameRegs ds a ((b.headGone hf).setBuf hf (b.buf hf).tail) := by cases hf <;> exact h1.of_eq rfl rfl
  exact h2.landCounts

/-! ### What stays at home -/

theorem SameCluster.refl (c : Cluster) : SameCluster c c := ⟨rfl, fun _ => Iff.rfl⟩

theorem SameCluster.trans {c d e : Cluster} (h : SameCluster c d) (k : SameCluster d e) : SameCluster c e := by
  refine ⟨?_, fun l => (k.2 l).trans (h.2 l)⟩
  rw [k.1, h.1]

theorem StaysHome.refl {ds : List Nat} {a : Activation} {s : State} (h : s.cur? = some a) : StaysHome ds a s s :=
  ⟨rfl, fun _ _ => rfl, fun _ _ => SameCluster.refl _, fun _ b _ h => ⟨b, h, rfl⟩, fun b hb => by
    rw [h] at hb; cases hb; exact SameRegs.refl ds a⟩

/-- A change that leaves the cores, the clusters and the focus. -/
theorem StaysHome.near {ds : List Nat} {a : Activation} {s t u : State} (h : StaysHome ds a s t) (h1 : u.cores = t.cores)
    (h2 : ∀ g, SameCluster (t.cluster g) (u.cluster g)) (h3 : u.focus = t.focus) : StaysHome ds a s u := by
  have hc : ∀ k, u.core k = t.core k := fun k => by rw [State.core, State.core, h1]
  have ha : ∀ k c, u.act? k c = t.act? k c := fun k c => by rw [State.act?, State.act?, hc]
  refine ⟨h3.trans h.focus, fun k hk => (hc k).trans (h.core k hk), fun g hg => (h.cluster g hg).trans (h2 g), fun c b hb h4 => ?_,
    fun b hb => ?_⟩
  · exact h.others c b hb ((ha _ _).symm.trans h4)
  · exact h.own b (by rw [State.cur?, h3] at hb; exact (ha _ _).symm.trans hb)

theorem StaysHome.same {ds : List Nat} {a : Activation} {s t u : State} (h : StaysHome ds a s t) (h1 : u.cores = t.cores)
    (h2 : u.clusters = t.clusters) (h3 : u.focus = t.focus) : StaysHome ds a s u :=
  h.near h1 (fun g => by rw [State.cluster, State.cluster, h2]; exact SameCluster.refl _) h3

theorem StaysHome.setCluster {ds : List Nat} {a : Activation} {s t : State} {g : Nat} {c : Cluster} (h : StaysHome ds a s t)
    (hg : g = s.curClu) : StaysHome ds a s (t.setCluster g c) :=
  ⟨h.focus, h.core, fun j hj => by rw [State.cluster_setCluster_of_ne _ _ (by omega)]; exact h.cluster j hj, h.others, h.own⟩

/-- The own core changes, its activations not. -/
theorem StaysHome.setCore {ds : List Nat} {a : Activation} {s t : State} {k : Nat} {c : Core} (h : StaysHome ds a s t)
    (hk : k = s.focus.core)
    (h1 : ∀ j b, j ≠ s.focus.ctx → Sparse.look c.acts j = some b →
      ∃ o, Sparse.look (t.core k).acts j = some o ∧ b = { o with flow := b.flow })
    (h2 : ∀ b, Sparse.look c.acts s.focus.ctx = some b → SameRegs ds a b) : StaysHome ds a s (t.setCore k c) := by
  subst hk
  refine ⟨h.focus, fun j hj => ?_, h.cluster, fun j b hj hb => ?_, fun b hb => ?_⟩
  · rw [State.core_setCore_of_ne _ _ (Ne.symm hj)]; exact h.core j hj
  · rw [State.act?, State.core_setCore_self] at hb
    obtain ⟨o, ho, e⟩ := h1 j b hj hb
    obtain ⟨p, hp, e2⟩ := h.others j o hj ho
    refine ⟨p, hp, ?_⟩
    rw [e2] at e; exact e
  · rw [State.cur?, State.act?] at hb
    have : (t.setCore s.focus.core c).focus = s.focus := h.focus
    rw [this, State.core_setCore_self] at hb
    exact h2 b hb

theorem StaysHome.look {ds : List Nat} {a : Activation} {s t : State} (h : StaysHome ds a s t) {b : Activation}
    (e : Sparse.look (t.core s.focus.core).acts s.focus.ctx = some b) : SameRegs ds a b :=
  h.own b (by rw [State.cur?, State.act?, h.focus]; exact e)

/-- The own core changes but for its activations. -/
theorem StaysHome.setCore' {ds : List Nat} {a : Activation} {s t : State} {k : Nat} {c : Core} (h : StaysHome ds a s t)
    (hk : k = s.focus.core) (hc : c.acts = (t.core k).acts) : StaysHome ds a s (t.setCore k c) :=
  h.setCore hk (fun _ _ _ hb => ⟨_, hc ▸ hb, rfl⟩) (fun _ hb => h.look (hk ▸ hc ▸ hb))

theorem StaysHome.setCurCore {ds : List Nat} {a : Activation} {s t : State} {c : Core} (h : StaysHome ds a s t)
    (hc : c.acts = t.curCore.acts) : StaysHome ds a s (t.setCurCore c) :=
  h.setCore' (by rw [h.focus]) hc

theorem StaysHome.setCur {ds : List Nat} {a b : Activation} {s t : State} (h : StaysHome ds a s t) (hb : SameRegs ds a b) :
    StaysHome ds a s (t.setCur b) := by
  unfold State.setCur State.setActAt
  rw [h.focus]
  refine h.setCore rfl (fun j x hj hx => ⟨x, ?_, rfl⟩) (fun x hx => ?_)
  · rwa [Sparse.look_put_of_ne _ _ (Ne.symm hj)] at hx
  · rw [Sparse.look_put_self] at hx; cases hx; exact hb

/-- An activation of the core changes its standing. -/
theorem StaysHome.setFlow {ds : List Nat} {a : Activation} {s t : State} {k c : Nat} {x y : Activation} (h : StaysHome ds a s t)
    (hk : k = s.focus.core) (hx : t.act? k c = some x) (e : y = { x with flow := y.flow }) :
    StaysHome ds a s (t.setActAt k c y) := by
  subst hk
  unfold State.setActAt
  refine h.setCore rfl (fun j b hj hb => ?_) (fun b hb => ?_)
  · by_cases hc : c = j
    · subst hc; rw [Sparse.look_put_self] at hb; cases hb; exact ⟨x, hx, e⟩
    · rw [Sparse.look_put_of_ne _ _ hc] at hb; exact ⟨b, hb, rfl⟩
  · by_cases hc : c = s.focus.ctx
    · subst hc; rw [Sparse.look_put_self] at hb; cases hb
      exact (h.look hx).of_eq (by rw [e]) (by rw [e])
    · rw [Sparse.look_put_of_ne _ _ hc] at hb; exact h.look hb

theorem StaysHome.send {ds : List Nat} {a : Activation} {s t : State} {x : Agent} {p : Place} {b : Body}
    (h : StaysHome ds a s t) : StaysHome ds a s (t.send x p b) := h.same rfl rfl rfl
theorem StaysHome.takeId {ds : List Nat} {a : Activation} {s t : State} (h : StaysHome ds a s t) :
    StaysHome ds a s t.takeId := h.same rfl rfl rfl
theorem StaysHome.verdict {ds : List Nat} {a : Activation} {s t : State} {v : Verdict} (h : StaysHome ds a s t) :
    StaysHome ds a s { t with verdict := v } := h.same rfl rfl rfl
theorem StaysHome.accs {ds : List Nat} {a : Activation} {s t : State} {l : List Access} (h : StaysHome ds a s t) :
    StaysHome ds a s { t with accs := l } := h.same rfl rfl rfl
theorem StaysHome.pins {ds : List Nat} {a : Activation} {s t : State} {l : List Pin} (h : StaysHome ds a s t) :
    StaysHome ds a s { t with pins := l } := h.same rfl rfl rfl

theorem StaysHome.foldl {ds : List Nat} {a : Activation} {s : State} {α : Type} {f : State → α → State}
    (hf : ∀ t x, StaysHome ds a s t → StaysHome ds a s (f t x)) :
    ∀ (l : List α) {t : State}, StaysHome ds a s t → StaysHome ds a s (l.foldl f t) := by
  intro l
  induction l with
  | nil => intro t h; exact h
  | cons x rest ih => intro t h; exact ih (hf _ _ h)

theorem StaysHome.trace {ds : List Nat} {a : Activation} {s t : State} {k c kind data : Nat} (h : StaysHome ds a s t)
    (hk : k = s.focus.core) : StaysHome ds a s (t.trace k c kind data) := by
  dsimp only [State.trace]
  split
  · exact h
  · exact h.setCluster (by rw [hk]; rfl)

/-- The activation in focus changes, wherever it is named. -/
theorem StaysHome.setOwn {ds : List Nat} {a b : Activation} {s t : State} {k c : Nat} (h : StaysHome ds a s t)
    (hk : k = s.focus.core) (hc : c = s.focus.ctx) (hb : SameRegs ds a b) : StaysHome ds a s (t.setActAt k c b) := by
  have h1 := h.setCur hb
  unfold State.setCur at h1
  rw [h.focus, ← hk, ← hc] at h1
  exact h1

theorem SameRegs.rehint {ds : List Nat} {a b : Activation} {hf : Half} (h : SameRegs ds a b) : SameRegs ds a (b.rehint hf) := by
  cases hf <;> exact h.of_eq rfl rfl

theorem StaysHome.trapAt {ds : List Nat} {a : Activation} {s t : State} {k c : Nat} {hf : Half} {e : Entry} {late : Bool}
    {cause val : Nat} {pc : BitVec 14} (h : StaysHome ds a s t) (hk : k = s.focus.core) (hc : c = s.focus.ctx) :
    StaysHome ds a s (t.trapAt k c hf e late cause val pc) := by
  unfold State.trapAt
  split
  · exact h
  · rename_i x hx
    dsimp only
    refine StaysHome.trace (StaysHome.setOwn (StaysHome.setCore' h hk ?_) hk hc ?_) hk
    · rfl
    · have h1 : SameRegs ds a x := h.own x (by rw [State.cur?, h.focus, ← hk, ← hc]; exact hx)
      exact h1.rehint.of_eq rfl rfl

theorem StaysHome.dispatched {ds : List Nat} {a : Activation} {s t : State} {e : Entry} (h : StaysHome ds a s t) :
    StaysHome ds a s (t.dispatched e) := by
  unfold State.dispatched
  split
  · exact h.verdict
  · rename_i x hx
    dsimp only
    refine StaysHome.verdict (StaysHome.setCur (StaysHome.setCurCore h (Core.issued_acts _ _ _ _)) ?_)
    exact (h.own x hx).of_eq (Activation.yields_regs _ _ _ _) (congrArg ActFetch.counts (Activation.yields_f _ _ _ _))

theorem StaysHome.finish {ds : List Nat} {a : Activation} {s t : State} {hf : Half} (h : StaysHome ds a s t) :
    StaysHome ds a s (t.finish hf) := by
  unfold State.finish
  dsimp only
  split
  · rename_i x hx; exact (h.setCur (h.own x hx).popHead).dispatched
  · exact h.dispatched

/-- A dispatch of an activation outside a gang stays at home when its body does. -/
theorem StaysHome.dispatch {ds : List Nat} {a : Activation} {s t : State} {h : Half} {body : State → Att}
    (hc : s.cur? = some a) (hg : a.flow.gang = none) (hb : (body s).Holds (StaysHome ds a s))
    (e : Machine.dispatch h body s = .next t) : StaysHome ds a s t := by
  have h0 : StaysHome ds a s s := StaysHome.refl hc
  have hcur : s.cur = a := by rw [State.cur, hc]; rfl
  unfold Machine.dispatch at e
  rw [hc] at e
  dsimp only at e
  split at e
  · cases e; exact h0.verdict
  · rw [hg] at e
    dsimp only at e
    split at e
    · cases e; exact h0.verdict
    · cases e
      unfold State.takeTrap
      dsimp only
      rw [hcur, hg]
      exact StaysHome.verdict (h0.trapAt rfl rfl)
    · rename_i w hw; rw [hw] at hb; cases e; exact StaysHome.finish hb
    · rename_i w hw; rw [hw] at hb; cases e; exact StaysHome.dispatched hb
    · rename_i w hw; rw [hw] at hb; cases e; exact StaysHome.verdict hb

end Sys2Proof.Machine

namespace Sys2Proof.Machine

variable {ds : List Nat} {a : Activation} {s t : State}

theorem StaysHome.clu (h : StaysHome ds a s t) : t.curClu = s.curClu := by rw [State.curClu, State.curClu, h.focus]

theorem Sparse.look_map {α : Type} (m : Sparse α) (g : Nat × α → Nat × α) (hg : ∀ e, (g e).1 = e.1) (k : Nat) :
    Sparse.look (m.map g) k = (Sparse.look m k).map (fun v => (g (k, v)).2) := by
  induction m with
  | nil => rfl
  | cons e rest ih =>
    obtain ⟨i, v⟩ := e
    have e1 : g (i, v) = (i, (g (i, v)).2) := Prod.ext (hg _) rfl
    rw [List.map_cons, e1]
    by_cases hk : i = k
    · subst hk; simp [Sparse.look]
    · simp only [Sparse.look, if_neg hk]; exact ih

theorem StaysHome.removeAct {k c : Nat} (h : StaysHome ds a s t) (hk : k = s.focus.core) :
    StaysHome ds a s (t.removeAct k c) := by
  unfold State.removeAct
  split
  · exact h
  · refine h.setCore hk (fun j b _ hb => ?_) (fun b hb => ?_)
    · by_cases hc : c = j
      · subst hc; rw [Sparse.look_drop_self] at hb; cases hb
      · rw [Sparse.look_drop_of_ne _ hc] at hb; exact ⟨b, hb, rfl⟩
    · by_cases hc : c = s.focus.ctx
      · subst hc; rw [Sparse.look_drop_self] at hb; cases hb
      · rw [Sparse.look_drop_of_ne _ hc] at hb; subst hk; exact h.look hb

theorem StaysHome.removeById {k id : Nat} (h : StaysHome ds a s t) (hk : k = s.focus.core) :
    StaysHome ds a s (t.removeById k id) := by
  unfold State.removeById
  split
  · exact h.removeAct hk
  · exact h.setCore' hk (Core.profileSaved_acts _ _ _)

theorem StaysHome.resumeVictims {k : Nat} (h : StaysHome ds a s t) (hk : k = s.focus.core) :
    StaysHome ds a s (t.resumeVictims k) := by
  unfold State.resumeVictims
  dsimp only
  have hl := Sparse.look_map (t.core k).acts (fun e =>
    if ((t.cluster (k / 32)).holder.isNone && (t.region? e.2.info.region).isNone) = true ∨
      ((t.cluster (k / 32)).holder == some e.2.info.region) = true
    then (e.1, { e.2 with flow := { e.2.flow with status := e.2.flow.status.resumed } }) else e)
    (fun e => by split <;> rfl)
  refine h.setCore hk (fun j b _ hb => ?_) (fun b hb => ?_)
  all_goals
    simp only [Bool.or_eq_true] at hb
    rw [hl, Option.map_eq_some_iff] at hb
    obtain ⟨o, ho, rfl⟩ := hb
  · refine ⟨o, ho, ?_⟩
    split <;> rfl
  · subst hk
    have := h.look ho
    split
    · exact this.of_eq rfl rfl
    · exact this

theorem StaysHome.endAct {k c : Nat} (h : StaysHome ds a s t) (hk : k = s.focus.core) : StaysHome ds a s (t.endAct k c) := by
  unfold State.endAct
  split
  · exact h
  · dsimp only
    refine StaysHome.resumeVictims ?_ hk
    split
    · exact ((h.trace hk).removeAct hk).removeById hk
    · exact (h.trace hk).removeAct hk

theorem StaysHome.wcSend {g : Nat} {b : WcBuf} (h : StaysHome ds a s t) (hg : g = s.curClu) :
    StaysHome ds a s (t.wcSend g b) := by
  unfold State.wcSend
  exact (StaysHome.setCluster h hg).send

theorem StaysHome.wcFlush {g : Nat} (h : StaysHome ds a s t) (hg : g = s.curClu) : StaysHome ds a s (t.wcFlush g) :=
  StaysHome.foldl (fun _ _ k => k.wcSend hg) _ h

theorem StaysHome.wcByte {g root pa : Nat} {b : Byte} (h : StaysHome ds a s t) (hg : g = s.curClu) :
    StaysHome ds a s (t.wcByte g root pa b) := by
  unfold State.wcByte
  extract_lets line cl s1 cl1 old i new s2
  have h1 : StaysHome ds a s s1 := by
    show StaysHome ds a s (match cl.wc.find? (fun x => x.line == line) with
    | some _ => t
    | none => match cl.wc with
      | old :: _ => if cl.wc.length < 16 then t else t.wcSend g old
      | [] => t)
    split
    · exact h
    · split
      · split
        · exact h
        · exact h.wcSend hg
      · exact h
  have h2 : StaysHome ds a s s2 := h1.setCluster hg
  split
  · exact h2.wcSend hg
  · exact h2

theorem StaysHome.post {x : Access} {l : List Piece} (h : StaysHome ds a s t) :
    StaysHome ds a s (State.launchAcc.post x t l) := by
  unfold State.launchAcc.post
  dsimp only
  refine StaysHome.foldl (fun u i k => ?_) _ h.accs
  split
  · split
    · exact k.send
    · exact k
  · exact k

theorem StaysHome.launchAcc {x : Access} {ps : List (Piece × Bool)} (h : StaysHome ds a s t) (hx : x.core = s.focus.core) :
    StaysHome ds a s (t.launchAcc x ps) := by
  have hg : x.core / 32 = s.curClu := by rw [hx]; rfl
  unfold State.launchAcc
  dsimp only
  split
  · have h1 := fun l : List (Piece × Bool) => fun r d m => StaysHome.foldl (ds := ds) (a := a) (s := s)
      (f := fun t p => (storeBytes d m p.1).foldl (fun u b => u.wcByte (x.core / 32) r b.1 b.2) t)
      (fun t p k => StaysHome.foldl (fun _ _ k => k.wcByte hg) _ k) l h
    split
    · exact h1 _ _ _ _
    · exact (h1 _ _ _ _).post
  · exact h.post

theorem StaysHome.holdAcc {x : Access} (h : StaysHome ds a s t) (hx : x.core = s.focus.core) :
    StaysHome ds a s (t.holdAcc x) := by
  unfold State.holdAcc
  split
  · split
    · exact h.setFlow hx ‹_› rfl
    · exact h
  · exact h

theorem StaysHome.issueAcc {x : Access} (h : StaysHome ds a s t) (hx : x.core = s.focus.core) :
    StaysHome ds a s (t.issueAcc x) := by
  have hg : x.core / 32 = s.curClu := by rw [hx]; rfl
  unfold State.issueAcc
  split
  · unfold State.sendAcc
    split
    · exact (StaysHome.foldl (fun _ _ k => k.wcSend hg) _ h).holdAcc hx
    · exact h.launchAcc hx
  · exact h.holdAcc hx

theorem StaysHome.emitAcc {b : Activation} {x : Access} (h : StaysHome ds a s t) (hb : SameRegs ds a b)
    (hx : x.core = s.focus.core) : StaysHome ds a s (t.emitAcc b x) := (h.takeId.setCur hb).issueAcc hx

theorem StaysHome.traceJump {p q : BitVec 14} (h : StaysHome ds a s t) : StaysHome ds a s (t.traceJump p q) :=
  h.trace (by rw [h.focus])

theorem StaysHome.jumpTo {b : Activation} {e : Entry} {pc : BitVec 14} (h : StaysHome ds a s t) (hb : SameRegs ds a b) :
    StaysHome ds a s (t.jumpTo b e pc) := by
  unfold State.jumpTo
  refine StaysHome.traceJump (h.setCur (hb.of_eq ?_ ?_)) <;> rfl

theorem StaysHome.setEng {g id : Nat} {x : EngCtx} (h : StaysHome ds a s t) (hg : g = s.curClu) :
    StaysHome ds a s (t.setEng g id x) := h.setCluster hg
theorem StaysHome.setTimeline {g id : Nat} {x : Timeline} (h : StaysHome ds a s t) (hg : g = s.curClu) :
    StaysHome ds a s (t.setTimeline g id x) := h.setCluster hg
theorem StaysHome.setMatrix {g id : Nat} {x : MatrixCtx} (h : StaysHome ds a s t) (hg : g = s.curClu) :
    StaysHome ds a s (t.setMatrix g id x) := h.setCluster hg
theorem StaysHome.setChain {g id : Nat} {x : ChainCtx} (h : StaysHome ds a s t) (hg : g = s.curClu) :
    StaysHome ds a s (t.setChain g id x) := h.setCluster hg
theorem StaysHome.setGrammar {g id : Nat} {x : GrammarCtx} (h : StaysHome ds a s t) (hg : g = s.curClu) :
    StaysHome ds a s (t.setGrammar g id x) := h.setCluster hg
theorem StaysHome.setCopyProg {g id : Nat} {x : CopyProg} (h : StaysHome ds a s t) (hg : g = s.curClu) :
    StaysHome ds a s (t.setCopyProg g id x) := h.setCluster hg
theorem StaysHome.setRun {g id : Nat} {x : Run} (h : StaysHome ds a s t) (hg : g = s.curClu) :
    StaysHome ds a s (t.setRun g id x) := h.setEng hg
theorem StaysHome.pulse {g l : Nat} (h : StaysHome ds a s t) (hg : g = s.curClu) : StaysHome ds a s (t.pulse g l) :=
  h.setCluster hg
theorem StaysHome.dropPins {f : Pin → Bool} (h : StaysHome ds a s t) : StaysHome ds a s (t.dropPins f) := h.same rfl rfl rfl
/-- An activation outside a gang holds the slot of its own core only. -/
theorem StaysHome.lockMembers (h : StaysHome ds a s t) (hg : a.flow.gang = none) : StaysHome ds a s (t.lockMembers a) := by
  unfold State.lockMembers
  rw [hg]
  exact h.setCore' (by rw [h.focus]) rfl

theorem StaysHome.faultMessage {x : Agent} {sc : Nat} {r : Option Nat} {c k p m e v n : Nat} (h : StaysHome ds a s t) :
    StaysHome ds a s (t.faultMessage x sc r c k p m e v n) := by
  unfold State.faultMessage State.faultMessageAt
  split
  · exact h.send
  · exact h.same rfl rfl rfl

theorem StaysHome.sendFault {g id : Nat} (h : StaysHome ds a s t) (hg : g = s.curClu) : StaysHome ds a s (t.sendFault g id) := by
  unfold State.sendFault
  dsimp only
  split
  · exact (h.setRun hg).faultMessage
  · exact h

theorem sendFault_curClu (s : State) (g id : Nat) : (s.sendFault g id).curClu = s.curClu := by
  unfold State.sendFault
  dsimp only
  split
  · unfold State.sendEngFault State.faultMessage State.faultMessageAt
    split <;> rfl
  · rfl

theorem StaysHome.unpin {g id op : Nat} (h : StaysHome ds a s t) (hg : g = s.curClu) : StaysHome ds a s (t.unpin g id op) :=
  (h.setEng hg).dropPins

theorem StaysHome.performEng {g id : Nat} (h : StaysHome ds a s t) (hg : g = s.curClu) :
    StaysHome ds a s (t.performEng g id) := by
  unfold State.performEng
  dsimp only
  split
  · exact h
  · exact (((h.unpin hg).setEng hg).setTimeline hg).pulse hg

theorem StaysHome.endChain {g id : Nat} (h : StaysHome ds a s t) (hg : g = s.curClu) : StaysHome ds a s (t.endChain g id) := by
  unfold State.endChain
  exact (StaysHome.setCluster (h.setChain hg) hg).performEng hg

theorem StaysHome.releaseMacros {g id : Nat} {ms : List Nat} (h : StaysHome ds a s t) (hg : g = s.curClu) :
    StaysHome ds a s (t.releaseMacros g id ms) := by
  unfold State.releaseMacros
  exact (StaysHome.setCluster (h.setMatrix hg) hg).dropPins

theorem StaysHome.takeFiring {u : State} {g id : Nat} (h : StaysHome ds a s t) (hg : g = s.curClu)
    (e : t.takeFiring g id = some u) : StaysHome ds a s u := by
  simp only [State.takeFiring, Option.map_eq_some_iff] at e
  obtain ⟨k, _, rfl⟩ := e
  exact h.setCluster hg

theorem StaysHome.issueEng {g id core r : Nat} {arm : Bool} {ws : List Nat} {w : Work} (h : StaysHome ds a s t)
    (hg : g = s.curClu) : StaysHome ds a s (t.issueEng g id core r arm ws w).1 := by
  unfold State.issueEng
  dsimp only
  refine StaysHome.setEng ?_ hg
  split
  · split
    · exact (h.setTimeline hg).takeFiring hg ‹_›
    · exact h.setTimeline hg
  · exact h.setTimeline hg

theorem StaysHome.engWalk {g id r va : Nat} (h : StaysHome ds a s t) (hg : g = s.curClu) :
    StaysHome ds a s (t.engWalk g id r va) := by
  unfold State.engWalk
  dsimp only
  split
  · exact h
  · exact h.takeId.setEng hg

theorem StaysHome.askRuns {g id : Nat} {q : PinAsk} {p : PinRange} (h : StaysHome ds a s t) (hg : g = s.curClu) :
    StaysHome ds a s (t.askRuns g id q p) :=
  (StaysHome.foldl (fun _ _ k => StaysHome.foldl (fun _ _ k => k.send) _ k) _ h).setEng hg

theorem Activation.unhold_eq (x : Activation) (n : Nat) : x.unhold n = { x with flow := (x.unhold n).flow } := by
  unfold Activation.unhold
  split <;> rfl

/-- Letting go of A heads of the own core changes their standing only. -/
theorem StaysHome.unholdPins {k n : Nat} (h : StaysHome ds a s t) (hk : n ≠ 0 → k = s.focus.core) :
    StaysHome ds a s (t.unholdPins k n) := by
  unfold State.unholdPins
  split
  · exact h
  · rename_i hn
    have hl := Sparse.look_map (t.core k).acts (fun e => (e.1, e.2.unhold n)) (fun _ => rfl)
    refine h.setCore (hk hn) (fun j b _ hb => ?_) (fun b hb => ?_)
    all_goals
      rw [hl, Option.map_eq_some_iff] at hb
      obtain ⟨o, ho, rfl⟩ := hb
    · exact ⟨o, ho, Activation.unhold_eq o n⟩
    · have := h.look ((hk hn) ▸ ho)
      rw [Activation.unhold_eq]
      exact this.of_eq rfl rfl

theorem StaysHome.servePins {g id : Nat} (hg : g = s.curClu) : ∀ (l : List PinAsk) {t : State},
    (∀ q ∈ l, q.hold ≠ 0 → q.core = s.focus.core) → StaysHome ds a s t → StaysHome ds a s (State.servePins g id l t) := by
  intro l
  induction l with
  | nil => intro t _ h; exact h.setEng hg
  | cons q rest ih =>
    intro t hl h
    unfold State.servePins
    dsimp only
    split
    · refine ih (fun x hx => hl x (List.mem_cons_of_mem _ hx)) ?_
      split
      · exact h.askRuns hg
      · exact (h.askRuns hg).unholdPins (hl q (List.mem_cons_self ..))
    · exact ((h.askRuns hg).setEng hg).engWalk hg

theorem StaysHome.askPins {g id : Nat} {l : List PinAsk} (h : StaysHome ds a s t) (hg : g = s.curClu)
    (hl : ∀ q ∈ l, q.hold ≠ 0 → q.core = s.focus.core) : StaysHome ds a s (t.askPins g id l) := by
  unfold State.askPins
  dsimp only
  split
  · exact h
  · split
    · exact StaysHome.servePins hg _ hl h
    · exact h.setEng hg

theorem StaysHome.resumeRun {g id : Nat} (h : StaysHome ds a s t) (hg : g = s.curClu) : StaysHome ds a s (t.resumeRun g id) := by
  unfold State.resumeRun
  dsimp only
  refine (h.setEng hg).askPins hg (fun q hq hn => ?_)
  obtain ⟨y, _, rfl⟩ := List.mem_map.mp hq
  exact absurd rfl hn

theorem StaysHome.copyResume {g k : Nat} (h : StaysHome ds a s t) (hg : g = s.curClu) :
    StaysHome ds a s (t.copyResume g k) := (h.setCopyProg hg).resumeRun hg

/-- The registers of the activation in focus, where there is one. -/
theorem StaysHome.regs (h : StaysHome ds a s t) (hn : t.cur?.isSome) : SameRegs ds a t.cur := by
  obtain ⟨x, hx⟩ := Option.isSome_iff_exists.mp hn
  rw [State.cur, hx]
  exact h.own x hx

/-- The cores of a state but for the debug unit's note of an operation. -/
theorem StaysHome.enqueueOut {o : Outgoing} (h : StaysHome ds a s t) (ht : t.cur? = some a) :
    StaysHome ds a s (t.enqueueOut o) := by
  unfold State.enqueueOut
  dsimp only
  have hc : t.cur = a := by rw [State.cur, ht]; rfl
  refine StaysHome.setCurCore (h.setCur ?_) rfl
  rw [hc]; exact (SameRegs.refl ds a).of_eq rfl rfl

theorem StaysHome.countTaken {k : Nat} {r : Word64 × Word64} (h : StaysHome ds a s t) (hk : k = s.focus.core) :
    StaysHome ds a s (t.countTaken k r) := by
  unfold State.countTaken
  dsimp only
  split
  · exact h
  · exact h.setCore' hk rfl

theorem StaysHome.serveSteal {k : Nat} (h : StaysHome ds a s t) (hk : k = s.focus.core) :
    StaysHome ds a s (t.serveSteal k).1 := h.setCore' hk rfl

/-- Changes of memory and of the records of its units keep at home. -/
theorem StaysHome.mem {u : State} (h : StaysHome ds a s t) (h1 : u.cores = t.cores) (h2 : u.clusters = t.clusters)
    (h3 : u.focus = t.focus) : StaysHome ds a s u := h.same h1 h2 h3

end Sys2Proof.Machine

namespace Sys2Proof.Machine

/-- The cores and the focus stand. -/
def SameCores (s t : State) : Prop := t.cores = s.cores ∧ t.focus = s.focus

theorem SameCores.cur? {s t : State} (h : SameCores s t) : t.cur? = s.cur? := by
  rw [State.cur?, State.cur?, State.act?, State.act?, State.core, State.core, h.1, h.2]

theorem SameCores.foldl {s : State} {α : Type} {f : State → α → State} (hf : ∀ t x, SameCores s t → SameCores s (f t x)) :
    ∀ (l : List α) {t : State}, SameCores s t → SameCores s (l.foldl f t) := by
  intro l
  induction l with
  | nil => intro t h; exact h
  | cons x rest ih => intro t h; exact ih (hf _ _ h)

theorem SameCores.trace {s t : State} {k c kind d : Nat} (h : SameCores s t) : SameCores s (t.trace k c kind d) := by
  dsimp only [State.trace]; split
  · exact h
  · exact h

theorem SameCores.issueEng {s t : State} {g id core r : Nat} {arm : Bool} {ws : List Nat} {w : Work} (h : SameCores s t) :
    SameCores s (t.issueEng g id core r arm ws w).1 := by
  unfold State.issueEng
  dsimp only
  split
  · split
    · rename_i u hu
      simp only [State.takeFiring, Option.map_eq_some_iff] at hu
      obtain ⟨k, _, rfl⟩ := hu
      exact h
    · exact h
  · exact h

/-- The activation in focus is there in both states, or in none. -/
def SameHere (s t : State) : Prop := t.focus = s.focus ∧ t.cur?.isSome = s.cur?.isSome

theorem SameHere.refl (s : State) : SameHere s s := ⟨rfl, rfl⟩

theorem SameHere.trans {s t u : State} (h : SameHere s t) (k : SameHere t u) : SameHere s u := ⟨k.1.trans h.1, k.2.trans h.2⟩

theorem SameCores.here {s t : State} (h : SameCores s t) : SameHere s t := ⟨h.2, by rw [h.cur?]⟩

theorem SameHere.setCur (s : State) (a : Activation) (h : s.cur?.isSome) : SameHere s (s.setCur a) :=
  ⟨rfl, by rw [State.cur?_setCur, h]; rfl⟩

theorem SameHere.setCurCore (s : State) (c : Core) (h : c.acts = s.curCore.acts) : SameHere s (s.setCurCore c) := by
  refine ⟨rfl, ?_⟩
  have h1 : (s.setCurCore c).cur? = s.cur? := by
    simp only [State.cur?, State.act?, State.setCurCore]
    have : ∀ (u : State) (k : Nat) (c : Core), (u.setCore k c).focus = u.focus := fun _ _ _ => rfl
    rw [this, State.core_setCore_self, h]
    rfl
  rw [h1]

theorem SameHere.unholdPins (t : State) (k n : Nat) : SameHere t (t.unholdPins k n) := by
  unfold State.unholdPins
  split
  · exact SameHere.refl t
  · refine ⟨rfl, ?_⟩
    have hl := Sparse.look_map (t.core k).acts (fun e => (e.1, e.2.unhold n)) (fun _ => rfl)
    by_cases hk : k = t.focus.core
    · subst hk
      simp only [State.cur?, State.act?]
      have : ∀ (u : State) (k : Nat) (c : Core), (u.setCore k c).focus = u.focus := fun _ _ _ => rfl
      rw [this, State.core_setCore_self]
      dsimp only
      rw [hl, Option.isSome_map]
    · simp only [State.cur?, State.act?]
      have : ∀ (u : State) (k : Nat) (c : Core), (u.setCore k c).focus = u.focus := fun _ _ _ => rfl
      rw [this, State.core_setCore_of_ne _ _ hk]

theorem SameHere.engWalk (t : State) (g id r va : Nat) : SameHere t (t.engWalk g id r va) := by
  unfold State.engWalk
  dsimp only
  split <;> exact SameHere.refl _

theorem SameHere.askRuns (t : State) (g id : Nat) (q : PinAsk) (p : PinRange) : SameHere t (t.askRuns g id q p) := by
  have h0 : ∀ (u : State) (r : Nat × Nat), SameCores t u → SameCores t (u.sendPins g id q.op q.src r) := fun u r k => by
    unfold State.sendPins
    exact SameCores.foldl (f := fun t pl => t.send q.src pl (.pin { lo := r.1, len := r.2, home := pl, clu := g, ctxId := id, op := q.op }))
      (fun _ _ k => k) _ k
  have h : SameCores t (p.runs.reverse.foldl (fun (u : State) r => u.sendPins g id q.op q.src r) t) :=
    SameCores.foldl h0 _ ⟨rfl, rfl⟩
  exact SameCores.here (t := t.askRuns g id q p) ⟨h.1, h.2⟩

theorem SameHere.servePins (g id : Nat) : ∀ (l : List PinAsk) (t : State), SameHere t (State.servePins g id l t) := by
  intro l
  induction l with
  | nil => intro t; exact SameHere.refl _
  | cons q rest ih =>
    intro t
    unfold State.servePins
    dsimp only
    have h1 := SameHere.askRuns t g id q (t.pinPagesOf g id q)
    split
    · refine SameHere.trans ?_ (ih _)
      split
      · exact h1
      · exact h1.trans (SameHere.unholdPins _ _ _)
    · exact (h1.trans (SameHere.refl _ : SameHere _ ((t.askRuns g id q (t.pinPagesOf g id q)).setEng g id _))).trans
        (SameHere.engWalk _ _ _ _ _)

theorem SameHere.askPins (t : State) (g id : Nat) (l : List PinAsk) : SameHere t (t.askPins g id l) := by
  unfold State.askPins
  dsimp only
  split
  · exact SameHere.refl t
  · split
    · exact SameHere.servePins g id l t
    · exact SameHere.refl _

theorem SameHere.pinRetired (t : State) (id : Nat) (l : List (Nat × Nat × Nat)) (h : t.cur?.isSome) :
    SameHere t (t.pinRetired id l) := by
  unfold State.pinRetired
  dsimp only
  have h1 : SameHere t _ := (SameHere.askPins t.takeId t.curClu id (l.map (fun r =>
    { op := r.1, core := t.focus.core, region := t.cur.info.region, src := .core t.focus.core, va := r.2.1, len := r.2.2, hold := t.nextId })))
  split
  · exact h1.trans (SameHere.setCur _ _ (h1.2.trans h))
  · exact h1

theorem SameHere.retireEng (t : State) (id : Nat) (arm : Bool) (w : Work) (l : List (Nat × Nat)) (h : t.cur?.isSome) :
    SameHere t (t.retireEng id arm w l).1 := by
  unfold State.retireEng
  dsimp only
  have h0 : SameHere t (t.issueEng t.curClu id t.focus.core t.cur.info.region arm (t.unacked t.cur.info.id) w).1 :=
    (SameCores.issueEng ⟨rfl, rfl⟩).here
  have h1 := h0.trans (SameHere.pinRetired _ id (l.map (fun p =>
    ((t.issueEng t.curClu id t.focus.core t.cur.info.region arm (t.unacked t.cur.info.id) w).2, p.1, p.2))) (h0.2.trans h))
  have h2 := fun k c kind d => h1.trans (SameCores.trace (k := k) (c := c) (kind := kind) (d := d) ⟨rfl, rfl⟩).here
  split
  · exact (h2 _ _ _ _).trans (SameHere.setCurCore _ _ rfl)
  · exact h2 _ _ _ _

variable {ds : List Nat} {a : Activation} {s t : State}

theorem StaysHome.pinRetired {id : Nat} {l : List (Nat × Nat × Nat)} (h : StaysHome ds a s t) (hn : t.cur?.isSome) :
    StaysHome ds a s (t.pinRetired id l) := by
  unfold State.pinRetired
  dsimp only
  have h1 := h.takeId.askPins (g := t.curClu) (id := id) (l := l.map (fun r =>
    ({ op := r.1, core := t.focus.core, region := t.cur.info.region, src := .core t.focus.core, va := r.2.1, len := r.2.2
       hold := t.nextId } : PinAsk))) h.clu (fun q hq _ => by
      obtain ⟨y, _, rfl⟩ := List.mem_map.mp hq
      exact congrArg Focus.core h.focus)
  have h2 := SameHere.askPins t.takeId t.curClu id (l.map (fun r =>
    ({ op := r.1, core := t.focus.core, region := t.cur.info.region, src := .core t.focus.core, va := r.2.1, len := r.2.2
       hold := t.nextId } : PinAsk)))
  split
  · exact h1.setCur ((h1.regs (h2.2.trans hn)).of_eq rfl rfl)
  · exact h1

theorem StaysHome.retireEng {id : Nat} {arm : Bool} {w : Work} {l : List (Nat × Nat)} (h : StaysHome ds a s t)
    (hn : t.cur?.isSome) : StaysHome ds a s (t.retireEng id arm w l).1 := by
  unfold State.retireEng
  dsimp only
  have h0 : SameHere t (t.issueEng t.curClu id t.focus.core t.cur.info.region arm (t.unacked t.cur.info.id) w).1 :=
    (SameCores.issueEng ⟨rfl, rfl⟩).here
  have h1 := (((h.issueEng (id := id) (core := t.focus.core) (r := t.cur.info.region) (arm := arm)
    (ws := t.unacked t.cur.info.id) (w := w) h.clu).pinRetired (id := id) (l := l.map (fun p =>
    ((t.issueEng t.curClu id t.focus.core t.cur.info.region arm (t.unacked t.cur.info.id) w).2, p.1, p.2))) (h0.2.trans hn)).trace
    (k := t.focus.core) (c := t.focus.ctx) (kind := 6)
    (data := (t.issueEng t.curClu id t.focus.core t.cur.info.region arm (t.unacked t.cur.info.id) w).2) (by rw [h.focus]))
  split
  · exact StaysHome.setCurCore h1 rfl
  · exact h1

theorem Ready.own {hc : s.cur? = some a} : s.cur = a := by rw [State.cur, hc]; rfl

/-- The outcome of an X body stays at home and writes no register. -/
theorem StaysHome.xBody {op : XOp} {w : Nat} {il : Bool} {f : Csrs → Nat → Nat → Nat → XRes} (hc : s.cur? = some a) :
    (Machine.xBody op w il f s).Holds (StaysHome ds a s) := by
  have hcur : s.cur = a := by rw [State.cur, hc]; rfl
  refine Att.holds_xBody (fun p q z b h1 h2 _ _ => ?_)
  refine StaysHome.setCur (StaysHome.setCurCore (StaysHome.refl hc) ?_) ?_
  · rfl
  · rw [hcur] at h1 h2; exact (SameRegs.refl ds a).of_eq h1 (by rw [h2])

theorem StaysHome.issueBody {e : Entry} {b : Activation} {id d : Nat} {arm : Bool} {w : Work} {l : List (Nat × Nat)}
    (hc : s.cur? = some a) (hb : SameRegs ds a b) (hd : d ∈ ds) :
    (Machine.issueBody s e b id d arm w l).Holds (StaysHome ds a s) := by
  unfold Machine.issueBody
  have hn : (s.setCur b).cur?.isSome := by rw [State.cur?_setCur]; rfl
  have h1 := StaysHome.retireEng (id := id) (arm := arm) (w := w) (l := l) (StaysHome.setCur (StaysHome.refl hc) hb) hn
  exact StaysHome.setCur h1 ((h1.regs ((SameHere.retireEng _ id arm w l hn).2.trans hn)).writeReg hd)

theorem StaysHome.grammarBody {rs : List Nat} {d arm k n : Nat} {f : GrammarCtx → Activation → GrammarOp} (hc : s.cur? = some a)
    (hd : d ∈ ds) : (Machine.grammarBody rs d arm k n f s).Holds (StaysHome ds a s) := by
  refine Att.holds_orderly (Att.holds_need (Att.holds_aBody (Att.holds_guardCluster (Att.holds_guard
    (StaysHome.issueBody hc ?_ hd)))))
  rw [State.cur, hc]
  exact SameRegs.refl ds a

theorem StaysHome.matrixBody {rs : List Nat} {d arm k : Nat} {chk : State → Activation → Refused}
    {w : State → Activation → Work} {pins : State → Activation → Nat → List (Nat × Nat × Nat)} (hc : s.cur? = some a)
    (hd : d ∈ ds) : (Machine.matrixBody rs d arm k chk w pins s).Holds (StaysHome ds a s) := by
  refine Att.holds_orderly (Att.holds_need (Att.holds_aBody (Att.holds_guardCluster (Att.holds_guard (Att.holds_ok ?_)))))
  have hn : s.cur?.isSome := by rw [hc]; rfl
  have n1 := SameHere.retireEng s (matrixId k) (arm == 1) (w s s.cur) [] hn
  have h1 := StaysHome.pinRetired (id := matrixId k)
    (l := pins s s.cur (s.retireEng (matrixId k) (arm == 1) (w s s.cur) []).2)
    (StaysHome.retireEng (ds := ds) (id := matrixId k) (arm := arm == 1) (w := w s s.cur) (l := []) (StaysHome.refl hc) hn) (n1.2.trans hn)
  exact StaysHome.setCur h1 (SameRegs.writeReg
    (h1.regs ((n1.trans (SameHere.pinRetired _ _ _ (n1.2.trans hn))).2.trans hn)) hd)

end Sys2Proof.Machine

namespace Sys2Proof.Machine

variable {ds : List Nat} {a : Activation} {s t : State}

theorem SameRegs.setLdq {b : Activation} {q : Nat} {l : List QEntry} (h : SameRegs ds a b) : SameRegs ds a (b.setLdq q l) := by
  unfold Activation.setLdq; split <;> exact h.of_eq rfl rfl

theorem SameRegs.popRecord {b c : Activation} {r : CopyRec} (h : SameRegs ds a b) (e : popRecord b = some (r, c)) :
    SameRegs ds a c := by
  unfold Machine.popRecord at e
  split at e
  · cases e; exact h.of_eq rfl rfl
  · cases e

/-- Cores and focus stand, and the clusters but for the order of the lines that their atomic engines have checked out. -/
def SameUnits (s t : State) : Prop := t.cores = s.cores ∧ (∀ g, SameCluster (s.cluster g) (t.cluster g)) ∧ t.focus = s.focus

theorem SameUnits.refl (s : State) : SameUnits s s := ⟨rfl, fun _ => SameCluster.refl _, rfl⟩

theorem SameUnits.of_eq {s t u : State} (h : SameUnits s t) (h1 : u.cores = t.cores) (h2 : u.clusters = t.clusters)
    (h3 : u.focus = t.focus) : SameUnits s u :=
  ⟨h1.trans h.1, fun g => by
    have : u.cluster g = t.cluster g := by rw [State.cluster, State.cluster, h2]
    rw [this]; exact h.2.1 g, h3.trans h.2.2⟩

theorem SameUnits.foldl {α : Type} {f : State → α → State} (hf : ∀ s t x, SameUnits s t → SameUnits s (f t x)) :
    ∀ (l : List α) {s t : State}, SameUnits s t → SameUnits s (l.foldl f t) := by
  intro l
  induction l with
  | nil => intro s t h; exact h
  | cons x rest ih => intro s t h; exact ih (hf _ _ _ h)

theorem SameUnits.putBytes : ∀ (l : List Byte) (pa : Nat) {s t : State}, SameUnits s t → SameUnits s (t.putBytes pa l) := by
  intro l
  induction l with
  | nil => intro pa s t h; exact h
  | cons b rest ih => intro pa s t h; exact ih _ (t := t.putByte pa b) (h.of_eq rfl rfl rfl)

/-- A line that is checked out stays so when it is used. -/
theorem SameUnits.caeUse {s t : State} {pa : Nat} (h : SameUnits s t) (hc : t.checkedOut pa = true) : SameUnits s (t.caeUse pa) := by
  have hm : pa / 64 ∈ (t.cluster (caeOf pa)).cae := by
    unfold State.checkedOut at hc
    simpa using ((Bool.and_eq_true _ _).mp hc).2
  refine ⟨h.1, fun g => (h.2.1 g).trans ?_, h.2.2⟩
  unfold State.caeUse
  dsimp only
  by_cases hg : caeOf pa = g
  · subst hg
    rw [State.cluster_setCluster_self]
    refine ⟨rfl, fun l => ?_⟩
    by_cases hl : l = pa / 64
    · subst hl; simp [hm]
    · simp [hl]
  · rw [State.cluster_setCluster_of_ne _ _ hg]; exact SameCluster.refl _

theorem SameUnits.useRange {s t : State} {pa n : Nat} (h : SameUnits s t) : SameUnits s (t.useRange pa n) := by
  unfold State.useRange
  split
  · exact h
  · refine SameUnits.foldl (fun s u i k => ?_) _ h
    dsimp only
    split
    · exact k.caeUse ‹_›
    · exact k

theorem SameUnits.copyUnits {s t : State} {x y n : Nat} (h : SameUnits s t) : SameUnits s (t.copyUnits x y n) := by
  unfold State.copyUnits
  refine SameUnits.foldl (fun s u i k => ?_) _ (SameUnits.putBytes _ _ h.useRange.useRange)
  split
  · exact k.of_eq rfl rfl rfl
  · exact k

theorem SameUnits.saveUnit {s t : State} {r x y : Nat} (h : SameUnits s t) : SameUnits s (t.saveUnit r x y) := by
  unfold State.saveUnit
  split
  · exact h.of_eq rfl rfl rfl
  · exact h.copyUnits

theorem SameUnits.loadUnit {s t : State} {r x y : Nat} (h : SameUnits s t) : SameUnits s (t.loadUnit r x y) := by
  unfold State.loadUnit
  split
  · exact (SameUnits.putBytes (lostUnit t.fresh) y h).of_eq rfl rfl rfl
  · exact h.copyUnits

theorem SameUnits.touch {s t : State} {r pa : Nat} {w : Bool} (h : SameUnits s t) : SameUnits s (t.touch r pa w) := by
  unfold State.touch
  split
  · exact h
  · extract_lets u rec0 restore
    split
    · exact h
    · rename_i base other s1 saved1 s2 _
      have k1 : ∀ o : Option (Nat × Region), SameUnits s (match o with
          | some (r, x) => t.saveUnit r base (unitSave x base)
          | none => t) := by
        intro o
        cases o with
        | none => exact h
        | some x => exact SameUnits.saveUnit h
      have k2 : ∀ (b : Bool) (o : Option Region) (u : State), SameUnits s u → SameUnits s (match b, o with
          | true, some x => u.loadUnit r (unitSave x base) base
          | _, _ => u) := by
        intro b o u hu
        cases b <;> cases o <;> first
          | exact hu
          | exact SameUnits.loadUnit hu
      have k3 : SameUnits s s2 := k2 restore (t.region? r) s1 (k1 other)
      exact k3.of_eq rfl rfl rfl

theorem StaysHome.units {u : State} (h : StaysHome ds a s t) (k : SameUnits t u) : StaysHome ds a s u :=
  h.near k.1 k.2.1 k.2.2

theorem SameUnits.putNat {s t : State} {pa n v : Nat} (h : SameUnits s t) : SameUnits s (t.putNat pa n v) :=
  SameUnits.putBytes _ _ h

theorem StaysHome.putSavedRecord {k : Nat} {v : Saved} {r : TrapRec} (h : StaysHome ds a s t) (hk : k = s.focus.core) :
    StaysHome ds a s (t.putSavedRecord k v r) := by
  unfold State.putSavedRecord
  dsimp only
  split
  · exact h.setCore' hk rfl
  · have h1 := h.setCore' (c := { t.core k with saved := (t.core k).saved.map (fun w =>
      if w.act.info.id == v.act.info.id then { w with record := r } else w) }) hk rfl
    split
    · exact h1.units (SameUnits.putNat (SameUnits.putNat (SameUnits.putNat (SameUnits.useRange (SameUnits.refl _)))))
    · exact h1

theorem StaysHome.setRecordOf {k id : Nat} {r : TrapRec} (h : StaysHome ds a s t) (hk : k = s.focus.core) :
    StaysHome ds a s (t.setRecordOf k id r) := by
  unfold State.setRecordOf
  dsimp only
  split
  · exact h.setCore' hk rfl
  · split
    · exact h.putSavedRecord hk
    · exact h

theorem StaysHome.setTrapRecord {r : TrapRec} (h : StaysHome ds a s t) : StaysHome ds a s (t.setTrapRecord r) := by
  unfold State.setTrapRecord
  split
  · exact h.setRecordOf (by rw [h.focus])
  · exact StaysHome.setCurCore h rfl

theorem StaysHome.setHalt {k : Nat} {b : Bool} (h : StaysHome ds a s t) (hk : k = s.focus.core) :
    StaysHome ds a s (t.setHalt k b) := by
  unfold State.setHalt
  dsimp only
  split
  · exact h
  · refine StaysHome.trace (StaysHome.setCore' h hk ?_) hk
    split <;> rfl

theorem StaysHome.askStep {k c : Nat} (h : StaysHome ds a s t) (hk : k = s.focus.core) :
    StaysHome ds a s (t.askStep k c) := by
  unfold State.askStep
  dsimp only
  split
  · exact h.setCore' hk rfl
  · exact h

theorem StaysHome.writeDbgctl {k v : Nat} (h : StaysHome ds a s t) (hk : k = s.focus.core) :
    StaysHome ds a s (t.writeDbgctl k v) := by
  unfold State.writeDbgctl
  dsimp only
  split
  · exact StaysHome.askStep (StaysHome.setCore' (h.setHalt hk) hk rfl) hk
  · exact StaysHome.setCore' (h.setHalt hk) hk rfl

theorem StaysHome.csrWrite {k n v : Nat} (h : StaysHome ds a s t) (hk : k = s.focus.core) :
    StaysHome ds a s (t.csrWrite k n v) := by
  have hg : k / 32 = s.curClu := by rw [hk]; rfl
  have h1 : ∀ x : Csrs, StaysHome ds a s (t.setCore k { t.core k with csr := x }) := fun x => h.setCore' hk rfl
  have h2 : ∀ x : SignalBox, StaysHome ds a s (t.setCluster (k / 32) { t.cluster (k / 32) with sb := x }) :=
    fun x => h.setCluster hg
  unfold State.csrWrite
  extract_lets c g cl csr sb
  split
  · split
    · exact h1 _
    · exact h
  · exact h.setTrapRecord
  · exact h.setTrapRecord
  · exact h.setTrapRecord
  · exact h1 _
  · exact h1 _
  · exact h1 _
  · exact h1 _
  · exact h1 _
  · exact h2 _
  · exact h2 _
  · exact h1 _
  · exact h.setCore' hk rfl
  · exact h.writeDbgctl hk
  · exact h1 _
  · split
    · exact h.setCluster hg
    · exact h
  · exact h

end Sys2Proof.Machine
end

