-- ==== Sys2Proof/Laws/Fetch.lean ====
section
/-! SUPPORT. What fetching leaves of an activation whose next word has been fetched (02 R13, 08 R130). -/

namespace Sys2Proof.Machine

/-- What fetching keeps of an activation whose head `e` in half `h` has been fetched first. -/
structure Led (h : Half) (e : Entry) (a b : Activation) : Prop where
  flow : b.flow = a.flow
  info : b.info = a.info
  head : (b.buf h).head? = some e
  rest : ∀ h' x, x ∈ b.buf h' → (h' = h ∧ x = e) ∨ e.seq < x.seq
  next : e.seq < b.f.nextSeq

theorem Led.fetchWord {h : Half} {e : Entry} {a b c : Activation} {xb w : Nat} (l : Led h e a b)
    (hf : b.fetchWord xb w = some c) : Led h e a c := by
  have app : ∀ (d : Activation) (h1 : Half) (x : Entry), (d.buf h1 = b.buf h1 ++ [x]) → (∀ h2, h2 ≠ h1 → d.buf h2 = b.buf h2) →
      d.flow = b.flow → d.info = b.info → x.seq = b.f.nextSeq → d.f.nextSeq = b.f.nextSeq + 1 → Led h e a d := by
    intro d h1 x e1 e2 e3 e4 e5 e6
    refine ⟨e3.trans l.flow, e4.trans l.info, ?_, ?_, by rw [e6]; exact Nat.lt_succ_of_lt l.next⟩
    · by_cases hh : h = h1
      · subst hh; rw [e1]
        cases hb : b.buf h with
        | nil => have := l.head; rw [hb] at this; cases this
        | cons y r => have := l.head; rw [hb] at this; simpa using this
      · rw [e2 h hh]; exact l.head
    · intro h' y hy
      by_cases hh : h' = h1
      · subst hh; rw [e1] at hy
        rcases List.mem_append.mp hy with hy | hy
        · exact l.rest _ _ hy
        · simp at hy; subst hy; right; rw [e5]; exact l.next
      · rw [e2 h' hh] at hy; exact l.rest _ _ hy
  unfold Activation.fetchWord at hf
  dsimp only at hf
  generalize (if b.f.wrapped = true then 0x10000 else 4 * b.f.pc.toNat) = addr at hf
  generalize (if b.f.seqHints.isEmpty = true then b.f.pc else b.f.seqPc) = fst at hf
  generalize hbuf : (if isXWord w = true then b.f.xbuf else b.f.abuf) = buf at hf
  split at hf
  · cases hf
  · split at hf
    · split at hf
      · cases hf
        refine app _ .a _ rfl (fun h2 hh => ?_) rfl rfl rfl rfl
        cases h2 <;> first | rfl | exact absurd rfl hh
      · cases hf
    · split at hf
      · split at hf
        · cases hf
          refine app _ .a _ rfl (fun h2 hh => ?_) rfl rfl rfl rfl
          cases h2 <;> first | rfl | exact absurd rfl hh
        · cases hf
      · split at hf
        · cases hf
          exact ⟨l.flow, l.info, by have := l.head; cases h <;> exact this,
            fun h' x hx => l.rest h' x (by cases h' <;> exact hx), l.next⟩
        · split at hf
          · cases hf
          · cases hf
            by_cases hx : isXWord w = true
            · refine app _ .x { pc := fst, wpc := b.f.pc, hints := b.f.seqHints, word := BitVec.ofNat 32 w, seq := b.f.nextSeq } ?_ (fun h2 hh => ?_) ?_ ?_ rfl ?_
              · split <;> simp [Activation.buf, Activation.stepPc, hx]
              · cases h2
                · split <;> simp [Activation.buf, Activation.stepPc, hx]
                · exact absurd rfl hh
              · split <;> rfl
              · split <;> rfl
              · split <;> rfl
            · refine app _ .a { pc := fst, wpc := b.f.pc, hints := b.f.seqHints, word := BitVec.ofNat 32 w, seq := b.f.nextSeq } ?_ (fun h2 hh => ?_) ?_ ?_ rfl ?_
              · split <;> simp [Activation.buf, Activation.stepPc, hx]
              · cases h2
                · exact absurd rfl hh
                · split <;> simp [Activation.buf, Activation.stepPc, hx]
              · split <;> rfl
              · split <;> rfl
              · split <;> rfl

theorem first_fetch {a : Activation} {xb w : Nat} (hs : a.f.stop = .running) (hw : a.f.wrapped = false)
    (hx : 4 * a.f.pc.toNat < xb) (ha : a.f.abuf = []) (hb : a.f.xbuf = []) (hl : a.f.loops = []) (hh : a.f.seqHints = [])
    (hi : isHint w = false) (hlt : w < 2 ^ 32) :
    ∃ b e, a.fetchWord xb w = some b ∧ Led (halfOf w) e a b ∧ e.word.toNat = w ∧ e.pc = a.f.pc ∧ e.wpc = a.f.pc ∧
      e.hints = [] ∧ e.kind = .word := by
  have hn : ¬ (xb ≤ 4 * a.f.pc.toNat) := by omega
  obtain ⟨b, hf⟩ : ∃ b, b = a.fetchWord xb w := ⟨_, rfl⟩
  have hf' := hf
  unfold Activation.fetchWord at hf
  simp only [hs, hw, hh, hl, ha, hb, hi, bne_self_eq_false, Bool.false_eq_true, if_false, hn, List.any_nil, Bool.and_false,
      Bool.false_and, List.reverse_nil, loopEnds, List.append_nil, List.isEmpty_nil, if_true, ite_self, List.length_nil,
      show ¬ (8 ≤ 0) by decide, List.nil_append] at hf
  rw [hf] at hf'
  refine ⟨_, { pc := a.f.pc, wpc := a.f.pc, hints := [], word := BitVec.ofNat 32 w, seq := a.f.nextSeq }, hf'.symm, ?_,
    by rw [BitVec.toNat_ofNat, Nat.mod_eq_of_lt hlt], rfl, rfl, rfl, rfl⟩
  by_cases hxw : isXWord w = true
  · simp only [halfOf, hxw, if_true]
    refine ⟨rfl, rfl, rfl, ?_, Nat.lt_succ_self _⟩
    intro h' x hx'
    cases h'
    · simp [Activation.buf, Activation.stepPc] at hx'
    · simp [Activation.buf, Activation.stepPc] at hx'; exact .inl ⟨rfl, hx'⟩
  · have hxw : isXWord w = false := by simpa using hxw
    simp only [halfOf, hxw, Bool.false_eq_true, if_false]
    refine ⟨rfl, rfl, rfl, ?_, Nat.lt_succ_self _⟩
    intro h' x hx'
    cases h'
    · simp [Activation.buf, Activation.stepPc] at hx'; exact .inl ⟨rfl, hx'⟩
    · simp [Activation.buf, Activation.stepPc] at hx'

theorem put_single {α : Type} (c : Nat) (a b : α) : Sparse.put [(c, a)] c b = [(c, b)] := by
  simp [Sparse.put, Sparse.drop, Sparse.insert]

theorem ofBytes_lt : ∀ l : List Byte, ofBytes l < 256 ^ l.length := by
  intro l
  induction l with
  | nil => simp [ofBytes]
  | cons b r ih =>
    simp only [ofBytes, List.length_cons, Nat.pow_succ]
    have := b.isLt
    omega

theorem natAt_lt (s : State) (pa n : Nat) : s.natAt pa n < 256 ^ n := by
  have h : ∀ n pa, (s.bytesAt pa n).length = n := by
    intro n; induction n with
    | zero => intro; rfl
    | succ n ih => intro pa; simp [State.bytesAt, ih]
  have := ofBytes_lt (s.bytesAt pa n)
  rwa [h] at this

theorem putBytes_setCore (k : Nat) (c : Core) : ∀ (l : List Byte) (s : State) (pa : Nat),
    (s.setCore k c).putBytes pa l = (s.putBytes pa l).setCore k c := by
  intro l
  induction l with
  | nil => intro s pa; rfl
  | cons b rest ih => intro s pa; exact ih (s.putByte pa b) (pa + 1)

theorem bytesAt_setCore (s : State) (k : Nat) (c : Core) : ∀ (n pa : Nat), (s.setCore k c).bytesAt pa n = s.bytesAt pa n := by
  intro n
  induction n with
  | zero => intro pa; rfl
  | succ n ih => intro pa; rw [State.bytesAt, State.bytesAt, ih]; rfl

theorem useRange_setCore (s : State) (k : Nat) (c : Core) (a n : Nat) :
    (s.setCore k c).useRange a n = (s.useRange a n).setCore k c := by
  unfold State.useRange
  split
  · rfl
  · generalize upTo ((a % 64 + n + 63) / 64) = l
    induction l generalizing s with
    | nil => rfl
    | cons i rest ih =>
      simp only [List.foldl_cons]
      rw [show (s.setCore k c).checkedOut (alignDown a 64 + 64 * i) = s.checkedOut (alignDown a 64 + 64 * i) from rfl]
      split
      · exact ih (s.caeUse (alignDown a 64 + 64 * i))
      · exact ih s

theorem copyUnits_setCore (s : State) (k : Nat) (c : Core) (a b n : Nat) :
    (s.setCore k c).copyUnits a b n = (s.copyUnits a b n).setCore k c := by
  unfold State.copyUnits
  dsimp only
  rw [bytesAt_setCore, useRange_setCore, useRange_setCore, putBytes_setCore]
  generalize ((s.useRange a n).useRange b n).putBytes b (s.bytesAt a n) = t
  generalize upTo (n / 16) = l
  induction l generalizing t with
  | nil => rfl
  | cons i rest ih =>
    simp only [List.foldl_cons]
    rw [show (s.setCore k c).tagAt (a / 16 + i) = s.tagAt (a / 16 + i) from rfl]
    split
    · exact ih (t.putTag (b / 16 + i) true)
    · exact ih t

theorem saveUnit_setCore (s : State) (k : Nat) (c : Core) (r a b : Nat) :
    (s.setCore k c).saveUnit r a b = (s.saveUnit r a b).setCore k c := by
  unfold State.saveUnit
  rw [show (s.setCore k c).isRetired b = s.isRetired b from rfl]
  split
  · rfl
  · exact copyUnits_setCore _ _ _ _ _ _

theorem loadUnit_setCore (s : State) (k : Nat) (c : Core) (r a b : Nat) :
    (s.setCore k c).loadUnit r a b = (s.loadUnit r a b).setCore k c := by
  unfold State.loadUnit
  rw [show (s.setCore k c).isRetired a = s.isRetired a from rfl, show (s.setCore k c).fresh = s.fresh from rfl]
  split
  · rw [putBytes_setCore]; rfl
  · exact copyUnits_setCore _ _ _ _ _ _

/-- Copying a unit of LM or CM for its region touches no core. -/
theorem touch_setCore (s : State) (k : Nat) (c : Core) (r pa : Nat) (w : Bool) :
    (s.setCore k c).touch r pa w = (s.touch r pa w).setCore k c := by
  unfold State.touch
  dsimp only
  simp only [show (s.setCore k c).units = s.units from rfl, show ∀ q, (s.setCore k c).region? q = s.region? q from fun _ => rfl]
  split
  · rfl
  · split
    · rfl
    · cases ho : (Sparse.get ({} : UnitRec) s.units (pa / 4096)).owner with
      | none =>
        dsimp only
        cases s.region? r <;> cases ((Sparse.get ({} : UnitRec) s.units (pa / 4096)).saved.contains r) <;> dsimp only <;>
          first | (rw [loadUnit_setCore]; rfl) | rfl
      | some q =>
        dsimp only
        by_cases hq : q = r
        · rw [if_pos hq]
          dsimp only
          cases s.region? r <;> cases ((Sparse.get ({} : UnitRec) s.units (pa / 4096)).saved.contains r) <;> dsimp only <;>
            first | (rw [loadUnit_setCore]; rfl) | rfl
        · rw [if_neg hq]
          generalize (s.region? q).map (fun x => (q, x)) = o
          generalize (Sparse.get ({} : UnitRec) s.units (pa / 4096)).saved.contains r = v
          generalize s.region? r = m
          cases o <;> cases m <;> cases v <;> dsimp only <;> (try simp only [saveUnit_setCore, loadUnit_setCore]) <;>
            (try generalize State.saveUnit _ _ _ _ = t) <;> (try generalize State.loadUnit _ _ _ _ = t2) <;> rfl

theorem fetchN_led {k c : Nat} {h : Half} {e : Entry} {a : Activation} (hg : a.flow.gang = none) : ∀ (n : Nat) (s : State) (b : Activation),
    (s.core k).acts = [(c, b)] → Led h e a b →
    ∃ d, ((s.fetchN k c n).core k) = { s.core k with acts := [(c, d)] } ∧ Led h e a d := by
  intro n
  induction n with
  | zero => intro s b hb l; exact ⟨b, by rw [State.fetchN, ← hb], l⟩
  | succ n ih =>
    intro s b hb l
    have ha : s.act? k c = some b := by simp [State.act?, hb, Sparse.look]
    simp only [State.fetchN, ha]
    have core_ : (if b.readsWord (s.core k).csr.xb.toNat = true then
        s.touch b.info.region (lmBase k + 4 * b.f.pc.toNat) false else s).core k = s.core k := by
      split
      · rw [State.core, State.core, State.touch_cores]
      · rfl
    split
    · exact ⟨b, by rw [core_, ← hb], l⟩
    · rename_i d hd
      have ld := l.fetchWord hd
      have hbg : b.flow.gang = none := by rw [l.flow]; exact hg
      simp only [hbg]
      have hs1 : ∀ u : State, u.core k = s.core k → ((u.setActAt k c d).core k) = { s.core k with acts := [(c, d)] } :=
        fun u hu => by simp [State.setActAt, hu, hb, put_single]
      have hs1 := hs1 _ core_
      obtain ⟨x, hx, lx⟩ := ih (State.setActAt _ k c d) d (by rw [hs1]) ld
      exact ⟨x, by rw [hx, hs1], lx⟩

end Sys2Proof.Machine
end

