-- ==== Sys2Proof/Laws/Fields.lean ====
section
/-! SUPPORT. The fields and bits of a number after one field was replaced, and the fields of derived capabilities (06 R102). -/

namespace Sys2Proof.Machine


theorem putFld_eq (x lo n v : Nat) :
    putFld x lo n v = (x / 2 ^ lo / 2 ^ n * 2 ^ n + v % 2 ^ n) * 2 ^ lo + x % 2 ^ lo := by
  have h1 := Nat.div_add_mod x (2 ^ lo)
  have h2 := Nat.div_add_mod (x / 2 ^ lo) (2 ^ n)
  have e : x = (x / 2 ^ lo / 2 ^ n * 2 ^ n) * 2 ^ lo + (x / 2 ^ lo % 2 ^ n) * 2 ^ lo + x % 2 ^ lo := by
    rw [← Nat.add_mul, Nat.mul_comm (x / 2 ^ lo / 2 ^ n), h2, Nat.mul_comm, h1]
  rw [putFld, fld, Nat.add_mul]
  generalize (x / 2 ^ lo / 2 ^ n * 2 ^ n) * 2 ^ lo = A at *
  generalize (x / 2 ^ lo % 2 ^ n) * 2 ^ lo = B at *
  omega

theorem fld_putFld_low {x lo n v l k : Nat} (h : l + k ≤ lo) : fld (putFld x lo n v) l k = fld x l k := by
  obtain ⟨j, rfl⟩ := Nat.exists_eq_add_of_le h
  have key : ∀ y, fld y l k = y % 2 ^ (l + k + j) / 2 ^ l % 2 ^ k := by
    intro y
    rw [fld, Nat.add_assoc, Nat.pow_add, Nat.mod_mul_right_div_self, Nat.pow_add, Nat.mod_mul_right_mod]
  rw [key, key x, putFld_eq, Nat.mul_comm, Nat.mul_add_mod, Nat.mod_mod]

theorem putFld_top (x lo n v : Nat) : putFld x lo n v / 2 ^ (lo + n) = x / 2 ^ (lo + n) := by
  rw [putFld_eq, Nat.pow_add, ← Nat.div_div_eq_div_mul, Nat.mul_comm _ (2 ^ lo), Nat.mul_add_div (Nat.two_pow_pos lo),
    Nat.div_eq_of_lt (Nat.mod_lt _ (Nat.two_pow_pos lo)), Nat.add_zero, Nat.mul_comm, Nat.mul_add_div (Nat.two_pow_pos n),
    Nat.div_eq_of_lt (Nat.mod_lt _ (Nat.two_pow_pos n)), Nat.add_zero, Nat.div_div_eq_div_mul]

theorem fld_putFld_same (x lo n v : Nat) : fld (putFld x lo n v) lo n = v % 2 ^ n := by
  rw [fld, putFld_eq, Nat.mul_comm _ (2 ^ lo), Nat.mul_add_div (Nat.two_pow_pos lo),
    Nat.div_eq_of_lt (Nat.mod_lt _ (Nat.two_pow_pos lo)), Nat.add_zero, Nat.mul_comm, Nat.mul_add_mod, Nat.mod_mod]

theorem fld_putFld_high {x lo n v l k : Nat} (h : lo + n ≤ l) : fld (putFld x lo n v) l k = fld x l k := by
  obtain ⟨j, rfl⟩ := Nat.exists_eq_add_of_le h
  rw [fld, fld, Nat.pow_add, ← Nat.div_div_eq_div_mul, putFld_top, Nat.div_div_eq_div_mul]

theorem putFld_lt {x lo n v m : Nat} (hx : x < 2 ^ m) (h : lo + n ≤ m) : putFld x lo n v < 2 ^ m := by
  obtain ⟨j, rfl⟩ := Nat.exists_eq_add_of_le h
  rw [Nat.pow_add] at hx ⊢
  have := (Nat.div_lt_iff_lt_mul (Nat.two_pow_pos (lo + n))).mpr ((Nat.mul_comm _ _) ▸ hx)
  rw [← putFld_top x lo n v] at this
  exact (Nat.mul_comm (2 ^ j) _) ▸ (Nat.div_lt_iff_lt_mul (Nat.two_pow_pos (lo + n))).mp this

theorem fld_lt (x lo n : Nat) : fld x lo n < 2 ^ n := Nat.mod_lt _ (Nat.two_pow_pos n)

theorem bitAt_eq (x i : Nat) : bitAt x i = x.testBit i := by
  rw [bitAt, Nat.testBit_eq_decide_div_mod_eq]
  by_cases h : x / 2 ^ i % 2 = 1 <;> simp [h]

theorem bitAt_iff (x i : Nat) : bitAt x i = true ↔ x / 2 ^ i % 2 = 1 := by simp [bitAt]

theorem bitAt_permsOf (p k b : Nat) (hb : b < 12) :
    bitAt (permsOf p k) b = if b = 6 then bitAt p 6 || bitAt k 6 else decide (b < 10) && bitAt p b && bitAt k b := by
  have hc : b = 0 ∨ b = 1 ∨ b = 2 ∨ b = 3 ∨ b = 4 ∨ b = 5 ∨ b = 6 ∨ b = 7 ∨ b = 8 ∨ b = 9 ∨ b = 10 ∨ b = 11 := by omega
  have hm : ∀ i, (Nat.land (Nat.land p k) 0x3BF).testBit i = ((p.testBit i && k.testBit i) && Nat.testBit 0x3BF i) := by
    intro i
    show ((p &&& k) &&& 0x3BF).testBit i = _
    rw [Nat.testBit_and, Nat.testBit_and]
  have hX : Nat.land (Nat.land p k) 0x3BF < 2 ^ 10 := Nat.lt_of_le_of_lt (show (p &&& k) &&& 0x3BF ≤ 0x3BF from Nat.and_le_right) (by decide)
  have hz : bOr (bAnd p 0x40) (bAnd k 0x40) = 64 * (bitAt p 6 || bitAt k 6).toNat := by
    have e : ∀ y, bAnd y 0x40 = 64 * (bitAt y 6).toNat := by
      intro y
      show y &&& 2 ^ 6 = _
      refine Nat.eq_of_testBit_eq fun i => ?_
      rw [Nat.testBit_and, Nat.testBit_two_pow, bitAt_eq]
      cases h : y.testBit 6
      · by_cases h' : 6 = i
        · subst h'; simp [h]
        · simp [h']
      · by_cases h' : 6 = i
        · subst h'; simp [h]; decide
        · rw [show 64 * true.toNat = 2 ^ 6 from rfl, Nat.testBit_two_pow]; simp [h']
    rw [e, e]
    cases bitAt p 6 <;> cases bitAt k 6 <;> rfl
  rw [permsOf, hz]
  show bitAt (Nat.land (Nat.land p k) 0x3BF + _) b = _
  have h6 := hm 6
  have hb' := hm b
  generalize Nat.land (Nat.land p k) 0x3BF = X at *
  rw [← bitAt_eq, ← bitAt_eq, ← bitAt_eq] at h6 hb'
  generalize hz' : (bitAt p 6 || bitAt k 6).toNat = z
  have hz1 : z ≤ 1 := by rw [← hz']; exact Bool.toNat_le _
  have h60 : X / 64 % 2 = 0 := by
    have : bitAt X 6 = false := by rw [h6]; simp [Nat.testBit]
    simp [bitAt] at this; omega
  have key : b ≠ 6 → bitAt (X + 64 * z) b = bitAt X b := by
    intro h
    rw [Bool.eq_iff_iff, bitAt_iff, bitAt_iff]
    rcases hc with rfl|rfl|rfl|rfl|rfl|rfl|rfl|rfl|rfl|rfl|rfl|rfl <;> first | omega | exact absurd rfl h
  by_cases h : b = 6
  · subst h
    rw [if_pos rfl, Bool.eq_iff_iff, bitAt_iff]
    have : (X + 64 * z) / 2 ^ 6 % 2 = z := by omega
    rw [this, ← hz']
    cases (bitAt p 6 || bitAt k 6) <;> simp
  · rw [if_neg h, key h, hb']
    have : Nat.testBit 0x3BF b = decide (b < 10) := by rcases hc with rfl|rfl|rfl|rfl|rfl|rfl|rfl|rfl|rfl|rfl|rfl|rfl <;> first | rfl | exact absurd rfl h
    rw [this]
    cases bitAt p b <;> cases bitAt k b <;> cases decide (b < 10) <;> rfl

theorem permsOf_lt (p k : Nat) : permsOf p k < 2 ^ 12 := by
  have h1 : bAnd (bAnd p k) 0x3BF ≤ 0x3BF := show (p &&& k) &&& 0x3BF ≤ 0x3BF from Nat.and_le_right
  have h2 : bAnd p 0x40 ≤ 0x40 := show p &&& 0x40 ≤ 0x40 from Nat.and_le_right
  have h3 : bAnd k 0x40 ≤ 0x40 := show k &&& 0x40 ≤ 0x40 from Nat.and_le_right
  have h4 : bOr (bAnd p 0x40) (bAnd k 0x40) < 2 ^ 7 := Nat.or_lt_two_pow (by omega) (by omega)
  rw [permsOf]; omega

theorem toNat_putFld {d : BitVec 128} {lo n v : Nat} (h : lo + n ≤ 128) : (BitVec.ofNat 128 (putFld d.toNat lo n v)).toNat = putFld d.toNat lo n v := by
  rw [BitVec.toNat_ofNat, Nat.mod_eq_of_lt (putFld_lt d.isLt h)]

theorem capPerm_perms (c : AReg) (k : Nat) : (capPerm c k).perms = permsOf c.perms k := by
  rw [capPerm, AReg.perms, toNat_putFld (by decide), fld_putFld_same, Nat.mod_eq_of_lt (permsOf_lt _ _)]

theorem capPerm_perm (c : AReg) (k b : Nat) (hb : b < 12) : (capPerm c k).perm b = if b = 6 then c.perm 6 || bitAt k 6 else decide (b < 10) && c.perm b && bitAt k b := by
  rw [AReg.perm, capPerm_perms, bitAt_permsOf _ _ _ hb]; rfl

theorem capLen_base (c : AReg) (k : Nat) : (capLen c k).base = c.base := by
  rw [capLen, AReg.base, toNat_putFld (by decide), fld_putFld_low (by decide)]; rfl

theorem capLen_topField (c : AReg) (k : Nat) : (capLen c k).topField = (c.base + k) % 2 ^ 56 := by
  rw [capLen, AReg.topField, toNat_putFld (by decide), fld_putFld_same]

theorem capLen_high (c : AReg) (k : Nat) : fld (capLen c k).data.toNat 112 16 = fld c.data.toNat 112 16 := by
  rw [capLen, toNat_putFld (by decide), fld_putFld_high (by decide)]

theorem capPerm_low (c : AReg) (k l n : Nat) (h : l + n ≤ 112) : fld (capPerm c k).data.toNat l n = fld c.data.toNat l n := by
  rw [capPerm, toNat_putFld (by decide), fld_putFld_low h]

theorem capPerm_high (c : AReg) (k l n : Nat) (h : 124 ≤ l) : fld (capPerm c k).data.toNat l n = fld c.data.toNat l n := by
  rw [capPerm, toNat_putFld (by decide), fld_putFld_high h]

theorem capBase_base (c : AReg) (k : Nat) : (capBase c k).base = (c.base + k) % 2 ^ 56 := by
  have := c.data.isLt
  simp only [capBase, AReg.base, fld, BitVec.toNat_ofNat]; omega

theorem capBase_high (c : AReg) (k l n : Nat) (h : 56 ≤ l) : fld (capBase c k).data.toNat l n = fld c.data.toNat l n := by
  have e : (capBase c k).data.toNat = putFld c.data.toNat 0 56 (c.base + k) := by
    have := c.data.isLt
    rw [putFld_eq]
    simp only [capBase, BitVec.toNat_ofNat, Nat.pow_zero, Nat.div_one, Nat.mul_one, Nat.mod_one, Nat.add_zero]
    omega
  rw [e, fld_putFld_high (by omega)]

theorem AReg.base_lt (c : AReg) : c.base < 2 ^ 56 := fld_lt _ _ _

theorem AReg.top_le (c : AReg) : c.top ≤ 2 ^ 56 := by
  have : c.topField < 2 ^ 56 := fld_lt _ _ _
  unfold AReg.top; split <;> omega

theorem capPerm_base (c : AReg) (k : Nat) : (capPerm c k).base = c.base := capPerm_low c k 0 56 (by decide)

theorem capPerm_topField (c : AReg) (k : Nat) : (capPerm c k).topField = c.topField := capPerm_low c k 56 56 (by decide)

theorem capBase_topField (c : AReg) (k : Nat) : (capBase c k).topField = c.topField := capBase_high c k 56 56 (by decide)

theorem capPerm_tag (c : AReg) (k : Nat) : (capPerm c k).tag = c.tag := by rw [capPerm]

theorem reg_writeReg_ne (a : Activation) (seq d r : Nat) (v : AReg) (h : r ≠ d) : (a.writeReg seq d v).reg r = a.reg r := by
  unfold Activation.writeReg Activation.setReg Activation.reg
  by_cases h0 : r = 0
  · simp [h0]
  · by_cases hd : d = 0
    · simp [h0, hd]
    · simp only [h0, hd, if_false]
      rw [Sparse.get_set, if_neg (Ne.symm h)]

end Sys2Proof.Machine
end

