-- ==== Sys2Proof/Laws/Floats.lean ====
section
/-! SUPPORT. The binary32 codes by their fields, and the float operations that are defined by cases on them (13 R248, R251, R252). -/

namespace Sys2Proof.Machine

theorem dec_cases (p : Nat) :
    (fld p 23 8 = 255 ∧ fld p 0 23 = 0 ∧ fp32.dec p = .inf (bitAt p 31)) ∨
    (fld p 23 8 = 255 ∧ fld p 0 23 ≠ 0 ∧ ∃ c, fp32.dec p = .nan c (!(bitAt p 22))) ∨
    (fld p 23 8 ≠ 255 ∧ fld p 23 8 = 0 ∧ ∃ e, fp32.dec p = .fin (bitAt p 31) (fld p 0 23) e) ∨
    (fld p 23 8 ≠ 255 ∧ fld p 23 8 ≠ 0 ∧ ∃ e, fp32.dec p = .fin (bitAt p 31) (2 ^ 23 + fld p 0 23) e) := by
  have hb : bitAt (fld p 0 23) 22 = bitAt p 22 := by
    have : fld p 0 23 / 2 ^ 22 % 2 = p / 2 ^ 22 % 2 := by simp only [fld]; omega
    rw [bitAt, bitAt, this]
  have hd : fp32.dec p = if fld p 23 8 = 255 then
      if fld p 0 23 = 0 then .inf (bitAt p 31)
      else .nan (if bitAt (fld p 0 23) 22 then p else p + fp32.quietBit) (!(bitAt (fld p 0 23) 22))
    else if fld p 23 8 = 0 then .fin (bitAt p 31) (fld p 0 23) fp32.minUlp
    else .fin (bitAt p 31) (2 ^ 23 + fld p 0 23) (fp32.minUlp + (fld p 23 8 : Int) - 1) := rfl
  rw [hd, hb]
  by_cases h : fld p 23 8 = 255
  · by_cases h0 : fld p 0 23 = 0
    · exact .inl ⟨h, h0, by rw [if_pos h, if_pos h0]⟩
    · exact .inr (.inl ⟨h, h0, _, by rw [if_pos h, if_neg h0]⟩)
  · by_cases h0 : fld p 23 8 = 0
    · exact .inr (.inr (.inl ⟨h, h0, _, by rw [if_neg h, if_pos h0]⟩))
    · exact .inr (.inr (.inr ⟨h, h0, _, by rw [if_neg h, if_neg h0]⟩))

theorem isNan_iff (p : Nat) : (fp32.dec p).isNan = true ↔ fld p 23 8 = 255 ∧ fld p 0 23 ≠ 0 := by
  rcases dec_cases p with ⟨h1, h2, h3⟩ | ⟨h1, h2, c, h3⟩ | ⟨h1, h2, c, h3⟩ | ⟨h1, h2, c, h3⟩ <;> rw [h3] <;> simp [FVal.isNan, h1, h2]

theorem signals_iff (p : Nat) : (fp32.dec p).signals = true ↔ (fld p 23 8 = 255 ∧ fld p 0 23 ≠ 0) ∧ bitAt p 22 = false := by
  rcases dec_cases p with ⟨h1, h2, h3⟩ | ⟨h1, h2, c, h3⟩ | ⟨h1, h2, c, h3⟩ | ⟨h1, h2, c, h3⟩ <;> rw [h3] <;> simp [FVal.signals, h1, h2]

theorem fMulZ_eq (m : RMode) (sat : Bool) (p q : Nat) : fMulZ fp32 m sat p q =
    if p % 2 ^ 31 = 0 ∨ q % 2 ^ 31 = 0 then { code := if bitAt p 31 = bitAt q 31 then 0 else 2 ^ 31, flags := 0 }
    else fMul fp32 m sat p q := by
  have e : (isZeroCode fp32 p || isZeroCode fp32 q) = true ↔ p % 2 ^ 31 = 0 ∨ q % 2 ^ 31 = 0 := by
    rw [isZeroCode, isZeroCode, Bool.or_eq_true, beq_iff_eq, beq_iff_eq]; rfl
  unfold fMulZ
  by_cases h : p % 2 ^ 31 = 0 ∨ q % 2 ^ 31 = 0
  · rw [if_pos h, if_pos (e.mpr h)]
    show ({ code := fp32.withSign (bitAt p 31 != bitAt q 31) 0 } : FRes) = _
    cases bitAt p 31 <;> cases bitAt q 31 <;> rfl
  · rw [if_neg h, if_neg (fun x => h (e.mp x))]

theorem fCompare_quiet (rel : Int → Int → Bool) (p q : Nat) (key : Nat → Int) (hk : ∀ p, valueKey fp32 p = key p)
    (nan snan : Nat → Prop) (hn : ∀ p, (fp32.dec p).isNan = true ↔ nan p) (hs : ∀ p, (fp32.dec p).signals = true ↔ snan p)
    (hsn : ∀ p, snan p → nan p) (qo : Bool) (nv : Nat → Nat → Prop) [d1 : Decidable (nan p ∨ nan q)] [d2 : Decidable (nv p q)]
    (hnv : nv p q ↔ if qo then snan p ∨ snan q else nan p ∨ nan q) :
    fCompare fp32 qo rel p q = { code := if nan p ∨ nan q then 0 else ofBool (rel (key p) (key q)), flags := if nv p q then 1 else 0 } := by
  have e : ((fp32.dec p).isNan || (fp32.dec q).isNan) = true ↔ nan p ∨ nan q := by rw [Bool.or_eq_true, hn, hn]
  unfold fCompare
  by_cases h : nan p ∨ nan q
  · rw [if_pos h]
    simp only [e.mpr h, if_true]
    have e2 : (!qo || (fp32.dec p).signals || (fp32.dec q).signals) = true ↔ nv p q := by
      rw [hnv]
      cases qo
      · simp [h]
      · simp [hs]
    by_cases h2 : nv p q
    · rw [if_pos h2, if_pos (e2.mpr h2)]; rfl
    · rw [if_neg h2, if_neg (fun x => h2 (e2.mp x))]
  · have h2 : ¬ nv p q := by
      rw [hnv]
      cases qo
      · simpa using h
      · simp only [if_true]; exact fun x => h (x.imp (hsn p) (hsn q))
    rw [if_neg h, if_neg h2]
    have : ((fp32.dec p).isNan || (fp32.dec q).isNan) = false := by
      rw [Bool.eq_false_iff]; exact fun x => h (e.mp x)
    simp only [this, Bool.false_eq_true, if_false, hk]

theorem fClass_eq (p : Nat) : fClass fp32 p =
      let e := fld p 23 8
      let m := fld p 0 23
      let neg := bitAt p 31
      { code := 2 ^ (if e = 255 ∧ m ≠ 0 then (if bitAt p 22 then 9 else 8)
          else if e = 255 then (if neg then 0 else 7)
          else if e ≠ 0 then (if neg then 1 else 6)
          else if m ≠ 0 then (if neg then 2 else 5)
          else (if neg then 3 else 4)), flags := 0 } := by
  have hm : fld p 0 23 < 2 ^ 23 := Nat.mod_lt _ (by decide)
  unfold fClass
  show ({ code := 2 ^ (match fp32.dec p with
    | .inf s => if s then 0 else 7
    | .nan _ s => if s then 8 else 9
    | .fin _ n _ =>
      if n = 0 then (if bitAt p 31 then 3 else 4)
      else if n < 2 ^ 23 then (if bitAt p 31 then 2 else 5)
      else (if bitAt p 31 then 1 else 6)) } : FRes) = _
  rcases dec_cases p with ⟨h1, h2, h3⟩ | ⟨h1, h2, c, h3⟩ | ⟨h1, h2, c, h3⟩ | ⟨h1, h2, c, h3⟩ <;> rw [h3]
  · simp [h1, h2]
  · simp only [h1, h2, and_self, if_true, ne_eq, not_false_eq_true]
    cases bitAt p 22 <;> simp
  · simp only [h2, ne_eq, not_true, if_false, show ¬ (0 : Nat) = 255 by decide, false_and]
    by_cases h0 : fld p 0 23 = 0
    · simp [h0]
    · rw [if_neg h0, if_pos hm]; cases bitAt p 31 <;> simp [h0]
  · have : ¬ (2 ^ 23 + fld p 0 23 = 0) := by omega
    have h5 : ¬ (2 ^ 23 + fld p 0 23 < 2 ^ 23) := by omega
    simp only [h1, h2, false_and, if_false, this, h5, ne_eq, not_false_eq_true, if_true]

theorem laneRes_congr {n : Nat} {k : Fmt} {f g : LaneFn} (h : ∀ m sat p q z, f m sat p q z = g m sat p q z) : laneRes n k f = laneRes n k g := by
  have : f = g := by funext m sat p q z; exact h m sat p q z
  rw [this]

end Sys2Proof.Machine
end

