-- ==== Sys2Proof/Laws/Keeps.lean ====
section
/-! SUPPORT. What each operation of a dispatch keeps outside the cores, the clusters and what is in flight: the lemmas
under the frame `Keeps`. -/

namespace Sys2Proof.Machine

/-! ### What a dispatch keeps -/

theorem Keeps.refl (s : State) : Keeps s s := ⟨rfl, fun _ => ⟨rfl, rfl⟩, fun _ => rfl⟩

theorem Keeps.trans {s t u : State} (h : Keeps s t) (k : Keeps t u) : Keeps s u :=
  ⟨k.outer.trans h.outer, fun g => ⟨(k.acc g).1.trans (h.acc g).1, (k.acc g).2.trans (h.acc g).2⟩,
    fun j => (k.csr j).trans (h.csr j)⟩

theorem Keeps.setCore {s t : State} {k : Nat} {c : Core} (h : Keeps s t) (e : c.csr = (t.core k).csr) :
    Keeps s (t.setCore k c) := by
  refine h.trans ⟨rfl, fun _ => ⟨rfl, rfl⟩, fun j => ?_⟩
  by_cases hj : k = j
  · subst hj; rw [State.core_setCore_self, e]
  · rw [State.core_setCore_of_ne _ _ hj]

theorem Keeps.setCluster {s t : State} {g : Nat} {c : Cluster} (h : Keeps s t) (e : c.acc = (t.cluster g).acc)
    (e2 : c.accFlags = (t.cluster g).accFlags) : Keeps s (t.setCluster g c) := by
  refine h.trans ⟨rfl, fun j => ?_, fun _ => rfl⟩
  by_cases hj : g = j
  · subst hj; rw [State.cluster_setCluster_self]; exact ⟨e, e2⟩
  · rw [State.cluster_setCluster_of_ne _ _ hj]; exact ⟨rfl, rfl⟩

theorem Keeps.setActAt {s t : State} {k c : Nat} {a : Activation} (h : Keeps s t) : Keeps s (t.setActAt k c a) :=
  h.setCore rfl
theorem Keeps.setCur {s t : State} {a : Activation} (h : Keeps s t) : Keeps s (t.setCur a) := h.setActAt
theorem Keeps.setCurCore {s t : State} {c : Core} (h : Keeps s t) (e : c.csr = t.curCore.csr) : Keeps s (t.setCurCore c) :=
  h.setCore e
theorem Keeps.send {s t : State} {a : Agent} {p : Place} {b : Body} (h : Keeps s t) : Keeps s (t.send a p b) :=
  ⟨h.outer, h.acc, h.csr⟩
theorem Keeps.takeId {s t : State} (h : Keeps s t) : Keeps s t.takeId := ⟨h.outer, h.acc, h.csr⟩
theorem Keeps.focusOn {s t : State} {k c : Nat} (h : Keeps s t) : Keeps s (t.focusOn k c) := ⟨h.outer, h.acc, h.csr⟩
theorem Keeps.verdict {s t : State} {v : Verdict} (h : Keeps s t) : Keeps s { t with verdict := v } := ⟨h.outer, h.acc, h.csr⟩
theorem Keeps.accs {s t : State} {l : List Access} (h : Keeps s t) : Keeps s { t with accs := l } := ⟨h.outer, h.acc, h.csr⟩
theorem Keeps.pins {s t : State} {l : List Pin} (h : Keeps s t) : Keeps s { t with pins := l } := ⟨h.outer, h.acc, h.csr⟩

theorem Keeps.foldl {α : Type} {f : State → α → State} (hf : ∀ s t x, Keeps s t → Keeps s (f t x)) :
    ∀ (l : List α) {s t : State}, Keeps s t → Keeps s (l.foldl f t) := by
  intro l
  induction l with
  | nil => intro s t h; exact h
  | cons x rest ih => intro s t h; exact ih (hf _ _ _ h)

theorem Keeps.trace {s t : State} {core ctx kind data : Nat} (h : Keeps s t) : Keeps s (t.trace core ctx kind data) := by
  dsimp only [State.trace]
  split
  · exact h
  · exact h.setCluster rfl rfl

theorem Keeps.trapAt {s t : State} {core ctx : Nat} {hf : Half} {e : Entry} {late : Bool} {cause val : Nat} {pc : BitVec 14}
    (h : Keeps s t) : Keeps s (t.trapAt core ctx hf e late cause val pc) := by
  unfold State.trapAt
  split
  · exact h
  · dsimp only
    refine Keeps.trace (Keeps.setActAt (Keeps.setCore h ?_))
    rfl

theorem Keeps.resumeVictims {s t : State} {core : Nat} (h : Keeps s t) : Keeps s (t.resumeVictims core) := h.setCore rfl

theorem Core.raise_nil (c : Core) : (c.raise []).csr = c.csr := by
  show { c.csr with xflags := c.csr.xflags ||| 0 } = c.csr
  rw [show c.csr.xflags ||| 0 = c.csr.xflags from BitVec.or_zero]

/-- The end of an activation whose results have all landed, and which serves none. -/
theorem Keeps.endAct {s t : State} {core ctx : Nat} (h : Keeps s t)
    (hq : ∀ a, t.act? core ctx = some a → a.pend = [] ∧ a.info.serves = none) : Keeps s (t.endAct core ctx) := by
  unfold State.endAct
  split
  · exact h
  · rename_i a ha
    obtain ⟨h1, h2⟩ := hq a ha
    dsimp only
    rw [h2]
    refine Keeps.resumeVictims ?_
    have hb : (t.trace core ctx 2 (a.headEntry .a).wpc.toNat).act? core ctx = some a := by
      rw [State.act?, trace_core]; exact ha
    dsimp only
    rw [State.removeAct, hb]
    refine h.trace.setCore ?_
    dsimp only
    rw [h1]
    exact (Core.raise_nil _).trans (Core.profile_csr _ _ _)

/-- A trap outside a gang. -/
theorem Keeps.takeTrap {s t : State} {hf : Half} {c v : Nat} (h : Keeps s t) (hg : t.cur.flow.gang = none) :
    Keeps s (t.takeTrap hf c v) := by
  unfold State.takeTrap
  dsimp only
  rw [hg]
  exact h.trapAt.verdict

theorem cur_of_cur? {s : State} {a : Activation} (h : s.cur? = some a) : s.cur = a := by rw [State.cur, h]; rfl

/-! ### What an activation that ends keeps -/

theorem Keeps.butFlags {s t : State} (h : Keeps s t) : KeepsButFlags s t :=
  ⟨h.outer, h.acc, fun k => ⟨0, by rw [h.csr k, show (s.core k).csr.xflags ||| 0 = (s.core k).csr.xflags from BitVec.or_zero]⟩⟩

theorem KeepsButFlags.trans {s t u : State} (h : KeepsButFlags s t) (k : KeepsButFlags t u) : KeepsButFlags s u := by
  refine ⟨k.outer.trans h.outer, fun g => ⟨(k.acc g).1.trans (h.acc g).1, (k.acc g).2.trans (h.acc g).2⟩, fun j => ?_⟩
  obtain ⟨f, hf⟩ := h.csr j
  obtain ⟨g, hg⟩ := k.csr j
  exact ⟨f ||| g, by rw [hg, hf]; simp only [BitVec.or_assoc]⟩

theorem KeepsButFlags.then_ {s t u : State} (h : KeepsButFlags s t) (k : Keeps t u) : KeepsButFlags s u := h.trans k.butFlags

/-- A core's flags rise, and what else changes is no CSR. -/
theorem KeepsButFlags.setCore {s : State} {k : Nat} {c : Core} {f : BitVec 5}
    (e : c.csr = { (s.core k).csr with xflags := (s.core k).csr.xflags ||| f }) : KeepsButFlags s (s.setCore k c) := by
  refine ⟨rfl, fun _ => ⟨rfl, rfl⟩, fun j => ?_⟩
  by_cases hj : k = j
  · subst hj; exact ⟨f, by rw [State.core_setCore_self, e]⟩
  · exact ⟨0, by
      rw [State.core_setCore_of_ne _ _ hj, show (s.core j).csr.xflags ||| 0 = (s.core j).csr.xflags from BitVec.or_zero]⟩

theorem KeepsButFlags.removeAct (s : State) (core ctx : Nat) : KeepsButFlags s (s.removeAct core ctx) := by
  unfold State.removeAct
  split
  · exact (Keeps.refl s).butFlags
  · rename_i a _
    exact KeepsButFlags.setCore (f := (a.pend.map (fun p => p.flags)).foldl (· ||| ·) 0)
      (by rw [← Core.profile_csr (s.core core) a s.ns]; rfl)

theorem KeepsButFlags.removeById (s : State) (core id : Nat) : KeepsButFlags s (s.removeById core id) := by
  unfold State.removeById
  split
  · exact KeepsButFlags.removeAct _ _ _
  · refine Keeps.butFlags (Keeps.setCore (Keeps.refl s) ?_)
    exact Core.profileSaved_csr _ _ _

theorem KeepsButFlags.endAct (s : State) (core ctx : Nat) : KeepsButFlags s (s.endAct core ctx) := by
  unfold State.endAct
  split
  · exact (Keeps.refl s).butFlags
  · dsimp only
    refine KeepsButFlags.then_ ?_ (Keeps.refl _).resumeVictims
    split
    · exact ((Keeps.refl s).trace.butFlags.trans (KeepsButFlags.removeAct _ _ _)).trans (KeepsButFlags.removeById _ _ _)
    · exact (Keeps.refl s).trace.butFlags.trans (KeepsButFlags.removeAct _ _ _)

theorem KeepsButFlags.endFollowers (s : State) (g : Gang) : KeepsButFlags s (s.endFollowers g) := by
  unfold State.endFollowers
  have : ∀ (l : List (Nat × Nat)) (t : State), KeepsButFlags s t → KeepsButFlags s (l.foldl (fun t m => t.endAct m.1 m.2) t) := by
    intro l
    induction l with
    | nil => intro t h; exact h
    | cons m rest ih => intro t h; exact ih _ (h.trans (KeepsButFlags.endAct _ _ _))
  exact this _ s (Keeps.refl s).butFlags

theorem KeepsButFlags.takeTrap (s : State) (hf : Half) (c v : Nat) : KeepsButFlags s (s.takeTrap hf c v) := by
  unfold State.takeTrap
  dsimp only
  split
  · rename_i g _
    refine KeepsButFlags.then_ (t := s.endFollowers g) (KeepsButFlags.endFollowers s g) (Keeps.verdict (Keeps.trapAt (Keeps.focusOn ?_)))
    split
    · exact (Keeps.refl _).setActAt
    · exact Keeps.refl _
  · exact (Keeps.refl s).trapAt.verdict.butFlags

theorem takeTrap_verdict (s : State) (hf : Half) (c v : Nat) : (s.takeTrap hf c v).verdict = .trapped := by
  unfold State.takeTrap
  dsimp only
  split <;> rfl

theorem GangTrapped.keeps {s t : State} (h : GangTrapped s t) :
    (∃ a g, s.cur? = some a ∧ a.flow.gang = some g) ∧ t.verdict = .trapped ∧ KeepsButFlags s t := by
  obtain ⟨h1, k, c, hf, x, v, rfl⟩ := h
  exact ⟨h1, takeTrap_verdict _ _ _ _, (Keeps.refl s).focusOn.butFlags.trans (KeepsButFlags.takeTrap _ _ _ _)⟩

theorem Kept.butFlags {s t : State} (h : Kept s t) : KeepsButFlags s t := h.elim Keeps.butFlags (fun h => h.2.2)

/-- Outside a gang nothing is aborted. -/
theorem Kept.alone {s t : State} {a : Activation} (h : Kept s t) (hc : s.cur? = some a) (hg : a.flow.gang = none) : Keeps s t := by
  rcases h with h | ⟨⟨b, g, h1, h2⟩, _⟩
  · exact h
  · rw [hc] at h1; cases h1; rw [hg] at h2; cases h2

theorem Keeps.dispatched {s t : State} {e : Entry} (h : Keeps s t) : Keeps s (t.dispatched e) := by
  unfold State.dispatched
  split
  · exact h.verdict
  · exact Keeps.verdict (Keeps.setCur (Keeps.setCurCore h (Core.issued_csr _ _ _ _)))

theorem Keeps.finish {s t : State} {hf : Half} (h : Keeps s t) : Keeps s (t.finish hf) := by
  unfold State.finish
  dsimp only
  split
  · exact h.setCur.dispatched
  · exact h.dispatched

theorem Keeps.noteFollower {s t : State} {core ctx : Nat} {a : Activation} {e : Entry} {gone : Bool} (h : Keeps s t) :
    Keeps s (t.noteFollower core ctx a e gone) := by
  unfold State.noteFollower
  have h1 : Keeps s (t.setCore core { (t.core core).issued a ctx e with given := true }) :=
    h.setCore (Core.issued_csr (t.core core) a ctx e)
  have h2 : Keeps s (t.setCore core (({ (t.core core).issued a ctx e with given := true } : Core).stepDrains ctx)) :=
    h.setCore (Core.issued_csr (t.core core) a ctx e)
  dsimp only
  repeat' split
  all_goals first | exact h1.setActAt | exact h1 | exact h2.setActAt | exact h2

theorem Keeps.landFollowers {s t : State} {g : Gang} (h : Keeps s t) : Keeps s (t.landFollowers g) := by
  unfold State.landFollowers
  split
  · exact h
  · refine Keeps.foldl (fun _ _ _ k => ?_) _ h
    repeat' split
    all_goals first | exact k.setActAt | exact k

theorem Keeps.noteGang {s t : State} {u : State} {g : Gang} {ms : List (Nat × Nat)} {e : Entry} {gone : Bool}
    (h : Keeps s t) : Keeps s (u.noteGang g ms e gone t) := (Keeps.foldl (fun _ _ _ k => k.noteFollower) _ h).landFollowers

/-- A dispatch keeps what the body keeps for every member. -/
theorem Keeps.dispatch {h : Half} {body : State → Att} (hb : ∀ s, (body s).Holds (Keeps s)) {s t : State}
    (e : Machine.dispatch h body s = .next t) : Kept s t :=
  (dispatch_holds_or Keeps.refl (fun _ _ _ => Keeps.trans) (fun s _ _ => (Keeps.refl s).focusOn) (fun s _ => (Keeps.refl s).verdict)
    (fun s _ _ _ _ hc hg => (Keeps.refl s).takeTrap (by rw [cur_of_cur? hc, hg])) (fun s _ => (Keeps.refl s).finish)
    (fun s _ => (Keeps.refl s).dispatched) (fun _ _ _ _ _ t => (Keeps.refl t).noteGang) hb e).imp id GangTrapped.keeps

/-- The same where activations may end. -/
theorem KeepsButFlags.dispatch {h : Half} {body : State → Att} (hb : ∀ s, (body s).Holds (KeepsButFlags s)) {s t : State}
    (e : Machine.dispatch h body s = .next t) : KeepsButFlags s t :=
  dispatch_holds (fun s => (Keeps.refl s).butFlags) (fun _ _ _ => KeepsButFlags.trans) (fun s _ _ => (Keeps.refl s).focusOn.butFlags)
    (fun s _ => (Keeps.refl s).verdict.butFlags) KeepsButFlags.takeTrap (fun s _ => (Keeps.refl s).finish.butFlags)
    (fun s _ => (Keeps.refl s).dispatched.butFlags) (fun _ _ _ _ _ t => (Keeps.refl t).noteGang.butFlags) hb e

theorem Keeps.wcSend {s t : State} {g : Nat} {b : WcBuf} (h : Keeps s t) : Keeps s (t.wcSend g b) := by
  unfold State.wcSend
  refine Keeps.send (Keeps.setCluster h ?_ ?_) <;> rfl

theorem Keeps.wcFlush {s t : State} {g : Nat} (h : Keeps s t) : Keeps s (t.wcFlush g) :=
  Keeps.foldl (fun _ _ _ k => k.wcSend) _ h

theorem Keeps.wcByte {s t : State} {g root pa : Nat} {b : Byte} (h : Keeps s t) : Keeps s (t.wcByte g root pa b) := by
  unfold State.wcByte
  extract_lets line cl s1 cl1 old i new s2
  have h1 : Keeps s s1 := by
    show Keeps s (match cl.wc.find? (fun x => x.line == line) with
    | some _ => t
    | none => match cl.wc with
      | old :: _ => if cl.wc.length < 16 then t else t.wcSend g old
      | [] => t)
    split
    · exact h
    · split
      · split
        · exact h
        · exact h.wcSend
      · exact h
  have h2 : Keeps s s2 := h1.setCluster rfl rfl
  split
  · exact h2.wcSend
  · exact h2

theorem Keeps.post {s t : State} {x : Access} {l : List Piece} (h : Keeps s t) : Keeps s (State.launchAcc.post x t l) := by
  unfold State.launchAcc.post
  dsimp only
  refine Keeps.foldl (fun s u i k => ?_) _ h.accs
  split
  · split
    · exact k.send
    · exact k
  · exact k

theorem Keeps.launchAcc {s t : State} {x : Access} {ps : List (Piece × Bool)} (h : Keeps s t) :
    Keeps s (t.launchAcc x ps) := by
  unfold State.launchAcc
  dsimp only
  split
  · split
    · exact Keeps.foldl (fun _ _ _ k => Keeps.foldl (fun _ _ _ k => k.wcByte) _ k) _ h
    · exact Keeps.post (Keeps.foldl (fun _ _ _ k => Keeps.foldl (fun _ _ _ k => k.wcByte) _ k) _ h)
  · exact h.post

theorem Keeps.holdAcc {s t : State} {x : Access} (h : Keeps s t) : Keeps s (t.holdAcc x) := by
  unfold State.holdAcc
  split
  · split
    · exact h.setActAt
    · exact h
  · exact h

theorem Keeps.issueAcc {s t : State} {x : Access} (h : Keeps s t) : Keeps s (t.issueAcc x) := by
  unfold State.issueAcc
  split
  · unfold State.sendAcc
    split
    · exact (Keeps.foldl (fun _ _ _ k => k.wcSend) _ h).holdAcc
    · exact h.launchAcc
  · exact h.holdAcc

theorem Keeps.emitAcc {s t : State} {a : Activation} {x : Access} (h : Keeps s t) : Keeps s (t.emitAcc a x) :=
  h.takeId.setCur.issueAcc

theorem Keeps.setEng {s t : State} {g id : Nat} {x : EngCtx} (h : Keeps s t) : Keeps s (t.setEng g id x) := h.setCluster rfl rfl
theorem Keeps.setTimeline {s t : State} {g id : Nat} {x : Timeline} (h : Keeps s t) : Keeps s (t.setTimeline g id x) :=
  h.setCluster rfl rfl
theorem Keeps.setMatrix {s t : State} {g id : Nat} {x : MatrixCtx} (h : Keeps s t) : Keeps s (t.setMatrix g id x) :=
  h.setCluster rfl rfl
theorem Keeps.setChain {s t : State} {g id : Nat} {x : ChainCtx} (h : Keeps s t) : Keeps s (t.setChain g id x) :=
  h.setCluster rfl rfl
theorem Keeps.setGrammar {s t : State} {g id : Nat} {x : GrammarCtx} (h : Keeps s t) : Keeps s (t.setGrammar g id x) :=
  h.setCluster rfl rfl
theorem Keeps.setCopyProg {s t : State} {g id : Nat} {x : CopyProg} (h : Keeps s t) : Keeps s (t.setCopyProg g id x) :=
  h.setCluster rfl rfl
theorem Keeps.setRun {s t : State} {g id : Nat} {x : Run} (h : Keeps s t) : Keeps s (t.setRun g id x) := h.setEng
theorem Keeps.pulse {s t : State} {g l : Nat} (h : Keeps s t) : Keeps s (t.pulse g l) := h.setCluster rfl rfl
theorem Keeps.dropPins {s t : State} {f : Pin → Bool} (h : Keeps s t) : Keeps s (t.dropPins f) := ⟨h.outer, h.acc, h.csr⟩
theorem Keeps.unpin {s t : State} {g id op : Nat} (h : Keeps s t) : Keeps s (t.unpin g id op) := h.setEng.dropPins

theorem Keeps.performEng {s t : State} {g id : Nat} (h : Keeps s t) : Keeps s (t.performEng g id) := by
  unfold State.performEng
  dsimp only
  split
  · exact h
  · exact h.unpin.setEng.setTimeline.pulse

theorem Cluster.take_acc (id r : Nat) (ms : List Nat) : ∀ cl : Cluster, (cl.take id r ms).acc = cl.acc ∧
    (cl.take id r ms).accFlags = cl.accFlags := by
  unfold Cluster.take
  induction ms with
  | nil => intro cl; exact ⟨rfl, rfl⟩
  | cons n rest ih =>
    intro cl
    obtain ⟨h1, h2⟩ := ih (if (cl.unit n).owner.isNone then cl.setUnit n { cl.unit n with owner := some (id, r) } else cl)
    rw [List.foldl_cons, h1, h2]
    split <;> exact ⟨rfl, rfl⟩

theorem Cluster.give_acc (id : Nat) (ms : List Nat) : ∀ cl : Cluster, (cl.give id ms).acc = cl.acc ∧
    (cl.give id ms).accFlags = cl.accFlags := by
  unfold Cluster.give
  induction ms with
  | nil => intro cl; exact ⟨rfl, rfl⟩
  | cons n rest ih =>
    intro cl
    obtain ⟨h1, h2⟩ := ih (if (cl.unit n).mine id then cl.setUnit n { cl.unit n with owner := none } else cl)
    rw [List.foldl_cons, h1, h2]
    split <;> exact ⟨rfl, rfl⟩

theorem Keeps.endChain {s t : State} {g id : Nat} (h : Keeps s t) : Keeps s (t.endChain g id) := by
  unfold State.endChain
  exact (h.setChain.setCluster (Cluster.give_acc _ _ _).1 (Cluster.give_acc _ _ _).2).performEng

theorem Keeps.takeFiring {s t u : State} {g id : Nat} (h : Keeps s t) (e : t.takeFiring g id = some u) : Keeps s u := by
  simp only [State.takeFiring, Option.map_eq_some_iff] at e
  obtain ⟨k, _, rfl⟩ := e
  exact h.setCluster rfl rfl

theorem Keeps.issueEng {s t : State} {g id core r : Nat} {arm : Bool} {ws : List Nat} {w : Work} (h : Keeps s t) :
    Keeps s (t.issueEng g id core r arm ws w).1 := by
  unfold State.issueEng
  dsimp only
  refine Keeps.setEng ?_
  split
  · split
    · exact h.setTimeline.takeFiring ‹_›
    · exact h.setTimeline
  · exact h.setTimeline

theorem Keeps.engWalk {s t : State} {g id r va : Nat} (h : Keeps s t) : Keeps s (t.engWalk g id r va) := by
  unfold State.engWalk
  dsimp only
  split
  · exact h
  · exact h.takeId.setEng

theorem Keeps.askRuns {s t : State} {g id : Nat} {q : PinAsk} {p : PinRange} (h : Keeps s t) : Keeps s (t.askRuns g id q p) :=
  (Keeps.foldl (fun _ _ _ k => Keeps.foldl (fun _ _ _ k => k.send) _ k) _ h).setEng

theorem Keeps.unholdPins {s t : State} {k n : Nat} (h : Keeps s t) : Keeps s (t.unholdPins k n) := by
  unfold State.unholdPins
  split
  · exact h
  · exact h.setCore rfl

theorem Keeps.servePins {g id : Nat} : ∀ (l : List PinAsk) {s t : State}, Keeps s t → Keeps s (State.servePins g id l t) := by
  intro l
  induction l with
  | nil => intro s t h; exact h.setEng
  | cons q rest ih =>
    intro s t h
    unfold State.servePins
    dsimp only
    split
    · refine ih ?_
      split
      · exact h.askRuns
      · exact h.askRuns.unholdPins
    · exact h.askRuns.setEng.engWalk

theorem Keeps.askPins {s t : State} {g id : Nat} {l : List PinAsk} (h : Keeps s t) : Keeps s (t.askPins g id l) := by
  unfold State.askPins
  dsimp only
  split
  · exact h
  · split
    · exact Keeps.servePins _ h
    · exact h.setEng

theorem Keeps.pinRange {s t : State} {g id core r op va len : Nat} {src : Agent} (h : Keeps s t) :
    Keeps s (t.pinRange g id core r op src va len) := h.askPins

theorem Keeps.pinRanges {s t : State} {g id core r op : Nat} {src : Agent} {l : List (Nat × Nat)} (h : Keeps s t) :
    Keeps s (t.pinRanges g id core r op src l) := h.askPins

theorem Keeps.pinRetired {s t : State} {id : Nat} {l : List (Nat × Nat × Nat)} (h : Keeps s t) : Keeps s (t.pinRetired id l) := by
  unfold State.pinRetired
  dsimp only
  split
  · exact h.takeId.askPins.setCur
  · exact h.takeId.askPins

theorem Keeps.resumeRun {s t : State} {g id : Nat} (h : Keeps s t) : Keeps s (t.resumeRun g id) := h.setEng.askPins

theorem Keeps.retireEng {s t : State} {id : Nat} {arm : Bool} {w : Work} {l : List (Nat × Nat)} (h : Keeps s t) :
    Keeps s (t.retireEng id arm w l).1 := by
  unfold State.retireEng
  dsimp only
  split
  · exact Keeps.setCurCore h.issueEng.pinRetired.trace rfl
  · exact h.issueEng.pinRetired.trace

theorem Keeps.install {s t : State} {k c : Nat} {a : Activation} (h : Keeps s t) : Keeps s (t.install k c a) := by
  unfold State.install
  refine Keeps.trace (Keeps.setCore h.takeId ?_)
  rfl

theorem Keeps.addFollower {s t : State} {n l : Nat} {a : Activation} (h : Keeps s t) : Keeps s (t.addFollower n l a) := by
  unfold State.addFollower
  dsimp only
  split
  · exact h.install
  · exact h

theorem Keeps.serveSteal {s t : State} {k : Nat} (h : Keeps s t) : Keeps s (t.serveSteal k).1 := h.setCore rfl

theorem Keeps.countTaken {s t : State} {k : Nat} {r : Word64 × Word64} (h : Keeps s t) : Keeps s (t.countTaken k r) := by
  unfold State.countTaken
  dsimp only
  split
  · exact h
  · exact h.setCore rfl

theorem Keeps.enqueueOut {s t : State} {o : Outgoing} (h : Keeps s t) : Keeps s (t.enqueueOut o) :=
  h.setCur.setCurCore rfl

/-- An activation in a context changes there; the record of one in the save area lies in memory. -/
theorem Keeps.changeAct {s t : State} {k id c : Nat} {f : Activation → Activation} (h : Keeps s t) (hc : t.ctxOf k id = some c) :
    Keeps s (t.changeAct k id f) := by
  unfold State.changeAct
  dsimp only
  rw [hc]
  exact h.setCore rfl

theorem Keeps.resumeParked {s t : State} {k id c : Nat} (h : Keeps s t) (hc : t.ctxOf k id = some c) :
    Keeps s (t.resumeParked k id) := h.changeAct hc

theorem Keeps.dropRoot {s t : State} {p k root : Nat} (h : Keeps s t) : Keeps s (t.dropRoot p k root) := by
  have hg : ∀ (f : Nat × Cluster → Cluster) (_ : ∀ e, (f e).acc = e.2.acc ∧ (f e).accFlags = e.2.accFlags) (l : Sparse Cluster)
      (g : Nat) (d : Cluster),
      (Sparse.get d (l.map (fun e => if fenceCovers p k e.1 then (e.1, f e) else e)) g).acc = (Sparse.get d l g).acc ∧
      (Sparse.get d (l.map (fun e => if fenceCovers p k e.1 then (e.1, f e) else e)) g).accFlags = (Sparse.get d l g).accFlags := by
    intro f hf l g d
    induction l with
    | nil => exact ⟨rfl, rfl⟩
    | cons e rest ih =>
      obtain ⟨i, v⟩ := e
      rw [List.map_cons]
      by_cases hc : fenceCovers p k i
      · rw [if_pos hc]; by_cases hi : i = g
        · simp only [Sparse.get, if_pos hi]; exact hf (i, v)
        · simpa only [Sparse.get, if_neg hi] using ih
      · rw [if_neg hc]; by_cases hi : i = g
        · simp only [Sparse.get, if_pos hi, and_self]
        · simpa only [Sparse.get, if_neg hi] using ih
  have hk : ∀ (l : Sparse Core) (j : Nat) (d : Core),
      (Sparse.get d (l.map (fun e => if walkersCovered p k e.1 then (e.1, e.2.rewalk) else e)) j).csr = (Sparse.get d l j).csr := by
    intro l j d
    induction l with
    | nil => rfl
    | cons e rest ih =>
      obtain ⟨i, v⟩ := e
      rw [List.map_cons]
      by_cases hc : walkersCovered p k i
      · rw [if_pos hc]; by_cases hi : i = j
        · simp only [Sparse.get, if_pos hi]; rfl
        · simpa only [Sparse.get, if_neg hi] using ih
      · rw [if_neg hc]; by_cases hi : i = j
        · simp only [Sparse.get, if_pos hi]
        · simpa only [Sparse.get, if_neg hi] using ih
  refine h.trans ⟨rfl, fun g => hg (fun e => if p != 1 then
    ({ e.2 with tlb := e.2.tlb.filter (fun x => x.root != root) } : Cluster).rewalk t.rootOf
    else { e.2 with tlb := e.2.tlb.filter (fun x => x.root != root) }) (fun e => ?_) _ _ _, fun j => hk _ _ _⟩
  dsimp only
  split <;> exact ⟨rfl, rfl⟩

theorem Keeps.wcFlushRoot {s t : State} {p k root : Nat} (h : Keeps s t) : Keeps s (t.wcFlushRoot p k root) := by
  unfold State.wcFlushRoot
  refine Keeps.foldl (fun s u e h => ?_) _ h
  split
  · exact Keeps.foldl (fun _ _ _ k => k.wcSend) _ h
  · exact h

theorem Keeps.releaseMacros {s t : State} {g id : Nat} {ms : List Nat} (h : Keeps s t) :
    Keeps s (t.releaseMacros g id ms) := by
  unfold State.releaseMacros
  exact (h.setMatrix.setCluster (Cluster.give_acc _ _ _).1 (Cluster.give_acc _ _ _).2).dropPins

theorem Keeps.jumpTo {s t : State} {a : Activation} {e : Entry} {pc : BitVec 14} (h : Keeps s t) : Keeps s (t.jumpTo a e pc) :=
  h.setCur.trace

theorem Keeps.traceJump {s t : State} {a b : BitVec 14} (h : Keeps s t) : Keeps s (t.traceJump a b) := h.trace

/-- What an X body keeps when its function leaves the CSRs as they are. -/
theorem Keeps.xBody {op : XOp} {w : Nat} {il : Bool} {f : Csrs → Nat → Nat → Nat → XRes} {s : State}
    (hf : ∀ c p q z, (f c p q z).csr = c) : (Machine.xBody op w il f s).Holds (Keeps s) := by
  refine Att.holds_xBody (fun p q z a _ _ _ _ => Keeps.setCur (Keeps.setCurCore (Keeps.refl s) ?_))
  exact hf _ _ _ _

theorem Keeps.intBody {wc d : Nat} {a b : Option Nat} {il : Entry → Bool} {f : Entry → Nat → Nat → Nat → Nat} (s : State) :
    (Machine.intBody wc d a b il f s).Holds (Keeps s) := by
  unfold Machine.intBody; exact Keeps.xBody (fun _ _ _ _ => rfl)

theorem Keeps.floatBody {k : Fmt} {wc d : Nat} {a b : Option Nat} {acc : Bool} {g : RMode → Bool → Nat → Nat → Nat → FRes}
    (s : State) : (Machine.floatBody k wc d a b acc g s).Holds (Keeps s) := by
  unfold Machine.floatBody; exact Keeps.xBody (fun _ _ _ _ => rfl)

theorem Keeps.packedBody {wc d a b : Nat} {f : Nat → Nat → Nat → Nat} (s : State) :
    (Machine.packedBody wc d a b f s).Holds (Keeps s) := by
  unfold Machine.packedBody; exact Keeps.xBody (fun _ _ _ _ => rfl)

theorem Keeps.wideBody {wc d a b : Nat} {f : Nat → Nat → Nat → Nat} (s : State) :
    (Machine.wideBody wc d a b f s).Holds (Keeps s) := by
  unfold Machine.wideBody; exact Keeps.xBody (fun _ _ _ _ => rfl)

theorem Keeps.funnelBody {wc d a b : Nat} {f : Nat → Nat → Nat → Nat} (s : State) :
    (Machine.funnelBody wc d a b f s).Holds (Keeps s) := by
  unfold Machine.funnelBody; exact Keeps.xBody (fun _ _ _ _ => rfl)

theorem Keeps.selBody {wc d a b : Nat} (s : State) : (Machine.selBody wc d a b s).Holds (Keeps s) := by
  unfold Machine.selBody; exact Keeps.xBody (fun _ _ _ _ => rfl)

theorem Keeps.raddfBody {wc d a : Nat} (s : State) : (Machine.raddfBody wc d a s).Holds (Keeps s) := by
  unfold Machine.raddfBody; exact Keeps.xBody (fun _ _ _ _ => rfl)

theorem Keeps.cvtBody {wc d a dst src : Nat} (s : State) : (Machine.cvtBody wc d a dst src s).Holds (Keeps s) := by
  unfold Machine.cvtBody; exact Keeps.xBody (fun _ _ _ _ => rfl)

theorem Keeps.regBody {rs : List Nat} {d : Nat} {il : Entry → Bool} {v : Activation → Entry → AReg} (s : State) :
    (Machine.regBody rs d il v s).Holds (Keeps s) := Att.holds_regBody (Keeps.refl s).setCur

theorem Keeps.loadBody {q c o z sg r : Nat} {x : Option Word64} (s : State) :
    (Machine.loadBody q c o z sg r x s).Holds (Keeps s) :=
  Att.holds_sendable (Att.holds_need (Att.holds_aBody (Att.holds_capCheck (Keeps.refl s).emitAcc)))

theorem Keeps.loadRegBody {d c o n : Nat} {ps : List Nat} {cause : Nat} {kind : AccKind} {r : Nat} (s : State) :
    (Machine.loadRegBody d c o n ps cause kind r s).Holds (Keeps s) :=
  Att.holds_sendable (Att.holds_aBody (Att.holds_capCheck (Keeps.refl s).emitAcc))

theorem Keeps.storeBody {c o z r p : Nat} {x : Option Word64} (s : State) :
    (Machine.storeBody c o z r p x s).Holds (Keeps s) :=
  Att.holds_sendable (Att.holds_popSdq (fun _ _ _ => Att.holds_aBody (Att.holds_capCheck
    (Att.holds_orderStore (Keeps.refl s).wcFlush (Keeps.refl s).emitAcc))))

theorem Keeps.atomicBody {rs : List Nat} {d a b z o p : Nat} {kind : Activation → AccKind} (s : State) :
    (Machine.atomicBody rs d a b z o p kind s).Holds (Keeps s) :=
  Att.holds_sendable (Att.holds_aBody (Att.holds_capCheck (Att.holds_orderStore (Keeps.refl s).wcFlush (Keeps.refl s).emitAcc)))

theorem Keeps.ringBody {rs : List Nat} {a b : Nat} {kind : Activation → AccKind} {wait : Activation → Entry → Nat → Activation}
    {prev : Activation → Entry → List (Nat × AReg)} {rel : Bool} {bad : Activation → Option Nat} (s : State) :
    (Machine.ringBody rs a b kind wait prev rel bad s).Holds (Keeps s) := by
  refine Att.holds_sendable (Att.holds_aBody ?_)
  split
  · trivial
  · exact Att.holds_capCheck (Att.holds_orderStore (Keeps.refl s).wcFlush (Keeps.refl s).emitAcc)

theorem Keeps.eretBody {k : State → Activation → Att} {s : State} (h : (k s s.cur).Holds (Keeps s)) :
    (Machine.eretBody k s).Holds (Keeps s) :=
  Att.holds_xQuiet (Att.holds_aBody (Att.holds_guardPriv (Att.holds_check h)))

theorem Keeps.issueBody {s : State} {e : Entry} {a : Activation} {id d : Nat} {arm : Bool} {w : Work} {l : List (Nat × Nat)} :
    (Machine.issueBody s e a id d arm w l).Holds (Keeps s) := Keeps.setCur (Keeps.retireEng (Keeps.setCur (Keeps.refl s)))

theorem Keeps.matrixBody {rs : List Nat} {d arm k : Nat} {chk : State → Activation → Refused} {w : State → Activation → Work}
    {pins : State → Activation → Nat → List (Nat × Nat × Nat)} (s : State) :
    (Machine.matrixBody rs d arm k chk w pins s).Holds (Keeps s) := by
  refine Att.holds_orderly (Att.holds_need (Att.holds_aBody (Att.holds_guardCluster (Att.holds_guard ?_))))
  exact Keeps.setCur (Keeps.refl s).retireEng.pinRetired

theorem Keeps.mrdBody {q a k : Nat} {fl : Bool} (s : State) : (Machine.mrdBody q a k fl s).Holds (Keeps s) :=
  Att.holds_orderly (Att.holds_need (Att.holds_aBody (Att.holds_guardCluster (Att.holds_check (Att.holds_check
    (Keeps.refl s).takeId.setCur.accs)))))

theorem Keeps.chainBody {rs : List Nat} {k : Nat} {idle : Bool} {f : State → Activation → Entry → Att} {s : State}
    (h : (f s s.cur (s.head .a)).Holds (Keeps s)) : (Machine.chainBody rs k idle f s).Holds (Keeps s) :=
  Att.holds_orderly (Att.holds_need (Att.holds_aBody (Att.holds_guardCluster h)))

theorem Keeps.grammarBody {rs : List Nat} {d arm k n : Nat} {f : GrammarCtx → Activation → GrammarOp} (s : State) :
    (Machine.grammarBody rs d arm k n f s).Holds (Keeps s) :=
  Att.holds_orderly (Att.holds_need (Att.holds_aBody (Att.holds_guardCluster (Att.holds_guard Keeps.issueBody))))

/-- A dispatch outside a gang keeps what its body keeps. -/
theorem Keeps.dispatch_alone {h : Half} {body : State → Att} {s t : State} {a : Activation} (hc : s.cur? = some a)
    (hg : a.flow.gang = none) (hb : (body s).Holds (Keeps s)) (e : Machine.dispatch h body s = .next t) : Keeps s t := by
  unfold Machine.dispatch at e
  rw [hc] at e
  dsimp only at e
  split at e
  · cases e; exact (Keeps.refl s).verdict
  · rw [hg] at e
    dsimp only at e
    split at e
    · cases e; exact (Keeps.refl s).verdict
    · cases e; exact (Keeps.refl s).takeTrap (by rw [cur_of_cur? hc, hg])
    · rename_i w hw; rw [hw] at hb; cases e; exact Keeps.finish hb
    · rename_i w hw; rw [hw] at hb; cases e; exact Keeps.dispatched hb
    · rename_i w hw; rw [hw] at hb; cases e; exact Keeps.verdict hb

theorem ctxOf_of_mem {s : State} {k c : Nat} {b : Activation} (h : (c, b) ∈ (s.core k).acts) :
    ∃ d, s.ctxOf k b.info.id = some d := by
  have h1 : ((s.core k).acts.find? (fun e => e.2.info.id == b.info.id)).isSome = true := by
    rw [List.find?_isSome]; exact ⟨(c, b), h, beq_self_eq_true _⟩
  obtain ⟨x, hx⟩ := Option.isSome_iff_exists.mp h1
  exact ⟨x.1, by rw [State.ctxOf, hx]; rfl⟩

theorem mem_resumeVictims {s : State} {k c : Nat} {b : Activation} (h : (c, b) ∈ (s.core k).acts) :
    ∃ x, (c, x) ∈ ((s.resumeVictims k).core k).acts ∧ x.info.id = b.info.id := by
  have key : ∀ f : Nat × Activation → Bool, ∃ x, (c, x) ∈ ((s.core k).acts.map (fun e =>
      if f e then (e.1, { e.2 with flow := { e.2.flow with status := e.2.flow.status.resumed } }) else e)) ∧
      x.info.id = b.info.id := by
    intro f
    by_cases hf : f (c, b) = true
    · exact ⟨{ b with flow := { b.flow with status := b.flow.status.resumed } },
        List.mem_map.mpr ⟨(c, b), h, by rw [if_pos hf]⟩, rfl⟩
    · exact ⟨b, List.mem_map.mpr ⟨(c, b), h, by rw [if_neg hf]⟩, rfl⟩
  unfold State.resumeVictims
  dsimp only
  rw [State.core_setCore_self]
  exact key _

theorem look_removeAct {s : State} {k c j : Nat} (h : c ≠ j) :
    Sparse.look ((s.removeAct k c).core k).acts j = Sparse.look (s.core k).acts j := by
  unfold State.removeAct
  split
  · rfl
  · dsimp only; rw [State.core_setCore_self]; exact Sparse.look_drop_of_ne _ h

/-- Another activation of the core keeps its context behind the end of one that serves none. -/
theorem endAct_ctxOf {s : State} {a b : Activation} {c id : Nat} (hn : c ≠ s.focus.ctx)
    (hb : s.act? s.focus.core c = some b) (hi : b.info.id = id) :
    ∃ d, ((s.setCur { a with info := { a.info with serves := none } }).endAct s.focus.core s.focus.ctx).ctxOf s.focus.core id =
      some d := by
  subst hi
  obtain ⟨x, hx⟩ : ∃ x : Activation, x = { a with info := { a.info with serves := none } } := ⟨_, rfl⟩
  have hs : x.info.serves = none := by rw [hx]
  rw [← hx]
  have ha : (s.setCur x).act? s.focus.core s.focus.ctx = some x := by simp [State.act?, State.setCur, State.setActAt]
  have h2 : Sparse.look ((((s.setCur x).trace s.focus.core s.focus.ctx 2 (x.headEntry .a).wpc.toNat).removeAct s.focus.core
      s.focus.ctx).core s.focus.core).acts c = some b := by
    rw [look_removeAct (Ne.symm hn), trace_core]
    simp only [State.setCur, State.setActAt, State.core_setCore_self]
    rw [Sparse.look_put_of_ne _ _ (Ne.symm hn)]
    exact hb
  rw [State.endAct, ha]
  dsimp only
  rw [hs]
  obtain ⟨y, hy, e⟩ := mem_resumeVictims (Sparse.mem_of_look h2)
  rw [← e]
  exact ctxOf_of_mem hy

theorem Keeps.execBranch {a b d : Nat} {rel : Nat → Nat → Bool} {s t : State} (h : Machine.execBranch a b d rel s = .next t) :
    Kept s t := Keeps.dispatch (fun s => Att.holds_aBody (Att.holds_decides (Att.holds_ok (Keeps.refl s)) (by
      split
      · exact (Keeps.refl s).jumpTo
      · exact (Keeps.refl s).setCur))) h

theorem Keeps.execQueueBranch {d : Nat} {f : Nat → Bool} {s t : State} (h : Machine.execQueueBranch d f s = .next t) :
    Kept s t := Keeps.dispatch (fun s => by
      split
      · trivial
      · refine Att.holds_aBody ?_
        refine Att.holds_decides (Att.holds_ok (Keeps.refl s).setCur) ?_
        split
        · exact (Keeps.refl s).jumpTo
        · exact (Keeps.refl s).setCur) h

theorem Keeps.execTrapCall {c v : Nat} {s t : State} (h : Machine.execTrapCall c v s = .next t) : Kept s t :=
  Keeps.dispatch (fun s => Att.holds_aBody (by
    split
    · trivial
    · exact (Keeps.refl s).setCur.trapAt)) h

theorem Keeps.lockSlot {s t : State} {k c : Nat} (h : Keeps s t) : Keeps s (t.lockSlot k c) := h.setCore rfl

theorem Keeps.lockMembers {s t : State} {a : Activation} (h : Keeps s t) : Keeps s (t.lockMembers a) := by
  unfold State.lockMembers
  dsimp only
  split
  · exact Keeps.foldl (fun _ _ _ k => k.lockSlot) _ h.lockSlot
  · exact h.lockSlot

theorem Keeps.execHint {w : Nat} {s t : State} (h : Machine.execHint w s = .next t) : Kept s t := by
  unfold Machine.execHint at h
  split at h
  · cases h; exact .inl (Keeps.refl s).verdict
  · split at h
    · cases h; exact .inl (Keeps.refl s).verdict
    · split at h
      · cases h; exact .inl (Keeps.refl s).verdict
      · split at h
        · cases h; exact .inl (Keeps.refl s).lockMembers.setCur.verdict
        · exact Keeps.dispatch (fun s => Att.holds_guardHints (k := .stall) True.intro) h

theorem Keeps.copyResume {s t : State} {g k : Nat} (h : Keeps s t) : Keeps s (t.copyResume g k) := h.setCopyProg.resumeRun

/-! ### What keeps everything but what went outside -/

/-- As `Keeps`, but for what went outside: a fault message that no fault domain takes goes to the event record (08 R135). -/
def KeepsButOut (s t : State) : Prop := Keeps s { t with out := s.out }

/-- The same for a dispatch, which a gang's head may end in a trap (08 R151). -/
abbrev KeptButOut (s t : State) : Prop := Kept s { t with out := s.out }

theorem Keeps.butOut {s t : State} (h : Keeps s t) : KeepsButOut s t :=
  ⟨(congrArg (fun x : State => { x with out := s.out }) h.outer).trans rfl, h.acc, h.csr⟩

theorem KeepsButOut.trans {s t u : State} (h : KeepsButOut s t) (k : KeepsButOut t u) : KeepsButOut s u :=
  ⟨(congrArg (fun x : State => { x with out := s.out }) k.outer).trans h.outer,
    fun g => ⟨(k.acc g).1.trans (h.acc g).1, (k.acc g).2.trans (h.acc g).2⟩, fun j => (k.csr j).trans (h.csr j)⟩

theorem KeepsButOut.then_ {s t u : State} (h : KeepsButOut s t) (k : Keeps t u) : KeepsButOut s u := h.trans k.butOut

theorem KeepsButOut.faultMessage {s t : State} {x : Agent} {sc : Nat} {r : Option Nat} {c k p m e v n : Nat}
    (h : KeepsButOut s t) : KeepsButOut s (t.faultMessage x sc r c k p m e v n) := by
  unfold State.faultMessage State.faultMessageAt
  split
  · exact h.then_ (Keeps.refl t).send
  · exact ⟨h.outer, h.acc, h.csr⟩

theorem KeepsButOut.sendFault {s t : State} {g id : Nat} (h : KeepsButOut s t) : KeepsButOut s (t.sendFault g id) := by
  unfold State.sendFault
  dsimp only
  split
  · exact (h.then_ (Keeps.refl t).setRun).faultMessage
  · exact h

theorem KeepsButOut.dispatch {h : Half} {body : State → Att} (hb : ∀ s, (body s).Holds (KeepsButOut s)) {s t : State}
    (e : Machine.dispatch h body s = .next t) : KeptButOut s t :=
  (dispatch_holds_or (fun s => (Keeps.refl s).butOut) (fun _ _ _ => KeepsButOut.trans) (fun s _ _ => (Keeps.refl s).focusOn.butOut)
    (fun s _ => (Keeps.refl s).verdict.butOut)
    (fun s _ _ _ _ hc hg => ((Keeps.refl s).takeTrap (by rw [cur_of_cur? hc, hg])).butOut)
    (fun s _ => (Keeps.refl s).finish.butOut) (fun s _ => (Keeps.refl s).dispatched.butOut)
    (fun _ _ _ _ _ t => (Keeps.refl t).noteGang.butOut) hb e).imp id (fun h => ⟨h.keeps.1, h.keeps.2.1,
      (congrArg (fun x : State => { x with out := s.out }) h.keeps.2.2.outer).trans rfl, h.keeps.2.2.acc, h.keeps.2.2.csr⟩)

theorem Att.holds_chainBody {P : State → Prop} {rs : List Nat} {k : Nat} {idle : Bool} {f : State → Activation → Entry → Att}
    {s : State} (h : (f s s.cur (s.head .a)).Holds P) : (chainBody rs k idle f s).Holds P :=
  holds_orderly (holds_need (holds_aBody (holds_guardCluster h)))

end Sys2Proof.Machine
end

