-- ==== Sys2Proof/Laws/Gang.lean ====
section
/-! SUPPORT. How the head of a gang runs on its members, and what ending the followers leaves (08 R150, R151). -/

namespace Sys2Proof.Machine

/-! ### The members of a gang -/

theorem gang_cores {s : State} {g : Gang} : ∀ m ∈ s.gangMembers g, ∃ i, i < g.size ∧ m.1 = g.leaderCore + i := by
  intro m hm
  simp only [State.gangMembers, List.mem_filterMap] at hm
  obtain ⟨i, hi, h⟩ := hm
  refine ⟨i, List.mem_range.mp hi, ?_⟩
  split at h
  · rename_i h0; cases h; simp [h0]
  · simp only [Option.map_eq_some_iff] at h
    obtain ⟨x, _, rfl⟩ := h
    rfl

theorem gang_pairwise (s : State) (g : Gang) : (s.gangMembers g).Pairwise (fun x y => x.1 ≠ y.1) := by
  unfold State.gangMembers
  refine List.Pairwise.filterMap _ ?_ (List.pairwise_lt_range (n := g.size))
  intro i j hij x hx y hy
  have key : ∀ (i : Nat) x, (if i = 0 then some (g.leaderCore, g.leaderCtx)
    else ((s.core (g.leaderCore + i)).acts.find? (fun e => match e.2.flow.gang with
        | some h => h.leaderCore == g.leaderCore && h.leaderCtx == g.leaderCtx && h.lane == i
        | none => false)).map (fun e => (g.leaderCore + i, e.1))) = some x → x.1 = g.leaderCore + i := by
    intro i x h
    split at h
    · rename_i h0; cases h; simp [h0]
    · simp only [Option.map_eq_some_iff] at h
      obtain ⟨x, _, rfl⟩ := h
      rfl
  rw [key i x hx, key j y hy]
  omega

theorem gang_head (s : State) {g : Gang} (h : 1 ≤ g.size) : ∃ rest, s.gangMembers g = (g.leaderCore, g.leaderCtx) :: rest := by
  obtain ⟨n, hn⟩ : ∃ n, g.size = n + 1 := ⟨g.size - 1, by omega⟩
  unfold State.gangMembers
  rw [hn, upTo, List.range_succ_eq_map]
  simp

/-- What ending an activation leaves of the other cores. -/
theorem endAct_core_ne {s : State} {k c j : Nat} (h : k ≠ j) : (s.endAct k c).core j = s.core j := by
  unfold State.endAct
  split
  · rfl
  · have e1 : ∀ (t : State), (t.removeAct k c).core j = t.core j := by
      intro t; unfold State.removeAct; split
      · rfl
      · exact State.core_setCore_of_ne _ _ h
    have e1' : ∀ (t : State) x, (t.removeAct k x).core j = t.core j := by
      intro t x; unfold State.removeAct; split
      · rfl
      · exact State.core_setCore_of_ne _ _ h
    have e2 : ∀ (t : State) id, (t.removeById k id).core j = t.core j := by
      intro t id; unfold State.removeById; split
      · exact e1' _ _
      · exact State.core_setCore_of_ne _ _ h
    have e3 : ∀ (t : State), (t.resumeVictims k).core j = t.core j := fun t => State.core_setCore_of_ne _ _ h
    dsimp only
    split
    · rw [e3, e2, e1, trace_core]
    · rw [e3, e1, trace_core]

theorem endAct_clock (s : State) (k c : Nat) : (s.endAct k c).clock = s.clock := by
  have e0 : ∀ (t : State) x y z w, (t.trace x y z w).clock = t.clock := by
    intro t x y z w; unfold State.trace; dsimp only; split <;> rfl
  have e1 : ∀ (t : State) x, (t.removeAct k x).clock = t.clock := by
    intro t x; unfold State.removeAct; split <;> rfl
  have e2 : ∀ (t : State) id, (t.removeById k id).clock = t.clock := by
    intro t id; unfold State.removeById; split
    · exact e1 _ _
    · rfl
  have e3 : ∀ (t : State), (t.resumeVictims k).clock = t.clock := fun t => rfl
  unfold State.endAct
  split
  · rfl
  · dsimp only
    split
    · rw [e3, e2, e1, e0]
    · rw [e3, e1, e0]

theorem look_map_none {m : Sparse Activation} {c : Nat} {f : Nat × Activation → Nat × Activation} (hf : ∀ e, (f e).1 = e.1)
    (h : Sparse.look m c = none) : Sparse.look (m.map f) c = none := by
  induction m with
  | nil => rfl
  | cons e rest ih =>
    obtain ⟨i, v⟩ := e
    simp only [Sparse.look] at h
    split at h
    · cases h
    · rename_i hi
      rw [List.map_cons]
      have h1 : (f (i, v)).1 ≠ c := by rw [hf]; exact hi
      rw [show f (i, v) = ((f (i, v)).1, (f (i, v)).2) from rfl]
      simp only [Sparse.look, if_neg h1]
      exact ih h

theorem look_drop_none {m : Sparse Activation} {c x : Nat} (h : Sparse.look m c = none) : Sparse.look (Sparse.drop x m) c = none := by
  by_cases hx : x = c
  · subst hx; exact Sparse.look_drop_self _ _
  · rw [Sparse.look_drop_of_ne _ hx]; exact h

theorem endAct_gone {s : State} {k c : Nat} {a : Activation} (ha : s.act? k c = some a) : (s.endAct k c).act? k c = none := by
  have r1 : ∀ (t : State) x, t.act? k c = none → (t.removeAct k x).act? k c = none := by
    intro t x h
    unfold State.removeAct
    split
    · exact h
    · rw [State.act?, State.core_setCore_self]; exact look_drop_none h
  have r2 : ∀ (t : State) id, t.act? k c = none → (t.removeById k id).act? k c = none := by
    intro t id h
    unfold State.removeById
    split
    · exact r1 _ _ h
    · rw [State.act?, State.core_setCore_self]
      show Sparse.look ((t.core k).profileSaved id t.ns).acts c = none
      rw [Core.profileSaved_acts]; exact h
  have r3 : ∀ (t : State), t.act? k c = none → (t.resumeVictims k).act? k c = none := by
    intro t h
    unfold State.resumeVictims
    rw [State.act?, State.core_setCore_self]
    exact look_map_none (fun e => by split <;> rfl) h
  have r0 : ∀ (t : State) b, t.act? k c = some b → (t.removeAct k c).act? k c = none := by
    intro t b h
    unfold State.removeAct
    rw [h]
    rw [State.act?, State.core_setCore_self]; exact Sparse.look_drop_self _ _
  have ht : ∀ x k' d, (s.trace k x k' d).act? k c = some a := fun x k' d => by rw [State.act?, trace_core]; exact ha
  unfold State.endAct
  rw [ha]
  dsimp only
  split
  · exact r3 _ (r2 _ _ (r0 _ _ (ht _ _ _)))
  · exact r3 _ (r0 _ _ (ht _ _ _))

theorem act_ne {s t : State} {j : Nat} (h : t.core j = s.core j) (c : Nat) : t.act? j c = s.act? j c := by
  rw [State.act?, State.act?, h]

/-- The run of the followers of a gang, each of which the body ends: they go, and the other cores stand. -/
theorem gangRun_ends {body : State → Att} {K : Nat} : ∀ (l : List (Nat × Nat)) (t : State), l.Pairwise (fun x y => x.1 ≠ y.1) →
      (∀ m ∈ l, m.1 ≠ K) →
      (∀ (u : State) (m : Nat × Nat), u.core K = t.core K → m ∈ l → u.act? m.1 m.2 = t.act? m.1 m.2 →
        body (u.focusOn m.1 m.2) = .ok ((u.focusOn m.1 m.2).endAct m.1 m.2)) →
      (∀ m ∈ l, (t.act? m.1 m.2).isSome = true) →
      ∃ u, gangRun body l t = .ok u ∧ (∀ j, (∀ m ∈ l, m.1 ≠ j) → u.core j = t.core j) ∧ u.clock = t.clock ∧
        ∀ m ∈ l, u.act? m.1 m.2 = none := by
  intro l
  induction l with
  | nil => intro t _ _ _ _; exact ⟨t, rfl, fun _ _ => rfl, rfl, fun _ h => absurd h List.not_mem_nil⟩
  | cons m rest ih =>
    intro t hp hK hb hs
    obtain ⟨k, c⟩ := m
    rw [List.pairwise_cons] at hp
    have e0 := hb t (k, c) rfl (List.mem_cons_self ..) rfl
    have hne : ∀ x ∈ rest, k ≠ x.1 := fun x hx => hp.1 x hx
    have hcore : ∀ j, k ≠ j → ((t.focusOn k c).endAct k c).core j = t.core j := fun j hj => endAct_core_ne hj
    obtain ⟨u, hu, hc, hcl, hg⟩ := ih ((t.focusOn k c).endAct k c) hp.2 (fun m hm => hK m (List.mem_cons_of_mem _ hm))
      (fun u m pu hm hu => hb u m (pu.trans (hcore K (hK (k, c) (List.mem_cons_self ..)))) (List.mem_cons_of_mem _ hm)
        (hu.trans (act_ne (hcore m.1 (hne m hm)) m.2)))
      (fun m hm => by
        have := act_ne (hcore m.1 (hne m hm)) m.2
        rw [this]; exact hs m (List.mem_cons_of_mem _ hm))
    refine ⟨u, ?_, ?_, ?_, ?_⟩
    · simp only [gangRun]
      have e1 : body (t.focusOn k c) = .ok ((t.focusOn k c).endAct k c) := e0
      rw [e1]; exact hu
    · intro j hj
      rw [hc j (fun m hm => hj m (List.mem_cons_of_mem _ hm))]
      exact hcore j (hj (k, c) (List.mem_cons_self ..))
    · rw [hcl, endAct_clock]; rfl
    · intro m hm
      rcases List.mem_cons.mp hm with rfl | hm
      · obtain ⟨b, hb'⟩ := Option.isSome_iff_exists.mp (hs (k, c) (List.mem_cons_self ..))
        have h1 : ((t.focusOn k c).endAct k c).act? k c = none := endAct_gone (a := b) hb'
        rw [act_ne (hc k (fun m hm => (hne m hm).symm)), h1]
      · exact hg m hm

theorem noteFollower_core {s : State} {k c j : Nat} {a : Activation} {e : Entry} {gone : Bool} (h : k ≠ j) :
    (s.noteFollower k c a e gone).core j = s.core j := by
  unfold State.noteFollower
  dsimp only
  have h1 : ∀ d : Core, (s.setCore k d).core j = s.core j := fun _ => State.core_setCore_of_ne _ _ h
  split
  · split
    · rw [State.setActAt, State.core_setCore_of_ne _ _ h, h1]
    · exact h1 _
  · exact h1 _

theorem noteFollower_gone {s : State} {k c : Nat} {a : Activation} {e : Entry} {gone : Bool} (h : s.act? k c = none) :
    (s.noteFollower k c a e gone).act? k c = none := by
  have h1 : ∀ b : Bool, (s.setCore k (if b then ({ (s.core k).issued a c e with given := true } : Core).stepDrains c
      else { (s.core k).issued a c e with given := true })).act? k c = none := by
    intro b
    rw [State.act?, State.core_setCore_self]
    cases b
    all_goals
      show Sparse.look ((s.core k).issued a c e).acts c = none
      rw [Core.issued_acts]; exact h
  unfold State.noteFollower
  dsimp only
  rw [h1]
  exact h1 _

theorem note_fold {s0 : State} {e : Entry} {gone : Bool} : ∀ (l : List (Nat × Nat)) (t : State), l.Pairwise (fun x y => x.1 ≠ y.1) →
    (∀ m ∈ l, t.act? m.1 m.2 = none) →
    (∀ j, (∀ m ∈ l, m.1 ≠ j) → (l.foldl (fun u m => u.noteFollower m.1 m.2 (s0.actAt m.1 m.2) e gone) t).core j = t.core j) ∧
    ∀ m ∈ l, (l.foldl (fun u m => u.noteFollower m.1 m.2 (s0.actAt m.1 m.2) e gone) t).act? m.1 m.2 = none := by
  intro l
  induction l with
  | nil => intro t _ _; exact ⟨fun _ _ => rfl, fun _ h => absurd h List.not_mem_nil⟩
  | cons m rest ih =>
    intro t hp hn
    rw [List.pairwise_cons] at hp
    have hc : ∀ j, m.1 ≠ j → (t.noteFollower m.1 m.2 (s0.actAt m.1 m.2) e gone).core j = t.core j := fun j h => noteFollower_core h
    obtain ⟨i1, i2⟩ := ih (t.noteFollower m.1 m.2 (s0.actAt m.1 m.2) e gone) hp.2
      (fun x hx => by rw [act_ne (hc _ (hp.1 x hx))]; exact hn x (List.mem_cons_of_mem _ hx))
    rw [List.foldl_cons]
    refine ⟨fun j hj => ?_, fun x hx => ?_⟩
    · rw [i1 j (fun x hx => hj x (List.mem_cons_of_mem _ hx))]; exact hc j (hj m (List.mem_cons_self ..))
    · rcases List.mem_cons.mp hx with rfl | hx
      · rw [act_ne (i1 x.1 (fun y hy => (hp.1 y hy).symm))]
        exact noteFollower_gone (hn x (List.mem_cons_self ..))
      · exact i2 x hx

/-- Landing counts adds no activation, and changes none but members of the gang on cores behind the leader's. -/
theorem land_fold {l0 : Activation} : ∀ (l : List (Nat × Nat)) (t : State),
    (∀ j, (∀ m ∈ l, m.1 ≠ j) → (l.foldl (fun t m => match t.act? m.1 m.2 with
      | some b => if b.f.counts.isEmpty then t
          else t.setActAt m.1 m.2 (landFrom l0.f.abuf l0.f.xbuf b [] b.f.counts)
      | none => t) t).core j = t.core j) ∧
    ∀ k c, t.act? k c = none → (l.foldl (fun t m => match t.act? m.1 m.2 with
      | some b => if b.f.counts.isEmpty then t
          else t.setActAt m.1 m.2 (landFrom l0.f.abuf l0.f.xbuf b [] b.f.counts)
      | none => t) t).act? k c = none := by
  intro l
  induction l with
  | nil => intro t; exact ⟨fun _ _ => rfl, fun _ _ h => h⟩
  | cons m rest ih =>
    intro t
    rw [List.foldl_cons]
    have st : ∀ (u : State), u = (match t.act? m.1 m.2 with
      | some b => if b.f.counts.isEmpty then t
          else t.setActAt m.1 m.2 (landFrom l0.f.abuf l0.f.xbuf b [] b.f.counts)
      | none => t) → (∀ j, m.1 ≠ j → u.core j = t.core j) ∧ ∀ k c, t.act? k c = none → u.act? k c = none := by
      intro u hu
      split at hu
      · rename_i b hb
        split at hu
        · subst hu; exact ⟨fun _ _ => rfl, fun _ _ h => h⟩
        · subst hu
          refine ⟨fun j hj => State.core_setCore_of_ne _ _ hj, fun k c h => ?_⟩
          by_cases hk : m.1 = k
          · subst hk
            by_cases hc : m.2 = c
            · subst hc; rw [hb] at h; cases h
            · rw [State.act?_setActAt_ctx _ _ _ hc]; exact h
          · rw [State.act?, State.setActAt, State.core_setCore_of_ne _ _ hk]; exact h
      · subst hu; exact ⟨fun _ _ => rfl, fun _ _ h => h⟩
    obtain ⟨s1, s2⟩ := st _ rfl
    obtain ⟨i1, i2⟩ := ih _
    refine ⟨fun j hj => ?_, fun k c h => i2 _ _ (s2 _ _ h)⟩
    rw [i1 j (fun x hx => hj x (List.mem_cons_of_mem _ hx))]; exact s1 j (hj m (List.mem_cons_self ..))

theorem noteGang_ends {s0 t : State} {g : Gang} {e : Entry} {gone : Bool} {L : (Nat × Nat)} {rest : List (Nat × Nat)}
    (hp : rest.Pairwise (fun x y => x.1 ≠ y.1)) (hn : ∀ m ∈ rest, t.act? m.1 m.2 = none) :
    (∀ m ∈ rest, (s0.noteGang g (L :: rest) e gone t).act? m.1 m.2 = none) ∧
    (∀ c, (∀ m ∈ rest, m.1 ≠ g.leaderCore) → (s0.noteGang g (L :: rest) e gone t).act? g.leaderCore c = t.act? g.leaderCore c) := by
  obtain ⟨h1, h2⟩ := note_fold (s0 := s0) (e := e) (gone := gone) rest t hp hn
  unfold State.noteGang State.landFollowers
  rw [List.drop_succ_cons, List.drop_zero]
  split
  · exact ⟨h2, fun c hc => act_ne (h1 _ hc) c⟩
  · rename_i l hl
    obtain ⟨q1, q2⟩ := land_fold (l0 := l) (((rest.foldl (fun u m => u.noteFollower m.1 m.2 (s0.actAt m.1 m.2) e gone) t).gangMembers g).drop 1)
      (rest.foldl (fun u m => u.noteFollower m.1 m.2 (s0.actAt m.1 m.2) e gone) t)
    refine ⟨fun m hm => q2 _ _ (h2 m hm), fun c hc => ?_⟩
    refine (act_ne (q1 g.leaderCore ?_) c).trans (act_ne (h1 _ hc) c)
    intro m hm
    have hpw := gang_pairwise (rest.foldl (fun u m => u.noteFollower m.1 m.2 (s0.actAt m.1 m.2) e gone) t) g
    cases hsz : g.size with
    | zero =>
      exfalso
      have : State.gangMembers (rest.foldl (fun u m => u.noteFollower m.1 m.2 (s0.actAt m.1 m.2) e gone) t) g = [] := by
        unfold State.gangMembers; rw [hsz]; rfl
      rw [this] at hm; cases hm
    | succ n =>
      obtain ⟨r, hr⟩ := gang_head (rest.foldl (fun u m => u.noteFollower m.1 m.2 (s0.actAt m.1 m.2) e gone) t) (g := g) (by omega)
      rw [hr] at hpw hm
      rw [List.pairwise_cons] at hpw
      exact (hpw.1 m hm).symm

theorem follower_body {u s : State} {a : Activation} {g : Gang} (h : GangReady s a g) {m : Nat × Nat}
    (hm : m ∈ (s.gangMembers g).drop 1) (hk : (u.act? g.leaderCore g.leaderCtx).getD {} = a ∨ u.act? g.leaderCore g.leaderCtx = none)
    (hu : u.act? m.1 m.2 = s.act? m.1 m.2) (k : Activation → Entry → Att) :
    (u.focusOn m.1 m.2).lane ≠ 0 ∧
    ∃ e, xQuiet (u.focusOn m.1 m.2) (aBody [] (fun _ => false) k (u.focusOn m.1 m.2)) = k (u.focusOn m.1 m.2).cur e := by
  obtain ⟨b, hg, hb, hf, hl, h1, h2, hp⟩ := h.follow m hm
  have hc : (u.focusOn m.1 m.2).cur = b := by
    show ((u.focusOn m.1 m.2).act? m.1 m.2).getD {} = b
    rw [show (u.focusOn m.1 m.2).act? m.1 m.2 = u.act? m.1 m.2 from rfl, hu, hb]; rfl
  have hact : (u.focusOn m.1 m.2).act? hg.leaderCore hg.leaderCtx = u.act? g.leaderCore g.leaderCtx := by rw [h1, h2]; rfl
  refine ⟨by rw [State.lane, hc, hf]; exact hl, ?_⟩
  have hq : (u.focusOn m.1 m.2).bufs.2 = [] := by
    rw [State.bufs, hc, hf]
    show ((((u.focusOn m.1 m.2).act? hg.leaderCore hg.leaderCtx).getD {}).f.xbuf) = []
    rw [hact]
    rcases hk with hk | hk
    · rw [hk]; exact h.quiet.1
    · rw [hk]; rfl
  obtain ⟨e, he, hv⟩ : ∃ e, (u.focusOn m.1 m.2).head .a = e ∧ (e.reservedHint = none ∧ e.badHint = none) := by
    refine ⟨_, rfl, ?_⟩
    rw [State.head, hc, hf]
    show Entry.reservedHint (if hg.lane = 0 then _ else _) = none ∧ Entry.badHint (if hg.lane = 0 then _ else _) = none
    rw [if_neg hl, hact]
    rcases hk with hk | hk
    · rw [hk]; exact ⟨h.valid, h.taken⟩
    · rw [hk]; decide
  refine ⟨e, ?_⟩
  unfold xQuiet
  rw [hq, hc, hp]
  unfold aBody guardHints
  rw [he, hc]
  simp only [List.isEmpty_nil, Bool.and_self, Att.need_true, List.all_nil, hv.1, hv.2, Bool.not_false, Att.check_true]

theorem leader_body {s : State} {a : Activation} {g : Gang} (h : GangReady s a g) (k : Activation → Entry → Att) :
    xQuiet s (aBody [] (fun _ => false) k s) = k a (a.headEntry .a) := by
  have hc : s.cur = a := by rw [State.cur, h.here]; rfl
  have ha : (s.act? g.leaderCore g.leaderCtx).getD {} = a := by
    rw [h.leads.2.2.1, h.leads.2.2.2.1]; exact hc
  have hh : s.head .a = a.headEntry .a := by rw [State.head, hc, h.leads.1]; simp only [h.leads.2.1, if_true]
  unfold xQuiet aBody guardHints
  rw [State.bufs, hc, h.leads.1]
  dsimp only
  rw [ha, h.quiet.1, h.quiet.2, hh]
  simp only [List.isEmpty_nil, Bool.and_self, Att.need_true, List.all_nil, h.valid, h.taken, Bool.not_false, Att.check_true]

theorem gang_dispatch {s t : State} {a : Activation} {g : Gang} {body : State → Att} (h : GangReady s a g)
    (hn : ∀ m ∈ s.gangMembers g, ∃ u, body (s.focusOn m.1 m.2) = .ok u)
    (hr : gangRun body (s.gangMembers g) s = .ok t) :
    dispatch .a body s = .next (s.noteGang g (s.gangMembers g) (a.headEntry .a) true
      ((t.focusOn g.leaderCore g.leaderCtx).finish .a)) := by
  have h1 : gangStalls body s (s.gangMembers g) = false := by
    rw [gangStalls, List.any_eq_false]
    intro m hm
    obtain ⟨u, hu⟩ := hn m hm
    rw [hu]; simp
  have h2 : ∀ l : List (Nat × Nat), (∀ m ∈ l, ∃ u, body (s.focusOn m.1 m.2) = .ok u) → gangVerdict body s l = none := by
    intro l
    induction l with
    | nil => intro _; rfl
    | cons m rest ih =>
      intro hl
      obtain ⟨k, c⟩ := m
      obtain ⟨u, hu⟩ := hl (k, c) (List.mem_cons_self ..)
      have hu' : body (s.focusOn k c) = .ok u := hu
      rw [gangVerdict, hu']
      exact ih (fun m hm => hl m (List.mem_cons_of_mem _ hm))
  have h3 : (s.gangMembers g).all (s.memberReady .a) = true := by rw [List.all_eq_true]; exact h.ready
  have h4 : g.acting (a.headEntry .a) (s.gangMembers g) = s.gangMembers g := by rw [Gang.acting, h.every]
  unfold dispatch
  rw [h.here]
  simp only [h4, h.may, h.leads.1, h.whole, h1, h2 _ hn, h3, hr, Bool.not_true, Bool.false_eq_true, if_false, bne_self_eq_false, Bool.or_self]

theorem leader_facts {s : State} {a : Activation} {g : Gang} (h : GangReady s a g) :
    ∃ rest, s.gangMembers g = (g.leaderCore, g.leaderCtx) :: rest ∧ rest.Pairwise (fun x y => x.1 ≠ y.1) ∧
      (∀ m ∈ rest, m.1 ≠ g.leaderCore) ∧ (∀ m ∈ rest, m ∈ (s.gangMembers g).drop 1) ∧
      (∀ m ∈ rest, (s.act? m.1 m.2).isSome = true) ∧ GangReady (s.focusOn g.leaderCore g.leaderCtx) a g := by
  obtain ⟨rest, hr⟩ := gang_head s h.leads.2.2.2.2
  have hp := gang_pairwise s g
  rw [hr, List.pairwise_cons] at hp
  refine ⟨rest, hr, hp.2, fun m hm => (hp.1 m hm).symm, fun m hm => by rw [hr]; exact hm, fun m hm => ?_, ?_⟩
  · obtain ⟨b, _, hb, _⟩ := h.follow m (by rw [hr]; exact hm)
    rw [hb]; rfl
  · refine ⟨?_, h.may, ⟨h.leads.1, h.leads.2.1, rfl, rfl, h.leads.2.2.2.2⟩, h.whole, h.ready, h.follow, h.quiet, h.valid, h.taken, h.every⟩
    show s.act? g.leaderCore g.leaderCtx = some a
    rw [h.leads.2.2.1, h.leads.2.2.2.1]; exact h.here

theorem finish_core {s : State} {h : Half} {j : Nat} (hj : s.focus.core ≠ j) : (s.finish h).core j = s.core j := by
  have d : ∀ (t : State) e, t.focus.core ≠ j → (t.dispatched e).core j = t.core j := by
    intro t e ht
    unfold State.dispatched
    split
    · rfl
    · show (State.setCur (t.setCurCore _) _).core j = t.core j
      unfold State.setCur State.setCurCore State.setActAt
      dsimp only
      refine (State.core_setCore_of_ne _ _ ht).trans ?_
      exact State.core_setCore_of_ne _ _ ht
  unfold State.finish
  dsimp only
  split
  · exact (d (s.setCur _) _ hj).trans (State.core_setCore_of_ne _ _ hj)
  · exact d _ _ hj

end Sys2Proof.Machine
end

