-- ==== Sys2Proof/Laws/Guarded.lean ====
section
/-! SUPPORT. When the protected CSRs of the cores stand (06 R118). -/

namespace Sys2Proof.Machine

/-- No protected CSR of any core differs. -/
def SameGuarded (s t : State) : Prop := ∀ k, (t.core k).csr.guarded = (s.core k).csr.guarded

theorem Keeps.guarded {s t : State} (h : Keeps s t) : SameGuarded s t := fun k => by rw [h.csr k]

theorem KeepsButFlags.guarded {s t : State} (h : KeepsButFlags s t) : SameGuarded s t := fun k => by
  obtain ⟨f, e⟩ := h.csr k
  rw [e]
  rfl

theorem Kept.guarded {s t : State} (h : Kept s t) : SameGuarded s t := h.butFlags.guarded

theorem SameGuarded.trans {s t u : State} (h : SameGuarded s t) (k : SameGuarded t u) : SameGuarded s u := fun j => (k j).trans (h j)

theorem solo_dispatch {s t : State} {h : Half} {a : Activation} {body : State → Att} (hc : s.cur? = some a)
    (hg : a.flow.gang = none) (hb : (body s).Holds (SameGuarded s)) (e : dispatch h body s = .next t) : SameGuarded s t := by
  unfold dispatch at e
  rw [hc] at e
  dsimp only at e
  split at e
  · cases e; exact fun _ => rfl
  · rw [hg] at e
    dsimp only at e
    split at e
    · cases e; exact fun _ => rfl
    · cases e; exact ((Keeps.refl s).takeTrap (by rw [cur_of_cur? hc, hg])).guarded
    · rename_i w hw; rw [hw] at hb; cases e; exact SameGuarded.trans hb (Keeps.refl w).finish.guarded
    · rename_i w hw; rw [hw] at hb; cases e; exact SameGuarded.trans hb (Keeps.refl w).dispatched.guarded
    · rename_i w hw; rw [hw] at hb; cases e; exact SameGuarded.trans hb (Keeps.refl w).verdict.guarded

theorem guarded_of_cores {s t : State} (h : t.cores = s.cores) : SameGuarded s t := fun k => by
  rw [State.core, State.core, h]

theorem guarded_setCur {s : State} {a : Activation} : SameGuarded s (s.setCur a) := (Keeps.refl s).setCur.guarded

theorem guarded_trace {s : State} {x y : BitVec 14} : SameGuarded s (s.traceJump x y) := (Keeps.refl s).trace.guarded

theorem guarded_setCore {s : State} {k : Nat} {c : Core} (h : c.csr.guarded = (s.core k).csr.guarded) : SameGuarded s (s.setCore k c) := by
  intro j
  by_cases hj : k = j
  · subst hj; rw [State.core_setCore_self, h]
  · rw [State.core_setCore_of_ne _ _ hj]

theorem csrWrite_guarded {s : State} {n v : Nat} (h : csrProtected n = false) (h1 : (csrAssigned n && !csrReadOnly n) = true) :
    SameGuarded s (s.csrWrite s.focus.core n v) := by
  have : n = 7 := by
    simp [csrProtected, csrAssigned, csrReadOnly] at h h1
    omega
  subst this
  exact guarded_setCore rfl

end Sys2Proof.Machine
end

