-- ==== Sys2Proof/Laws/HomeEach.lean ====
section
/-! SUPPORT. What each instruction that a word encodes leaves alone of the other cores, the other activations and the own
registers, one lemma each. -/

namespace Sys2Proof.Machine

set_option Elab.async false

theorem home_hint {ds : List Nat} {w : Nat} {a : Activation} {s t : State} (hc : s.cur? = some a) (hg : a.flow.gang = none)
    (h : execHint w s = .next t) : StaysHome ds a s t := by
  have h0 : StaysHome ds a s s := StaysHome.refl hc
  unfold execHint at h
  rw [hc] at h
  dsimp only at h
  cases hh : hintHalf a s.focus.half w with
  | none => rw [hh] at h; cases h; exact h0.verdict
  | some hf =>
    rw [hh] at h
    dsimp only at h
    cases hb : a.buf hf with
    | nil => rw [hb] at h; cases h; exact h0.verdict
    | cons e rest =>
      rw [hb] at h
      dsimp only at h
      split at h
      · cases h
        refine StaysHome.verdict (StaysHome.setCur (h0.lockMembers hg) ?_)
        cases hf <;> exact (SameRegs.refl ds a).of_eq rfl rfl
      · exact StaysHome.dispatch hc hg (Att.holds_guardHints (k := .stall) True.intro) h

theorem home_add {w_ d_ a_ b_ : Nat} {a : Activation} {s0 s1 : State} (hc : s0.cur? = some a) (hg : a.flow.gang = none)
    (hx : exec (.add w_ d_ a_ b_) s0 = .next s1) : StaysHome (destRegs (.add w_ d_ a_ b_)) a s0 s1 := by
  have h : execAdd w_ d_ a_ b_ s0 = .next s1 := hx
  clear hx
  unfold execAdd execX3 at h
  exact StaysHome.dispatch hc hg (by unfold intBody; exact StaysHome.xBody hc) h

theorem home_sub {w_ d_ a_ b_ : Nat} {a : Activation} {s0 s1 : State} (hc : s0.cur? = some a) (hg : a.flow.gang = none)
    (hx : exec (.sub w_ d_ a_ b_) s0 = .next s1) : StaysHome (destRegs (.sub w_ d_ a_ b_)) a s0 s1 := by
  have h : execSub w_ d_ a_ b_ s0 = .next s1 := hx
  clear hx
  unfold execSub execX3 at h
  exact StaysHome.dispatch hc hg (by unfold intBody; exact StaysHome.xBody hc) h

theorem home_addi {w_ d_ a_ im_ : Nat} {a : Activation} {s0 s1 : State} (hc : s0.cur? = some a) (hg : a.flow.gang = none)
    (hx : exec (.addi w_ d_ a_ im_) s0 = .next s1) : StaysHome (destRegs (.addi w_ d_ a_ im_)) a s0 s1 := by
  have h : execAddi w_ d_ a_ im_ s0 = .next s1 := hx
  clear hx
  unfold execAddi execXI at h
  exact StaysHome.dispatch hc hg (by unfold intBody; exact StaysHome.xBody hc) h

theorem home_mul {w_ d_ a_ b_ : Nat} {a : Activation} {s0 s1 : State} (hc : s0.cur? = some a) (hg : a.flow.gang = none)
    (hx : exec (.mul w_ d_ a_ b_) s0 = .next s1) : StaysHome (destRegs (.mul w_ d_ a_ b_)) a s0 s1 := by
  have h : execMul w_ d_ a_ b_ s0 = .next s1 := hx
  clear hx
  unfold execMul execX3 at h
  exact StaysHome.dispatch hc hg (by unfold intBody; exact StaysHome.xBody hc) h

theorem home_mulh {w_ d_ a_ b_ : Nat} {a : Activation} {s0 s1 : State} (hc : s0.cur? = some a) (hg : a.flow.gang = none)
    (hx : exec (.mulh w_ d_ a_ b_) s0 = .next s1) : StaysHome (destRegs (.mulh w_ d_ a_ b_)) a s0 s1 := by
  have h : execMulh w_ d_ a_ b_ s0 = .next s1 := hx
  clear hx
  unfold execMulh execX3 at h
  exact StaysHome.dispatch hc hg (by unfold intBody; exact StaysHome.xBody hc) h

theorem home_mulhu {w_ d_ a_ b_ : Nat} {a : Activation} {s0 s1 : State} (hc : s0.cur? = some a) (hg : a.flow.gang = none)
    (hx : exec (.mulhu w_ d_ a_ b_) s0 = .next s1) : StaysHome (destRegs (.mulhu w_ d_ a_ b_)) a s0 s1 := by
  have h : execMulhu w_ d_ a_ b_ s0 = .next s1 := hx
  clear hx
  unfold execMulhu execX3 at h
  exact StaysHome.dispatch hc hg (by unfold intBody; exact StaysHome.xBody hc) h

theorem home_mulw {w_ d_ a_ b_ : Nat} {a : Activation} {s0 s1 : State} (hc : s0.cur? = some a) (hg : a.flow.gang = none)
    (hx : exec (.mulw w_ d_ a_ b_) s0 = .next s1) : StaysHome (destRegs (.mulw w_ d_ a_ b_)) a s0 s1 := by
  have h : execMulw w_ d_ a_ b_ s0 = .next s1 := hx
  clear hx
  unfold execMulw at h
  exact StaysHome.dispatch hc hg (by unfold wideBody; exact StaysHome.xBody hc) h

theorem home_mulwu {w_ d_ a_ b_ : Nat} {a : Activation} {s0 s1 : State} (hc : s0.cur? = some a) (hg : a.flow.gang = none)
    (hx : exec (.mulwu w_ d_ a_ b_) s0 = .next s1) : StaysHome (destRegs (.mulwu w_ d_ a_ b_)) a s0 s1 := by
  have h : execMulwu w_ d_ a_ b_ s0 = .next s1 := hx
  clear hx
  unfold execMulwu at h
  exact StaysHome.dispatch hc hg (by unfold wideBody; exact StaysHome.xBody hc) h

theorem home_div {w_ d_ a_ b_ : Nat} {a : Activation} {s0 s1 : State} (hc : s0.cur? = some a) (hg : a.flow.gang = none)
    (hx : exec (.div w_ d_ a_ b_) s0 = .next s1) : StaysHome (destRegs (.div w_ d_ a_ b_)) a s0 s1 := by
  have h : execDiv w_ d_ a_ b_ s0 = .next s1 := hx
  clear hx
  unfold execDiv execX3 at h
  exact StaysHome.dispatch hc hg (by unfold intBody; exact StaysHome.xBody hc) h

theorem home_divu {w_ d_ a_ b_ : Nat} {a : Activation} {s0 s1 : State} (hc : s0.cur? = some a) (hg : a.flow.gang = none)
    (hx : exec (.divu w_ d_ a_ b_) s0 = .next s1) : StaysHome (destRegs (.divu w_ d_ a_ b_)) a s0 s1 := by
  have h : execDivu w_ d_ a_ b_ s0 = .next s1 := hx
  clear hx
  unfold execDivu execX3 at h
  exact StaysHome.dispatch hc hg (by unfold intBody; exact StaysHome.xBody hc) h

theorem home_rem {w_ d_ a_ b_ : Nat} {a : Activation} {s0 s1 : State} (hc : s0.cur? = some a) (hg : a.flow.gang = none)
    (hx : exec (.rem w_ d_ a_ b_) s0 = .next s1) : StaysHome (destRegs (.rem w_ d_ a_ b_)) a s0 s1 := by
  have h : execRem w_ d_ a_ b_ s0 = .next s1 := hx
  clear hx
  unfold execRem execX3 at h
  exact StaysHome.dispatch hc hg (by unfold intBody; exact StaysHome.xBody hc) h

theorem home_remu {w_ d_ a_ b_ : Nat} {a : Activation} {s0 s1 : State} (hc : s0.cur? = some a) (hg : a.flow.gang = none)
    (hx : exec (.remu w_ d_ a_ b_) s0 = .next s1) : StaysHome (destRegs (.remu w_ d_ a_ b_)) a s0 s1 := by
  have h : execRemu w_ d_ a_ b_ s0 = .next s1 := hx
  clear hx
  unfold execRemu execX3 at h
  exact StaysHome.dispatch hc hg (by unfold intBody; exact StaysHome.xBody hc) h

theorem home_min {w_ d_ a_ b_ : Nat} {a : Activation} {s0 s1 : State} (hc : s0.cur? = some a) (hg : a.flow.gang = none)
    (hx : exec (.min w_ d_ a_ b_) s0 = .next s1) : StaysHome (destRegs (.min w_ d_ a_ b_)) a s0 s1 := by
  have h : execMin w_ d_ a_ b_ s0 = .next s1 := hx
  clear hx
  unfold execMin execX3 at h
  exact StaysHome.dispatch hc hg (by unfold intBody; exact StaysHome.xBody hc) h

theorem home_max {w_ d_ a_ b_ : Nat} {a : Activation} {s0 s1 : State} (hc : s0.cur? = some a) (hg : a.flow.gang = none)
    (hx : exec (.max w_ d_ a_ b_) s0 = .next s1) : StaysHome (destRegs (.max w_ d_ a_ b_)) a s0 s1 := by
  have h : execMax w_ d_ a_ b_ s0 = .next s1 := hx
  clear hx
  unfold execMax execX3 at h
  exact StaysHome.dispatch hc hg (by unfold intBody; exact StaysHome.xBody hc) h

theorem home_minu {w_ d_ a_ b_ : Nat} {a : Activation} {s0 s1 : State} (hc : s0.cur? = some a) (hg : a.flow.gang = none)
    (hx : exec (.minu w_ d_ a_ b_) s0 = .next s1) : StaysHome (destRegs (.minu w_ d_ a_ b_)) a s0 s1 := by
  have h : execMinu w_ d_ a_ b_ s0 = .next s1 := hx
  clear hx
  unfold execMinu execX3 at h
  exact StaysHome.dispatch hc hg (by unfold intBody; exact StaysHome.xBody hc) h

theorem home_maxu {w_ d_ a_ b_ : Nat} {a : Activation} {s0 s1 : State} (hc : s0.cur? = some a) (hg : a.flow.gang = none)
    (hx : exec (.maxu w_ d_ a_ b_) s0 = .next s1) : StaysHome (destRegs (.maxu w_ d_ a_ b_)) a s0 s1 := by
  have h : execMaxu w_ d_ a_ b_ s0 = .next s1 := hx
  clear hx
  unfold execMaxu execX3 at h
  exact StaysHome.dispatch hc hg (by unfold intBody; exact StaysHome.xBody hc) h

theorem home_adds {w_ d_ a_ b_ : Nat} {a : Activation} {s0 s1 : State} (hc : s0.cur? = some a) (hg : a.flow.gang = none)
    (hx : exec (.adds w_ d_ a_ b_) s0 = .next s1) : StaysHome (destRegs (.adds w_ d_ a_ b_)) a s0 s1 := by
  have h : execAdds w_ d_ a_ b_ s0 = .next s1 := hx
  clear hx
  unfold execAdds execX3 at h
  exact StaysHome.dispatch hc hg (by unfold intBody; exact StaysHome.xBody hc) h

theorem home_addus {w_ d_ a_ b_ : Nat} {a : Activation} {s0 s1 : State} (hc : s0.cur? = some a) (hg : a.flow.gang = none)
    (hx : exec (.addus w_ d_ a_ b_) s0 = .next s1) : StaysHome (destRegs (.addus w_ d_ a_ b_)) a s0 s1 := by
  have h : execAddus w_ d_ a_ b_ s0 = .next s1 := hx
  clear hx
  unfold execAddus execX3 at h
  exact StaysHome.dispatch hc hg (by unfold intBody; exact StaysHome.xBody hc) h

theorem home_subs {w_ d_ a_ b_ : Nat} {a : Activation} {s0 s1 : State} (hc : s0.cur? = some a) (hg : a.flow.gang = none)
    (hx : exec (.subs w_ d_ a_ b_) s0 = .next s1) : StaysHome (destRegs (.subs w_ d_ a_ b_)) a s0 s1 := by
  have h : execSubs w_ d_ a_ b_ s0 = .next s1 := hx
  clear hx
  unfold execSubs execX3 at h
  exact StaysHome.dispatch hc hg (by unfold intBody; exact StaysHome.xBody hc) h

theorem home_subus {w_ d_ a_ b_ : Nat} {a : Activation} {s0 s1 : State} (hc : s0.cur? = some a) (hg : a.flow.gang = none)
    (hx : exec (.subus w_ d_ a_ b_) s0 = .next s1) : StaysHome (destRegs (.subus w_ d_ a_ b_)) a s0 s1 := by
  have h : execSubus w_ d_ a_ b_ s0 = .next s1 := hx
  clear hx
  unfold execSubus execX3 at h
  exact StaysHome.dispatch hc hg (by unfold intBody; exact StaysHome.xBody hc) h

theorem home_neg {w_ d_ a_ : Nat} {a : Activation} {s0 s1 : State} (hc : s0.cur? = some a) (hg : a.flow.gang = none)
    (hx : exec (.neg w_ d_ a_) s0 = .next s1) : StaysHome (destRegs (.neg w_ d_ a_)) a s0 s1 := by
  have h : execNeg w_ d_ a_ s0 = .next s1 := hx
  clear hx
  unfold execNeg execX2 at h
  exact StaysHome.dispatch hc hg (by unfold intBody; exact StaysHome.xBody hc) h

theorem home_abs {w_ d_ a_ : Nat} {a : Activation} {s0 s1 : State} (hc : s0.cur? = some a) (hg : a.flow.gang = none)
    (hx : exec (.abs w_ d_ a_) s0 = .next s1) : StaysHome (destRegs (.abs w_ d_ a_)) a s0 s1 := by
  have h : execAbs w_ d_ a_ s0 = .next s1 := hx
  clear hx
  unfold execAbs execX2 at h
  exact StaysHome.dispatch hc hg (by unfold intBody; exact StaysHome.xBody hc) h

theorem home_and {w_ d_ a_ b_ : Nat} {a : Activation} {s0 s1 : State} (hc : s0.cur? = some a) (hg : a.flow.gang = none)
    (hx : exec (.and w_ d_ a_ b_) s0 = .next s1) : StaysHome (destRegs (.and w_ d_ a_ b_)) a s0 s1 := by
  have h : execAnd w_ d_ a_ b_ s0 = .next s1 := hx
  clear hx
  unfold execAnd execX3 at h
  exact StaysHome.dispatch hc hg (by unfold intBody; exact StaysHome.xBody hc) h

theorem home_or {w_ d_ a_ b_ : Nat} {a : Activation} {s0 s1 : State} (hc : s0.cur? = some a) (hg : a.flow.gang = none)
    (hx : exec (.or w_ d_ a_ b_) s0 = .next s1) : StaysHome (destRegs (.or w_ d_ a_ b_)) a s0 s1 := by
  have h : execOr w_ d_ a_ b_ s0 = .next s1 := hx
  clear hx
  unfold execOr execX3 at h
  exact StaysHome.dispatch hc hg (by unfold intBody; exact StaysHome.xBody hc) h

theorem home_xor {w_ d_ a_ b_ : Nat} {a : Activation} {s0 s1 : State} (hc : s0.cur? = some a) (hg : a.flow.gang = none)
    (hx : exec (.xor w_ d_ a_ b_) s0 = .next s1) : StaysHome (destRegs (.xor w_ d_ a_ b_)) a s0 s1 := by
  have h : execXor w_ d_ a_ b_ s0 = .next s1 := hx
  clear hx
  unfold execXor execX3 at h
  exact StaysHome.dispatch hc hg (by unfold intBody; exact StaysHome.xBody hc) h

theorem home_andn {w_ d_ a_ b_ : Nat} {a : Activation} {s0 s1 : State} (hc : s0.cur? = some a) (hg : a.flow.gang = none)
    (hx : exec (.andn w_ d_ a_ b_) s0 = .next s1) : StaysHome (destRegs (.andn w_ d_ a_ b_)) a s0 s1 := by
  have h : execAndn w_ d_ a_ b_ s0 = .next s1 := hx
  clear hx
  unfold execAndn execX3 at h
  exact StaysHome.dispatch hc hg (by unfold intBody; exact StaysHome.xBody hc) h

theorem home_andi {w_ d_ a_ im_ : Nat} {a : Activation} {s0 s1 : State} (hc : s0.cur? = some a) (hg : a.flow.gang = none)
    (hx : exec (.andi w_ d_ a_ im_) s0 = .next s1) : StaysHome (destRegs (.andi w_ d_ a_ im_)) a s0 s1 := by
  have h : execAndi w_ d_ a_ im_ s0 = .next s1 := hx
  clear hx
  unfold execAndi execXI at h
  exact StaysHome.dispatch hc hg (by unfold intBody; exact StaysHome.xBody hc) h

theorem home_ori {w_ d_ a_ im_ : Nat} {a : Activation} {s0 s1 : State} (hc : s0.cur? = some a) (hg : a.flow.gang = none)
    (hx : exec (.ori w_ d_ a_ im_) s0 = .next s1) : StaysHome (destRegs (.ori w_ d_ a_ im_)) a s0 s1 := by
  have h : execOri w_ d_ a_ im_ s0 = .next s1 := hx
  clear hx
  unfold execOri execXI at h
  exact StaysHome.dispatch hc hg (by unfold intBody; exact StaysHome.xBody hc) h

theorem home_xori {w_ d_ a_ im_ : Nat} {a : Activation} {s0 s1 : State} (hc : s0.cur? = some a) (hg : a.flow.gang = none)
    (hx : exec (.xori w_ d_ a_ im_) s0 = .next s1) : StaysHome (destRegs (.xori w_ d_ a_ im_)) a s0 s1 := by
  have h : execXori w_ d_ a_ im_ s0 = .next s1 := hx
  clear hx
  unfold execXori execXI at h
  exact StaysHome.dispatch hc hg (by unfold intBody; exact StaysHome.xBody hc) h

theorem home_shl {w_ d_ a_ b_ : Nat} {a : Activation} {s0 s1 : State} (hc : s0.cur? = some a) (hg : a.flow.gang = none)
    (hx : exec (.shl w_ d_ a_ b_) s0 = .next s1) : StaysHome (destRegs (.shl w_ d_ a_ b_)) a s0 s1 := by
  have h : execShl w_ d_ a_ b_ s0 = .next s1 := hx
  clear hx
  unfold execShl execX3 at h
  exact StaysHome.dispatch hc hg (by unfold intBody; exact StaysHome.xBody hc) h

theorem home_shr {w_ d_ a_ b_ : Nat} {a : Activation} {s0 s1 : State} (hc : s0.cur? = some a) (hg : a.flow.gang = none)
    (hx : exec (.shr w_ d_ a_ b_) s0 = .next s1) : StaysHome (destRegs (.shr w_ d_ a_ b_)) a s0 s1 := by
  have h : execShr w_ d_ a_ b_ s0 = .next s1 := hx
  clear hx
  unfold execShr execX3 at h
  exact StaysHome.dispatch hc hg (by unfold intBody; exact StaysHome.xBody hc) h

theorem home_sar {w_ d_ a_ b_ : Nat} {a : Activation} {s0 s1 : State} (hc : s0.cur? = some a) (hg : a.flow.gang = none)
    (hx : exec (.sar w_ d_ a_ b_) s0 = .next s1) : StaysHome (destRegs (.sar w_ d_ a_ b_)) a s0 s1 := by
  have h : execSar w_ d_ a_ b_ s0 = .next s1 := hx
  clear hx
  unfold execSar execX3 at h
  exact StaysHome.dispatch hc hg (by unfold intBody; exact StaysHome.xBody hc) h

theorem home_shli {w_ d_ a_ im_ : Nat} {a : Activation} {s0 s1 : State} (hc : s0.cur? = some a) (hg : a.flow.gang = none)
    (hx : exec (.shli w_ d_ a_ im_) s0 = .next s1) : StaysHome (destRegs (.shli w_ d_ a_ im_)) a s0 s1 := by
  have h : execShli w_ d_ a_ im_ s0 = .next s1 := hx
  clear hx
  unfold execShli execXC at h
  exact StaysHome.dispatch hc hg (by unfold intBody; exact StaysHome.xBody hc) h

theorem home_shri {w_ d_ a_ im_ : Nat} {a : Activation} {s0 s1 : State} (hc : s0.cur? = some a) (hg : a.flow.gang = none)
    (hx : exec (.shri w_ d_ a_ im_) s0 = .next s1) : StaysHome (destRegs (.shri w_ d_ a_ im_)) a s0 s1 := by
  have h : execShri w_ d_ a_ im_ s0 = .next s1 := hx
  clear hx
  unfold execShri execXC at h
  exact StaysHome.dispatch hc hg (by unfold intBody; exact StaysHome.xBody hc) h

theorem home_sari {w_ d_ a_ im_ : Nat} {a : Activation} {s0 s1 : State} (hc : s0.cur? = some a) (hg : a.flow.gang = none)
    (hx : exec (.sari w_ d_ a_ im_) s0 = .next s1) : StaysHome (destRegs (.sari w_ d_ a_ im_)) a s0 s1 := by
  have h : execSari w_ d_ a_ im_ s0 = .next s1 := hx
  clear hx
  unfold execSari execXC at h
  exact StaysHome.dispatch hc hg (by unfold intBody; exact StaysHome.xBody hc) h

theorem home_rol {w_ d_ a_ b_ : Nat} {a : Activation} {s0 s1 : State} (hc : s0.cur? = some a) (hg : a.flow.gang = none)
    (hx : exec (.rol w_ d_ a_ b_) s0 = .next s1) : StaysHome (destRegs (.rol w_ d_ a_ b_)) a s0 s1 := by
  have h : execRol w_ d_ a_ b_ s0 = .next s1 := hx
  clear hx
  unfold execRol execX3 at h
  exact StaysHome.dispatch hc hg (by unfold intBody; exact StaysHome.xBody hc) h

theorem home_roli {w_ d_ a_ im_ : Nat} {a : Activation} {s0 s1 : State} (hc : s0.cur? = some a) (hg : a.flow.gang = none)
    (hx : exec (.roli w_ d_ a_ im_) s0 = .next s1) : StaysHome (destRegs (.roli w_ d_ a_ im_)) a s0 s1 := by
  have h : execRoli w_ d_ a_ im_ s0 = .next s1 := hx
  clear hx
  unfold execRoli execXC at h
  exact StaysHome.dispatch hc hg (by unfold intBody; exact StaysHome.xBody hc) h

theorem home_fshl {w_ d_ a_ b_ : Nat} {a : Activation} {s0 s1 : State} (hc : s0.cur? = some a) (hg : a.flow.gang = none)
    (hx : exec (.fshl w_ d_ a_ b_) s0 = .next s1) : StaysHome (destRegs (.fshl w_ d_ a_ b_)) a s0 s1 := by
  have h : execFshl w_ d_ a_ b_ s0 = .next s1 := hx
  clear hx
  unfold execFshl at h
  exact StaysHome.dispatch hc hg (by unfold funnelBody; exact StaysHome.xBody hc) h

theorem home_fshr {w_ d_ a_ b_ : Nat} {a : Activation} {s0 s1 : State} (hc : s0.cur? = some a) (hg : a.flow.gang = none)
    (hx : exec (.fshr w_ d_ a_ b_) s0 = .next s1) : StaysHome (destRegs (.fshr w_ d_ a_ b_)) a s0 s1 := by
  have h : execFshr w_ d_ a_ b_ s0 = .next s1 := hx
  clear hx
  unfold execFshr at h
  exact StaysHome.dispatch hc hg (by unfold funnelBody; exact StaysHome.xBody hc) h

theorem home_sel {w_ d_ a_ b_ : Nat} {a : Activation} {s0 s1 : State} (hc : s0.cur? = some a) (hg : a.flow.gang = none)
    (hx : exec (.sel w_ d_ a_ b_) s0 = .next s1) : StaysHome (destRegs (.sel w_ d_ a_ b_)) a s0 s1 := by
  have h : execSel w_ d_ a_ b_ s0 = .next s1 := hx
  clear hx
  unfold execSel at h
  exact StaysHome.dispatch hc hg (by unfold selBody; exact StaysHome.xBody hc) h

theorem home_seq {w_ d_ a_ b_ : Nat} {a : Activation} {s0 s1 : State} (hc : s0.cur? = some a) (hg : a.flow.gang = none)
    (hx : exec (.seq w_ d_ a_ b_) s0 = .next s1) : StaysHome (destRegs (.seq w_ d_ a_ b_)) a s0 s1 := by
  have h : execSeq w_ d_ a_ b_ s0 = .next s1 := hx
  clear hx
  unfold execSeq execX3 at h
  exact StaysHome.dispatch hc hg (by unfold intBody; exact StaysHome.xBody hc) h

theorem home_sne {w_ d_ a_ b_ : Nat} {a : Activation} {s0 s1 : State} (hc : s0.cur? = some a) (hg : a.flow.gang = none)
    (hx : exec (.sne w_ d_ a_ b_) s0 = .next s1) : StaysHome (destRegs (.sne w_ d_ a_ b_)) a s0 s1 := by
  have h : execSne w_ d_ a_ b_ s0 = .next s1 := hx
  clear hx
  unfold execSne execX3 at h
  exact StaysHome.dispatch hc hg (by unfold intBody; exact StaysHome.xBody hc) h

theorem home_slt {w_ d_ a_ b_ : Nat} {a : Activation} {s0 s1 : State} (hc : s0.cur? = some a) (hg : a.flow.gang = none)
    (hx : exec (.slt w_ d_ a_ b_) s0 = .next s1) : StaysHome (destRegs (.slt w_ d_ a_ b_)) a s0 s1 := by
  have h : execSlt w_ d_ a_ b_ s0 = .next s1 := hx
  clear hx
  unfold execSlt execX3 at h
  exact StaysHome.dispatch hc hg (by unfold intBody; exact StaysHome.xBody hc) h

theorem home_sltu {w_ d_ a_ b_ : Nat} {a : Activation} {s0 s1 : State} (hc : s0.cur? = some a) (hg : a.flow.gang = none)
    (hx : exec (.sltu w_ d_ a_ b_) s0 = .next s1) : StaysHome (destRegs (.sltu w_ d_ a_ b_)) a s0 s1 := by
  have h : execSltu w_ d_ a_ b_ s0 = .next s1 := hx
  clear hx
  unfold execSltu execX3 at h
  exact StaysHome.dispatch hc hg (by unfold intBody; exact StaysHome.xBody hc) h

theorem home_sle {w_ d_ a_ b_ : Nat} {a : Activation} {s0 s1 : State} (hc : s0.cur? = some a) (hg : a.flow.gang = none)
    (hx : exec (.sle w_ d_ a_ b_) s0 = .next s1) : StaysHome (destRegs (.sle w_ d_ a_ b_)) a s0 s1 := by
  have h : execSle w_ d_ a_ b_ s0 = .next s1 := hx
  clear hx
  unfold execSle execX3 at h
  exact StaysHome.dispatch hc hg (by unfold intBody; exact StaysHome.xBody hc) h

theorem home_sleu {w_ d_ a_ b_ : Nat} {a : Activation} {s0 s1 : State} (hc : s0.cur? = some a) (hg : a.flow.gang = none)
    (hx : exec (.sleu w_ d_ a_ b_) s0 = .next s1) : StaysHome (destRegs (.sleu w_ d_ a_ b_)) a s0 s1 := by
  have h : execSleu w_ d_ a_ b_ s0 = .next s1 := hx
  clear hx
  unfold execSleu execX3 at h
  exact StaysHome.dispatch hc hg (by unfold intBody; exact StaysHome.xBody hc) h

theorem home_seqi {w_ d_ a_ im_ : Nat} {a : Activation} {s0 s1 : State} (hc : s0.cur? = some a) (hg : a.flow.gang = none)
    (hx : exec (.seqi w_ d_ a_ im_) s0 = .next s1) : StaysHome (destRegs (.seqi w_ d_ a_ im_)) a s0 s1 := by
  have h : execSeqi w_ d_ a_ im_ s0 = .next s1 := hx
  clear hx
  unfold execSeqi execXI at h
  exact StaysHome.dispatch hc hg (by unfold intBody; exact StaysHome.xBody hc) h

theorem home_slti {w_ d_ a_ im_ : Nat} {a : Activation} {s0 s1 : State} (hc : s0.cur? = some a) (hg : a.flow.gang = none)
    (hx : exec (.slti w_ d_ a_ im_) s0 = .next s1) : StaysHome (destRegs (.slti w_ d_ a_ im_)) a s0 s1 := by
  have h : execSlti w_ d_ a_ im_ s0 = .next s1 := hx
  clear hx
  unfold execSlti execXI at h
  exact StaysHome.dispatch hc hg (by unfold intBody; exact StaysHome.xBody hc) h

theorem home_mov {w_ d_ a_ : Nat} {a : Activation} {s0 s1 : State} (hc : s0.cur? = some a) (hg : a.flow.gang = none)
    (hx : exec (.mov w_ d_ a_) s0 = .next s1) : StaysHome (destRegs (.mov w_ d_ a_)) a s0 s1 := by
  have h : execMov w_ d_ a_ s0 = .next s1 := hx
  clear hx
  unfold execMov execX2 at h
  exact StaysHome.dispatch hc hg (by unfold intBody; exact StaysHome.xBody hc) h

theorem home_movi {w_ d_ im_ : Nat} {a : Activation} {s0 s1 : State} (hc : s0.cur? = some a) (hg : a.flow.gang = none)
    (hx : exec (.movi w_ d_ im_) s0 = .next s1) : StaysHome (destRegs (.movi w_ d_ im_)) a s0 s1 := by
  have h : execMovi w_ d_ im_ s0 = .next s1 := hx
  clear hx
  unfold execMovi at h
  exact StaysHome.dispatch hc hg (by unfold intBody; exact StaysHome.xBody hc) h

theorem home_exts {w_ d_ a_ im_ : Nat} {a : Activation} {s0 s1 : State} (hc : s0.cur? = some a) (hg : a.flow.gang = none)
    (hx : exec (.exts w_ d_ a_ im_) s0 = .next s1) : StaysHome (destRegs (.exts w_ d_ a_ im_)) a s0 s1 := by
  have h : execExts w_ d_ a_ im_ s0 = .next s1 := hx
  clear hx
  unfold execExts execXC at h
  exact StaysHome.dispatch hc hg (by unfold intBody; exact StaysHome.xBody hc) h

theorem home_extz {w_ d_ a_ im_ : Nat} {a : Activation} {s0 s1 : State} (hc : s0.cur? = some a) (hg : a.flow.gang = none)
    (hx : exec (.extz w_ d_ a_ im_) s0 = .next s1) : StaysHome (destRegs (.extz w_ d_ a_ im_)) a s0 s1 := by
  have h : execExtz w_ d_ a_ im_ s0 = .next s1 := hx
  clear hx
  unfold execExtz execXC at h
  exact StaysHome.dispatch hc hg (by unfold intBody; exact StaysHome.xBody hc) h

theorem home_clz {w_ d_ a_ : Nat} {a : Activation} {s0 s1 : State} (hc : s0.cur? = some a) (hg : a.flow.gang = none)
    (hx : exec (.clz w_ d_ a_) s0 = .next s1) : StaysHome (destRegs (.clz w_ d_ a_)) a s0 s1 := by
  have h : execClz w_ d_ a_ s0 = .next s1 := hx
  clear hx
  unfold execClz execX2 at h
  exact StaysHome.dispatch hc hg (by unfold intBody; exact StaysHome.xBody hc) h

theorem home_ctz {w_ d_ a_ : Nat} {a : Activation} {s0 s1 : State} (hc : s0.cur? = some a) (hg : a.flow.gang = none)
    (hx : exec (.ctz w_ d_ a_) s0 = .next s1) : StaysHome (destRegs (.ctz w_ d_ a_)) a s0 s1 := by
  have h : execCtz w_ d_ a_ s0 = .next s1 := hx
  clear hx
  unfold execCtz execX2 at h
  exact StaysHome.dispatch hc hg (by unfold intBody; exact StaysHome.xBody hc) h

theorem home_popc {w_ d_ a_ : Nat} {a : Activation} {s0 s1 : State} (hc : s0.cur? = some a) (hg : a.flow.gang = none)
    (hx : exec (.popc w_ d_ a_) s0 = .next s1) : StaysHome (destRegs (.popc w_ d_ a_)) a s0 s1 := by
  have h : execPopc w_ d_ a_ s0 = .next s1 := hx
  clear hx
  unfold execPopc execX2 at h
  exact StaysHome.dispatch hc hg (by unfold intBody; exact StaysHome.xBody hc) h

theorem home_brev {w_ d_ a_ : Nat} {a : Activation} {s0 s1 : State} (hc : s0.cur? = some a) (hg : a.flow.gang = none)
    (hx : exec (.brev w_ d_ a_) s0 = .next s1) : StaysHome (destRegs (.brev w_ d_ a_)) a s0 s1 := by
  have h : execBrev w_ d_ a_ s0 = .next s1 := hx
  clear hx
  unfold execBrev execX2 at h
  exact StaysHome.dispatch hc hg (by unfold intBody; exact StaysHome.xBody hc) h

theorem home_bext {w_ d_ a_ b_ : Nat} {a : Activation} {s0 s1 : State} (hc : s0.cur? = some a) (hg : a.flow.gang = none)
    (hx : exec (.bext w_ d_ a_ b_) s0 = .next s1) : StaysHome (destRegs (.bext w_ d_ a_ b_)) a s0 s1 := by
  have h : execBext w_ d_ a_ b_ s0 = .next s1 := hx
  clear hx
  unfold execBext execX3 at h
  exact StaysHome.dispatch hc hg (by unfold intBody; exact StaysHome.xBody hc) h

theorem home_bexts {w_ d_ a_ b_ : Nat} {a : Activation} {s0 s1 : State} (hc : s0.cur? = some a) (hg : a.flow.gang = none)
    (hx : exec (.bexts w_ d_ a_ b_) s0 = .next s1) : StaysHome (destRegs (.bexts w_ d_ a_ b_)) a s0 s1 := by
  have h : execBexts w_ d_ a_ b_ s0 = .next s1 := hx
  clear hx
  unfold execBexts execX3 at h
  exact StaysHome.dispatch hc hg (by unfold intBody; exact StaysHome.xBody hc) h

theorem home_bdep {w_ d_ a_ b_ : Nat} {a : Activation} {s0 s1 : State} (hc : s0.cur? = some a) (hg : a.flow.gang = none)
    (hx : exec (.bdep w_ d_ a_ b_) s0 = .next s1) : StaysHome (destRegs (.bdep w_ d_ a_ b_)) a s0 s1 := by
  have h : execBdep w_ d_ a_ b_ s0 = .next s1 := hx
  clear hx
  unfold execBdep execX3 at h
  exact StaysHome.dispatch hc hg (by unfold intBody; exact StaysHome.xBody hc) h

theorem home_paddL4 {w_ d_ a_ b_ : Nat} {a : Activation} {s0 s1 : State} (hc : s0.cur? = some a) (hg : a.flow.gang = none)
    (hx : exec (.paddL4 w_ d_ a_ b_) s0 = .next s1) : StaysHome (destRegs (.paddL4 w_ d_ a_ b_)) a s0 s1 := by
  have h : execPaddL4 w_ d_ a_ b_ s0 = .next s1 := hx
  clear hx
  unfold execPaddL4 at h
  exact StaysHome.dispatch hc hg (by unfold packedBody; exact StaysHome.xBody hc) h

theorem home_paddL8 {w_ d_ a_ b_ : Nat} {a : Activation} {s0 s1 : State} (hc : s0.cur? = some a) (hg : a.flow.gang = none)
    (hx : exec (.paddL8 w_ d_ a_ b_) s0 = .next s1) : StaysHome (destRegs (.paddL8 w_ d_ a_ b_)) a s0 s1 := by
  have h : execPaddL8 w_ d_ a_ b_ s0 = .next s1 := hx
  clear hx
  unfold execPaddL8 at h
  exact StaysHome.dispatch hc hg (by unfold packedBody; exact StaysHome.xBody hc) h

theorem home_paddL16 {w_ d_ a_ b_ : Nat} {a : Activation} {s0 s1 : State} (hc : s0.cur? = some a) (hg : a.flow.gang = none)
    (hx : exec (.paddL16 w_ d_ a_ b_) s0 = .next s1) : StaysHome (destRegs (.paddL16 w_ d_ a_ b_)) a s0 s1 := by
  have h : execPaddL16 w_ d_ a_ b_ s0 = .next s1 := hx
  clear hx
  unfold execPaddL16 at h
  exact StaysHome.dispatch hc hg (by unfold packedBody; exact StaysHome.xBody hc) h

theorem home_paddL32 {w_ d_ a_ b_ : Nat} {a : Activation} {s0 s1 : State} (hc : s0.cur? = some a) (hg : a.flow.gang = none)
    (hx : exec (.paddL32 w_ d_ a_ b_) s0 = .next s1) : StaysHome (destRegs (.paddL32 w_ d_ a_ b_)) a s0 s1 := by
  have h : execPaddL32 w_ d_ a_ b_ s0 = .next s1 := hx
  clear hx
  unfold execPaddL32 at h
  exact StaysHome.dispatch hc hg (by unfold packedBody; exact StaysHome.xBody hc) h

theorem home_psubL4 {w_ d_ a_ b_ : Nat} {a : Activation} {s0 s1 : State} (hc : s0.cur? = some a) (hg : a.flow.gang = none)
    (hx : exec (.psubL4 w_ d_ a_ b_) s0 = .next s1) : StaysHome (destRegs (.psubL4 w_ d_ a_ b_)) a s0 s1 := by
  have h : execPsubL4 w_ d_ a_ b_ s0 = .next s1 := hx
  clear hx
  unfold execPsubL4 at h
  exact StaysHome.dispatch hc hg (by unfold packedBody; exact StaysHome.xBody hc) h

theorem home_psubL8 {w_ d_ a_ b_ : Nat} {a : Activation} {s0 s1 : State} (hc : s0.cur? = some a) (hg : a.flow.gang = none)
    (hx : exec (.psubL8 w_ d_ a_ b_) s0 = .next s1) : StaysHome (destRegs (.psubL8 w_ d_ a_ b_)) a s0 s1 := by
  have h : execPsubL8 w_ d_ a_ b_ s0 = .next s1 := hx
  clear hx
  unfold execPsubL8 at h
  exact StaysHome.dispatch hc hg (by unfold packedBody; exact StaysHome.xBody hc) h

theorem home_psubL16 {w_ d_ a_ b_ : Nat} {a : Activation} {s0 s1 : State} (hc : s0.cur? = some a) (hg : a.flow.gang = none)
    (hx : exec (.psubL16 w_ d_ a_ b_) s0 = .next s1) : StaysHome (destRegs (.psubL16 w_ d_ a_ b_)) a s0 s1 := by
  have h : execPsubL16 w_ d_ a_ b_ s0 = .next s1 := hx
  clear hx
  unfold execPsubL16 at h
  exact StaysHome.dispatch hc hg (by unfold packedBody; exact StaysHome.xBody hc) h

theorem home_psubL32 {w_ d_ a_ b_ : Nat} {a : Activation} {s0 s1 : State} (hc : s0.cur? = some a) (hg : a.flow.gang = none)
    (hx : exec (.psubL32 w_ d_ a_ b_) s0 = .next s1) : StaysHome (destRegs (.psubL32 w_ d_ a_ b_)) a s0 s1 := by
  have h : execPsubL32 w_ d_ a_ b_ s0 = .next s1 := hx
  clear hx
  unfold execPsubL32 at h
  exact StaysHome.dispatch hc hg (by unfold packedBody; exact StaysHome.xBody hc) h

theorem home_pmaxuL4 {w_ d_ a_ b_ : Nat} {a : Activation} {s0 s1 : State} (hc : s0.cur? = some a) (hg : a.flow.gang = none)
    (hx : exec (.pmaxuL4 w_ d_ a_ b_) s0 = .next s1) : StaysHome (destRegs (.pmaxuL4 w_ d_ a_ b_)) a s0 s1 := by
  have h : execPmaxuL4 w_ d_ a_ b_ s0 = .next s1 := hx
  clear hx
  unfold execPmaxuL4 at h
  exact StaysHome.dispatch hc hg (by unfold packedBody; exact StaysHome.xBody hc) h

theorem home_pmaxuL8 {w_ d_ a_ b_ : Nat} {a : Activation} {s0 s1 : State} (hc : s0.cur? = some a) (hg : a.flow.gang = none)
    (hx : exec (.pmaxuL8 w_ d_ a_ b_) s0 = .next s1) : StaysHome (destRegs (.pmaxuL8 w_ d_ a_ b_)) a s0 s1 := by
  have h : execPmaxuL8 w_ d_ a_ b_ s0 = .next s1 := hx
  clear hx
  unfold execPmaxuL8 at h
  exact StaysHome.dispatch hc hg (by unfold packedBody; exact StaysHome.xBody hc) h

theorem home_pmaxuL16 {w_ d_ a_ b_ : Nat} {a : Activation} {s0 s1 : State} (hc : s0.cur? = some a) (hg : a.flow.gang = none)
    (hx : exec (.pmaxuL16 w_ d_ a_ b_) s0 = .next s1) : StaysHome (destRegs (.pmaxuL16 w_ d_ a_ b_)) a s0 s1 := by
  have h : execPmaxuL16 w_ d_ a_ b_ s0 = .next s1 := hx
  clear hx
  unfold execPmaxuL16 at h
  exact StaysHome.dispatch hc hg (by unfold packedBody; exact StaysHome.xBody hc) h

theorem home_pmaxuL32 {w_ d_ a_ b_ : Nat} {a : Activation} {s0 s1 : State} (hc : s0.cur? = some a) (hg : a.flow.gang = none)
    (hx : exec (.pmaxuL32 w_ d_ a_ b_) s0 = .next s1) : StaysHome (destRegs (.pmaxuL32 w_ d_ a_ b_)) a s0 s1 := by
  have h : execPmaxuL32 w_ d_ a_ b_ s0 = .next s1 := hx
  clear hx
  unfold execPmaxuL32 at h
  exact StaysHome.dispatch hc hg (by unfold packedBody; exact StaysHome.xBody hc) h

theorem home_pminuL4 {w_ d_ a_ b_ : Nat} {a : Activation} {s0 s1 : State} (hc : s0.cur? = some a) (hg : a.flow.gang = none)
    (hx : exec (.pminuL4 w_ d_ a_ b_) s0 = .next s1) : StaysHome (destRegs (.pminuL4 w_ d_ a_ b_)) a s0 s1 := by
  have h : execPminuL4 w_ d_ a_ b_ s0 = .next s1 := hx
  clear hx
  unfold execPminuL4 at h
  exact StaysHome.dispatch hc hg (by unfold packedBody; exact StaysHome.xBody hc) h

theorem home_pminuL8 {w_ d_ a_ b_ : Nat} {a : Activation} {s0 s1 : State} (hc : s0.cur? = some a) (hg : a.flow.gang = none)
    (hx : exec (.pminuL8 w_ d_ a_ b_) s0 = .next s1) : StaysHome (destRegs (.pminuL8 w_ d_ a_ b_)) a s0 s1 := by
  have h : execPminuL8 w_ d_ a_ b_ s0 = .next s1 := hx
  clear hx
  unfold execPminuL8 at h
  exact StaysHome.dispatch hc hg (by unfold packedBody; exact StaysHome.xBody hc) h

theorem home_pminuL16 {w_ d_ a_ b_ : Nat} {a : Activation} {s0 s1 : State} (hc : s0.cur? = some a) (hg : a.flow.gang = none)
    (hx : exec (.pminuL16 w_ d_ a_ b_) s0 = .next s1) : StaysHome (destRegs (.pminuL16 w_ d_ a_ b_)) a s0 s1 := by
  have h : execPminuL16 w_ d_ a_ b_ s0 = .next s1 := hx
  clear hx
  unfold execPminuL16 at h
  exact StaysHome.dispatch hc hg (by unfold packedBody; exact StaysHome.xBody hc) h

theorem home_pminuL32 {w_ d_ a_ b_ : Nat} {a : Activation} {s0 s1 : State} (hc : s0.cur? = some a) (hg : a.flow.gang = none)
    (hx : exec (.pminuL32 w_ d_ a_ b_) s0 = .next s1) : StaysHome (destRegs (.pminuL32 w_ d_ a_ b_)) a s0 s1 := by
  have h : execPminuL32 w_ d_ a_ b_ s0 = .next s1 := hx
  clear hx
  unfold execPminuL32 at h
  exact StaysHome.dispatch hc hg (by unfold packedBody; exact StaysHome.xBody hc) h

theorem home_pmaxsL4 {w_ d_ a_ b_ : Nat} {a : Activation} {s0 s1 : State} (hc : s0.cur? = some a) (hg : a.flow.gang = none)
    (hx : exec (.pmaxsL4 w_ d_ a_ b_) s0 = .next s1) : StaysHome (destRegs (.pmaxsL4 w_ d_ a_ b_)) a s0 s1 := by
  have h : execPmaxsL4 w_ d_ a_ b_ s0 = .next s1 := hx
  clear hx
  unfold execPmaxsL4 at h
  exact StaysHome.dispatch hc hg (by unfold packedBody; exact StaysHome.xBody hc) h

theorem home_pmaxsL8 {w_ d_ a_ b_ : Nat} {a : Activation} {s0 s1 : State} (hc : s0.cur? = some a) (hg : a.flow.gang = none)
    (hx : exec (.pmaxsL8 w_ d_ a_ b_) s0 = .next s1) : StaysHome (destRegs (.pmaxsL8 w_ d_ a_ b_)) a s0 s1 := by
  have h : execPmaxsL8 w_ d_ a_ b_ s0 = .next s1 := hx
  clear hx
  unfold execPmaxsL8 at h
  exact StaysHome.dispatch hc hg (by unfold packedBody; exact StaysHome.xBody hc) h

theorem home_pmaxsL16 {w_ d_ a_ b_ : Nat} {a : Activation} {s0 s1 : State} (hc : s0.cur? = some a) (hg : a.flow.gang = none)
    (hx : exec (.pmaxsL16 w_ d_ a_ b_) s0 = .next s1) : StaysHome (destRegs (.pmaxsL16 w_ d_ a_ b_)) a s0 s1 := by
  have h : execPmaxsL16 w_ d_ a_ b_ s0 = .next s1 := hx
  clear hx
  unfold execPmaxsL16 at h
  exact StaysHome.dispatch hc hg (by unfold packedBody; exact StaysHome.xBody hc) h

theorem home_pmaxsL32 {w_ d_ a_ b_ : Nat} {a : Activation} {s0 s1 : State} (hc : s0.cur? = some a) (hg : a.flow.gang = none)
    (hx : exec (.pmaxsL32 w_ d_ a_ b_) s0 = .next s1) : StaysHome (destRegs (.pmaxsL32 w_ d_ a_ b_)) a s0 s1 := by
  have h : execPmaxsL32 w_ d_ a_ b_ s0 = .next s1 := hx
  clear hx
  unfold execPmaxsL32 at h
  exact StaysHome.dispatch hc hg (by unfold packedBody; exact StaysHome.xBody hc) h

theorem home_pminsL4 {w_ d_ a_ b_ : Nat} {a : Activation} {s0 s1 : State} (hc : s0.cur? = some a) (hg : a.flow.gang = none)
    (hx : exec (.pminsL4 w_ d_ a_ b_) s0 = .next s1) : StaysHome (destRegs (.pminsL4 w_ d_ a_ b_)) a s0 s1 := by
  have h : execPminsL4 w_ d_ a_ b_ s0 = .next s1 := hx
  clear hx
  unfold execPminsL4 at h
  exact StaysHome.dispatch hc hg (by unfold packedBody; exact StaysHome.xBody hc) h

theorem home_pminsL8 {w_ d_ a_ b_ : Nat} {a : Activation} {s0 s1 : State} (hc : s0.cur? = some a) (hg : a.flow.gang = none)
    (hx : exec (.pminsL8 w_ d_ a_ b_) s0 = .next s1) : StaysHome (destRegs (.pminsL8 w_ d_ a_ b_)) a s0 s1 := by
  have h : execPminsL8 w_ d_ a_ b_ s0 = .next s1 := hx
  clear hx
  unfold execPminsL8 at h
  exact StaysHome.dispatch hc hg (by unfold packedBody; exact StaysHome.xBody hc) h

theorem home_pminsL16 {w_ d_ a_ b_ : Nat} {a : Activation} {s0 s1 : State} (hc : s0.cur? = some a) (hg : a.flow.gang = none)
    (hx : exec (.pminsL16 w_ d_ a_ b_) s0 = .next s1) : StaysHome (destRegs (.pminsL16 w_ d_ a_ b_)) a s0 s1 := by
  have h : execPminsL16 w_ d_ a_ b_ s0 = .next s1 := hx
  clear hx
  unfold execPminsL16 at h
  exact StaysHome.dispatch hc hg (by unfold packedBody; exact StaysHome.xBody hc) h

theorem home_pminsL32 {w_ d_ a_ b_ : Nat} {a : Activation} {s0 s1 : State} (hc : s0.cur? = some a) (hg : a.flow.gang = none)
    (hx : exec (.pminsL32 w_ d_ a_ b_) s0 = .next s1) : StaysHome (destRegs (.pminsL32 w_ d_ a_ b_)) a s0 s1 := by
  have h : execPminsL32 w_ d_ a_ b_ s0 = .next s1 := hx
  clear hx
  unfold execPminsL32 at h
  exact StaysHome.dispatch hc hg (by unfold packedBody; exact StaysHome.xBody hc) h

theorem home_paddssL4 {w_ d_ a_ b_ : Nat} {a : Activation} {s0 s1 : State} (hc : s0.cur? = some a) (hg : a.flow.gang = none)
    (hx : exec (.paddssL4 w_ d_ a_ b_) s0 = .next s1) : StaysHome (destRegs (.paddssL4 w_ d_ a_ b_)) a s0 s1 := by
  have h : execPaddssL4 w_ d_ a_ b_ s0 = .next s1 := hx
  clear hx
  unfold execPaddssL4 at h
  exact StaysHome.dispatch hc hg (by unfold packedBody; exact StaysHome.xBody hc) h

theorem home_paddssL8 {w_ d_ a_ b_ : Nat} {a : Activation} {s0 s1 : State} (hc : s0.cur? = some a) (hg : a.flow.gang = none)
    (hx : exec (.paddssL8 w_ d_ a_ b_) s0 = .next s1) : StaysHome (destRegs (.paddssL8 w_ d_ a_ b_)) a s0 s1 := by
  have h : execPaddssL8 w_ d_ a_ b_ s0 = .next s1 := hx
  clear hx
  unfold execPaddssL8 at h
  exact StaysHome.dispatch hc hg (by unfold packedBody; exact StaysHome.xBody hc) h

theorem home_paddssL16 {w_ d_ a_ b_ : Nat} {a : Activation} {s0 s1 : State} (hc : s0.cur? = some a) (hg : a.flow.gang = none)
    (hx : exec (.paddssL16 w_ d_ a_ b_) s0 = .next s1) : StaysHome (destRegs (.paddssL16 w_ d_ a_ b_)) a s0 s1 := by
  have h : execPaddssL16 w_ d_ a_ b_ s0 = .next s1 := hx
  clear hx
  unfold execPaddssL16 at h
  exact StaysHome.dispatch hc hg (by unfold packedBody; exact StaysHome.xBody hc) h

theorem home_paddssL32 {w_ d_ a_ b_ : Nat} {a : Activation} {s0 s1 : State} (hc : s0.cur? = some a) (hg : a.flow.gang = none)
    (hx : exec (.paddssL32 w_ d_ a_ b_) s0 = .next s1) : StaysHome (destRegs (.paddssL32 w_ d_ a_ b_)) a s0 s1 := by
  have h : execPaddssL32 w_ d_ a_ b_ s0 = .next s1 := hx
  clear hx
  unfold execPaddssL32 at h
  exact StaysHome.dispatch hc hg (by unfold packedBody; exact StaysHome.xBody hc) h

theorem home_rmaxuL4 {w_ d_ a_ b_ : Nat} {a : Activation} {s0 s1 : State} (hc : s0.cur? = some a) (hg : a.flow.gang = none)
    (hx : exec (.rmaxuL4 w_ d_ a_ b_) s0 = .next s1) : StaysHome (destRegs (.rmaxuL4 w_ d_ a_ b_)) a s0 s1 := by
  have h : execRmaxuL4 w_ d_ a_ b_ s0 = .next s1 := hx
  clear hx
  unfold execRmaxuL4 at h
  exact StaysHome.dispatch hc hg (by unfold packedBody; exact StaysHome.xBody hc) h

theorem home_rmaxuL8 {w_ d_ a_ b_ : Nat} {a : Activation} {s0 s1 : State} (hc : s0.cur? = some a) (hg : a.flow.gang = none)
    (hx : exec (.rmaxuL8 w_ d_ a_ b_) s0 = .next s1) : StaysHome (destRegs (.rmaxuL8 w_ d_ a_ b_)) a s0 s1 := by
  have h : execRmaxuL8 w_ d_ a_ b_ s0 = .next s1 := hx
  clear hx
  unfold execRmaxuL8 at h
  exact StaysHome.dispatch hc hg (by unfold packedBody; exact StaysHome.xBody hc) h

theorem home_rmaxuL16 {w_ d_ a_ b_ : Nat} {a : Activation} {s0 s1 : State} (hc : s0.cur? = some a) (hg : a.flow.gang = none)
    (hx : exec (.rmaxuL16 w_ d_ a_ b_) s0 = .next s1) : StaysHome (destRegs (.rmaxuL16 w_ d_ a_ b_)) a s0 s1 := by
  have h : execRmaxuL16 w_ d_ a_ b_ s0 = .next s1 := hx
  clear hx
  unfold execRmaxuL16 at h
  exact StaysHome.dispatch hc hg (by unfold packedBody; exact StaysHome.xBody hc) h

theorem home_rmaxuL32 {w_ d_ a_ b_ : Nat} {a : Activation} {s0 s1 : State} (hc : s0.cur? = some a) (hg : a.flow.gang = none)
    (hx : exec (.rmaxuL32 w_ d_ a_ b_) s0 = .next s1) : StaysHome (destRegs (.rmaxuL32 w_ d_ a_ b_)) a s0 s1 := by
  have h : execRmaxuL32 w_ d_ a_ b_ s0 = .next s1 := hx
  clear hx
  unfold execRmaxuL32 at h
  exact StaysHome.dispatch hc hg (by unfold packedBody; exact StaysHome.xBody hc) h

theorem home_fadd {w_ d_ a_ b_ : Nat} {a : Activation} {s0 s1 : State} (hc : s0.cur? = some a) (hg : a.flow.gang = none)
    (hx : exec (.fadd w_ d_ a_ b_) s0 = .next s1) : StaysHome (destRegs (.fadd w_ d_ a_ b_)) a s0 s1 := by
  have h : execFadd w_ d_ a_ b_ s0 = .next s1 := hx
  clear hx
  unfold execFadd execF3 at h
  exact StaysHome.dispatch hc hg (by unfold floatBody; exact StaysHome.xBody hc) h

theorem home_fsub {w_ d_ a_ b_ : Nat} {a : Activation} {s0 s1 : State} (hc : s0.cur? = some a) (hg : a.flow.gang = none)
    (hx : exec (.fsub w_ d_ a_ b_) s0 = .next s1) : StaysHome (destRegs (.fsub w_ d_ a_ b_)) a s0 s1 := by
  have h : execFsub w_ d_ a_ b_ s0 = .next s1 := hx
  clear hx
  unfold execFsub execF3 at h
  exact StaysHome.dispatch hc hg (by unfold floatBody; exact StaysHome.xBody hc) h

theorem home_fmul {w_ d_ a_ b_ : Nat} {a : Activation} {s0 s1 : State} (hc : s0.cur? = some a) (hg : a.flow.gang = none)
    (hx : exec (.fmul w_ d_ a_ b_) s0 = .next s1) : StaysHome (destRegs (.fmul w_ d_ a_ b_)) a s0 s1 := by
  have h : execFmul w_ d_ a_ b_ s0 = .next s1 := hx
  clear hx
  unfold execFmul execF3 at h
  exact StaysHome.dispatch hc hg (by unfold floatBody; exact StaysHome.xBody hc) h

theorem home_fma {w_ d_ a_ b_ : Nat} {a : Activation} {s0 s1 : State} (hc : s0.cur? = some a) (hg : a.flow.gang = none)
    (hx : exec (.fma w_ d_ a_ b_) s0 = .next s1) : StaysHome (destRegs (.fma w_ d_ a_ b_)) a s0 s1 := by
  have h : execFma w_ d_ a_ b_ s0 = .next s1 := hx
  clear hx
  unfold execFma execF4 at h
  exact StaysHome.dispatch hc hg (by unfold floatBody; exact StaysHome.xBody hc) h

theorem home_fmulz {w_ d_ a_ b_ : Nat} {a : Activation} {s0 s1 : State} (hc : s0.cur? = some a) (hg : a.flow.gang = none)
    (hx : exec (.fmulz w_ d_ a_ b_) s0 = .next s1) : StaysHome (destRegs (.fmulz w_ d_ a_ b_)) a s0 s1 := by
  have h : execFmulz w_ d_ a_ b_ s0 = .next s1 := hx
  clear hx
  unfold execFmulz execF3 at h
  exact StaysHome.dispatch hc hg (by unfold floatBody; exact StaysHome.xBody hc) h

theorem home_fmin {w_ d_ a_ b_ : Nat} {a : Activation} {s0 s1 : State} (hc : s0.cur? = some a) (hg : a.flow.gang = none)
    (hx : exec (.fmin w_ d_ a_ b_) s0 = .next s1) : StaysHome (destRegs (.fmin w_ d_ a_ b_)) a s0 s1 := by
  have h : execFmin w_ d_ a_ b_ s0 = .next s1 := hx
  clear hx
  unfold execFmin execF3 at h
  exact StaysHome.dispatch hc hg (by unfold floatBody; exact StaysHome.xBody hc) h

theorem home_fmax {w_ d_ a_ b_ : Nat} {a : Activation} {s0 s1 : State} (hc : s0.cur? = some a) (hg : a.flow.gang = none)
    (hx : exec (.fmax w_ d_ a_ b_) s0 = .next s1) : StaysHome (destRegs (.fmax w_ d_ a_ b_)) a s0 s1 := by
  have h : execFmax w_ d_ a_ b_ s0 = .next s1 := hx
  clear hx
  unfold execFmax execF3 at h
  exact StaysHome.dispatch hc hg (by unfold floatBody; exact StaysHome.xBody hc) h

theorem home_frcp {w_ d_ a_ : Nat} {a : Activation} {s0 s1 : State} (hc : s0.cur? = some a) (hg : a.flow.gang = none)
    (hx : exec (.frcp w_ d_ a_) s0 = .next s1) : StaysHome (destRegs (.frcp w_ d_ a_)) a s0 s1 := by
  have h : execFrcp w_ d_ a_ s0 = .next s1 := hx
  clear hx
  unfold execFrcp execF2 at h
  exact StaysHome.dispatch hc hg (by unfold floatBody; exact StaysHome.xBody hc) h

theorem home_frsq {w_ d_ a_ : Nat} {a : Activation} {s0 s1 : State} (hc : s0.cur? = some a) (hg : a.flow.gang = none)
    (hx : exec (.frsq w_ d_ a_) s0 = .next s1) : StaysHome (destRegs (.frsq w_ d_ a_)) a s0 s1 := by
  have h : execFrsq w_ d_ a_ s0 = .next s1 := hx
  clear hx
  unfold execFrsq execF2 at h
  exact StaysHome.dispatch hc hg (by unfold floatBody; exact StaysHome.xBody hc) h

theorem home_fexp2 {w_ d_ a_ : Nat} {a : Activation} {s0 s1 : State} (hc : s0.cur? = some a) (hg : a.flow.gang = none)
    (hx : exec (.fexp2 w_ d_ a_) s0 = .next s1) : StaysHome (destRegs (.fexp2 w_ d_ a_)) a s0 s1 := by
  have h : execFexp2 w_ d_ a_ s0 = .next s1 := hx
  clear hx
  unfold execFexp2 execF2 at h
  exact StaysHome.dispatch hc hg (by unfold floatBody; exact StaysHome.xBody hc) h

theorem home_flog2 {w_ d_ a_ : Nat} {a : Activation} {s0 s1 : State} (hc : s0.cur? = some a) (hg : a.flow.gang = none)
    (hx : exec (.flog2 w_ d_ a_) s0 = .next s1) : StaysHome (destRegs (.flog2 w_ d_ a_)) a s0 s1 := by
  have h : execFlog2 w_ d_ a_ s0 = .next s1 := hx
  clear hx
  unfold execFlog2 execF2 at h
  exact StaysHome.dispatch hc hg (by unfold floatBody; exact StaysHome.xBody hc) h

theorem home_fcmpeq {w_ d_ a_ b_ : Nat} {a : Activation} {s0 s1 : State} (hc : s0.cur? = some a) (hg : a.flow.gang = none)
    (hx : exec (.fcmpeq w_ d_ a_ b_) s0 = .next s1) : StaysHome (destRegs (.fcmpeq w_ d_ a_ b_)) a s0 s1 := by
  have h : execFcmpeq w_ d_ a_ b_ s0 = .next s1 := hx
  clear hx
  unfold execFcmpeq execF3 at h
  exact StaysHome.dispatch hc hg (by unfold floatBody; exact StaysHome.xBody hc) h

theorem home_fcmplt {w_ d_ a_ b_ : Nat} {a : Activation} {s0 s1 : State} (hc : s0.cur? = some a) (hg : a.flow.gang = none)
    (hx : exec (.fcmplt w_ d_ a_ b_) s0 = .next s1) : StaysHome (destRegs (.fcmplt w_ d_ a_ b_)) a s0 s1 := by
  have h : execFcmplt w_ d_ a_ b_ s0 = .next s1 := hx
  clear hx
  unfold execFcmplt execF3 at h
  exact StaysHome.dispatch hc hg (by unfold floatBody; exact StaysHome.xBody hc) h

theorem home_fcmple {w_ d_ a_ b_ : Nat} {a : Activation} {s0 s1 : State} (hc : s0.cur? = some a) (hg : a.flow.gang = none)
    (hx : exec (.fcmple w_ d_ a_ b_) s0 = .next s1) : StaysHome (destRegs (.fcmple w_ d_ a_ b_)) a s0 s1 := by
  have h : execFcmple w_ d_ a_ b_ s0 = .next s1 := hx
  clear hx
  unfold execFcmple execF3 at h
  exact StaysHome.dispatch hc hg (by unfold floatBody; exact StaysHome.xBody hc) h

theorem home_fclass {w_ d_ a_ : Nat} {a : Activation} {s0 s1 : State} (hc : s0.cur? = some a) (hg : a.flow.gang = none)
    (hx : exec (.fclass w_ d_ a_) s0 = .next s1) : StaysHome (destRegs (.fclass w_ d_ a_)) a s0 s1 := by
  have h : execFclass w_ d_ a_ s0 = .next s1 := hx
  clear hx
  unfold execFclass execF2 at h
  exact StaysHome.dispatch hc hg (by unfold floatBody; exact StaysHome.xBody hc) h

theorem home_raddf {w_ d_ a_ : Nat} {a : Activation} {s0 s1 : State} (hc : s0.cur? = some a) (hg : a.flow.gang = none)
    (hx : exec (.raddf w_ d_ a_) s0 = .next s1) : StaysHome (destRegs (.raddf w_ d_ a_)) a s0 s1 := by
  have h : execRaddf w_ d_ a_ s0 = .next s1 := hx
  clear hx
  unfold execRaddf at h
  exact StaysHome.dispatch hc hg (by unfold raddfBody; exact StaysHome.xBody hc) h

theorem home_badd {w_ d_ a_ b_ : Nat} {a : Activation} {s0 s1 : State} (hc : s0.cur? = some a) (hg : a.flow.gang = none)
    (hx : exec (.badd w_ d_ a_ b_) s0 = .next s1) : StaysHome (destRegs (.badd w_ d_ a_ b_)) a s0 s1 := by
  have h : execBadd w_ d_ a_ b_ s0 = .next s1 := hx
  clear hx
  unfold execBadd execF3 at h
  exact StaysHome.dispatch hc hg (by unfold floatBody; exact StaysHome.xBody hc) h

theorem home_bmul {w_ d_ a_ b_ : Nat} {a : Activation} {s0 s1 : State} (hc : s0.cur? = some a) (hg : a.flow.gang = none)
    (hx : exec (.bmul w_ d_ a_ b_) s0 = .next s1) : StaysHome (destRegs (.bmul w_ d_ a_ b_)) a s0 s1 := by
  have h : execBmul w_ d_ a_ b_ s0 = .next s1 := hx
  clear hx
  unfold execBmul execF3 at h
  exact StaysHome.dispatch hc hg (by unfold floatBody; exact StaysHome.xBody hc) h

theorem home_bfma {w_ d_ a_ b_ : Nat} {a : Activation} {s0 s1 : State} (hc : s0.cur? = some a) (hg : a.flow.gang = none)
    (hx : exec (.bfma w_ d_ a_ b_) s0 = .next s1) : StaysHome (destRegs (.bfma w_ d_ a_ b_)) a s0 s1 := by
  have h : execBfma w_ d_ a_ b_ s0 = .next s1 := hx
  clear hx
  unfold execBfma execF4 at h
  exact StaysHome.dispatch hc hg (by unfold floatBody; exact StaysHome.xBody hc) h

theorem home_bmax {w_ d_ a_ b_ : Nat} {a : Activation} {s0 s1 : State} (hc : s0.cur? = some a) (hg : a.flow.gang = none)
    (hx : exec (.bmax w_ d_ a_ b_) s0 = .next s1) : StaysHome (destRegs (.bmax w_ d_ a_ b_)) a s0 s1 := by
  have h : execBmax w_ d_ a_ b_ s0 = .next s1 := hx
  clear hx
  unfold execBmax execF3 at h
  exact StaysHome.dispatch hc hg (by unfold floatBody; exact StaysHome.xBody hc) h

theorem home_bmin {w_ d_ a_ b_ : Nat} {a : Activation} {s0 s1 : State} (hc : s0.cur? = some a) (hg : a.flow.gang = none)
    (hx : exec (.bmin w_ d_ a_ b_) s0 = .next s1) : StaysHome (destRegs (.bmin w_ d_ a_ b_)) a s0 s1 := by
  have h : execBmin w_ d_ a_ b_ s0 = .next s1 := hx
  clear hx
  unfold execBmin execF3 at h
  exact StaysHome.dispatch hc hg (by unfold floatBody; exact StaysHome.xBody hc) h

theorem home_cvt {w_ d_ a_ t_ sg_ : Nat} {a : Activation} {s0 s1 : State} (hc : s0.cur? = some a) (hg : a.flow.gang = none)
    (hx : exec (.cvt w_ d_ a_ t_ sg_) s0 = .next s1) : StaysHome (destRegs (.cvt w_ d_ a_ t_ sg_)) a s0 s1 := by
  have h : execCvt w_ d_ a_ t_ sg_ s0 = .next s1 := hx
  clear hx
  unfold execCvt at h
  exact StaysHome.dispatch hc hg (by unfold cvtBody; exact StaysHome.xBody hc) h

theorem home_cvtsr {w_ d_ a_ t_ sg_ : Nat} {a : Activation} {s0 s1 : State} (hc : s0.cur? = some a) (hg : a.flow.gang = none)
    (hx : exec (.cvtsr w_ d_ a_ t_ sg_) s0 = .next s1) : StaysHome (destRegs (.cvtsr w_ d_ a_ t_ sg_)) a s0 s1 := by
  have h : execCvtsr w_ d_ a_ t_ sg_ s0 = .next s1 := hx
  clear hx
  unfold execCvtsr at h
  exact StaysHome.dispatch hc hg (by unfold cvtsrBody; exact StaysHome.xBody hc) h

theorem home_scacc {w_ d_ a_ b_ : Nat} {a : Activation} {s0 s1 : State} (hc : s0.cur? = some a) (hg : a.flow.gang = none)
    (hx : exec (.scacc w_ d_ a_ b_) s0 = .next s1) : StaysHome (destRegs (.scacc w_ d_ a_ b_)) a s0 s1 := by
  have h : execScacc w_ d_ a_ b_ s0 = .next s1 := hx
  clear hx
  unfold execScacc execF4 at h
  exact StaysHome.dispatch hc hg (by unfold floatBody; exact StaysHome.xBody hc) h

theorem home_aadd {d_ a_ b_ : Nat} {a : Activation} {s0 s1 : State} (hc : s0.cur? = some a) (hg : a.flow.gang = none)
    (hx : exec (.aadd d_ a_ b_) s0 = .next s1) : StaysHome (destRegs (.aadd d_ a_ b_)) a s0 s1 := by
  have h : execAadd d_ a_ b_ s0 = .next s1 := hx
  clear hx
  unfold execAadd execA3 at h
  have hself : SameRegs (destRegs (.aadd d_ a_ b_)) a s0.cur := by rw [State.cur, hc]; exact SameRegs.refl _ _
  have h0 : StaysHome (destRegs (.aadd d_ a_ b_)) a s0 s0 := StaysHome.refl hc
  refine StaysHome.dispatch hc hg ?_ h
  clear h
  repeat' first
    | with_reducible exact h0
    | with_reducible exact hself
    | with_reducible exact hc
    | (with_reducible first | exact Att.holds_stall | exact Att.holds_trap | apply Att.holds_sendable | apply Att.holds_orderly | apply Att.holds_sendReady | apply Att.holds_xQuiet | apply Att.holds_need | apply Att.holds_check | apply Att.holds_capCheck | apply Att.holds_guardHints | apply Att.holds_guardPriv | apply Att.holds_guardCluster | apply Att.holds_aBody | apply Att.holds_regBody | apply Att.holds_orderStore | apply Att.holds_releaseWait | apply Att.holds_decides | apply Att.holds_replyCheck | apply Att.holds_guard | apply Att.holds_ok | apply Att.holds_stay | apply Att.holds_waits)
    | (with_reducible refine Att.holds_popSdq (fun _ _ _ => ?_))
    | (with_reducible refine Att.holds_parkedCheck (fun _ => ?_))
    | (with_reducible first | apply StaysHome.setCur | apply StaysHome.setCurCore | apply StaysHome.emitAcc | apply StaysHome.wcFlush | apply StaysHome.jumpTo | apply StaysHome.endAct | apply StaysHome.enqueueOut | apply StaysHome.setMatrix | apply StaysHome.setChain | apply StaysHome.setGrammar | apply StaysHome.setRun | apply StaysHome.resumeRun | apply StaysHome.performEng | apply StaysHome.endChain | apply StaysHome.copyResume | apply StaysHome.pulse | apply StaysHome.releaseMacros | apply StaysHome.trapAt | apply StaysHome.setCluster | apply StaysHome.countTaken | apply StaysHome.serveSteal | apply StaysHome.send | apply StaysHome.takeId | apply StaysHome.accs | apply StaysHome.traceJump | apply StaysHome.issueBody | apply StaysHome.matrixBody)
    | (with_reducible first | apply SameRegs.writeRange | apply SameRegs.writeReg | apply SameRegs.awaitReg | apply SameRegs.setReg | apply SameRegs.setLdq)
    | exact SameRegs.popRecord hself ‹_›
    | exact (And.right ‹_ ∧ _›)
    | split
    | rfl
    | exact SameRegs.of_eq hself rfl rfl
    | (refine SameRegs.of_eq (SameRegs.awaitReg hself ?_) rfl rfl)
    | (refine SameRegs.of_eq (SameRegs.setReg (SameRegs.setReg hself ?_) ?_) rfl rfl)
    | (refine SameRegs.writeReg (SameRegs.of_eq hself rfl rfl) ?_)
    | (simp [destRegs]; done)
    | dsimp only

theorem home_asub {d_ a_ b_ : Nat} {a : Activation} {s0 s1 : State} (hc : s0.cur? = some a) (hg : a.flow.gang = none)
    (hx : exec (.asub d_ a_ b_) s0 = .next s1) : StaysHome (destRegs (.asub d_ a_ b_)) a s0 s1 := by
  have h : execAsub d_ a_ b_ s0 = .next s1 := hx
  clear hx
  unfold execAsub execA3 at h
  have hself : SameRegs (destRegs (.asub d_ a_ b_)) a s0.cur := by rw [State.cur, hc]; exact SameRegs.refl _ _
  have h0 : StaysHome (destRegs (.asub d_ a_ b_)) a s0 s0 := StaysHome.refl hc
  refine StaysHome.dispatch hc hg ?_ h
  clear h
  repeat' first
    | with_reducible exact h0
    | with_reducible exact hself
    | with_reducible exact hc
    | (with_reducible first | exact Att.holds_stall | exact Att.holds_trap | apply Att.holds_sendable | apply Att.holds_orderly | apply Att.holds_sendReady | apply Att.holds_xQuiet | apply Att.holds_need | apply Att.holds_check | apply Att.holds_capCheck | apply Att.holds_guardHints | apply Att.holds_guardPriv | apply Att.holds_guardCluster | apply Att.holds_aBody | apply Att.holds_regBody | apply Att.holds_orderStore | apply Att.holds_releaseWait | apply Att.holds_decides | apply Att.holds_replyCheck | apply Att.holds_guard | apply Att.holds_ok | apply Att.holds_stay | apply Att.holds_waits)
    | (with_reducible refine Att.holds_popSdq (fun _ _ _ => ?_))
    | (with_reducible refine Att.holds_parkedCheck (fun _ => ?_))
    | (with_reducible first | apply StaysHome.setCur | apply StaysHome.setCurCore | apply StaysHome.emitAcc | apply StaysHome.wcFlush | apply StaysHome.jumpTo | apply StaysHome.endAct | apply StaysHome.enqueueOut | apply StaysHome.setMatrix | apply StaysHome.setChain | apply StaysHome.setGrammar | apply StaysHome.setRun | apply StaysHome.resumeRun | apply StaysHome.performEng | apply StaysHome.endChain | apply StaysHome.copyResume | apply StaysHome.pulse | apply StaysHome.releaseMacros | apply StaysHome.trapAt | apply StaysHome.setCluster | apply StaysHome.countTaken | apply StaysHome.serveSteal | apply StaysHome.send | apply StaysHome.takeId | apply StaysHome.accs | apply StaysHome.traceJump | apply StaysHome.issueBody | apply StaysHome.matrixBody)
    | (with_reducible first | apply SameRegs.writeRange | apply SameRegs.writeReg | apply SameRegs.awaitReg | apply SameRegs.setReg | apply SameRegs.setLdq)
    | exact SameRegs.popRecord hself ‹_›
    | exact (And.right ‹_ ∧ _›)
    | split
    | rfl
    | exact SameRegs.of_eq hself rfl rfl
    | (refine SameRegs.of_eq (SameRegs.awaitReg hself ?_) rfl rfl)
    | (refine SameRegs.of_eq (SameRegs.setReg (SameRegs.setReg hself ?_) ?_) rfl rfl)
    | (refine SameRegs.writeReg (SameRegs.of_eq hself rfl rfl) ?_)
    | (simp [destRegs]; done)
    | dsimp only

theorem home_aaddi {d_ a_ im_ : Nat} {a : Activation} {s0 s1 : State} (hc : s0.cur? = some a) (hg : a.flow.gang = none)
    (hx : exec (.aaddi d_ a_ im_) s0 = .next s1) : StaysHome (destRegs (.aaddi d_ a_ im_)) a s0 s1 := by
  have h : execAaddi d_ a_ im_ s0 = .next s1 := hx
  clear hx
  unfold execAaddi at h
  have hself : SameRegs (destRegs (.aaddi d_ a_ im_)) a s0.cur := by rw [State.cur, hc]; exact SameRegs.refl _ _
  have h0 : StaysHome (destRegs (.aaddi d_ a_ im_)) a s0 s0 := StaysHome.refl hc
  refine StaysHome.dispatch hc hg ?_ h
  clear h
  repeat' first
    | with_reducible exact h0
    | with_reducible exact hself
    | with_reducible exact hc
    | (with_reducible first | exact Att.holds_stall | exact Att.holds_trap | apply Att.holds_sendable | apply Att.holds_orderly | apply Att.holds_sendReady | apply Att.holds_xQuiet | apply Att.holds_need | apply Att.holds_check | apply Att.holds_capCheck | apply Att.holds_guardHints | apply Att.holds_guardPriv | apply Att.holds_guardCluster | apply Att.holds_aBody | apply Att.holds_regBody | apply Att.holds_orderStore | apply Att.holds_releaseWait | apply Att.holds_decides | apply Att.holds_replyCheck | apply Att.holds_guard | apply Att.holds_ok | apply Att.holds_stay | apply Att.holds_waits)
    | (with_reducible refine Att.holds_popSdq (fun _ _ _ => ?_))
    | (with_reducible refine Att.holds_parkedCheck (fun _ => ?_))
    | (with_reducible first | apply StaysHome.setCur | apply StaysHome.setCurCore | apply StaysHome.emitAcc | apply StaysHome.wcFlush | apply StaysHome.jumpTo | apply StaysHome.endAct | apply StaysHome.enqueueOut | apply StaysHome.setMatrix | apply StaysHome.setChain | apply StaysHome.setGrammar | apply StaysHome.setRun | apply StaysHome.resumeRun | apply StaysHome.performEng | apply StaysHome.endChain | apply StaysHome.copyResume | apply StaysHome.pulse | apply StaysHome.releaseMacros | apply StaysHome.trapAt | apply StaysHome.setCluster | apply StaysHome.countTaken | apply StaysHome.serveSteal | apply StaysHome.send | apply StaysHome.takeId | apply StaysHome.accs | apply StaysHome.traceJump | apply StaysHome.issueBody | apply StaysHome.matrixBody)
    | (with_reducible first | apply SameRegs.writeRange | apply SameRegs.writeReg | apply SameRegs.awaitReg | apply SameRegs.setReg | apply SameRegs.setLdq)
    | exact SameRegs.popRecord hself ‹_›
    | exact (And.right ‹_ ∧ _›)
    | split
    | rfl
    | exact SameRegs.of_eq hself rfl rfl
    | (refine SameRegs.of_eq (SameRegs.awaitReg hself ?_) rfl rfl)
    | (refine SameRegs.of_eq (SameRegs.setReg (SameRegs.setReg hself ?_) ?_) rfl rfl)
    | (refine SameRegs.writeReg (SameRegs.of_eq hself rfl rfl) ?_)
    | (simp [destRegs]; done)
    | dsimp only

theorem home_amul {d_ a_ b_ : Nat} {a : Activation} {s0 s1 : State} (hc : s0.cur? = some a) (hg : a.flow.gang = none)
    (hx : exec (.amul d_ a_ b_) s0 = .next s1) : StaysHome (destRegs (.amul d_ a_ b_)) a s0 s1 := by
  have h : execAmul d_ a_ b_ s0 = .next s1 := hx
  clear hx
  unfold execAmul execA3 at h
  have hself : SameRegs (destRegs (.amul d_ a_ b_)) a s0.cur := by rw [State.cur, hc]; exact SameRegs.refl _ _
  have h0 : StaysHome (destRegs (.amul d_ a_ b_)) a s0 s0 := StaysHome.refl hc
  refine StaysHome.dispatch hc hg ?_ h
  clear h
  repeat' first
    | with_reducible exact h0
    | with_reducible exact hself
    | with_reducible exact hc
    | (with_reducible first | exact Att.holds_stall | exact Att.holds_trap | apply Att.holds_sendable | apply Att.holds_orderly | apply Att.holds_sendReady | apply Att.holds_xQuiet | apply Att.holds_need | apply Att.holds_check | apply Att.holds_capCheck | apply Att.holds_guardHints | apply Att.holds_guardPriv | apply Att.holds_guardCluster | apply Att.holds_aBody | apply Att.holds_regBody | apply Att.holds_orderStore | apply Att.holds_releaseWait | apply Att.holds_decides | apply Att.holds_replyCheck | apply Att.holds_guard | apply Att.holds_ok | apply Att.holds_stay | apply Att.holds_waits)
    | (with_reducible refine Att.holds_popSdq (fun _ _ _ => ?_))
    | (with_reducible refine Att.holds_parkedCheck (fun _ => ?_))
    | (with_reducible first | apply StaysHome.setCur | apply StaysHome.setCurCore | apply StaysHome.emitAcc | apply StaysHome.wcFlush | apply StaysHome.jumpTo | apply StaysHome.endAct | apply StaysHome.enqueueOut | apply StaysHome.setMatrix | apply StaysHome.setChain | apply StaysHome.setGrammar | apply StaysHome.setRun | apply StaysHome.resumeRun | apply StaysHome.performEng | apply StaysHome.endChain | apply StaysHome.copyResume | apply StaysHome.pulse | apply StaysHome.releaseMacros | apply StaysHome.trapAt | apply StaysHome.setCluster | apply StaysHome.countTaken | apply StaysHome.serveSteal | apply StaysHome.send | apply StaysHome.takeId | apply StaysHome.accs | apply StaysHome.traceJump | apply StaysHome.issueBody | apply StaysHome.matrixBody)
    | (with_reducible first | apply SameRegs.writeRange | apply SameRegs.writeReg | apply SameRegs.awaitReg | apply SameRegs.setReg | apply SameRegs.setLdq)
    | exact SameRegs.popRecord hself ‹_›
    | exact (And.right ‹_ ∧ _›)
    | split
    | rfl
    | exact SameRegs.of_eq hself rfl rfl
    | (refine SameRegs.of_eq (SameRegs.awaitReg hself ?_) rfl rfl)
    | (refine SameRegs.of_eq (SameRegs.setReg (SameRegs.setReg hself ?_) ?_) rfl rfl)
    | (refine SameRegs.writeReg (SameRegs.of_eq hself rfl rfl) ?_)
    | (simp [destRegs]; done)
    | dsimp only

theorem home_aand {d_ a_ b_ : Nat} {a : Activation} {s0 s1 : State} (hc : s0.cur? = some a) (hg : a.flow.gang = none)
    (hx : exec (.aand d_ a_ b_) s0 = .next s1) : StaysHome (destRegs (.aand d_ a_ b_)) a s0 s1 := by
  have h : execAand d_ a_ b_ s0 = .next s1 := hx
  clear hx
  unfold execAand execA3 at h
  have hself : SameRegs (destRegs (.aand d_ a_ b_)) a s0.cur := by rw [State.cur, hc]; exact SameRegs.refl _ _
  have h0 : StaysHome (destRegs (.aand d_ a_ b_)) a s0 s0 := StaysHome.refl hc
  refine StaysHome.dispatch hc hg ?_ h
  clear h
  repeat' first
    | with_reducible exact h0
    | with_reducible exact hself
    | with_reducible exact hc
    | (with_reducible first | exact Att.holds_stall | exact Att.holds_trap | apply Att.holds_sendable | apply Att.holds_orderly | apply Att.holds_sendReady | apply Att.holds_xQuiet | apply Att.holds_need | apply Att.holds_check | apply Att.holds_capCheck | apply Att.holds_guardHints | apply Att.holds_guardPriv | apply Att.holds_guardCluster | apply Att.holds_aBody | apply Att.holds_regBody | apply Att.holds_orderStore | apply Att.holds_releaseWait | apply Att.holds_decides | apply Att.holds_replyCheck | apply Att.holds_guard | apply Att.holds_ok | apply Att.holds_stay | apply Att.holds_waits)
    | (with_reducible refine Att.holds_popSdq (fun _ _ _ => ?_))
    | (with_reducible refine Att.holds_parkedCheck (fun _ => ?_))
    | (with_reducible first | apply StaysHome.setCur | apply StaysHome.setCurCore | apply StaysHome.emitAcc | apply StaysHome.wcFlush | apply StaysHome.jumpTo | apply StaysHome.endAct | apply StaysHome.enqueueOut | apply StaysHome.setMatrix | apply StaysHome.setChain | apply StaysHome.setGrammar | apply StaysHome.setRun | apply StaysHome.resumeRun | apply StaysHome.performEng | apply StaysHome.endChain | apply StaysHome.copyResume | apply StaysHome.pulse | apply StaysHome.releaseMacros | apply StaysHome.trapAt | apply StaysHome.setCluster | apply StaysHome.countTaken | apply StaysHome.serveSteal | apply StaysHome.send | apply StaysHome.takeId | apply StaysHome.accs | apply StaysHome.traceJump | apply StaysHome.issueBody | apply StaysHome.matrixBody)
    | (with_reducible first | apply SameRegs.writeRange | apply SameRegs.writeReg | apply SameRegs.awaitReg | apply SameRegs.setReg | apply SameRegs.setLdq)
    | exact SameRegs.popRecord hself ‹_›
    | exact (And.right ‹_ ∧ _›)
    | split
    | rfl
    | exact SameRegs.of_eq hself rfl rfl
    | (refine SameRegs.of_eq (SameRegs.awaitReg hself ?_) rfl rfl)
    | (refine SameRegs.of_eq (SameRegs.setReg (SameRegs.setReg hself ?_) ?_) rfl rfl)
    | (refine SameRegs.writeReg (SameRegs.of_eq hself rfl rfl) ?_)
    | (simp [destRegs]; done)
    | dsimp only

theorem home_aor {d_ a_ b_ : Nat} {a : Activation} {s0 s1 : State} (hc : s0.cur? = some a) (hg : a.flow.gang = none)
    (hx : exec (.aor d_ a_ b_) s0 = .next s1) : StaysHome (destRegs (.aor d_ a_ b_)) a s0 s1 := by
  have h : execAor d_ a_ b_ s0 = .next s1 := hx
  clear hx
  unfold execAor execA3 at h
  have hself : SameRegs (destRegs (.aor d_ a_ b_)) a s0.cur := by rw [State.cur, hc]; exact SameRegs.refl _ _
  have h0 : StaysHome (destRegs (.aor d_ a_ b_)) a s0 s0 := StaysHome.refl hc
  refine StaysHome.dispatch hc hg ?_ h
  clear h
  repeat' first
    | with_reducible exact h0
    | with_reducible exact hself
    | with_reducible exact hc
    | (with_reducible first | exact Att.holds_stall | exact Att.holds_trap | apply Att.holds_sendable | apply Att.holds_orderly | apply Att.holds_sendReady | apply Att.holds_xQuiet | apply Att.holds_need | apply Att.holds_check | apply Att.holds_capCheck | apply Att.holds_guardHints | apply Att.holds_guardPriv | apply Att.holds_guardCluster | apply Att.holds_aBody | apply Att.holds_regBody | apply Att.holds_orderStore | apply Att.holds_releaseWait | apply Att.holds_decides | apply Att.holds_replyCheck | apply Att.holds_guard | apply Att.holds_ok | apply Att.holds_stay | apply Att.holds_waits)
    | (with_reducible refine Att.holds_popSdq (fun _ _ _ => ?_))
    | (with_reducible refine Att.holds_parkedCheck (fun _ => ?_))
    | (with_reducible first | apply StaysHome.setCur | apply StaysHome.setCurCore | apply StaysHome.emitAcc | apply StaysHome.wcFlush | apply StaysHome.jumpTo | apply StaysHome.endAct | apply StaysHome.enqueueOut | apply StaysHome.setMatrix | apply StaysHome.setChain | apply StaysHome.setGrammar | apply StaysHome.setRun | apply StaysHome.resumeRun | apply StaysHome.performEng | apply StaysHome.endChain | apply StaysHome.copyResume | apply StaysHome.pulse | apply StaysHome.releaseMacros | apply StaysHome.trapAt | apply StaysHome.setCluster | apply StaysHome.countTaken | apply StaysHome.serveSteal | apply StaysHome.send | apply StaysHome.takeId | apply StaysHome.accs | apply StaysHome.traceJump | apply StaysHome.issueBody | apply StaysHome.matrixBody)
    | (with_reducible first | apply SameRegs.writeRange | apply SameRegs.writeReg | apply SameRegs.awaitReg | apply SameRegs.setReg | apply SameRegs.setLdq)
    | exact SameRegs.popRecord hself ‹_›
    | exact (And.right ‹_ ∧ _›)
    | split
    | rfl
    | exact SameRegs.of_eq hself rfl rfl
    | (refine SameRegs.of_eq (SameRegs.awaitReg hself ?_) rfl rfl)
    | (refine SameRegs.of_eq (SameRegs.setReg (SameRegs.setReg hself ?_) ?_) rfl rfl)
    | (refine SameRegs.writeReg (SameRegs.of_eq hself rfl rfl) ?_)
    | (simp [destRegs]; done)
    | dsimp only

theorem home_axor {d_ a_ b_ : Nat} {a : Activation} {s0 s1 : State} (hc : s0.cur? = some a) (hg : a.flow.gang = none)
    (hx : exec (.axor d_ a_ b_) s0 = .next s1) : StaysHome (destRegs (.axor d_ a_ b_)) a s0 s1 := by
  have h : execAxor d_ a_ b_ s0 = .next s1 := hx
  clear hx
  unfold execAxor execA3 at h
  have hself : SameRegs (destRegs (.axor d_ a_ b_)) a s0.cur := by rw [State.cur, hc]; exact SameRegs.refl _ _
  have h0 : StaysHome (destRegs (.axor d_ a_ b_)) a s0 s0 := StaysHome.refl hc
  refine StaysHome.dispatch hc hg ?_ h
  clear h
  repeat' first
    | with_reducible exact h0
    | with_reducible exact hself
    | with_reducible exact hc
    | (with_reducible first | exact Att.holds_stall | exact Att.holds_trap | apply Att.holds_sendable | apply Att.holds_orderly | apply Att.holds_sendReady | apply Att.holds_xQuiet | apply Att.holds_need | apply Att.holds_check | apply Att.holds_capCheck | apply Att.holds_guardHints | apply Att.holds_guardPriv | apply Att.holds_guardCluster | apply Att.holds_aBody | apply Att.holds_regBody | apply Att.holds_orderStore | apply Att.holds_releaseWait | apply Att.holds_decides | apply Att.holds_replyCheck | apply Att.holds_guard | apply Att.holds_ok | apply Att.holds_stay | apply Att.holds_waits)
    | (with_reducible refine Att.holds_popSdq (fun _ _ _ => ?_))
    | (with_reducible refine Att.holds_parkedCheck (fun _ => ?_))
    | (with_reducible first | apply StaysHome.setCur | apply StaysHome.setCurCore | apply StaysHome.emitAcc | apply StaysHome.wcFlush | apply StaysHome.jumpTo | apply StaysHome.endAct | apply StaysHome.enqueueOut | apply StaysHome.setMatrix | apply StaysHome.setChain | apply StaysHome.setGrammar | apply StaysHome.setRun | apply StaysHome.resumeRun | apply StaysHome.performEng | apply StaysHome.endChain | apply StaysHome.copyResume | apply StaysHome.pulse | apply StaysHome.releaseMacros | apply StaysHome.trapAt | apply StaysHome.setCluster | apply StaysHome.countTaken | apply StaysHome.serveSteal | apply StaysHome.send | apply StaysHome.takeId | apply StaysHome.accs | apply StaysHome.traceJump | apply StaysHome.issueBody | apply StaysHome.matrixBody)
    | (with_reducible first | apply SameRegs.writeRange | apply SameRegs.writeReg | apply SameRegs.awaitReg | apply SameRegs.setReg | apply SameRegs.setLdq)
    | exact SameRegs.popRecord hself ‹_›
    | exact (And.right ‹_ ∧ _›)
    | split
    | rfl
    | exact SameRegs.of_eq hself rfl rfl
    | (refine SameRegs.of_eq (SameRegs.awaitReg hself ?_) rfl rfl)
    | (refine SameRegs.of_eq (SameRegs.setReg (SameRegs.setReg hself ?_) ?_) rfl rfl)
    | (refine SameRegs.writeReg (SameRegs.of_eq hself rfl rfl) ?_)
    | (simp [destRegs]; done)
    | dsimp only

theorem home_ashli {d_ a_ im_ : Nat} {a : Activation} {s0 s1 : State} (hc : s0.cur? = some a) (hg : a.flow.gang = none)
    (hx : exec (.ashli d_ a_ im_) s0 = .next s1) : StaysHome (destRegs (.ashli d_ a_ im_)) a s0 s1 := by
  have h : execAshli d_ a_ im_ s0 = .next s1 := hx
  clear hx
  unfold execAshli execAShift at h
  have hself : SameRegs (destRegs (.ashli d_ a_ im_)) a s0.cur := by rw [State.cur, hc]; exact SameRegs.refl _ _
  have h0 : StaysHome (destRegs (.ashli d_ a_ im_)) a s0 s0 := StaysHome.refl hc
  refine StaysHome.dispatch hc hg ?_ h
  clear h
  repeat' first
    | with_reducible exact h0
    | with_reducible exact hself
    | with_reducible exact hc
    | (with_reducible first | exact Att.holds_stall | exact Att.holds_trap | apply Att.holds_sendable | apply Att.holds_orderly | apply Att.holds_sendReady | apply Att.holds_xQuiet | apply Att.holds_need | apply Att.holds_check | apply Att.holds_capCheck | apply Att.holds_guardHints | apply Att.holds_guardPriv | apply Att.holds_guardCluster | apply Att.holds_aBody | apply Att.holds_regBody | apply Att.holds_orderStore | apply Att.holds_releaseWait | apply Att.holds_decides | apply Att.holds_replyCheck | apply Att.holds_guard | apply Att.holds_ok | apply Att.holds_stay | apply Att.holds_waits)
    | (with_reducible refine Att.holds_popSdq (fun _ _ _ => ?_))
    | (with_reducible refine Att.holds_parkedCheck (fun _ => ?_))
    | (with_reducible first | apply StaysHome.setCur | apply StaysHome.setCurCore | apply StaysHome.emitAcc | apply StaysHome.wcFlush | apply StaysHome.jumpTo | apply StaysHome.endAct | apply StaysHome.enqueueOut | apply StaysHome.setMatrix | apply StaysHome.setChain | apply StaysHome.setGrammar | apply StaysHome.setRun | apply StaysHome.resumeRun | apply StaysHome.performEng | apply StaysHome.endChain | apply StaysHome.copyResume | apply StaysHome.pulse | apply StaysHome.releaseMacros | apply StaysHome.trapAt | apply StaysHome.setCluster | apply StaysHome.countTaken | apply StaysHome.serveSteal | apply StaysHome.send | apply StaysHome.takeId | apply StaysHome.accs | apply StaysHome.traceJump | apply StaysHome.issueBody | apply StaysHome.matrixBody)
    | (with_reducible first | apply SameRegs.writeRange | apply SameRegs.writeReg | apply SameRegs.awaitReg | apply SameRegs.setReg | apply SameRegs.setLdq)
    | exact SameRegs.popRecord hself ‹_›
    | exact (And.right ‹_ ∧ _›)
    | split
    | rfl
    | exact SameRegs.of_eq hself rfl rfl
    | (refine SameRegs.of_eq (SameRegs.awaitReg hself ?_) rfl rfl)
    | (refine SameRegs.of_eq (SameRegs.setReg (SameRegs.setReg hself ?_) ?_) rfl rfl)
    | (refine SameRegs.writeReg (SameRegs.of_eq hself rfl rfl) ?_)
    | (simp [destRegs]; done)
    | dsimp only

theorem home_ashri {d_ a_ im_ : Nat} {a : Activation} {s0 s1 : State} (hc : s0.cur? = some a) (hg : a.flow.gang = none)
    (hx : exec (.ashri d_ a_ im_) s0 = .next s1) : StaysHome (destRegs (.ashri d_ a_ im_)) a s0 s1 := by
  have h : execAshri d_ a_ im_ s0 = .next s1 := hx
  clear hx
  unfold execAshri execAShift at h
  have hself : SameRegs (destRegs (.ashri d_ a_ im_)) a s0.cur := by rw [State.cur, hc]; exact SameRegs.refl _ _
  have h0 : StaysHome (destRegs (.ashri d_ a_ im_)) a s0 s0 := StaysHome.refl hc
  refine StaysHome.dispatch hc hg ?_ h
  clear h
  repeat' first
    | with_reducible exact h0
    | with_reducible exact hself
    | with_reducible exact hc
    | (with_reducible first | exact Att.holds_stall | exact Att.holds_trap | apply Att.holds_sendable | apply Att.holds_orderly | apply Att.holds_sendReady | apply Att.holds_xQuiet | apply Att.holds_need | apply Att.holds_check | apply Att.holds_capCheck | apply Att.holds_guardHints | apply Att.holds_guardPriv | apply Att.holds_guardCluster | apply Att.holds_aBody | apply Att.holds_regBody | apply Att.holds_orderStore | apply Att.holds_releaseWait | apply Att.holds_decides | apply Att.holds_replyCheck | apply Att.holds_guard | apply Att.holds_ok | apply Att.holds_stay | apply Att.holds_waits)
    | (with_reducible refine Att.holds_popSdq (fun _ _ _ => ?_))
    | (with_reducible refine Att.holds_parkedCheck (fun _ => ?_))
    | (with_reducible first | apply StaysHome.setCur | apply StaysHome.setCurCore | apply StaysHome.emitAcc | apply StaysHome.wcFlush | apply StaysHome.jumpTo | apply StaysHome.endAct | apply StaysHome.enqueueOut | apply StaysHome.setMatrix | apply StaysHome.setChain | apply StaysHome.setGrammar | apply StaysHome.setRun | apply StaysHome.resumeRun | apply StaysHome.performEng | apply StaysHome.endChain | apply StaysHome.copyResume | apply StaysHome.pulse | apply StaysHome.releaseMacros | apply StaysHome.trapAt | apply StaysHome.setCluster | apply StaysHome.countTaken | apply StaysHome.serveSteal | apply StaysHome.send | apply StaysHome.takeId | apply StaysHome.accs | apply StaysHome.traceJump | apply StaysHome.issueBody | apply StaysHome.matrixBody)
    | (with_reducible first | apply SameRegs.writeRange | apply SameRegs.writeReg | apply SameRegs.awaitReg | apply SameRegs.setReg | apply SameRegs.setLdq)
    | exact SameRegs.popRecord hself ‹_›
    | exact (And.right ‹_ ∧ _›)
    | split
    | rfl
    | exact SameRegs.of_eq hself rfl rfl
    | (refine SameRegs.of_eq (SameRegs.awaitReg hself ?_) rfl rfl)
    | (refine SameRegs.of_eq (SameRegs.setReg (SameRegs.setReg hself ?_) ?_) rfl rfl)
    | (refine SameRegs.writeReg (SameRegs.of_eq hself rfl rfl) ?_)
    | (simp [destRegs]; done)
    | dsimp only

theorem home_asari {d_ a_ im_ : Nat} {a : Activation} {s0 s1 : State} (hc : s0.cur? = some a) (hg : a.flow.gang = none)
    (hx : exec (.asari d_ a_ im_) s0 = .next s1) : StaysHome (destRegs (.asari d_ a_ im_)) a s0 s1 := by
  have h : execAsari d_ a_ im_ s0 = .next s1 := hx
  clear hx
  unfold execAsari execAShift at h
  have hself : SameRegs (destRegs (.asari d_ a_ im_)) a s0.cur := by rw [State.cur, hc]; exact SameRegs.refl _ _
  have h0 : StaysHome (destRegs (.asari d_ a_ im_)) a s0 s0 := StaysHome.refl hc
  refine StaysHome.dispatch hc hg ?_ h
  clear h
  repeat' first
    | with_reducible exact h0
    | with_reducible exact hself
    | with_reducible exact hc
    | (with_reducible first | exact Att.holds_stall | exact Att.holds_trap | apply Att.holds_sendable | apply Att.holds_orderly | apply Att.holds_sendReady | apply Att.holds_xQuiet | apply Att.holds_need | apply Att.holds_check | apply Att.holds_capCheck | apply Att.holds_guardHints | apply Att.holds_guardPriv | apply Att.holds_guardCluster | apply Att.holds_aBody | apply Att.holds_regBody | apply Att.holds_orderStore | apply Att.holds_releaseWait | apply Att.holds_decides | apply Att.holds_replyCheck | apply Att.holds_guard | apply Att.holds_ok | apply Att.holds_stay | apply Att.holds_waits)
    | (with_reducible refine Att.holds_popSdq (fun _ _ _ => ?_))
    | (with_reducible refine Att.holds_parkedCheck (fun _ => ?_))
    | (with_reducible first | apply StaysHome.setCur | apply StaysHome.setCurCore | apply StaysHome.emitAcc | apply StaysHome.wcFlush | apply StaysHome.jumpTo | apply StaysHome.endAct | apply StaysHome.enqueueOut | apply StaysHome.setMatrix | apply StaysHome.setChain | apply StaysHome.setGrammar | apply StaysHome.setRun | apply StaysHome.resumeRun | apply StaysHome.performEng | apply StaysHome.endChain | apply StaysHome.copyResume | apply StaysHome.pulse | apply StaysHome.releaseMacros | apply StaysHome.trapAt | apply StaysHome.setCluster | apply StaysHome.countTaken | apply StaysHome.serveSteal | apply StaysHome.send | apply StaysHome.takeId | apply StaysHome.accs | apply StaysHome.traceJump | apply StaysHome.issueBody | apply StaysHome.matrixBody)
    | (with_reducible first | apply SameRegs.writeRange | apply SameRegs.writeReg | apply SameRegs.awaitReg | apply SameRegs.setReg | apply SameRegs.setLdq)
    | exact SameRegs.popRecord hself ‹_›
    | exact (And.right ‹_ ∧ _›)
    | split
    | rfl
    | exact SameRegs.of_eq hself rfl rfl
    | (refine SameRegs.of_eq (SameRegs.awaitReg hself ?_) rfl rfl)
    | (refine SameRegs.of_eq (SameRegs.setReg (SameRegs.setReg hself ?_) ?_) rfl rfl)
    | (refine SameRegs.writeReg (SameRegs.of_eq hself rfl rfl) ?_)
    | (simp [destRegs]; done)
    | dsimp only

theorem home_aslt {d_ a_ b_ : Nat} {a : Activation} {s0 s1 : State} (hc : s0.cur? = some a) (hg : a.flow.gang = none)
    (hx : exec (.aslt d_ a_ b_) s0 = .next s1) : StaysHome (destRegs (.aslt d_ a_ b_)) a s0 s1 := by
  have h : execAslt d_ a_ b_ s0 = .next s1 := hx
  clear hx
  unfold execAslt execA3 at h
  have hself : SameRegs (destRegs (.aslt d_ a_ b_)) a s0.cur := by rw [State.cur, hc]; exact SameRegs.refl _ _
  have h0 : StaysHome (destRegs (.aslt d_ a_ b_)) a s0 s0 := StaysHome.refl hc
  refine StaysHome.dispatch hc hg ?_ h
  clear h
  repeat' first
    | with_reducible exact h0
    | with_reducible exact hself
    | with_reducible exact hc
    | (with_reducible first | exact Att.holds_stall | exact Att.holds_trap | apply Att.holds_sendable | apply Att.holds_orderly | apply Att.holds_sendReady | apply Att.holds_xQuiet | apply Att.holds_need | apply Att.holds_check | apply Att.holds_capCheck | apply Att.holds_guardHints | apply Att.holds_guardPriv | apply Att.holds_guardCluster | apply Att.holds_aBody | apply Att.holds_regBody | apply Att.holds_orderStore | apply Att.holds_releaseWait | apply Att.holds_decides | apply Att.holds_replyCheck | apply Att.holds_guard | apply Att.holds_ok | apply Att.holds_stay | apply Att.holds_waits)
    | (with_reducible refine Att.holds_popSdq (fun _ _ _ => ?_))
    | (with_reducible refine Att.holds_parkedCheck (fun _ => ?_))
    | (with_reducible first | apply StaysHome.setCur | apply StaysHome.setCurCore | apply StaysHome.emitAcc | apply StaysHome.wcFlush | apply StaysHome.jumpTo | apply StaysHome.endAct | apply StaysHome.enqueueOut | apply StaysHome.setMatrix | apply StaysHome.setChain | apply StaysHome.setGrammar | apply StaysHome.setRun | apply StaysHome.resumeRun | apply StaysHome.performEng | apply StaysHome.endChain | apply StaysHome.copyResume | apply StaysHome.pulse | apply StaysHome.releaseMacros | apply StaysHome.trapAt | apply StaysHome.setCluster | apply StaysHome.countTaken | apply StaysHome.serveSteal | apply StaysHome.send | apply StaysHome.takeId | apply StaysHome.accs | apply StaysHome.traceJump | apply StaysHome.issueBody | apply StaysHome.matrixBody)
    | (with_reducible first | apply SameRegs.writeRange | apply SameRegs.writeReg | apply SameRegs.awaitReg | apply SameRegs.setReg | apply SameRegs.setLdq)
    | exact SameRegs.popRecord hself ‹_›
    | exact (And.right ‹_ ∧ _›)
    | split
    | rfl
    | exact SameRegs.of_eq hself rfl rfl
    | (refine SameRegs.of_eq (SameRegs.awaitReg hself ?_) rfl rfl)
    | (refine SameRegs.of_eq (SameRegs.setReg (SameRegs.setReg hself ?_) ?_) rfl rfl)
    | (refine SameRegs.writeReg (SameRegs.of_eq hself rfl rfl) ?_)
    | (simp [destRegs]; done)
    | dsimp only

theorem home_asltu {d_ a_ b_ : Nat} {a : Activation} {s0 s1 : State} (hc : s0.cur? = some a) (hg : a.flow.gang = none)
    (hx : exec (.asltu d_ a_ b_) s0 = .next s1) : StaysHome (destRegs (.asltu d_ a_ b_)) a s0 s1 := by
  have h : execAsltu d_ a_ b_ s0 = .next s1 := hx
  clear hx
  unfold execAsltu execA3 at h
  have hself : SameRegs (destRegs (.asltu d_ a_ b_)) a s0.cur := by rw [State.cur, hc]; exact SameRegs.refl _ _
  have h0 : StaysHome (destRegs (.asltu d_ a_ b_)) a s0 s0 := StaysHome.refl hc
  refine StaysHome.dispatch hc hg ?_ h
  clear h
  repeat' first
    | with_reducible exact h0
    | with_reducible exact hself
    | with_reducible exact hc
    | (with_reducible first | exact Att.holds_stall | exact Att.holds_trap | apply Att.holds_sendable | apply Att.holds_orderly | apply Att.holds_sendReady | apply Att.holds_xQuiet | apply Att.holds_need | apply Att.holds_check | apply Att.holds_capCheck | apply Att.holds_guardHints | apply Att.holds_guardPriv | apply Att.holds_guardCluster | apply Att.holds_aBody | apply Att.holds_regBody | apply Att.holds_orderStore | apply Att.holds_releaseWait | apply Att.holds_decides | apply Att.holds_replyCheck | apply Att.holds_guard | apply Att.holds_ok | apply Att.holds_stay | apply Att.holds_waits)
    | (with_reducible refine Att.holds_popSdq (fun _ _ _ => ?_))
    | (with_reducible refine Att.holds_parkedCheck (fun _ => ?_))
    | (with_reducible first | apply StaysHome.setCur | apply StaysHome.setCurCore | apply StaysHome.emitAcc | apply StaysHome.wcFlush | apply StaysHome.jumpTo | apply StaysHome.endAct | apply StaysHome.enqueueOut | apply StaysHome.setMatrix | apply StaysHome.setChain | apply StaysHome.setGrammar | apply StaysHome.setRun | apply StaysHome.resumeRun | apply StaysHome.performEng | apply StaysHome.endChain | apply StaysHome.copyResume | apply StaysHome.pulse | apply StaysHome.releaseMacros | apply StaysHome.trapAt | apply StaysHome.setCluster | apply StaysHome.countTaken | apply StaysHome.serveSteal | apply StaysHome.send | apply StaysHome.takeId | apply StaysHome.accs | apply StaysHome.traceJump | apply StaysHome.issueBody | apply StaysHome.matrixBody)
    | (with_reducible first | apply SameRegs.writeRange | apply SameRegs.writeReg | apply SameRegs.awaitReg | apply SameRegs.setReg | apply SameRegs.setLdq)
    | exact SameRegs.popRecord hself ‹_›
    | exact (And.right ‹_ ∧ _›)
    | split
    | rfl
    | exact SameRegs.of_eq hself rfl rfl
    | (refine SameRegs.of_eq (SameRegs.awaitReg hself ?_) rfl rfl)
    | (refine SameRegs.of_eq (SameRegs.setReg (SameRegs.setReg hself ?_) ?_) rfl rfl)
    | (refine SameRegs.writeReg (SameRegs.of_eq hself rfl rfl) ?_)
    | (simp [destRegs]; done)
    | dsimp only

theorem home_amovi {d_ im_ : Nat} {a : Activation} {s0 s1 : State} (hc : s0.cur? = some a) (hg : a.flow.gang = none)
    (hx : exec (.amovi d_ im_) s0 = .next s1) : StaysHome (destRegs (.amovi d_ im_)) a s0 s1 := by
  have h : execAmovi d_ im_ s0 = .next s1 := hx
  clear hx
  unfold execAmovi at h
  have hself : SameRegs (destRegs (.amovi d_ im_)) a s0.cur := by rw [State.cur, hc]; exact SameRegs.refl _ _
  have h0 : StaysHome (destRegs (.amovi d_ im_)) a s0 s0 := StaysHome.refl hc
  refine StaysHome.dispatch hc hg ?_ h
  clear h
  repeat' first
    | with_reducible exact h0
    | with_reducible exact hself
    | with_reducible exact hc
    | (with_reducible first | exact Att.holds_stall | exact Att.holds_trap | apply Att.holds_sendable | apply Att.holds_orderly | apply Att.holds_sendReady | apply Att.holds_xQuiet | apply Att.holds_need | apply Att.holds_check | apply Att.holds_capCheck | apply Att.holds_guardHints | apply Att.holds_guardPriv | apply Att.holds_guardCluster | apply Att.holds_aBody | apply Att.holds_regBody | apply Att.holds_orderStore | apply Att.holds_releaseWait | apply Att.holds_decides | apply Att.holds_replyCheck | apply Att.holds_guard | apply Att.holds_ok | apply Att.holds_stay | apply Att.holds_waits)
    | (with_reducible refine Att.holds_popSdq (fun _ _ _ => ?_))
    | (with_reducible refine Att.holds_parkedCheck (fun _ => ?_))
    | (with_reducible first | apply StaysHome.setCur | apply StaysHome.setCurCore | apply StaysHome.emitAcc | apply StaysHome.wcFlush | apply StaysHome.jumpTo | apply StaysHome.endAct | apply StaysHome.enqueueOut | apply StaysHome.setMatrix | apply StaysHome.setChain | apply StaysHome.setGrammar | apply StaysHome.setRun | apply StaysHome.resumeRun | apply StaysHome.performEng | apply StaysHome.endChain | apply StaysHome.copyResume | apply StaysHome.pulse | apply StaysHome.releaseMacros | apply StaysHome.trapAt | apply StaysHome.setCluster | apply StaysHome.countTaken | apply StaysHome.serveSteal | apply StaysHome.send | apply StaysHome.takeId | apply StaysHome.accs | apply StaysHome.traceJump | apply StaysHome.issueBody | apply StaysHome.matrixBody)
    | (with_reducible first | apply SameRegs.writeRange | apply SameRegs.writeReg | apply SameRegs.awaitReg | apply SameRegs.setReg | apply SameRegs.setLdq)
    | exact SameRegs.popRecord hself ‹_›
    | exact (And.right ‹_ ∧ _›)
    | split
    | rfl
    | exact SameRegs.of_eq hself rfl rfl
    | (refine SameRegs.of_eq (SameRegs.awaitReg hself ?_) rfl rfl)
    | (refine SameRegs.of_eq (SameRegs.setReg (SameRegs.setReg hself ?_) ?_) rfl rfl)
    | (refine SameRegs.writeReg (SameRegs.of_eq hself rfl rfl) ?_)
    | (simp [destRegs]; done)
    | dsimp only

theorem home_aupi {d_ im_ : Nat} {a : Activation} {s0 s1 : State} (hc : s0.cur? = some a) (hg : a.flow.gang = none)
    (hx : exec (.aupi d_ im_) s0 = .next s1) : StaysHome (destRegs (.aupi d_ im_)) a s0 s1 := by
  have h : execAupi d_ im_ s0 = .next s1 := hx
  clear hx
  unfold execAupi at h
  have hself : SameRegs (destRegs (.aupi d_ im_)) a s0.cur := by rw [State.cur, hc]; exact SameRegs.refl _ _
  have h0 : StaysHome (destRegs (.aupi d_ im_)) a s0 s0 := StaysHome.refl hc
  refine StaysHome.dispatch hc hg ?_ h
  clear h
  repeat' first
    | with_reducible exact h0
    | with_reducible exact hself
    | with_reducible exact hc
    | (with_reducible first | exact Att.holds_stall | exact Att.holds_trap | apply Att.holds_sendable | apply Att.holds_orderly | apply Att.holds_sendReady | apply Att.holds_xQuiet | apply Att.holds_need | apply Att.holds_check | apply Att.holds_capCheck | apply Att.holds_guardHints | apply Att.holds_guardPriv | apply Att.holds_guardCluster | apply Att.holds_aBody | apply Att.holds_regBody | apply Att.holds_orderStore | apply Att.holds_releaseWait | apply Att.holds_decides | apply Att.holds_replyCheck | apply Att.holds_guard | apply Att.holds_ok | apply Att.holds_stay | apply Att.holds_waits)
    | (with_reducible refine Att.holds_popSdq (fun _ _ _ => ?_))
    | (with_reducible refine Att.holds_parkedCheck (fun _ => ?_))
    | (with_reducible first | apply StaysHome.setCur | apply StaysHome.setCurCore | apply StaysHome.emitAcc | apply StaysHome.wcFlush | apply StaysHome.jumpTo | apply StaysHome.endAct | apply StaysHome.enqueueOut | apply StaysHome.setMatrix | apply StaysHome.setChain | apply StaysHome.setGrammar | apply StaysHome.setRun | apply StaysHome.resumeRun | apply StaysHome.performEng | apply StaysHome.endChain | apply StaysHome.copyResume | apply StaysHome.pulse | apply StaysHome.releaseMacros | apply StaysHome.trapAt | apply StaysHome.setCluster | apply StaysHome.countTaken | apply StaysHome.serveSteal | apply StaysHome.send | apply StaysHome.takeId | apply StaysHome.accs | apply StaysHome.traceJump | apply StaysHome.issueBody | apply StaysHome.matrixBody)
    | (with_reducible first | apply SameRegs.writeRange | apply SameRegs.writeReg | apply SameRegs.awaitReg | apply SameRegs.setReg | apply SameRegs.setLdq)
    | exact SameRegs.popRecord hself ‹_›
    | exact (And.right ‹_ ∧ _›)
    | split
    | rfl
    | exact SameRegs.of_eq hself rfl rfl
    | (refine SameRegs.of_eq (SameRegs.awaitReg hself ?_) rfl rfl)
    | (refine SameRegs.of_eq (SameRegs.setReg (SameRegs.setReg hself ?_) ?_) rfl rfl)
    | (refine SameRegs.writeReg (SameRegs.of_eq hself rfl rfl) ?_)
    | (simp [destRegs]; done)
    | dsimp only

theorem home_amov {d_ a_ : Nat} {a : Activation} {s0 s1 : State} (hc : s0.cur? = some a) (hg : a.flow.gang = none)
    (hx : exec (.amov d_ a_) s0 = .next s1) : StaysHome (destRegs (.amov d_ a_)) a s0 s1 := by
  have h : execAmov d_ a_ s0 = .next s1 := hx
  clear hx
  unfold execAmov at h
  have hself : SameRegs (destRegs (.amov d_ a_)) a s0.cur := by rw [State.cur, hc]; exact SameRegs.refl _ _
  have h0 : StaysHome (destRegs (.amov d_ a_)) a s0 s0 := StaysHome.refl hc
  refine StaysHome.dispatch hc hg ?_ h
  clear h
  repeat' first
    | with_reducible exact h0
    | with_reducible exact hself
    | with_reducible exact hc
    | (with_reducible first | exact Att.holds_stall | exact Att.holds_trap | apply Att.holds_sendable | apply Att.holds_orderly | apply Att.holds_sendReady | apply Att.holds_xQuiet | apply Att.holds_need | apply Att.holds_check | apply Att.holds_capCheck | apply Att.holds_guardHints | apply Att.holds_guardPriv | apply Att.holds_guardCluster | apply Att.holds_aBody | apply Att.holds_regBody | apply Att.holds_orderStore | apply Att.holds_releaseWait | apply Att.holds_decides | apply Att.holds_replyCheck | apply Att.holds_guard | apply Att.holds_ok | apply Att.holds_stay | apply Att.holds_waits)
    | (with_reducible refine Att.holds_popSdq (fun _ _ _ => ?_))
    | (with_reducible refine Att.holds_parkedCheck (fun _ => ?_))
    | (with_reducible first | apply StaysHome.setCur | apply StaysHome.setCurCore | apply StaysHome.emitAcc | apply StaysHome.wcFlush | apply StaysHome.jumpTo | apply StaysHome.endAct | apply StaysHome.enqueueOut | apply StaysHome.setMatrix | apply StaysHome.setChain | apply StaysHome.setGrammar | apply StaysHome.setRun | apply StaysHome.resumeRun | apply StaysHome.performEng | apply StaysHome.endChain | apply StaysHome.copyResume | apply StaysHome.pulse | apply StaysHome.releaseMacros | apply StaysHome.trapAt | apply StaysHome.setCluster | apply StaysHome.countTaken | apply StaysHome.serveSteal | apply StaysHome.send | apply StaysHome.takeId | apply StaysHome.accs | apply StaysHome.traceJump | apply StaysHome.issueBody | apply StaysHome.matrixBody)
    | (with_reducible first | apply SameRegs.writeRange | apply SameRegs.writeReg | apply SameRegs.awaitReg | apply SameRegs.setReg | apply SameRegs.setLdq)
    | exact SameRegs.popRecord hself ‹_›
    | exact (And.right ‹_ ∧ _›)
    | split
    | rfl
    | exact SameRegs.of_eq hself rfl rfl
    | (refine SameRegs.of_eq (SameRegs.awaitReg hself ?_) rfl rfl)
    | (refine SameRegs.of_eq (SameRegs.setReg (SameRegs.setReg hself ?_) ?_) rfl rfl)
    | (refine SameRegs.writeReg (SameRegs.of_eq hself rfl rfl) ?_)
    | (simp [destRegs]; done)
    | dsimp only

theorem home_apushq {q_ a_ : Nat} {a : Activation} {s0 s1 : State} (hc : s0.cur? = some a) (hg : a.flow.gang = none)
    (hx : exec (.apushq q_ a_) s0 = .next s1) : StaysHome (destRegs (.apushq q_ a_)) a s0 s1 := by
  have h : execApushq q_ a_ s0 = .next s1 := hx
  clear hx
  unfold execApushq at h
  have hself : SameRegs (destRegs (.apushq q_ a_)) a s0.cur := by rw [State.cur, hc]; exact SameRegs.refl _ _
  have h0 : StaysHome (destRegs (.apushq q_ a_)) a s0 s0 := StaysHome.refl hc
  refine StaysHome.dispatch hc hg ?_ h
  clear h
  repeat' first
    | with_reducible exact h0
    | with_reducible exact hself
    | with_reducible exact hc
    | (with_reducible first | exact Att.holds_stall | exact Att.holds_trap | apply Att.holds_sendable | apply Att.holds_orderly | apply Att.holds_sendReady | apply Att.holds_xQuiet | apply Att.holds_need | apply Att.holds_check | apply Att.holds_capCheck | apply Att.holds_guardHints | apply Att.holds_guardPriv | apply Att.holds_guardCluster | apply Att.holds_aBody | apply Att.holds_regBody | apply Att.holds_orderStore | apply Att.holds_releaseWait | apply Att.holds_decides | apply Att.holds_replyCheck | apply Att.holds_guard | apply Att.holds_ok | apply Att.holds_stay | apply Att.holds_waits)
    | (with_reducible refine Att.holds_popSdq (fun _ _ _ => ?_))
    | (with_reducible refine Att.holds_parkedCheck (fun _ => ?_))
    | (with_reducible first | apply StaysHome.setCur | apply StaysHome.setCurCore | apply StaysHome.emitAcc | apply StaysHome.wcFlush | apply StaysHome.jumpTo | apply StaysHome.endAct | apply StaysHome.enqueueOut | apply StaysHome.setMatrix | apply StaysHome.setChain | apply StaysHome.setGrammar | apply StaysHome.setRun | apply StaysHome.resumeRun | apply StaysHome.performEng | apply StaysHome.endChain | apply StaysHome.copyResume | apply StaysHome.pulse | apply StaysHome.releaseMacros | apply StaysHome.trapAt | apply StaysHome.setCluster | apply StaysHome.countTaken | apply StaysHome.serveSteal | apply StaysHome.send | apply StaysHome.takeId | apply StaysHome.accs | apply StaysHome.traceJump | apply StaysHome.issueBody | apply StaysHome.matrixBody)
    | (with_reducible first | apply SameRegs.writeRange | apply SameRegs.writeReg | apply SameRegs.awaitReg | apply SameRegs.setReg | apply SameRegs.setLdq)
    | exact SameRegs.popRecord hself ‹_›
    | exact (And.right ‹_ ∧ _›)
    | split
    | rfl
    | exact SameRegs.of_eq hself rfl rfl
    | (refine SameRegs.of_eq (SameRegs.awaitReg hself ?_) rfl rfl)
    | (refine SameRegs.of_eq (SameRegs.setReg (SameRegs.setReg hself ?_) ?_) rfl rfl)
    | (refine SameRegs.writeReg (SameRegs.of_eq hself rfl rfl) ?_)
    | (simp [destRegs]; done)
    | dsimp only

theorem home_apopq {d_ : Nat} {a : Activation} {s0 s1 : State} (hc : s0.cur? = some a) (hg : a.flow.gang = none)
    (hx : exec (.apopq d_) s0 = .next s1) : StaysHome (destRegs (.apopq d_)) a s0 s1 := by
  have h : execApopq d_ s0 = .next s1 := hx
  clear hx
  unfold execApopq at h
  have hself : SameRegs (destRegs (.apopq d_)) a s0.cur := by rw [State.cur, hc]; exact SameRegs.refl _ _
  have h0 : StaysHome (destRegs (.apopq d_)) a s0 s0 := StaysHome.refl hc
  refine StaysHome.dispatch hc hg ?_ h
  clear h
  repeat' first
    | with_reducible exact h0
    | with_reducible exact hself
    | with_reducible exact hc
    | (with_reducible first | exact Att.holds_stall | exact Att.holds_trap | apply Att.holds_sendable | apply Att.holds_orderly | apply Att.holds_sendReady | apply Att.holds_xQuiet | apply Att.holds_need | apply Att.holds_check | apply Att.holds_capCheck | apply Att.holds_guardHints | apply Att.holds_guardPriv | apply Att.holds_guardCluster | apply Att.holds_aBody | apply Att.holds_regBody | apply Att.holds_orderStore | apply Att.holds_releaseWait | apply Att.holds_decides | apply Att.holds_replyCheck | apply Att.holds_guard | apply Att.holds_ok | apply Att.holds_stay | apply Att.holds_waits)
    | (with_reducible refine Att.holds_popSdq (fun _ _ _ => ?_))
    | (with_reducible refine Att.holds_parkedCheck (fun _ => ?_))
    | (with_reducible first | apply StaysHome.setCur | apply StaysHome.setCurCore | apply StaysHome.emitAcc | apply StaysHome.wcFlush | apply StaysHome.jumpTo | apply StaysHome.endAct | apply StaysHome.enqueueOut | apply StaysHome.setMatrix | apply StaysHome.setChain | apply StaysHome.setGrammar | apply StaysHome.setRun | apply StaysHome.resumeRun | apply StaysHome.performEng | apply StaysHome.endChain | apply StaysHome.copyResume | apply StaysHome.pulse | apply StaysHome.releaseMacros | apply StaysHome.trapAt | apply StaysHome.setCluster | apply StaysHome.countTaken | apply StaysHome.serveSteal | apply StaysHome.send | apply StaysHome.takeId | apply StaysHome.accs | apply StaysHome.traceJump | apply StaysHome.issueBody | apply StaysHome.matrixBody)
    | (with_reducible first | apply SameRegs.writeRange | apply SameRegs.writeReg | apply SameRegs.awaitReg | apply SameRegs.setReg | apply SameRegs.setLdq)
    | exact SameRegs.popRecord hself ‹_›
    | exact (And.right ‹_ ∧ _›)
    | split
    | rfl
    | exact SameRegs.of_eq hself rfl rfl
    | (refine SameRegs.of_eq (SameRegs.awaitReg hself ?_) rfl rfl)
    | (refine SameRegs.of_eq (SameRegs.setReg (SameRegs.setReg hself ?_) ?_) rfl rfl)
    | (refine SameRegs.writeReg (SameRegs.of_eq hself rfl rfl) ?_)
    | (simp [destRegs]; done)
    | dsimp only

theorem home_cbase {d_ a_ b_ : Nat} {a : Activation} {s0 s1 : State} (hc : s0.cur? = some a) (hg : a.flow.gang = none)
    (hx : exec (.cbase d_ a_ b_) s0 = .next s1) : StaysHome (destRegs (.cbase d_ a_ b_)) a s0 s1 := by
  have h : execCbase d_ a_ b_ s0 = .next s1 := hx
  clear hx
  unfold execCbase execDerive at h
  have hself : SameRegs (destRegs (.cbase d_ a_ b_)) a s0.cur := by rw [State.cur, hc]; exact SameRegs.refl _ _
  have h0 : StaysHome (destRegs (.cbase d_ a_ b_)) a s0 s0 := StaysHome.refl hc
  refine StaysHome.dispatch hc hg ?_ h
  clear h
  repeat' first
    | with_reducible exact h0
    | with_reducible exact hself
    | with_reducible exact hc
    | (with_reducible first | exact Att.holds_stall | exact Att.holds_trap | apply Att.holds_sendable | apply Att.holds_orderly | apply Att.holds_sendReady | apply Att.holds_xQuiet | apply Att.holds_need | apply Att.holds_check | apply Att.holds_capCheck | apply Att.holds_guardHints | apply Att.holds_guardPriv | apply Att.holds_guardCluster | apply Att.holds_aBody | apply Att.holds_regBody | apply Att.holds_orderStore | apply Att.holds_releaseWait | apply Att.holds_decides | apply Att.holds_replyCheck | apply Att.holds_guard | apply Att.holds_ok | apply Att.holds_stay | apply Att.holds_waits)
    | (with_reducible refine Att.holds_popSdq (fun _ _ _ => ?_))
    | (with_reducible refine Att.holds_parkedCheck (fun _ => ?_))
    | (with_reducible first | apply StaysHome.setCur | apply StaysHome.setCurCore | apply StaysHome.emitAcc | apply StaysHome.wcFlush | apply StaysHome.jumpTo | apply StaysHome.endAct | apply StaysHome.enqueueOut | apply StaysHome.setMatrix | apply StaysHome.setChain | apply StaysHome.setGrammar | apply StaysHome.setRun | apply StaysHome.resumeRun | apply StaysHome.performEng | apply StaysHome.endChain | apply StaysHome.copyResume | apply StaysHome.pulse | apply StaysHome.releaseMacros | apply StaysHome.trapAt | apply StaysHome.setCluster | apply StaysHome.countTaken | apply StaysHome.serveSteal | apply StaysHome.send | apply StaysHome.takeId | apply StaysHome.accs | apply StaysHome.traceJump | apply StaysHome.issueBody | apply StaysHome.matrixBody)
    | (with_reducible first | apply SameRegs.writeRange | apply SameRegs.writeReg | apply SameRegs.awaitReg | apply SameRegs.setReg | apply SameRegs.setLdq)
    | exact SameRegs.popRecord hself ‹_›
    | exact (And.right ‹_ ∧ _›)
    | split
    | rfl
    | exact SameRegs.of_eq hself rfl rfl
    | (refine SameRegs.of_eq (SameRegs.awaitReg hself ?_) rfl rfl)
    | (refine SameRegs.of_eq (SameRegs.setReg (SameRegs.setReg hself ?_) ?_) rfl rfl)
    | (refine SameRegs.writeReg (SameRegs.of_eq hself rfl rfl) ?_)
    | (simp [destRegs]; done)
    | dsimp only

theorem home_clen {d_ a_ b_ : Nat} {a : Activation} {s0 s1 : State} (hc : s0.cur? = some a) (hg : a.flow.gang = none)
    (hx : exec (.clen d_ a_ b_) s0 = .next s1) : StaysHome (destRegs (.clen d_ a_ b_)) a s0 s1 := by
  have h : execClen d_ a_ b_ s0 = .next s1 := hx
  clear hx
  unfold execClen execDerive at h
  have hself : SameRegs (destRegs (.clen d_ a_ b_)) a s0.cur := by rw [State.cur, hc]; exact SameRegs.refl _ _
  have h0 : StaysHome (destRegs (.clen d_ a_ b_)) a s0 s0 := StaysHome.refl hc
  refine StaysHome.dispatch hc hg ?_ h
  clear h
  repeat' first
    | with_reducible exact h0
    | with_reducible exact hself
    | with_reducible exact hc
    | (with_reducible first | exact Att.holds_stall | exact Att.holds_trap | apply Att.holds_sendable | apply Att.holds_orderly | apply Att.holds_sendReady | apply Att.holds_xQuiet | apply Att.holds_need | apply Att.holds_check | apply Att.holds_capCheck | apply Att.holds_guardHints | apply Att.holds_guardPriv | apply Att.holds_guardCluster | apply Att.holds_aBody | apply Att.holds_regBody | apply Att.holds_orderStore | apply Att.holds_releaseWait | apply Att.holds_decides | apply Att.holds_replyCheck | apply Att.holds_guard | apply Att.holds_ok | apply Att.holds_stay | apply Att.holds_waits)
    | (with_reducible refine Att.holds_popSdq (fun _ _ _ => ?_))
    | (with_reducible refine Att.holds_parkedCheck (fun _ => ?_))
    | (with_reducible first | apply StaysHome.setCur | apply StaysHome.setCurCore | apply StaysHome.emitAcc | apply StaysHome.wcFlush | apply StaysHome.jumpTo | apply StaysHome.endAct | apply StaysHome.enqueueOut | apply StaysHome.setMatrix | apply StaysHome.setChain | apply StaysHome.setGrammar | apply StaysHome.setRun | apply StaysHome.resumeRun | apply StaysHome.performEng | apply StaysHome.endChain | apply StaysHome.copyResume | apply StaysHome.pulse | apply StaysHome.releaseMacros | apply StaysHome.trapAt | apply StaysHome.setCluster | apply StaysHome.countTaken | apply StaysHome.serveSteal | apply StaysHome.send | apply StaysHome.takeId | apply StaysHome.accs | apply StaysHome.traceJump | apply StaysHome.issueBody | apply StaysHome.matrixBody)
    | (with_reducible first | apply SameRegs.writeRange | apply SameRegs.writeReg | apply SameRegs.awaitReg | apply SameRegs.setReg | apply SameRegs.setLdq)
    | exact SameRegs.popRecord hself ‹_›
    | exact (And.right ‹_ ∧ _›)
    | split
    | rfl
    | exact SameRegs.of_eq hself rfl rfl
    | (refine SameRegs.of_eq (SameRegs.awaitReg hself ?_) rfl rfl)
    | (refine SameRegs.of_eq (SameRegs.setReg (SameRegs.setReg hself ?_) ?_) rfl rfl)
    | (refine SameRegs.writeReg (SameRegs.of_eq hself rfl rfl) ?_)
    | (simp [destRegs]; done)
    | dsimp only

theorem home_cperm {d_ a_ b_ : Nat} {a : Activation} {s0 s1 : State} (hc : s0.cur? = some a) (hg : a.flow.gang = none)
    (hx : exec (.cperm d_ a_ b_) s0 = .next s1) : StaysHome (destRegs (.cperm d_ a_ b_)) a s0 s1 := by
  have h : execCperm d_ a_ b_ s0 = .next s1 := hx
  clear hx
  unfold execCperm execDerive at h
  have hself : SameRegs (destRegs (.cperm d_ a_ b_)) a s0.cur := by rw [State.cur, hc]; exact SameRegs.refl _ _
  have h0 : StaysHome (destRegs (.cperm d_ a_ b_)) a s0 s0 := StaysHome.refl hc
  refine StaysHome.dispatch hc hg ?_ h
  clear h
  repeat' first
    | with_reducible exact h0
    | with_reducible exact hself
    | with_reducible exact hc
    | (with_reducible first | exact Att.holds_stall | exact Att.holds_trap | apply Att.holds_sendable | apply Att.holds_orderly | apply Att.holds_sendReady | apply Att.holds_xQuiet | apply Att.holds_need | apply Att.holds_check | apply Att.holds_capCheck | apply Att.holds_guardHints | apply Att.holds_guardPriv | apply Att.holds_guardCluster | apply Att.holds_aBody | apply Att.holds_regBody | apply Att.holds_orderStore | apply Att.holds_releaseWait | apply Att.holds_decides | apply Att.holds_replyCheck | apply Att.holds_guard | apply Att.holds_ok | apply Att.holds_stay | apply Att.holds_waits)
    | (with_reducible refine Att.holds_popSdq (fun _ _ _ => ?_))
    | (with_reducible refine Att.holds_parkedCheck (fun _ => ?_))
    | (with_reducible first | apply StaysHome.setCur | apply StaysHome.setCurCore | apply StaysHome.emitAcc | apply StaysHome.wcFlush | apply StaysHome.jumpTo | apply StaysHome.endAct | apply StaysHome.enqueueOut | apply StaysHome.setMatrix | apply StaysHome.setChain | apply StaysHome.setGrammar | apply StaysHome.setRun | apply StaysHome.resumeRun | apply StaysHome.performEng | apply StaysHome.endChain | apply StaysHome.copyResume | apply StaysHome.pulse | apply StaysHome.releaseMacros | apply StaysHome.trapAt | apply StaysHome.setCluster | apply StaysHome.countTaken | apply StaysHome.serveSteal | apply StaysHome.send | apply StaysHome.takeId | apply StaysHome.accs | apply StaysHome.traceJump | apply StaysHome.issueBody | apply StaysHome.matrixBody)
    | (with_reducible first | apply SameRegs.writeRange | apply SameRegs.writeReg | apply SameRegs.awaitReg | apply SameRegs.setReg | apply SameRegs.setLdq)
    | exact SameRegs.popRecord hself ‹_›
    | exact (And.right ‹_ ∧ _›)
    | split
    | rfl
    | exact SameRegs.of_eq hself rfl rfl
    | (refine SameRegs.of_eq (SameRegs.awaitReg hself ?_) rfl rfl)
    | (refine SameRegs.of_eq (SameRegs.setReg (SameRegs.setReg hself ?_) ?_) rfl rfl)
    | (refine SameRegs.writeReg (SameRegs.of_eq hself rfl rfl) ?_)
    | (simp [destRegs]; done)
    | dsimp only

theorem home_cget {d_ a_ f_ : Nat} {a : Activation} {s0 s1 : State} (hc : s0.cur? = some a) (hg : a.flow.gang = none)
    (hx : exec (.cget d_ a_ f_) s0 = .next s1) : StaysHome (destRegs (.cget d_ a_ f_)) a s0 s1 := by
  have h : execCget d_ a_ f_ s0 = .next s1 := hx
  clear hx
  unfold execCget at h
  have hself : SameRegs (destRegs (.cget d_ a_ f_)) a s0.cur := by rw [State.cur, hc]; exact SameRegs.refl _ _
  have h0 : StaysHome (destRegs (.cget d_ a_ f_)) a s0 s0 := StaysHome.refl hc
  refine StaysHome.dispatch hc hg ?_ h
  clear h
  repeat' first
    | with_reducible exact h0
    | with_reducible exact hself
    | with_reducible exact hc
    | (with_reducible first | exact Att.holds_stall | exact Att.holds_trap | apply Att.holds_sendable | apply Att.holds_orderly | apply Att.holds_sendReady | apply Att.holds_xQuiet | apply Att.holds_need | apply Att.holds_check | apply Att.holds_capCheck | apply Att.holds_guardHints | apply Att.holds_guardPriv | apply Att.holds_guardCluster | apply Att.holds_aBody | apply Att.holds_regBody | apply Att.holds_orderStore | apply Att.holds_releaseWait | apply Att.holds_decides | apply Att.holds_replyCheck | apply Att.holds_guard | apply Att.holds_ok | apply Att.holds_stay | apply Att.holds_waits)
    | (with_reducible refine Att.holds_popSdq (fun _ _ _ => ?_))
    | (with_reducible refine Att.holds_parkedCheck (fun _ => ?_))
    | (with_reducible first | apply StaysHome.setCur | apply StaysHome.setCurCore | apply StaysHome.emitAcc | apply StaysHome.wcFlush | apply StaysHome.jumpTo | apply StaysHome.endAct | apply StaysHome.enqueueOut | apply StaysHome.setMatrix | apply StaysHome.setChain | apply StaysHome.setGrammar | apply StaysHome.setRun | apply StaysHome.resumeRun | apply StaysHome.performEng | apply StaysHome.endChain | apply StaysHome.copyResume | apply StaysHome.pulse | apply StaysHome.releaseMacros | apply StaysHome.trapAt | apply StaysHome.setCluster | apply StaysHome.countTaken | apply StaysHome.serveSteal | apply StaysHome.send | apply StaysHome.takeId | apply StaysHome.accs | apply StaysHome.traceJump | apply StaysHome.issueBody | apply StaysHome.matrixBody)
    | (with_reducible first | apply SameRegs.writeRange | apply SameRegs.writeReg | apply SameRegs.awaitReg | apply SameRegs.setReg | apply SameRegs.setLdq)
    | exact SameRegs.popRecord hself ‹_›
    | exact (And.right ‹_ ∧ _›)
    | split
    | rfl
    | exact SameRegs.of_eq hself rfl rfl
    | (refine SameRegs.of_eq (SameRegs.awaitReg hself ?_) rfl rfl)
    | (refine SameRegs.of_eq (SameRegs.setReg (SameRegs.setReg hself ?_) ?_) rfl rfl)
    | (refine SameRegs.writeReg (SameRegs.of_eq hself rfl rfl) ?_)
    | (simp [destRegs]; done)
    | dsimp only

theorem home_cclr {d_ a_ : Nat} {a : Activation} {s0 s1 : State} (hc : s0.cur? = some a) (hg : a.flow.gang = none)
    (hx : exec (.cclr d_ a_) s0 = .next s1) : StaysHome (destRegs (.cclr d_ a_)) a s0 s1 := by
  have h : execCclr d_ a_ s0 = .next s1 := hx
  clear hx
  unfold execCclr at h
  have hself : SameRegs (destRegs (.cclr d_ a_)) a s0.cur := by rw [State.cur, hc]; exact SameRegs.refl _ _
  have h0 : StaysHome (destRegs (.cclr d_ a_)) a s0 s0 := StaysHome.refl hc
  refine StaysHome.dispatch hc hg ?_ h
  clear h
  repeat' first
    | with_reducible exact h0
    | with_reducible exact hself
    | with_reducible exact hc
    | (with_reducible first | exact Att.holds_stall | exact Att.holds_trap | apply Att.holds_sendable | apply Att.holds_orderly | apply Att.holds_sendReady | apply Att.holds_xQuiet | apply Att.holds_need | apply Att.holds_check | apply Att.holds_capCheck | apply Att.holds_guardHints | apply Att.holds_guardPriv | apply Att.holds_guardCluster | apply Att.holds_aBody | apply Att.holds_regBody | apply Att.holds_orderStore | apply Att.holds_releaseWait | apply Att.holds_decides | apply Att.holds_replyCheck | apply Att.holds_guard | apply Att.holds_ok | apply Att.holds_stay | apply Att.holds_waits)
    | (with_reducible refine Att.holds_popSdq (fun _ _ _ => ?_))
    | (with_reducible refine Att.holds_parkedCheck (fun _ => ?_))
    | (with_reducible first | apply StaysHome.setCur | apply StaysHome.setCurCore | apply StaysHome.emitAcc | apply StaysHome.wcFlush | apply StaysHome.jumpTo | apply StaysHome.endAct | apply StaysHome.enqueueOut | apply StaysHome.setMatrix | apply StaysHome.setChain | apply StaysHome.setGrammar | apply StaysHome.setRun | apply StaysHome.resumeRun | apply StaysHome.performEng | apply StaysHome.endChain | apply StaysHome.copyResume | apply StaysHome.pulse | apply StaysHome.releaseMacros | apply StaysHome.trapAt | apply StaysHome.setCluster | apply StaysHome.countTaken | apply StaysHome.serveSteal | apply StaysHome.send | apply StaysHome.takeId | apply StaysHome.accs | apply StaysHome.traceJump | apply StaysHome.issueBody | apply StaysHome.matrixBody)
    | (with_reducible first | apply SameRegs.writeRange | apply SameRegs.writeReg | apply SameRegs.awaitReg | apply SameRegs.setReg | apply SameRegs.setLdq)
    | exact SameRegs.popRecord hself ‹_›
    | exact (And.right ‹_ ∧ _›)
    | split
    | rfl
    | exact SameRegs.of_eq hself rfl rfl
    | (refine SameRegs.of_eq (SameRegs.awaitReg hself ?_) rfl rfl)
    | (refine SameRegs.of_eq (SameRegs.setReg (SameRegs.setReg hself ?_) ?_) rfl rfl)
    | (refine SameRegs.writeReg (SameRegs.of_eq hself rfl rfl) ?_)
    | (simp [destRegs]; done)
    | dsimp only

theorem home_ld {q_ c_ o_ z_ sg_ r_ p_ : Nat} {a : Activation} {s0 s1 : State} (hc : s0.cur? = some a) (hg : a.flow.gang = none)
    (hx : exec (.ld q_ c_ o_ z_ sg_ r_ p_) s0 = .next s1) : StaysHome (destRegs (.ld q_ c_ o_ z_ sg_ r_ p_)) a s0 s1 := by
  have h : execLd q_ c_ o_ z_ sg_ r_ p_ s0 = .next s1 := hx
  clear hx
  unfold execLd at h
  have hself : SameRegs (destRegs (.ld q_ c_ o_ z_ sg_ r_ p_)) a s0.cur := by rw [State.cur, hc]; exact SameRegs.refl _ _
  have h0 : StaysHome (destRegs (.ld q_ c_ o_ z_ sg_ r_ p_)) a s0 s0 := StaysHome.refl hc
  refine StaysHome.dispatch hc hg ?_ h
  clear h
  unfold loadBody
  repeat' first
    | with_reducible exact h0
    | with_reducible exact hself
    | with_reducible exact hc
    | (with_reducible first | exact Att.holds_stall | exact Att.holds_trap | apply Att.holds_sendable | apply Att.holds_orderly | apply Att.holds_sendReady | apply Att.holds_xQuiet | apply Att.holds_need | apply Att.holds_check | apply Att.holds_capCheck | apply Att.holds_guardHints | apply Att.holds_guardPriv | apply Att.holds_guardCluster | apply Att.holds_aBody | apply Att.holds_regBody | apply Att.holds_orderStore | apply Att.holds_releaseWait | apply Att.holds_decides | apply Att.holds_replyCheck | apply Att.holds_guard | apply Att.holds_ok | apply Att.holds_stay | apply Att.holds_waits)
    | (with_reducible refine Att.holds_popSdq (fun _ _ _ => ?_))
    | (with_reducible refine Att.holds_parkedCheck (fun _ => ?_))
    | (with_reducible first | apply StaysHome.setCur | apply StaysHome.setCurCore | apply StaysHome.emitAcc | apply StaysHome.wcFlush | apply StaysHome.jumpTo | apply StaysHome.endAct | apply StaysHome.enqueueOut | apply StaysHome.setMatrix | apply StaysHome.setChain | apply StaysHome.setGrammar | apply StaysHome.setRun | apply StaysHome.resumeRun | apply StaysHome.performEng | apply StaysHome.endChain | apply StaysHome.copyResume | apply StaysHome.pulse | apply StaysHome.releaseMacros | apply StaysHome.trapAt | apply StaysHome.setCluster | apply StaysHome.countTaken | apply StaysHome.serveSteal | apply StaysHome.send | apply StaysHome.takeId | apply StaysHome.accs | apply StaysHome.traceJump | apply StaysHome.issueBody | apply StaysHome.matrixBody)
    | (with_reducible first | apply SameRegs.writeRange | apply SameRegs.writeReg | apply SameRegs.awaitReg | apply SameRegs.setReg | apply SameRegs.setLdq)
    | exact SameRegs.popRecord hself ‹_›
    | exact (And.right ‹_ ∧ _›)
    | split
    | rfl
    | exact SameRegs.of_eq hself rfl rfl
    | (refine SameRegs.of_eq (SameRegs.awaitReg hself ?_) rfl rfl)
    | (refine SameRegs.of_eq (SameRegs.setReg (SameRegs.setReg hself ?_) ?_) rfl rfl)
    | (refine SameRegs.writeReg (SameRegs.of_eq hself rfl rfl) ?_)
    | (simp [destRegs]; done)
    | dsimp only

theorem home_ldx {q_ c_ o_ z_ sg_ r_ p_ : Nat} {a : Activation} {s0 s1 : State} (hc : s0.cur? = some a) (hg : a.flow.gang = none)
    (hx : exec (.ldx q_ c_ o_ z_ sg_ r_ p_) s0 = .next s1) : StaysHome (destRegs (.ldx q_ c_ o_ z_ sg_ r_ p_)) a s0 s1 := by
  have h : execLdx q_ c_ o_ z_ sg_ r_ p_ s0 = .next s1 := hx
  clear hx
  unfold execLdx at h
  have hself : SameRegs (destRegs (.ldx q_ c_ o_ z_ sg_ r_ p_)) a s0.cur := by rw [State.cur, hc]; exact SameRegs.refl _ _
  have h0 : StaysHome (destRegs (.ldx q_ c_ o_ z_ sg_ r_ p_)) a s0 s0 := StaysHome.refl hc
  refine StaysHome.dispatch hc hg ?_ h
  clear h
  unfold loadBody
  repeat' first
    | with_reducible exact h0
    | with_reducible exact hself
    | with_reducible exact hc
    | (with_reducible first | exact Att.holds_stall | exact Att.holds_trap | apply Att.holds_sendable | apply Att.holds_orderly | apply Att.holds_sendReady | apply Att.holds_xQuiet | apply Att.holds_need | apply Att.holds_check | apply Att.holds_capCheck | apply Att.holds_guardHints | apply Att.holds_guardPriv | apply Att.holds_guardCluster | apply Att.holds_aBody | apply Att.holds_regBody | apply Att.holds_orderStore | apply Att.holds_releaseWait | apply Att.holds_decides | apply Att.holds_replyCheck | apply Att.holds_guard | apply Att.holds_ok | apply Att.holds_stay | apply Att.holds_waits)
    | (with_reducible refine Att.holds_popSdq (fun _ _ _ => ?_))
    | (with_reducible refine Att.holds_parkedCheck (fun _ => ?_))
    | (with_reducible first | apply StaysHome.setCur | apply StaysHome.setCurCore | apply StaysHome.emitAcc | apply StaysHome.wcFlush | apply StaysHome.jumpTo | apply StaysHome.endAct | apply StaysHome.enqueueOut | apply StaysHome.setMatrix | apply StaysHome.setChain | apply StaysHome.setGrammar | apply StaysHome.setRun | apply StaysHome.resumeRun | apply StaysHome.performEng | apply StaysHome.endChain | apply StaysHome.copyResume | apply StaysHome.pulse | apply StaysHome.releaseMacros | apply StaysHome.trapAt | apply StaysHome.setCluster | apply StaysHome.countTaken | apply StaysHome.serveSteal | apply StaysHome.send | apply StaysHome.takeId | apply StaysHome.accs | apply StaysHome.traceJump | apply StaysHome.issueBody | apply StaysHome.matrixBody)
    | (with_reducible first | apply SameRegs.writeRange | apply SameRegs.writeReg | apply SameRegs.awaitReg | apply SameRegs.setReg | apply SameRegs.setLdq)
    | exact SameRegs.popRecord hself ‹_›
    | exact (And.right ‹_ ∧ _›)
    | split
    | rfl
    | exact SameRegs.of_eq hself rfl rfl
    | (refine SameRegs.of_eq (SameRegs.awaitReg hself ?_) rfl rfl)
    | (refine SameRegs.of_eq (SameRegs.setReg (SameRegs.setReg hself ?_) ?_) rfl rfl)
    | (refine SameRegs.writeReg (SameRegs.of_eq hself rfl rfl) ?_)
    | (simp [destRegs]; done)
    | dsimp only

theorem home_lda {d_ c_ o_ z_ sg_ r_ p_ : Nat} {a : Activation} {s0 s1 : State} (hc : s0.cur? = some a) (hg : a.flow.gang = none)
    (hx : exec (.lda d_ c_ o_ z_ sg_ r_ p_) s0 = .next s1) : StaysHome (destRegs (.lda d_ c_ o_ z_ sg_ r_ p_)) a s0 s1 := by
  have h : execLda d_ c_ o_ z_ sg_ r_ p_ s0 = .next s1 := hx
  clear hx
  unfold execLda at h
  have hself : SameRegs (destRegs (.lda d_ c_ o_ z_ sg_ r_ p_)) a s0.cur := by rw [State.cur, hc]; exact SameRegs.refl _ _
  have h0 : StaysHome (destRegs (.lda d_ c_ o_ z_ sg_ r_ p_)) a s0 s0 := StaysHome.refl hc
  refine StaysHome.dispatch hc hg ?_ h
  clear h
  unfold loadRegBody
  repeat' first
    | with_reducible exact h0
    | with_reducible exact hself
    | with_reducible exact hc
    | (with_reducible first | exact Att.holds_stall | exact Att.holds_trap | apply Att.holds_sendable | apply Att.holds_orderly | apply Att.holds_sendReady | apply Att.holds_xQuiet | apply Att.holds_need | apply Att.holds_check | apply Att.holds_capCheck | apply Att.holds_guardHints | apply Att.holds_guardPriv | apply Att.holds_guardCluster | apply Att.holds_aBody | apply Att.holds_regBody | apply Att.holds_orderStore | apply Att.holds_releaseWait | apply Att.holds_decides | apply Att.holds_replyCheck | apply Att.holds_guard | apply Att.holds_ok | apply Att.holds_stay | apply Att.holds_waits)
    | (with_reducible refine Att.holds_popSdq (fun _ _ _ => ?_))
    | (with_reducible refine Att.holds_parkedCheck (fun _ => ?_))
    | (with_reducible first | apply StaysHome.setCur | apply StaysHome.setCurCore | apply StaysHome.emitAcc | apply StaysHome.wcFlush | apply StaysHome.jumpTo | apply StaysHome.endAct | apply StaysHome.enqueueOut | apply StaysHome.setMatrix | apply StaysHome.setChain | apply StaysHome.setGrammar | apply StaysHome.setRun | apply StaysHome.resumeRun | apply StaysHome.performEng | apply StaysHome.endChain | apply StaysHome.copyResume | apply StaysHome.pulse | apply StaysHome.releaseMacros | apply StaysHome.trapAt | apply StaysHome.setCluster | apply StaysHome.countTaken | apply StaysHome.serveSteal | apply StaysHome.send | apply StaysHome.takeId | apply StaysHome.accs | apply StaysHome.traceJump | apply StaysHome.issueBody | apply StaysHome.matrixBody)
    | (with_reducible first | apply SameRegs.writeRange | apply SameRegs.writeReg | apply SameRegs.awaitReg | apply SameRegs.setReg | apply SameRegs.setLdq)
    | exact SameRegs.popRecord hself ‹_›
    | exact (And.right ‹_ ∧ _›)
    | split
    | rfl
    | exact SameRegs.of_eq hself rfl rfl
    | (refine SameRegs.of_eq (SameRegs.awaitReg hself ?_) rfl rfl)
    | (refine SameRegs.of_eq (SameRegs.setReg (SameRegs.setReg hself ?_) ?_) rfl rfl)
    | (refine SameRegs.writeReg (SameRegs.of_eq hself rfl rfl) ?_)
    | (simp [destRegs]; done)
    | dsimp only

theorem home_ldc {d_ c_ o_ r_ p_ : Nat} {a : Activation} {s0 s1 : State} (hc : s0.cur? = some a) (hg : a.flow.gang = none)
    (hx : exec (.ldc d_ c_ o_ r_ p_) s0 = .next s1) : StaysHome (destRegs (.ldc d_ c_ o_ r_ p_)) a s0 s1 := by
  have h : execLdc d_ c_ o_ r_ p_ s0 = .next s1 := hx
  clear hx
  unfold execLdc at h
  have hself : SameRegs (destRegs (.ldc d_ c_ o_ r_ p_)) a s0.cur := by rw [State.cur, hc]; exact SameRegs.refl _ _
  have h0 : StaysHome (destRegs (.ldc d_ c_ o_ r_ p_)) a s0 s0 := StaysHome.refl hc
  refine StaysHome.dispatch hc hg ?_ h
  clear h
  unfold loadRegBody
  repeat' first
    | with_reducible exact h0
    | with_reducible exact hself
    | with_reducible exact hc
    | (with_reducible first | exact Att.holds_stall | exact Att.holds_trap | apply Att.holds_sendable | apply Att.holds_orderly | apply Att.holds_sendReady | apply Att.holds_xQuiet | apply Att.holds_need | apply Att.holds_check | apply Att.holds_capCheck | apply Att.holds_guardHints | apply Att.holds_guardPriv | apply Att.holds_guardCluster | apply Att.holds_aBody | apply Att.holds_regBody | apply Att.holds_orderStore | apply Att.holds_releaseWait | apply Att.holds_decides | apply Att.holds_replyCheck | apply Att.holds_guard | apply Att.holds_ok | apply Att.holds_stay | apply Att.holds_waits)
    | (with_reducible refine Att.holds_popSdq (fun _ _ _ => ?_))
    | (with_reducible refine Att.holds_parkedCheck (fun _ => ?_))
    | (with_reducible first | apply StaysHome.setCur | apply StaysHome.setCurCore | apply StaysHome.emitAcc | apply StaysHome.wcFlush | apply StaysHome.jumpTo | apply StaysHome.endAct | apply StaysHome.enqueueOut | apply StaysHome.setMatrix | apply StaysHome.setChain | apply StaysHome.setGrammar | apply StaysHome.setRun | apply StaysHome.resumeRun | apply StaysHome.performEng | apply StaysHome.endChain | apply StaysHome.copyResume | apply StaysHome.pulse | apply StaysHome.releaseMacros | apply StaysHome.trapAt | apply StaysHome.setCluster | apply StaysHome.countTaken | apply StaysHome.serveSteal | apply StaysHome.send | apply StaysHome.takeId | apply StaysHome.accs | apply StaysHome.traceJump | apply StaysHome.issueBody | apply StaysHome.matrixBody)
    | (with_reducible first | apply SameRegs.writeRange | apply SameRegs.writeReg | apply SameRegs.awaitReg | apply SameRegs.setReg | apply SameRegs.setLdq)
    | exact SameRegs.popRecord hself ‹_›
    | exact (And.right ‹_ ∧ _›)
    | split
    | rfl
    | exact SameRegs.of_eq hself rfl rfl
    | (refine SameRegs.of_eq (SameRegs.awaitReg hself ?_) rfl rfl)
    | (refine SameRegs.of_eq (SameRegs.setReg (SameRegs.setReg hself ?_) ?_) rfl rfl)
    | (refine SameRegs.writeReg (SameRegs.of_eq hself rfl rfl) ?_)
    | (simp [destRegs]; done)
    | dsimp only

theorem home_ldnib {q_ c_ o_ z_ sg_ : Nat} {a : Activation} {s0 s1 : State} (hc : s0.cur? = some a) (hg : a.flow.gang = none)
    (hx : exec (.ldnib q_ c_ o_ z_ sg_) s0 = .next s1) : StaysHome (destRegs (.ldnib q_ c_ o_ z_ sg_)) a s0 s1 := by
  have h : execLdnib q_ c_ o_ z_ sg_ s0 = .next s1 := hx
  clear hx
  unfold execLdnib at h
  have hself : SameRegs (destRegs (.ldnib q_ c_ o_ z_ sg_)) a s0.cur := by rw [State.cur, hc]; exact SameRegs.refl _ _
  have h0 : StaysHome (destRegs (.ldnib q_ c_ o_ z_ sg_)) a s0 s0 := StaysHome.refl hc
  refine StaysHome.dispatch hc hg ?_ h
  clear h
  repeat' first
    | with_reducible exact h0
    | with_reducible exact hself
    | with_reducible exact hc
    | (with_reducible first | exact Att.holds_stall | exact Att.holds_trap | apply Att.holds_sendable | apply Att.holds_orderly | apply Att.holds_sendReady | apply Att.holds_xQuiet | apply Att.holds_need | apply Att.holds_check | apply Att.holds_capCheck | apply Att.holds_guardHints | apply Att.holds_guardPriv | apply Att.holds_guardCluster | apply Att.holds_aBody | apply Att.holds_regBody | apply Att.holds_orderStore | apply Att.holds_releaseWait | apply Att.holds_decides | apply Att.holds_replyCheck | apply Att.holds_guard | apply Att.holds_ok | apply Att.holds_stay | apply Att.holds_waits)
    | (with_reducible refine Att.holds_popSdq (fun _ _ _ => ?_))
    | (with_reducible refine Att.holds_parkedCheck (fun _ => ?_))
    | (with_reducible first | apply StaysHome.setCur | apply StaysHome.setCurCore | apply StaysHome.emitAcc | apply StaysHome.wcFlush | apply StaysHome.jumpTo | apply StaysHome.endAct | apply StaysHome.enqueueOut | apply StaysHome.setMatrix | apply StaysHome.setChain | apply StaysHome.setGrammar | apply StaysHome.setRun | apply StaysHome.resumeRun | apply StaysHome.performEng | apply StaysHome.endChain | apply StaysHome.copyResume | apply StaysHome.pulse | apply StaysHome.releaseMacros | apply StaysHome.trapAt | apply StaysHome.setCluster | apply StaysHome.countTaken | apply StaysHome.serveSteal | apply StaysHome.send | apply StaysHome.takeId | apply StaysHome.accs | apply StaysHome.traceJump | apply StaysHome.issueBody | apply StaysHome.matrixBody)
    | (with_reducible first | apply SameRegs.writeRange | apply SameRegs.writeReg | apply SameRegs.awaitReg | apply SameRegs.setReg | apply SameRegs.setLdq)
    | exact SameRegs.popRecord hself ‹_›
    | exact (And.right ‹_ ∧ _›)
    | split
    | rfl
    | exact SameRegs.of_eq hself rfl rfl
    | (refine SameRegs.of_eq (SameRegs.awaitReg hself ?_) rfl rfl)
    | (refine SameRegs.of_eq (SameRegs.setReg (SameRegs.setReg hself ?_) ?_) rfl rfl)
    | (refine SameRegs.writeReg (SameRegs.of_eq hself rfl rfl) ?_)
    | (simp [destRegs]; done)
    | dsimp only

theorem home_st {c_ o_ z_ r_ p_ : Nat} {a : Activation} {s0 s1 : State} (hc : s0.cur? = some a) (hg : a.flow.gang = none)
    (hx : exec (.st c_ o_ z_ r_ p_) s0 = .next s1) : StaysHome (destRegs (.st c_ o_ z_ r_ p_)) a s0 s1 := by
  have h : execSt c_ o_ z_ r_ p_ s0 = .next s1 := hx
  clear hx
  unfold execSt at h
  have hself : SameRegs (destRegs (.st c_ o_ z_ r_ p_)) a s0.cur := by rw [State.cur, hc]; exact SameRegs.refl _ _
  have h0 : StaysHome (destRegs (.st c_ o_ z_ r_ p_)) a s0 s0 := StaysHome.refl hc
  refine StaysHome.dispatch hc hg ?_ h
  clear h
  unfold storeBody
  repeat' first
    | with_reducible exact h0
    | with_reducible exact hself
    | with_reducible exact hc
    | (with_reducible first | exact Att.holds_stall | exact Att.holds_trap | apply Att.holds_sendable | apply Att.holds_orderly | apply Att.holds_sendReady | apply Att.holds_xQuiet | apply Att.holds_need | apply Att.holds_check | apply Att.holds_capCheck | apply Att.holds_guardHints | apply Att.holds_guardPriv | apply Att.holds_guardCluster | apply Att.holds_aBody | apply Att.holds_regBody | apply Att.holds_orderStore | apply Att.holds_releaseWait | apply Att.holds_decides | apply Att.holds_replyCheck | apply Att.holds_guard | apply Att.holds_ok | apply Att.holds_stay | apply Att.holds_waits)
    | (with_reducible refine Att.holds_popSdq (fun _ _ _ => ?_))
    | (with_reducible refine Att.holds_parkedCheck (fun _ => ?_))
    | (with_reducible first | apply StaysHome.setCur | apply StaysHome.setCurCore | apply StaysHome.emitAcc | apply StaysHome.wcFlush | apply StaysHome.jumpTo | apply StaysHome.endAct | apply StaysHome.enqueueOut | apply StaysHome.setMatrix | apply StaysHome.setChain | apply StaysHome.setGrammar | apply StaysHome.setRun | apply StaysHome.resumeRun | apply StaysHome.performEng | apply StaysHome.endChain | apply StaysHome.copyResume | apply StaysHome.pulse | apply StaysHome.releaseMacros | apply StaysHome.trapAt | apply StaysHome.setCluster | apply StaysHome.countTaken | apply StaysHome.serveSteal | apply StaysHome.send | apply StaysHome.takeId | apply StaysHome.accs | apply StaysHome.traceJump | apply StaysHome.issueBody | apply StaysHome.matrixBody)
    | (with_reducible first | apply SameRegs.writeRange | apply SameRegs.writeReg | apply SameRegs.awaitReg | apply SameRegs.setReg | apply SameRegs.setLdq)
    | exact SameRegs.popRecord hself ‹_›
    | exact (And.right ‹_ ∧ _›)
    | split
    | rfl
    | exact SameRegs.of_eq hself rfl rfl
    | (refine SameRegs.of_eq (SameRegs.awaitReg hself ?_) rfl rfl)
    | (refine SameRegs.of_eq (SameRegs.setReg (SameRegs.setReg hself ?_) ?_) rfl rfl)
    | (refine SameRegs.writeReg (SameRegs.of_eq hself rfl rfl) ?_)
    | (simp [destRegs]; done)
    | dsimp only

theorem home_stm {m_ c_ o_ r_ p_ : Nat} {a : Activation} {s0 s1 : State} (hc : s0.cur? = some a) (hg : a.flow.gang = none)
    (hx : exec (.stm m_ c_ o_ r_ p_) s0 = .next s1) : StaysHome (destRegs (.stm m_ c_ o_ r_ p_)) a s0 s1 := by
  have h : execStm m_ c_ o_ r_ p_ s0 = .next s1 := hx
  clear hx
  unfold execStm at h
  have hself : SameRegs (destRegs (.stm m_ c_ o_ r_ p_)) a s0.cur := by rw [State.cur, hc]; exact SameRegs.refl _ _
  have h0 : StaysHome (destRegs (.stm m_ c_ o_ r_ p_)) a s0 s0 := StaysHome.refl hc
  refine StaysHome.dispatch hc hg ?_ h
  clear h
  repeat' first
    | with_reducible exact h0
    | with_reducible exact hself
    | with_reducible exact hc
    | (with_reducible first | exact Att.holds_stall | exact Att.holds_trap | apply Att.holds_sendable | apply Att.holds_orderly | apply Att.holds_sendReady | apply Att.holds_xQuiet | apply Att.holds_need | apply Att.holds_check | apply Att.holds_capCheck | apply Att.holds_guardHints | apply Att.holds_guardPriv | apply Att.holds_guardCluster | apply Att.holds_aBody | apply Att.holds_regBody | apply Att.holds_orderStore | apply Att.holds_releaseWait | apply Att.holds_decides | apply Att.holds_replyCheck | apply Att.holds_guard | apply Att.holds_ok | apply Att.holds_stay | apply Att.holds_waits)
    | (with_reducible refine Att.holds_popSdq (fun _ _ _ => ?_))
    | (with_reducible refine Att.holds_parkedCheck (fun _ => ?_))
    | (with_reducible first | apply StaysHome.setCur | apply StaysHome.setCurCore | apply StaysHome.emitAcc | apply StaysHome.wcFlush | apply StaysHome.jumpTo | apply StaysHome.endAct | apply StaysHome.enqueueOut | apply StaysHome.setMatrix | apply StaysHome.setChain | apply StaysHome.setGrammar | apply StaysHome.setRun | apply StaysHome.resumeRun | apply StaysHome.performEng | apply StaysHome.endChain | apply StaysHome.copyResume | apply StaysHome.pulse | apply StaysHome.releaseMacros | apply StaysHome.trapAt | apply StaysHome.setCluster | apply StaysHome.countTaken | apply StaysHome.serveSteal | apply StaysHome.send | apply StaysHome.takeId | apply StaysHome.accs | apply StaysHome.traceJump | apply StaysHome.issueBody | apply StaysHome.matrixBody)
    | (with_reducible first | apply SameRegs.writeRange | apply SameRegs.writeReg | apply SameRegs.awaitReg | apply SameRegs.setReg | apply SameRegs.setLdq)
    | exact SameRegs.popRecord hself ‹_›
    | exact (And.right ‹_ ∧ _›)
    | split
    | rfl
    | exact SameRegs.of_eq hself rfl rfl
    | (refine SameRegs.of_eq (SameRegs.awaitReg hself ?_) rfl rfl)
    | (refine SameRegs.of_eq (SameRegs.setReg (SameRegs.setReg hself ?_) ?_) rfl rfl)
    | (refine SameRegs.writeReg (SameRegs.of_eq hself rfl rfl) ?_)
    | (simp [destRegs]; done)
    | dsimp only

theorem home_stx {c_ o_ z_ r_ p_ : Nat} {a : Activation} {s0 s1 : State} (hc : s0.cur? = some a) (hg : a.flow.gang = none)
    (hx : exec (.stx c_ o_ z_ r_ p_) s0 = .next s1) : StaysHome (destRegs (.stx c_ o_ z_ r_ p_)) a s0 s1 := by
  have h : execStx c_ o_ z_ r_ p_ s0 = .next s1 := hx
  clear hx
  unfold execStx at h
  have hself : SameRegs (destRegs (.stx c_ o_ z_ r_ p_)) a s0.cur := by rw [State.cur, hc]; exact SameRegs.refl _ _
  have h0 : StaysHome (destRegs (.stx c_ o_ z_ r_ p_)) a s0 s0 := StaysHome.refl hc
  refine StaysHome.dispatch hc hg ?_ h
  clear h
  unfold storeBody
  repeat' first
    | with_reducible exact h0
    | with_reducible exact hself
    | with_reducible exact hc
    | (with_reducible first | exact Att.holds_stall | exact Att.holds_trap | apply Att.holds_sendable | apply Att.holds_orderly | apply Att.holds_sendReady | apply Att.holds_xQuiet | apply Att.holds_need | apply Att.holds_check | apply Att.holds_capCheck | apply Att.holds_guardHints | apply Att.holds_guardPriv | apply Att.holds_guardCluster | apply Att.holds_aBody | apply Att.holds_regBody | apply Att.holds_orderStore | apply Att.holds_releaseWait | apply Att.holds_decides | apply Att.holds_replyCheck | apply Att.holds_guard | apply Att.holds_ok | apply Att.holds_stay | apply Att.holds_waits)
    | (with_reducible refine Att.holds_popSdq (fun _ _ _ => ?_))
    | (with_reducible refine Att.holds_parkedCheck (fun _ => ?_))
    | (with_reducible first | apply StaysHome.setCur | apply StaysHome.setCurCore | apply StaysHome.emitAcc | apply StaysHome.wcFlush | apply StaysHome.jumpTo | apply StaysHome.endAct | apply StaysHome.enqueueOut | apply StaysHome.setMatrix | apply StaysHome.setChain | apply StaysHome.setGrammar | apply StaysHome.setRun | apply StaysHome.resumeRun | apply StaysHome.performEng | apply StaysHome.endChain | apply StaysHome.copyResume | apply StaysHome.pulse | apply StaysHome.releaseMacros | apply StaysHome.trapAt | apply StaysHome.setCluster | apply StaysHome.countTaken | apply StaysHome.serveSteal | apply StaysHome.send | apply StaysHome.takeId | apply StaysHome.accs | apply StaysHome.traceJump | apply StaysHome.issueBody | apply StaysHome.matrixBody)
    | (with_reducible first | apply SameRegs.writeRange | apply SameRegs.writeReg | apply SameRegs.awaitReg | apply SameRegs.setReg | apply SameRegs.setLdq)
    | exact SameRegs.popRecord hself ‹_›
    | exact (And.right ‹_ ∧ _›)
    | split
    | rfl
    | exact SameRegs.of_eq hself rfl rfl
    | (refine SameRegs.of_eq (SameRegs.awaitReg hself ?_) rfl rfl)
    | (refine SameRegs.of_eq (SameRegs.setReg (SameRegs.setReg hself ?_) ?_) rfl rfl)
    | (refine SameRegs.writeReg (SameRegs.of_eq hself rfl rfl) ?_)
    | (simp [destRegs]; done)
    | dsimp only

theorem home_sta {d_ c_ o_ z_ r_ p_ : Nat} {a : Activation} {s0 s1 : State} (hc : s0.cur? = some a) (hg : a.flow.gang = none)
    (hx : exec (.sta d_ c_ o_ z_ r_ p_) s0 = .next s1) : StaysHome (destRegs (.sta d_ c_ o_ z_ r_ p_)) a s0 s1 := by
  have h : execSta d_ c_ o_ z_ r_ p_ s0 = .next s1 := hx
  clear hx
  unfold execSta at h
  have hself : SameRegs (destRegs (.sta d_ c_ o_ z_ r_ p_)) a s0.cur := by rw [State.cur, hc]; exact SameRegs.refl _ _
  have h0 : StaysHome (destRegs (.sta d_ c_ o_ z_ r_ p_)) a s0 s0 := StaysHome.refl hc
  refine StaysHome.dispatch hc hg ?_ h
  clear h
  repeat' first
    | with_reducible exact h0
    | with_reducible exact hself
    | with_reducible exact hc
    | (with_reducible first | exact Att.holds_stall | exact Att.holds_trap | apply Att.holds_sendable | apply Att.holds_orderly | apply Att.holds_sendReady | apply Att.holds_xQuiet | apply Att.holds_need | apply Att.holds_check | apply Att.holds_capCheck | apply Att.holds_guardHints | apply Att.holds_guardPriv | apply Att.holds_guardCluster | apply Att.holds_aBody | apply Att.holds_regBody | apply Att.holds_orderStore | apply Att.holds_releaseWait | apply Att.holds_decides | apply Att.holds_replyCheck | apply Att.holds_guard | apply Att.holds_ok | apply Att.holds_stay | apply Att.holds_waits)
    | (with_reducible refine Att.holds_popSdq (fun _ _ _ => ?_))
    | (with_reducible refine Att.holds_parkedCheck (fun _ => ?_))
    | (with_reducible first | apply StaysHome.setCur | apply StaysHome.setCurCore | apply StaysHome.emitAcc | apply StaysHome.wcFlush | apply StaysHome.jumpTo | apply StaysHome.endAct | apply StaysHome.enqueueOut | apply StaysHome.setMatrix | apply StaysHome.setChain | apply StaysHome.setGrammar | apply StaysHome.setRun | apply StaysHome.resumeRun | apply StaysHome.performEng | apply StaysHome.endChain | apply StaysHome.copyResume | apply StaysHome.pulse | apply StaysHome.releaseMacros | apply StaysHome.trapAt | apply StaysHome.setCluster | apply StaysHome.countTaken | apply StaysHome.serveSteal | apply StaysHome.send | apply StaysHome.takeId | apply StaysHome.accs | apply StaysHome.traceJump | apply StaysHome.issueBody | apply StaysHome.matrixBody)
    | (with_reducible first | apply SameRegs.writeRange | apply SameRegs.writeReg | apply SameRegs.awaitReg | apply SameRegs.setReg | apply SameRegs.setLdq)
    | exact SameRegs.popRecord hself ‹_›
    | exact (And.right ‹_ ∧ _›)
    | split
    | rfl
    | exact SameRegs.of_eq hself rfl rfl
    | (refine SameRegs.of_eq (SameRegs.awaitReg hself ?_) rfl rfl)
    | (refine SameRegs.of_eq (SameRegs.setReg (SameRegs.setReg hself ?_) ?_) rfl rfl)
    | (refine SameRegs.writeReg (SameRegs.of_eq hself rfl rfl) ?_)
    | (simp [destRegs]; done)
    | dsimp only

theorem home_stc {d_ c_ o_ r_ p_ : Nat} {a : Activation} {s0 s1 : State} (hc : s0.cur? = some a) (hg : a.flow.gang = none)
    (hx : exec (.stc d_ c_ o_ r_ p_) s0 = .next s1) : StaysHome (destRegs (.stc d_ c_ o_ r_ p_)) a s0 s1 := by
  have h : execStc d_ c_ o_ r_ p_ s0 = .next s1 := hx
  clear hx
  unfold execStc at h
  have hself : SameRegs (destRegs (.stc d_ c_ o_ r_ p_)) a s0.cur := by rw [State.cur, hc]; exact SameRegs.refl _ _
  have h0 : StaysHome (destRegs (.stc d_ c_ o_ r_ p_)) a s0 s0 := StaysHome.refl hc
  refine StaysHome.dispatch hc hg ?_ h
  clear h
  repeat' first
    | with_reducible exact h0
    | with_reducible exact hself
    | with_reducible exact hc
    | (with_reducible first | exact Att.holds_stall | exact Att.holds_trap | apply Att.holds_sendable | apply Att.holds_orderly | apply Att.holds_sendReady | apply Att.holds_xQuiet | apply Att.holds_need | apply Att.holds_check | apply Att.holds_capCheck | apply Att.holds_guardHints | apply Att.holds_guardPriv | apply Att.holds_guardCluster | apply Att.holds_aBody | apply Att.holds_regBody | apply Att.holds_orderStore | apply Att.holds_releaseWait | apply Att.holds_decides | apply Att.holds_replyCheck | apply Att.holds_guard | apply Att.holds_ok | apply Att.holds_stay | apply Att.holds_waits)
    | (with_reducible refine Att.holds_popSdq (fun _ _ _ => ?_))
    | (with_reducible refine Att.holds_parkedCheck (fun _ => ?_))
    | (with_reducible first | apply StaysHome.setCur | apply StaysHome.setCurCore | apply StaysHome.emitAcc | apply StaysHome.wcFlush | apply StaysHome.jumpTo | apply StaysHome.endAct | apply StaysHome.enqueueOut | apply StaysHome.setMatrix | apply StaysHome.setChain | apply StaysHome.setGrammar | apply StaysHome.setRun | apply StaysHome.resumeRun | apply StaysHome.performEng | apply StaysHome.endChain | apply StaysHome.copyResume | apply StaysHome.pulse | apply StaysHome.releaseMacros | apply StaysHome.trapAt | apply StaysHome.setCluster | apply StaysHome.countTaken | apply StaysHome.serveSteal | apply StaysHome.send | apply StaysHome.takeId | apply StaysHome.accs | apply StaysHome.traceJump | apply StaysHome.issueBody | apply StaysHome.matrixBody)
    | (with_reducible first | apply SameRegs.writeRange | apply SameRegs.writeReg | apply SameRegs.awaitReg | apply SameRegs.setReg | apply SameRegs.setLdq)
    | exact SameRegs.popRecord hself ‹_›
    | exact (And.right ‹_ ∧ _›)
    | split
    | rfl
    | exact SameRegs.of_eq hself rfl rfl
    | (refine SameRegs.of_eq (SameRegs.awaitReg hself ?_) rfl rfl)
    | (refine SameRegs.of_eq (SameRegs.setReg (SameRegs.setReg hself ?_) ?_) rfl rfl)
    | (refine SameRegs.writeReg (SameRegs.of_eq hself rfl rfl) ?_)
    | (simp [destRegs]; done)
    | dsimp only

theorem home_stnib {c_ o_ z_ : Nat} {a : Activation} {s0 s1 : State} (hc : s0.cur? = some a) (hg : a.flow.gang = none)
    (hx : exec (.stnib c_ o_ z_) s0 = .next s1) : StaysHome (destRegs (.stnib c_ o_ z_)) a s0 s1 := by
  have h : execStnib c_ o_ z_ s0 = .next s1 := hx
  clear hx
  unfold execStnib at h
  have hself : SameRegs (destRegs (.stnib c_ o_ z_)) a s0.cur := by rw [State.cur, hc]; exact SameRegs.refl _ _
  have h0 : StaysHome (destRegs (.stnib c_ o_ z_)) a s0 s0 := StaysHome.refl hc
  refine StaysHome.dispatch hc hg ?_ h
  clear h
  repeat' first
    | with_reducible exact h0
    | with_reducible exact hself
    | with_reducible exact hc
    | (with_reducible first | exact Att.holds_stall | exact Att.holds_trap | apply Att.holds_sendable | apply Att.holds_orderly | apply Att.holds_sendReady | apply Att.holds_xQuiet | apply Att.holds_need | apply Att.holds_check | apply Att.holds_capCheck | apply Att.holds_guardHints | apply Att.holds_guardPriv | apply Att.holds_guardCluster | apply Att.holds_aBody | apply Att.holds_regBody | apply Att.holds_orderStore | apply Att.holds_releaseWait | apply Att.holds_decides | apply Att.holds_replyCheck | apply Att.holds_guard | apply Att.holds_ok | apply Att.holds_stay | apply Att.holds_waits)
    | (with_reducible refine Att.holds_popSdq (fun _ _ _ => ?_))
    | (with_reducible refine Att.holds_parkedCheck (fun _ => ?_))
    | (with_reducible first | apply StaysHome.setCur | apply StaysHome.setCurCore | apply StaysHome.emitAcc | apply StaysHome.wcFlush | apply StaysHome.jumpTo | apply StaysHome.endAct | apply StaysHome.enqueueOut | apply StaysHome.setMatrix | apply StaysHome.setChain | apply StaysHome.setGrammar | apply StaysHome.setRun | apply StaysHome.resumeRun | apply StaysHome.performEng | apply StaysHome.endChain | apply StaysHome.copyResume | apply StaysHome.pulse | apply StaysHome.releaseMacros | apply StaysHome.trapAt | apply StaysHome.setCluster | apply StaysHome.countTaken | apply StaysHome.serveSteal | apply StaysHome.send | apply StaysHome.takeId | apply StaysHome.accs | apply StaysHome.traceJump | apply StaysHome.issueBody | apply StaysHome.matrixBody)
    | (with_reducible first | apply SameRegs.writeRange | apply SameRegs.writeReg | apply SameRegs.awaitReg | apply SameRegs.setReg | apply SameRegs.setLdq)
    | exact SameRegs.popRecord hself ‹_›
    | exact (And.right ‹_ ∧ _›)
    | split
    | rfl
    | exact SameRegs.of_eq hself rfl rfl
    | (refine SameRegs.of_eq (SameRegs.awaitReg hself ?_) rfl rfl)
    | (refine SameRegs.of_eq (SameRegs.setReg (SameRegs.setReg hself ?_) ?_) rfl rfl)
    | (refine SameRegs.writeReg (SameRegs.of_eq hself rfl rfl) ?_)
    | (simp [destRegs]; done)
    | dsimp only

theorem home_amo {d_ a_ b_ f_ z_ o_ p_ : Nat} {a : Activation} {s0 s1 : State} (hc : s0.cur? = some a) (hg : a.flow.gang = none)
    (hx : exec (.amo d_ a_ b_ f_ z_ o_ p_) s0 = .next s1) : StaysHome (destRegs (.amo d_ a_ b_ f_ z_ o_ p_)) a s0 s1 := by
  have h : execAmo d_ a_ b_ f_ z_ o_ p_ s0 = .next s1 := hx
  clear hx
  unfold execAmo at h
  have hself : SameRegs (destRegs (.amo d_ a_ b_ f_ z_ o_ p_)) a s0.cur := by rw [State.cur, hc]; exact SameRegs.refl _ _
  have h0 : StaysHome (destRegs (.amo d_ a_ b_ f_ z_ o_ p_)) a s0 s0 := StaysHome.refl hc
  refine StaysHome.dispatch hc hg ?_ h
  clear h
  unfold atomicBody
  repeat' first
    | with_reducible exact h0
    | with_reducible exact hself
    | with_reducible exact hc
    | (with_reducible first | exact Att.holds_stall | exact Att.holds_trap | apply Att.holds_sendable | apply Att.holds_orderly | apply Att.holds_sendReady | apply Att.holds_xQuiet | apply Att.holds_need | apply Att.holds_check | apply Att.holds_capCheck | apply Att.holds_guardHints | apply Att.holds_guardPriv | apply Att.holds_guardCluster | apply Att.holds_aBody | apply Att.holds_regBody | apply Att.holds_orderStore | apply Att.holds_releaseWait | apply Att.holds_decides | apply Att.holds_replyCheck | apply Att.holds_guard | apply Att.holds_ok | apply Att.holds_stay | apply Att.holds_waits)
    | (with_reducible refine Att.holds_popSdq (fun _ _ _ => ?_))
    | (with_reducible refine Att.holds_parkedCheck (fun _ => ?_))
    | (with_reducible first | apply StaysHome.setCur | apply StaysHome.setCurCore | apply StaysHome.emitAcc | apply StaysHome.wcFlush | apply StaysHome.jumpTo | apply StaysHome.endAct | apply StaysHome.enqueueOut | apply StaysHome.setMatrix | apply StaysHome.setChain | apply StaysHome.setGrammar | apply StaysHome.setRun | apply StaysHome.resumeRun | apply StaysHome.performEng | apply StaysHome.endChain | apply StaysHome.copyResume | apply StaysHome.pulse | apply StaysHome.releaseMacros | apply StaysHome.trapAt | apply StaysHome.setCluster | apply StaysHome.countTaken | apply StaysHome.serveSteal | apply StaysHome.send | apply StaysHome.takeId | apply StaysHome.accs | apply StaysHome.traceJump | apply StaysHome.issueBody | apply StaysHome.matrixBody)
    | (with_reducible first | apply SameRegs.writeRange | apply SameRegs.writeReg | apply SameRegs.awaitReg | apply SameRegs.setReg | apply SameRegs.setLdq)
    | exact SameRegs.popRecord hself ‹_›
    | exact (And.right ‹_ ∧ _›)
    | split
    | rfl
    | exact SameRegs.of_eq hself rfl rfl
    | (refine SameRegs.of_eq (SameRegs.awaitReg hself ?_) rfl rfl)
    | (refine SameRegs.of_eq (SameRegs.setReg (SameRegs.setReg hself ?_) ?_) rfl rfl)
    | (refine SameRegs.writeReg (SameRegs.of_eq hself rfl rfl) ?_)
    | (simp [destRegs]; done)
    | dsimp only

theorem home_amocas {d_ a_ b_ z_ o_ p_ : Nat} {a : Activation} {s0 s1 : State} (hc : s0.cur? = some a) (hg : a.flow.gang = none)
    (hx : exec (.amocas d_ a_ b_ z_ o_ p_) s0 = .next s1) : StaysHome (destRegs (.amocas d_ a_ b_ z_ o_ p_)) a s0 s1 := by
  have h : execAmocas d_ a_ b_ z_ o_ p_ s0 = .next s1 := hx
  clear hx
  unfold execAmocas at h
  have hself : SameRegs (destRegs (.amocas d_ a_ b_ z_ o_ p_)) a s0.cur := by rw [State.cur, hc]; exact SameRegs.refl _ _
  have h0 : StaysHome (destRegs (.amocas d_ a_ b_ z_ o_ p_)) a s0 s0 := StaysHome.refl hc
  refine StaysHome.dispatch hc hg ?_ h
  clear h
  unfold atomicBody
  repeat' first
    | with_reducible exact h0
    | with_reducible exact hself
    | with_reducible exact hc
    | (with_reducible first | exact Att.holds_stall | exact Att.holds_trap | apply Att.holds_sendable | apply Att.holds_orderly | apply Att.holds_sendReady | apply Att.holds_xQuiet | apply Att.holds_need | apply Att.holds_check | apply Att.holds_capCheck | apply Att.holds_guardHints | apply Att.holds_guardPriv | apply Att.holds_guardCluster | apply Att.holds_aBody | apply Att.holds_regBody | apply Att.holds_orderStore | apply Att.holds_releaseWait | apply Att.holds_decides | apply Att.holds_replyCheck | apply Att.holds_guard | apply Att.holds_ok | apply Att.holds_stay | apply Att.holds_waits)
    | (with_reducible refine Att.holds_popSdq (fun _ _ _ => ?_))
    | (with_reducible refine Att.holds_parkedCheck (fun _ => ?_))
    | (with_reducible first | apply StaysHome.setCur | apply StaysHome.setCurCore | apply StaysHome.emitAcc | apply StaysHome.wcFlush | apply StaysHome.jumpTo | apply StaysHome.endAct | apply StaysHome.enqueueOut | apply StaysHome.setMatrix | apply StaysHome.setChain | apply StaysHome.setGrammar | apply StaysHome.setRun | apply StaysHome.resumeRun | apply StaysHome.performEng | apply StaysHome.endChain | apply StaysHome.copyResume | apply StaysHome.pulse | apply StaysHome.releaseMacros | apply StaysHome.trapAt | apply StaysHome.setCluster | apply StaysHome.countTaken | apply StaysHome.serveSteal | apply StaysHome.send | apply StaysHome.takeId | apply StaysHome.accs | apply StaysHome.traceJump | apply StaysHome.issueBody | apply StaysHome.matrixBody)
    | (with_reducible first | apply SameRegs.writeRange | apply SameRegs.writeReg | apply SameRegs.awaitReg | apply SameRegs.setReg | apply SameRegs.setLdq)
    | exact SameRegs.popRecord hself ‹_›
    | exact (And.right ‹_ ∧ _›)
    | split
    | rfl
    | exact SameRegs.of_eq hself rfl rfl
    | (refine SameRegs.of_eq (SameRegs.awaitReg hself ?_) rfl rfl)
    | (refine SameRegs.of_eq (SameRegs.setReg (SameRegs.setReg hself ?_) ?_) rfl rfl)
    | (refine SameRegs.writeReg (SameRegs.of_eq hself rfl rfl) ?_)
    | (simp [destRegs]; done)
    | dsimp only

theorem home_fenceAcq {p_ : Nat} {a : Activation} {s0 s1 : State} (hc : s0.cur? = some a) (hg : a.flow.gang = none)
    (hx : exec (.fenceAcq p_) s0 = .next s1) : StaysHome (destRegs (.fenceAcq p_)) a s0 s1 := by
  have h : execFenceAcq p_ s0 = .next s1 := hx
  clear hx
  unfold execFenceAcq at h
  have hself : SameRegs (destRegs (.fenceAcq p_)) a s0.cur := by rw [State.cur, hc]; exact SameRegs.refl _ _
  have h0 : StaysHome (destRegs (.fenceAcq p_)) a s0 s0 := StaysHome.refl hc
  refine StaysHome.dispatch hc hg ?_ h
  clear h
  repeat' first
    | with_reducible exact h0
    | with_reducible exact hself
    | with_reducible exact hc
    | (with_reducible first | exact Att.holds_stall | exact Att.holds_trap | apply Att.holds_sendable | apply Att.holds_orderly | apply Att.holds_sendReady | apply Att.holds_xQuiet | apply Att.holds_need | apply Att.holds_check | apply Att.holds_capCheck | apply Att.holds_guardHints | apply Att.holds_guardPriv | apply Att.holds_guardCluster | apply Att.holds_aBody | apply Att.holds_regBody | apply Att.holds_orderStore | apply Att.holds_releaseWait | apply Att.holds_decides | apply Att.holds_replyCheck | apply Att.holds_guard | apply Att.holds_ok | apply Att.holds_stay | apply Att.holds_waits)
    | (with_reducible refine Att.holds_popSdq (fun _ _ _ => ?_))
    | (with_reducible refine Att.holds_parkedCheck (fun _ => ?_))
    | (with_reducible first | apply StaysHome.setCur | apply StaysHome.setCurCore | apply StaysHome.emitAcc | apply StaysHome.wcFlush | apply StaysHome.jumpTo | apply StaysHome.endAct | apply StaysHome.enqueueOut | apply StaysHome.setMatrix | apply StaysHome.setChain | apply StaysHome.setGrammar | apply StaysHome.setRun | apply StaysHome.resumeRun | apply StaysHome.performEng | apply StaysHome.endChain | apply StaysHome.copyResume | apply StaysHome.pulse | apply StaysHome.releaseMacros | apply StaysHome.trapAt | apply StaysHome.setCluster | apply StaysHome.countTaken | apply StaysHome.serveSteal | apply StaysHome.send | apply StaysHome.takeId | apply StaysHome.accs | apply StaysHome.traceJump | apply StaysHome.issueBody | apply StaysHome.matrixBody)
    | (with_reducible first | apply SameRegs.writeRange | apply SameRegs.writeReg | apply SameRegs.awaitReg | apply SameRegs.setReg | apply SameRegs.setLdq)
    | exact SameRegs.popRecord hself ‹_›
    | exact (And.right ‹_ ∧ _›)
    | split
    | rfl
    | exact SameRegs.of_eq hself rfl rfl
    | (refine SameRegs.of_eq (SameRegs.awaitReg hself ?_) rfl rfl)
    | (refine SameRegs.of_eq (SameRegs.setReg (SameRegs.setReg hself ?_) ?_) rfl rfl)
    | (refine SameRegs.writeReg (SameRegs.of_eq hself rfl rfl) ?_)
    | (simp [destRegs]; done)
    | dsimp only

theorem home_fenceRel {p_ : Nat} {a : Activation} {s0 s1 : State} (hc : s0.cur? = some a) (hg : a.flow.gang = none)
    (hx : exec (.fenceRel p_) s0 = .next s1) : StaysHome (destRegs (.fenceRel p_)) a s0 s1 := by
  have h : execFenceRel p_ s0 = .next s1 := hx
  clear hx
  unfold execFenceRel at h
  have hself : SameRegs (destRegs (.fenceRel p_)) a s0.cur := by rw [State.cur, hc]; exact SameRegs.refl _ _
  have h0 : StaysHome (destRegs (.fenceRel p_)) a s0 s0 := StaysHome.refl hc
  refine StaysHome.dispatch hc hg ?_ h
  clear h
  repeat' first
    | with_reducible exact h0
    | with_reducible exact hself
    | with_reducible exact hc
    | (with_reducible first | exact Att.holds_stall | exact Att.holds_trap | apply Att.holds_sendable | apply Att.holds_orderly | apply Att.holds_sendReady | apply Att.holds_xQuiet | apply Att.holds_need | apply Att.holds_check | apply Att.holds_capCheck | apply Att.holds_guardHints | apply Att.holds_guardPriv | apply Att.holds_guardCluster | apply Att.holds_aBody | apply Att.holds_regBody | apply Att.holds_orderStore | apply Att.holds_releaseWait | apply Att.holds_decides | apply Att.holds_replyCheck | apply Att.holds_guard | apply Att.holds_ok | apply Att.holds_stay | apply Att.holds_waits)
    | (with_reducible refine Att.holds_popSdq (fun _ _ _ => ?_))
    | (with_reducible refine Att.holds_parkedCheck (fun _ => ?_))
    | (with_reducible first | apply StaysHome.setCur | apply StaysHome.setCurCore | apply StaysHome.emitAcc | apply StaysHome.wcFlush | apply StaysHome.jumpTo | apply StaysHome.endAct | apply StaysHome.enqueueOut | apply StaysHome.setMatrix | apply StaysHome.setChain | apply StaysHome.setGrammar | apply StaysHome.setRun | apply StaysHome.resumeRun | apply StaysHome.performEng | apply StaysHome.endChain | apply StaysHome.copyResume | apply StaysHome.pulse | apply StaysHome.releaseMacros | apply StaysHome.trapAt | apply StaysHome.setCluster | apply StaysHome.countTaken | apply StaysHome.serveSteal | apply StaysHome.send | apply StaysHome.takeId | apply StaysHome.accs | apply StaysHome.traceJump | apply StaysHome.issueBody | apply StaysHome.matrixBody)
    | (with_reducible first | apply SameRegs.writeRange | apply SameRegs.writeReg | apply SameRegs.awaitReg | apply SameRegs.setReg | apply SameRegs.setLdq)
    | exact SameRegs.popRecord hself ‹_›
    | exact (And.right ‹_ ∧ _›)
    | split
    | rfl
    | exact SameRegs.of_eq hself rfl rfl
    | (refine SameRegs.of_eq (SameRegs.awaitReg hself ?_) rfl rfl)
    | (refine SameRegs.of_eq (SameRegs.setReg (SameRegs.setReg hself ?_) ?_) rfl rfl)
    | (refine SameRegs.writeReg (SameRegs.of_eq hself rfl rfl) ?_)
    | (simp [destRegs]; done)
    | dsimp only

theorem home_fenceAr {p_ : Nat} {a : Activation} {s0 s1 : State} (hc : s0.cur? = some a) (hg : a.flow.gang = none)
    (hx : exec (.fenceAr p_) s0 = .next s1) : StaysHome (destRegs (.fenceAr p_)) a s0 s1 := by
  have h : execFenceAr p_ s0 = .next s1 := hx
  clear hx
  unfold execFenceAr at h
  have hself : SameRegs (destRegs (.fenceAr p_)) a s0.cur := by rw [State.cur, hc]; exact SameRegs.refl _ _
  have h0 : StaysHome (destRegs (.fenceAr p_)) a s0 s0 := StaysHome.refl hc
  refine StaysHome.dispatch hc hg ?_ h
  clear h
  repeat' first
    | with_reducible exact h0
    | with_reducible exact hself
    | with_reducible exact hc
    | (with_reducible first | exact Att.holds_stall | exact Att.holds_trap | apply Att.holds_sendable | apply Att.holds_orderly | apply Att.holds_sendReady | apply Att.holds_xQuiet | apply Att.holds_need | apply Att.holds_check | apply Att.holds_capCheck | apply Att.holds_guardHints | apply Att.holds_guardPriv | apply Att.holds_guardCluster | apply Att.holds_aBody | apply Att.holds_regBody | apply Att.holds_orderStore | apply Att.holds_releaseWait | apply Att.holds_decides | apply Att.holds_replyCheck | apply Att.holds_guard | apply Att.holds_ok | apply Att.holds_stay | apply Att.holds_waits)
    | (with_reducible refine Att.holds_popSdq (fun _ _ _ => ?_))
    | (with_reducible refine Att.holds_parkedCheck (fun _ => ?_))
    | (with_reducible first | apply StaysHome.setCur | apply StaysHome.setCurCore | apply StaysHome.emitAcc | apply StaysHome.wcFlush | apply StaysHome.jumpTo | apply StaysHome.endAct | apply StaysHome.enqueueOut | apply StaysHome.setMatrix | apply StaysHome.setChain | apply StaysHome.setGrammar | apply StaysHome.setRun | apply StaysHome.resumeRun | apply StaysHome.performEng | apply StaysHome.endChain | apply StaysHome.copyResume | apply StaysHome.pulse | apply StaysHome.releaseMacros | apply StaysHome.trapAt | apply StaysHome.setCluster | apply StaysHome.countTaken | apply StaysHome.serveSteal | apply StaysHome.send | apply StaysHome.takeId | apply StaysHome.accs | apply StaysHome.traceJump | apply StaysHome.issueBody | apply StaysHome.matrixBody)
    | (with_reducible first | apply SameRegs.writeRange | apply SameRegs.writeReg | apply SameRegs.awaitReg | apply SameRegs.setReg | apply SameRegs.setLdq)
    | exact SameRegs.popRecord hself ‹_›
    | exact (And.right ‹_ ∧ _›)
    | split
    | rfl
    | exact SameRegs.of_eq hself rfl rfl
    | (refine SameRegs.of_eq (SameRegs.awaitReg hself ?_) rfl rfl)
    | (refine SameRegs.of_eq (SameRegs.setReg (SameRegs.setReg hself ?_) ?_) rfl rfl)
    | (refine SameRegs.writeReg (SameRegs.of_eq hself rfl rfl) ?_)
    | (simp [destRegs]; done)
    | dsimp only

theorem home_bmov {d_ a_ b_ : Nat} {a : Activation} {s0 s1 : State} (hc : s0.cur? = some a) (hg : a.flow.gang = none)
    (hx : exec (.bmov d_ a_ b_) s0 = .next s1) : StaysHome (destRegs (.bmov d_ a_ b_)) a s0 s1 := by
  have h : execBmov d_ a_ b_ s0 = .next s1 := hx
  clear hx
  unfold execBmov at h
  have hself : SameRegs (destRegs (.bmov d_ a_ b_)) a s0.cur := by rw [State.cur, hc]; exact SameRegs.refl _ _
  have h0 : StaysHome (destRegs (.bmov d_ a_ b_)) a s0 s0 := StaysHome.refl hc
  refine StaysHome.dispatch hc hg ?_ h
  clear h
  repeat' first
    | with_reducible exact h0
    | with_reducible exact hself
    | with_reducible exact hc
    | (with_reducible first | exact Att.holds_stall | exact Att.holds_trap | apply Att.holds_sendable | apply Att.holds_orderly | apply Att.holds_sendReady | apply Att.holds_xQuiet | apply Att.holds_need | apply Att.holds_check | apply Att.holds_capCheck | apply Att.holds_guardHints | apply Att.holds_guardPriv | apply Att.holds_guardCluster | apply Att.holds_aBody | apply Att.holds_regBody | apply Att.holds_orderStore | apply Att.holds_releaseWait | apply Att.holds_decides | apply Att.holds_replyCheck | apply Att.holds_guard | apply Att.holds_ok | apply Att.holds_stay | apply Att.holds_waits)
    | (with_reducible refine Att.holds_popSdq (fun _ _ _ => ?_))
    | (with_reducible refine Att.holds_parkedCheck (fun _ => ?_))
    | (with_reducible first | apply StaysHome.setCur | apply StaysHome.setCurCore | apply StaysHome.emitAcc | apply StaysHome.wcFlush | apply StaysHome.jumpTo | apply StaysHome.endAct | apply StaysHome.enqueueOut | apply StaysHome.setMatrix | apply StaysHome.setChain | apply StaysHome.setGrammar | apply StaysHome.setRun | apply StaysHome.resumeRun | apply StaysHome.performEng | apply StaysHome.endChain | apply StaysHome.copyResume | apply StaysHome.pulse | apply StaysHome.releaseMacros | apply StaysHome.trapAt | apply StaysHome.setCluster | apply StaysHome.countTaken | apply StaysHome.serveSteal | apply StaysHome.send | apply StaysHome.takeId | apply StaysHome.accs | apply StaysHome.traceJump | apply StaysHome.issueBody | apply StaysHome.matrixBody)
    | (with_reducible first | apply SameRegs.writeRange | apply SameRegs.writeReg | apply SameRegs.awaitReg | apply SameRegs.setReg | apply SameRegs.setLdq)
    | exact SameRegs.popRecord hself ‹_›
    | exact (And.right ‹_ ∧ _›)
    | split
    | rfl
    | exact SameRegs.of_eq hself rfl rfl
    | (refine SameRegs.of_eq (SameRegs.awaitReg hself ?_) rfl rfl)
    | (refine SameRegs.of_eq (SameRegs.setReg (SameRegs.setReg hself ?_) ?_) rfl rfl)
    | (refine SameRegs.writeReg (SameRegs.of_eq hself rfl rfl) ?_)
    | (simp [destRegs]; done)
    | dsimp only

theorem home_rep {q_ a_ b_ z_ sg_ t_ : Nat} {a : Activation} {s0 s1 : State} (hc : s0.cur? = some a) (hg : a.flow.gang = none)
    (hx : exec (.rep q_ a_ b_ z_ sg_ t_) s0 = .next s1) : StaysHome (destRegs (.rep q_ a_ b_ z_ sg_ t_)) a s0 s1 := by
  have h : execRep q_ a_ b_ z_ sg_ t_ s0 = .next s1 := hx
  clear hx
  unfold execRep at h
  have hself : SameRegs (destRegs (.rep q_ a_ b_ z_ sg_ t_)) a s0.cur := by rw [State.cur, hc]; exact SameRegs.refl _ _
  have h0 : StaysHome (destRegs (.rep q_ a_ b_ z_ sg_ t_)) a s0 s0 := StaysHome.refl hc
  refine StaysHome.dispatch hc hg ?_ h
  clear h
  repeat' first
    | with_reducible exact h0
    | with_reducible exact hself
    | with_reducible exact hc
    | (with_reducible first | exact Att.holds_stall | exact Att.holds_trap | apply Att.holds_sendable | apply Att.holds_orderly | apply Att.holds_sendReady | apply Att.holds_xQuiet | apply Att.holds_need | apply Att.holds_check | apply Att.holds_capCheck | apply Att.holds_guardHints | apply Att.holds_guardPriv | apply Att.holds_guardCluster | apply Att.holds_aBody | apply Att.holds_regBody | apply Att.holds_orderStore | apply Att.holds_releaseWait | apply Att.holds_decides | apply Att.holds_replyCheck | apply Att.holds_guard | apply Att.holds_ok | apply Att.holds_stay | apply Att.holds_waits)
    | (with_reducible refine Att.holds_popSdq (fun _ _ _ => ?_))
    | (with_reducible refine Att.holds_parkedCheck (fun _ => ?_))
    | (with_reducible first | apply StaysHome.setCur | apply StaysHome.setCurCore | apply StaysHome.emitAcc | apply StaysHome.wcFlush | apply StaysHome.jumpTo | apply StaysHome.endAct | apply StaysHome.enqueueOut | apply StaysHome.setMatrix | apply StaysHome.setChain | apply StaysHome.setGrammar | apply StaysHome.setRun | apply StaysHome.resumeRun | apply StaysHome.performEng | apply StaysHome.endChain | apply StaysHome.copyResume | apply StaysHome.pulse | apply StaysHome.releaseMacros | apply StaysHome.trapAt | apply StaysHome.setCluster | apply StaysHome.countTaken | apply StaysHome.serveSteal | apply StaysHome.send | apply StaysHome.takeId | apply StaysHome.accs | apply StaysHome.traceJump | apply StaysHome.issueBody | apply StaysHome.matrixBody)
    | (with_reducible first | apply SameRegs.writeRange | apply SameRegs.writeReg | apply SameRegs.awaitReg | apply SameRegs.setReg | apply SameRegs.setLdq)
    | exact SameRegs.popRecord hself ‹_›
    | exact (And.right ‹_ ∧ _›)
    | split
    | rfl
    | exact SameRegs.of_eq hself rfl rfl
    | (refine SameRegs.of_eq (SameRegs.awaitReg hself ?_) rfl rfl)
    | (refine SameRegs.of_eq (SameRegs.setReg (SameRegs.setReg hself ?_) ?_) rfl rfl)
    | (refine SameRegs.writeReg (SameRegs.of_eq hself rfl rfl) ?_)
    | (simp [destRegs]; done)
    | dsimp only

theorem home_csrr {d_ im_ : Nat} {a : Activation} {s0 s1 : State} (hc : s0.cur? = some a) (hg : a.flow.gang = none)
    (hx : exec (.csrr d_ im_) s0 = .next s1) : StaysHome (destRegs (.csrr d_ im_)) a s0 s1 := by
  have h : execCsrr d_ im_ s0 = .next s1 := hx
  clear hx
  unfold execCsrr at h
  have hself : SameRegs (destRegs (.csrr d_ im_)) a s0.cur := by rw [State.cur, hc]; exact SameRegs.refl _ _
  have h0 : StaysHome (destRegs (.csrr d_ im_)) a s0 s0 := StaysHome.refl hc
  refine StaysHome.dispatch hc hg ?_ h
  clear h
  repeat' first
    | with_reducible exact h0
    | with_reducible exact hself
    | with_reducible exact hc
    | (with_reducible first | exact Att.holds_stall | exact Att.holds_trap | apply Att.holds_sendable | apply Att.holds_orderly | apply Att.holds_sendReady | apply Att.holds_xQuiet | apply Att.holds_need | apply Att.holds_check | apply Att.holds_capCheck | apply Att.holds_guardHints | apply Att.holds_guardPriv | apply Att.holds_guardCluster | apply Att.holds_aBody | apply Att.holds_regBody | apply Att.holds_orderStore | apply Att.holds_releaseWait | apply Att.holds_decides | apply Att.holds_replyCheck | apply Att.holds_guard | apply Att.holds_ok | apply Att.holds_stay | apply Att.holds_waits)
    | (with_reducible refine Att.holds_popSdq (fun _ _ _ => ?_))
    | (with_reducible refine Att.holds_parkedCheck (fun _ => ?_))
    | (with_reducible first | apply StaysHome.setCur | apply StaysHome.setCurCore | apply StaysHome.emitAcc | apply StaysHome.wcFlush | apply StaysHome.jumpTo | apply StaysHome.endAct | apply StaysHome.enqueueOut | apply StaysHome.setMatrix | apply StaysHome.setChain | apply StaysHome.setGrammar | apply StaysHome.setRun | apply StaysHome.resumeRun | apply StaysHome.performEng | apply StaysHome.endChain | apply StaysHome.copyResume | apply StaysHome.pulse | apply StaysHome.releaseMacros | apply StaysHome.trapAt | apply StaysHome.setCluster | apply StaysHome.countTaken | apply StaysHome.serveSteal | apply StaysHome.send | apply StaysHome.takeId | apply StaysHome.accs | apply StaysHome.traceJump | apply StaysHome.issueBody | apply StaysHome.matrixBody)
    | (with_reducible first | apply SameRegs.writeRange | apply SameRegs.writeReg | apply SameRegs.awaitReg | apply SameRegs.setReg | apply SameRegs.setLdq)
    | exact SameRegs.popRecord hself ‹_›
    | exact (And.right ‹_ ∧ _›)
    | split
    | rfl
    | exact SameRegs.of_eq hself rfl rfl
    | (refine SameRegs.of_eq (SameRegs.awaitReg hself ?_) rfl rfl)
    | (refine SameRegs.of_eq (SameRegs.setReg (SameRegs.setReg hself ?_) ?_) rfl rfl)
    | (refine SameRegs.writeReg (SameRegs.of_eq hself rfl rfl) ?_)
    | (simp [destRegs]; done)
    | dsimp only

theorem home_csrw {d_ a_ im_ : Nat} {a : Activation} {s0 s1 : State} (hc : s0.cur? = some a) (hg : a.flow.gang = none)
    (hx : exec (.csrw d_ a_ im_) s0 = .next s1) : StaysHome (destRegs (.csrw d_ a_ im_)) a s0 s1 := by
  have h : execCsrw d_ a_ im_ s0 = .next s1 := hx
  clear hx
  unfold execCsrw at h
  refine StaysHome.dispatch hc hg ?_ h
  exact Att.holds_need (Att.holds_aBody (Att.holds_check (Att.holds_check (Att.holds_check (Att.holds_check (Att.holds_check
    (Att.holds_ok ((StaysHome.refl hc).csrWrite rfl))))))))

theorem home_beq {a_ b_ d_ : Nat} {a : Activation} {s0 s1 : State} (hc : s0.cur? = some a) (hg : a.flow.gang = none)
    (hx : exec (.beq a_ b_ d_) s0 = .next s1) : StaysHome (destRegs (.beq a_ b_ d_)) a s0 s1 := by
  have h : execBeq a_ b_ d_ s0 = .next s1 := hx
  clear hx
  unfold execBeq execBranch at h
  have hself : SameRegs (destRegs (.beq a_ b_ d_)) a s0.cur := by rw [State.cur, hc]; exact SameRegs.refl _ _
  have h0 : StaysHome (destRegs (.beq a_ b_ d_)) a s0 s0 := StaysHome.refl hc
  refine StaysHome.dispatch hc hg ?_ h
  clear h
  repeat' first
    | with_reducible exact h0
    | with_reducible exact hself
    | with_reducible exact hc
    | (with_reducible first | exact Att.holds_stall | exact Att.holds_trap | apply Att.holds_sendable | apply Att.holds_orderly | apply Att.holds_sendReady | apply Att.holds_xQuiet | apply Att.holds_need | apply Att.holds_check | apply Att.holds_capCheck | apply Att.holds_guardHints | apply Att.holds_guardPriv | apply Att.holds_guardCluster | apply Att.holds_aBody | apply Att.holds_regBody | apply Att.holds_orderStore | apply Att.holds_releaseWait | apply Att.holds_decides | apply Att.holds_replyCheck | apply Att.holds_guard | apply Att.holds_ok | apply Att.holds_stay | apply Att.holds_waits)
    | (with_reducible refine Att.holds_popSdq (fun _ _ _ => ?_))
    | (with_reducible refine Att.holds_parkedCheck (fun _ => ?_))
    | (with_reducible first | apply StaysHome.setCur | apply StaysHome.setCurCore | apply StaysHome.emitAcc | apply StaysHome.wcFlush | apply StaysHome.jumpTo | apply StaysHome.endAct | apply StaysHome.enqueueOut | apply StaysHome.setMatrix | apply StaysHome.setChain | apply StaysHome.setGrammar | apply StaysHome.setRun | apply StaysHome.resumeRun | apply StaysHome.performEng | apply StaysHome.endChain | apply StaysHome.copyResume | apply StaysHome.pulse | apply StaysHome.releaseMacros | apply StaysHome.trapAt | apply StaysHome.setCluster | apply StaysHome.countTaken | apply StaysHome.serveSteal | apply StaysHome.send | apply StaysHome.takeId | apply StaysHome.accs | apply StaysHome.traceJump | apply StaysHome.issueBody | apply StaysHome.matrixBody)
    | (with_reducible first | apply SameRegs.writeRange | apply SameRegs.writeReg | apply SameRegs.awaitReg | apply SameRegs.setReg | apply SameRegs.setLdq)
    | exact SameRegs.popRecord hself ‹_›
    | exact (And.right ‹_ ∧ _›)
    | split
    | rfl
    | exact SameRegs.of_eq hself rfl rfl
    | (refine SameRegs.of_eq (SameRegs.awaitReg hself ?_) rfl rfl)
    | (refine SameRegs.of_eq (SameRegs.setReg (SameRegs.setReg hself ?_) ?_) rfl rfl)
    | (refine SameRegs.writeReg (SameRegs.of_eq hself rfl rfl) ?_)
    | (simp [destRegs]; done)
    | dsimp only

theorem home_bne {a_ b_ d_ : Nat} {a : Activation} {s0 s1 : State} (hc : s0.cur? = some a) (hg : a.flow.gang = none)
    (hx : exec (.bne a_ b_ d_) s0 = .next s1) : StaysHome (destRegs (.bne a_ b_ d_)) a s0 s1 := by
  have h : execBne a_ b_ d_ s0 = .next s1 := hx
  clear hx
  unfold execBne execBranch at h
  have hself : SameRegs (destRegs (.bne a_ b_ d_)) a s0.cur := by rw [State.cur, hc]; exact SameRegs.refl _ _
  have h0 : StaysHome (destRegs (.bne a_ b_ d_)) a s0 s0 := StaysHome.refl hc
  refine StaysHome.dispatch hc hg ?_ h
  clear h
  repeat' first
    | with_reducible exact h0
    | with_reducible exact hself
    | with_reducible exact hc
    | (with_reducible first | exact Att.holds_stall | exact Att.holds_trap | apply Att.holds_sendable | apply Att.holds_orderly | apply Att.holds_sendReady | apply Att.holds_xQuiet | apply Att.holds_need | apply Att.holds_check | apply Att.holds_capCheck | apply Att.holds_guardHints | apply Att.holds_guardPriv | apply Att.holds_guardCluster | apply Att.holds_aBody | apply Att.holds_regBody | apply Att.holds_orderStore | apply Att.holds_releaseWait | apply Att.holds_decides | apply Att.holds_replyCheck | apply Att.holds_guard | apply Att.holds_ok | apply Att.holds_stay | apply Att.holds_waits)
    | (with_reducible refine Att.holds_popSdq (fun _ _ _ => ?_))
    | (with_reducible refine Att.holds_parkedCheck (fun _ => ?_))
    | (with_reducible first | apply StaysHome.setCur | apply StaysHome.setCurCore | apply StaysHome.emitAcc | apply StaysHome.wcFlush | apply StaysHome.jumpTo | apply StaysHome.endAct | apply StaysHome.enqueueOut | apply StaysHome.setMatrix | apply StaysHome.setChain | apply StaysHome.setGrammar | apply StaysHome.setRun | apply StaysHome.resumeRun | apply StaysHome.performEng | apply StaysHome.endChain | apply StaysHome.copyResume | apply StaysHome.pulse | apply StaysHome.releaseMacros | apply StaysHome.trapAt | apply StaysHome.setCluster | apply StaysHome.countTaken | apply StaysHome.serveSteal | apply StaysHome.send | apply StaysHome.takeId | apply StaysHome.accs | apply StaysHome.traceJump | apply StaysHome.issueBody | apply StaysHome.matrixBody)
    | (with_reducible first | apply SameRegs.writeRange | apply SameRegs.writeReg | apply SameRegs.awaitReg | apply SameRegs.setReg | apply SameRegs.setLdq)
    | exact SameRegs.popRecord hself ‹_›
    | exact (And.right ‹_ ∧ _›)
    | split
    | rfl
    | exact SameRegs.of_eq hself rfl rfl
    | (refine SameRegs.of_eq (SameRegs.awaitReg hself ?_) rfl rfl)
    | (refine SameRegs.of_eq (SameRegs.setReg (SameRegs.setReg hself ?_) ?_) rfl rfl)
    | (refine SameRegs.writeReg (SameRegs.of_eq hself rfl rfl) ?_)
    | (simp [destRegs]; done)
    | dsimp only

theorem home_blt {a_ b_ d_ : Nat} {a : Activation} {s0 s1 : State} (hc : s0.cur? = some a) (hg : a.flow.gang = none)
    (hx : exec (.blt a_ b_ d_) s0 = .next s1) : StaysHome (destRegs (.blt a_ b_ d_)) a s0 s1 := by
  have h : execBlt a_ b_ d_ s0 = .next s1 := hx
  clear hx
  unfold execBlt execBranch at h
  have hself : SameRegs (destRegs (.blt a_ b_ d_)) a s0.cur := by rw [State.cur, hc]; exact SameRegs.refl _ _
  have h0 : StaysHome (destRegs (.blt a_ b_ d_)) a s0 s0 := StaysHome.refl hc
  refine StaysHome.dispatch hc hg ?_ h
  clear h
  repeat' first
    | with_reducible exact h0
    | with_reducible exact hself
    | with_reducible exact hc
    | (with_reducible first | exact Att.holds_stall | exact Att.holds_trap | apply Att.holds_sendable | apply Att.holds_orderly | apply Att.holds_sendReady | apply Att.holds_xQuiet | apply Att.holds_need | apply Att.holds_check | apply Att.holds_capCheck | apply Att.holds_guardHints | apply Att.holds_guardPriv | apply Att.holds_guardCluster | apply Att.holds_aBody | apply Att.holds_regBody | apply Att.holds_orderStore | apply Att.holds_releaseWait | apply Att.holds_decides | apply Att.holds_replyCheck | apply Att.holds_guard | apply Att.holds_ok | apply Att.holds_stay | apply Att.holds_waits)
    | (with_reducible refine Att.holds_popSdq (fun _ _ _ => ?_))
    | (with_reducible refine Att.holds_parkedCheck (fun _ => ?_))
    | (with_reducible first | apply StaysHome.setCur | apply StaysHome.setCurCore | apply StaysHome.emitAcc | apply StaysHome.wcFlush | apply StaysHome.jumpTo | apply StaysHome.endAct | apply StaysHome.enqueueOut | apply StaysHome.setMatrix | apply StaysHome.setChain | apply StaysHome.setGrammar | apply StaysHome.setRun | apply StaysHome.resumeRun | apply StaysHome.performEng | apply StaysHome.endChain | apply StaysHome.copyResume | apply StaysHome.pulse | apply StaysHome.releaseMacros | apply StaysHome.trapAt | apply StaysHome.setCluster | apply StaysHome.countTaken | apply StaysHome.serveSteal | apply StaysHome.send | apply StaysHome.takeId | apply StaysHome.accs | apply StaysHome.traceJump | apply StaysHome.issueBody | apply StaysHome.matrixBody)
    | (with_reducible first | apply SameRegs.writeRange | apply SameRegs.writeReg | apply SameRegs.awaitReg | apply SameRegs.setReg | apply SameRegs.setLdq)
    | exact SameRegs.popRecord hself ‹_›
    | exact (And.right ‹_ ∧ _›)
    | split
    | rfl
    | exact SameRegs.of_eq hself rfl rfl
    | (refine SameRegs.of_eq (SameRegs.awaitReg hself ?_) rfl rfl)
    | (refine SameRegs.of_eq (SameRegs.setReg (SameRegs.setReg hself ?_) ?_) rfl rfl)
    | (refine SameRegs.writeReg (SameRegs.of_eq hself rfl rfl) ?_)
    | (simp [destRegs]; done)
    | dsimp only

theorem home_bge {a_ b_ d_ : Nat} {a : Activation} {s0 s1 : State} (hc : s0.cur? = some a) (hg : a.flow.gang = none)
    (hx : exec (.bge a_ b_ d_) s0 = .next s1) : StaysHome (destRegs (.bge a_ b_ d_)) a s0 s1 := by
  have h : execBge a_ b_ d_ s0 = .next s1 := hx
  clear hx
  unfold execBge execBranch at h
  have hself : SameRegs (destRegs (.bge a_ b_ d_)) a s0.cur := by rw [State.cur, hc]; exact SameRegs.refl _ _
  have h0 : StaysHome (destRegs (.bge a_ b_ d_)) a s0 s0 := StaysHome.refl hc
  refine StaysHome.dispatch hc hg ?_ h
  clear h
  repeat' first
    | with_reducible exact h0
    | with_reducible exact hself
    | with_reducible exact hc
    | (with_reducible first | exact Att.holds_stall | exact Att.holds_trap | apply Att.holds_sendable | apply Att.holds_orderly | apply Att.holds_sendReady | apply Att.holds_xQuiet | apply Att.holds_need | apply Att.holds_check | apply Att.holds_capCheck | apply Att.holds_guardHints | apply Att.holds_guardPriv | apply Att.holds_guardCluster | apply Att.holds_aBody | apply Att.holds_regBody | apply Att.holds_orderStore | apply Att.holds_releaseWait | apply Att.holds_decides | apply Att.holds_replyCheck | apply Att.holds_guard | apply Att.holds_ok | apply Att.holds_stay | apply Att.holds_waits)
    | (with_reducible refine Att.holds_popSdq (fun _ _ _ => ?_))
    | (with_reducible refine Att.holds_parkedCheck (fun _ => ?_))
    | (with_reducible first | apply StaysHome.setCur | apply StaysHome.setCurCore | apply StaysHome.emitAcc | apply StaysHome.wcFlush | apply StaysHome.jumpTo | apply StaysHome.endAct | apply StaysHome.enqueueOut | apply StaysHome.setMatrix | apply StaysHome.setChain | apply StaysHome.setGrammar | apply StaysHome.setRun | apply StaysHome.resumeRun | apply StaysHome.performEng | apply StaysHome.endChain | apply StaysHome.copyResume | apply StaysHome.pulse | apply StaysHome.releaseMacros | apply StaysHome.trapAt | apply StaysHome.setCluster | apply StaysHome.countTaken | apply StaysHome.serveSteal | apply StaysHome.send | apply StaysHome.takeId | apply StaysHome.accs | apply StaysHome.traceJump | apply StaysHome.issueBody | apply StaysHome.matrixBody)
    | (with_reducible first | apply SameRegs.writeRange | apply SameRegs.writeReg | apply SameRegs.awaitReg | apply SameRegs.setReg | apply SameRegs.setLdq)
    | exact SameRegs.popRecord hself ‹_›
    | exact (And.right ‹_ ∧ _›)
    | split
    | rfl
    | exact SameRegs.of_eq hself rfl rfl
    | (refine SameRegs.of_eq (SameRegs.awaitReg hself ?_) rfl rfl)
    | (refine SameRegs.of_eq (SameRegs.setReg (SameRegs.setReg hself ?_) ?_) rfl rfl)
    | (refine SameRegs.writeReg (SameRegs.of_eq hself rfl rfl) ?_)
    | (simp [destRegs]; done)
    | dsimp only

theorem home_bltu {a_ b_ d_ : Nat} {a : Activation} {s0 s1 : State} (hc : s0.cur? = some a) (hg : a.flow.gang = none)
    (hx : exec (.bltu a_ b_ d_) s0 = .next s1) : StaysHome (destRegs (.bltu a_ b_ d_)) a s0 s1 := by
  have h : execBltu a_ b_ d_ s0 = .next s1 := hx
  clear hx
  unfold execBltu execBranch at h
  have hself : SameRegs (destRegs (.bltu a_ b_ d_)) a s0.cur := by rw [State.cur, hc]; exact SameRegs.refl _ _
  have h0 : StaysHome (destRegs (.bltu a_ b_ d_)) a s0 s0 := StaysHome.refl hc
  refine StaysHome.dispatch hc hg ?_ h
  clear h
  repeat' first
    | with_reducible exact h0
    | with_reducible exact hself
    | with_reducible exact hc
    | (with_reducible first | exact Att.holds_stall | exact Att.holds_trap | apply Att.holds_sendable | apply Att.holds_orderly | apply Att.holds_sendReady | apply Att.holds_xQuiet | apply Att.holds_need | apply Att.holds_check | apply Att.holds_capCheck | apply Att.holds_guardHints | apply Att.holds_guardPriv | apply Att.holds_guardCluster | apply Att.holds_aBody | apply Att.holds_regBody | apply Att.holds_orderStore | apply Att.holds_releaseWait | apply Att.holds_decides | apply Att.holds_replyCheck | apply Att.holds_guard | apply Att.holds_ok | apply Att.holds_stay | apply Att.holds_waits)
    | (with_reducible refine Att.holds_popSdq (fun _ _ _ => ?_))
    | (with_reducible refine Att.holds_parkedCheck (fun _ => ?_))
    | (with_reducible first | apply StaysHome.setCur | apply StaysHome.setCurCore | apply StaysHome.emitAcc | apply StaysHome.wcFlush | apply StaysHome.jumpTo | apply StaysHome.endAct | apply StaysHome.enqueueOut | apply StaysHome.setMatrix | apply StaysHome.setChain | apply StaysHome.setGrammar | apply StaysHome.setRun | apply StaysHome.resumeRun | apply StaysHome.performEng | apply StaysHome.endChain | apply StaysHome.copyResume | apply StaysHome.pulse | apply StaysHome.releaseMacros | apply StaysHome.trapAt | apply StaysHome.setCluster | apply StaysHome.countTaken | apply StaysHome.serveSteal | apply StaysHome.send | apply StaysHome.takeId | apply StaysHome.accs | apply StaysHome.traceJump | apply StaysHome.issueBody | apply StaysHome.matrixBody)
    | (with_reducible first | apply SameRegs.writeRange | apply SameRegs.writeReg | apply SameRegs.awaitReg | apply SameRegs.setReg | apply SameRegs.setLdq)
    | exact SameRegs.popRecord hself ‹_›
    | exact (And.right ‹_ ∧ _›)
    | split
    | rfl
    | exact SameRegs.of_eq hself rfl rfl
    | (refine SameRegs.of_eq (SameRegs.awaitReg hself ?_) rfl rfl)
    | (refine SameRegs.of_eq (SameRegs.setReg (SameRegs.setReg hself ?_) ?_) rfl rfl)
    | (refine SameRegs.writeReg (SameRegs.of_eq hself rfl rfl) ?_)
    | (simp [destRegs]; done)
    | dsimp only

theorem home_bgeu {a_ b_ d_ : Nat} {a : Activation} {s0 s1 : State} (hc : s0.cur? = some a) (hg : a.flow.gang = none)
    (hx : exec (.bgeu a_ b_ d_) s0 = .next s1) : StaysHome (destRegs (.bgeu a_ b_ d_)) a s0 s1 := by
  have h : execBgeu a_ b_ d_ s0 = .next s1 := hx
  clear hx
  unfold execBgeu execBranch at h
  have hself : SameRegs (destRegs (.bgeu a_ b_ d_)) a s0.cur := by rw [State.cur, hc]; exact SameRegs.refl _ _
  have h0 : StaysHome (destRegs (.bgeu a_ b_ d_)) a s0 s0 := StaysHome.refl hc
  refine StaysHome.dispatch hc hg ?_ h
  clear h
  repeat' first
    | with_reducible exact h0
    | with_reducible exact hself
    | with_reducible exact hc
    | (with_reducible first | exact Att.holds_stall | exact Att.holds_trap | apply Att.holds_sendable | apply Att.holds_orderly | apply Att.holds_sendReady | apply Att.holds_xQuiet | apply Att.holds_need | apply Att.holds_check | apply Att.holds_capCheck | apply Att.holds_guardHints | apply Att.holds_guardPriv | apply Att.holds_guardCluster | apply Att.holds_aBody | apply Att.holds_regBody | apply Att.holds_orderStore | apply Att.holds_releaseWait | apply Att.holds_decides | apply Att.holds_replyCheck | apply Att.holds_guard | apply Att.holds_ok | apply Att.holds_stay | apply Att.holds_waits)
    | (with_reducible refine Att.holds_popSdq (fun _ _ _ => ?_))
    | (with_reducible refine Att.holds_parkedCheck (fun _ => ?_))
    | (with_reducible first | apply StaysHome.setCur | apply StaysHome.setCurCore | apply StaysHome.emitAcc | apply StaysHome.wcFlush | apply StaysHome.jumpTo | apply StaysHome.endAct | apply StaysHome.enqueueOut | apply StaysHome.setMatrix | apply StaysHome.setChain | apply StaysHome.setGrammar | apply StaysHome.setRun | apply StaysHome.resumeRun | apply StaysHome.performEng | apply StaysHome.endChain | apply StaysHome.copyResume | apply StaysHome.pulse | apply StaysHome.releaseMacros | apply StaysHome.trapAt | apply StaysHome.setCluster | apply StaysHome.countTaken | apply StaysHome.serveSteal | apply StaysHome.send | apply StaysHome.takeId | apply StaysHome.accs | apply StaysHome.traceJump | apply StaysHome.issueBody | apply StaysHome.matrixBody)
    | (with_reducible first | apply SameRegs.writeRange | apply SameRegs.writeReg | apply SameRegs.awaitReg | apply SameRegs.setReg | apply SameRegs.setLdq)
    | exact SameRegs.popRecord hself ‹_›
    | exact (And.right ‹_ ∧ _›)
    | split
    | rfl
    | exact SameRegs.of_eq hself rfl rfl
    | (refine SameRegs.of_eq (SameRegs.awaitReg hself ?_) rfl rfl)
    | (refine SameRegs.of_eq (SameRegs.setReg (SameRegs.setReg hself ?_) ?_) rfl rfl)
    | (refine SameRegs.writeReg (SameRegs.of_eq hself rfl rfl) ?_)
    | (simp [destRegs]; done)
    | dsimp only

theorem home_bxq {d_ : Nat} {a : Activation} {s0 s1 : State} (hc : s0.cur? = some a) (hg : a.flow.gang = none)
    (hx : exec (.bxq d_) s0 = .next s1) : StaysHome (destRegs (.bxq d_)) a s0 s1 := by
  have h : execBxq d_ s0 = .next s1 := hx
  clear hx
  unfold execBxq execQueueBranch at h
  have hself : SameRegs (destRegs (.bxq d_)) a s0.cur := by rw [State.cur, hc]; exact SameRegs.refl _ _
  have h0 : StaysHome (destRegs (.bxq d_)) a s0 s0 := StaysHome.refl hc
  refine StaysHome.dispatch hc hg ?_ h
  clear h
  repeat' first
    | with_reducible exact h0
    | with_reducible exact hself
    | with_reducible exact hc
    | (with_reducible first | exact Att.holds_stall | exact Att.holds_trap | apply Att.holds_sendable | apply Att.holds_orderly | apply Att.holds_sendReady | apply Att.holds_xQuiet | apply Att.holds_need | apply Att.holds_check | apply Att.holds_capCheck | apply Att.holds_guardHints | apply Att.holds_guardPriv | apply Att.holds_guardCluster | apply Att.holds_aBody | apply Att.holds_regBody | apply Att.holds_orderStore | apply Att.holds_releaseWait | apply Att.holds_decides | apply Att.holds_replyCheck | apply Att.holds_guard | apply Att.holds_ok | apply Att.holds_stay | apply Att.holds_waits)
    | (with_reducible refine Att.holds_popSdq (fun _ _ _ => ?_))
    | (with_reducible refine Att.holds_parkedCheck (fun _ => ?_))
    | (with_reducible first | apply StaysHome.setCur | apply StaysHome.setCurCore | apply StaysHome.emitAcc | apply StaysHome.wcFlush | apply StaysHome.jumpTo | apply StaysHome.endAct | apply StaysHome.enqueueOut | apply StaysHome.setMatrix | apply StaysHome.setChain | apply StaysHome.setGrammar | apply StaysHome.setRun | apply StaysHome.resumeRun | apply StaysHome.performEng | apply StaysHome.endChain | apply StaysHome.copyResume | apply StaysHome.pulse | apply StaysHome.releaseMacros | apply StaysHome.trapAt | apply StaysHome.setCluster | apply StaysHome.countTaken | apply StaysHome.serveSteal | apply StaysHome.send | apply StaysHome.takeId | apply StaysHome.accs | apply StaysHome.traceJump | apply StaysHome.issueBody | apply StaysHome.matrixBody)
    | (with_reducible first | apply SameRegs.writeRange | apply SameRegs.writeReg | apply SameRegs.awaitReg | apply SameRegs.setReg | apply SameRegs.setLdq)
    | exact SameRegs.popRecord hself ‹_›
    | exact (And.right ‹_ ∧ _›)
    | split
    | rfl
    | exact SameRegs.of_eq hself rfl rfl
    | (refine SameRegs.of_eq (SameRegs.awaitReg hself ?_) rfl rfl)
    | (refine SameRegs.of_eq (SameRegs.setReg (SameRegs.setReg hself ?_) ?_) rfl rfl)
    | (refine SameRegs.writeReg (SameRegs.of_eq hself rfl rfl) ?_)
    | (simp [destRegs]; done)
    | dsimp only

theorem home_bxqz {d_ : Nat} {a : Activation} {s0 s1 : State} (hc : s0.cur? = some a) (hg : a.flow.gang = none)
    (hx : exec (.bxqz d_) s0 = .next s1) : StaysHome (destRegs (.bxqz d_)) a s0 s1 := by
  have h : execBxqz d_ s0 = .next s1 := hx
  clear hx
  unfold execBxqz execQueueBranch at h
  have hself : SameRegs (destRegs (.bxqz d_)) a s0.cur := by rw [State.cur, hc]; exact SameRegs.refl _ _
  have h0 : StaysHome (destRegs (.bxqz d_)) a s0 s0 := StaysHome.refl hc
  refine StaysHome.dispatch hc hg ?_ h
  clear h
  repeat' first
    | with_reducible exact h0
    | with_reducible exact hself
    | with_reducible exact hc
    | (with_reducible first | exact Att.holds_stall | exact Att.holds_trap | apply Att.holds_sendable | apply Att.holds_orderly | apply Att.holds_sendReady | apply Att.holds_xQuiet | apply Att.holds_need | apply Att.holds_check | apply Att.holds_capCheck | apply Att.holds_guardHints | apply Att.holds_guardPriv | apply Att.holds_guardCluster | apply Att.holds_aBody | apply Att.holds_regBody | apply Att.holds_orderStore | apply Att.holds_releaseWait | apply Att.holds_decides | apply Att.holds_replyCheck | apply Att.holds_guard | apply Att.holds_ok | apply Att.holds_stay | apply Att.holds_waits)
    | (with_reducible refine Att.holds_popSdq (fun _ _ _ => ?_))
    | (with_reducible refine Att.holds_parkedCheck (fun _ => ?_))
    | (with_reducible first | apply StaysHome.setCur | apply StaysHome.setCurCore | apply StaysHome.emitAcc | apply StaysHome.wcFlush | apply StaysHome.jumpTo | apply StaysHome.endAct | apply StaysHome.enqueueOut | apply StaysHome.setMatrix | apply StaysHome.setChain | apply StaysHome.setGrammar | apply StaysHome.setRun | apply StaysHome.resumeRun | apply StaysHome.performEng | apply StaysHome.endChain | apply StaysHome.copyResume | apply StaysHome.pulse | apply StaysHome.releaseMacros | apply StaysHome.trapAt | apply StaysHome.setCluster | apply StaysHome.countTaken | apply StaysHome.serveSteal | apply StaysHome.send | apply StaysHome.takeId | apply StaysHome.accs | apply StaysHome.traceJump | apply StaysHome.issueBody | apply StaysHome.matrixBody)
    | (with_reducible first | apply SameRegs.writeRange | apply SameRegs.writeReg | apply SameRegs.awaitReg | apply SameRegs.setReg | apply SameRegs.setLdq)
    | exact SameRegs.popRecord hself ‹_›
    | exact (And.right ‹_ ∧ _›)
    | split
    | rfl
    | exact SameRegs.of_eq hself rfl rfl
    | (refine SameRegs.of_eq (SameRegs.awaitReg hself ?_) rfl rfl)
    | (refine SameRegs.of_eq (SameRegs.setReg (SameRegs.setReg hself ?_) ?_) rfl rfl)
    | (refine SameRegs.writeReg (SameRegs.of_eq hself rfl rfl) ?_)
    | (simp [destRegs]; done)
    | dsimp only

theorem home_j {t_ : Nat} {a : Activation} {s0 s1 : State} (hc : s0.cur? = some a) (hg : a.flow.gang = none)
    (hx : exec (.j t_) s0 = .next s1) : StaysHome (destRegs (.j t_)) a s0 s1 := by
  have h : execJ t_ s0 = .next s1 := hx
  clear hx
  unfold execJ at h
  have hself : SameRegs (destRegs (.j t_)) a s0.cur := by rw [State.cur, hc]; exact SameRegs.refl _ _
  have h0 : StaysHome (destRegs (.j t_)) a s0 s0 := StaysHome.refl hc
  refine StaysHome.dispatch hc hg ?_ h
  clear h
  repeat' first
    | with_reducible exact h0
    | with_reducible exact hself
    | with_reducible exact hc
    | (with_reducible first | exact Att.holds_stall | exact Att.holds_trap | apply Att.holds_sendable | apply Att.holds_orderly | apply Att.holds_sendReady | apply Att.holds_xQuiet | apply Att.holds_need | apply Att.holds_check | apply Att.holds_capCheck | apply Att.holds_guardHints | apply Att.holds_guardPriv | apply Att.holds_guardCluster | apply Att.holds_aBody | apply Att.holds_regBody | apply Att.holds_orderStore | apply Att.holds_releaseWait | apply Att.holds_decides | apply Att.holds_replyCheck | apply Att.holds_guard | apply Att.holds_ok | apply Att.holds_stay | apply Att.holds_waits)
    | (with_reducible refine Att.holds_popSdq (fun _ _ _ => ?_))
    | (with_reducible refine Att.holds_parkedCheck (fun _ => ?_))
    | (with_reducible first | apply StaysHome.setCur | apply StaysHome.setCurCore | apply StaysHome.emitAcc | apply StaysHome.wcFlush | apply StaysHome.jumpTo | apply StaysHome.endAct | apply StaysHome.enqueueOut | apply StaysHome.setMatrix | apply StaysHome.setChain | apply StaysHome.setGrammar | apply StaysHome.setRun | apply StaysHome.resumeRun | apply StaysHome.performEng | apply StaysHome.endChain | apply StaysHome.copyResume | apply StaysHome.pulse | apply StaysHome.releaseMacros | apply StaysHome.trapAt | apply StaysHome.setCluster | apply StaysHome.countTaken | apply StaysHome.serveSteal | apply StaysHome.send | apply StaysHome.takeId | apply StaysHome.accs | apply StaysHome.traceJump | apply StaysHome.issueBody | apply StaysHome.matrixBody)
    | (with_reducible first | apply SameRegs.writeRange | apply SameRegs.writeReg | apply SameRegs.awaitReg | apply SameRegs.setReg | apply SameRegs.setLdq)
    | exact SameRegs.popRecord hself ‹_›
    | exact (And.right ‹_ ∧ _›)
    | split
    | rfl
    | exact SameRegs.of_eq hself rfl rfl
    | (refine SameRegs.of_eq (SameRegs.awaitReg hself ?_) rfl rfl)
    | (refine SameRegs.of_eq (SameRegs.setReg (SameRegs.setReg hself ?_) ?_) rfl rfl)
    | (refine SameRegs.writeReg (SameRegs.of_eq hself rfl rfl) ?_)
    | (simp [destRegs]; done)
    | dsimp only

theorem home_call {t_ : Nat} {a : Activation} {s0 s1 : State} (hc : s0.cur? = some a) (hg : a.flow.gang = none)
    (hx : exec (.call t_) s0 = .next s1) : StaysHome (destRegs (.call t_)) a s0 s1 := by
  have h : execCall t_ s0 = .next s1 := hx
  clear hx
  unfold execCall at h
  have hself : SameRegs (destRegs (.call t_)) a s0.cur := by rw [State.cur, hc]; exact SameRegs.refl _ _
  have h0 : StaysHome (destRegs (.call t_)) a s0 s0 := StaysHome.refl hc
  refine StaysHome.dispatch hc hg (Att.holds_need (Att.holds_aBody (Att.holds_decides (Att.holds_ok h0) (Att.holds_check ?_)))) h
  dsimp only
  split
  · split
    · exact Att.holds_ok (StaysHome.traceJump (StaysHome.setCur h0 (hself.of_eq rfl rfl)))
    · refine Att.holds_ok (StaysHome.traceJump (StaysHome.setCur (StaysHome.units h0 (SameUnits.putBytes _ _ (SameUnits.touch (SameUnits.refl _)))) ?_))
      exact hself.of_eq rfl rfl
  · exact Att.holds_ok (StaysHome.traceJump (StaysHome.setCur h0 (hself.of_eq rfl rfl)))

theorem home_ret {a : Activation} {s0 s1 : State} (hc : s0.cur? = some a) (hg : a.flow.gang = none)
    (hx : exec (.ret) s0 = .next s1) : StaysHome (destRegs (.ret)) a s0 s1 := by
  have h : execRet  s0 = .next s1 := hx
  clear hx
  unfold execRet at h
  have hself : SameRegs (destRegs .ret) a s0.cur := by rw [State.cur, hc]; exact SameRegs.refl _ _
  have h0 : StaysHome (destRegs .ret) a s0 s0 := StaysHome.refl hc
  refine StaysHome.dispatch hc hg (Att.holds_need (Att.holds_aBody (Att.holds_decides (Att.holds_ok h0) (Att.holds_check ?_)))) h
  dsimp only
  split
  · exact Att.holds_ok (StaysHome.traceJump (StaysHome.setCur h0 (hself.of_eq rfl rfl)))
  · refine Att.holds_ok (StaysHome.traceJump (StaysHome.setCur (StaysHome.units h0 (SameUnits.touch (SameUnits.refl _))) ?_))
    exact hself.of_eq rfl rfl

theorem home_jr {a_ : Nat} {a : Activation} {s0 s1 : State} (hc : s0.cur? = some a) (hg : a.flow.gang = none)
    (hx : exec (.jr a_) s0 = .next s1) : StaysHome (destRegs (.jr a_)) a s0 s1 := by
  have h : execJr a_ s0 = .next s1 := hx
  clear hx
  unfold execJr at h
  have hself : SameRegs (destRegs (.jr a_)) a s0.cur := by rw [State.cur, hc]; exact SameRegs.refl _ _
  have h0 : StaysHome (destRegs (.jr a_)) a s0 s0 := StaysHome.refl hc
  refine StaysHome.dispatch hc hg ?_ h
  clear h
  repeat' first
    | with_reducible exact h0
    | with_reducible exact hself
    | with_reducible exact hc
    | (with_reducible first | exact Att.holds_stall | exact Att.holds_trap | apply Att.holds_sendable | apply Att.holds_orderly | apply Att.holds_sendReady | apply Att.holds_xQuiet | apply Att.holds_need | apply Att.holds_check | apply Att.holds_capCheck | apply Att.holds_guardHints | apply Att.holds_guardPriv | apply Att.holds_guardCluster | apply Att.holds_aBody | apply Att.holds_regBody | apply Att.holds_orderStore | apply Att.holds_releaseWait | apply Att.holds_decides | apply Att.holds_replyCheck | apply Att.holds_guard | apply Att.holds_ok | apply Att.holds_stay | apply Att.holds_waits)
    | (with_reducible refine Att.holds_popSdq (fun _ _ _ => ?_))
    | (with_reducible refine Att.holds_parkedCheck (fun _ => ?_))
    | (with_reducible first | apply StaysHome.setCur | apply StaysHome.setCurCore | apply StaysHome.emitAcc | apply StaysHome.wcFlush | apply StaysHome.jumpTo | apply StaysHome.endAct | apply StaysHome.enqueueOut | apply StaysHome.setMatrix | apply StaysHome.setChain | apply StaysHome.setGrammar | apply StaysHome.setRun | apply StaysHome.resumeRun | apply StaysHome.performEng | apply StaysHome.endChain | apply StaysHome.copyResume | apply StaysHome.pulse | apply StaysHome.releaseMacros | apply StaysHome.trapAt | apply StaysHome.setCluster | apply StaysHome.countTaken | apply StaysHome.serveSteal | apply StaysHome.send | apply StaysHome.takeId | apply StaysHome.accs | apply StaysHome.traceJump | apply StaysHome.issueBody | apply StaysHome.matrixBody)
    | (with_reducible first | apply SameRegs.writeRange | apply SameRegs.writeReg | apply SameRegs.awaitReg | apply SameRegs.setReg | apply SameRegs.setLdq)
    | exact SameRegs.popRecord hself ‹_›
    | exact (And.right ‹_ ∧ _›)
    | split
    | rfl
    | exact SameRegs.of_eq hself rfl rfl
    | (refine SameRegs.of_eq (SameRegs.awaitReg hself ?_) rfl rfl)
    | (refine SameRegs.of_eq (SameRegs.setReg (SameRegs.setReg hself ?_) ?_) rfl rfl)
    | (refine SameRegs.writeReg (SameRegs.of_eq hself rfl rfl) ?_)
    | (simp [destRegs]; done)
    | dsimp only

theorem home_loop {a_ l_ : Nat} {a : Activation} {s0 s1 : State} (hc : s0.cur? = some a) (hg : a.flow.gang = none)
    (hx : exec (.loop a_ l_) s0 = .next s1) : StaysHome (destRegs (.loop a_ l_)) a s0 s1 := by
  have h : execLoop a_ l_ s0 = .next s1 := hx
  clear hx
  unfold execLoop at h
  have hself : SameRegs (destRegs (.loop a_ l_)) a s0.cur := by rw [State.cur, hc]; exact SameRegs.refl _ _
  have h0 : StaysHome (destRegs (.loop a_ l_)) a s0 s0 := StaysHome.refl hc
  refine StaysHome.dispatch hc hg ?_ h
  clear h
  repeat' first
    | with_reducible exact h0
    | with_reducible exact hself
    | with_reducible exact hc
    | (with_reducible first | exact Att.holds_stall | exact Att.holds_trap | apply Att.holds_sendable | apply Att.holds_orderly | apply Att.holds_sendReady | apply Att.holds_xQuiet | apply Att.holds_need | apply Att.holds_check | apply Att.holds_capCheck | apply Att.holds_guardHints | apply Att.holds_guardPriv | apply Att.holds_guardCluster | apply Att.holds_aBody | apply Att.holds_regBody | apply Att.holds_orderStore | apply Att.holds_releaseWait | apply Att.holds_decides | apply Att.holds_replyCheck | apply Att.holds_guard | apply Att.holds_ok | apply Att.holds_stay | apply Att.holds_waits)
    | (with_reducible refine Att.holds_popSdq (fun _ _ _ => ?_))
    | (with_reducible refine Att.holds_parkedCheck (fun _ => ?_))
    | (with_reducible first | apply StaysHome.setCur | apply StaysHome.setCurCore | apply StaysHome.emitAcc | apply StaysHome.wcFlush | apply StaysHome.jumpTo | apply StaysHome.endAct | apply StaysHome.enqueueOut | apply StaysHome.setMatrix | apply StaysHome.setChain | apply StaysHome.setGrammar | apply StaysHome.setRun | apply StaysHome.resumeRun | apply StaysHome.performEng | apply StaysHome.endChain | apply StaysHome.copyResume | apply StaysHome.pulse | apply StaysHome.releaseMacros | apply StaysHome.trapAt | apply StaysHome.setCluster | apply StaysHome.countTaken | apply StaysHome.serveSteal | apply StaysHome.send | apply StaysHome.takeId | apply StaysHome.accs | apply StaysHome.traceJump | apply StaysHome.issueBody | apply StaysHome.matrixBody)
    | (with_reducible first | apply SameRegs.writeRange | apply SameRegs.writeReg | apply SameRegs.awaitReg | apply SameRegs.setReg | apply SameRegs.setLdq)
    | exact SameRegs.popRecord hself ‹_›
    | exact (And.right ‹_ ∧ _›)
    | split
    | rfl
    | exact SameRegs.of_eq hself rfl rfl
    | (refine SameRegs.of_eq (SameRegs.awaitReg hself ?_) rfl rfl)
    | (refine SameRegs.of_eq (SameRegs.setReg (SameRegs.setReg hself ?_) ?_) rfl rfl)
    | (refine SameRegs.writeReg (SameRegs.of_eq hself rfl rfl) ?_)
    | (simp [destRegs]; done)
    | dsimp only

theorem home_endAct {a : Activation} {s0 s1 : State} (hc : s0.cur? = some a) (hg : a.flow.gang = none)
    (hx : exec (.endAct) s0 = .next s1) : StaysHome (destRegs (.endAct)) a s0 s1 := by
  have h : execEndAct  s0 = .next s1 := hx
  clear hx
  unfold execEndAct at h
  have hself : SameRegs (destRegs (.endAct)) a s0.cur := by rw [State.cur, hc]; exact SameRegs.refl _ _
  have h0 : StaysHome (destRegs (.endAct)) a s0 s0 := StaysHome.refl hc
  refine StaysHome.dispatch hc hg ?_ h
  clear h
  repeat' first
    | with_reducible exact h0
    | with_reducible exact hself
    | with_reducible exact hc
    | (with_reducible first | exact Att.holds_stall | exact Att.holds_trap | apply Att.holds_sendable | apply Att.holds_orderly | apply Att.holds_sendReady | apply Att.holds_xQuiet | apply Att.holds_need | apply Att.holds_check | apply Att.holds_capCheck | apply Att.holds_guardHints | apply Att.holds_guardPriv | apply Att.holds_guardCluster | apply Att.holds_aBody | apply Att.holds_regBody | apply Att.holds_orderStore | apply Att.holds_releaseWait | apply Att.holds_decides | apply Att.holds_replyCheck | apply Att.holds_guard | apply Att.holds_ok | apply Att.holds_stay | apply Att.holds_waits)
    | (with_reducible refine Att.holds_popSdq (fun _ _ _ => ?_))
    | (with_reducible refine Att.holds_parkedCheck (fun _ => ?_))
    | (with_reducible first | apply StaysHome.setCur | apply StaysHome.setCurCore | apply StaysHome.emitAcc | apply StaysHome.wcFlush | apply StaysHome.jumpTo | apply StaysHome.endAct | apply StaysHome.enqueueOut | apply StaysHome.setMatrix | apply StaysHome.setChain | apply StaysHome.setGrammar | apply StaysHome.setRun | apply StaysHome.resumeRun | apply StaysHome.performEng | apply StaysHome.endChain | apply StaysHome.copyResume | apply StaysHome.pulse | apply StaysHome.releaseMacros | apply StaysHome.trapAt | apply StaysHome.setCluster | apply StaysHome.countTaken | apply StaysHome.serveSteal | apply StaysHome.send | apply StaysHome.takeId | apply StaysHome.accs | apply StaysHome.traceJump | apply StaysHome.issueBody | apply StaysHome.matrixBody)
    | (with_reducible first | apply SameRegs.writeRange | apply SameRegs.writeReg | apply SameRegs.awaitReg | apply SameRegs.setReg | apply SameRegs.setLdq)
    | exact SameRegs.popRecord hself ‹_›
    | exact (And.right ‹_ ∧ _›)
    | split
    | rfl
    | exact SameRegs.of_eq hself rfl rfl
    | (refine SameRegs.of_eq (SameRegs.awaitReg hself ?_) rfl rfl)
    | (refine SameRegs.of_eq (SameRegs.setReg (SameRegs.setReg hself ?_) ?_) rfl rfl)
    | (refine SameRegs.writeReg (SameRegs.of_eq hself rfl rfl) ?_)
    | (simp [destRegs]; done)
    | dsimp only

theorem home_ecall {c_ : Nat} {a : Activation} {s0 s1 : State} (hc : s0.cur? = some a) (hg : a.flow.gang = none)
    (hx : exec (.ecall c_) s0 = .next s1) : StaysHome (destRegs (.ecall c_)) a s0 s1 := by
  have h : execEcall c_ s0 = .next s1 := hx
  clear hx
  unfold execEcall execTrapCall at h
  have hself : SameRegs (destRegs (.ecall c_)) a s0.cur := by rw [State.cur, hc]; exact SameRegs.refl _ _
  have h0 : StaysHome (destRegs (.ecall c_)) a s0 s0 := StaysHome.refl hc
  refine StaysHome.dispatch hc hg ?_ h
  clear h
  repeat' first
    | with_reducible exact h0
    | with_reducible exact hself
    | with_reducible exact hc
    | (with_reducible first | exact Att.holds_stall | exact Att.holds_trap | apply Att.holds_sendable | apply Att.holds_orderly | apply Att.holds_sendReady | apply Att.holds_xQuiet | apply Att.holds_need | apply Att.holds_check | apply Att.holds_capCheck | apply Att.holds_guardHints | apply Att.holds_guardPriv | apply Att.holds_guardCluster | apply Att.holds_aBody | apply Att.holds_regBody | apply Att.holds_orderStore | apply Att.holds_releaseWait | apply Att.holds_decides | apply Att.holds_replyCheck | apply Att.holds_guard | apply Att.holds_ok | apply Att.holds_stay | apply Att.holds_waits)
    | (with_reducible refine Att.holds_popSdq (fun _ _ _ => ?_))
    | (with_reducible refine Att.holds_parkedCheck (fun _ => ?_))
    | (with_reducible first | apply StaysHome.setCur | apply StaysHome.setCurCore | apply StaysHome.emitAcc | apply StaysHome.wcFlush | apply StaysHome.jumpTo | apply StaysHome.endAct | apply StaysHome.enqueueOut | apply StaysHome.setMatrix | apply StaysHome.setChain | apply StaysHome.setGrammar | apply StaysHome.setRun | apply StaysHome.resumeRun | apply StaysHome.performEng | apply StaysHome.endChain | apply StaysHome.copyResume | apply StaysHome.pulse | apply StaysHome.releaseMacros | apply StaysHome.trapAt | apply StaysHome.setCluster | apply StaysHome.countTaken | apply StaysHome.serveSteal | apply StaysHome.send | apply StaysHome.takeId | apply StaysHome.accs | apply StaysHome.traceJump | apply StaysHome.issueBody | apply StaysHome.matrixBody)
    | (with_reducible first | apply SameRegs.writeRange | apply SameRegs.writeReg | apply SameRegs.awaitReg | apply SameRegs.setReg | apply SameRegs.setLdq)
    | exact SameRegs.popRecord hself ‹_›
    | exact (And.right ‹_ ∧ _›)
    | split
    | rfl
    | exact SameRegs.of_eq hself rfl rfl
    | (refine SameRegs.of_eq (SameRegs.awaitReg hself ?_) rfl rfl)
    | (refine SameRegs.of_eq (SameRegs.setReg (SameRegs.setReg hself ?_) ?_) rfl rfl)
    | (refine SameRegs.writeReg (SameRegs.of_eq hself rfl rfl) ?_)
    | (simp [destRegs]; done)
    | dsimp only

theorem home_brk {c_ : Nat} {a : Activation} {s0 s1 : State} (hc : s0.cur? = some a) (hg : a.flow.gang = none)
    (hx : exec (.brk c_) s0 = .next s1) : StaysHome (destRegs (.brk c_)) a s0 s1 := by
  have h : execBrk c_ s0 = .next s1 := hx
  clear hx
  unfold execBrk execTrapCall at h
  have hself : SameRegs (destRegs (.brk c_)) a s0.cur := by rw [State.cur, hc]; exact SameRegs.refl _ _
  have h0 : StaysHome (destRegs (.brk c_)) a s0 s0 := StaysHome.refl hc
  refine StaysHome.dispatch hc hg ?_ h
  clear h
  repeat' first
    | with_reducible exact h0
    | with_reducible exact hself
    | with_reducible exact hc
    | (with_reducible first | exact Att.holds_stall | exact Att.holds_trap | apply Att.holds_sendable | apply Att.holds_orderly | apply Att.holds_sendReady | apply Att.holds_xQuiet | apply Att.holds_need | apply Att.holds_check | apply Att.holds_capCheck | apply Att.holds_guardHints | apply Att.holds_guardPriv | apply Att.holds_guardCluster | apply Att.holds_aBody | apply Att.holds_regBody | apply Att.holds_orderStore | apply Att.holds_releaseWait | apply Att.holds_decides | apply Att.holds_replyCheck | apply Att.holds_guard | apply Att.holds_ok | apply Att.holds_stay | apply Att.holds_waits)
    | (with_reducible refine Att.holds_popSdq (fun _ _ _ => ?_))
    | (with_reducible refine Att.holds_parkedCheck (fun _ => ?_))
    | (with_reducible first | apply StaysHome.setCur | apply StaysHome.setCurCore | apply StaysHome.emitAcc | apply StaysHome.wcFlush | apply StaysHome.jumpTo | apply StaysHome.endAct | apply StaysHome.enqueueOut | apply StaysHome.setMatrix | apply StaysHome.setChain | apply StaysHome.setGrammar | apply StaysHome.setRun | apply StaysHome.resumeRun | apply StaysHome.performEng | apply StaysHome.endChain | apply StaysHome.copyResume | apply StaysHome.pulse | apply StaysHome.releaseMacros | apply StaysHome.trapAt | apply StaysHome.setCluster | apply StaysHome.countTaken | apply StaysHome.serveSteal | apply StaysHome.send | apply StaysHome.takeId | apply StaysHome.accs | apply StaysHome.traceJump | apply StaysHome.issueBody | apply StaysHome.matrixBody)
    | (with_reducible first | apply SameRegs.writeRange | apply SameRegs.writeReg | apply SameRegs.awaitReg | apply SameRegs.setReg | apply SameRegs.setLdq)
    | exact SameRegs.popRecord hself ‹_›
    | exact (And.right ‹_ ∧ _›)
    | split
    | rfl
    | exact SameRegs.of_eq hself rfl rfl
    | (refine SameRegs.of_eq (SameRegs.awaitReg hself ?_) rfl rfl)
    | (refine SameRegs.of_eq (SameRegs.setReg (SameRegs.setReg hself ?_) ?_) rfl rfl)
    | (refine SameRegs.writeReg (SameRegs.of_eq hself rfl rfl) ?_)
    | (simp [destRegs]; done)
    | dsimp only

theorem home_send {a_ b_ r_ h_ : Nat} {a : Activation} {s0 s1 : State} (hc : s0.cur? = some a) (hg : a.flow.gang = none)
    (hx : exec (.send a_ b_ r_ h_) s0 = .next s1) : StaysHome (destRegs (.send a_ b_ r_ h_)) a s0 s1 := by
  have h : execSend a_ b_ r_ h_ s0 = .next s1 := hx
  clear hx
  unfold execSend at h
  have hself : SameRegs (destRegs (.send a_ b_ r_ h_)) a s0.cur := by rw [State.cur, hc]; exact SameRegs.refl _ _
  have h0 : StaysHome (destRegs (.send a_ b_ r_ h_)) a s0 s0 := StaysHome.refl hc
  refine StaysHome.dispatch hc hg ?_ h
  clear h
  repeat' first
    | with_reducible exact h0
    | with_reducible exact hself
    | with_reducible exact hc
    | (with_reducible first | exact Att.holds_stall | exact Att.holds_trap | apply Att.holds_sendable | apply Att.holds_orderly | apply Att.holds_sendReady | apply Att.holds_xQuiet | apply Att.holds_need | apply Att.holds_check | apply Att.holds_capCheck | apply Att.holds_guardHints | apply Att.holds_guardPriv | apply Att.holds_guardCluster | apply Att.holds_aBody | apply Att.holds_regBody | apply Att.holds_orderStore | apply Att.holds_releaseWait | apply Att.holds_decides | apply Att.holds_replyCheck | apply Att.holds_guard | apply Att.holds_ok | apply Att.holds_stay | apply Att.holds_waits)
    | (with_reducible refine Att.holds_popSdq (fun _ _ _ => ?_))
    | (with_reducible refine Att.holds_parkedCheck (fun _ => ?_))
    | (with_reducible first | apply StaysHome.setCur | apply StaysHome.setCurCore | apply StaysHome.emitAcc | apply StaysHome.wcFlush | apply StaysHome.jumpTo | apply StaysHome.endAct | apply StaysHome.enqueueOut | apply StaysHome.setMatrix | apply StaysHome.setChain | apply StaysHome.setGrammar | apply StaysHome.setRun | apply StaysHome.resumeRun | apply StaysHome.performEng | apply StaysHome.endChain | apply StaysHome.copyResume | apply StaysHome.pulse | apply StaysHome.releaseMacros | apply StaysHome.trapAt | apply StaysHome.setCluster | apply StaysHome.countTaken | apply StaysHome.serveSteal | apply StaysHome.send | apply StaysHome.takeId | apply StaysHome.accs | apply StaysHome.traceJump | apply StaysHome.issueBody | apply StaysHome.matrixBody)
    | (with_reducible first | apply SameRegs.writeRange | apply SameRegs.writeReg | apply SameRegs.awaitReg | apply SameRegs.setReg | apply SameRegs.setLdq)
    | exact SameRegs.popRecord hself ‹_›
    | exact (And.right ‹_ ∧ _›)
    | split
    | rfl
    | exact SameRegs.of_eq hself rfl rfl
    | (refine SameRegs.of_eq (SameRegs.awaitReg hself ?_) rfl rfl)
    | (refine SameRegs.of_eq (SameRegs.setReg (SameRegs.setReg hself ?_) ?_) rfl rfl)
    | (refine SameRegs.writeReg (SameRegs.of_eq hself rfl rfl) ?_)
    | (simp [destRegs]; done)
    | dsimp only

theorem home_sende {a_ b_ p_ : Nat} {a : Activation} {s0 s1 : State} (hc : s0.cur? = some a) (hg : a.flow.gang = none)
    (hx : exec (.sende a_ b_ p_) s0 = .next s1) : StaysHome (destRegs (.sende a_ b_ p_)) a s0 s1 := by
  have h : execSende a_ b_ p_ s0 = .next s1 := hx
  clear hx
  unfold execSende at h
  have hself : SameRegs (destRegs (.sende a_ b_ p_)) a s0.cur := by rw [State.cur, hc]; exact SameRegs.refl _ _
  have h0 : StaysHome (destRegs (.sende a_ b_ p_)) a s0 s0 := StaysHome.refl hc
  refine StaysHome.dispatch hc hg ?_ h
  clear h
  repeat' first
    | with_reducible exact h0
    | with_reducible exact hself
    | with_reducible exact hc
    | (with_reducible first | exact Att.holds_stall | exact Att.holds_trap | apply Att.holds_sendable | apply Att.holds_orderly | apply Att.holds_sendReady | apply Att.holds_xQuiet | apply Att.holds_need | apply Att.holds_check | apply Att.holds_capCheck | apply Att.holds_guardHints | apply Att.holds_guardPriv | apply Att.holds_guardCluster | apply Att.holds_aBody | apply Att.holds_regBody | apply Att.holds_orderStore | apply Att.holds_releaseWait | apply Att.holds_decides | apply Att.holds_replyCheck | apply Att.holds_guard | apply Att.holds_ok | apply Att.holds_stay | apply Att.holds_waits)
    | (with_reducible refine Att.holds_popSdq (fun _ _ _ => ?_))
    | (with_reducible refine Att.holds_parkedCheck (fun _ => ?_))
    | (with_reducible first | apply StaysHome.setCur | apply StaysHome.setCurCore | apply StaysHome.emitAcc | apply StaysHome.wcFlush | apply StaysHome.jumpTo | apply StaysHome.endAct | apply StaysHome.enqueueOut | apply StaysHome.setMatrix | apply StaysHome.setChain | apply StaysHome.setGrammar | apply StaysHome.setRun | apply StaysHome.resumeRun | apply StaysHome.performEng | apply StaysHome.endChain | apply StaysHome.copyResume | apply StaysHome.pulse | apply StaysHome.releaseMacros | apply StaysHome.trapAt | apply StaysHome.setCluster | apply StaysHome.countTaken | apply StaysHome.serveSteal | apply StaysHome.send | apply StaysHome.takeId | apply StaysHome.accs | apply StaysHome.traceJump | apply StaysHome.issueBody | apply StaysHome.matrixBody)
    | (with_reducible first | apply SameRegs.writeRange | apply SameRegs.writeReg | apply SameRegs.awaitReg | apply SameRegs.setReg | apply SameRegs.setLdq)
    | exact SameRegs.popRecord hself ‹_›
    | exact (And.right ‹_ ∧ _›)
    | split
    | rfl
    | exact SameRegs.of_eq hself rfl rfl
    | (refine SameRegs.of_eq (SameRegs.awaitReg hself ?_) rfl rfl)
    | (refine SameRegs.of_eq (SameRegs.setReg (SameRegs.setReg hself ?_) ?_) rfl rfl)
    | (refine SameRegs.writeReg (SameRegs.of_eq hself rfl rfl) ?_)
    | (simp [destRegs]; done)
    | dsimp only

theorem home_reply {a_ : Nat} {a : Activation} {s0 s1 : State} (hc : s0.cur? = some a) (hg : a.flow.gang = none)
    (hx : exec (.reply a_) s0 = .next s1) : StaysHome (destRegs (.reply a_)) a s0 s1 := by
  have h : execReply a_ s0 = .next s1 := hx
  clear hx
  unfold execReply at h
  have hself : SameRegs (destRegs (.reply a_)) a s0.cur := by rw [State.cur, hc]; exact SameRegs.refl _ _
  have h0 : StaysHome (destRegs (.reply a_)) a s0 s0 := StaysHome.refl hc
  refine StaysHome.dispatch hc hg ?_ h
  clear h
  repeat' first
    | with_reducible exact h0
    | with_reducible exact hself
    | with_reducible exact hc
    | (with_reducible first | exact Att.holds_stall | exact Att.holds_trap | apply Att.holds_sendable | apply Att.holds_orderly | apply Att.holds_sendReady | apply Att.holds_xQuiet | apply Att.holds_need | apply Att.holds_check | apply Att.holds_capCheck | apply Att.holds_guardHints | apply Att.holds_guardPriv | apply Att.holds_guardCluster | apply Att.holds_aBody | apply Att.holds_regBody | apply Att.holds_orderStore | apply Att.holds_releaseWait | apply Att.holds_decides | apply Att.holds_replyCheck | apply Att.holds_guard | apply Att.holds_ok | apply Att.holds_stay | apply Att.holds_waits)
    | (with_reducible refine Att.holds_popSdq (fun _ _ _ => ?_))
    | (with_reducible refine Att.holds_parkedCheck (fun _ => ?_))
    | (with_reducible first | apply StaysHome.setCur | apply StaysHome.setCurCore | apply StaysHome.emitAcc | apply StaysHome.wcFlush | apply StaysHome.jumpTo | apply StaysHome.endAct | apply StaysHome.enqueueOut | apply StaysHome.setMatrix | apply StaysHome.setChain | apply StaysHome.setGrammar | apply StaysHome.setRun | apply StaysHome.resumeRun | apply StaysHome.performEng | apply StaysHome.endChain | apply StaysHome.copyResume | apply StaysHome.pulse | apply StaysHome.releaseMacros | apply StaysHome.trapAt | apply StaysHome.setCluster | apply StaysHome.countTaken | apply StaysHome.serveSteal | apply StaysHome.send | apply StaysHome.takeId | apply StaysHome.accs | apply StaysHome.traceJump | apply StaysHome.issueBody | apply StaysHome.matrixBody)
    | (with_reducible first | apply SameRegs.writeRange | apply SameRegs.writeReg | apply SameRegs.awaitReg | apply SameRegs.setReg | apply SameRegs.setLdq)
    | exact SameRegs.popRecord hself ‹_›
    | exact (And.right ‹_ ∧ _›)
    | split
    | rfl
    | exact SameRegs.of_eq hself rfl rfl
    | (refine SameRegs.of_eq (SameRegs.awaitReg hself ?_) rfl rfl)
    | (refine SameRegs.of_eq (SameRegs.setReg (SameRegs.setReg hself ?_) ?_) rfl rfl)
    | (refine SameRegs.writeReg (SameRegs.of_eq hself rfl rfl) ?_)
    | (simp [destRegs]; done)
    | dsimp only

theorem home_jarrive {a_ b_ p_ : Nat} {a : Activation} {s0 s1 : State} (hc : s0.cur? = some a) (hg : a.flow.gang = none)
    (hx : exec (.jarrive a_ b_ p_) s0 = .next s1) : StaysHome (destRegs (.jarrive a_ b_ p_)) a s0 s1 := by
  have h : execJarrive a_ b_ p_ s0 = .next s1 := hx
  clear hx
  unfold execJarrive at h
  have hself : SameRegs (destRegs (.jarrive a_ b_ p_)) a s0.cur := by rw [State.cur, hc]; exact SameRegs.refl _ _
  have h0 : StaysHome (destRegs (.jarrive a_ b_ p_)) a s0 s0 := StaysHome.refl hc
  refine StaysHome.dispatch hc hg ?_ h
  clear h
  repeat' first
    | with_reducible exact h0
    | with_reducible exact hself
    | with_reducible exact hc
    | (with_reducible first | exact Att.holds_stall | exact Att.holds_trap | apply Att.holds_sendable | apply Att.holds_orderly | apply Att.holds_sendReady | apply Att.holds_xQuiet | apply Att.holds_need | apply Att.holds_check | apply Att.holds_capCheck | apply Att.holds_guardHints | apply Att.holds_guardPriv | apply Att.holds_guardCluster | apply Att.holds_aBody | apply Att.holds_regBody | apply Att.holds_orderStore | apply Att.holds_releaseWait | apply Att.holds_decides | apply Att.holds_replyCheck | apply Att.holds_guard | apply Att.holds_ok | apply Att.holds_stay | apply Att.holds_waits)
    | (with_reducible refine Att.holds_popSdq (fun _ _ _ => ?_))
    | (with_reducible refine Att.holds_parkedCheck (fun _ => ?_))
    | (with_reducible first | apply StaysHome.setCur | apply StaysHome.setCurCore | apply StaysHome.emitAcc | apply StaysHome.wcFlush | apply StaysHome.jumpTo | apply StaysHome.endAct | apply StaysHome.enqueueOut | apply StaysHome.setMatrix | apply StaysHome.setChain | apply StaysHome.setGrammar | apply StaysHome.setRun | apply StaysHome.resumeRun | apply StaysHome.performEng | apply StaysHome.endChain | apply StaysHome.copyResume | apply StaysHome.pulse | apply StaysHome.releaseMacros | apply StaysHome.trapAt | apply StaysHome.setCluster | apply StaysHome.countTaken | apply StaysHome.serveSteal | apply StaysHome.send | apply StaysHome.takeId | apply StaysHome.accs | apply StaysHome.traceJump | apply StaysHome.issueBody | apply StaysHome.matrixBody)
    | (with_reducible first | apply SameRegs.writeRange | apply SameRegs.writeReg | apply SameRegs.awaitReg | apply SameRegs.setReg | apply SameRegs.setLdq)
    | exact SameRegs.popRecord hself ‹_›
    | exact (And.right ‹_ ∧ _›)
    | split
    | rfl
    | exact SameRegs.of_eq hself rfl rfl
    | (refine SameRegs.of_eq (SameRegs.awaitReg hself ?_) rfl rfl)
    | (refine SameRegs.of_eq (SameRegs.setReg (SameRegs.setReg hself ?_) ?_) rfl rfl)
    | (refine SameRegs.writeReg (SameRegs.of_eq hself rfl rfl) ?_)
    | (simp [destRegs]; done)
    | dsimp only

theorem home_disband {a : Activation} {s0 s1 : State} (hc : s0.cur? = some a) (hg : a.flow.gang = none)
    (hx : exec (.disband) s0 = .next s1) : StaysHome (destRegs (.disband)) a s0 s1 := by
  have h : execDisband  s0 = .next s1 := hx
  clear hx
  unfold execDisband at h
  have hself : SameRegs (destRegs (.disband)) a s0.cur := by rw [State.cur, hc]; exact SameRegs.refl _ _
  have h0 : StaysHome (destRegs (.disband)) a s0 s0 := StaysHome.refl hc
  refine StaysHome.dispatch hc hg ?_ h
  clear h
  repeat' first
    | with_reducible exact h0
    | with_reducible exact hself
    | with_reducible exact hc
    | (with_reducible first | exact Att.holds_stall | exact Att.holds_trap | apply Att.holds_sendable | apply Att.holds_orderly | apply Att.holds_sendReady | apply Att.holds_xQuiet | apply Att.holds_need | apply Att.holds_check | apply Att.holds_capCheck | apply Att.holds_guardHints | apply Att.holds_guardPriv | apply Att.holds_guardCluster | apply Att.holds_aBody | apply Att.holds_regBody | apply Att.holds_orderStore | apply Att.holds_releaseWait | apply Att.holds_decides | apply Att.holds_replyCheck | apply Att.holds_guard | apply Att.holds_ok | apply Att.holds_stay | apply Att.holds_waits)
    | (with_reducible refine Att.holds_popSdq (fun _ _ _ => ?_))
    | (with_reducible refine Att.holds_parkedCheck (fun _ => ?_))
    | (with_reducible first | apply StaysHome.setCur | apply StaysHome.setCurCore | apply StaysHome.emitAcc | apply StaysHome.wcFlush | apply StaysHome.jumpTo | apply StaysHome.endAct | apply StaysHome.enqueueOut | apply StaysHome.setMatrix | apply StaysHome.setChain | apply StaysHome.setGrammar | apply StaysHome.setRun | apply StaysHome.resumeRun | apply StaysHome.performEng | apply StaysHome.endChain | apply StaysHome.copyResume | apply StaysHome.pulse | apply StaysHome.releaseMacros | apply StaysHome.trapAt | apply StaysHome.setCluster | apply StaysHome.countTaken | apply StaysHome.serveSteal | apply StaysHome.send | apply StaysHome.takeId | apply StaysHome.accs | apply StaysHome.traceJump | apply StaysHome.issueBody | apply StaysHome.matrixBody)
    | (with_reducible first | apply SameRegs.writeRange | apply SameRegs.writeReg | apply SameRegs.awaitReg | apply SameRegs.setReg | apply SameRegs.setLdq)
    | exact SameRegs.popRecord hself ‹_›
    | exact (And.right ‹_ ∧ _›)
    | split
    | rfl
    | exact SameRegs.of_eq hself rfl rfl
    | (refine SameRegs.of_eq (SameRegs.awaitReg hself ?_) rfl rfl)
    | (refine SameRegs.of_eq (SameRegs.setReg (SameRegs.setReg hself ?_) ?_) rfl rfl)
    | (refine SameRegs.writeReg (SameRegs.of_eq hself rfl rfl) ?_)
    | (simp [destRegs]; done)
    | dsimp only

theorem home_stacq {d_ a_ b_ r_ : Nat} {a : Activation} {s0 s1 : State} (hc : s0.cur? = some a) (hg : a.flow.gang = none)
    (hx : exec (.stacq d_ a_ b_ r_) s0 = .next s1) : StaysHome (destRegs (.stacq d_ a_ b_ r_)) a s0 s1 := by
  have h : execStacq d_ a_ b_ r_ s0 = .next s1 := hx
  clear hx
  unfold execStacq at h
  have hself : SameRegs (destRegs (.stacq d_ a_ b_ r_)) a s0.cur := by rw [State.cur, hc]; exact SameRegs.refl _ _
  have h0 : StaysHome (destRegs (.stacq d_ a_ b_ r_)) a s0 s0 := StaysHome.refl hc
  refine StaysHome.dispatch hc hg ?_ h
  clear h
  unfold ringBody
  repeat' first
    | with_reducible exact h0
    | with_reducible exact hself
    | with_reducible exact hc
    | (with_reducible first | exact Att.holds_stall | exact Att.holds_trap | apply Att.holds_sendable | apply Att.holds_orderly | apply Att.holds_sendReady | apply Att.holds_xQuiet | apply Att.holds_need | apply Att.holds_check | apply Att.holds_capCheck | apply Att.holds_guardHints | apply Att.holds_guardPriv | apply Att.holds_guardCluster | apply Att.holds_aBody | apply Att.holds_regBody | apply Att.holds_orderStore | apply Att.holds_releaseWait | apply Att.holds_decides | apply Att.holds_replyCheck | apply Att.holds_guard | apply Att.holds_ok | apply Att.holds_stay | apply Att.holds_waits)
    | (with_reducible refine Att.holds_popSdq (fun _ _ _ => ?_))
    | (with_reducible refine Att.holds_parkedCheck (fun _ => ?_))
    | (with_reducible first | apply StaysHome.setCur | apply StaysHome.setCurCore | apply StaysHome.emitAcc | apply StaysHome.wcFlush | apply StaysHome.jumpTo | apply StaysHome.endAct | apply StaysHome.enqueueOut | apply StaysHome.setMatrix | apply StaysHome.setChain | apply StaysHome.setGrammar | apply StaysHome.setRun | apply StaysHome.resumeRun | apply StaysHome.performEng | apply StaysHome.endChain | apply StaysHome.copyResume | apply StaysHome.pulse | apply StaysHome.releaseMacros | apply StaysHome.trapAt | apply StaysHome.setCluster | apply StaysHome.countTaken | apply StaysHome.serveSteal | apply StaysHome.send | apply StaysHome.takeId | apply StaysHome.accs | apply StaysHome.traceJump | apply StaysHome.issueBody | apply StaysHome.matrixBody)
    | (with_reducible first | apply SameRegs.writeRange | apply SameRegs.writeReg | apply SameRegs.awaitReg | apply SameRegs.setReg | apply SameRegs.setLdq)
    | exact SameRegs.popRecord hself ‹_›
    | exact (And.right ‹_ ∧ _›)
    | split
    | rfl
    | exact SameRegs.of_eq hself rfl rfl
    | (refine SameRegs.of_eq (SameRegs.awaitReg hself ?_) rfl rfl)
    | (refine SameRegs.of_eq (SameRegs.setReg (SameRegs.setReg hself ?_) ?_) rfl rfl)
    | (refine SameRegs.writeReg (SameRegs.of_eq hself rfl rfl) ?_)
    | (simp [destRegs]; done)
    | dsimp only

theorem home_strel {d_ a_ b_ : Nat} {a : Activation} {s0 s1 : State} (hc : s0.cur? = some a) (hg : a.flow.gang = none)
    (hx : exec (.strel d_ a_ b_) s0 = .next s1) : StaysHome (destRegs (.strel d_ a_ b_)) a s0 s1 := by
  have h : execStrel d_ a_ b_ s0 = .next s1 := hx
  clear hx
  unfold execStrel at h
  have hself : SameRegs (destRegs (.strel d_ a_ b_)) a s0.cur := by rw [State.cur, hc]; exact SameRegs.refl _ _
  have h0 : StaysHome (destRegs (.strel d_ a_ b_)) a s0 s0 := StaysHome.refl hc
  refine StaysHome.dispatch hc hg ?_ h
  clear h
  unfold ringBody
  repeat' first
    | with_reducible exact h0
    | with_reducible exact hself
    | with_reducible exact hc
    | (with_reducible first | exact Att.holds_stall | exact Att.holds_trap | apply Att.holds_sendable | apply Att.holds_orderly | apply Att.holds_sendReady | apply Att.holds_xQuiet | apply Att.holds_need | apply Att.holds_check | apply Att.holds_capCheck | apply Att.holds_guardHints | apply Att.holds_guardPriv | apply Att.holds_guardCluster | apply Att.holds_aBody | apply Att.holds_regBody | apply Att.holds_orderStore | apply Att.holds_releaseWait | apply Att.holds_decides | apply Att.holds_replyCheck | apply Att.holds_guard | apply Att.holds_ok | apply Att.holds_stay | apply Att.holds_waits)
    | (with_reducible refine Att.holds_popSdq (fun _ _ _ => ?_))
    | (with_reducible refine Att.holds_parkedCheck (fun _ => ?_))
    | (with_reducible first | apply StaysHome.setCur | apply StaysHome.setCurCore | apply StaysHome.emitAcc | apply StaysHome.wcFlush | apply StaysHome.jumpTo | apply StaysHome.endAct | apply StaysHome.enqueueOut | apply StaysHome.setMatrix | apply StaysHome.setChain | apply StaysHome.setGrammar | apply StaysHome.setRun | apply StaysHome.resumeRun | apply StaysHome.performEng | apply StaysHome.endChain | apply StaysHome.copyResume | apply StaysHome.pulse | apply StaysHome.releaseMacros | apply StaysHome.trapAt | apply StaysHome.setCluster | apply StaysHome.countTaken | apply StaysHome.serveSteal | apply StaysHome.send | apply StaysHome.takeId | apply StaysHome.accs | apply StaysHome.traceJump | apply StaysHome.issueBody | apply StaysHome.matrixBody)
    | (with_reducible first | apply SameRegs.writeRange | apply SameRegs.writeReg | apply SameRegs.awaitReg | apply SameRegs.setReg | apply SameRegs.setLdq)
    | exact SameRegs.popRecord hself ‹_›
    | exact (And.right ‹_ ∧ _›)
    | split
    | rfl
    | exact SameRegs.of_eq hself rfl rfl
    | (refine SameRegs.of_eq (SameRegs.awaitReg hself ?_) rfl rfl)
    | (refine SameRegs.of_eq (SameRegs.setReg (SameRegs.setReg hself ?_) ?_) rfl rfl)
    | (refine SameRegs.writeReg (SameRegs.of_eq hself rfl rfl) ?_)
    | (simp [destRegs]; done)
    | dsimp only

theorem home_dqpush {a_ b_ : Nat} {a : Activation} {s0 s1 : State} (hc : s0.cur? = some a) (hg : a.flow.gang = none)
    (hx : exec (.dqpush a_ b_) s0 = .next s1) : StaysHome (destRegs (.dqpush a_ b_)) a s0 s1 := by
  have h : execDqpush a_ b_ s0 = .next s1 := hx
  clear hx
  unfold execDqpush at h
  have hself : SameRegs (destRegs (.dqpush a_ b_)) a s0.cur := by rw [State.cur, hc]; exact SameRegs.refl _ _
  have h0 : StaysHome (destRegs (.dqpush a_ b_)) a s0 s0 := StaysHome.refl hc
  refine StaysHome.dispatch hc hg ?_ h
  clear h
  repeat' first
    | with_reducible exact h0
    | with_reducible exact hself
    | with_reducible exact hc
    | (with_reducible first | exact Att.holds_stall | exact Att.holds_trap | apply Att.holds_sendable | apply Att.holds_orderly | apply Att.holds_sendReady | apply Att.holds_xQuiet | apply Att.holds_need | apply Att.holds_check | apply Att.holds_capCheck | apply Att.holds_guardHints | apply Att.holds_guardPriv | apply Att.holds_guardCluster | apply Att.holds_aBody | apply Att.holds_regBody | apply Att.holds_orderStore | apply Att.holds_releaseWait | apply Att.holds_decides | apply Att.holds_replyCheck | apply Att.holds_guard | apply Att.holds_ok | apply Att.holds_stay | apply Att.holds_waits)
    | (with_reducible refine Att.holds_popSdq (fun _ _ _ => ?_))
    | (with_reducible refine Att.holds_parkedCheck (fun _ => ?_))
    | (with_reducible first | apply StaysHome.setCur | apply StaysHome.setCurCore | apply StaysHome.emitAcc | apply StaysHome.wcFlush | apply StaysHome.jumpTo | apply StaysHome.endAct | apply StaysHome.enqueueOut | apply StaysHome.setMatrix | apply StaysHome.setChain | apply StaysHome.setGrammar | apply StaysHome.setRun | apply StaysHome.resumeRun | apply StaysHome.performEng | apply StaysHome.endChain | apply StaysHome.copyResume | apply StaysHome.pulse | apply StaysHome.releaseMacros | apply StaysHome.trapAt | apply StaysHome.setCluster | apply StaysHome.countTaken | apply StaysHome.serveSteal | apply StaysHome.send | apply StaysHome.takeId | apply StaysHome.accs | apply StaysHome.traceJump | apply StaysHome.issueBody | apply StaysHome.matrixBody)
    | (with_reducible first | apply SameRegs.writeRange | apply SameRegs.writeReg | apply SameRegs.awaitReg | apply SameRegs.setReg | apply SameRegs.setLdq)
    | exact SameRegs.popRecord hself ‹_›
    | exact (And.right ‹_ ∧ _›)
    | split
    | rfl
    | exact SameRegs.of_eq hself rfl rfl
    | (refine SameRegs.of_eq (SameRegs.awaitReg hself ?_) rfl rfl)
    | (refine SameRegs.of_eq (SameRegs.setReg (SameRegs.setReg hself ?_) ?_) rfl rfl)
    | (refine SameRegs.writeReg (SameRegs.of_eq hself rfl rfl) ?_)
    | (simp [destRegs]; done)
    | dsimp only

theorem home_dqpop {d_ : Nat} {a : Activation} {s0 s1 : State} (hc : s0.cur? = some a) (hg : a.flow.gang = none)
    (hx : exec (.dqpop d_) s0 = .next s1) : StaysHome (destRegs (.dqpop d_)) a s0 s1 := by
  have h : execDqpop d_ s0 = .next s1 := hx
  clear hx
  unfold execDqpop at h
  have hself : SameRegs (destRegs (.dqpop d_)) a s0.cur := by rw [State.cur, hc]; exact SameRegs.refl _ _
  have h0 : StaysHome (destRegs (.dqpop d_)) a s0 s0 := StaysHome.refl hc
  refine StaysHome.dispatch hc hg ?_ h
  clear h
  repeat' first
    | with_reducible exact h0
    | with_reducible exact hself
    | with_reducible exact hc
    | (with_reducible first | exact Att.holds_stall | exact Att.holds_trap | apply Att.holds_sendable | apply Att.holds_orderly | apply Att.holds_sendReady | apply Att.holds_xQuiet | apply Att.holds_need | apply Att.holds_check | apply Att.holds_capCheck | apply Att.holds_guardHints | apply Att.holds_guardPriv | apply Att.holds_guardCluster | apply Att.holds_aBody | apply Att.holds_regBody | apply Att.holds_orderStore | apply Att.holds_releaseWait | apply Att.holds_decides | apply Att.holds_replyCheck | apply Att.holds_guard | apply Att.holds_ok | apply Att.holds_stay | apply Att.holds_waits)
    | (with_reducible refine Att.holds_popSdq (fun _ _ _ => ?_))
    | (with_reducible refine Att.holds_parkedCheck (fun _ => ?_))
    | (with_reducible first | apply StaysHome.setCur | apply StaysHome.setCurCore | apply StaysHome.emitAcc | apply StaysHome.wcFlush | apply StaysHome.jumpTo | apply StaysHome.endAct | apply StaysHome.enqueueOut | apply StaysHome.setMatrix | apply StaysHome.setChain | apply StaysHome.setGrammar | apply StaysHome.setRun | apply StaysHome.resumeRun | apply StaysHome.performEng | apply StaysHome.endChain | apply StaysHome.copyResume | apply StaysHome.pulse | apply StaysHome.releaseMacros | apply StaysHome.trapAt | apply StaysHome.setCluster | apply StaysHome.countTaken | apply StaysHome.serveSteal | apply StaysHome.send | apply StaysHome.takeId | apply StaysHome.accs | apply StaysHome.traceJump | apply StaysHome.issueBody | apply StaysHome.matrixBody)
    | (with_reducible first | apply SameRegs.writeRange | apply SameRegs.writeReg | apply SameRegs.awaitReg | apply SameRegs.setReg | apply SameRegs.setLdq)
    | exact SameRegs.popRecord hself ‹_›
    | exact (And.right ‹_ ∧ _›)
    | split
    | rfl
    | exact SameRegs.of_eq hself rfl rfl
    | (refine SameRegs.of_eq (SameRegs.awaitReg hself ?_) rfl rfl)
    | (refine SameRegs.of_eq (SameRegs.setReg (SameRegs.setReg hself ?_) ?_) rfl rfl)
    | (refine SameRegs.writeReg (SameRegs.of_eq hself rfl rfl) ?_)
    | (simp [destRegs]; done)
    | dsimp only

theorem home_dqsplit {a : Activation} {s0 s1 : State} (hc : s0.cur? = some a) (hg : a.flow.gang = none)
    (hx : exec (.dqsplit) s0 = .next s1) : StaysHome (destRegs (.dqsplit)) a s0 s1 := by
  have h : execDqsplit  s0 = .next s1 := hx
  clear hx
  unfold execDqsplit at h
  have hself : SameRegs (destRegs (.dqsplit)) a s0.cur := by rw [State.cur, hc]; exact SameRegs.refl _ _
  have h0 : StaysHome (destRegs (.dqsplit)) a s0 s0 := StaysHome.refl hc
  refine StaysHome.dispatch hc hg ?_ h
  clear h
  repeat' first
    | with_reducible exact h0
    | with_reducible exact hself
    | with_reducible exact hc
    | (with_reducible first | exact Att.holds_stall | exact Att.holds_trap | apply Att.holds_sendable | apply Att.holds_orderly | apply Att.holds_sendReady | apply Att.holds_xQuiet | apply Att.holds_need | apply Att.holds_check | apply Att.holds_capCheck | apply Att.holds_guardHints | apply Att.holds_guardPriv | apply Att.holds_guardCluster | apply Att.holds_aBody | apply Att.holds_regBody | apply Att.holds_orderStore | apply Att.holds_releaseWait | apply Att.holds_decides | apply Att.holds_replyCheck | apply Att.holds_guard | apply Att.holds_ok | apply Att.holds_stay | apply Att.holds_waits)
    | (with_reducible refine Att.holds_popSdq (fun _ _ _ => ?_))
    | (with_reducible refine Att.holds_parkedCheck (fun _ => ?_))
    | (with_reducible first | apply StaysHome.setCur | apply StaysHome.setCurCore | apply StaysHome.emitAcc | apply StaysHome.wcFlush | apply StaysHome.jumpTo | apply StaysHome.endAct | apply StaysHome.enqueueOut | apply StaysHome.setMatrix | apply StaysHome.setChain | apply StaysHome.setGrammar | apply StaysHome.setRun | apply StaysHome.resumeRun | apply StaysHome.performEng | apply StaysHome.endChain | apply StaysHome.copyResume | apply StaysHome.pulse | apply StaysHome.releaseMacros | apply StaysHome.trapAt | apply StaysHome.setCluster | apply StaysHome.countTaken | apply StaysHome.serveSteal | apply StaysHome.send | apply StaysHome.takeId | apply StaysHome.accs | apply StaysHome.traceJump | apply StaysHome.issueBody | apply StaysHome.matrixBody)
    | (with_reducible first | apply SameRegs.writeRange | apply SameRegs.writeReg | apply SameRegs.awaitReg | apply SameRegs.setReg | apply SameRegs.setLdq)
    | exact SameRegs.popRecord hself ‹_›
    | exact (And.right ‹_ ∧ _›)
    | split
    | rfl
    | exact SameRegs.of_eq hself rfl rfl
    | (refine SameRegs.of_eq (SameRegs.awaitReg hself ?_) rfl rfl)
    | (refine SameRegs.of_eq (SameRegs.setReg (SameRegs.setReg hself ?_) ?_) rfl rfl)
    | (refine SameRegs.writeReg (SameRegs.of_eq hself rfl rfl) ?_)
    | (simp [destRegs]; done)
    | dsimp only

theorem home_dqsteal {d_ a_ : Nat} {a : Activation} {s0 s1 : State} (hc : s0.cur? = some a) (hg : a.flow.gang = none)
    (hx : exec (.dqsteal d_ a_) s0 = .next s1) : StaysHome (destRegs (.dqsteal d_ a_)) a s0 s1 := by
  have h : execDqsteal d_ a_ s0 = .next s1 := hx
  clear hx
  unfold execDqsteal at h
  have hself : SameRegs (destRegs (.dqsteal d_ a_)) a s0.cur := by rw [State.cur, hc]; exact SameRegs.refl _ _
  have h0 : StaysHome (destRegs (.dqsteal d_ a_)) a s0 s0 := StaysHome.refl hc
  refine StaysHome.dispatch hc hg ?_ h
  clear h
  repeat' first
    | with_reducible exact h0
    | with_reducible exact hself
    | with_reducible exact hc
    | (with_reducible first | exact Att.holds_stall | exact Att.holds_trap | apply Att.holds_sendable | apply Att.holds_orderly | apply Att.holds_sendReady | apply Att.holds_xQuiet | apply Att.holds_need | apply Att.holds_check | apply Att.holds_capCheck | apply Att.holds_guardHints | apply Att.holds_guardPriv | apply Att.holds_guardCluster | apply Att.holds_aBody | apply Att.holds_regBody | apply Att.holds_orderStore | apply Att.holds_releaseWait | apply Att.holds_decides | apply Att.holds_replyCheck | apply Att.holds_guard | apply Att.holds_ok | apply Att.holds_stay | apply Att.holds_waits)
    | (with_reducible refine Att.holds_popSdq (fun _ _ _ => ?_))
    | (with_reducible refine Att.holds_parkedCheck (fun _ => ?_))
    | (with_reducible first | apply StaysHome.setCur | apply StaysHome.setCurCore | apply StaysHome.emitAcc | apply StaysHome.wcFlush | apply StaysHome.jumpTo | apply StaysHome.endAct | apply StaysHome.enqueueOut | apply StaysHome.setMatrix | apply StaysHome.setChain | apply StaysHome.setGrammar | apply StaysHome.setRun | apply StaysHome.resumeRun | apply StaysHome.performEng | apply StaysHome.endChain | apply StaysHome.copyResume | apply StaysHome.pulse | apply StaysHome.releaseMacros | apply StaysHome.trapAt | apply StaysHome.setCluster | apply StaysHome.countTaken | apply StaysHome.serveSteal | apply StaysHome.send | apply StaysHome.takeId | apply StaysHome.accs | apply StaysHome.traceJump | apply StaysHome.issueBody | apply StaysHome.matrixBody)
    | (with_reducible first | apply SameRegs.writeRange | apply SameRegs.writeReg | apply SameRegs.awaitReg | apply SameRegs.setReg | apply SameRegs.setLdq)
    | exact SameRegs.popRecord hself ‹_›
    | exact (And.right ‹_ ∧ _›)
    | split
    | rfl
    | exact SameRegs.of_eq hself rfl rfl
    | (refine SameRegs.of_eq (SameRegs.awaitReg hself ?_) rfl rfl)
    | (refine SameRegs.of_eq (SameRegs.setReg (SameRegs.setReg hself ?_) ?_) rfl rfl)
    | (refine SameRegs.writeReg (SameRegs.of_eq hself rfl rfl) ?_)
    | (simp [destRegs]; done)
    | dsimp only

theorem home_tlwait {a_ x_ : Nat} {a : Activation} {s0 s1 : State} (hc : s0.cur? = some a) (hg : a.flow.gang = none)
    (hx : exec (.tlwait a_ x_) s0 = .next s1) : StaysHome (destRegs (.tlwait a_ x_)) a s0 s1 := by
  have h : execTlwait a_ x_ s0 = .next s1 := hx
  clear hx
  unfold execTlwait at h
  have hself : SameRegs (destRegs (.tlwait a_ x_)) a s0.cur := by rw [State.cur, hc]; exact SameRegs.refl _ _
  have h0 : StaysHome (destRegs (.tlwait a_ x_)) a s0 s0 := StaysHome.refl hc
  refine StaysHome.dispatch hc hg ?_ h
  clear h
  repeat' first
    | with_reducible exact h0
    | with_reducible exact hself
    | with_reducible exact hc
    | (with_reducible first | exact Att.holds_stall | exact Att.holds_trap | apply Att.holds_sendable | apply Att.holds_orderly | apply Att.holds_sendReady | apply Att.holds_xQuiet | apply Att.holds_need | apply Att.holds_check | apply Att.holds_capCheck | apply Att.holds_guardHints | apply Att.holds_guardPriv | apply Att.holds_guardCluster | apply Att.holds_aBody | apply Att.holds_regBody | apply Att.holds_orderStore | apply Att.holds_releaseWait | apply Att.holds_decides | apply Att.holds_replyCheck | apply Att.holds_guard | apply Att.holds_ok | apply Att.holds_stay | apply Att.holds_waits)
    | (with_reducible refine Att.holds_popSdq (fun _ _ _ => ?_))
    | (with_reducible refine Att.holds_parkedCheck (fun _ => ?_))
    | (with_reducible first | apply StaysHome.setCur | apply StaysHome.setCurCore | apply StaysHome.emitAcc | apply StaysHome.wcFlush | apply StaysHome.jumpTo | apply StaysHome.endAct | apply StaysHome.enqueueOut | apply StaysHome.setMatrix | apply StaysHome.setChain | apply StaysHome.setGrammar | apply StaysHome.setRun | apply StaysHome.resumeRun | apply StaysHome.performEng | apply StaysHome.endChain | apply StaysHome.copyResume | apply StaysHome.pulse | apply StaysHome.releaseMacros | apply StaysHome.trapAt | apply StaysHome.setCluster | apply StaysHome.countTaken | apply StaysHome.serveSteal | apply StaysHome.send | apply StaysHome.takeId | apply StaysHome.accs | apply StaysHome.traceJump | apply StaysHome.issueBody | apply StaysHome.matrixBody)
    | (with_reducible first | apply SameRegs.writeRange | apply SameRegs.writeReg | apply SameRegs.awaitReg | apply SameRegs.setReg | apply SameRegs.setLdq)
    | exact SameRegs.popRecord hself ‹_›
    | exact (And.right ‹_ ∧ _›)
    | split
    | rfl
    | exact SameRegs.of_eq hself rfl rfl
    | (refine SameRegs.of_eq (SameRegs.awaitReg hself ?_) rfl rfl)
    | (refine SameRegs.of_eq (SameRegs.setReg (SameRegs.setReg hself ?_) ?_) rfl rfl)
    | (refine SameRegs.writeReg (SameRegs.of_eq hself rfl rfl) ?_)
    | (simp [destRegs]; done)
    | dsimp only

theorem home_tlread {d_ sg_ x_ : Nat} {a : Activation} {s0 s1 : State} (hc : s0.cur? = some a) (hg : a.flow.gang = none)
    (hx : exec (.tlread d_ sg_ x_) s0 = .next s1) : StaysHome (destRegs (.tlread d_ sg_ x_)) a s0 s1 := by
  have h : execTlread d_ sg_ x_ s0 = .next s1 := hx
  clear hx
  unfold execTlread at h
  have hself : SameRegs (destRegs (.tlread d_ sg_ x_)) a s0.cur := by rw [State.cur, hc]; exact SameRegs.refl _ _
  have h0 : StaysHome (destRegs (.tlread d_ sg_ x_)) a s0 s0 := StaysHome.refl hc
  refine StaysHome.dispatch hc hg ?_ h
  clear h
  repeat' first
    | with_reducible exact h0
    | with_reducible exact hself
    | with_reducible exact hc
    | (with_reducible first | exact Att.holds_stall | exact Att.holds_trap | apply Att.holds_sendable | apply Att.holds_orderly | apply Att.holds_sendReady | apply Att.holds_xQuiet | apply Att.holds_need | apply Att.holds_check | apply Att.holds_capCheck | apply Att.holds_guardHints | apply Att.holds_guardPriv | apply Att.holds_guardCluster | apply Att.holds_aBody | apply Att.holds_regBody | apply Att.holds_orderStore | apply Att.holds_releaseWait | apply Att.holds_decides | apply Att.holds_replyCheck | apply Att.holds_guard | apply Att.holds_ok | apply Att.holds_stay | apply Att.holds_waits)
    | (with_reducible refine Att.holds_popSdq (fun _ _ _ => ?_))
    | (with_reducible refine Att.holds_parkedCheck (fun _ => ?_))
    | (with_reducible first | apply StaysHome.setCur | apply StaysHome.setCurCore | apply StaysHome.emitAcc | apply StaysHome.wcFlush | apply StaysHome.jumpTo | apply StaysHome.endAct | apply StaysHome.enqueueOut | apply StaysHome.setMatrix | apply StaysHome.setChain | apply StaysHome.setGrammar | apply StaysHome.setRun | apply StaysHome.resumeRun | apply StaysHome.performEng | apply StaysHome.endChain | apply StaysHome.copyResume | apply StaysHome.pulse | apply StaysHome.releaseMacros | apply StaysHome.trapAt | apply StaysHome.setCluster | apply StaysHome.countTaken | apply StaysHome.serveSteal | apply StaysHome.send | apply StaysHome.takeId | apply StaysHome.accs | apply StaysHome.traceJump | apply StaysHome.issueBody | apply StaysHome.matrixBody)
    | (with_reducible first | apply SameRegs.writeRange | apply SameRegs.writeReg | apply SameRegs.awaitReg | apply SameRegs.setReg | apply SameRegs.setLdq)
    | exact SameRegs.popRecord hself ‹_›
    | exact (And.right ‹_ ∧ _›)
    | split
    | rfl
    | exact SameRegs.of_eq hself rfl rfl
    | (refine SameRegs.of_eq (SameRegs.awaitReg hself ?_) rfl rfl)
    | (refine SameRegs.of_eq (SameRegs.setReg (SameRegs.setReg hself ?_) ?_) rfl rfl)
    | (refine SameRegs.writeReg (SameRegs.of_eq hself rfl rfl) ?_)
    | (simp [destRegs]; done)
    | dsimp only

theorem home_evsig {p_ l_ : Nat} {a : Activation} {s0 s1 : State} (hc : s0.cur? = some a) (hg : a.flow.gang = none)
    (hx : exec (.evsig p_ l_) s0 = .next s1) : StaysHome (destRegs (.evsig p_ l_)) a s0 s1 := by
  have h : execEvsig p_ l_ s0 = .next s1 := hx
  clear hx
  unfold execEvsig at h
  have hself : SameRegs (destRegs (.evsig p_ l_)) a s0.cur := by rw [State.cur, hc]; exact SameRegs.refl _ _
  have h0 : StaysHome (destRegs (.evsig p_ l_)) a s0 s0 := StaysHome.refl hc
  refine StaysHome.dispatch hc hg ?_ h
  clear h
  repeat' first
    | with_reducible exact h0
    | with_reducible exact hself
    | with_reducible exact hc
    | (with_reducible first | exact Att.holds_stall | exact Att.holds_trap | apply Att.holds_sendable | apply Att.holds_orderly | apply Att.holds_sendReady | apply Att.holds_xQuiet | apply Att.holds_need | apply Att.holds_check | apply Att.holds_capCheck | apply Att.holds_guardHints | apply Att.holds_guardPriv | apply Att.holds_guardCluster | apply Att.holds_aBody | apply Att.holds_regBody | apply Att.holds_orderStore | apply Att.holds_releaseWait | apply Att.holds_decides | apply Att.holds_replyCheck | apply Att.holds_guard | apply Att.holds_ok | apply Att.holds_stay | apply Att.holds_waits)
    | (with_reducible refine Att.holds_popSdq (fun _ _ _ => ?_))
    | (with_reducible refine Att.holds_parkedCheck (fun _ => ?_))
    | (with_reducible first | apply StaysHome.setCur | apply StaysHome.setCurCore | apply StaysHome.emitAcc | apply StaysHome.wcFlush | apply StaysHome.jumpTo | apply StaysHome.endAct | apply StaysHome.enqueueOut | apply StaysHome.setMatrix | apply StaysHome.setChain | apply StaysHome.setGrammar | apply StaysHome.setRun | apply StaysHome.resumeRun | apply StaysHome.performEng | apply StaysHome.endChain | apply StaysHome.copyResume | apply StaysHome.pulse | apply StaysHome.releaseMacros | apply StaysHome.trapAt | apply StaysHome.setCluster | apply StaysHome.countTaken | apply StaysHome.serveSteal | apply StaysHome.send | apply StaysHome.takeId | apply StaysHome.accs | apply StaysHome.traceJump | apply StaysHome.issueBody | apply StaysHome.matrixBody)
    | (with_reducible first | apply SameRegs.writeRange | apply SameRegs.writeReg | apply SameRegs.awaitReg | apply SameRegs.setReg | apply SameRegs.setLdq)
    | exact SameRegs.popRecord hself ‹_›
    | exact (And.right ‹_ ∧ _›)
    | split
    | rfl
    | exact SameRegs.of_eq hself rfl rfl
    | (refine SameRegs.of_eq (SameRegs.awaitReg hself ?_) rfl rfl)
    | (refine SameRegs.of_eq (SameRegs.setReg (SameRegs.setReg hself ?_) ?_) rfl rfl)
    | (refine SameRegs.writeReg (SameRegs.of_eq hself rfl rfl) ?_)
    | (simp [destRegs]; done)
    | dsimp only

theorem home_eretEnd {a : Activation} {s0 s1 : State} (hc : s0.cur? = some a) (hg : a.flow.gang = none)
    (hx : exec (.eretEnd) s0 = .next s1) : StaysHome (destRegs (.eretEnd)) a s0 s1 := by
  have h : execEretEnd  s0 = .next s1 := hx
  clear hx
  unfold execEretEnd at h
  have hself : SameRegs (destRegs (.eretEnd)) a s0.cur := by rw [State.cur, hc]; exact SameRegs.refl _ _
  have h0 : StaysHome (destRegs (.eretEnd)) a s0 s0 := StaysHome.refl hc
  refine StaysHome.dispatch hc hg ?_ h
  clear h
  unfold eretBody
  repeat' first
    | with_reducible exact h0
    | with_reducible exact hself
    | with_reducible exact hc
    | (with_reducible first | exact Att.holds_stall | exact Att.holds_trap | apply Att.holds_sendable | apply Att.holds_orderly | apply Att.holds_sendReady | apply Att.holds_xQuiet | apply Att.holds_need | apply Att.holds_check | apply Att.holds_capCheck | apply Att.holds_guardHints | apply Att.holds_guardPriv | apply Att.holds_guardCluster | apply Att.holds_aBody | apply Att.holds_regBody | apply Att.holds_orderStore | apply Att.holds_releaseWait | apply Att.holds_decides | apply Att.holds_replyCheck | apply Att.holds_guard | apply Att.holds_ok | apply Att.holds_stay | apply Att.holds_waits)
    | (with_reducible refine Att.holds_popSdq (fun _ _ _ => ?_))
    | (with_reducible refine Att.holds_parkedCheck (fun _ => ?_))
    | (with_reducible first | apply StaysHome.setCur | apply StaysHome.setCurCore | apply StaysHome.emitAcc | apply StaysHome.wcFlush | apply StaysHome.jumpTo | apply StaysHome.endAct | apply StaysHome.enqueueOut | apply StaysHome.setMatrix | apply StaysHome.setChain | apply StaysHome.setGrammar | apply StaysHome.setRun | apply StaysHome.resumeRun | apply StaysHome.performEng | apply StaysHome.endChain | apply StaysHome.copyResume | apply StaysHome.pulse | apply StaysHome.releaseMacros | apply StaysHome.trapAt | apply StaysHome.setCluster | apply StaysHome.countTaken | apply StaysHome.serveSteal | apply StaysHome.send | apply StaysHome.takeId | apply StaysHome.accs | apply StaysHome.traceJump | apply StaysHome.issueBody | apply StaysHome.matrixBody)
    | (with_reducible first | apply SameRegs.writeRange | apply SameRegs.writeReg | apply SameRegs.awaitReg | apply SameRegs.setReg | apply SameRegs.setLdq)
    | exact SameRegs.popRecord hself ‹_›
    | exact (And.right ‹_ ∧ _›)
    | split
    | rfl
    | exact SameRegs.of_eq hself rfl rfl
    | (refine SameRegs.of_eq (SameRegs.awaitReg hself ?_) rfl rfl)
    | (refine SameRegs.of_eq (SameRegs.setReg (SameRegs.setReg hself ?_) ?_) rfl rfl)
    | (refine SameRegs.writeReg (SameRegs.of_eq hself rfl rfl) ?_)
    | (simp [destRegs]; done)
    | dsimp only

theorem home_wfi {a : Activation} {s0 s1 : State} (hc : s0.cur? = some a) (hg : a.flow.gang = none)
    (hx : exec (.wfi) s0 = .next s1) : StaysHome (destRegs (.wfi)) a s0 s1 := by
  have h : execWfi  s0 = .next s1 := hx
  clear hx
  unfold execWfi at h
  have hself : SameRegs (destRegs (.wfi)) a s0.cur := by rw [State.cur, hc]; exact SameRegs.refl _ _
  have h0 : StaysHome (destRegs (.wfi)) a s0 s0 := StaysHome.refl hc
  refine StaysHome.dispatch hc hg ?_ h
  clear h
  repeat' first
    | with_reducible exact h0
    | with_reducible exact hself
    | with_reducible exact hc
    | (with_reducible first | exact Att.holds_stall | exact Att.holds_trap | apply Att.holds_sendable | apply Att.holds_orderly | apply Att.holds_sendReady | apply Att.holds_xQuiet | apply Att.holds_need | apply Att.holds_check | apply Att.holds_capCheck | apply Att.holds_guardHints | apply Att.holds_guardPriv | apply Att.holds_guardCluster | apply Att.holds_aBody | apply Att.holds_regBody | apply Att.holds_orderStore | apply Att.holds_releaseWait | apply Att.holds_decides | apply Att.holds_replyCheck | apply Att.holds_guard | apply Att.holds_ok | apply Att.holds_stay | apply Att.holds_waits)
    | (with_reducible refine Att.holds_popSdq (fun _ _ _ => ?_))
    | (with_reducible refine Att.holds_parkedCheck (fun _ => ?_))
    | (with_reducible first | apply StaysHome.setCur | apply StaysHome.setCurCore | apply StaysHome.emitAcc | apply StaysHome.wcFlush | apply StaysHome.jumpTo | apply StaysHome.endAct | apply StaysHome.enqueueOut | apply StaysHome.setMatrix | apply StaysHome.setChain | apply StaysHome.setGrammar | apply StaysHome.setRun | apply StaysHome.resumeRun | apply StaysHome.performEng | apply StaysHome.endChain | apply StaysHome.copyResume | apply StaysHome.pulse | apply StaysHome.releaseMacros | apply StaysHome.trapAt | apply StaysHome.setCluster | apply StaysHome.countTaken | apply StaysHome.serveSteal | apply StaysHome.send | apply StaysHome.takeId | apply StaysHome.accs | apply StaysHome.traceJump | apply StaysHome.issueBody | apply StaysHome.matrixBody)
    | (with_reducible first | apply SameRegs.writeRange | apply SameRegs.writeReg | apply SameRegs.awaitReg | apply SameRegs.setReg | apply SameRegs.setLdq)
    | exact SameRegs.popRecord hself ‹_›
    | exact (And.right ‹_ ∧ _›)
    | split
    | rfl
    | exact SameRegs.of_eq hself rfl rfl
    | (refine SameRegs.of_eq (SameRegs.awaitReg hself ?_) rfl rfl)
    | (refine SameRegs.of_eq (SameRegs.setReg (SameRegs.setReg hself ?_) ?_) rfl rfl)
    | (refine SameRegs.writeReg (SameRegs.of_eq hself rfl rfl) ?_)
    | (simp [destRegs]; done)
    | dsimp only

theorem home_nop {a : Activation} {s0 s1 : State} (hc : s0.cur? = some a) (hg : a.flow.gang = none)
    (hx : exec (.nop) s0 = .next s1) : StaysHome (destRegs (.nop)) a s0 s1 := by
  have h : execNop  s0 = .next s1 := hx
  clear hx
  unfold execNop at h
  have hself : SameRegs (destRegs (.nop)) a s0.cur := by rw [State.cur, hc]; exact SameRegs.refl _ _
  have h0 : StaysHome (destRegs (.nop)) a s0 s0 := StaysHome.refl hc
  refine StaysHome.dispatch hc hg ?_ h
  clear h
  repeat' first
    | with_reducible exact h0
    | with_reducible exact hself
    | with_reducible exact hc
    | (with_reducible first | exact Att.holds_stall | exact Att.holds_trap | apply Att.holds_sendable | apply Att.holds_orderly | apply Att.holds_sendReady | apply Att.holds_xQuiet | apply Att.holds_need | apply Att.holds_check | apply Att.holds_capCheck | apply Att.holds_guardHints | apply Att.holds_guardPriv | apply Att.holds_guardCluster | apply Att.holds_aBody | apply Att.holds_regBody | apply Att.holds_orderStore | apply Att.holds_releaseWait | apply Att.holds_decides | apply Att.holds_replyCheck | apply Att.holds_guard | apply Att.holds_ok | apply Att.holds_stay | apply Att.holds_waits)
    | (with_reducible refine Att.holds_popSdq (fun _ _ _ => ?_))
    | (with_reducible refine Att.holds_parkedCheck (fun _ => ?_))
    | (with_reducible first | apply StaysHome.setCur | apply StaysHome.setCurCore | apply StaysHome.emitAcc | apply StaysHome.wcFlush | apply StaysHome.jumpTo | apply StaysHome.endAct | apply StaysHome.enqueueOut | apply StaysHome.setMatrix | apply StaysHome.setChain | apply StaysHome.setGrammar | apply StaysHome.setRun | apply StaysHome.resumeRun | apply StaysHome.performEng | apply StaysHome.endChain | apply StaysHome.copyResume | apply StaysHome.pulse | apply StaysHome.releaseMacros | apply StaysHome.trapAt | apply StaysHome.setCluster | apply StaysHome.countTaken | apply StaysHome.serveSteal | apply StaysHome.send | apply StaysHome.takeId | apply StaysHome.accs | apply StaysHome.traceJump | apply StaysHome.issueBody | apply StaysHome.matrixBody)
    | (with_reducible first | apply SameRegs.writeRange | apply SameRegs.writeReg | apply SameRegs.awaitReg | apply SameRegs.setReg | apply SameRegs.setLdq)
    | exact SameRegs.popRecord hself ‹_›
    | exact (And.right ‹_ ∧ _›)
    | split
    | rfl
    | exact SameRegs.of_eq hself rfl rfl
    | (refine SameRegs.of_eq (SameRegs.awaitReg hself ?_) rfl rfl)
    | (refine SameRegs.of_eq (SameRegs.setReg (SameRegs.setReg hself ?_) ?_) rfl rfl)
    | (refine SameRegs.writeReg (SameRegs.of_eq hself rfl rfl) ?_)
    | (simp [destRegs]; done)
    | dsimp only

theorem home_himm {v_ : Nat} {a : Activation} {s0 s1 : State} (hc : s0.cur? = some a) (hg : a.flow.gang = none)
    (hx : exec (.himm v_) s0 = .next s1) : StaysHome (destRegs (.himm v_)) a s0 s1 := by
  exact home_hint hc hg hx

theorem home_hwid {a_ b_ sg_ t_ : Nat} {a : Activation} {s0 s1 : State} (hc : s0.cur? = some a) (hg : a.flow.gang = none)
    (hx : exec (.hwid a_ b_ sg_ t_) s0 = .next s1) : StaysHome (destRegs (.hwid a_ b_ sg_ t_)) a s0 s1 := by
  exact home_hint hc hg hx

theorem home_hmod {m_ sg_ : Nat} {a : Activation} {s0 s1 : State} (hc : s0.cur? = some a) (hg : a.flow.gang = none)
    (hx : exec (.hmod m_ sg_) s0 = .next s1) : StaysHome (destRegs (.hmod m_ sg_)) a s0 s1 := by
  exact home_hint hc hg hx

theorem home_hyld {a : Activation} {s0 s1 : State} (hc : s0.cur? = some a) (hg : a.flow.gang = none)
    (hx : exec (.hyld) s0 = .next s1) : StaysHome (destRegs (.hyld)) a s0 s1 := by
  exact home_hint hc hg hx

theorem home_macq {a_ k_ : Nat} {a : Activation} {s0 s1 : State} (hc : s0.cur? = some a) (hg : a.flow.gang = none)
    (hx : exec (.macq a_ k_) s0 = .next s1) : StaysHome (destRegs (.macq a_ k_)) a s0 s1 := by
  have h : execMacq a_ k_ s0 = .next s1 := hx
  clear hx
  unfold execMacq at h
  dsimp only at h
  have hself : SameRegs (destRegs (.macq a_ k_)) a s0.cur := by rw [State.cur, hc]; exact SameRegs.refl _ _
  have h0 : StaysHome (destRegs (.macq a_ k_)) a s0 s0 := StaysHome.refl hc
  refine StaysHome.dispatch hc hg ?_ h
  clear h
  repeat' first
    | with_reducible exact h0
    | with_reducible exact hself
    | with_reducible exact hc
    | (with_reducible first | exact Att.holds_stall | exact Att.holds_trap | apply Att.holds_sendable | apply Att.holds_orderly | apply Att.holds_sendReady | apply Att.holds_xQuiet | apply Att.holds_need | apply Att.holds_check | apply Att.holds_capCheck | apply Att.holds_guardHints | apply Att.holds_guardPriv | apply Att.holds_guardCluster | apply Att.holds_aBody | apply Att.holds_regBody | apply Att.holds_orderStore | apply Att.holds_releaseWait | apply Att.holds_decides | apply Att.holds_replyCheck | apply Att.holds_guard | apply Att.holds_ok | apply Att.holds_stay | apply Att.holds_waits)
    | (with_reducible refine Att.holds_popSdq (fun _ _ _ => ?_))
    | (with_reducible refine Att.holds_parkedCheck (fun _ => ?_))
    | (with_reducible first | apply StaysHome.setCur | apply StaysHome.setCurCore | apply StaysHome.emitAcc | apply StaysHome.wcFlush | apply StaysHome.jumpTo | apply StaysHome.endAct | apply StaysHome.enqueueOut | apply StaysHome.setMatrix | apply StaysHome.setChain | apply StaysHome.setGrammar | apply StaysHome.setRun | apply StaysHome.resumeRun | apply StaysHome.performEng | apply StaysHome.endChain | apply StaysHome.copyResume | apply StaysHome.pulse | apply StaysHome.releaseMacros | apply StaysHome.trapAt | apply StaysHome.setCluster | apply StaysHome.countTaken | apply StaysHome.serveSteal | apply StaysHome.send | apply StaysHome.takeId | apply StaysHome.accs | apply StaysHome.traceJump | apply StaysHome.issueBody | apply StaysHome.matrixBody)
    | (with_reducible first | apply SameRegs.writeRange | apply SameRegs.writeReg | apply SameRegs.awaitReg | apply SameRegs.setReg | apply SameRegs.setLdq)
    | exact SameRegs.popRecord hself ‹_›
    | exact (And.right ‹_ ∧ _›)
    | split
    | rfl
    | exact SameRegs.of_eq hself rfl rfl
    | (refine SameRegs.of_eq (SameRegs.awaitReg hself ?_) rfl rfl)
    | (refine SameRegs.of_eq (SameRegs.setReg (SameRegs.setReg hself ?_) ?_) rfl rfl)
    | (refine SameRegs.writeReg (SameRegs.of_eq hself rfl rfl) ?_)
    | (simp [destRegs]; done)
    | dsimp only

theorem home_mrel {a_ k_ : Nat} {a : Activation} {s0 s1 : State} (hc : s0.cur? = some a) (hg : a.flow.gang = none)
    (hx : exec (.mrel a_ k_) s0 = .next s1) : StaysHome (destRegs (.mrel a_ k_)) a s0 s1 := by
  have h : execMrel a_ k_ s0 = .next s1 := hx
  clear hx
  unfold execMrel at h
  dsimp only at h
  have hself : SameRegs (destRegs (.mrel a_ k_)) a s0.cur := by rw [State.cur, hc]; exact SameRegs.refl _ _
  have h0 : StaysHome (destRegs (.mrel a_ k_)) a s0 s0 := StaysHome.refl hc
  refine StaysHome.dispatch hc hg ?_ h
  clear h
  repeat' first
    | with_reducible exact h0
    | with_reducible exact hself
    | with_reducible exact hc
    | (with_reducible first | exact Att.holds_stall | exact Att.holds_trap | apply Att.holds_sendable | apply Att.holds_orderly | apply Att.holds_sendReady | apply Att.holds_xQuiet | apply Att.holds_need | apply Att.holds_check | apply Att.holds_capCheck | apply Att.holds_guardHints | apply Att.holds_guardPriv | apply Att.holds_guardCluster | apply Att.holds_aBody | apply Att.holds_regBody | apply Att.holds_orderStore | apply Att.holds_releaseWait | apply Att.holds_decides | apply Att.holds_replyCheck | apply Att.holds_guard | apply Att.holds_ok | apply Att.holds_stay | apply Att.holds_waits)
    | (with_reducible refine Att.holds_popSdq (fun _ _ _ => ?_))
    | (with_reducible refine Att.holds_parkedCheck (fun _ => ?_))
    | (with_reducible first | apply StaysHome.setCur | apply StaysHome.setCurCore | apply StaysHome.emitAcc | apply StaysHome.wcFlush | apply StaysHome.jumpTo | apply StaysHome.endAct | apply StaysHome.enqueueOut | apply StaysHome.setMatrix | apply StaysHome.setChain | apply StaysHome.setGrammar | apply StaysHome.setRun | apply StaysHome.resumeRun | apply StaysHome.performEng | apply StaysHome.endChain | apply StaysHome.copyResume | apply StaysHome.pulse | apply StaysHome.releaseMacros | apply StaysHome.trapAt | apply StaysHome.setCluster | apply StaysHome.countTaken | apply StaysHome.serveSteal | apply StaysHome.send | apply StaysHome.takeId | apply StaysHome.accs | apply StaysHome.traceJump | apply StaysHome.issueBody | apply StaysHome.matrixBody)
    | (with_reducible first | apply SameRegs.writeRange | apply SameRegs.writeReg | apply SameRegs.awaitReg | apply SameRegs.setReg | apply SameRegs.setLdq)
    | exact SameRegs.popRecord hself ‹_›
    | exact (And.right ‹_ ∧ _›)
    | split
    | rfl
    | exact SameRegs.of_eq hself rfl rfl
    | (refine SameRegs.of_eq (SameRegs.awaitReg hself ?_) rfl rfl)
    | (refine SameRegs.of_eq (SameRegs.setReg (SameRegs.setReg hself ?_) ?_) rfl rfl)
    | (refine SameRegs.writeReg (SameRegs.of_eq hself rfl rfl) ?_)
    | (simp [destRegs]; done)
    | dsimp only

theorem home_mrelRes {a_ k_ : Nat} {a : Activation} {s0 s1 : State} (hc : s0.cur? = some a) (hg : a.flow.gang = none)
    (hx : exec (.mrelRes a_ k_) s0 = .next s1) : StaysHome (destRegs (.mrelRes a_ k_)) a s0 s1 := by
  have h : execMrelRes a_ k_ s0 = .next s1 := hx
  clear hx
  unfold execMrelRes at h
  dsimp only at h
  have hself : SameRegs (destRegs (.mrelRes a_ k_)) a s0.cur := by rw [State.cur, hc]; exact SameRegs.refl _ _
  have h0 : StaysHome (destRegs (.mrelRes a_ k_)) a s0 s0 := StaysHome.refl hc
  refine StaysHome.dispatch hc hg ?_ h
  clear h
  repeat' first
    | with_reducible exact h0
    | with_reducible exact hself
    | with_reducible exact hc
    | (with_reducible first | exact Att.holds_stall | exact Att.holds_trap | apply Att.holds_sendable | apply Att.holds_orderly | apply Att.holds_sendReady | apply Att.holds_xQuiet | apply Att.holds_need | apply Att.holds_check | apply Att.holds_capCheck | apply Att.holds_guardHints | apply Att.holds_guardPriv | apply Att.holds_guardCluster | apply Att.holds_aBody | apply Att.holds_regBody | apply Att.holds_orderStore | apply Att.holds_releaseWait | apply Att.holds_decides | apply Att.holds_replyCheck | apply Att.holds_guard | apply Att.holds_ok | apply Att.holds_stay | apply Att.holds_waits)
    | (with_reducible refine Att.holds_popSdq (fun _ _ _ => ?_))
    | (with_reducible refine Att.holds_parkedCheck (fun _ => ?_))
    | (with_reducible first | apply StaysHome.setCur | apply StaysHome.setCurCore | apply StaysHome.emitAcc | apply StaysHome.wcFlush | apply StaysHome.jumpTo | apply StaysHome.endAct | apply StaysHome.enqueueOut | apply StaysHome.setMatrix | apply StaysHome.setChain | apply StaysHome.setGrammar | apply StaysHome.setRun | apply StaysHome.resumeRun | apply StaysHome.performEng | apply StaysHome.endChain | apply StaysHome.copyResume | apply StaysHome.pulse | apply StaysHome.releaseMacros | apply StaysHome.trapAt | apply StaysHome.setCluster | apply StaysHome.countTaken | apply StaysHome.serveSteal | apply StaysHome.send | apply StaysHome.takeId | apply StaysHome.accs | apply StaysHome.traceJump | apply StaysHome.issueBody | apply StaysHome.matrixBody)
    | (with_reducible first | apply SameRegs.writeRange | apply SameRegs.writeReg | apply SameRegs.awaitReg | apply SameRegs.setReg | apply SameRegs.setLdq)
    | exact SameRegs.popRecord hself ‹_›
    | exact (And.right ‹_ ∧ _›)
    | split
    | rfl
    | exact SameRegs.of_eq hself rfl rfl
    | (refine SameRegs.of_eq (SameRegs.awaitReg hself ?_) rfl rfl)
    | (refine SameRegs.of_eq (SameRegs.setReg (SameRegs.setReg hself ?_) ?_) rfl rfl)
    | (refine SameRegs.writeReg (SameRegs.of_eq hself rfl rfl) ?_)
    | (simp [destRegs]; done)
    | dsimp only

theorem home_mrelAbn {a_ k_ : Nat} {a : Activation} {s0 s1 : State} (hc : s0.cur? = some a) (hg : a.flow.gang = none)
    (hx : exec (.mrelAbn a_ k_) s0 = .next s1) : StaysHome (destRegs (.mrelAbn a_ k_)) a s0 s1 := by
  have h : execMrelAbn a_ k_ s0 = .next s1 := hx
  clear hx
  unfold execMrelAbn at h
  dsimp only at h
  have hself : SameRegs (destRegs (.mrelAbn a_ k_)) a s0.cur := by rw [State.cur, hc]; exact SameRegs.refl _ _
  have h0 : StaysHome (destRegs (.mrelAbn a_ k_)) a s0 s0 := StaysHome.refl hc
  refine StaysHome.dispatch hc hg ?_ h
  clear h
  repeat' first
    | with_reducible exact h0
    | with_reducible exact hself
    | with_reducible exact hc
    | (with_reducible first | exact Att.holds_stall | exact Att.holds_trap | apply Att.holds_sendable | apply Att.holds_orderly | apply Att.holds_sendReady | apply Att.holds_xQuiet | apply Att.holds_need | apply Att.holds_check | apply Att.holds_capCheck | apply Att.holds_guardHints | apply Att.holds_guardPriv | apply Att.holds_guardCluster | apply Att.holds_aBody | apply Att.holds_regBody | apply Att.holds_orderStore | apply Att.holds_releaseWait | apply Att.holds_decides | apply Att.holds_replyCheck | apply Att.holds_guard | apply Att.holds_ok | apply Att.holds_stay | apply Att.holds_waits)
    | (with_reducible refine Att.holds_popSdq (fun _ _ _ => ?_))
    | (with_reducible refine Att.holds_parkedCheck (fun _ => ?_))
    | (with_reducible first | apply StaysHome.setCur | apply StaysHome.setCurCore | apply StaysHome.emitAcc | apply StaysHome.wcFlush | apply StaysHome.jumpTo | apply StaysHome.endAct | apply StaysHome.enqueueOut | apply StaysHome.setMatrix | apply StaysHome.setChain | apply StaysHome.setGrammar | apply StaysHome.setRun | apply StaysHome.resumeRun | apply StaysHome.performEng | apply StaysHome.endChain | apply StaysHome.copyResume | apply StaysHome.pulse | apply StaysHome.releaseMacros | apply StaysHome.trapAt | apply StaysHome.setCluster | apply StaysHome.countTaken | apply StaysHome.serveSteal | apply StaysHome.send | apply StaysHome.takeId | apply StaysHome.accs | apply StaysHome.traceJump | apply StaysHome.issueBody | apply StaysHome.matrixBody)
    | (with_reducible first | apply SameRegs.writeRange | apply SameRegs.writeReg | apply SameRegs.awaitReg | apply SameRegs.setReg | apply SameRegs.setLdq)
    | exact SameRegs.popRecord hself ‹_›
    | exact (And.right ‹_ ∧ _›)
    | split
    | rfl
    | exact SameRegs.of_eq hself rfl rfl
    | (refine SameRegs.of_eq (SameRegs.awaitReg hself ?_) rfl rfl)
    | (refine SameRegs.of_eq (SameRegs.setReg (SameRegs.setReg hself ?_) ?_) rfl rfl)
    | (refine SameRegs.writeReg (SameRegs.of_eq hself rfl rfl) ?_)
    | (simp [destRegs]; done)
    | dsimp only

theorem home_mldb {d_ a_ b_ m_ k_ : Nat} {a : Activation} {s0 s1 : State} (hc : s0.cur? = some a) (hg : a.flow.gang = none)
    (hx : exec (.mldb d_ a_ b_ m_ k_) s0 = .next s1) : StaysHome (destRegs (.mldb d_ a_ b_ m_ k_)) a s0 s1 := by
  have h : execMldb d_ a_ b_ m_ k_ s0 = .next s1 := hx
  clear hx
  unfold execMldb at h
  exact StaysHome.dispatch hc hg (StaysHome.matrixBody hc (by simp [destRegs])) h

theorem home_mspec {d_ a_ b_ m_ k_ : Nat} {a : Activation} {s0 s1 : State} (hc : s0.cur? = some a) (hg : a.flow.gang = none)
    (hx : exec (.mspec d_ a_ b_ m_ k_) s0 = .next s1) : StaysHome (destRegs (.mspec d_ a_ b_ m_ k_)) a s0 s1 := by
  have h : execMspec d_ a_ b_ m_ k_ s0 = .next s1 := hx
  clear hx
  unfold execMspec at h
  exact StaysHome.dispatch hc hg (StaysHome.matrixBody hc (by simp [destRegs])) h

theorem home_mzero {d_ a_ m_ k_ : Nat} {a : Activation} {s0 s1 : State} (hc : s0.cur? = some a) (hg : a.flow.gang = none)
    (hx : exec (.mzero d_ a_ m_ k_) s0 = .next s1) : StaysHome (destRegs (.mzero d_ a_ m_ k_)) a s0 s1 := by
  have h : execMzero d_ a_ m_ k_ s0 = .next s1 := hx
  clear hx
  unfold execMzero at h
  exact StaysHome.dispatch hc hg (StaysHome.matrixBody hc (by simp [destRegs])) h

theorem home_mma {d_ a_ b_ m_ k_ : Nat} {a : Activation} {s0 s1 : State} (hc : s0.cur? = some a) (hg : a.flow.gang = none)
    (hx : exec (.mma d_ a_ b_ m_ k_) s0 = .next s1) : StaysHome (destRegs (.mma d_ a_ b_ m_ k_)) a s0 s1 := by
  have h : execMma d_ a_ b_ m_ k_ s0 = .next s1 := hx
  clear hx
  unfold execMma at h
  exact StaysHome.dispatch hc hg (StaysHome.matrixBody hc (by simp [destRegs])) h

theorem home_lnscfg {k_ : Nat} {a : Activation} {s0 s1 : State} (hc : s0.cur? = some a) (hg : a.flow.gang = none)
    (hx : exec (.lnscfg k_) s0 = .next s1) : StaysHome (destRegs (.lnscfg k_)) a s0 s1 := by
  have h : execLnscfg k_ s0 = .next s1 := hx
  clear hx
  unfold execLnscfg at h
  dsimp only at h
  have hself : SameRegs (destRegs (.lnscfg k_)) a s0.cur := by rw [State.cur, hc]; exact SameRegs.refl _ _
  have h0 : StaysHome (destRegs (.lnscfg k_)) a s0 s0 := StaysHome.refl hc
  refine StaysHome.dispatch hc hg ?_ h
  clear h
  repeat' first
    | with_reducible exact h0
    | with_reducible exact hself
    | with_reducible exact hc
    | (with_reducible first | exact Att.holds_stall | exact Att.holds_trap | apply Att.holds_sendable | apply Att.holds_orderly | apply Att.holds_sendReady | apply Att.holds_xQuiet | apply Att.holds_need | apply Att.holds_check | apply Att.holds_capCheck | apply Att.holds_guardHints | apply Att.holds_guardPriv | apply Att.holds_guardCluster | apply Att.holds_aBody | apply Att.holds_regBody | apply Att.holds_orderStore | apply Att.holds_releaseWait | apply Att.holds_decides | apply Att.holds_replyCheck | apply Att.holds_guard | apply Att.holds_ok | apply Att.holds_stay | apply Att.holds_waits)
    | (with_reducible refine Att.holds_popSdq (fun _ _ _ => ?_))
    | (with_reducible refine Att.holds_parkedCheck (fun _ => ?_))
    | (with_reducible first | apply StaysHome.setCur | apply StaysHome.setCurCore | apply StaysHome.emitAcc | apply StaysHome.wcFlush | apply StaysHome.jumpTo | apply StaysHome.endAct | apply StaysHome.enqueueOut | apply StaysHome.setMatrix | apply StaysHome.setChain | apply StaysHome.setGrammar | apply StaysHome.setRun | apply StaysHome.resumeRun | apply StaysHome.performEng | apply StaysHome.endChain | apply StaysHome.copyResume | apply StaysHome.pulse | apply StaysHome.releaseMacros | apply StaysHome.trapAt | apply StaysHome.setCluster | apply StaysHome.countTaken | apply StaysHome.serveSteal | apply StaysHome.send | apply StaysHome.takeId | apply StaysHome.accs | apply StaysHome.traceJump | apply StaysHome.issueBody | apply StaysHome.matrixBody)
    | (with_reducible first | apply SameRegs.writeRange | apply SameRegs.writeReg | apply SameRegs.awaitReg | apply SameRegs.setReg | apply SameRegs.setLdq)
    | exact SameRegs.popRecord hself ‹_›
    | exact (And.right ‹_ ∧ _›)
    | split
    | rfl
    | exact SameRegs.of_eq hself rfl rfl
    | (refine SameRegs.of_eq (SameRegs.awaitReg hself ?_) rfl rfl)
    | (refine SameRegs.of_eq (SameRegs.setReg (SameRegs.setReg hself ?_) ?_) rfl rfl)
    | (refine SameRegs.writeReg (SameRegs.of_eq hself rfl rfl) ?_)
    | (simp [destRegs]; done)
    | dsimp only

theorem home_mmas {d_ a_ b_ m_ k_ : Nat} {a : Activation} {s0 s1 : State} (hc : s0.cur? = some a) (hg : a.flow.gang = none)
    (hx : exec (.mmas d_ a_ b_ m_ k_) s0 = .next s1) : StaysHome (destRegs (.mmas d_ a_ b_ m_ k_)) a s0 s1 := by
  have h : execMmas d_ a_ b_ m_ k_ s0 = .next s1 := hx
  clear hx
  unfold execMmas at h
  exact StaysHome.dispatch hc hg (StaysHome.matrixBody hc (by simp [destRegs])) h

theorem home_mrd {q_ a_ k_ : Nat} {a : Activation} {s0 s1 : State} (hc : s0.cur? = some a) (hg : a.flow.gang = none)
    (hx : exec (.mrd q_ a_ k_) s0 = .next s1) : StaysHome (destRegs (.mrd q_ a_ k_)) a s0 s1 := by
  have h : execMrd q_ a_ k_ s0 = .next s1 := hx
  clear hx
  unfold execMrd at h
  have hself : SameRegs (destRegs (.mrd q_ a_ k_)) a s0.cur := by rw [State.cur, hc]; exact SameRegs.refl _ _
  have h0 : StaysHome (destRegs (.mrd q_ a_ k_)) a s0 s0 := StaysHome.refl hc
  refine StaysHome.dispatch hc hg ?_ h
  clear h
  unfold mrdBody
  repeat' first
    | with_reducible exact h0
    | with_reducible exact hself
    | with_reducible exact hc
    | (with_reducible first | exact Att.holds_stall | exact Att.holds_trap | apply Att.holds_sendable | apply Att.holds_orderly | apply Att.holds_sendReady | apply Att.holds_xQuiet | apply Att.holds_need | apply Att.holds_check | apply Att.holds_capCheck | apply Att.holds_guardHints | apply Att.holds_guardPriv | apply Att.holds_guardCluster | apply Att.holds_aBody | apply Att.holds_regBody | apply Att.holds_orderStore | apply Att.holds_releaseWait | apply Att.holds_decides | apply Att.holds_replyCheck | apply Att.holds_guard | apply Att.holds_ok | apply Att.holds_stay | apply Att.holds_waits)
    | (with_reducible refine Att.holds_popSdq (fun _ _ _ => ?_))
    | (with_reducible refine Att.holds_parkedCheck (fun _ => ?_))
    | (with_reducible first | apply StaysHome.setCur | apply StaysHome.setCurCore | apply StaysHome.emitAcc | apply StaysHome.wcFlush | apply StaysHome.jumpTo | apply StaysHome.endAct | apply StaysHome.enqueueOut | apply StaysHome.setMatrix | apply StaysHome.setChain | apply StaysHome.setGrammar | apply StaysHome.setRun | apply StaysHome.resumeRun | apply StaysHome.performEng | apply StaysHome.endChain | apply StaysHome.copyResume | apply StaysHome.pulse | apply StaysHome.releaseMacros | apply StaysHome.trapAt | apply StaysHome.setCluster | apply StaysHome.countTaken | apply StaysHome.serveSteal | apply StaysHome.send | apply StaysHome.takeId | apply StaysHome.accs | apply StaysHome.traceJump | apply StaysHome.issueBody | apply StaysHome.matrixBody)
    | (with_reducible first | apply SameRegs.writeRange | apply SameRegs.writeReg | apply SameRegs.awaitReg | apply SameRegs.setReg | apply SameRegs.setLdq)
    | exact SameRegs.popRecord hself ‹_›
    | exact (And.right ‹_ ∧ _›)
    | split
    | rfl
    | exact SameRegs.of_eq hself rfl rfl
    | (refine SameRegs.of_eq (SameRegs.awaitReg hself ?_) rfl rfl)
    | (refine SameRegs.of_eq (SameRegs.setReg (SameRegs.setReg hself ?_) ?_) rfl rfl)
    | (refine SameRegs.writeReg (SameRegs.of_eq hself rfl rfl) ?_)
    | (simp [destRegs]; done)
    | dsimp only

theorem home_mrdFlg {q_ a_ k_ : Nat} {a : Activation} {s0 s1 : State} (hc : s0.cur? = some a) (hg : a.flow.gang = none)
    (hx : exec (.mrdFlg q_ a_ k_) s0 = .next s1) : StaysHome (destRegs (.mrdFlg q_ a_ k_)) a s0 s1 := by
  have h : execMrdFlg q_ a_ k_ s0 = .next s1 := hx
  clear hx
  unfold execMrdFlg at h
  have hself : SameRegs (destRegs (.mrdFlg q_ a_ k_)) a s0.cur := by rw [State.cur, hc]; exact SameRegs.refl _ _
  have h0 : StaysHome (destRegs (.mrdFlg q_ a_ k_)) a s0 s0 := StaysHome.refl hc
  refine StaysHome.dispatch hc hg ?_ h
  clear h
  unfold mrdBody
  repeat' first
    | with_reducible exact h0
    | with_reducible exact hself
    | with_reducible exact hc
    | (with_reducible first | exact Att.holds_stall | exact Att.holds_trap | apply Att.holds_sendable | apply Att.holds_orderly | apply Att.holds_sendReady | apply Att.holds_xQuiet | apply Att.holds_need | apply Att.holds_check | apply Att.holds_capCheck | apply Att.holds_guardHints | apply Att.holds_guardPriv | apply Att.holds_guardCluster | apply Att.holds_aBody | apply Att.holds_regBody | apply Att.holds_orderStore | apply Att.holds_releaseWait | apply Att.holds_decides | apply Att.holds_replyCheck | apply Att.holds_guard | apply Att.holds_ok | apply Att.holds_stay | apply Att.holds_waits)
    | (with_reducible refine Att.holds_popSdq (fun _ _ _ => ?_))
    | (with_reducible refine Att.holds_parkedCheck (fun _ => ?_))
    | (with_reducible first | apply StaysHome.setCur | apply StaysHome.setCurCore | apply StaysHome.emitAcc | apply StaysHome.wcFlush | apply StaysHome.jumpTo | apply StaysHome.endAct | apply StaysHome.enqueueOut | apply StaysHome.setMatrix | apply StaysHome.setChain | apply StaysHome.setGrammar | apply StaysHome.setRun | apply StaysHome.resumeRun | apply StaysHome.performEng | apply StaysHome.endChain | apply StaysHome.copyResume | apply StaysHome.pulse | apply StaysHome.releaseMacros | apply StaysHome.trapAt | apply StaysHome.setCluster | apply StaysHome.countTaken | apply StaysHome.serveSteal | apply StaysHome.send | apply StaysHome.takeId | apply StaysHome.accs | apply StaysHome.traceJump | apply StaysHome.issueBody | apply StaysHome.matrixBody)
    | (with_reducible first | apply SameRegs.writeRange | apply SameRegs.writeReg | apply SameRegs.awaitReg | apply SameRegs.setReg | apply SameRegs.setLdq)
    | exact SameRegs.popRecord hself ‹_›
    | exact (And.right ‹_ ∧ _›)
    | split
    | rfl
    | exact SameRegs.of_eq hself rfl rfl
    | (refine SameRegs.of_eq (SameRegs.awaitReg hself ?_) rfl rfl)
    | (refine SameRegs.of_eq (SameRegs.setReg (SameRegs.setReg hself ?_) ?_) rfl rfl)
    | (refine SameRegs.writeReg (SameRegs.of_eq hself rfl rfl) ?_)
    | (simp [destRegs]; done)
    | dsimp only

theorem home_mcopy {d_ a_ b_ m_ k_ : Nat} {a : Activation} {s0 s1 : State} (hc : s0.cur? = some a) (hg : a.flow.gang = none)
    (hx : exec (.mcopy d_ a_ b_ m_ k_) s0 = .next s1) : StaysHome (destRegs (.mcopy d_ a_ b_ m_ k_)) a s0 s1 := by
  have h : execMcopy d_ a_ b_ m_ k_ s0 = .next s1 := hx
  clear hx
  unfold execMcopy at h
  exact StaysHome.dispatch hc hg (StaysHome.matrixBody hc (by simp [destRegs])) h

theorem home_chbond {a_ r_ k_ : Nat} {a : Activation} {s0 s1 : State} (hc : s0.cur? = some a) (hg : a.flow.gang = none)
    (hx : exec (.chbond a_ r_ k_) s0 = .next s1) : StaysHome (destRegs (.chbond a_ r_ k_)) a s0 s1 := by
  have h : execChbond a_ r_ k_ s0 = .next s1 := hx
  clear hx
  unfold execChbond at h
  have hself : SameRegs (destRegs (.chbond a_ r_ k_)) a s0.cur := by rw [State.cur, hc]; exact SameRegs.refl _ _
  have h0 : StaysHome (destRegs (.chbond a_ r_ k_)) a s0 s0 := StaysHome.refl hc
  refine StaysHome.dispatch hc hg ?_ h
  clear h
  unfold chainBody
  repeat' first
    | with_reducible exact h0
    | with_reducible exact hself
    | with_reducible exact hc
    | (with_reducible first | exact Att.holds_stall | exact Att.holds_trap | apply Att.holds_sendable | apply Att.holds_orderly | apply Att.holds_sendReady | apply Att.holds_xQuiet | apply Att.holds_need | apply Att.holds_check | apply Att.holds_capCheck | apply Att.holds_guardHints | apply Att.holds_guardPriv | apply Att.holds_guardCluster | apply Att.holds_aBody | apply Att.holds_regBody | apply Att.holds_orderStore | apply Att.holds_releaseWait | apply Att.holds_decides | apply Att.holds_replyCheck | apply Att.holds_guard | apply Att.holds_ok | apply Att.holds_stay | apply Att.holds_waits)
    | (with_reducible refine Att.holds_popSdq (fun _ _ _ => ?_))
    | (with_reducible refine Att.holds_parkedCheck (fun _ => ?_))
    | (with_reducible first | apply StaysHome.setCur | apply StaysHome.setCurCore | apply StaysHome.emitAcc | apply StaysHome.wcFlush | apply StaysHome.jumpTo | apply StaysHome.endAct | apply StaysHome.enqueueOut | apply StaysHome.setMatrix | apply StaysHome.setChain | apply StaysHome.setGrammar | apply StaysHome.setRun | apply StaysHome.resumeRun | apply StaysHome.performEng | apply StaysHome.endChain | apply StaysHome.copyResume | apply StaysHome.pulse | apply StaysHome.releaseMacros | apply StaysHome.trapAt | apply StaysHome.setCluster | apply StaysHome.countTaken | apply StaysHome.serveSteal | apply StaysHome.send | apply StaysHome.takeId | apply StaysHome.accs | apply StaysHome.traceJump | apply StaysHome.issueBody | apply StaysHome.matrixBody)
    | (with_reducible first | apply SameRegs.writeRange | apply SameRegs.writeReg | apply SameRegs.awaitReg | apply SameRegs.setReg | apply SameRegs.setLdq)
    | exact SameRegs.popRecord hself ‹_›
    | exact (And.right ‹_ ∧ _›)
    | split
    | rfl
    | exact SameRegs.of_eq hself rfl rfl
    | (refine SameRegs.of_eq (SameRegs.awaitReg hself ?_) rfl rfl)
    | (refine SameRegs.of_eq (SameRegs.setReg (SameRegs.setReg hself ?_) ?_) rfl rfl)
    | (refine SameRegs.writeReg (SameRegs.of_eq hself rfl rfl) ?_)
    | (simp [destRegs]; done)
    | dsimp only

theorem home_chprog {a_ b_ k_ : Nat} {a : Activation} {s0 s1 : State} (hc : s0.cur? = some a) (hg : a.flow.gang = none)
    (hx : exec (.chprog a_ b_ k_) s0 = .next s1) : StaysHome (destRegs (.chprog a_ b_ k_)) a s0 s1 := by
  have h : execChprog a_ b_ k_ s0 = .next s1 := hx
  clear hx
  unfold execChprog at h
  have hself : SameRegs (destRegs (.chprog a_ b_ k_)) a s0.cur := by rw [State.cur, hc]; exact SameRegs.refl _ _
  have h0 : StaysHome (destRegs (.chprog a_ b_ k_)) a s0 s0 := StaysHome.refl hc
  refine StaysHome.dispatch hc hg ?_ h
  clear h
  unfold chainBody
  repeat' first
    | with_reducible exact h0
    | with_reducible exact hself
    | with_reducible exact hc
    | (with_reducible first | exact Att.holds_stall | exact Att.holds_trap | apply Att.holds_sendable | apply Att.holds_orderly | apply Att.holds_sendReady | apply Att.holds_xQuiet | apply Att.holds_need | apply Att.holds_check | apply Att.holds_capCheck | apply Att.holds_guardHints | apply Att.holds_guardPriv | apply Att.holds_guardCluster | apply Att.holds_aBody | apply Att.holds_regBody | apply Att.holds_orderStore | apply Att.holds_releaseWait | apply Att.holds_decides | apply Att.holds_replyCheck | apply Att.holds_guard | apply Att.holds_ok | apply Att.holds_stay | apply Att.holds_waits)
    | (with_reducible refine Att.holds_popSdq (fun _ _ _ => ?_))
    | (with_reducible refine Att.holds_parkedCheck (fun _ => ?_))
    | (with_reducible first | apply StaysHome.setCur | apply StaysHome.setCurCore | apply StaysHome.emitAcc | apply StaysHome.wcFlush | apply StaysHome.jumpTo | apply StaysHome.endAct | apply StaysHome.enqueueOut | apply StaysHome.setMatrix | apply StaysHome.setChain | apply StaysHome.setGrammar | apply StaysHome.setRun | apply StaysHome.resumeRun | apply StaysHome.performEng | apply StaysHome.endChain | apply StaysHome.copyResume | apply StaysHome.pulse | apply StaysHome.releaseMacros | apply StaysHome.trapAt | apply StaysHome.setCluster | apply StaysHome.countTaken | apply StaysHome.serveSteal | apply StaysHome.send | apply StaysHome.takeId | apply StaysHome.accs | apply StaysHome.traceJump | apply StaysHome.issueBody | apply StaysHome.matrixBody)
    | (with_reducible first | apply SameRegs.writeRange | apply SameRegs.writeReg | apply SameRegs.awaitReg | apply SameRegs.setReg | apply SameRegs.setLdq)
    | exact SameRegs.popRecord hself ‹_›
    | exact (And.right ‹_ ∧ _›)
    | split
    | rfl
    | exact SameRegs.of_eq hself rfl rfl
    | (refine SameRegs.of_eq (SameRegs.awaitReg hself ?_) rfl rfl)
    | (refine SameRegs.of_eq (SameRegs.setReg (SameRegs.setReg hself ?_) ?_) rfl rfl)
    | (refine SameRegs.writeReg (SameRegs.of_eq hself rfl rfl) ?_)
    | (simp [destRegs]; done)
    | dsimp only

theorem home_chprogKeep {a_ b_ k_ : Nat} {a : Activation} {s0 s1 : State} (hc : s0.cur? = some a) (hg : a.flow.gang = none)
    (hx : exec (.chprogKeep a_ b_ k_) s0 = .next s1) : StaysHome (destRegs (.chprogKeep a_ b_ k_)) a s0 s1 := by
  have h : execChprogKeep a_ b_ k_ s0 = .next s1 := hx
  clear hx
  unfold execChprogKeep at h
  have h0 : StaysHome (destRegs (.chprogKeep a_ b_ k_)) a s0 s0 := StaysHome.refl hc
  have h1 := h0.sendFault (id := chainId k_) rfl
  exact StaysHome.dispatch hc hg (Att.holds_chainBody (Att.holds_guard (Att.holds_ok (h1.setChain h1.clu)))) h

theorem home_chrunStart {d_ m_ k_ : Nat} {a : Activation} {s0 s1 : State} (hc : s0.cur? = some a) (hg : a.flow.gang = none)
    (hx : exec (.chrunStart d_ m_ k_) s0 = .next s1) : StaysHome (destRegs (.chrunStart d_ m_ k_)) a s0 s1 := by
  have h : execChrunStart d_ m_ k_ s0 = .next s1 := hx
  clear hx
  unfold execChrunStart at h
  have hself : SameRegs (destRegs (.chrunStart d_ m_ k_)) a s0.cur := by rw [State.cur, hc]; exact SameRegs.refl _ _
  refine StaysHome.dispatch hc hg (Att.holds_chainBody ?_) h
  refine Att.holds_check (StaysHome.issueBody hc hself ?_)
  simp [destRegs]

theorem home_chrunResume {a_ k_ : Nat} {a : Activation} {s0 s1 : State} (hc : s0.cur? = some a) (hg : a.flow.gang = none)
    (hx : exec (.chrunResume a_ k_) s0 = .next s1) : StaysHome (destRegs (.chrunResume a_ k_)) a s0 s1 := by
  have h : execChrunResume a_ k_ s0 = .next s1 := hx
  clear hx
  unfold execChrunResume at h
  have h0 : StaysHome (destRegs (.chrunResume a_ k_)) a s0 s0 := StaysHome.refl hc
  have h1 := h0.sendFault (id := chainId k_) rfl
  exact StaysHome.dispatch hc hg (Att.holds_chainBody (Att.holds_parkedCheck (fun _ => Att.holds_ok (h1.resumeRun h1.clu)))) h

theorem home_chrunAbn {a_ k_ : Nat} {a : Activation} {s0 s1 : State} (hc : s0.cur? = some a) (hg : a.flow.gang = none)
    (hx : exec (.chrunAbn a_ k_) s0 = .next s1) : StaysHome (destRegs (.chrunAbn a_ k_)) a s0 s1 := by
  have h : execChrunAbn a_ k_ s0 = .next s1 := hx
  clear hx
  unfold execChrunAbn at h
  have h0 : StaysHome (destRegs (.chrunAbn a_ k_)) a s0 s0 := StaysHome.refl hc
  have h1 := h0.sendFault (id := chainId k_) rfl
  exact StaysHome.dispatch hc hg (Att.holds_chainBody (Att.holds_parkedCheck (fun _ => Att.holds_ok (h1.endChain h1.clu)))) h

theorem home_chstat {d_ sg_ k_ : Nat} {a : Activation} {s0 s1 : State} (hc : s0.cur? = some a) (hg : a.flow.gang = none)
    (hx : exec (.chstat d_ sg_ k_) s0 = .next s1) : StaysHome (destRegs (.chstat d_ sg_ k_)) a s0 s1 := by
  have h : execChstat d_ sg_ k_ s0 = .next s1 := hx
  clear hx
  unfold execChstat at h
  have hself : SameRegs (destRegs (.chstat d_ sg_ k_)) a s0.cur := by rw [State.cur, hc]; exact SameRegs.refl _ _
  have h0 : StaysHome (destRegs (.chstat d_ sg_ k_)) a s0 s0 := StaysHome.refl hc
  refine StaysHome.dispatch hc hg ?_ h
  clear h
  repeat' first
    | with_reducible exact h0
    | with_reducible exact hself
    | with_reducible exact hc
    | (with_reducible first | exact Att.holds_stall | exact Att.holds_trap | apply Att.holds_sendable | apply Att.holds_orderly | apply Att.holds_sendReady | apply Att.holds_xQuiet | apply Att.holds_need | apply Att.holds_check | apply Att.holds_capCheck | apply Att.holds_guardHints | apply Att.holds_guardPriv | apply Att.holds_guardCluster | apply Att.holds_aBody | apply Att.holds_regBody | apply Att.holds_orderStore | apply Att.holds_releaseWait | apply Att.holds_decides | apply Att.holds_replyCheck | apply Att.holds_guard | apply Att.holds_ok | apply Att.holds_stay | apply Att.holds_waits)
    | (with_reducible refine Att.holds_popSdq (fun _ _ _ => ?_))
    | (with_reducible refine Att.holds_parkedCheck (fun _ => ?_))
    | (with_reducible first | apply StaysHome.setCur | apply StaysHome.setCurCore | apply StaysHome.emitAcc | apply StaysHome.wcFlush | apply StaysHome.jumpTo | apply StaysHome.endAct | apply StaysHome.enqueueOut | apply StaysHome.setMatrix | apply StaysHome.setChain | apply StaysHome.setGrammar | apply StaysHome.setRun | apply StaysHome.resumeRun | apply StaysHome.performEng | apply StaysHome.endChain | apply StaysHome.copyResume | apply StaysHome.pulse | apply StaysHome.releaseMacros | apply StaysHome.trapAt | apply StaysHome.setCluster | apply StaysHome.countTaken | apply StaysHome.serveSteal | apply StaysHome.send | apply StaysHome.takeId | apply StaysHome.accs | apply StaysHome.traceJump | apply StaysHome.issueBody | apply StaysHome.matrixBody)
    | (with_reducible first | apply SameRegs.writeRange | apply SameRegs.writeReg | apply SameRegs.awaitReg | apply SameRegs.setReg | apply SameRegs.setLdq)
    | exact SameRegs.popRecord hself ‹_›
    | exact (And.right ‹_ ∧ _›)
    | split
    | rfl
    | exact SameRegs.of_eq hself rfl rfl
    | (refine SameRegs.of_eq (SameRegs.awaitReg hself ?_) rfl rfl)
    | (refine SameRegs.of_eq (SameRegs.setReg (SameRegs.setReg hself ?_) ?_) rfl rfl)
    | (refine SameRegs.writeReg (SameRegs.of_eq hself rfl rfl) ?_)
    | (simp [destRegs]; done)
    | dsimp only

theorem home_chgrad {a_ b_ k_ : Nat} {a : Activation} {s0 s1 : State} (hc : s0.cur? = some a) (hg : a.flow.gang = none)
    (hx : exec (.chgrad a_ b_ k_) s0 = .next s1) : StaysHome (destRegs (.chgrad a_ b_ k_)) a s0 s1 := by
  have h : execChgrad a_ b_ k_ s0 = .next s1 := hx
  clear hx
  unfold execChgrad at h
  have hself : SameRegs (destRegs (.chgrad a_ b_ k_)) a s0.cur := by rw [State.cur, hc]; exact SameRegs.refl _ _
  have h0 : StaysHome (destRegs (.chgrad a_ b_ k_)) a s0 s0 := StaysHome.refl hc
  refine StaysHome.dispatch hc hg ?_ h
  clear h
  unfold chainBody
  repeat' first
    | with_reducible exact h0
    | with_reducible exact hself
    | with_reducible exact hc
    | (with_reducible first | exact Att.holds_stall | exact Att.holds_trap | apply Att.holds_sendable | apply Att.holds_orderly | apply Att.holds_sendReady | apply Att.holds_xQuiet | apply Att.holds_need | apply Att.holds_check | apply Att.holds_capCheck | apply Att.holds_guardHints | apply Att.holds_guardPriv | apply Att.holds_guardCluster | apply Att.holds_aBody | apply Att.holds_regBody | apply Att.holds_orderStore | apply Att.holds_releaseWait | apply Att.holds_decides | apply Att.holds_replyCheck | apply Att.holds_guard | apply Att.holds_ok | apply Att.holds_stay | apply Att.holds_waits)
    | (with_reducible refine Att.holds_popSdq (fun _ _ _ => ?_))
    | (with_reducible refine Att.holds_parkedCheck (fun _ => ?_))
    | (with_reducible first | apply StaysHome.setCur | apply StaysHome.setCurCore | apply StaysHome.emitAcc | apply StaysHome.wcFlush | apply StaysHome.jumpTo | apply StaysHome.endAct | apply StaysHome.enqueueOut | apply StaysHome.setMatrix | apply StaysHome.setChain | apply StaysHome.setGrammar | apply StaysHome.setRun | apply StaysHome.resumeRun | apply StaysHome.performEng | apply StaysHome.endChain | apply StaysHome.copyResume | apply StaysHome.pulse | apply StaysHome.releaseMacros | apply StaysHome.trapAt | apply StaysHome.setCluster | apply StaysHome.countTaken | apply StaysHome.serveSteal | apply StaysHome.send | apply StaysHome.takeId | apply StaysHome.accs | apply StaysHome.traceJump | apply StaysHome.issueBody | apply StaysHome.matrixBody)
    | (with_reducible first | apply SameRegs.writeRange | apply SameRegs.writeReg | apply SameRegs.awaitReg | apply SameRegs.setReg | apply SameRegs.setLdq)
    | exact SameRegs.popRecord hself ‹_›
    | exact (And.right ‹_ ∧ _›)
    | split
    | rfl
    | exact SameRegs.of_eq hself rfl rfl
    | (refine SameRegs.of_eq (SameRegs.awaitReg hself ?_) rfl rfl)
    | (refine SameRegs.of_eq (SameRegs.setReg (SameRegs.setReg hself ?_) ?_) rfl rfl)
    | (refine SameRegs.writeReg (SameRegs.of_eq hself rfl rfl) ?_)
    | (simp [destRegs]; done)
    | dsimp only

theorem home_grset {a_ b_ k_ : Nat} {a : Activation} {s0 s1 : State} (hc : s0.cur? = some a) (hg : a.flow.gang = none)
    (hx : exec (.grset a_ b_ k_) s0 = .next s1) : StaysHome (destRegs (.grset a_ b_ k_)) a s0 s1 := by
  have h : execGrset a_ b_ k_ s0 = .next s1 := hx
  clear hx
  unfold execGrset at h
  have hself : SameRegs (destRegs (.grset a_ b_ k_)) a s0.cur := by rw [State.cur, hc]; exact SameRegs.refl _ _
  have h0 : StaysHome (destRegs (.grset a_ b_ k_)) a s0 s0 := StaysHome.refl hc
  refine StaysHome.dispatch hc hg ?_ h
  clear h
  repeat' first
    | with_reducible exact h0
    | with_reducible exact hself
    | with_reducible exact hc
    | (with_reducible first | exact Att.holds_stall | exact Att.holds_trap | apply Att.holds_sendable | apply Att.holds_orderly | apply Att.holds_sendReady | apply Att.holds_xQuiet | apply Att.holds_need | apply Att.holds_check | apply Att.holds_capCheck | apply Att.holds_guardHints | apply Att.holds_guardPriv | apply Att.holds_guardCluster | apply Att.holds_aBody | apply Att.holds_regBody | apply Att.holds_orderStore | apply Att.holds_releaseWait | apply Att.holds_decides | apply Att.holds_replyCheck | apply Att.holds_guard | apply Att.holds_ok | apply Att.holds_stay | apply Att.holds_waits)
    | (with_reducible refine Att.holds_popSdq (fun _ _ _ => ?_))
    | (with_reducible refine Att.holds_parkedCheck (fun _ => ?_))
    | (with_reducible first | apply StaysHome.setCur | apply StaysHome.setCurCore | apply StaysHome.emitAcc | apply StaysHome.wcFlush | apply StaysHome.jumpTo | apply StaysHome.endAct | apply StaysHome.enqueueOut | apply StaysHome.setMatrix | apply StaysHome.setChain | apply StaysHome.setGrammar | apply StaysHome.setRun | apply StaysHome.resumeRun | apply StaysHome.performEng | apply StaysHome.endChain | apply StaysHome.copyResume | apply StaysHome.pulse | apply StaysHome.releaseMacros | apply StaysHome.trapAt | apply StaysHome.setCluster | apply StaysHome.countTaken | apply StaysHome.serveSteal | apply StaysHome.send | apply StaysHome.takeId | apply StaysHome.accs | apply StaysHome.traceJump | apply StaysHome.issueBody | apply StaysHome.matrixBody)
    | (with_reducible first | apply SameRegs.writeRange | apply SameRegs.writeReg | apply SameRegs.awaitReg | apply SameRegs.setReg | apply SameRegs.setLdq)
    | exact SameRegs.popRecord hself ‹_›
    | exact (And.right ‹_ ∧ _›)
    | split
    | rfl
    | exact SameRegs.of_eq hself rfl rfl
    | (refine SameRegs.of_eq (SameRegs.awaitReg hself ?_) rfl rfl)
    | (refine SameRegs.of_eq (SameRegs.setReg (SameRegs.setReg hself ?_) ?_) rfl rfl)
    | (refine SameRegs.writeReg (SameRegs.of_eq hself rfl rfl) ?_)
    | (simp [destRegs]; done)
    | dsimp only

theorem home_grred {d_ a_ b_ o_ m_ k_ : Nat} {a : Activation} {s0 s1 : State} (hc : s0.cur? = some a) (hg : a.flow.gang = none)
    (hx : exec (.grred d_ a_ b_ o_ m_ k_) s0 = .next s1) : StaysHome (destRegs (.grred d_ a_ b_ o_ m_ k_)) a s0 s1 := by
  have h : execGrred d_ a_ b_ o_ m_ k_ s0 = .next s1 := hx
  clear hx
  unfold execGrred at h
  exact StaysHome.dispatch hc hg (StaysHome.grammarBody hc (by simp [destRegs])) h

theorem home_grscan {d_ a_ b_ o_ m_ k_ : Nat} {a : Activation} {s0 s1 : State} (hc : s0.cur? = some a) (hg : a.flow.gang = none)
    (hx : exec (.grscan d_ a_ b_ o_ m_ k_) s0 = .next s1) : StaysHome (destRegs (.grscan d_ a_ b_ o_ m_ k_)) a s0 s1 := by
  have h : execGrscan d_ a_ b_ o_ m_ k_ s0 = .next s1 := hx
  clear hx
  unfold execGrscan at h
  exact StaysHome.dispatch hc hg (StaysHome.grammarBody hc (by simp [destRegs])) h

theorem home_grscanX {d_ a_ b_ o_ m_ k_ : Nat} {a : Activation} {s0 s1 : State} (hc : s0.cur? = some a) (hg : a.flow.gang = none)
    (hx : exec (.grscanX d_ a_ b_ o_ m_ k_) s0 = .next s1) : StaysHome (destRegs (.grscanX d_ a_ b_ o_ m_ k_)) a s0 s1 := by
  have h : execGrscanX d_ a_ b_ o_ m_ k_ s0 = .next s1 := hx
  clear hx
  unfold execGrscanX at h
  exact StaysHome.dispatch hc hg (StaysHome.grammarBody hc (by simp [destRegs])) h

theorem home_grmv {d_ a_ b_ m_ k_ : Nat} {a : Activation} {s0 s1 : State} (hc : s0.cur? = some a) (hg : a.flow.gang = none)
    (hx : exec (.grmv d_ a_ b_ m_ k_) s0 = .next s1) : StaysHome (destRegs (.grmv d_ a_ b_ m_ k_)) a s0 s1 := by
  have h : execGrmv d_ a_ b_ m_ k_ s0 = .next s1 := hx
  clear hx
  unfold execGrmv at h
  exact StaysHome.dispatch hc hg (StaysHome.grammarBody hc (by simp [destRegs])) h

theorem home_grat {d_ a_ b_ o_ m_ k_ : Nat} {a : Activation} {s0 s1 : State} (hc : s0.cur? = some a) (hg : a.flow.gang = none)
    (hx : exec (.grat d_ a_ b_ o_ m_ k_) s0 = .next s1) : StaysHome (destRegs (.grat d_ a_ b_ o_ m_ k_)) a s0 s1 := by
  have h : execGrat d_ a_ b_ o_ m_ k_ s0 = .next s1 := hx
  clear hx
  unfold execGrat at h
  exact StaysHome.dispatch hc hg (StaysHome.grammarBody hc (by simp [destRegs])) h

theorem home_grstat {d_ sg_ k_ : Nat} {a : Activation} {s0 s1 : State} (hc : s0.cur? = some a) (hg : a.flow.gang = none)
    (hx : exec (.grstat d_ sg_ k_) s0 = .next s1) : StaysHome (destRegs (.grstat d_ sg_ k_)) a s0 s1 := by
  have h : execGrstat d_ sg_ k_ s0 = .next s1 := hx
  clear hx
  unfold execGrstat at h
  have hself : SameRegs (destRegs (.grstat d_ sg_ k_)) a s0.cur := by rw [State.cur, hc]; exact SameRegs.refl _ _
  have h0 : StaysHome (destRegs (.grstat d_ sg_ k_)) a s0 s0 := StaysHome.refl hc
  refine StaysHome.dispatch hc hg ?_ h
  clear h
  repeat' first
    | with_reducible exact h0
    | with_reducible exact hself
    | with_reducible exact hc
    | (with_reducible first | exact Att.holds_stall | exact Att.holds_trap | apply Att.holds_sendable | apply Att.holds_orderly | apply Att.holds_sendReady | apply Att.holds_xQuiet | apply Att.holds_need | apply Att.holds_check | apply Att.holds_capCheck | apply Att.holds_guardHints | apply Att.holds_guardPriv | apply Att.holds_guardCluster | apply Att.holds_aBody | apply Att.holds_regBody | apply Att.holds_orderStore | apply Att.holds_releaseWait | apply Att.holds_decides | apply Att.holds_replyCheck | apply Att.holds_guard | apply Att.holds_ok | apply Att.holds_stay | apply Att.holds_waits)
    | (with_reducible refine Att.holds_popSdq (fun _ _ _ => ?_))
    | (with_reducible refine Att.holds_parkedCheck (fun _ => ?_))
    | (with_reducible first | apply StaysHome.setCur | apply StaysHome.setCurCore | apply StaysHome.emitAcc | apply StaysHome.wcFlush | apply StaysHome.jumpTo | apply StaysHome.endAct | apply StaysHome.enqueueOut | apply StaysHome.setMatrix | apply StaysHome.setChain | apply StaysHome.setGrammar | apply StaysHome.setRun | apply StaysHome.resumeRun | apply StaysHome.performEng | apply StaysHome.endChain | apply StaysHome.copyResume | apply StaysHome.pulse | apply StaysHome.releaseMacros | apply StaysHome.trapAt | apply StaysHome.setCluster | apply StaysHome.countTaken | apply StaysHome.serveSteal | apply StaysHome.send | apply StaysHome.takeId | apply StaysHome.accs | apply StaysHome.traceJump | apply StaysHome.issueBody | apply StaysHome.matrixBody)
    | (with_reducible first | apply SameRegs.writeRange | apply SameRegs.writeReg | apply SameRegs.awaitReg | apply SameRegs.setReg | apply SameRegs.setLdq)
    | exact SameRegs.popRecord hself ‹_›
    | exact (And.right ‹_ ∧ _›)
    | split
    | rfl
    | exact SameRegs.of_eq hself rfl rfl
    | (refine SameRegs.of_eq (SameRegs.awaitReg hself ?_) rfl rfl)
    | (refine SameRegs.of_eq (SameRegs.setReg (SameRegs.setReg hself ?_) ?_) rfl rfl)
    | (refine SameRegs.writeReg (SameRegs.of_eq hself rfl rfl) ?_)
    | (simp [destRegs]; done)
    | dsimp only

theorem home_grstatRes {a_ k_ : Nat} {a : Activation} {s0 s1 : State} (hc : s0.cur? = some a) (hg : a.flow.gang = none)
    (hx : exec (.grstatRes a_ k_) s0 = .next s1) : StaysHome (destRegs (.grstatRes a_ k_)) a s0 s1 := by
  have h : execGrstatRes a_ k_ s0 = .next s1 := hx
  clear hx
  unfold execGrstatRes at h
  have hself : SameRegs (destRegs (.grstatRes a_ k_)) a s0.cur := by rw [State.cur, hc]; exact SameRegs.refl _ _
  have h0 : StaysHome (destRegs (.grstatRes a_ k_)) a s0 s0 := StaysHome.refl hc
  refine StaysHome.dispatch hc hg ?_ h
  clear h
  repeat' first
    | with_reducible exact h0
    | with_reducible exact hself
    | with_reducible exact hc
    | (with_reducible first | exact Att.holds_stall | exact Att.holds_trap | apply Att.holds_sendable | apply Att.holds_orderly | apply Att.holds_sendReady | apply Att.holds_xQuiet | apply Att.holds_need | apply Att.holds_check | apply Att.holds_capCheck | apply Att.holds_guardHints | apply Att.holds_guardPriv | apply Att.holds_guardCluster | apply Att.holds_aBody | apply Att.holds_regBody | apply Att.holds_orderStore | apply Att.holds_releaseWait | apply Att.holds_decides | apply Att.holds_replyCheck | apply Att.holds_guard | apply Att.holds_ok | apply Att.holds_stay | apply Att.holds_waits)
    | (with_reducible refine Att.holds_popSdq (fun _ _ _ => ?_))
    | (with_reducible refine Att.holds_parkedCheck (fun _ => ?_))
    | (with_reducible first | apply StaysHome.setCur | apply StaysHome.setCurCore | apply StaysHome.emitAcc | apply StaysHome.wcFlush | apply StaysHome.jumpTo | apply StaysHome.endAct | apply StaysHome.enqueueOut | apply StaysHome.setMatrix | apply StaysHome.setChain | apply StaysHome.setGrammar | apply StaysHome.setRun | apply StaysHome.resumeRun | apply StaysHome.performEng | apply StaysHome.endChain | apply StaysHome.copyResume | apply StaysHome.pulse | apply StaysHome.releaseMacros | apply StaysHome.trapAt | apply StaysHome.setCluster | apply StaysHome.countTaken | apply StaysHome.serveSteal | apply StaysHome.send | apply StaysHome.takeId | apply StaysHome.accs | apply StaysHome.traceJump | apply StaysHome.issueBody | apply StaysHome.matrixBody)
    | (with_reducible first | apply SameRegs.writeRange | apply SameRegs.writeReg | apply SameRegs.awaitReg | apply SameRegs.setReg | apply SameRegs.setLdq)
    | exact SameRegs.popRecord hself ‹_›
    | exact (And.right ‹_ ∧ _›)
    | split
    | rfl
    | exact SameRegs.of_eq hself rfl rfl
    | (refine SameRegs.of_eq (SameRegs.awaitReg hself ?_) rfl rfl)
    | (refine SameRegs.of_eq (SameRegs.setReg (SameRegs.setReg hself ?_) ?_) rfl rfl)
    | (refine SameRegs.writeReg (SameRegs.of_eq hself rfl rfl) ?_)
    | (simp [destRegs]; done)
    | dsimp only

theorem home_grstatAbn {a_ k_ : Nat} {a : Activation} {s0 s1 : State} (hc : s0.cur? = some a) (hg : a.flow.gang = none)
    (hx : exec (.grstatAbn a_ k_) s0 = .next s1) : StaysHome (destRegs (.grstatAbn a_ k_)) a s0 s1 := by
  have h : execGrstatAbn a_ k_ s0 = .next s1 := hx
  clear hx
  unfold execGrstatAbn at h
  have hself : SameRegs (destRegs (.grstatAbn a_ k_)) a s0.cur := by rw [State.cur, hc]; exact SameRegs.refl _ _
  have h0 : StaysHome (destRegs (.grstatAbn a_ k_)) a s0 s0 := StaysHome.refl hc
  refine StaysHome.dispatch hc hg ?_ h
  clear h
  repeat' first
    | with_reducible exact h0
    | with_reducible exact hself
    | with_reducible exact hc
    | (with_reducible first | exact Att.holds_stall | exact Att.holds_trap | apply Att.holds_sendable | apply Att.holds_orderly | apply Att.holds_sendReady | apply Att.holds_xQuiet | apply Att.holds_need | apply Att.holds_check | apply Att.holds_capCheck | apply Att.holds_guardHints | apply Att.holds_guardPriv | apply Att.holds_guardCluster | apply Att.holds_aBody | apply Att.holds_regBody | apply Att.holds_orderStore | apply Att.holds_releaseWait | apply Att.holds_decides | apply Att.holds_replyCheck | apply Att.holds_guard | apply Att.holds_ok | apply Att.holds_stay | apply Att.holds_waits)
    | (with_reducible refine Att.holds_popSdq (fun _ _ _ => ?_))
    | (with_reducible refine Att.holds_parkedCheck (fun _ => ?_))
    | (with_reducible first | apply StaysHome.setCur | apply StaysHome.setCurCore | apply StaysHome.emitAcc | apply StaysHome.wcFlush | apply StaysHome.jumpTo | apply StaysHome.endAct | apply StaysHome.enqueueOut | apply StaysHome.setMatrix | apply StaysHome.setChain | apply StaysHome.setGrammar | apply StaysHome.setRun | apply StaysHome.resumeRun | apply StaysHome.performEng | apply StaysHome.endChain | apply StaysHome.copyResume | apply StaysHome.pulse | apply StaysHome.releaseMacros | apply StaysHome.trapAt | apply StaysHome.setCluster | apply StaysHome.countTaken | apply StaysHome.serveSteal | apply StaysHome.send | apply StaysHome.takeId | apply StaysHome.accs | apply StaysHome.traceJump | apply StaysHome.issueBody | apply StaysHome.matrixBody)
    | (with_reducible first | apply SameRegs.writeRange | apply SameRegs.writeReg | apply SameRegs.awaitReg | apply SameRegs.setReg | apply SameRegs.setLdq)
    | exact SameRegs.popRecord hself ‹_›
    | exact (And.right ‹_ ∧ _›)
    | split
    | rfl
    | exact SameRegs.of_eq hself rfl rfl
    | (refine SameRegs.of_eq (SameRegs.awaitReg hself ?_) rfl rfl)
    | (refine SameRegs.of_eq (SameRegs.setReg (SameRegs.setReg hself ?_) ?_) rfl rfl)
    | (refine SameRegs.writeReg (SameRegs.of_eq hself rfl rfl) ?_)
    | (simp [destRegs]; done)
    | dsimp only

theorem home_cpy {d_ a_ b_ m_ c_ : Nat} {a : Activation} {s0 s1 : State} (hc : s0.cur? = some a) (hg : a.flow.gang = none)
    (hx : exec (.cpy d_ a_ b_ m_ c_) s0 = .next s1) : StaysHome (destRegs (.cpy d_ a_ b_ m_ c_)) a s0 s1 := by
  have h : execCpy d_ a_ b_ m_ c_ s0 = .next s1 := hx
  clear hx
  unfold execCpy at h
  have hself : SameRegs (destRegs (.cpy d_ a_ b_ m_ c_)) a s0.cur := by rw [State.cur, hc]; exact SameRegs.refl _ _
  refine StaysHome.dispatch hc hg (Att.holds_orderly ?_) h
  split
  · trivial
  · rename_i r popped hp
    refine Att.holds_need (Att.holds_aBody (Att.holds_guard (StaysHome.issueBody hc (SameRegs.popRecord hself hp) ?_)))
    simp [destRegs]

theorem home_cpywp {d_ a_ c_ : Nat} {a : Activation} {s0 s1 : State} (hc : s0.cur? = some a) (hg : a.flow.gang = none)
    (hx : exec (.cpywp d_ a_ c_) s0 = .next s1) : StaysHome (destRegs (.cpywp d_ a_ c_)) a s0 s1 := by
  have h : execCpywp d_ a_ c_ s0 = .next s1 := hx
  clear hx
  unfold execCpywp at h
  have hself : SameRegs (destRegs (.cpywp d_ a_ c_)) a s0.cur := by rw [State.cur, hc]; exact SameRegs.refl _ _
  have h0 : StaysHome (destRegs (.cpywp d_ a_ c_)) a s0 s0 := StaysHome.refl hc
  refine StaysHome.dispatch hc hg ?_ h
  clear h
  repeat' first
    | with_reducible exact h0
    | with_reducible exact hself
    | with_reducible exact hc
    | (with_reducible first | exact Att.holds_stall | exact Att.holds_trap | apply Att.holds_sendable | apply Att.holds_orderly | apply Att.holds_sendReady | apply Att.holds_xQuiet | apply Att.holds_need | apply Att.holds_check | apply Att.holds_capCheck | apply Att.holds_guardHints | apply Att.holds_guardPriv | apply Att.holds_guardCluster | apply Att.holds_aBody | apply Att.holds_regBody | apply Att.holds_orderStore | apply Att.holds_releaseWait | apply Att.holds_decides | apply Att.holds_replyCheck | apply Att.holds_guard | apply Att.holds_ok | apply Att.holds_stay | apply Att.holds_waits)
    | (with_reducible refine Att.holds_popSdq (fun _ _ _ => ?_))
    | (with_reducible refine Att.holds_parkedCheck (fun _ => ?_))
    | (with_reducible first | apply StaysHome.setCur | apply StaysHome.setCurCore | apply StaysHome.emitAcc | apply StaysHome.wcFlush | apply StaysHome.jumpTo | apply StaysHome.endAct | apply StaysHome.enqueueOut | apply StaysHome.setMatrix | apply StaysHome.setChain | apply StaysHome.setGrammar | apply StaysHome.setRun | apply StaysHome.resumeRun | apply StaysHome.performEng | apply StaysHome.endChain | apply StaysHome.copyResume | apply StaysHome.pulse | apply StaysHome.releaseMacros | apply StaysHome.trapAt | apply StaysHome.setCluster | apply StaysHome.countTaken | apply StaysHome.serveSteal | apply StaysHome.send | apply StaysHome.takeId | apply StaysHome.accs | apply StaysHome.traceJump | apply StaysHome.issueBody | apply StaysHome.matrixBody)
    | (with_reducible first | apply SameRegs.writeRange | apply SameRegs.writeReg | apply SameRegs.awaitReg | apply SameRegs.setReg | apply SameRegs.setLdq)
    | exact SameRegs.popRecord hself ‹_›
    | exact (And.right ‹_ ∧ _›)
    | split
    | rfl
    | exact SameRegs.of_eq hself rfl rfl
    | (refine SameRegs.of_eq (SameRegs.awaitReg hself ?_) rfl rfl)
    | (refine SameRegs.of_eq (SameRegs.setReg (SameRegs.setReg hself ?_) ?_) rfl rfl)
    | (refine SameRegs.writeReg (SameRegs.of_eq hself rfl rfl) ?_)
    | (simp [destRegs]; done)
    | dsimp only

theorem home_cpychkCheck {d_ a_ b_ c_ : Nat} {a : Activation} {s0 s1 : State} (hc : s0.cur? = some a) (hg : a.flow.gang = none)
    (hx : exec (.cpychkCheck d_ a_ b_ c_) s0 = .next s1) : StaysHome (destRegs (.cpychkCheck d_ a_ b_ c_)) a s0 s1 := by
  have h : execCpychkCheck d_ a_ b_ c_ s0 = .next s1 := hx
  clear hx
  unfold execCpychkCheck at h
  have hself : SameRegs (destRegs (.cpychkCheck d_ a_ b_ c_)) a s0.cur := by rw [State.cur, hc]; exact SameRegs.refl _ _
  refine StaysHome.dispatch hc hg (Att.holds_orderly ?_) h
  split
  · trivial
  · rename_i r popped hp
    refine Att.holds_need (Att.holds_aBody (Att.holds_guard (StaysHome.issueBody hc (SameRegs.popRecord hself hp) ?_)))
    simp [destRegs]

theorem home_cpychkRes {a_ c_ : Nat} {a : Activation} {s0 s1 : State} (hc : s0.cur? = some a) (hg : a.flow.gang = none)
    (hx : exec (.cpychkRes a_ c_) s0 = .next s1) : StaysHome (destRegs (.cpychkRes a_ c_)) a s0 s1 := by
  have h : execCpychkRes a_ c_ s0 = .next s1 := hx
  clear hx
  unfold execCpychkRes at h
  have hself : SameRegs (destRegs (.cpychkRes a_ c_)) a s0.cur := by rw [State.cur, hc]; exact SameRegs.refl _ _
  have h0 : StaysHome (destRegs (.cpychkRes a_ c_)) a s0 s0 := StaysHome.refl hc
  refine StaysHome.dispatch hc hg ?_ h
  clear h
  repeat' first
    | with_reducible exact h0
    | with_reducible exact hself
    | with_reducible exact hc
    | (with_reducible first | exact Att.holds_stall | exact Att.holds_trap | apply Att.holds_sendable | apply Att.holds_orderly | apply Att.holds_sendReady | apply Att.holds_xQuiet | apply Att.holds_need | apply Att.holds_check | apply Att.holds_capCheck | apply Att.holds_guardHints | apply Att.holds_guardPriv | apply Att.holds_guardCluster | apply Att.holds_aBody | apply Att.holds_regBody | apply Att.holds_orderStore | apply Att.holds_releaseWait | apply Att.holds_decides | apply Att.holds_replyCheck | apply Att.holds_guard | apply Att.holds_ok | apply Att.holds_stay | apply Att.holds_waits)
    | (with_reducible refine Att.holds_popSdq (fun _ _ _ => ?_))
    | (with_reducible refine Att.holds_parkedCheck (fun _ => ?_))
    | (with_reducible first | apply StaysHome.setCur | apply StaysHome.setCurCore | apply StaysHome.emitAcc | apply StaysHome.wcFlush | apply StaysHome.jumpTo | apply StaysHome.endAct | apply StaysHome.enqueueOut | apply StaysHome.setMatrix | apply StaysHome.setChain | apply StaysHome.setGrammar | apply StaysHome.setRun | apply StaysHome.resumeRun | apply StaysHome.performEng | apply StaysHome.endChain | apply StaysHome.copyResume | apply StaysHome.pulse | apply StaysHome.releaseMacros | apply StaysHome.trapAt | apply StaysHome.setCluster | apply StaysHome.countTaken | apply StaysHome.serveSteal | apply StaysHome.send | apply StaysHome.takeId | apply StaysHome.accs | apply StaysHome.traceJump | apply StaysHome.issueBody | apply StaysHome.matrixBody)
    | (with_reducible first | apply SameRegs.writeRange | apply SameRegs.writeReg | apply SameRegs.awaitReg | apply SameRegs.setReg | apply SameRegs.setLdq)
    | exact SameRegs.popRecord hself ‹_›
    | exact (And.right ‹_ ∧ _›)
    | split
    | rfl
    | exact SameRegs.of_eq hself rfl rfl
    | (refine SameRegs.of_eq (SameRegs.awaitReg hself ?_) rfl rfl)
    | (refine SameRegs.of_eq (SameRegs.setReg (SameRegs.setReg hself ?_) ?_) rfl rfl)
    | (refine SameRegs.writeReg (SameRegs.of_eq hself rfl rfl) ?_)
    | (simp [destRegs]; done)
    | dsimp only

theorem home_cpychkAbn {a_ c_ : Nat} {a : Activation} {s0 s1 : State} (hc : s0.cur? = some a) (hg : a.flow.gang = none)
    (hx : exec (.cpychkAbn a_ c_) s0 = .next s1) : StaysHome (destRegs (.cpychkAbn a_ c_)) a s0 s1 := by
  have h : execCpychkAbn a_ c_ s0 = .next s1 := hx
  clear hx
  unfold execCpychkAbn at h
  have hself : SameRegs (destRegs (.cpychkAbn a_ c_)) a s0.cur := by rw [State.cur, hc]; exact SameRegs.refl _ _
  have h0 : StaysHome (destRegs (.cpychkAbn a_ c_)) a s0 s0 := StaysHome.refl hc
  refine StaysHome.dispatch hc hg ?_ h
  clear h
  repeat' first
    | with_reducible exact h0
    | with_reducible exact hself
    | with_reducible exact hc
    | (with_reducible first | exact Att.holds_stall | exact Att.holds_trap | apply Att.holds_sendable | apply Att.holds_orderly | apply Att.holds_sendReady | apply Att.holds_xQuiet | apply Att.holds_need | apply Att.holds_check | apply Att.holds_capCheck | apply Att.holds_guardHints | apply Att.holds_guardPriv | apply Att.holds_guardCluster | apply Att.holds_aBody | apply Att.holds_regBody | apply Att.holds_orderStore | apply Att.holds_releaseWait | apply Att.holds_decides | apply Att.holds_replyCheck | apply Att.holds_guard | apply Att.holds_ok | apply Att.holds_stay | apply Att.holds_waits)
    | (with_reducible refine Att.holds_popSdq (fun _ _ _ => ?_))
    | (with_reducible refine Att.holds_parkedCheck (fun _ => ?_))
    | (with_reducible first | apply StaysHome.setCur | apply StaysHome.setCurCore | apply StaysHome.emitAcc | apply StaysHome.wcFlush | apply StaysHome.jumpTo | apply StaysHome.endAct | apply StaysHome.enqueueOut | apply StaysHome.setMatrix | apply StaysHome.setChain | apply StaysHome.setGrammar | apply StaysHome.setRun | apply StaysHome.resumeRun | apply StaysHome.performEng | apply StaysHome.endChain | apply StaysHome.copyResume | apply StaysHome.pulse | apply StaysHome.releaseMacros | apply StaysHome.trapAt | apply StaysHome.setCluster | apply StaysHome.countTaken | apply StaysHome.serveSteal | apply StaysHome.send | apply StaysHome.takeId | apply StaysHome.accs | apply StaysHome.traceJump | apply StaysHome.issueBody | apply StaysHome.matrixBody)
    | (with_reducible first | apply SameRegs.writeRange | apply SameRegs.writeReg | apply SameRegs.awaitReg | apply SameRegs.setReg | apply SameRegs.setLdq)
    | exact SameRegs.popRecord hself ‹_›
    | exact (And.right ‹_ ∧ _›)
    | split
    | rfl
    | exact SameRegs.of_eq hself rfl rfl
    | (refine SameRegs.of_eq (SameRegs.awaitReg hself ?_) rfl rfl)
    | (refine SameRegs.of_eq (SameRegs.setReg (SameRegs.setReg hself ?_) ?_) rfl rfl)
    | (refine SameRegs.writeReg (SameRegs.of_eq hself rfl rfl) ?_)
    | (simp [destRegs]; done)
    | dsimp only

end Sys2Proof.Machine
end

