-- ==== Sys2Proof/Laws/KeepsEach.lean ====
section
/-! SUPPORT. What each instruction that a word encodes leaves alone of memory, accumulators, CSRs, regions and platform, one lemma
each (12 R208). -/

namespace Sys2Proof.Machine

set_option Elab.async false

theorem keeps_add {w d a b : Nat} {s0 s1 : State} (hx : exec (.add w d a b) s0 = .next s1) : Kept s0 s1 := by
  have h : execAdd w d a b s0 = .next s1 := hx
  clear hx
  unfold execAdd execX3 at h
  exact Keeps.dispatch Keeps.intBody h

theorem keeps_sub {w d a b : Nat} {s0 s1 : State} (hx : exec (.sub w d a b) s0 = .next s1) : Kept s0 s1 := by
  have h : execSub w d a b s0 = .next s1 := hx
  clear hx
  unfold execSub execX3 at h
  exact Keeps.dispatch Keeps.intBody h

theorem keeps_addi {w d a im : Nat} {s0 s1 : State} (hx : exec (.addi w d a im) s0 = .next s1) : Kept s0 s1 := by
  have h : execAddi w d a im s0 = .next s1 := hx
  clear hx
  unfold execAddi execXI at h
  exact Keeps.dispatch Keeps.intBody h

theorem keeps_mul {w d a b : Nat} {s0 s1 : State} (hx : exec (.mul w d a b) s0 = .next s1) : Kept s0 s1 := by
  have h : execMul w d a b s0 = .next s1 := hx
  clear hx
  unfold execMul execX3 at h
  exact Keeps.dispatch Keeps.intBody h

theorem keeps_mulh {w d a b : Nat} {s0 s1 : State} (hx : exec (.mulh w d a b) s0 = .next s1) : Kept s0 s1 := by
  have h : execMulh w d a b s0 = .next s1 := hx
  clear hx
  unfold execMulh execX3 at h
  exact Keeps.dispatch Keeps.intBody h

theorem keeps_mulhu {w d a b : Nat} {s0 s1 : State} (hx : exec (.mulhu w d a b) s0 = .next s1) : Kept s0 s1 := by
  have h : execMulhu w d a b s0 = .next s1 := hx
  clear hx
  unfold execMulhu execX3 at h
  exact Keeps.dispatch Keeps.intBody h

theorem keeps_mulw {w d a b : Nat} {s0 s1 : State} (hx : exec (.mulw w d a b) s0 = .next s1) : Kept s0 s1 := by
  have h : execMulw w d a b s0 = .next s1 := hx
  clear hx
  unfold execMulw at h
  exact Keeps.dispatch Keeps.wideBody h

theorem keeps_mulwu {w d a b : Nat} {s0 s1 : State} (hx : exec (.mulwu w d a b) s0 = .next s1) : Kept s0 s1 := by
  have h : execMulwu w d a b s0 = .next s1 := hx
  clear hx
  unfold execMulwu at h
  exact Keeps.dispatch Keeps.wideBody h

theorem keeps_div {w d a b : Nat} {s0 s1 : State} (hx : exec (.div w d a b) s0 = .next s1) : Kept s0 s1 := by
  have h : execDiv w d a b s0 = .next s1 := hx
  clear hx
  unfold execDiv execX3 at h
  exact Keeps.dispatch Keeps.intBody h

theorem keeps_divu {w d a b : Nat} {s0 s1 : State} (hx : exec (.divu w d a b) s0 = .next s1) : Kept s0 s1 := by
  have h : execDivu w d a b s0 = .next s1 := hx
  clear hx
  unfold execDivu execX3 at h
  exact Keeps.dispatch Keeps.intBody h

theorem keeps_rem {w d a b : Nat} {s0 s1 : State} (hx : exec (.rem w d a b) s0 = .next s1) : Kept s0 s1 := by
  have h : execRem w d a b s0 = .next s1 := hx
  clear hx
  unfold execRem execX3 at h
  exact Keeps.dispatch Keeps.intBody h

theorem keeps_remu {w d a b : Nat} {s0 s1 : State} (hx : exec (.remu w d a b) s0 = .next s1) : Kept s0 s1 := by
  have h : execRemu w d a b s0 = .next s1 := hx
  clear hx
  unfold execRemu execX3 at h
  exact Keeps.dispatch Keeps.intBody h

theorem keeps_min {w d a b : Nat} {s0 s1 : State} (hx : exec (.min w d a b) s0 = .next s1) : Kept s0 s1 := by
  have h : execMin w d a b s0 = .next s1 := hx
  clear hx
  unfold execMin execX3 at h
  exact Keeps.dispatch Keeps.intBody h

theorem keeps_max {w d a b : Nat} {s0 s1 : State} (hx : exec (.max w d a b) s0 = .next s1) : Kept s0 s1 := by
  have h : execMax w d a b s0 = .next s1 := hx
  clear hx
  unfold execMax execX3 at h
  exact Keeps.dispatch Keeps.intBody h

theorem keeps_minu {w d a b : Nat} {s0 s1 : State} (hx : exec (.minu w d a b) s0 = .next s1) : Kept s0 s1 := by
  have h : execMinu w d a b s0 = .next s1 := hx
  clear hx
  unfold execMinu execX3 at h
  exact Keeps.dispatch Keeps.intBody h

theorem keeps_maxu {w d a b : Nat} {s0 s1 : State} (hx : exec (.maxu w d a b) s0 = .next s1) : Kept s0 s1 := by
  have h : execMaxu w d a b s0 = .next s1 := hx
  clear hx
  unfold execMaxu execX3 at h
  exact Keeps.dispatch Keeps.intBody h

theorem keeps_adds {w d a b : Nat} {s0 s1 : State} (hx : exec (.adds w d a b) s0 = .next s1) : Kept s0 s1 := by
  have h : execAdds w d a b s0 = .next s1 := hx
  clear hx
  unfold execAdds execX3 at h
  exact Keeps.dispatch Keeps.intBody h

theorem keeps_addus {w d a b : Nat} {s0 s1 : State} (hx : exec (.addus w d a b) s0 = .next s1) : Kept s0 s1 := by
  have h : execAddus w d a b s0 = .next s1 := hx
  clear hx
  unfold execAddus execX3 at h
  exact Keeps.dispatch Keeps.intBody h

theorem keeps_subs {w d a b : Nat} {s0 s1 : State} (hx : exec (.subs w d a b) s0 = .next s1) : Kept s0 s1 := by
  have h : execSubs w d a b s0 = .next s1 := hx
  clear hx
  unfold execSubs execX3 at h
  exact Keeps.dispatch Keeps.intBody h

theorem keeps_subus {w d a b : Nat} {s0 s1 : State} (hx : exec (.subus w d a b) s0 = .next s1) : Kept s0 s1 := by
  have h : execSubus w d a b s0 = .next s1 := hx
  clear hx
  unfold execSubus execX3 at h
  exact Keeps.dispatch Keeps.intBody h

theorem keeps_neg {w d a : Nat} {s0 s1 : State} (hx : exec (.neg w d a) s0 = .next s1) : Kept s0 s1 := by
  have h : execNeg w d a s0 = .next s1 := hx
  clear hx
  unfold execNeg execX2 at h
  exact Keeps.dispatch Keeps.intBody h

theorem keeps_abs {w d a : Nat} {s0 s1 : State} (hx : exec (.abs w d a) s0 = .next s1) : Kept s0 s1 := by
  have h : execAbs w d a s0 = .next s1 := hx
  clear hx
  unfold execAbs execX2 at h
  exact Keeps.dispatch Keeps.intBody h

theorem keeps_and {w d a b : Nat} {s0 s1 : State} (hx : exec (.and w d a b) s0 = .next s1) : Kept s0 s1 := by
  have h : execAnd w d a b s0 = .next s1 := hx
  clear hx
  unfold execAnd execX3 at h
  exact Keeps.dispatch Keeps.intBody h

theorem keeps_or {w d a b : Nat} {s0 s1 : State} (hx : exec (.or w d a b) s0 = .next s1) : Kept s0 s1 := by
  have h : execOr w d a b s0 = .next s1 := hx
  clear hx
  unfold execOr execX3 at h
  exact Keeps.dispatch Keeps.intBody h

theorem keeps_xor {w d a b : Nat} {s0 s1 : State} (hx : exec (.xor w d a b) s0 = .next s1) : Kept s0 s1 := by
  have h : execXor w d a b s0 = .next s1 := hx
  clear hx
  unfold execXor execX3 at h
  exact Keeps.dispatch Keeps.intBody h

theorem keeps_andn {w d a b : Nat} {s0 s1 : State} (hx : exec (.andn w d a b) s0 = .next s1) : Kept s0 s1 := by
  have h : execAndn w d a b s0 = .next s1 := hx
  clear hx
  unfold execAndn execX3 at h
  exact Keeps.dispatch Keeps.intBody h

theorem keeps_andi {w d a im : Nat} {s0 s1 : State} (hx : exec (.andi w d a im) s0 = .next s1) : Kept s0 s1 := by
  have h : execAndi w d a im s0 = .next s1 := hx
  clear hx
  unfold execAndi execXI at h
  exact Keeps.dispatch Keeps.intBody h

theorem keeps_ori {w d a im : Nat} {s0 s1 : State} (hx : exec (.ori w d a im) s0 = .next s1) : Kept s0 s1 := by
  have h : execOri w d a im s0 = .next s1 := hx
  clear hx
  unfold execOri execXI at h
  exact Keeps.dispatch Keeps.intBody h

theorem keeps_xori {w d a im : Nat} {s0 s1 : State} (hx : exec (.xori w d a im) s0 = .next s1) : Kept s0 s1 := by
  have h : execXori w d a im s0 = .next s1 := hx
  clear hx
  unfold execXori execXI at h
  exact Keeps.dispatch Keeps.intBody h

theorem keeps_shl {w d a b : Nat} {s0 s1 : State} (hx : exec (.shl w d a b) s0 = .next s1) : Kept s0 s1 := by
  have h : execShl w d a b s0 = .next s1 := hx
  clear hx
  unfold execShl execX3 at h
  exact Keeps.dispatch Keeps.intBody h

theorem keeps_shr {w d a b : Nat} {s0 s1 : State} (hx : exec (.shr w d a b) s0 = .next s1) : Kept s0 s1 := by
  have h : execShr w d a b s0 = .next s1 := hx
  clear hx
  unfold execShr execX3 at h
  exact Keeps.dispatch Keeps.intBody h

theorem keeps_sar {w d a b : Nat} {s0 s1 : State} (hx : exec (.sar w d a b) s0 = .next s1) : Kept s0 s1 := by
  have h : execSar w d a b s0 = .next s1 := hx
  clear hx
  unfold execSar execX3 at h
  exact Keeps.dispatch Keeps.intBody h

theorem keeps_shli {w d a im : Nat} {s0 s1 : State} (hx : exec (.shli w d a im) s0 = .next s1) : Kept s0 s1 := by
  have h : execShli w d a im s0 = .next s1 := hx
  clear hx
  unfold execShli execXC at h
  exact Keeps.dispatch Keeps.intBody h

theorem keeps_shri {w d a im : Nat} {s0 s1 : State} (hx : exec (.shri w d a im) s0 = .next s1) : Kept s0 s1 := by
  have h : execShri w d a im s0 = .next s1 := hx
  clear hx
  unfold execShri execXC at h
  exact Keeps.dispatch Keeps.intBody h

theorem keeps_sari {w d a im : Nat} {s0 s1 : State} (hx : exec (.sari w d a im) s0 = .next s1) : Kept s0 s1 := by
  have h : execSari w d a im s0 = .next s1 := hx
  clear hx
  unfold execSari execXC at h
  exact Keeps.dispatch Keeps.intBody h

theorem keeps_rol {w d a b : Nat} {s0 s1 : State} (hx : exec (.rol w d a b) s0 = .next s1) : Kept s0 s1 := by
  have h : execRol w d a b s0 = .next s1 := hx
  clear hx
  unfold execRol execX3 at h
  exact Keeps.dispatch Keeps.intBody h

theorem keeps_roli {w d a im : Nat} {s0 s1 : State} (hx : exec (.roli w d a im) s0 = .next s1) : Kept s0 s1 := by
  have h : execRoli w d a im s0 = .next s1 := hx
  clear hx
  unfold execRoli execXC at h
  exact Keeps.dispatch Keeps.intBody h

theorem keeps_fshl {w d a b : Nat} {s0 s1 : State} (hx : exec (.fshl w d a b) s0 = .next s1) : Kept s0 s1 := by
  have h : execFshl w d a b s0 = .next s1 := hx
  clear hx
  unfold execFshl at h
  exact Keeps.dispatch Keeps.funnelBody h

theorem keeps_fshr {w d a b : Nat} {s0 s1 : State} (hx : exec (.fshr w d a b) s0 = .next s1) : Kept s0 s1 := by
  have h : execFshr w d a b s0 = .next s1 := hx
  clear hx
  unfold execFshr at h
  exact Keeps.dispatch Keeps.funnelBody h

theorem keeps_sel {w d a b : Nat} {s0 s1 : State} (hx : exec (.sel w d a b) s0 = .next s1) : Kept s0 s1 := by
  have h : execSel w d a b s0 = .next s1 := hx
  clear hx
  unfold execSel at h
  exact Keeps.dispatch Keeps.selBody h

theorem keeps_seq {w d a b : Nat} {s0 s1 : State} (hx : exec (.seq w d a b) s0 = .next s1) : Kept s0 s1 := by
  have h : execSeq w d a b s0 = .next s1 := hx
  clear hx
  unfold execSeq execX3 at h
  exact Keeps.dispatch Keeps.intBody h

theorem keeps_sne {w d a b : Nat} {s0 s1 : State} (hx : exec (.sne w d a b) s0 = .next s1) : Kept s0 s1 := by
  have h : execSne w d a b s0 = .next s1 := hx
  clear hx
  unfold execSne execX3 at h
  exact Keeps.dispatch Keeps.intBody h

theorem keeps_slt {w d a b : Nat} {s0 s1 : State} (hx : exec (.slt w d a b) s0 = .next s1) : Kept s0 s1 := by
  have h : execSlt w d a b s0 = .next s1 := hx
  clear hx
  unfold execSlt execX3 at h
  exact Keeps.dispatch Keeps.intBody h

theorem keeps_sltu {w d a b : Nat} {s0 s1 : State} (hx : exec (.sltu w d a b) s0 = .next s1) : Kept s0 s1 := by
  have h : execSltu w d a b s0 = .next s1 := hx
  clear hx
  unfold execSltu execX3 at h
  exact Keeps.dispatch Keeps.intBody h

theorem keeps_sle {w d a b : Nat} {s0 s1 : State} (hx : exec (.sle w d a b) s0 = .next s1) : Kept s0 s1 := by
  have h : execSle w d a b s0 = .next s1 := hx
  clear hx
  unfold execSle execX3 at h
  exact Keeps.dispatch Keeps.intBody h

theorem keeps_sleu {w d a b : Nat} {s0 s1 : State} (hx : exec (.sleu w d a b) s0 = .next s1) : Kept s0 s1 := by
  have h : execSleu w d a b s0 = .next s1 := hx
  clear hx
  unfold execSleu execX3 at h
  exact Keeps.dispatch Keeps.intBody h

theorem keeps_seqi {w d a im : Nat} {s0 s1 : State} (hx : exec (.seqi w d a im) s0 = .next s1) : Kept s0 s1 := by
  have h : execSeqi w d a im s0 = .next s1 := hx
  clear hx
  unfold execSeqi execXI at h
  exact Keeps.dispatch Keeps.intBody h

theorem keeps_slti {w d a im : Nat} {s0 s1 : State} (hx : exec (.slti w d a im) s0 = .next s1) : Kept s0 s1 := by
  have h : execSlti w d a im s0 = .next s1 := hx
  clear hx
  unfold execSlti execXI at h
  exact Keeps.dispatch Keeps.intBody h

theorem keeps_mov {w d a : Nat} {s0 s1 : State} (hx : exec (.mov w d a) s0 = .next s1) : Kept s0 s1 := by
  have h : execMov w d a s0 = .next s1 := hx
  clear hx
  unfold execMov execX2 at h
  exact Keeps.dispatch Keeps.intBody h

theorem keeps_movi {w d im : Nat} {s0 s1 : State} (hx : exec (.movi w d im) s0 = .next s1) : Kept s0 s1 := by
  have h : execMovi w d im s0 = .next s1 := hx
  clear hx
  unfold execMovi at h
  exact Keeps.dispatch Keeps.intBody h

theorem keeps_exts {w d a im : Nat} {s0 s1 : State} (hx : exec (.exts w d a im) s0 = .next s1) : Kept s0 s1 := by
  have h : execExts w d a im s0 = .next s1 := hx
  clear hx
  unfold execExts execXC at h
  exact Keeps.dispatch Keeps.intBody h

theorem keeps_extz {w d a im : Nat} {s0 s1 : State} (hx : exec (.extz w d a im) s0 = .next s1) : Kept s0 s1 := by
  have h : execExtz w d a im s0 = .next s1 := hx
  clear hx
  unfold execExtz execXC at h
  exact Keeps.dispatch Keeps.intBody h

theorem keeps_clz {w d a : Nat} {s0 s1 : State} (hx : exec (.clz w d a) s0 = .next s1) : Kept s0 s1 := by
  have h : execClz w d a s0 = .next s1 := hx
  clear hx
  unfold execClz execX2 at h
  exact Keeps.dispatch Keeps.intBody h

theorem keeps_ctz {w d a : Nat} {s0 s1 : State} (hx : exec (.ctz w d a) s0 = .next s1) : Kept s0 s1 := by
  have h : execCtz w d a s0 = .next s1 := hx
  clear hx
  unfold execCtz execX2 at h
  exact Keeps.dispatch Keeps.intBody h

theorem keeps_popc {w d a : Nat} {s0 s1 : State} (hx : exec (.popc w d a) s0 = .next s1) : Kept s0 s1 := by
  have h : execPopc w d a s0 = .next s1 := hx
  clear hx
  unfold execPopc execX2 at h
  exact Keeps.dispatch Keeps.intBody h

theorem keeps_brev {w d a : Nat} {s0 s1 : State} (hx : exec (.brev w d a) s0 = .next s1) : Kept s0 s1 := by
  have h : execBrev w d a s0 = .next s1 := hx
  clear hx
  unfold execBrev execX2 at h
  exact Keeps.dispatch Keeps.intBody h

theorem keeps_bext {w d a b : Nat} {s0 s1 : State} (hx : exec (.bext w d a b) s0 = .next s1) : Kept s0 s1 := by
  have h : execBext w d a b s0 = .next s1 := hx
  clear hx
  unfold execBext execX3 at h
  exact Keeps.dispatch Keeps.intBody h

theorem keeps_bexts {w d a b : Nat} {s0 s1 : State} (hx : exec (.bexts w d a b) s0 = .next s1) : Kept s0 s1 := by
  have h : execBexts w d a b s0 = .next s1 := hx
  clear hx
  unfold execBexts execX3 at h
  exact Keeps.dispatch Keeps.intBody h

theorem keeps_bdep {w d a b : Nat} {s0 s1 : State} (hx : exec (.bdep w d a b) s0 = .next s1) : Kept s0 s1 := by
  have h : execBdep w d a b s0 = .next s1 := hx
  clear hx
  unfold execBdep execX3 at h
  exact Keeps.dispatch Keeps.intBody h

theorem keeps_paddL4 {w d a b : Nat} {s0 s1 : State} (hx : exec (.paddL4 w d a b) s0 = .next s1) : Kept s0 s1 := by
  have h : execPaddL4 w d a b s0 = .next s1 := hx
  clear hx
  unfold execPaddL4 at h
  exact Keeps.dispatch Keeps.packedBody h

theorem keeps_paddL8 {w d a b : Nat} {s0 s1 : State} (hx : exec (.paddL8 w d a b) s0 = .next s1) : Kept s0 s1 := by
  have h : execPaddL8 w d a b s0 = .next s1 := hx
  clear hx
  unfold execPaddL8 at h
  exact Keeps.dispatch Keeps.packedBody h

theorem keeps_paddL16 {w d a b : Nat} {s0 s1 : State} (hx : exec (.paddL16 w d a b) s0 = .next s1) : Kept s0 s1 := by
  have h : execPaddL16 w d a b s0 = .next s1 := hx
  clear hx
  unfold execPaddL16 at h
  exact Keeps.dispatch Keeps.packedBody h

theorem keeps_paddL32 {w d a b : Nat} {s0 s1 : State} (hx : exec (.paddL32 w d a b) s0 = .next s1) : Kept s0 s1 := by
  have h : execPaddL32 w d a b s0 = .next s1 := hx
  clear hx
  unfold execPaddL32 at h
  exact Keeps.dispatch Keeps.packedBody h

theorem keeps_psubL4 {w d a b : Nat} {s0 s1 : State} (hx : exec (.psubL4 w d a b) s0 = .next s1) : Kept s0 s1 := by
  have h : execPsubL4 w d a b s0 = .next s1 := hx
  clear hx
  unfold execPsubL4 at h
  exact Keeps.dispatch Keeps.packedBody h

theorem keeps_psubL8 {w d a b : Nat} {s0 s1 : State} (hx : exec (.psubL8 w d a b) s0 = .next s1) : Kept s0 s1 := by
  have h : execPsubL8 w d a b s0 = .next s1 := hx
  clear hx
  unfold execPsubL8 at h
  exact Keeps.dispatch Keeps.packedBody h

theorem keeps_psubL16 {w d a b : Nat} {s0 s1 : State} (hx : exec (.psubL16 w d a b) s0 = .next s1) : Kept s0 s1 := by
  have h : execPsubL16 w d a b s0 = .next s1 := hx
  clear hx
  unfold execPsubL16 at h
  exact Keeps.dispatch Keeps.packedBody h

theorem keeps_psubL32 {w d a b : Nat} {s0 s1 : State} (hx : exec (.psubL32 w d a b) s0 = .next s1) : Kept s0 s1 := by
  have h : execPsubL32 w d a b s0 = .next s1 := hx
  clear hx
  unfold execPsubL32 at h
  exact Keeps.dispatch Keeps.packedBody h

theorem keeps_pmaxuL4 {w d a b : Nat} {s0 s1 : State} (hx : exec (.pmaxuL4 w d a b) s0 = .next s1) : Kept s0 s1 := by
  have h : execPmaxuL4 w d a b s0 = .next s1 := hx
  clear hx
  unfold execPmaxuL4 at h
  exact Keeps.dispatch Keeps.packedBody h

theorem keeps_pmaxuL8 {w d a b : Nat} {s0 s1 : State} (hx : exec (.pmaxuL8 w d a b) s0 = .next s1) : Kept s0 s1 := by
  have h : execPmaxuL8 w d a b s0 = .next s1 := hx
  clear hx
  unfold execPmaxuL8 at h
  exact Keeps.dispatch Keeps.packedBody h

theorem keeps_pmaxuL16 {w d a b : Nat} {s0 s1 : State} (hx : exec (.pmaxuL16 w d a b) s0 = .next s1) : Kept s0 s1 := by
  have h : execPmaxuL16 w d a b s0 = .next s1 := hx
  clear hx
  unfold execPmaxuL16 at h
  exact Keeps.dispatch Keeps.packedBody h

theorem keeps_pmaxuL32 {w d a b : Nat} {s0 s1 : State} (hx : exec (.pmaxuL32 w d a b) s0 = .next s1) : Kept s0 s1 := by
  have h : execPmaxuL32 w d a b s0 = .next s1 := hx
  clear hx
  unfold execPmaxuL32 at h
  exact Keeps.dispatch Keeps.packedBody h

theorem keeps_pminuL4 {w d a b : Nat} {s0 s1 : State} (hx : exec (.pminuL4 w d a b) s0 = .next s1) : Kept s0 s1 := by
  have h : execPminuL4 w d a b s0 = .next s1 := hx
  clear hx
  unfold execPminuL4 at h
  exact Keeps.dispatch Keeps.packedBody h

theorem keeps_pminuL8 {w d a b : Nat} {s0 s1 : State} (hx : exec (.pminuL8 w d a b) s0 = .next s1) : Kept s0 s1 := by
  have h : execPminuL8 w d a b s0 = .next s1 := hx
  clear hx
  unfold execPminuL8 at h
  exact Keeps.dispatch Keeps.packedBody h

theorem keeps_pminuL16 {w d a b : Nat} {s0 s1 : State} (hx : exec (.pminuL16 w d a b) s0 = .next s1) : Kept s0 s1 := by
  have h : execPminuL16 w d a b s0 = .next s1 := hx
  clear hx
  unfold execPminuL16 at h
  exact Keeps.dispatch Keeps.packedBody h

theorem keeps_pminuL32 {w d a b : Nat} {s0 s1 : State} (hx : exec (.pminuL32 w d a b) s0 = .next s1) : Kept s0 s1 := by
  have h : execPminuL32 w d a b s0 = .next s1 := hx
  clear hx
  unfold execPminuL32 at h
  exact Keeps.dispatch Keeps.packedBody h

theorem keeps_pmaxsL4 {w d a b : Nat} {s0 s1 : State} (hx : exec (.pmaxsL4 w d a b) s0 = .next s1) : Kept s0 s1 := by
  have h : execPmaxsL4 w d a b s0 = .next s1 := hx
  clear hx
  unfold execPmaxsL4 at h
  exact Keeps.dispatch Keeps.packedBody h

theorem keeps_pmaxsL8 {w d a b : Nat} {s0 s1 : State} (hx : exec (.pmaxsL8 w d a b) s0 = .next s1) : Kept s0 s1 := by
  have h : execPmaxsL8 w d a b s0 = .next s1 := hx
  clear hx
  unfold execPmaxsL8 at h
  exact Keeps.dispatch Keeps.packedBody h

theorem keeps_pmaxsL16 {w d a b : Nat} {s0 s1 : State} (hx : exec (.pmaxsL16 w d a b) s0 = .next s1) : Kept s0 s1 := by
  have h : execPmaxsL16 w d a b s0 = .next s1 := hx
  clear hx
  unfold execPmaxsL16 at h
  exact Keeps.dispatch Keeps.packedBody h

theorem keeps_pmaxsL32 {w d a b : Nat} {s0 s1 : State} (hx : exec (.pmaxsL32 w d a b) s0 = .next s1) : Kept s0 s1 := by
  have h : execPmaxsL32 w d a b s0 = .next s1 := hx
  clear hx
  unfold execPmaxsL32 at h
  exact Keeps.dispatch Keeps.packedBody h

theorem keeps_pminsL4 {w d a b : Nat} {s0 s1 : State} (hx : exec (.pminsL4 w d a b) s0 = .next s1) : Kept s0 s1 := by
  have h : execPminsL4 w d a b s0 = .next s1 := hx
  clear hx
  unfold execPminsL4 at h
  exact Keeps.dispatch Keeps.packedBody h

theorem keeps_pminsL8 {w d a b : Nat} {s0 s1 : State} (hx : exec (.pminsL8 w d a b) s0 = .next s1) : Kept s0 s1 := by
  have h : execPminsL8 w d a b s0 = .next s1 := hx
  clear hx
  unfold execPminsL8 at h
  exact Keeps.dispatch Keeps.packedBody h

theorem keeps_pminsL16 {w d a b : Nat} {s0 s1 : State} (hx : exec (.pminsL16 w d a b) s0 = .next s1) : Kept s0 s1 := by
  have h : execPminsL16 w d a b s0 = .next s1 := hx
  clear hx
  unfold execPminsL16 at h
  exact Keeps.dispatch Keeps.packedBody h

theorem keeps_pminsL32 {w d a b : Nat} {s0 s1 : State} (hx : exec (.pminsL32 w d a b) s0 = .next s1) : Kept s0 s1 := by
  have h : execPminsL32 w d a b s0 = .next s1 := hx
  clear hx
  unfold execPminsL32 at h
  exact Keeps.dispatch Keeps.packedBody h

theorem keeps_paddssL4 {w d a b : Nat} {s0 s1 : State} (hx : exec (.paddssL4 w d a b) s0 = .next s1) : Kept s0 s1 := by
  have h : execPaddssL4 w d a b s0 = .next s1 := hx
  clear hx
  unfold execPaddssL4 at h
  exact Keeps.dispatch Keeps.packedBody h

theorem keeps_paddssL8 {w d a b : Nat} {s0 s1 : State} (hx : exec (.paddssL8 w d a b) s0 = .next s1) : Kept s0 s1 := by
  have h : execPaddssL8 w d a b s0 = .next s1 := hx
  clear hx
  unfold execPaddssL8 at h
  exact Keeps.dispatch Keeps.packedBody h

theorem keeps_paddssL16 {w d a b : Nat} {s0 s1 : State} (hx : exec (.paddssL16 w d a b) s0 = .next s1) : Kept s0 s1 := by
  have h : execPaddssL16 w d a b s0 = .next s1 := hx
  clear hx
  unfold execPaddssL16 at h
  exact Keeps.dispatch Keeps.packedBody h

theorem keeps_paddssL32 {w d a b : Nat} {s0 s1 : State} (hx : exec (.paddssL32 w d a b) s0 = .next s1) : Kept s0 s1 := by
  have h : execPaddssL32 w d a b s0 = .next s1 := hx
  clear hx
  unfold execPaddssL32 at h
  exact Keeps.dispatch Keeps.packedBody h

theorem keeps_rmaxuL4 {w d a b : Nat} {s0 s1 : State} (hx : exec (.rmaxuL4 w d a b) s0 = .next s1) : Kept s0 s1 := by
  have h : execRmaxuL4 w d a b s0 = .next s1 := hx
  clear hx
  unfold execRmaxuL4 at h
  exact Keeps.dispatch Keeps.packedBody h

theorem keeps_rmaxuL8 {w d a b : Nat} {s0 s1 : State} (hx : exec (.rmaxuL8 w d a b) s0 = .next s1) : Kept s0 s1 := by
  have h : execRmaxuL8 w d a b s0 = .next s1 := hx
  clear hx
  unfold execRmaxuL8 at h
  exact Keeps.dispatch Keeps.packedBody h

theorem keeps_rmaxuL16 {w d a b : Nat} {s0 s1 : State} (hx : exec (.rmaxuL16 w d a b) s0 = .next s1) : Kept s0 s1 := by
  have h : execRmaxuL16 w d a b s0 = .next s1 := hx
  clear hx
  unfold execRmaxuL16 at h
  exact Keeps.dispatch Keeps.packedBody h

theorem keeps_rmaxuL32 {w d a b : Nat} {s0 s1 : State} (hx : exec (.rmaxuL32 w d a b) s0 = .next s1) : Kept s0 s1 := by
  have h : execRmaxuL32 w d a b s0 = .next s1 := hx
  clear hx
  unfold execRmaxuL32 at h
  exact Keeps.dispatch Keeps.packedBody h

theorem keeps_fadd {w d a b : Nat} {s0 s1 : State} (hx : exec (.fadd w d a b) s0 = .next s1) : Kept s0 s1 := by
  have h : execFadd w d a b s0 = .next s1 := hx
  clear hx
  unfold execFadd execF3 at h
  exact Keeps.dispatch Keeps.floatBody h

theorem keeps_fsub {w d a b : Nat} {s0 s1 : State} (hx : exec (.fsub w d a b) s0 = .next s1) : Kept s0 s1 := by
  have h : execFsub w d a b s0 = .next s1 := hx
  clear hx
  unfold execFsub execF3 at h
  exact Keeps.dispatch Keeps.floatBody h

theorem keeps_fmul {w d a b : Nat} {s0 s1 : State} (hx : exec (.fmul w d a b) s0 = .next s1) : Kept s0 s1 := by
  have h : execFmul w d a b s0 = .next s1 := hx
  clear hx
  unfold execFmul execF3 at h
  exact Keeps.dispatch Keeps.floatBody h

theorem keeps_fma {w d a b : Nat} {s0 s1 : State} (hx : exec (.fma w d a b) s0 = .next s1) : Kept s0 s1 := by
  have h : execFma w d a b s0 = .next s1 := hx
  clear hx
  unfold execFma execF4 at h
  exact Keeps.dispatch Keeps.floatBody h

theorem keeps_fmulz {w d a b : Nat} {s0 s1 : State} (hx : exec (.fmulz w d a b) s0 = .next s1) : Kept s0 s1 := by
  have h : execFmulz w d a b s0 = .next s1 := hx
  clear hx
  unfold execFmulz execF3 at h
  exact Keeps.dispatch Keeps.floatBody h

theorem keeps_fmin {w d a b : Nat} {s0 s1 : State} (hx : exec (.fmin w d a b) s0 = .next s1) : Kept s0 s1 := by
  have h : execFmin w d a b s0 = .next s1 := hx
  clear hx
  unfold execFmin execF3 at h
  exact Keeps.dispatch Keeps.floatBody h

theorem keeps_fmax {w d a b : Nat} {s0 s1 : State} (hx : exec (.fmax w d a b) s0 = .next s1) : Kept s0 s1 := by
  have h : execFmax w d a b s0 = .next s1 := hx
  clear hx
  unfold execFmax execF3 at h
  exact Keeps.dispatch Keeps.floatBody h

theorem keeps_frcp {w d a : Nat} {s0 s1 : State} (hx : exec (.frcp w d a) s0 = .next s1) : Kept s0 s1 := by
  have h : execFrcp w d a s0 = .next s1 := hx
  clear hx
  unfold execFrcp execF2 at h
  exact Keeps.dispatch Keeps.floatBody h

theorem keeps_frsq {w d a : Nat} {s0 s1 : State} (hx : exec (.frsq w d a) s0 = .next s1) : Kept s0 s1 := by
  have h : execFrsq w d a s0 = .next s1 := hx
  clear hx
  unfold execFrsq execF2 at h
  exact Keeps.dispatch Keeps.floatBody h

theorem keeps_fexp2 {w d a : Nat} {s0 s1 : State} (hx : exec (.fexp2 w d a) s0 = .next s1) : Kept s0 s1 := by
  have h : execFexp2 w d a s0 = .next s1 := hx
  clear hx
  unfold execFexp2 execF2 at h
  exact Keeps.dispatch Keeps.floatBody h

theorem keeps_flog2 {w d a : Nat} {s0 s1 : State} (hx : exec (.flog2 w d a) s0 = .next s1) : Kept s0 s1 := by
  have h : execFlog2 w d a s0 = .next s1 := hx
  clear hx
  unfold execFlog2 execF2 at h
  exact Keeps.dispatch Keeps.floatBody h

theorem keeps_fcmpeq {w d a b : Nat} {s0 s1 : State} (hx : exec (.fcmpeq w d a b) s0 = .next s1) : Kept s0 s1 := by
  have h : execFcmpeq w d a b s0 = .next s1 := hx
  clear hx
  unfold execFcmpeq execF3 at h
  exact Keeps.dispatch Keeps.floatBody h

theorem keeps_fcmplt {w d a b : Nat} {s0 s1 : State} (hx : exec (.fcmplt w d a b) s0 = .next s1) : Kept s0 s1 := by
  have h : execFcmplt w d a b s0 = .next s1 := hx
  clear hx
  unfold execFcmplt execF3 at h
  exact Keeps.dispatch Keeps.floatBody h

theorem keeps_fcmple {w d a b : Nat} {s0 s1 : State} (hx : exec (.fcmple w d a b) s0 = .next s1) : Kept s0 s1 := by
  have h : execFcmple w d a b s0 = .next s1 := hx
  clear hx
  unfold execFcmple execF3 at h
  exact Keeps.dispatch Keeps.floatBody h

theorem keeps_fclass {w d a : Nat} {s0 s1 : State} (hx : exec (.fclass w d a) s0 = .next s1) : Kept s0 s1 := by
  have h : execFclass w d a s0 = .next s1 := hx
  clear hx
  unfold execFclass execF2 at h
  exact Keeps.dispatch Keeps.floatBody h

theorem keeps_raddf {w d a : Nat} {s0 s1 : State} (hx : exec (.raddf w d a) s0 = .next s1) : Kept s0 s1 := by
  have h : execRaddf w d a s0 = .next s1 := hx
  clear hx
  unfold execRaddf at h
  exact Keeps.dispatch Keeps.raddfBody h

theorem keeps_badd {w d a b : Nat} {s0 s1 : State} (hx : exec (.badd w d a b) s0 = .next s1) : Kept s0 s1 := by
  have h : execBadd w d a b s0 = .next s1 := hx
  clear hx
  unfold execBadd execF3 at h
  exact Keeps.dispatch Keeps.floatBody h

theorem keeps_bmul {w d a b : Nat} {s0 s1 : State} (hx : exec (.bmul w d a b) s0 = .next s1) : Kept s0 s1 := by
  have h : execBmul w d a b s0 = .next s1 := hx
  clear hx
  unfold execBmul execF3 at h
  exact Keeps.dispatch Keeps.floatBody h

theorem keeps_bfma {w d a b : Nat} {s0 s1 : State} (hx : exec (.bfma w d a b) s0 = .next s1) : Kept s0 s1 := by
  have h : execBfma w d a b s0 = .next s1 := hx
  clear hx
  unfold execBfma execF4 at h
  exact Keeps.dispatch Keeps.floatBody h

theorem keeps_bmax {w d a b : Nat} {s0 s1 : State} (hx : exec (.bmax w d a b) s0 = .next s1) : Kept s0 s1 := by
  have h : execBmax w d a b s0 = .next s1 := hx
  clear hx
  unfold execBmax execF3 at h
  exact Keeps.dispatch Keeps.floatBody h

theorem keeps_bmin {w d a b : Nat} {s0 s1 : State} (hx : exec (.bmin w d a b) s0 = .next s1) : Kept s0 s1 := by
  have h : execBmin w d a b s0 = .next s1 := hx
  clear hx
  unfold execBmin execF3 at h
  exact Keeps.dispatch Keeps.floatBody h

theorem keeps_cvt {w d a t sg : Nat} {s0 s1 : State} (hx : exec (.cvt w d a t sg) s0 = .next s1) : Kept s0 s1 := by
  have h : execCvt w d a t sg s0 = .next s1 := hx
  clear hx
  unfold execCvt at h
  exact Keeps.dispatch Keeps.cvtBody h

theorem keeps_scacc {w d a b : Nat} {s0 s1 : State} (hx : exec (.scacc w d a b) s0 = .next s1) : Kept s0 s1 := by
  have h : execScacc w d a b s0 = .next s1 := hx
  clear hx
  unfold execScacc execF4 at h
  exact Keeps.dispatch Keeps.floatBody h

theorem keeps_aadd {d a b : Nat} {s0 s1 : State} (hx : exec (.aadd d a b) s0 = .next s1) : Kept s0 s1 := by
  have h : execAadd d a b s0 = .next s1 := hx
  clear hx
  unfold execAadd execA3 at h
  exact Keeps.dispatch Keeps.regBody h

theorem keeps_asub {d a b : Nat} {s0 s1 : State} (hx : exec (.asub d a b) s0 = .next s1) : Kept s0 s1 := by
  have h : execAsub d a b s0 = .next s1 := hx
  clear hx
  unfold execAsub execA3 at h
  exact Keeps.dispatch Keeps.regBody h

theorem keeps_aaddi {d a im : Nat} {s0 s1 : State} (hx : exec (.aaddi d a im) s0 = .next s1) : Kept s0 s1 := by
  have h : execAaddi d a im s0 = .next s1 := hx
  clear hx
  unfold execAaddi at h
  exact Keeps.dispatch Keeps.regBody h

theorem keeps_amul {d a b : Nat} {s0 s1 : State} (hx : exec (.amul d a b) s0 = .next s1) : Kept s0 s1 := by
  have h : execAmul d a b s0 = .next s1 := hx
  clear hx
  unfold execAmul execA3 at h
  exact Keeps.dispatch Keeps.regBody h

theorem keeps_aand {d a b : Nat} {s0 s1 : State} (hx : exec (.aand d a b) s0 = .next s1) : Kept s0 s1 := by
  have h : execAand d a b s0 = .next s1 := hx
  clear hx
  unfold execAand execA3 at h
  exact Keeps.dispatch Keeps.regBody h

theorem keeps_aor {d a b : Nat} {s0 s1 : State} (hx : exec (.aor d a b) s0 = .next s1) : Kept s0 s1 := by
  have h : execAor d a b s0 = .next s1 := hx
  clear hx
  unfold execAor execA3 at h
  exact Keeps.dispatch Keeps.regBody h

theorem keeps_axor {d a b : Nat} {s0 s1 : State} (hx : exec (.axor d a b) s0 = .next s1) : Kept s0 s1 := by
  have h : execAxor d a b s0 = .next s1 := hx
  clear hx
  unfold execAxor execA3 at h
  exact Keeps.dispatch Keeps.regBody h

theorem keeps_ashli {d a im : Nat} {s0 s1 : State} (hx : exec (.ashli d a im) s0 = .next s1) : Kept s0 s1 := by
  have h : execAshli d a im s0 = .next s1 := hx
  clear hx
  unfold execAshli execAShift at h
  exact Keeps.dispatch Keeps.regBody h

theorem keeps_ashri {d a im : Nat} {s0 s1 : State} (hx : exec (.ashri d a im) s0 = .next s1) : Kept s0 s1 := by
  have h : execAshri d a im s0 = .next s1 := hx
  clear hx
  unfold execAshri execAShift at h
  exact Keeps.dispatch Keeps.regBody h

theorem keeps_asari {d a im : Nat} {s0 s1 : State} (hx : exec (.asari d a im) s0 = .next s1) : Kept s0 s1 := by
  have h : execAsari d a im s0 = .next s1 := hx
  clear hx
  unfold execAsari execAShift at h
  exact Keeps.dispatch Keeps.regBody h

theorem keeps_aslt {d a b : Nat} {s0 s1 : State} (hx : exec (.aslt d a b) s0 = .next s1) : Kept s0 s1 := by
  have h : execAslt d a b s0 = .next s1 := hx
  clear hx
  unfold execAslt execA3 at h
  exact Keeps.dispatch Keeps.regBody h

theorem keeps_asltu {d a b : Nat} {s0 s1 : State} (hx : exec (.asltu d a b) s0 = .next s1) : Kept s0 s1 := by
  have h : execAsltu d a b s0 = .next s1 := hx
  clear hx
  unfold execAsltu execA3 at h
  exact Keeps.dispatch Keeps.regBody h

theorem keeps_amovi {d im : Nat} {s0 s1 : State} (hx : exec (.amovi d im) s0 = .next s1) : Kept s0 s1 := by
  have h : execAmovi d im s0 = .next s1 := hx
  clear hx
  unfold execAmovi at h
  exact Keeps.dispatch Keeps.regBody h

theorem keeps_aupi {d im : Nat} {s0 s1 : State} (hx : exec (.aupi d im) s0 = .next s1) : Kept s0 s1 := by
  have h : execAupi d im s0 = .next s1 := hx
  clear hx
  unfold execAupi at h
  exact Keeps.dispatch Keeps.regBody h

theorem keeps_amov {d a : Nat} {s0 s1 : State} (hx : exec (.amov d a) s0 = .next s1) : Kept s0 s1 := by
  have h : execAmov d a s0 = .next s1 := hx
  clear hx
  unfold execAmov at h
  exact Keeps.dispatch Keeps.regBody h

theorem keeps_apushq {q a : Nat} {s0 s1 : State} (hx : exec (.apushq q a) s0 = .next s1) : Kept s0 s1 := by
  have h : execApushq q a s0 = .next s1 := hx
  clear hx
  unfold execApushq at h
  refine Keeps.dispatch (fun s => ?_) h
  clear h
  repeat' first
    | (with_reducible first | refine Keeps.chainBody ?_ | refine Keeps.eretBody ?_)
    | with_reducible first | exact Att.holds_stall | exact Att.holds_trap | apply Att.holds_stall | apply Att.holds_trap | apply Att.holds_sendable | apply Att.holds_orderly | apply Att.holds_sendReady | apply Att.holds_xQuiet | apply Att.holds_need | apply Att.holds_check | apply Att.holds_capCheck | apply Att.holds_guardHints | apply Att.holds_guardPriv | apply Att.holds_guardCluster | apply Att.holds_aBody | apply Att.holds_orderStore | apply Att.holds_releaseWait | apply Att.holds_decides | apply Att.holds_replyCheck | apply Att.holds_guard | apply Att.holds_ok | apply Att.holds_stay | apply Att.holds_waits
    | (with_reducible refine Att.holds_popSdq (fun _ _ _ => ?_))
    | (with_reducible refine Att.holds_parkedCheck (fun _ => ?_))
    | with_reducible first | exact Keeps.refl _ | apply Keeps.setCur | apply Keeps.setCurCore | apply Keeps.emitAcc | apply Keeps.wcFlush | apply Keeps.jumpTo | apply Keeps.enqueueOut | apply Keeps.setMatrix | apply Keeps.setChain | apply Keeps.setGrammar | apply Keeps.setRun | apply Keeps.resumeRun | apply Keeps.performEng | apply Keeps.endChain | apply Keeps.copyResume | apply Keeps.pulse | apply Keeps.releaseMacros | apply Keeps.trapAt | apply Keeps.dropRoot | apply Keeps.wcFlushRoot | apply Keeps.setCluster | apply Keeps.countTaken | apply Keeps.serveSteal | apply Keeps.send | apply Keeps.takeId | apply Keeps.accs | apply Keeps.addFollower | apply Keeps.traceJump
    | with_reducible first | exact Keeps.issueBody | exact Keeps.loadBody _ | exact Keeps.storeBody _
    | split
    | rfl
    | exact (Cluster.take_acc _ _ _ _).1
    | exact (Cluster.take_acc _ _ _ _).2
    | dsimp only

theorem keeps_apopq {d : Nat} {s0 s1 : State} (hx : exec (.apopq d) s0 = .next s1) : Kept s0 s1 := by
  have h : execApopq d s0 = .next s1 := hx
  clear hx
  unfold execApopq at h
  refine Keeps.dispatch (fun s => ?_) h
  clear h
  repeat' first
    | (with_reducible first | refine Keeps.chainBody ?_ | refine Keeps.eretBody ?_)
    | with_reducible first | exact Att.holds_stall | exact Att.holds_trap | apply Att.holds_stall | apply Att.holds_trap | apply Att.holds_sendable | apply Att.holds_orderly | apply Att.holds_sendReady | apply Att.holds_xQuiet | apply Att.holds_need | apply Att.holds_check | apply Att.holds_capCheck | apply Att.holds_guardHints | apply Att.holds_guardPriv | apply Att.holds_guardCluster | apply Att.holds_aBody | apply Att.holds_orderStore | apply Att.holds_releaseWait | apply Att.holds_decides | apply Att.holds_replyCheck | apply Att.holds_guard | apply Att.holds_ok | apply Att.holds_stay | apply Att.holds_waits
    | (with_reducible refine Att.holds_popSdq (fun _ _ _ => ?_))
    | (with_reducible refine Att.holds_parkedCheck (fun _ => ?_))
    | with_reducible first | exact Keeps.refl _ | apply Keeps.setCur | apply Keeps.setCurCore | apply Keeps.emitAcc | apply Keeps.wcFlush | apply Keeps.jumpTo | apply Keeps.enqueueOut | apply Keeps.setMatrix | apply Keeps.setChain | apply Keeps.setGrammar | apply Keeps.setRun | apply Keeps.resumeRun | apply Keeps.performEng | apply Keeps.endChain | apply Keeps.copyResume | apply Keeps.pulse | apply Keeps.releaseMacros | apply Keeps.trapAt | apply Keeps.dropRoot | apply Keeps.wcFlushRoot | apply Keeps.setCluster | apply Keeps.countTaken | apply Keeps.serveSteal | apply Keeps.send | apply Keeps.takeId | apply Keeps.accs | apply Keeps.addFollower | apply Keeps.traceJump
    | with_reducible first | exact Keeps.issueBody | exact Keeps.loadBody _ | exact Keeps.storeBody _
    | split
    | rfl
    | exact (Cluster.take_acc _ _ _ _).1
    | exact (Cluster.take_acc _ _ _ _).2
    | dsimp only

theorem keeps_cbase {d a b : Nat} {s0 s1 : State} (hx : exec (.cbase d a b) s0 = .next s1) : Kept s0 s1 := by
  have h : execCbase d a b s0 = .next s1 := hx
  clear hx
  unfold execCbase execDerive at h
  exact Keeps.dispatch Keeps.regBody h

theorem keeps_clen {d a b : Nat} {s0 s1 : State} (hx : exec (.clen d a b) s0 = .next s1) : Kept s0 s1 := by
  have h : execClen d a b s0 = .next s1 := hx
  clear hx
  unfold execClen execDerive at h
  exact Keeps.dispatch Keeps.regBody h

theorem keeps_cperm {d a b : Nat} {s0 s1 : State} (hx : exec (.cperm d a b) s0 = .next s1) : Kept s0 s1 := by
  have h : execCperm d a b s0 = .next s1 := hx
  clear hx
  unfold execCperm execDerive at h
  exact Keeps.dispatch Keeps.regBody h

theorem keeps_cget {d a f : Nat} {s0 s1 : State} (hx : exec (.cget d a f) s0 = .next s1) : Kept s0 s1 := by
  have h : execCget d a f s0 = .next s1 := hx
  clear hx
  unfold execCget at h
  exact Keeps.dispatch Keeps.regBody h

theorem keeps_cclr {d a : Nat} {s0 s1 : State} (hx : exec (.cclr d a) s0 = .next s1) : Kept s0 s1 := by
  have h : execCclr d a s0 = .next s1 := hx
  clear hx
  unfold execCclr at h
  exact Keeps.dispatch Keeps.regBody h

theorem keeps_ld {q c o z sg r p : Nat} {s0 s1 : State} (hx : exec (.ld q c o z sg r p) s0 = .next s1) : Kept s0 s1 := by
  have h : execLd q c o z sg r p s0 = .next s1 := hx
  clear hx
  unfold execLd at h
  exact Keeps.dispatch Keeps.loadBody h

theorem keeps_ldx {q c o z sg r p : Nat} {s0 s1 : State} (hx : exec (.ldx q c o z sg r p) s0 = .next s1) : Kept s0 s1 := by
  have h : execLdx q c o z sg r p s0 = .next s1 := hx
  clear hx
  unfold execLdx at h
  refine Keeps.dispatch (fun s => ?_) h
  clear h
  repeat' first
    | (with_reducible first | refine Keeps.chainBody ?_ | refine Keeps.eretBody ?_)
    | with_reducible first | exact Att.holds_stall | exact Att.holds_trap | apply Att.holds_stall | apply Att.holds_trap | apply Att.holds_sendable | apply Att.holds_orderly | apply Att.holds_sendReady | apply Att.holds_xQuiet | apply Att.holds_need | apply Att.holds_check | apply Att.holds_capCheck | apply Att.holds_guardHints | apply Att.holds_guardPriv | apply Att.holds_guardCluster | apply Att.holds_aBody | apply Att.holds_orderStore | apply Att.holds_releaseWait | apply Att.holds_decides | apply Att.holds_replyCheck | apply Att.holds_guard | apply Att.holds_ok | apply Att.holds_stay | apply Att.holds_waits
    | (with_reducible refine Att.holds_popSdq (fun _ _ _ => ?_))
    | (with_reducible refine Att.holds_parkedCheck (fun _ => ?_))
    | with_reducible first | exact Keeps.refl _ | apply Keeps.setCur | apply Keeps.setCurCore | apply Keeps.emitAcc | apply Keeps.wcFlush | apply Keeps.jumpTo | apply Keeps.enqueueOut | apply Keeps.setMatrix | apply Keeps.setChain | apply Keeps.setGrammar | apply Keeps.setRun | apply Keeps.resumeRun | apply Keeps.performEng | apply Keeps.endChain | apply Keeps.copyResume | apply Keeps.pulse | apply Keeps.releaseMacros | apply Keeps.trapAt | apply Keeps.dropRoot | apply Keeps.wcFlushRoot | apply Keeps.setCluster | apply Keeps.countTaken | apply Keeps.serveSteal | apply Keeps.send | apply Keeps.takeId | apply Keeps.accs | apply Keeps.addFollower | apply Keeps.traceJump
    | with_reducible first | exact Keeps.issueBody | exact Keeps.loadBody _ | exact Keeps.storeBody _
    | split
    | rfl
    | exact (Cluster.take_acc _ _ _ _).1
    | exact (Cluster.take_acc _ _ _ _).2
    | dsimp only

theorem keeps_lda {d c o z sg r p : Nat} {s0 s1 : State} (hx : exec (.lda d c o z sg r p) s0 = .next s1) : Kept s0 s1 := by
  have h : execLda d c o z sg r p s0 = .next s1 := hx
  clear hx
  unfold execLda at h
  exact Keeps.dispatch Keeps.loadRegBody h

theorem keeps_ldc {d c o r p : Nat} {s0 s1 : State} (hx : exec (.ldc d c o r p) s0 = .next s1) : Kept s0 s1 := by
  have h : execLdc d c o r p s0 = .next s1 := hx
  clear hx
  unfold execLdc at h
  exact Keeps.dispatch Keeps.loadRegBody h

theorem keeps_ldnib {q c o z sg : Nat} {s0 s1 : State} (hx : exec (.ldnib q c o z sg) s0 = .next s1) : Kept s0 s1 := by
  have h : execLdnib q c o z sg s0 = .next s1 := hx
  clear hx
  unfold execLdnib at h
  refine Keeps.dispatch (fun s => ?_) h
  clear h
  repeat' first
    | (with_reducible first | refine Keeps.chainBody ?_ | refine Keeps.eretBody ?_)
    | with_reducible first | exact Att.holds_stall | exact Att.holds_trap | apply Att.holds_stall | apply Att.holds_trap | apply Att.holds_sendable | apply Att.holds_orderly | apply Att.holds_sendReady | apply Att.holds_xQuiet | apply Att.holds_need | apply Att.holds_check | apply Att.holds_capCheck | apply Att.holds_guardHints | apply Att.holds_guardPriv | apply Att.holds_guardCluster | apply Att.holds_aBody | apply Att.holds_orderStore | apply Att.holds_releaseWait | apply Att.holds_decides | apply Att.holds_replyCheck | apply Att.holds_guard | apply Att.holds_ok | apply Att.holds_stay | apply Att.holds_waits
    | (with_reducible refine Att.holds_popSdq (fun _ _ _ => ?_))
    | (with_reducible refine Att.holds_parkedCheck (fun _ => ?_))
    | with_reducible first | exact Keeps.refl _ | apply Keeps.setCur | apply Keeps.setCurCore | apply Keeps.emitAcc | apply Keeps.wcFlush | apply Keeps.jumpTo | apply Keeps.enqueueOut | apply Keeps.setMatrix | apply Keeps.setChain | apply Keeps.setGrammar | apply Keeps.setRun | apply Keeps.resumeRun | apply Keeps.performEng | apply Keeps.endChain | apply Keeps.copyResume | apply Keeps.pulse | apply Keeps.releaseMacros | apply Keeps.trapAt | apply Keeps.dropRoot | apply Keeps.wcFlushRoot | apply Keeps.setCluster | apply Keeps.countTaken | apply Keeps.serveSteal | apply Keeps.send | apply Keeps.takeId | apply Keeps.accs | apply Keeps.addFollower | apply Keeps.traceJump
    | with_reducible first | exact Keeps.issueBody | exact Keeps.loadBody _ | exact Keeps.storeBody _
    | split
    | rfl
    | exact (Cluster.take_acc _ _ _ _).1
    | exact (Cluster.take_acc _ _ _ _).2
    | dsimp only

theorem keeps_st {c o z r p : Nat} {s0 s1 : State} (hx : exec (.st c o z r p) s0 = .next s1) : Kept s0 s1 := by
  have h : execSt c o z r p s0 = .next s1 := hx
  clear hx
  unfold execSt at h
  exact Keeps.dispatch Keeps.storeBody h

theorem keeps_stm {m c o r p : Nat} {s0 s1 : State} (hx : exec (.stm m c o r p) s0 = .next s1) : Kept s0 s1 := by
  have h : execStm m c o r p s0 = .next s1 := hx
  clear hx
  unfold execStm at h
  refine Keeps.dispatch (fun s => ?_) h
  clear h
  repeat' first
    | (with_reducible first | refine Keeps.chainBody ?_ | refine Keeps.eretBody ?_)
    | with_reducible first | exact Att.holds_stall | exact Att.holds_trap | apply Att.holds_stall | apply Att.holds_trap | apply Att.holds_sendable | apply Att.holds_orderly | apply Att.holds_sendReady | apply Att.holds_xQuiet | apply Att.holds_need | apply Att.holds_check | apply Att.holds_capCheck | apply Att.holds_guardHints | apply Att.holds_guardPriv | apply Att.holds_guardCluster | apply Att.holds_aBody | apply Att.holds_orderStore | apply Att.holds_releaseWait | apply Att.holds_decides | apply Att.holds_replyCheck | apply Att.holds_guard | apply Att.holds_ok | apply Att.holds_stay | apply Att.holds_waits
    | (with_reducible refine Att.holds_popSdq (fun _ _ _ => ?_))
    | (with_reducible refine Att.holds_parkedCheck (fun _ => ?_))
    | with_reducible first | exact Keeps.refl _ | apply Keeps.setCur | apply Keeps.setCurCore | apply Keeps.emitAcc | apply Keeps.wcFlush | apply Keeps.jumpTo | apply Keeps.enqueueOut | apply Keeps.setMatrix | apply Keeps.setChain | apply Keeps.setGrammar | apply Keeps.setRun | apply Keeps.resumeRun | apply Keeps.performEng | apply Keeps.endChain | apply Keeps.copyResume | apply Keeps.pulse | apply Keeps.releaseMacros | apply Keeps.trapAt | apply Keeps.dropRoot | apply Keeps.wcFlushRoot | apply Keeps.setCluster | apply Keeps.countTaken | apply Keeps.serveSteal | apply Keeps.send | apply Keeps.takeId | apply Keeps.accs | apply Keeps.addFollower | apply Keeps.traceJump
    | with_reducible first | exact Keeps.issueBody | exact Keeps.loadBody _ | exact Keeps.storeBody _
    | split
    | rfl
    | exact (Cluster.take_acc _ _ _ _).1
    | exact (Cluster.take_acc _ _ _ _).2
    | dsimp only

theorem keeps_stx {c o z r p : Nat} {s0 s1 : State} (hx : exec (.stx c o z r p) s0 = .next s1) : Kept s0 s1 := by
  have h : execStx c o z r p s0 = .next s1 := hx
  clear hx
  unfold execStx at h
  refine Keeps.dispatch (fun s => ?_) h
  clear h
  repeat' first
    | (with_reducible first | refine Keeps.chainBody ?_ | refine Keeps.eretBody ?_)
    | with_reducible first | exact Att.holds_stall | exact Att.holds_trap | apply Att.holds_stall | apply Att.holds_trap | apply Att.holds_sendable | apply Att.holds_orderly | apply Att.holds_sendReady | apply Att.holds_xQuiet | apply Att.holds_need | apply Att.holds_check | apply Att.holds_capCheck | apply Att.holds_guardHints | apply Att.holds_guardPriv | apply Att.holds_guardCluster | apply Att.holds_aBody | apply Att.holds_orderStore | apply Att.holds_releaseWait | apply Att.holds_decides | apply Att.holds_replyCheck | apply Att.holds_guard | apply Att.holds_ok | apply Att.holds_stay | apply Att.holds_waits
    | (with_reducible refine Att.holds_popSdq (fun _ _ _ => ?_))
    | (with_reducible refine Att.holds_parkedCheck (fun _ => ?_))
    | with_reducible first | exact Keeps.refl _ | apply Keeps.setCur | apply Keeps.setCurCore | apply Keeps.emitAcc | apply Keeps.wcFlush | apply Keeps.jumpTo | apply Keeps.enqueueOut | apply Keeps.setMatrix | apply Keeps.setChain | apply Keeps.setGrammar | apply Keeps.setRun | apply Keeps.resumeRun | apply Keeps.performEng | apply Keeps.endChain | apply Keeps.copyResume | apply Keeps.pulse | apply Keeps.releaseMacros | apply Keeps.trapAt | apply Keeps.dropRoot | apply Keeps.wcFlushRoot | apply Keeps.setCluster | apply Keeps.countTaken | apply Keeps.serveSteal | apply Keeps.send | apply Keeps.takeId | apply Keeps.accs | apply Keeps.addFollower | apply Keeps.traceJump
    | with_reducible first | exact Keeps.issueBody | exact Keeps.loadBody _ | exact Keeps.storeBody _
    | split
    | rfl
    | exact (Cluster.take_acc _ _ _ _).1
    | exact (Cluster.take_acc _ _ _ _).2
    | dsimp only

theorem keeps_sta {d c o z r p : Nat} {s0 s1 : State} (hx : exec (.sta d c o z r p) s0 = .next s1) : Kept s0 s1 := by
  have h : execSta d c o z r p s0 = .next s1 := hx
  clear hx
  unfold execSta at h
  refine Keeps.dispatch (fun s => ?_) h
  clear h
  repeat' first
    | (with_reducible first | refine Keeps.chainBody ?_ | refine Keeps.eretBody ?_)
    | with_reducible first | exact Att.holds_stall | exact Att.holds_trap | apply Att.holds_stall | apply Att.holds_trap | apply Att.holds_sendable | apply Att.holds_orderly | apply Att.holds_sendReady | apply Att.holds_xQuiet | apply Att.holds_need | apply Att.holds_check | apply Att.holds_capCheck | apply Att.holds_guardHints | apply Att.holds_guardPriv | apply Att.holds_guardCluster | apply Att.holds_aBody | apply Att.holds_orderStore | apply Att.holds_releaseWait | apply Att.holds_decides | apply Att.holds_replyCheck | apply Att.holds_guard | apply Att.holds_ok | apply Att.holds_stay | apply Att.holds_waits
    | (with_reducible refine Att.holds_popSdq (fun _ _ _ => ?_))
    | (with_reducible refine Att.holds_parkedCheck (fun _ => ?_))
    | with_reducible first | exact Keeps.refl _ | apply Keeps.setCur | apply Keeps.setCurCore | apply Keeps.emitAcc | apply Keeps.wcFlush | apply Keeps.jumpTo | apply Keeps.enqueueOut | apply Keeps.setMatrix | apply Keeps.setChain | apply Keeps.setGrammar | apply Keeps.setRun | apply Keeps.resumeRun | apply Keeps.performEng | apply Keeps.endChain | apply Keeps.copyResume | apply Keeps.pulse | apply Keeps.releaseMacros | apply Keeps.trapAt | apply Keeps.dropRoot | apply Keeps.wcFlushRoot | apply Keeps.setCluster | apply Keeps.countTaken | apply Keeps.serveSteal | apply Keeps.send | apply Keeps.takeId | apply Keeps.accs | apply Keeps.addFollower | apply Keeps.traceJump
    | with_reducible first | exact Keeps.issueBody | exact Keeps.loadBody _ | exact Keeps.storeBody _
    | split
    | rfl
    | exact (Cluster.take_acc _ _ _ _).1
    | exact (Cluster.take_acc _ _ _ _).2
    | dsimp only

theorem keeps_stc {d c o r p : Nat} {s0 s1 : State} (hx : exec (.stc d c o r p) s0 = .next s1) : Kept s0 s1 := by
  have h : execStc d c o r p s0 = .next s1 := hx
  clear hx
  unfold execStc at h
  refine Keeps.dispatch (fun s => ?_) h
  clear h
  repeat' first
    | (with_reducible first | refine Keeps.chainBody ?_ | refine Keeps.eretBody ?_)
    | with_reducible first | exact Att.holds_stall | exact Att.holds_trap | apply Att.holds_stall | apply Att.holds_trap | apply Att.holds_sendable | apply Att.holds_orderly | apply Att.holds_sendReady | apply Att.holds_xQuiet | apply Att.holds_need | apply Att.holds_check | apply Att.holds_capCheck | apply Att.holds_guardHints | apply Att.holds_guardPriv | apply Att.holds_guardCluster | apply Att.holds_aBody | apply Att.holds_orderStore | apply Att.holds_releaseWait | apply Att.holds_decides | apply Att.holds_replyCheck | apply Att.holds_guard | apply Att.holds_ok | apply Att.holds_stay | apply Att.holds_waits
    | (with_reducible refine Att.holds_popSdq (fun _ _ _ => ?_))
    | (with_reducible refine Att.holds_parkedCheck (fun _ => ?_))
    | with_reducible first | exact Keeps.refl _ | apply Keeps.setCur | apply Keeps.setCurCore | apply Keeps.emitAcc | apply Keeps.wcFlush | apply Keeps.jumpTo | apply Keeps.enqueueOut | apply Keeps.setMatrix | apply Keeps.setChain | apply Keeps.setGrammar | apply Keeps.setRun | apply Keeps.resumeRun | apply Keeps.performEng | apply Keeps.endChain | apply Keeps.copyResume | apply Keeps.pulse | apply Keeps.releaseMacros | apply Keeps.trapAt | apply Keeps.dropRoot | apply Keeps.wcFlushRoot | apply Keeps.setCluster | apply Keeps.countTaken | apply Keeps.serveSteal | apply Keeps.send | apply Keeps.takeId | apply Keeps.accs | apply Keeps.addFollower | apply Keeps.traceJump
    | with_reducible first | exact Keeps.issueBody | exact Keeps.loadBody _ | exact Keeps.storeBody _
    | split
    | rfl
    | exact (Cluster.take_acc _ _ _ _).1
    | exact (Cluster.take_acc _ _ _ _).2
    | dsimp only

theorem keeps_stnib {c o z : Nat} {s0 s1 : State} (hx : exec (.stnib c o z) s0 = .next s1) : Kept s0 s1 := by
  have h : execStnib c o z s0 = .next s1 := hx
  clear hx
  unfold execStnib at h
  refine Keeps.dispatch (fun s => ?_) h
  clear h
  repeat' first
    | (with_reducible first | refine Keeps.chainBody ?_ | refine Keeps.eretBody ?_)
    | with_reducible first | exact Att.holds_stall | exact Att.holds_trap | apply Att.holds_stall | apply Att.holds_trap | apply Att.holds_sendable | apply Att.holds_orderly | apply Att.holds_sendReady | apply Att.holds_xQuiet | apply Att.holds_need | apply Att.holds_check | apply Att.holds_capCheck | apply Att.holds_guardHints | apply Att.holds_guardPriv | apply Att.holds_guardCluster | apply Att.holds_aBody | apply Att.holds_orderStore | apply Att.holds_releaseWait | apply Att.holds_decides | apply Att.holds_replyCheck | apply Att.holds_guard | apply Att.holds_ok | apply Att.holds_stay | apply Att.holds_waits
    | (with_reducible refine Att.holds_popSdq (fun _ _ _ => ?_))
    | (with_reducible refine Att.holds_parkedCheck (fun _ => ?_))
    | with_reducible first | exact Keeps.refl _ | apply Keeps.setCur | apply Keeps.setCurCore | apply Keeps.emitAcc | apply Keeps.wcFlush | apply Keeps.jumpTo | apply Keeps.enqueueOut | apply Keeps.setMatrix | apply Keeps.setChain | apply Keeps.setGrammar | apply Keeps.setRun | apply Keeps.resumeRun | apply Keeps.performEng | apply Keeps.endChain | apply Keeps.copyResume | apply Keeps.pulse | apply Keeps.releaseMacros | apply Keeps.trapAt | apply Keeps.dropRoot | apply Keeps.wcFlushRoot | apply Keeps.setCluster | apply Keeps.countTaken | apply Keeps.serveSteal | apply Keeps.send | apply Keeps.takeId | apply Keeps.accs | apply Keeps.addFollower | apply Keeps.traceJump
    | with_reducible first | exact Keeps.issueBody | exact Keeps.loadBody _ | exact Keeps.storeBody _
    | split
    | rfl
    | exact (Cluster.take_acc _ _ _ _).1
    | exact (Cluster.take_acc _ _ _ _).2
    | dsimp only

theorem keeps_amo {d a b f z o p : Nat} {s0 s1 : State} (hx : exec (.amo d a b f z o p) s0 = .next s1) : Kept s0 s1 := by
  have h : execAmo d a b f z o p s0 = .next s1 := hx
  clear hx
  unfold execAmo at h
  exact Keeps.dispatch Keeps.atomicBody h

theorem keeps_amocas {d a b z o p : Nat} {s0 s1 : State} (hx : exec (.amocas d a b z o p) s0 = .next s1) : Kept s0 s1 := by
  have h : execAmocas d a b z o p s0 = .next s1 := hx
  clear hx
  unfold execAmocas at h
  exact Keeps.dispatch Keeps.atomicBody h

theorem keeps_fenceAcq {p : Nat} {s0 s1 : State} (hx : exec (.fenceAcq p) s0 = .next s1) : Kept s0 s1 := by
  have h : execFenceAcq p s0 = .next s1 := hx
  clear hx
  unfold execFenceAcq at h
  refine Keeps.dispatch (fun s => ?_) h
  clear h
  repeat' first
    | (with_reducible first | refine Keeps.chainBody ?_ | refine Keeps.eretBody ?_)
    | with_reducible first | exact Att.holds_stall | exact Att.holds_trap | apply Att.holds_stall | apply Att.holds_trap | apply Att.holds_sendable | apply Att.holds_orderly | apply Att.holds_sendReady | apply Att.holds_xQuiet | apply Att.holds_need | apply Att.holds_check | apply Att.holds_capCheck | apply Att.holds_guardHints | apply Att.holds_guardPriv | apply Att.holds_guardCluster | apply Att.holds_aBody | apply Att.holds_orderStore | apply Att.holds_releaseWait | apply Att.holds_decides | apply Att.holds_replyCheck | apply Att.holds_guard | apply Att.holds_ok | apply Att.holds_stay | apply Att.holds_waits
    | (with_reducible refine Att.holds_popSdq (fun _ _ _ => ?_))
    | (with_reducible refine Att.holds_parkedCheck (fun _ => ?_))
    | with_reducible first | exact Keeps.refl _ | apply Keeps.setCur | apply Keeps.setCurCore | apply Keeps.emitAcc | apply Keeps.wcFlush | apply Keeps.jumpTo | apply Keeps.enqueueOut | apply Keeps.setMatrix | apply Keeps.setChain | apply Keeps.setGrammar | apply Keeps.setRun | apply Keeps.resumeRun | apply Keeps.performEng | apply Keeps.endChain | apply Keeps.copyResume | apply Keeps.pulse | apply Keeps.releaseMacros | apply Keeps.trapAt | apply Keeps.dropRoot | apply Keeps.wcFlushRoot | apply Keeps.setCluster | apply Keeps.countTaken | apply Keeps.serveSteal | apply Keeps.send | apply Keeps.takeId | apply Keeps.accs | apply Keeps.addFollower | apply Keeps.traceJump
    | with_reducible first | exact Keeps.issueBody | exact Keeps.loadBody _ | exact Keeps.storeBody _
    | split
    | rfl
    | exact (Cluster.take_acc _ _ _ _).1
    | exact (Cluster.take_acc _ _ _ _).2
    | dsimp only

theorem keeps_fenceRel {p : Nat} {s0 s1 : State} (hx : exec (.fenceRel p) s0 = .next s1) : Kept s0 s1 := by
  have h : execFenceRel p s0 = .next s1 := hx
  clear hx
  unfold execFenceRel at h
  refine Keeps.dispatch (fun s => ?_) h
  clear h
  repeat' first
    | (with_reducible first | refine Keeps.chainBody ?_ | refine Keeps.eretBody ?_)
    | with_reducible first | exact Att.holds_stall | exact Att.holds_trap | apply Att.holds_stall | apply Att.holds_trap | apply Att.holds_sendable | apply Att.holds_orderly | apply Att.holds_sendReady | apply Att.holds_xQuiet | apply Att.holds_need | apply Att.holds_check | apply Att.holds_capCheck | apply Att.holds_guardHints | apply Att.holds_guardPriv | apply Att.holds_guardCluster | apply Att.holds_aBody | apply Att.holds_orderStore | apply Att.holds_releaseWait | apply Att.holds_decides | apply Att.holds_replyCheck | apply Att.holds_guard | apply Att.holds_ok | apply Att.holds_stay | apply Att.holds_waits
    | (with_reducible refine Att.holds_popSdq (fun _ _ _ => ?_))
    | (with_reducible refine Att.holds_parkedCheck (fun _ => ?_))
    | with_reducible first | exact Keeps.refl _ | apply Keeps.setCur | apply Keeps.setCurCore | apply Keeps.emitAcc | apply Keeps.wcFlush | apply Keeps.jumpTo | apply Keeps.enqueueOut | apply Keeps.setMatrix | apply Keeps.setChain | apply Keeps.setGrammar | apply Keeps.setRun | apply Keeps.resumeRun | apply Keeps.performEng | apply Keeps.endChain | apply Keeps.copyResume | apply Keeps.pulse | apply Keeps.releaseMacros | apply Keeps.trapAt | apply Keeps.dropRoot | apply Keeps.wcFlushRoot | apply Keeps.setCluster | apply Keeps.countTaken | apply Keeps.serveSteal | apply Keeps.send | apply Keeps.takeId | apply Keeps.accs | apply Keeps.addFollower | apply Keeps.traceJump
    | with_reducible first | exact Keeps.issueBody | exact Keeps.loadBody _ | exact Keeps.storeBody _
    | split
    | rfl
    | exact (Cluster.take_acc _ _ _ _).1
    | exact (Cluster.take_acc _ _ _ _).2
    | dsimp only

theorem keeps_fenceAr {p : Nat} {s0 s1 : State} (hx : exec (.fenceAr p) s0 = .next s1) : Kept s0 s1 := by
  have h : execFenceAr p s0 = .next s1 := hx
  clear hx
  unfold execFenceAr at h
  refine Keeps.dispatch (fun s => ?_) h
  clear h
  repeat' first
    | (with_reducible first | refine Keeps.chainBody ?_ | refine Keeps.eretBody ?_)
    | with_reducible first | exact Att.holds_stall | exact Att.holds_trap | apply Att.holds_stall | apply Att.holds_trap | apply Att.holds_sendable | apply Att.holds_orderly | apply Att.holds_sendReady | apply Att.holds_xQuiet | apply Att.holds_need | apply Att.holds_check | apply Att.holds_capCheck | apply Att.holds_guardHints | apply Att.holds_guardPriv | apply Att.holds_guardCluster | apply Att.holds_aBody | apply Att.holds_orderStore | apply Att.holds_releaseWait | apply Att.holds_decides | apply Att.holds_replyCheck | apply Att.holds_guard | apply Att.holds_ok | apply Att.holds_stay | apply Att.holds_waits
    | (with_reducible refine Att.holds_popSdq (fun _ _ _ => ?_))
    | (with_reducible refine Att.holds_parkedCheck (fun _ => ?_))
    | with_reducible first | exact Keeps.refl _ | apply Keeps.setCur | apply Keeps.setCurCore | apply Keeps.emitAcc | apply Keeps.wcFlush | apply Keeps.jumpTo | apply Keeps.enqueueOut | apply Keeps.setMatrix | apply Keeps.setChain | apply Keeps.setGrammar | apply Keeps.setRun | apply Keeps.resumeRun | apply Keeps.performEng | apply Keeps.endChain | apply Keeps.copyResume | apply Keeps.pulse | apply Keeps.releaseMacros | apply Keeps.trapAt | apply Keeps.dropRoot | apply Keeps.wcFlushRoot | apply Keeps.setCluster | apply Keeps.countTaken | apply Keeps.serveSteal | apply Keeps.send | apply Keeps.takeId | apply Keeps.accs | apply Keeps.addFollower | apply Keeps.traceJump
    | with_reducible first | exact Keeps.issueBody | exact Keeps.loadBody _ | exact Keeps.storeBody _
    | split
    | rfl
    | exact (Cluster.take_acc _ _ _ _).1
    | exact (Cluster.take_acc _ _ _ _).2
    | dsimp only

theorem keeps_xfence {p : Nat} {s0 s1 : State} (hx : exec (.xfence p) s0 = .next s1) : Kept s0 s1 := by
  have h : execXfence p s0 = .next s1 := hx
  clear hx
  unfold execXfence at h
  refine Keeps.dispatch (fun s => ?_) h
  clear h
  repeat' first
    | (with_reducible first | refine Keeps.chainBody ?_ | refine Keeps.eretBody ?_)
    | with_reducible first | exact Att.holds_stall | exact Att.holds_trap | apply Att.holds_stall | apply Att.holds_trap | apply Att.holds_sendable | apply Att.holds_orderly | apply Att.holds_sendReady | apply Att.holds_xQuiet | apply Att.holds_need | apply Att.holds_check | apply Att.holds_capCheck | apply Att.holds_guardHints | apply Att.holds_guardPriv | apply Att.holds_guardCluster | apply Att.holds_aBody | apply Att.holds_orderStore | apply Att.holds_releaseWait | apply Att.holds_decides | apply Att.holds_replyCheck | apply Att.holds_guard | apply Att.holds_ok | apply Att.holds_stay | apply Att.holds_waits
    | (with_reducible refine Att.holds_popSdq (fun _ _ _ => ?_))
    | (with_reducible refine Att.holds_parkedCheck (fun _ => ?_))
    | with_reducible first | exact Keeps.refl _ | apply Keeps.setCur | apply Keeps.setCurCore | apply Keeps.emitAcc | apply Keeps.wcFlush | apply Keeps.jumpTo | apply Keeps.enqueueOut | apply Keeps.setMatrix | apply Keeps.setChain | apply Keeps.setGrammar | apply Keeps.setRun | apply Keeps.resumeRun | apply Keeps.performEng | apply Keeps.endChain | apply Keeps.copyResume | apply Keeps.pulse | apply Keeps.releaseMacros | apply Keeps.trapAt | apply Keeps.dropRoot | apply Keeps.wcFlushRoot | apply Keeps.setCluster | apply Keeps.countTaken | apply Keeps.serveSteal | apply Keeps.send | apply Keeps.takeId | apply Keeps.accs | apply Keeps.addFollower | apply Keeps.traceJump
    | with_reducible first | exact Keeps.issueBody | exact Keeps.loadBody _ | exact Keeps.storeBody _
    | split
    | rfl
    | exact (Cluster.take_acc _ _ _ _).1
    | exact (Cluster.take_acc _ _ _ _).2
    | dsimp only

theorem keeps_bmov {d a b : Nat} {s0 s1 : State} (hx : exec (.bmov d a b) s0 = .next s1) : Kept s0 s1 := by
  have h : execBmov d a b s0 = .next s1 := hx
  clear hx
  unfold execBmov at h
  refine Keeps.dispatch (fun s => ?_) h
  clear h
  repeat' first
    | (with_reducible first | refine Keeps.chainBody ?_ | refine Keeps.eretBody ?_)
    | with_reducible first | exact Att.holds_stall | exact Att.holds_trap | apply Att.holds_stall | apply Att.holds_trap | apply Att.holds_sendable | apply Att.holds_orderly | apply Att.holds_sendReady | apply Att.holds_xQuiet | apply Att.holds_need | apply Att.holds_check | apply Att.holds_capCheck | apply Att.holds_guardHints | apply Att.holds_guardPriv | apply Att.holds_guardCluster | apply Att.holds_aBody | apply Att.holds_orderStore | apply Att.holds_releaseWait | apply Att.holds_decides | apply Att.holds_replyCheck | apply Att.holds_guard | apply Att.holds_ok | apply Att.holds_stay | apply Att.holds_waits
    | (with_reducible refine Att.holds_popSdq (fun _ _ _ => ?_))
    | (with_reducible refine Att.holds_parkedCheck (fun _ => ?_))
    | with_reducible first | exact Keeps.refl _ | apply Keeps.setCur | apply Keeps.setCurCore | apply Keeps.emitAcc | apply Keeps.wcFlush | apply Keeps.jumpTo | apply Keeps.enqueueOut | apply Keeps.setMatrix | apply Keeps.setChain | apply Keeps.setGrammar | apply Keeps.setRun | apply Keeps.resumeRun | apply Keeps.performEng | apply Keeps.endChain | apply Keeps.copyResume | apply Keeps.pulse | apply Keeps.releaseMacros | apply Keeps.trapAt | apply Keeps.dropRoot | apply Keeps.wcFlushRoot | apply Keeps.setCluster | apply Keeps.countTaken | apply Keeps.serveSteal | apply Keeps.send | apply Keeps.takeId | apply Keeps.accs | apply Keeps.addFollower | apply Keeps.traceJump
    | with_reducible first | exact Keeps.issueBody | exact Keeps.loadBody _ | exact Keeps.storeBody _
    | split
    | rfl
    | exact (Cluster.take_acc _ _ _ _).1
    | exact (Cluster.take_acc _ _ _ _).2
    | dsimp only

theorem keeps_rep {q a b z sg t : Nat} {s0 s1 : State} (hx : exec (.rep q a b z sg t) s0 = .next s1) : Kept s0 s1 := by
  have h : execRep q a b z sg t s0 = .next s1 := hx
  clear hx
  unfold execRep at h
  refine Keeps.dispatch (fun s => ?_) h
  clear h
  repeat' first
    | (with_reducible first | refine Keeps.chainBody ?_ | refine Keeps.eretBody ?_)
    | with_reducible first | exact Att.holds_stall | exact Att.holds_trap | apply Att.holds_stall | apply Att.holds_trap | apply Att.holds_sendable | apply Att.holds_orderly | apply Att.holds_sendReady | apply Att.holds_xQuiet | apply Att.holds_need | apply Att.holds_check | apply Att.holds_capCheck | apply Att.holds_guardHints | apply Att.holds_guardPriv | apply Att.holds_guardCluster | apply Att.holds_aBody | apply Att.holds_orderStore | apply Att.holds_releaseWait | apply Att.holds_decides | apply Att.holds_replyCheck | apply Att.holds_guard | apply Att.holds_ok | apply Att.holds_stay | apply Att.holds_waits
    | (with_reducible refine Att.holds_popSdq (fun _ _ _ => ?_))
    | (with_reducible refine Att.holds_parkedCheck (fun _ => ?_))
    | with_reducible first | exact Keeps.refl _ | apply Keeps.setCur | apply Keeps.setCurCore | apply Keeps.emitAcc | apply Keeps.wcFlush | apply Keeps.jumpTo | apply Keeps.enqueueOut | apply Keeps.setMatrix | apply Keeps.setChain | apply Keeps.setGrammar | apply Keeps.setRun | apply Keeps.resumeRun | apply Keeps.performEng | apply Keeps.endChain | apply Keeps.copyResume | apply Keeps.pulse | apply Keeps.releaseMacros | apply Keeps.trapAt | apply Keeps.dropRoot | apply Keeps.wcFlushRoot | apply Keeps.setCluster | apply Keeps.countTaken | apply Keeps.serveSteal | apply Keeps.send | apply Keeps.takeId | apply Keeps.accs | apply Keeps.addFollower | apply Keeps.traceJump
    | with_reducible first | exact Keeps.issueBody | exact Keeps.loadBody _ | exact Keeps.storeBody _
    | split
    | rfl
    | exact (Cluster.take_acc _ _ _ _).1
    | exact (Cluster.take_acc _ _ _ _).2
    | dsimp only

theorem keeps_csrr {d im : Nat} {s0 s1 : State} (hx : exec (.csrr d im) s0 = .next s1) : Kept s0 s1 := by
  have h : execCsrr d im s0 = .next s1 := hx
  clear hx
  unfold execCsrr at h
  refine Keeps.dispatch (fun s => ?_) h
  clear h
  repeat' first
    | (with_reducible first | refine Keeps.chainBody ?_ | refine Keeps.eretBody ?_)
    | with_reducible first | exact Att.holds_stall | exact Att.holds_trap | apply Att.holds_stall | apply Att.holds_trap | apply Att.holds_sendable | apply Att.holds_orderly | apply Att.holds_sendReady | apply Att.holds_xQuiet | apply Att.holds_need | apply Att.holds_check | apply Att.holds_capCheck | apply Att.holds_guardHints | apply Att.holds_guardPriv | apply Att.holds_guardCluster | apply Att.holds_aBody | apply Att.holds_orderStore | apply Att.holds_releaseWait | apply Att.holds_decides | apply Att.holds_replyCheck | apply Att.holds_guard | apply Att.holds_ok | apply Att.holds_stay | apply Att.holds_waits
    | (with_reducible refine Att.holds_popSdq (fun _ _ _ => ?_))
    | (with_reducible refine Att.holds_parkedCheck (fun _ => ?_))
    | with_reducible first | exact Keeps.refl _ | apply Keeps.setCur | apply Keeps.setCurCore | apply Keeps.emitAcc | apply Keeps.wcFlush | apply Keeps.jumpTo | apply Keeps.enqueueOut | apply Keeps.setMatrix | apply Keeps.setChain | apply Keeps.setGrammar | apply Keeps.setRun | apply Keeps.resumeRun | apply Keeps.performEng | apply Keeps.endChain | apply Keeps.copyResume | apply Keeps.pulse | apply Keeps.releaseMacros | apply Keeps.trapAt | apply Keeps.dropRoot | apply Keeps.wcFlushRoot | apply Keeps.setCluster | apply Keeps.countTaken | apply Keeps.serveSteal | apply Keeps.send | apply Keeps.takeId | apply Keeps.accs | apply Keeps.addFollower | apply Keeps.traceJump
    | with_reducible first | exact Keeps.issueBody | exact Keeps.loadBody _ | exact Keeps.storeBody _
    | split
    | rfl
    | exact (Cluster.take_acc _ _ _ _).1
    | exact (Cluster.take_acc _ _ _ _).2
    | dsimp only

theorem keeps_beq {a b d : Nat} {s0 s1 : State} (hx : exec (.beq a b d) s0 = .next s1) : Kept s0 s1 := by
  have h : execBeq a b d s0 = .next s1 := hx
  clear hx
  unfold execBeq execBranch at h
  refine Keeps.dispatch (fun s => ?_) h
  clear h
  repeat' first
    | (with_reducible first | refine Keeps.chainBody ?_ | refine Keeps.eretBody ?_)
    | with_reducible first | exact Att.holds_stall | exact Att.holds_trap | apply Att.holds_stall | apply Att.holds_trap | apply Att.holds_sendable | apply Att.holds_orderly | apply Att.holds_sendReady | apply Att.holds_xQuiet | apply Att.holds_need | apply Att.holds_check | apply Att.holds_capCheck | apply Att.holds_guardHints | apply Att.holds_guardPriv | apply Att.holds_guardCluster | apply Att.holds_aBody | apply Att.holds_orderStore | apply Att.holds_releaseWait | apply Att.holds_decides | apply Att.holds_replyCheck | apply Att.holds_guard | apply Att.holds_ok | apply Att.holds_stay | apply Att.holds_waits
    | (with_reducible refine Att.holds_popSdq (fun _ _ _ => ?_))
    | (with_reducible refine Att.holds_parkedCheck (fun _ => ?_))
    | with_reducible first | exact Keeps.refl _ | apply Keeps.setCur | apply Keeps.setCurCore | apply Keeps.emitAcc | apply Keeps.wcFlush | apply Keeps.jumpTo | apply Keeps.enqueueOut | apply Keeps.setMatrix | apply Keeps.setChain | apply Keeps.setGrammar | apply Keeps.setRun | apply Keeps.resumeRun | apply Keeps.performEng | apply Keeps.endChain | apply Keeps.copyResume | apply Keeps.pulse | apply Keeps.releaseMacros | apply Keeps.trapAt | apply Keeps.dropRoot | apply Keeps.wcFlushRoot | apply Keeps.setCluster | apply Keeps.countTaken | apply Keeps.serveSteal | apply Keeps.send | apply Keeps.takeId | apply Keeps.accs | apply Keeps.addFollower | apply Keeps.traceJump
    | with_reducible first | exact Keeps.issueBody | exact Keeps.loadBody _ | exact Keeps.storeBody _
    | split
    | rfl
    | exact (Cluster.take_acc _ _ _ _).1
    | exact (Cluster.take_acc _ _ _ _).2
    | dsimp only

theorem keeps_bne {a b d : Nat} {s0 s1 : State} (hx : exec (.bne a b d) s0 = .next s1) : Kept s0 s1 := by
  have h : execBne a b d s0 = .next s1 := hx
  clear hx
  unfold execBne execBranch at h
  refine Keeps.dispatch (fun s => ?_) h
  clear h
  repeat' first
    | (with_reducible first | refine Keeps.chainBody ?_ | refine Keeps.eretBody ?_)
    | with_reducible first | exact Att.holds_stall | exact Att.holds_trap | apply Att.holds_stall | apply Att.holds_trap | apply Att.holds_sendable | apply Att.holds_orderly | apply Att.holds_sendReady | apply Att.holds_xQuiet | apply Att.holds_need | apply Att.holds_check | apply Att.holds_capCheck | apply Att.holds_guardHints | apply Att.holds_guardPriv | apply Att.holds_guardCluster | apply Att.holds_aBody | apply Att.holds_orderStore | apply Att.holds_releaseWait | apply Att.holds_decides | apply Att.holds_replyCheck | apply Att.holds_guard | apply Att.holds_ok | apply Att.holds_stay | apply Att.holds_waits
    | (with_reducible refine Att.holds_popSdq (fun _ _ _ => ?_))
    | (with_reducible refine Att.holds_parkedCheck (fun _ => ?_))
    | with_reducible first | exact Keeps.refl _ | apply Keeps.setCur | apply Keeps.setCurCore | apply Keeps.emitAcc | apply Keeps.wcFlush | apply Keeps.jumpTo | apply Keeps.enqueueOut | apply Keeps.setMatrix | apply Keeps.setChain | apply Keeps.setGrammar | apply Keeps.setRun | apply Keeps.resumeRun | apply Keeps.performEng | apply Keeps.endChain | apply Keeps.copyResume | apply Keeps.pulse | apply Keeps.releaseMacros | apply Keeps.trapAt | apply Keeps.dropRoot | apply Keeps.wcFlushRoot | apply Keeps.setCluster | apply Keeps.countTaken | apply Keeps.serveSteal | apply Keeps.send | apply Keeps.takeId | apply Keeps.accs | apply Keeps.addFollower | apply Keeps.traceJump
    | with_reducible first | exact Keeps.issueBody | exact Keeps.loadBody _ | exact Keeps.storeBody _
    | split
    | rfl
    | exact (Cluster.take_acc _ _ _ _).1
    | exact (Cluster.take_acc _ _ _ _).2
    | dsimp only

theorem keeps_blt {a b d : Nat} {s0 s1 : State} (hx : exec (.blt a b d) s0 = .next s1) : Kept s0 s1 := by
  have h : execBlt a b d s0 = .next s1 := hx
  clear hx
  unfold execBlt execBranch at h
  refine Keeps.dispatch (fun s => ?_) h
  clear h
  repeat' first
    | (with_reducible first | refine Keeps.chainBody ?_ | refine Keeps.eretBody ?_)
    | with_reducible first | exact Att.holds_stall | exact Att.holds_trap | apply Att.holds_stall | apply Att.holds_trap | apply Att.holds_sendable | apply Att.holds_orderly | apply Att.holds_sendReady | apply Att.holds_xQuiet | apply Att.holds_need | apply Att.holds_check | apply Att.holds_capCheck | apply Att.holds_guardHints | apply Att.holds_guardPriv | apply Att.holds_guardCluster | apply Att.holds_aBody | apply Att.holds_orderStore | apply Att.holds_releaseWait | apply Att.holds_decides | apply Att.holds_replyCheck | apply Att.holds_guard | apply Att.holds_ok | apply Att.holds_stay | apply Att.holds_waits
    | (with_reducible refine Att.holds_popSdq (fun _ _ _ => ?_))
    | (with_reducible refine Att.holds_parkedCheck (fun _ => ?_))
    | with_reducible first | exact Keeps.refl _ | apply Keeps.setCur | apply Keeps.setCurCore | apply Keeps.emitAcc | apply Keeps.wcFlush | apply Keeps.jumpTo | apply Keeps.enqueueOut | apply Keeps.setMatrix | apply Keeps.setChain | apply Keeps.setGrammar | apply Keeps.setRun | apply Keeps.resumeRun | apply Keeps.performEng | apply Keeps.endChain | apply Keeps.copyResume | apply Keeps.pulse | apply Keeps.releaseMacros | apply Keeps.trapAt | apply Keeps.dropRoot | apply Keeps.wcFlushRoot | apply Keeps.setCluster | apply Keeps.countTaken | apply Keeps.serveSteal | apply Keeps.send | apply Keeps.takeId | apply Keeps.accs | apply Keeps.addFollower | apply Keeps.traceJump
    | with_reducible first | exact Keeps.issueBody | exact Keeps.loadBody _ | exact Keeps.storeBody _
    | split
    | rfl
    | exact (Cluster.take_acc _ _ _ _).1
    | exact (Cluster.take_acc _ _ _ _).2
    | dsimp only

theorem keeps_bge {a b d : Nat} {s0 s1 : State} (hx : exec (.bge a b d) s0 = .next s1) : Kept s0 s1 := by
  have h : execBge a b d s0 = .next s1 := hx
  clear hx
  unfold execBge execBranch at h
  refine Keeps.dispatch (fun s => ?_) h
  clear h
  repeat' first
    | (with_reducible first | refine Keeps.chainBody ?_ | refine Keeps.eretBody ?_)
    | with_reducible first | exact Att.holds_stall | exact Att.holds_trap | apply Att.holds_stall | apply Att.holds_trap | apply Att.holds_sendable | apply Att.holds_orderly | apply Att.holds_sendReady | apply Att.holds_xQuiet | apply Att.holds_need | apply Att.holds_check | apply Att.holds_capCheck | apply Att.holds_guardHints | apply Att.holds_guardPriv | apply Att.holds_guardCluster | apply Att.holds_aBody | apply Att.holds_orderStore | apply Att.holds_releaseWait | apply Att.holds_decides | apply Att.holds_replyCheck | apply Att.holds_guard | apply Att.holds_ok | apply Att.holds_stay | apply Att.holds_waits
    | (with_reducible refine Att.holds_popSdq (fun _ _ _ => ?_))
    | (with_reducible refine Att.holds_parkedCheck (fun _ => ?_))
    | with_reducible first | exact Keeps.refl _ | apply Keeps.setCur | apply Keeps.setCurCore | apply Keeps.emitAcc | apply Keeps.wcFlush | apply Keeps.jumpTo | apply Keeps.enqueueOut | apply Keeps.setMatrix | apply Keeps.setChain | apply Keeps.setGrammar | apply Keeps.setRun | apply Keeps.resumeRun | apply Keeps.performEng | apply Keeps.endChain | apply Keeps.copyResume | apply Keeps.pulse | apply Keeps.releaseMacros | apply Keeps.trapAt | apply Keeps.dropRoot | apply Keeps.wcFlushRoot | apply Keeps.setCluster | apply Keeps.countTaken | apply Keeps.serveSteal | apply Keeps.send | apply Keeps.takeId | apply Keeps.accs | apply Keeps.addFollower | apply Keeps.traceJump
    | with_reducible first | exact Keeps.issueBody | exact Keeps.loadBody _ | exact Keeps.storeBody _
    | split
    | rfl
    | exact (Cluster.take_acc _ _ _ _).1
    | exact (Cluster.take_acc _ _ _ _).2
    | dsimp only

theorem keeps_bltu {a b d : Nat} {s0 s1 : State} (hx : exec (.bltu a b d) s0 = .next s1) : Kept s0 s1 := by
  have h : execBltu a b d s0 = .next s1 := hx
  clear hx
  unfold execBltu execBranch at h
  refine Keeps.dispatch (fun s => ?_) h
  clear h
  repeat' first
    | (with_reducible first | refine Keeps.chainBody ?_ | refine Keeps.eretBody ?_)
    | with_reducible first | exact Att.holds_stall | exact Att.holds_trap | apply Att.holds_stall | apply Att.holds_trap | apply Att.holds_sendable | apply Att.holds_orderly | apply Att.holds_sendReady | apply Att.holds_xQuiet | apply Att.holds_need | apply Att.holds_check | apply Att.holds_capCheck | apply Att.holds_guardHints | apply Att.holds_guardPriv | apply Att.holds_guardCluster | apply Att.holds_aBody | apply Att.holds_orderStore | apply Att.holds_releaseWait | apply Att.holds_decides | apply Att.holds_replyCheck | apply Att.holds_guard | apply Att.holds_ok | apply Att.holds_stay | apply Att.holds_waits
    | (with_reducible refine Att.holds_popSdq (fun _ _ _ => ?_))
    | (with_reducible refine Att.holds_parkedCheck (fun _ => ?_))
    | with_reducible first | exact Keeps.refl _ | apply Keeps.setCur | apply Keeps.setCurCore | apply Keeps.emitAcc | apply Keeps.wcFlush | apply Keeps.jumpTo | apply Keeps.enqueueOut | apply Keeps.setMatrix | apply Keeps.setChain | apply Keeps.setGrammar | apply Keeps.setRun | apply Keeps.resumeRun | apply Keeps.performEng | apply Keeps.endChain | apply Keeps.copyResume | apply Keeps.pulse | apply Keeps.releaseMacros | apply Keeps.trapAt | apply Keeps.dropRoot | apply Keeps.wcFlushRoot | apply Keeps.setCluster | apply Keeps.countTaken | apply Keeps.serveSteal | apply Keeps.send | apply Keeps.takeId | apply Keeps.accs | apply Keeps.addFollower | apply Keeps.traceJump
    | with_reducible first | exact Keeps.issueBody | exact Keeps.loadBody _ | exact Keeps.storeBody _
    | split
    | rfl
    | exact (Cluster.take_acc _ _ _ _).1
    | exact (Cluster.take_acc _ _ _ _).2
    | dsimp only

theorem keeps_bgeu {a b d : Nat} {s0 s1 : State} (hx : exec (.bgeu a b d) s0 = .next s1) : Kept s0 s1 := by
  have h : execBgeu a b d s0 = .next s1 := hx
  clear hx
  unfold execBgeu execBranch at h
  refine Keeps.dispatch (fun s => ?_) h
  clear h
  repeat' first
    | (with_reducible first | refine Keeps.chainBody ?_ | refine Keeps.eretBody ?_)
    | with_reducible first | exact Att.holds_stall | exact Att.holds_trap | apply Att.holds_stall | apply Att.holds_trap | apply Att.holds_sendable | apply Att.holds_orderly | apply Att.holds_sendReady | apply Att.holds_xQuiet | apply Att.holds_need | apply Att.holds_check | apply Att.holds_capCheck | apply Att.holds_guardHints | apply Att.holds_guardPriv | apply Att.holds_guardCluster | apply Att.holds_aBody | apply Att.holds_orderStore | apply Att.holds_releaseWait | apply Att.holds_decides | apply Att.holds_replyCheck | apply Att.holds_guard | apply Att.holds_ok | apply Att.holds_stay | apply Att.holds_waits
    | (with_reducible refine Att.holds_popSdq (fun _ _ _ => ?_))
    | (with_reducible refine Att.holds_parkedCheck (fun _ => ?_))
    | with_reducible first | exact Keeps.refl _ | apply Keeps.setCur | apply Keeps.setCurCore | apply Keeps.emitAcc | apply Keeps.wcFlush | apply Keeps.jumpTo | apply Keeps.enqueueOut | apply Keeps.setMatrix | apply Keeps.setChain | apply Keeps.setGrammar | apply Keeps.setRun | apply Keeps.resumeRun | apply Keeps.performEng | apply Keeps.endChain | apply Keeps.copyResume | apply Keeps.pulse | apply Keeps.releaseMacros | apply Keeps.trapAt | apply Keeps.dropRoot | apply Keeps.wcFlushRoot | apply Keeps.setCluster | apply Keeps.countTaken | apply Keeps.serveSteal | apply Keeps.send | apply Keeps.takeId | apply Keeps.accs | apply Keeps.addFollower | apply Keeps.traceJump
    | with_reducible first | exact Keeps.issueBody | exact Keeps.loadBody _ | exact Keeps.storeBody _
    | split
    | rfl
    | exact (Cluster.take_acc _ _ _ _).1
    | exact (Cluster.take_acc _ _ _ _).2
    | dsimp only

theorem keeps_bxq {d : Nat} {s0 s1 : State} (hx : exec (.bxq d) s0 = .next s1) : Kept s0 s1 := by
  have h : execBxq d s0 = .next s1 := hx
  clear hx
  unfold execBxq execQueueBranch at h
  refine Keeps.dispatch (fun s => ?_) h
  clear h
  repeat' first
    | (with_reducible first | refine Keeps.chainBody ?_ | refine Keeps.eretBody ?_)
    | with_reducible first | exact Att.holds_stall | exact Att.holds_trap | apply Att.holds_stall | apply Att.holds_trap | apply Att.holds_sendable | apply Att.holds_orderly | apply Att.holds_sendReady | apply Att.holds_xQuiet | apply Att.holds_need | apply Att.holds_check | apply Att.holds_capCheck | apply Att.holds_guardHints | apply Att.holds_guardPriv | apply Att.holds_guardCluster | apply Att.holds_aBody | apply Att.holds_orderStore | apply Att.holds_releaseWait | apply Att.holds_decides | apply Att.holds_replyCheck | apply Att.holds_guard | apply Att.holds_ok | apply Att.holds_stay | apply Att.holds_waits
    | (with_reducible refine Att.holds_popSdq (fun _ _ _ => ?_))
    | (with_reducible refine Att.holds_parkedCheck (fun _ => ?_))
    | with_reducible first | exact Keeps.refl _ | apply Keeps.setCur | apply Keeps.setCurCore | apply Keeps.emitAcc | apply Keeps.wcFlush | apply Keeps.jumpTo | apply Keeps.enqueueOut | apply Keeps.setMatrix | apply Keeps.setChain | apply Keeps.setGrammar | apply Keeps.setRun | apply Keeps.resumeRun | apply Keeps.performEng | apply Keeps.endChain | apply Keeps.copyResume | apply Keeps.pulse | apply Keeps.releaseMacros | apply Keeps.trapAt | apply Keeps.dropRoot | apply Keeps.wcFlushRoot | apply Keeps.setCluster | apply Keeps.countTaken | apply Keeps.serveSteal | apply Keeps.send | apply Keeps.takeId | apply Keeps.accs | apply Keeps.addFollower | apply Keeps.traceJump
    | with_reducible first | exact Keeps.issueBody | exact Keeps.loadBody _ | exact Keeps.storeBody _
    | split
    | rfl
    | exact (Cluster.take_acc _ _ _ _).1
    | exact (Cluster.take_acc _ _ _ _).2
    | dsimp only

theorem keeps_bxqz {d : Nat} {s0 s1 : State} (hx : exec (.bxqz d) s0 = .next s1) : Kept s0 s1 := by
  have h : execBxqz d s0 = .next s1 := hx
  clear hx
  unfold execBxqz execQueueBranch at h
  refine Keeps.dispatch (fun s => ?_) h
  clear h
  repeat' first
    | (with_reducible first | refine Keeps.chainBody ?_ | refine Keeps.eretBody ?_)
    | with_reducible first | exact Att.holds_stall | exact Att.holds_trap | apply Att.holds_stall | apply Att.holds_trap | apply Att.holds_sendable | apply Att.holds_orderly | apply Att.holds_sendReady | apply Att.holds_xQuiet | apply Att.holds_need | apply Att.holds_check | apply Att.holds_capCheck | apply Att.holds_guardHints | apply Att.holds_guardPriv | apply Att.holds_guardCluster | apply Att.holds_aBody | apply Att.holds_orderStore | apply Att.holds_releaseWait | apply Att.holds_decides | apply Att.holds_replyCheck | apply Att.holds_guard | apply Att.holds_ok | apply Att.holds_stay | apply Att.holds_waits
    | (with_reducible refine Att.holds_popSdq (fun _ _ _ => ?_))
    | (with_reducible refine Att.holds_parkedCheck (fun _ => ?_))
    | with_reducible first | exact Keeps.refl _ | apply Keeps.setCur | apply Keeps.setCurCore | apply Keeps.emitAcc | apply Keeps.wcFlush | apply Keeps.jumpTo | apply Keeps.enqueueOut | apply Keeps.setMatrix | apply Keeps.setChain | apply Keeps.setGrammar | apply Keeps.setRun | apply Keeps.resumeRun | apply Keeps.performEng | apply Keeps.endChain | apply Keeps.copyResume | apply Keeps.pulse | apply Keeps.releaseMacros | apply Keeps.trapAt | apply Keeps.dropRoot | apply Keeps.wcFlushRoot | apply Keeps.setCluster | apply Keeps.countTaken | apply Keeps.serveSteal | apply Keeps.send | apply Keeps.takeId | apply Keeps.accs | apply Keeps.addFollower | apply Keeps.traceJump
    | with_reducible first | exact Keeps.issueBody | exact Keeps.loadBody _ | exact Keeps.storeBody _
    | split
    | rfl
    | exact (Cluster.take_acc _ _ _ _).1
    | exact (Cluster.take_acc _ _ _ _).2
    | dsimp only

theorem keeps_j {t : Nat} {s0 s1 : State} (hx : exec (.j t) s0 = .next s1) : Kept s0 s1 := by
  have h : execJ t s0 = .next s1 := hx
  clear hx
  unfold execJ at h
  refine Keeps.dispatch (fun s => ?_) h
  clear h
  repeat' first
    | (with_reducible first | refine Keeps.chainBody ?_ | refine Keeps.eretBody ?_)
    | with_reducible first | exact Att.holds_stall | exact Att.holds_trap | apply Att.holds_stall | apply Att.holds_trap | apply Att.holds_sendable | apply Att.holds_orderly | apply Att.holds_sendReady | apply Att.holds_xQuiet | apply Att.holds_need | apply Att.holds_check | apply Att.holds_capCheck | apply Att.holds_guardHints | apply Att.holds_guardPriv | apply Att.holds_guardCluster | apply Att.holds_aBody | apply Att.holds_orderStore | apply Att.holds_releaseWait | apply Att.holds_decides | apply Att.holds_replyCheck | apply Att.holds_guard | apply Att.holds_ok | apply Att.holds_stay | apply Att.holds_waits
    | (with_reducible refine Att.holds_popSdq (fun _ _ _ => ?_))
    | (with_reducible refine Att.holds_parkedCheck (fun _ => ?_))
    | with_reducible first | exact Keeps.refl _ | apply Keeps.setCur | apply Keeps.setCurCore | apply Keeps.emitAcc | apply Keeps.wcFlush | apply Keeps.jumpTo | apply Keeps.enqueueOut | apply Keeps.setMatrix | apply Keeps.setChain | apply Keeps.setGrammar | apply Keeps.setRun | apply Keeps.resumeRun | apply Keeps.performEng | apply Keeps.endChain | apply Keeps.copyResume | apply Keeps.pulse | apply Keeps.releaseMacros | apply Keeps.trapAt | apply Keeps.dropRoot | apply Keeps.wcFlushRoot | apply Keeps.setCluster | apply Keeps.countTaken | apply Keeps.serveSteal | apply Keeps.send | apply Keeps.takeId | apply Keeps.accs | apply Keeps.addFollower | apply Keeps.traceJump
    | with_reducible first | exact Keeps.issueBody | exact Keeps.loadBody _ | exact Keeps.storeBody _
    | split
    | rfl
    | exact (Cluster.take_acc _ _ _ _).1
    | exact (Cluster.take_acc _ _ _ _).2
    | dsimp only

theorem keeps_jr {a : Nat} {s0 s1 : State} (hx : exec (.jr a) s0 = .next s1) : Kept s0 s1 := by
  have h : execJr a s0 = .next s1 := hx
  clear hx
  unfold execJr at h
  refine Keeps.dispatch (fun s => ?_) h
  clear h
  repeat' first
    | (with_reducible first | refine Keeps.chainBody ?_ | refine Keeps.eretBody ?_)
    | with_reducible first | exact Att.holds_stall | exact Att.holds_trap | apply Att.holds_stall | apply Att.holds_trap | apply Att.holds_sendable | apply Att.holds_orderly | apply Att.holds_sendReady | apply Att.holds_xQuiet | apply Att.holds_need | apply Att.holds_check | apply Att.holds_capCheck | apply Att.holds_guardHints | apply Att.holds_guardPriv | apply Att.holds_guardCluster | apply Att.holds_aBody | apply Att.holds_orderStore | apply Att.holds_releaseWait | apply Att.holds_decides | apply Att.holds_replyCheck | apply Att.holds_guard | apply Att.holds_ok | apply Att.holds_stay | apply Att.holds_waits
    | (with_reducible refine Att.holds_popSdq (fun _ _ _ => ?_))
    | (with_reducible refine Att.holds_parkedCheck (fun _ => ?_))
    | with_reducible first | exact Keeps.refl _ | apply Keeps.setCur | apply Keeps.setCurCore | apply Keeps.emitAcc | apply Keeps.wcFlush | apply Keeps.jumpTo | apply Keeps.enqueueOut | apply Keeps.setMatrix | apply Keeps.setChain | apply Keeps.setGrammar | apply Keeps.setRun | apply Keeps.resumeRun | apply Keeps.performEng | apply Keeps.endChain | apply Keeps.copyResume | apply Keeps.pulse | apply Keeps.releaseMacros | apply Keeps.trapAt | apply Keeps.dropRoot | apply Keeps.wcFlushRoot | apply Keeps.setCluster | apply Keeps.countTaken | apply Keeps.serveSteal | apply Keeps.send | apply Keeps.takeId | apply Keeps.accs | apply Keeps.addFollower | apply Keeps.traceJump
    | with_reducible first | exact Keeps.issueBody | exact Keeps.loadBody _ | exact Keeps.storeBody _
    | split
    | rfl
    | exact (Cluster.take_acc _ _ _ _).1
    | exact (Cluster.take_acc _ _ _ _).2
    | dsimp only

theorem keeps_loop {a l : Nat} {s0 s1 : State} (hx : exec (.loop a l) s0 = .next s1) : Kept s0 s1 := by
  have h : execLoop a l s0 = .next s1 := hx
  clear hx
  unfold execLoop at h
  refine Keeps.dispatch (fun s => ?_) h
  clear h
  repeat' first
    | (with_reducible first | refine Keeps.chainBody ?_ | refine Keeps.eretBody ?_)
    | with_reducible first | exact Att.holds_stall | exact Att.holds_trap | apply Att.holds_stall | apply Att.holds_trap | apply Att.holds_sendable | apply Att.holds_orderly | apply Att.holds_sendReady | apply Att.holds_xQuiet | apply Att.holds_need | apply Att.holds_check | apply Att.holds_capCheck | apply Att.holds_guardHints | apply Att.holds_guardPriv | apply Att.holds_guardCluster | apply Att.holds_aBody | apply Att.holds_orderStore | apply Att.holds_releaseWait | apply Att.holds_decides | apply Att.holds_replyCheck | apply Att.holds_guard | apply Att.holds_ok | apply Att.holds_stay | apply Att.holds_waits
    | (with_reducible refine Att.holds_popSdq (fun _ _ _ => ?_))
    | (with_reducible refine Att.holds_parkedCheck (fun _ => ?_))
    | with_reducible first | exact Keeps.refl _ | apply Keeps.setCur | apply Keeps.setCurCore | apply Keeps.emitAcc | apply Keeps.wcFlush | apply Keeps.jumpTo | apply Keeps.enqueueOut | apply Keeps.setMatrix | apply Keeps.setChain | apply Keeps.setGrammar | apply Keeps.setRun | apply Keeps.resumeRun | apply Keeps.performEng | apply Keeps.endChain | apply Keeps.copyResume | apply Keeps.pulse | apply Keeps.releaseMacros | apply Keeps.trapAt | apply Keeps.dropRoot | apply Keeps.wcFlushRoot | apply Keeps.setCluster | apply Keeps.countTaken | apply Keeps.serveSteal | apply Keeps.send | apply Keeps.takeId | apply Keeps.accs | apply Keeps.addFollower | apply Keeps.traceJump
    | with_reducible first | exact Keeps.issueBody | exact Keeps.loadBody _ | exact Keeps.storeBody _
    | split
    | rfl
    | exact (Cluster.take_acc _ _ _ _).1
    | exact (Cluster.take_acc _ _ _ _).2
    | dsimp only

theorem keeps_endAct {s0 s1 : State} (hx : exec (.endAct) s0 = .next s1) : KeepsButFlags s0 s1 := by
  have h : execEndAct s0 = .next s1 := hx
  unfold execEndAct at h
  exact KeepsButFlags.dispatch (fun s => Att.holds_xQuiet (Att.holds_aBody (Att.holds_ok (KeepsButFlags.endAct _ _ _)))) h

/-- The end of an activation outside a gang that serves none. -/
theorem keeps_endAct_alone {a : Activation} {s0 s1 : State} (hc : s0.cur? = some a) (hg : a.flow.gang = none)
    (hs : a.info.serves = none) (hx : exec (.endAct) s0 = .next s1) : Keeps s0 s1 := by
  have h : execEndAct s0 = .next s1 := hx
  unfold execEndAct at h
  refine Keeps.dispatch_alone hc hg (Att.holds_xQuiet_of (fun hq => Att.holds_aBody (Att.holds_ok ((Keeps.refl s0).endAct (fun b hb => ?_))))) h
  have : s0.cur? = some b := hb
  rw [hc] at this
  cases this
  rw [cur_of_cur? hc] at hq
  exact ⟨hq, hs⟩

theorem keeps_ecall {c : Nat} {s0 s1 : State} (hx : exec (.ecall c) s0 = .next s1) : Kept s0 s1 := by
  have h : execEcall c s0 = .next s1 := hx
  clear hx
  unfold execEcall execTrapCall at h
  refine Keeps.dispatch (fun s => ?_) h
  clear h
  repeat' first
    | (with_reducible first | refine Keeps.chainBody ?_ | refine Keeps.eretBody ?_)
    | with_reducible first | exact Att.holds_stall | exact Att.holds_trap | apply Att.holds_stall | apply Att.holds_trap | apply Att.holds_sendable | apply Att.holds_orderly | apply Att.holds_sendReady | apply Att.holds_xQuiet | apply Att.holds_need | apply Att.holds_check | apply Att.holds_capCheck | apply Att.holds_guardHints | apply Att.holds_guardPriv | apply Att.holds_guardCluster | apply Att.holds_aBody | apply Att.holds_orderStore | apply Att.holds_releaseWait | apply Att.holds_decides | apply Att.holds_replyCheck | apply Att.holds_guard | apply Att.holds_ok | apply Att.holds_stay | apply Att.holds_waits
    | (with_reducible refine Att.holds_popSdq (fun _ _ _ => ?_))
    | (with_reducible refine Att.holds_parkedCheck (fun _ => ?_))
    | with_reducible first | exact Keeps.refl _ | apply Keeps.setCur | apply Keeps.setCurCore | apply Keeps.emitAcc | apply Keeps.wcFlush | apply Keeps.jumpTo | apply Keeps.enqueueOut | apply Keeps.setMatrix | apply Keeps.setChain | apply Keeps.setGrammar | apply Keeps.setRun | apply Keeps.resumeRun | apply Keeps.performEng | apply Keeps.endChain | apply Keeps.copyResume | apply Keeps.pulse | apply Keeps.releaseMacros | apply Keeps.trapAt | apply Keeps.dropRoot | apply Keeps.wcFlushRoot | apply Keeps.setCluster | apply Keeps.countTaken | apply Keeps.serveSteal | apply Keeps.send | apply Keeps.takeId | apply Keeps.accs | apply Keeps.addFollower | apply Keeps.traceJump
    | with_reducible first | exact Keeps.issueBody | exact Keeps.loadBody _ | exact Keeps.storeBody _
    | split
    | rfl
    | exact (Cluster.take_acc _ _ _ _).1
    | exact (Cluster.take_acc _ _ _ _).2
    | dsimp only

theorem keeps_brk {c : Nat} {s0 s1 : State} (hx : exec (.brk c) s0 = .next s1) : Kept s0 s1 := by
  have h : execBrk c s0 = .next s1 := hx
  clear hx
  unfold execBrk execTrapCall at h
  refine Keeps.dispatch (fun s => ?_) h
  clear h
  repeat' first
    | (with_reducible first | refine Keeps.chainBody ?_ | refine Keeps.eretBody ?_)
    | with_reducible first | exact Att.holds_stall | exact Att.holds_trap | apply Att.holds_stall | apply Att.holds_trap | apply Att.holds_sendable | apply Att.holds_orderly | apply Att.holds_sendReady | apply Att.holds_xQuiet | apply Att.holds_need | apply Att.holds_check | apply Att.holds_capCheck | apply Att.holds_guardHints | apply Att.holds_guardPriv | apply Att.holds_guardCluster | apply Att.holds_aBody | apply Att.holds_orderStore | apply Att.holds_releaseWait | apply Att.holds_decides | apply Att.holds_replyCheck | apply Att.holds_guard | apply Att.holds_ok | apply Att.holds_stay | apply Att.holds_waits
    | (with_reducible refine Att.holds_popSdq (fun _ _ _ => ?_))
    | (with_reducible refine Att.holds_parkedCheck (fun _ => ?_))
    | with_reducible first | exact Keeps.refl _ | apply Keeps.setCur | apply Keeps.setCurCore | apply Keeps.emitAcc | apply Keeps.wcFlush | apply Keeps.jumpTo | apply Keeps.enqueueOut | apply Keeps.setMatrix | apply Keeps.setChain | apply Keeps.setGrammar | apply Keeps.setRun | apply Keeps.resumeRun | apply Keeps.performEng | apply Keeps.endChain | apply Keeps.copyResume | apply Keeps.pulse | apply Keeps.releaseMacros | apply Keeps.trapAt | apply Keeps.dropRoot | apply Keeps.wcFlushRoot | apply Keeps.setCluster | apply Keeps.countTaken | apply Keeps.serveSteal | apply Keeps.send | apply Keeps.takeId | apply Keeps.accs | apply Keeps.addFollower | apply Keeps.traceJump
    | with_reducible first | exact Keeps.issueBody | exact Keeps.loadBody _ | exact Keeps.storeBody _
    | split
    | rfl
    | exact (Cluster.take_acc _ _ _ _).1
    | exact (Cluster.take_acc _ _ _ _).2
    | dsimp only

theorem keeps_send {a b r h : Nat} {s0 s1 : State} (hx : exec (.send a b r h) s0 = .next s1) : Kept s0 s1 := by
  have h : execSend a b r h s0 = .next s1 := hx
  clear hx
  unfold execSend at h
  refine Keeps.dispatch (fun s => ?_) h
  clear h
  repeat' first
    | (with_reducible first | refine Keeps.chainBody ?_ | refine Keeps.eretBody ?_)
    | with_reducible first | exact Att.holds_stall | exact Att.holds_trap | apply Att.holds_stall | apply Att.holds_trap | apply Att.holds_sendable | apply Att.holds_orderly | apply Att.holds_sendReady | apply Att.holds_xQuiet | apply Att.holds_need | apply Att.holds_check | apply Att.holds_capCheck | apply Att.holds_guardHints | apply Att.holds_guardPriv | apply Att.holds_guardCluster | apply Att.holds_aBody | apply Att.holds_orderStore | apply Att.holds_releaseWait | apply Att.holds_decides | apply Att.holds_replyCheck | apply Att.holds_guard | apply Att.holds_ok | apply Att.holds_stay | apply Att.holds_waits
    | (with_reducible refine Att.holds_popSdq (fun _ _ _ => ?_))
    | (with_reducible refine Att.holds_parkedCheck (fun _ => ?_))
    | with_reducible first | exact Keeps.refl _ | apply Keeps.setCur | apply Keeps.setCurCore | apply Keeps.emitAcc | apply Keeps.wcFlush | apply Keeps.jumpTo | apply Keeps.enqueueOut | apply Keeps.setMatrix | apply Keeps.setChain | apply Keeps.setGrammar | apply Keeps.setRun | apply Keeps.resumeRun | apply Keeps.performEng | apply Keeps.endChain | apply Keeps.copyResume | apply Keeps.pulse | apply Keeps.releaseMacros | apply Keeps.trapAt | apply Keeps.dropRoot | apply Keeps.wcFlushRoot | apply Keeps.setCluster | apply Keeps.countTaken | apply Keeps.serveSteal | apply Keeps.send | apply Keeps.takeId | apply Keeps.accs | apply Keeps.addFollower | apply Keeps.traceJump
    | with_reducible first | exact Keeps.issueBody | exact Keeps.loadBody _ | exact Keeps.storeBody _
    | split
    | rfl
    | exact (Cluster.take_acc _ _ _ _).1
    | exact (Cluster.take_acc _ _ _ _).2
    | dsimp only

theorem keeps_sende {a b p : Nat} {s0 s1 : State} (hx : exec (.sende a b p) s0 = .next s1) : Kept s0 s1 := by
  have h : execSende a b p s0 = .next s1 := hx
  clear hx
  unfold execSende at h
  refine Keeps.dispatch (fun s => ?_) h
  clear h
  repeat' first
    | (with_reducible first | refine Keeps.chainBody ?_ | refine Keeps.eretBody ?_)
    | with_reducible first | exact Att.holds_stall | exact Att.holds_trap | apply Att.holds_stall | apply Att.holds_trap | apply Att.holds_sendable | apply Att.holds_orderly | apply Att.holds_sendReady | apply Att.holds_xQuiet | apply Att.holds_need | apply Att.holds_check | apply Att.holds_capCheck | apply Att.holds_guardHints | apply Att.holds_guardPriv | apply Att.holds_guardCluster | apply Att.holds_aBody | apply Att.holds_orderStore | apply Att.holds_releaseWait | apply Att.holds_decides | apply Att.holds_replyCheck | apply Att.holds_guard | apply Att.holds_ok | apply Att.holds_stay | apply Att.holds_waits
    | (with_reducible refine Att.holds_popSdq (fun _ _ _ => ?_))
    | (with_reducible refine Att.holds_parkedCheck (fun _ => ?_))
    | with_reducible first | exact Keeps.refl _ | apply Keeps.setCur | apply Keeps.setCurCore | apply Keeps.emitAcc | apply Keeps.wcFlush | apply Keeps.jumpTo | apply Keeps.enqueueOut | apply Keeps.setMatrix | apply Keeps.setChain | apply Keeps.setGrammar | apply Keeps.setRun | apply Keeps.resumeRun | apply Keeps.performEng | apply Keeps.endChain | apply Keeps.copyResume | apply Keeps.pulse | apply Keeps.releaseMacros | apply Keeps.trapAt | apply Keeps.dropRoot | apply Keeps.wcFlushRoot | apply Keeps.setCluster | apply Keeps.countTaken | apply Keeps.serveSteal | apply Keeps.send | apply Keeps.takeId | apply Keeps.accs | apply Keeps.addFollower | apply Keeps.traceJump
    | with_reducible first | exact Keeps.issueBody | exact Keeps.loadBody _ | exact Keeps.storeBody _
    | split
    | rfl
    | exact (Cluster.take_acc _ _ _ _).1
    | exact (Cluster.take_acc _ _ _ _).2
    | dsimp only

theorem keeps_reply {a : Nat} {s0 s1 : State} (hx : exec (.reply a) s0 = .next s1) : Kept s0 s1 := by
  have h : execReply a s0 = .next s1 := hx
  clear hx
  unfold execReply at h
  refine Keeps.dispatch (fun s => ?_) h
  clear h
  repeat' first
    | (with_reducible first | refine Keeps.chainBody ?_ | refine Keeps.eretBody ?_)
    | with_reducible first | exact Att.holds_stall | exact Att.holds_trap | apply Att.holds_stall | apply Att.holds_trap | apply Att.holds_sendable | apply Att.holds_orderly | apply Att.holds_sendReady | apply Att.holds_xQuiet | apply Att.holds_need | apply Att.holds_check | apply Att.holds_capCheck | apply Att.holds_guardHints | apply Att.holds_guardPriv | apply Att.holds_guardCluster | apply Att.holds_aBody | apply Att.holds_orderStore | apply Att.holds_releaseWait | apply Att.holds_decides | apply Att.holds_replyCheck | apply Att.holds_guard | apply Att.holds_ok | apply Att.holds_stay | apply Att.holds_waits
    | (with_reducible refine Att.holds_popSdq (fun _ _ _ => ?_))
    | (with_reducible refine Att.holds_parkedCheck (fun _ => ?_))
    | with_reducible first | exact Keeps.refl _ | apply Keeps.setCur | apply Keeps.setCurCore | apply Keeps.emitAcc | apply Keeps.wcFlush | apply Keeps.jumpTo | apply Keeps.enqueueOut | apply Keeps.setMatrix | apply Keeps.setChain | apply Keeps.setGrammar | apply Keeps.setRun | apply Keeps.resumeRun | apply Keeps.performEng | apply Keeps.endChain | apply Keeps.copyResume | apply Keeps.pulse | apply Keeps.releaseMacros | apply Keeps.trapAt | apply Keeps.dropRoot | apply Keeps.wcFlushRoot | apply Keeps.setCluster | apply Keeps.countTaken | apply Keeps.serveSteal | apply Keeps.send | apply Keeps.takeId | apply Keeps.accs | apply Keeps.addFollower | apply Keeps.traceJump
    | with_reducible first | exact Keeps.issueBody | exact Keeps.loadBody _ | exact Keeps.storeBody _
    | split
    | rfl
    | exact (Cluster.take_acc _ _ _ _).1
    | exact (Cluster.take_acc _ _ _ _).2
    | dsimp only

theorem keeps_jarrive {a b p : Nat} {s0 s1 : State} (hx : exec (.jarrive a b p) s0 = .next s1) : Kept s0 s1 := by
  have h : execJarrive a b p s0 = .next s1 := hx
  clear hx
  unfold execJarrive at h
  refine Keeps.dispatch (fun s => ?_) h
  clear h
  repeat' first
    | (with_reducible first | refine Keeps.chainBody ?_ | refine Keeps.eretBody ?_)
    | with_reducible first | exact Att.holds_stall | exact Att.holds_trap | apply Att.holds_stall | apply Att.holds_trap | apply Att.holds_sendable | apply Att.holds_orderly | apply Att.holds_sendReady | apply Att.holds_xQuiet | apply Att.holds_need | apply Att.holds_check | apply Att.holds_capCheck | apply Att.holds_guardHints | apply Att.holds_guardPriv | apply Att.holds_guardCluster | apply Att.holds_aBody | apply Att.holds_orderStore | apply Att.holds_releaseWait | apply Att.holds_decides | apply Att.holds_replyCheck | apply Att.holds_guard | apply Att.holds_ok | apply Att.holds_stay | apply Att.holds_waits
    | (with_reducible refine Att.holds_popSdq (fun _ _ _ => ?_))
    | (with_reducible refine Att.holds_parkedCheck (fun _ => ?_))
    | with_reducible first | exact Keeps.refl _ | apply Keeps.setCur | apply Keeps.setCurCore | apply Keeps.emitAcc | apply Keeps.wcFlush | apply Keeps.jumpTo | apply Keeps.enqueueOut | apply Keeps.setMatrix | apply Keeps.setChain | apply Keeps.setGrammar | apply Keeps.setRun | apply Keeps.resumeRun | apply Keeps.performEng | apply Keeps.endChain | apply Keeps.copyResume | apply Keeps.pulse | apply Keeps.releaseMacros | apply Keeps.trapAt | apply Keeps.dropRoot | apply Keeps.wcFlushRoot | apply Keeps.setCluster | apply Keeps.countTaken | apply Keeps.serveSteal | apply Keeps.send | apply Keeps.takeId | apply Keeps.accs | apply Keeps.addFollower | apply Keeps.traceJump
    | with_reducible first | exact Keeps.issueBody | exact Keeps.loadBody _ | exact Keeps.storeBody _
    | split
    | rfl
    | exact (Cluster.take_acc _ _ _ _).1
    | exact (Cluster.take_acc _ _ _ _).2
    | dsimp only

theorem keeps_gang {n : Nat} {s0 s1 : State} (hx : exec (.gang n) s0 = .next s1) : Kept s0 s1 := by
  have h : execGang n s0 = .next s1 := hx
  clear hx
  unfold execGang at h
  refine Keeps.dispatch (fun s => ?_) h
  refine Att.holds_xQuiet (Att.holds_aBody (Att.holds_check (Att.holds_check (Att.holds_check (Att.holds_need (Att.holds_ok (Keeps.setCur ?_)))))))
  exact Keeps.foldl (fun _ _ _ k => k.addFollower) _ (Keeps.refl s)

theorem keeps_disband {s0 s1 : State} (hx : exec (.disband) s0 = .next s1) : KeepsButFlags s0 s1 := by
  have h : execDisband s0 = .next s1 := hx
  unfold execDisband at h
  refine KeepsButFlags.dispatch (fun s => Att.holds_xQuiet (Att.holds_aBody ?_)) h
  split
  · exact KeepsButFlags.endAct _ _ _
  · exact (Keeps.refl s).setCur.butFlags

/-- Outside a gang only the wait is made. -/
theorem keeps_disband_alone {a : Activation} {s0 s1 : State} (hc : s0.cur? = some a) (hg : a.flow.gang = none)
    (hx : exec (.disband) s0 = .next s1) : Keeps s0 s1 := by
  have h : execDisband s0 = .next s1 := hx
  unfold execDisband at h
  refine Keeps.dispatch_alone hc hg (Att.holds_xQuiet (Att.holds_aBody ?_)) h
  have hl : s0.lane = 0 := by rw [State.lane, cur_of_cur? hc, hg]
  rw [if_neg (by rw [hl]; exact fun h => h rfl)]
  exact (Keeps.refl s0).setCur

theorem keeps_stacq {d a b r : Nat} {s0 s1 : State} (hx : exec (.stacq d a b r) s0 = .next s1) : Kept s0 s1 := by
  have h : execStacq d a b r s0 = .next s1 := hx
  clear hx
  unfold execStacq at h
  exact Keeps.dispatch Keeps.ringBody h

theorem keeps_strel {d a b : Nat} {s0 s1 : State} (hx : exec (.strel d a b) s0 = .next s1) : Kept s0 s1 := by
  have h : execStrel d a b s0 = .next s1 := hx
  clear hx
  unfold execStrel at h
  exact Keeps.dispatch Keeps.ringBody h

theorem keeps_dqpush {a b : Nat} {s0 s1 : State} (hx : exec (.dqpush a b) s0 = .next s1) : Kept s0 s1 := by
  have h : execDqpush a b s0 = .next s1 := hx
  clear hx
  unfold execDqpush at h
  refine Keeps.dispatch (fun s => ?_) h
  clear h
  repeat' first
    | (with_reducible first | refine Keeps.chainBody ?_ | refine Keeps.eretBody ?_)
    | with_reducible first | exact Att.holds_stall | exact Att.holds_trap | apply Att.holds_stall | apply Att.holds_trap | apply Att.holds_sendable | apply Att.holds_orderly | apply Att.holds_sendReady | apply Att.holds_xQuiet | apply Att.holds_need | apply Att.holds_check | apply Att.holds_capCheck | apply Att.holds_guardHints | apply Att.holds_guardPriv | apply Att.holds_guardCluster | apply Att.holds_aBody | apply Att.holds_orderStore | apply Att.holds_releaseWait | apply Att.holds_decides | apply Att.holds_replyCheck | apply Att.holds_guard | apply Att.holds_ok | apply Att.holds_stay | apply Att.holds_waits
    | (with_reducible refine Att.holds_popSdq (fun _ _ _ => ?_))
    | (with_reducible refine Att.holds_parkedCheck (fun _ => ?_))
    | with_reducible first | exact Keeps.refl _ | apply Keeps.setCur | apply Keeps.setCurCore | apply Keeps.emitAcc | apply Keeps.wcFlush | apply Keeps.jumpTo | apply Keeps.enqueueOut | apply Keeps.setMatrix | apply Keeps.setChain | apply Keeps.setGrammar | apply Keeps.setRun | apply Keeps.resumeRun | apply Keeps.performEng | apply Keeps.endChain | apply Keeps.copyResume | apply Keeps.pulse | apply Keeps.releaseMacros | apply Keeps.trapAt | apply Keeps.dropRoot | apply Keeps.wcFlushRoot | apply Keeps.setCluster | apply Keeps.countTaken | apply Keeps.serveSteal | apply Keeps.send | apply Keeps.takeId | apply Keeps.accs | apply Keeps.addFollower | apply Keeps.traceJump
    | with_reducible first | exact Keeps.issueBody | exact Keeps.loadBody _ | exact Keeps.storeBody _
    | split
    | rfl
    | exact (Cluster.take_acc _ _ _ _).1
    | exact (Cluster.take_acc _ _ _ _).2
    | dsimp only

theorem keeps_dqpop {d : Nat} {s0 s1 : State} (hx : exec (.dqpop d) s0 = .next s1) : Kept s0 s1 := by
  have h : execDqpop d s0 = .next s1 := hx
  clear hx
  unfold execDqpop at h
  refine Keeps.dispatch (fun s => ?_) h
  clear h
  repeat' first
    | (with_reducible first | refine Keeps.chainBody ?_ | refine Keeps.eretBody ?_)
    | with_reducible first | exact Att.holds_stall | exact Att.holds_trap | apply Att.holds_stall | apply Att.holds_trap | apply Att.holds_sendable | apply Att.holds_orderly | apply Att.holds_sendReady | apply Att.holds_xQuiet | apply Att.holds_need | apply Att.holds_check | apply Att.holds_capCheck | apply Att.holds_guardHints | apply Att.holds_guardPriv | apply Att.holds_guardCluster | apply Att.holds_aBody | apply Att.holds_orderStore | apply Att.holds_releaseWait | apply Att.holds_decides | apply Att.holds_replyCheck | apply Att.holds_guard | apply Att.holds_ok | apply Att.holds_stay | apply Att.holds_waits
    | (with_reducible refine Att.holds_popSdq (fun _ _ _ => ?_))
    | (with_reducible refine Att.holds_parkedCheck (fun _ => ?_))
    | with_reducible first | exact Keeps.refl _ | apply Keeps.setCur | apply Keeps.setCurCore | apply Keeps.emitAcc | apply Keeps.wcFlush | apply Keeps.jumpTo | apply Keeps.enqueueOut | apply Keeps.setMatrix | apply Keeps.setChain | apply Keeps.setGrammar | apply Keeps.setRun | apply Keeps.resumeRun | apply Keeps.performEng | apply Keeps.endChain | apply Keeps.copyResume | apply Keeps.pulse | apply Keeps.releaseMacros | apply Keeps.trapAt | apply Keeps.dropRoot | apply Keeps.wcFlushRoot | apply Keeps.setCluster | apply Keeps.countTaken | apply Keeps.serveSteal | apply Keeps.send | apply Keeps.takeId | apply Keeps.accs | apply Keeps.addFollower | apply Keeps.traceJump
    | with_reducible first | exact Keeps.issueBody | exact Keeps.loadBody _ | exact Keeps.storeBody _
    | split
    | rfl
    | exact (Cluster.take_acc _ _ _ _).1
    | exact (Cluster.take_acc _ _ _ _).2
    | dsimp only

theorem keeps_dqsplit {s0 s1 : State} (hx : exec (.dqsplit) s0 = .next s1) : Kept s0 s1 := by
  have h : execDqsplit  s0 = .next s1 := hx
  clear hx
  unfold execDqsplit at h
  refine Keeps.dispatch (fun s => ?_) h
  clear h
  repeat' first
    | (with_reducible first | refine Keeps.chainBody ?_ | refine Keeps.eretBody ?_)
    | with_reducible first | exact Att.holds_stall | exact Att.holds_trap | apply Att.holds_stall | apply Att.holds_trap | apply Att.holds_sendable | apply Att.holds_orderly | apply Att.holds_sendReady | apply Att.holds_xQuiet | apply Att.holds_need | apply Att.holds_check | apply Att.holds_capCheck | apply Att.holds_guardHints | apply Att.holds_guardPriv | apply Att.holds_guardCluster | apply Att.holds_aBody | apply Att.holds_orderStore | apply Att.holds_releaseWait | apply Att.holds_decides | apply Att.holds_replyCheck | apply Att.holds_guard | apply Att.holds_ok | apply Att.holds_stay | apply Att.holds_waits
    | (with_reducible refine Att.holds_popSdq (fun _ _ _ => ?_))
    | (with_reducible refine Att.holds_parkedCheck (fun _ => ?_))
    | with_reducible first | exact Keeps.refl _ | apply Keeps.setCur | apply Keeps.setCurCore | apply Keeps.emitAcc | apply Keeps.wcFlush | apply Keeps.jumpTo | apply Keeps.enqueueOut | apply Keeps.setMatrix | apply Keeps.setChain | apply Keeps.setGrammar | apply Keeps.setRun | apply Keeps.resumeRun | apply Keeps.performEng | apply Keeps.endChain | apply Keeps.copyResume | apply Keeps.pulse | apply Keeps.releaseMacros | apply Keeps.trapAt | apply Keeps.dropRoot | apply Keeps.wcFlushRoot | apply Keeps.setCluster | apply Keeps.countTaken | apply Keeps.serveSteal | apply Keeps.send | apply Keeps.takeId | apply Keeps.accs | apply Keeps.addFollower | apply Keeps.traceJump
    | with_reducible first | exact Keeps.issueBody | exact Keeps.loadBody _ | exact Keeps.storeBody _
    | split
    | rfl
    | exact (Cluster.take_acc _ _ _ _).1
    | exact (Cluster.take_acc _ _ _ _).2
    | dsimp only

theorem keeps_dqsteal {d a : Nat} {s0 s1 : State} (hx : exec (.dqsteal d a) s0 = .next s1) : Kept s0 s1 := by
  have h : execDqsteal d a s0 = .next s1 := hx
  clear hx
  unfold execDqsteal at h
  refine Keeps.dispatch (fun s => ?_) h
  clear h
  repeat' first
    | (with_reducible first | refine Keeps.chainBody ?_ | refine Keeps.eretBody ?_)
    | with_reducible first | exact Att.holds_stall | exact Att.holds_trap | apply Att.holds_stall | apply Att.holds_trap | apply Att.holds_sendable | apply Att.holds_orderly | apply Att.holds_sendReady | apply Att.holds_xQuiet | apply Att.holds_need | apply Att.holds_check | apply Att.holds_capCheck | apply Att.holds_guardHints | apply Att.holds_guardPriv | apply Att.holds_guardCluster | apply Att.holds_aBody | apply Att.holds_orderStore | apply Att.holds_releaseWait | apply Att.holds_decides | apply Att.holds_replyCheck | apply Att.holds_guard | apply Att.holds_ok | apply Att.holds_stay | apply Att.holds_waits
    | (with_reducible refine Att.holds_popSdq (fun _ _ _ => ?_))
    | (with_reducible refine Att.holds_parkedCheck (fun _ => ?_))
    | with_reducible first | exact Keeps.refl _ | apply Keeps.setCur | apply Keeps.setCurCore | apply Keeps.emitAcc | apply Keeps.wcFlush | apply Keeps.jumpTo | apply Keeps.enqueueOut | apply Keeps.setMatrix | apply Keeps.setChain | apply Keeps.setGrammar | apply Keeps.setRun | apply Keeps.resumeRun | apply Keeps.performEng | apply Keeps.endChain | apply Keeps.copyResume | apply Keeps.pulse | apply Keeps.releaseMacros | apply Keeps.trapAt | apply Keeps.dropRoot | apply Keeps.wcFlushRoot | apply Keeps.setCluster | apply Keeps.countTaken | apply Keeps.serveSteal | apply Keeps.send | apply Keeps.takeId | apply Keeps.accs | apply Keeps.addFollower | apply Keeps.traceJump
    | with_reducible first | exact Keeps.issueBody | exact Keeps.loadBody _ | exact Keeps.storeBody _
    | split
    | rfl
    | exact (Cluster.take_acc _ _ _ _).1
    | exact (Cluster.take_acc _ _ _ _).2
    | dsimp only

theorem keeps_tlwait {a x : Nat} {s0 s1 : State} (hx : exec (.tlwait a x) s0 = .next s1) : Kept s0 s1 := by
  have h : execTlwait a x s0 = .next s1 := hx
  clear hx
  unfold execTlwait at h
  refine Keeps.dispatch (fun s => ?_) h
  clear h
  repeat' first
    | (with_reducible first | refine Keeps.chainBody ?_ | refine Keeps.eretBody ?_)
    | with_reducible first | exact Att.holds_stall | exact Att.holds_trap | apply Att.holds_stall | apply Att.holds_trap | apply Att.holds_sendable | apply Att.holds_orderly | apply Att.holds_sendReady | apply Att.holds_xQuiet | apply Att.holds_need | apply Att.holds_check | apply Att.holds_capCheck | apply Att.holds_guardHints | apply Att.holds_guardPriv | apply Att.holds_guardCluster | apply Att.holds_aBody | apply Att.holds_orderStore | apply Att.holds_releaseWait | apply Att.holds_decides | apply Att.holds_replyCheck | apply Att.holds_guard | apply Att.holds_ok | apply Att.holds_stay | apply Att.holds_waits
    | (with_reducible refine Att.holds_popSdq (fun _ _ _ => ?_))
    | (with_reducible refine Att.holds_parkedCheck (fun _ => ?_))
    | with_reducible first | exact Keeps.refl _ | apply Keeps.setCur | apply Keeps.setCurCore | apply Keeps.emitAcc | apply Keeps.wcFlush | apply Keeps.jumpTo | apply Keeps.enqueueOut | apply Keeps.setMatrix | apply Keeps.setChain | apply Keeps.setGrammar | apply Keeps.setRun | apply Keeps.resumeRun | apply Keeps.performEng | apply Keeps.endChain | apply Keeps.copyResume | apply Keeps.pulse | apply Keeps.releaseMacros | apply Keeps.trapAt | apply Keeps.dropRoot | apply Keeps.wcFlushRoot | apply Keeps.setCluster | apply Keeps.countTaken | apply Keeps.serveSteal | apply Keeps.send | apply Keeps.takeId | apply Keeps.accs | apply Keeps.addFollower | apply Keeps.traceJump
    | with_reducible first | exact Keeps.issueBody | exact Keeps.loadBody _ | exact Keeps.storeBody _
    | split
    | rfl
    | exact (Cluster.take_acc _ _ _ _).1
    | exact (Cluster.take_acc _ _ _ _).2
    | dsimp only

theorem keeps_tlread {d sg x : Nat} {s0 s1 : State} (hx : exec (.tlread d sg x) s0 = .next s1) : Kept s0 s1 := by
  have h : execTlread d sg x s0 = .next s1 := hx
  clear hx
  unfold execTlread at h
  refine Keeps.dispatch (fun s => ?_) h
  clear h
  repeat' first
    | (with_reducible first | refine Keeps.chainBody ?_ | refine Keeps.eretBody ?_)
    | with_reducible first | exact Att.holds_stall | exact Att.holds_trap | apply Att.holds_stall | apply Att.holds_trap | apply Att.holds_sendable | apply Att.holds_orderly | apply Att.holds_sendReady | apply Att.holds_xQuiet | apply Att.holds_need | apply Att.holds_check | apply Att.holds_capCheck | apply Att.holds_guardHints | apply Att.holds_guardPriv | apply Att.holds_guardCluster | apply Att.holds_aBody | apply Att.holds_orderStore | apply Att.holds_releaseWait | apply Att.holds_decides | apply Att.holds_replyCheck | apply Att.holds_guard | apply Att.holds_ok | apply Att.holds_stay | apply Att.holds_waits
    | (with_reducible refine Att.holds_popSdq (fun _ _ _ => ?_))
    | (with_reducible refine Att.holds_parkedCheck (fun _ => ?_))
    | with_reducible first | exact Keeps.refl _ | apply Keeps.setCur | apply Keeps.setCurCore | apply Keeps.emitAcc | apply Keeps.wcFlush | apply Keeps.jumpTo | apply Keeps.enqueueOut | apply Keeps.setMatrix | apply Keeps.setChain | apply Keeps.setGrammar | apply Keeps.setRun | apply Keeps.resumeRun | apply Keeps.performEng | apply Keeps.endChain | apply Keeps.copyResume | apply Keeps.pulse | apply Keeps.releaseMacros | apply Keeps.trapAt | apply Keeps.dropRoot | apply Keeps.wcFlushRoot | apply Keeps.setCluster | apply Keeps.countTaken | apply Keeps.serveSteal | apply Keeps.send | apply Keeps.takeId | apply Keeps.accs | apply Keeps.addFollower | apply Keeps.traceJump
    | with_reducible first | exact Keeps.issueBody | exact Keeps.loadBody _ | exact Keeps.storeBody _
    | split
    | rfl
    | exact (Cluster.take_acc _ _ _ _).1
    | exact (Cluster.take_acc _ _ _ _).2
    | dsimp only

theorem keeps_evsig {p l : Nat} {s0 s1 : State} (hx : exec (.evsig p l) s0 = .next s1) : Kept s0 s1 := by
  have h : execEvsig p l s0 = .next s1 := hx
  clear hx
  unfold execEvsig at h
  refine Keeps.dispatch (fun s => ?_) h
  clear h
  repeat' first
    | (with_reducible first | refine Keeps.chainBody ?_ | refine Keeps.eretBody ?_)
    | with_reducible first | exact Att.holds_stall | exact Att.holds_trap | apply Att.holds_stall | apply Att.holds_trap | apply Att.holds_sendable | apply Att.holds_orderly | apply Att.holds_sendReady | apply Att.holds_xQuiet | apply Att.holds_need | apply Att.holds_check | apply Att.holds_capCheck | apply Att.holds_guardHints | apply Att.holds_guardPriv | apply Att.holds_guardCluster | apply Att.holds_aBody | apply Att.holds_orderStore | apply Att.holds_releaseWait | apply Att.holds_decides | apply Att.holds_replyCheck | apply Att.holds_guard | apply Att.holds_ok | apply Att.holds_stay | apply Att.holds_waits
    | (with_reducible refine Att.holds_popSdq (fun _ _ _ => ?_))
    | (with_reducible refine Att.holds_parkedCheck (fun _ => ?_))
    | with_reducible first | exact Keeps.refl _ | apply Keeps.setCur | apply Keeps.setCurCore | apply Keeps.emitAcc | apply Keeps.wcFlush | apply Keeps.jumpTo | apply Keeps.enqueueOut | apply Keeps.setMatrix | apply Keeps.setChain | apply Keeps.setGrammar | apply Keeps.setRun | apply Keeps.resumeRun | apply Keeps.performEng | apply Keeps.endChain | apply Keeps.copyResume | apply Keeps.pulse | apply Keeps.releaseMacros | apply Keeps.trapAt | apply Keeps.dropRoot | apply Keeps.wcFlushRoot | apply Keeps.setCluster | apply Keeps.countTaken | apply Keeps.serveSteal | apply Keeps.send | apply Keeps.takeId | apply Keeps.accs | apply Keeps.addFollower | apply Keeps.traceJump
    | with_reducible first | exact Keeps.issueBody | exact Keeps.loadBody _ | exact Keeps.storeBody _
    | split
    | rfl
    | exact (Cluster.take_acc _ _ _ _).1
    | exact (Cluster.take_acc _ _ _ _).2
    | dsimp only

/-- ERET outside a gang, when the activation that it serves holds a context: the record of one in the save area is written in
memory (10 R194). -/
theorem keeps_eret {a b : Activation} {id c : Nat} {s0 s1 : State} (hc : s0.cur? = some a) (hg : a.flow.gang = none)
    (hs : a.info.serves = some id) (hn : c ≠ s0.focus.ctx) (hb : s0.act? s0.focus.core c = some b) (hi : b.info.id = id)
    (hx : exec .eret s0 = .next s1) : Keeps s0 s1 := by
  have h : execEret s0 = .next s1 := hx
  clear hx
  unfold execEret at h
  have hcur : s0.cur = a := by rw [State.cur, hc]; rfl
  refine Keeps.dispatch_alone hc hg (Att.holds_xQuiet_of (fun hq => Att.holds_aBody (Att.holds_guardPriv (Att.holds_check ?_)))) h
  dsimp only
  rw [hcur] at hq
  rw [hcur, hs]
  have hd : ∃ d, ((s0.setCur { a with info := { a.info with serves := none } }).endAct s0.focus.core s0.focus.ctx).ctxOf
      s0.focus.core id = some d := endAct_ctxOf hn hb hi
  obtain ⟨d, hd⟩ := hd
  refine Att.holds_ok (((Keeps.refl s0).setCur.endAct (fun x hx => ?_)).resumeParked hd)
  have : (s0.setCur { a with info := { a.info with serves := none } }).cur? = some x := hx
  rw [State.cur?_setCur] at this
  cases this
  exact ⟨hq, rfl⟩

theorem keeps_eretEnd {s0 s1 : State} (hx : exec (.eretEnd) s0 = .next s1) : KeepsButFlags s0 s1 := by
  have h : execEretEnd s0 = .next s1 := hx
  unfold execEretEnd at h
  exact KeepsButFlags.dispatch (fun s => Att.holds_xQuiet (Att.holds_aBody (Att.holds_guardPriv (Att.holds_check
    (Att.holds_ok (KeepsButFlags.endAct _ _ _)))))) h

theorem keeps_wfi {s0 s1 : State} (hx : exec (.wfi) s0 = .next s1) : Kept s0 s1 := by
  have h : execWfi  s0 = .next s1 := hx
  clear hx
  unfold execWfi at h
  refine Keeps.dispatch (fun s => ?_) h
  clear h
  repeat' first
    | (with_reducible first | refine Keeps.chainBody ?_ | refine Keeps.eretBody ?_)
    | with_reducible first | exact Att.holds_stall | exact Att.holds_trap | apply Att.holds_stall | apply Att.holds_trap | apply Att.holds_sendable | apply Att.holds_orderly | apply Att.holds_sendReady | apply Att.holds_xQuiet | apply Att.holds_need | apply Att.holds_check | apply Att.holds_capCheck | apply Att.holds_guardHints | apply Att.holds_guardPriv | apply Att.holds_guardCluster | apply Att.holds_aBody | apply Att.holds_orderStore | apply Att.holds_releaseWait | apply Att.holds_decides | apply Att.holds_replyCheck | apply Att.holds_guard | apply Att.holds_ok | apply Att.holds_stay | apply Att.holds_waits
    | (with_reducible refine Att.holds_popSdq (fun _ _ _ => ?_))
    | (with_reducible refine Att.holds_parkedCheck (fun _ => ?_))
    | with_reducible first | exact Keeps.refl _ | apply Keeps.setCur | apply Keeps.setCurCore | apply Keeps.emitAcc | apply Keeps.wcFlush | apply Keeps.jumpTo | apply Keeps.enqueueOut | apply Keeps.setMatrix | apply Keeps.setChain | apply Keeps.setGrammar | apply Keeps.setRun | apply Keeps.resumeRun | apply Keeps.performEng | apply Keeps.endChain | apply Keeps.copyResume | apply Keeps.pulse | apply Keeps.releaseMacros | apply Keeps.trapAt | apply Keeps.dropRoot | apply Keeps.wcFlushRoot | apply Keeps.setCluster | apply Keeps.countTaken | apply Keeps.serveSteal | apply Keeps.send | apply Keeps.takeId | apply Keeps.accs | apply Keeps.addFollower | apply Keeps.traceJump
    | with_reducible first | exact Keeps.issueBody | exact Keeps.loadBody _ | exact Keeps.storeBody _
    | split
    | rfl
    | exact (Cluster.take_acc _ _ _ _).1
    | exact (Cluster.take_acc _ _ _ _).2
    | dsimp only

theorem keeps_nop {s0 s1 : State} (hx : exec (.nop) s0 = .next s1) : Kept s0 s1 := by
  have h : execNop  s0 = .next s1 := hx
  clear hx
  unfold execNop at h
  refine Keeps.dispatch (fun s => ?_) h
  clear h
  repeat' first
    | (with_reducible first | refine Keeps.chainBody ?_ | refine Keeps.eretBody ?_)
    | with_reducible first | exact Att.holds_stall | exact Att.holds_trap | apply Att.holds_stall | apply Att.holds_trap | apply Att.holds_sendable | apply Att.holds_orderly | apply Att.holds_sendReady | apply Att.holds_xQuiet | apply Att.holds_need | apply Att.holds_check | apply Att.holds_capCheck | apply Att.holds_guardHints | apply Att.holds_guardPriv | apply Att.holds_guardCluster | apply Att.holds_aBody | apply Att.holds_orderStore | apply Att.holds_releaseWait | apply Att.holds_decides | apply Att.holds_replyCheck | apply Att.holds_guard | apply Att.holds_ok | apply Att.holds_stay | apply Att.holds_waits
    | (with_reducible refine Att.holds_popSdq (fun _ _ _ => ?_))
    | (with_reducible refine Att.holds_parkedCheck (fun _ => ?_))
    | with_reducible first | exact Keeps.refl _ | apply Keeps.setCur | apply Keeps.setCurCore | apply Keeps.emitAcc | apply Keeps.wcFlush | apply Keeps.jumpTo | apply Keeps.enqueueOut | apply Keeps.setMatrix | apply Keeps.setChain | apply Keeps.setGrammar | apply Keeps.setRun | apply Keeps.resumeRun | apply Keeps.performEng | apply Keeps.endChain | apply Keeps.copyResume | apply Keeps.pulse | apply Keeps.releaseMacros | apply Keeps.trapAt | apply Keeps.dropRoot | apply Keeps.wcFlushRoot | apply Keeps.setCluster | apply Keeps.countTaken | apply Keeps.serveSteal | apply Keeps.send | apply Keeps.takeId | apply Keeps.accs | apply Keeps.addFollower | apply Keeps.traceJump
    | with_reducible first | exact Keeps.issueBody | exact Keeps.loadBody _ | exact Keeps.storeBody _
    | split
    | rfl
    | exact (Cluster.take_acc _ _ _ _).1
    | exact (Cluster.take_acc _ _ _ _).2
    | dsimp only

theorem keeps_himm {v : Nat} {s0 s1 : State} (hx : exec (.himm v) s0 = .next s1) : Kept s0 s1 := by
  exact Keeps.execHint hx

theorem keeps_hwid {a b sg t : Nat} {s0 s1 : State} (hx : exec (.hwid a b sg t) s0 = .next s1) : Kept s0 s1 := by
  exact Keeps.execHint hx

theorem keeps_hmod {m sg : Nat} {s0 s1 : State} (hx : exec (.hmod m sg) s0 = .next s1) : Kept s0 s1 := by
  exact Keeps.execHint hx

theorem keeps_hyld {s0 s1 : State} (hx : exec (.hyld) s0 = .next s1) : Kept s0 s1 := by
  exact Keeps.execHint hx

theorem keeps_macq {a k : Nat} {s0 s1 : State} (hx : exec (.macq a k) s0 = .next s1) : Kept s0 s1 := by
  have h : execMacq a k s0 = .next s1 := hx
  clear hx
  unfold execMacq at h
  dsimp only at h
  refine Keeps.dispatch (fun s => ?_) h
  clear h
  repeat' first
    | (with_reducible first | refine Keeps.chainBody ?_ | refine Keeps.eretBody ?_)
    | with_reducible first | exact Att.holds_stall | exact Att.holds_trap | apply Att.holds_stall | apply Att.holds_trap | apply Att.holds_sendable | apply Att.holds_orderly | apply Att.holds_sendReady | apply Att.holds_xQuiet | apply Att.holds_need | apply Att.holds_check | apply Att.holds_capCheck | apply Att.holds_guardHints | apply Att.holds_guardPriv | apply Att.holds_guardCluster | apply Att.holds_aBody | apply Att.holds_orderStore | apply Att.holds_releaseWait | apply Att.holds_decides | apply Att.holds_replyCheck | apply Att.holds_guard | apply Att.holds_ok | apply Att.holds_stay | apply Att.holds_waits
    | (with_reducible refine Att.holds_popSdq (fun _ _ _ => ?_))
    | (with_reducible refine Att.holds_parkedCheck (fun _ => ?_))
    | with_reducible first | exact Keeps.refl _ | apply Keeps.setCur | apply Keeps.setCurCore | apply Keeps.emitAcc | apply Keeps.wcFlush | apply Keeps.jumpTo | apply Keeps.enqueueOut | apply Keeps.setMatrix | apply Keeps.setChain | apply Keeps.setGrammar | apply Keeps.setRun | apply Keeps.resumeRun | apply Keeps.performEng | apply Keeps.endChain | apply Keeps.copyResume | apply Keeps.pulse | apply Keeps.releaseMacros | apply Keeps.trapAt | apply Keeps.dropRoot | apply Keeps.wcFlushRoot | apply Keeps.setCluster | apply Keeps.countTaken | apply Keeps.serveSteal | apply Keeps.send | apply Keeps.takeId | apply Keeps.accs | apply Keeps.addFollower | apply Keeps.traceJump
    | with_reducible first | exact Keeps.issueBody | exact Keeps.loadBody _ | exact Keeps.storeBody _
    | split
    | rfl
    | exact (Cluster.take_acc _ _ _ _).1
    | exact (Cluster.take_acc _ _ _ _).2
    | dsimp only

theorem keeps_mrel {a k : Nat} {s0 s1 : State} (hx : exec (.mrel a k) s0 = .next s1) : Kept s0 s1 := by
  have h : execMrel a k s0 = .next s1 := hx
  clear hx
  unfold execMrel at h
  dsimp only at h
  refine Keeps.dispatch (fun s => ?_) h
  clear h
  repeat' first
    | (with_reducible first | refine Keeps.chainBody ?_ | refine Keeps.eretBody ?_)
    | with_reducible first | exact Att.holds_stall | exact Att.holds_trap | apply Att.holds_stall | apply Att.holds_trap | apply Att.holds_sendable | apply Att.holds_orderly | apply Att.holds_sendReady | apply Att.holds_xQuiet | apply Att.holds_need | apply Att.holds_check | apply Att.holds_capCheck | apply Att.holds_guardHints | apply Att.holds_guardPriv | apply Att.holds_guardCluster | apply Att.holds_aBody | apply Att.holds_orderStore | apply Att.holds_releaseWait | apply Att.holds_decides | apply Att.holds_replyCheck | apply Att.holds_guard | apply Att.holds_ok | apply Att.holds_stay | apply Att.holds_waits
    | (with_reducible refine Att.holds_popSdq (fun _ _ _ => ?_))
    | (with_reducible refine Att.holds_parkedCheck (fun _ => ?_))
    | with_reducible first | exact Keeps.refl _ | apply Keeps.setCur | apply Keeps.setCurCore | apply Keeps.emitAcc | apply Keeps.wcFlush | apply Keeps.jumpTo | apply Keeps.enqueueOut | apply Keeps.setMatrix | apply Keeps.setChain | apply Keeps.setGrammar | apply Keeps.setRun | apply Keeps.resumeRun | apply Keeps.performEng | apply Keeps.endChain | apply Keeps.copyResume | apply Keeps.pulse | apply Keeps.releaseMacros | apply Keeps.trapAt | apply Keeps.dropRoot | apply Keeps.wcFlushRoot | apply Keeps.setCluster | apply Keeps.countTaken | apply Keeps.serveSteal | apply Keeps.send | apply Keeps.takeId | apply Keeps.accs | apply Keeps.addFollower | apply Keeps.traceJump
    | with_reducible first | exact Keeps.issueBody | exact Keeps.loadBody _ | exact Keeps.storeBody _
    | split
    | rfl
    | exact (Cluster.take_acc _ _ _ _).1
    | exact (Cluster.take_acc _ _ _ _).2
    | dsimp only

theorem keeps_mrelRes {a k : Nat} {s0 s1 : State} (hx : exec (.mrelRes a k) s0 = .next s1) : Kept s0 s1 := by
  have h : execMrelRes a k s0 = .next s1 := hx
  clear hx
  unfold execMrelRes at h
  dsimp only at h
  refine Keeps.dispatch (fun s => ?_) h
  clear h
  repeat' first
    | (with_reducible first | refine Keeps.chainBody ?_ | refine Keeps.eretBody ?_)
    | with_reducible first | exact Att.holds_stall | exact Att.holds_trap | apply Att.holds_stall | apply Att.holds_trap | apply Att.holds_sendable | apply Att.holds_orderly | apply Att.holds_sendReady | apply Att.holds_xQuiet | apply Att.holds_need | apply Att.holds_check | apply Att.holds_capCheck | apply Att.holds_guardHints | apply Att.holds_guardPriv | apply Att.holds_guardCluster | apply Att.holds_aBody | apply Att.holds_orderStore | apply Att.holds_releaseWait | apply Att.holds_decides | apply Att.holds_replyCheck | apply Att.holds_guard | apply Att.holds_ok | apply Att.holds_stay | apply Att.holds_waits
    | (with_reducible refine Att.holds_popSdq (fun _ _ _ => ?_))
    | (with_reducible refine Att.holds_parkedCheck (fun _ => ?_))
    | with_reducible first | exact Keeps.refl _ | apply Keeps.setCur | apply Keeps.setCurCore | apply Keeps.emitAcc | apply Keeps.wcFlush | apply Keeps.jumpTo | apply Keeps.enqueueOut | apply Keeps.setMatrix | apply Keeps.setChain | apply Keeps.setGrammar | apply Keeps.setRun | apply Keeps.resumeRun | apply Keeps.performEng | apply Keeps.endChain | apply Keeps.copyResume | apply Keeps.pulse | apply Keeps.releaseMacros | apply Keeps.trapAt | apply Keeps.dropRoot | apply Keeps.wcFlushRoot | apply Keeps.setCluster | apply Keeps.countTaken | apply Keeps.serveSteal | apply Keeps.send | apply Keeps.takeId | apply Keeps.accs | apply Keeps.addFollower | apply Keeps.traceJump
    | with_reducible first | exact Keeps.issueBody | exact Keeps.loadBody _ | exact Keeps.storeBody _
    | split
    | rfl
    | exact (Cluster.take_acc _ _ _ _).1
    | exact (Cluster.take_acc _ _ _ _).2
    | dsimp only

theorem keeps_mrelAbn {a k : Nat} {s0 s1 : State} (hx : exec (.mrelAbn a k) s0 = .next s1) : Kept s0 s1 := by
  have h : execMrelAbn a k s0 = .next s1 := hx
  clear hx
  unfold execMrelAbn at h
  dsimp only at h
  refine Keeps.dispatch (fun s => ?_) h
  clear h
  repeat' first
    | (with_reducible first | refine Keeps.chainBody ?_ | refine Keeps.eretBody ?_)
    | with_reducible first | exact Att.holds_stall | exact Att.holds_trap | apply Att.holds_stall | apply Att.holds_trap | apply Att.holds_sendable | apply Att.holds_orderly | apply Att.holds_sendReady | apply Att.holds_xQuiet | apply Att.holds_need | apply Att.holds_check | apply Att.holds_capCheck | apply Att.holds_guardHints | apply Att.holds_guardPriv | apply Att.holds_guardCluster | apply Att.holds_aBody | apply Att.holds_orderStore | apply Att.holds_releaseWait | apply Att.holds_decides | apply Att.holds_replyCheck | apply Att.holds_guard | apply Att.holds_ok | apply Att.holds_stay | apply Att.holds_waits
    | (with_reducible refine Att.holds_popSdq (fun _ _ _ => ?_))
    | (with_reducible refine Att.holds_parkedCheck (fun _ => ?_))
    | with_reducible first | exact Keeps.refl _ | apply Keeps.setCur | apply Keeps.setCurCore | apply Keeps.emitAcc | apply Keeps.wcFlush | apply Keeps.jumpTo | apply Keeps.enqueueOut | apply Keeps.setMatrix | apply Keeps.setChain | apply Keeps.setGrammar | apply Keeps.setRun | apply Keeps.resumeRun | apply Keeps.performEng | apply Keeps.endChain | apply Keeps.copyResume | apply Keeps.pulse | apply Keeps.releaseMacros | apply Keeps.trapAt | apply Keeps.dropRoot | apply Keeps.wcFlushRoot | apply Keeps.setCluster | apply Keeps.countTaken | apply Keeps.serveSteal | apply Keeps.send | apply Keeps.takeId | apply Keeps.accs | apply Keeps.addFollower | apply Keeps.traceJump
    | with_reducible first | exact Keeps.issueBody | exact Keeps.loadBody _ | exact Keeps.storeBody _
    | split
    | rfl
    | exact (Cluster.take_acc _ _ _ _).1
    | exact (Cluster.take_acc _ _ _ _).2
    | dsimp only

theorem keeps_mldb {d a b m k : Nat} {s0 s1 : State} (hx : exec (.mldb d a b m k) s0 = .next s1) : Kept s0 s1 := by
  have h : execMldb d a b m k s0 = .next s1 := hx
  clear hx
  unfold execMldb at h
  exact Keeps.dispatch Keeps.matrixBody h

theorem keeps_mspec {d a b m k : Nat} {s0 s1 : State} (hx : exec (.mspec d a b m k) s0 = .next s1) : Kept s0 s1 := by
  have h : execMspec d a b m k s0 = .next s1 := hx
  clear hx
  unfold execMspec at h
  exact Keeps.dispatch Keeps.matrixBody h

theorem keeps_mzero {d a m k : Nat} {s0 s1 : State} (hx : exec (.mzero d a m k) s0 = .next s1) : Kept s0 s1 := by
  have h : execMzero d a m k s0 = .next s1 := hx
  clear hx
  unfold execMzero at h
  exact Keeps.dispatch Keeps.matrixBody h

theorem keeps_mma {d a b m k : Nat} {s0 s1 : State} (hx : exec (.mma d a b m k) s0 = .next s1) : Kept s0 s1 := by
  have h : execMma d a b m k s0 = .next s1 := hx
  clear hx
  unfold execMma at h
  exact Keeps.dispatch Keeps.matrixBody h

theorem keeps_lnscfg {k : Nat} {s0 s1 : State} (hx : exec (.lnscfg k) s0 = .next s1) : Kept s0 s1 := by
  have h : execLnscfg k s0 = .next s1 := hx
  clear hx
  unfold execLnscfg at h
  dsimp only at h
  refine Keeps.dispatch (fun s => ?_) h
  clear h
  repeat' first
    | (with_reducible first | refine Keeps.chainBody ?_ | refine Keeps.eretBody ?_)
    | with_reducible first | exact Att.holds_stall | exact Att.holds_trap | apply Att.holds_stall | apply Att.holds_trap | apply Att.holds_sendable | apply Att.holds_orderly | apply Att.holds_sendReady | apply Att.holds_xQuiet | apply Att.holds_need | apply Att.holds_check | apply Att.holds_capCheck | apply Att.holds_guardHints | apply Att.holds_guardPriv | apply Att.holds_guardCluster | apply Att.holds_aBody | apply Att.holds_orderStore | apply Att.holds_releaseWait | apply Att.holds_decides | apply Att.holds_replyCheck | apply Att.holds_guard | apply Att.holds_ok | apply Att.holds_stay | apply Att.holds_waits
    | (with_reducible refine Att.holds_popSdq (fun _ _ _ => ?_))
    | (with_reducible refine Att.holds_parkedCheck (fun _ => ?_))
    | with_reducible first | exact Keeps.refl _ | apply Keeps.setCur | apply Keeps.setCurCore | apply Keeps.emitAcc | apply Keeps.wcFlush | apply Keeps.jumpTo | apply Keeps.enqueueOut | apply Keeps.setMatrix | apply Keeps.setChain | apply Keeps.setGrammar | apply Keeps.setRun | apply Keeps.resumeRun | apply Keeps.performEng | apply Keeps.endChain | apply Keeps.copyResume | apply Keeps.pulse | apply Keeps.releaseMacros | apply Keeps.trapAt | apply Keeps.dropRoot | apply Keeps.wcFlushRoot | apply Keeps.setCluster | apply Keeps.countTaken | apply Keeps.serveSteal | apply Keeps.send | apply Keeps.takeId | apply Keeps.accs | apply Keeps.addFollower | apply Keeps.traceJump
    | with_reducible first | exact Keeps.issueBody | exact Keeps.loadBody _ | exact Keeps.storeBody _
    | split
    | rfl
    | exact (Cluster.take_acc _ _ _ _).1
    | exact (Cluster.take_acc _ _ _ _).2
    | dsimp only

theorem keeps_mmas {d a b m k : Nat} {s0 s1 : State} (hx : exec (.mmas d a b m k) s0 = .next s1) : Kept s0 s1 := by
  have h : execMmas d a b m k s0 = .next s1 := hx
  clear hx
  unfold execMmas at h
  exact Keeps.dispatch Keeps.matrixBody h

theorem keeps_mrd {q a k : Nat} {s0 s1 : State} (hx : exec (.mrd q a k) s0 = .next s1) : Kept s0 s1 := by
  have h : execMrd q a k s0 = .next s1 := hx
  clear hx
  unfold execMrd at h
  exact Keeps.dispatch Keeps.mrdBody h

theorem keeps_mrdFlg {q a k : Nat} {s0 s1 : State} (hx : exec (.mrdFlg q a k) s0 = .next s1) : Kept s0 s1 := by
  have h : execMrdFlg q a k s0 = .next s1 := hx
  clear hx
  unfold execMrdFlg at h
  exact Keeps.dispatch Keeps.mrdBody h

theorem keeps_mcopy {d a b m k : Nat} {s0 s1 : State} (hx : exec (.mcopy d a b m k) s0 = .next s1) : Kept s0 s1 := by
  have h : execMcopy d a b m k s0 = .next s1 := hx
  clear hx
  unfold execMcopy at h
  exact Keeps.dispatch Keeps.matrixBody h

theorem keeps_chbond {a r k : Nat} {s0 s1 : State} (hx : exec (.chbond a r k) s0 = .next s1) : Kept s0 s1 := by
  have h : execChbond a r k s0 = .next s1 := hx
  clear hx
  unfold execChbond at h
  refine Keeps.dispatch (fun s => ?_) h
  clear h
  repeat' first
    | (with_reducible first | refine Keeps.chainBody ?_ | refine Keeps.eretBody ?_)
    | with_reducible first | exact Att.holds_stall | exact Att.holds_trap | apply Att.holds_stall | apply Att.holds_trap | apply Att.holds_sendable | apply Att.holds_orderly | apply Att.holds_sendReady | apply Att.holds_xQuiet | apply Att.holds_need | apply Att.holds_check | apply Att.holds_capCheck | apply Att.holds_guardHints | apply Att.holds_guardPriv | apply Att.holds_guardCluster | apply Att.holds_aBody | apply Att.holds_orderStore | apply Att.holds_releaseWait | apply Att.holds_decides | apply Att.holds_replyCheck | apply Att.holds_guard | apply Att.holds_ok | apply Att.holds_stay | apply Att.holds_waits
    | (with_reducible refine Att.holds_popSdq (fun _ _ _ => ?_))
    | (with_reducible refine Att.holds_parkedCheck (fun _ => ?_))
    | with_reducible first | exact Keeps.refl _ | apply Keeps.setCur | apply Keeps.setCurCore | apply Keeps.emitAcc | apply Keeps.wcFlush | apply Keeps.jumpTo | apply Keeps.enqueueOut | apply Keeps.setMatrix | apply Keeps.setChain | apply Keeps.setGrammar | apply Keeps.setRun | apply Keeps.resumeRun | apply Keeps.performEng | apply Keeps.endChain | apply Keeps.copyResume | apply Keeps.pulse | apply Keeps.releaseMacros | apply Keeps.trapAt | apply Keeps.dropRoot | apply Keeps.wcFlushRoot | apply Keeps.setCluster | apply Keeps.countTaken | apply Keeps.serveSteal | apply Keeps.send | apply Keeps.takeId | apply Keeps.accs | apply Keeps.addFollower | apply Keeps.traceJump
    | with_reducible first | exact Keeps.issueBody | exact Keeps.loadBody _ | exact Keeps.storeBody _
    | split
    | rfl
    | exact (Cluster.take_acc _ _ _ _).1
    | exact (Cluster.take_acc _ _ _ _).2
    | dsimp only

theorem keeps_chprog {a b k : Nat} {s0 s1 : State} (hx : exec (.chprog a b k) s0 = .next s1) : Kept s0 s1 := by
  have h : execChprog a b k s0 = .next s1 := hx
  clear hx
  unfold execChprog at h
  refine Keeps.dispatch (fun s => ?_) h
  clear h
  repeat' first
    | (with_reducible first | refine Keeps.chainBody ?_ | refine Keeps.eretBody ?_)
    | with_reducible first | exact Att.holds_stall | exact Att.holds_trap | apply Att.holds_stall | apply Att.holds_trap | apply Att.holds_sendable | apply Att.holds_orderly | apply Att.holds_sendReady | apply Att.holds_xQuiet | apply Att.holds_need | apply Att.holds_check | apply Att.holds_capCheck | apply Att.holds_guardHints | apply Att.holds_guardPriv | apply Att.holds_guardCluster | apply Att.holds_aBody | apply Att.holds_orderStore | apply Att.holds_releaseWait | apply Att.holds_decides | apply Att.holds_replyCheck | apply Att.holds_guard | apply Att.holds_ok | apply Att.holds_stay | apply Att.holds_waits
    | (with_reducible refine Att.holds_popSdq (fun _ _ _ => ?_))
    | (with_reducible refine Att.holds_parkedCheck (fun _ => ?_))
    | with_reducible first | exact Keeps.refl _ | apply Keeps.setCur | apply Keeps.setCurCore | apply Keeps.emitAcc | apply Keeps.wcFlush | apply Keeps.jumpTo | apply Keeps.enqueueOut | apply Keeps.setMatrix | apply Keeps.setChain | apply Keeps.setGrammar | apply Keeps.setRun | apply Keeps.resumeRun | apply Keeps.performEng | apply Keeps.endChain | apply Keeps.copyResume | apply Keeps.pulse | apply Keeps.releaseMacros | apply Keeps.trapAt | apply Keeps.dropRoot | apply Keeps.wcFlushRoot | apply Keeps.setCluster | apply Keeps.countTaken | apply Keeps.serveSteal | apply Keeps.send | apply Keeps.takeId | apply Keeps.accs | apply Keeps.addFollower | apply Keeps.traceJump
    | with_reducible first | exact Keeps.issueBody | exact Keeps.loadBody _ | exact Keeps.storeBody _
    | split
    | rfl
    | exact (Cluster.take_acc _ _ _ _).1
    | exact (Cluster.take_acc _ _ _ _).2
    | dsimp only

theorem keeps_chprogKeep {a b k : Nat} {s0 s1 : State} (hx : exec (.chprogKeep a b k) s0 = .next s1) : KeptButOut s0 s1 := by
  have h : execChprogKeep a b k s0 = .next s1 := hx
  clear hx
  unfold execChprogKeep at h
  refine KeepsButOut.dispatch (fun s => ?_) h
  exact Att.holds_chainBody (Att.holds_guard (Att.holds_ok (KeepsButOut.then_ (Keeps.refl s).butOut.sendFault (Keeps.refl _).setChain)))

theorem keeps_chrunStart {d m k : Nat} {s0 s1 : State} (hx : exec (.chrunStart d m k) s0 = .next s1) : Kept s0 s1 := by
  have h : execChrunStart d m k s0 = .next s1 := hx
  clear hx
  unfold execChrunStart at h
  refine Keeps.dispatch (fun s => ?_) h
  clear h
  repeat' first
    | (with_reducible first | refine Keeps.chainBody ?_ | refine Keeps.eretBody ?_)
    | with_reducible first | exact Att.holds_stall | exact Att.holds_trap | apply Att.holds_stall | apply Att.holds_trap | apply Att.holds_sendable | apply Att.holds_orderly | apply Att.holds_sendReady | apply Att.holds_xQuiet | apply Att.holds_need | apply Att.holds_check | apply Att.holds_capCheck | apply Att.holds_guardHints | apply Att.holds_guardPriv | apply Att.holds_guardCluster | apply Att.holds_aBody | apply Att.holds_orderStore | apply Att.holds_releaseWait | apply Att.holds_decides | apply Att.holds_replyCheck | apply Att.holds_guard | apply Att.holds_ok | apply Att.holds_stay | apply Att.holds_waits
    | (with_reducible refine Att.holds_popSdq (fun _ _ _ => ?_))
    | (with_reducible refine Att.holds_parkedCheck (fun _ => ?_))
    | with_reducible first | exact Keeps.refl _ | apply Keeps.setCur | apply Keeps.setCurCore | apply Keeps.emitAcc | apply Keeps.wcFlush | apply Keeps.jumpTo | apply Keeps.enqueueOut | apply Keeps.setMatrix | apply Keeps.setChain | apply Keeps.setGrammar | apply Keeps.setRun | apply Keeps.resumeRun | apply Keeps.performEng | apply Keeps.endChain | apply Keeps.copyResume | apply Keeps.pulse | apply Keeps.releaseMacros | apply Keeps.trapAt | apply Keeps.dropRoot | apply Keeps.wcFlushRoot | apply Keeps.setCluster | apply Keeps.countTaken | apply Keeps.serveSteal | apply Keeps.send | apply Keeps.takeId | apply Keeps.accs | apply Keeps.addFollower | apply Keeps.traceJump
    | with_reducible first | exact Keeps.issueBody | exact Keeps.loadBody _ | exact Keeps.storeBody _
    | split
    | rfl
    | exact (Cluster.take_acc _ _ _ _).1
    | exact (Cluster.take_acc _ _ _ _).2
    | dsimp only

theorem keeps_chrunResume {a k : Nat} {s0 s1 : State} (hx : exec (.chrunResume a k) s0 = .next s1) : KeptButOut s0 s1 := by
  have h : execChrunResume a k s0 = .next s1 := hx
  clear hx
  unfold execChrunResume at h
  refine KeepsButOut.dispatch (fun s => ?_) h
  exact Att.holds_chainBody (Att.holds_parkedCheck (fun _ => Att.holds_ok (KeepsButOut.then_ (Keeps.refl s).butOut.sendFault (Keeps.refl _).resumeRun)))

theorem keeps_chrunAbn {a k : Nat} {s0 s1 : State} (hx : exec (.chrunAbn a k) s0 = .next s1) : KeptButOut s0 s1 := by
  have h : execChrunAbn a k s0 = .next s1 := hx
  clear hx
  unfold execChrunAbn at h
  refine KeepsButOut.dispatch (fun s => ?_) h
  exact Att.holds_chainBody (Att.holds_parkedCheck (fun _ => Att.holds_ok (KeepsButOut.then_ (Keeps.refl s).butOut.sendFault (Keeps.refl _).endChain)))

theorem keeps_chstat {d sg k : Nat} {s0 s1 : State} (hx : exec (.chstat d sg k) s0 = .next s1) : Kept s0 s1 := by
  have h : execChstat d sg k s0 = .next s1 := hx
  clear hx
  unfold execChstat at h
  refine Keeps.dispatch (fun s => ?_) h
  clear h
  repeat' first
    | (with_reducible first | refine Keeps.chainBody ?_ | refine Keeps.eretBody ?_)
    | with_reducible first | exact Att.holds_stall | exact Att.holds_trap | apply Att.holds_stall | apply Att.holds_trap | apply Att.holds_sendable | apply Att.holds_orderly | apply Att.holds_sendReady | apply Att.holds_xQuiet | apply Att.holds_need | apply Att.holds_check | apply Att.holds_capCheck | apply Att.holds_guardHints | apply Att.holds_guardPriv | apply Att.holds_guardCluster | apply Att.holds_aBody | apply Att.holds_orderStore | apply Att.holds_releaseWait | apply Att.holds_decides | apply Att.holds_replyCheck | apply Att.holds_guard | apply Att.holds_ok | apply Att.holds_stay | apply Att.holds_waits
    | (with_reducible refine Att.holds_popSdq (fun _ _ _ => ?_))
    | (with_reducible refine Att.holds_parkedCheck (fun _ => ?_))
    | with_reducible first | exact Keeps.refl _ | apply Keeps.setCur | apply Keeps.setCurCore | apply Keeps.emitAcc | apply Keeps.wcFlush | apply Keeps.jumpTo | apply Keeps.enqueueOut | apply Keeps.setMatrix | apply Keeps.setChain | apply Keeps.setGrammar | apply Keeps.setRun | apply Keeps.resumeRun | apply Keeps.performEng | apply Keeps.endChain | apply Keeps.copyResume | apply Keeps.pulse | apply Keeps.releaseMacros | apply Keeps.trapAt | apply Keeps.dropRoot | apply Keeps.wcFlushRoot | apply Keeps.setCluster | apply Keeps.countTaken | apply Keeps.serveSteal | apply Keeps.send | apply Keeps.takeId | apply Keeps.accs | apply Keeps.addFollower | apply Keeps.traceJump
    | with_reducible first | exact Keeps.issueBody | exact Keeps.loadBody _ | exact Keeps.storeBody _
    | split
    | rfl
    | exact (Cluster.take_acc _ _ _ _).1
    | exact (Cluster.take_acc _ _ _ _).2
    | dsimp only

theorem keeps_chgrad {a b k : Nat} {s0 s1 : State} (hx : exec (.chgrad a b k) s0 = .next s1) : Kept s0 s1 := by
  have h : execChgrad a b k s0 = .next s1 := hx
  clear hx
  unfold execChgrad at h
  refine Keeps.dispatch (fun s => ?_) h
  clear h
  repeat' first
    | (with_reducible first | refine Keeps.chainBody ?_ | refine Keeps.eretBody ?_)
    | with_reducible first | exact Att.holds_stall | exact Att.holds_trap | apply Att.holds_stall | apply Att.holds_trap | apply Att.holds_sendable | apply Att.holds_orderly | apply Att.holds_sendReady | apply Att.holds_xQuiet | apply Att.holds_need | apply Att.holds_check | apply Att.holds_capCheck | apply Att.holds_guardHints | apply Att.holds_guardPriv | apply Att.holds_guardCluster | apply Att.holds_aBody | apply Att.holds_orderStore | apply Att.holds_releaseWait | apply Att.holds_decides | apply Att.holds_replyCheck | apply Att.holds_guard | apply Att.holds_ok | apply Att.holds_stay | apply Att.holds_waits
    | (with_reducible refine Att.holds_popSdq (fun _ _ _ => ?_))
    | (with_reducible refine Att.holds_parkedCheck (fun _ => ?_))
    | with_reducible first | exact Keeps.refl _ | apply Keeps.setCur | apply Keeps.setCurCore | apply Keeps.emitAcc | apply Keeps.wcFlush | apply Keeps.jumpTo | apply Keeps.enqueueOut | apply Keeps.setMatrix | apply Keeps.setChain | apply Keeps.setGrammar | apply Keeps.setRun | apply Keeps.resumeRun | apply Keeps.performEng | apply Keeps.endChain | apply Keeps.copyResume | apply Keeps.pulse | apply Keeps.releaseMacros | apply Keeps.trapAt | apply Keeps.dropRoot | apply Keeps.wcFlushRoot | apply Keeps.setCluster | apply Keeps.countTaken | apply Keeps.serveSteal | apply Keeps.send | apply Keeps.takeId | apply Keeps.accs | apply Keeps.addFollower | apply Keeps.traceJump
    | with_reducible first | exact Keeps.issueBody | exact Keeps.loadBody _ | exact Keeps.storeBody _
    | split
    | rfl
    | exact (Cluster.take_acc _ _ _ _).1
    | exact (Cluster.take_acc _ _ _ _).2
    | dsimp only

theorem keeps_grset {a b k : Nat} {s0 s1 : State} (hx : exec (.grset a b k) s0 = .next s1) : Kept s0 s1 := by
  have h : execGrset a b k s0 = .next s1 := hx
  clear hx
  unfold execGrset at h
  refine Keeps.dispatch (fun s => ?_) h
  clear h
  repeat' first
    | (with_reducible first | refine Keeps.chainBody ?_ | refine Keeps.eretBody ?_)
    | with_reducible first | exact Att.holds_stall | exact Att.holds_trap | apply Att.holds_stall | apply Att.holds_trap | apply Att.holds_sendable | apply Att.holds_orderly | apply Att.holds_sendReady | apply Att.holds_xQuiet | apply Att.holds_need | apply Att.holds_check | apply Att.holds_capCheck | apply Att.holds_guardHints | apply Att.holds_guardPriv | apply Att.holds_guardCluster | apply Att.holds_aBody | apply Att.holds_orderStore | apply Att.holds_releaseWait | apply Att.holds_decides | apply Att.holds_replyCheck | apply Att.holds_guard | apply Att.holds_ok | apply Att.holds_stay | apply Att.holds_waits
    | (with_reducible refine Att.holds_popSdq (fun _ _ _ => ?_))
    | (with_reducible refine Att.holds_parkedCheck (fun _ => ?_))
    | with_reducible first | exact Keeps.refl _ | apply Keeps.setCur | apply Keeps.setCurCore | apply Keeps.emitAcc | apply Keeps.wcFlush | apply Keeps.jumpTo | apply Keeps.enqueueOut | apply Keeps.setMatrix | apply Keeps.setChain | apply Keeps.setGrammar | apply Keeps.setRun | apply Keeps.resumeRun | apply Keeps.performEng | apply Keeps.endChain | apply Keeps.copyResume | apply Keeps.pulse | apply Keeps.releaseMacros | apply Keeps.trapAt | apply Keeps.dropRoot | apply Keeps.wcFlushRoot | apply Keeps.setCluster | apply Keeps.countTaken | apply Keeps.serveSteal | apply Keeps.send | apply Keeps.takeId | apply Keeps.accs | apply Keeps.addFollower | apply Keeps.traceJump
    | with_reducible first | exact Keeps.issueBody | exact Keeps.loadBody _ | exact Keeps.storeBody _
    | split
    | rfl
    | exact (Cluster.take_acc _ _ _ _).1
    | exact (Cluster.take_acc _ _ _ _).2
    | dsimp only

theorem keeps_grred {d a b o m k : Nat} {s0 s1 : State} (hx : exec (.grred d a b o m k) s0 = .next s1) : Kept s0 s1 := by
  have h : execGrred d a b o m k s0 = .next s1 := hx
  clear hx
  unfold execGrred at h
  exact Keeps.dispatch Keeps.grammarBody h

theorem keeps_grscan {d a b o m k : Nat} {s0 s1 : State} (hx : exec (.grscan d a b o m k) s0 = .next s1) : Kept s0 s1 := by
  have h : execGrscan d a b o m k s0 = .next s1 := hx
  clear hx
  unfold execGrscan at h
  exact Keeps.dispatch Keeps.grammarBody h

theorem keeps_grscanX {d a b o m k : Nat} {s0 s1 : State} (hx : exec (.grscanX d a b o m k) s0 = .next s1) : Kept s0 s1 := by
  have h : execGrscanX d a b o m k s0 = .next s1 := hx
  clear hx
  unfold execGrscanX at h
  exact Keeps.dispatch Keeps.grammarBody h

theorem keeps_grmv {d a b m k : Nat} {s0 s1 : State} (hx : exec (.grmv d a b m k) s0 = .next s1) : Kept s0 s1 := by
  have h : execGrmv d a b m k s0 = .next s1 := hx
  clear hx
  unfold execGrmv at h
  exact Keeps.dispatch Keeps.grammarBody h

theorem keeps_grat {d a b o m k : Nat} {s0 s1 : State} (hx : exec (.grat d a b o m k) s0 = .next s1) : Kept s0 s1 := by
  have h : execGrat d a b o m k s0 = .next s1 := hx
  clear hx
  unfold execGrat at h
  exact Keeps.dispatch Keeps.grammarBody h

theorem keeps_grstat {d sg k : Nat} {s0 s1 : State} (hx : exec (.grstat d sg k) s0 = .next s1) : Kept s0 s1 := by
  have h : execGrstat d sg k s0 = .next s1 := hx
  clear hx
  unfold execGrstat at h
  refine Keeps.dispatch (fun s => ?_) h
  clear h
  repeat' first
    | (with_reducible first | refine Keeps.chainBody ?_ | refine Keeps.eretBody ?_)
    | with_reducible first | exact Att.holds_stall | exact Att.holds_trap | apply Att.holds_stall | apply Att.holds_trap | apply Att.holds_sendable | apply Att.holds_orderly | apply Att.holds_sendReady | apply Att.holds_xQuiet | apply Att.holds_need | apply Att.holds_check | apply Att.holds_capCheck | apply Att.holds_guardHints | apply Att.holds_guardPriv | apply Att.holds_guardCluster | apply Att.holds_aBody | apply Att.holds_orderStore | apply Att.holds_releaseWait | apply Att.holds_decides | apply Att.holds_replyCheck | apply Att.holds_guard | apply Att.holds_ok | apply Att.holds_stay | apply Att.holds_waits
    | (with_reducible refine Att.holds_popSdq (fun _ _ _ => ?_))
    | (with_reducible refine Att.holds_parkedCheck (fun _ => ?_))
    | with_reducible first | exact Keeps.refl _ | apply Keeps.setCur | apply Keeps.setCurCore | apply Keeps.emitAcc | apply Keeps.wcFlush | apply Keeps.jumpTo | apply Keeps.enqueueOut | apply Keeps.setMatrix | apply Keeps.setChain | apply Keeps.setGrammar | apply Keeps.setRun | apply Keeps.resumeRun | apply Keeps.performEng | apply Keeps.endChain | apply Keeps.copyResume | apply Keeps.pulse | apply Keeps.releaseMacros | apply Keeps.trapAt | apply Keeps.dropRoot | apply Keeps.wcFlushRoot | apply Keeps.setCluster | apply Keeps.countTaken | apply Keeps.serveSteal | apply Keeps.send | apply Keeps.takeId | apply Keeps.accs | apply Keeps.addFollower | apply Keeps.traceJump
    | with_reducible first | exact Keeps.issueBody | exact Keeps.loadBody _ | exact Keeps.storeBody _
    | split
    | rfl
    | exact (Cluster.take_acc _ _ _ _).1
    | exact (Cluster.take_acc _ _ _ _).2
    | dsimp only

theorem keeps_grstatRes {a k : Nat} {s0 s1 : State} (hx : exec (.grstatRes a k) s0 = .next s1) : Kept s0 s1 := by
  have h : execGrstatRes a k s0 = .next s1 := hx
  clear hx
  unfold execGrstatRes at h
  refine Keeps.dispatch (fun s => ?_) h
  clear h
  repeat' first
    | (with_reducible first | refine Keeps.chainBody ?_ | refine Keeps.eretBody ?_)
    | with_reducible first | exact Att.holds_stall | exact Att.holds_trap | apply Att.holds_stall | apply Att.holds_trap | apply Att.holds_sendable | apply Att.holds_orderly | apply Att.holds_sendReady | apply Att.holds_xQuiet | apply Att.holds_need | apply Att.holds_check | apply Att.holds_capCheck | apply Att.holds_guardHints | apply Att.holds_guardPriv | apply Att.holds_guardCluster | apply Att.holds_aBody | apply Att.holds_orderStore | apply Att.holds_releaseWait | apply Att.holds_decides | apply Att.holds_replyCheck | apply Att.holds_guard | apply Att.holds_ok | apply Att.holds_stay | apply Att.holds_waits
    | (with_reducible refine Att.holds_popSdq (fun _ _ _ => ?_))
    | (with_reducible refine Att.holds_parkedCheck (fun _ => ?_))
    | with_reducible first | exact Keeps.refl _ | apply Keeps.setCur | apply Keeps.setCurCore | apply Keeps.emitAcc | apply Keeps.wcFlush | apply Keeps.jumpTo | apply Keeps.enqueueOut | apply Keeps.setMatrix | apply Keeps.setChain | apply Keeps.setGrammar | apply Keeps.setRun | apply Keeps.resumeRun | apply Keeps.performEng | apply Keeps.endChain | apply Keeps.copyResume | apply Keeps.pulse | apply Keeps.releaseMacros | apply Keeps.trapAt | apply Keeps.dropRoot | apply Keeps.wcFlushRoot | apply Keeps.setCluster | apply Keeps.countTaken | apply Keeps.serveSteal | apply Keeps.send | apply Keeps.takeId | apply Keeps.accs | apply Keeps.addFollower | apply Keeps.traceJump
    | with_reducible first | exact Keeps.issueBody | exact Keeps.loadBody _ | exact Keeps.storeBody _
    | split
    | rfl
    | exact (Cluster.take_acc _ _ _ _).1
    | exact (Cluster.take_acc _ _ _ _).2
    | dsimp only

theorem keeps_grstatAbn {a k : Nat} {s0 s1 : State} (hx : exec (.grstatAbn a k) s0 = .next s1) : Kept s0 s1 := by
  have h : execGrstatAbn a k s0 = .next s1 := hx
  clear hx
  unfold execGrstatAbn at h
  refine Keeps.dispatch (fun s => ?_) h
  clear h
  repeat' first
    | (with_reducible first | refine Keeps.chainBody ?_ | refine Keeps.eretBody ?_)
    | with_reducible first | exact Att.holds_stall | exact Att.holds_trap | apply Att.holds_stall | apply Att.holds_trap | apply Att.holds_sendable | apply Att.holds_orderly | apply Att.holds_sendReady | apply Att.holds_xQuiet | apply Att.holds_need | apply Att.holds_check | apply Att.holds_capCheck | apply Att.holds_guardHints | apply Att.holds_guardPriv | apply Att.holds_guardCluster | apply Att.holds_aBody | apply Att.holds_orderStore | apply Att.holds_releaseWait | apply Att.holds_decides | apply Att.holds_replyCheck | apply Att.holds_guard | apply Att.holds_ok | apply Att.holds_stay | apply Att.holds_waits
    | (with_reducible refine Att.holds_popSdq (fun _ _ _ => ?_))
    | (with_reducible refine Att.holds_parkedCheck (fun _ => ?_))
    | with_reducible first | exact Keeps.refl _ | apply Keeps.setCur | apply Keeps.setCurCore | apply Keeps.emitAcc | apply Keeps.wcFlush | apply Keeps.jumpTo | apply Keeps.enqueueOut | apply Keeps.setMatrix | apply Keeps.setChain | apply Keeps.setGrammar | apply Keeps.setRun | apply Keeps.resumeRun | apply Keeps.performEng | apply Keeps.endChain | apply Keeps.copyResume | apply Keeps.pulse | apply Keeps.releaseMacros | apply Keeps.trapAt | apply Keeps.dropRoot | apply Keeps.wcFlushRoot | apply Keeps.setCluster | apply Keeps.countTaken | apply Keeps.serveSteal | apply Keeps.send | apply Keeps.takeId | apply Keeps.accs | apply Keeps.addFollower | apply Keeps.traceJump
    | with_reducible first | exact Keeps.issueBody | exact Keeps.loadBody _ | exact Keeps.storeBody _
    | split
    | rfl
    | exact (Cluster.take_acc _ _ _ _).1
    | exact (Cluster.take_acc _ _ _ _).2
    | dsimp only

theorem keeps_cpy {d a b m c : Nat} {s0 s1 : State} (hx : exec (.cpy d a b m c) s0 = .next s1) : Kept s0 s1 := by
  have h : execCpy d a b m c s0 = .next s1 := hx
  clear hx
  unfold execCpy at h
  refine Keeps.dispatch (fun s => ?_) h
  clear h
  repeat' first
    | (with_reducible first | refine Keeps.chainBody ?_ | refine Keeps.eretBody ?_)
    | with_reducible first | exact Att.holds_stall | exact Att.holds_trap | apply Att.holds_stall | apply Att.holds_trap | apply Att.holds_sendable | apply Att.holds_orderly | apply Att.holds_sendReady | apply Att.holds_xQuiet | apply Att.holds_need | apply Att.holds_check | apply Att.holds_capCheck | apply Att.holds_guardHints | apply Att.holds_guardPriv | apply Att.holds_guardCluster | apply Att.holds_aBody | apply Att.holds_orderStore | apply Att.holds_releaseWait | apply Att.holds_decides | apply Att.holds_replyCheck | apply Att.holds_guard | apply Att.holds_ok | apply Att.holds_stay | apply Att.holds_waits
    | (with_reducible refine Att.holds_popSdq (fun _ _ _ => ?_))
    | (with_reducible refine Att.holds_parkedCheck (fun _ => ?_))
    | with_reducible first | exact Keeps.refl _ | apply Keeps.setCur | apply Keeps.setCurCore | apply Keeps.emitAcc | apply Keeps.wcFlush | apply Keeps.jumpTo | apply Keeps.enqueueOut | apply Keeps.setMatrix | apply Keeps.setChain | apply Keeps.setGrammar | apply Keeps.setRun | apply Keeps.resumeRun | apply Keeps.performEng | apply Keeps.endChain | apply Keeps.copyResume | apply Keeps.pulse | apply Keeps.releaseMacros | apply Keeps.trapAt | apply Keeps.dropRoot | apply Keeps.wcFlushRoot | apply Keeps.setCluster | apply Keeps.countTaken | apply Keeps.serveSteal | apply Keeps.send | apply Keeps.takeId | apply Keeps.accs | apply Keeps.addFollower | apply Keeps.traceJump
    | with_reducible first | exact Keeps.issueBody | exact Keeps.loadBody _ | exact Keeps.storeBody _
    | split
    | rfl
    | exact (Cluster.take_acc _ _ _ _).1
    | exact (Cluster.take_acc _ _ _ _).2
    | dsimp only

theorem keeps_cpywp {d a c : Nat} {s0 s1 : State} (hx : exec (.cpywp d a c) s0 = .next s1) : Kept s0 s1 := by
  have h : execCpywp d a c s0 = .next s1 := hx
  clear hx
  unfold execCpywp at h
  refine Keeps.dispatch (fun s => ?_) h
  clear h
  repeat' first
    | (with_reducible first | refine Keeps.chainBody ?_ | refine Keeps.eretBody ?_)
    | with_reducible first | exact Att.holds_stall | exact Att.holds_trap | apply Att.holds_stall | apply Att.holds_trap | apply Att.holds_sendable | apply Att.holds_orderly | apply Att.holds_sendReady | apply Att.holds_xQuiet | apply Att.holds_need | apply Att.holds_check | apply Att.holds_capCheck | apply Att.holds_guardHints | apply Att.holds_guardPriv | apply Att.holds_guardCluster | apply Att.holds_aBody | apply Att.holds_orderStore | apply Att.holds_releaseWait | apply Att.holds_decides | apply Att.holds_replyCheck | apply Att.holds_guard | apply Att.holds_ok | apply Att.holds_stay | apply Att.holds_waits
    | (with_reducible refine Att.holds_popSdq (fun _ _ _ => ?_))
    | (with_reducible refine Att.holds_parkedCheck (fun _ => ?_))
    | with_reducible first | exact Keeps.refl _ | apply Keeps.setCur | apply Keeps.setCurCore | apply Keeps.emitAcc | apply Keeps.wcFlush | apply Keeps.jumpTo | apply Keeps.enqueueOut | apply Keeps.setMatrix | apply Keeps.setChain | apply Keeps.setGrammar | apply Keeps.setRun | apply Keeps.resumeRun | apply Keeps.performEng | apply Keeps.endChain | apply Keeps.copyResume | apply Keeps.pulse | apply Keeps.releaseMacros | apply Keeps.trapAt | apply Keeps.dropRoot | apply Keeps.wcFlushRoot | apply Keeps.setCluster | apply Keeps.countTaken | apply Keeps.serveSteal | apply Keeps.send | apply Keeps.takeId | apply Keeps.accs | apply Keeps.addFollower | apply Keeps.traceJump
    | with_reducible first | exact Keeps.issueBody | exact Keeps.loadBody _ | exact Keeps.storeBody _
    | split
    | rfl
    | exact (Cluster.take_acc _ _ _ _).1
    | exact (Cluster.take_acc _ _ _ _).2
    | dsimp only

theorem keeps_cpychkCheck {d a b c : Nat} {s0 s1 : State} (hx : exec (.cpychkCheck d a b c) s0 = .next s1) : Kept s0 s1 := by
  have h : execCpychkCheck d a b c s0 = .next s1 := hx
  clear hx
  unfold execCpychkCheck at h
  refine Keeps.dispatch (fun s => ?_) h
  clear h
  repeat' first
    | (with_reducible first | refine Keeps.chainBody ?_ | refine Keeps.eretBody ?_)
    | with_reducible first | exact Att.holds_stall | exact Att.holds_trap | apply Att.holds_stall | apply Att.holds_trap | apply Att.holds_sendable | apply Att.holds_orderly | apply Att.holds_sendReady | apply Att.holds_xQuiet | apply Att.holds_need | apply Att.holds_check | apply Att.holds_capCheck | apply Att.holds_guardHints | apply Att.holds_guardPriv | apply Att.holds_guardCluster | apply Att.holds_aBody | apply Att.holds_orderStore | apply Att.holds_releaseWait | apply Att.holds_decides | apply Att.holds_replyCheck | apply Att.holds_guard | apply Att.holds_ok | apply Att.holds_stay | apply Att.holds_waits
    | (with_reducible refine Att.holds_popSdq (fun _ _ _ => ?_))
    | (with_reducible refine Att.holds_parkedCheck (fun _ => ?_))
    | with_reducible first | exact Keeps.refl _ | apply Keeps.setCur | apply Keeps.setCurCore | apply Keeps.emitAcc | apply Keeps.wcFlush | apply Keeps.jumpTo | apply Keeps.enqueueOut | apply Keeps.setMatrix | apply Keeps.setChain | apply Keeps.setGrammar | apply Keeps.setRun | apply Keeps.resumeRun | apply Keeps.performEng | apply Keeps.endChain | apply Keeps.copyResume | apply Keeps.pulse | apply Keeps.releaseMacros | apply Keeps.trapAt | apply Keeps.dropRoot | apply Keeps.wcFlushRoot | apply Keeps.setCluster | apply Keeps.countTaken | apply Keeps.serveSteal | apply Keeps.send | apply Keeps.takeId | apply Keeps.accs | apply Keeps.addFollower | apply Keeps.traceJump
    | with_reducible first | exact Keeps.issueBody | exact Keeps.loadBody _ | exact Keeps.storeBody _
    | split
    | rfl
    | exact (Cluster.take_acc _ _ _ _).1
    | exact (Cluster.take_acc _ _ _ _).2
    | dsimp only

theorem keeps_cpychkRes {a c : Nat} {s0 s1 : State} (hx : exec (.cpychkRes a c) s0 = .next s1) : Kept s0 s1 := by
  have h : execCpychkRes a c s0 = .next s1 := hx
  clear hx
  unfold execCpychkRes at h
  refine Keeps.dispatch (fun s => ?_) h
  clear h
  repeat' first
    | (with_reducible first | refine Keeps.chainBody ?_ | refine Keeps.eretBody ?_)
    | with_reducible first | exact Att.holds_stall | exact Att.holds_trap | apply Att.holds_stall | apply Att.holds_trap | apply Att.holds_sendable | apply Att.holds_orderly | apply Att.holds_sendReady | apply Att.holds_xQuiet | apply Att.holds_need | apply Att.holds_check | apply Att.holds_capCheck | apply Att.holds_guardHints | apply Att.holds_guardPriv | apply Att.holds_guardCluster | apply Att.holds_aBody | apply Att.holds_orderStore | apply Att.holds_releaseWait | apply Att.holds_decides | apply Att.holds_replyCheck | apply Att.holds_guard | apply Att.holds_ok | apply Att.holds_stay | apply Att.holds_waits
    | (with_reducible refine Att.holds_popSdq (fun _ _ _ => ?_))
    | (with_reducible refine Att.holds_parkedCheck (fun _ => ?_))
    | with_reducible first | exact Keeps.refl _ | apply Keeps.setCur | apply Keeps.setCurCore | apply Keeps.emitAcc | apply Keeps.wcFlush | apply Keeps.jumpTo | apply Keeps.enqueueOut | apply Keeps.setMatrix | apply Keeps.setChain | apply Keeps.setGrammar | apply Keeps.setRun | apply Keeps.resumeRun | apply Keeps.performEng | apply Keeps.endChain | apply Keeps.copyResume | apply Keeps.pulse | apply Keeps.releaseMacros | apply Keeps.trapAt | apply Keeps.dropRoot | apply Keeps.wcFlushRoot | apply Keeps.setCluster | apply Keeps.countTaken | apply Keeps.serveSteal | apply Keeps.send | apply Keeps.takeId | apply Keeps.accs | apply Keeps.addFollower | apply Keeps.traceJump
    | with_reducible first | exact Keeps.issueBody | exact Keeps.loadBody _ | exact Keeps.storeBody _
    | split
    | rfl
    | exact (Cluster.take_acc _ _ _ _).1
    | exact (Cluster.take_acc _ _ _ _).2
    | dsimp only

theorem keeps_cpychkAbn {a c : Nat} {s0 s1 : State} (hx : exec (.cpychkAbn a c) s0 = .next s1) : Kept s0 s1 := by
  have h : execCpychkAbn a c s0 = .next s1 := hx
  clear hx
  unfold execCpychkAbn at h
  refine Keeps.dispatch (fun s => ?_) h
  clear h
  repeat' first
    | (with_reducible first | refine Keeps.chainBody ?_ | refine Keeps.eretBody ?_)
    | with_reducible first | exact Att.holds_stall | exact Att.holds_trap | apply Att.holds_stall | apply Att.holds_trap | apply Att.holds_sendable | apply Att.holds_orderly | apply Att.holds_sendReady | apply Att.holds_xQuiet | apply Att.holds_need | apply Att.holds_check | apply Att.holds_capCheck | apply Att.holds_guardHints | apply Att.holds_guardPriv | apply Att.holds_guardCluster | apply Att.holds_aBody | apply Att.holds_orderStore | apply Att.holds_releaseWait | apply Att.holds_decides | apply Att.holds_replyCheck | apply Att.holds_guard | apply Att.holds_ok | apply Att.holds_stay | apply Att.holds_waits
    | (with_reducible refine Att.holds_popSdq (fun _ _ _ => ?_))
    | (with_reducible refine Att.holds_parkedCheck (fun _ => ?_))
    | with_reducible first | exact Keeps.refl _ | apply Keeps.setCur | apply Keeps.setCurCore | apply Keeps.emitAcc | apply Keeps.wcFlush | apply Keeps.jumpTo | apply Keeps.enqueueOut | apply Keeps.setMatrix | apply Keeps.setChain | apply Keeps.setGrammar | apply Keeps.setRun | apply Keeps.resumeRun | apply Keeps.performEng | apply Keeps.endChain | apply Keeps.copyResume | apply Keeps.pulse | apply Keeps.releaseMacros | apply Keeps.trapAt | apply Keeps.dropRoot | apply Keeps.wcFlushRoot | apply Keeps.setCluster | apply Keeps.countTaken | apply Keeps.serveSteal | apply Keeps.send | apply Keeps.takeId | apply Keeps.accs | apply Keeps.addFollower | apply Keeps.traceJump
    | with_reducible first | exact Keeps.issueBody | exact Keeps.loadBody _ | exact Keeps.storeBody _
    | split
    | rfl
    | exact (Cluster.take_acc _ _ _ _).1
    | exact (Cluster.take_acc _ _ _ _).2
    | dsimp only

end Sys2Proof.Machine
end

