-- ==== Sys2Proof/Laws/PerInstr.lean ====
section
/-! SUPPORT. One lemma per instruction: the word of a well-formed instruction decodes to it (03 R43 to R47). The lemmas follow
the encoding tables row by row; an event has no word. -/

namespace Sys2Proof.Laws

/-- Decoding reads back what `encode` writes. -/
def RoundTrip.Statement (i : Instr) : Prop := i.wellFormed = true → ∀ w, encode i = some w → decode w = .ok i

end Sys2Proof.Laws

namespace Sys2Proof

open Laws.RoundTrip

set_option Elab.async false

/-- The fields of a word decide what it decodes to, when they are well formed. -/
theorem of_fields {w : Nat} {i : Instr} (wf : i.wellFormed = true) (h : decodeFields w = .ok i) : decode w = .ok i := by
  rw [decode, h]; exact if_pos wf

/-- The lowest field. -/
theorem fld_low {a x n : Nat} (h : x < 2 ^ n) : fld (a * 2 ^ n + x) 0 n = x := by
  rw [fld, Nat.pow_zero, Nat.div_one, Nat.mul_comm, Nat.mul_add_mod, Nat.mod_eq_of_lt h]

/-- The field of the word that is nothing but it. -/
theorem fld_top {x n : Nat} (h : x < 2 ^ n) : fld x 0 n = x := by
  rw [fld, Nat.pow_zero, Nat.div_one, Nat.mod_eq_of_lt h]

/-- A field stands higher when a field is put below. -/
theorem fld_up {a y k lo n x : Nat} (h : y < 2 ^ k) (e : fld a lo n = x) : fld (a * 2 ^ k + y) (lo + k) n = x := by
  rw [← e, fld, fld, Nat.pow_add, Nat.mul_comm (2 ^ lo), ← Nat.div_div_eq_div_mul, Nat.mul_comm a,
    Nat.mul_add_div (Nat.two_pow_pos k), Nat.div_eq_of_lt h, Nat.add_zero]

theorem fields_21_14_7_0 (hi lo x0 x1 x2 x3 : Nat) (h : hi < 2 ^ 4 ∧ lo < 2 ^ 4 ∧ x0 < 2 ^ 3 ∧ x1 < 2 ^ 7 ∧ x2 < 2 ^ 7 ∧ x3 < 2 ^ 7) (v : Nat)
    (hv : v = (16 * hi + lo) * 16777216 + x0 * 2097152 + x1 * 16384 + x2 * 128 + x3) :
    fld v 28 4 = hi ∧ fld v 24 4 = lo ∧ fld v 21 3 = x0 ∧ fld v 14 7 = x1 ∧ fld v 7 7 = x2 ∧ fld v 0 7 = x3 := by
  obtain ⟨bhi, blo, b0, b1, b2, b3⟩ := h
  have e : v = ((((hi * 16 + lo) * 8 + x0) * 128 + x1) * 128 + x2) * 128 + x3 := hv.trans (by clear hv bhi blo b0 b1 b2 b3; omega)
  subst e
  exact ⟨fld_up (k := 7) (lo := 21) b3 (fld_up (k := 7) (lo := 14) b2 (fld_up (k := 7) (lo := 7) b1 (fld_up (k := 3) (lo := 4) b0 (fld_up (k := 4) (lo := 0) blo (fld_top (n := 4) bhi))))), fld_up (k := 7) (lo := 17) b3 (fld_up (k := 7) (lo := 10) b2 (fld_up (k := 7) (lo := 3) b1 (fld_up (k := 3) (lo := 0) b0 (fld_low (n := 4) blo)))), fld_up (k := 7) (lo := 14) b3 (fld_up (k := 7) (lo := 7) b2 (fld_up (k := 7) (lo := 0) b1 (fld_low (n := 3) b0))), fld_up (k := 7) (lo := 7) b3 (fld_up (k := 7) (lo := 0) b2 (fld_low (n := 7) b1)), fld_up (k := 7) (lo := 0) b3 (fld_low (n := 7) b2), fld_low (n := 7) b3⟩

theorem fields_21_14_7_6_3_0 (hi lo x0 x1 x2 x3 x4 x5 : Nat) (h : hi < 2 ^ 4 ∧ lo < 2 ^ 4 ∧ x0 < 2 ^ 3 ∧ x1 < 2 ^ 7 ∧ x2 < 2 ^ 7 ∧ x3 < 2 ^ 1 ∧ x4 < 2 ^ 3 ∧ x5 < 2 ^ 3) (v : Nat)
    (hv : v = (16 * hi + lo) * 16777216 + x0 * 2097152 + x1 * 16384 + x2 * 128 + x3 * 64 + x4 * 8 + x5) :
    fld v 28 4 = hi ∧ fld v 24 4 = lo ∧ fld v 21 3 = x0 ∧ fld v 14 7 = x1 ∧ fld v 7 7 = x2 ∧ fld v 6 1 = x3 ∧ fld v 3 3 = x4 ∧ fld v 0 3 = x5 := by
  obtain ⟨bhi, blo, b0, b1, b2, b3, b4, b5⟩ := h
  have e : v = ((((((hi * 16 + lo) * 8 + x0) * 128 + x1) * 128 + x2) * 2 + x3) * 8 + x4) * 8 + x5 := hv.trans (by clear hv bhi blo b0 b1 b2 b3 b4 b5; omega)
  subst e
  exact ⟨fld_up (k := 3) (lo := 25) b5 (fld_up (k := 3) (lo := 22) b4 (fld_up (k := 1) (lo := 21) b3 (fld_up (k := 7) (lo := 14) b2 (fld_up (k := 7) (lo := 7) b1 (fld_up (k := 3) (lo := 4) b0 (fld_up (k := 4) (lo := 0) blo (fld_top (n := 4) bhi))))))), fld_up (k := 3) (lo := 21) b5 (fld_up (k := 3) (lo := 18) b4 (fld_up (k := 1) (lo := 17) b3 (fld_up (k := 7) (lo := 10) b2 (fld_up (k := 7) (lo := 3) b1 (fld_up (k := 3) (lo := 0) b0 (fld_low (n := 4) blo)))))), fld_up (k := 3) (lo := 18) b5 (fld_up (k := 3) (lo := 15) b4 (fld_up (k := 1) (lo := 14) b3 (fld_up (k := 7) (lo := 7) b2 (fld_up (k := 7) (lo := 0) b1 (fld_low (n := 3) b0))))), fld_up (k := 3) (lo := 11) b5 (fld_up (k := 3) (lo := 8) b4 (fld_up (k := 1) (lo := 7) b3 (fld_up (k := 7) (lo := 0) b2 (fld_low (n := 7) b1)))), fld_up (k := 3) (lo := 4) b5 (fld_up (k := 3) (lo := 1) b4 (fld_up (k := 1) (lo := 0) b3 (fld_low (n := 7) b2))), fld_up (k := 3) (lo := 3) b5 (fld_up (k := 3) (lo := 0) b4 (fld_low (n := 1) b3)), fld_up (k := 3) (lo := 0) b5 (fld_low (n := 3) b4), fld_low (n := 3) b5⟩

theorem fields_19_14_9_0 (hi lo x0 x1 x2 x3 : Nat) (h : hi < 2 ^ 4 ∧ lo < 2 ^ 4 ∧ x0 < 2 ^ 5 ∧ x1 < 2 ^ 5 ∧ x2 < 2 ^ 5 ∧ x3 < 2 ^ 9) (v : Nat)
    (hv : v = (16 * hi + lo) * 16777216 + x0 * 524288 + x1 * 16384 + x2 * 512 + x3) :
    fld v 28 4 = hi ∧ fld v 24 4 = lo ∧ fld v 19 5 = x0 ∧ fld v 14 5 = x1 ∧ fld v 9 5 = x2 ∧ fld v 0 9 = x3 := by
  obtain ⟨bhi, blo, b0, b1, b2, b3⟩ := h
  have e : v = ((((hi * 16 + lo) * 32 + x0) * 32 + x1) * 32 + x2) * 512 + x3 := hv.trans (by clear hv bhi blo b0 b1 b2 b3; omega)
  subst e
  exact ⟨fld_up (k := 9) (lo := 19) b3 (fld_up (k := 5) (lo := 14) b2 (fld_up (k := 5) (lo := 9) b1 (fld_up (k := 5) (lo := 4) b0 (fld_up (k := 4) (lo := 0) blo (fld_top (n := 4) bhi))))), fld_up (k := 9) (lo := 15) b3 (fld_up (k := 5) (lo := 10) b2 (fld_up (k := 5) (lo := 5) b1 (fld_up (k := 5) (lo := 0) b0 (fld_low (n := 4) blo)))), fld_up (k := 9) (lo := 10) b3 (fld_up (k := 5) (lo := 5) b2 (fld_up (k := 5) (lo := 0) b1 (fld_low (n := 5) b0))), fld_up (k := 9) (lo := 5) b3 (fld_up (k := 5) (lo := 0) b2 (fld_low (n := 5) b1)), fld_up (k := 9) (lo := 0) b3 (fld_low (n := 5) b2), fld_low (n := 9) b3⟩

theorem fields_19_14_0 (hi lo x0 x1 x2 : Nat) (h : hi < 2 ^ 4 ∧ lo < 2 ^ 4 ∧ x0 < 2 ^ 5 ∧ x1 < 2 ^ 5 ∧ x2 < 2 ^ 14) (v : Nat)
    (hv : v = (16 * hi + lo) * 16777216 + x0 * 524288 + x1 * 16384 + x2) :
    fld v 28 4 = hi ∧ fld v 24 4 = lo ∧ fld v 19 5 = x0 ∧ fld v 14 5 = x1 ∧ fld v 0 14 = x2 := by
  obtain ⟨bhi, blo, b0, b1, b2⟩ := h
  have e : v = (((hi * 16 + lo) * 32 + x0) * 32 + x1) * 16384 + x2 := hv.trans (by clear hv bhi blo b0 b1 b2; omega)
  subst e
  exact ⟨fld_up (k := 14) (lo := 14) b2 (fld_up (k := 5) (lo := 9) b1 (fld_up (k := 5) (lo := 4) b0 (fld_up (k := 4) (lo := 0) blo (fld_top (n := 4) bhi)))), fld_up (k := 14) (lo := 10) b2 (fld_up (k := 5) (lo := 5) b1 (fld_up (k := 5) (lo := 0) b0 (fld_low (n := 4) blo))), fld_up (k := 14) (lo := 5) b2 (fld_up (k := 5) (lo := 0) b1 (fld_low (n := 5) b0)), fld_up (k := 14) (lo := 0) b2 (fld_low (n := 5) b1), fld_low (n := 14) b2⟩

theorem fields_19_0 (hi lo x0 x1 : Nat) (h : hi < 2 ^ 4 ∧ lo < 2 ^ 4 ∧ x0 < 2 ^ 5 ∧ x1 < 2 ^ 19) (v : Nat)
    (hv : v = (16 * hi + lo) * 16777216 + x0 * 524288 + x1) :
    fld v 28 4 = hi ∧ fld v 24 4 = lo ∧ fld v 19 5 = x0 ∧ fld v 0 19 = x1 := by
  obtain ⟨bhi, blo, b0, b1⟩ := h
  have e : v = ((hi * 16 + lo) * 32 + x0) * 524288 + x1 := hv.trans (by clear hv bhi blo b0 b1; omega)
  subst e
  exact ⟨fld_up (k := 19) (lo := 9) b1 (fld_up (k := 5) (lo := 4) b0 (fld_up (k := 4) (lo := 0) blo (fld_top (n := 4) bhi))), fld_up (k := 19) (lo := 5) b1 (fld_up (k := 5) (lo := 0) b0 (fld_low (n := 4) blo)), fld_up (k := 19) (lo := 0) b1 (fld_low (n := 5) b0), fld_low (n := 19) b1⟩

theorem fields_19_14_9_6_5_3_0 (hi lo x0 x1 x2 x3 x4 x5 x6 : Nat) (h : hi < 2 ^ 4 ∧ lo < 2 ^ 4 ∧ x0 < 2 ^ 5 ∧ x1 < 2 ^ 5 ∧ x2 < 2 ^ 5 ∧ x3 < 2 ^ 3 ∧ x4 < 2 ^ 1 ∧ x5 < 2 ^ 2 ∧ x6 < 2 ^ 3) (v : Nat)
    (hv : v = (16 * hi + lo) * 16777216 + x0 * 524288 + x1 * 16384 + x2 * 512 + x3 * 64 + x4 * 32 + x5 * 8 + x6) :
    fld v 28 4 = hi ∧ fld v 24 4 = lo ∧ fld v 19 5 = x0 ∧ fld v 14 5 = x1 ∧ fld v 9 5 = x2 ∧ fld v 6 3 = x3 ∧ fld v 5 1 = x4 ∧ fld v 3 2 = x5 ∧ fld v 0 3 = x6 := by
  obtain ⟨bhi, blo, b0, b1, b2, b3, b4, b5, b6⟩ := h
  have e : v = (((((((hi * 16 + lo) * 32 + x0) * 32 + x1) * 32 + x2) * 8 + x3) * 2 + x4) * 4 + x5) * 8 + x6 := hv.trans (by clear hv bhi blo b0 b1 b2 b3 b4 b5 b6; omega)
  subst e
  exact ⟨fld_up (k := 3) (lo := 25) b6 (fld_up (k := 2) (lo := 23) b5 (fld_up (k := 1) (lo := 22) b4 (fld_up (k := 3) (lo := 19) b3 (fld_up (k := 5) (lo := 14) b2 (fld_up (k := 5) (lo := 9) b1 (fld_up (k := 5) (lo := 4) b0 (fld_up (k := 4) (lo := 0) blo (fld_top (n := 4) bhi)))))))), fld_up (k := 3) (lo := 21) b6 (fld_up (k := 2) (lo := 19) b5 (fld_up (k := 1) (lo := 18) b4 (fld_up (k := 3) (lo := 15) b3 (fld_up (k := 5) (lo := 10) b2 (fld_up (k := 5) (lo := 5) b1 (fld_up (k := 5) (lo := 0) b0 (fld_low (n := 4) blo))))))), fld_up (k := 3) (lo := 16) b6 (fld_up (k := 2) (lo := 14) b5 (fld_up (k := 1) (lo := 13) b4 (fld_up (k := 3) (lo := 10) b3 (fld_up (k := 5) (lo := 5) b2 (fld_up (k := 5) (lo := 0) b1 (fld_low (n := 5) b0)))))), fld_up (k := 3) (lo := 11) b6 (fld_up (k := 2) (lo := 9) b5 (fld_up (k := 1) (lo := 8) b4 (fld_up (k := 3) (lo := 5) b3 (fld_up (k := 5) (lo := 0) b2 (fld_low (n := 5) b1))))), fld_up (k := 3) (lo := 6) b6 (fld_up (k := 2) (lo := 4) b5 (fld_up (k := 1) (lo := 3) b4 (fld_up (k := 3) (lo := 0) b3 (fld_low (n := 5) b2)))), fld_up (k := 3) (lo := 3) b6 (fld_up (k := 2) (lo := 1) b5 (fld_up (k := 1) (lo := 0) b4 (fld_low (n := 3) b3))), fld_up (k := 3) (lo := 2) b6 (fld_up (k := 2) (lo := 0) b5 (fld_low (n := 1) b4)), fld_up (k := 3) (lo := 0) b6 (fld_low (n := 2) b5), fld_low (n := 3) b6⟩

theorem fields_19_14_9_5_3_0 (hi lo x0 x1 x2 x3 x4 x5 : Nat) (h : hi < 2 ^ 4 ∧ lo < 2 ^ 4 ∧ x0 < 2 ^ 5 ∧ x1 < 2 ^ 5 ∧ x2 < 2 ^ 5 ∧ x3 < 2 ^ 4 ∧ x4 < 2 ^ 2 ∧ x5 < 2 ^ 3) (v : Nat)
    (hv : v = (16 * hi + lo) * 16777216 + x0 * 524288 + x1 * 16384 + x2 * 512 + x3 * 32 + x4 * 8 + x5) :
    fld v 28 4 = hi ∧ fld v 24 4 = lo ∧ fld v 19 5 = x0 ∧ fld v 14 5 = x1 ∧ fld v 9 5 = x2 ∧ fld v 5 4 = x3 ∧ fld v 3 2 = x4 ∧ fld v 0 3 = x5 := by
  obtain ⟨bhi, blo, b0, b1, b2, b3, b4, b5⟩ := h
  have e : v = ((((((hi * 16 + lo) * 32 + x0) * 32 + x1) * 32 + x2) * 16 + x3) * 4 + x4) * 8 + x5 := hv.trans (by clear hv bhi blo b0 b1 b2 b3 b4 b5; omega)
  subst e
  exact ⟨fld_up (k := 3) (lo := 25) b5 (fld_up (k := 2) (lo := 23) b4 (fld_up (k := 4) (lo := 19) b3 (fld_up (k := 5) (lo := 14) b2 (fld_up (k := 5) (lo := 9) b1 (fld_up (k := 5) (lo := 4) b0 (fld_up (k := 4) (lo := 0) blo (fld_top (n := 4) bhi))))))), fld_up (k := 3) (lo := 21) b5 (fld_up (k := 2) (lo := 19) b4 (fld_up (k := 4) (lo := 15) b3 (fld_up (k := 5) (lo := 10) b2 (fld_up (k := 5) (lo := 5) b1 (fld_up (k := 5) (lo := 0) b0 (fld_low (n := 4) blo)))))), fld_up (k := 3) (lo := 16) b5 (fld_up (k := 2) (lo := 14) b4 (fld_up (k := 4) (lo := 10) b3 (fld_up (k := 5) (lo := 5) b2 (fld_up (k := 5) (lo := 0) b1 (fld_low (n := 5) b0))))), fld_up (k := 3) (lo := 11) b5 (fld_up (k := 2) (lo := 9) b4 (fld_up (k := 4) (lo := 5) b3 (fld_up (k := 5) (lo := 0) b2 (fld_low (n := 5) b1)))), fld_up (k := 3) (lo := 6) b5 (fld_up (k := 2) (lo := 4) b4 (fld_up (k := 4) (lo := 0) b3 (fld_low (n := 5) b2))), fld_up (k := 3) (lo := 2) b5 (fld_up (k := 2) (lo := 0) b4 (fld_low (n := 4) b3)), fld_up (k := 3) (lo := 0) b5 (fld_low (n := 2) b4), fld_low (n := 3) b5⟩

theorem fields_19_14_9_6_5_0 (hi lo x0 x1 x2 x3 x4 x5 : Nat) (h : hi < 2 ^ 4 ∧ lo < 2 ^ 4 ∧ x0 < 2 ^ 5 ∧ x1 < 2 ^ 5 ∧ x2 < 2 ^ 5 ∧ x3 < 2 ^ 3 ∧ x4 < 2 ^ 1 ∧ x5 < 2 ^ 5) (v : Nat)
    (hv : v = (16 * hi + lo) * 16777216 + x0 * 524288 + x1 * 16384 + x2 * 512 + x3 * 64 + x4 * 32 + x5) :
    fld v 28 4 = hi ∧ fld v 24 4 = lo ∧ fld v 19 5 = x0 ∧ fld v 14 5 = x1 ∧ fld v 9 5 = x2 ∧ fld v 6 3 = x3 ∧ fld v 5 1 = x4 ∧ fld v 0 5 = x5 := by
  obtain ⟨bhi, blo, b0, b1, b2, b3, b4, b5⟩ := h
  have e : v = ((((((hi * 16 + lo) * 32 + x0) * 32 + x1) * 32 + x2) * 8 + x3) * 2 + x4) * 32 + x5 := hv.trans (by clear hv bhi blo b0 b1 b2 b3 b4 b5; omega)
  subst e
  exact ⟨fld_up (k := 5) (lo := 23) b5 (fld_up (k := 1) (lo := 22) b4 (fld_up (k := 3) (lo := 19) b3 (fld_up (k := 5) (lo := 14) b2 (fld_up (k := 5) (lo := 9) b1 (fld_up (k := 5) (lo := 4) b0 (fld_up (k := 4) (lo := 0) blo (fld_top (n := 4) bhi))))))), fld_up (k := 5) (lo := 19) b5 (fld_up (k := 1) (lo := 18) b4 (fld_up (k := 3) (lo := 15) b3 (fld_up (k := 5) (lo := 10) b2 (fld_up (k := 5) (lo := 5) b1 (fld_up (k := 5) (lo := 0) b0 (fld_low (n := 4) blo)))))), fld_up (k := 5) (lo := 14) b5 (fld_up (k := 1) (lo := 13) b4 (fld_up (k := 3) (lo := 10) b3 (fld_up (k := 5) (lo := 5) b2 (fld_up (k := 5) (lo := 0) b1 (fld_low (n := 5) b0))))), fld_up (k := 5) (lo := 9) b5 (fld_up (k := 1) (lo := 8) b4 (fld_up (k := 3) (lo := 5) b3 (fld_up (k := 5) (lo := 0) b2 (fld_low (n := 5) b1)))), fld_up (k := 5) (lo := 4) b5 (fld_up (k := 1) (lo := 3) b4 (fld_up (k := 3) (lo := 0) b3 (fld_low (n := 5) b2))), fld_up (k := 5) (lo := 1) b5 (fld_up (k := 1) (lo := 0) b4 (fld_low (n := 3) b3)), fld_up (k := 5) (lo := 0) b5 (fld_low (n := 1) b4), fld_low (n := 5) b5⟩

theorem fields_19_14_9_6_0 (hi lo x0 x1 x2 x3 x4 : Nat) (h : hi < 2 ^ 4 ∧ lo < 2 ^ 4 ∧ x0 < 2 ^ 5 ∧ x1 < 2 ^ 5 ∧ x2 < 2 ^ 5 ∧ x3 < 2 ^ 3 ∧ x4 < 2 ^ 6) (v : Nat)
    (hv : v = (16 * hi + lo) * 16777216 + x0 * 524288 + x1 * 16384 + x2 * 512 + x3 * 64 + x4) :
    fld v 28 4 = hi ∧ fld v 24 4 = lo ∧ fld v 19 5 = x0 ∧ fld v 14 5 = x1 ∧ fld v 9 5 = x2 ∧ fld v 6 3 = x3 ∧ fld v 0 6 = x4 := by
  obtain ⟨bhi, blo, b0, b1, b2, b3, b4⟩ := h
  have e : v = (((((hi * 16 + lo) * 32 + x0) * 32 + x1) * 32 + x2) * 8 + x3) * 64 + x4 := hv.trans (by clear hv bhi blo b0 b1 b2 b3 b4; omega)
  subst e
  exact ⟨fld_up (k := 6) (lo := 22) b4 (fld_up (k := 3) (lo := 19) b3 (fld_up (k := 5) (lo := 14) b2 (fld_up (k := 5) (lo := 9) b1 (fld_up (k := 5) (lo := 4) b0 (fld_up (k := 4) (lo := 0) blo (fld_top (n := 4) bhi)))))), fld_up (k := 6) (lo := 18) b4 (fld_up (k := 3) (lo := 15) b3 (fld_up (k := 5) (lo := 10) b2 (fld_up (k := 5) (lo := 5) b1 (fld_up (k := 5) (lo := 0) b0 (fld_low (n := 4) blo))))), fld_up (k := 6) (lo := 13) b4 (fld_up (k := 3) (lo := 10) b3 (fld_up (k := 5) (lo := 5) b2 (fld_up (k := 5) (lo := 0) b1 (fld_low (n := 5) b0)))), fld_up (k := 6) (lo := 8) b4 (fld_up (k := 3) (lo := 5) b3 (fld_up (k := 5) (lo := 0) b2 (fld_low (n := 5) b1))), fld_up (k := 6) (lo := 3) b4 (fld_up (k := 3) (lo := 0) b3 (fld_low (n := 5) b2)), fld_up (k := 6) (lo := 0) b4 (fld_low (n := 3) b3), fld_low (n := 6) b4⟩

theorem fields_19_14_9_5_4_3_0 (hi lo x0 x1 x2 x3 x4 x5 x6 : Nat) (h : hi < 2 ^ 4 ∧ lo < 2 ^ 4 ∧ x0 < 2 ^ 5 ∧ x1 < 2 ^ 5 ∧ x2 < 2 ^ 5 ∧ x3 < 2 ^ 4 ∧ x4 < 2 ^ 1 ∧ x5 < 2 ^ 1 ∧ x6 < 2 ^ 3) (v : Nat)
    (hv : v = (16 * hi + lo) * 16777216 + x0 * 524288 + x1 * 16384 + x2 * 512 + x3 * 32 + x4 * 16 + x5 * 8 + x6) :
    fld v 28 4 = hi ∧ fld v 24 4 = lo ∧ fld v 19 5 = x0 ∧ fld v 14 5 = x1 ∧ fld v 9 5 = x2 ∧ fld v 5 4 = x3 ∧ fld v 4 1 = x4 ∧ fld v 3 1 = x5 ∧ fld v 0 3 = x6 := by
  obtain ⟨bhi, blo, b0, b1, b2, b3, b4, b5, b6⟩ := h
  have e : v = (((((((hi * 16 + lo) * 32 + x0) * 32 + x1) * 32 + x2) * 16 + x3) * 2 + x4) * 2 + x5) * 8 + x6 := hv.trans (by clear hv bhi blo b0 b1 b2 b3 b4 b5 b6; omega)
  subst e
  exact ⟨fld_up (k := 3) (lo := 25) b6 (fld_up (k := 1) (lo := 24) b5 (fld_up (k := 1) (lo := 23) b4 (fld_up (k := 4) (lo := 19) b3 (fld_up (k := 5) (lo := 14) b2 (fld_up (k := 5) (lo := 9) b1 (fld_up (k := 5) (lo := 4) b0 (fld_up (k := 4) (lo := 0) blo (fld_top (n := 4) bhi)))))))), fld_up (k := 3) (lo := 21) b6 (fld_up (k := 1) (lo := 20) b5 (fld_up (k := 1) (lo := 19) b4 (fld_up (k := 4) (lo := 15) b3 (fld_up (k := 5) (lo := 10) b2 (fld_up (k := 5) (lo := 5) b1 (fld_up (k := 5) (lo := 0) b0 (fld_low (n := 4) blo))))))), fld_up (k := 3) (lo := 16) b6 (fld_up (k := 1) (lo := 15) b5 (fld_up (k := 1) (lo := 14) b4 (fld_up (k := 4) (lo := 10) b3 (fld_up (k := 5) (lo := 5) b2 (fld_up (k := 5) (lo := 0) b1 (fld_low (n := 5) b0)))))), fld_up (k := 3) (lo := 11) b6 (fld_up (k := 1) (lo := 10) b5 (fld_up (k := 1) (lo := 9) b4 (fld_up (k := 4) (lo := 5) b3 (fld_up (k := 5) (lo := 0) b2 (fld_low (n := 5) b1))))), fld_up (k := 3) (lo := 6) b6 (fld_up (k := 1) (lo := 5) b5 (fld_up (k := 1) (lo := 4) b4 (fld_up (k := 4) (lo := 0) b3 (fld_low (n := 5) b2)))), fld_up (k := 3) (lo := 2) b6 (fld_up (k := 1) (lo := 1) b5 (fld_up (k := 1) (lo := 0) b4 (fld_low (n := 4) b3))), fld_up (k := 3) (lo := 1) b6 (fld_up (k := 1) (lo := 0) b5 (fld_low (n := 1) b4)), fld_up (k := 3) (lo := 0) b6 (fld_low (n := 1) b5), fld_low (n := 3) b6⟩

theorem fields_20_19_14_9_5_4_3_0 (hi lo x0 x1 x2 x3 x4 x5 x6 x7 : Nat) (h : hi < 2 ^ 4 ∧ lo < 2 ^ 4 ∧ x0 < 2 ^ 4 ∧ x1 < 2 ^ 1 ∧ x2 < 2 ^ 5 ∧ x3 < 2 ^ 5 ∧ x4 < 2 ^ 4 ∧ x5 < 2 ^ 1 ∧ x6 < 2 ^ 1 ∧ x7 < 2 ^ 3) (v : Nat)
    (hv : v = (16 * hi + lo) * 16777216 + x0 * 1048576 + x1 * 524288 + x2 * 16384 + x3 * 512 + x4 * 32 + x5 * 16 + x6 * 8 + x7) :
    fld v 28 4 = hi ∧ fld v 24 4 = lo ∧ fld v 20 4 = x0 ∧ fld v 19 1 = x1 ∧ fld v 14 5 = x2 ∧ fld v 9 5 = x3 ∧ fld v 5 4 = x4 ∧ fld v 4 1 = x5 ∧ fld v 3 1 = x6 ∧ fld v 0 3 = x7 := by
  obtain ⟨bhi, blo, b0, b1, b2, b3, b4, b5, b6, b7⟩ := h
  have e : v = ((((((((hi * 16 + lo) * 16 + x0) * 2 + x1) * 32 + x2) * 32 + x3) * 16 + x4) * 2 + x5) * 2 + x6) * 8 + x7 := hv.trans (by clear hv bhi blo b0 b1 b2 b3 b4 b5 b6 b7; omega)
  subst e
  exact ⟨fld_up (k := 3) (lo := 25) b7 (fld_up (k := 1) (lo := 24) b6 (fld_up (k := 1) (lo := 23) b5 (fld_up (k := 4) (lo := 19) b4 (fld_up (k := 5) (lo := 14) b3 (fld_up (k := 5) (lo := 9) b2 (fld_up (k := 1) (lo := 8) b1 (fld_up (k := 4) (lo := 4) b0 (fld_up (k := 4) (lo := 0) blo (fld_top (n := 4) bhi))))))))), fld_up (k := 3) (lo := 21) b7 (fld_up (k := 1) (lo := 20) b6 (fld_up (k := 1) (lo := 19) b5 (fld_up (k := 4) (lo := 15) b4 (fld_up (k := 5) (lo := 10) b3 (fld_up (k := 5) (lo := 5) b2 (fld_up (k := 1) (lo := 4) b1 (fld_up (k := 4) (lo := 0) b0 (fld_low (n := 4) blo)))))))), fld_up (k := 3) (lo := 17) b7 (fld_up (k := 1) (lo := 16) b6 (fld_up (k := 1) (lo := 15) b5 (fld_up (k := 4) (lo := 11) b4 (fld_up (k := 5) (lo := 6) b3 (fld_up (k := 5) (lo := 1) b2 (fld_up (k := 1) (lo := 0) b1 (fld_low (n := 4) b0))))))), fld_up (k := 3) (lo := 16) b7 (fld_up (k := 1) (lo := 15) b6 (fld_up (k := 1) (lo := 14) b5 (fld_up (k := 4) (lo := 10) b4 (fld_up (k := 5) (lo := 5) b3 (fld_up (k := 5) (lo := 0) b2 (fld_low (n := 1) b1)))))), fld_up (k := 3) (lo := 11) b7 (fld_up (k := 1) (lo := 10) b6 (fld_up (k := 1) (lo := 9) b5 (fld_up (k := 4) (lo := 5) b4 (fld_up (k := 5) (lo := 0) b3 (fld_low (n := 5) b2))))), fld_up (k := 3) (lo := 6) b7 (fld_up (k := 1) (lo := 5) b6 (fld_up (k := 1) (lo := 4) b5 (fld_up (k := 4) (lo := 0) b4 (fld_low (n := 5) b3)))), fld_up (k := 3) (lo := 2) b7 (fld_up (k := 1) (lo := 1) b6 (fld_up (k := 1) (lo := 0) b5 (fld_low (n := 4) b4))), fld_up (k := 3) (lo := 1) b7 (fld_up (k := 1) (lo := 0) b6 (fld_low (n := 1) b5)), fld_up (k := 3) (lo := 0) b7 (fld_low (n := 1) b6), fld_low (n := 3) b7⟩

theorem fields_3_0 (hi lo x0 x1 : Nat) (h : hi < 2 ^ 4 ∧ lo < 2 ^ 4 ∧ x0 < 2 ^ 21 ∧ x1 < 2 ^ 3) (v : Nat)
    (hv : v = (16 * hi + lo) * 16777216 + x0 * 8 + x1) :
    fld v 28 4 = hi ∧ fld v 24 4 = lo ∧ fld v 3 21 = x0 ∧ fld v 0 3 = x1 := by
  obtain ⟨bhi, blo, b0, b1⟩ := h
  have e : v = ((hi * 16 + lo) * 2097152 + x0) * 8 + x1 := hv.trans (by clear hv bhi blo b0 b1; omega)
  subst e
  exact ⟨fld_up (k := 3) (lo := 25) b1 (fld_up (k := 21) (lo := 4) b0 (fld_up (k := 4) (lo := 0) blo (fld_top (n := 4) bhi))), fld_up (k := 3) (lo := 21) b1 (fld_up (k := 21) (lo := 0) b0 (fld_low (n := 4) blo)), fld_up (k := 3) (lo := 0) b1 (fld_low (n := 21) b0), fld_low (n := 3) b1⟩

theorem fields_19_14_9_6_5_4_0 (hi lo x0 x1 x2 x3 x4 x5 x6 : Nat) (h : hi < 2 ^ 4 ∧ lo < 2 ^ 4 ∧ x0 < 2 ^ 5 ∧ x1 < 2 ^ 5 ∧ x2 < 2 ^ 5 ∧ x3 < 2 ^ 3 ∧ x4 < 2 ^ 1 ∧ x5 < 2 ^ 1 ∧ x6 < 2 ^ 4) (v : Nat)
    (hv : v = (16 * hi + lo) * 16777216 + x0 * 524288 + x1 * 16384 + x2 * 512 + x3 * 64 + x4 * 32 + x5 * 16 + x6) :
    fld v 28 4 = hi ∧ fld v 24 4 = lo ∧ fld v 19 5 = x0 ∧ fld v 14 5 = x1 ∧ fld v 9 5 = x2 ∧ fld v 6 3 = x3 ∧ fld v 5 1 = x4 ∧ fld v 4 1 = x5 ∧ fld v 0 4 = x6 := by
  obtain ⟨bhi, blo, b0, b1, b2, b3, b4, b5, b6⟩ := h
  have e : v = (((((((hi * 16 + lo) * 32 + x0) * 32 + x1) * 32 + x2) * 8 + x3) * 2 + x4) * 2 + x5) * 16 + x6 := hv.trans (by clear hv bhi blo b0 b1 b2 b3 b4 b5 b6; omega)
  subst e
  exact ⟨fld_up (k := 4) (lo := 24) b6 (fld_up (k := 1) (lo := 23) b5 (fld_up (k := 1) (lo := 22) b4 (fld_up (k := 3) (lo := 19) b3 (fld_up (k := 5) (lo := 14) b2 (fld_up (k := 5) (lo := 9) b1 (fld_up (k := 5) (lo := 4) b0 (fld_up (k := 4) (lo := 0) blo (fld_top (n := 4) bhi)))))))), fld_up (k := 4) (lo := 20) b6 (fld_up (k := 1) (lo := 19) b5 (fld_up (k := 1) (lo := 18) b4 (fld_up (k := 3) (lo := 15) b3 (fld_up (k := 5) (lo := 10) b2 (fld_up (k := 5) (lo := 5) b1 (fld_up (k := 5) (lo := 0) b0 (fld_low (n := 4) blo))))))), fld_up (k := 4) (lo := 15) b6 (fld_up (k := 1) (lo := 14) b5 (fld_up (k := 1) (lo := 13) b4 (fld_up (k := 3) (lo := 10) b3 (fld_up (k := 5) (lo := 5) b2 (fld_up (k := 5) (lo := 0) b1 (fld_low (n := 5) b0)))))), fld_up (k := 4) (lo := 10) b6 (fld_up (k := 1) (lo := 9) b5 (fld_up (k := 1) (lo := 8) b4 (fld_up (k := 3) (lo := 5) b3 (fld_up (k := 5) (lo := 0) b2 (fld_low (n := 5) b1))))), fld_up (k := 4) (lo := 5) b6 (fld_up (k := 1) (lo := 4) b5 (fld_up (k := 1) (lo := 3) b4 (fld_up (k := 3) (lo := 0) b3 (fld_low (n := 5) b2)))), fld_up (k := 4) (lo := 2) b6 (fld_up (k := 1) (lo := 1) b5 (fld_up (k := 1) (lo := 0) b4 (fld_low (n := 3) b3))), fld_up (k := 4) (lo := 1) b6 (fld_up (k := 1) (lo := 0) b5 (fld_low (n := 1) b4)), fld_up (k := 4) (lo := 0) b6 (fld_low (n := 1) b5), fld_low (n := 4) b6⟩

theorem fields_14_0 (hi lo x0 x1 : Nat) (h : hi < 2 ^ 4 ∧ lo < 2 ^ 4 ∧ x0 < 2 ^ 10 ∧ x1 < 2 ^ 14) (v : Nat)
    (hv : v = (16 * hi + lo) * 16777216 + x0 * 16384 + x1) :
    fld v 28 4 = hi ∧ fld v 24 4 = lo ∧ fld v 14 10 = x0 ∧ fld v 0 14 = x1 := by
  obtain ⟨bhi, blo, b0, b1⟩ := h
  have e : v = ((hi * 16 + lo) * 1024 + x0) * 16384 + x1 := hv.trans (by clear hv bhi blo b0 b1; omega)
  subst e
  exact ⟨fld_up (k := 14) (lo := 14) b1 (fld_up (k := 10) (lo := 4) b0 (fld_up (k := 4) (lo := 0) blo (fld_top (n := 4) bhi))), fld_up (k := 14) (lo := 10) b1 (fld_up (k := 10) (lo := 0) b0 (fld_low (n := 4) blo)), fld_up (k := 14) (lo := 0) b1 (fld_low (n := 10) b0), fld_low (n := 14) b1⟩

theorem fields_0 (hi lo x0 : Nat) (h : hi < 2 ^ 4 ∧ lo < 2 ^ 4 ∧ x0 < 2 ^ 24) (v : Nat)
    (hv : v = (16 * hi + lo) * 16777216 + x0) :
    fld v 28 4 = hi ∧ fld v 24 4 = lo ∧ fld v 0 24 = x0 := by
  obtain ⟨bhi, blo, b0⟩ := h
  have e : v = (hi * 16 + lo) * 16777216 + x0 := hv.trans (by clear hv bhi blo b0; omega)
  subst e
  exact ⟨fld_up (k := 24) (lo := 4) b0 (fld_up (k := 4) (lo := 0) blo (fld_top (n := 4) bhi)), fld_up (k := 24) (lo := 0) b0 (fld_low (n := 4) blo), fld_low (n := 24) b0⟩

theorem fields_19_12_0 (hi lo x0 x1 x2 : Nat) (h : hi < 2 ^ 4 ∧ lo < 2 ^ 4 ∧ x0 < 2 ^ 5 ∧ x1 < 2 ^ 7 ∧ x2 < 2 ^ 12) (v : Nat)
    (hv : v = (16 * hi + lo) * 16777216 + x0 * 524288 + x1 * 4096 + x2) :
    fld v 28 4 = hi ∧ fld v 24 4 = lo ∧ fld v 19 5 = x0 ∧ fld v 12 7 = x1 ∧ fld v 0 12 = x2 := by
  obtain ⟨bhi, blo, b0, b1, b2⟩ := h
  have e : v = (((hi * 16 + lo) * 32 + x0) * 128 + x1) * 4096 + x2 := hv.trans (by clear hv bhi blo b0 b1 b2; omega)
  subst e
  exact ⟨fld_up (k := 12) (lo := 16) b2 (fld_up (k := 7) (lo := 9) b1 (fld_up (k := 5) (lo := 4) b0 (fld_up (k := 4) (lo := 0) blo (fld_top (n := 4) bhi)))), fld_up (k := 12) (lo := 12) b2 (fld_up (k := 7) (lo := 5) b1 (fld_up (k := 5) (lo := 0) b0 (fld_low (n := 4) blo))), fld_up (k := 12) (lo := 7) b2 (fld_up (k := 7) (lo := 0) b1 (fld_low (n := 5) b0)), fld_up (k := 12) (lo := 0) b2 (fld_low (n := 7) b1), fld_low (n := 12) b2⟩

theorem fields_19_14_9_8_0 (hi lo x0 x1 x2 x3 x4 : Nat) (h : hi < 2 ^ 4 ∧ lo < 2 ^ 4 ∧ x0 < 2 ^ 5 ∧ x1 < 2 ^ 5 ∧ x2 < 2 ^ 5 ∧ x3 < 2 ^ 1 ∧ x4 < 2 ^ 8) (v : Nat)
    (hv : v = (16 * hi + lo) * 16777216 + x0 * 524288 + x1 * 16384 + x2 * 512 + x3 * 256 + x4) :
    fld v 28 4 = hi ∧ fld v 24 4 = lo ∧ fld v 19 5 = x0 ∧ fld v 14 5 = x1 ∧ fld v 9 5 = x2 ∧ fld v 8 1 = x3 ∧ fld v 0 8 = x4 := by
  obtain ⟨bhi, blo, b0, b1, b2, b3, b4⟩ := h
  have e : v = (((((hi * 16 + lo) * 32 + x0) * 32 + x1) * 32 + x2) * 2 + x3) * 256 + x4 := hv.trans (by clear hv bhi blo b0 b1 b2 b3 b4; omega)
  subst e
  exact ⟨fld_up (k := 8) (lo := 20) b4 (fld_up (k := 1) (lo := 19) b3 (fld_up (k := 5) (lo := 14) b2 (fld_up (k := 5) (lo := 9) b1 (fld_up (k := 5) (lo := 4) b0 (fld_up (k := 4) (lo := 0) blo (fld_top (n := 4) bhi)))))), fld_up (k := 8) (lo := 16) b4 (fld_up (k := 1) (lo := 15) b3 (fld_up (k := 5) (lo := 10) b2 (fld_up (k := 5) (lo := 5) b1 (fld_up (k := 5) (lo := 0) b0 (fld_low (n := 4) blo))))), fld_up (k := 8) (lo := 11) b4 (fld_up (k := 1) (lo := 10) b3 (fld_up (k := 5) (lo := 5) b2 (fld_up (k := 5) (lo := 0) b1 (fld_low (n := 5) b0)))), fld_up (k := 8) (lo := 6) b4 (fld_up (k := 1) (lo := 5) b3 (fld_up (k := 5) (lo := 0) b2 (fld_low (n := 5) b1))), fld_up (k := 8) (lo := 1) b4 (fld_up (k := 1) (lo := 0) b3 (fld_low (n := 5) b2)), fld_up (k := 8) (lo := 0) b4 (fld_low (n := 1) b3), fld_low (n := 8) b4⟩

theorem fields_19_14_9_1_0 (hi lo x0 x1 x2 x3 x4 : Nat) (h : hi < 2 ^ 4 ∧ lo < 2 ^ 4 ∧ x0 < 2 ^ 5 ∧ x1 < 2 ^ 5 ∧ x2 < 2 ^ 5 ∧ x3 < 2 ^ 8 ∧ x4 < 2 ^ 1) (v : Nat)
    (hv : v = (16 * hi + lo) * 16777216 + x0 * 524288 + x1 * 16384 + x2 * 512 + x3 * 2 + x4) :
    fld v 28 4 = hi ∧ fld v 24 4 = lo ∧ fld v 19 5 = x0 ∧ fld v 14 5 = x1 ∧ fld v 9 5 = x2 ∧ fld v 1 8 = x3 ∧ fld v 0 1 = x4 := by
  obtain ⟨bhi, blo, b0, b1, b2, b3, b4⟩ := h
  have e : v = (((((hi * 16 + lo) * 32 + x0) * 32 + x1) * 32 + x2) * 256 + x3) * 2 + x4 := hv.trans (by clear hv bhi blo b0 b1 b2 b3 b4; omega)
  subst e
  exact ⟨fld_up (k := 1) (lo := 27) b4 (fld_up (k := 8) (lo := 19) b3 (fld_up (k := 5) (lo := 14) b2 (fld_up (k := 5) (lo := 9) b1 (fld_up (k := 5) (lo := 4) b0 (fld_up (k := 4) (lo := 0) blo (fld_top (n := 4) bhi)))))), fld_up (k := 1) (lo := 23) b4 (fld_up (k := 8) (lo := 15) b3 (fld_up (k := 5) (lo := 10) b2 (fld_up (k := 5) (lo := 5) b1 (fld_up (k := 5) (lo := 0) b0 (fld_low (n := 4) blo))))), fld_up (k := 1) (lo := 18) b4 (fld_up (k := 8) (lo := 10) b3 (fld_up (k := 5) (lo := 5) b2 (fld_up (k := 5) (lo := 0) b1 (fld_low (n := 5) b0)))), fld_up (k := 1) (lo := 13) b4 (fld_up (k := 8) (lo := 5) b3 (fld_up (k := 5) (lo := 0) b2 (fld_low (n := 5) b1))), fld_up (k := 1) (lo := 8) b4 (fld_up (k := 8) (lo := 0) b3 (fld_low (n := 5) b2)), fld_up (k := 1) (lo := 0) b4 (fld_low (n := 8) b3), fld_low (n := 1) b4⟩

theorem fields_19_14_9_3_0 (hi lo x0 x1 x2 x3 x4 : Nat) (h : hi < 2 ^ 4 ∧ lo < 2 ^ 4 ∧ x0 < 2 ^ 5 ∧ x1 < 2 ^ 5 ∧ x2 < 2 ^ 5 ∧ x3 < 2 ^ 6 ∧ x4 < 2 ^ 3) (v : Nat)
    (hv : v = (16 * hi + lo) * 16777216 + x0 * 524288 + x1 * 16384 + x2 * 512 + x3 * 8 + x4) :
    fld v 28 4 = hi ∧ fld v 24 4 = lo ∧ fld v 19 5 = x0 ∧ fld v 14 5 = x1 ∧ fld v 9 5 = x2 ∧ fld v 3 6 = x3 ∧ fld v 0 3 = x4 := by
  obtain ⟨bhi, blo, b0, b1, b2, b3, b4⟩ := h
  have e : v = (((((hi * 16 + lo) * 32 + x0) * 32 + x1) * 32 + x2) * 64 + x3) * 8 + x4 := hv.trans (by clear hv bhi blo b0 b1 b2 b3 b4; omega)
  subst e
  exact ⟨fld_up (k := 3) (lo := 25) b4 (fld_up (k := 6) (lo := 19) b3 (fld_up (k := 5) (lo := 14) b2 (fld_up (k := 5) (lo := 9) b1 (fld_up (k := 5) (lo := 4) b0 (fld_up (k := 4) (lo := 0) blo (fld_top (n := 4) bhi)))))), fld_up (k := 3) (lo := 21) b4 (fld_up (k := 6) (lo := 15) b3 (fld_up (k := 5) (lo := 10) b2 (fld_up (k := 5) (lo := 5) b1 (fld_up (k := 5) (lo := 0) b0 (fld_low (n := 4) blo))))), fld_up (k := 3) (lo := 16) b4 (fld_up (k := 6) (lo := 10) b3 (fld_up (k := 5) (lo := 5) b2 (fld_up (k := 5) (lo := 0) b1 (fld_low (n := 5) b0)))), fld_up (k := 3) (lo := 11) b4 (fld_up (k := 6) (lo := 5) b3 (fld_up (k := 5) (lo := 0) b2 (fld_low (n := 5) b1))), fld_up (k := 3) (lo := 6) b4 (fld_up (k := 6) (lo := 0) b3 (fld_low (n := 5) b2)), fld_up (k := 3) (lo := 0) b4 (fld_low (n := 6) b3), fld_low (n := 3) b4⟩

theorem fields_20_0 (hi lo x0 x1 : Nat) (h : hi < 2 ^ 4 ∧ lo < 2 ^ 4 ∧ x0 < 2 ^ 4 ∧ x1 < 2 ^ 20) (v : Nat)
    (hv : v = (16 * hi + lo) * 16777216 + x0 * 1048576 + x1) :
    fld v 28 4 = hi ∧ fld v 24 4 = lo ∧ fld v 20 4 = x0 ∧ fld v 0 20 = x1 := by
  obtain ⟨bhi, blo, b0, b1⟩ := h
  have e : v = ((hi * 16 + lo) * 16 + x0) * 1048576 + x1 := hv.trans (by clear hv bhi blo b0 b1; omega)
  subst e
  exact ⟨fld_up (k := 20) (lo := 8) b1 (fld_up (k := 4) (lo := 4) b0 (fld_up (k := 4) (lo := 0) blo (fld_top (n := 4) bhi))), fld_up (k := 20) (lo := 4) b1 (fld_up (k := 4) (lo := 0) b0 (fld_low (n := 4) blo)), fld_up (k := 20) (lo := 0) b1 (fld_low (n := 4) b0), fld_low (n := 20) b1⟩

theorem fields_20_19_14_0 (hi lo x0 x1 x2 x3 : Nat) (h : hi < 2 ^ 4 ∧ lo < 2 ^ 4 ∧ x0 < 2 ^ 4 ∧ x1 < 2 ^ 1 ∧ x2 < 2 ^ 5 ∧ x3 < 2 ^ 14) (v : Nat)
    (hv : v = (16 * hi + lo) * 16777216 + x0 * 1048576 + x1 * 524288 + x2 * 16384 + x3) :
    fld v 28 4 = hi ∧ fld v 24 4 = lo ∧ fld v 20 4 = x0 ∧ fld v 19 1 = x1 ∧ fld v 14 5 = x2 ∧ fld v 0 14 = x3 := by
  obtain ⟨bhi, blo, b0, b1, b2, b3⟩ := h
  have e : v = ((((hi * 16 + lo) * 16 + x0) * 2 + x1) * 32 + x2) * 16384 + x3 := hv.trans (by clear hv bhi blo b0 b1 b2 b3; omega)
  subst e
  exact ⟨fld_up (k := 14) (lo := 14) b3 (fld_up (k := 5) (lo := 9) b2 (fld_up (k := 1) (lo := 8) b1 (fld_up (k := 4) (lo := 4) b0 (fld_up (k := 4) (lo := 0) blo (fld_top (n := 4) bhi))))), fld_up (k := 14) (lo := 10) b3 (fld_up (k := 5) (lo := 5) b2 (fld_up (k := 1) (lo := 4) b1 (fld_up (k := 4) (lo := 0) b0 (fld_low (n := 4) blo)))), fld_up (k := 14) (lo := 6) b3 (fld_up (k := 5) (lo := 1) b2 (fld_up (k := 1) (lo := 0) b1 (fld_low (n := 4) b0))), fld_up (k := 14) (lo := 5) b3 (fld_up (k := 5) (lo := 0) b2 (fld_low (n := 1) b1)), fld_up (k := 14) (lo := 0) b3 (fld_low (n := 5) b2), fld_low (n := 14) b3⟩

theorem fields_19_14_8_0 (hi lo x0 x1 x2 x3 : Nat) (h : hi < 2 ^ 4 ∧ lo < 2 ^ 4 ∧ x0 < 2 ^ 5 ∧ x1 < 2 ^ 5 ∧ x2 < 2 ^ 6 ∧ x3 < 2 ^ 8) (v : Nat)
    (hv : v = (16 * hi + lo) * 16777216 + x0 * 524288 + x1 * 16384 + x2 * 256 + x3) :
    fld v 28 4 = hi ∧ fld v 24 4 = lo ∧ fld v 19 5 = x0 ∧ fld v 14 5 = x1 ∧ fld v 8 6 = x2 ∧ fld v 0 8 = x3 := by
  obtain ⟨bhi, blo, b0, b1, b2, b3⟩ := h
  have e : v = ((((hi * 16 + lo) * 32 + x0) * 32 + x1) * 64 + x2) * 256 + x3 := hv.trans (by clear hv bhi blo b0 b1 b2 b3; omega)
  subst e
  exact ⟨fld_up (k := 8) (lo := 20) b3 (fld_up (k := 6) (lo := 14) b2 (fld_up (k := 5) (lo := 9) b1 (fld_up (k := 5) (lo := 4) b0 (fld_up (k := 4) (lo := 0) blo (fld_top (n := 4) bhi))))), fld_up (k := 8) (lo := 16) b3 (fld_up (k := 6) (lo := 10) b2 (fld_up (k := 5) (lo := 5) b1 (fld_up (k := 5) (lo := 0) b0 (fld_low (n := 4) blo)))), fld_up (k := 8) (lo := 11) b3 (fld_up (k := 6) (lo := 5) b2 (fld_up (k := 5) (lo := 0) b1 (fld_low (n := 5) b0))), fld_up (k := 8) (lo := 6) b3 (fld_up (k := 6) (lo := 0) b2 (fld_low (n := 5) b1)), fld_up (k := 8) (lo := 0) b3 (fld_low (n := 6) b2), fld_low (n := 8) b3⟩

theorem fields_19_9_8_0 (hi lo x0 x1 x2 x3 : Nat) (h : hi < 2 ^ 4 ∧ lo < 2 ^ 4 ∧ x0 < 2 ^ 5 ∧ x1 < 2 ^ 10 ∧ x2 < 2 ^ 1 ∧ x3 < 2 ^ 8) (v : Nat)
    (hv : v = (16 * hi + lo) * 16777216 + x0 * 524288 + x1 * 512 + x2 * 256 + x3) :
    fld v 28 4 = hi ∧ fld v 24 4 = lo ∧ fld v 19 5 = x0 ∧ fld v 9 10 = x1 ∧ fld v 8 1 = x2 ∧ fld v 0 8 = x3 := by
  obtain ⟨bhi, blo, b0, b1, b2, b3⟩ := h
  have e : v = ((((hi * 16 + lo) * 32 + x0) * 1024 + x1) * 2 + x2) * 256 + x3 := hv.trans (by clear hv bhi blo b0 b1 b2 b3; omega)
  subst e
  exact ⟨fld_up (k := 8) (lo := 20) b3 (fld_up (k := 1) (lo := 19) b2 (fld_up (k := 10) (lo := 9) b1 (fld_up (k := 5) (lo := 4) b0 (fld_up (k := 4) (lo := 0) blo (fld_top (n := 4) bhi))))), fld_up (k := 8) (lo := 16) b3 (fld_up (k := 1) (lo := 15) b2 (fld_up (k := 10) (lo := 5) b1 (fld_up (k := 5) (lo := 0) b0 (fld_low (n := 4) blo)))), fld_up (k := 8) (lo := 11) b3 (fld_up (k := 1) (lo := 10) b2 (fld_up (k := 10) (lo := 0) b1 (fld_low (n := 5) b0))), fld_up (k := 8) (lo := 1) b3 (fld_up (k := 1) (lo := 0) b2 (fld_low (n := 10) b1)), fld_up (k := 8) (lo := 0) b3 (fld_low (n := 1) b2), fld_low (n := 8) b3⟩

theorem fields_8_5_0 (hi lo x0 x1 x2 : Nat) (h : hi < 2 ^ 4 ∧ lo < 2 ^ 4 ∧ x0 < 2 ^ 16 ∧ x1 < 2 ^ 3 ∧ x2 < 2 ^ 5) (v : Nat)
    (hv : v = (16 * hi + lo) * 16777216 + x0 * 256 + x1 * 32 + x2) :
    fld v 28 4 = hi ∧ fld v 24 4 = lo ∧ fld v 8 16 = x0 ∧ fld v 5 3 = x1 ∧ fld v 0 5 = x2 := by
  obtain ⟨bhi, blo, b0, b1, b2⟩ := h
  have e : v = (((hi * 16 + lo) * 65536 + x0) * 8 + x1) * 32 + x2 := hv.trans (by clear hv bhi blo b0 b1 b2; omega)
  subst e
  exact ⟨fld_up (k := 5) (lo := 23) b2 (fld_up (k := 3) (lo := 20) b1 (fld_up (k := 16) (lo := 4) b0 (fld_up (k := 4) (lo := 0) blo (fld_top (n := 4) bhi)))), fld_up (k := 5) (lo := 19) b2 (fld_up (k := 3) (lo := 16) b1 (fld_up (k := 16) (lo := 0) b0 (fld_low (n := 4) blo))), fld_up (k := 5) (lo := 3) b2 (fld_up (k := 3) (lo := 0) b1 (fld_low (n := 16) b0)), fld_up (k := 5) (lo := 0) b2 (fld_low (n := 3) b1), fld_low (n := 5) b2⟩

theorem fields_21_18_17_16_0 (hi lo x0 x1 x2 x3 x4 : Nat) (h : hi < 2 ^ 4 ∧ lo < 2 ^ 4 ∧ x0 < 2 ^ 3 ∧ x1 < 2 ^ 3 ∧ x2 < 2 ^ 1 ∧ x3 < 2 ^ 1 ∧ x4 < 2 ^ 16) (v : Nat)
    (hv : v = (16 * hi + lo) * 16777216 + x0 * 2097152 + x1 * 262144 + x2 * 131072 + x3 * 65536 + x4) :
    fld v 28 4 = hi ∧ fld v 24 4 = lo ∧ fld v 21 3 = x0 ∧ fld v 18 3 = x1 ∧ fld v 17 1 = x2 ∧ fld v 16 1 = x3 ∧ fld v 0 16 = x4 := by
  obtain ⟨bhi, blo, b0, b1, b2, b3, b4⟩ := h
  have e : v = (((((hi * 16 + lo) * 8 + x0) * 8 + x1) * 2 + x2) * 2 + x3) * 65536 + x4 := hv.trans (by clear hv bhi blo b0 b1 b2 b3 b4; omega)
  subst e
  exact ⟨fld_up (k := 16) (lo := 12) b4 (fld_up (k := 1) (lo := 11) b3 (fld_up (k := 1) (lo := 10) b2 (fld_up (k := 3) (lo := 7) b1 (fld_up (k := 3) (lo := 4) b0 (fld_up (k := 4) (lo := 0) blo (fld_top (n := 4) bhi)))))), fld_up (k := 16) (lo := 8) b4 (fld_up (k := 1) (lo := 7) b3 (fld_up (k := 1) (lo := 6) b2 (fld_up (k := 3) (lo := 3) b1 (fld_up (k := 3) (lo := 0) b0 (fld_low (n := 4) blo))))), fld_up (k := 16) (lo := 5) b4 (fld_up (k := 1) (lo := 4) b3 (fld_up (k := 1) (lo := 3) b2 (fld_up (k := 3) (lo := 0) b1 (fld_low (n := 3) b0)))), fld_up (k := 16) (lo := 2) b4 (fld_up (k := 1) (lo := 1) b3 (fld_up (k := 1) (lo := 0) b2 (fld_low (n := 3) b1))), fld_up (k := 16) (lo := 1) b4 (fld_up (k := 1) (lo := 0) b3 (fld_low (n := 1) b2)), fld_up (k := 16) (lo := 0) b4 (fld_low (n := 1) b3), fld_low (n := 16) b4⟩

theorem fields_21_20_0 (hi lo x0 x1 x2 : Nat) (h : hi < 2 ^ 4 ∧ lo < 2 ^ 4 ∧ x0 < 2 ^ 3 ∧ x1 < 2 ^ 1 ∧ x2 < 2 ^ 20) (v : Nat)
    (hv : v = (16 * hi + lo) * 16777216 + x0 * 2097152 + x1 * 1048576 + x2) :
    fld v 28 4 = hi ∧ fld v 24 4 = lo ∧ fld v 21 3 = x0 ∧ fld v 20 1 = x1 ∧ fld v 0 20 = x2 := by
  obtain ⟨bhi, blo, b0, b1, b2⟩ := h
  have e : v = (((hi * 16 + lo) * 8 + x0) * 2 + x1) * 1048576 + x2 := hv.trans (by clear hv bhi blo b0 b1 b2; omega)
  subst e
  exact ⟨fld_up (k := 20) (lo := 8) b2 (fld_up (k := 1) (lo := 7) b1 (fld_up (k := 3) (lo := 4) b0 (fld_up (k := 4) (lo := 0) blo (fld_top (n := 4) bhi)))), fld_up (k := 20) (lo := 4) b2 (fld_up (k := 1) (lo := 3) b1 (fld_up (k := 3) (lo := 0) b0 (fld_low (n := 4) blo))), fld_up (k := 20) (lo := 1) b2 (fld_up (k := 1) (lo := 0) b1 (fld_low (n := 3) b0)), fld_up (k := 20) (lo := 0) b2 (fld_low (n := 1) b1), fld_low (n := 20) b2⟩

theorem fields_19_14_2_0 (hi lo x0 x1 x2 x3 : Nat) (h : hi < 2 ^ 4 ∧ lo < 2 ^ 4 ∧ x0 < 2 ^ 5 ∧ x1 < 2 ^ 5 ∧ x2 < 2 ^ 12 ∧ x3 < 2 ^ 2) (v : Nat)
    (hv : v = (16 * hi + lo) * 16777216 + x0 * 524288 + x1 * 16384 + x2 * 4 + x3) :
    fld v 28 4 = hi ∧ fld v 24 4 = lo ∧ fld v 19 5 = x0 ∧ fld v 14 5 = x1 ∧ fld v 2 12 = x2 ∧ fld v 0 2 = x3 := by
  obtain ⟨bhi, blo, b0, b1, b2, b3⟩ := h
  have e : v = ((((hi * 16 + lo) * 32 + x0) * 32 + x1) * 4096 + x2) * 4 + x3 := hv.trans (by clear hv bhi blo b0 b1 b2 b3; omega)
  subst e
  exact ⟨fld_up (k := 2) (lo := 26) b3 (fld_up (k := 12) (lo := 14) b2 (fld_up (k := 5) (lo := 9) b1 (fld_up (k := 5) (lo := 4) b0 (fld_up (k := 4) (lo := 0) blo (fld_top (n := 4) bhi))))), fld_up (k := 2) (lo := 22) b3 (fld_up (k := 12) (lo := 10) b2 (fld_up (k := 5) (lo := 5) b1 (fld_up (k := 5) (lo := 0) b0 (fld_low (n := 4) blo)))), fld_up (k := 2) (lo := 17) b3 (fld_up (k := 12) (lo := 5) b2 (fld_up (k := 5) (lo := 0) b1 (fld_low (n := 5) b0))), fld_up (k := 2) (lo := 12) b3 (fld_up (k := 12) (lo := 0) b2 (fld_low (n := 5) b1)), fld_up (k := 2) (lo := 0) b3 (fld_low (n := 12) b2), fld_low (n := 2) b3⟩

theorem fields_19_14_9_3_2_0 (hi lo x0 x1 x2 x3 x4 x5 : Nat) (h : hi < 2 ^ 4 ∧ lo < 2 ^ 4 ∧ x0 < 2 ^ 5 ∧ x1 < 2 ^ 5 ∧ x2 < 2 ^ 5 ∧ x3 < 2 ^ 6 ∧ x4 < 2 ^ 1 ∧ x5 < 2 ^ 2) (v : Nat)
    (hv : v = (16 * hi + lo) * 16777216 + x0 * 524288 + x1 * 16384 + x2 * 512 + x3 * 8 + x4 * 4 + x5) :
    fld v 28 4 = hi ∧ fld v 24 4 = lo ∧ fld v 19 5 = x0 ∧ fld v 14 5 = x1 ∧ fld v 9 5 = x2 ∧ fld v 3 6 = x3 ∧ fld v 2 1 = x4 ∧ fld v 0 2 = x5 := by
  obtain ⟨bhi, blo, b0, b1, b2, b3, b4, b5⟩ := h
  have e : v = ((((((hi * 16 + lo) * 32 + x0) * 32 + x1) * 32 + x2) * 64 + x3) * 2 + x4) * 4 + x5 := hv.trans (by clear hv bhi blo b0 b1 b2 b3 b4 b5; omega)
  subst e
  exact ⟨fld_up (k := 2) (lo := 26) b5 (fld_up (k := 1) (lo := 25) b4 (fld_up (k := 6) (lo := 19) b3 (fld_up (k := 5) (lo := 14) b2 (fld_up (k := 5) (lo := 9) b1 (fld_up (k := 5) (lo := 4) b0 (fld_up (k := 4) (lo := 0) blo (fld_top (n := 4) bhi))))))), fld_up (k := 2) (lo := 22) b5 (fld_up (k := 1) (lo := 21) b4 (fld_up (k := 6) (lo := 15) b3 (fld_up (k := 5) (lo := 10) b2 (fld_up (k := 5) (lo := 5) b1 (fld_up (k := 5) (lo := 0) b0 (fld_low (n := 4) blo)))))), fld_up (k := 2) (lo := 17) b5 (fld_up (k := 1) (lo := 16) b4 (fld_up (k := 6) (lo := 10) b3 (fld_up (k := 5) (lo := 5) b2 (fld_up (k := 5) (lo := 0) b1 (fld_low (n := 5) b0))))), fld_up (k := 2) (lo := 12) b5 (fld_up (k := 1) (lo := 11) b4 (fld_up (k := 6) (lo := 5) b3 (fld_up (k := 5) (lo := 0) b2 (fld_low (n := 5) b1)))), fld_up (k := 2) (lo := 7) b5 (fld_up (k := 1) (lo := 6) b4 (fld_up (k := 6) (lo := 0) b3 (fld_low (n := 5) b2))), fld_up (k := 2) (lo := 1) b5 (fld_up (k := 1) (lo := 0) b4 (fld_low (n := 6) b3)), fld_up (k := 2) (lo := 0) b5 (fld_low (n := 1) b4), fld_low (n := 2) b5⟩

theorem fields_19_14_3_2_0 (hi lo x0 x1 x2 x3 x4 : Nat) (h : hi < 2 ^ 4 ∧ lo < 2 ^ 4 ∧ x0 < 2 ^ 5 ∧ x1 < 2 ^ 5 ∧ x2 < 2 ^ 11 ∧ x3 < 2 ^ 1 ∧ x4 < 2 ^ 2) (v : Nat)
    (hv : v = (16 * hi + lo) * 16777216 + x0 * 524288 + x1 * 16384 + x2 * 8 + x3 * 4 + x4) :
    fld v 28 4 = hi ∧ fld v 24 4 = lo ∧ fld v 19 5 = x0 ∧ fld v 14 5 = x1 ∧ fld v 3 11 = x2 ∧ fld v 2 1 = x3 ∧ fld v 0 2 = x4 := by
  obtain ⟨bhi, blo, b0, b1, b2, b3, b4⟩ := h
  have e : v = (((((hi * 16 + lo) * 32 + x0) * 32 + x1) * 2048 + x2) * 2 + x3) * 4 + x4 := hv.trans (by clear hv bhi blo b0 b1 b2 b3 b4; omega)
  subst e
  exact ⟨fld_up (k := 2) (lo := 26) b4 (fld_up (k := 1) (lo := 25) b3 (fld_up (k := 11) (lo := 14) b2 (fld_up (k := 5) (lo := 9) b1 (fld_up (k := 5) (lo := 4) b0 (fld_up (k := 4) (lo := 0) blo (fld_top (n := 4) bhi)))))), fld_up (k := 2) (lo := 22) b4 (fld_up (k := 1) (lo := 21) b3 (fld_up (k := 11) (lo := 10) b2 (fld_up (k := 5) (lo := 5) b1 (fld_up (k := 5) (lo := 0) b0 (fld_low (n := 4) blo))))), fld_up (k := 2) (lo := 17) b4 (fld_up (k := 1) (lo := 16) b3 (fld_up (k := 11) (lo := 5) b2 (fld_up (k := 5) (lo := 0) b1 (fld_low (n := 5) b0)))), fld_up (k := 2) (lo := 12) b4 (fld_up (k := 1) (lo := 11) b3 (fld_up (k := 11) (lo := 0) b2 (fld_low (n := 5) b1))), fld_up (k := 2) (lo := 1) b4 (fld_up (k := 1) (lo := 0) b3 (fld_low (n := 11) b2)), fld_up (k := 2) (lo := 0) b4 (fld_low (n := 1) b3), fld_low (n := 2) b4⟩

theorem fields_2_0 (hi lo x0 x1 : Nat) (h : hi < 2 ^ 4 ∧ lo < 2 ^ 4 ∧ x0 < 2 ^ 22 ∧ x1 < 2 ^ 2) (v : Nat)
    (hv : v = (16 * hi + lo) * 16777216 + x0 * 4 + x1) :
    fld v 28 4 = hi ∧ fld v 24 4 = lo ∧ fld v 2 22 = x0 ∧ fld v 0 2 = x1 := by
  obtain ⟨bhi, blo, b0, b1⟩ := h
  have e : v = ((hi * 16 + lo) * 4194304 + x0) * 4 + x1 := hv.trans (by clear hv bhi blo b0 b1; omega)
  subst e
  exact ⟨fld_up (k := 2) (lo := 26) b1 (fld_up (k := 22) (lo := 4) b0 (fld_up (k := 4) (lo := 0) blo (fld_top (n := 4) bhi))), fld_up (k := 2) (lo := 22) b1 (fld_up (k := 22) (lo := 0) b0 (fld_low (n := 4) blo)), fld_up (k := 2) (lo := 0) b1 (fld_low (n := 22) b0), fld_low (n := 2) b1⟩

theorem fields_19_14_6_2_0 (hi lo x0 x1 x2 x3 x4 : Nat) (h : hi < 2 ^ 4 ∧ lo < 2 ^ 4 ∧ x0 < 2 ^ 5 ∧ x1 < 2 ^ 5 ∧ x2 < 2 ^ 8 ∧ x3 < 2 ^ 4 ∧ x4 < 2 ^ 2) (v : Nat)
    (hv : v = (16 * hi + lo) * 16777216 + x0 * 524288 + x1 * 16384 + x2 * 64 + x3 * 4 + x4) :
    fld v 28 4 = hi ∧ fld v 24 4 = lo ∧ fld v 19 5 = x0 ∧ fld v 14 5 = x1 ∧ fld v 6 8 = x2 ∧ fld v 2 4 = x3 ∧ fld v 0 2 = x4 := by
  obtain ⟨bhi, blo, b0, b1, b2, b3, b4⟩ := h
  have e : v = (((((hi * 16 + lo) * 32 + x0) * 32 + x1) * 256 + x2) * 16 + x3) * 4 + x4 := hv.trans (by clear hv bhi blo b0 b1 b2 b3 b4; omega)
  subst e
  exact ⟨fld_up (k := 2) (lo := 26) b4 (fld_up (k := 4) (lo := 22) b3 (fld_up (k := 8) (lo := 14) b2 (fld_up (k := 5) (lo := 9) b1 (fld_up (k := 5) (lo := 4) b0 (fld_up (k := 4) (lo := 0) blo (fld_top (n := 4) bhi)))))), fld_up (k := 2) (lo := 22) b4 (fld_up (k := 4) (lo := 18) b3 (fld_up (k := 8) (lo := 10) b2 (fld_up (k := 5) (lo := 5) b1 (fld_up (k := 5) (lo := 0) b0 (fld_low (n := 4) blo))))), fld_up (k := 2) (lo := 17) b4 (fld_up (k := 4) (lo := 13) b3 (fld_up (k := 8) (lo := 5) b2 (fld_up (k := 5) (lo := 0) b1 (fld_low (n := 5) b0)))), fld_up (k := 2) (lo := 12) b4 (fld_up (k := 4) (lo := 8) b3 (fld_up (k := 8) (lo := 0) b2 (fld_low (n := 5) b1))), fld_up (k := 2) (lo := 4) b4 (fld_up (k := 4) (lo := 0) b3 (fld_low (n := 8) b2)), fld_up (k := 2) (lo := 0) b4 (fld_low (n := 4) b3), fld_low (n := 2) b4⟩

theorem fields_19_14_9_2_0 (hi lo x0 x1 x2 x3 x4 : Nat) (h : hi < 2 ^ 4 ∧ lo < 2 ^ 4 ∧ x0 < 2 ^ 5 ∧ x1 < 2 ^ 5 ∧ x2 < 2 ^ 5 ∧ x3 < 2 ^ 7 ∧ x4 < 2 ^ 2) (v : Nat)
    (hv : v = (16 * hi + lo) * 16777216 + x0 * 524288 + x1 * 16384 + x2 * 512 + x3 * 4 + x4) :
    fld v 28 4 = hi ∧ fld v 24 4 = lo ∧ fld v 19 5 = x0 ∧ fld v 14 5 = x1 ∧ fld v 9 5 = x2 ∧ fld v 2 7 = x3 ∧ fld v 0 2 = x4 := by
  obtain ⟨bhi, blo, b0, b1, b2, b3, b4⟩ := h
  have e : v = (((((hi * 16 + lo) * 32 + x0) * 32 + x1) * 32 + x2) * 128 + x3) * 4 + x4 := hv.trans (by clear hv bhi blo b0 b1 b2 b3 b4; omega)
  subst e
  exact ⟨fld_up (k := 2) (lo := 26) b4 (fld_up (k := 7) (lo := 19) b3 (fld_up (k := 5) (lo := 14) b2 (fld_up (k := 5) (lo := 9) b1 (fld_up (k := 5) (lo := 4) b0 (fld_up (k := 4) (lo := 0) blo (fld_top (n := 4) bhi)))))), fld_up (k := 2) (lo := 22) b4 (fld_up (k := 7) (lo := 15) b3 (fld_up (k := 5) (lo := 10) b2 (fld_up (k := 5) (lo := 5) b1 (fld_up (k := 5) (lo := 0) b0 (fld_low (n := 4) blo))))), fld_up (k := 2) (lo := 17) b4 (fld_up (k := 7) (lo := 10) b3 (fld_up (k := 5) (lo := 5) b2 (fld_up (k := 5) (lo := 0) b1 (fld_low (n := 5) b0)))), fld_up (k := 2) (lo := 12) b4 (fld_up (k := 7) (lo := 5) b3 (fld_up (k := 5) (lo := 0) b2 (fld_low (n := 5) b1))), fld_up (k := 2) (lo := 7) b4 (fld_up (k := 7) (lo := 0) b3 (fld_low (n := 5) b2)), fld_up (k := 2) (lo := 0) b4 (fld_low (n := 7) b3), fld_low (n := 2) b4⟩

theorem fields_19_5_4_2_0 (hi lo x0 x1 x2 x3 x4 : Nat) (h : hi < 2 ^ 4 ∧ lo < 2 ^ 4 ∧ x0 < 2 ^ 5 ∧ x1 < 2 ^ 14 ∧ x2 < 2 ^ 1 ∧ x3 < 2 ^ 2 ∧ x4 < 2 ^ 2) (v : Nat)
    (hv : v = (16 * hi + lo) * 16777216 + x0 * 524288 + x1 * 32 + x2 * 16 + x3 * 4 + x4) :
    fld v 28 4 = hi ∧ fld v 24 4 = lo ∧ fld v 19 5 = x0 ∧ fld v 5 14 = x1 ∧ fld v 4 1 = x2 ∧ fld v 2 2 = x3 ∧ fld v 0 2 = x4 := by
  obtain ⟨bhi, blo, b0, b1, b2, b3, b4⟩ := h
  have e : v = (((((hi * 16 + lo) * 32 + x0) * 16384 + x1) * 2 + x2) * 4 + x3) * 4 + x4 := hv.trans (by clear hv bhi blo b0 b1 b2 b3 b4; omega)
  subst e
  exact ⟨fld_up (k := 2) (lo := 26) b4 (fld_up (k := 2) (lo := 24) b3 (fld_up (k := 1) (lo := 23) b2 (fld_up (k := 14) (lo := 9) b1 (fld_up (k := 5) (lo := 4) b0 (fld_up (k := 4) (lo := 0) blo (fld_top (n := 4) bhi)))))), fld_up (k := 2) (lo := 22) b4 (fld_up (k := 2) (lo := 20) b3 (fld_up (k := 1) (lo := 19) b2 (fld_up (k := 14) (lo := 5) b1 (fld_up (k := 5) (lo := 0) b0 (fld_low (n := 4) blo))))), fld_up (k := 2) (lo := 17) b4 (fld_up (k := 2) (lo := 15) b3 (fld_up (k := 1) (lo := 14) b2 (fld_up (k := 14) (lo := 0) b1 (fld_low (n := 5) b0)))), fld_up (k := 2) (lo := 3) b4 (fld_up (k := 2) (lo := 1) b3 (fld_up (k := 1) (lo := 0) b2 (fld_low (n := 14) b1))), fld_up (k := 2) (lo := 2) b4 (fld_up (k := 2) (lo := 0) b3 (fld_low (n := 1) b2)), fld_up (k := 2) (lo := 0) b4 (fld_low (n := 2) b3), fld_low (n := 2) b4⟩

theorem fields_19_6_2_0 (hi lo x0 x1 x2 x3 : Nat) (h : hi < 2 ^ 4 ∧ lo < 2 ^ 4 ∧ x0 < 2 ^ 5 ∧ x1 < 2 ^ 13 ∧ x2 < 2 ^ 4 ∧ x3 < 2 ^ 2) (v : Nat)
    (hv : v = (16 * hi + lo) * 16777216 + x0 * 524288 + x1 * 64 + x2 * 4 + x3) :
    fld v 28 4 = hi ∧ fld v 24 4 = lo ∧ fld v 19 5 = x0 ∧ fld v 6 13 = x1 ∧ fld v 2 4 = x2 ∧ fld v 0 2 = x3 := by
  obtain ⟨bhi, blo, b0, b1, b2, b3⟩ := h
  have e : v = ((((hi * 16 + lo) * 32 + x0) * 8192 + x1) * 16 + x2) * 4 + x3 := hv.trans (by clear hv bhi blo b0 b1 b2 b3; omega)
  subst e
  exact ⟨fld_up (k := 2) (lo := 26) b3 (fld_up (k := 4) (lo := 22) b2 (fld_up (k := 13) (lo := 9) b1 (fld_up (k := 5) (lo := 4) b0 (fld_up (k := 4) (lo := 0) blo (fld_top (n := 4) bhi))))), fld_up (k := 2) (lo := 22) b3 (fld_up (k := 4) (lo := 18) b2 (fld_up (k := 13) (lo := 5) b1 (fld_up (k := 5) (lo := 0) b0 (fld_low (n := 4) blo)))), fld_up (k := 2) (lo := 17) b3 (fld_up (k := 4) (lo := 13) b2 (fld_up (k := 13) (lo := 0) b1 (fld_low (n := 5) b0))), fld_up (k := 2) (lo := 4) b3 (fld_up (k := 4) (lo := 0) b2 (fld_low (n := 13) b1)), fld_up (k := 2) (lo := 0) b3 (fld_low (n := 4) b2), fld_low (n := 2) b3⟩

theorem fields_19_14_9_4_3_2_0 (hi lo x0 x1 x2 x3 x4 x5 x6 : Nat) (h : hi < 2 ^ 4 ∧ lo < 2 ^ 4 ∧ x0 < 2 ^ 5 ∧ x1 < 2 ^ 5 ∧ x2 < 2 ^ 5 ∧ x3 < 2 ^ 5 ∧ x4 < 2 ^ 1 ∧ x5 < 2 ^ 1 ∧ x6 < 2 ^ 2) (v : Nat)
    (hv : v = (16 * hi + lo) * 16777216 + x0 * 524288 + x1 * 16384 + x2 * 512 + x3 * 16 + x4 * 8 + x5 * 4 + x6) :
    fld v 28 4 = hi ∧ fld v 24 4 = lo ∧ fld v 19 5 = x0 ∧ fld v 14 5 = x1 ∧ fld v 9 5 = x2 ∧ fld v 4 5 = x3 ∧ fld v 3 1 = x4 ∧ fld v 2 1 = x5 ∧ fld v 0 2 = x6 := by
  obtain ⟨bhi, blo, b0, b1, b2, b3, b4, b5, b6⟩ := h
  have e : v = (((((((hi * 16 + lo) * 32 + x0) * 32 + x1) * 32 + x2) * 32 + x3) * 2 + x4) * 2 + x5) * 4 + x6 := hv.trans (by clear hv bhi blo b0 b1 b2 b3 b4 b5 b6; omega)
  subst e
  exact ⟨fld_up (k := 2) (lo := 26) b6 (fld_up (k := 1) (lo := 25) b5 (fld_up (k := 1) (lo := 24) b4 (fld_up (k := 5) (lo := 19) b3 (fld_up (k := 5) (lo := 14) b2 (fld_up (k := 5) (lo := 9) b1 (fld_up (k := 5) (lo := 4) b0 (fld_up (k := 4) (lo := 0) blo (fld_top (n := 4) bhi)))))))), fld_up (k := 2) (lo := 22) b6 (fld_up (k := 1) (lo := 21) b5 (fld_up (k := 1) (lo := 20) b4 (fld_up (k := 5) (lo := 15) b3 (fld_up (k := 5) (lo := 10) b2 (fld_up (k := 5) (lo := 5) b1 (fld_up (k := 5) (lo := 0) b0 (fld_low (n := 4) blo))))))), fld_up (k := 2) (lo := 17) b6 (fld_up (k := 1) (lo := 16) b5 (fld_up (k := 1) (lo := 15) b4 (fld_up (k := 5) (lo := 10) b3 (fld_up (k := 5) (lo := 5) b2 (fld_up (k := 5) (lo := 0) b1 (fld_low (n := 5) b0)))))), fld_up (k := 2) (lo := 12) b6 (fld_up (k := 1) (lo := 11) b5 (fld_up (k := 1) (lo := 10) b4 (fld_up (k := 5) (lo := 5) b3 (fld_up (k := 5) (lo := 0) b2 (fld_low (n := 5) b1))))), fld_up (k := 2) (lo := 7) b6 (fld_up (k := 1) (lo := 6) b5 (fld_up (k := 1) (lo := 5) b4 (fld_up (k := 5) (lo := 0) b3 (fld_low (n := 5) b2)))), fld_up (k := 2) (lo := 2) b6 (fld_up (k := 1) (lo := 1) b5 (fld_up (k := 1) (lo := 0) b4 (fld_low (n := 5) b3))), fld_up (k := 2) (lo := 1) b6 (fld_up (k := 1) (lo := 0) b5 (fld_low (n := 1) b4)), fld_up (k := 2) (lo := 0) b6 (fld_low (n := 1) b5), fld_low (n := 2) b6⟩

theorem fields_19_14_9_4_3_0 (hi lo x0 x1 x2 x3 x4 x5 : Nat) (h : hi < 2 ^ 4 ∧ lo < 2 ^ 4 ∧ x0 < 2 ^ 5 ∧ x1 < 2 ^ 5 ∧ x2 < 2 ^ 5 ∧ x3 < 2 ^ 5 ∧ x4 < 2 ^ 1 ∧ x5 < 2 ^ 3) (v : Nat)
    (hv : v = (16 * hi + lo) * 16777216 + x0 * 524288 + x1 * 16384 + x2 * 512 + x3 * 16 + x4 * 8 + x5) :
    fld v 28 4 = hi ∧ fld v 24 4 = lo ∧ fld v 19 5 = x0 ∧ fld v 14 5 = x1 ∧ fld v 9 5 = x2 ∧ fld v 4 5 = x3 ∧ fld v 3 1 = x4 ∧ fld v 0 3 = x5 := by
  obtain ⟨bhi, blo, b0, b1, b2, b3, b4, b5⟩ := h
  have e : v = ((((((hi * 16 + lo) * 32 + x0) * 32 + x1) * 32 + x2) * 32 + x3) * 2 + x4) * 8 + x5 := hv.trans (by clear hv bhi blo b0 b1 b2 b3 b4 b5; omega)
  subst e
  exact ⟨fld_up (k := 3) (lo := 25) b5 (fld_up (k := 1) (lo := 24) b4 (fld_up (k := 5) (lo := 19) b3 (fld_up (k := 5) (lo := 14) b2 (fld_up (k := 5) (lo := 9) b1 (fld_up (k := 5) (lo := 4) b0 (fld_up (k := 4) (lo := 0) blo (fld_top (n := 4) bhi))))))), fld_up (k := 3) (lo := 21) b5 (fld_up (k := 1) (lo := 20) b4 (fld_up (k := 5) (lo := 15) b3 (fld_up (k := 5) (lo := 10) b2 (fld_up (k := 5) (lo := 5) b1 (fld_up (k := 5) (lo := 0) b0 (fld_low (n := 4) blo)))))), fld_up (k := 3) (lo := 16) b5 (fld_up (k := 1) (lo := 15) b4 (fld_up (k := 5) (lo := 10) b3 (fld_up (k := 5) (lo := 5) b2 (fld_up (k := 5) (lo := 0) b1 (fld_low (n := 5) b0))))), fld_up (k := 3) (lo := 11) b5 (fld_up (k := 1) (lo := 10) b4 (fld_up (k := 5) (lo := 5) b3 (fld_up (k := 5) (lo := 0) b2 (fld_low (n := 5) b1)))), fld_up (k := 3) (lo := 6) b5 (fld_up (k := 1) (lo := 5) b4 (fld_up (k := 5) (lo := 0) b3 (fld_low (n := 5) b2))), fld_up (k := 3) (lo := 1) b5 (fld_up (k := 1) (lo := 0) b4 (fld_low (n := 5) b3)), fld_up (k := 3) (lo := 0) b5 (fld_low (n := 1) b4), fld_low (n := 3) b5⟩

theorem fields_19_14_3_0 (hi lo x0 x1 x2 x3 : Nat) (h : hi < 2 ^ 4 ∧ lo < 2 ^ 4 ∧ x0 < 2 ^ 5 ∧ x1 < 2 ^ 5 ∧ x2 < 2 ^ 11 ∧ x3 < 2 ^ 3) (v : Nat)
    (hv : v = (16 * hi + lo) * 16777216 + x0 * 524288 + x1 * 16384 + x2 * 8 + x3) :
    fld v 28 4 = hi ∧ fld v 24 4 = lo ∧ fld v 19 5 = x0 ∧ fld v 14 5 = x1 ∧ fld v 3 11 = x2 ∧ fld v 0 3 = x3 := by
  obtain ⟨bhi, blo, b0, b1, b2, b3⟩ := h
  have e : v = ((((hi * 16 + lo) * 32 + x0) * 32 + x1) * 2048 + x2) * 8 + x3 := hv.trans (by clear hv bhi blo b0 b1 b2 b3; omega)
  subst e
  exact ⟨fld_up (k := 3) (lo := 25) b3 (fld_up (k := 11) (lo := 14) b2 (fld_up (k := 5) (lo := 9) b1 (fld_up (k := 5) (lo := 4) b0 (fld_up (k := 4) (lo := 0) blo (fld_top (n := 4) bhi))))), fld_up (k := 3) (lo := 21) b3 (fld_up (k := 11) (lo := 10) b2 (fld_up (k := 5) (lo := 5) b1 (fld_up (k := 5) (lo := 0) b0 (fld_low (n := 4) blo)))), fld_up (k := 3) (lo := 16) b3 (fld_up (k := 11) (lo := 5) b2 (fld_up (k := 5) (lo := 0) b1 (fld_low (n := 5) b0))), fld_up (k := 3) (lo := 11) b3 (fld_up (k := 11) (lo := 0) b2 (fld_low (n := 5) b1)), fld_up (k := 3) (lo := 0) b3 (fld_low (n := 11) b2), fld_low (n := 3) b3⟩

theorem Laws.RoundTrip.add (w d a b : Nat) : Statement (.add w d a b) := by
  intro wf word hv
  refine of_fields wf ?_
  replace wf : (decide (w < 8) && decide (d < 128) && decide (a < 128) && decide (b < 128)) = true := wf
  simp only [Bool.and_eq_true, decide_eq_true_eq] at wf
  obtain ⟨h28, h24, f0, f1, f2, f3⟩ := fields_21_14_7_0 0 1 (w) (d) (a) (b) (by omega) word (((Option.some.inj hv).symm : word = 0x01000000 + w * 2097152 + d * 16384 + a * 128 + b).trans (by clear hv wf; omega))
  simp only [decodeFields, decodeRow0, h28, h24, f0, f1, f2, f3]

theorem Laws.RoundTrip.sub (w d a b : Nat) : Statement (.sub w d a b) := by
  intro wf word hv
  refine of_fields wf ?_
  replace wf : (decide (w < 8) && decide (d < 128) && decide (a < 128) && decide (b < 128)) = true := wf
  simp only [Bool.and_eq_true, decide_eq_true_eq] at wf
  obtain ⟨h28, h24, f0, f1, f2, f3⟩ := fields_21_14_7_0 0 2 (w) (d) (a) (b) (by omega) word (((Option.some.inj hv).symm : word = 0x02000000 + w * 2097152 + d * 16384 + a * 128 + b).trans (by clear hv wf; omega))
  simp only [decodeFields, decodeRow0, h28, h24, f0, f1, f2, f3]

theorem Laws.RoundTrip.addi (w d a i : Nat) : Statement (.addi w d a i) := by
  intro wf word hv
  refine of_fields wf ?_
  replace wf : (decide (w < 8) && decide (d < 128) && decide (a < 128) && decide (i < 128)) = true := wf
  simp only [Bool.and_eq_true, decide_eq_true_eq] at wf
  obtain ⟨h28, h24, f0, f1, f2, f3⟩ := fields_21_14_7_0 0 3 (w) (d) (a) (i) (by omega) word (((Option.some.inj hv).symm : word = 0x03000000 + w * 2097152 + d * 16384 + a * 128 + i).trans (by clear hv wf; omega))
  simp only [decodeFields, decodeRow0, h28, h24, f0, f1, f2, f3]

theorem Laws.RoundTrip.mul (w d a b : Nat) : Statement (.mul w d a b) := by
  intro wf word hv
  refine of_fields wf ?_
  replace wf : (decide (w < 8) && decide (d < 128) && decide (a < 128) && decide (b < 128)) = true := wf
  simp only [Bool.and_eq_true, decide_eq_true_eq] at wf
  obtain ⟨h28, h24, f0, f1, f2, f3⟩ := fields_21_14_7_0 0 4 (w) (d) (a) (b) (by omega) word (((Option.some.inj hv).symm : word = 0x04000000 + w * 2097152 + d * 16384 + a * 128 + b).trans (by clear hv wf; omega))
  simp only [decodeFields, decodeRow0, h28, h24, f0, f1, f2, f3]

theorem Laws.RoundTrip.mulh (w d a b : Nat) : Statement (.mulh w d a b) := by
  intro wf word hv
  refine of_fields wf ?_
  replace wf : (decide (w < 8) && decide (d < 128) && decide (a < 128) && decide (b < 128)) = true := wf
  simp only [Bool.and_eq_true, decide_eq_true_eq] at wf
  obtain ⟨h28, h24, f0, f1, f2, f3⟩ := fields_21_14_7_0 0 5 (w) (d) (a) (b) (by omega) word (((Option.some.inj hv).symm : word = 0x05000000 + w * 2097152 + d * 16384 + a * 128 + b).trans (by clear hv wf; omega))
  simp only [decodeFields, decodeRow0, h28, h24, f0, f1, f2, f3]

theorem Laws.RoundTrip.mulhu (w d a b : Nat) : Statement (.mulhu w d a b) := by
  intro wf word hv
  refine of_fields wf ?_
  replace wf : (decide (w < 8) && decide (d < 128) && decide (a < 128) && decide (b < 128)) = true := wf
  simp only [Bool.and_eq_true, decide_eq_true_eq] at wf
  obtain ⟨h28, h24, f0, f1, f2, f3⟩ := fields_21_14_7_0 0 6 (w) (d) (a) (b) (by omega) word (((Option.some.inj hv).symm : word = 0x06000000 + w * 2097152 + d * 16384 + a * 128 + b).trans (by clear hv wf; omega))
  simp only [decodeFields, decodeRow0, h28, h24, f0, f1, f2, f3]

theorem Laws.RoundTrip.mulw (w d a b : Nat) : Statement (.mulw w d a b) := by
  intro wf word hv
  refine of_fields wf ?_
  replace wf : (decide (w < 8) && decide (d < 128) && decide (a < 128) && decide (b < 128)) = true := wf
  simp only [Bool.and_eq_true, decide_eq_true_eq] at wf
  obtain ⟨h28, h24, f0, f1, f2, f3⟩ := fields_21_14_7_0 0 7 (w) (d) (a) (b) (by omega) word (((Option.some.inj hv).symm : word = 0x07000000 + w * 2097152 + d * 16384 + a * 128 + b).trans (by clear hv wf; omega))
  simp only [decodeFields, decodeRow0, h28, h24, f0, f1, f2, f3]

theorem Laws.RoundTrip.mulwu (w d a b : Nat) : Statement (.mulwu w d a b) := by
  intro wf word hv
  refine of_fields wf ?_
  replace wf : (decide (w < 8) && decide (d < 128) && decide (a < 128) && decide (b < 128)) = true := wf
  simp only [Bool.and_eq_true, decide_eq_true_eq] at wf
  obtain ⟨h28, h24, f0, f1, f2, f3⟩ := fields_21_14_7_0 0 8 (w) (d) (a) (b) (by omega) word (((Option.some.inj hv).symm : word = 0x08000000 + w * 2097152 + d * 16384 + a * 128 + b).trans (by clear hv wf; omega))
  simp only [decodeFields, decodeRow0, h28, h24, f0, f1, f2, f3]

theorem Laws.RoundTrip.div (w d a b : Nat) : Statement (.div w d a b) := by
  intro wf word hv
  refine of_fields wf ?_
  replace wf : (decide (w < 8) && decide (d < 128) && decide (a < 128) && decide (b < 128)) = true := wf
  simp only [Bool.and_eq_true, decide_eq_true_eq] at wf
  obtain ⟨h28, h24, f0, f1, f2, f3⟩ := fields_21_14_7_0 0 9 (w) (d) (a) (b) (by omega) word (((Option.some.inj hv).symm : word = 0x09000000 + w * 2097152 + d * 16384 + a * 128 + b).trans (by clear hv wf; omega))
  simp only [decodeFields, decodeRow0, h28, h24, f0, f1, f2, f3]

theorem Laws.RoundTrip.divu (w d a b : Nat) : Statement (.divu w d a b) := by
  intro wf word hv
  refine of_fields wf ?_
  replace wf : (decide (w < 8) && decide (d < 128) && decide (a < 128) && decide (b < 128)) = true := wf
  simp only [Bool.and_eq_true, decide_eq_true_eq] at wf
  obtain ⟨h28, h24, f0, f1, f2, f3⟩ := fields_21_14_7_0 0 10 (w) (d) (a) (b) (by omega) word (((Option.some.inj hv).symm : word = 0x0A000000 + w * 2097152 + d * 16384 + a * 128 + b).trans (by clear hv wf; omega))
  simp only [decodeFields, decodeRow0, h28, h24, f0, f1, f2, f3]

theorem Laws.RoundTrip.rem (w d a b : Nat) : Statement (.rem w d a b) := by
  intro wf word hv
  refine of_fields wf ?_
  replace wf : (decide (w < 8) && decide (d < 128) && decide (a < 128) && decide (b < 128)) = true := wf
  simp only [Bool.and_eq_true, decide_eq_true_eq] at wf
  obtain ⟨h28, h24, f0, f1, f2, f3⟩ := fields_21_14_7_0 0 11 (w) (d) (a) (b) (by omega) word (((Option.some.inj hv).symm : word = 0x0B000000 + w * 2097152 + d * 16384 + a * 128 + b).trans (by clear hv wf; omega))
  simp only [decodeFields, decodeRow0, h28, h24, f0, f1, f2, f3]

theorem Laws.RoundTrip.remu (w d a b : Nat) : Statement (.remu w d a b) := by
  intro wf word hv
  refine of_fields wf ?_
  replace wf : (decide (w < 8) && decide (d < 128) && decide (a < 128) && decide (b < 128)) = true := wf
  simp only [Bool.and_eq_true, decide_eq_true_eq] at wf
  obtain ⟨h28, h24, f0, f1, f2, f3⟩ := fields_21_14_7_0 0 12 (w) (d) (a) (b) (by omega) word (((Option.some.inj hv).symm : word = 0x0C000000 + w * 2097152 + d * 16384 + a * 128 + b).trans (by clear hv wf; omega))
  simp only [decodeFields, decodeRow0, h28, h24, f0, f1, f2, f3]

theorem Laws.RoundTrip.min (w d a b : Nat) : Statement (.min w d a b) := by
  intro wf word hv
  refine of_fields wf ?_
  replace wf : (decide (w < 8) && decide (d < 128) && decide (a < 128) && decide (b < 128)) = true := wf
  simp only [Bool.and_eq_true, decide_eq_true_eq] at wf
  obtain ⟨h28, h24, f0, f1, f2, f3⟩ := fields_21_14_7_0 0 13 (w) (d) (a) (b) (by omega) word (((Option.some.inj hv).symm : word = 0x0D000000 + w * 2097152 + d * 16384 + a * 128 + b).trans (by clear hv wf; omega))
  simp only [decodeFields, decodeRow0, h28, h24, f0, f1, f2, f3]

theorem Laws.RoundTrip.max (w d a b : Nat) : Statement (.max w d a b) := by
  intro wf word hv
  refine of_fields wf ?_
  replace wf : (decide (w < 8) && decide (d < 128) && decide (a < 128) && decide (b < 128)) = true := wf
  simp only [Bool.and_eq_true, decide_eq_true_eq] at wf
  obtain ⟨h28, h24, f0, f1, f2, f3⟩ := fields_21_14_7_0 0 14 (w) (d) (a) (b) (by omega) word (((Option.some.inj hv).symm : word = 0x0E000000 + w * 2097152 + d * 16384 + a * 128 + b).trans (by clear hv wf; omega))
  simp only [decodeFields, decodeRow0, h28, h24, f0, f1, f2, f3]

theorem Laws.RoundTrip.minu (w d a b : Nat) : Statement (.minu w d a b) := by
  intro wf word hv
  refine of_fields wf ?_
  replace wf : (decide (w < 8) && decide (d < 128) && decide (a < 128) && decide (b < 128)) = true := wf
  simp only [Bool.and_eq_true, decide_eq_true_eq] at wf
  obtain ⟨h28, h24, f0, f1, f2, f3⟩ := fields_21_14_7_0 0 15 (w) (d) (a) (b) (by omega) word (((Option.some.inj hv).symm : word = 0x0F000000 + w * 2097152 + d * 16384 + a * 128 + b).trans (by clear hv wf; omega))
  simp only [decodeFields, decodeRow0, h28, h24, f0, f1, f2, f3]

theorem Laws.RoundTrip.maxu (w d a b : Nat) : Statement (.maxu w d a b) := by
  intro wf word hv
  refine of_fields wf ?_
  replace wf : (decide (w < 8) && decide (d < 128) && decide (a < 128) && decide (b < 128)) = true := wf
  simp only [Bool.and_eq_true, decide_eq_true_eq] at wf
  obtain ⟨h28, h24, f0, f1, f2, f3⟩ := fields_21_14_7_0 1 0 (w) (d) (a) (b) (by omega) word (((Option.some.inj hv).symm : word = 0x10000000 + w * 2097152 + d * 16384 + a * 128 + b).trans (by clear hv wf; omega))
  simp only [decodeFields, decodeRow1, h28, h24, f0, f1, f2, f3]

theorem Laws.RoundTrip.adds (w d a b : Nat) : Statement (.adds w d a b) := by
  intro wf word hv
  refine of_fields wf ?_
  replace wf : (decide (w < 8) && decide (d < 128) && decide (a < 128) && decide (b < 128)) = true := wf
  simp only [Bool.and_eq_true, decide_eq_true_eq] at wf
  obtain ⟨h28, h24, f0, f1, f2, f3⟩ := fields_21_14_7_0 1 1 (w) (d) (a) (b) (by omega) word (((Option.some.inj hv).symm : word = 0x11000000 + w * 2097152 + d * 16384 + a * 128 + b).trans (by clear hv wf; omega))
  simp only [decodeFields, decodeRow1, h28, h24, f0, f1, f2, f3]

theorem Laws.RoundTrip.addus (w d a b : Nat) : Statement (.addus w d a b) := by
  intro wf word hv
  refine of_fields wf ?_
  replace wf : (decide (w < 8) && decide (d < 128) && decide (a < 128) && decide (b < 128)) = true := wf
  simp only [Bool.and_eq_true, decide_eq_true_eq] at wf
  obtain ⟨h28, h24, f0, f1, f2, f3⟩ := fields_21_14_7_0 1 2 (w) (d) (a) (b) (by omega) word (((Option.some.inj hv).symm : word = 0x12000000 + w * 2097152 + d * 16384 + a * 128 + b).trans (by clear hv wf; omega))
  simp only [decodeFields, decodeRow1, h28, h24, f0, f1, f2, f3]

theorem Laws.RoundTrip.subs (w d a b : Nat) : Statement (.subs w d a b) := by
  intro wf word hv
  refine of_fields wf ?_
  replace wf : (decide (w < 8) && decide (d < 128) && decide (a < 128) && decide (b < 128)) = true := wf
  simp only [Bool.and_eq_true, decide_eq_true_eq] at wf
  obtain ⟨h28, h24, f0, f1, f2, f3⟩ := fields_21_14_7_0 1 3 (w) (d) (a) (b) (by omega) word (((Option.some.inj hv).symm : word = 0x13000000 + w * 2097152 + d * 16384 + a * 128 + b).trans (by clear hv wf; omega))
  simp only [decodeFields, decodeRow1, h28, h24, f0, f1, f2, f3]

theorem Laws.RoundTrip.subus (w d a b : Nat) : Statement (.subus w d a b) := by
  intro wf word hv
  refine of_fields wf ?_
  replace wf : (decide (w < 8) && decide (d < 128) && decide (a < 128) && decide (b < 128)) = true := wf
  simp only [Bool.and_eq_true, decide_eq_true_eq] at wf
  obtain ⟨h28, h24, f0, f1, f2, f3⟩ := fields_21_14_7_0 1 4 (w) (d) (a) (b) (by omega) word (((Option.some.inj hv).symm : word = 0x14000000 + w * 2097152 + d * 16384 + a * 128 + b).trans (by clear hv wf; omega))
  simp only [decodeFields, decodeRow1, h28, h24, f0, f1, f2, f3]

theorem Laws.RoundTrip.neg (w d a : Nat) : Statement (.neg w d a) := by
  intro wf word hv
  refine of_fields wf ?_
  replace wf : (decide (w < 8) && decide (d < 128) && decide (a < 128)) = true := wf
  simp only [Bool.and_eq_true, decide_eq_true_eq] at wf
  obtain ⟨h28, h24, f0, f1, f2, f3⟩ := fields_21_14_7_0 1 5 (w) (d) (a) (0) (by omega) word (((Option.some.inj hv).symm : word = 0x15000000 + w * 2097152 + d * 16384 + a * 128).trans (by clear hv wf; omega))
  simp only [decodeFields, decodeRow1, h28, h24, f0, f1, f2, f3]
  first | rfl | simp

theorem Laws.RoundTrip.abs (w d a : Nat) : Statement (.abs w d a) := by
  intro wf word hv
  refine of_fields wf ?_
  replace wf : (decide (w < 8) && decide (d < 128) && decide (a < 128)) = true := wf
  simp only [Bool.and_eq_true, decide_eq_true_eq] at wf
  obtain ⟨h28, h24, f0, f1, f2, f3⟩ := fields_21_14_7_0 1 6 (w) (d) (a) (0) (by omega) word (((Option.some.inj hv).symm : word = 0x16000000 + w * 2097152 + d * 16384 + a * 128).trans (by clear hv wf; omega))
  simp only [decodeFields, decodeRow1, h28, h24, f0, f1, f2, f3]
  first | rfl | simp

theorem Laws.RoundTrip.and (w d a b : Nat) : Statement (.and w d a b) := by
  intro wf word hv
  refine of_fields wf ?_
  replace wf : (decide (w < 8) && decide (d < 128) && decide (a < 128) && decide (b < 128)) = true := wf
  simp only [Bool.and_eq_true, decide_eq_true_eq] at wf
  obtain ⟨h28, h24, f0, f1, f2, f3⟩ := fields_21_14_7_0 1 7 (w) (d) (a) (b) (by omega) word (((Option.some.inj hv).symm : word = 0x17000000 + w * 2097152 + d * 16384 + a * 128 + b).trans (by clear hv wf; omega))
  simp only [decodeFields, decodeRow1, h28, h24, f0, f1, f2, f3]

theorem Laws.RoundTrip.or (w d a b : Nat) : Statement (.or w d a b) := by
  intro wf word hv
  refine of_fields wf ?_
  replace wf : (decide (w < 8) && decide (d < 128) && decide (a < 128) && decide (b < 128)) = true := wf
  simp only [Bool.and_eq_true, decide_eq_true_eq] at wf
  obtain ⟨h28, h24, f0, f1, f2, f3⟩ := fields_21_14_7_0 1 8 (w) (d) (a) (b) (by omega) word (((Option.some.inj hv).symm : word = 0x18000000 + w * 2097152 + d * 16384 + a * 128 + b).trans (by clear hv wf; omega))
  simp only [decodeFields, decodeRow1, h28, h24, f0, f1, f2, f3]

theorem Laws.RoundTrip.xor (w d a b : Nat) : Statement (.xor w d a b) := by
  intro wf word hv
  refine of_fields wf ?_
  replace wf : (decide (w < 8) && decide (d < 128) && decide (a < 128) && decide (b < 128)) = true := wf
  simp only [Bool.and_eq_true, decide_eq_true_eq] at wf
  obtain ⟨h28, h24, f0, f1, f2, f3⟩ := fields_21_14_7_0 1 9 (w) (d) (a) (b) (by omega) word (((Option.some.inj hv).symm : word = 0x19000000 + w * 2097152 + d * 16384 + a * 128 + b).trans (by clear hv wf; omega))
  simp only [decodeFields, decodeRow1, h28, h24, f0, f1, f2, f3]

theorem Laws.RoundTrip.andn (w d a b : Nat) : Statement (.andn w d a b) := by
  intro wf word hv
  refine of_fields wf ?_
  replace wf : (decide (w < 8) && decide (d < 128) && decide (a < 128) && decide (b < 128)) = true := wf
  simp only [Bool.and_eq_true, decide_eq_true_eq] at wf
  obtain ⟨h28, h24, f0, f1, f2, f3⟩ := fields_21_14_7_0 1 10 (w) (d) (a) (b) (by omega) word (((Option.some.inj hv).symm : word = 0x1A000000 + w * 2097152 + d * 16384 + a * 128 + b).trans (by clear hv wf; omega))
  simp only [decodeFields, decodeRow1, h28, h24, f0, f1, f2, f3]

theorem Laws.RoundTrip.andi (w d a i : Nat) : Statement (.andi w d a i) := by
  intro wf word hv
  refine of_fields wf ?_
  replace wf : (decide (w < 8) && decide (d < 128) && decide (a < 128) && decide (i < 128)) = true := wf
  simp only [Bool.and_eq_true, decide_eq_true_eq] at wf
  obtain ⟨h28, h24, f0, f1, f2, f3⟩ := fields_21_14_7_0 1 11 (w) (d) (a) (i) (by omega) word (((Option.some.inj hv).symm : word = 0x1B000000 + w * 2097152 + d * 16384 + a * 128 + i).trans (by clear hv wf; omega))
  simp only [decodeFields, decodeRow1, h28, h24, f0, f1, f2, f3]

theorem Laws.RoundTrip.ori (w d a i : Nat) : Statement (.ori w d a i) := by
  intro wf word hv
  refine of_fields wf ?_
  replace wf : (decide (w < 8) && decide (d < 128) && decide (a < 128) && decide (i < 128)) = true := wf
  simp only [Bool.and_eq_true, decide_eq_true_eq] at wf
  obtain ⟨h28, h24, f0, f1, f2, f3⟩ := fields_21_14_7_0 1 12 (w) (d) (a) (i) (by omega) word (((Option.some.inj hv).symm : word = 0x1C000000 + w * 2097152 + d * 16384 + a * 128 + i).trans (by clear hv wf; omega))
  simp only [decodeFields, decodeRow1, h28, h24, f0, f1, f2, f3]

theorem Laws.RoundTrip.xori (w d a i : Nat) : Statement (.xori w d a i) := by
  intro wf word hv
  refine of_fields wf ?_
  replace wf : (decide (w < 8) && decide (d < 128) && decide (a < 128) && decide (i < 128)) = true := wf
  simp only [Bool.and_eq_true, decide_eq_true_eq] at wf
  obtain ⟨h28, h24, f0, f1, f2, f3⟩ := fields_21_14_7_0 1 13 (w) (d) (a) (i) (by omega) word (((Option.some.inj hv).symm : word = 0x1D000000 + w * 2097152 + d * 16384 + a * 128 + i).trans (by clear hv wf; omega))
  simp only [decodeFields, decodeRow1, h28, h24, f0, f1, f2, f3]

theorem Laws.RoundTrip.shl (w d a b : Nat) : Statement (.shl w d a b) := by
  intro wf word hv
  refine of_fields wf ?_
  replace wf : (decide (w < 8) && decide (d < 128) && decide (a < 128) && decide (b < 128)) = true := wf
  simp only [Bool.and_eq_true, decide_eq_true_eq] at wf
  obtain ⟨h28, h24, f0, f1, f2, f3⟩ := fields_21_14_7_0 1 14 (w) (d) (a) (b) (by omega) word (((Option.some.inj hv).symm : word = 0x1E000000 + w * 2097152 + d * 16384 + a * 128 + b).trans (by clear hv wf; omega))
  simp only [decodeFields, decodeRow1, h28, h24, f0, f1, f2, f3]

theorem Laws.RoundTrip.shr (w d a b : Nat) : Statement (.shr w d a b) := by
  intro wf word hv
  refine of_fields wf ?_
  replace wf : (decide (w < 8) && decide (d < 128) && decide (a < 128) && decide (b < 128)) = true := wf
  simp only [Bool.and_eq_true, decide_eq_true_eq] at wf
  obtain ⟨h28, h24, f0, f1, f2, f3⟩ := fields_21_14_7_0 1 15 (w) (d) (a) (b) (by omega) word (((Option.some.inj hv).symm : word = 0x1F000000 + w * 2097152 + d * 16384 + a * 128 + b).trans (by clear hv wf; omega))
  simp only [decodeFields, decodeRow1, h28, h24, f0, f1, f2, f3]

theorem Laws.RoundTrip.sar (w d a b : Nat) : Statement (.sar w d a b) := by
  intro wf word hv
  refine of_fields wf ?_
  replace wf : (decide (w < 8) && decide (d < 128) && decide (a < 128) && decide (b < 128)) = true := wf
  simp only [Bool.and_eq_true, decide_eq_true_eq] at wf
  obtain ⟨h28, h24, f0, f1, f2, f3⟩ := fields_21_14_7_0 2 0 (w) (d) (a) (b) (by omega) word (((Option.some.inj hv).symm : word = 0x20000000 + w * 2097152 + d * 16384 + a * 128 + b).trans (by clear hv wf; omega))
  simp only [decodeFields, decodeRow2, h28, h24, f0, f1, f2, f3]

theorem Laws.RoundTrip.shli (w d a i : Nat) : Statement (.shli w d a i) := by
  intro wf word hv
  refine of_fields wf ?_
  replace wf : (decide (w < 8) && decide (d < 128) && decide (a < 128) && decide (i < 128) && decide (i < widthOf w)) = true := wf
  simp only [Bool.and_eq_true, decide_eq_true_eq] at wf
  obtain ⟨h28, h24, f0, f1, f2, f3⟩ := fields_21_14_7_0 2 1 (w) (d) (a) (i) (by omega) word (((Option.some.inj hv).symm : word = 0x21000000 + w * 2097152 + d * 16384 + a * 128 + i).trans (by clear hv wf; omega))
  simp only [decodeFields, decodeRow2, h28, h24, f0, f1, f2, f3]

theorem Laws.RoundTrip.shri (w d a i : Nat) : Statement (.shri w d a i) := by
  intro wf word hv
  refine of_fields wf ?_
  replace wf : (decide (w < 8) && decide (d < 128) && decide (a < 128) && decide (i < 128) && decide (i < widthOf w)) = true := wf
  simp only [Bool.and_eq_true, decide_eq_true_eq] at wf
  obtain ⟨h28, h24, f0, f1, f2, f3⟩ := fields_21_14_7_0 2 2 (w) (d) (a) (i) (by omega) word (((Option.some.inj hv).symm : word = 0x22000000 + w * 2097152 + d * 16384 + a * 128 + i).trans (by clear hv wf; omega))
  simp only [decodeFields, decodeRow2, h28, h24, f0, f1, f2, f3]

theorem Laws.RoundTrip.sari (w d a i : Nat) : Statement (.sari w d a i) := by
  intro wf word hv
  refine of_fields wf ?_
  replace wf : (decide (w < 8) && decide (d < 128) && decide (a < 128) && decide (i < 128) && decide (i < widthOf w)) = true := wf
  simp only [Bool.and_eq_true, decide_eq_true_eq] at wf
  obtain ⟨h28, h24, f0, f1, f2, f3⟩ := fields_21_14_7_0 2 3 (w) (d) (a) (i) (by omega) word (((Option.some.inj hv).symm : word = 0x23000000 + w * 2097152 + d * 16384 + a * 128 + i).trans (by clear hv wf; omega))
  simp only [decodeFields, decodeRow2, h28, h24, f0, f1, f2, f3]

theorem Laws.RoundTrip.rol (w d a b : Nat) : Statement (.rol w d a b) := by
  intro wf word hv
  refine of_fields wf ?_
  replace wf : (decide (w < 8) && decide (d < 128) && decide (a < 128) && decide (b < 128)) = true := wf
  simp only [Bool.and_eq_true, decide_eq_true_eq] at wf
  obtain ⟨h28, h24, f0, f1, f2, f3⟩ := fields_21_14_7_0 2 4 (w) (d) (a) (b) (by omega) word (((Option.some.inj hv).symm : word = 0x24000000 + w * 2097152 + d * 16384 + a * 128 + b).trans (by clear hv wf; omega))
  simp only [decodeFields, decodeRow2, h28, h24, f0, f1, f2, f3]

theorem Laws.RoundTrip.roli (w d a i : Nat) : Statement (.roli w d a i) := by
  intro wf word hv
  refine of_fields wf ?_
  replace wf : (decide (w < 8) && decide (d < 128) && decide (a < 128) && decide (i < 128) && decide (i < widthOf w)) = true := wf
  simp only [Bool.and_eq_true, decide_eq_true_eq] at wf
  obtain ⟨h28, h24, f0, f1, f2, f3⟩ := fields_21_14_7_0 2 5 (w) (d) (a) (i) (by omega) word (((Option.some.inj hv).symm : word = 0x25000000 + w * 2097152 + d * 16384 + a * 128 + i).trans (by clear hv wf; omega))
  simp only [decodeFields, decodeRow2, h28, h24, f0, f1, f2, f3]

theorem Laws.RoundTrip.fshl (w d a b : Nat) : Statement (.fshl w d a b) := by
  intro wf word hv
  refine of_fields wf ?_
  replace wf : (decide (w < 8) && decide (d < 128) && decide (a < 128) && decide (b < 128)) = true := wf
  simp only [Bool.and_eq_true, decide_eq_true_eq] at wf
  obtain ⟨h28, h24, f0, f1, f2, f3⟩ := fields_21_14_7_0 2 6 (w) (d) (a) (b) (by omega) word (((Option.some.inj hv).symm : word = 0x26000000 + w * 2097152 + d * 16384 + a * 128 + b).trans (by clear hv wf; omega))
  simp only [decodeFields, decodeRow2, h28, h24, f0, f1, f2, f3]

theorem Laws.RoundTrip.fshr (w d a b : Nat) : Statement (.fshr w d a b) := by
  intro wf word hv
  refine of_fields wf ?_
  replace wf : (decide (w < 8) && decide (d < 128) && decide (a < 128) && decide (b < 128)) = true := wf
  simp only [Bool.and_eq_true, decide_eq_true_eq] at wf
  obtain ⟨h28, h24, f0, f1, f2, f3⟩ := fields_21_14_7_0 2 7 (w) (d) (a) (b) (by omega) word (((Option.some.inj hv).symm : word = 0x27000000 + w * 2097152 + d * 16384 + a * 128 + b).trans (by clear hv wf; omega))
  simp only [decodeFields, decodeRow2, h28, h24, f0, f1, f2, f3]

theorem Laws.RoundTrip.sel (w d a b : Nat) : Statement (.sel w d a b) := by
  intro wf word hv
  refine of_fields wf ?_
  replace wf : (decide (w < 8) && decide (d < 128) && decide (a < 128) && decide (b < 128)) = true := wf
  simp only [Bool.and_eq_true, decide_eq_true_eq] at wf
  obtain ⟨h28, h24, f0, f1, f2, f3⟩ := fields_21_14_7_0 2 8 (w) (d) (a) (b) (by omega) word (((Option.some.inj hv).symm : word = 0x28000000 + w * 2097152 + d * 16384 + a * 128 + b).trans (by clear hv wf; omega))
  simp only [decodeFields, decodeRow2, h28, h24, f0, f1, f2, f3]

theorem Laws.RoundTrip.seq (w d a b : Nat) : Statement (.seq w d a b) := by
  intro wf word hv
  refine of_fields wf ?_
  replace wf : (decide (w < 8) && decide (d < 128) && decide (a < 128) && decide (b < 128)) = true := wf
  simp only [Bool.and_eq_true, decide_eq_true_eq] at wf
  obtain ⟨h28, h24, f0, f1, f2, f3⟩ := fields_21_14_7_0 2 9 (w) (d) (a) (b) (by omega) word (((Option.some.inj hv).symm : word = 0x29000000 + w * 2097152 + d * 16384 + a * 128 + b).trans (by clear hv wf; omega))
  simp only [decodeFields, decodeRow2, h28, h24, f0, f1, f2, f3]

theorem Laws.RoundTrip.sne (w d a b : Nat) : Statement (.sne w d a b) := by
  intro wf word hv
  refine of_fields wf ?_
  replace wf : (decide (w < 8) && decide (d < 128) && decide (a < 128) && decide (b < 128)) = true := wf
  simp only [Bool.and_eq_true, decide_eq_true_eq] at wf
  obtain ⟨h28, h24, f0, f1, f2, f3⟩ := fields_21_14_7_0 2 10 (w) (d) (a) (b) (by omega) word (((Option.some.inj hv).symm : word = 0x2A000000 + w * 2097152 + d * 16384 + a * 128 + b).trans (by clear hv wf; omega))
  simp only [decodeFields, decodeRow2, h28, h24, f0, f1, f2, f3]

theorem Laws.RoundTrip.slt (w d a b : Nat) : Statement (.slt w d a b) := by
  intro wf word hv
  refine of_fields wf ?_
  replace wf : (decide (w < 8) && decide (d < 128) && decide (a < 128) && decide (b < 128)) = true := wf
  simp only [Bool.and_eq_true, decide_eq_true_eq] at wf
  obtain ⟨h28, h24, f0, f1, f2, f3⟩ := fields_21_14_7_0 2 11 (w) (d) (a) (b) (by omega) word (((Option.some.inj hv).symm : word = 0x2B000000 + w * 2097152 + d * 16384 + a * 128 + b).trans (by clear hv wf; omega))
  simp only [decodeFields, decodeRow2, h28, h24, f0, f1, f2, f3]

theorem Laws.RoundTrip.sltu (w d a b : Nat) : Statement (.sltu w d a b) := by
  intro wf word hv
  refine of_fields wf ?_
  replace wf : (decide (w < 8) && decide (d < 128) && decide (a < 128) && decide (b < 128)) = true := wf
  simp only [Bool.and_eq_true, decide_eq_true_eq] at wf
  obtain ⟨h28, h24, f0, f1, f2, f3⟩ := fields_21_14_7_0 2 12 (w) (d) (a) (b) (by omega) word (((Option.some.inj hv).symm : word = 0x2C000000 + w * 2097152 + d * 16384 + a * 128 + b).trans (by clear hv wf; omega))
  simp only [decodeFields, decodeRow2, h28, h24, f0, f1, f2, f3]

theorem Laws.RoundTrip.sle (w d a b : Nat) : Statement (.sle w d a b) := by
  intro wf word hv
  refine of_fields wf ?_
  replace wf : (decide (w < 8) && decide (d < 128) && decide (a < 128) && decide (b < 128)) = true := wf
  simp only [Bool.and_eq_true, decide_eq_true_eq] at wf
  obtain ⟨h28, h24, f0, f1, f2, f3⟩ := fields_21_14_7_0 2 13 (w) (d) (a) (b) (by omega) word (((Option.some.inj hv).symm : word = 0x2D000000 + w * 2097152 + d * 16384 + a * 128 + b).trans (by clear hv wf; omega))
  simp only [decodeFields, decodeRow2, h28, h24, f0, f1, f2, f3]

theorem Laws.RoundTrip.sleu (w d a b : Nat) : Statement (.sleu w d a b) := by
  intro wf word hv
  refine of_fields wf ?_
  replace wf : (decide (w < 8) && decide (d < 128) && decide (a < 128) && decide (b < 128)) = true := wf
  simp only [Bool.and_eq_true, decide_eq_true_eq] at wf
  obtain ⟨h28, h24, f0, f1, f2, f3⟩ := fields_21_14_7_0 2 14 (w) (d) (a) (b) (by omega) word (((Option.some.inj hv).symm : word = 0x2E000000 + w * 2097152 + d * 16384 + a * 128 + b).trans (by clear hv wf; omega))
  simp only [decodeFields, decodeRow2, h28, h24, f0, f1, f2, f3]

theorem Laws.RoundTrip.seqi (w d a i : Nat) : Statement (.seqi w d a i) := by
  intro wf word hv
  refine of_fields wf ?_
  replace wf : (decide (w < 8) && decide (d < 128) && decide (a < 128) && decide (i < 128)) = true := wf
  simp only [Bool.and_eq_true, decide_eq_true_eq] at wf
  obtain ⟨h28, h24, f0, f1, f2, f3⟩ := fields_21_14_7_0 2 15 (w) (d) (a) (i) (by omega) word (((Option.some.inj hv).symm : word = 0x2F000000 + w * 2097152 + d * 16384 + a * 128 + i).trans (by clear hv wf; omega))
  simp only [decodeFields, decodeRow2, h28, h24, f0, f1, f2, f3]

theorem Laws.RoundTrip.slti (w d a i : Nat) : Statement (.slti w d a i) := by
  intro wf word hv
  refine of_fields wf ?_
  replace wf : (decide (w < 8) && decide (d < 128) && decide (a < 128) && decide (i < 128)) = true := wf
  simp only [Bool.and_eq_true, decide_eq_true_eq] at wf
  obtain ⟨h28, h24, f0, f1, f2, f3⟩ := fields_21_14_7_0 3 0 (w) (d) (a) (i) (by omega) word (((Option.some.inj hv).symm : word = 0x30000000 + w * 2097152 + d * 16384 + a * 128 + i).trans (by clear hv wf; omega))
  simp only [decodeFields, decodeRow3, h28, h24, f0, f1, f2, f3]

theorem Laws.RoundTrip.mov (w d a : Nat) : Statement (.mov w d a) := by
  intro wf word hv
  refine of_fields wf ?_
  replace wf : (decide (w < 8) && decide (d < 128) && decide (a < 128)) = true := wf
  simp only [Bool.and_eq_true, decide_eq_true_eq] at wf
  obtain ⟨h28, h24, f0, f1, f2, f3⟩ := fields_21_14_7_0 3 1 (w) (d) (a) (0) (by omega) word (((Option.some.inj hv).symm : word = 0x31000000 + w * 2097152 + d * 16384 + a * 128).trans (by clear hv wf; omega))
  simp only [decodeFields, decodeRow3, h28, h24, f0, f1, f2, f3]
  first | rfl | simp

theorem Laws.RoundTrip.movi (w d i : Nat) : Statement (.movi w d i) := by
  intro wf word hv
  refine of_fields wf ?_
  replace wf : (decide (w < 8) && decide (d < 128) && decide (i < 128)) = true := wf
  simp only [Bool.and_eq_true, decide_eq_true_eq] at wf
  obtain ⟨h28, h24, f0, f1, f2, f3⟩ := fields_21_14_7_0 3 2 (w) (d) (0) (i) (by omega) word (((Option.some.inj hv).symm : word = 0x32000000 + w * 2097152 + d * 16384 + i).trans (by clear hv wf; omega))
  simp only [decodeFields, decodeRow3, h28, h24, f0, f1, f2, f3]
  first | rfl | simp

theorem Laws.RoundTrip.exts (w d a i : Nat) : Statement (.exts w d a i) := by
  intro wf word hv
  refine of_fields wf ?_
  replace wf : (decide (w < 8) && decide (d < 128) && decide (a < 128) && decide (i < 128) && decide (1 ≤ i) && decide (i < widthOf w)) = true := wf
  simp only [Bool.and_eq_true, decide_eq_true_eq] at wf
  obtain ⟨h28, h24, f0, f1, f2, f3⟩ := fields_21_14_7_0 3 3 (w) (d) (a) (i) (by omega) word (((Option.some.inj hv).symm : word = 0x33000000 + w * 2097152 + d * 16384 + a * 128 + i).trans (by clear hv wf; omega))
  simp only [decodeFields, decodeRow3, h28, h24, f0, f1, f2, f3]

theorem Laws.RoundTrip.extz (w d a i : Nat) : Statement (.extz w d a i) := by
  intro wf word hv
  refine of_fields wf ?_
  replace wf : (decide (w < 8) && decide (d < 128) && decide (a < 128) && decide (i < 128) && decide (1 ≤ i) && decide (i < widthOf w)) = true := wf
  simp only [Bool.and_eq_true, decide_eq_true_eq] at wf
  obtain ⟨h28, h24, f0, f1, f2, f3⟩ := fields_21_14_7_0 3 4 (w) (d) (a) (i) (by omega) word (((Option.some.inj hv).symm : word = 0x34000000 + w * 2097152 + d * 16384 + a * 128 + i).trans (by clear hv wf; omega))
  simp only [decodeFields, decodeRow3, h28, h24, f0, f1, f2, f3]

theorem Laws.RoundTrip.clz (w d a : Nat) : Statement (.clz w d a) := by
  intro wf word hv
  refine of_fields wf ?_
  replace wf : (decide (w < 8) && decide (d < 128) && decide (a < 128)) = true := wf
  simp only [Bool.and_eq_true, decide_eq_true_eq] at wf
  obtain ⟨h28, h24, f0, f1, f2, f3⟩ := fields_21_14_7_0 3 5 (w) (d) (a) (0) (by omega) word (((Option.some.inj hv).symm : word = 0x35000000 + w * 2097152 + d * 16384 + a * 128).trans (by clear hv wf; omega))
  simp only [decodeFields, decodeRow3, h28, h24, f0, f1, f2, f3]
  first | rfl | simp

theorem Laws.RoundTrip.ctz (w d a : Nat) : Statement (.ctz w d a) := by
  intro wf word hv
  refine of_fields wf ?_
  replace wf : (decide (w < 8) && decide (d < 128) && decide (a < 128)) = true := wf
  simp only [Bool.and_eq_true, decide_eq_true_eq] at wf
  obtain ⟨h28, h24, f0, f1, f2, f3⟩ := fields_21_14_7_0 3 6 (w) (d) (a) (0) (by omega) word (((Option.some.inj hv).symm : word = 0x36000000 + w * 2097152 + d * 16384 + a * 128).trans (by clear hv wf; omega))
  simp only [decodeFields, decodeRow3, h28, h24, f0, f1, f2, f3]
  first | rfl | simp

theorem Laws.RoundTrip.popc (w d a : Nat) : Statement (.popc w d a) := by
  intro wf word hv
  refine of_fields wf ?_
  replace wf : (decide (w < 8) && decide (d < 128) && decide (a < 128)) = true := wf
  simp only [Bool.and_eq_true, decide_eq_true_eq] at wf
  obtain ⟨h28, h24, f0, f1, f2, f3⟩ := fields_21_14_7_0 3 7 (w) (d) (a) (0) (by omega) word (((Option.some.inj hv).symm : word = 0x37000000 + w * 2097152 + d * 16384 + a * 128).trans (by clear hv wf; omega))
  simp only [decodeFields, decodeRow3, h28, h24, f0, f1, f2, f3]
  first | rfl | simp

theorem Laws.RoundTrip.brev (w d a : Nat) : Statement (.brev w d a) := by
  intro wf word hv
  refine of_fields wf ?_
  replace wf : (decide (w < 8) && decide (d < 128) && decide (a < 128)) = true := wf
  simp only [Bool.and_eq_true, decide_eq_true_eq] at wf
  obtain ⟨h28, h24, f0, f1, f2, f3⟩ := fields_21_14_7_0 3 8 (w) (d) (a) (0) (by omega) word (((Option.some.inj hv).symm : word = 0x38000000 + w * 2097152 + d * 16384 + a * 128).trans (by clear hv wf; omega))
  simp only [decodeFields, decodeRow3, h28, h24, f0, f1, f2, f3]
  first | rfl | simp

theorem Laws.RoundTrip.bext (w d a b : Nat) : Statement (.bext w d a b) := by
  intro wf word hv
  refine of_fields wf ?_
  replace wf : (decide (w < 8) && decide (d < 128) && decide (a < 128) && decide (b < 128)) = true := wf
  simp only [Bool.and_eq_true, decide_eq_true_eq] at wf
  obtain ⟨h28, h24, f0, f1, f2, f3⟩ := fields_21_14_7_0 3 9 (w) (d) (a) (b) (by omega) word (((Option.some.inj hv).symm : word = 0x39000000 + w * 2097152 + d * 16384 + a * 128 + b).trans (by clear hv wf; omega))
  simp only [decodeFields, decodeRow3, h28, h24, f0, f1, f2, f3]

theorem Laws.RoundTrip.bexts (w d a b : Nat) : Statement (.bexts w d a b) := by
  intro wf word hv
  refine of_fields wf ?_
  replace wf : (decide (w < 8) && decide (d < 128) && decide (a < 128) && decide (b < 128)) = true := wf
  simp only [Bool.and_eq_true, decide_eq_true_eq] at wf
  obtain ⟨h28, h24, f0, f1, f2, f3⟩ := fields_21_14_7_0 3 10 (w) (d) (a) (b) (by omega) word (((Option.some.inj hv).symm : word = 0x3A000000 + w * 2097152 + d * 16384 + a * 128 + b).trans (by clear hv wf; omega))
  simp only [decodeFields, decodeRow3, h28, h24, f0, f1, f2, f3]

theorem Laws.RoundTrip.bdep (w d a b : Nat) : Statement (.bdep w d a b) := by
  intro wf word hv
  refine of_fields wf ?_
  replace wf : (decide (w < 8) && decide (d < 128) && decide (a < 128) && decide (b < 128)) = true := wf
  simp only [Bool.and_eq_true, decide_eq_true_eq] at wf
  obtain ⟨h28, h24, f0, f1, f2, f3⟩ := fields_21_14_7_0 3 11 (w) (d) (a) (b) (by omega) word (((Option.some.inj hv).symm : word = 0x3B000000 + w * 2097152 + d * 16384 + a * 128 + b).trans (by clear hv wf; omega))
  simp only [decodeFields, decodeRow3, h28, h24, f0, f1, f2, f3]

theorem Laws.RoundTrip.paddL4 (w d a b : Nat) : Statement (.paddL4 w d a b) := by
  intro wf word hv
  refine of_fields wf ?_
  replace wf : (decide (w < 8) && decide (d < 128) && decide (a < 128) && decide (b < 128)) = true := wf
  simp only [Bool.and_eq_true, decide_eq_true_eq] at wf
  obtain ⟨h28, h24, f0, f1, f2, f3⟩ := fields_21_14_7_0 4 0 (w) (d) (a) (b) (by omega) word (((Option.some.inj hv).symm : word = 0x40000000 + w * 2097152 + d * 16384 + a * 128 + b).trans (by clear hv wf; omega))
  simp only [decodeFields, decodeRow4, h28, h24, f0, f1, f2, f3]

theorem Laws.RoundTrip.paddL8 (w d a b : Nat) : Statement (.paddL8 w d a b) := by
  intro wf word hv
  refine of_fields wf ?_
  replace wf : (decide (w < 8) && decide (d < 128) && decide (a < 128) && decide (b < 128) && laneWidth 8 w) = true := wf
  simp only [Bool.and_eq_true, decide_eq_true_eq] at wf
  obtain ⟨h28, h24, f0, f1, f2, f3⟩ := fields_21_14_7_0 4 1 (w) (d) (a) (b) (by omega) word (((Option.some.inj hv).symm : word = 0x41000000 + w * 2097152 + d * 16384 + a * 128 + b).trans (by clear hv wf; omega))
  simp only [decodeFields, decodeRow4, h28, h24, f0, f1, f2, f3]

theorem Laws.RoundTrip.paddL16 (w d a b : Nat) : Statement (.paddL16 w d a b) := by
  intro wf word hv
  refine of_fields wf ?_
  replace wf : (decide (w < 8) && decide (d < 128) && decide (a < 128) && decide (b < 128) && laneWidth 16 w) = true := wf
  simp only [Bool.and_eq_true, decide_eq_true_eq] at wf
  obtain ⟨h28, h24, f0, f1, f2, f3⟩ := fields_21_14_7_0 4 2 (w) (d) (a) (b) (by omega) word (((Option.some.inj hv).symm : word = 0x42000000 + w * 2097152 + d * 16384 + a * 128 + b).trans (by clear hv wf; omega))
  simp only [decodeFields, decodeRow4, h28, h24, f0, f1, f2, f3]

theorem Laws.RoundTrip.paddL32 (w d a b : Nat) : Statement (.paddL32 w d a b) := by
  intro wf word hv
  refine of_fields wf ?_
  replace wf : (decide (w < 8) && decide (d < 128) && decide (a < 128) && decide (b < 128) && laneWidth 32 w) = true := wf
  simp only [Bool.and_eq_true, decide_eq_true_eq] at wf
  obtain ⟨h28, h24, f0, f1, f2, f3⟩ := fields_21_14_7_0 4 3 (w) (d) (a) (b) (by omega) word (((Option.some.inj hv).symm : word = 0x43000000 + w * 2097152 + d * 16384 + a * 128 + b).trans (by clear hv wf; omega))
  simp only [decodeFields, decodeRow4, h28, h24, f0, f1, f2, f3]

theorem Laws.RoundTrip.psubL4 (w d a b : Nat) : Statement (.psubL4 w d a b) := by
  intro wf word hv
  refine of_fields wf ?_
  replace wf : (decide (w < 8) && decide (d < 128) && decide (a < 128) && decide (b < 128)) = true := wf
  simp only [Bool.and_eq_true, decide_eq_true_eq] at wf
  obtain ⟨h28, h24, f0, f1, f2, f3⟩ := fields_21_14_7_0 4 4 (w) (d) (a) (b) (by omega) word (((Option.some.inj hv).symm : word = 0x44000000 + w * 2097152 + d * 16384 + a * 128 + b).trans (by clear hv wf; omega))
  simp only [decodeFields, decodeRow4, h28, h24, f0, f1, f2, f3]

theorem Laws.RoundTrip.psubL8 (w d a b : Nat) : Statement (.psubL8 w d a b) := by
  intro wf word hv
  refine of_fields wf ?_
  replace wf : (decide (w < 8) && decide (d < 128) && decide (a < 128) && decide (b < 128) && laneWidth 8 w) = true := wf
  simp only [Bool.and_eq_true, decide_eq_true_eq] at wf
  obtain ⟨h28, h24, f0, f1, f2, f3⟩ := fields_21_14_7_0 4 5 (w) (d) (a) (b) (by omega) word (((Option.some.inj hv).symm : word = 0x45000000 + w * 2097152 + d * 16384 + a * 128 + b).trans (by clear hv wf; omega))
  simp only [decodeFields, decodeRow4, h28, h24, f0, f1, f2, f3]

theorem Laws.RoundTrip.psubL16 (w d a b : Nat) : Statement (.psubL16 w d a b) := by
  intro wf word hv
  refine of_fields wf ?_
  replace wf : (decide (w < 8) && decide (d < 128) && decide (a < 128) && decide (b < 128) && laneWidth 16 w) = true := wf
  simp only [Bool.and_eq_true, decide_eq_true_eq] at wf
  obtain ⟨h28, h24, f0, f1, f2, f3⟩ := fields_21_14_7_0 4 6 (w) (d) (a) (b) (by omega) word (((Option.some.inj hv).symm : word = 0x46000000 + w * 2097152 + d * 16384 + a * 128 + b).trans (by clear hv wf; omega))
  simp only [decodeFields, decodeRow4, h28, h24, f0, f1, f2, f3]

theorem Laws.RoundTrip.psubL32 (w d a b : Nat) : Statement (.psubL32 w d a b) := by
  intro wf word hv
  refine of_fields wf ?_
  replace wf : (decide (w < 8) && decide (d < 128) && decide (a < 128) && decide (b < 128) && laneWidth 32 w) = true := wf
  simp only [Bool.and_eq_true, decide_eq_true_eq] at wf
  obtain ⟨h28, h24, f0, f1, f2, f3⟩ := fields_21_14_7_0 4 7 (w) (d) (a) (b) (by omega) word (((Option.some.inj hv).symm : word = 0x47000000 + w * 2097152 + d * 16384 + a * 128 + b).trans (by clear hv wf; omega))
  simp only [decodeFields, decodeRow4, h28, h24, f0, f1, f2, f3]

theorem Laws.RoundTrip.pmaxuL4 (w d a b : Nat) : Statement (.pmaxuL4 w d a b) := by
  intro wf word hv
  refine of_fields wf ?_
  replace wf : (decide (w < 8) && decide (d < 128) && decide (a < 128) && decide (b < 128)) = true := wf
  simp only [Bool.and_eq_true, decide_eq_true_eq] at wf
  obtain ⟨h28, h24, f0, f1, f2, f3⟩ := fields_21_14_7_0 4 8 (w) (d) (a) (b) (by omega) word (((Option.some.inj hv).symm : word = 0x48000000 + w * 2097152 + d * 16384 + a * 128 + b).trans (by clear hv wf; omega))
  simp only [decodeFields, decodeRow4, h28, h24, f0, f1, f2, f3]

theorem Laws.RoundTrip.pmaxuL8 (w d a b : Nat) : Statement (.pmaxuL8 w d a b) := by
  intro wf word hv
  refine of_fields wf ?_
  replace wf : (decide (w < 8) && decide (d < 128) && decide (a < 128) && decide (b < 128) && laneWidth 8 w) = true := wf
  simp only [Bool.and_eq_true, decide_eq_true_eq] at wf
  obtain ⟨h28, h24, f0, f1, f2, f3⟩ := fields_21_14_7_0 4 9 (w) (d) (a) (b) (by omega) word (((Option.some.inj hv).symm : word = 0x49000000 + w * 2097152 + d * 16384 + a * 128 + b).trans (by clear hv wf; omega))
  simp only [decodeFields, decodeRow4, h28, h24, f0, f1, f2, f3]

theorem Laws.RoundTrip.pmaxuL16 (w d a b : Nat) : Statement (.pmaxuL16 w d a b) := by
  intro wf word hv
  refine of_fields wf ?_
  replace wf : (decide (w < 8) && decide (d < 128) && decide (a < 128) && decide (b < 128) && laneWidth 16 w) = true := wf
  simp only [Bool.and_eq_true, decide_eq_true_eq] at wf
  obtain ⟨h28, h24, f0, f1, f2, f3⟩ := fields_21_14_7_0 4 10 (w) (d) (a) (b) (by omega) word (((Option.some.inj hv).symm : word = 0x4A000000 + w * 2097152 + d * 16384 + a * 128 + b).trans (by clear hv wf; omega))
  simp only [decodeFields, decodeRow4, h28, h24, f0, f1, f2, f3]

theorem Laws.RoundTrip.pmaxuL32 (w d a b : Nat) : Statement (.pmaxuL32 w d a b) := by
  intro wf word hv
  refine of_fields wf ?_
  replace wf : (decide (w < 8) && decide (d < 128) && decide (a < 128) && decide (b < 128) && laneWidth 32 w) = true := wf
  simp only [Bool.and_eq_true, decide_eq_true_eq] at wf
  obtain ⟨h28, h24, f0, f1, f2, f3⟩ := fields_21_14_7_0 4 11 (w) (d) (a) (b) (by omega) word (((Option.some.inj hv).symm : word = 0x4B000000 + w * 2097152 + d * 16384 + a * 128 + b).trans (by clear hv wf; omega))
  simp only [decodeFields, decodeRow4, h28, h24, f0, f1, f2, f3]

theorem Laws.RoundTrip.pminuL4 (w d a b : Nat) : Statement (.pminuL4 w d a b) := by
  intro wf word hv
  refine of_fields wf ?_
  replace wf : (decide (w < 8) && decide (d < 128) && decide (a < 128) && decide (b < 128)) = true := wf
  simp only [Bool.and_eq_true, decide_eq_true_eq] at wf
  obtain ⟨h28, h24, f0, f1, f2, f3⟩ := fields_21_14_7_0 4 12 (w) (d) (a) (b) (by omega) word (((Option.some.inj hv).symm : word = 0x4C000000 + w * 2097152 + d * 16384 + a * 128 + b).trans (by clear hv wf; omega))
  simp only [decodeFields, decodeRow4, h28, h24, f0, f1, f2, f3]

theorem Laws.RoundTrip.pminuL8 (w d a b : Nat) : Statement (.pminuL8 w d a b) := by
  intro wf word hv
  refine of_fields wf ?_
  replace wf : (decide (w < 8) && decide (d < 128) && decide (a < 128) && decide (b < 128) && laneWidth 8 w) = true := wf
  simp only [Bool.and_eq_true, decide_eq_true_eq] at wf
  obtain ⟨h28, h24, f0, f1, f2, f3⟩ := fields_21_14_7_0 4 13 (w) (d) (a) (b) (by omega) word (((Option.some.inj hv).symm : word = 0x4D000000 + w * 2097152 + d * 16384 + a * 128 + b).trans (by clear hv wf; omega))
  simp only [decodeFields, decodeRow4, h28, h24, f0, f1, f2, f3]

theorem Laws.RoundTrip.pminuL16 (w d a b : Nat) : Statement (.pminuL16 w d a b) := by
  intro wf word hv
  refine of_fields wf ?_
  replace wf : (decide (w < 8) && decide (d < 128) && decide (a < 128) && decide (b < 128) && laneWidth 16 w) = true := wf
  simp only [Bool.and_eq_true, decide_eq_true_eq] at wf
  obtain ⟨h28, h24, f0, f1, f2, f3⟩ := fields_21_14_7_0 4 14 (w) (d) (a) (b) (by omega) word (((Option.some.inj hv).symm : word = 0x4E000000 + w * 2097152 + d * 16384 + a * 128 + b).trans (by clear hv wf; omega))
  simp only [decodeFields, decodeRow4, h28, h24, f0, f1, f2, f3]

theorem Laws.RoundTrip.pminuL32 (w d a b : Nat) : Statement (.pminuL32 w d a b) := by
  intro wf word hv
  refine of_fields wf ?_
  replace wf : (decide (w < 8) && decide (d < 128) && decide (a < 128) && decide (b < 128) && laneWidth 32 w) = true := wf
  simp only [Bool.and_eq_true, decide_eq_true_eq] at wf
  obtain ⟨h28, h24, f0, f1, f2, f3⟩ := fields_21_14_7_0 4 15 (w) (d) (a) (b) (by omega) word (((Option.some.inj hv).symm : word = 0x4F000000 + w * 2097152 + d * 16384 + a * 128 + b).trans (by clear hv wf; omega))
  simp only [decodeFields, decodeRow4, h28, h24, f0, f1, f2, f3]

theorem Laws.RoundTrip.pmaxsL4 (w d a b : Nat) : Statement (.pmaxsL4 w d a b) := by
  intro wf word hv
  refine of_fields wf ?_
  replace wf : (decide (w < 8) && decide (d < 128) && decide (a < 128) && decide (b < 128)) = true := wf
  simp only [Bool.and_eq_true, decide_eq_true_eq] at wf
  obtain ⟨h28, h24, f0, f1, f2, f3⟩ := fields_21_14_7_0 5 0 (w) (d) (a) (b) (by omega) word (((Option.some.inj hv).symm : word = 0x50000000 + w * 2097152 + d * 16384 + a * 128 + b).trans (by clear hv wf; omega))
  simp only [decodeFields, decodeRow5, h28, h24, f0, f1, f2, f3]

theorem Laws.RoundTrip.pmaxsL8 (w d a b : Nat) : Statement (.pmaxsL8 w d a b) := by
  intro wf word hv
  refine of_fields wf ?_
  replace wf : (decide (w < 8) && decide (d < 128) && decide (a < 128) && decide (b < 128) && laneWidth 8 w) = true := wf
  simp only [Bool.and_eq_true, decide_eq_true_eq] at wf
  obtain ⟨h28, h24, f0, f1, f2, f3⟩ := fields_21_14_7_0 5 1 (w) (d) (a) (b) (by omega) word (((Option.some.inj hv).symm : word = 0x51000000 + w * 2097152 + d * 16384 + a * 128 + b).trans (by clear hv wf; omega))
  simp only [decodeFields, decodeRow5, h28, h24, f0, f1, f2, f3]

theorem Laws.RoundTrip.pmaxsL16 (w d a b : Nat) : Statement (.pmaxsL16 w d a b) := by
  intro wf word hv
  refine of_fields wf ?_
  replace wf : (decide (w < 8) && decide (d < 128) && decide (a < 128) && decide (b < 128) && laneWidth 16 w) = true := wf
  simp only [Bool.and_eq_true, decide_eq_true_eq] at wf
  obtain ⟨h28, h24, f0, f1, f2, f3⟩ := fields_21_14_7_0 5 2 (w) (d) (a) (b) (by omega) word (((Option.some.inj hv).symm : word = 0x52000000 + w * 2097152 + d * 16384 + a * 128 + b).trans (by clear hv wf; omega))
  simp only [decodeFields, decodeRow5, h28, h24, f0, f1, f2, f3]

theorem Laws.RoundTrip.pmaxsL32 (w d a b : Nat) : Statement (.pmaxsL32 w d a b) := by
  intro wf word hv
  refine of_fields wf ?_
  replace wf : (decide (w < 8) && decide (d < 128) && decide (a < 128) && decide (b < 128) && laneWidth 32 w) = true := wf
  simp only [Bool.and_eq_true, decide_eq_true_eq] at wf
  obtain ⟨h28, h24, f0, f1, f2, f3⟩ := fields_21_14_7_0 5 3 (w) (d) (a) (b) (by omega) word (((Option.some.inj hv).symm : word = 0x53000000 + w * 2097152 + d * 16384 + a * 128 + b).trans (by clear hv wf; omega))
  simp only [decodeFields, decodeRow5, h28, h24, f0, f1, f2, f3]

theorem Laws.RoundTrip.pminsL4 (w d a b : Nat) : Statement (.pminsL4 w d a b) := by
  intro wf word hv
  refine of_fields wf ?_
  replace wf : (decide (w < 8) && decide (d < 128) && decide (a < 128) && decide (b < 128)) = true := wf
  simp only [Bool.and_eq_true, decide_eq_true_eq] at wf
  obtain ⟨h28, h24, f0, f1, f2, f3⟩ := fields_21_14_7_0 5 4 (w) (d) (a) (b) (by omega) word (((Option.some.inj hv).symm : word = 0x54000000 + w * 2097152 + d * 16384 + a * 128 + b).trans (by clear hv wf; omega))
  simp only [decodeFields, decodeRow5, h28, h24, f0, f1, f2, f3]

theorem Laws.RoundTrip.pminsL8 (w d a b : Nat) : Statement (.pminsL8 w d a b) := by
  intro wf word hv
  refine of_fields wf ?_
  replace wf : (decide (w < 8) && decide (d < 128) && decide (a < 128) && decide (b < 128) && laneWidth 8 w) = true := wf
  simp only [Bool.and_eq_true, decide_eq_true_eq] at wf
  obtain ⟨h28, h24, f0, f1, f2, f3⟩ := fields_21_14_7_0 5 5 (w) (d) (a) (b) (by omega) word (((Option.some.inj hv).symm : word = 0x55000000 + w * 2097152 + d * 16384 + a * 128 + b).trans (by clear hv wf; omega))
  simp only [decodeFields, decodeRow5, h28, h24, f0, f1, f2, f3]

theorem Laws.RoundTrip.pminsL16 (w d a b : Nat) : Statement (.pminsL16 w d a b) := by
  intro wf word hv
  refine of_fields wf ?_
  replace wf : (decide (w < 8) && decide (d < 128) && decide (a < 128) && decide (b < 128) && laneWidth 16 w) = true := wf
  simp only [Bool.and_eq_true, decide_eq_true_eq] at wf
  obtain ⟨h28, h24, f0, f1, f2, f3⟩ := fields_21_14_7_0 5 6 (w) (d) (a) (b) (by omega) word (((Option.some.inj hv).symm : word = 0x56000000 + w * 2097152 + d * 16384 + a * 128 + b).trans (by clear hv wf; omega))
  simp only [decodeFields, decodeRow5, h28, h24, f0, f1, f2, f3]

theorem Laws.RoundTrip.pminsL32 (w d a b : Nat) : Statement (.pminsL32 w d a b) := by
  intro wf word hv
  refine of_fields wf ?_
  replace wf : (decide (w < 8) && decide (d < 128) && decide (a < 128) && decide (b < 128) && laneWidth 32 w) = true := wf
  simp only [Bool.and_eq_true, decide_eq_true_eq] at wf
  obtain ⟨h28, h24, f0, f1, f2, f3⟩ := fields_21_14_7_0 5 7 (w) (d) (a) (b) (by omega) word (((Option.some.inj hv).symm : word = 0x57000000 + w * 2097152 + d * 16384 + a * 128 + b).trans (by clear hv wf; omega))
  simp only [decodeFields, decodeRow5, h28, h24, f0, f1, f2, f3]

theorem Laws.RoundTrip.paddssL4 (w d a b : Nat) : Statement (.paddssL4 w d a b) := by
  intro wf word hv
  refine of_fields wf ?_
  replace wf : (decide (w < 8) && decide (d < 128) && decide (a < 128) && decide (b < 128)) = true := wf
  simp only [Bool.and_eq_true, decide_eq_true_eq] at wf
  obtain ⟨h28, h24, f0, f1, f2, f3⟩ := fields_21_14_7_0 5 8 (w) (d) (a) (b) (by omega) word (((Option.some.inj hv).symm : word = 0x58000000 + w * 2097152 + d * 16384 + a * 128 + b).trans (by clear hv wf; omega))
  simp only [decodeFields, decodeRow5, h28, h24, f0, f1, f2, f3]

theorem Laws.RoundTrip.paddssL8 (w d a b : Nat) : Statement (.paddssL8 w d a b) := by
  intro wf word hv
  refine of_fields wf ?_
  replace wf : (decide (w < 8) && decide (d < 128) && decide (a < 128) && decide (b < 128) && laneWidth 8 w) = true := wf
  simp only [Bool.and_eq_true, decide_eq_true_eq] at wf
  obtain ⟨h28, h24, f0, f1, f2, f3⟩ := fields_21_14_7_0 5 9 (w) (d) (a) (b) (by omega) word (((Option.some.inj hv).symm : word = 0x59000000 + w * 2097152 + d * 16384 + a * 128 + b).trans (by clear hv wf; omega))
  simp only [decodeFields, decodeRow5, h28, h24, f0, f1, f2, f3]

theorem Laws.RoundTrip.paddssL16 (w d a b : Nat) : Statement (.paddssL16 w d a b) := by
  intro wf word hv
  refine of_fields wf ?_
  replace wf : (decide (w < 8) && decide (d < 128) && decide (a < 128) && decide (b < 128) && laneWidth 16 w) = true := wf
  simp only [Bool.and_eq_true, decide_eq_true_eq] at wf
  obtain ⟨h28, h24, f0, f1, f2, f3⟩ := fields_21_14_7_0 5 10 (w) (d) (a) (b) (by omega) word (((Option.some.inj hv).symm : word = 0x5A000000 + w * 2097152 + d * 16384 + a * 128 + b).trans (by clear hv wf; omega))
  simp only [decodeFields, decodeRow5, h28, h24, f0, f1, f2, f3]

theorem Laws.RoundTrip.paddssL32 (w d a b : Nat) : Statement (.paddssL32 w d a b) := by
  intro wf word hv
  refine of_fields wf ?_
  replace wf : (decide (w < 8) && decide (d < 128) && decide (a < 128) && decide (b < 128) && laneWidth 32 w) = true := wf
  simp only [Bool.and_eq_true, decide_eq_true_eq] at wf
  obtain ⟨h28, h24, f0, f1, f2, f3⟩ := fields_21_14_7_0 5 11 (w) (d) (a) (b) (by omega) word (((Option.some.inj hv).symm : word = 0x5B000000 + w * 2097152 + d * 16384 + a * 128 + b).trans (by clear hv wf; omega))
  simp only [decodeFields, decodeRow5, h28, h24, f0, f1, f2, f3]

theorem Laws.RoundTrip.rmaxuL4 (w d a b : Nat) : Statement (.rmaxuL4 w d a b) := by
  intro wf word hv
  refine of_fields wf ?_
  replace wf : (decide (w < 8) && decide (d < 128) && decide (a < 128) && decide (b < 128)) = true := wf
  simp only [Bool.and_eq_true, decide_eq_true_eq] at wf
  obtain ⟨h28, h24, f0, f1, f2, f3⟩ := fields_21_14_7_0 5 12 (w) (d) (a) (b) (by omega) word (((Option.some.inj hv).symm : word = 0x5C000000 + w * 2097152 + d * 16384 + a * 128 + b).trans (by clear hv wf; omega))
  simp only [decodeFields, decodeRow5, h28, h24, f0, f1, f2, f3]

theorem Laws.RoundTrip.rmaxuL8 (w d a b : Nat) : Statement (.rmaxuL8 w d a b) := by
  intro wf word hv
  refine of_fields wf ?_
  replace wf : (decide (w < 8) && decide (d < 128) && decide (a < 128) && decide (b < 128) && laneWidth 8 w) = true := wf
  simp only [Bool.and_eq_true, decide_eq_true_eq] at wf
  obtain ⟨h28, h24, f0, f1, f2, f3⟩ := fields_21_14_7_0 5 13 (w) (d) (a) (b) (by omega) word (((Option.some.inj hv).symm : word = 0x5D000000 + w * 2097152 + d * 16384 + a * 128 + b).trans (by clear hv wf; omega))
  simp only [decodeFields, decodeRow5, h28, h24, f0, f1, f2, f3]

theorem Laws.RoundTrip.rmaxuL16 (w d a b : Nat) : Statement (.rmaxuL16 w d a b) := by
  intro wf word hv
  refine of_fields wf ?_
  replace wf : (decide (w < 8) && decide (d < 128) && decide (a < 128) && decide (b < 128) && laneWidth 16 w) = true := wf
  simp only [Bool.and_eq_true, decide_eq_true_eq] at wf
  obtain ⟨h28, h24, f0, f1, f2, f3⟩ := fields_21_14_7_0 5 14 (w) (d) (a) (b) (by omega) word (((Option.some.inj hv).symm : word = 0x5E000000 + w * 2097152 + d * 16384 + a * 128 + b).trans (by clear hv wf; omega))
  simp only [decodeFields, decodeRow5, h28, h24, f0, f1, f2, f3]

theorem Laws.RoundTrip.rmaxuL32 (w d a b : Nat) : Statement (.rmaxuL32 w d a b) := by
  intro wf word hv
  refine of_fields wf ?_
  replace wf : (decide (w < 8) && decide (d < 128) && decide (a < 128) && decide (b < 128) && laneWidth 32 w) = true := wf
  simp only [Bool.and_eq_true, decide_eq_true_eq] at wf
  obtain ⟨h28, h24, f0, f1, f2, f3⟩ := fields_21_14_7_0 5 15 (w) (d) (a) (b) (by omega) word (((Option.some.inj hv).symm : word = 0x5F000000 + w * 2097152 + d * 16384 + a * 128 + b).trans (by clear hv wf; omega))
  simp only [decodeFields, decodeRow5, h28, h24, f0, f1, f2, f3]

theorem Laws.RoundTrip.fadd (w d a b : Nat) : Statement (.fadd w d a b) := by
  intro wf word hv
  refine of_fields wf ?_
  replace wf : (decide (w < 8) && decide (d < 128) && decide (a < 128) && decide (b < 128) && laneWidth 32 w) = true := wf
  simp only [Bool.and_eq_true, decide_eq_true_eq] at wf
  obtain ⟨h28, h24, f0, f1, f2, f3⟩ := fields_21_14_7_0 6 0 (w) (d) (a) (b) (by omega) word (((Option.some.inj hv).symm : word = 0x60000000 + w * 2097152 + d * 16384 + a * 128 + b).trans (by clear hv wf; omega))
  simp only [decodeFields, decodeRow6, h28, h24, f0, f1, f2, f3]

theorem Laws.RoundTrip.fsub (w d a b : Nat) : Statement (.fsub w d a b) := by
  intro wf word hv
  refine of_fields wf ?_
  replace wf : (decide (w < 8) && decide (d < 128) && decide (a < 128) && decide (b < 128) && laneWidth 32 w) = true := wf
  simp only [Bool.and_eq_true, decide_eq_true_eq] at wf
  obtain ⟨h28, h24, f0, f1, f2, f3⟩ := fields_21_14_7_0 6 1 (w) (d) (a) (b) (by omega) word (((Option.some.inj hv).symm : word = 0x61000000 + w * 2097152 + d * 16384 + a * 128 + b).trans (by clear hv wf; omega))
  simp only [decodeFields, decodeRow6, h28, h24, f0, f1, f2, f3]

theorem Laws.RoundTrip.fmul (w d a b : Nat) : Statement (.fmul w d a b) := by
  intro wf word hv
  refine of_fields wf ?_
  replace wf : (decide (w < 8) && decide (d < 128) && decide (a < 128) && decide (b < 128) && laneWidth 32 w) = true := wf
  simp only [Bool.and_eq_true, decide_eq_true_eq] at wf
  obtain ⟨h28, h24, f0, f1, f2, f3⟩ := fields_21_14_7_0 6 2 (w) (d) (a) (b) (by omega) word (((Option.some.inj hv).symm : word = 0x62000000 + w * 2097152 + d * 16384 + a * 128 + b).trans (by clear hv wf; omega))
  simp only [decodeFields, decodeRow6, h28, h24, f0, f1, f2, f3]

theorem Laws.RoundTrip.fma (w d a b : Nat) : Statement (.fma w d a b) := by
  intro wf word hv
  refine of_fields wf ?_
  replace wf : (decide (w < 8) && decide (d < 128) && decide (a < 128) && decide (b < 128) && laneWidth 32 w) = true := wf
  simp only [Bool.and_eq_true, decide_eq_true_eq] at wf
  obtain ⟨h28, h24, f0, f1, f2, f3⟩ := fields_21_14_7_0 6 3 (w) (d) (a) (b) (by omega) word (((Option.some.inj hv).symm : word = 0x63000000 + w * 2097152 + d * 16384 + a * 128 + b).trans (by clear hv wf; omega))
  simp only [decodeFields, decodeRow6, h28, h24, f0, f1, f2, f3]

theorem Laws.RoundTrip.fmulz (w d a b : Nat) : Statement (.fmulz w d a b) := by
  intro wf word hv
  refine of_fields wf ?_
  replace wf : (decide (w < 8) && decide (d < 128) && decide (a < 128) && decide (b < 128) && laneWidth 32 w) = true := wf
  simp only [Bool.and_eq_true, decide_eq_true_eq] at wf
  obtain ⟨h28, h24, f0, f1, f2, f3⟩ := fields_21_14_7_0 6 4 (w) (d) (a) (b) (by omega) word (((Option.some.inj hv).symm : word = 0x64000000 + w * 2097152 + d * 16384 + a * 128 + b).trans (by clear hv wf; omega))
  simp only [decodeFields, decodeRow6, h28, h24, f0, f1, f2, f3]

theorem Laws.RoundTrip.fmin (w d a b : Nat) : Statement (.fmin w d a b) := by
  intro wf word hv
  refine of_fields wf ?_
  replace wf : (decide (w < 8) && decide (d < 128) && decide (a < 128) && decide (b < 128) && laneWidth 32 w) = true := wf
  simp only [Bool.and_eq_true, decide_eq_true_eq] at wf
  obtain ⟨h28, h24, f0, f1, f2, f3⟩ := fields_21_14_7_0 6 5 (w) (d) (a) (b) (by omega) word (((Option.some.inj hv).symm : word = 0x65000000 + w * 2097152 + d * 16384 + a * 128 + b).trans (by clear hv wf; omega))
  simp only [decodeFields, decodeRow6, h28, h24, f0, f1, f2, f3]

theorem Laws.RoundTrip.fmax (w d a b : Nat) : Statement (.fmax w d a b) := by
  intro wf word hv
  refine of_fields wf ?_
  replace wf : (decide (w < 8) && decide (d < 128) && decide (a < 128) && decide (b < 128) && laneWidth 32 w) = true := wf
  simp only [Bool.and_eq_true, decide_eq_true_eq] at wf
  obtain ⟨h28, h24, f0, f1, f2, f3⟩ := fields_21_14_7_0 6 6 (w) (d) (a) (b) (by omega) word (((Option.some.inj hv).symm : word = 0x66000000 + w * 2097152 + d * 16384 + a * 128 + b).trans (by clear hv wf; omega))
  simp only [decodeFields, decodeRow6, h28, h24, f0, f1, f2, f3]

theorem Laws.RoundTrip.frcp (w d a : Nat) : Statement (.frcp w d a) := by
  intro wf word hv
  refine of_fields wf ?_
  replace wf : (decide (w < 8) && decide (d < 128) && decide (a < 128) && laneWidth 32 w) = true := wf
  simp only [Bool.and_eq_true, decide_eq_true_eq] at wf
  obtain ⟨h28, h24, f0, f1, f2, f3⟩ := fields_21_14_7_0 6 7 (w) (d) (a) (0) (by omega) word (((Option.some.inj hv).symm : word = 0x67000000 + w * 2097152 + d * 16384 + a * 128).trans (by clear hv wf; omega))
  simp only [decodeFields, decodeRow6, h28, h24, f0, f1, f2, f3]
  first | rfl | simp

theorem Laws.RoundTrip.frsq (w d a : Nat) : Statement (.frsq w d a) := by
  intro wf word hv
  refine of_fields wf ?_
  replace wf : (decide (w < 8) && decide (d < 128) && decide (a < 128) && laneWidth 32 w) = true := wf
  simp only [Bool.and_eq_true, decide_eq_true_eq] at wf
  obtain ⟨h28, h24, f0, f1, f2, f3⟩ := fields_21_14_7_0 6 8 (w) (d) (a) (0) (by omega) word (((Option.some.inj hv).symm : word = 0x68000000 + w * 2097152 + d * 16384 + a * 128).trans (by clear hv wf; omega))
  simp only [decodeFields, decodeRow6, h28, h24, f0, f1, f2, f3]
  first | rfl | simp

theorem Laws.RoundTrip.fexp2 (w d a : Nat) : Statement (.fexp2 w d a) := by
  intro wf word hv
  refine of_fields wf ?_
  replace wf : (decide (w < 8) && decide (d < 128) && decide (a < 128) && laneWidth 32 w) = true := wf
  simp only [Bool.and_eq_true, decide_eq_true_eq] at wf
  obtain ⟨h28, h24, f0, f1, f2, f3⟩ := fields_21_14_7_0 6 9 (w) (d) (a) (0) (by omega) word (((Option.some.inj hv).symm : word = 0x69000000 + w * 2097152 + d * 16384 + a * 128).trans (by clear hv wf; omega))
  simp only [decodeFields, decodeRow6, h28, h24, f0, f1, f2, f3]
  first | rfl | simp

theorem Laws.RoundTrip.flog2 (w d a : Nat) : Statement (.flog2 w d a) := by
  intro wf word hv
  refine of_fields wf ?_
  replace wf : (decide (w < 8) && decide (d < 128) && decide (a < 128) && laneWidth 32 w) = true := wf
  simp only [Bool.and_eq_true, decide_eq_true_eq] at wf
  obtain ⟨h28, h24, f0, f1, f2, f3⟩ := fields_21_14_7_0 6 10 (w) (d) (a) (0) (by omega) word (((Option.some.inj hv).symm : word = 0x6A000000 + w * 2097152 + d * 16384 + a * 128).trans (by clear hv wf; omega))
  simp only [decodeFields, decodeRow6, h28, h24, f0, f1, f2, f3]
  first | rfl | simp

theorem Laws.RoundTrip.fcmpeq (w d a b : Nat) : Statement (.fcmpeq w d a b) := by
  intro wf word hv
  refine of_fields wf ?_
  replace wf : (decide (w < 8) && decide (d < 128) && decide (a < 128) && decide (b < 128) && laneWidth 32 w) = true := wf
  simp only [Bool.and_eq_true, decide_eq_true_eq] at wf
  obtain ⟨h28, h24, f0, f1, f2, f3⟩ := fields_21_14_7_0 6 11 (w) (d) (a) (b) (by omega) word (((Option.some.inj hv).symm : word = 0x6B000000 + w * 2097152 + d * 16384 + a * 128 + b).trans (by clear hv wf; omega))
  simp only [decodeFields, decodeRow6, h28, h24, f0, f1, f2, f3]

theorem Laws.RoundTrip.fcmplt (w d a b : Nat) : Statement (.fcmplt w d a b) := by
  intro wf word hv
  refine of_fields wf ?_
  replace wf : (decide (w < 8) && decide (d < 128) && decide (a < 128) && decide (b < 128) && laneWidth 32 w) = true := wf
  simp only [Bool.and_eq_true, decide_eq_true_eq] at wf
  obtain ⟨h28, h24, f0, f1, f2, f3⟩ := fields_21_14_7_0 6 12 (w) (d) (a) (b) (by omega) word (((Option.some.inj hv).symm : word = 0x6C000000 + w * 2097152 + d * 16384 + a * 128 + b).trans (by clear hv wf; omega))
  simp only [decodeFields, decodeRow6, h28, h24, f0, f1, f2, f3]

theorem Laws.RoundTrip.fcmple (w d a b : Nat) : Statement (.fcmple w d a b) := by
  intro wf word hv
  refine of_fields wf ?_
  replace wf : (decide (w < 8) && decide (d < 128) && decide (a < 128) && decide (b < 128) && laneWidth 32 w) = true := wf
  simp only [Bool.and_eq_true, decide_eq_true_eq] at wf
  obtain ⟨h28, h24, f0, f1, f2, f3⟩ := fields_21_14_7_0 6 13 (w) (d) (a) (b) (by omega) word (((Option.some.inj hv).symm : word = 0x6D000000 + w * 2097152 + d * 16384 + a * 128 + b).trans (by clear hv wf; omega))
  simp only [decodeFields, decodeRow6, h28, h24, f0, f1, f2, f3]

theorem Laws.RoundTrip.fclass (w d a : Nat) : Statement (.fclass w d a) := by
  intro wf word hv
  refine of_fields wf ?_
  replace wf : (decide (w < 8) && decide (d < 128) && decide (a < 128) && laneWidth 32 w) = true := wf
  simp only [Bool.and_eq_true, decide_eq_true_eq] at wf
  obtain ⟨h28, h24, f0, f1, f2, f3⟩ := fields_21_14_7_0 6 14 (w) (d) (a) (0) (by omega) word (((Option.some.inj hv).symm : word = 0x6E000000 + w * 2097152 + d * 16384 + a * 128).trans (by clear hv wf; omega))
  simp only [decodeFields, decodeRow6, h28, h24, f0, f1, f2, f3]
  first | rfl | simp

theorem Laws.RoundTrip.raddf (w d a : Nat) : Statement (.raddf w d a) := by
  intro wf word hv
  refine of_fields wf ?_
  replace wf : (decide (w < 8) && decide (d < 128) && decide (a < 128) && laneWidth 32 w) = true := wf
  simp only [Bool.and_eq_true, decide_eq_true_eq] at wf
  obtain ⟨h28, h24, f0, f1, f2, f3⟩ := fields_21_14_7_0 6 15 (w) (d) (a) (0) (by omega) word (((Option.some.inj hv).symm : word = 0x6F000000 + w * 2097152 + d * 16384 + a * 128).trans (by clear hv wf; omega))
  simp only [decodeFields, decodeRow6, h28, h24, f0, f1, f2, f3]
  first | rfl | simp

theorem Laws.RoundTrip.badd (w d a b : Nat) : Statement (.badd w d a b) := by
  intro wf word hv
  refine of_fields wf ?_
  replace wf : (decide (w < 8) && decide (d < 128) && decide (a < 128) && decide (b < 128) && laneWidth 16 w) = true := wf
  simp only [Bool.and_eq_true, decide_eq_true_eq] at wf
  obtain ⟨h28, h24, f0, f1, f2, f3⟩ := fields_21_14_7_0 7 0 (w) (d) (a) (b) (by omega) word (((Option.some.inj hv).symm : word = 0x70000000 + w * 2097152 + d * 16384 + a * 128 + b).trans (by clear hv wf; omega))
  simp only [decodeFields, decodeRow7, h28, h24, f0, f1, f2, f3]

theorem Laws.RoundTrip.bmul (w d a b : Nat) : Statement (.bmul w d a b) := by
  intro wf word hv
  refine of_fields wf ?_
  replace wf : (decide (w < 8) && decide (d < 128) && decide (a < 128) && decide (b < 128) && laneWidth 16 w) = true := wf
  simp only [Bool.and_eq_true, decide_eq_true_eq] at wf
  obtain ⟨h28, h24, f0, f1, f2, f3⟩ := fields_21_14_7_0 7 1 (w) (d) (a) (b) (by omega) word (((Option.some.inj hv).symm : word = 0x71000000 + w * 2097152 + d * 16384 + a * 128 + b).trans (by clear hv wf; omega))
  simp only [decodeFields, decodeRow7, h28, h24, f0, f1, f2, f3]

theorem Laws.RoundTrip.bfma (w d a b : Nat) : Statement (.bfma w d a b) := by
  intro wf word hv
  refine of_fields wf ?_
  replace wf : (decide (w < 8) && decide (d < 128) && decide (a < 128) && decide (b < 128) && laneWidth 16 w) = true := wf
  simp only [Bool.and_eq_true, decide_eq_true_eq] at wf
  obtain ⟨h28, h24, f0, f1, f2, f3⟩ := fields_21_14_7_0 7 2 (w) (d) (a) (b) (by omega) word (((Option.some.inj hv).symm : word = 0x72000000 + w * 2097152 + d * 16384 + a * 128 + b).trans (by clear hv wf; omega))
  simp only [decodeFields, decodeRow7, h28, h24, f0, f1, f2, f3]

theorem Laws.RoundTrip.bmax (w d a b : Nat) : Statement (.bmax w d a b) := by
  intro wf word hv
  refine of_fields wf ?_
  replace wf : (decide (w < 8) && decide (d < 128) && decide (a < 128) && decide (b < 128) && laneWidth 16 w) = true := wf
  simp only [Bool.and_eq_true, decide_eq_true_eq] at wf
  obtain ⟨h28, h24, f0, f1, f2, f3⟩ := fields_21_14_7_0 7 3 (w) (d) (a) (b) (by omega) word (((Option.some.inj hv).symm : word = 0x73000000 + w * 2097152 + d * 16384 + a * 128 + b).trans (by clear hv wf; omega))
  simp only [decodeFields, decodeRow7, h28, h24, f0, f1, f2, f3]

theorem Laws.RoundTrip.bmin (w d a b : Nat) : Statement (.bmin w d a b) := by
  intro wf word hv
  refine of_fields wf ?_
  replace wf : (decide (w < 8) && decide (d < 128) && decide (a < 128) && decide (b < 128) && laneWidth 16 w) = true := wf
  simp only [Bool.and_eq_true, decide_eq_true_eq] at wf
  obtain ⟨h28, h24, f0, f1, f2, f3⟩ := fields_21_14_7_0 7 4 (w) (d) (a) (b) (by omega) word (((Option.some.inj hv).symm : word = 0x74000000 + w * 2097152 + d * 16384 + a * 128 + b).trans (by clear hv wf; omega))
  simp only [decodeFields, decodeRow7, h28, h24, f0, f1, f2, f3]

theorem Laws.RoundTrip.cvt (w d a t s : Nat) : Statement (.cvt w d a t s) := by
  intro wf word hv
  refine of_fields wf ?_
  replace wf : (decide (w < 8) && decide (d < 128) && decide (a < 128) && decide (t < 8) && decide (s < 8) && convCode w t s) = true := wf
  simp only [Bool.and_eq_true, decide_eq_true_eq] at wf
  obtain ⟨h28, h24, f0, f1, f2, f3, f4, f5⟩ := fields_21_14_7_6_3_0 7 5 (w) (d) (a) (0) (t) (s) (by omega) word (((Option.some.inj hv).symm : word = 0x75000000 + w * 2097152 + d * 16384 + a * 128 + t * 8 + s).trans (by clear hv wf; omega))
  simp only [decodeFields, decodeRow7, h28, h24, f0, f1, f2, f3, f4, f5]
  first | rfl | simp

theorem Laws.RoundTrip.cvtsr (w d a t s : Nat) : Statement (.cvtsr w d a t s) := by
  intro wf word hv
  refine of_fields wf ?_
  replace wf : (decide (w < 8) && decide (d < 128) && decide (a < 128) && decide (t < 8) && decide (s < 8) && convCodeSR w t s) = true := wf
  simp only [Bool.and_eq_true, decide_eq_true_eq] at wf
  obtain ⟨h28, h24, f0, f1, f2, f3, f4, f5⟩ := fields_21_14_7_6_3_0 7 6 (w) (d) (a) (0) (t) (s) (by omega) word (((Option.some.inj hv).symm : word = 0x76000000 + w * 2097152 + d * 16384 + a * 128 + t * 8 + s).trans (by clear hv wf; omega))
  simp only [decodeFields, decodeRow7, h28, h24, f0, f1, f2, f3, f4, f5]
  first | rfl | simp

theorem Laws.RoundTrip.scacc (w d a b : Nat) : Statement (.scacc w d a b) := by
  intro wf word hv
  refine of_fields wf ?_
  replace wf : (decide (w < 8) && decide (d < 128) && decide (a < 128) && decide (b < 128) && laneWidth 32 w) = true := wf
  simp only [Bool.and_eq_true, decide_eq_true_eq] at wf
  obtain ⟨h28, h24, f0, f1, f2, f3⟩ := fields_21_14_7_0 7 7 (w) (d) (a) (b) (by omega) word (((Option.some.inj hv).symm : word = 0x77000000 + w * 2097152 + d * 16384 + a * 128 + b).trans (by clear hv wf; omega))
  simp only [decodeFields, decodeRow7, h28, h24, f0, f1, f2, f3]

theorem Laws.RoundTrip.aadd (d a b : Nat) : Statement (.aadd d a b) := by
  intro wf word hv
  refine of_fields wf ?_
  replace wf : (decide (d < 32) && decide (a < 32) && decide (b < 32)) = true := wf
  simp only [Bool.and_eq_true, decide_eq_true_eq] at wf
  obtain ⟨h28, h24, f0, f1, f2, f3⟩ := fields_19_14_9_0 8 0 (d) (a) (b) (0) (by omega) word (((Option.some.inj hv).symm : word = 0x80000000 + d * 524288 + a * 16384 + b * 512).trans (by clear hv wf; omega))
  simp only [decodeFields, decodeRow8, h28, h24, f0, f1, f2, f3]
  first | rfl | simp

theorem Laws.RoundTrip.asub (d a b : Nat) : Statement (.asub d a b) := by
  intro wf word hv
  refine of_fields wf ?_
  replace wf : (decide (d < 32) && decide (a < 32) && decide (b < 32)) = true := wf
  simp only [Bool.and_eq_true, decide_eq_true_eq] at wf
  obtain ⟨h28, h24, f0, f1, f2, f3⟩ := fields_19_14_9_0 8 1 (d) (a) (b) (0) (by omega) word (((Option.some.inj hv).symm : word = 0x81000000 + d * 524288 + a * 16384 + b * 512).trans (by clear hv wf; omega))
  simp only [decodeFields, decodeRow8, h28, h24, f0, f1, f2, f3]
  first | rfl | simp

theorem Laws.RoundTrip.aaddi (d a i : Nat) : Statement (.aaddi d a i) := by
  intro wf word hv
  refine of_fields wf ?_
  replace wf : (decide (d < 32) && decide (a < 32) && decide (i < 16384)) = true := wf
  simp only [Bool.and_eq_true, decide_eq_true_eq] at wf
  obtain ⟨h28, h24, f0, f1, f2⟩ := fields_19_14_0 8 2 (d) (a) (i) (by omega) word (((Option.some.inj hv).symm : word = 0x82000000 + d * 524288 + a * 16384 + i).trans (by clear hv wf; omega))
  simp only [decodeFields, decodeRow8, h28, h24, f0, f1, f2]

theorem Laws.RoundTrip.amul (d a b : Nat) : Statement (.amul d a b) := by
  intro wf word hv
  refine of_fields wf ?_
  replace wf : (decide (d < 32) && decide (a < 32) && decide (b < 32)) = true := wf
  simp only [Bool.and_eq_true, decide_eq_true_eq] at wf
  obtain ⟨h28, h24, f0, f1, f2, f3⟩ := fields_19_14_9_0 8 3 (d) (a) (b) (0) (by omega) word (((Option.some.inj hv).symm : word = 0x83000000 + d * 524288 + a * 16384 + b * 512).trans (by clear hv wf; omega))
  simp only [decodeFields, decodeRow8, h28, h24, f0, f1, f2, f3]
  first | rfl | simp

theorem Laws.RoundTrip.aand (d a b : Nat) : Statement (.aand d a b) := by
  intro wf word hv
  refine of_fields wf ?_
  replace wf : (decide (d < 32) && decide (a < 32) && decide (b < 32)) = true := wf
  simp only [Bool.and_eq_true, decide_eq_true_eq] at wf
  obtain ⟨h28, h24, f0, f1, f2, f3⟩ := fields_19_14_9_0 8 4 (d) (a) (b) (0) (by omega) word (((Option.some.inj hv).symm : word = 0x84000000 + d * 524288 + a * 16384 + b * 512).trans (by clear hv wf; omega))
  simp only [decodeFields, decodeRow8, h28, h24, f0, f1, f2, f3]
  first | rfl | simp

theorem Laws.RoundTrip.aor (d a b : Nat) : Statement (.aor d a b) := by
  intro wf word hv
  refine of_fields wf ?_
  replace wf : (decide (d < 32) && decide (a < 32) && decide (b < 32)) = true := wf
  simp only [Bool.and_eq_true, decide_eq_true_eq] at wf
  obtain ⟨h28, h24, f0, f1, f2, f3⟩ := fields_19_14_9_0 8 5 (d) (a) (b) (0) (by omega) word (((Option.some.inj hv).symm : word = 0x85000000 + d * 524288 + a * 16384 + b * 512).trans (by clear hv wf; omega))
  simp only [decodeFields, decodeRow8, h28, h24, f0, f1, f2, f3]
  first | rfl | simp

theorem Laws.RoundTrip.axor (d a b : Nat) : Statement (.axor d a b) := by
  intro wf word hv
  refine of_fields wf ?_
  replace wf : (decide (d < 32) && decide (a < 32) && decide (b < 32)) = true := wf
  simp only [Bool.and_eq_true, decide_eq_true_eq] at wf
  obtain ⟨h28, h24, f0, f1, f2, f3⟩ := fields_19_14_9_0 8 6 (d) (a) (b) (0) (by omega) word (((Option.some.inj hv).symm : word = 0x86000000 + d * 524288 + a * 16384 + b * 512).trans (by clear hv wf; omega))
  simp only [decodeFields, decodeRow8, h28, h24, f0, f1, f2, f3]
  first | rfl | simp

theorem Laws.RoundTrip.ashli (d a i : Nat) : Statement (.ashli d a i) := by
  intro wf word hv
  refine of_fields wf ?_
  replace wf : (decide (d < 32) && decide (a < 32) && decide (i < 16384) && decide (i < 64)) = true := wf
  simp only [Bool.and_eq_true, decide_eq_true_eq] at wf
  obtain ⟨h28, h24, f0, f1, f2⟩ := fields_19_14_0 8 7 (d) (a) (i) (by omega) word (((Option.some.inj hv).symm : word = 0x87000000 + d * 524288 + a * 16384 + i).trans (by clear hv wf; omega))
  simp only [decodeFields, decodeRow8, h28, h24, f0, f1, f2]

theorem Laws.RoundTrip.ashri (d a i : Nat) : Statement (.ashri d a i) := by
  intro wf word hv
  refine of_fields wf ?_
  replace wf : (decide (d < 32) && decide (a < 32) && decide (i < 16384) && decide (i < 64)) = true := wf
  simp only [Bool.and_eq_true, decide_eq_true_eq] at wf
  obtain ⟨h28, h24, f0, f1, f2⟩ := fields_19_14_0 8 8 (d) (a) (i) (by omega) word (((Option.some.inj hv).symm : word = 0x88000000 + d * 524288 + a * 16384 + i).trans (by clear hv wf; omega))
  simp only [decodeFields, decodeRow8, h28, h24, f0, f1, f2]

theorem Laws.RoundTrip.asari (d a i : Nat) : Statement (.asari d a i) := by
  intro wf word hv
  refine of_fields wf ?_
  replace wf : (decide (d < 32) && decide (a < 32) && decide (i < 16384) && decide (i < 64)) = true := wf
  simp only [Bool.and_eq_true, decide_eq_true_eq] at wf
  obtain ⟨h28, h24, f0, f1, f2⟩ := fields_19_14_0 8 9 (d) (a) (i) (by omega) word (((Option.some.inj hv).symm : word = 0x89000000 + d * 524288 + a * 16384 + i).trans (by clear hv wf; omega))
  simp only [decodeFields, decodeRow8, h28, h24, f0, f1, f2]

theorem Laws.RoundTrip.aslt (d a b : Nat) : Statement (.aslt d a b) := by
  intro wf word hv
  refine of_fields wf ?_
  replace wf : (decide (d < 32) && decide (a < 32) && decide (b < 32)) = true := wf
  simp only [Bool.and_eq_true, decide_eq_true_eq] at wf
  obtain ⟨h28, h24, f0, f1, f2, f3⟩ := fields_19_14_9_0 8 10 (d) (a) (b) (0) (by omega) word (((Option.some.inj hv).symm : word = 0x8A000000 + d * 524288 + a * 16384 + b * 512).trans (by clear hv wf; omega))
  simp only [decodeFields, decodeRow8, h28, h24, f0, f1, f2, f3]
  first | rfl | simp

theorem Laws.RoundTrip.asltu (d a b : Nat) : Statement (.asltu d a b) := by
  intro wf word hv
  refine of_fields wf ?_
  replace wf : (decide (d < 32) && decide (a < 32) && decide (b < 32)) = true := wf
  simp only [Bool.and_eq_true, decide_eq_true_eq] at wf
  obtain ⟨h28, h24, f0, f1, f2, f3⟩ := fields_19_14_9_0 8 11 (d) (a) (b) (0) (by omega) word (((Option.some.inj hv).symm : word = 0x8B000000 + d * 524288 + a * 16384 + b * 512).trans (by clear hv wf; omega))
  simp only [decodeFields, decodeRow8, h28, h24, f0, f1, f2, f3]
  first | rfl | simp

theorem Laws.RoundTrip.amovi (d i : Nat) : Statement (.amovi d i) := by
  intro wf word hv
  refine of_fields wf ?_
  replace wf : (decide (d < 32) && decide (i < 16384)) = true := wf
  simp only [Bool.and_eq_true, decide_eq_true_eq] at wf
  obtain ⟨h28, h24, f0, f1, f2⟩ := fields_19_14_0 8 12 (d) (0) (i) (by omega) word (((Option.some.inj hv).symm : word = 0x8C000000 + d * 524288 + i).trans (by clear hv wf; omega))
  simp only [decodeFields, decodeRow8, h28, h24, f0, f1, f2]
  first | rfl | simp

theorem Laws.RoundTrip.aupi (d i : Nat) : Statement (.aupi d i) := by
  intro wf word hv
  refine of_fields wf ?_
  replace wf : (decide (d < 32) && decide (i < 16384)) = true := wf
  simp only [Bool.and_eq_true, decide_eq_true_eq] at wf
  obtain ⟨h28, h24, f0, f1, f2⟩ := fields_19_14_0 8 13 (d) (0) (i) (by omega) word (((Option.some.inj hv).symm : word = 0x8D000000 + d * 524288 + i).trans (by clear hv wf; omega))
  simp only [decodeFields, decodeRow8, h28, h24, f0, f1, f2]
  first | rfl | simp

theorem Laws.RoundTrip.amov (d a : Nat) : Statement (.amov d a) := by
  intro wf word hv
  refine of_fields wf ?_
  replace wf : (decide (d < 32) && decide (a < 32)) = true := wf
  simp only [Bool.and_eq_true, decide_eq_true_eq] at wf
  obtain ⟨h28, h24, f0, f1, f2⟩ := fields_19_14_0 8 14 (d) (a) (0) (by omega) word (((Option.some.inj hv).symm : word = 0x8E000000 + d * 524288 + a * 16384).trans (by clear hv wf; omega))
  simp only [decodeFields, decodeRow8, h28, h24, f0, f1, f2]
  first | rfl | simp

theorem Laws.RoundTrip.apushq (q a : Nat) : Statement (.apushq q a) := by
  intro wf word hv
  refine of_fields wf ?_
  replace wf : (decide (q < 32) && decide (a < 32) && decide (q ≤ 1)) = true := wf
  simp only [Bool.and_eq_true, decide_eq_true_eq] at wf
  obtain ⟨h28, h24, f0, f1, f2⟩ := fields_19_14_0 8 15 (q) (a) (0) (by omega) word (((Option.some.inj hv).symm : word = 0x8F000000 + q * 524288 + a * 16384).trans (by clear hv wf; omega))
  simp only [decodeFields, decodeRow8, h28, h24, f0, f1, f2]
  first | rfl | simp

theorem Laws.RoundTrip.apopq (d : Nat) : Statement (.apopq d) := by
  intro wf word hv
  refine of_fields wf ?_
  replace wf : (decide (d < 32)) = true := wf
  simp only [decide_eq_true_eq] at wf
  obtain ⟨h28, h24, f0, f1⟩ := fields_19_0 9 0 (d) (0) (by omega) word (((Option.some.inj hv).symm : word = 0x90000000 + d * 524288).trans (by clear hv wf; omega))
  simp only [decodeFields, decodeRow9, h28, h24, f0, f1]
  first | rfl | simp

theorem Laws.RoundTrip.cbase (d a b : Nat) : Statement (.cbase d a b) := by
  intro wf word hv
  refine of_fields wf ?_
  replace wf : (decide (d < 32) && decide (a < 32) && decide (b < 32)) = true := wf
  simp only [Bool.and_eq_true, decide_eq_true_eq] at wf
  obtain ⟨h28, h24, f0, f1, f2, f3⟩ := fields_19_14_9_0 9 1 (d) (a) (b) (0) (by omega) word (((Option.some.inj hv).symm : word = 0x91000000 + d * 524288 + a * 16384 + b * 512).trans (by clear hv wf; omega))
  simp only [decodeFields, decodeRow9, h28, h24, f0, f1, f2, f3]
  first | rfl | simp

theorem Laws.RoundTrip.clen (d a b : Nat) : Statement (.clen d a b) := by
  intro wf word hv
  refine of_fields wf ?_
  replace wf : (decide (d < 32) && decide (a < 32) && decide (b < 32)) = true := wf
  simp only [Bool.and_eq_true, decide_eq_true_eq] at wf
  obtain ⟨h28, h24, f0, f1, f2, f3⟩ := fields_19_14_9_0 9 2 (d) (a) (b) (0) (by omega) word (((Option.some.inj hv).symm : word = 0x92000000 + d * 524288 + a * 16384 + b * 512).trans (by clear hv wf; omega))
  simp only [decodeFields, decodeRow9, h28, h24, f0, f1, f2, f3]
  first | rfl | simp

theorem Laws.RoundTrip.cperm (d a b : Nat) : Statement (.cperm d a b) := by
  intro wf word hv
  refine of_fields wf ?_
  replace wf : (decide (d < 32) && decide (a < 32) && decide (b < 32)) = true := wf
  simp only [Bool.and_eq_true, decide_eq_true_eq] at wf
  obtain ⟨h28, h24, f0, f1, f2, f3⟩ := fields_19_14_9_0 9 3 (d) (a) (b) (0) (by omega) word (((Option.some.inj hv).symm : word = 0x93000000 + d * 524288 + a * 16384 + b * 512).trans (by clear hv wf; omega))
  simp only [decodeFields, decodeRow9, h28, h24, f0, f1, f2, f3]
  first | rfl | simp

theorem Laws.RoundTrip.cget (d a f : Nat) : Statement (.cget d a f) := by
  intro wf word hv
  refine of_fields wf ?_
  replace wf : (decide (d < 32) && decide (a < 32) && decide (f < 512) && decide (f ≤ 4)) = true := wf
  simp only [Bool.and_eq_true, decide_eq_true_eq] at wf
  obtain ⟨h28, h24, f0, f1, f2, f3⟩ := fields_19_14_9_0 9 4 (d) (a) (0) (f) (by omega) word (((Option.some.inj hv).symm : word = 0x94000000 + d * 524288 + a * 16384 + f).trans (by clear hv wf; omega))
  simp only [decodeFields, decodeRow9, h28, h24, f0, f1, f2, f3]
  first | rfl | simp

theorem Laws.RoundTrip.cclr (d a : Nat) : Statement (.cclr d a) := by
  intro wf word hv
  refine of_fields wf ?_
  replace wf : (decide (d < 32) && decide (a < 32)) = true := wf
  simp only [Bool.and_eq_true, decide_eq_true_eq] at wf
  obtain ⟨h28, h24, f0, f1, f2⟩ := fields_19_14_0 9 5 (d) (a) (0) (by omega) word (((Option.some.inj hv).symm : word = 0x95000000 + d * 524288 + a * 16384).trans (by clear hv wf; omega))
  simp only [decodeFields, decodeRow9, h28, h24, f0, f1, f2]
  first | rfl | simp

theorem Laws.RoundTrip.ld (q c o z s r p : Nat) : Statement (.ld q c o z s r p) := by
  intro wf word hv
  refine of_fields wf ?_
  replace wf : (decide (q < 32) && decide (c < 32) && decide (o < 32) && decide (z < 8) && decide (s < 2) && decide (r < 4) && decide (p < 8) && decide (q ≤ 1) && sizeSign z s && ordScope r p) = true := wf
  simp only [Bool.and_eq_true, decide_eq_true_eq] at wf
  obtain ⟨h28, h24, f0, f1, f2, f3, f4, f5, f6⟩ := fields_19_14_9_6_5_3_0 9 6 (q) (c) (o) (z) (s) (r) (p) (by omega) word (((Option.some.inj hv).symm : word = 0x96000000 + q * 524288 + c * 16384 + o * 512 + z * 64 + s * 32 + r * 8 + p).trans (by clear hv wf; omega))
  simp only [decodeFields, decodeRow9, h28, h24, f0, f1, f2, f3, f4, f5, f6]

theorem Laws.RoundTrip.ldx (q c o z s r p : Nat) : Statement (.ldx q c o z s r p) := by
  intro wf word hv
  refine of_fields wf ?_
  replace wf : (decide (q < 32) && decide (c < 32) && decide (o < 32) && decide (z < 8) && decide (s < 2) && decide (r < 4) && decide (p < 8) && decide (q ≤ 1) && sizeSign z s && ordScope r p) = true := wf
  simp only [Bool.and_eq_true, decide_eq_true_eq] at wf
  obtain ⟨h28, h24, f0, f1, f2, f3, f4, f5, f6⟩ := fields_19_14_9_6_5_3_0 9 7 (q) (c) (o) (z) (s) (r) (p) (by omega) word (((Option.some.inj hv).symm : word = 0x97000000 + q * 524288 + c * 16384 + o * 512 + z * 64 + s * 32 + r * 8 + p).trans (by clear hv wf; omega))
  simp only [decodeFields, decodeRow9, h28, h24, f0, f1, f2, f3, f4, f5, f6]

theorem Laws.RoundTrip.lda (d c o z s r p : Nat) : Statement (.lda d c o z s r p) := by
  intro wf word hv
  refine of_fields wf ?_
  replace wf : (decide (d < 32) && decide (c < 32) && decide (o < 32) && decide (z < 8) && decide (s < 2) && decide (r < 4) && decide (p < 8) && sizeSign z s && ordScope r p) = true := wf
  simp only [Bool.and_eq_true, decide_eq_true_eq] at wf
  obtain ⟨h28, h24, f0, f1, f2, f3, f4, f5, f6⟩ := fields_19_14_9_6_5_3_0 9 8 (d) (c) (o) (z) (s) (r) (p) (by omega) word (((Option.some.inj hv).symm : word = 0x98000000 + d * 524288 + c * 16384 + o * 512 + z * 64 + s * 32 + r * 8 + p).trans (by clear hv wf; omega))
  simp only [decodeFields, decodeRow9, h28, h24, f0, f1, f2, f3, f4, f5, f6]

theorem Laws.RoundTrip.ldc (d c o r p : Nat) : Statement (.ldc d c o r p) := by
  intro wf word hv
  refine of_fields wf ?_
  replace wf : (decide (d < 32) && decide (c < 32) && decide (o < 32) && decide (r < 4) && decide (p < 8) && decide (r ≤ 1) && ordScope r p) = true := wf
  simp only [Bool.and_eq_true, decide_eq_true_eq] at wf
  obtain ⟨h28, h24, f0, f1, f2, f3, f4, f5⟩ := fields_19_14_9_5_3_0 9 9 (d) (c) (o) (8) (r) (p) (by omega) word (((Option.some.inj hv).symm : word = 0x99000100 + d * 524288 + c * 16384 + o * 512 + r * 8 + p).trans (by clear hv wf; omega))
  simp only [decodeFields, decodeRow9, h28, h24, f0, f1, f2, f3, f4, f5]
  first | rfl | simp

theorem Laws.RoundTrip.ldnib (q c o z s : Nat) : Statement (.ldnib q c o z s) := by
  intro wf word hv
  refine of_fields wf ?_
  replace wf : (decide (q < 32) && decide (c < 32) && decide (o < 32) && decide (z < 8) && decide (s < 2) && decide (q ≤ 1) && sizeSign z s) = true := wf
  simp only [Bool.and_eq_true, decide_eq_true_eq] at wf
  obtain ⟨h28, h24, f0, f1, f2, f3, f4, f5⟩ := fields_19_14_9_6_5_0 9 10 (q) (c) (o) (z) (s) (0) (by omega) word (((Option.some.inj hv).symm : word = 0x9A000000 + q * 524288 + c * 16384 + o * 512 + z * 64 + s * 32).trans (by clear hv wf; omega))
  simp only [decodeFields, decodeRow9, h28, h24, f0, f1, f2, f3, f4, f5]
  first | rfl | simp

theorem Laws.RoundTrip.st (c o z r p : Nat) : Statement (.st c o z r p) := by
  intro wf word hv
  refine of_fields wf ?_
  replace wf : (decide (c < 32) && decide (o < 32) && decide (z < 8) && decide (r < 4) && decide (p < 8) && decide (z ≤ 4) && ordScope r p) = true := wf
  simp only [Bool.and_eq_true, decide_eq_true_eq] at wf
  obtain ⟨h28, h24, f0, f1, f2, f3, f4, f5, f6⟩ := fields_19_14_9_6_5_3_0 9 11 (0) (c) (o) (z) (0) (r) (p) (by omega) word (((Option.some.inj hv).symm : word = 0x9B000000 + c * 16384 + o * 512 + z * 64 + r * 8 + p).trans (by clear hv wf; omega))
  simp only [decodeFields, decodeRow9, h28, h24, f0, f1, f2, f3, f4, f5, f6]
  first | rfl | simp

theorem Laws.RoundTrip.stm (m c o r p : Nat) : Statement (.stm m c o r p) := by
  intro wf word hv
  refine of_fields wf ?_
  replace wf : (decide (m < 32) && decide (c < 32) && decide (o < 32) && decide (r < 4) && decide (p < 8) && ordScope r p) = true := wf
  simp only [Bool.and_eq_true, decide_eq_true_eq] at wf
  obtain ⟨h28, h24, f0, f1, f2, f3, f4, f5⟩ := fields_19_14_9_5_3_0 9 12 (m) (c) (o) (8) (r) (p) (by omega) word (((Option.some.inj hv).symm : word = 0x9C000100 + m * 524288 + c * 16384 + o * 512 + r * 8 + p).trans (by clear hv wf; omega))
  simp only [decodeFields, decodeRow9, h28, h24, f0, f1, f2, f3, f4, f5]
  first | rfl | simp

theorem Laws.RoundTrip.stx (c o z r p : Nat) : Statement (.stx c o z r p) := by
  intro wf word hv
  refine of_fields wf ?_
  replace wf : (decide (c < 32) && decide (o < 32) && decide (z < 8) && decide (r < 4) && decide (p < 8) && decide (z ≤ 4) && ordScope r p) = true := wf
  simp only [Bool.and_eq_true, decide_eq_true_eq] at wf
  obtain ⟨h28, h24, f0, f1, f2, f3, f4, f5, f6⟩ := fields_19_14_9_6_5_3_0 9 13 (0) (c) (o) (z) (0) (r) (p) (by omega) word (((Option.some.inj hv).symm : word = 0x9D000000 + c * 16384 + o * 512 + z * 64 + r * 8 + p).trans (by clear hv wf; omega))
  simp only [decodeFields, decodeRow9, h28, h24, f0, f1, f2, f3, f4, f5, f6]
  first | rfl | simp

theorem Laws.RoundTrip.sta (d c o z r p : Nat) : Statement (.sta d c o z r p) := by
  intro wf word hv
  refine of_fields wf ?_
  replace wf : (decide (d < 32) && decide (c < 32) && decide (o < 32) && decide (z < 8) && decide (r < 4) && decide (p < 8) && decide (z ≤ 4) && ordScope r p) = true := wf
  simp only [Bool.and_eq_true, decide_eq_true_eq] at wf
  obtain ⟨h28, h24, f0, f1, f2, f3, f4, f5, f6⟩ := fields_19_14_9_6_5_3_0 9 14 (d) (c) (o) (z) (0) (r) (p) (by omega) word (((Option.some.inj hv).symm : word = 0x9E000000 + d * 524288 + c * 16384 + o * 512 + z * 64 + r * 8 + p).trans (by clear hv wf; omega))
  simp only [decodeFields, decodeRow9, h28, h24, f0, f1, f2, f3, f4, f5, f6]
  first | rfl | simp

theorem Laws.RoundTrip.stc (d c o r p : Nat) : Statement (.stc d c o r p) := by
  intro wf word hv
  refine of_fields wf ?_
  replace wf : (decide (d < 32) && decide (c < 32) && decide (o < 32) && decide (r < 4) && decide (p < 8) && decide (r ≤ 1) && ordScope r p) = true := wf
  simp only [Bool.and_eq_true, decide_eq_true_eq] at wf
  obtain ⟨h28, h24, f0, f1, f2, f3, f4, f5⟩ := fields_19_14_9_5_3_0 9 15 (d) (c) (o) (8) (r) (p) (by omega) word (((Option.some.inj hv).symm : word = 0x9F000100 + d * 524288 + c * 16384 + o * 512 + r * 8 + p).trans (by clear hv wf; omega))
  simp only [decodeFields, decodeRow9, h28, h24, f0, f1, f2, f3, f4, f5]
  first | rfl | simp

theorem Laws.RoundTrip.stnib (c o z : Nat) : Statement (.stnib c o z) := by
  intro wf word hv
  refine of_fields wf ?_
  replace wf : (decide (c < 32) && decide (o < 32) && decide (z < 8) && decide (z ≤ 4)) = true := wf
  simp only [Bool.and_eq_true, decide_eq_true_eq] at wf
  obtain ⟨h28, h24, f0, f1, f2, f3, f4⟩ := fields_19_14_9_6_0 10 0 (0) (c) (o) (z) (0) (by omega) word (((Option.some.inj hv).symm : word = 0xA0000000 + c * 16384 + o * 512 + z * 64).trans (by clear hv wf; omega))
  simp only [decodeFields, decodeRowA, h28, h24, f0, f1, f2, f3, f4]
  first | rfl | simp

theorem Laws.RoundTrip.amo (d a b f z o p : Nat) : Statement (.amo d a b f z o p) := by
  intro wf word hv
  refine of_fields wf ?_
  replace wf : (decide (d < 32) && decide (a < 32) && decide (b < 32) && decide (f < 16) && decide (z < 2) && decide (o < 2) && decide (p < 8) && decide (f ≤ 8) && amoOrd o p) = true := wf
  simp only [Bool.and_eq_true, decide_eq_true_eq] at wf
  obtain ⟨h28, h24, f0, f1, f2, f3, f4, f5, f6⟩ := fields_19_14_9_5_4_3_0 10 1 (d) (a) (b) (f) (z) (o) (p) (by omega) word (((Option.some.inj hv).symm : word = 0xA1000000 + d * 524288 + a * 16384 + b * 512 + f * 32 + z * 16 + o * 8 + p).trans (by clear hv wf; omega))
  simp only [decodeFields, decodeRowA, h28, h24, f0, f1, f2, f3, f4, f5, f6]

theorem Laws.RoundTrip.amocas (d a b z o p : Nat) : Statement (.amocas d a b z o p) := by
  intro wf word hv
  refine of_fields wf ?_
  replace wf : (decide (d < 16) && decide (a < 32) && decide (b < 32) && decide (z < 2) && decide (o < 2) && decide (p < 8) && amoOrd o p) = true := wf
  simp only [Bool.and_eq_true, decide_eq_true_eq] at wf
  obtain ⟨h28, h24, f0, f1, f2, f3, f4, f5, f6, f7⟩ := fields_20_19_14_9_5_4_3_0 10 2 (d) (0) (a) (b) (0) (z) (o) (p) (by omega) word (((Option.some.inj hv).symm : word = 0xA2000000 + d * 1048576 + a * 16384 + b * 512 + z * 16 + o * 8 + p).trans (by clear hv wf; omega))
  simp only [decodeFields, decodeRowA, h28, h24, f0, f1, f2, f3, f4, f5, f6, f7]
  first | rfl | simp

theorem Laws.RoundTrip.fenceAcq (p : Nat) : Statement (.fenceAcq p) := by
  intro wf word hv
  refine of_fields wf ?_
  replace wf : (decide (p < 8) && decide (p ≤ 5)) = true := wf
  simp only [Bool.and_eq_true, decide_eq_true_eq] at wf
  obtain ⟨h28, h24, f0, f1⟩ := fields_3_0 10 3 (1) (p) (by omega) word (((Option.some.inj hv).symm : word = 0xA3000008 + p).trans (by clear hv wf; omega))
  simp only [decodeFields, decodeRowA, h28, h24, f0, f1]
  first | rfl | simp

theorem Laws.RoundTrip.fenceRel (p : Nat) : Statement (.fenceRel p) := by
  intro wf word hv
  refine of_fields wf ?_
  replace wf : (decide (p < 8) && decide (p ≤ 5)) = true := wf
  simp only [Bool.and_eq_true, decide_eq_true_eq] at wf
  obtain ⟨h28, h24, f0, f1⟩ := fields_3_0 10 3 (9) (p) (by omega) word (((Option.some.inj hv).symm : word = 0xA3000048 + p).trans (by clear hv wf; omega))
  simp only [decodeFields, decodeRowA, h28, h24, f0, f1]
  first | rfl | simp

theorem Laws.RoundTrip.fenceAr (p : Nat) : Statement (.fenceAr p) := by
  intro wf word hv
  refine of_fields wf ?_
  replace wf : (decide (p < 8) && decide (p ≤ 5)) = true := wf
  simp only [Bool.and_eq_true, decide_eq_true_eq] at wf
  obtain ⟨h28, h24, f0, f1⟩ := fields_3_0 10 3 (17) (p) (by omega) word (((Option.some.inj hv).symm : word = 0xA3000088 + p).trans (by clear hv wf; omega))
  simp only [decodeFields, decodeRowA, h28, h24, f0, f1]
  first | rfl | simp

theorem Laws.RoundTrip.xfence (p : Nat) : Statement (.xfence p) := by
  intro wf word hv
  refine of_fields wf ?_
  replace wf : (decide (p < 8) && decide (1 ≤ p) && decide (p ≤ 5)) = true := wf
  simp only [Bool.and_eq_true, decide_eq_true_eq] at wf
  obtain ⟨h28, h24, f0, f1⟩ := fields_3_0 10 4 (1) (p) (by omega) word (((Option.some.inj hv).symm : word = 0xA4000008 + p).trans (by clear hv wf; omega))
  simp only [decodeFields, decodeRowA, h28, h24, f0, f1]
  first | rfl | simp

theorem Laws.RoundTrip.bmov (d a b : Nat) : Statement (.bmov d a b) := by
  intro wf word hv
  refine of_fields wf ?_
  replace wf : (decide (d < 32) && decide (a < 32) && decide (b < 32) && bmovRegs d a b) = true := wf
  simp only [Bool.and_eq_true, decide_eq_true_eq] at wf
  obtain ⟨h28, h24, f0, f1, f2, f3⟩ := fields_19_14_9_0 10 5 (d) (a) (b) (0) (by omega) word (((Option.some.inj hv).symm : word = 0xA5000000 + d * 524288 + a * 16384 + b * 512).trans (by clear hv wf; omega))
  simp only [decodeFields, decodeRowA, h28, h24, f0, f1, f2, f3]
  first | rfl | simp

theorem Laws.RoundTrip.rep (q a b z s t : Nat) : Statement (.rep q a b z s t) := by
  intro wf word hv
  refine of_fields wf ?_
  replace wf : (decide (q < 32) && decide (a < 32) && decide (b < 32) && decide (z < 8) && decide (s < 2) && decide (t < 2) && repFields q a b z s t) = true := wf
  simp only [Bool.and_eq_true, decide_eq_true_eq] at wf
  obtain ⟨h28, h24, f0, f1, f2, f3, f4, f5, f6⟩ := fields_19_14_9_6_5_4_0 10 6 (q) (a) (b) (z) (s) (t) (0) (by omega) word (((Option.some.inj hv).symm : word = 0xA6000000 + q * 524288 + a * 16384 + b * 512 + z * 64 + s * 32 + t * 16).trans (by clear hv wf; omega))
  simp only [decodeFields, decodeRowA, h28, h24, f0, f1, f2, f3, f4, f5, f6]
  first | rfl | simp

theorem Laws.RoundTrip.csrr (d i : Nat) : Statement (.csrr d i) := by
  intro wf word hv
  refine of_fields wf ?_
  replace wf : (decide (d < 32) && decide (i < 16384) && decide (i < 4096)) = true := wf
  simp only [Bool.and_eq_true, decide_eq_true_eq] at wf
  obtain ⟨h28, h24, f0, f1, f2⟩ := fields_19_14_0 10 7 (d) (0) (i) (by omega) word (((Option.some.inj hv).symm : word = 0xA7000000 + d * 524288 + i).trans (by clear hv wf; omega))
  simp only [decodeFields, decodeRowA, h28, h24, f0, f1, f2]
  first | rfl | simp

theorem Laws.RoundTrip.csrw (d a i : Nat) : Statement (.csrw d a i) := by
  intro wf word hv
  refine of_fields wf ?_
  replace wf : (decide (d < 32) && decide (a < 32) && decide (i < 16384) && decide (i < 4096)) = true := wf
  simp only [Bool.and_eq_true, decide_eq_true_eq] at wf
  obtain ⟨h28, h24, f0, f1, f2⟩ := fields_19_14_0 10 8 (d) (a) (i) (by omega) word (((Option.some.inj hv).symm : word = 0xA8000000 + d * 524288 + a * 16384 + i).trans (by clear hv wf; omega))
  simp only [decodeFields, decodeRowA, h28, h24, f0, f1, f2]

theorem Laws.RoundTrip.beq (a b d : Nat) : Statement (.beq a b d) := by
  intro wf word hv
  refine of_fields wf ?_
  replace wf : (decide (a < 32) && decide (b < 32) && decide (d < 16384)) = true := wf
  simp only [Bool.and_eq_true, decide_eq_true_eq] at wf
  obtain ⟨h28, h24, f0, f1, f2⟩ := fields_19_14_0 11 0 (a) (b) (d) (by omega) word (((Option.some.inj hv).symm : word = 0xB0000000 + a * 524288 + b * 16384 + d).trans (by clear hv wf; omega))
  simp only [decodeFields, decodeRowB, h28, h24, f0, f1, f2]

theorem Laws.RoundTrip.bne (a b d : Nat) : Statement (.bne a b d) := by
  intro wf word hv
  refine of_fields wf ?_
  replace wf : (decide (a < 32) && decide (b < 32) && decide (d < 16384)) = true := wf
  simp only [Bool.and_eq_true, decide_eq_true_eq] at wf
  obtain ⟨h28, h24, f0, f1, f2⟩ := fields_19_14_0 11 1 (a) (b) (d) (by omega) word (((Option.some.inj hv).symm : word = 0xB1000000 + a * 524288 + b * 16384 + d).trans (by clear hv wf; omega))
  simp only [decodeFields, decodeRowB, h28, h24, f0, f1, f2]

theorem Laws.RoundTrip.blt (a b d : Nat) : Statement (.blt a b d) := by
  intro wf word hv
  refine of_fields wf ?_
  replace wf : (decide (a < 32) && decide (b < 32) && decide (d < 16384)) = true := wf
  simp only [Bool.and_eq_true, decide_eq_true_eq] at wf
  obtain ⟨h28, h24, f0, f1, f2⟩ := fields_19_14_0 11 2 (a) (b) (d) (by omega) word (((Option.some.inj hv).symm : word = 0xB2000000 + a * 524288 + b * 16384 + d).trans (by clear hv wf; omega))
  simp only [decodeFields, decodeRowB, h28, h24, f0, f1, f2]

theorem Laws.RoundTrip.bge (a b d : Nat) : Statement (.bge a b d) := by
  intro wf word hv
  refine of_fields wf ?_
  replace wf : (decide (a < 32) && decide (b < 32) && decide (d < 16384)) = true := wf
  simp only [Bool.and_eq_true, decide_eq_true_eq] at wf
  obtain ⟨h28, h24, f0, f1, f2⟩ := fields_19_14_0 11 3 (a) (b) (d) (by omega) word (((Option.some.inj hv).symm : word = 0xB3000000 + a * 524288 + b * 16384 + d).trans (by clear hv wf; omega))
  simp only [decodeFields, decodeRowB, h28, h24, f0, f1, f2]

theorem Laws.RoundTrip.bltu (a b d : Nat) : Statement (.bltu a b d) := by
  intro wf word hv
  refine of_fields wf ?_
  replace wf : (decide (a < 32) && decide (b < 32) && decide (d < 16384)) = true := wf
  simp only [Bool.and_eq_true, decide_eq_true_eq] at wf
  obtain ⟨h28, h24, f0, f1, f2⟩ := fields_19_14_0 11 4 (a) (b) (d) (by omega) word (((Option.some.inj hv).symm : word = 0xB4000000 + a * 524288 + b * 16384 + d).trans (by clear hv wf; omega))
  simp only [decodeFields, decodeRowB, h28, h24, f0, f1, f2]

theorem Laws.RoundTrip.bgeu (a b d : Nat) : Statement (.bgeu a b d) := by
  intro wf word hv
  refine of_fields wf ?_
  replace wf : (decide (a < 32) && decide (b < 32) && decide (d < 16384)) = true := wf
  simp only [Bool.and_eq_true, decide_eq_true_eq] at wf
  obtain ⟨h28, h24, f0, f1, f2⟩ := fields_19_14_0 11 5 (a) (b) (d) (by omega) word (((Option.some.inj hv).symm : word = 0xB5000000 + a * 524288 + b * 16384 + d).trans (by clear hv wf; omega))
  simp only [decodeFields, decodeRowB, h28, h24, f0, f1, f2]

theorem Laws.RoundTrip.bxq (d : Nat) : Statement (.bxq d) := by
  intro wf word hv
  refine of_fields wf ?_
  replace wf : (decide (d < 16384)) = true := wf
  simp only [decide_eq_true_eq] at wf
  obtain ⟨h28, h24, f0, f1⟩ := fields_14_0 11 6 (0) (d) (by omega) word (((Option.some.inj hv).symm : word = 0xB6000000 + d).trans (by clear hv wf; omega))
  simp only [decodeFields, decodeRowB, h28, h24, f0, f1]
  first | rfl | simp

theorem Laws.RoundTrip.bxqz (d : Nat) : Statement (.bxqz d) := by
  intro wf word hv
  refine of_fields wf ?_
  replace wf : (decide (d < 16384)) = true := wf
  simp only [decide_eq_true_eq] at wf
  obtain ⟨h28, h24, f0, f1⟩ := fields_14_0 11 7 (0) (d) (by omega) word (((Option.some.inj hv).symm : word = 0xB7000000 + d).trans (by clear hv wf; omega))
  simp only [decodeFields, decodeRowB, h28, h24, f0, f1]
  first | rfl | simp

theorem Laws.RoundTrip.j (t : Nat) : Statement (.j t) := by
  intro wf word hv
  refine of_fields wf ?_
  replace wf : (decide (t < 16384)) = true := wf
  simp only [decide_eq_true_eq] at wf
  obtain ⟨h28, h24, f0, f1⟩ := fields_14_0 11 8 (0) (t) (by omega) word (((Option.some.inj hv).symm : word = 0xB8000000 + t).trans (by clear hv wf; omega))
  simp only [decodeFields, decodeRowB, h28, h24, f0, f1]
  first | rfl | simp

theorem Laws.RoundTrip.call (t : Nat) : Statement (.call t) := by
  intro wf word hv
  refine of_fields wf ?_
  replace wf : (decide (t < 16384)) = true := wf
  simp only [decide_eq_true_eq] at wf
  obtain ⟨h28, h24, f0, f1⟩ := fields_14_0 11 9 (0) (t) (by omega) word (((Option.some.inj hv).symm : word = 0xB9000000 + t).trans (by clear hv wf; omega))
  simp only [decodeFields, decodeRowB, h28, h24, f0, f1]
  first | rfl | simp

theorem Laws.RoundTrip.ret : Statement (.ret) := by
  intro wf word hv
  refine of_fields wf ?_
  obtain ⟨h28, h24, f0⟩ := fields_0 11 10 (0) (by omega) word (((Option.some.inj hv).symm : word = 0xBA000000).trans (by clear hv wf; omega))
  simp only [decodeFields, decodeRowB, h28, h24, f0]
  first | rfl | simp

theorem Laws.RoundTrip.jr (a : Nat) : Statement (.jr a) := by
  intro wf word hv
  refine of_fields wf ?_
  replace wf : (decide (a < 32)) = true := wf
  simp only [decide_eq_true_eq] at wf
  obtain ⟨h28, h24, f0, f1, f2⟩ := fields_19_14_0 11 11 (0) (a) (0) (by omega) word (((Option.some.inj hv).symm : word = 0xBB000000 + a * 16384).trans (by clear hv wf; omega))
  simp only [decodeFields, decodeRowB, h28, h24, f0, f1, f2]
  first | rfl | simp

theorem Laws.RoundTrip.loop (a l : Nat) : Statement (.loop a l) := by
  intro wf word hv
  refine of_fields wf ?_
  replace wf : (decide (a < 32) && decide (l < 4096) && decide (1 ≤ l)) = true := wf
  simp only [Bool.and_eq_true, decide_eq_true_eq] at wf
  obtain ⟨h28, h24, f0, f1, f2⟩ := fields_19_12_0 11 12 (a) (0) (l) (by omega) word (((Option.some.inj hv).symm : word = 0xBC000000 + a * 524288 + l).trans (by clear hv wf; omega))
  simp only [decodeFields, decodeRowB, h28, h24, f0, f1, f2]
  first | rfl | simp

theorem Laws.RoundTrip.endAct : Statement (.endAct) := by
  intro wf word hv
  refine of_fields wf ?_
  obtain ⟨h28, h24, f0⟩ := fields_0 11 13 (0) (by omega) word (((Option.some.inj hv).symm : word = 0xBD000000).trans (by clear hv wf; omega))
  simp only [decodeFields, decodeRowB, h28, h24, f0]
  first | rfl | simp

theorem Laws.RoundTrip.ecall (c : Nat) : Statement (.ecall c) := by
  intro wf word hv
  refine of_fields wf ?_
  replace wf : (decide (c < 16777216)) = true := wf
  simp only [decide_eq_true_eq] at wf
  obtain ⟨h28, h24, f0⟩ := fields_0 11 14 (c) (by omega) word (((Option.some.inj hv).symm : word = 0xBE000000 + c).trans (by clear hv wf; omega))
  simp only [decodeFields, decodeRowB, h28, h24, f0]

theorem Laws.RoundTrip.brk (c : Nat) : Statement (.brk c) := by
  intro wf word hv
  refine of_fields wf ?_
  replace wf : (decide (c < 16777216)) = true := wf
  simp only [decide_eq_true_eq] at wf
  obtain ⟨h28, h24, f0⟩ := fields_0 11 15 (c) (by omega) word (((Option.some.inj hv).symm : word = 0xBF000000 + c).trans (by clear hv wf; omega))
  simp only [decodeFields, decodeRowB, h28, h24, f0]

theorem Laws.RoundTrip.send (a b r h : Nat) : Statement (.send a b r h) := by
  intro wf word hv
  refine of_fields wf ?_
  replace wf : (decide (a < 32) && decide (b < 32) && decide (r < 2) && decide (h < 256) && sendFields r h b) = true := wf
  simp only [Bool.and_eq_true, decide_eq_true_eq] at wf
  obtain ⟨h28, h24, f0, f1, f2, f3, f4⟩ := fields_19_14_9_8_0 12 0 (0) (a) (b) (r) (h) (by omega) word (((Option.some.inj hv).symm : word = 0xC0000000 + a * 16384 + b * 512 + r * 256 + h).trans (by clear hv wf; omega))
  simp only [decodeFields, decodeRowC, h28, h24, f0, f1, f2, f3, f4]
  first | rfl | simp

theorem Laws.RoundTrip.sende (a b p : Nat) : Statement (.sende a b p) := by
  intro wf word hv
  refine of_fields wf ?_
  replace wf : (decide (a < 32) && decide (b < 32) && decide (p < 2) && decide (p = 1 ∨ b = 0)) = true := wf
  simp only [Bool.and_eq_true, decide_eq_true_eq] at wf
  obtain ⟨h28, h24, f0, f1, f2, f3, f4⟩ := fields_19_14_9_1_0 12 1 (0) (a) (b) (0) (p) (by omega) word (((Option.some.inj hv).symm : word = 0xC1000000 + a * 16384 + b * 512 + p).trans (by clear hv wf; omega))
  simp only [decodeFields, decodeRowC, h28, h24, f0, f1, f2, f3, f4]
  first | rfl | simp

theorem Laws.RoundTrip.reply (a : Nat) : Statement (.reply a) := by
  intro wf word hv
  refine of_fields wf ?_
  replace wf : (decide (a < 32)) = true := wf
  simp only [decide_eq_true_eq] at wf
  obtain ⟨h28, h24, f0, f1, f2⟩ := fields_19_14_0 12 2 (0) (a) (0) (by omega) word (((Option.some.inj hv).symm : word = 0xC2000000 + a * 16384).trans (by clear hv wf; omega))
  simp only [decodeFields, decodeRowC, h28, h24, f0, f1, f2]
  first | rfl | simp

theorem Laws.RoundTrip.jarrive (a b p : Nat) : Statement (.jarrive a b p) := by
  intro wf word hv
  refine of_fields wf ?_
  replace wf : (decide (a < 32) && decide (b < 32) && decide (p < 8) && decide (p ≤ 5)) = true := wf
  simp only [Bool.and_eq_true, decide_eq_true_eq] at wf
  obtain ⟨h28, h24, f0, f1, f2, f3, f4⟩ := fields_19_14_9_3_0 12 3 (0) (a) (b) (0) (p) (by omega) word (((Option.some.inj hv).symm : word = 0xC3000000 + a * 16384 + b * 512 + p).trans (by clear hv wf; omega))
  simp only [decodeFields, decodeRowC, h28, h24, f0, f1, f2, f3, f4]
  first | rfl | simp

theorem Laws.RoundTrip.gang (n : Nat) : Statement (.gang n) := by
  intro wf word hv
  refine of_fields wf ?_
  replace wf : (decide (n < 16384) && (decide (n = 2) || decide (n = 4) || decide (n = 8))) = true := wf
  simp only [Bool.and_eq_true, decide_eq_true_eq] at wf
  obtain ⟨h28, h24, f0, f1⟩ := fields_14_0 12 4 (0) (n) (by omega) word (((Option.some.inj hv).symm : word = 0xC4000000 + n).trans (by clear hv wf; omega))
  simp only [decodeFields, decodeRowC, h28, h24, f0, f1]
  first | rfl | simp

theorem Laws.RoundTrip.disband : Statement (.disband) := by
  intro wf word hv
  refine of_fields wf ?_
  obtain ⟨h28, h24, f0⟩ := fields_0 12 5 (0) (by omega) word (((Option.some.inj hv).symm : word = 0xC5000000).trans (by clear hv wf; omega))
  simp only [decodeFields, decodeRowC, h28, h24, f0]
  first | rfl | simp

theorem Laws.RoundTrip.stacq (d a b r : Nat) : Statement (.stacq d a b r) := by
  intro wf word hv
  refine of_fields wf ?_
  replace wf : (decide (d < 32) && decide (a < 32) && decide (b < 32) && decide (r < 2)) = true := wf
  simp only [Bool.and_eq_true, decide_eq_true_eq] at wf
  obtain ⟨h28, h24, f0, f1, f2, f3, f4⟩ := fields_19_14_9_1_0 12 6 (d) (a) (b) (0) (r) (by omega) word (((Option.some.inj hv).symm : word = 0xC6000000 + d * 524288 + a * 16384 + b * 512 + r).trans (by clear hv wf; omega))
  simp only [decodeFields, decodeRowC, h28, h24, f0, f1, f2, f3, f4]
  first | rfl | simp

theorem Laws.RoundTrip.strel (d a b : Nat) : Statement (.strel d a b) := by
  intro wf word hv
  refine of_fields wf ?_
  replace wf : (decide (d < 32) && decide (a < 32) && decide (b < 32)) = true := wf
  simp only [Bool.and_eq_true, decide_eq_true_eq] at wf
  obtain ⟨h28, h24, f0, f1, f2, f3⟩ := fields_19_14_9_0 12 7 (d) (a) (b) (0) (by omega) word (((Option.some.inj hv).symm : word = 0xC7000000 + d * 524288 + a * 16384 + b * 512).trans (by clear hv wf; omega))
  simp only [decodeFields, decodeRowC, h28, h24, f0, f1, f2, f3]
  first | rfl | simp

theorem Laws.RoundTrip.dqpush (a b : Nat) : Statement (.dqpush a b) := by
  intro wf word hv
  refine of_fields wf ?_
  replace wf : (decide (a < 32) && decide (b < 32)) = true := wf
  simp only [Bool.and_eq_true, decide_eq_true_eq] at wf
  obtain ⟨h28, h24, f0, f1, f2, f3⟩ := fields_19_14_9_0 12 8 (0) (a) (b) (0) (by omega) word (((Option.some.inj hv).symm : word = 0xC8000000 + a * 16384 + b * 512).trans (by clear hv wf; omega))
  simp only [decodeFields, decodeRowC, h28, h24, f0, f1, f2, f3]
  first | rfl | simp

theorem Laws.RoundTrip.dqpop (d : Nat) : Statement (.dqpop d) := by
  intro wf word hv
  refine of_fields wf ?_
  replace wf : (decide (d < 16) && decide (1 ≤ d)) = true := wf
  simp only [Bool.and_eq_true, decide_eq_true_eq] at wf
  obtain ⟨h28, h24, f0, f1⟩ := fields_20_0 12 9 (d) (0) (by omega) word (((Option.some.inj hv).symm : word = 0xC9000000 + d * 1048576).trans (by clear hv wf; omega))
  simp only [decodeFields, decodeRowC, h28, h24, f0, f1]
  first | rfl | simp

theorem Laws.RoundTrip.dqsplit : Statement (.dqsplit) := by
  intro wf word hv
  refine of_fields wf ?_
  obtain ⟨h28, h24, f0⟩ := fields_0 12 10 (0) (by omega) word (((Option.some.inj hv).symm : word = 0xCA000000).trans (by clear hv wf; omega))
  simp only [decodeFields, decodeRowC, h28, h24, f0]
  first | rfl | simp

theorem Laws.RoundTrip.dqsteal (d a : Nat) : Statement (.dqsteal d a) := by
  intro wf word hv
  refine of_fields wf ?_
  replace wf : (decide (d < 16) && decide (a < 32) && decide (1 ≤ d)) = true := wf
  simp only [Bool.and_eq_true, decide_eq_true_eq] at wf
  obtain ⟨h28, h24, f0, f1, f2, f3⟩ := fields_20_19_14_0 12 11 (d) (0) (a) (0) (by omega) word (((Option.some.inj hv).symm : word = 0xCB000000 + d * 1048576 + a * 16384).trans (by clear hv wf; omega))
  simp only [decodeFields, decodeRowC, h28, h24, f0, f1, f2, f3]
  first | rfl | simp

theorem Laws.RoundTrip.tlwait (a x : Nat) : Statement (.tlwait a x) := by
  intro wf word hv
  refine of_fields wf ?_
  replace wf : (decide (a < 32) && decide (x < 256)) = true := wf
  simp only [Bool.and_eq_true, decide_eq_true_eq] at wf
  obtain ⟨h28, h24, f0, f1, f2, f3⟩ := fields_19_14_8_0 12 12 (0) (a) (0) (x) (by omega) word (((Option.some.inj hv).symm : word = 0xCC000000 + a * 16384 + x).trans (by clear hv wf; omega))
  simp only [decodeFields, decodeRowC, h28, h24, f0, f1, f2, f3]
  first | rfl | simp

theorem Laws.RoundTrip.tlread (d s x : Nat) : Statement (.tlread d s x) := by
  intro wf word hv
  refine of_fields wf ?_
  replace wf : (decide (d < 32) && decide (s < 2) && decide (x < 256)) = true := wf
  simp only [Bool.and_eq_true, decide_eq_true_eq] at wf
  obtain ⟨h28, h24, f0, f1, f2, f3⟩ := fields_19_9_8_0 12 13 (d) (0) (s) (x) (by omega) word (((Option.some.inj hv).symm : word = 0xCD000000 + d * 524288 + s * 256 + x).trans (by clear hv wf; omega))
  simp only [decodeFields, decodeRowC, h28, h24, f0, f1, f2, f3]
  first | rfl | simp

theorem Laws.RoundTrip.evsig (p l : Nat) : Statement (.evsig p l) := by
  intro wf word hv
  refine of_fields wf ?_
  replace wf : (decide (p < 8) && decide (l < 32) && decide (p ≤ 5)) = true := wf
  simp only [Bool.and_eq_true, decide_eq_true_eq] at wf
  obtain ⟨h28, h24, f0, f1, f2⟩ := fields_8_5_0 12 14 (0) (p) (l) (by omega) word (((Option.some.inj hv).symm : word = 0xCE000000 + p * 32 + l).trans (by clear hv wf; omega))
  simp only [decodeFields, decodeRowC, h28, h24, f0, f1, f2]
  first | rfl | simp

theorem Laws.RoundTrip.eret : Statement (.eret) := by
  intro wf word hv
  refine of_fields wf ?_
  obtain ⟨h28, h24, f0⟩ := fields_0 12 15 (0) (by omega) word (((Option.some.inj hv).symm : word = 0xCF000000).trans (by clear hv wf; omega))
  simp only [decodeFields, decodeRowC, h28, h24, f0]
  first | rfl | simp

theorem Laws.RoundTrip.eretEnd : Statement (.eretEnd) := by
  intro wf word hv
  refine of_fields wf ?_
  obtain ⟨h28, h24, f0⟩ := fields_0 12 15 (1) (by omega) word (((Option.some.inj hv).symm : word = 0xCF000001).trans (by clear hv wf; omega))
  simp only [decodeFields, decodeRowC, h28, h24, f0]
  first | rfl | simp

theorem Laws.RoundTrip.wfi : Statement (.wfi) := by
  intro wf word hv
  refine of_fields wf ?_
  obtain ⟨h28, h24, f0⟩ := fields_0 15 13 (0) (by omega) word (((Option.some.inj hv).symm : word = 0xFD000000).trans (by clear hv wf; omega))
  simp only [decodeFields, decodeRowF, h28, h24, f0]
  first | rfl | simp

theorem Laws.RoundTrip.nop : Statement (.nop) := by
  intro wf word hv
  refine of_fields wf ?_
  obtain ⟨h28, h24, f0⟩ := fields_0 15 12 (0) (by omega) word (((Option.some.inj hv).symm : word = 0xFC000000).trans (by clear hv wf; omega))
  simp only [decodeFields, decodeRowF, h28, h24, f0]
  first | rfl | simp

theorem Laws.RoundTrip.himm (v : Nat) : Statement (.himm v) := by
  intro wf word hv
  refine of_fields wf ?_
  replace wf : (decide (v < 16777216)) = true := wf
  simp only [decide_eq_true_eq] at wf
  obtain ⟨h28, h24, f0⟩ := fields_0 15 8 (v) (by omega) word (((Option.some.inj hv).symm : word = 0xF8000000 + v).trans (by clear hv wf; omega))
  simp only [decodeFields, decodeRowF, h28, h24, f0]

theorem Laws.RoundTrip.hwid (a b s t : Nat) : Statement (.hwid a b s t) := by
  intro wf word hv
  refine of_fields wf ?_
  replace wf : (decide (a < 8) && decide (b < 8) && decide (s < 2) && decide (t < 2)) = true := wf
  simp only [Bool.and_eq_true, decide_eq_true_eq] at wf
  obtain ⟨h28, h24, f0, f1, f2, f3, f4⟩ := fields_21_18_17_16_0 15 9 (a) (b) (s) (t) (0) (by omega) word (((Option.some.inj hv).symm : word = 0xF9000000 + a * 2097152 + b * 262144 + s * 131072 + t * 65536).trans (by clear hv wf; omega))
  simp only [decodeFields, decodeRowF, h28, h24, f0, f1, f2, f3, f4]
  first | rfl | simp

theorem Laws.RoundTrip.hmod (m s : Nat) : Statement (.hmod m s) := by
  intro wf word hv
  refine of_fields wf ?_
  replace wf : (decide (m < 8) && decide (s < 2) && decide (m ≤ 5)) = true := wf
  simp only [Bool.and_eq_true, decide_eq_true_eq] at wf
  obtain ⟨h28, h24, f0, f1, f2⟩ := fields_21_20_0 15 10 (m) (s) (0) (by omega) word (((Option.some.inj hv).symm : word = 0xFA000000 + m * 2097152 + s * 1048576).trans (by clear hv wf; omega))
  simp only [decodeFields, decodeRowF, h28, h24, f0, f1, f2]
  first | rfl | simp

theorem Laws.RoundTrip.hyld : Statement (.hyld) := by
  intro wf word hv
  refine of_fields wf ?_
  obtain ⟨h28, h24, f0⟩ := fields_0 15 11 (0) (by omega) word (((Option.some.inj hv).symm : word = 0xFB000000).trans (by clear hv wf; omega))
  simp only [decodeFields, decodeRowF, h28, h24, f0]
  first | rfl | simp

theorem Laws.RoundTrip.macq (a k : Nat) : Statement (.macq a k) := by
  intro wf word hv
  refine of_fields wf ?_
  replace wf : (decide (a < 32) && decide (k < 4)) = true := wf
  simp only [Bool.and_eq_true, decide_eq_true_eq] at wf
  obtain ⟨h28, h24, f0, f1, f2, f3⟩ := fields_19_14_2_0 13 0 (0) (a) (0) (k) (by omega) word (((Option.some.inj hv).symm : word = 0xD0000000 + a * 16384 + k).trans (by clear hv wf; omega))
  simp only [decodeFields, decodeRowD, h28, h24, f0, f1, f2, f3]
  first | rfl | simp

theorem Laws.RoundTrip.mrel (a k : Nat) : Statement (.mrel a k) := by
  intro wf word hv
  refine of_fields wf ?_
  replace wf : (decide (a < 32) && decide (k < 4)) = true := wf
  simp only [Bool.and_eq_true, decide_eq_true_eq] at wf
  obtain ⟨h28, h24, f0, f1, f2, f3⟩ := fields_19_14_2_0 13 1 (0) (a) (0) (k) (by omega) word (((Option.some.inj hv).symm : word = 0xD1000000 + a * 16384 + k).trans (by clear hv wf; omega))
  simp only [decodeFields, decodeRowD, h28, h24, f0, f1, f2, f3]
  first | rfl | simp

theorem Laws.RoundTrip.mrelRes (a k : Nat) : Statement (.mrelRes a k) := by
  intro wf word hv
  refine of_fields wf ?_
  replace wf : (decide (a < 32) && decide (k < 4)) = true := wf
  simp only [Bool.and_eq_true, decide_eq_true_eq] at wf
  obtain ⟨h28, h24, f0, f1, f2, f3⟩ := fields_19_14_2_0 13 1 (0) (a) (2) (k) (by omega) word (((Option.some.inj hv).symm : word = 0xD1000008 + a * 16384 + k).trans (by clear hv wf; omega))
  simp only [decodeFields, decodeRowD, h28, h24, f0, f1, f2, f3]
  first | rfl | simp

theorem Laws.RoundTrip.mrelAbn (a k : Nat) : Statement (.mrelAbn a k) := by
  intro wf word hv
  refine of_fields wf ?_
  replace wf : (decide (a < 32) && decide (k < 4)) = true := wf
  simp only [Bool.and_eq_true, decide_eq_true_eq] at wf
  obtain ⟨h28, h24, f0, f1, f2, f3⟩ := fields_19_14_2_0 13 1 (0) (a) (4) (k) (by omega) word (((Option.some.inj hv).symm : word = 0xD1000010 + a * 16384 + k).trans (by clear hv wf; omega))
  simp only [decodeFields, decodeRowD, h28, h24, f0, f1, f2, f3]
  first | rfl | simp

theorem Laws.RoundTrip.mldb (d a b m k : Nat) : Statement (.mldb d a b m k) := by
  intro wf word hv
  refine of_fields wf ?_
  replace wf : (decide (d < 32) && decide (a < 32) && decide (b < 32) && decide (m < 2) && decide (k < 4) && decide (1 ≤ b) && decide (b ≤ 30)) = true := wf
  simp only [Bool.and_eq_true, decide_eq_true_eq] at wf
  obtain ⟨h28, h24, f0, f1, f2, f3, f4, f5⟩ := fields_19_14_9_3_2_0 13 2 (d) (a) (b) (0) (m) (k) (by omega) word (((Option.some.inj hv).symm : word = 0xD2000000 + d * 524288 + a * 16384 + b * 512 + m * 4 + k).trans (by clear hv wf; omega))
  simp only [decodeFields, decodeRowD, h28, h24, f0, f1, f2, f3, f4, f5]
  first | rfl | simp

theorem Laws.RoundTrip.mspec (d a b m k : Nat) : Statement (.mspec d a b m k) := by
  intro wf word hv
  refine of_fields wf ?_
  replace wf : (decide (d < 32) && decide (a < 32) && decide (b < 32) && decide (m < 2) && decide (k < 4) && decide (1 ≤ b) && decide (b ≤ 30)) = true := wf
  simp only [Bool.and_eq_true, decide_eq_true_eq] at wf
  obtain ⟨h28, h24, f0, f1, f2, f3, f4, f5⟩ := fields_19_14_9_3_2_0 13 3 (d) (a) (b) (0) (m) (k) (by omega) word (((Option.some.inj hv).symm : word = 0xD3000000 + d * 524288 + a * 16384 + b * 512 + m * 4 + k).trans (by clear hv wf; omega))
  simp only [decodeFields, decodeRowD, h28, h24, f0, f1, f2, f3, f4, f5]
  first | rfl | simp

theorem Laws.RoundTrip.mzero (d a m k : Nat) : Statement (.mzero d a m k) := by
  intro wf word hv
  refine of_fields wf ?_
  replace wf : (decide (d < 32) && decide (a < 32) && decide (m < 2) && decide (k < 4)) = true := wf
  simp only [Bool.and_eq_true, decide_eq_true_eq] at wf
  obtain ⟨h28, h24, f0, f1, f2, f3, f4⟩ := fields_19_14_3_2_0 13 4 (d) (a) (0) (m) (k) (by omega) word (((Option.some.inj hv).symm : word = 0xD4000000 + d * 524288 + a * 16384 + m * 4 + k).trans (by clear hv wf; omega))
  simp only [decodeFields, decodeRowD, h28, h24, f0, f1, f2, f3, f4]
  first | rfl | simp

theorem Laws.RoundTrip.mma (d a b m k : Nat) : Statement (.mma d a b m k) := by
  intro wf word hv
  refine of_fields wf ?_
  replace wf : (decide (d < 32) && decide (a < 32) && decide (b < 32) && decide (m < 2) && decide (k < 4) && decide (1 ≤ b) && decide (b ≤ 29)) = true := wf
  simp only [Bool.and_eq_true, decide_eq_true_eq] at wf
  obtain ⟨h28, h24, f0, f1, f2, f3, f4, f5⟩ := fields_19_14_9_3_2_0 13 5 (d) (a) (b) (0) (m) (k) (by omega) word (((Option.some.inj hv).symm : word = 0xD5000000 + d * 524288 + a * 16384 + b * 512 + m * 4 + k).trans (by clear hv wf; omega))
  simp only [decodeFields, decodeRowD, h28, h24, f0, f1, f2, f3, f4, f5]
  first | rfl | simp

theorem Laws.RoundTrip.lnscfg (k : Nat) : Statement (.lnscfg k) := by
  intro wf word hv
  refine of_fields wf ?_
  replace wf : (decide (k < 4)) = true := wf
  simp only [decide_eq_true_eq] at wf
  obtain ⟨h28, h24, f0, f1⟩ := fields_2_0 13 6 (0) (k) (by omega) word (((Option.some.inj hv).symm : word = 0xD6000000 + k).trans (by clear hv wf; omega))
  simp only [decodeFields, decodeRowD, h28, h24, f0, f1]
  first | rfl | simp

theorem Laws.RoundTrip.mmas (d a b m k : Nat) : Statement (.mmas d a b m k) := by
  intro wf word hv
  refine of_fields wf ?_
  replace wf : (decide (d < 32) && decide (a < 32) && decide (b < 32) && decide (m < 2) && decide (k < 4) && decide (1 ≤ b) && decide (b ≤ 29)) = true := wf
  simp only [Bool.and_eq_true, decide_eq_true_eq] at wf
  obtain ⟨h28, h24, f0, f1, f2, f3, f4, f5⟩ := fields_19_14_9_3_2_0 13 7 (d) (a) (b) (0) (m) (k) (by omega) word (((Option.some.inj hv).symm : word = 0xD7000000 + d * 524288 + a * 16384 + b * 512 + m * 4 + k).trans (by clear hv wf; omega))
  simp only [decodeFields, decodeRowD, h28, h24, f0, f1, f2, f3, f4, f5]
  first | rfl | simp

theorem Laws.RoundTrip.mrd (q a k : Nat) : Statement (.mrd q a k) := by
  intro wf word hv
  refine of_fields wf ?_
  replace wf : (decide (q < 32) && decide (a < 32) && decide (k < 4) && decide (q ≤ 1)) = true := wf
  simp only [Bool.and_eq_true, decide_eq_true_eq] at wf
  obtain ⟨h28, h24, f0, f1, f2, f3⟩ := fields_19_14_2_0 13 8 (q) (a) (0) (k) (by omega) word (((Option.some.inj hv).symm : word = 0xD8000000 + q * 524288 + a * 16384 + k).trans (by clear hv wf; omega))
  simp only [decodeFields, decodeRowD, h28, h24, f0, f1, f2, f3]
  first | rfl | simp

theorem Laws.RoundTrip.mrdFlg (q a k : Nat) : Statement (.mrdFlg q a k) := by
  intro wf word hv
  refine of_fields wf ?_
  replace wf : (decide (q < 32) && decide (a < 32) && decide (k < 4) && decide (q ≤ 1)) = true := wf
  simp only [Bool.and_eq_true, decide_eq_true_eq] at wf
  obtain ⟨h28, h24, f0, f1, f2, f3⟩ := fields_19_14_2_0 13 8 (q) (a) (2) (k) (by omega) word (((Option.some.inj hv).symm : word = 0xD8000008 + q * 524288 + a * 16384 + k).trans (by clear hv wf; omega))
  simp only [decodeFields, decodeRowD, h28, h24, f0, f1, f2, f3]
  first | rfl | simp

theorem Laws.RoundTrip.mcopy (d a b m k : Nat) : Statement (.mcopy d a b m k) := by
  intro wf word hv
  refine of_fields wf ?_
  replace wf : (decide (d < 32) && decide (a < 32) && decide (b < 32) && decide (m < 2) && decide (k < 4) && decide (1 ≤ b) && decide (b ≤ 30)) = true := wf
  simp only [Bool.and_eq_true, decide_eq_true_eq] at wf
  obtain ⟨h28, h24, f0, f1, f2, f3, f4, f5⟩ := fields_19_14_9_3_2_0 13 9 (d) (a) (b) (0) (m) (k) (by omega) word (((Option.some.inj hv).symm : word = 0xD9000000 + d * 524288 + a * 16384 + b * 512 + m * 4 + k).trans (by clear hv wf; omega))
  simp only [decodeFields, decodeRowD, h28, h24, f0, f1, f2, f3, f4, f5]
  first | rfl | simp

theorem Laws.RoundTrip.chbond (a r k : Nat) : Statement (.chbond a r k) := by
  intro wf word hv
  refine of_fields wf ?_
  replace wf : (decide (a < 32) && decide (r < 16) && decide (k < 4)) = true := wf
  simp only [Bool.and_eq_true, decide_eq_true_eq] at wf
  obtain ⟨h28, h24, f0, f1, f2, f3, f4⟩ := fields_19_14_6_2_0 14 0 (0) (a) (0) (r) (k) (by omega) word (((Option.some.inj hv).symm : word = 0xE0000000 + a * 16384 + r * 4 + k).trans (by clear hv wf; omega))
  simp only [decodeFields, decodeRowE, h28, h24, f0, f1, f2, f3, f4]
  first | rfl | simp

theorem Laws.RoundTrip.chprog (a b k : Nat) : Statement (.chprog a b k) := by
  intro wf word hv
  refine of_fields wf ?_
  replace wf : (decide (a < 32) && decide (b < 32) && decide (k < 4)) = true := wf
  simp only [Bool.and_eq_true, decide_eq_true_eq] at wf
  obtain ⟨h28, h24, f0, f1, f2, f3, f4⟩ := fields_19_14_9_2_0 14 1 (0) (a) (b) (0) (k) (by omega) word (((Option.some.inj hv).symm : word = 0xE1000000 + a * 16384 + b * 512 + k).trans (by clear hv wf; omega))
  simp only [decodeFields, decodeRowE, h28, h24, f0, f1, f2, f3, f4]
  first | rfl | simp

theorem Laws.RoundTrip.chprogKeep (a b k : Nat) : Statement (.chprogKeep a b k) := by
  intro wf word hv
  refine of_fields wf ?_
  replace wf : (decide (a = 0) && decide (b < 32) && decide (k < 4)) = true := wf
  simp only [Bool.and_eq_true, decide_eq_true_eq] at wf
  obtain ⟨h28, h24, f0, f1, f2, f3, f4⟩ := fields_19_14_9_2_0 14 1 (0) (a) (b) (1) (k) (by omega) word (((Option.some.inj hv).symm : word = 0xE1000004 + a * 16384 + b * 512 + k).trans (by clear hv wf; omega))
  simp only [decodeFields, decodeRowE, h28, h24, f0, f1, f2, f3, f4]
  first | rfl | simp

theorem Laws.RoundTrip.chrunStart (d m k : Nat) : Statement (.chrunStart d m k) := by
  intro wf word hv
  refine of_fields wf ?_
  replace wf : (decide (d < 32) && decide (m < 2) && decide (k < 4)) = true := wf
  simp only [Bool.and_eq_true, decide_eq_true_eq] at wf
  obtain ⟨h28, h24, f0, f1, f2, f3, f4⟩ := fields_19_5_4_2_0 14 2 (d) (0) (m) (0) (k) (by omega) word (((Option.some.inj hv).symm : word = 0xE2000000 + d * 524288 + m * 16 + k).trans (by clear hv wf; omega))
  simp only [decodeFields, decodeRowE, h28, h24, f0, f1, f2, f3, f4]
  first | rfl | simp

theorem Laws.RoundTrip.chrunResume (a k : Nat) : Statement (.chrunResume a k) := by
  intro wf word hv
  refine of_fields wf ?_
  replace wf : (decide (a < 32) && decide (k < 4)) = true := wf
  simp only [Bool.and_eq_true, decide_eq_true_eq] at wf
  obtain ⟨h28, h24, f0, f1, f2, f3⟩ := fields_19_14_2_0 14 2 (0) (a) (1) (k) (by omega) word (((Option.some.inj hv).symm : word = 0xE2000004 + a * 16384 + k).trans (by clear hv wf; omega))
  have g0 : fld word 5 14 = a * 512 := by cases hv; unfold fld; omega
  have g1 : fld word 4 1 = 0 := by cases hv; unfold fld; omega
  have g2 : fld word 2 2 = 1 := by cases hv; unfold fld; omega
  simp only [decodeFields, decodeRowE, h28, h24, f0, f1, f2, f3, g0, g1, g2]
  first | rfl | simp

theorem Laws.RoundTrip.chrunAbn (a k : Nat) : Statement (.chrunAbn a k) := by
  intro wf word hv
  refine of_fields wf ?_
  replace wf : (decide (a < 32) && decide (k < 4)) = true := wf
  simp only [Bool.and_eq_true, decide_eq_true_eq] at wf
  obtain ⟨h28, h24, f0, f1, f2, f3⟩ := fields_19_14_2_0 14 2 (0) (a) (2) (k) (by omega) word (((Option.some.inj hv).symm : word = 0xE2000008 + a * 16384 + k).trans (by clear hv wf; omega))
  have g0 : fld word 5 14 = a * 512 := by cases hv; unfold fld; omega
  have g1 : fld word 4 1 = 0 := by cases hv; unfold fld; omega
  have g2 : fld word 2 2 = 2 := by cases hv; unfold fld; omega
  simp only [decodeFields, decodeRowE, h28, h24, f0, f1, f2, f3, g0, g1, g2]
  first | rfl | simp

theorem Laws.RoundTrip.chstat (d s k : Nat) : Statement (.chstat d s k) := by
  intro wf word hv
  refine of_fields wf ?_
  replace wf : (decide (d < 32) && decide (s < 16) && decide (k < 4) && decide (s ≤ 10)) = true := wf
  simp only [Bool.and_eq_true, decide_eq_true_eq] at wf
  obtain ⟨h28, h24, f0, f1, f2, f3⟩ := fields_19_6_2_0 14 3 (d) (0) (s) (k) (by omega) word (((Option.some.inj hv).symm : word = 0xE3000000 + d * 524288 + s * 4 + k).trans (by clear hv wf; omega))
  simp only [decodeFields, decodeRowE, h28, h24, f0, f1, f2, f3]
  first | rfl | simp

theorem Laws.RoundTrip.chgrad (a b k : Nat) : Statement (.chgrad a b k) := by
  intro wf word hv
  refine of_fields wf ?_
  replace wf : (decide (a < 32) && decide (b < 32) && decide (k < 4)) = true := wf
  simp only [Bool.and_eq_true, decide_eq_true_eq] at wf
  obtain ⟨h28, h24, f0, f1, f2, f3, f4⟩ := fields_19_14_9_2_0 14 4 (0) (a) (b) (0) (k) (by omega) word (((Option.some.inj hv).symm : word = 0xE4000000 + a * 16384 + b * 512 + k).trans (by clear hv wf; omega))
  simp only [decodeFields, decodeRowE, h28, h24, f0, f1, f2, f3, f4]
  first | rfl | simp

theorem Laws.RoundTrip.grset (a b k : Nat) : Statement (.grset a b k) := by
  intro wf word hv
  refine of_fields wf ?_
  replace wf : (decide (a < 32) && decide (b < 32) && decide (k < 4)) = true := wf
  simp only [Bool.and_eq_true, decide_eq_true_eq] at wf
  obtain ⟨h28, h24, f0, f1, f2, f3, f4⟩ := fields_19_14_9_2_0 14 8 (0) (a) (b) (0) (k) (by omega) word (((Option.some.inj hv).symm : word = 0xE8000000 + a * 16384 + b * 512 + k).trans (by clear hv wf; omega))
  simp only [decodeFields, decodeRowE, h28, h24, f0, f1, f2, f3, f4]
  first | rfl | simp

theorem Laws.RoundTrip.grred (d a b o m k : Nat) : Statement (.grred d a b o m k) := by
  intro wf word hv
  refine of_fields wf ?_
  replace wf : (decide (d < 32) && decide (a < 32) && decide (b < 32) && decide (o < 64) && decide (m < 2) && decide (k < 4) && redOp o) = true := wf
  simp only [Bool.and_eq_true, decide_eq_true_eq] at wf
  obtain ⟨h28, h24, f0, f1, f2, f3, f4, f5⟩ := fields_19_14_9_3_2_0 14 9 (d) (a) (b) (o) (m) (k) (by omega) word (((Option.some.inj hv).symm : word = 0xE9000000 + d * 524288 + a * 16384 + b * 512 + o * 8 + m * 4 + k).trans (by clear hv wf; omega))
  simp only [decodeFields, decodeRowE, h28, h24, f0, f1, f2, f3, f4, f5]

theorem Laws.RoundTrip.grscan (d a b o m k : Nat) : Statement (.grscan d a b o m k) := by
  intro wf word hv
  refine of_fields wf ?_
  replace wf : (decide (d < 32) && decide (a < 32) && decide (b < 32) && decide (o < 32) && decide (m < 2) && decide (k < 4) && decide (o ≤ 12)) = true := wf
  simp only [Bool.and_eq_true, decide_eq_true_eq] at wf
  obtain ⟨h28, h24, f0, f1, f2, f3, f4, f5, f6⟩ := fields_19_14_9_4_3_2_0 14 10 (d) (a) (b) (o) (0) (m) (k) (by omega) word (((Option.some.inj hv).symm : word = 0xEA000000 + d * 524288 + a * 16384 + b * 512 + o * 16 + m * 4 + k).trans (by clear hv wf; omega))
  simp only [decodeFields, decodeRowE, h28, h24, f0, f1, f2, f3, f4, f5, f6]
  first | rfl | simp

theorem Laws.RoundTrip.grscanX (d a b o m k : Nat) : Statement (.grscanX d a b o m k) := by
  intro wf word hv
  refine of_fields wf ?_
  replace wf : (decide (d < 32) && decide (a < 32) && decide (b < 32) && decide (o < 32) && decide (m < 2) && decide (k < 4) && decide (o ≤ 12) && decide (1 ≤ b) && decide (b ≤ 30)) = true := wf
  simp only [Bool.and_eq_true, decide_eq_true_eq] at wf
  obtain ⟨h28, h24, f0, f1, f2, f3, f4, f5, f6⟩ := fields_19_14_9_4_3_2_0 14 10 (d) (a) (b) (o) (1) (m) (k) (by omega) word (((Option.some.inj hv).symm : word = 0xEA000008 + d * 524288 + a * 16384 + b * 512 + o * 16 + m * 4 + k).trans (by clear hv wf; omega))
  simp only [decodeFields, decodeRowE, h28, h24, f0, f1, f2, f3, f4, f5, f6]
  first | rfl | simp

theorem Laws.RoundTrip.grmv (d a b m k : Nat) : Statement (.grmv d a b m k) := by
  intro wf word hv
  refine of_fields wf ?_
  replace wf : (decide (d < 32) && decide (a < 32) && decide (b < 32) && decide (m < 2) && decide (k < 4) && decide (1 ≤ b) && decide (b ≤ 29)) = true := wf
  simp only [Bool.and_eq_true, decide_eq_true_eq] at wf
  obtain ⟨h28, h24, f0, f1, f2, f3, f4, f5⟩ := fields_19_14_9_3_2_0 14 11 (d) (a) (b) (0) (m) (k) (by omega) word (((Option.some.inj hv).symm : word = 0xEB000000 + d * 524288 + a * 16384 + b * 512 + m * 4 + k).trans (by clear hv wf; omega))
  simp only [decodeFields, decodeRowE, h28, h24, f0, f1, f2, f3, f4, f5]
  first | rfl | simp

theorem Laws.RoundTrip.grat (d a b o m k : Nat) : Statement (.grat d a b o m k) := by
  intro wf word hv
  refine of_fields wf ?_
  replace wf : (decide (d < 32) && decide (a < 32) && decide (b < 32) && decide (o < 32) && decide (m < 2) && decide (k < 4) && decide (o ≤ 12) && decide (1 ≤ b) && decide (b ≤ 30)) = true := wf
  simp only [Bool.and_eq_true, decide_eq_true_eq] at wf
  obtain ⟨h28, h24, f0, f1, f2, f3, f4, f5, f6⟩ := fields_19_14_9_4_3_2_0 14 12 (d) (a) (b) (o) (0) (m) (k) (by omega) word (((Option.some.inj hv).symm : word = 0xEC000000 + d * 524288 + a * 16384 + b * 512 + o * 16 + m * 4 + k).trans (by clear hv wf; omega))
  simp only [decodeFields, decodeRowE, h28, h24, f0, f1, f2, f3, f4, f5, f6]
  first | rfl | simp

theorem Laws.RoundTrip.grstat (d s k : Nat) : Statement (.grstat d s k) := by
  intro wf word hv
  refine of_fields wf ?_
  replace wf : (decide (d < 32) && decide (s < 16) && decide (k < 4) && decide (s ≤ 10)) = true := wf
  simp only [Bool.and_eq_true, decide_eq_true_eq] at wf
  obtain ⟨h28, h24, f0, f1, f2, f3⟩ := fields_19_6_2_0 14 13 (d) (0) (s) (k) (by omega) word (((Option.some.inj hv).symm : word = 0xED000000 + d * 524288 + s * 4 + k).trans (by clear hv wf; omega))
  simp only [decodeFields, decodeRowE, h28, h24, f0, f1, f2, f3]
  first | rfl | simp

theorem Laws.RoundTrip.grstatRes (a k : Nat) : Statement (.grstatRes a k) := by
  intro wf word hv
  refine of_fields wf ?_
  replace wf : (decide (a < 32) && decide (k < 4)) = true := wf
  simp only [Bool.and_eq_true, decide_eq_true_eq] at wf
  obtain ⟨h28, h24, f0, f1, f2, f3⟩ := fields_19_14_2_0 14 13 (0) (a) (16) (k) (by omega) word (((Option.some.inj hv).symm : word = 0xED000040 + a * 16384 + k).trans (by clear hv wf; omega))
  have g0 : fld word 6 13 = 1 + a * 256 := by cases hv; unfold fld; omega
  have g1 : fld word 2 4 = 0 := by cases hv; unfold fld; omega
  simp only [decodeFields, decodeRowE, h28, h24, f0, f1, f2, f3, g0, g1]
  first | rfl | simp

theorem Laws.RoundTrip.grstatAbn (a k : Nat) : Statement (.grstatAbn a k) := by
  intro wf word hv
  refine of_fields wf ?_
  replace wf : (decide (a < 32) && decide (k < 4)) = true := wf
  simp only [Bool.and_eq_true, decide_eq_true_eq] at wf
  obtain ⟨h28, h24, f0, f1, f2, f3⟩ := fields_19_14_2_0 14 13 (0) (a) (32) (k) (by omega) word (((Option.some.inj hv).symm : word = 0xED000080 + a * 16384 + k).trans (by clear hv wf; omega))
  have g0 : fld word 6 13 = 2 + a * 256 := by cases hv; unfold fld; omega
  have g1 : fld word 2 4 = 0 := by cases hv; unfold fld; omega
  simp only [decodeFields, decodeRowE, h28, h24, f0, f1, f2, f3, g0, g1]
  first | rfl | simp

theorem Laws.RoundTrip.cpy (d a b m c : Nat) : Statement (.cpy d a b m c) := by
  intro wf word hv
  refine of_fields wf ?_
  replace wf : (decide (d < 32) && decide (a < 32) && decide (b < 32) && decide (m < 2) && decide (c < 8)) = true := wf
  simp only [Bool.and_eq_true, decide_eq_true_eq] at wf
  obtain ⟨h28, h24, f0, f1, f2, f3, f4, f5⟩ := fields_19_14_9_4_3_0 15 0 (d) (a) (b) (0) (m) (c) (by omega) word (((Option.some.inj hv).symm : word = 0xF0000000 + d * 524288 + a * 16384 + b * 512 + m * 8 + c).trans (by clear hv wf; omega))
  simp only [decodeFields, decodeRowF, h28, h24, f0, f1, f2, f3, f4, f5]
  first | rfl | simp

theorem Laws.RoundTrip.cpywp (d a c : Nat) : Statement (.cpywp d a c) := by
  intro wf word hv
  refine of_fields wf ?_
  replace wf : (decide (d < 32) && decide (a < 32) && decide (c < 8)) = true := wf
  simp only [Bool.and_eq_true, decide_eq_true_eq] at wf
  obtain ⟨h28, h24, f0, f1, f2, f3⟩ := fields_19_14_3_0 15 1 (d) (a) (0) (c) (by omega) word (((Option.some.inj hv).symm : word = 0xF1000000 + d * 524288 + a * 16384 + c).trans (by clear hv wf; omega))
  simp only [decodeFields, decodeRowF, h28, h24, f0, f1, f2, f3]
  first | rfl | simp

theorem Laws.RoundTrip.cpychkCheck (d a b c : Nat) : Statement (.cpychkCheck d a b c) := by
  intro wf word hv
  refine of_fields wf ?_
  replace wf : (decide (d < 32) && decide (a < 32) && decide (b < 32) && decide (c < 8)) = true := wf
  simp only [Bool.and_eq_true, decide_eq_true_eq] at wf
  obtain ⟨h28, h24, f0, f1, f2, f3, f4⟩ := fields_19_14_9_3_0 15 2 (d) (a) (b) (0) (c) (by omega) word (((Option.some.inj hv).symm : word = 0xF2000000 + d * 524288 + a * 16384 + b * 512 + c).trans (by clear hv wf; omega))
  simp only [decodeFields, decodeRowF, h28, h24, f0, f1, f2, f3, f4]
  first | rfl | simp

theorem Laws.RoundTrip.cpychkRes (a c : Nat) : Statement (.cpychkRes a c) := by
  intro wf word hv
  refine of_fields wf ?_
  replace wf : (decide (a < 32) && decide (c < 8)) = true := wf
  simp only [Bool.and_eq_true, decide_eq_true_eq] at wf
  obtain ⟨h28, h24, f0, f1, f2, f3⟩ := fields_19_14_3_0 15 2 (0) (a) (1) (c) (by omega) word (((Option.some.inj hv).symm : word = 0xF2000008 + a * 16384 + c).trans (by clear hv wf; omega))
  have g0 : fld word 9 5 = 0 := by cases hv; unfold fld; omega
  have g1 : fld word 3 6 = 1 := by cases hv; unfold fld; omega
  simp only [decodeFields, decodeRowF, h28, h24, f0, f1, f2, f3, g0, g1]
  first | rfl | simp

theorem Laws.RoundTrip.cpychkAbn (a c : Nat) : Statement (.cpychkAbn a c) := by
  intro wf word hv
  refine of_fields wf ?_
  replace wf : (decide (a < 32) && decide (c < 8)) = true := wf
  simp only [Bool.and_eq_true, decide_eq_true_eq] at wf
  obtain ⟨h28, h24, f0, f1, f2, f3⟩ := fields_19_14_3_0 15 2 (0) (a) (2) (c) (by omega) word (((Option.some.inj hv).symm : word = 0xF2000010 + a * 16384 + c).trans (by clear hv wf; omega))
  have g0 : fld word 9 5 = 0 := by cases hv; unfold fld; omega
  have g1 : fld word 3 6 = 2 := by cases hv; unfold fld; omega
  simp only [decodeFields, decodeRowF, h28, h24, f0, f1, f2, f3, g0, g1]
  first | rfl | simp

theorem Laws.RoundTrip.illegalInstruction x0 : Statement (.illegalInstruction x0) := fun _ _ h => nomatch h

theorem Laws.RoundTrip.fetch x0 x1 : Statement (.fetch x0 x1) := fun _ _ h => nomatch h

theorem Laws.RoundTrip.xResultLand x0 x1 x2 : Statement (.xResultLand x0 x1 x2) := fun _ _ h => nomatch h

theorem Laws.RoundTrip.queueStarved x0 x1 x2 : Statement (.queueStarved x0 x1 x2) := fun _ _ h => nomatch h

theorem Laws.RoundTrip.loadDataReturn x0 : Statement (.loadDataReturn x0) := fun _ _ h => nomatch h

theorem Laws.RoundTrip.storeAck x0 : Statement (.storeAck x0) := fun _ _ h => nomatch h

theorem Laws.RoundTrip.homePerform x0 : Statement (.homePerform x0) := fun _ _ h => nomatch h

theorem Laws.RoundTrip.caeCheckIn x0 : Statement (.caeCheckIn x0) := fun _ _ h => nomatch h

theorem Laws.RoundTrip.stageGrant x0 : Statement (.stageGrant x0) := fun _ _ h => nomatch h

theorem Laws.RoundTrip.sidingStealServe x0 : Statement (.sidingStealServe x0) := fun _ _ h => nomatch h

theorem Laws.RoundTrip.lateAccessFault x0 : Statement (.lateAccessFault x0) := fun _ _ h => nomatch h

theorem Laws.RoundTrip.translationWalkDone x0 x1 : Statement (.translationWalkDone x0 x1) := fun _ _ h => nomatch h

theorem Laws.RoundTrip.wcBufferTimeout x0 x1 : Statement (.wcBufferTimeout x0 x1) := fun _ _ h => nomatch h

theorem Laws.RoundTrip.messageArrival x0 : Statement (.messageArrival x0) := fun _ _ h => nomatch h

theorem Laws.RoundTrip.outboundDepart x0 : Statement (.outboundDepart x0) := fun _ _ h => nomatch h

theorem Laws.RoundTrip.admission x0 : Statement (.admission x0) := fun _ _ h => nomatch h

theorem Laws.RoundTrip.copyOut x0 x1 : Statement (.copyOut x0 x1) := fun _ _ h => nomatch h

theorem Laws.RoundTrip.activationRestore x0 : Statement (.activationRestore x0) := fun _ _ h => nomatch h

theorem Laws.RoundTrip.activationPark x0 x1 : Statement (.activationPark x0 x1) := fun _ _ h => nomatch h

theorem Laws.RoundTrip.trapActivationStart x0 : Statement (.trapActivationStart x0) := fun _ _ h => nomatch h

theorem Laws.RoundTrip.engineCommandArrival x0 : Statement (.engineCommandArrival x0) := fun _ _ h => nomatch h

theorem Laws.RoundTrip.copyOpBegin x0 x1 : Statement (.copyOpBegin x0 x1) := fun _ _ h => nomatch h

theorem Laws.RoundTrip.copyRowDelivered x0 x1 : Statement (.copyRowDelivered x0 x1) := fun _ _ h => nomatch h

theorem Laws.RoundTrip.copyOpPerformed x0 x1 : Statement (.copyOpPerformed x0 x1) := fun _ _ h => nomatch h

theorem Laws.RoundTrip.matrixOpBegin x0 x1 : Statement (.matrixOpBegin x0 x1) := fun _ _ h => nomatch h

theorem Laws.RoundTrip.mmaIteration x0 x1 : Statement (.mmaIteration x0 x1) := fun _ _ h => nomatch h

theorem Laws.RoundTrip.matrixOpPerformed x0 x1 : Statement (.matrixOpPerformed x0 x1) := fun _ _ h => nomatch h

theorem Laws.RoundTrip.macroReload x0 x1 : Statement (.macroReload x0 x1) := fun _ _ h => nomatch h

theorem Laws.RoundTrip.chainRunBegin x0 x1 : Statement (.chainRunBegin x0 x1) := fun _ _ h => nomatch h

theorem Laws.RoundTrip.chainStep x0 x1 : Statement (.chainStep x0 x1) := fun _ _ h => nomatch h

theorem Laws.RoundTrip.grammarOpBegin x0 x1 : Statement (.grammarOpBegin x0 x1) := fun _ _ h => nomatch h

theorem Laws.RoundTrip.grammarOpPerformed x0 x1 : Statement (.grammarOpPerformed x0 x1) := fun _ _ h => nomatch h

theorem Laws.RoundTrip.engineFaultPark x0 x1 : Statement (.engineFaultPark x0 x1) := fun _ _ h => nomatch h

theorem Laws.RoundTrip.enginePreemptStop x0 x1 : Statement (.enginePreemptStop x0 x1) := fun _ _ h => nomatch h

theorem Laws.RoundTrip.signalBoxFire x0 : Statement (.signalBoxFire x0) := fun _ _ h => nomatch h

theorem Laws.RoundTrip.timerPulse x0 x1 : Statement (.timerPulse x0 x1) := fun _ _ h => nomatch h

theorem Laws.RoundTrip.encoderFrameDone x0 x1 : Statement (.encoderFrameDone x0 x1) := fun _ _ h => nomatch h

theorem Laws.RoundTrip.encbindBind x0 x1 : Statement (.encbindBind x0 x1) := fun _ _ h => nomatch h

theorem Laws.RoundTrip.encbindUnbind x0 x1 : Statement (.encbindUnbind x0 x1) := fun _ _ h => nomatch h

theorem Laws.RoundTrip.create x0 x1 : Statement (.create x0 x1) := fun _ _ h => nomatch h

theorem Laws.RoundTrip.partitionClearDone x0 : Statement (.partitionClearDone x0) := fun _ _ h => nomatch h

theorem Laws.RoundTrip.destroy x0 x1 : Statement (.destroy x0 x1) := fun _ _ h => nomatch h

theorem Laws.RoundTrip.bindvf x0 x1 : Statement (.bindvf x0 x1) := fun _ _ h => nomatch h

theorem Laws.RoundTrip.unbindvf x0 x1 : Statement (.unbindvf x0 x1) := fun _ _ h => nomatch h

theorem Laws.RoundTrip.partitionBadCommand x0 : Statement (.partitionBadCommand x0) := fun _ _ h => nomatch h

theorem Laws.RoundTrip.door x0 x1 : Statement (.door x0 x1) := fun _ _ h => nomatch h

theorem Laws.RoundTrip.slotWrite x0 x1 x2 : Statement (.slotWrite x0 x1 x2) := fun _ _ h => nomatch h

theorem Laws.RoundTrip.launch x0 x1 : Statement (.launch x0 x1) := fun _ _ h => nomatch h

theorem Laws.RoundTrip.launchFirstMessages x0 x1 : Statement (.launchFirstMessages x0 x1) := fun _ _ h => nomatch h

theorem Laws.RoundTrip.register x0 x1 : Statement (.register x0 x1) := fun _ _ h => nomatch h

theorem Laws.RoundTrip.regionEnd x0 x1 : Statement (.regionEnd x0 x1) := fun _ _ h => nomatch h

theorem Laws.RoundTrip.prepare x0 x1 : Statement (.prepare x0 x1) := fun _ _ h => nomatch h

theorem Laws.RoundTrip.prepareReceive x0 x1 : Statement (.prepareReceive x0 x1) := fun _ _ h => nomatch h

theorem Laws.RoundTrip.prepareAckReceive x0 : Statement (.prepareAckReceive x0) := fun _ _ h => nomatch h

theorem Laws.RoundTrip.prepareTimeout : Statement (.prepareTimeout) := fun _ _ h => nomatch h

theorem Laws.RoundTrip.commit : Statement (.commit) := fun _ _ h => nomatch h

theorem Laws.RoundTrip.abort : Statement (.abort) := fun _ _ h => nomatch h

theorem Laws.RoundTrip.quantumBoundary x0 : Statement (.quantumBoundary x0) := fun _ _ h => nomatch h

theorem Laws.RoundTrip.contractRelease x0 x1 : Statement (.contractRelease x0 x1) := fun _ _ h => nomatch h

theorem Laws.RoundTrip.deadlineExpiry x0 x1 : Statement (.deadlineExpiry x0 x1) := fun _ _ h => nomatch h

theorem Laws.RoundTrip.budgetExhausted x0 x1 : Statement (.budgetExhausted x0 x1) := fun _ _ h => nomatch h

theorem Laws.RoundTrip.jobComplete x0 x1 : Statement (.jobComplete x0 x1) := fun _ _ h => nomatch h

theorem Laws.RoundTrip.energyCharge : Statement (.energyCharge) := fun _ _ h => nomatch h

theorem Laws.RoundTrip.energyWindowBoundary x0 x1 : Statement (.energyWindowBoundary x0 x1) := fun _ _ h => nomatch h

theorem Laws.RoundTrip.lazyUnitRestore x0 : Statement (.lazyUnitRestore x0) := fun _ _ h => nomatch h

theorem Laws.RoundTrip.clusterPowerGate x0 : Statement (.clusterPowerGate x0) := fun _ _ h => nomatch h

theorem Laws.RoundTrip.clusterWake x0 : Statement (.clusterWake x0) := fun _ _ h => nomatch h

theorem Laws.RoundTrip.deviceReset : Statement (.deviceReset) := fun _ _ h => nomatch h

theorem Laws.RoundTrip.selfTestPass x0 : Statement (.selfTestPass x0) := fun _ _ h => nomatch h

theorem Laws.RoundTrip.unitFailure x0 x1 : Statement (.unitFailure x0 x1) := fun _ _ h => nomatch h

theorem Laws.RoundTrip.uncorrectableMemory x0 x1 x2 x3 : Statement (.uncorrectableMemory x0 x1 x2 x3) := fun _ _ h => nomatch h

theorem Laws.RoundTrip.linkDown x0 : Statement (.linkDown x0) := fun _ _ h => nomatch h

theorem Laws.RoundTrip.cxlMemRead x0 x1 x2 : Statement (.cxlMemRead x0 x1 x2) := fun _ _ h => nomatch h

theorem Laws.RoundTrip.cxlMemWrite x0 x1 x2 x3 : Statement (.cxlMemWrite x0 x1 x2 x3) := fun _ _ h => nomatch h

theorem Laws.RoundTrip.getVersion x0 : Statement (.getVersion x0) := fun _ _ h => nomatch h

theorem Laws.RoundTrip.getCapabilities x0 : Statement (.getCapabilities x0) := fun _ _ h => nomatch h

theorem Laws.RoundTrip.negotiateAlgorithms x0 x1 : Statement (.negotiateAlgorithms x0 x1) := fun _ _ h => nomatch h

theorem Laws.RoundTrip.getDigests x0 : Statement (.getDigests x0) := fun _ _ h => nomatch h

theorem Laws.RoundTrip.getCertificate x0 x1 : Statement (.getCertificate x0 x1) := fun _ _ h => nomatch h

theorem Laws.RoundTrip.challenge x0 x1 : Statement (.challenge x0 x1) := fun _ _ h => nomatch h

theorem Laws.RoundTrip.getMeasurements x0 x1 : Statement (.getMeasurements x0 x1) := fun _ _ h => nomatch h

theorem Laws.RoundTrip.keyExchange x0 x1 : Statement (.keyExchange x0 x1) := fun _ _ h => nomatch h

theorem Laws.RoundTrip.finish x0 : Statement (.finish x0) := fun _ _ h => nomatch h

theorem Laws.RoundTrip.debugTokenSubmit x0 : Statement (.debugTokenSubmit x0) := fun _ _ h => nomatch h

theorem Laws.RoundTrip.debugScopeRevoke x0 : Statement (.debugScopeRevoke x0) := fun _ _ h => nomatch h

theorem Laws.RoundTrip.debugScopeExpiry x0 : Statement (.debugScopeExpiry x0) := fun _ _ h => nomatch h

theorem Laws.RoundTrip.dbgdataWrite x0 x1 : Statement (.dbgdataWrite x0 x1) := fun _ _ h => nomatch h

theorem Laws.RoundTrip.dbgdataRead x0 : Statement (.dbgdataRead x0) := fun _ _ h => nomatch h

theorem Laws.RoundTrip.halt x0 : Statement (.halt x0) := fun _ _ h => nomatch h

theorem Laws.RoundTrip.debugResume x0 : Statement (.debugResume x0) := fun _ _ h => nomatch h

theorem Laws.RoundTrip.step x0 x1 : Statement (.step x0 x1) := fun _ _ h => nomatch h

theorem Laws.RoundTrip.stepdone x0 : Statement (.stepdone x0) := fun _ _ h => nomatch h

theorem Laws.RoundTrip.xbWrite x0 x1 : Statement (.xbWrite x0 x1) := fun _ _ h => nomatch h

theorem Laws.RoundTrip.seedWrite x0 x1 : Statement (.seedWrite x0 x1) := fun _ _ h => nomatch h

theorem Laws.RoundTrip.lotstateWrite x0 x1 : Statement (.lotstateWrite x0 x1) := fun _ _ h => nomatch h

theorem Laws.RoundTrip.issuepolWrite x0 x1 : Statement (.issuepolWrite x0 x1) := fun _ _ h => nomatch h

theorem Laws.RoundTrip.sbdataWrite x0 x1 : Statement (.sbdataWrite x0 x1) := fun _ _ h => nomatch h

theorem Laws.RoundTrip.overrunClear x0 x1 : Statement (.overrunClear x0 x1) := fun _ _ h => nomatch h

theorem Laws.RoundTrip.trdstWrite x0 x1 : Statement (.trdstWrite x0 x1) := fun _ _ h => nomatch h

theorem Laws.RoundTrip.clear x0 : Statement (.clear x0) := fun _ _ h => nomatch h

theorem Laws.RoundTrip.xflagsWrite x0 x1 : Statement (.xflagsWrite x0 x1) := fun _ _ h => nomatch h

theorem Laws.RoundTrip.traceDrain x0 : Statement (.traceDrain x0) := fun _ _ h => nomatch h

theorem Laws.RoundTrip.registerWrite x0 x1 x2 : Statement (.registerWrite x0 x1 x2) := fun _ _ h => nomatch h

theorem Laws.RoundTrip.prepareRefusalReceive x0 x1 : Statement (.prepareRefusalReceive x0 x1) := fun _ _ h => nomatch h

end Sys2Proof
end

