-- ==== Sys2Proof/Laws/Rows.lean ====
section
/-! SUPPORT. A word of an unassigned opcode (03 R59). -/

namespace Sys2Proof.Machine

theorem row_split (w : Nat) : opcodeOf w = 16 * fld w 28 4 + fld w 24 4 := by
  simp only [opcodeOf, fld]; omega

/-- The rows of the opcode map with unassigned opcodes. -/
def rowOf (hi lo v : Nat) : Except Reject Instr :=
  match hi with
  | 0 => decodeRow0 lo v
  | 3 => decodeRow3 lo v
  | 7 => decodeRow7 lo v
  | 10 => decodeRowA lo v
  | 13 => decodeRowD lo v
  | 14 => decodeRowE lo v
  | 15 => decodeRowF lo v
  | _ => .ok .nop

theorem unassigned_row {w n hi lo : Nat} (h : opcodeOf w = n) (e : opcodeOf w = 16 * fld w 28 4 + fld w 24 4) (h1 : fld w 24 4 < 16)
    (hd : ∀ v, rowOf hi lo v = .error (.unassigned v))
    (hn : 16 * hi + lo = n) (hu : unusedBits n = 0)
    (hx : ((decide (1 ≤ n) && decide (n ≤ 0x3B)) || (decide (0x40 ≤ n) && decide (n ≤ 0x77))) = false)
    (hh : (decide (0xF8 ≤ n) && decide (n ≤ 0xFB)) = false)
    (hc : ((decide (0xB0 ≤ n) && decide (n ≤ 0xBC)) || n == 0xBE || n == 0xBF) = false) (hl : decide (lo < 16) = true := by rfl) :
    decodeFields w = .error (.unassigned w) ∧ unusedBits (opcodeOf w) = 0 ∧ isXWord w = false ∧ isHint w = false ∧ isControl w = false := by
  have hl' : lo < 16 := by simpa using hl
  have a1 : fld w 28 4 = hi := by omega
  have a2 : fld w 24 4 = lo := by omega
  refine ⟨?_, by rw [h, hu], by rw [isXWord, h]; exact hx, by rw [isHint, h]; exact hh, by rw [isControl, h]; exact hc⟩
  have hd' := hd w
  rw [decodeFields, a1, a2]
  unfold rowOf at hd'
  revert hd'
  split <;> intro hd' <;> first | exact hd' | cases hd'

end Sys2Proof.Machine
end

