-- ==== Sys2Proof/Laws/Stores.lean ====
section
/-! SUPPORT. The bytes that an access writes and brings back at its home (12 R208). -/

namespace Sys2Proof.Machine

theorem upTo_pairwise (n : Nat) : (upTo n).Pairwise (· < ·) := List.pairwise_lt_range

theorem mem_upTo {i n : Nat} : i ∈ upTo n ↔ i < n := List.mem_range

theorem toBytes_length : ∀ n v, (toBytes n v).length = n := by
  intro n; induction n with
  | zero => intro; rfl
  | succ n ih => intro v; simp [toBytes, ih]

theorem touch_settles {s : State} {r pa : Nat} {w : Bool} (h : Settles s r pa) :
    (s.touch r pa w).mem = s.mem ∧ (s.touch r pa w).wlog = s.wlog := by
  unfold State.touch
  split
  · exact ⟨rfl, rfl⟩
  · rename_i hn
    dsimp only
    rcases h with h | h | ⟨h1, h2⟩
    · exact absurd (by simp [h]) hn
    · exact absurd (by simp [h]) hn
    · rw [h2]
      rcases h1 with h1 | h1 <;> rw [h1] <;> (split <;> first | exact ⟨rfl, rfl⟩ | simp)

theorem countHbm_mem (s : State) (r pa : Nat) : (s.countHbm r pa).mem = s.mem ∧ (s.countHbm r pa).wlog = s.wlog := by
  unfold State.countHbm; split <;> exact ⟨rfl, rfl⟩

theorem fold_out : ∀ (l : List (Nat × Byte)) (s : State) (a : Nat), (∀ b ∈ l, b.1 ≠ a) →
    (l.foldl (fun t b => t.putByte b.1 b.2) s).byteAt a = s.byteAt a := by
  intro l
  induction l with
  | nil => intro s a _; rfl
  | cons b r ih =>
    intro s a h
    rw [List.foldl_cons, ih _ _ (fun x hx => h x (List.mem_cons_of_mem _ hx)), State.byteAt_putByte, if_neg (h b (by simp))]

theorem fold_in : ∀ (l : List (Nat × Byte)) (s : State) (a : Nat) (v : Byte), l.Pairwise (fun x y => x.1 < y.1) → (a, v) ∈ l →
    (l.foldl (fun t b => t.putByte b.1 b.2) s).byteAt a = v := by
  intro l
  induction l with
  | nil => intro s a v _ h; cases h
  | cons b r ih =>
    intro s a v hp h
    rw [List.pairwise_cons] at hp
    rw [List.foldl_cons]
    rcases List.mem_cons.mp h with h | h
    · subst h
      rw [fold_out r _ _ (fun x hx => by have := hp.1 x hx; simp at this; omega), State.byteAt_putByte, if_pos rfl]
    · exact ih _ _ _ hp.2 h

theorem storeBytes_pairwise (data mask : Nat) (p : Piece) : (storeBytes data mask p).Pairwise (fun x y => x.1 < y.1) := by
  unfold storeBytes
  rw [List.pairwise_map]
  exact ((upTo_pairwise p.len).filter _).imp (fun h => by simpa using h)

theorem putAcc_byteAt (s : State) (x : Access) (a : Nat) : (s.putAcc x).byteAt a = s.byteAt a := by
  unfold State.putAcc; split <;> rfl

theorem touchRange_settles {s : State} {r pa n : Nat} {w : Bool} (h : Settles s r pa) (h2 : Settles s r (pa + (n - 1))) :
    (s.touchRange r pa n w).mem = s.mem ∧ (s.touchRange r pa n w).wlog = s.wlog := by
  unfold State.touchRange
  dsimp only
  split
  · exact touch_settles h
  · have h3 : Settles (s.touch r pa w) r (pa + (n - 1)) := by
      rename_i hne
      unfold State.touch
      split
      · exact h2
      · dsimp only
        rename_i hn
        rcases h with h | h | ⟨g1, g2⟩
        · exact absurd (by simp [h]) hn
        · exact absurd (by simp [h]) hn
        · rcases h2 with h2 | h2 | h2
          · exact .inl h2
          · exact .inr (.inl h2)
          · refine .inr (.inr ?_)
            rw [g2]
            split
            · exact h2
            · dsimp only
              rcases g1 with g1 | g1 <;> rw [g1] <;> simp <;> (rw [Sparse.get_set_of_ne _ _ _ (Ne.symm hne)]; simpa using h2)
    obtain ⟨a1, a2⟩ := touch_settles (w := w) h3
    obtain ⟨b1, b2⟩ := touch_settles (w := w) h
    exact ⟨a1.trans b1, a2.trans b2⟩

/-- The use of checked-out lines changes neither memory nor what is in flight. -/
theorem useRange_keeps (s : State) (pa n : Nat) :
    (s.useRange pa n).mem = s.mem ∧ (s.useRange pa n).wlog = s.wlog ∧ (s.useRange pa n).accs = s.accs := by
  unfold State.useRange
  split
  · exact ⟨rfl, rfl, rfl⟩
  · generalize upTo ((pa % 64 + n + 63) / 64) = l
    induction l generalizing s with
    | nil => exact ⟨rfl, rfl, rfl⟩
    | cons i rest ih =>
      rw [List.foldl_cons]
      obtain ⟨h1, h2, h3⟩ := ih (if s.checkedOut (alignDown pa 64 + 64 * i) = true then s.caeUse (alignDown pa 64 + 64 * i) else s)
      dsimp only
      rw [h1, h2, h3]
      split <;> exact ⟨rfl, rfl, rfl⟩

theorem useLines_mem (s : State) (a : Bool) (pa n : Nat) : (s.useLines a pa n).mem = s.mem ∧ (s.useLines a pa n).wlog = s.wlog := by
  unfold State.useLines
  split
  · exact ⟨rfl, rfl⟩
  · exact ⟨(useRange_keeps s pa n).1, (useRange_keeps s pa n).2.1⟩

theorem useLines_accs (s : State) (a : Bool) (pa n : Nat) : (s.useLines a pa n).accs = s.accs := by
  unfold State.useLines
  split
  · rfl
  · exact (useRange_keeps s pa n).2.2

theorem copyUnits_accs (s : State) (a b n : Nat) : (s.copyUnits a b n).accs = s.accs := by
  unfold State.copyUnits
  dsimp only
  have h1 : ∀ (l : List Byte) (t : State) (pa : Nat), (t.putBytes pa l).accs = t.accs := by
    intro l; induction l with
    | nil => intro t pa; rfl
    | cons b r ih => intro t pa; exact ih (t.putByte pa b) (pa + 1)
  have h2 : ∀ (l : List Nat) (t : State), (l.foldl (fun t i => if s.tagAt (a / 16 + i) then t.putTag (b / 16 + i) true else t) t).accs = t.accs := by
    intro l; induction l with
    | nil => intro t; rfl
    | cons i r ih => intro t; rw [List.foldl_cons, ih]; split <;> rfl
  rw [h2, h1, (useRange_keeps _ _ _).2.2, (useRange_keeps _ _ _).2.2]

theorem saveUnit_accs (s : State) (r a b : Nat) : (s.saveUnit r a b).accs = s.accs := by
  unfold State.saveUnit
  split
  · rfl
  · exact copyUnits_accs _ _ _ _

theorem loadUnit_accs (s : State) (r a b : Nat) : (s.loadUnit r a b).accs = s.accs := by
  have h1 : ∀ (l : List Byte) (t : State) (pa : Nat), (t.putBytes pa l).accs = t.accs := by
    intro l; induction l with
    | nil => intro t pa; rfl
    | cons b r ih => intro t pa; exact ih (t.putByte pa b) (pa + 1)
  unfold State.loadUnit
  split
  · exact h1 _ s b
  · exact copyUnits_accs _ _ _ _

theorem touch_accs (s : State) (r pa : Nat) (w : Bool) : (s.touch r pa w).accs = s.accs := by
  unfold State.touch
  dsimp only
  repeat' split
  all_goals simp [saveUnit_accs, loadUnit_accs]

theorem touchRange_accs (s : State) (r pa n : Nat) (w : Bool) : (s.touchRange r pa n w).accs = s.accs := by
  unfold State.touchRange
  dsimp only
  split
  · exact touch_accs _ _ _ _
  · exact (touch_accs _ _ _ _).trans (touch_accs _ _ _ _)

theorem byteAt_same {s s2 : State} (h1 : s2.mem = s.mem) (h2 : s2.wlog = s.wlog) (a : Nat) : s2.byteAt a = s.byteAt a := by
  rw [State.byteAt, State.byteAt, h1, h2]

theorem bytesAt_same {s s2 : State} (h1 : s2.mem = s.mem) (h2 : s2.wlog = s.wlog) : ∀ n a, s2.bytesAt a n = s.bytesAt a n := by
  intro n; induction n with
  | zero => intro a; rfl
  | succ n ih => intro a; rw [State.bytesAt, State.bytesAt, ih, byteAt_same h1 h2]

theorem storeNibs_byteAt (s : State) (pa odd nibs data off len a : Nat) :
    (storeNibs s pa odd nibs data off len).byteAt a =
      if pa ≤ a ∧ a < pa + len then
        BitVec.ofNat 8 ((if odd ≤ 2 * (off + (a - pa)) ∧ 2 * (off + (a - pa)) < odd + nibs then fld data (4 * (2 * (off + (a - pa)) - odd)) 4 else fld (s.byteAt a).toNat 0 4) +
          16 * (if odd ≤ 2 * (off + (a - pa)) + 1 ∧ 2 * (off + (a - pa)) + 1 < odd + nibs then fld data (4 * (2 * (off + (a - pa)) + 1 - odd)) 4 else fld (s.byteAt a).toNat 4 4))
      else s.byteAt a := by
  unfold storeNibs
  obtain ⟨g, hg⟩ : ∃ g : Nat → Byte, g = fun i => (BitVec.ofNat 8 ((if odd ≤ 2 * (off + i) ∧ 2 * (off + i) < odd + nibs then fld data (4 * (2 * (off + i) - odd)) 4 else fld (s.byteAt (pa + i)).toNat 0 4) +
          16 * (if odd ≤ 2 * (off + i) + 1 ∧ 2 * (off + i) + 1 < odd + nibs then fld data (4 * (2 * (off + i) + 1 - odd)) 4 else fld (s.byteAt (pa + i)).toNat 4 4))) := ⟨_, rfl⟩
  have hf : (fun (t : State) (i : Nat) =>
    let byte := (s.byteAt (pa + i)).toNat
    let nib (h : Nat) : Nat :=
      let j := 2 * (off + i) + h
      if decide (odd ≤ j) && decide (j < odd + nibs) then fld data (4 * (j - odd)) 4 else fld byte (4 * h) 4
    t.putByte (pa + i) (BitVec.ofNat 8 (nib 0 + 16 * nib 1))) = fun t i => t.putByte (pa + i) (g i) := by
    funext t i; rw [hg]; simp
  rw [hf]
  have key : ∀ (l : List Nat) (t : State), l.Nodup → (l.foldl (fun t i => t.putByte (pa + i) (g i)) t).byteAt a =
      if pa ≤ a ∧ a - pa ∈ l then g (a - pa) else t.byteAt a := by
    intro l; induction l with
    | nil => intro t _; simp
    | cons i r ih =>
      intro t hn
      rw [List.nodup_cons] at hn
      rw [List.foldl_cons, ih _ hn.2, State.byteAt_putByte]
      by_cases h1 : pa ≤ a ∧ a - pa ∈ r
      · rw [if_pos h1, if_pos ⟨h1.1, List.mem_cons_of_mem _ h1.2⟩]
      · rw [if_neg h1]
        by_cases h2 : pa + i = a
        · have : a - pa = i := by omega
          rw [if_pos h2, if_pos ⟨by omega, by rw [this]; exact List.mem_cons_self⟩, this]
        · rw [if_neg h2, if_neg]
          rintro ⟨h3, h4⟩
          rcases List.mem_cons.mp h4 with h4 | h4
          · omega
          · exact h1 ⟨h3, h4⟩
  rw [key _ _ ((upTo_pairwise len).imp (fun h => Nat.ne_of_lt h))]
  simp only [mem_upTo]
  by_cases h : pa ≤ a ∧ a < pa + len
  · rw [if_pos h, if_pos ⟨h.1, by omega⟩, hg]
    have : pa + (a - pa) = a := by omega
    simp only [this]
  · rw [if_neg h, if_neg (by omega)]

theorem bytesAt_length (s : State) : ∀ n pa, (s.bytesAt pa n).length = n := by
  intro n; induction n with
  | zero => intro; rfl
  | succ n ih => intro pa; simp [State.bytesAt, ih]

theorem ofBytes_toBytes : ∀ n v, ofBytes (toBytes n v) = v % 256 ^ n := by
  intro n; induction n with
  | zero => intro v; simp [toBytes, ofBytes, Nat.mod_one]
  | succ n ih =>
    intro v
    rw [toBytes, ofBytes, ih, BitVec.toNat_ofNat, show (256 : Nat) ^ (n + 1) = 256 * 256 ^ n from by rw [Nat.pow_succ, Nat.mul_comm], Nat.mod_mul]

theorem bytesAt_putBytes (s : State) : ∀ (l : List Byte) (pa : Nat), (s.putBytes pa l).bytesAt pa l.length = l := by
  have gen : ∀ (l : List Byte) (t : State) (pa : Nat), (∀ i (h : i < l.length), t.byteAt (pa + i) = l[i]) → t.bytesAt pa l.length = l := by
    intro l; induction l with
    | nil => intro t pa _; rfl
    | cons b r ih =>
      intro t pa h
      rw [List.length_cons, State.bytesAt, ih t (pa + 1) (fun i hi => by
        have := h (i + 1) (by simpa using hi); rw [show pa + 1 + i = pa + (i + 1) by omega, this]; rfl)]
      have := h 0 (by simp); rw [show pa + 0 = pa from rfl] at this; rw [this]; rfl
  intro l pa
  exact gen l _ pa (fun i h => State.byteAt_putBytes l s pa i h)

theorem natAt_putNat (s : State) (pa n v : Nat) : (s.putNat pa n v).natAt pa n = v % 256 ^ n := by
  have := bytesAt_putBytes s (toBytes n v) pa
  rw [toBytes_length] at this
  rw [State.natAt, State.putNat, this, ofBytes_toBytes]

theorem natAt_same {s s2 : State} (h1 : s2.mem = s.mem) (h2 : s2.wlog = s.wlog) (a n : Nat) : s2.natAt a n = s.natAt a n := by
  rw [State.natAt, State.natAt, bytesAt_same h1 h2]

theorem natAt_putAcc (s : State) (x : Access) (a n : Nat) : (s.putAcc x).natAt a n = s.natAt a n := by
  have : (s.putAcc x).mem = s.mem ∧ (s.putAcc x).wlog = s.wlog := by unfold State.putAcc; split <;> exact ⟨rfl, rfl⟩
  exact natAt_same this.1 this.2 _ _

theorem put_mem {s : State} {x y : Access} (hx : x ∈ s.accs) (hy : y.id = x.id) (hs : y.stage = .answered) :
    ∃ n, { y with ansNo := n } ∈ (s.putAcc y).accs := by
  unfold State.putAcc
  rw [if_neg (by rw [hs]; decide)]
  exact ⟨s.nextId, List.mem_map.mpr ⟨x, hx, by simp [hy]⟩⟩

theorem single_complete {x : Access} {p : Piece} {k : Nat} {cae : Bool} (hp : x.pieces = [p]) (hk : x.pieces[k]? = some p) :
    (x.setPiece k cae).complete = true := by
  rw [hp] at hk
  have : k = 0 := by
    cases k with
    | zero => rfl
    | succ n => simp at hk
  subst this
  simp [Access.complete, Access.setPiece, hp, upTo]

theorem accs_putNat (s : State) (pa n v : Nat) : (s.putNat pa n v).accs = s.accs := by
  have h1 : ∀ (l : List Byte) (t : State) (pa : Nat), (t.putBytes pa l).accs = t.accs := by
    intro l; induction l with
    | nil => intro t pa; rfl
    | cons b r ih => intro t pa; exact ih (t.putByte pa b) (pa + 1)
  exact h1 _ _ _

theorem loadedData (x : Access) (p : Piece) (v : Nat) (hp : p.off = 0) (hl : p.len ≤ 17) (hv : v < 2 ^ (8 * p.len)) (m : Nat) (hm : m ≤ 8 * p.len) :
    (BitVec.ofNat 136 (putFld x.data.toNat (8 * p.off) (8 * p.len) v)).toNat % 2 ^ m = v % 2 ^ m := by
  have h1 : putFld x.data.toNat (8 * p.off) (8 * p.len) v % 2 ^ (8 * p.len) = v := by
    have := fld_putFld_same x.data.toNat 0 (8 * p.len) v
    rw [hp, Nat.mul_zero]
    rw [fld, Nat.pow_zero, Nat.div_one, Nat.mod_eq_of_lt hv] at this
    exact this
  have hd : 2 ^ m ∣ 2 ^ (8 * p.len) := Nat.pow_dvd_pow 2 hm
  have hd2 : 2 ^ m ∣ 2 ^ 136 := Nat.pow_dvd_pow 2 (by omega)
  rw [BitVec.toNat_ofNat, Nat.mod_mod_of_dvd _ hd2, ← Nat.mod_mod_of_dvd _ hd, h1]

theorem signExt_mod (a b n : Nat) (sg : Bool) (h : a % 2 ^ n = b % 2 ^ n) : signExt a n sg = signExt b n sg := by
  have hi : (a : Int) % 2 ^ n = (b : Int) % 2 ^ n := by exact_mod_cast h
  unfold signExt sext zext; rw [h, hi]

theorem sext_toInt (n v : Nat) (hn : 0 < n) : sext v n = (BitVec.ofNat n v).toInt := by
  rw [BitVec.toInt_eq_toNat_cond, BitVec.toNat_ofNat, sext]
  obtain ⟨k, rfl⟩ : ∃ k, n = k + 1 := ⟨n - 1, by omega⟩
  have : 2 ^ (k + 1) = 2 * 2 ^ k := by rw [Nat.pow_succ]; omega
  have e : (2 : Int) ^ (k + 1) = ((2 ^ (k + 1) : Nat) : Int) := by simp
  split <;> split <;> first | rfl | omega | skip

end Sys2Proof.Machine
end

