-- ==== Sys2Proof/Tests/Slice0.lean ====
section
/-! SUPPORT. The author's own tests: ill-formed terms, words written out from the encoding tables, one step of instructions on
small states, and for each obligation with hypotheses a state and operands that meet them. Words and results are taken from the
spec's tables and examples or computed by hand from its rules. -/

namespace Sys2Proof.Tests

open Sys2Proof.Machine

set_option Elab.async false
set_option maxRecDepth 100000
set_option exponentiation.threshold 1024

/-! ### Small states -/

/-- An entry of a buffer with the word `w`, at word address 0x400. -/
def entry (w : Nat) : Entry := { pc := 0x400, wpc := 0x400, word := BitVec.ofNat 32 w, seq := 1 }

/-- The word of an instruction. -/
def wordOf (i : Instr) : Nat := (encode i).getD 0

/-- A privileged activation with a window of 112 slices whose X head is `w`. -/
def xAct (w win : Nat) : Activation :=
  { info := { id := 1, priv := true, winSize := 112 }, win := BitVec.ofNat 448 win
    f := { xbuf := [entry w], pc := 0x401, nextSeq := 2, seen := 2 } }

/-- A privileged activation whose A head is `w`, with these registers. -/
def aAct (w : Nat) (regs : Sparse AReg) : Activation :=
  { info := { id := 1, priv := true, winSize := 112 }, regs := regs
    f := { abuf := [entry w], pc := 0x401, nextSeq := 2, seen := 2 } }

/-- The part after reset with the activation `a` in context 0 of core 0, in focus. -/
def at0 (a : Activation) : State :=
  { State.reset with cores := [(0, { Core.reset 0 with acts := [(0, a)] })], nextId := 2 }

/-- Value and flags of the first pending X write. -/
def pending (o : Out) : Option (Nat × Nat) :=
  match o with
  | .next t => t.cur.pend.head?.map (fun p => (p.value.toNat, p.flags.toNat))
  | _ => none

/-- What the X instruction `i` leaves pending over the window `win`. -/
def xr (i : Instr) (win : Nat) : Option (Nat × Nat) := pending (exec i (at0 (xAct (wordOf i) win)))

/-- Two operands of `n` bits, the first in the lowest slices, the second above it. -/
def two (n p q : Nat) : Nat := p + 2 ^ n * q

/-- A register without a tag. -/
def r64 (v : Nat) : AReg := plain64 v

/-- A tagged capability over [base, top) with all permissions but LCL. -/
def capOf (base top : Nat) : AReg := mkCap base top 0x3BF

/-- A result in register `r`. -/
def regOf (o : Out) (r : Nat) : Option (Nat × Bool) :=
  match o with
  | .next t => some ((t.cur.reg r).data.toNat, (t.cur.reg r).tag)
  | _ => none

/-- What `i` leaves in register `r`, the activation holding `regs`. -/
def ar (i : Instr) (regs : Sparse AReg) (r : Nat) : Option (Nat × Bool) :=
  regOf (exec i (at0 (aAct (wordOf i) regs))) r

/-- Cause and value of the trap that `o` takes in context 0 of core 0. -/
def trapOf (o : Out) : Option (Nat × Nat) :=
  match o with
  | .next t => if t.verdict = .trapped then
      let r := Sparse.get ({} : TrapRec) (t.core 0).trapRecs 0
      some (r.cause.toNat, r.val.toNat) else none
  | _ => none

/-- The trap that `i` takes as an A instruction. -/
def atrap (i : Instr) (regs : Sparse AReg) : Option (Nat × Nat) := trapOf (exec i (at0 (aAct (wordOf i) regs)))

/-- The address and kind of the accesses sent, the one that waits for its translation first. -/
def sent (t : State) : List (Nat × AccKind) := (t.cur.flow.walk.toList ++ t.accs).map (fun x => (x.va, x.kind))

/-! ### Well-formedness: each check refuses a term -/

theorem test_wf_x_fields :
    [Instr.add 8 0 0 0, .add 0 128 0 0, .add 0 0 128 0, .add 0 0 0 128, .addi 0 0 0 128, .movi 0 0 128, .neg 0 0 128].all
      (fun i => !i.wellFormed) = true := by decide
theorem test_wf_counts :
    [Instr.shli 0 0 0 4, .shri 1 0 0 8, .sari 2 0 0 12, .roli 5 0 0 32, .exts 5 0 0 0, .exts 5 0 0 32, .extz 0 0 0 0,
      .extz 0 0 0 4].all (fun i => !i.wellFormed) = true := by decide
theorem test_wf_lanes :
    [Instr.paddL8 2 0 0 0, .psubL16 1 0 0 0, .pmaxuL32 3 0 0 0, .pminuL8 0 0 0 0, .pmaxsL16 4 0 0 0, .pminsL32 4 0 0 0,
      .paddssL8 0 0 0 0, .rmaxuL32 2 0 0 0, .fadd 4 0 0 0, .fclass 3 0 0, .raddf 0 0 0, .badd 1 0 0 0, .bfma 2 0 0 0,
      .scacc 4 0 0 0].all (fun i => !i.wellFormed) = true := by decide
theorem test_wf_conversions :
    [Instr.cvt 5 0 0 0 0, .cvt 5 0 0 4 5, .cvt 5 0 0 7 0, .cvt 5 0 0 0 7, .cvt 1 0 0 0 1, .cvtsr 5 0 0 4 0, .cvtsr 5 0 0 1 1,
      .cvtsr 4 0 0 1 0].all (fun i => !i.wellFormed) = true := by decide
theorem test_wf_registers :
    [Instr.aadd 32 0 0, .aadd 0 32 0, .aadd 0 0 32, .aaddi 0 0 16384, .ashli 0 0 64, .asari 0 0 64, .apushq 2 0, .cget 0 0 5,
      .amovi 0 16384].all (fun i => !i.wellFormed) = true := by decide
theorem test_wf_accesses :
    [Instr.ld 2 0 0 0 0 0 0, .ld 0 0 0 5 0 0 0, .ld 0 0 0 4 1 0 0, .ld 0 0 0 0 0 3 0, .ld 0 0 0 0 0 0 1, .ld 0 0 0 0 0 1 6,
      .ldx 2 0 0 0 0 0 0, .lda 0 0 0 5 0 0 0, .ldc 0 0 0 2 0, .ldnib 2 0 0 0 0, .st 0 0 5 0 0, .stm 0 0 0 0 1, .stx 0 0 5 0 0,
      .sta 0 0 0 5 0 0, .stc 0 0 0 2 0, .stnib 0 0 5].all (fun i => !i.wellFormed) = true := by decide
theorem test_wf_atomics :
    [Instr.amo 0 0 0 9 0 0 0, .amo 0 0 0 0 0 0 1, .amo 0 0 0 0 0 1 6, .amocas 16 0 0 0 0 0, .fenceAcq 6, .fenceRel 6, .fenceAr 6,
      .xfence 0, .xfence 6, .jarrive 0 0 6, .evsig 6 0].all (fun i => !i.wellFormed) = true := by decide
theorem test_wf_blocks :
    [Instr.bmov 0 3 5, .bmov 31 3 5, .bmov 1 0 5, .bmov 1 3 0, .bmov 1 1 5, .bmov 1 2 5, .bmov 1 3 2, .bmov 1 3 4,
      .rep 0 0 3 0 0 0, .rep 0 1 0 0 0 0, .rep 0 1 2 0 0 0, .rep 2 1 3 0 0 0, .rep 1 1 3 0 0 1, .rep 0 1 3 0 1 1, .rep 0 1 3 4 1 0,
      .rep 0 1 3 5 0 0].all (fun i => !i.wellFormed) = true := by decide
theorem test_wf_control :
    [Instr.csrr 0 4096, .csrw 0 0 4096, .loop 0 0, .loop 0 4096, .beq 0 0 16384, .j 16384, .call 16384, .ecall 16777216].all
      (fun i => !i.wellFormed) = true := by decide
theorem test_wf_messages :
    [Instr.send 0 1 0 0, .send 0 0 0 1, .send 0 0 1 256, .sende 0 1 0, .gang 3, .gang 16, .dqpop 0, .dqsteal 0 0, .dqpop 16,
      .tlwait 0 256, .stacq 0 0 0 2].all (fun i => !i.wellFormed) = true := by decide
theorem test_wf_hints :
    [Instr.himm 16777216, .hwid 8 0 0 0, .hwid 0 0 2 0, .hmod 6 0, .hmod 0 2].all (fun i => !i.wellFormed) = true := by decide
theorem test_wf_engines :
    [Instr.macq 0 4, .mldb 0 0 0 0 0, .mldb 0 0 31 0 0, .mma 0 0 30 0 0, .mmas 0 0 0 0 0, .mspec 0 0 31 0 0, .mcopy 0 0 0 0 0,
      .mrd 2 0 0, .chbond 0 16 0, .chprogKeep 1 0 0, .chstat 0 11 0, .grred 0 0 0 13 0 0, .grscan 0 0 0 13 0 0,
      .grscanX 0 0 31 0 0 0, .grmv 0 0 30 0 0, .grat 0 0 0 0 0 0, .grstat 0 11 0, .cpy 0 0 0 2 0, .cpywp 0 0 8].all
      (fun i => !i.wellFormed) = true := by decide
theorem test_wf_events :
    [Instr.fetch 8192 0, .fetch 0 8, .queueStarved 0 0 2, .caeCheckIn 256, .macroReload 0 8, .macroReload 0 36, .create 64 0,
      .create 0 256, .door 256 0, .quantumBoundary 256, .uncorrectableMemory 0 8 0 0].all (fun i => !i.wellFormed) = true := by decide

/-! ### Words (03 R43 to R57 and the examples of the entries) -/

theorem test_word_x3 : decodeTableWord 32 0x01A40808 = some (.add 5 16 16 8) := by decide
theorem test_word_queues : decodeTableWord 32 0x04A03871 = some (.mul 5 0 112 113) := by decide
theorem test_word_mov : decodeTableWord 32 0x31FCBA00 = some (.mov 7 114 116) := by decide
theorem test_word_ld : decodeTableWord 32 0x96088A80 = some (.ld 1 2 5 2 0 0 0) := by decide
theorem test_word_st : decodeTableWord 32 0x9B008A80 = some (.st 2 5 2 0 0) := by decide
theorem test_word_sta : decodeTableWord 32 0x9E38C0C0 = some (.sta 7 3 0 3 0 0) := by decide
theorem test_word_fence : decodeTableWord 32 0xA300004D = some (.fenceRel 5) := by decide
theorem test_word_bmov : decodeTableWord 32 0xA5A4AC00 = some (.bmov 20 18 22) := by decide
theorem test_word_rep : decodeTableWord 32 0xA6021440 = some (.rep 0 8 10 1 0 0) := by decide
theorem test_word_csrw : decodeTableWord 32 0xA811C005 = some (.csrw 2 7 5) := by decide
theorem test_word_csrw_xb : decodeTableWord 32 0xA8114003 = some (.csrw 2 5 3) := by decide
theorem test_word_bltu : decodeTableWord 32 0xB483BFFF = some (.bltu 16 14 16383) := by decide
theorem test_word_loop_r : decodeTableWord 32 0xBC48000D = some (.loop 9 13) := by decide
theorem test_word_loop : decodeTableWord 32 0xBC500003 = some (.loop 10 3) := by decide
theorem test_word_tlwait : decodeTableWord 32 0xCC024060 = some (.tlwait 9 0x60) := by decide
theorem test_word_tlwait3 : decodeTableWord 32 0xCC024003 = some (.tlwait 9 3) := by decide
theorem test_word_eret : decodeTableWord 32 0xCF000000 = some .eret := by decide
theorem test_word_hyld : decodeTableWord 32 0xFB000000 = some .hyld := by decide
theorem test_word_mzero : decodeTableWord 32 0xD4000000 = some (.mzero 0 0 0 0) := by decide
theorem test_word_mspec : decodeTableWord 32 0xD3488C01 = some (.mspec 9 2 6 0 1) := by decide
theorem test_word_chbond : decodeTableWord 32 0xE002000C = some (.chbond 8 3 0) := by decide
theorem test_word_chprog : decodeTableWord 32 0xE1018E01 = some (.chprog 6 7 1) := by decide
theorem test_word_chprog_keep : decodeTableWord 32 0xE1000E04 = some (.chprogKeep 0 7 0) := by decide
theorem test_word_chrun : decodeTableWord 32 0xE2500001 = some (.chrunStart 10 0 1) := by decide
theorem test_word_chrun_arm : decodeTableWord 32 0xE2500011 = some (.chrunStart 10 1 1) := by decide
theorem test_word_chrun_resume : decodeTableWord 32 0xE2024004 = some (.chrunResume 9 0) := by decide
theorem test_word_chrun_abn : decodeTableWord 32 0xE2024008 = some (.chrunAbn 9 0) := by decide
theorem test_word_chstat : decodeTableWord 32 0xE3580015 = some (.chstat 11 5 1) := by decide
theorem test_word_chgrad : decodeTableWord 32 0xE4020001 = some (.chgrad 8 0 1) := by decide
theorem test_word_grset : decodeTableWord 32 0xE8018E00 = some (.grset 6 7 0) := by decide
theorem test_word_grred : decodeTableWord 32 0xE9489050 = some (.grred 9 2 8 10 0 0) := by decide
theorem test_word_grscan : decodeTableWord 32 0xEA509018 = some (.grscanX 10 2 8 1 0 0) := by decide
theorem test_word_cpy : decodeTableWord 32 0xF0488403 = some (.cpy 9 2 2 0 3) := by decide
theorem test_word_cpywp : decodeTableWord 32 0xF1824003 = some (.cpywp 16 9 3) := by decide
theorem test_word_cpychk_res : decodeTableWord 32 0xF202400B = some (.cpychkRes 9 3) := by decide
theorem test_word_cpychk_abn : decodeTableWord 32 0xF2024013 = some (.cpychkAbn 9 3) := by decide
theorem test_word_reserved :
    [0x00000000, 0xFC000001, 0xFFFFFFFF, 0x3C000000, 0xA9000000, 0x96082A80 + 0x100000].all
      (fun w => decodeTableWord 32 w == none) = true := by decide
/-- The row's own instruction is the first that runs after reset. -/
theorem test_first_step : (match step (State.reset.withFetchWord 32 0xFC000000) with
    | .next t => t.verdict == .done && (t.act? 0 0).map (fun a => a.f.abuf.all (fun e => e.word == 0)) == some true
    | _ => false) = true := by decide

/-! ### The X-half: one case for each instruction, by hand from 05 and 13 -/

theorem test_add : xr (.add 5 16 0 8) (two 32 0xFFFFFFFF 2) = some (1, 0) := by decide
theorem test_sub : xr (.sub 1 4 0 2) (two 8 0 1) = some (0xFF, 0) := by decide
theorem test_addi : xr (.addi 1 4 0 0x7F) (two 8 0 0) = some (0xFF, 0) := by decide
theorem test_neg : xr (.neg 1 4 0) 0x80 = some (0x80, 0) := by decide
theorem test_abs : xr (.abs 1 4 0) 0x80 = some (0x80, 0) ∧ xr (.abs 1 4 0) 0xFF = some (1, 0) := by decide
theorem test_adds : xr (.adds 1 4 0 2) (two 8 0x7F 1) = some (0x7F, 0) := by decide
theorem test_addus : xr (.addus 1 4 0 2) (two 8 0xFF 1) = some (0xFF, 0) := by decide
theorem test_subs : xr (.subs 1 4 0 2) (two 8 0x80 1) = some (0x80, 0) := by decide
theorem test_subus : xr (.subus 1 4 0 2) (two 8 0 1) = some (0, 0) := by decide
theorem test_mul : xr (.mul 1 4 0 2) (two 8 0x10 0x11) = some (0x10, 0) := by decide
theorem test_mulh : xr (.mulh 1 4 0 2) (two 8 0xFF 2) = some (0xFF, 0) := by decide
theorem test_mulhu : xr (.mulhu 1 4 0 2) (two 8 0xFF 2) = some (1, 0) := by decide
theorem test_mulw : xr (.mulw 1 4 0 2) (two 8 0xFF 2) = some (0xFFFE, 0) := by decide
theorem test_mulwu : xr (.mulwu 1 4 0 2) (two 8 0xFF 2) = some (0x01FE, 0) := by decide
theorem test_div : xr (.div 1 4 0 2) (two 8 0xF9 2) = some (0xFD, 0) ∧ xr (.div 1 4 0 2) (two 8 0x80 0xFF) = some (0x80, 0) := by
  decide
theorem test_divu : xr (.divu 1 4 0 2) (two 8 9 0) = some (0xFF, 0) := by decide
theorem test_rem : xr (.rem 1 4 0 2) (two 8 0xF9 2) = some (0xFF, 0) := by decide
theorem test_remu : xr (.remu 1 4 0 2) (two 8 9 0) = some (9, 0) := by decide
theorem test_min : xr (.min 1 4 0 2) (two 8 0xFF 1) = some (0xFF, 0) := by decide
theorem test_max : xr (.max 1 4 0 2) (two 8 0xFF 1) = some (1, 0) := by decide
theorem test_minu : xr (.minu 1 4 0 2) (two 8 0xFF 1) = some (1, 0) := by decide
theorem test_maxu : xr (.maxu 1 4 0 2) (two 8 0xFF 1) = some (0xFF, 0) := by decide
theorem test_and : xr (.and 1 4 0 2) (two 8 0xF0 0x3C) = some (0x30, 0) := by decide
theorem test_or : xr (.or 1 4 0 2) (two 8 0xF0 0x3C) = some (0xFC, 0) := by decide
theorem test_xor : xr (.xor 1 4 0 2) (two 8 0xF0 0x3C) = some (0xCC, 0) := by decide
theorem test_andn : xr (.andn 1 4 0 2) (two 8 0xF0 0x3C) = some (0xC0, 0) := by decide
theorem test_andi : xr (.andi 3 4 0 0x7F) 0xABCD = some (0xABCD, 0) := by decide
theorem test_ori : xr (.ori 1 4 0 1) 0x80 = some (0x81, 0) := by decide
theorem test_xori : xr (.xori 1 4 0 0x7F) 0x0F = some (0xF0, 0) := by decide
theorem test_shl : xr (.shl 2 6 0 3) (two 12 1 13) = some (2, 0) := by decide
theorem test_shr : xr (.shr 1 4 0 2) (two 8 0x81 1) = some (0x40, 0) := by decide
theorem test_sar : xr (.sar 1 4 0 2) (two 8 0x81 1) = some (0xC0, 0) := by decide
theorem test_rol : xr (.rol 1 4 0 2) (two 8 0x81 1) = some (0x03, 0) := by decide
theorem test_shli : xr (.shli 1 4 0 7) 0xFF = some (0x80, 0) := by decide
theorem test_shri : xr (.shri 1 4 0 7) 0xFF = some (1, 0) := by decide
theorem test_sari : xr (.sari 1 4 0 7) 0x80 = some (0xFF, 0) := by decide
theorem test_roli : xr (.roli 1 4 0 4) 0x1F = some (0xF1, 0) := by decide
theorem test_fshl : xr (.fshl 1 6 0 4) (0x1234 + 2 ^ 16 * 8) = some (0x34, 0) := by decide
theorem test_fshr : xr (.fshr 1 6 0 4) (0x1234 + 2 ^ 16 * 8) = some (0x12, 0) := by decide
theorem test_sel : xr (.sel 1 4 0 2) (two 8 0x11 0x22 + 2 ^ 16 * 1) = some (0x11, 0) ∧
    xr (.sel 1 4 0 2) (two 8 0x11 0x22) = some (0x22, 0) := by decide
theorem test_seq : xr (.seq 1 4 0 2) (two 8 5 5) = some (1, 0) := by decide
theorem test_sne : xr (.sne 1 4 0 2) (two 8 5 5) = some (0, 0) := by decide
theorem test_slt : xr (.slt 1 4 0 2) (two 8 0xFF 0) = some (1, 0) := by decide
theorem test_sltu : xr (.sltu 1 4 0 2) (two 8 0xFF 0) = some (0, 0) := by decide
theorem test_sle : xr (.sle 1 4 0 2) (two 8 0 0) = some (1, 0) := by decide
theorem test_sleu : xr (.sleu 1 4 0 2) (two 8 1 0) = some (0, 0) := by decide
theorem test_seqi : xr (.seqi 1 4 0 0x7F) 0xFF = some (1, 0) := by decide
theorem test_slti : xr (.slti 1 4 0 0x7F) 0xFE = some (1, 0) := by decide
theorem test_mov : xr (.mov 7 32 0) (2 ^ 127 + 1) = some (2 ^ 127 + 1, 0) := by decide
theorem test_movi : xr (.movi 3 0 0x7F) 0 = some (0xFFFF, 0) := by decide
theorem test_exts : xr (.exts 3 4 0 4) 0x18 = some (0xFFF8, 0) := by decide
theorem test_extz : xr (.extz 3 4 0 4) 0x18 = some (8, 0) := by decide
theorem test_clz : xr (.clz 1 4 0) 0x10 = some (3, 0) ∧ xr (.clz 0 4 0) 0 = some (4, 0) := by decide
theorem test_ctz : xr (.ctz 1 4 0) 0x10 = some (4, 0) := by decide
theorem test_popc : xr (.popc 1 4 0) 0xB1 = some (4, 0) := by decide
theorem test_brev : xr (.brev 2 4 0) 0x001 = some (0x800, 0) := by decide
theorem test_bext : xr (.bext 1 4 0 2) (two 8 0xB2 0xF0) = some (0xB, 0) := by decide
theorem test_bexts : xr (.bexts 1 4 0 2) (two 8 0xB2 0xF0) = some (0xFB, 0) ∧ xr (.bexts 1 4 0 2) (two 8 0xB2 0) = some (0, 0) := by
  decide
theorem test_bdep : xr (.bdep 1 4 0 2) (two 8 0xB 0xF0) = some (0xB0, 0) := by decide
theorem test_padd4 : xr (.paddL4 1 4 0 2) (two 8 0xF8 0x18) = some (0x00, 0) := by decide
theorem test_padd8 : xr (.paddL8 3 8 0 4) (two 16 0x01FF 0x0101) = some (0x0200, 0) := by decide
theorem test_padd16 : xr (.paddL16 5 16 0 8) (two 32 0x0001FFFF 0x00010001) = some (0x00020000, 0) := by decide
theorem test_padd32 : xr (.paddL32 6 32 0 16) (two 64 0x1FFFFFFFF 0x100000001) = some (0x200000000, 0) := by decide
theorem test_psub4 : xr (.psubL4 1 4 0 2) (two 8 0x10 0x01) = some (0x1F, 0) := by decide
theorem test_psub8 : xr (.psubL8 3 8 0 4) (two 16 0x0100 0x0001) = some (0x01FF, 0) := by decide
theorem test_psub16 : xr (.psubL16 5 16 0 8) (two 32 0x00010000 1) = some (0x0001FFFF, 0) := by decide
theorem test_psub32 : xr (.psubL32 6 32 0 16) (two 64 0x100000000 1) = some (0x1FFFFFFFF, 0) := by decide
theorem test_pmaxu4 : xr (.pmaxuL4 1 4 0 2) (two 8 0x8F 0xF1) = some (0xFF, 0) := by decide
theorem test_pmaxu8 : xr (.pmaxuL8 3 8 0 4) (two 16 0x80FF 0xFF01) = some (0xFFFF, 0) := by decide
theorem test_pmaxu16 : xr (.pmaxuL16 5 16 0 8) (two 32 0x8000FFFF 0xFFFF0001) = some (0xFFFFFFFF, 0) := by decide
theorem test_pmaxu32 : xr (.pmaxuL32 5 16 0 8) (two 32 0x80000000 1) = some (0x80000000, 0) := by decide
theorem test_pminu4 : xr (.pminuL4 1 4 0 2) (two 8 0x8F 0xF1) = some (0x81, 0) := by decide
theorem test_pminu8 : xr (.pminuL8 3 8 0 4) (two 16 0x80FF 0xFF01) = some (0x8001, 0) := by decide
theorem test_pminu16 : xr (.pminuL16 5 16 0 8) (two 32 0x8000FFFF 0xFFFF0001) = some (0x80000001, 0) := by decide
theorem test_pminu32 : xr (.pminuL32 5 16 0 8) (two 32 0x80000000 1) = some (1, 0) := by decide
theorem test_pmaxs4 : xr (.pmaxsL4 1 4 0 2) (two 8 0x8F 0xF1) = some (0xF1, 0) := by decide
theorem test_pmaxs8 : xr (.pmaxsL8 3 8 0 4) (two 16 0x80FF 0xFF01) = some (0xFF01, 0) := by decide
theorem test_pmaxs16 : xr (.pmaxsL16 5 16 0 8) (two 32 0x8000FFFF 0xFFFF0001) = some (0xFFFF0001, 0) := by decide
theorem test_pmaxs32 : xr (.pmaxsL32 5 16 0 8) (two 32 0x80000000 1) = some (1, 0) := by decide
theorem test_pmins4 : xr (.pminsL4 1 4 0 2) (two 8 0x8F 0xF1) = some (0x8F, 0) := by decide
theorem test_pmins8 : xr (.pminsL8 3 8 0 4) (two 16 0x80FF 0xFF01) = some (0x80FF, 0) := by decide
theorem test_pmins16 : xr (.pminsL16 5 16 0 8) (two 32 0x8000FFFF 0xFFFF0001) = some (0x8000FFFF, 0) := by decide
theorem test_pmins32 : xr (.pminsL32 5 16 0 8) (two 32 0x80000000 1) = some (0x80000000, 0) := by decide
theorem test_paddss4 : xr (.paddssL4 1 4 0 2) (two 8 0x87 0xF1) = some (0x87, 0) := by decide
theorem test_paddss8 : xr (.paddssL8 3 8 0 4) (two 16 0x807F 0xFF01) = some (0x807F, 0) := by decide
theorem test_paddss16 : xr (.paddssL16 5 16 0 8) (two 32 0x80007FFF 0xFFFF0001) = some (0x80007FFF, 0) := by decide
theorem test_paddss32 : xr (.paddssL32 5 16 0 8) (two 32 0x7FFFFFFF 1) = some (0x7FFFFFFF, 0) := by decide
theorem test_rmaxu4 : xr (.rmaxuL4 1 4 0 2) (two 8 0x37 0x91) = some (9, 0) := by decide
theorem test_rmaxu8 : xr (.rmaxuL8 3 8 0 4) (two 16 0x1234 0x5678) = some (0x78, 0) := by decide
theorem test_rmaxu16 : xr (.rmaxuL16 5 16 0 8) (two 32 0x12345678 0x0001FFFF) = some (0xFFFF, 0) := by decide
theorem test_rmaxu32 : xr (.rmaxuL32 5 16 0 8) (two 32 5 7) = some (7, 0) := by decide

/-! Floating point: 1.0 is 0x3F800000, 2.0 is 0x40000000, ∞ is 0x7F800000; NV, DZ, OF, UF, NX are 1, 2, 4, 8, 16. -/

theorem test_fadd : xr (.fadd 5 16 0 8) (two 32 0x3F800000 0x33800000) = some (0x3F800000, 16) := by decide
theorem test_fsub : xr (.fsub 5 16 0 8) (two 32 0x7F800000 0x7F800000) = some (0x7FC00000, 1) := by decide
theorem test_fmul : xr (.fmul 5 16 0 8) (two 32 0x40000000 0x40400000) = some (0x40C00000, 0) := by decide
theorem test_fma : xr (.fma 5 16 0 8) (two 32 0x40000000 0x40400000 + 2 ^ 64 * 0x3F800000) = some (0x40E00000, 0) := by decide
theorem test_fmulz : xr (.fmulz 5 16 0 8) (two 32 0x80000000 0x7F800000) = some (0x80000000, 0) := by decide
theorem test_fmin : xr (.fmin 5 16 0 8) (two 32 0 0x80000000) = some (0x80000000, 0) := by decide
theorem test_fmax : xr (.fmax 5 16 0 8) (two 32 0 0x80000000) = some (0, 0) := by decide
theorem test_frcp : xr (.frcp 5 16 0) 0x40000000 = some (0x3F000000, 0) ∧ xr (.frcp 5 16 0) 0 = some (0x7F800000, 2) := by decide
theorem test_frsq : xr (.frsq 5 16 0) 0x40800000 = some (0x3F000000, 0) := by decide
theorem test_fexp2 : xr (.fexp2 5 16 0) 0x40400000 = some (0x41000000, 0) := by decide
theorem test_flog2 : xr (.flog2 5 16 0) 0x41000000 = some (0x40400000, 0) := by decide
theorem test_fcmpeq : xr (.fcmpeq 5 16 0 8) (two 32 0 0x80000000) = some (1, 0) := by decide
theorem test_fcmplt : xr (.fcmplt 5 16 0 8) (two 32 0x7FC00000 0) = some (0, 1) := by decide
theorem test_fcmple : xr (.fcmple 5 16 0 8) (two 32 0xBF800000 0x3F800000) = some (1, 0) := by decide
theorem test_fclass : xr (.fclass 5 16 0) 0x7F800001 = some (0x100, 0) ∧ xr (.fclass 5 16 0) 0x80000000 = some (8, 0) := by decide
theorem test_raddf : xr (.raddf 6 32 0) (two 32 0x3F800000 0x40000000) = some (0x40400000, 0) := by decide
theorem test_badd : xr (.badd 3 8 0 4) (two 16 0x3F80 0x3F80) = some (0x4000, 0) := by decide
theorem test_bmul : xr (.bmul 3 8 0 4) (two 16 0x4000 0x4040) = some (0x40C0, 0) := by decide
theorem test_bfma : xr (.bfma 3 8 0 4) (two 16 0x4000 0x4040 + 2 ^ 32 * 0x3F80) = some (0x40E0, 0) := by decide
theorem test_bmin : xr (.bmin 3 8 0 4) (two 16 0x3F80 0xBF80) = some (0xBF80, 0) := by decide
theorem test_bmax : xr (.bmax 3 8 0 4) (two 16 0x3F80 0xBF80) = some (0x3F80, 0) := by decide
/-- A lower half above one half of the last place rounds up. -/
theorem test_cvt : xr (.cvt 5 16 0 1 0) 0x3F80C000 = some (0x3F81, 16) := by decide
/-- The worked example of 13 R259: CVTSR.BF16.FP32.64 n8, n0 with the generator at 0x0000_0001_0000_0000. -/
theorem test_cvtsr :
    decodeTableWord 32 0x76C20008 = some (.cvtsr 6 8 0 1 0) ∧
    pending (exec (.cvtsr 6 8 0 1 0) (let s := at0 (xAct 0x76C20008 0xC040E0003F80A000)
      s.setCore 0 { s.core 0 with csr := { (s.core 0).csr with rng := 0x100000000 } })) = some (0xC0413F80, 16) ∧
    xr (.cvt 6 8 0 1 0) 0xC040E0003F80A000 = some (0xC0413F81, 16) := by decide
/-- HWID S8, Z4 before MOV.32 n8, n0 (05 R90). -/
theorem test_hwid_mov : (let a := xAct (wordOf (.mov 5 8 0)) 0x80
    pending (exec (.mov 5 8 0) (at0 { a with f := { a.f with xbuf := [{ entry (wordOf (.mov 5 8 0)) with
      hints := [BitVec.ofNat 32 (wordOf (.hwid 1 0 1 0))], taken := 1 }] } }))) = some (0xFFFFFF80, 0) := by decide
theorem test_scacc : (xr (.scacc 5 16 0 8) (two 32 3 0x40000000)).isSome = true := by decide

/-! ### The A-half -/

theorem test_aadd : ar (.aadd 1 2 3) [(2, r64 (2 ^ 64 - 1)), (3, r64 2)] 1 = some (1, false) := by decide
theorem test_asub : ar (.asub 1 2 3) [(3, r64 1)] 1 = some (2 ^ 64 - 1, false) := by decide
theorem test_aaddi : ar (.aaddi 1 2 0x3FFF) [(2, r64 5)] 1 = some (4, false) := by decide
theorem test_amul : ar (.amul 1 2 3) [(2, r64 (2 ^ 32)), (3, r64 (2 ^ 32 + 1))] 1 = some (2 ^ 32, false) := by decide
theorem test_aand : ar (.aand 1 2 3) [(2, r64 0xF0), (3, r64 0x3C)] 1 = some (0x30, false) := by decide
theorem test_aor : ar (.aor 1 2 3) [(2, r64 0xF0), (3, r64 0x3C)] 1 = some (0xFC, false) := by decide
theorem test_axor : ar (.axor 1 2 3) [(2, r64 0xF0), (3, r64 0x3C)] 1 = some (0xCC, false) := by decide
theorem test_ashli : ar (.ashli 1 2 63) [(2, r64 3)] 1 = some (2 ^ 63, false) := by decide
theorem test_ashri : ar (.ashri 1 2 63) [(2, r64 (2 ^ 63))] 1 = some (1, false) := by decide
theorem test_asari : ar (.asari 1 2 63) [(2, r64 (2 ^ 63))] 1 = some (2 ^ 64 - 1, false) := by decide
theorem test_aslt : ar (.aslt 1 2 3) [(2, r64 (2 ^ 64 - 1))] 1 = some (1, false) := by decide
theorem test_asltu : ar (.asltu 1 2 3) [(2, r64 (2 ^ 64 - 1))] 1 = some (0, false) := by decide
theorem test_amovi : ar (.amovi 1 0x3FFF) [] 1 = some (2 ^ 64 - 1, false) := by decide
/-- Four times the own word address 0x400, and the immediate. -/
theorem test_aupi : ar (.aupi 1 8) [] 1 = some (0x1008, false) := by decide
theorem test_amov : ar (.amov 1 2) [(2, capOf 0x1000 0x2000)] 1 = some ((capOf 0x1000 0x2000).data.toNat, true) := by decide
/-- Integer operations read a tagged register's low bits and clear the tag (02 R31). -/
theorem test_aadd_tagged : ar (.aadd 1 2 0) [(2, capOf 0x1000 0x2000)] 1 = some (0x1000 + 0x2000 % 256 * 2 ^ 56, false) := by decide
/-- A write to c0 is discarded (02 R30). -/
theorem test_c0 : ar (.amovi 0 5) [] 0 = some (0, false) := by decide
theorem test_cbase : ar (.cbase 1 2 3) [(2, mkCap 0x1000 0x2000 1), (3, r64 0x1000)] 1 = some ((mkCap 0x2000 0x2000 1).data.toNat, true) ∧
    (ar (.cbase 1 2 3) [(2, mkCap 0x1000 0x2000 1), (3, r64 0x1001)] 1).map Prod.snd = some false := by decide
theorem test_clen : ar (.clen 1 2 3) [(2, mkCap 0x1000 0x2000 1), (3, r64 0x10)] 1 = some ((mkCap 0x1000 0x1010 1).data.toNat, true) := by
  decide
/-- LCL (bit 6) can be set, every other permission only cleared. -/
theorem test_cperm : ar (.cperm 1 2 3) [(2, mkCap 0x1000 0x2000 3), (3, r64 0x46)] 1 =
    some ((mkCap 0x1000 0x2000 0x42).data.toNat, true) := by decide
theorem test_cget : ar (.cget 1 2 4) [(2, mkCap 0x1000 0x2000 3)] 1 = some (0x1000, false) ∧
    ar (.cget 1 2 3) [(2, mkCap 0x1000 0x2000 3)] 1 = some (1, false) := by decide
theorem test_cclr : (ar (.cclr 1 2) [(2, mkCap 0x1000 0x2000 3)] 1).map Prod.snd = some false := by decide
theorem test_apushq : (match exec (.apushq 1 2) (at0 (aAct (wordOf (.apushq 1 2)) [(2, capOf 0 16)])) with
    | .next t => t.cur.q.ldq1.map (fun e => e.data) == [(capOf 0 16).data] | _ => false) = true := by decide
theorem test_apopq : regOf (exec (.apopq 1) (let a := aAct (wordOf (.apopq 1)) []
    at0 { a with q := { a.q with xaq := [7, 8] } })) 1 = some (7, false) := by decide

/-- LD.Z32 ldq1, [c2+c5] reserves an entry of LDQ1 and sends four bytes of the address base + offset. -/
theorem test_ld : (match exec (.ld 1 2 5 2 0 0 0) (at0 (aAct 0x96088A80 [(2, capOf 0x1000 0x2000), (5, r64 0xFFC)])) with
    | .next t => t.cur.q.ldq1.length == 1 && sent t == [(0x1FFC, .load 1 32 false)]
    | _ => false) = true := by decide
theorem test_ld_bounds : atrap (.ld 1 2 5 2 0 0 0) [(2, capOf 0x1000 0x2000), (5, r64 0x1000)] = some (0x11, 0x1000) := by decide
theorem test_lda_perm : atrap (.lda 1 2 5 2 0 0 0) [(2, mkCap 0x1000 0x2000 2), (5, r64 0)] = some (0x12, 0) := by decide
theorem test_ldc_align : atrap (.ldc 1 2 5 0 0) [(2, capOf 0x1000 0x2000), (5, r64 8)] = some (0x13, 8) := by decide
theorem test_ld_c0 : atrap (.ld 1 0 5 2 0 0 0) [(5, r64 4)] = some (0x10, 4) := by decide
theorem test_ldx : (match exec (.ldx 0 2 5 3 0 0 0) (let a := aAct (wordOf (.ldx 0 2 5 3 0 0 0)) [(2, capOf 0x1000 0x2000), (5, r64 8)]
    at0 { a with q := { a.q with xaq := [0x10] } }) with
    | .next t => (sent t).map Prod.fst == [0x1018] && t.cur.q.xaq == [] | _ => false) = true := by decide
theorem test_ldnib : (match exec (.ldnib 0 2 5 0 0) (at0 (aAct (wordOf (.ldnib 0 2 5 0 0)) [(2, capOf 0x1000 0x2000), (5, r64 3)])) with
    | .next t => sent t == [(0x1001, .loadNib 0 2 1 false)] | _ => false) = true := by decide
theorem test_st : (match exec (.st 2 5 2 0 0) (let a := aAct 0x9B008A80 [(2, capOf 0x1000 0x2000), (5, r64 4)]
    at0 { a with q := { a.q with sdq := [0x11223344] } }) with
    | .next t => sent t == [(0x1004, .store 0x11223344 0x000F)] && t.cur.q.sdq == [] | _ => false) =
    true := by decide
theorem test_stx_waits : (match exec (.stx 2 5 2 0 0) (at0 (aAct (wordOf (.stx 2 5 2 0 0)) [(2, capOf 0x1000 0x2000)])) with
    | .next t => t.verdict == .stalled && sent t == [] | _ => false) = true := by decide
theorem test_sta : (match exec (.sta 7 3 0 3 0 0) (at0 (aAct 0x9E38C0C0 [(3, capOf 0x1000 0x2000), (7, r64 9)])) with
    | .next t => sent t == [(0x1000, .store 9 0x00FF)] | _ => false) = true := by decide
theorem test_stm_empty : (match exec (.stm 4 2 5 0 0) (let a := aAct (wordOf (.stm 4 2 5 0 0)) [(2, capOf 0x1000 0x2000)]
    at0 { a with q := { a.q with sdq := [1] } }) with
    | .next t => sent t == [] && t.cur.q.sdq == [] | _ => false) = true := by decide
/-- STC of an untagged register raises CAP_TAG with the register number (06 R105). -/
theorem test_stc_untagged : atrap (.stc 7 2 5 0 0) [(2, mkCap 0x1000 0x2000 0x3FF), (7, r64 1)] = some (0x10, 7) := by decide
theorem test_stnib : (match exec (.stnib 2 5 0) (let a := aAct (wordOf (.stnib 2 5 0)) [(2, capOf 0x1000 0x2000), (5, r64 1)]
    at0 { a with q := { a.q with sdq := [0xAB] } }) with
    | .next t => sent t == [(0x1000, .storeNib 2 1 0xAB)] | _ => false) = true := by decide
theorem test_amo : (match exec (.amo 4 2 5 0 1 0 0) (at0 (aAct (wordOf (.amo 4 2 5 0 1 0 0)) [(2, mkCap 0x1000 0x2000 0x3FF), (4, r64 3), (5, r64 8)])) with
    | .next t => sent t == [(0x1008, .amo 4 0 64 3)] && (t.cur.reg 4).wait != 0 | _ => false) = true := by
  decide
theorem test_amocas_align : atrap (.amocas 2 6 7 1 0 0) [(6, mkCap 0x1000 0x2000 0x3FF), (7, r64 4)] = some (0x18, 4) := by decide
theorem test_bmov_nothing : (match exec (.bmov 20 18 22) (at0 (aAct 0xA5A4AC00 [])) with
    | .next t => t.verdict == .done && sent t == [] | _ => false) = true := by decide
theorem test_rep : (match exec (.rep 0 8 10 1 0 0) (at0 (aAct 0xA6021440 [(8, capOf 0x1000 0x2000), (9, r64 2), (10, r64 3), (11, r64 4)])) with
    | .next t => (sent t).map Prod.fst == [0x1002] && t.cur.lo 9 == 6 && t.cur.lo 10 == 2 && t.cur.f.abuf.length == 1 | _ => false) =
    true := by decide
theorem test_csrr : ar (.csrr 1 0x003) [] 1 = some (0x10000, false) := by decide
theorem test_csrw_xb : (match exec (.csrw 2 5 3) (at0 (aAct 0xA8114003 [(2, mkCap 0 16 0x3FF), (5, r64 0x8000)])) with
    | .next t => (t.core 0).csr.xb == 0x8000 | _ => false) = true := by decide
theorem test_csrw_order : atrap (.csrw 2 5 0x00C) [] = some (0x10, 2) ∧
    atrap (.csrw 2 5 0x00C) [(2, mkCap 0 16 0x3FF)] = some (0x02, 0x00C) := by decide
theorem test_csrw_privilege : trapOf (exec (.csrw 2 5 3) (let a := aAct 0xA8114003 []
    at0 { a with info := { a.info with priv := false } })) = some (0x04, 0xA8114003) := by decide

/-- Word address that fetch goes on from, and whether it has stopped. -/
def pcOf (o : Out) : Option Nat :=
  match o with
  | .next t => some t.cur.f.pc.toNat
  | _ => none

/-- The target of a branch counts in words from the branch (03 R44). -/
theorem test_bltu : pcOf (exec (.bltu 16 14 16383) (at0 (aAct 0xB483BFFF [(14, r64 1)]))) = some 0x3FF := by decide
theorem test_blt_not : pcOf (exec (.blt 16 14 16383) (at0 (aAct (wordOf (.blt 16 14 16383)) [(14, r64 (2 ^ 64 - 1))]))) = some 0x401 := by
  decide
theorem test_beq : pcOf (exec (.beq 0 0 4) (at0 (aAct (wordOf (.beq 0 0 4)) []))) = some 0x404 := by decide
theorem test_bne : pcOf (exec (.bne 0 0 4) (at0 (aAct (wordOf (.bne 0 0 4)) []))) = some 0x401 := by decide
theorem test_bge : pcOf (exec (.bge 0 1 4) (at0 (aAct (wordOf (.bge 0 1 4)) [(1, r64 (2 ^ 63))]))) = some 0x404 := by decide
theorem test_bgeu : pcOf (exec (.bgeu 0 1 4) (at0 (aAct (wordOf (.bgeu 0 1 4)) [(1, r64 (2 ^ 63))]))) = some 0x401 := by decide
theorem test_bxq : (match exec (.bxq 4) (let a := aAct (wordOf (.bxq 4)) []
    at0 { a with q := { a.q with xaq := [1, 2] } }) with
    | .next t => t.cur.f.pc == 0x404 && t.cur.q.xaq == [2] | _ => false) = true := by decide
theorem test_bxqz : pcOf (exec (.bxqz 4) (let a := aAct (wordOf (.bxqz 4)) []
    at0 { a with q := { a.q with xaq := [1] } })) = some 0x401 := by decide
theorem test_j : pcOf (exec (.j 0x777) (at0 (aAct (wordOf (.j 0x777)) []))) = some 0x777 := by decide
theorem test_jr : pcOf (exec (.jr 1) (at0 (aAct (wordOf (.jr 1)) [(1, r64 0x2000)]))) = some 0x800 ∧
    atrap (.jr 1) [(1, r64 2)] = some (0x02, 2) := by decide
theorem test_call : (match exec (.call 0x777) (at0 (aAct (wordOf (.call 0x777)) [])) with
    | .next t => t.cur.f.pc == 0x777 && t.cur.f.rstack == [0x401] | _ => false) = true := by decide
theorem test_ret : pcOf (exec .ret (let a := aAct (wordOf .ret) []
    at0 { a with f := { a.f with rstack := [0x10, 0x20] } })) = some 0x20 ∧ atrap .ret [] = some (0x07, 0) := by decide
theorem test_loop_zero : pcOf (exec (.loop 10 3) (at0 (aAct 0xBC500003 []))) = some 0x404 := by decide
theorem test_loop : (match exec (.loop 10 3) (at0 (aAct 0xBC500003 [(10, r64 2)])) with
    | .next t => t.cur.f.loops == [{ first := 0x401, last := 0x403, reg := 10, count := 2 }] | _ => false) = true := by decide
/-- Cause, value and TRAPPC of the record: ECALL resumes behind itself (06 R127). -/
theorem test_ecall : (match exec (.ecall 0x123456) (at0 (aAct (wordOf (.ecall 0x123456)) [])) with
    | .next t => let r := Sparse.get ({} : TrapRec) (t.core 0).trapRecs 0
      r.cause == 0x09 && r.val == 0x123456 && r.pc == 0x401 | _ => false) = true := by decide
theorem test_brk : (match exec (.brk 7) (at0 (aAct (wordOf (.brk 7)) [])) with
    | .next t => let r := Sparse.get ({} : TrapRec) (t.core 0).trapRecs 0
      r.cause == 0x08 && r.val == 7 && r.pc == 0x401 | _ => false) = true := by decide
theorem test_end : (match exec .endAct (at0 (aAct (wordOf .endAct) [])) with
    | .next t => (t.act? 0 0).isNone | _ => false) = true := by decide
theorem test_eret_nothing : atrap .eret [] = some (0x02, 0) := by decide
theorem test_wfi : (match exec .wfi (at0 (aAct (wordOf .wfi) [])) with
    | .next t => t.cur.flow.wfi | _ => false) = true := by decide
theorem test_nop : (match exec .nop (at0 (aAct 0xFC000000 [])) with
    | .next t => t.cur.f.abuf == [] && t.verdict == .done | _ => false) = true := by decide
theorem test_fence : (match exec (.fenceRel 5) (at0 (aAct 0xA300004D [])) with
    | .next t => t.verdict == .done | _ => false) = true := by decide
theorem test_dqpush : (match exec (.dqpush 1 2) (at0 (aAct (wordOf (.dqpush 1 2)) [(1, r64 3), (2, r64 9)])) with
    | .next t => (t.core 0).siding == [(3, 9)] | _ => false) = true := by decide
theorem test_dqpop_empty : ar (.dqpop 1) [(2, r64 3), (3, r64 4)] 2 = some (0, false) := by decide
theorem test_tlread : ar (.tlread 1 0 0x60) [] 1 = some (0, false) := by decide
theorem test_reply_untagged : atrap (.reply 4) [(4, r64 5)] = some (0x10, 4) := by decide
theorem test_gang_core : (match exec (.gang 2) (at0 (aAct (wordOf (.gang 2)) [])) with
    | .next t => t.verdict != .stalled | _ => false) = true := by decide
theorem test_xfence_privilege : trapOf (exec (.xfence 1) (let a := aAct (wordOf (.xfence 1)) []
    at0 { a with info := { a.info with priv := false } })) = some (0x04, wordOf (.xfence 1)) := by decide
/-- A register field of an X instruction that reaches beyond the window raises ILLEGAL_OPERAND with the field (02 R24). -/
theorem test_window : trapOf (exec (.mov 5 0 100) (let a := xAct (wordOf (.mov 5 0 100)) 0
    at0 { a with info := { a.info with winSize := 64 } })) = some (0x02, 100) := by decide
theorem test_unassigned : trapOf (execWord 0xFFFFFFFF (at0 (aAct 0xFFFFFFFF []))) = some (0x01, 0xFFFFFFFF) := by decide

/-! ### Witnesses: for each obligation with hypotheses, states and operands that meet them

Where a statement has several clauses the witness has one conjunct for each. Registers: 1 and 8 hold a capability over the first
64 KiB, 3 one over the 64 KiB behind it, 4 the target core 5 with handler 1, 5 a reply capability, 6 the number 1. -/

/-- The activation `a` meets, in `s`, the hypotheses of a statement about an A instruction. -/
def Meets (s : State) (a : Activation) (pre : State → Activation → Entry → Prop) : Prop :=
  Ready s .a a ∧ pre s a (a.headEntry .a)

/-- The state meets the hypotheses of a statement about an event. -/
abbrev Met (s : State) (pre : State → Prop) : Prop := pre s

/-- The activation `a` meets, in `s`, the hypotheses of a statement about an X instruction. -/
def XMeets (s : State) (a : Activation) (ok : Entry → Bool) (op : Entry → XOp) : Prop :=
  Ready s .x a ∧ ok (a.headEntry .x) = true ∧ ∃ va vb vc a1 a2 a3, XGo s a (op (a.headEntry .x)) va vb vc a1 a2 a3

def readyB (s : State) (h : Half) (a : Activation) : Bool :=
  s.cur? == some a && a.mayDispatch h && a.flow.gang.isNone && (a.headEntry h).reservedHint.isNone &&
    (a.headEntry h).badHint.isNone

theorem readyOf {s : State} {h : Half} {a : Activation} (e : readyB s h a = true) : Ready s h a := by
  simp only [readyB, Bool.and_eq_true, beq_iff_eq, Option.isNone_iff_eq_none] at e
  exact ⟨e.1.1.1.1, e.1.1.1.2, e.1.1.2, e.1.2, e.2⟩

theorem readableOf {a : Activation} {rs : List Nat}
    (e : rs.all (fun r => a.regReady (a.headEntry .a).seq r) = true) : Readable a rs :=
  fun r hr => List.all_eq_true.mp e r hr

def xgoB (s : State) (a : Activation) (op : XOp) : Bool :=
  (match readOpt a 0 op.a with
   | some (_, a1) => match readOpt a1 0 op.b with
     | some (_, a2) => (readOpt a2 0 op.c).isSome
     | none => false
   | none => false) &&
  s.dstReady a (a.headEntry .x).seq (dstOf op.d op.dw) && srcOkOpt a op.a && srcOkOpt a op.b &&
  (a.dstOk op.d op.dw && !(op.dWide && decide (112 ≤ op.d)) &&
    (dstOf op.d op.dw != .outb || decide (a.outPending + op.dw ≤ 512)))

theorem xgoOf {s : State} {a : Activation} {op : XOp} (e : xgoB s a op = true) :
    ∃ va vb vc a1 a2 a3, XGo s a op va vb vc a1 a2 a3 := by
  unfold xgoB at e
  split at e
  · rename_i va a1 h1
    split at e
    · rename_i vb a2 h2
      simp only [Bool.and_eq_true, Option.isSome_iff_exists] at e
      obtain ⟨⟨⟨⟨⟨⟨vc, a3⟩, h3⟩, hr⟩, ha⟩, hb⟩, hd⟩ := e
      exact ⟨va, vb, vc, a1, a2, a3, h1, h2, h3, hr, ha, hb, by simpa only [Bool.and_eq_true] using hd⟩
    · simp at e
  · simp at e

def parkedB (s : State) (clu id n : Nat) : Bool :=
  match (s.eng clu id).run, (s.eng clu id).queue with
  | .parked _ _, c :: _ => c.issue == n
  | _, _ => false

theorem parkedOf {s : State} {clu id n : Nat} (e : parkedB s clu id n = true) : ParkedWith s clu id n := by
  unfold parkedB at e
  split at e
  · rename_i code val c rest h1 h2
    exact ⟨code, val, c, rest, h1, h2, by simpa using e⟩
  · simp at e

/-- Registers and queues for the instructions below. -/
def rich : Activation :=
  { aAct 0xFC000000 [(1, mkCap 0 0x10000 0x3BF), (3, mkCap 0x10000 0x20000 0x3BF), (4, r64 (2 ^ 17 + 5)),
      (5, mkCap 0x20005 0x20006 0x20), (6, r64 1), (7, r64 0xFFF8), (8, mkCap 0 0x10000 0x3BF), (9, r64 0xFFF0)] with
    q := { xaq := [8], sdq := [1, 2, 3, 4] } }

/-- The part with an activation that runs in a partition which owns every cluster; its region may claim eight macros. -/
def owned (a : Activation) : State :=
  { at0 a with parts := [(0, { entry := BitVec.ofNat 1024 (2 ^ 768 + 2 ^ 256 - 1) })], regions := [(0, { eff := { cims := 8, slices := 448 } })] }

/-- The same with this context `id` of cluster 0. -/
def withEng (a : Activation) (id : Nat) (e : EngCtx) : State :=
  { owned a with clusters := [(0, { holder := some 0, eng := [(id, e)], macs := [(0, { owner := some (32, 0) })] })] }

/-- A command with nothing to do. -/
def idleCmd : EngCmd := { issue := 1, core := 0, region := 0, work := .done }

/-- A parked operation with issue number 1. -/
def parkedEng : EngCtx := { queue := [idleCmd], run := .parked 0x20 0 }

/-- A register of the rich activation replaced. -/
def richWith (l : Sparse AReg) : Activation := { rich with regs := l.foldl (fun m x => Sparse.put m x.1 x.2) rich.regs }

/-- The entries of SDQ replaced by the 64 bytes of a record. -/
def richRec (r : Nat) : Activation :=
  { rich with q := { rich.q with sdq := [BitVec.ofNat 128 r, BitVec.ofNat 128 (r / 2 ^ 128), BitVec.ofNat 128 (r / 2 ^ 256),
      BitVec.ofNat 128 (r / 2 ^ 384)] } }

def richEight : Activation := { rich with f := { rich.f with rstack := [1, 2, 3, 4, 5, 6, 7, 8], spilled := 63 } }
def richSpilled : Activation := { rich with f := { rich.f with spilled := 1 } }
def richLoop : Activation :=
  { rich with f := { rich.f with loops := [{ first := 0x3F0, last := 0x410, reg := 6, count := 2 }] } }
def richTrap : Activation := { rich with info := { rich.info with serves := some 7 } }
def hinted : Activation :=
  { rich with f := { rich.f with abuf := [{ entry 0xFC000000 with hints := [0xFB000000] }] } }
def withSiding : State := { owned rich with cores := [(0, { (owned rich).core 0 with siding := [(0, 2)] })] }
/-- A copy of two rows of four bytes, and the check of one. -/
def copyRec : Nat := 2 ^ 64 * 4 + 2 ^ 96 * 2 + 2 ^ 112 * 4 + 2 ^ 192 * 4 + 2 ^ 224 * 2 + 2 ^ 240 * 4
def copyOne : CopyRec := BitVec.ofNat 512 copyRec
def checkRec : Nat := 2 ^ 64 * 4 + 2 ^ 96 * 2 + 2 ^ 112 * 4 + 2 ^ 128 * 16 + 2 ^ 224 * 2 + 2 ^ 240 * 4 + 2 ^ 400 * 64
/-- The same with a compressed destination. -/
def copyPacked : CopyRec := BitVec.ofNat 512 (copyRec + 2 ^ 295)
def popped (a : Activation) : Activation := { a with q := { a.q with sdq := [] } }
/-- Context `id` of cluster 0 has performed one operation. -/
def withTimeline (id : Nat) : State :=
  { owned rich with clusters := [(0, { tl := [(id, { issued := 1, counter := 1 })] })] }
def cmdOf (w : Work) : EngCmd := { idleCmd with work := w }
def engOf (r : Run) (w : Work) : EngCtx := { queue := [cmdOf w], run := r }
/-- Matrix context 0 owns macro 0 and holds a loop nest of one iteration. -/
def withMacro (a : Activation) : State :=
  { owned a with clusters := [(0, { macs := [(0, { owner := some (32, 0) })], matrix := [(32, { nest := 1 })] })] }
/-- Chain context 0 has a program. -/
def chainProg : ChainCtx := { prog := mkCap 0 0x10000 0x3BF }
def withProg : State := { owned rich with clusters := [(0, { chains := [(64, chainProg)] })] }
/-- Its run has parked with writes begun. -/
def withWrites : State :=
  { owned rich with clusters := [(0, {
      chains := [(64, { chainProg with wb := some { grad := true, rows := 1, n := 1, accrow := 0, shift := 0, sw := 0, p := 0, b := 0, bdo := 1, q := 0 } })], eng := [(64, parkedEng)] })] }
/-- Grammar context 0 holds a grammar of one top symbol. -/
def withGrammar (a : Activation) (desc : Nat) : State :=
  { owned a with clusters := [(0, { grammars := [(0x60, {
      gram := mkCap 0 0x10000 0x3BF, rrt := mkCap 0x10000 0x20000 0x3BF, desc := BitVec.ofNat 256 desc })] })] }
/-- The part with other contents of cluster 0, or of core 0. -/
def inCluster (c : Cluster) : State := { owned rich with clusters := [(0, c)] }
def inCore (c : Core) : State := { owned rich with cores := [(0, c)] }
/-- A handler entry: valid, privileged, two groups of slices, at word address 0x400. -/
def handlerWord : Nat := 0x400 + 2 ^ 14 + 2 ^ 19 + 2 ^ 20
/-- Region 0 holds cluster 0, whose core 0 has handlers 0 and 1. -/
def held : State :=
  ({ owned rich with clusters := [(0, { holder := some 0 })] } : State).putBytes (lmBase 0)
    (toBytes 8 handlerWord ++ toBytes 8 (handlerWord + 2 ^ 17))
/-- An access of the rich activation, and the state with it and a packet that carries its only part. -/
def accOf (k : AccKind) (st : AccStage) : Access :=
  { id := 5, core := 0, act := 1, entry := entry 0xFC000000, kind := k, va := 0x1000, off := 0
    pieces := [{ pa := 0x1000, off := 0, len := 8 }], stage := st }
def withAcc (x : Access) : State := { owned rich with accs := [x], nextId := 10 }
def withPacket (p : Place) (b : Body) : State :=
  { owned rich with accs := [accOf (.steal 2) .sent], net := [{ id := 9, src := .core 5, dst := p, body := b }], nextId := 10 }
def withLoad : State :=
  { withPacket (.hbm 1) (.piece 5 0) with accs := [accOf (.load 0 64 false) .sent] }
/-- A stage ring at the start of CM 0 with slot 0 to be filled, and a STACQ that waits there. -/
def ringAcc : Access :=
  { accOf (.stacq 2 0) .sent with pieces := [{ pa := 0xC800000000, off := 0, len := 64 }] }
def withRing : State := { withAcc ringAcc with clusters := [(0, { ring := [{ acc := 5, pa := 0xC800000000 }] })] }
def message : Message := { header := BitVec.ofNat 64 (2 ^ 17) }
def withMessage : State := { held with net := [{ id := 9, src := .core 5, dst := .lm 0, body := .message message }], nextId := 10 }
def heldWith (c : Core) : State := { held with cores := [(0, c)] }
def drainedAct : Activation := { rich with flow := { rich.flow with status := .draining .a 0 } }
def parkedAct : Activation := { rich with flow := { rich.flow with status := .parked 0x400 } }
def victimAct : Activation := { rich with flow := { rich.flow with status := .victim true true (.parked 0x400) } }
def savedAct : Saved := { act := victimAct, record := {}, ctx := 0, winOut := true, ctxOut := true }
/-- A victim whose head is FENCE.REL.SYS while its cluster holds combined stores; a state whose first HBM block is retired. -/
def sysVictim : Activation := { victimAct with f := { victimAct.f with abuf := [entry 0xA300004D] } }
def waitsSys : State :=
  { heldWith { acts := [(0, sysVictim)] } with
    clusters := [(0, { holder := some 0, wc := [{ line := 4, valid := 1, data := 7, first := 0 }] })] }
def retiredOf (s : State) : State := { s with platform := { s.platform with retired := [0] } }
/-- The operation `w` stands, as `r` says, at the head of context `id` of cluster 0. -/
def engAt (id : Nat) (r : Run) (w : Work) : State := withEng rich id (engOf r w)
def copyOf : Work := .copy (BitVec.ofNat 512 copyRec) (mkCap 0 0x10000 0x3BF) (mkCap 0x10000 0x20000 0x3BF)
def grammarOf : GrammarOp :=
  { kind := 0, desc := BitVec.ofNat 256 (2 ^ 32), gram := mkCap 0 0x10000 0x3BF, rrt := mkCap 0x10000 0x20000 0x3BF,
    res := mkCap 0x20000 0x30000 0x3BF, off := 0 }
/-- The region of the operation has a page table at 0x4000, of which no entry is buffered. -/
def tableOp : GrammarOp := { grammarOf with kind := 1 }
def pagedGrammar : State :=
  { engAt 0x60 .idle (.grammar tableOp) with regions := [(0, { eff := { ptroot := 0x4000 } })] }
/-- A copy context of cluster 0 whose page a walker serves. -/
def engMiss : EngWalk := { id := 5, region := 0, pos := { va := 0x1000, table := 0x4000 } }
def withEngMiss : State := inCluster { eng := [(7, { engOf .running copyOf with walk := some engMiss })] }
def withFinished : State :=
  inCluster { eng := [(0x60, engOf .running (.grammar grammarOf))], grammars := [(0x60, { run := { fin := true } })] }
/-- A command without a block for context `id`: the opcode and the 16 bits behind it, and the second word. -/
def command (op f9 v : Nat) : Command :=
  { payload := BitVec.ofNat 512 (op + 2 ^ 8 * f9 + 2 ^ 64 * v), len := 16, cap := none, core := 0, region := 0 }
def blockCommand : Command := { command 0xF0 0 0 with cap := some (mkCap 0 0x10000 0x3BF).data }
def withCommand (s : State) (id : Nat) (c : Command) : State :=
  { s with net := [{ id := 9, src := .core 0, dst := .engine 0 id, body := .command c }], nextId := 10 }
def slotFrame : Frame := { desc := BitVec.ofNat 512 (2 ^ 300), ranges := [], refusal := 0 }
def withFrame : State := inCluster { enc := [(0, { bound := some (0, 0, 0, 0), frame := some slotFrame })] }
/-- VF 0 serves partition 0; its slot 0 holds the record `r`. -/
def withVf (s : State) (r : Nat) (ph : ServePhase) (st : BitVec 2) : State :=
  { s with
    platform := { s.platform with sched := true, enc := 1, readyClu := BitVec.ofNat 256 (2 ^ 256 - 1) }
    vfs := [(0, { bound := true, slots := [(0, BitVec.ofNat 1024 r)], order := [0], phase := ph, stat := [(0, st)] })] }
def asVf (v : Vf) : State := { owned rich with vfs := [(0, v)] }
def launchRec (kind : Nat) : Nat := kind + 2 ^ 384 * (2 ^ 1 + 1) + 2 ^ 400 * 100000
/-- A PREPARE under way, at its coordinator or at another package. -/
def prepareOf (c : Option Nat) (p : Bool) : Prepare :=
  { record := BitVec.ofNat 1024 (launchRec 3), vf := 0, slot := 0, coord := c, awaiting := [1], limit := 0, prepared := p }
def withPrepared (p : Prepare) : State := { withVf (owned rich) (launchRec 3) (.waiting 0) 2 with prepare := [p] }
def withPrepare (c : Option Nat) (p : Bool) : State := withPrepared (prepareOf c p)
/-- Region 0 with this contract, and nothing of it alive. -/
def withContract (c : Contract) (live : Bool) : State :=
  { (if live then owned rich else { owned rich with cores := [] }) with
    clock := 2500
    regions := [(0, { eff := { cims := 8, slices := 448, cmask := 1, quantum := 1000, energy := 1, eper := 1000 }, launched := true, contract := c })] }
def contract : Contract :=
  { period := 1000, budget := 500, deadline := 1000, admitted := true, release := some 0, active := true, ready := true, left := 500 }
/-- Region 0 holds cluster 0, in the quantum under way. -/
def holding (s : State) : State := s.setCluster 0 { s.cluster 0 with holder := some 0, quantum := 1 }
/-- A launch of region 0 with an image, which waits for cluster 0 or has placed there. -/
def placingAs (ph : ServePhase) : State := withVf (withContract {} true) (launchRec 0 + 2 ^ 128) ph 2
def notLaunched : State := { withContract {} true with regions := [(0, { eff := { cmask := 1, quantum := 1000 } })] }
/-- A unit of LM 0 that region 1 holds and whose copy for region 0 waits, for which an access has arrived. -/
def savedUnit : State :=
  { withPacket (.lm 0) (.piece 5 0) with
    accs := [{ accOf (.load 0 64 false) .sent with pieces := [{ pa := 0xC000000000, off := 0, len := 8 }] }]
    units := [(0xC000000, { owner := some 1, saved := [0] })] }
def withEnergy : State := { owned rich with clock := 2500, regions := [(0, { eff := { eper := 1000 } })] }
def halted : State := inCore { acts := [(0, rich)], dbg := { halt := true } }
def stepping : State := inCore { acts := [(0, parkedAct)], dbg := { halt := true, stepping := some 0 } }
def withDebug : State := asVf { bound := true, scope := 8, expiry := 1, dbgSel := BitVec.ofNat 21 (0x50 * 2 ^ 13) }
def asSpdm : State :=
  { owned rich with spdm := [(0, { version := true, caps := true, negotiated := true, exchange := true, session := true })] }
/-- A join in the own LM, which no walk precedes. -/
def ownJoin : Access := { accOf .join .sent with va := ownLm }
/-- A load of the region whose table stands at 0x4000: no translation buffer knows its page. -/
def mapped : Access := { accOf (.load 0 64 false) .sent with pieces := [] }
def withRoot (a : Activation) : State := { at0 a with regions := [(0, { eff := { ptroot := 0x4000 } })] }
/-- An atomic that has arrived, while the engine of its line holds 64 others. -/
def withCae : State :=
  { withPacket (.hbm 1) (.piece 5 0) with
    accs := [accOf (.amo 2 0 64 1) .sent]
    clusters := [(caeOf 0x1000, { cae := (upTo 64).map (fun i => 0x100000 + i) })] }
/-- A gang of two whose leader is on core 0: both hold the same head. -/
def member (lane : Nat) : Activation :=
  { aAct 0xFC000000 [] with
    info := { (aAct 0xFC000000 []).info with id := lane + 1 }
    flow := { gang := some { leaderCore := 0, leaderCtx := 0, lane := lane, size := 2 } } }
def pair : State :=
  { State.reset with
    cores := [(0, { Core.reset 0 with acts := [(0, member 0)] }), (1, { Core.reset 1 with acts := [(0, member 1)] })]
    nextId := 3 }

theorem pair_ready : GangReady pair (member 0) { leaderCore := 0, leaderCtx := 0, lane := 0, size := 2 } where
  here := by decide
  may := by decide
  leads := by decide
  whole := by decide
  ready := by decide
  follow m hm := by
    rw [show (pair.gangMembers { leaderCore := 0, leaderCtx := 0, lane := 0, size := 2 }).drop 1 = [(1, 0)] by decide,
      List.mem_singleton] at hm
    subst hm
    exact ⟨member 1, _, by decide, rfl, by decide, rfl, rfl, rfl⟩
  quiet := ⟨rfl, rfl⟩
  valid := by decide
  taken := by decide
  every := by decide
/-- An activation that has ended its fetch at an X head that pops an empty queue, in its first turn and in its second. -/
def dry : Activation := { xAct (wordOf (.mov 5 80 112)) 0 with f := { (xAct (wordOf (.mov 5 80 112)) 0).f with stop := .ended } }
def dryAgain : Activation := { dry with flow := { dry.flow with lackX := some 112 } }
/-- One whose head has been fetched in this turn. -/
def unseen : Activation := { aAct 0xA4000000 [] with f := { (aAct 0xA4000000 []).f with seen := 0 } }

theorem witness_XArithmeticResults :
    XMeets (at0 (xAct 0 0)) (xAct 0 0) anyHead (twoSrc (widthOf 0) 111 0 110) ∧
    XMeets (at0 (xAct 0 0)) (xAct 0 0) anyHead (twoSrc (widthOf 5) 80 0 48) := by
  repeat' (first
    | decide | exact pair_ready | exact readyOf (by decide) | exact readableOf (by decide) | rfl | exact xgoOf (by decide)
    | exact parkedOf (by decide) | exact ⟨_, rfl⟩ | exact ⟨_, _, rfl⟩ | apply And.intro | intro _)

theorem witness_XLogicResults :
    XMeets (at0 (xAct 0 0)) (xAct 0 0) anyHead (twoSrc (widthOf 0) 111 0 110) ∧
    XMeets (at0 (xAct 0 0)) (xAct 0 0) anyHead (twoSrc (widthOf 5) 80 0 48) := by
  repeat' (first
    | decide | exact pair_ready | exact readyOf (by decide) | exact readableOf (by decide) | rfl | exact xgoOf (by decide)
    | exact parkedOf (by decide) | exact ⟨_, rfl⟩ | exact ⟨_, _, rfl⟩ | apply And.intro | intro _)

theorem witness_XShiftResults :
    XMeets (at0 (xAct 0 0)) (xAct 0 0) anyHead (twoSrc (widthOf 5) 80 0 48) ∧
    XMeets (at0 (xAct 0 0)) (xAct 0 0) (fun e => decide (e.immU 7 3 < widthOf 0)) (oneSrc (widthOf 0) 111 0) ∧
    XMeets (at0 (xAct 0 0)) (xAct 0 0) (fun e => decide (widthOf 0 ≤ e.immU 7 4)) (oneSrc (widthOf 0) 111 0) := by
  repeat' (first
    | decide | exact pair_ready | exact readyOf (by decide) | exact readableOf (by decide) | rfl | exact xgoOf (by decide)
    | exact parkedOf (by decide) | exact ⟨_, rfl⟩ | exact ⟨_, _, rfl⟩ | apply And.intro | intro _)

theorem witness_XUnaryImmediateAndWideResults :
    XMeets (at0 (xAct 0 0)) (xAct 0 0) anyHead (oneSrc (widthOf 5) 80 0) ∧
    XMeets (at0 (xAct 0 0)) (xAct 0 0) anyHead (fun _ => ⟨none, none, none, 80, widthOf 5, false⟩) ∧
    XMeets (at0 (xAct 0 0)) (xAct 0 0) (fun e =>
      e.immU 7 3 != 0 && decide (e.immU 7 3 < widthOf 0)) (oneSrc (widthOf 0) 111 0) ∧
    XMeets (at0 (xAct 0 0)) (xAct 0 0) anyHead (fun e =>
      ⟨(twoSrc (widthOf 5) 48 0 0 e).a, (twoSrc (widthOf 5) 48 0 0 e).b, none, 48, 2 * widthOf 5, true⟩) ∧
    XMeets (at0 (xAct 0 0)) (xAct 0 0) anyHead (fun _ =>
      ⟨some ⟨0, 2 * widthOf 5, false, true⟩, some ⟨80, widthOf 5, false, false⟩, none, 80, widthOf 5, false⟩) ∧
    XMeets (at0 (xAct 0 0)) (xAct 0 0) anyHead (fun e =>
      ⟨(twoSrc (widthOf 5) 48 0 0 e).a, (twoSrc (widthOf 5) 48 0 0 e).b, some ⟨48, widthOf 5, false, true⟩, 48, widthOf 5, true⟩) := by
  repeat' (first
    | decide | exact pair_ready | exact readyOf (by decide) | exact readableOf (by decide) | rfl | exact xgoOf (by decide)
    | exact parkedOf (by decide) | exact ⟨_, rfl⟩ | exact ⟨_, _, rfl⟩ | apply And.intro | intro _)

theorem witness_PackedResults :
    XMeets (at0 (xAct 0 0)) (xAct 0 0) anyHead (plainSrc (widthOf 5) 80 0 48) := by
  repeat' (first
    | decide | exact pair_ready | exact readyOf (by decide) | exact readableOf (by decide) | rfl | exact xgoOf (by decide)
    | exact parkedOf (by decide) | exact ⟨_, rfl⟩ | exact ⟨_, _, rfl⟩ | apply And.intro | intro _)

theorem witness_FloatResults :
    XMeets (at0 (xAct 0 0)) (xAct 0 0) anyHead (plainSrc (widthOf 5) 80 0 48) ∧
    XMeets (at0 (xAct 0 0)) (xAct 0 0) anyHead (fun e =>
      ⟨(plainSrc (widthOf 5) 48 0 0 e).a, (plainSrc (widthOf 5) 48 0 0 e).b, some ⟨48, widthOf 5, false, true⟩, 48, widthOf 5, true⟩) ∧
    XMeets (at0 (xAct 0 0)) (xAct 0 0) anyHead (fun e =>
      ⟨(plainSrc (widthOf 5) 80 0 0 e).a, none, none, 80, widthOf 5, false⟩) := by
  repeat' (first
    | decide | exact pair_ready | exact readyOf (by decide) | exact readableOf (by decide) | rfl | exact xgoOf (by decide)
    | exact parkedOf (by decide) | exact ⟨_, rfl⟩ | exact ⟨_, _, rfl⟩ | apply And.intro | intro _)

theorem witness_FloatRules :
    XMeets (at0 (xAct 0 0)) (xAct 0 0) anyHead (plainSrc (widthOf 5) 80 0 48) ∧
    XMeets (at0 (xAct 0 0)) (xAct 0 0) anyHead (fun e =>
      ⟨(plainSrc (widthOf 5) 80 0 0 e).a, none, none, 80, widthOf 5, false⟩) := by
  repeat' (first
    | decide | exact pair_ready | exact readyOf (by decide) | exact readableOf (by decide) | rfl | exact xgoOf (by decide)
    | exact parkedOf (by decide) | exact ⟨_, rfl⟩ | exact ⟨_, _, rfl⟩ | apply And.intro | intro _)

theorem witness_ReductionAndConversionResults :
    XMeets (at0 (xAct 0 0)) (xAct 0 0) anyHead (fun e =>
      ⟨(plainSrc (widthOf 5) 80 0 0 e).a, none, none, 80, widthOf 5, false⟩) ∧
    XMeets (at0 (xAct 0 0)) (xAct 0 0) anyHead (fun _ =>
      ⟨some ⟨0, widthOf 5 / max (fmtWidth 0) (fmtWidth 4) * fmtWidth 0, false, false⟩, none, none, 80, widthOf 5 / max (fmtWidth 0) (fmtWidth 4) * fmtWidth 4, false⟩) := by
  repeat' (first
    | decide | exact pair_ready | exact readyOf (by decide) | exact readableOf (by decide) | rfl | exact xgoOf (by decide)
    | exact parkedOf (by decide) | exact ⟨_, rfl⟩ | exact ⟨_, _, rfl⟩ | apply And.intro | intro _)

theorem witness_ARegisterResults :
    Meets (owned rich) rich (fun _ a e => Readable a [7, 6] ∧ anyHead e = true) ∧
    Meets (owned rich) rich (fun _ a e => Readable a [7] ∧ decide (e.immU 14 63 < 64) = true) ∧
    Meets (owned rich) rich (fun _ a e => Readable a [7] ∧ 64 ≤ e.immU 14 64) ∧
    (1 : Nat) ≠ 0 := by
  repeat' (first
    | decide | exact pair_ready | exact readyOf (by decide) | exact readableOf (by decide) | rfl | exact xgoOf (by decide)
    | exact parkedOf (by decide) | exact ⟨_, rfl⟩ | exact ⟨_, _, rfl⟩ | apply And.intro | intro _)

theorem witness_DerivationResults :
    Meets (owned rich) rich (fun _ a e => Readable a [1, 7] ∧ anyHead e = true) ∧
    (capBase (rich.reg 1) 0x10000).tag = true ∧
    (capLen (rich.reg 1) 0x10000).tag = true ∧
    (capPerm (rich.reg 1) 0x40).tag = true := by
  repeat' (first
    | decide | exact pair_ready | exact readyOf (by decide) | exact readableOf (by decide) | rfl | exact xgoOf (by decide)
    | exact parkedOf (by decide) | exact ⟨_, rfl⟩ | exact ⟨_, _, rfl⟩ | apply And.intro | intro _)

theorem witness_QueueAndFieldTransfers :
    Meets (owned rich) (rich) (fun _ a _ => Readable a [1] ∧ (a.ldq 1).length < 16) ∧
    Meets (owned rich) (rich) (fun _ a _ => a.q.xaq = (8 : Word64) :: []) ∧
    Meets (owned rich) rich (fun _ a e => Readable a [1] ∧ anyHead e = true) := by
  repeat' (first
    | decide | exact pair_ready | exact readyOf (by decide) | exact readableOf (by decide) | rfl | exact xgoOf (by decide)
    | exact parkedOf (by decide) | exact ⟨_, rfl⟩ | exact ⟨_, _, rfl⟩ | apply And.intro | intro _)

theorem witness_LoadsComplete :
    Meets (owned rich) (rich) (fun s a _ => Sends s a ∧ (a.ldq 0).length < 16 ∧ Readable a [1, 7] ∧
      Admits (a.reg 1) [permLD] (a.lo 7) (2 ^ 3) 1 (2 ^ 3)) ∧
    Meets (owned (richWith [(7, r64 0xFFF0)])) (richWith [(7, r64 0xFFF0)]) (fun s a _ => a.q.xaq = (8 : Word64) :: [] ∧
      Sends s a ∧ (a.ldq 1).length < 16 ∧ Readable a [1, 7] ∧
      Admits (a.reg 1) [permLD] ((a.lo 7 + (8 : Word64).toNat) % 2 ^ 64) (2 ^ 3) 1 (2 ^ 3)) ∧
    Meets (owned rich) (rich) (fun s a _ => Sends s a ∧ Readable a [1, 7] ∧
      Admits (a.reg 1) [permLD] (a.lo 7) (2 ^ 3) 1 (2 ^ 3)) ∧
    Meets (owned rich) (rich) (fun s a _ => Sends s a ∧ Readable a [1, 9] ∧
      Admits (a.reg 1) [permLD, permLDC] (a.lo 9) 16 1 16) ∧
    Meets (owned rich) (rich) (fun s a _ => Sends s a ∧ (a.ldq 0).length < 16 ∧ Readable a [1, 7] ∧
      Admits (a.reg 1) [permLD] (a.lo 7) (2 * 2 ^ 2) 2 1) := by
  repeat' (first
    | decide | exact pair_ready | exact readyOf (by decide) | exact readableOf (by decide) | rfl | exact xgoOf (by decide)
    | exact parkedOf (by decide) | exact ⟨_, rfl⟩ | exact ⟨_, _, rfl⟩ | apply And.intro | intro _)

theorem witness_StoresComplete :
    Meets (owned rich) (rich) (fun s a _ => Sends s a ∧ a.q.sdq = 1 :: [2, 3, 4] ∧ Readable a [1, 7] ∧
      Admits (a.reg 1) [permST] (a.lo 7) (2 ^ 3) 1 (2 ^ 3) ∧ Ordered s a 1 5) ∧
    Meets (owned (richWith [(7, r64 0xFFF0)])) (richWith [(7, r64 0xFFF0)]) (fun s a _ => a.q.xaq = (8 : Word64) :: [] ∧
      Sends s a ∧ a.q.sdq = 1 :: [2, 3, 4] ∧ Readable a [1, 7] ∧
      Admits (a.reg 1) [permST] ((a.lo 7 + (8 : Word64).toNat) % 2 ^ 64) (2 ^ 3) 1 (2 ^ 3) ∧ Ordered s a 1 5) ∧
    Meets (owned rich) (rich) (fun s a _ => Sends s a ∧ a.q.sdq = 1 :: [2, 3, 4] ∧ Readable a [1, 9, 6] ∧
      Admits (a.reg 1) [permST] (a.lo 9) (maskSpan (fld (a.reg 6).data.toNat 0 16)) 1 1 ∧ Ordered s a 1 5) ∧
    Meets (owned rich) (rich) (fun s a _ => Sends s a ∧ a.q.sdq = 1 :: [2, 3, 4] ∧ Readable a [1, 9, 0] ∧
      Admits (a.reg 1) [permST] (a.lo 9) (maskSpan (fld (a.reg 0).data.toNat 0 16)) 1 1 ∧ Ordered s a 0 0) ∧
    Meets (owned rich) (rich) (fun s a _ => Sends s a ∧ Readable a [1, 7, 6] ∧
      Admits (a.reg 1) [permST] (a.lo 7) (2 ^ 3) 1 (2 ^ 3) ∧ Ordered s a 1 5) ∧
    Meets (owned rich) (rich) (fun s a _ => Sends s a ∧ Readable a [1, 9, 3] ∧
      Admits (a.reg 1) [permST, permSTC] (a.lo 9) 16 1 16 ∧ (a.reg 3).tag = true ∧ Ordered s a 1 5) ∧
    Meets (owned rich) (rich) (fun s a _ => Sends s a ∧ a.q.sdq = 1 :: [2, 3, 4] ∧ Readable a [1, 7] ∧
      Admits (a.reg 1) [permST] (a.lo 7) (2 * 2 ^ 2) 2 1) := by
  repeat' (first
    | decide | exact pair_ready | exact readyOf (by decide) | exact readableOf (by decide) | rfl | exact xgoOf (by decide)
    | exact parkedOf (by decide) | exact ⟨_, rfl⟩ | exact ⟨_, _, rfl⟩ | apply And.intro | intro _)

theorem witness_AtomicsAndFencesComplete :
    Meets (owned rich) (rich) (fun s a _ => Sends s a ∧ Readable a [1, 7, 6] ∧
      Admits (a.reg 1) [permAMO] (a.lo 7) (4 * 2 ^ 1) 1 (4 * 2 ^ 1) ∧ Ordered s a 1 5) ∧
    Meets (owned rich) (rich) (fun s a _ => Sends s a ∧ Readable a [1, 7, 2 * 10, 2 * 10 + 1] ∧
      Admits (a.reg 1) [permAMO] (a.lo 7) (4 * 2 ^ 1) 1 (4 * 2 ^ 1) ∧ Ordered s a 1 5) ∧
    Meets (owned rich) (rich) (fun s a _ => Orderly s a ∧ s.acquired a.info.id = true) ∧
    Meets (owned rich) (rich) (fun s a _ => Orderly s a ∧ Ordered s a 1 5) ∧
    Meets (owned rich) (rich) (fun s a _ => Orderly s a ∧ s.acquired a.info.id = true ∧ Ordered s a 1 5) ∧
    Meets (owned rich) (rich) (fun s a e => Orderly s a ∧ a.info.priv = true ∧ Ordered s a 1 5 ∧
      s.translatedInScope 5 s.focus.core (s.rootOf a.info.region) = false ∧
      s.wcInScope 5 s.focus.core (s.rootOf a.info.region) = false ∧
      (s.staleInScope 5 s.focus.core (s.rootOf a.info.region) = false ∨ e.hints = [])) := by
  repeat' (first
    | decide | exact pair_ready | exact readyOf (by decide) | exact readableOf (by decide) | rfl | exact xgoOf (by decide)
    | exact parkedOf (by decide) | exact ⟨_, rfl⟩ | exact ⟨_, _, rfl⟩ | apply And.intro | intro _)

theorem witness_BlockMovesAndRepeats :
    Meets (owned rich) (rich) (fun s a _ => Sends s a ∧ Readable a [3, 3 + 1, 1, 1 + 1, 0] ∧ a.lo 0 = 0) ∧
    Meets (owned rich) (rich) (fun s a _ => Sends s a ∧ Readable a [1, 1 + 1, 0, 0 + 1] ∧ a.lo 0 = 0) ∧
    Meets (owned (richWith [(2, r64 0xFFF0), (9, r64 0xFFF0), (11, r64 8)])) (richWith [(2, r64 0xFFF0), (9, r64 0xFFF0), (11, r64 8)]) (fun s a _ =>
      Sends s a ∧ Readable a [3, 4, 1, 2, 6] ∧ 0 < a.lo 6 ∧ Admits (a.reg 1) [permLD] (a.lo 2) (min 16 (a.lo 6)) 1 1 ∧
      Admits (a.reg 3) [permST] (a.lo 2) (min 16 (a.lo 6)) 1 1) ∧
    Meets (owned (richWith [(2, r64 0xFFF0), (9, r64 0xFFF0), (11, r64 8)])) (richWith [(2, r64 0xFFF0), (9, r64 0xFFF0), (11, r64 8)]) (fun s a _ =>
      Sends s a ∧ Readable a [8, 9, 6, 7] ∧ 0 < a.lo 6 ∧ (a.ldq 0).length < 16 ∧
      Admits (a.reg 8) [permLD] (a.lo 9) (2 ^ 3) 1 (2 ^ 3)) ∧
    Meets (owned (richWith [(2, r64 0xFFF0), (9, r64 0xFFF0), (11, r64 8)])) (richWith [(2, r64 0xFFF0), (9, r64 0xFFF0), (11, r64 8)]) (fun s a _ =>
      Sends s a ∧ Readable a [8, 9, 6, 7] ∧ 0 < a.lo 6 ∧ a.q.sdq = 1 :: [2, 3, 4] ∧
      Admits (a.reg 8) [permST] (a.lo 9) (2 ^ 3) 1 (2 ^ 3)) := by
  repeat' (first
    | decide | exact pair_ready | exact readyOf (by decide) | exact readableOf (by decide) | rfl | exact xgoOf (by decide)
    | exact parkedOf (by decide) | exact ⟨_, rfl⟩ | exact ⟨_, _, rfl⟩ | apply And.intro | intro _)

theorem witness_CsrAccess :
    Meets (owned rich) (rich) (fun s _ e => s.xDrained e.seq = true ∧ e.immU 14 0x0FF < 0x1000 ∧
      csrAssigned (e.immU 14 0x0FF) = true) ∧
    Meets (owned (richWith [(1, mkCap 0 0x10000 0x3BF), (7, r64 0x10000)])) (richWith [(1, mkCap 0 0x10000 0x3BF), (7, r64 0x10000)]) (fun s a e =>
      s.xDrained e.seq = true ∧ Readable a [1, 7] ∧ e.immU 14 0x003 < 0x1000 ∧
      (a.info.priv = true ∨ csrProtected (e.immU 14 0x003) = false) ∧ (a.reg 1).tag = true ∧ (a.reg 1).perm permCSR = true ∧
      csrAssigned (e.immU 14 0x003) = true ∧ csrReadOnly (e.immU 14 0x003) = false ∧
      (e.immU 14 0x003 = 0x003 → xbOk (a.lo 7) = true ∧ s.ownWritesDone s.focus.core a.info.id = true)) ∧
    Meets (owned rich) (rich) (fun s a e => s.xDrained e.seq = true ∧ Readable a [1, 7] ∧ e.immU 14 0x007 < 0x1000 ∧
      (a.info.priv = true ∨ csrProtected (e.immU 14 0x007) = false) ∧ (a.reg 1).tag = true ∧ (a.reg 1).perm permCSR = true ∧
      csrAssigned (e.immU 14 0x007) = true ∧ csrReadOnly (e.immU 14 0x007) = false ∧
      (e.immU 14 0x007 = 0x003 → xbOk (a.lo 7) = true ∧ s.ownWritesDone s.focus.core a.info.id = true)) ∧
    Meets (owned rich) rich (fun s _ e => s.xDrained e.seq = true ∧ e.immU 14 0x00E < 0x1000 ∧
      csrAssigned (e.immU 14 0x00E) = false) ∧
    Meets (owned rich) rich (fun s a e => s.xDrained e.seq = true ∧ Readable a [6, 7] ∧ e.immU 14 0x00C < 0x1000 ∧
      (a.reg 6).tag = false) ∧
    Meets (owned rich) rich (fun s a e => s.xDrained e.seq = true ∧ Readable a [5, 7] ∧ e.immU 14 0x00C < 0x1000 ∧
      (a.reg 5).tag = true ∧ (a.reg 5).perm permCSR = false) ∧
    Meets (owned rich) rich (fun s a e => s.xDrained e.seq = true ∧ Readable a [1, 7] ∧ e.immU 14 0x00C < 0x1000 ∧
      (a.reg 1).tag = true ∧ (a.reg 1).perm permCSR = true ∧ csrReadOnly (e.immU 14 0x00C) = true) ∧
    Meets (owned (richWith [(1, mkCap 0 0x10000 0x3BF), (7, r64 0x10001)])) (richWith [(1, mkCap 0 0x10000 0x3BF), (7, r64 0x10001)]) (fun s a e =>
      s.xDrained e.seq = true ∧ Readable a [1, 7] ∧ e.immU 14 0x003 = 0x003 ∧ s.ownLmQuiet s.focus.core = true ∧
      (a.reg 1).tag = true ∧ (a.reg 1).perm permCSR = true ∧ xbOk (a.lo 7) = false) := by
  repeat' (first
    | decide | exact pair_ready | exact readyOf (by decide) | exact readableOf (by decide) | rfl | exact xgoOf (by decide)
    | exact parkedOf (by decide) | exact ⟨_, rfl⟩ | exact ⟨_, _, rfl⟩ | apply And.intro | intro _)

theorem witness_BranchesComplete :
    Meets (owned rich) (rich) (fun _ a _ => Readable a [6, 7]) ∧
    Meets (owned rich) (rich) (fun _ a _ => a.q.xaq = (8 : Word64) :: []) ∧
    Meets (owned (aAct 0xFC000000 [])) (aAct 0xFC000000 []) (fun _ a _ => a.q.xaq = []) ∧
    Meets (owned rich) (rich) (fun _ _ _ => True) ∧
    Meets (owned (richWith [(7, r64 0xFFFC)])) (richWith [(7, r64 0xFFFC)]) (fun _ a _ => Readable a [7] ∧ a.lo 7 % 4 = 0 ∧
      a.lo 7 < 65536) := by
  repeat' (first
    | decide | exact pair_ready | exact readyOf (by decide) | exact readableOf (by decide) | rfl | exact xgoOf (by decide)
    | exact parkedOf (by decide) | exact ⟨_, rfl⟩ | exact ⟨_, _, rfl⟩ | apply And.intro | intro _)

theorem witness_CallsReturnsAndLoopsComplete :
    Meets (owned rich) (rich) (fun _ a _ => a.f.rstack.length < 8 ∧ a.f.rstack.length + a.f.spilled < 72) ∧
    Meets (owned richEight) (richEight) (fun s a _ => a.f.rstack = 1 :: [2, 3, 4, 5, 6, 7, 8] ∧ 8 ≤ a.f.rstack.length ∧
      a.f.rstack.length + a.f.spilled < 72 ∧ s.ownLmQuiet s.focus.core = true) ∧
    Meets (owned richEight) (richEight) (fun _ a _ => a.f.rstack.getLast? = some 8) ∧
    Meets (owned richSpilled) (richSpilled) (fun s a _ => a.f.rstack = [] ∧ a.f.spilled ≠ 0 ∧
      s.ownLmQuiet s.focus.core = true) ∧
    Meets (owned rich) (rich) (fun _ a e => Readable a [0] ∧ e.wpc.toNat + 0x3BFF ≤ 0x3FFF ∧ a.lo 0 = 0) ∧
    Meets (owned richLoop) (richLoop) (fun _ a e => Readable a [6] ∧ e.wpc.toNat + 0x10 ≤ 0x3FFF ∧ a.lo 6 ≠ 0 ∧
      a.f.loops.length < 2 ∧
      ∀ r ∈ a.f.loops, r.first.toNat ≤ e.wpc.toNat → e.wpc.toNat ≤ r.last.toNat → e.wpc.toNat + 0x10 ≤ r.last.toNat) := by
  repeat' (first
    | decide | exact pair_ready | exact readyOf (by decide) | exact readableOf (by decide) | rfl | exact xgoOf (by decide)
    | exact parkedOf (by decide) | exact ⟨_, rfl⟩ | exact ⟨_, _, rfl⟩ | apply And.intro | intro _)

theorem witness_EndsWaitsAndGangs :
    Meets (owned rich) (rich) (fun _ a _ => XQuiet a) ∧
    Meets (owned richTrap) (richTrap) (fun _ a _ => XQuiet a ∧ a.info.priv = true ∧ a.info.serves = some 7) ∧
    Meets (owned richTrap) (richTrap) (fun _ a _ => XQuiet a ∧ a.info.priv = true ∧ a.info.serves.isSome = true) ∧
    Meets (owned rich) (rich) (fun _ a _ => a.info.priv = true) ∧
    Meets (owned rich) (rich) (fun s a _ => XQuiet a ∧ Readable a (upTo 32) ∧ s.focus.core % 4 = 0 ∧ a.f.loops = [] ∧
      ∀ i ∈ upTo (4 - 1), (s.followerRoom (s.focus.core + i + 1) a.info.region a.info.winSize).isSome = true) ∧
    Meets (owned rich) (rich) (fun _ a _ => XQuiet a) ∧
    GangReady pair (member 0) { leaderCore := 0, leaderCtx := 0, lane := 0, size := 2 } := by
  repeat' (first
    | decide | exact pair_ready | exact readyOf (by decide) | exact readableOf (by decide) | rfl | exact xgoOf (by decide)
    | exact parkedOf (by decide) | exact ⟨_, rfl⟩ | exact ⟨_, _, rfl⟩ | apply And.intro | intro _)

theorem witness_NopAndSystemCalls :
    Meets (owned rich) (rich) (fun _ _ _ => True) ∧
    Meets (owned rich) (rich) (fun _ _ _ => True) ∧
    0 < 2 ^ 24 - 1 ∧ 2 ^ 24 - 1 < 2 ^ 24 := by
  repeat' (first
    | decide | exact pair_ready | exact readyOf (by decide) | exact readableOf (by decide) | rfl | exact xgoOf (by decide)
    | exact parkedOf (by decide) | exact ⟨_, rfl⟩ | exact ⟨_, _, rfl⟩ | apply And.intro | intro _)

theorem witness_HintsTakeTheirCycle :
    (owned hinted).cur? = some hinted ∧ (∃ h e, hintHalf hinted (owned hinted).focus.half 0xFB000000 = some h ∧
      hinted.buf h = [e] ∧ e.taken < e.hints.length) := by
  exact ⟨by decide, .a, { entry 0xFC000000 with hints := [0xFB000000] }, by decide, by decide, by decide⟩

theorem witness_SendsAndTimelinesComplete :
    Meets (owned rich) (rich) (fun s a _ => SendsMessage s a ∧ Readable a [4] ∧ a.lo 4 < 2 ^ 25 ∧ fld (a.lo 4) 17 8 ≠ 0 ∧
      s.coreInPartition a.info.region (fld (a.lo 4) 13 4) (fld (a.lo 4) 0 13) = true) ∧
    Meets (owned rich) (rich) (fun s a _ => SendsMessage s a ∧ Readable a [4] ∧ a.lo 4 < 2 ^ 25 ∧ fld (a.lo 4) 17 8 ≠ 0 ∧
      s.coreInPartition a.info.region (fld (a.lo 4) 13 4) (fld (a.lo 4) 0 13) = true) ∧
    Meets (owned rich) (rich) (fun s a _ => SendsMessage s a ∧ Readable a [4, 5] ∧ a.lo 4 < 2 ^ 25 ∧ fld (a.lo 4) 17 8 ≠ 0 ∧
      s.coreInPartition a.info.region (fld (a.lo 4) 13 4) (fld (a.lo 4) 0 13) = true ∧ IsReply (a.reg 5)) ∧
    Meets (owned rich) (rich) (fun s a _ => SendsMessage s a ∧ Readable a [5] ∧ IsReply (a.reg 5)) ∧
    Meets (owned (richWith [(4, r64 (2 ^ 8 * 255 + 0x60))])) (richWith [(4, r64 (2 ^ 8 * 255 + 0x60))]) (fun s a _ =>
      SendsMessage s a ∧ Readable a (if 1 = 1 then [4, 1] else [4]) ∧ contextOk (fld (a.lo 4) 0 8) = true ∧ a.lo 4 < 2 ^ 20 ∧
      s.coreInPartition a.info.region (fld (a.lo 4) 16 4) (32 * fld (a.lo 4) 8 8) = true ∧ (1 = 1 → (a.reg 1).tag = true ∧
      (a.reg 1).perm permMSG = true ∧ (a.reg 1).perm permENG = true)) ∧
    Meets (owned (richWith [(4, r64 (2 ^ 8 * 255 + 0x60))])) (richWith [(4, r64 (2 ^ 8 * 255 + 0x60))]) (fun s a _ =>
      SendsMessage s a ∧ Readable a (if 0 = 1 then [4, 1] else [4]) ∧ contextOk (fld (a.lo 4) 0 8) = true ∧ a.lo 4 < 2 ^ 20 ∧
      s.coreInPartition a.info.region (fld (a.lo 4) 16 4) (32 * fld (a.lo 4) 8 8) = true ∧ (0 = 1 → (a.reg 1).tag = true ∧
      (a.reg 1).perm permMSG = true ∧ (a.reg 1).perm permENG = true)) ∧
    Meets (withTimeline 0x60) (rich) (fun s a _ => Readable a [6] ∧ contextOk 0x60 = true ∧
      a.lo 6 ≤ (s.timeline s.curClu 0x60).counter.toNat) ∧
    Meets (owned rich) (rich) (fun _ _ _ => contextOk 0x60 = true) ∧
    Meets (owned rich) (rich) (fun _ _ _ => True) ∧
    Meets (owned rich) (rich) (fun s a _ => Ordered s a 1 5) := by
  repeat' (first
    | decide | exact pair_ready | exact readyOf (by decide) | exact readableOf (by decide) | rfl | exact xgoOf (by decide)
    | exact parkedOf (by decide) | exact ⟨_, rfl⟩ | exact ⟨_, _, rfl⟩ | apply And.intro | intro _)

theorem witness_JoinsStagesAndSidingComplete :
    Meets (owned rich) (rich) (fun s a _ => Sends s a ∧ Readable a [1, 9] ∧ Admits (a.reg 1) [permAMO] (a.lo 9) 16 1 16 ∧
      Ordered s a 1 5) ∧
    Meets (owned (richWith [(9, r64 0xFFC0)])) (richWith [(9, r64 0xFFC0)]) (fun s a _ => Sends s a ∧ Readable a [1, 9] ∧
      Admits (a.reg 1) [permAMO] (a.lo 9) 64 1 16) ∧
    Meets (owned (richWith [(9, r64 0xFFC0)])) (richWith [(9, r64 0xFFC0)]) (fun s a _ => Sends s a ∧ Readable a [1, 9, 6] ∧
      Admits (a.reg 1) [permAMO] (a.lo 9) 64 1 16 ∧ Ordered s a 1 3 ∧ fld (a.lo 6) 4 28 = 0) ∧
    Meets (owned rich) (rich) (fun s a _ => Readable a [6, 7] ∧ s.curCore.siding.length < 32) ∧
    Meets (owned rich) (rich) (fun _ _ _ => True) ∧
    Met withSiding (fun s => (splitTop s.curCore.siding).length ≤ 32) ∧
    Meets (owned rich) (rich) (fun s _ _ => (splitTop s.curCore.siding).length ≤ 32) ∧
    Meets (owned (richWith [(4, r64 0x1FFF)])) (richWith [(4, r64 0x1FFF)]) (fun s a _ => Sends s a ∧ Readable a [4] ∧
      a.lo 4 < 2 ^ 17 ∧ s.coreInPartition a.info.region (fld (a.lo 4) 13 4) (fld (a.lo 4) 0 13) = true) := by
  repeat' (first
    | decide | exact pair_ready | exact readyOf (by decide) | exact readableOf (by decide) | rfl | exact xgoOf (by decide)
    | exact parkedOf (by decide) | exact ⟨_, rfl⟩ | exact ⟨_, _, rfl⟩ | apply And.intro | intro _)

theorem witness_CopiesComplete :
    Meets (owned (richRec copyRec)) (richRec copyRec) (fun s a _ => Orderly s a ∧ s.portTakes 7 (1 == 1) = true ∧
      Readable a [1, 3] ∧ popRecord a = some ((BitVec.ofNat 512 copyRec), popped (richRec copyRec)) ∧
      copyChecks (BitVec.ofNat 512 copyRec) (a.reg 1) (a.reg 3) 1 3 = none) ∧
    Meets (owned (richRec checkRec)) (richRec checkRec) (fun s a _ => Orderly s a ∧ s.portTakes 7 false = true ∧
      Readable a [1, 3] ∧ popRecord a = some ((BitVec.ofNat 512 checkRec), popped (richRec checkRec)) ∧
      checkChecks (BitVec.ofNat 512 checkRec) (a.reg 1) (a.reg 3) 1 3 = none) ∧
    Meets (withTimeline 7) (rich) (fun s a _ => Readable a [6] ∧ a.lo 6 ≤ (s.timeline s.curClu 7).counter.toNat) ∧
    Meets (withEng rich 7 (engOf .running (.copy 0 {} {}))) rich (fun s a _ => Readable a [6] ∧
      (s.timeline s.curClu 7).counter.toNat < a.lo 6 ∧ (s.eng s.curClu 7).busy = true ∧ a.lo 6 = 1 ∧
      (s.eng s.curClu 7).head = some (cmdOf (.copy 0 {} {}))) ∧
    Meets (owned rich) (rich) (fun s a _ => Readable a [6] ∧ (s.timeline s.curClu 7).counter.toNat < a.lo 6 ∧
      ((s.eng s.curClu 7).busy = false ∨ ∀ q, (s.eng s.curClu 7).head = some q → q.issue ≠ a.lo 6)) ∧
    Meets (withEng rich 7 parkedEng) (rich) (fun s a _ => CanUse s a ∧ Readable a [6] ∧ ParkedWith s s.curClu 7 (a.lo 6)) ∧
    Meets (withEng rich 7 parkedEng) (rich) (fun s a _ => CanUse s a ∧ Readable a [6] ∧ ParkedWith s s.curClu 7 (a.lo 6)) := by
  repeat' (first
    | decide | exact pair_ready | exact readyOf (by decide) | exact readableOf (by decide) | rfl | exact xgoOf (by decide)
    | exact parkedOf (by decide) | exact ⟨_, rfl⟩ | exact ⟨_, _, rfl⟩ | apply And.intro | intro _)

theorem witness_MatrixCommandsComplete :
    Meets (owned (richWith [(6, r64 255)])) (richWith [(6, r64 255)]) (fun s a _ => CanUse s a ∧ Readable a [6] ∧
      a.lo 6 < 256 ∧
      (s.cluster s.curClu).claimBad (matrixId 0) a.info.region (s.region a.info.region).eff.cims.toNat (maskList (a.lo 6)) = none) ∧
    Meets (owned rich) (rich) (fun s a _ => CanUse s a ∧ Readable a [6] ∧ a.lo 6 < 256 ∧
      (s.timeline s.curClu (matrixId 0)).counter = (s.timeline s.curClu (matrixId 0)).issued) ∧
    Meets (withEng rich 32 parkedEng) (rich) (fun s a _ => CanUse s a ∧ Readable a [6] ∧
      ParkedWith s s.curClu (matrixId 0) (a.lo 6)) ∧
    Meets (withEng rich 32 parkedEng) (rich) (fun s a _ => CanUse s a ∧ Readable a [6] ∧
      ParkedWith s s.curClu (matrixId 0) (a.lo 6)) ∧
    Meets (owned (richRec 1)) (richRec 1) (fun s a _ => CanUse s a ∧
      popRecord a = some ((BitVec.ofNat 512 1), popped (richRec 1)) ∧ nestBad (BitVec.ofNat 512 1) = none) ∧
    Meets (owned (richWith [(6, r64 (2 ^ 8 * 508))])) (richWith [(6, r64 (2 ^ 8 * 508))]) (fun s a _ => CanUse s a ∧
      a.ldqFree 1 = true ∧ Readable a [6] ∧ a.lo 6 < 2 ^ 17 ∧ (false = true ∨ fld (a.lo 6) 8 9 + 4 ≤ 512)) ∧
    Meets (withMacro (richWith [(10, r64 0xFF00)])) ((richWith [(10, r64 0xFF00)])) (fun s a _ => CanIssue s a 32 (1 == 1) ∧
      Readable a [1, 10, 10 + 1] ∧ mldbChecks (s.cluster s.curClu) 32 (a.reg 1) 1 (a.lo 10) (a.lo (10 + 1)) = none) ∧
    Meets (withMacro (richWith [(10, r64 0xFC00)])) ((richWith [(10, r64 0xFC00)])) (fun s a _ => CanIssue s a 32 (1 == 1) ∧
      Readable a [1, 10, 10 + 1] ∧ mspecChecks (s.cluster s.curClu) 32 (a.reg 1) 1 (a.lo 10) (a.lo (10 + 1)) = none) ∧
    Meets (withMacro (richWith [(6, r64 (255 * 2 ^ 8))])) (richWith [(6, r64 (255 * 2 ^ 8))]) (fun s a _ =>
      CanIssue s a 32 (1 == 1) ∧ Readable a [6] ∧ mzeroChecks (a.lo 6) = none) ∧
    Meets (withMacro (richWith [(10, r64 0xFE00), (11, r64 1), (12, r64 0)])) ((richWith [(10, r64 0xFE00), (11, r64 1), (12, r64 0)])) (fun s a _ =>
      CanIssue s a 32 (1 == 1) ∧ Readable a [1, 10, 10 + 1, 10 + 2] ∧
      mmaChecks (s.cluster s.curClu) (s.eng s.curClu 32) 32 false oneNest (a.reg 1) 1 (a.lo 10) (a.lo (10 + 1)) (a.lo (10 + 2)) = none) ∧
    Meets (withMacro (richWith [(10, r64 0xFE00), (11, r64 1), (12, r64 0)])) ((richWith [(10, r64 0xFE00), (11, r64 1), (12, r64 0)])) (fun s a _ =>
      CanIssue s a 32 (1 == 1) ∧ Readable a [1, 10, 10 + 1, 10 + 2] ∧
      mmaChecks (s.cluster s.curClu) (s.eng s.curClu 32) 32 true (s.matrix s.curClu 32).nest (a.reg 1) 1 (a.lo 10) (a.lo (10 + 1)) (a.lo (10 + 2)) = none) ∧
    Meets (withMacro (richWith [(10, r64 0xFFFC), (11, r64 (255 + 511 * 2 ^ 16))])) ((richWith [(10, r64 0xFFFC), (11, r64 (255 + 511 * 2 ^ 16))])) (fun s a _ =>
      CanIssue s a 32 (1 == 1) ∧ Readable a [1, 10, 10 + 1] ∧ mcopyChecks (a.reg 1) 1 (a.lo 10) (a.lo (10 + 1)) = none) := by
  repeat' (first
    | decide | exact pair_ready | exact readyOf (by decide) | exact readableOf (by decide) | rfl | exact xgoOf (by decide)
    | exact parkedOf (by decide) | exact ⟨_, rfl⟩ | exact ⟨_, _, rfl⟩ | apply And.intro | intro _)

theorem witness_ChainsComplete :
    Meets (owned (richWith [(6, r64 4096)])) (richWith [(6, r64 4096)]) (fun s a _ => CanUse s a ∧ s.chainFree 64 = true ∧
      Readable a [6] ∧ 1 ≤ a.lo 6 ∧ a.lo 6 ≤ 4096) ∧
    Meets (owned rich) (rich) (fun s a _ => CanUse s a ∧ s.chainFree 64 = true ∧ Readable a [1, 3] ∧
      Admits (a.reg 1) [permLD, permENG] 0 64 1 1 ∧ Admits (a.reg 3) [permLD, permST, permENG] 0 0 1 1 ∧
      bufChecks (a.reg 3) = none) ∧
    Meets (withEng rich 64 parkedEng) (rich) (fun s a _ => CanUse s a ∧ Readable a [3] ∧
      keepChecks (s.sendFault s.curClu 64) s.curClu 64 (a.reg 3) 3 = none) ∧
    Meets (withProg) (rich) (fun s a _ => CanUse s a ∧ s.chainFree 64 = true ∧ (s.chain s.curClu 64).prog.tag = true) ∧
    Meets (withEng rich 64 parkedEng) (rich) (fun s a _ => CanUse s a ∧ Readable a [6] ∧
      ParkedWith (s.sendFault s.curClu 64) s.curClu 64 (a.lo 6)) ∧
    Meets (withEng rich 64 parkedEng) (rich) (fun s a _ => CanUse s a ∧ Readable a [6] ∧
      ParkedWith (s.sendFault s.curClu 64) s.curClu 64 (a.lo 6)) ∧
    Meets (owned rich) (rich) (fun s a _ => s.ownsCluster a.info.region s.curClu = true) ∧
    Meets (owned rich) (rich) (fun s a _ => CanUse s a ∧ s.chainFree 64 = true ∧ Readable a [0, 6]) ∧
    Meets (owned rich) (rich) (fun s a _ => CanUse s a ∧ s.chainFree 64 = true ∧ Readable a [1, 9] ∧
      gradChecks (a.reg 1) 1 (a.lo 9) = none) := by
  repeat' (first
    | decide | exact pair_ready | exact readyOf (by decide) | exact readableOf (by decide) | rfl | exact xgoOf (by decide)
    | exact parkedOf (by decide) | exact ⟨_, rfl⟩ | exact ⟨_, _, rfl⟩ | apply And.intro | intro _)

theorem witness_GrammarsComplete :
    Meets (owned { rich with q := { xaq := [], sdq := [BitVec.ofNat 128 (2 ^ 32 + 2 ^ 64 * 0xFFF8), 0] } }) ({ rich with q := { xaq := [], sdq := [BitVec.ofNat 128 (2 ^ 32 + 2 ^ 64 * 0xFFF8), 0] } }) (fun s a _ =>
      CanUse s a ∧ a.q.sdq = (BitVec.ofNat 128 (2 ^ 32 + 2 ^ 64 * 0xFFF8)) :: (0 : Word128) :: [] ∧
      s.grammarFree 0x60 = true ∧ Readable a [1, 3] ∧ Admits (a.reg 1) [permLD, permENG] 0 0 1 1 ∧
      Admits (a.reg 3) [permLD, permST, permENG] 0 0 1 1 ∧
      (∀ z ∈ descFields (BitVec.ofNat 256 ((BitVec.ofNat 128 (2 ^ 32 + 2 ^ 64 * 0xFFF8)).toNat + 2 ^ 128 * (0 : Word128).toNat)), z.1 = false) ∧
      ∀ z ∈ descRanges (BitVec.ofNat 256 ((BitVec.ofNat 128 (2 ^ 32 + 2 ^ 64 * 0xFFF8)).toNat + 2 ^ 128 * (0 : Word128).toNat)), z.1 + z.2 ≤ (a.reg 1).top - (a.reg 1).base) ∧
    Meets (withGrammar (richWith [(10, r64 0xFF00), (11, r64 1)]) (2 ^ 32)) (richWith [(10, r64 0xFF00), (11, r64 1)]) (fun s a _ =>
      CanIssue s a 0x60 true ∧ Readable a [1, 10] ∧
      grammarChecks ((s.grammar s.curClu 0x60).op 0 0 false (a.reg 1) (a.lo 10) 0 0) 1 = none) ∧
    Meets (withGrammar (richWith [(10, r64 0xFF00), (11, r64 1)]) (2 ^ 32)) (richWith [(10, r64 0xFF00), (11, r64 1)]) (fun s a _ =>
      CanIssue s a 0x60 true ∧ Readable a [1, 10] ∧
      grammarChecks ((s.grammar s.curClu 0x60).op 1 0 false (a.reg 1) (a.lo 10) 0 0) 1 = none) ∧
    Meets (withGrammar (richWith [(10, r64 0xFF00), (11, r64 1)]) (2 ^ 32)) (richWith [(10, r64 0xFF00), (11, r64 1)]) (fun s a _ =>
      CanIssue s a 0x60 true ∧ Readable a [1, 10, 11] ∧
      grammarChecks ((s.grammar s.curClu 0x60).op 1 0 true (a.reg 1) (a.lo 10) (a.lo 11) 0) 1 = none) ∧
    Meets (withGrammar (richWith [(10, r64 0xFF00), (12, r64 (2 ^ 8))]) (2 ^ 32 + 3 * 2 ^ 192 + 2 ^ 194 + 2 ^ 200)) (richWith [(10, r64 0xFF00), (12, r64 (2 ^ 8))]) (fun s a _ =>
      CanIssue s a 0x60 true ∧ Readable a [1, 10, 11, 12] ∧
      grammarChecks ((s.grammar s.curClu 0x60).op 2 opADDW64 false (a.reg 1) (a.lo 10) (a.lo 11) (a.lo 12)) 1 = none) ∧
    Meets (withGrammar (richWith [(10, r64 0xFF00), (11, r64 1)]) (2 ^ 32)) (richWith [(10, r64 0xFF00), (11, r64 1)]) (fun s a _ =>
      CanIssue s a 0x60 true ∧ Readable a [1, 10, 11] ∧
      grammarChecks ((s.grammar s.curClu 0x60).op 3 0 false (a.reg 1) (a.lo 10) (a.lo 11) 0) 1 = none) ∧
    Meets (owned rich) (rich) (fun s a _ => s.ownsCluster a.info.region s.curClu = true) ∧
    Meets (withEng rich 0x60 parkedEng) (rich) (fun s a _ => CanUse s a ∧ Readable a [6] ∧
      ParkedWith s s.curClu 0x60 (a.lo 6)) ∧
    Meets (withEng rich 0x60 parkedEng) (rich) (fun s a _ => CanUse s a ∧ Readable a [6] ∧
      ParkedWith s s.curClu 0x60 (a.lo 6)) := by
  repeat' (first
    | decide | exact pair_ready | exact readyOf (by decide) | exact readableOf (by decide) | rfl | exact xgoOf (by decide)
    | exact parkedOf (by decide) | exact ⟨_, rfl⟩ | exact ⟨_, _, rfl⟩ | apply And.intro | intro _)

theorem witness_CoreEventsComplete :
    Ready (at0 (aAct 0xFFFFFFFF [])) (if isXWord 0xFFFFFFFF then .x else .a) (aAct 0xFFFFFFFF []) ∧
    Ready ((at0 dry).focusOn 0 0) (if (1 : Nat) = 0 then .a else .x) dry ∧ starvedPort dry dry .x = some 112 ∧
      dry.lack .x ≠ some 112 ∧
    Ready ((at0 dryAgain).focusOn 0 0) (if (1 : Nat) = 0 then .a else .x) dryAgain ∧
      starvedPort dryAgain dryAgain .x = some 112 ∧ dryAgain.lack .x = some 112 ∧
    (encode (.xfence 1)).isSome = true ∧ (at0 unseen).cur? = some unseen ∧ unseen.f.seen ≤ (unseen.headEntry .a).seq ∧
      unseen.f.seen ≤ (unseen.headEntry .x).seq ∧
    Met (owned rich) (fun s => s.act? 0 0 = some rich ∧ rich.fetches = true) ∧
    Met (at0 { rich with pend := [{ dest := .slices 0 64, value := 1, flags := 0 }, { dest := .slices 64 64, value := 2 }] }) (fun s =>
      s.act? 0 0 = some ({ rich with pend := [{ dest := .slices 0 64, value := 1, flags := 0 }, { dest := .slices 64 64, value := 2 }] } : Activation) ∧
      ({ rich with pend := [{ dest := .slices 0 64, value := 1, flags := 0 }, { dest := .slices 64 64, value := 2 }] } : Activation).pend[1]? = some ({ dest := .slices 64 64, value := 2 } : XWrite) ∧
      ∀ q ∈ ({ rich with pend := [{ dest := .slices 0 64, value := 1, flags := 0 }, { dest := .slices 64 64, value := 2 }] } : Activation).pend.take 1, q.dest.meets ({ dest := .slices 64 64, value := 2 } : XWrite).dest = false) := by
  repeat' (first
    | decide | exact pair_ready | exact readyOf (by decide) | exact readableOf (by decide) | rfl | exact xgoOf (by decide)
    | exact parkedOf (by decide) | exact ⟨_, rfl⟩ | exact ⟨_, _, rfl⟩ | apply And.intro | intro _)

theorem witness_AccessEventsComplete :
    Met (withAcc (accOf (.load 0 64 false) .answered)) (fun s => s.accs[0]? = some (accOf (.load 0 64 false) .answered) ∧
      s.mrdValue (accOf (.load 0 64 false) .answered) = none ∧ (accOf (.load 0 64 false) .answered).stage = .answered ∧
      (accOf (.load 0 64 false) .answered).ghost = false ∧ (accOf (.load 0 64 false) .answered).kind.isLoad = true ∧
      s.answerArrived (accOf (.load 0 64 false) .answered) = true ∧
      (∀ u v n c, (accOf (.load 0 64 false) .answered).kind ≠ .chunk u v n c) ∧
      ∀ d, (accOf (.load 0 64 false) .answered).kind ≠ .steal d) ∧
    Met (withAcc (accOf (.store 1 0x00FF) .answered)) (fun s => s.accs[0]? = some (accOf (.store 1 0x00FF) .answered) ∧
      s.mrdValue (accOf (.store 1 0x00FF) .answered) = none ∧ (accOf (.store 1 0x00FF) .answered).stage = .answered ∧
      (accOf (.store 1 0x00FF) .answered).kind.isLoad = false ∧ s.olderSibling (accOf (.store 1 0x00FF) .answered) = false ∧
      s.answerArrived (accOf (.store 1 0x00FF) .answered) = true) ∧
    Met (withLoad) (fun s => s.net[0]? = some ({ id := 9, src := .core 5, dst := .hbm 1, body := .piece 5 0 } : Packet) ∧
      s.arrived ({ id := 9, src := .core 5, dst := .hbm 1, body := .piece 5 0 } : Packet) = true ∧
      ({ id := 9, src := .core 5, dst := .hbm 1, body := .piece 5 0 } : Packet).body = .piece (accOf (.load 0 64 false) .sent).id 0 ∧
      s.accs.find? (fun y => y.id == (accOf (.load 0 64 false) .sent).id) = some (accOf (.load 0 64 false) .sent) ∧
      (∀ d, (accOf (.load 0 64 false) .sent).kind ≠ .steal d) ∧
      (accOf (.load 0 64 false) .sent).pieces[0]? = some ({ pa := 0x1000, off := 0, len := 8 } : Piece) ∧
      s.pieceWaits (accOf (.load 0 64 false) .sent) ({ pa := 0x1000, off := 0, len := 8 } : Piece) = false) ∧
    Met withRing (fun s => s.accs[0]? = some ringAcc ∧ (s.grantable ringAcc).isSome = true) ∧
    Met (withAcc { accOf (.load 0 64 false) (.refused 0x21 0) with pieces := [] }) (fun s =>
      s.accs[0]? = some ({ accOf (.load 0 64 false) (.refused 0x21 0) with pieces := [] } : Access) ∧
      ({ accOf (.load 0 64 false) (.refused 0x21 0) with pieces := [] } : Access).stage = .refused 0x21 0 ∧
      ({ accOf (.load 0 64 false) (.refused 0x21 0) with pieces := [] } : Access).complete = true ∧
      ({ accOf (.load 0 64 false) (.refused 0x21 0) with pieces := [] } : Access).ghost = false ∧
      s.answerArrived ({ accOf (.load 0 64 false) (.refused 0x21 0) with pieces := [] } : Access) = true ∧
      s.inSequence ({ accOf (.load 0 64 false) (.refused 0x21 0) with pieces := [] } : Access).core ({ accOf (.load 0 64 false) (.refused 0x21 0) with pieces := [] } : Access).act = false) ∧
    Met (at0 ({ rich with flow := { rich.flow with walk := some ownJoin } } : Activation)) (fun s => 0 < 8192 ∧
      s.act? 0 0 = some ({ rich with flow := { rich.flow with walk := some ownJoin } } : Activation) ∧
      ({ rich with flow := { rich.flow with walk := some ownJoin } } : Activation).flow.walk = some ownJoin ∧
      (s.core 0).lock ≠ some 0 ∧ s.walkAddr ownJoin = none) ∧
    Met (withRoot ({ rich with flow := { rich.flow with walk := some mapped } } : Activation)) (fun s => 0 < 8192 ∧
      s.act? 0 0 = some ({ rich with flow := { rich.flow with walk := some mapped } } : Activation) ∧
      ({ rich with flow := { rich.flow with walk := some mapped } } : Activation).flow.walk = some mapped ∧
      (s.core 0).lock ≠ some 0 ∧ s.walkAddr mapped = some 0x1000 ∧ s.hasWalker (0 / 2048) mapped.id = true) ∧
    Met (withEngMiss) (fun s => (s.eng 0 7).walk = some engMiss ∧ s.hasWalker (0 / 64) engMiss.id = true) ∧
    Met ({ inCluster { wc := [{ line := 4, valid := 1, data := 7, first := 0 }] } with clock := 2500 }) (fun s =>
      (s.cluster 0).wc[0]? = some ({ line := 4, valid := 1, data := 7, first := 0 } : WcBuf) ∧
      ({ line := 4, valid := 1, data := 7, first := 0 } : WcBuf).first + 1000 ≤ s.ns) ∧
    Met (withCae) (fun s => s.caeAsked 1 = true) ∧
    Met (withPacket (.lm 0) (.piece 5 0)) (fun s =>
      s.net = [({ id := 9, src := .core 5, dst := .lm 0, body := .piece 5 0 } : Packet)] ∧
      s.arrived ({ id := 9, src := .core 5, dst := .lm 0, body := .piece 5 0 } : Packet) = true ∧
      ({ id := 9, src := .core 5, dst := .lm 0, body := .piece 5 0 } : Packet).dst = .lm 0 ∧
      ({ id := 9, src := .core 5, dst := .lm 0, body := .piece 5 0 } : Packet).body = .piece (accOf (.steal 2) .sent).id 0 ∧
      s.accs = [(accOf (.steal 2) .sent)] ∧ (accOf (.steal 2) .sent).kind = .steal 2) ∧
    (withPacket (.pkg 1) (.piece 5 0)).net[0]? = some { id := 9, src := .core 5, dst := .pkg 1, body := .piece 5 0 } ∧
      (withPacket (.pkg 1) (.piece 5 0)).arrived { id := 9, src := .core 5, dst := .pkg 1, body := .piece 5 0 } = true ∧
      (withPacket (.pkg 1) (.piece 5 0)).accs.find? (fun y => y.id == 5) = some (accOf (.steal 2) .sent) := by
  repeat' (first
    | decide | exact pair_ready | exact readyOf (by decide) | exact readableOf (by decide) | rfl | exact xgoOf (by decide)
    | exact parkedOf (by decide) | exact ⟨_, rfl⟩ | exact ⟨_, _, rfl⟩ | apply And.intro | intro _)
  all_goals (rename_i h; nomatch h)

theorem witness_MessageEventsComplete :
    Met withMessage (fun s => s.net.length = 1 ∧
      s.arrived { id := 9, src := .core 5, dst := .lm 0, body := .message message } = true ∧
      s.ingressWaits 0 message = false ∧ (s.deliver 0 message).isSome = true) ∧
    Met (inCore { acts := [(0, rich)], outbound := [(1, .toCore message)] }) (fun s =>
      (s.core 0).outbound = (1, .toCore message) :: [] ∧
      s.routeDown (fld (putFld message.header.toNat 52 12 (fld s.ns 4 12) % 2 ^ 64) 13 4) = false) ∧
    Met (heldWith { iq := [(0, [message])] }) (fun s => (s.physOf 0).failed = false ∧ (s.cluster (0 / 32)).gated = none ∧
      (s.core 0).claimPending = false ∧ s.gangReserved 0 = false ∧ s.nextParked 0 = none ∧ s.admissible 0 0 ≠ []) ∧
    Met (heldWith { iq := [(3, [message])], selected := some 3 }) (fun s => (s.physOf 0).failed = false ∧
      (s.cluster (0 / 32)).gated = none ∧ (s.core 0).claimPending = false ∧ s.gangReserved 0 = false ∧ s.nextParked 0 = none ∧
      s.admissible 0 0 = [] ∧ s.nextSaved 0 = none ∧ (s.core 0).selected = some 3 ∧ s.admissible 0 3 ≠ []) := by
  repeat' (first
    | decide | exact pair_ready | exact readyOf (by decide) | exact readableOf (by decide) | rfl | exact xgoOf (by decide)
    | exact parkedOf (by decide) | exact ⟨_, rfl⟩ | exact ⟨_, _, rfl⟩ | apply And.intro | intro _)

theorem witness_ParkingAndRestoringComplete :
    Met (heldWith { acts := [(0, drainedAct)] }) (fun s => s.act? 0 0 = some drainedAct ∧ drainedAct.drained = true ∧
      drainedAct.info.serves = none ∧ ((s.touch drainedAct.info.region (lmBase 0) false).trapEntry 0).isSome = true) ∧
    Met (heldWith { acts := [(0, parkedAct)], parked := [1] }) (fun s => (s.core 0).claimPending = false ∧
      s.gangReserved 0 = false ∧ s.nextParked 0 = some 1 ∧ s.actById 0 1 = some parkedAct ∧
      ((s.touch parkedAct.info.region (lmBase 0) false).physOf 0).failed = false ∧
      (s.touch parkedAct.info.region (lmBase 0) false).trapEntry 0 = some handlerWord ∧
      ((s.touch parkedAct.info.region (lmBase 0) false).freeStorage 0 parkedAct.info.region (16 * (hWin handlerWord + 1))).isSome = true) ∧
    Met (heldWith { acts := [(0, victimAct)] }) (fun s => s.act? 0 0 = some victimAct ∧
      victimAct.flow.status = .victim true true (.parked 0x400) ∧ s.victimReleased 0 victimAct = true ∧
      s.mustFlush 0 victimAct = false ∧ s.recordLost victimAct.info.region 0 0 = none) ∧
    Met (waitsSys) (fun s => s.act? 0 0 = some sysVictim ∧ sysVictim.flow.status = .victim true true (.parked 0x400) ∧
      (true || true) = true ∧ (s.mustFlush 0 sysVictim = true ∨ s.victimReleased 0 sysVictim = true ∧
      s.recordLost sysVictim.info.region 0 0 = some 0)) ∧
    Met (retiredOf (heldWith { acts := [(0, victimAct)] })) (fun s => s.act? 0 0 = some victimAct ∧
      victimAct.flow.status = .victim true true (.parked 0x400) ∧ (true || true) = true ∧
      (s.mustFlush 0 victimAct = true ∨ s.victimReleased 0 victimAct = true ∧
      s.recordLost victimAct.info.region 0 0 = some 0)) ∧
    Met (retiredOf (heldWith { saved := [savedAct] })) (fun s => s.admissible 0 0 = [] ∧ (s.core 0).claimPending = false ∧
      (s.physOf 0).failed = false ∧ s.gangReserved 0 = false ∧ s.nextSaved 0 = some savedAct ∧
      s.recordLost savedAct.act.info.region 0 savedAct.ctx = some 0 ∧
      (if savedAct.ctxOut then (s.core 0).freeCtx else some savedAct.ctx) = some 0 ∧
      (if savedAct.winOut then placeWindow (s.core 0).windows (s.savedAct 0 savedAct).info.winSize else some savedAct.act.info.winBase) = some 0 ∧
      (savedAct.winOut = true → s.slicesAllow 0 savedAct.act.info.region (s.savedAct 0 savedAct).info.winSize = true)) ∧
    Met (heldWith { saved := [savedAct] }) (fun s => s.admissible 0 0 = [] ∧ (s.core 0).claimPending = false ∧
      (s.physOf 0).failed = false ∧ s.gangReserved 0 = false ∧ s.nextSaved 0 = some savedAct ∧
      s.recordLost savedAct.act.info.region 0 savedAct.ctx = none ∧
      (if savedAct.ctxOut then (s.core 0).freeCtx else some savedAct.ctx) = some 0 ∧
      (if savedAct.winOut then placeWindow (s.core 0).windows (s.savedAct 0 savedAct).info.winSize else some savedAct.act.info.winBase) = some 0 ∧
      (savedAct.winOut = true → s.slicesAllow 0 savedAct.act.info.region (s.savedAct 0 savedAct).info.winSize = true)) := by
  repeat' (first
    | decide | exact pair_ready | exact readyOf (by decide) | exact readableOf (by decide) | rfl | exact xgoOf (by decide)
    | exact parkedOf (by decide) | exact ⟨_, rfl⟩ | exact ⟨_, _, rfl⟩ | apply And.intro | intro _)

theorem witness_EngineOperationsComplete :
    Met (engAt 7 .idle copyOf) (fun s =>
      s.engMayBegin 0 7 = some { (cmdOf .done) with work := .copy copyOne (mkCap 0 0x10000 0x3BF) (mkCap 0x10000 0x20000 0x3BF) }) ∧
    Met (engAt 7 .running copyOf) (fun s =>
      Runs s 0 7 { (cmdOf .done) with work := .copy copyOne (mkCap 0 0x10000 0x3BF) (mkCap 0x10000 0x20000 0x3BF) } ∧
      (s.copyProg 0 7).row < copyOne.outRows ∧ s.engAsked 0 7 (cmdOf .done).region = false ∧
      (copyOne.crcm = 2 → (s.copyProg 0 7).verified = true) ∧ copyOne.cdst = false) ∧
    Met (engAt 7 .running (.copy copyPacked (mkCap 0 0x10000 0x3BF) (mkCap 0x10000 0x20000 0x3BF))) (fun s =>
      Runs s 0 7 { (cmdOf .done) with work := .copy copyPacked (mkCap 0 0x10000 0x3BF) (mkCap 0x10000 0x20000 0x3BF) } ∧
      (s.copyProg 0 7).row < copyPacked.outRows ∧ s.engAsked 0 7 (cmdOf .done).region = false ∧
      (copyPacked.crcm = 2 → (s.copyProg 0 7).verified = true) ∧ copyPacked.cdst = true) ∧
    Met (engAt 7 .running (.check copyOne (mkCap 0 0x10000 0x3BF) (mkCap 0x10000 0x20000 0x3BF))) (fun s =>
      Runs s 0 7 { (cmdOf .done) with work := .check copyOne (mkCap 0 0x10000 0x3BF) (mkCap 0x10000 0x20000 0x3BF) } ∧
      (s.copyProg 0 7).verified = false ∧ s.engAsked 0 7 (cmdOf .done).region = false) ∧
    Met (inCluster { eng := [(7, engOf .running copyOf)], copies := [(7, { row := 2 })] }) (fun s =>
      Runs s 0 7 { (cmdOf .done) with work := .copy copyOne (mkCap 0 0x10000 0x3BF) (mkCap 0x10000 0x20000 0x3BF) } ∧
      copyOne.outRows ≤ (s.copyProg 0 7).row) ∧
    Met (engAt 32 .idle (.mzero 0 1)) (fun s => s.engMayBegin 0 (matrixId 0) = some (cmdOf (.mzero 0 1)) ∧
      (cmdOf (.mzero 0 1)).work ≠ .done) ∧
    Met (engAt 32 .running (.mzero 0 1)) (fun s => Runs s 0 (matrixId 0) (cmdOf (.mzero 0 1)) ∧
      (s.matrix 0 (matrixId 0)).step < workSteps (cmdOf (.mzero 0 1)).work ∧
      s.engAsked 0 (matrixId 0) (cmdOf (.mzero 0 1)).region = false ∧
      (s.cluster 0).accKept (matrixId 0) (accRowsOf (cmdOf (.mzero 0 1)).work (s.matrix 0 (matrixId 0)).step).1 (accRowsOf (cmdOf (.mzero 0 1)).work (s.matrix 0 (matrixId 0)).step).2 = false) ∧
    Met (inCluster { eng := [(32, engOf .running (.mzero 0 1))], matrix := [(32, { step := 1 })] }) (fun s =>
      Runs s 0 (matrixId 0) (cmdOf (.mzero 0 1)) ∧ workSteps (cmdOf (.mzero 0 1)).work ≤ (s.matrix 0 (matrixId 0)).step) ∧
    Met (engAt 64 .idle (.chain (mkCap 0 0x10000 0x3BF))) (fun s =>
      s.engMayBegin 0 (chainId 0) = some { (cmdOf .done) with work := .chain (mkCap 0 0x10000 0x3BF) }) ∧
    Met (engAt 64 .running (.chain (mkCap 0 0x10000 0x3BF))) (fun s =>
      Runs s 0 (chainId 0) { (cmdOf .done) with work := .chain (mkCap 0 0x10000 0x3BF) } ∧
      (s.engAsked 0 (chainId 0) (cmdOf .done).region = true → (s.chain 0 (chainId 0)).mid = true)) ∧
    Met (inCluster { eng := [(64, { engOf .running (.chain (mkCap 0 0x10000 0x3BF)) with asked := [0] })], chains := [(64, { mid := true })] }) (fun s =>
      Runs s 0 (chainId 0) { (cmdOf .done) with work := .chain (mkCap 0 0x10000 0x3BF) } ∧
      (s.engAsked 0 (chainId 0) (cmdOf .done).region = true → (s.chain 0 (chainId 0)).mid = true)) ∧
    Met (engAt 0x60 .idle (.grammar grammarOf)) (fun s =>
      s.engMayBegin 0 (grammarId 0) = some { (cmdOf .done) with work := .grammar grammarOf } ∧
      (s.pinPagesOf 0 (grammarId 0) (rrtAsk 0 (grammarId 0) { (cmdOf .done) with work := .grammar grammarOf } grammarOf)).rest = none ∧
      s.rrtTaken (s.pinPagesOf 0 (grammarId 0) (rrtAsk 0 (grammarId 0) { (cmdOf .done) with work := .grammar grammarOf } grammarOf)).runs = false) ∧
    Met pagedGrammar (fun s => s.engMayBegin 0 (grammarId 0) = some (cmdOf (.grammar tableOp)) ∧
      (s.pinPagesOf 0 (grammarId 0) (rrtAsk 0 (grammarId 0) (cmdOf (.grammar tableOp)) tableOp)).rest.isSome = true) ∧
    Met (withFinished) (fun s => Runs s 0 (grammarId 0) { (cmdOf .done) with work := .grammar grammarOf } ∧
      (s.grammar 0 (grammarId 0)).run.fin = true) ∧
    Met (engAt 0x60 .running (.grammar grammarOf)) (fun s =>
      Runs s 0 (grammarId 0) { (cmdOf .done) with work := .grammar grammarOf } ∧ (s.grammar 0 (grammarId 0)).run.fin = false ∧
      s.engAsked 0 (grammarId 0) (cmdOf .done).region = false) ∧
    Met (engAt 64 (.faulted 0x51 0) .done) (fun s => (s.eng 0 64).run = .faulted 0x51 0 ∧
      (s.eng 0 64).queue = (cmdOf .done) :: []) ∧
    Met (inCluster { eng := [(7, { engOf .running copyOf with asked := [1, 0] })] }) (fun s =>
      (s.eng 0 7).queue = (cmdOf copyOf) :: [] ∧ (s.eng 0 7).asked ≠ [] ∧ s.engAtBoundary 0 7 = true) ∧
    Met (inCluster { eng := [(64, { engOf .running (.chain (mkCap 0 0x10000 0x3BF)) with asked := [1, 0] })], chains := [(64, { mid := true })] }) (fun s =>
      (s.eng 0 64).queue = (cmdOf (.chain (mkCap 0 0x10000 0x3BF))) :: [] ∧ s.engAtBoundary 0 64 = false ∧
      (s.eng 0 64).asked.filter (fun r => r != (cmdOf (.chain (mkCap 0 0x10000 0x3BF))).region) ≠ []) ∧
    Met (inCluster { eng := [(32, { lost := true })] }) (fun s => 32 / 32 = 1 ∧ (s.eng 0 32).lost = true ∧
      (s.eng 0 32).run = .idle ∧ (s.eng 0 32).queue = [] ∧ (s.eng 0 32).stopped = [] ∧ s.macrosTaken 0 32 = false ∧
      ∃ t, s.reloadMatrix 0 32 = .ok t ()) := by
  repeat' (first
    | decide | exact pair_ready | exact readyOf (by decide) | exact readableOf (by decide) | rfl | exact xgoOf (by decide)
    | exact parkedOf (by decide) | exact ⟨_, rfl⟩ | exact ⟨_, _, rfl⟩ | apply And.intro | intro _)

theorem witness_SignalsAndCommandsComplete :
    Met ({ inCluster { sb := { timers := [(7, { period := 10, next := 1000 })] } } with clock := 2500 }) (fun s => 7 < 8 ∧
      (Sparse.get ({} : SbTimer) (s.cluster 0).sb.timers 7).period ≠ 0 ∧
      (Sparse.get ({} : SbTimer) (s.cluster 0).sb.timers 7).next ≤ s.ns) ∧
    Met (withCommand (engAt 7 (.parked 0x20 0) copyOf) 7 (command 0xF2 0x10 1)) (fun s => s.net.length = 1 ∧
      s.arrived { id := 9, src := .core 0, dst := .engine 0 7, body := .command (command 0xF2 0x10 1) } = true ∧
      s.waitsForHolder { id := 9, src := .core 0, dst := .engine 0 7, body := .command (command 0xF2 0x10 1) } = false ∧
      ∃ t, commandArrival s 0 7 s.freeVal.2 (command 0xF2 0x10 1) = .done t) ∧
    Met (withCommand { withRoot rich with clusters := [(0, { holder := some 0 })] } 7 blockCommand) (fun s =>
      s.net.length = 1 ∧ s.arrived { id := 9, src := .core 0, dst := .engine 0 7, body := .command blockCommand } = true ∧
      s.waitsForHolder { id := 9, src := .core 0, dst := .engine 0 7, body := .command blockCommand } = false ∧
      ∃ region va, commandArrival s 0 7 s.freeVal.2 blockCommand = .walks region va) ∧
    Met (withCommand held 7 (command 0xFF 0 1)) (fun s => s.net.length = 1 ∧
      s.arrived { id := 9, src := .core 0, dst := .engine 0 7, body := .command (command 0xFF 0 1) } = true ∧
      s.waitsForHolder { id := 9, src := .core 0, dst := .engine 0 7, body := .command (command 0xFF 0 1) } = false ∧
      ∃ code val, commandArrival s 0 7 s.freeVal.2 (command 0xFF 0 1) = .refused code val) := by
  repeat' (first
    | decide | exact pair_ready | exact readyOf (by decide) | exact readableOf (by decide) | rfl | exact xgoOf (by decide)
    | exact parkedOf (by decide) | exact ⟨_, rfl⟩ | exact ⟨_, _, rfl⟩ | apply And.intro | intro _)

theorem witness_EncodersAndPartitionsComplete :
    Met (withFrame) (fun s => (s.encSlot 0 0).frame = some slotFrame ∧ (s.encSlot 0 0).bound = some (0, 0, 0, 0) ∧
      slotFrame.refusal = 0 ∧ (s.encSlot 0 0).unbind = false ∧ s.engQuiet 0 (encId 0) 0 = true) ∧
    Met (withVf (owned rich) 0 .idle 0) (fun s => bitAt (2 ^ 22) 22 = true ∧ s.encbindResult 0 (2 ^ 22) = 0x01) ∧
    Met (withVf (inCluster { enc := [(0, { bound := some (0, 0, 0, 0) })] }) 0 .idle 0) (fun s => bitAt 0 22 = false ∧
      s.encbindResult 0 0 = 0x01 ∧ (s.encSlot (fld 0 9 8) (fld 0 17 3)).frame = none) ∧
    Met ({ owned rich with platform := { State.reset.platform with pentry := BitVec.ofNat 1024 (2 ^ 255 + 2 ^ 320 * 0x40000000) }, parts := [] }) (fun s =>
      s.platform.busy = false ∧ s.createResult 1 = 0) ∧
    Met (owned rich) (fun s => s.platform.busy = false ∧ s.createResult 0 ≠ 0) ∧
    Met ({ owned rich with platform := { State.reset.platform with busy := true, clearing := some 0 } }) (fun s =>
      s.platform.clearing = some 0) ∧
    Met (owned rich) (fun s => s.platform.busy = false ∧ (s.part 0).active = true) ∧
    Met (owned rich) (fun s => s.platform.busy = false ∧ (s.part 1).active = false) ∧
    Met (owned rich) (fun s => s.platform.busy = false ∧ (s.part 0).active = true ∧
      ((s.vf 255).bound = true → (s.vf 255).part.toNat = 0)) ∧
    Met (owned rich) (fun s => s.platform.busy = false ∧ (s.part 0).active = true ∧
      ((s.vf 0).bound = true → (s.vf 0).part.toNat = 0)) ∧
    Met (owned rich) (fun s => s.platform.busy = false) := by
  repeat' (first
    | decide | exact pair_ready | exact readyOf (by decide) | exact readableOf (by decide) | rfl | exact xgoOf (by decide)
    | exact parkedOf (by decide) | exact ⟨_, rfl⟩ | exact ⟨_, _, rfl⟩ | apply And.intro | intro _)

theorem witness_SlotsAndLaunchesComplete :
    Met (withVf (owned rich) 0 .idle 3) (fun s => 7 < 8 ∧
      (Sparse.get (0 : BitVec 2) (s.vf 0).stat 7 = 0 ∨ Sparse.get (0 : BitVec 2) (s.vf 0).stat 7 = 3)) ∧
    Met (withVf (owned rich) 0 .idle 3) (fun s => 7 < 8 ∧
      (Sparse.get (0 : BitVec 2) (s.vf 0).stat 7 = 0 ∨ Sparse.get (0 : BitVec 2) (s.vf 0).stat 7 = 3)) ∧
    Met (withVf (owned rich) (launchRec 0) .idle 1) (fun s => Served s 0 0 0) ∧
    Met (withVf (owned rich) (launchRec 0) (.waiting 0) 2) (fun s => (s.vf 0).phase = .waiting 0 ∧
      recKind (s.slotRec 0 0) = 0) ∧
    Met (withVf (owned rich) (launchRec 0) (.placed 0) 2) (fun s => (s.vf 0).phase = .placed 0 ∧ recKind (s.slotRec 0 0) = 0 ∧
      (s.region? (recKey (s.slotRec 0 0))).isSome = true) ∧
    Met (withVf (owned rich) (launchRec 1) .idle 1) (fun s => Served s 0 0 1 ∧ recOff (s.slotRec 0 0) < 2 ^ 24) ∧
    Met (withVf (owned rich) (launchRec 2) .idle 1) (fun s => Served s 0 0 2 ∧ recOff (s.slotRec 0 0) < 2 ^ 24 ∧
      ((serving s 0 0).region? (recKey (s.slotRec 0 0))).isSome = true) ∧
    Met (withVf (owned rich) (launchRec 3) .idle 1) (fun s => Served s 0 0 3 ∧
      (∀ p ∈ s.prepare, p.coord = none → p.vf = 0 → p.slot ≠ 0) ∧ bitAt (fld (s.slotRec 0 0) 384 16) Config.package = true ∧
      (serving s 0 0).preparable (s.slotRec 0 0) = true) ∧
    Met (owned rich) (fun s => s.prepFrom 1 (BitVec.ofNat 1024 (launchRec 3)) = none ∧
      bitAt (fld (launchRec 3) 384 16) Config.package = true ∧ 1 ≠ Config.package ∧ s.preparable (launchRec 3) = true) ∧
    Met (withPrepare none false) (fun s => s.prepOwn 1 = some (prepareOf none false) ∧ s.ns ≤ (prepareOf none false).limit) ∧
    Met (withPrepare none false) (fun s => s.prepOwn 1 = some (prepareOf none false)) ∧
    Met ({ withPrepare none false with link := some (1, BitVec.ofNat 1024 (launchRec 3)) }) (fun s =>
      s.prepOwn 1 = some (prepareOf none false) ∧ s.ns ≤ (prepareOf none false).limit) ∧
    Met (withPrepare none false) (fun s => s.prepare = [(prepareOf none false)] ∧ (prepareOf none false).coord = none ∧
      (prepareOf none false).awaiting ≠ [] ∧ (prepareOf none false).limit ≤ s.ns) ∧
    Met (withPrepared { prepareOf none false with awaiting := [] }) (fun s =>
      s.prepare = [({ prepareOf none false with awaiting := [] } : Prepare)] ∧
      (({ prepareOf none false with awaiting := [] } : Prepare).awaiting = [] ∨ s.ns < ({ prepareOf none false with awaiting := [] } : Prepare).limit)) ∧
    Met (withPrepared { prepareOf none false with limit := 1 }) (fun s =>
      s.prepare = [({ prepareOf none false with limit := 1 } : Prepare)] ∧
      (({ prepareOf none false with limit := 1 } : Prepare).awaiting = [] ∨ s.ns < ({ prepareOf none false with limit := 1 } : Prepare).limit)) ∧
    Met (withPrepare (some 1) true) (fun s => s.prepOther true = some (prepareOf (some 1) true)) ∧
    Met (withPrepare (some 1) false) (fun s => s.prepOther false = some (prepareOf (some 1) false)) ∧
    Met ({ withPrepare (some 1) true with link := some (1, BitVec.ofNat 1024 (launchRec 3)) }) (fun s =>
      s.prepOther true = some (prepareOf (some 1) true)) := by
  repeat' (first
    | decide | exact pair_ready | exact readyOf (by decide) | exact readableOf (by decide) | rfl | exact xgoOf (by decide)
    | exact parkedOf (by decide) | exact ⟨_, rfl⟩ | exact ⟨_, _, rfl⟩ | apply And.intro | intro _)

theorem witness_SchedulerAndEnergyComplete :
    Met (withContract contract false) (fun s => let c := (s.region (regionKey 0 0)).contract; c.admitted = true ∧
      c.release.isSome = true ∧ c.next ≤ s.ns ∧ (c.active = false ∨ s.jobDone (regionKey 0 0) = true)) ∧
    Met (withContract contract true) (fun s => let c := (s.region (regionKey 0 0)).contract; c.admitted = true ∧
      c.release.isSome = true ∧ c.next ≤ s.ns ∧ c.active = true ∧ s.jobDone (regionKey 0 0) = false) ∧
    Met (withContract contract true) (fun s => let c := (s.region (regionKey 0 0)).contract; c.admitted = true ∧
      c.release.isSome = true ∧ c.judged = false ∧ c.due ≤ s.ns ∧ c.active = true ∧ s.jobDone (regionKey 0 0) = false) ∧
    Met (withContract { contract with held := some 0, left := 0 } true) (fun s =>
      let c := ((s.region (regionKey 0 0)).contract).charge s.ns; c.held.isSome = true ∧ c.left = 0) ∧
    Met (withContract contract false) (fun s => (((s.region (regionKey 0 0)).contract).charge s.ns).active = true ∧
      s.jobDone (regionKey 0 0) = true) ∧
    Met (holding (placingAs (.placed 0))) (fun s => (s.decideJobs ((s.ownerOf 0).getD 0)).placing 0 = true) ∧
    Met (withContract contract true) (fun s => let t := s.decideJobs ((s.ownerOf 0).getD 0); t.placing 0 = false ∧
      t.jobOn 0 = some 0 ∧ t.holdsBack 0 0 = false) ∧
    Met (holding (withContract {} true)) (fun s => let t := s.decideJobs ((s.ownerOf 0).getD 0); t.placing 0 = false ∧
      t.jobOn 0 = none ∧ (t.cluster 0).quantum = t.quantumNow 0 ∧ ((t.cluster 0).holder = some 0 ∧
      (∃ e ∈ t.regions, t.eligibleOn 0 e = true ∧ e.1 = 0) ∨ (t.cluster 0).holder = none ∧ (t.cluster 0).vacant = true)) ∧
    Met ((withContract {} true).setCluster 0 { quantum := 1, vacant := true }) (fun s =>
      let t := s.decideJobs ((s.ownerOf 0).getD 0); t.placing 0 = false ∧ t.jobOn 0 = none ∧
      (t.cluster 0).quantum = t.quantumNow 0 ∧ ((t.cluster 0).holder = some 0 ∧ (∃ e ∈ t.regions, t.eligibleOn 0 e = true ∧
      e.1 = 0) ∨ (t.cluster 0).holder = none ∧ (t.cluster 0).vacant = true)) ∧
    Met (placingAs (.waiting 0)) (fun s => let t := s.decideJobs ((s.ownerOf 0).getD 0); t.placing 0 = false ∧
      t.jobOn 0 = none ∧ t.settled 0 = false ∧ (t.placers 0 false).head? = some 0 ∧ t.holdsBack 0 0 = false) ∧
    Met (withContract {} true) (fun s => let t := s.decideJobs ((s.ownerOf 0).getD 0); t.placing 0 = false ∧
      t.jobOn 0 = none ∧ t.settled 0 = false ∧ t.placers 0 false = [] ∧
      (drawHolder (t.cluster 0).lot (t.regions.filter (t.eligibleOn 0))).1 = some 0 ∧ t.holdsBack 0 0 = false) ∧
    Met (holding notLaunched) (fun s => let t := s.decideJobs ((s.ownerOf 0).getD 0); t.placing 0 = false ∧ t.jobOn 0 = none ∧
      t.settled 0 = false ∧ t.placers 0 false = [] ∧ t.regions.filter (t.eligibleOn 0) = [] ∧ (t.cluster 0).holder = some 0 ∧
      t.mayIdle 0 0 = false ∧ t.midSequence 0 = false) ∧
    Met ({ owned rich with clock := 2500 }) (fun s => s.platform.charged < s.ns / 1000) ∧
    Met (withEnergy) (fun s => s.region? (regionKey 0 0) = some ({ eff := { eper := 1000 } } : Region) ∧
      ({ eff := { eper := 1000 } } : Region).contract.admitted = false ∧
      s.ns / ({ eff := { eper := 1000 } } : Region).eff.eper.toNat ≠ ({ eff := { eper := 1000 } } : Region).window) ∧
    Met (savedUnit) (fun s => (Sparse.get ({} : UnitRec) s.units 0xC000000).saved.find? (s.unitAwaited 0xC000000) = some 0) ∧
    Met (owned rich) (fun s => (s.cluster 0).gated = none ∧ (s.cluster 0).holder = none ∧
      (∀ x ∈ (s.cluster 0).enc, x.2.frame = none) ∧ (s.cluster 0).trace.drained = true) := by
  repeat' (first
    | decide | exact pair_ready | exact readyOf (by decide) | exact readableOf (by decide) | rfl | exact xgoOf (by decide)
    | exact parkedOf (by decide) | exact ⟨_, rfl⟩ | exact ⟨_, _, rfl⟩ | apply And.intro | intro _)

theorem witness_PlatformAndHostComplete :
    Met (owned rich) (fun s => 255 < 256 ∧ s.platform.lostClu.contains 255 = false) ∧
    11 < 12 ∧
    Met (owned rich) (fun s => 8191 < 8192 ∧ (s.physOf 8191).failed = false) ∧
    Met (owned rich) (fun s => 255 < 256 ∧ s.platform.lostClu.contains 255 = false) ∧
    Met (owned rich) (fun s => 0 < 8192 ∧ s.act? 0 0 = some rich) ∧
    Met (engAt 7 .running copyOf) (fun s => (s.eng 0 7).current = some (cmdOf copyOf)) ∧
    Met (owned rich) (fun s => s.net = [] ∧ s.prepare = []) ∧
    Met (withVf (owned rich) 0 .idle 0) (fun s => s.sharedWindow 0 0xFFFFC0 64 = true ∧
      ∀ q ∈ s.net, q.src = .host → (runHomes 0xFFFFC0 64).contains q.dst = false) ∧
    Met (withVf (owned rich) 0 .idle 0) (fun s => s.sharedWindow 0 0xFFFFC1 64 = false) ∧
    Met (withVf (owned rich) 0 .idle 0) (fun s => s.sharedWindow 0 0xFFFFC0 64 = true) ∧
    Met (withVf (owned rich) 0 .idle 0) (fun s => s.sharedWindow 0 0xFFFFC1 64 = false) := by
  repeat' (first
    | decide | exact pair_ready | exact readyOf (by decide) | exact readableOf (by decide) | rfl | exact xgoOf (by decide)
    | exact parkedOf (by decide) | exact ⟨_, rfl⟩ | exact ⟨_, _, rfl⟩ | apply And.intro | intro _)

theorem witness_AttestationComplete :
    Met (asSpdm) (fun s => (s.spdmOf 0).version = true) ∧
    Met (asSpdm) (fun s => (s.spdmOf 0).caps = true) ∧
    Met (asSpdm) (fun s => (s.spdmOf 0).negotiated = true) ∧
    Met (asSpdm) (fun s => (s.spdmOf 0).negotiated = true ∧ 7 < 8) ∧
    Met (asSpdm) (fun s => (s.spdmOf 0).negotiated = true ∧ 7 < 8) ∧
    Met asSpdm (fun s => (s.spdmOf 0).negotiated = true ∧ ∃ m ∈ s.measurements 0, m.1 = 3) ∧
    Met (asSpdm) (fun s => (s.spdmOf 0).negotiated = true) ∧
    Met (asSpdm) (fun s => (s.spdmOf 0).negotiated = true ∧ 7 < 8) ∧
    Met (asSpdm) (fun s => (s.spdmOf 0).exchange = true) := by
  repeat' (first
    | decide | exact pair_ready | exact readyOf (by decide) | exact readableOf (by decide) | rfl | exact xgoOf (by decide)
    | exact parkedOf (by decide) | exact ⟨_, rfl⟩ | exact ⟨_, _, rfl⟩ | apply And.intro | intro _)

theorem witness_DebugEventsComplete :
    Met (owned rich) (fun s => (s.vf 0).expiry.toNat ≤ s.ns) ∧
    Met (withDebug) (fun s => s.dbgAllowed 0 = true) ∧
    Met (owned rich) (fun s => s.dbgAllowed 0 = false) ∧
    Met (withDebug) (fun s => s.dbgAllowed 0 = true) ∧
    Met (owned rich) (fun s => s.dbgAllowed 0 = false) ∧
    Met (halted) (fun s => (s.core 0).dbg.halt = true ∧ (s.act? 0 0).isSome = true) ∧
    Met (stepping) (fun s => (s.core 0).dbg.want = none ∧ (s.core 0).dbg.stepping = some 0 ∧ (s.core 0).dbg.stepOp = none ∧
      s.stepDrained 0 0 = true) := by
  repeat' (first
    | decide | exact pair_ready | exact readyOf (by decide) | exact readableOf (by decide) | rfl | exact xgoOf (by decide)
    | exact parkedOf (by decide) | exact ⟨_, rfl⟩ | exact ⟨_, _, rfl⟩ | apply And.intro | intro _)

theorem witness_RegisterWritesComplete :
    Met (owned rich) (fun s => s.ownLmQuiet 0 = true) ∧
    31 < 32 ∧
    Met (inCluster { trace := { dst := 16, held := 1 } }) (fun s => ((s.cluster 0).trace.settle s.clock).dst ≠ 0 ∧
      ((s.cluster 0).trace.settle s.clock).held ≠ 0) ∧
    ((asVf { bound := true, encSlot := some (0, 1) }).vf 0).bound = true ∧
      ((asVf { bound := true, encSlot := some (0, 1) }).vf 0).encSlot = some (0, 1) := by
  repeat' (first
    | decide | exact pair_ready | exact readyOf (by decide) | exact readableOf (by decide) | rfl | exact xgoOf (by decide)
    | exact parkedOf (by decide) | exact ⟨_, rfl⟩ | exact ⟨_, _, rfl⟩ | apply And.intro | intro _)

/-- NOP is placed where the part fetches, and the turn of core 0 runs it; and it stands as a head. -/
theorem witness_StepRunsDecoded :
    (let s := State.reset.withFetchWord 32 0xFC000000
     ∃ a, AboutToFetch s 0 0 a ∧ isHint (s.nextWord 0 a) = false ∧ decode (s.nextWord 0 a) = .ok .nop ∧ a.f.nextSeq < a.f.seen ∧
      ∃ f, fetchAll 0 [0] s = .next f ∧
        (let g := (f.setCore 0 { f.core 0 with yielded := none, given := false }).noteLacks 0
         (f.setCore 0 { f.core 0 with yielded := none, given := false }).starvedHead 0 = none ∧
          eligible (exec .nop (g.aim 0 0 (halfOf (s.nextWord 0 a)))) = true) ∧ s.agenda = [] ∧ s.firstEffect s.pending = none ∧
        s.cores.filter (fun x => !x.2.acts.isEmpty) = [(0, s.core 0)]) ∧
    HeadStands (at0 (aAct 0xFC000000 [])) 0 0 (aAct 0xFC000000 []) .a (entry 0xFC000000) ∧
    decode (entry 0xFC000000).word.toNat = .ok .nop :=
  ⟨⟨_, ⟨⟨rfl, by decide, by decide⟩, by decide, by decide⟩, by decide, rfl, by decide, _, rfl, by decide, by decide, by decide,
      by decide⟩,
    ⟨⟨rfl, by decide, by decide⟩, rfl, by
      intro h x hx
      cases h
      · rw [List.mem_singleton.mp hx]; exact .inl ⟨rfl, rfl⟩
      · exact absurd hx List.not_mem_nil, by decide, by decide⟩, rfl⟩

theorem witness_DecodeReadsEncode : (Instr.add 5 16 16 8).wellFormed = true ∧ encode (.add 5 16 16 8) = some 0x01A40808 := by
  decide
theorem witness_EncodeReadsDecode : 0xFC000000 < 2 ^ 32 ∧ decode 0xFC000000 = .ok .nop := ⟨by decide, rfl⟩
theorem witness_StepKeepsSettled : ∃ t, Settled State.reset ∧ step State.reset = .next t :=
  ⟨_, ⟨rfl, by decide⟩, rfl⟩
theorem witness_RegisterFile : (31 : Nat) ≠ 0 ∧ (0 : Nat) ≠ 31 := by decide

def atEntry (k : EntryKind) : Activation := { aAct 0 [] with f := { (aAct 0 []).f with abuf := [{ entry 0 with kind := k }] } }
/-- A word, an OVERLAY entry and a LOOP_END_ILLEGAL entry at the head. -/
theorem witness_TrapEntry : (owned rich).cur? = some rich ∧ rich.flow.gang = none ∧
    ([EntryKind.overlay, .loopEnd].all (fun k => readyB (at0 (atEntry k)) .a (atEntry k) && ((atEntry k).headEntry .a).kind == k)) =
      true := by decide

/-- The same TRAPPC after a trap of a word, and after one of an entry; and another TRAPPC. -/
theorem witness_ReturnFromTrap :
    rich.flow.byEntry = false ∧ ({ rich.flow with byEntry := true } : ActFlow).byEntry = true ∧ ((0x401 : BitVec 14) ≠ 0x400) := by
  decide

/-- An untagged register, c0, no LD, one byte beyond the top, and one byte beside the alignment. -/
theorem witness_CapabilityChecks :
    let a := richWith [(2, mkCap 0 0x10000 0x3BE), (10, r64 0xFFF9), (11, r64 0xFFF7)]
    Meets (owned a) a (fun s a _ => Sends s a ∧ (a.ldq 0).length < 16 ∧ Readable a [6, 2, 1, 10, 11] ∧
      (a.reg 6).tag = false ∧ (a.reg 0).tag = false ∧
      ((a.reg 2).tag = true ∧ (a.reg 2).perm permLD = false) ∧
      ((a.reg 1).tag = true ∧ (a.reg 1).perm permLD = true ∧ (a.reg 1).top - (a.reg 1).base < a.lo 10 + 2 ^ 3) ∧
      (a.lo 11 + 2 ^ 3 ≤ (a.reg 1).top - (a.reg 1).base ∧ ((a.reg 1).base + a.lo 11) % 2 ^ 3 ≠ 0)) := by
  repeat' (first
    | decide | exact readyOf (by decide) | exact readableOf (by decide) | apply And.intro)

def userAct : Activation := { rich with info := { rich.info with priv := false } }
theorem witness_PrivilegeTraps :
    Meets (owned userAct) userAct (fun s a e => a.info.priv = false ∧ Orderly s a ∧ XQuiet a ∧ s.xDrained e.seq = true ∧
      Readable a [1, 7] ∧ e.immU 14 0x003 = 0x003 ∧ s.ownWritesDone s.focus.core a.info.id = true ∧
      csrProtected (e.immU 14 0x003) = true ∧ csrProtected (e.immU 14 0x004) = true) := by
  repeat' (first
    | decide | rfl | exact readyOf (by decide) | exact readableOf (by decide) | apply And.intro)

/-- The bounds of the ranges of unassigned opcodes. -/
theorem witness_UnassignedOpcodesTrap :
    ([0x00, 0x3C, 0x3F, 0x78, 0x7F, 0xA9, 0xAF, 0xDA, 0xDF, 0xE5, 0xE7, 0xEE, 0xEF, 0xF3, 0xF7, 0xFE, 0xFF].all (fun o =>
      opcodeOf (o * 2 ^ 24 + 0xFFFFFF) == o && decide (o * 2 ^ 24 + 0xFFFFFF < 2 ^ 32))) = true ∧
    Ready (at0 (aAct 0xFFFFFFFF [])) .a (aAct 0xFFFFFFFF []) := ⟨by decide, readyOf (by decide)⟩

theorem witness_UnprivilegedKeepsProtected : ∃ t, (encode .nop).isSome = true ∧ (owned userAct).cur? = some userAct ∧
    userAct.info.priv = false ∧ userAct.flow.gang = none ∧ exec .nop (owned userAct) = .next t :=
  ⟨_, by decide, by decide, by decide, by decide, rfl⟩

/-- A trap activation in context 0, and in context 1 the one that it serves. -/
def serving0 : Activation := { rich with info := { rich.info with serves := some 7 } }
def served1 : Activation := { parkedAct with info := { parkedAct.info with id := 7 } }
def withServed : State := inCore { acts := [(0, serving0), (1, served1)] }
theorem witness_DispatchKeepsTheRest : (∃ t, (encode (.aadd 2 6 6)).isSome = true ∧ exec (.aadd 2 6 6) (owned rich) = .next t) ∧
    (∃ t, exec (.chprogKeep 0 3 0) (withEng rich 64 parkedEng) = .next t) ∧
    (∃ t, exec (.chrunResume 6 0) (withEng rich 64 parkedEng) = .next t) ∧
    (∃ t, exec (.chrunAbn 6 0) (withEng rich 64 parkedEng) = .next t) ∧
    (∃ t, exec .endAct (owned rich) = .next t) ∧ (∃ t, exec .disband (owned rich) = .next t) ∧
    (∃ t, exec .eretEnd withServed = .next t) ∧
    ((owned rich).cur? = some rich ∧ rich.flow.gang = none ∧ rich.info.serves = none) ∧
    ∃ t, withServed.cur? = some serving0 ∧ serving0.flow.gang = none ∧ serving0.info.serves = some 7 ∧ 1 ≠ withServed.focus.ctx ∧
      withServed.act? withServed.focus.core 1 = some served1 ∧ served1.info.id = 7 ∧ exec .eret withServed = .next t :=
  ⟨⟨_, by decide, rfl⟩, ⟨_, rfl⟩, ⟨_, rfl⟩, ⟨_, rfl⟩, ⟨_, rfl⟩, ⟨_, rfl⟩, ⟨_, rfl⟩, by decide, _, by decide, by decide, by decide,
    by decide, by decide, by decide, rfl⟩
theorem witness_DispatchStaysHome : ∃ t, (encode (.aadd 2 6 6)).isSome = true ∧ (owned rich).cur? = some rich ∧
    rich.flow.gang = none ∧ exec (.aadd 2 6 6) (owned rich) = .next t := ⟨_, by decide, by decide, by decide, rfl⟩

/-- A store of eight bytes, the last of which ends an HBM block; a run of nibbles; STC of 16; AMO and AMOCAS; a load. -/
def homeAcc (k : AccKind) (pa len : Nat) : Access := { accOf k .sent with pieces := [{ pa := pa, off := 0, len := len }] }
def withHome (x : Access) : State := { withPacket (.hbm 1) (.piece 5 0) with accs := [x] }
def homePacket : Packet := { id := 9, src := .core 5, dst := .hbm 1, body := .piece 5 0 }
def homeB (x : Access) (p : Piece) : Bool :=
  let s := withHome x
  s.net[0]? == some homePacket && s.arrived homePacket && s.accs.find? (fun y => y.id == 5) == some x &&
    x.pieces[0]? == some p && !(s.isRetired p.pa) && !(s.pieceWaits x p) &&
    (x.writes p).all (fun b => !(s.pinned b 1) && s.codeOk x.core x.code b) && decide (p.pa + (p.len - 1) < 0xC000000000)

theorem atHomeOf {x : Access} {p : Piece} (e : homeB x p = true) : AtHome (withHome x) 0 x p := by
  simp only [homeB, Bool.and_eq_true, beq_iff_eq, Bool.not_eq_true', decide_eq_true_eq, List.all_eq_true] at e
  obtain ⟨⟨⟨⟨⟨⟨⟨h1, h2⟩, h3⟩, h4⟩, h6⟩, h7⟩, h8⟩, h9⟩ := e
  exact ⟨homePacket, 5, 0, h1, h2, rfl, h3, h4, h6, h7, h8, .inl (by omega), .inl h9⟩

theorem witness_HomeWritesItsBytes :
    AtHome (withHome (homeAcc (.store 1 0x00FF) 0x1FF8 8)) 0 (homeAcc (.store 1 0x00FF) 0x1FF8 8) { pa := 0x1FF8, off := 0, len := 8 } ∧
    AtHome (withHome (homeAcc (.storeNib 4 1 0xABCD) 0x1000 3)) 0 (homeAcc (.storeNib 4 1 0xABCD) 0x1000 3)
      { pa := 0x1000, off := 0, len := 3 } ∧
    AtHome (withHome (homeAcc (.storeCap 1) 0x1FF0 16)) 0 (homeAcc (.storeCap 1) 0x1FF0 16) { pa := 0x1FF0, off := 0, len := 16 } ∧
    AtHome (withHome (homeAcc (.amo 2 0 64 1) 0x1FF8 8)) 0 (homeAcc (.amo 2 0 64 1) 0x1FF8 8) { pa := 0x1FF8, off := 0, len := 8 } ∧
    AtHome (withHome (homeAcc (.amocas 2 32 0 1) 0x1FFC 4)) 0 (homeAcc (.amocas 2 32 0 1) 0x1FFC 4)
      { pa := 0x1FFC, off := 0, len := 4 } ∧
    AtHome (withHome (homeAcc (.load 0 64 false) 0x1FF8 8)) 0 (homeAcc (.load 0 64 false) 0x1FF8 8)
      { pa := 0x1FF8, off := 0, len := 8 } ∧
    AtHome (withHome (homeAcc (.chunk 4 0 4 false) 0x1FF8 8)) 0 (homeAcc (.chunk 4 0 4 false) 0x1FF8 8) { pa := 0x1FF8, off := 0, len := 8 } ∧
    ∃ t, exec (.homePerform 0) (withHome (homeAcc (.store 1 0x00FF) 0x1FF8 8)) = .next t :=
  ⟨atHomeOf (by decide), atHomeOf (by decide), atHomeOf (by decide), atHomeOf (by decide), atHomeOf (by decide),
    atHomeOf (by decide), atHomeOf (by decide), _, rfl⟩

theorem witness_HomeResults :
    (let x := homeAcc (.load 0 64 false) 0x1FF8 8
     AtHome (withHome x) 0 x { pa := 0x1FF8, off := 0, len := 8 } ∧ x.stage = .sent ∧ ∃ t, exec (.homePerform 0) (withHome x) = .next t) ∧
    (let x := homeAcc (.loadNib 0 32 1 true) 0x1000 17
     AtHome (withHome x) 0 x { pa := 0x1000, off := 0, len := 17 } ∧ 1 + 32 ≤ 2 * 17 ∧ ∃ t, exec (.homePerform 0) (withHome x) = .next t) ∧
    (let x := homeAcc (.amo 2 8 32 1) 0x1FFC 4
     AtHome (withHome x) 0 x { pa := 0x1FFC, off := 0, len := 4 } ∧ ∃ t, exec (.homePerform 0) (withHome x) = .next t) ∧
    (let x := homeAcc (.amocas 2 64 0 1) 0x1FF8 8
     AtHome (withHome x) 0 x { pa := 0x1FF8, off := 0, len := 8 } ∧ ∃ t, exec (.homePerform 0) (withHome x) = .next t) :=
  ⟨⟨atHomeOf (by decide), by decide, _, rfl⟩, ⟨atHomeOf (by decide), by decide, _, rfl⟩, ⟨atHomeOf (by decide), _, rfl⟩,
    ⟨atHomeOf (by decide), _, rfl⟩⟩

end Sys2Proof.Tests
end

section
/-! PROOF. The integer instructions of the A-half and AMOV: what each shared form does, then O9 from the forms
(02 R31; 06 R100, R101). -/

namespace Sys2Proof.Machine

/-! ### The forms of the A-half integer instructions (06 R100) -/

/-- An instruction of two sources writes its function of their low 64 bits. -/
theorem execA3_runs {i : Instr} {d x y : Nat} {f : Nat → Nat → Nat} (h : ∀ s, exec i s = execA3 d x y f s) :
    RegRuns i [x, y] d anyHead (fun a _ => plain64 (f (a.lo x) (a.lo y))) :=
  regBody_runs h (fun _ _ => rfl)

/-- An immediate shift by a count below 64 writes its function of the low 64 bits and the count. -/
theorem execAShift_runs {i : Instr} {d x n : Nat} {f : Nat → Nat → Nat} (h : ∀ s, exec i s = execAShift d x n f s) :
    RegRuns i [x] d (fun e => decide (e.immU 14 n < 64)) (fun a e => plain64 (f (a.lo x) (e.immU 14 n))) := by
  refine regBody_runs h (fun e hlt => ?_)
  have hlt : e.immU 14 n < 64 := of_decide_eq_true hlt
  exact decide_eq_false (Nat.not_le.mpr hlt)

/-- An immediate shift by 64 or more is a reserved encoding: it traps and writes nothing. -/
theorem execAShift_reserved {s : State} {a : Activation} {d x n : Nat} (f : Nat → Nat → Nat) (r : Ready s .a a)
    (hr : Readable a [x]) (hn : 64 ≤ (a.headEntry .a).immU 14 n) :
    execAShift d x n f s = .next (s.takeTrap .a tILLEGAL_INSTRUCTION (a.headEntry .a).word.toNat) :=
  dispatch_trap r (aBody_bad r hr (decide_eq_true hn))

/-- Both sides of the bound on a shift's count (06 R100). -/
theorem execAShift_runs_or_traps {i : Instr} {d x n : Nat} {f : Nat → Nat → Nat}
    (h : ∀ s, exec i s = execAShift d x n f s) :
    RegRuns i [x] d (fun e => decide (e.immU 14 n < 64)) (fun a e => plain64 (f (a.lo x) (e.immU 14 n))) ∧
    ∀ (s : State) (a : Activation), Ready s .a a → Readable a [x] → 64 ≤ (a.headEntry .a).immU 14 n →
      exec i s = .next (s.takeTrap .a 0x01 (a.headEntry .a).word.toNat) :=
  ⟨execAShift_runs h, fun s _ r hr hn => (h s).trans (execAShift_reserved f r hr hn)⟩

/-! ### The instructions with an operand list of their own (06 R100, R101) -/

theorem aaddi_runs (d x i : Nat) : RegRuns (.aaddi d x i) [x] d anyHead
    (fun a e => plain64 ((a.lo x + toBits (e.immS 14 i) 64) % 2 ^ 64)) :=
  regBody_runs (fun _ => rfl) (fun _ _ => rfl)

theorem amovi_runs (d i : Nat) :
    RegRuns (.amovi d i) [] d anyHead (fun _ e => plain64 (toBits (e.immS 14 i) 64)) :=
  regBody_runs (fun _ => rfl) (fun _ _ => rfl)

theorem aupi_runs (d i : Nat) :
    RegRuns (.aupi d i) [] d anyHead (fun _ e => plain64 (toBits (4 * e.wpc.toNat + e.immS 14 i) 64)) :=
  regBody_runs (fun _ => rfl) (fun _ _ => rfl)

theorem amov_runs (d x : Nat) : RegRuns (.amov d x) [x] d anyHead (fun a _ => a.reg x) :=
  regBody_runs (fun _ => rfl) (fun _ _ => rfl)

/-- Settles O9: eight instructions have the two-source form and three the shift form; the others are register writes of
their own; and a register write leaves every other register as it was. -/
theorem aRegisterResults : Obligations.ARegisterResults := by
  unfold Obligations.ARegisterResults
  refine ⟨fun d x y => ?twoSources, aaddi_runs, fun d x i => ?shifts, fun d i => ⟨amovi_runs d i, aupi_runs d i⟩,
    amov_runs, fun a seq _ _ v hne => a.reg_writeReg_of_ne seq v hne.symm⟩
  case twoSources =>
    simp only [List.forall_mem_cons, List.not_mem_nil, false_imp_iff, implies_true, and_true]
    exact ⟨execA3_runs (f := aAdd) fun _ => rfl, execA3_runs (f := aSub) fun _ => rfl,
      execA3_runs (f := aMul) fun _ => rfl, execA3_runs (f := bAnd) fun _ => rfl,
      execA3_runs (f := bOr) fun _ => rfl, execA3_runs (f := bXor) fun _ => rfl,
      execA3_runs (f := aSlt) fun _ => rfl, execA3_runs (f := aSltu) fun _ => rfl⟩
  case shifts =>
    simp only [List.forall_mem_cons, List.not_mem_nil, false_imp_iff, implies_true, and_true]
    exact ⟨execAShift_runs_or_traps (f := aShl) fun _ => rfl, execAShift_runs_or_traps (f := aShr) fun _ => rfl,
      execAShift_runs_or_traps (f := aSar) fun _ => rfl⟩

end Sys2Proof.Machine
end

section
/-! PROOF. The encoding rules of the A-half: opcodes without privilege (O54), words of unassigned opcodes (O55), and NOP,
ECALL and BRK (O20) (03 R55, R58, R59; 06 R127). -/

namespace Sys2Proof.Machine

/-! ### Step 3 of the checks: privilege (03 R58, R61) -/

/-- Without the privileged bit the check of privilege fails with the word as TRAPVAL. -/
theorem guardPriv_bad {a : Activation} {e : Entry} {k : Att} (hp : a.info.priv = false) :
    guardPriv a e k = .trap tPRIVILEGE e.word.toNat := by
  simp only [guardPriv, hp, Att.check_false]

/-- An A instruction whose own part begins with the check of privilege traps in an activation without it. -/
theorem aBody_unprivileged {s : State} {a : Activation} {rs : List Nat} {k : Activation → Entry → Att}
    (r : Ready s .a a) (hr : Readable a rs) (hp : a.info.priv = false) :
    aBody rs (fun _ => false) (fun b e => guardPriv b e (k b e)) s = .trap tPRIVILEGE (a.headEntry .a).word.toNat :=
  (aBody_ok r hr rfl).trans (guardPriv_bad hp)

section
variable {s : State} {a : Activation} (r : Ready s .a a) (hp : a.info.priv = false)
include r hp

theorem execXfence_unprivileged (p : Nat) (ho : Orderly s a) :
    execXfence p s = .next (s.takeTrap .a tPRIVILEGE (a.headEntry .a).word.toNat) :=
  dispatch_trap r ((orderly_ok r ho).trans (aBody_unprivileged r (readable_nil a) hp))

theorem execWfi_unprivileged : execWfi s = .next (s.takeTrap .a tPRIVILEGE (a.headEntry .a).word.toNat) :=
  dispatch_trap r (aBody_unprivileged r (readable_nil a) hp)

/-- ERET and ERET.END fail on privilege before it matters whether the activation serves a trap. -/
theorem eretBody_unprivileged (k : State → Activation → Att) (hx : XQuiet a) :
    eretBody k s = .trap tPRIVILEGE (a.headEntry .a).word.toNat :=
  (xQuiet_ok r hx).trans (aBody_unprivileged r (readable_nil a) hp)

theorem execEret_unprivileged (hx : XQuiet a) :
    execEret s = .next (s.takeTrap .a tPRIVILEGE (a.headEntry .a).word.toNat) :=
  dispatch_trap r (eretBody_unprivileged r hp _ hx)

theorem execEretEnd_unprivileged (hx : XQuiet a) :
    execEretEnd s = .next (s.takeTrap .a tPRIVILEGE (a.headEntry .a).word.toNat) :=
  dispatch_trap r (eretBody_unprivileged r hp _ hx)

/-- A CSRW that need not wait any longer and names a protected CSR fails on privilege before its capability is looked at. -/
theorem execCsrw_unprivileged {d x i : Nat} (hd : s.xDrained (a.headEntry .a).seq = true) (hr : Readable a [d, x])
    (hn : (a.headEntry .a).immU 14 i < 0x1000)
    (hxb : (a.headEntry .a).immU 14 i = 0x003 → s.ownWritesDone s.focus.core a.info.id = true)
    (hprot : csrProtected ((a.headEntry .a).immU 14 i) = true) :
    execCsrw d x i s = .next (s.takeTrap .a tPRIVILEGE (a.headEntry .a).word.toNat) := by
  refine dispatch_trap r ?_
  have hneed : (s.xDrained (a.headEntry .a).seq &&
      ((a.headEntry .a).immU 14 i != 0x003 || s.ownWritesDone s.focus.core a.info.id)) = true := by
    rw [hd, Bool.true_and]
    by_cases h3 : (a.headEntry .a).immU 14 i = 0x003
    · rw [hxb h3, Bool.or_true]
    · rw [bne_iff_ne.mpr h3, Bool.true_or]
  have hlegal : decide (0x1000 ≤ (a.headEntry .a).immU 14 i) = false := decide_eq_false (Nat.not_le.mpr hn)
  have hpriv : (a.info.priv || !(csrProtected ((a.headEntry .a).immU 14 i))) = false := by rw [hp, hprot]; rfl
  simp only [r.head, r.cur, hneed, Att.need_true]
  rw [aBody_ok r hr hlegal, hpriv, Att.check_false]

end

/-- Settles O54: each privileged word passes its waits and the checks before step 3 of R61, and there fails. -/
theorem privilegeTraps : Obligations.PrivilegeTraps := by
  unfold Obligations.PrivilegeTraps
  intro s a r hp
  exact ⟨fun p ho => execXfence_unprivileged r hp p ho, execWfi_unprivileged r hp,
    fun hx => ⟨execEret_unprivileged r hp hx, execEretEnd_unprivileged r hp hx⟩,
    fun _ _ _ hd hr hn hxb hprot => execCsrw_unprivileged r hp hd hr hn hxb hprot⟩

/-! ### Words of unassigned opcodes (03 R59) -/

/-- The 38 unassigned opcodes. -/
def unassignedOpcodes : List Nat :=
  [0x00, 0x3C, 0x3D, 0x3E, 0x3F, 0x78, 0x79, 0x7A, 0x7B, 0x7C, 0x7D, 0x7E, 0x7F,
    0xA9, 0xAA, 0xAB, 0xAC, 0xAD, 0xAE, 0xAF, 0xDA, 0xDB, 0xDC, 0xDD, 0xDE, 0xDF, 0xE5, 0xE6, 0xE7, 0xEE, 0xEF,
    0xF3, 0xF4, 0xF5, 0xF6, 0xF7, 0xFE, 0xFF]

/-- A range whose numbers, counted from its start, are all in the list. -/
theorem mem_unassignedOpcodes_of_range {lo hi n : Nat} (h : ∀ k < hi + 1 - lo, lo + k ∈ unassignedOpcodes) (l : lo ≤ n)
    (u : n ≤ hi) : n ∈ unassignedOpcodes := by
  have hmem := h (n - lo) (by omega)
  rwa [Nat.add_sub_cancel' l] at hmem

/-- The list holds what R59 names by ranges. -/
theorem mem_unassignedOpcodes {n : Nat}
    (h : n = 0x00 ∨ (0x3C ≤ n ∧ n ≤ 0x3F) ∨ (0x78 ≤ n ∧ n ≤ 0x7F) ∨ (0xA9 ≤ n ∧ n ≤ 0xAF) ∨ (0xDA ≤ n ∧ n ≤ 0xDF) ∨
      (0xE5 ≤ n ∧ n ≤ 0xE7) ∨ n = 0xEE ∨ n = 0xEF ∨ (0xF3 ≤ n ∧ n ≤ 0xF7) ∨ n = 0xFE ∨ n = 0xFF) :
    n ∈ unassignedOpcodes := by
  rcases h with rfl | ⟨l, u⟩ | ⟨l, u⟩ | ⟨l, u⟩ | ⟨l, u⟩ | ⟨l, u⟩ | rfl | rfl | ⟨l, u⟩ | rfl | rfl
  · decide
  · exact mem_unassignedOpcodes_of_range (by decide) l u
  · exact mem_unassignedOpcodes_of_range (by decide) l u
  · exact mem_unassignedOpcodes_of_range (by decide) l u
  · exact mem_unassignedOpcodes_of_range (by decide) l u
  · exact mem_unassignedOpcodes_of_range (by decide) l u
  · decide
  · decide
  · exact mem_unassignedOpcodes_of_range (by decide) l u
  · decide
  · decide

/-- In the opcode map of R56 every unassigned opcode stands at a place without an instruction. -/
theorem rowOf_unassigned : ∀ n ∈ unassignedOpcodes, ∀ v, rowOf (n / 16) (n % 16) v = .error (.unassigned v) := by
  unfold unassignedOpcodes
  repeat refine List.forall_mem_cons.mpr ⟨fun _ => rfl, ?_⟩
  exact fun _ hn => nomatch hn

/-- A word of an unassigned opcode has no fields and no unused bits, and is neither an X word, nor a hint, nor a control
transfer. -/
theorem unassigned_front {w : Nat} (h : opcodeOf w ∈ unassignedOpcodes) :
    decodeFields w = .error (.unassigned w) ∧ unusedBits (opcodeOf w) = 0 ∧ isXWord w = false ∧ isHint w = false ∧
      isControl w = false := by
  have hclass : ∀ n ∈ unassignedOpcodes, unusedBits n = 0 ∧
      ((decide (1 ≤ n) && decide (n ≤ 0x3B)) || (decide (0x40 ≤ n) && decide (n ≤ 0x77))) = false ∧
      (decide (0xF8 ≤ n) && decide (n ≤ 0xFB)) = false ∧
      ((decide (0xB0 ≤ n) && decide (n ≤ 0xBC)) || n == 0xBE || n == 0xBF) = false := by decide
  obtain ⟨hu, hx, hh, hc⟩ := hclass _ h
  exact unassigned_row rfl (row_split w) (fld_lt _ _ _) (rowOf_unassigned _ h) (Nat.div_add_mod _ _) hu hx hh hc
    (decide_eq_true (Nat.mod_lt _ (by decide)))

theorem decode_unassigned {w : Nat} (h : opcodeOf w ∈ unassignedOpcodes) : decode w = .error (.unassigned w) := by
  rw [decode, (unassigned_front h).1]

/-- The word names no register, no queue entry and no engine port that it would have to wait for. -/
structure NamesNothing (w : Nat) : Prop where
  regs : namedRegs w = []
  ldq  : namedLdq w = none
  xaq  : xaqNeed w = false
  sdq  : ∀ a, sdqNeed a w = 0
  port : namedPort w = none

theorem namesNothing_of_unassigned {w : Nat} (h : opcodeOf w ∈ unassignedOpcodes) : NamesNothing w := by
  refine ⟨?regs, ?ldq, ?xaq, fun a => ?sdq, ?port⟩
  case' regs => unfold namedRegs
  case' ldq => unfold namedLdq; dsimp only; split; exact rfl
  case' xaq => unfold xaqNeed
  case' sdq => unfold sdqNeed
  case' port => unfold namedPort
  all_goals
    revert h
    generalize opcodeOf w = n
    revert n
    unfold unassignedOpcodes
    repeat refine List.forall_mem_cons.mpr ⟨rfl, ?_⟩
    exact fun _ hn => nomatch hn

/-- A word that names nothing waits for nothing. -/
theorem NamesNothing.wordReady {w : Nat} (h : NamesNothing w) (s : State) : s.wordReady w = true := by
  simp only [State.wordReady, h.regs, h.ldq, h.xaq, h.sdq, h.port, List.all_nil, Bool.not_false, Bool.true_or,
    Nat.zero_le, decide_true, Bool.and_self]

/-- The head of the buffer that a word goes to traps as no instruction, with the word as TRAPVAL (03 R59, R60). -/
theorem illegalInstruction_traps {w : Nat} {s : State} {a : Activation} (r : Ready s (halfOf w) a) :
    exec (.illegalInstruction w) s = .next (s.takeTrap (halfOf w) tILLEGAL_INSTRUCTION w) := by
  refine dispatch_trap (body := fun t => .trap tILLEGAL_INSTRUCTION ((t.head (halfOf w)).reservedHint.getD w)) r ?_
  rw [r.head, r.valid, Option.getD_none]

/-- A word of an unassigned opcode that is tried at the A head traps at once. -/
theorem execWord_unassigned {w : Nat} {s : State} {a : Activation} (h : opcodeOf w ∈ unassignedOpcodes)
    (r : Ready s .a a) : execWord w s = .next (s.takeTrap .a tILLEGAL_INSTRUCTION w) := by
  obtain ⟨-, -, hx, hh, -⟩ := unassigned_front h
  have hhalf : halfOf w = .a := by rw [halfOf, hx]; rfl
  have hwait : s.togetherWith.all (fun m => (s.focusOn m.1 m.2).wordReady w) = true :=
    List.all_eq_true.mpr fun _ _ => (namesNothing_of_unassigned h).wordReady _
  calc execWord w s = illegalTurn w s := by rw [execWord, decode_unassigned h]
    _ = exec (.illegalInstruction w) s := by
      simp only [illegalTurn, hh, hx, hwait, Bool.false_eq_true, if_false, if_true]
    _ = .next (s.takeTrap .a tILLEGAL_INSTRUCTION w) := by
      rw [← hhalf] at r ⊢
      exact illegalInstruction_traps r

/-- Settles O55: the front end sees in the word neither an X word nor a transfer, and at the head it waits for nothing. -/
theorem unassignedOpcodesTrap : Obligations.UnassignedOpcodesTrap := by
  unfold Obligations.UnassignedOpcodesTrap
  intro w _ hop
  have h := mem_unassignedOpcodes hop
  obtain ⟨-, -, hx, hh, hc⟩ := unassigned_front h
  refine ⟨hx, hh, hc, fun i hi => ?_, fun s a r => execWord_unassigned h r⟩
  rw [decode_unassigned h] at hi
  cases hi

/-! ### NOP, ECALL and BRK (03 R55; 06 R127) -/

/-- The word of NOP with a payload is reserved. -/
theorem decode_nop_payload {p : Nat} (h0 : 0 < p) (h1 : p < 2 ^ 24) :
    decode (0xFC000000 + p) = .error (.reserved (0xFC000000 + p)) := by
  obtain ⟨hhi, hlo, hp⟩ := fields_0 15 12 p ⟨by decide, by decide, h1⟩ (0xFC000000 + p) rfl
  have hne : (p == 0) = false := beq_false_of_ne (Nat.ne_of_gt h0)
  simp only [decode, decodeFields, decodeRowF, hhi, hlo, hp, hne, Bool.false_eq_true, if_false]

theorem nop_runs : ARuns .nop (fun _ _ _ => True) (fun s _ _ => s) :=
  fun s a r _ => (dispatch_ok r (aBody_ok r (readable_nil a) rfl) : execNop s = .next (s.finish .a))

/-- ECALL and BRK outside a gang complete, and the trap that they have taken resumes behind them. -/
theorem execTrapCall_runs {i : Instr} {cause c : Nat} (h : ∀ s, exec i s = execTrapCall cause c s) :
    ARuns i (fun _ _ _ => True) (fun s a e =>
      (s.setCur a.fallThrough).trapAt s.focus.core s.focus.ctx .a e false cause c (e.wpc + 1)) := by
  intro s a r _
  rw [h]
  refine dispatch_ok r ((aBody_ok r (readable_nil a) rfl).trans ?_)
  rw [r.solo]
  rfl

/-- Settles O20: NOP is the one word of its opcode and its body has no effect; ECALL and BRK are the two uses of one
form. -/
theorem nopAndSystemCalls : Obligations.NopAndSystemCalls := by
  unfold Obligations.NopAndSystemCalls
  refine ⟨⟨rfl, by decide, fun p i h0 h1 hi => ?payload, nop_runs⟩, fun c => ?calls⟩
  case payload =>
    rw [decode_nop_payload h0 h1] at hi
    cases hi
  case calls =>
    simp only [List.forall_mem_cons, List.not_mem_nil, false_imp_iff, implies_true, and_true]
    exact ⟨execTrapCall_runs fun _ => rfl, execTrapCall_runs fun _ => rfl⟩

end Sys2Proof.Machine
end

section
/-! PROOF. The integer instructions of the X-half: what the two-source form and the form with a count do, then O1, O2 and
O3 from the forms (05 R74, R75, R79 to R85, R87, R92). -/

namespace Sys2Proof.Machine

/-! ### The forms of the X-half integer instructions (05 R74, R76) -/

/-- An X3 instruction of two sources writes its function of the operation width and the two operands. -/
theorem execX3_runs {i : Instr} {w d x y : Nat} {f : Nat → Nat → Nat → Nat} (h : ∀ s, exec i s = execX3 w d x y f s) :
    XRuns i (widthOf w) (twoSrc (widthOf w) d x y) anyHead
      (fun _ c p q _ => { value := f (widthOf w) p q, csr := c }) :=
  xBody_runs (fun _ => false) h (fun _ _ => rfl)

/-- An XI instruction with a count that is not reserved writes its function of the operation width, the operand and the
count. -/
theorem execXC_runs {i : Instr} {w d x n : Nat} {bad : Nat → Nat → Bool} {ok : Entry → Bool} {f : Nat → Nat → Nat → Nat}
    (h : ∀ s, exec i s = execXC w d x n bad f s) (hok : ∀ e, ok e = true → bad (widthOf w) (e.immU 7 n) = false) :
    XRuns i (widthOf w) (oneSrc (widthOf w) d x) ok
      (fun e c p _ _ => { value := f (widthOf w) p (e.immU 7 n), csr := c }) :=
  xBody_runs (fun e => bad (widthOf w) (e.immU 7 n)) h hok

/-! ### The counts of the immediate shifts (05 R85) -/

theorem countBad_eq_true {w n : Nat} (h : w ≤ n) : countBad w n = true := decide_eq_true h

theorem countBad_eq_false {w n : Nat} (h : n < w) : countBad w n = false := decide_eq_false (Nat.not_le.mpr h)

/-- Both sides of the bound on the count of an immediate shift: below the operation width it shifts, from there on it is a
reserved encoding. -/
theorem immShift_runs_or_traps {i : Instr} {w d x n : Nat} {f : Nat → Nat → Nat → Nat}
    (h : ∀ s, exec i s = execXC w d x n countBad f s) :
    XRuns i (widthOf w) (oneSrc (widthOf w) d x) (fun e => decide (e.immU 7 n < widthOf w))
      (fun e c p _ _ => { value := f (widthOf w) p (e.immU 7 n), csr := c }) ∧
    ∀ (s : State) (a a1 : Activation) (va : Nat), Ready s .x a → widthOf w ≤ (a.headEntry .x).immU 7 n →
      XGo s a (oneSrc (widthOf w) d x (a.headEntry .x)) va 0 0 a1 a1 a1 →
      exec i s = .next (s.takeTrap .x 0x01 (a.headEntry .x).word.toNat) :=
  ⟨execXC_runs h fun _ hlt => countBad_eq_false (of_decide_eq_true hlt),
    fun s _ _ _ r hle g => (h s).trans (execXC_bad r g (countBad_eq_true hle))⟩

/-- Settles O1: all thirteen instructions have the two-source form, each with the function that the model names after it. -/
theorem xArithmeticResults : Obligations.XArithmeticResults := by
  unfold Obligations.XArithmeticResults
  intro w d x y
  simp only [List.forall_mem_cons, List.not_mem_nil, false_imp_iff, implies_true, and_true]
  exact ⟨execX3_runs (f := xAdd) fun _ => rfl, execX3_runs (f := xSub) fun _ => rfl,
    execX3_runs (f := xMul) fun _ => rfl, execX3_runs (f := xMulh) fun _ => rfl, execX3_runs (f := xMulhu) fun _ => rfl,
    execX3_runs (f := xDiv) fun _ => rfl, execX3_runs (f := xDivu) fun _ => rfl,
    execX3_runs (f := xRem) fun _ => rfl, execX3_runs (f := xRemu) fun _ => rfl,
    execX3_runs (f := xAdds) fun _ => rfl, execX3_runs (f := xAddus) fun _ => rfl,
    execX3_runs (f := xSubs) fun _ => rfl, execX3_runs (f := xSubus) fun _ => rfl⟩

/-- Settles O2: all seventeen instructions have the two-source form, each with the function that the model names after it. -/
theorem xLogicResults : Obligations.XLogicResults := by
  unfold Obligations.XLogicResults
  intro w d x y
  simp only [List.forall_mem_cons, List.not_mem_nil, false_imp_iff, implies_true, and_true]
  exact ⟨execX3_runs (f := xMin) fun _ => rfl, execX3_runs (f := xMax) fun _ => rfl,
    execX3_runs (f := xMinu) fun _ => rfl, execX3_runs (f := xMaxu) fun _ => rfl,
    execX3_runs (f := xAnd) fun _ => rfl, execX3_runs (f := xOr) fun _ => rfl,
    execX3_runs (f := xXor) fun _ => rfl, execX3_runs (f := xAndn) fun _ => rfl,
    execX3_runs (f := xSeq) fun _ => rfl, execX3_runs (f := xSne) fun _ => rfl,
    execX3_runs (f := xSlt) fun _ => rfl, execX3_runs (f := xSltu) fun _ => rfl,
    execX3_runs (f := xSle) fun _ => rfl, execX3_runs (f := xSleu) fun _ => rfl,
    execX3_runs (f := xBext) fun _ => rfl, execX3_runs (f := xBexts) fun _ => rfl,
    execX3_runs (f := xBdep) fun _ => rfl⟩

/-- Settles O3: the register forms are two-source instructions whose functions reduce B modulo the width; the immediate
forms use the same functions of a count, on both sides of its bound. -/
theorem xShiftResults : Obligations.XShiftResults := by
  unfold Obligations.XShiftResults
  refine ⟨fun w d x y => ?register, fun w d x i => ?immediate⟩
  case register =>
    simp only [List.forall_mem_cons, List.not_mem_nil, false_imp_iff, implies_true, and_true]
    exact ⟨execX3_runs (f := xShl) fun _ => rfl, execX3_runs (f := xShr) fun _ => rfl,
      execX3_runs (f := xSar) fun _ => rfl, execX3_runs (f := xRol) fun _ => rfl⟩
  case immediate =>
    simp only [List.forall_mem_cons, List.not_mem_nil, false_imp_iff, implies_true, and_true]
    exact ⟨immShift_runs_or_traps (f := xShli) fun _ => rfl, immShift_runs_or_traps (f := xShri) fun _ => rfl,
      immShift_runs_or_traps (f := xSari) fun _ => rfl, immShift_runs_or_traps (f := xRoli) fun _ => rfl⟩

end Sys2Proof.Machine
end

section
/-! PROOF. Derivation of capabilities: what CBASE, CLEN and CPERM leave of the fields, when the result is tagged, and that a
tagged result is no wider than its source; then O10 from these (06 R102). -/

namespace Sys2Proof.Machine

/-- A derivation from register `x` by the low 64 bits of `y` writes the derived capability. -/
theorem execDerive_runs {i : Instr} {d x y : Nat} {f : AReg → Nat → AReg} (h : ∀ s, exec i s = execDerive d x y f s) :
    RegRuns i [x, y] d anyHead (fun a _ => f (a.reg x) (a.lo y)) :=
  regBody_runs h (fun _ _ => rfl)

/-! ### The tag and the permissions of a derived capability -/

theorem capBase_tag_iff (c : AReg) (k : Nat) :
    (capBase c k).tag = true ↔ c.tag = true ∧ c.base + k ≤ c.top ∧ c.base + k < 2 ^ 56 := by
  simp only [capBase, Bool.and_eq_true, decide_eq_true_iff, and_assoc]

theorem capLen_tag_iff (c : AReg) (k : Nat) : (capLen c k).tag = true ↔ c.tag = true ∧ c.base + k ≤ c.top := by
  simp only [capLen, Bool.and_eq_true, decide_eq_true_iff]

theorem capBase_perm (c : AReg) (k b : Nat) : (capBase c k).perm b = c.perm b :=
  congrArg (bitAt · b) (capBase_high c k 112 12 (by decide))

theorem capLen_perm (c : AReg) (k b : Nat) : (capLen c k).perm b = c.perm b := by
  have hperms : (capLen c k).perms = c.perms := by
    rw [capLen, AReg.perms, toNat_putFld (by decide), fld_putFld_high (by decide)]
    rfl
  rw [AReg.perm, AReg.perm, hperms]

/-- A capability has 12 permissions. -/
theorem AReg.perm_eq_false (c : AReg) {b : Nat} (h : 12 ≤ b) : c.perm b = false := by
  rw [AReg.perm, bitAt_eq]
  exact Nat.testBit_lt_two_pow (Nat.lt_of_lt_of_le (fld_lt _ _ _) (Nat.pow_le_pow_right (by decide) h))

/-- CPERM sets no permission but LCL. -/
theorem perm_of_capPerm_perm {c : AReg} {k b : Nat} (hb : b ≠ permLCL) (h : (capPerm c k).perm b = true) :
    c.perm b = true := by
  have h12 : b < 12 := Nat.lt_of_not_le fun hge => Bool.false_ne_true ((AReg.perm_eq_false _ hge).symm.trans h)
  rw [capPerm_perm c k b h12, if_neg (show b ≠ 6 from hb)] at h
  simp only [Bool.and_eq_true] at h
  exact h.1.2

/-! ### The top of a derived capability (02 R32) -/

/-- A base that has moved up is zero only where it was zero. -/
theorem capBase_top {c : AReg} {k : Nat} (h : (capBase c k).tag = true) : (capBase c k).top = c.top := by
  obtain ⟨-, htop, hlt⟩ := (capBase_tag_iff c k).mp h
  unfold AReg.top at htop ⊢
  rw [capBase_topField, capBase_base, Nat.mod_eq_of_lt hlt]
  by_cases hfield : c.topField = 0
  · by_cases hbase : c.base = 0
    · rw [if_neg (fun hc => hc.2 hbase)] at htop
      have hmoved : c.base + k = 0 := by omega
      rw [if_neg (fun hc => hc.2 hmoved), if_neg (fun hc => hc.2 hbase)]
    · rw [if_pos ⟨hfield, by omega⟩, if_pos ⟨hfield, hbase⟩]
  · rw [if_neg (fun hc => hfield hc.1), if_neg (fun hc => hfield hc.1)]

/-- The top is `base + k`, also where the field holds 0 for the end of the address space. -/
theorem capLen_top {c : AReg} {k : Nat} (h : (capLen c k).tag = true) : (capLen c k).top = c.base + k := by
  obtain ⟨-, htop⟩ := (capLen_tag_iff c k).mp h
  have hfield : c.topField < 2 ^ 56 := fld_lt _ _ _
  have hbase := c.base_lt
  unfold AReg.top at htop ⊢
  rw [capLen_topField, capLen_base]
  by_cases hzero : (c.base + k) % 2 ^ 56 = 0 ∧ c.base ≠ 0
  · rw [if_pos hzero]
    split at htop <;> omega
  · rw [if_neg hzero]
    split at htop <;> omega

theorem capPerm_top (c : AReg) (k : Nat) : (capPerm c k).top = c.top := by
  unfold AReg.top
  rw [capPerm_topField, capPerm_base]

/-! ### A derivation adds no authority -/

/-- What a tagged `r` may be that was derived from `c`: `c` is tagged, the bounds of `r` lie within those of `c`, and `r` has
no permission but LCL that `c` lacks. -/
def NoWiderThan (c r : AReg) : Prop :=
  r.tag = true → c.tag = true ∧ c.base ≤ r.base ∧ (c.base ≤ c.top → r.top ≤ c.top) ∧
    ∀ b, b ≠ permLCL → r.perm b = true → c.perm b = true

theorem capBase_noWider (c : AReg) (k : Nat) : NoWiderThan c (capBase c k) := by
  intro h
  obtain ⟨htag, -, hlt⟩ := (capBase_tag_iff c k).mp h
  refine ⟨htag, ?_, fun _ => Nat.le_of_eq (capBase_top h), fun b _ hb => (capBase_perm c k b).symm.trans hb⟩
  rw [capBase_base, Nat.mod_eq_of_lt hlt]
  exact Nat.le_add_right _ _

theorem capLen_noWider (c : AReg) (k : Nat) : NoWiderThan c (capLen c k) := by
  intro h
  obtain ⟨htag, hle⟩ := (capLen_tag_iff c k).mp h
  exact ⟨htag, Nat.le_of_eq (capLen_base c k).symm, fun _ => Nat.le_trans (Nat.le_of_eq (capLen_top h)) hle,
    fun b _ hb => (capLen_perm c k b).symm.trans hb⟩

theorem capPerm_noWider (c : AReg) (k : Nat) : NoWiderThan c (capPerm c k) := fun h =>
  ⟨(capPerm_tag c k).symm.trans h, Nat.le_of_eq (capPerm_base c k).symm, fun _ => Nat.le_of_eq (capPerm_top c k),
    fun _ => perm_of_capPerm_perm⟩

/-- Settles O10: the three instructions have the form of a derivation; the fields are those of the derived values, one
lemma for each field, and none of the three values is wider than its source. -/
theorem derivationResults : Obligations.DerivationResults := by
  unfold Obligations.DerivationResults
  refine ⟨fun d x y => ⟨execDerive_runs fun _ => rfl, execDerive_runs fun _ => rfl, execDerive_runs fun _ => rfl⟩,
    fun c k => ⟨?base, ?len, ?perm⟩, fun c k => ?narrow⟩
  case base => exact ⟨capBase_base c k, capBase_topField c k, capBase_high c k 112 16 (by decide), capBase_tag_iff c k⟩
  case len => exact ⟨capLen_base c k, capLen_topField c k, capLen_high c k, capLen_tag_iff c k⟩
  case perm =>
    refine ⟨capPerm_base c k, capPerm_topField c k, capPerm_high c k 124 4 (by decide), fun b hb h6 => ?_,
      capPerm_perm c k 6 (by decide), capPerm_perm c k 10 (by decide), capPerm_perm c k 11 (by decide), capPerm_tag c k⟩
    rw [capPerm_perm c k b (by omega), if_neg h6, decide_eq_true hb, Bool.true_and]
  case narrow =>
    simp only [List.forall_mem_cons, List.not_mem_nil, false_imp_iff, implies_true, and_true]
    exact ⟨capBase_noWider c k, capLen_noWider c k, capPerm_noWider c k⟩

end Sys2Proof.Machine
end

section
/-! PROOF. The CSR instructions: the table of numbers, what CSRR and CSRW come to once they have waited, then O16 check by
check (06 R117, R118; 02 R39). -/

namespace Sys2Proof.Machine

/-! ### The table of CSR numbers (06 R118) -/

theorem csrAssigned_iff (n : Nat) : csrAssigned n = true ↔ n ≤ 0x00D ∨ (0x010 ≤ n ∧ n ≤ 0x0FF) := by
  simp only [csrAssigned, Bool.or_eq_true, Bool.and_eq_true, decide_eq_true_iff]

theorem csrReadOnly_iff (n : Nat) :
    csrReadOnly n = true ↔ n ≤ 0x002 ∨ n = 0x00C ∨ n = 0x00D ∨ (0x040 ≤ n ∧ n ≤ 0x04F) := by
  simp only [csrReadOnly, Bool.or_eq_true, Bool.and_eq_true, decide_eq_true_iff, beq_iff_eq, or_assoc]

theorem csrProtected_iff (n : Nat) : csrProtected n = true ↔
    (0x003 ≤ n ∧ n ≤ 0x006) ∨ (0x008 ≤ n ∧ n ≤ 0x00B) ∨ (0x010 ≤ n ∧ n ≤ 0x03F) ∨ (0x050 ≤ n ∧ n ≤ 0x0FF) := by
  simp only [csrProtected, Bool.or_eq_true, Bool.and_eq_true, decide_eq_true_iff, or_assoc]

theorem csrAssigned_of_readOnly {n : Nat} (h : csrReadOnly n = true) : csrAssigned n = true := by
  rw [csrReadOnly_iff] at h
  rw [csrAssigned_iff]
  omega

/-- XFLAGS is the one CSR that may be written without privilege. -/
theorem csr_writable_unprotected_iff (n : Nat) :
    csrAssigned n = true ∧ csrReadOnly n = false ∧ csrProtected n = false ↔ n = 0x007 := by
  rw [← Bool.not_eq_true (csrReadOnly n), ← Bool.not_eq_true (csrProtected n), csrAssigned_iff, csrReadOnly_iff,
    csrProtected_iff]
  omega

/-! ### Dispatch of bodies that agree -/

/-- Outside a gang a dispatch depends on its body only at the state that it is tried in. -/
theorem dispatch_congr {s : State} {h : Half} {a : Activation} {body other : State → Att} (r : Ready s h a)
    (hb : body s = other s) : dispatch h body s = dispatch h other s := by
  simp only [dispatch, r.here, r.may, r.solo, hb]

section
variable {s : State} {a : Activation} (r : Ready s .a a) {i : Nat} (hd : s.xDrained (a.headEntry .a).seq = true)
  (hn : (a.headEntry .a).immU 14 i < 0x1000)
include r hd hn

/-! ### CSRR (06 R117) -/

/-- A CSRR that need not wait any longer comes to its check of the number and its write of the register. -/
theorem execCsrr_own (d : Nat) : execCsrr d i s = dispatch .a (fun _ =>
    .check (csrAssigned ((a.headEntry .a).immU 14 i)) tILLEGAL_OPERAND ((a.headEntry .a).immU 14 i)
      (.ok (s.setCur (a.writeReg (a.headEntry .a).seq d
        (plain64 (s.csrRead s.focus.core ((a.headEntry .a).immU 14 i))))))) s := by
  refine dispatch_congr r ?_
  simp only [r.head, hd, Att.need_true]
  rw [aBody_ok r (readable_nil a) (decide_eq_false (Nat.not_le.mpr hn))]

theorem execCsrr_assigned (d : Nat) (hc : csrAssigned ((a.headEntry .a).immU 14 i) = true) :
    execCsrr d i s = .next ((s.setCur (a.writeReg (a.headEntry .a).seq d
      (plain64 (s.csrRead s.focus.core ((a.headEntry .a).immU 14 i))))).finish .a) := by
  rw [execCsrr_own r hd hn]
  exact dispatch_ok r (by rw [hc, Att.check_true])

theorem execCsrr_unassigned (d : Nat) (hc : csrAssigned ((a.headEntry .a).immU 14 i) = false) :
    execCsrr d i s = .next (s.takeTrap .a tILLEGAL_OPERAND ((a.headEntry .a).immU 14 i)) := by
  rw [execCsrr_own r hd hn]
  exact dispatch_trap r (by rw [hc, Att.check_false])

end

/-! ### CSRW (06 R117) -/

/-- A condition that only number `m` has to meet. -/
theorem bne_or_of_imp {n m : Nat} {b : Bool} (h : n = m → b = true) : (n != m || b) = true := by
  by_cases hm : n = m
  · rw [h hm, Bool.or_true]
  · rw [bne_iff_ne.mpr hm, Bool.true_or]

/-- The checks that CSRW makes behind that of privilege, in their order, and its write: of the low half of register `x` to
CSR `n` through the capability in register `d`. -/
def csrwOwn (s : State) (a : Activation) (d x n : Nat) : Att :=
  .check (a.reg d).tag tCAP_TAG d <|
  .check ((a.reg d).perm permCSR) tCAP_PERM d <|
  .check (csrAssigned n && !(csrReadOnly n)) tILLEGAL_OPERAND n <|
  .check (n != 0x003 || xbOk (a.lo x)) tILLEGAL_OPERAND (a.lo x) <|
  .ok (s.csrWrite s.focus.core n (a.lo x))

section
variable {s : State} {a : Activation} {d : Nat} (x n : Nat)

theorem csrwOwn_untagged (ht : (a.reg d).tag = false) : csrwOwn s a d x n = .trap tCAP_TAG d := by
  rw [csrwOwn, ht, Att.check_false]

variable (ht : (a.reg d).tag = true)
include ht

theorem csrwOwn_noPermission (hp : (a.reg d).perm permCSR = false) : csrwOwn s a d x n = .trap tCAP_PERM d := by
  rw [csrwOwn, ht, Att.check_true, hp, Att.check_false]

variable (hp : (a.reg d).perm permCSR = true)
include hp

theorem csrwOwn_notWritable (hc : csrAssigned n = false ∨ csrReadOnly n = true) :
    csrwOwn s a d x n = .trap tILLEGAL_OPERAND n := by
  have hw : (csrAssigned n && !(csrReadOnly n)) = false := by
    rcases hc with hc | hc
    · rw [hc, Bool.false_and]
    · rw [hc, Bool.not_true, Bool.and_false]
  rw [csrwOwn, ht, Att.check_true, hp, Att.check_true, hw, Att.check_false]

/-- A CSR that may be written comes to the check of the value (02 R39). -/
theorem csrwOwn_writable (ha : csrAssigned n = true) (hr : csrReadOnly n = false) :
    csrwOwn s a d x n = .check (n != 0x003 || xbOk (a.lo x)) tILLEGAL_OPERAND (a.lo x)
      (.ok (s.csrWrite s.focus.core n (a.lo x))) := by
  rw [csrwOwn, ht, Att.check_true, hp, Att.check_true, ha, hr, Bool.not_false, Bool.and_self, Att.check_true]

theorem csrwOwn_badXb (hv : xbOk (a.lo x) = false) : csrwOwn s a d x 0x003 = .trap tILLEGAL_OPERAND (a.lo x) := by
  rw [csrwOwn_writable x 0x003 ht hp rfl rfl, hv]
  rfl

theorem csrwOwn_ok (ha : csrAssigned n = true) (hr : csrReadOnly n = false) (hv : n = 0x003 → xbOk (a.lo x) = true) :
    csrwOwn s a d x n = .ok (s.csrWrite s.focus.core n (a.lo x)) := by
  rw [csrwOwn_writable x n ht hp ha hr, bne_or_of_imp hv, Att.check_true]

end

/-- A CSRW that need not wait any longer and passes the check of privilege comes to its own checks and its write. -/
theorem execCsrw_own {s : State} {a : Activation} {d x i : Nat} (r : Ready s .a a)
    (hd : s.xDrained (a.headEntry .a).seq = true) (hr : Readable a [d, x]) (hn : (a.headEntry .a).immU 14 i < 0x1000)
    (hxb : (a.headEntry .a).immU 14 i = 0x003 → s.ownWritesDone s.focus.core a.info.id = true)
    (hpriv : a.info.priv = true ∨ csrProtected ((a.headEntry .a).immU 14 i) = false) :
    execCsrw d x i s = dispatch .a (fun _ => csrwOwn s a d x ((a.headEntry .a).immU 14 i)) s := by
  have hwait : (s.xDrained (a.headEntry .a).seq &&
      ((a.headEntry .a).immU 14 i != 0x003 || s.ownWritesDone s.focus.core a.info.id)) = true := by
    rw [hd, Bool.true_and, bne_or_of_imp hxb]
  have hpass : (a.info.priv || !(csrProtected ((a.headEntry .a).immU 14 i))) = true := by
    rcases hpriv with h | h
    · rw [h, Bool.true_or]
    · rw [h, Bool.not_false, Bool.or_true]
  refine dispatch_congr r ?_
  simp only [r.head, r.cur, hwait, Att.need_true]
  rw [aBody_ok r hr (decide_eq_false (Nat.not_le.mpr hn)), hpass, Att.check_true]
  rfl

/-! ### O16 -/

theorem csrr_runs (d i : Nat) : ARuns (.csrr d i)
    (fun s _ e => s.xDrained e.seq = true ∧ e.immU 14 i < 0x1000 ∧ csrAssigned (e.immU 14 i) = true)
    (fun s a e => s.setCur (a.writeReg e.seq d (plain64 (s.csrRead s.focus.core (e.immU 14 i))))) :=
  fun _ _ r ⟨hd, hn, hc⟩ => execCsrr_assigned r hd hn d hc

theorem csrw_runs (d x i : Nat) : ARuns (.csrw d x i)
    (fun s a e => s.xDrained e.seq = true ∧ Readable a [d, x] ∧ e.immU 14 i < 0x1000 ∧
      (a.info.priv = true ∨ csrProtected (e.immU 14 i) = false) ∧ (a.reg d).tag = true ∧
      (a.reg d).perm permCSR = true ∧ csrAssigned (e.immU 14 i) = true ∧ csrReadOnly (e.immU 14 i) = false ∧
      (e.immU 14 i = 0x003 → xbOk (a.lo x) = true ∧ s.ownWritesDone s.focus.core a.info.id = true))
    (fun s a e => s.csrWrite s.focus.core (e.immU 14 i) (a.lo x)) := by
  rintro s a r ⟨hd, hr, hn, hpriv, ht, hp, ha, hro, hxb⟩
  exact (execCsrw_own r hd hr hn (fun h3 => (hxb h3).2) hpriv).trans
    (dispatch_ok r (csrwOwn_ok x _ ht hp ha hro fun h3 => (hxb h3).1))

/-- Settles O16: CSRR and CSRW complete when every check passes; the table is that of the model's three tests of a number;
and each check that fails, with those before it passed, traps. -/
theorem csrAccess : Obligations.CsrAccess := by
  unfold Obligations.CsrAccess
  refine ⟨⟨csrr_runs, csrw_runs⟩, fun n => ⟨csrAssigned_iff n, ?readOnly, csr_writable_unprotected_iff n⟩,
    fun d _ _ _ r hd hn hc => execCsrr_unassigned r hd hn d hc, fun d x i s a r hd hr hn hxb => ?csrw⟩
  case readOnly => rw [and_iff_right_of_imp csrAssigned_of_readOnly, csrReadOnly_iff]
  case csrw =>
    intro n hpriv
    have traps {cause val : Nat} (h : csrwOwn s a d x n = .trap cause val) :
        exec (.csrw d x i) s = .next (s.takeTrap .a cause val) :=
      (execCsrw_own r hd hr hn hxb hpriv).trans (dispatch_trap r h)
    refine ⟨fun ht => traps (csrwOwn_untagged x n ht), fun ht hp => traps (csrwOwn_noPermission x n ht hp),
      fun ht hp hc => traps (csrwOwn_notWritable x n ht hp hc), fun ht hp h3 hv => traps ?_⟩
    rw [h3]
    exact csrwOwn_badXb x ht hp hv

end Sys2Proof.Machine
end

section
/-! PROOF. The floating-point instructions: what the forms of two sources and of one source do on lanes of a format, the
compares of binary32 by the fields of the codes, then O7 from these (13 R242, R248, R251, R252). -/

namespace Sys2Proof.Machine

/-! ### The forms of the floating-point instructions (13 R242, R246) -/

/-- An instruction of two sources applies its function to every lane of the format. -/
theorem execF3_runs {i : Instr} {k : Fmt} {w d x y : Nat} {g : RMode → Bool → Nat → Nat → FRes} {f : LaneFn}
    (h : ∀ s, exec i s = execF3 k w d x y g s) (hf : ∀ m sat p q z, g m sat p q = f m sat p q z) :
    XRuns i (widthOf w) (plainSrc (widthOf w) d x y) anyHead (laneRes (widthOf w) k f) := by
  rw [← laneRes_congr (f := fun m sat p q _ => g m sat p q) hf]
  exact xBody_runs (fun _ => false) h (fun _ _ => rfl)

/-- An instruction of one source applies its function to every lane of the format. -/
theorem execF2_runs {i : Instr} {k : Fmt} {w d x : Nat} {g : RMode → Bool → Nat → FRes} {f : LaneFn}
    (h : ∀ s, exec i s = execF2 k w d x g s) (hf : ∀ m sat p q z, g m sat p = f m sat p q z) :
    XRuns i (widthOf w) (fun e => { plainSrc (widthOf w) d x 0 e with b := none }) anyHead (laneRes (widthOf w) k f) := by
  rw [← laneRes_congr (f := fun m sat p _ _ => g m sat p) hf]
  exact xBody_runs (fun _ => false) h (fun _ _ => rfl)

/-! ### The compares by the fields of the codes (13 R251) -/

/-- The binary32 code is a NaN: `isNan_iff` ties it to the model's decoding. -/
abbrev NanCode (p : Nat) : Prop := fld p 23 8 = 255 ∧ fld p 0 23 ≠ 0

/-- The binary32 code is a signalling NaN: `signals_iff` ties it to the model's decoding. -/
abbrev SignalCode (p : Nat) : Prop := NanCode p ∧ bitAt p 22 = false

/-- A compare that lets quiet NaNs pass raises NV for a signalling NaN only. -/
theorem fCompare_true (rel : Int → Int → Bool) (p q : Nat) : fCompare fp32 true rel p q =
    { code := if NanCode p ∨ NanCode q then 0 else ofBool (rel (valueKey fp32 p) (valueKey fp32 q))
      flags := if SignalCode p ∨ SignalCode q then 1 else 0 } :=
  fCompare_quiet rel p q (valueKey fp32) (fun _ => rfl) NanCode SignalCode isNan_iff signals_iff (fun _ => And.left) true
    (fun i j => SignalCode i ∨ SignalCode j) (iff_of_eq (if_pos rfl).symm)

/-- A compare that lets no NaN pass raises NV for any NaN. -/
theorem fCompare_false (rel : Int → Int → Bool) (p q : Nat) : fCompare fp32 false rel p q =
    { code := if NanCode p ∨ NanCode q then 0 else ofBool (rel (valueKey fp32 p) (valueKey fp32 q))
      flags := if NanCode p ∨ NanCode q then 1 else 0 } :=
  fCompare_quiet rel p q (valueKey fp32) (fun _ => rfl) NanCode SignalCode isNan_iff signals_iff (fun _ => And.left) false
    (fun i j => NanCode i ∨ NanCode j) (iff_of_eq (if_neg Bool.false_ne_true).symm)

/-- Settles O7: FMULZ and the compares have the form of two sources and FCLASS that of one; their functions are those of the
fields of the codes by `fMulZ_eq`, `fCompare_true`, `fCompare_false` and `fClass_eq`. -/
theorem floatRules : Obligations.FloatRules := by
  unfold Obligations.FloatRules
  refine ⟨fun w d x y => ⟨?fmulz, ?fcmpeq, ?fcmplt, ?fcmple⟩, fun w d x => ?fclass⟩
  case fmulz => exact execF3_runs (fun _ => rfl) fun m sat p q _ => fMulZ_eq m sat p q
  case fcmpeq => exact execF3_runs (fun _ => rfl) fun _ _ p q _ => fCompare_true _ p q
  case fcmplt => exact execF3_runs (fun _ => rfl) fun _ _ p q _ => fCompare_false _ p q
  case fcmple => exact execF3_runs (fun _ => rfl) fun _ _ p q _ => fCompare_false _ p q
  case fclass => exact execF2_runs (fun _ => rfl) fun _ _ p _ _ => fClass_eq p

end Sys2Proof.Machine
end

section
/-! PROOF. The encoding: the lemmas of the rows give O43, and each row of the opcode map gives back its word for O44; then the
words of O42 (03 R42 to R60). -/

namespace Sys2Proof

open Laws

/-! ### Words are read back (03 R43 to R47) -/

/-- The word of every well-formed instruction is read back: one lemma for each row of the encoding tables, and an event has
no word. -/
theorem roundTrip (i : Instr) : RoundTrip.Statement i := by
  cases i with
  | add w d a b => exact RoundTrip.add w d a b
  | sub w d a b => exact RoundTrip.sub w d a b
  | addi w d a i => exact RoundTrip.addi w d a i
  | mul w d a b => exact RoundTrip.mul w d a b
  | mulh w d a b => exact RoundTrip.mulh w d a b
  | mulhu w d a b => exact RoundTrip.mulhu w d a b
  | mulw w d a b => exact RoundTrip.mulw w d a b
  | mulwu w d a b => exact RoundTrip.mulwu w d a b
  | div w d a b => exact RoundTrip.div w d a b
  | divu w d a b => exact RoundTrip.divu w d a b
  | rem w d a b => exact RoundTrip.rem w d a b
  | remu w d a b => exact RoundTrip.remu w d a b
  | min w d a b => exact RoundTrip.min w d a b
  | max w d a b => exact RoundTrip.max w d a b
  | minu w d a b => exact RoundTrip.minu w d a b
  | maxu w d a b => exact RoundTrip.maxu w d a b
  | adds w d a b => exact RoundTrip.adds w d a b
  | addus w d a b => exact RoundTrip.addus w d a b
  | subs w d a b => exact RoundTrip.subs w d a b
  | subus w d a b => exact RoundTrip.subus w d a b
  | neg w d a => exact RoundTrip.neg w d a
  | abs w d a => exact RoundTrip.abs w d a
  | and w d a b => exact RoundTrip.and w d a b
  | or w d a b => exact RoundTrip.or w d a b
  | xor w d a b => exact RoundTrip.xor w d a b
  | andn w d a b => exact RoundTrip.andn w d a b
  | andi w d a i => exact RoundTrip.andi w d a i
  | ori w d a i => exact RoundTrip.ori w d a i
  | xori w d a i => exact RoundTrip.xori w d a i
  | shl w d a b => exact RoundTrip.shl w d a b
  | shr w d a b => exact RoundTrip.shr w d a b
  | sar w d a b => exact RoundTrip.sar w d a b
  | shli w d a i => exact RoundTrip.shli w d a i
  | shri w d a i => exact RoundTrip.shri w d a i
  | sari w d a i => exact RoundTrip.sari w d a i
  | rol w d a b => exact RoundTrip.rol w d a b
  | roli w d a i => exact RoundTrip.roli w d a i
  | fshl w d a b => exact RoundTrip.fshl w d a b
  | fshr w d a b => exact RoundTrip.fshr w d a b
  | sel w d a b => exact RoundTrip.sel w d a b
  | seq w d a b => exact RoundTrip.seq w d a b
  | sne w d a b => exact RoundTrip.sne w d a b
  | slt w d a b => exact RoundTrip.slt w d a b
  | sltu w d a b => exact RoundTrip.sltu w d a b
  | sle w d a b => exact RoundTrip.sle w d a b
  | sleu w d a b => exact RoundTrip.sleu w d a b
  | seqi w d a i => exact RoundTrip.seqi w d a i
  | slti w d a i => exact RoundTrip.slti w d a i
  | mov w d a => exact RoundTrip.mov w d a
  | movi w d i => exact RoundTrip.movi w d i
  | exts w d a i => exact RoundTrip.exts w d a i
  | extz w d a i => exact RoundTrip.extz w d a i
  | clz w d a => exact RoundTrip.clz w d a
  | ctz w d a => exact RoundTrip.ctz w d a
  | popc w d a => exact RoundTrip.popc w d a
  | brev w d a => exact RoundTrip.brev w d a
  | bext w d a b => exact RoundTrip.bext w d a b
  | bexts w d a b => exact RoundTrip.bexts w d a b
  | bdep w d a b => exact RoundTrip.bdep w d a b
  | paddL4 w d a b => exact RoundTrip.paddL4 w d a b
  | paddL8 w d a b => exact RoundTrip.paddL8 w d a b
  | paddL16 w d a b => exact RoundTrip.paddL16 w d a b
  | paddL32 w d a b => exact RoundTrip.paddL32 w d a b
  | psubL4 w d a b => exact RoundTrip.psubL4 w d a b
  | psubL8 w d a b => exact RoundTrip.psubL8 w d a b
  | psubL16 w d a b => exact RoundTrip.psubL16 w d a b
  | psubL32 w d a b => exact RoundTrip.psubL32 w d a b
  | pmaxuL4 w d a b => exact RoundTrip.pmaxuL4 w d a b
  | pmaxuL8 w d a b => exact RoundTrip.pmaxuL8 w d a b
  | pmaxuL16 w d a b => exact RoundTrip.pmaxuL16 w d a b
  | pmaxuL32 w d a b => exact RoundTrip.pmaxuL32 w d a b
  | pminuL4 w d a b => exact RoundTrip.pminuL4 w d a b
  | pminuL8 w d a b => exact RoundTrip.pminuL8 w d a b
  | pminuL16 w d a b => exact RoundTrip.pminuL16 w d a b
  | pminuL32 w d a b => exact RoundTrip.pminuL32 w d a b
  | pmaxsL4 w d a b => exact RoundTrip.pmaxsL4 w d a b
  | pmaxsL8 w d a b => exact RoundTrip.pmaxsL8 w d a b
  | pmaxsL16 w d a b => exact RoundTrip.pmaxsL16 w d a b
  | pmaxsL32 w d a b => exact RoundTrip.pmaxsL32 w d a b
  | pminsL4 w d a b => exact RoundTrip.pminsL4 w d a b
  | pminsL8 w d a b => exact RoundTrip.pminsL8 w d a b
  | pminsL16 w d a b => exact RoundTrip.pminsL16 w d a b
  | pminsL32 w d a b => exact RoundTrip.pminsL32 w d a b
  | paddssL4 w d a b => exact RoundTrip.paddssL4 w d a b
  | paddssL8 w d a b => exact RoundTrip.paddssL8 w d a b
  | paddssL16 w d a b => exact RoundTrip.paddssL16 w d a b
  | paddssL32 w d a b => exact RoundTrip.paddssL32 w d a b
  | rmaxuL4 w d a b => exact RoundTrip.rmaxuL4 w d a b
  | rmaxuL8 w d a b => exact RoundTrip.rmaxuL8 w d a b
  | rmaxuL16 w d a b => exact RoundTrip.rmaxuL16 w d a b
  | rmaxuL32 w d a b => exact RoundTrip.rmaxuL32 w d a b
  | fadd w d a b => exact RoundTrip.fadd w d a b
  | fsub w d a b => exact RoundTrip.fsub w d a b
  | fmul w d a b => exact RoundTrip.fmul w d a b
  | fma w d a b => exact RoundTrip.fma w d a b
  | fmulz w d a b => exact RoundTrip.fmulz w d a b
  | fmin w d a b => exact RoundTrip.fmin w d a b
  | fmax w d a b => exact RoundTrip.fmax w d a b
  | frcp w d a => exact RoundTrip.frcp w d a
  | frsq w d a => exact RoundTrip.frsq w d a
  | fexp2 w d a => exact RoundTrip.fexp2 w d a
  | flog2 w d a => exact RoundTrip.flog2 w d a
  | fcmpeq w d a b => exact RoundTrip.fcmpeq w d a b
  | fcmplt w d a b => exact RoundTrip.fcmplt w d a b
  | fcmple w d a b => exact RoundTrip.fcmple w d a b
  | fclass w d a => exact RoundTrip.fclass w d a
  | raddf w d a => exact RoundTrip.raddf w d a
  | badd w d a b => exact RoundTrip.badd w d a b
  | bmul w d a b => exact RoundTrip.bmul w d a b
  | bfma w d a b => exact RoundTrip.bfma w d a b
  | bmax w d a b => exact RoundTrip.bmax w d a b
  | bmin w d a b => exact RoundTrip.bmin w d a b
  | cvt w d a t s => exact RoundTrip.cvt w d a t s
  | cvtsr w d a t s => exact RoundTrip.cvtsr w d a t s
  | scacc w d a b => exact RoundTrip.scacc w d a b
  | aadd d a b => exact RoundTrip.aadd d a b
  | asub d a b => exact RoundTrip.asub d a b
  | aaddi d a i => exact RoundTrip.aaddi d a i
  | amul d a b => exact RoundTrip.amul d a b
  | aand d a b => exact RoundTrip.aand d a b
  | aor d a b => exact RoundTrip.aor d a b
  | axor d a b => exact RoundTrip.axor d a b
  | ashli d a i => exact RoundTrip.ashli d a i
  | ashri d a i => exact RoundTrip.ashri d a i
  | asari d a i => exact RoundTrip.asari d a i
  | aslt d a b => exact RoundTrip.aslt d a b
  | asltu d a b => exact RoundTrip.asltu d a b
  | amovi d i => exact RoundTrip.amovi d i
  | aupi d i => exact RoundTrip.aupi d i
  | amov d a => exact RoundTrip.amov d a
  | apushq q a => exact RoundTrip.apushq q a
  | apopq d => exact RoundTrip.apopq d
  | cbase d a b => exact RoundTrip.cbase d a b
  | clen d a b => exact RoundTrip.clen d a b
  | cperm d a b => exact RoundTrip.cperm d a b
  | cget d a f => exact RoundTrip.cget d a f
  | cclr d a => exact RoundTrip.cclr d a
  | ld q c o z s r p => exact RoundTrip.ld q c o z s r p
  | ldx q c o z s r p => exact RoundTrip.ldx q c o z s r p
  | lda d c o z s r p => exact RoundTrip.lda d c o z s r p
  | ldc d c o r p => exact RoundTrip.ldc d c o r p
  | ldnib q c o z s => exact RoundTrip.ldnib q c o z s
  | st c o z r p => exact RoundTrip.st c o z r p
  | stm m c o r p => exact RoundTrip.stm m c o r p
  | stx c o z r p => exact RoundTrip.stx c o z r p
  | sta d c o z r p => exact RoundTrip.sta d c o z r p
  | stc d c o r p => exact RoundTrip.stc d c o r p
  | stnib c o z => exact RoundTrip.stnib c o z
  | amo d a b f z o p => exact RoundTrip.amo d a b f z o p
  | amocas d a b z o p => exact RoundTrip.amocas d a b z o p
  | fenceAcq p => exact RoundTrip.fenceAcq p
  | fenceRel p => exact RoundTrip.fenceRel p
  | fenceAr p => exact RoundTrip.fenceAr p
  | xfence p => exact RoundTrip.xfence p
  | bmov d a b => exact RoundTrip.bmov d a b
  | rep q a b z s t => exact RoundTrip.rep q a b z s t
  | csrr d i => exact RoundTrip.csrr d i
  | csrw d a i => exact RoundTrip.csrw d a i
  | beq a b d => exact RoundTrip.beq a b d
  | bne a b d => exact RoundTrip.bne a b d
  | blt a b d => exact RoundTrip.blt a b d
  | bge a b d => exact RoundTrip.bge a b d
  | bltu a b d => exact RoundTrip.bltu a b d
  | bgeu a b d => exact RoundTrip.bgeu a b d
  | bxq d => exact RoundTrip.bxq d
  | bxqz d => exact RoundTrip.bxqz d
  | j t => exact RoundTrip.j t
  | call t => exact RoundTrip.call t
  | ret => exact RoundTrip.ret
  | jr a => exact RoundTrip.jr a
  | loop a l => exact RoundTrip.loop a l
  | endAct => exact RoundTrip.endAct
  | ecall c => exact RoundTrip.ecall c
  | brk c => exact RoundTrip.brk c
  | send a b r h => exact RoundTrip.send a b r h
  | sende a b p => exact RoundTrip.sende a b p
  | reply a => exact RoundTrip.reply a
  | jarrive a b p => exact RoundTrip.jarrive a b p
  | gang n => exact RoundTrip.gang n
  | disband => exact RoundTrip.disband
  | stacq d a b r => exact RoundTrip.stacq d a b r
  | strel d a b => exact RoundTrip.strel d a b
  | dqpush a b => exact RoundTrip.dqpush a b
  | dqpop d => exact RoundTrip.dqpop d
  | dqsplit => exact RoundTrip.dqsplit
  | dqsteal d a => exact RoundTrip.dqsteal d a
  | tlwait a x => exact RoundTrip.tlwait a x
  | tlread d s x => exact RoundTrip.tlread d s x
  | evsig p l => exact RoundTrip.evsig p l
  | eret => exact RoundTrip.eret
  | eretEnd => exact RoundTrip.eretEnd
  | wfi => exact RoundTrip.wfi
  | nop => exact RoundTrip.nop
  | himm v => exact RoundTrip.himm v
  | hwid a b s t => exact RoundTrip.hwid a b s t
  | hmod m s => exact RoundTrip.hmod m s
  | hyld => exact RoundTrip.hyld
  | macq a k => exact RoundTrip.macq a k
  | mrel a k => exact RoundTrip.mrel a k
  | mrelRes a k => exact RoundTrip.mrelRes a k
  | mrelAbn a k => exact RoundTrip.mrelAbn a k
  | mldb d a b m k => exact RoundTrip.mldb d a b m k
  | mspec d a b m k => exact RoundTrip.mspec d a b m k
  | mzero d a m k => exact RoundTrip.mzero d a m k
  | mma d a b m k => exact RoundTrip.mma d a b m k
  | lnscfg k => exact RoundTrip.lnscfg k
  | mmas d a b m k => exact RoundTrip.mmas d a b m k
  | mrd q a k => exact RoundTrip.mrd q a k
  | mrdFlg q a k => exact RoundTrip.mrdFlg q a k
  | mcopy d a b m k => exact RoundTrip.mcopy d a b m k
  | chbond a r k => exact RoundTrip.chbond a r k
  | chprog a b k => exact RoundTrip.chprog a b k
  | chprogKeep a b k => exact RoundTrip.chprogKeep a b k
  | chrunStart d m k => exact RoundTrip.chrunStart d m k
  | chrunResume a k => exact RoundTrip.chrunResume a k
  | chrunAbn a k => exact RoundTrip.chrunAbn a k
  | chstat d s k => exact RoundTrip.chstat d s k
  | chgrad a b k => exact RoundTrip.chgrad a b k
  | grset a b k => exact RoundTrip.grset a b k
  | grred d a b o m k => exact RoundTrip.grred d a b o m k
  | grscan d a b o m k => exact RoundTrip.grscan d a b o m k
  | grscanX d a b o m k => exact RoundTrip.grscanX d a b o m k
  | grmv d a b m k => exact RoundTrip.grmv d a b m k
  | grat d a b o m k => exact RoundTrip.grat d a b o m k
  | grstat d s k => exact RoundTrip.grstat d s k
  | grstatRes a k => exact RoundTrip.grstatRes a k
  | grstatAbn a k => exact RoundTrip.grstatAbn a k
  | cpy d a b m c => exact RoundTrip.cpy d a b m c
  | cpywp d a c => exact RoundTrip.cpywp d a c
  | cpychkCheck d a b c => exact RoundTrip.cpychkCheck d a b c
  | cpychkRes a c => exact RoundTrip.cpychkRes a c
  | cpychkAbn a c => exact RoundTrip.cpychkAbn a c
  | _ => exact fun _ _ h => nomatch h

/-- Settles O43: the law of the instruction's row. -/
theorem decodeReadsEncode : Obligations.DecodeReadsEncode := by
  unfold Obligations.DecodeReadsEncode
  exact fun i w wf h => roundTrip i wf w h

/-! ### Fields make up their word (00 R5) -/

/-- The value of adjacent fields of `w` from bit `lo` up, whose widths are listed from the lowest. -/
def layout (w lo : Nat) : List Nat → Nat
  | [] => 0
  | [n] => fld w lo n
  | n :: m :: ns => fld w lo n + 2 ^ n * layout w (lo + n) (m :: ns)

theorem fld_add (w lo m n : Nat) : fld w lo (m + n) = fld w lo m + 2 ^ m * fld w (lo + m) n := by
  simp only [fld, Nat.pow_add, ← Nat.div_div_eq_div_mul]
  exact Nat.mod_mul

/-- Adjacent fields make up one field. -/
theorem fld_layout (w : Nat) : ∀ (lo : Nat) (ns : List Nat), fld w lo ns.sum = layout w lo ns
  | _, [] => by simp [fld, layout, Nat.mod_one]
  | _, [_] => by simp [layout]
  | lo, n :: m :: ns => by rw [List.sum_cons, fld_add, fld_layout w (lo + n) (m :: ns), layout]

/-! The low 24 bits in the layouts of the entries; a name lists the widths from the lowest field. -/

theorem fld_split_7_7_7_3 (w : Nat) :
    fld w 0 24 = fld w 0 7 + 128 * (fld w 7 7 + 128 * (fld w 14 7 + 128 * fld w 21 3)) :=
  fld_layout w 0 [7, 7, 7, 3]

theorem fld_split_3_3_1_7_7_3 (w : Nat) :
    fld w 0 24 = fld w 0 3 + 8 * (fld w 3 3 + 8 * (fld w 6 1 + 2 * (fld w 7 7 + 128 * (fld w 14 7 + 128 * fld w 21 3)))) :=
  fld_layout w 0 [3, 3, 1, 7, 7, 3]

theorem fld_split_9_5_5_5 (w : Nat) :
    fld w 0 24 = fld w 0 9 + 512 * (fld w 9 5 + 32 * (fld w 14 5 + 32 * fld w 19 5)) :=
  fld_layout w 0 [9, 5, 5, 5]

theorem fld_split_14_5_5 (w : Nat) :
    fld w 0 24 = fld w 0 14 + 16384 * (fld w 14 5 + 32 * fld w 19 5) :=
  fld_layout w 0 [14, 5, 5]

theorem fld_split_19_5 (w : Nat) :
    fld w 0 24 = fld w 0 19 + 524288 * fld w 19 5 :=
  fld_layout w 0 [19, 5]

theorem fld_split_3_2_1_3_5_5_5 (w : Nat) :
    fld w 0 24 = fld w 0 3 + 8 * (fld w 3 2 + 4 * (fld w 5 1 + 2 * (fld w 6 3 + 8 * (fld w 9 5 + 32 * (fld w 14 5 + 32 * fld w 19 5))))) :=
  fld_layout w 0 [3, 2, 1, 3, 5, 5, 5]

theorem fld_split_3_2_4_5_5_5 (w : Nat) :
    fld w 0 24 = fld w 0 3 + 8 * (fld w 3 2 + 4 * (fld w 5 4 + 16 * (fld w 9 5 + 32 * (fld w 14 5 + 32 * fld w 19 5)))) :=
  fld_layout w 0 [3, 2, 4, 5, 5, 5]

theorem fld_split_5_1_3_5_5_5 (w : Nat) :
    fld w 0 24 = fld w 0 5 + 32 * (fld w 5 1 + 2 * (fld w 6 3 + 8 * (fld w 9 5 + 32 * (fld w 14 5 + 32 * fld w 19 5)))) :=
  fld_layout w 0 [5, 1, 3, 5, 5, 5]

theorem fld_split_6_3_5_5_5 (w : Nat) :
    fld w 0 24 = fld w 0 6 + 64 * (fld w 6 3 + 8 * (fld w 9 5 + 32 * (fld w 14 5 + 32 * fld w 19 5))) :=
  fld_layout w 0 [6, 3, 5, 5, 5]

theorem fld_split_3_1_1_4_5_5_5 (w : Nat) :
    fld w 0 24 = fld w 0 3 + 8 * (fld w 3 1 + 2 * (fld w 4 1 + 2 * (fld w 5 4 + 16 * (fld w 9 5 + 32 * (fld w 14 5 + 32 * fld w 19 5))))) :=
  fld_layout w 0 [3, 1, 1, 4, 5, 5, 5]

theorem fld_split_3_1_1_4_5_5_1_4 (w : Nat) :
    fld w 0 24 = fld w 0 3 + 8 * (fld w 3 1 + 2 * (fld w 4 1 + 2 * (fld w 5 4 + 16 * (fld w 9 5 + 32 * (fld w 14 5 + 32 * (fld w 19 1 + 2 * fld w 20 4)))))) :=
  fld_layout w 0 [3, 1, 1, 4, 5, 5, 1, 4]

theorem fld_split_3_21 (w : Nat) :
    fld w 0 24 = fld w 0 3 + 8 * fld w 3 21 :=
  fld_layout w 0 [3, 21]

theorem fld_split_4_1_1_3_5_5_5 (w : Nat) :
    fld w 0 24 = fld w 0 4 + 16 * (fld w 4 1 + 2 * (fld w 5 1 + 2 * (fld w 6 3 + 8 * (fld w 9 5 + 32 * (fld w 14 5 + 32 * fld w 19 5))))) :=
  fld_layout w 0 [4, 1, 1, 3, 5, 5, 5]

theorem fld_split_14_10 (w : Nat) :
    fld w 0 24 = fld w 0 14 + 16384 * fld w 14 10 :=
  fld_layout w 0 [14, 10]

theorem fld_split_12_7_5 (w : Nat) :
    fld w 0 24 = fld w 0 12 + 4096 * (fld w 12 7 + 128 * fld w 19 5) :=
  fld_layout w 0 [12, 7, 5]

theorem fld_split_8_1_5_5_5 (w : Nat) :
    fld w 0 24 = fld w 0 8 + 256 * (fld w 8 1 + 2 * (fld w 9 5 + 32 * (fld w 14 5 + 32 * fld w 19 5))) :=
  fld_layout w 0 [8, 1, 5, 5, 5]

theorem fld_split_1_8_5_5_5 (w : Nat) :
    fld w 0 24 = fld w 0 1 + 2 * (fld w 1 8 + 256 * (fld w 9 5 + 32 * (fld w 14 5 + 32 * fld w 19 5))) :=
  fld_layout w 0 [1, 8, 5, 5, 5]

theorem fld_split_3_6_5_5_5 (w : Nat) :
    fld w 0 24 = fld w 0 3 + 8 * (fld w 3 6 + 64 * (fld w 9 5 + 32 * (fld w 14 5 + 32 * fld w 19 5))) :=
  fld_layout w 0 [3, 6, 5, 5, 5]

theorem fld_split_20_4 (w : Nat) :
    fld w 0 24 = fld w 0 20 + 1048576 * fld w 20 4 :=
  fld_layout w 0 [20, 4]

theorem fld_split_14_5_1_4 (w : Nat) :
    fld w 0 24 = fld w 0 14 + 16384 * (fld w 14 5 + 32 * (fld w 19 1 + 2 * fld w 20 4)) :=
  fld_layout w 0 [14, 5, 1, 4]

theorem fld_split_8_6_5_5 (w : Nat) :
    fld w 0 24 = fld w 0 8 + 256 * (fld w 8 6 + 64 * (fld w 14 5 + 32 * fld w 19 5)) :=
  fld_layout w 0 [8, 6, 5, 5]

theorem fld_split_8_1_10_5 (w : Nat) :
    fld w 0 24 = fld w 0 8 + 256 * (fld w 8 1 + 2 * (fld w 9 10 + 1024 * fld w 19 5)) :=
  fld_layout w 0 [8, 1, 10, 5]

theorem fld_split_5_3_16 (w : Nat) :
    fld w 0 24 = fld w 0 5 + 32 * (fld w 5 3 + 8 * fld w 8 16) :=
  fld_layout w 0 [5, 3, 16]

theorem fld_split_2_12_5_5 (w : Nat) :
    fld w 0 24 = fld w 0 2 + 4 * (fld w 2 12 + 4096 * (fld w 14 5 + 32 * fld w 19 5)) :=
  fld_layout w 0 [2, 12, 5, 5]

theorem fld_split_2_1_6_5_5_5 (w : Nat) :
    fld w 0 24 = fld w 0 2 + 4 * (fld w 2 1 + 2 * (fld w 3 6 + 64 * (fld w 9 5 + 32 * (fld w 14 5 + 32 * fld w 19 5)))) :=
  fld_layout w 0 [2, 1, 6, 5, 5, 5]

theorem fld_split_2_1_11_5_5 (w : Nat) :
    fld w 0 24 = fld w 0 2 + 4 * (fld w 2 1 + 2 * (fld w 3 11 + 2048 * (fld w 14 5 + 32 * fld w 19 5))) :=
  fld_layout w 0 [2, 1, 11, 5, 5]

theorem fld_split_2_22 (w : Nat) :
    fld w 0 24 = fld w 0 2 + 4 * fld w 2 22 :=
  fld_layout w 0 [2, 22]

theorem fld_split_2_4_8_5_5 (w : Nat) :
    fld w 0 24 = fld w 0 2 + 4 * (fld w 2 4 + 16 * (fld w 6 8 + 256 * (fld w 14 5 + 32 * fld w 19 5))) :=
  fld_layout w 0 [2, 4, 8, 5, 5]

theorem fld_split_2_7_5_5_5 (w : Nat) :
    fld w 0 24 = fld w 0 2 + 4 * (fld w 2 7 + 128 * (fld w 9 5 + 32 * (fld w 14 5 + 32 * fld w 19 5))) :=
  fld_layout w 0 [2, 7, 5, 5, 5]

theorem fld_split_2_2_1_14_5 (w : Nat) :
    fld w 0 24 = fld w 0 2 + 4 * (fld w 2 2 + 4 * (fld w 4 1 + 2 * (fld w 5 14 + 16384 * fld w 19 5))) :=
  fld_layout w 0 [2, 2, 1, 14, 5]

theorem fld_split_2_4_13_5 (w : Nat) :
    fld w 0 24 = fld w 0 2 + 4 * (fld w 2 4 + 16 * (fld w 6 13 + 8192 * fld w 19 5)) :=
  fld_layout w 0 [2, 4, 13, 5]

theorem fld_split_2_1_1_5_5_5_5 (w : Nat) :
    fld w 0 24 = fld w 0 2 + 4 * (fld w 2 1 + 2 * (fld w 3 1 + 2 * (fld w 4 5 + 32 * (fld w 9 5 + 32 * (fld w 14 5 + 32 * fld w 19 5))))) :=
  fld_layout w 0 [2, 1, 1, 5, 5, 5, 5]

theorem fld_split_3_1_5_5_5_5 (w : Nat) :
    fld w 0 24 = fld w 0 3 + 8 * (fld w 3 1 + 2 * (fld w 4 5 + 32 * (fld w 9 5 + 32 * (fld w 14 5 + 32 * fld w 19 5)))) :=
  fld_layout w 0 [3, 1, 5, 5, 5, 5]

theorem fld_split_3_11_5_5 (w : Nat) :
    fld w 0 24 = fld w 0 3 + 8 * (fld w 3 11 + 2048 * (fld w 14 5 + 32 * fld w 19 5)) :=
  fld_layout w 0 [3, 11, 5, 5]

theorem fld_split_16_1_1_3_3 (w : Nat) :
    fld w 0 24 = fld w 0 16 + 65536 * (fld w 16 1 + 2 * (fld w 17 1 + 2 * (fld w 18 3 + 8 * fld w 21 3))) :=
  fld_layout w 0 [16, 1, 1, 3, 3]

theorem fld_split_20_1_3 (w : Nat) :
    fld w 0 24 = fld w 0 20 + 1048576 * (fld w 20 1 + 2 * fld w 21 3) :=
  fld_layout w 0 [20, 1, 3]

/-! ### Each row of the opcode map writes what it reads (03 R56) -/

theorem encode_of_decodeRow0 {lo w : Nat} {i : Instr} (h : decodeRow0 lo w = .ok i) :
    encode i = some (0x00000000 + 0x1000000 * lo + fld w 0 24) := by
  have := fld_split_7_7_7_3 w
  simp only [decodeRow0] at h
  repeat' split at h
  all_goals cases h
  all_goals exact congrArg some (by omega)

theorem encode_of_decodeRow1 {lo w : Nat} {i : Instr} (h : decodeRow1 lo w = .ok i) :
    encode i = some (0x10000000 + 0x1000000 * lo + fld w 0 24) := by
  have := fld_split_7_7_7_3 w
  simp only [decodeRow1, beq_iff_eq] at h
  repeat' split at h
  all_goals cases h
  all_goals exact congrArg some (by omega)

theorem encode_of_decodeRow2 {lo w : Nat} {i : Instr} (h : decodeRow2 lo w = .ok i) :
    encode i = some (0x20000000 + 0x1000000 * lo + fld w 0 24) := by
  have := fld_split_7_7_7_3 w
  simp only [decodeRow2] at h
  repeat' split at h
  all_goals cases h
  all_goals exact congrArg some (by omega)

theorem encode_of_decodeRow3 {lo w : Nat} {i : Instr} (h : decodeRow3 lo w = .ok i) :
    encode i = some (0x30000000 + 0x1000000 * lo + fld w 0 24) := by
  have := fld_split_7_7_7_3 w
  simp only [decodeRow3, beq_iff_eq] at h
  repeat' split at h
  all_goals cases h
  all_goals exact congrArg some (by omega)

theorem encode_of_decodeRow4 {lo w : Nat} {i : Instr} (h : decodeRow4 lo w = .ok i) :
    encode i = some (0x40000000 + 0x1000000 * lo + fld w 0 24) := by
  have := fld_split_7_7_7_3 w
  simp only [decodeRow4] at h
  repeat' split at h
  all_goals cases h
  all_goals exact congrArg some (by omega)

theorem encode_of_decodeRow5 {lo w : Nat} {i : Instr} (h : decodeRow5 lo w = .ok i) :
    encode i = some (0x50000000 + 0x1000000 * lo + fld w 0 24) := by
  have := fld_split_7_7_7_3 w
  simp only [decodeRow5] at h
  repeat' split at h
  all_goals cases h
  all_goals exact congrArg some (by omega)

theorem encode_of_decodeRow6 {lo w : Nat} {i : Instr} (h : decodeRow6 lo w = .ok i) :
    encode i = some (0x60000000 + 0x1000000 * lo + fld w 0 24) := by
  have := fld_split_7_7_7_3 w
  simp only [decodeRow6, beq_iff_eq] at h
  repeat' split at h
  all_goals cases h
  all_goals exact congrArg some (by omega)

theorem encode_of_decodeRow7 {lo w : Nat} {i : Instr} (h : decodeRow7 lo w = .ok i) :
    encode i = some (0x70000000 + 0x1000000 * lo + fld w 0 24) := by
  have := fld_split_7_7_7_3 w
  have := fld_split_3_3_1_7_7_3 w
  simp only [decodeRow7, beq_iff_eq] at h
  repeat' split at h
  all_goals cases h
  all_goals exact congrArg some (by omega)

theorem encode_of_decodeRow8 {lo w : Nat} {i : Instr} (h : decodeRow8 lo w = .ok i) :
    encode i = some (0x80000000 + 0x1000000 * lo + fld w 0 24) := by
  have := fld_split_9_5_5_5 w
  have := fld_split_14_5_5 w
  simp only [decodeRow8, beq_iff_eq] at h
  repeat' split at h
  all_goals cases h
  all_goals exact congrArg some (by omega)

theorem encode_of_decodeRow9 {lo w : Nat} {i : Instr} (h : decodeRow9 lo w = .ok i) :
    encode i = some (0x90000000 + 0x1000000 * lo + fld w 0 24) := by
  simp only [decodeRow9, Bool.and_eq_true, beq_iff_eq] at h
  repeat' split at h
  all_goals cases h
  · exact congrArg some (by have := fld_split_19_5 w; omega)
  · exact congrArg some (by have := fld_split_9_5_5_5 w; omega)
  · exact congrArg some (by have := fld_split_9_5_5_5 w; omega)
  · exact congrArg some (by have := fld_split_9_5_5_5 w; omega)
  · exact congrArg some (by have := fld_split_9_5_5_5 w; omega)
  · exact congrArg some (by have := fld_split_14_5_5 w; omega)
  · exact congrArg some (by have := fld_split_3_2_1_3_5_5_5 w; omega)
  · exact congrArg some (by have := fld_split_3_2_1_3_5_5_5 w; omega)
  · exact congrArg some (by have := fld_split_3_2_1_3_5_5_5 w; omega)
  · exact congrArg some (by have := fld_split_3_2_4_5_5_5 w; omega)
  · exact congrArg some (by have := fld_split_5_1_3_5_5_5 w; omega)
  · exact congrArg some (by have := fld_split_3_2_1_3_5_5_5 w; omega)
  · exact congrArg some (by have := fld_split_3_2_4_5_5_5 w; omega)
  · exact congrArg some (by have := fld_split_3_2_1_3_5_5_5 w; omega)
  · exact congrArg some (by have := fld_split_3_2_1_3_5_5_5 w; omega)
  · exact congrArg some (by have := fld_split_3_2_4_5_5_5 w; omega)

theorem encode_of_decodeRowA {lo w : Nat} {i : Instr} (h : decodeRowA lo w = .ok i) :
    encode i = some (0xA0000000 + 0x1000000 * lo + fld w 0 24) := by
  simp only [decodeRowA, Bool.and_eq_true, beq_iff_eq] at h
  repeat' split at h
  all_goals cases h
  · exact congrArg some (by have := fld_split_6_3_5_5_5 w; omega)
  · exact congrArg some (by have := fld_split_3_1_1_4_5_5_5 w; omega)
  · exact congrArg some (by have := fld_split_3_1_1_4_5_5_1_4 w; omega)
  · exact congrArg some (by have := fld_split_3_21 w; omega)
  · exact congrArg some (by have := fld_split_3_21 w; omega)
  · exact congrArg some (by have := fld_split_3_21 w; omega)
  · exact congrArg some (by have := fld_split_3_21 w; omega)
  · exact congrArg some (by have := fld_split_9_5_5_5 w; omega)
  · exact congrArg some (by have := fld_split_4_1_1_3_5_5_5 w; omega)
  · exact congrArg some (by have := fld_split_14_5_5 w; omega)
  · exact congrArg some (by have := fld_split_14_5_5 w; omega)

theorem encode_of_decodeRowB {lo w : Nat} {i : Instr} (h : decodeRowB lo w = .ok i) :
    encode i = some (0xB0000000 + 0x1000000 * lo + fld w 0 24) := by
  simp only [decodeRowB, Bool.and_eq_true, beq_iff_eq] at h
  repeat' split at h
  all_goals cases h
  · exact congrArg some (by have := fld_split_14_5_5 w; omega)
  · exact congrArg some (by have := fld_split_14_5_5 w; omega)
  · exact congrArg some (by have := fld_split_14_5_5 w; omega)
  · exact congrArg some (by have := fld_split_14_5_5 w; omega)
  · exact congrArg some (by have := fld_split_14_5_5 w; omega)
  · exact congrArg some (by have := fld_split_14_5_5 w; omega)
  · exact congrArg some (by have := fld_split_14_10 w; omega)
  · exact congrArg some (by have := fld_split_14_10 w; omega)
  · exact congrArg some (by have := fld_split_14_10 w; omega)
  · exact congrArg some (by have := fld_split_14_10 w; omega)
  · exact congrArg some (by omega)
  · exact congrArg some (by have := fld_split_14_5_5 w; omega)
  · exact congrArg some (by have := fld_split_12_7_5 w; omega)
  · exact congrArg some (by omega)
  · exact congrArg some (by omega)
  · exact congrArg some (by omega)

theorem encode_of_decodeRowC {lo w : Nat} {i : Instr} (h : decodeRowC lo w = .ok i) :
    encode i = some (0xC0000000 + 0x1000000 * lo + fld w 0 24) := by
  simp only [decodeRowC, Bool.and_eq_true, beq_iff_eq] at h
  repeat' split at h
  all_goals cases h
  · exact congrArg some (by have := fld_split_8_1_5_5_5 w; omega)
  · exact congrArg some (by have := fld_split_1_8_5_5_5 w; omega)
  · exact congrArg some (by have := fld_split_14_5_5 w; omega)
  · exact congrArg some (by have := fld_split_3_6_5_5_5 w; omega)
  · exact congrArg some (by have := fld_split_14_10 w; omega)
  · exact congrArg some (by omega)
  · exact congrArg some (by have := fld_split_1_8_5_5_5 w; omega)
  · exact congrArg some (by have := fld_split_9_5_5_5 w; omega)
  · exact congrArg some (by have := fld_split_9_5_5_5 w; omega)
  · exact congrArg some (by have := fld_split_20_4 w; omega)
  · exact congrArg some (by omega)
  · exact congrArg some (by have := fld_split_14_5_1_4 w; omega)
  · exact congrArg some (by have := fld_split_8_6_5_5 w; omega)
  · exact congrArg some (by have := fld_split_8_1_10_5 w; omega)
  · exact congrArg some (by have := fld_split_5_3_16 w; omega)
  · exact congrArg some (by omega)
  · exact congrArg some (by omega)

theorem encode_of_decodeRowD {lo w : Nat} {i : Instr} (h : decodeRowD lo w = .ok i) :
    encode i = some (0xD0000000 + 0x1000000 * lo + fld w 0 24) := by
  simp only [decodeRowD, Bool.and_eq_true, beq_iff_eq] at h
  repeat' split at h
  all_goals cases h
  · exact congrArg some (by have := fld_split_2_12_5_5 w; omega)
  · exact congrArg some (by have := fld_split_2_12_5_5 w; omega)
  · exact congrArg some (by have := fld_split_2_12_5_5 w; omega)
  · exact congrArg some (by have := fld_split_2_12_5_5 w; omega)
  · exact congrArg some (by have := fld_split_2_1_6_5_5_5 w; omega)
  · exact congrArg some (by have := fld_split_2_1_6_5_5_5 w; omega)
  · exact congrArg some (by have := fld_split_2_1_11_5_5 w; omega)
  · exact congrArg some (by have := fld_split_2_1_6_5_5_5 w; omega)
  · exact congrArg some (by have := fld_split_2_22 w; omega)
  · exact congrArg some (by have := fld_split_2_1_6_5_5_5 w; omega)
  · exact congrArg some (by have := fld_split_2_12_5_5 w; omega)
  · exact congrArg some (by have := fld_split_2_12_5_5 w; omega)
  · exact congrArg some (by have := fld_split_2_1_6_5_5_5 w; omega)

theorem encode_of_decodeRowE {lo w : Nat} {i : Instr} (h : decodeRowE lo w = .ok i) :
    encode i = some (0xE0000000 + 0x1000000 * lo + fld w 0 24) := by
  simp only [decodeRowE, Bool.and_eq_true, beq_iff_eq] at h
  repeat' split at h
  all_goals cases h
  · exact congrArg some (by have := fld_split_2_4_8_5_5 w; omega)
  · exact congrArg some (by have := fld_split_2_7_5_5_5 w; omega)
  · exact congrArg some (by have := fld_split_2_7_5_5_5 w; omega)
  · exact congrArg some (by have := fld_split_2_2_1_14_5 w; omega)
  · exact congrArg some (by have := fld_split_2_12_5_5 w; omega)
  · exact congrArg some (by have := fld_split_2_12_5_5 w; omega)
  · exact congrArg some (by have := fld_split_2_4_13_5 w; omega)
  · exact congrArg some (by have := fld_split_2_7_5_5_5 w; omega)
  · exact congrArg some (by have := fld_split_2_7_5_5_5 w; omega)
  · exact congrArg some (by have := fld_split_2_1_6_5_5_5 w; omega)
  · exact congrArg some (by have := fld_split_2_1_1_5_5_5_5 w; omega)
  · exact congrArg some (by have := fld_split_2_1_1_5_5_5_5 w; omega)
  · exact congrArg some (by have := fld_split_2_1_6_5_5_5 w; omega)
  · exact congrArg some (by have := fld_split_2_1_1_5_5_5_5 w; omega)
  · exact congrArg some (by have := fld_split_2_4_13_5 w; omega)
  · exact congrArg some (by have := fld_split_2_12_5_5 w; omega)
  · exact congrArg some (by have := fld_split_2_12_5_5 w; omega)

theorem encode_of_decodeRowF {lo w : Nat} {i : Instr} (h : decodeRowF lo w = .ok i) :
    encode i = some (0xF0000000 + 0x1000000 * lo + fld w 0 24) := by
  simp only [decodeRowF, Bool.and_eq_true, beq_iff_eq] at h
  repeat' split at h
  all_goals cases h
  · exact congrArg some (by have := fld_split_3_1_5_5_5_5 w; omega)
  · exact congrArg some (by have := fld_split_3_11_5_5 w; omega)
  · exact congrArg some (by have := fld_split_3_6_5_5_5 w; omega)
  · exact congrArg some (by have := fld_split_3_11_5_5 w; omega)
  · exact congrArg some (by have := fld_split_3_11_5_5 w; omega)
  · exact congrArg some (by omega)
  · exact congrArg some (by have := fld_split_16_1_1_3_3 w; omega)
  · exact congrArg some (by have := fld_split_20_1_3 w; omega)
  · exact congrArg some (by omega)
  · exact congrArg some (by omega)
  · exact congrArg some (by omega)
/-- A word that decodes is the word of the instruction: its opcode names the row, and its fields are the low 24 bits. -/
theorem encode_of_decodeFields {w : Nat} {i : Instr} (hw : w < 2 ^ 32) (h : decodeFields w = .ok i) : encode i = some w := by
  have hop : w = 0x10000000 * fld w 28 4 + 0x1000000 * fld w 24 4 + fld w 0 24 := by
    simp only [fld]
    omega
  unfold decodeFields at h
  split at h
  case h_1 hi => exact (encode_of_decodeRow0 h).trans (congrArg some (by omega))
  case h_2 hi => exact (encode_of_decodeRow1 h).trans (congrArg some (by omega))
  case h_3 hi => exact (encode_of_decodeRow2 h).trans (congrArg some (by omega))
  case h_4 hi => exact (encode_of_decodeRow3 h).trans (congrArg some (by omega))
  case h_5 hi => exact (encode_of_decodeRow4 h).trans (congrArg some (by omega))
  case h_6 hi => exact (encode_of_decodeRow5 h).trans (congrArg some (by omega))
  case h_7 hi => exact (encode_of_decodeRow6 h).trans (congrArg some (by omega))
  case h_8 hi => exact (encode_of_decodeRow7 h).trans (congrArg some (by omega))
  case h_9 hi => exact (encode_of_decodeRow8 h).trans (congrArg some (by omega))
  case h_10 hi => exact (encode_of_decodeRow9 h).trans (congrArg some (by omega))
  case h_11 hi => exact (encode_of_decodeRowA h).trans (congrArg some (by omega))
  case h_12 hi => exact (encode_of_decodeRowB h).trans (congrArg some (by omega))
  case h_13 hi => exact (encode_of_decodeRowC h).trans (congrArg some (by omega))
  case h_14 hi => exact (encode_of_decodeRowD h).trans (congrArg some (by omega))
  case h_15 hi => exact (encode_of_decodeRowE h).trans (congrArg some (by omega))
  case h_16 hi => exact (encode_of_decodeRowF h).trans (congrArg some (by omega))
  case h_17 => cases h

/-- Settles O44: `decode` keeps only what is well formed, and its fields have their word. -/
theorem encodeReadsDecode : Obligations.EncodeReadsDecode := by
  unfold Obligations.EncodeReadsDecode
  intro w i hw h
  unfold decode at h
  split at h
  next j hj =>
    split at h
    · next wf =>
      cases h
      exact ⟨wf, encode_of_decodeFields hw hj⟩
    · cases h
  next => cases h

/-! ### Words written out -/

theorem decode_ne_ok_of_error {w : Nat} {e : Reject} (h : decode w = .error e) (i : Instr) : decode w ≠ .ok i := by
  rw [h]
  exact fun h => nomatch h

/-- Settles O42: each instruction's word is written by `encode`, and the three reserved words are refused by name. -/
theorem decodeWords : Obligations.DecodeWords := by
  unfold Obligations.DecodeWords
  have word {w : Nat} {i : Instr} (wf : i.wellFormed = true) (h : encode i = some w) : decode w = .ok i := roundTrip i wf w h
  refine ⟨word rfl rfl, word rfl rfl, word rfl rfl, word rfl rfl, word rfl rfl, word rfl rfl, word rfl rfl, word rfl rfl,
    word rfl rfl, word rfl rfl, word rfl rfl, word rfl rfl, word rfl rfl, word rfl rfl, ?reserved⟩
  simp only [List.forall_mem_cons, List.not_mem_nil, false_imp_iff, implies_true, and_true]
  exact ⟨decode_ne_ok_of_error (e := .unassigned _) rfl, decode_ne_ok_of_error (e := .reserved _) rfl,
    decode_ne_ok_of_error (e := .unassigned _) rfl⟩

end Sys2Proof
end

section
/-! PROOF. Memory and registers: the canonical form over a step (O46, O47), the values at reset (O45), the register file (O49)
and the law of writes (O50) (02 R30, R37; 12 R205). -/

namespace Sys2Proof.Machine

/-! ### The canonical form (02 R37, 12 R205) -/

theorem memory_wf_iff (s : State) :
    Memory.wf s = true ↔ Sparse.canonical (0 : Byte) s.mem = true ∧ Sparse.canonical false s.tags = true := by
  rw [Memory.wf, Bool.and_eq_true]

/-- The end of a step leaves the memory that it began with, with the step's changes applied, in canonical form. -/
theorem closeStep_settled {s : State} (h : Settled s) (t : State) : Settled (s.closeStep t) := by
  obtain ⟨hm, ht⟩ := (memory_wf_iff s).mp h.2
  exact ⟨rfl, (memory_wf_iff _).mpr ⟨applyBytes_canonical _ _ hm, applyTags_canonical _ _ ht⟩⟩

/-- Settles O47: every step ends with `closeStep`. -/
theorem stepKeepsSettled : Obligations.StepKeepsSettled := by
  unfold Obligations.StepKeepsSettled
  intro s t hs h
  obtain ⟨u, -, hu⟩ := andThen_next h
  cases hu
  exact closeStep_settled hs u

/-- Settles O46. -/
theorem resetSettled : Obligations.ResetSettled := by
  unfold Obligations.ResetSettled
  exact ⟨rfl, (memory_wf_iff _).mpr ⟨rfl, rfl⟩⟩

/-! ### The values at reset (02 R39; 08 R143; 10 R183; 14 R262; 15 R288; 23 R422) -/

/-- A core that has not been written since reset has the values of `Core.reset`. -/
theorem core_reset (k : Nat) : State.reset.core k = Core.reset k := rfl

theorem cluster_reset (g : Nat) : State.reset.cluster g = Cluster.reset g := rfl

/-- Settles O45: reset writes no table, so that each unit reads as its default. -/
theorem resetValues : Obligations.ResetValues := by
  unfold Obligations.ResetValues
  refine ⟨fun k => ?core, fun g id => ?timeline, fun g => ?cluster, ?chain, ?platform, fun _ => rfl, fun _ => rfl, rfl, rfl⟩
  case core =>
    rw [core_reset]
    exact ⟨rfl, rfl, rfl, rfl, rfl, rfl, rfl, rfl, rfl, rfl⟩
  case timeline =>
    rw [State.timeline, cluster_reset]
    exact ⟨rfl, rfl⟩
  case cluster =>
    rw [cluster_reset]
    exact ⟨rfl, rfl, rfl, rfl⟩
  case chain => exact ⟨rfl, rfl, rfl, rfl, fun _ => rfl⟩
  case platform => exact ⟨rfl, rfl, rfl, rfl, rfl⟩

/-! ### The register file (02 R30) -/

/-- Settles O49. -/
theorem registerFile : Obligations.RegisterFile := by
  unfold Obligations.RegisterFile
  exact fun a _ _ v =>
    ⟨a.reg_zero, a.setReg_zero v, fun h => a.reg_setReg_self v h, fun h => a.reg_setReg_of_ne v h.symm⟩

/-! ### Writes (02 R37) -/

/-- Bytes from `pa` on read back, and every other address reads as before. -/
theorem byteAt_putBytes_getD (s : State) (pa : Nat) (l : List Byte) (q : Nat) :
    (s.putBytes pa l).byteAt q = if q < pa then s.byteAt q else (l[q - pa]?).getD (s.byteAt q) := by
  by_cases hlo : q < pa
  · rw [if_pos hlo, State.byteAt_putBytes_of_outside l s pa q (.inl hlo)]
  · rw [if_neg hlo]
    by_cases hhi : q - pa < l.length
    · have h := State.byteAt_putBytes l s pa (q - pa) hhi
      rw [Nat.add_sub_cancel' (Nat.not_lt.mp hlo)] at h
      rw [h, List.getElem?_eq_getElem hhi, Option.getD_some]
    · rw [State.byteAt_putBytes_of_outside l s pa q (.inr (by omega)),
        List.getElem?_eq_none (Nat.not_lt.mp hhi), Option.getD_none]

/-- A write clears the tags of the units that it overlaps and no other. -/
theorem tagAt_putBytes (l : List Byte) : ∀ (s : State) (pa u : Nat), (s.putBytes pa l).tagAt u =
    if l ≠ [] ∧ pa / 16 ≤ u ∧ 16 * u < pa + l.length then false else s.tagAt u := by
  induction l with
  | nil => intro s pa u; rw [if_neg (fun h => h.1 rfl)]; rfl
  | cons b rest ih =>
    intro s pa u
    rw [State.putBytes, ih, State.tagAt_putByte, List.length_cons]
    have hempty : rest = [] ↔ rest.length = 0 := List.length_eq_zero_iff.symm
    by_cases hin : pa / 16 ≤ u ∧ 16 * u < pa + (rest.length + 1)
    · rw [if_pos (show b :: rest ≠ [] ∧ _ from ⟨List.cons_ne_nil _ _, hin⟩)]
      by_cases hfirst : pa / 16 = u
      · rw [if_pos hfirst, ite_self]
      · rw [if_pos ⟨by rw [ne_eq, hempty]; omega, by omega, by omega⟩]
    · rw [if_neg (fun h : b :: rest ≠ [] ∧ _ => hin h.2), if_neg (by omega), if_neg (by omega)]

/-- Settles O50. -/
theorem memoryLaw : Obligations.MemoryLaw := by
  unfold Obligations.MemoryLaw
  exact fun s pa l => ⟨byteAt_putBytes_getD s pa l, tagAt_putBytes l s pa,
    fun u t q => ⟨s.byteAt_putTag u q t, s.tagAt_putTag u q t⟩⟩

end Sys2Proof.Machine
end

section
/-! PROOF. The frames of a dispatch over all instructions, from the laws of each: every instruction answers (O48), stays at
home (O58), keeps the rest of the part (O57), and without privilege keeps the guarded CSRs (O56) (03 R58; 06 R118; 10 R182;
12 R208). -/

namespace Sys2Proof.Machine

/-! ### Every instruction answers (10 R182) -/

/-- Settles O48: the law of each instruction and of each event. -/
theorem noInstructionStops : Obligations.NoInstructionStops := by
  unfold Obligations.NoInstructionStops
  intro i s
  cases i with
  | add _ _ _ _ => exact next_add _ _ _ _ s
  | sub _ _ _ _ => exact next_sub _ _ _ _ s
  | addi _ _ _ _ => exact next_addi _ _ _ _ s
  | mul _ _ _ _ => exact next_mul _ _ _ _ s
  | mulh _ _ _ _ => exact next_mulh _ _ _ _ s
  | mulhu _ _ _ _ => exact next_mulhu _ _ _ _ s
  | mulw _ _ _ _ => exact next_mulw _ _ _ _ s
  | mulwu _ _ _ _ => exact next_mulwu _ _ _ _ s
  | div _ _ _ _ => exact next_div _ _ _ _ s
  | divu _ _ _ _ => exact next_divu _ _ _ _ s
  | rem _ _ _ _ => exact next_rem _ _ _ _ s
  | remu _ _ _ _ => exact next_remu _ _ _ _ s
  | min _ _ _ _ => exact next_min _ _ _ _ s
  | max _ _ _ _ => exact next_max _ _ _ _ s
  | minu _ _ _ _ => exact next_minu _ _ _ _ s
  | maxu _ _ _ _ => exact next_maxu _ _ _ _ s
  | adds _ _ _ _ => exact next_adds _ _ _ _ s
  | addus _ _ _ _ => exact next_addus _ _ _ _ s
  | subs _ _ _ _ => exact next_subs _ _ _ _ s
  | subus _ _ _ _ => exact next_subus _ _ _ _ s
  | neg _ _ _ => exact next_neg _ _ _ s
  | abs _ _ _ => exact next_abs _ _ _ s
  | and _ _ _ _ => exact next_and _ _ _ _ s
  | or _ _ _ _ => exact next_or _ _ _ _ s
  | xor _ _ _ _ => exact next_xor _ _ _ _ s
  | andn _ _ _ _ => exact next_andn _ _ _ _ s
  | andi _ _ _ _ => exact next_andi _ _ _ _ s
  | ori _ _ _ _ => exact next_ori _ _ _ _ s
  | xori _ _ _ _ => exact next_xori _ _ _ _ s
  | shl _ _ _ _ => exact next_shl _ _ _ _ s
  | shr _ _ _ _ => exact next_shr _ _ _ _ s
  | sar _ _ _ _ => exact next_sar _ _ _ _ s
  | shli _ _ _ _ => exact next_shli _ _ _ _ s
  | shri _ _ _ _ => exact next_shri _ _ _ _ s
  | sari _ _ _ _ => exact next_sari _ _ _ _ s
  | rol _ _ _ _ => exact next_rol _ _ _ _ s
  | roli _ _ _ _ => exact next_roli _ _ _ _ s
  | fshl _ _ _ _ => exact next_fshl _ _ _ _ s
  | fshr _ _ _ _ => exact next_fshr _ _ _ _ s
  | sel _ _ _ _ => exact next_sel _ _ _ _ s
  | seq _ _ _ _ => exact next_seq _ _ _ _ s
  | sne _ _ _ _ => exact next_sne _ _ _ _ s
  | slt _ _ _ _ => exact next_slt _ _ _ _ s
  | sltu _ _ _ _ => exact next_sltu _ _ _ _ s
  | sle _ _ _ _ => exact next_sle _ _ _ _ s
  | sleu _ _ _ _ => exact next_sleu _ _ _ _ s
  | seqi _ _ _ _ => exact next_seqi _ _ _ _ s
  | slti _ _ _ _ => exact next_slti _ _ _ _ s
  | mov _ _ _ => exact next_mov _ _ _ s
  | movi _ _ _ => exact next_movi _ _ _ s
  | exts _ _ _ _ => exact next_exts _ _ _ _ s
  | extz _ _ _ _ => exact next_extz _ _ _ _ s
  | clz _ _ _ => exact next_clz _ _ _ s
  | ctz _ _ _ => exact next_ctz _ _ _ s
  | popc _ _ _ => exact next_popc _ _ _ s
  | brev _ _ _ => exact next_brev _ _ _ s
  | bext _ _ _ _ => exact next_bext _ _ _ _ s
  | bexts _ _ _ _ => exact next_bexts _ _ _ _ s
  | bdep _ _ _ _ => exact next_bdep _ _ _ _ s
  | paddL4 _ _ _ _ => exact next_paddL4 _ _ _ _ s
  | paddL8 _ _ _ _ => exact next_paddL8 _ _ _ _ s
  | paddL16 _ _ _ _ => exact next_paddL16 _ _ _ _ s
  | paddL32 _ _ _ _ => exact next_paddL32 _ _ _ _ s
  | psubL4 _ _ _ _ => exact next_psubL4 _ _ _ _ s
  | psubL8 _ _ _ _ => exact next_psubL8 _ _ _ _ s
  | psubL16 _ _ _ _ => exact next_psubL16 _ _ _ _ s
  | psubL32 _ _ _ _ => exact next_psubL32 _ _ _ _ s
  | pmaxuL4 _ _ _ _ => exact next_pmaxuL4 _ _ _ _ s
  | pmaxuL8 _ _ _ _ => exact next_pmaxuL8 _ _ _ _ s
  | pmaxuL16 _ _ _ _ => exact next_pmaxuL16 _ _ _ _ s
  | pmaxuL32 _ _ _ _ => exact next_pmaxuL32 _ _ _ _ s
  | pminuL4 _ _ _ _ => exact next_pminuL4 _ _ _ _ s
  | pminuL8 _ _ _ _ => exact next_pminuL8 _ _ _ _ s
  | pminuL16 _ _ _ _ => exact next_pminuL16 _ _ _ _ s
  | pminuL32 _ _ _ _ => exact next_pminuL32 _ _ _ _ s
  | pmaxsL4 _ _ _ _ => exact next_pmaxsL4 _ _ _ _ s
  | pmaxsL8 _ _ _ _ => exact next_pmaxsL8 _ _ _ _ s
  | pmaxsL16 _ _ _ _ => exact next_pmaxsL16 _ _ _ _ s
  | pmaxsL32 _ _ _ _ => exact next_pmaxsL32 _ _ _ _ s
  | pminsL4 _ _ _ _ => exact next_pminsL4 _ _ _ _ s
  | pminsL8 _ _ _ _ => exact next_pminsL8 _ _ _ _ s
  | pminsL16 _ _ _ _ => exact next_pminsL16 _ _ _ _ s
  | pminsL32 _ _ _ _ => exact next_pminsL32 _ _ _ _ s
  | paddssL4 _ _ _ _ => exact next_paddssL4 _ _ _ _ s
  | paddssL8 _ _ _ _ => exact next_paddssL8 _ _ _ _ s
  | paddssL16 _ _ _ _ => exact next_paddssL16 _ _ _ _ s
  | paddssL32 _ _ _ _ => exact next_paddssL32 _ _ _ _ s
  | rmaxuL4 _ _ _ _ => exact next_rmaxuL4 _ _ _ _ s
  | rmaxuL8 _ _ _ _ => exact next_rmaxuL8 _ _ _ _ s
  | rmaxuL16 _ _ _ _ => exact next_rmaxuL16 _ _ _ _ s
  | rmaxuL32 _ _ _ _ => exact next_rmaxuL32 _ _ _ _ s
  | fadd _ _ _ _ => exact next_fadd _ _ _ _ s
  | fsub _ _ _ _ => exact next_fsub _ _ _ _ s
  | fmul _ _ _ _ => exact next_fmul _ _ _ _ s
  | fma _ _ _ _ => exact next_fma _ _ _ _ s
  | fmulz _ _ _ _ => exact next_fmulz _ _ _ _ s
  | fmin _ _ _ _ => exact next_fmin _ _ _ _ s
  | fmax _ _ _ _ => exact next_fmax _ _ _ _ s
  | frcp _ _ _ => exact next_frcp _ _ _ s
  | frsq _ _ _ => exact next_frsq _ _ _ s
  | fexp2 _ _ _ => exact next_fexp2 _ _ _ s
  | flog2 _ _ _ => exact next_flog2 _ _ _ s
  | fcmpeq _ _ _ _ => exact next_fcmpeq _ _ _ _ s
  | fcmplt _ _ _ _ => exact next_fcmplt _ _ _ _ s
  | fcmple _ _ _ _ => exact next_fcmple _ _ _ _ s
  | fclass _ _ _ => exact next_fclass _ _ _ s
  | raddf _ _ _ => exact next_raddf _ _ _ s
  | badd _ _ _ _ => exact next_badd _ _ _ _ s
  | bmul _ _ _ _ => exact next_bmul _ _ _ _ s
  | bfma _ _ _ _ => exact next_bfma _ _ _ _ s
  | bmax _ _ _ _ => exact next_bmax _ _ _ _ s
  | bmin _ _ _ _ => exact next_bmin _ _ _ _ s
  | cvt _ _ _ _ _ => exact next_cvt _ _ _ _ _ s
  | cvtsr _ _ _ _ _ => exact next_cvtsr _ _ _ _ _ s
  | scacc _ _ _ _ => exact next_scacc _ _ _ _ s
  | aadd _ _ _ => exact next_aadd _ _ _ s
  | asub _ _ _ => exact next_asub _ _ _ s
  | aaddi _ _ _ => exact next_aaddi _ _ _ s
  | amul _ _ _ => exact next_amul _ _ _ s
  | aand _ _ _ => exact next_aand _ _ _ s
  | aor _ _ _ => exact next_aor _ _ _ s
  | axor _ _ _ => exact next_axor _ _ _ s
  | ashli _ _ _ => exact next_ashli _ _ _ s
  | ashri _ _ _ => exact next_ashri _ _ _ s
  | asari _ _ _ => exact next_asari _ _ _ s
  | aslt _ _ _ => exact next_aslt _ _ _ s
  | asltu _ _ _ => exact next_asltu _ _ _ s
  | amovi _ _ => exact next_amovi _ _ s
  | aupi _ _ => exact next_aupi _ _ s
  | amov _ _ => exact next_amov _ _ s
  | apushq _ _ => exact next_apushq _ _ s
  | apopq _ => exact next_apopq _ s
  | cbase _ _ _ => exact next_cbase _ _ _ s
  | clen _ _ _ => exact next_clen _ _ _ s
  | cperm _ _ _ => exact next_cperm _ _ _ s
  | cget _ _ _ => exact next_cget _ _ _ s
  | cclr _ _ => exact next_cclr _ _ s
  | ld _ _ _ _ _ _ _ => exact next_ld _ _ _ _ _ _ _ s
  | ldx _ _ _ _ _ _ _ => exact next_ldx _ _ _ _ _ _ _ s
  | lda _ _ _ _ _ _ _ => exact next_lda _ _ _ _ _ _ _ s
  | ldc _ _ _ _ _ => exact next_ldc _ _ _ _ _ s
  | ldnib _ _ _ _ _ => exact next_ldnib _ _ _ _ _ s
  | st _ _ _ _ _ => exact next_st _ _ _ _ _ s
  | stm _ _ _ _ _ => exact next_stm _ _ _ _ _ s
  | stx _ _ _ _ _ => exact next_stx _ _ _ _ _ s
  | sta _ _ _ _ _ _ => exact next_sta _ _ _ _ _ _ s
  | stc _ _ _ _ _ => exact next_stc _ _ _ _ _ s
  | stnib _ _ _ => exact next_stnib _ _ _ s
  | amo _ _ _ _ _ _ _ => exact next_amo _ _ _ _ _ _ _ s
  | amocas _ _ _ _ _ _ => exact next_amocas _ _ _ _ _ _ s
  | fenceAcq _ => exact next_fenceAcq _ s
  | fenceRel _ => exact next_fenceRel _ s
  | fenceAr _ => exact next_fenceAr _ s
  | xfence _ => exact next_xfence _ s
  | bmov _ _ _ => exact next_bmov _ _ _ s
  | rep _ _ _ _ _ _ => exact next_rep _ _ _ _ _ _ s
  | csrr _ _ => exact next_csrr _ _ s
  | csrw _ _ _ => exact next_csrw _ _ _ s
  | beq _ _ _ => exact next_beq _ _ _ s
  | bne _ _ _ => exact next_bne _ _ _ s
  | blt _ _ _ => exact next_blt _ _ _ s
  | bge _ _ _ => exact next_bge _ _ _ s
  | bltu _ _ _ => exact next_bltu _ _ _ s
  | bgeu _ _ _ => exact next_bgeu _ _ _ s
  | bxq _ => exact next_bxq _ s
  | bxqz _ => exact next_bxqz _ s
  | j _ => exact next_j _ s
  | call _ => exact next_call _ s
  | ret => exact next_ret s
  | jr _ => exact next_jr _ s
  | loop _ _ => exact next_loop _ _ s
  | endAct => exact next_endAct s
  | ecall _ => exact next_ecall _ s
  | brk _ => exact next_brk _ s
  | send _ _ _ _ => exact next_send _ _ _ _ s
  | sende _ _ _ => exact next_sende _ _ _ s
  | reply _ => exact next_reply _ s
  | jarrive _ _ _ => exact next_jarrive _ _ _ s
  | gang _ => exact next_gang _ s
  | disband => exact next_disband s
  | stacq _ _ _ _ => exact next_stacq _ _ _ _ s
  | strel _ _ _ => exact next_strel _ _ _ s
  | dqpush _ _ => exact next_dqpush _ _ s
  | dqpop _ => exact next_dqpop _ s
  | dqsplit => exact next_dqsplit s
  | dqsteal _ _ => exact next_dqsteal _ _ s
  | tlwait _ _ => exact next_tlwait _ _ s
  | tlread _ _ _ => exact next_tlread _ _ _ s
  | evsig _ _ => exact next_evsig _ _ s
  | eret => exact next_eret s
  | eretEnd => exact next_eretEnd s
  | wfi => exact next_wfi s
  | nop => exact next_nop s
  | himm _ => exact next_himm _ s
  | hwid _ _ _ _ => exact next_hwid _ _ _ _ s
  | hmod _ _ => exact next_hmod _ _ s
  | hyld => exact next_hyld s
  | macq _ _ => exact next_macq _ _ s
  | mrel _ _ => exact next_mrel _ _ s
  | mrelRes _ _ => exact next_mrelRes _ _ s
  | mrelAbn _ _ => exact next_mrelAbn _ _ s
  | mldb _ _ _ _ _ => exact next_mldb _ _ _ _ _ s
  | mspec _ _ _ _ _ => exact next_mspec _ _ _ _ _ s
  | mzero _ _ _ _ => exact next_mzero _ _ _ _ s
  | mma _ _ _ _ _ => exact next_mma _ _ _ _ _ s
  | lnscfg _ => exact next_lnscfg _ s
  | mmas _ _ _ _ _ => exact next_mmas _ _ _ _ _ s
  | mrd _ _ _ => exact next_mrd _ _ _ s
  | mrdFlg _ _ _ => exact next_mrdFlg _ _ _ s
  | mcopy _ _ _ _ _ => exact next_mcopy _ _ _ _ _ s
  | chbond _ _ _ => exact next_chbond _ _ _ s
  | chprog _ _ _ => exact next_chprog _ _ _ s
  | chprogKeep _ _ _ => exact next_chprogKeep _ _ _ s
  | chrunStart _ _ _ => exact next_chrunStart _ _ _ s
  | chrunResume _ _ => exact next_chrunResume _ _ s
  | chrunAbn _ _ => exact next_chrunAbn _ _ s
  | chstat _ _ _ => exact next_chstat _ _ _ s
  | chgrad _ _ _ => exact next_chgrad _ _ _ s
  | grset _ _ _ => exact next_grset _ _ _ s
  | grred _ _ _ _ _ _ => exact next_grred _ _ _ _ _ _ s
  | grscan _ _ _ _ _ _ => exact next_grscan _ _ _ _ _ _ s
  | grscanX _ _ _ _ _ _ => exact next_grscanX _ _ _ _ _ _ s
  | grmv _ _ _ _ _ => exact next_grmv _ _ _ _ _ s
  | grat _ _ _ _ _ _ => exact next_grat _ _ _ _ _ _ s
  | grstat _ _ _ => exact next_grstat _ _ _ s
  | grstatRes _ _ => exact next_grstatRes _ _ s
  | grstatAbn _ _ => exact next_grstatAbn _ _ s
  | cpy _ _ _ _ _ => exact next_cpy _ _ _ _ _ s
  | cpywp _ _ _ => exact next_cpywp _ _ _ s
  | cpychkCheck _ _ _ _ => exact next_cpychkCheck _ _ _ _ s
  | cpychkRes _ _ => exact next_cpychkRes _ _ s
  | cpychkAbn _ _ => exact next_cpychkAbn _ _ s
  | illegalInstruction _ => exact next_illegalInstruction _ s
  | fetch _ _ => exact next_fetch _ _ s
  | xResultLand _ _ _ => exact next_xResultLand _ _ _ s
  | queueStarved _ _ _ => exact next_queueStarved _ _ _ s
  | loadDataReturn _ => exact next_loadDataReturn _ s
  | storeAck _ => exact next_storeAck _ s
  | homePerform _ => exact next_homePerform _ s
  | caeCheckIn _ => exact next_caeCheckIn _ s
  | stageGrant _ => exact next_stageGrant _ s
  | sidingStealServe _ => exact next_sidingStealServe _ s
  | lateAccessFault _ => exact next_lateAccessFault _ s
  | translationWalkDone _ _ => exact next_translationWalkDone _ _ s
  | wcBufferTimeout _ _ => exact next_wcBufferTimeout _ _ s
  | messageArrival _ => exact next_messageArrival _ s
  | outboundDepart _ => exact next_outboundDepart _ s
  | admission _ => exact next_admission _ s
  | copyOut _ _ => exact next_copyOut _ _ s
  | activationRestore _ => exact next_activationRestore _ s
  | activationPark _ _ => exact next_activationPark _ _ s
  | trapActivationStart _ => exact next_trapActivationStart _ s
  | engineCommandArrival _ => exact next_engineCommandArrival _ s
  | copyOpBegin _ _ => exact next_copyOpBegin _ _ s
  | copyRowDelivered _ _ => exact next_copyRowDelivered _ _ s
  | copyOpPerformed _ _ => exact next_copyOpPerformed _ _ s
  | matrixOpBegin _ _ => exact next_matrixOpBegin _ _ s
  | mmaIteration _ _ => exact next_mmaIteration _ _ s
  | matrixOpPerformed _ _ => exact next_matrixOpPerformed _ _ s
  | macroReload _ _ => exact next_macroReload _ _ s
  | chainRunBegin _ _ => exact next_chainRunBegin _ _ s
  | chainStep _ _ => exact next_chainStep _ _ s
  | grammarOpBegin _ _ => exact next_grammarOpBegin _ _ s
  | grammarOpPerformed _ _ => exact next_grammarOpPerformed _ _ s
  | engineFaultPark _ _ => exact next_engineFaultPark _ _ s
  | enginePreemptStop _ _ => exact next_enginePreemptStop _ _ s
  | signalBoxFire _ => exact next_signalBoxFire _ s
  | timerPulse _ _ => exact next_timerPulse _ _ s
  | encoderFrameDone _ _ => exact next_encoderFrameDone _ _ s
  | encbindBind _ _ => exact next_encbindBind _ _ s
  | encbindUnbind _ _ => exact next_encbindUnbind _ _ s
  | create _ _ => exact next_create _ _ s
  | partitionClearDone _ => exact next_partitionClearDone _ s
  | destroy _ _ => exact next_destroy _ _ s
  | bindvf _ _ => exact next_bindvf _ _ s
  | unbindvf _ _ => exact next_unbindvf _ _ s
  | partitionBadCommand _ => exact next_partitionBadCommand _ s
  | door _ _ => exact next_door _ _ s
  | slotWrite _ _ _ => exact next_slotWrite _ _ _ s
  | launch _ _ => exact next_launch _ _ s
  | launchFirstMessages _ _ => exact next_launchFirstMessages _ _ s
  | register _ _ => exact next_register _ _ s
  | regionEnd _ _ => exact next_regionEnd _ _ s
  | prepare _ _ => exact next_prepare _ _ s
  | prepareReceive _ _ => exact next_prepareReceive _ _ s
  | prepareAckReceive _ => exact next_prepareAckReceive _ s
  | prepareTimeout => exact next_prepareTimeout s
  | commit => exact next_commit s
  | abort => exact next_abort s
  | quantumBoundary _ => exact next_quantumBoundary _ s
  | contractRelease _ _ => exact next_contractRelease _ _ s
  | deadlineExpiry _ _ => exact next_deadlineExpiry _ _ s
  | budgetExhausted _ _ => exact next_budgetExhausted _ _ s
  | jobComplete _ _ => exact next_jobComplete _ _ s
  | energyCharge => exact next_energyCharge s
  | energyWindowBoundary _ _ => exact next_energyWindowBoundary _ _ s
  | lazyUnitRestore _ => exact next_lazyUnitRestore _ s
  | clusterPowerGate _ => exact next_clusterPowerGate _ s
  | clusterWake _ => exact next_clusterWake _ s
  | deviceReset => exact next_deviceReset s
  | selfTestPass _ => exact next_selfTestPass _ s
  | unitFailure _ _ => exact next_unitFailure _ _ s
  | uncorrectableMemory _ _ _ _ => exact next_uncorrectableMemory _ _ _ _ s
  | linkDown _ => exact next_linkDown _ s
  | cxlMemRead _ _ _ => exact next_cxlMemRead _ _ _ s
  | cxlMemWrite _ _ _ _ => exact next_cxlMemWrite _ _ _ _ s
  | getVersion _ => exact next_getVersion _ s
  | getCapabilities _ => exact next_getCapabilities _ s
  | negotiateAlgorithms _ _ => exact next_negotiateAlgorithms _ _ s
  | getDigests _ => exact next_getDigests _ s
  | getCertificate _ _ => exact next_getCertificate _ _ s
  | challenge _ _ => exact next_challenge _ _ s
  | getMeasurements _ _ => exact next_getMeasurements _ _ s
  | keyExchange _ _ => exact next_keyExchange _ _ s
  | finish _ => exact next_finish _ s
  | debugTokenSubmit _ => exact next_debugTokenSubmit _ s
  | debugScopeRevoke _ => exact next_debugScopeRevoke _ s
  | debugScopeExpiry _ => exact next_debugScopeExpiry _ s
  | dbgdataWrite _ _ => exact next_dbgdataWrite _ _ s
  | dbgdataRead _ => exact next_dbgdataRead _ s
  | halt _ => exact next_halt _ s
  | debugResume _ => exact next_debugResume _ s
  | step _ _ => exact next_step _ _ s
  | stepdone _ => exact next_stepdone _ s
  | xbWrite _ _ => exact next_xbWrite _ _ s
  | seedWrite _ _ => exact next_seedWrite _ _ s
  | lotstateWrite _ _ => exact next_lotstateWrite _ _ s
  | issuepolWrite _ _ => exact next_issuepolWrite _ _ s
  | sbdataWrite _ _ => exact next_sbdataWrite _ _ s
  | overrunClear _ _ => exact next_overrunClear _ _ s
  | trdstWrite _ _ => exact next_trdstWrite _ _ s
  | clear _ => exact next_clear _ s
  | xflagsWrite _ _ => exact next_xflagsWrite _ _ s
  | traceDrain _ => exact next_traceDrain _ s
  | registerWrite _ _ _ => exact next_registerWrite _ _ _ s
  | prepareRefusalReceive _ _ => exact next_prepareRefusalReceive _ _ s

/-! ### The frame within the part (02 R37; 06 R123) -/

/-- Settles O58: the law of each instruction; an event has no word. -/
theorem dispatchStaysHome : Obligations.DispatchStaysHome := by
  unfold Obligations.DispatchStaysHome
  intro i s t a henc hgang hxfence heret hc hg hx
  cases i with
  | add _ _ _ _ => exact home_add hc hg hx
  | sub _ _ _ _ => exact home_sub hc hg hx
  | addi _ _ _ _ => exact home_addi hc hg hx
  | mul _ _ _ _ => exact home_mul hc hg hx
  | mulh _ _ _ _ => exact home_mulh hc hg hx
  | mulhu _ _ _ _ => exact home_mulhu hc hg hx
  | mulw _ _ _ _ => exact home_mulw hc hg hx
  | mulwu _ _ _ _ => exact home_mulwu hc hg hx
  | div _ _ _ _ => exact home_div hc hg hx
  | divu _ _ _ _ => exact home_divu hc hg hx
  | rem _ _ _ _ => exact home_rem hc hg hx
  | remu _ _ _ _ => exact home_remu hc hg hx
  | min _ _ _ _ => exact home_min hc hg hx
  | max _ _ _ _ => exact home_max hc hg hx
  | minu _ _ _ _ => exact home_minu hc hg hx
  | maxu _ _ _ _ => exact home_maxu hc hg hx
  | adds _ _ _ _ => exact home_adds hc hg hx
  | addus _ _ _ _ => exact home_addus hc hg hx
  | subs _ _ _ _ => exact home_subs hc hg hx
  | subus _ _ _ _ => exact home_subus hc hg hx
  | neg _ _ _ => exact home_neg hc hg hx
  | abs _ _ _ => exact home_abs hc hg hx
  | and _ _ _ _ => exact home_and hc hg hx
  | or _ _ _ _ => exact home_or hc hg hx
  | xor _ _ _ _ => exact home_xor hc hg hx
  | andn _ _ _ _ => exact home_andn hc hg hx
  | andi _ _ _ _ => exact home_andi hc hg hx
  | ori _ _ _ _ => exact home_ori hc hg hx
  | xori _ _ _ _ => exact home_xori hc hg hx
  | shl _ _ _ _ => exact home_shl hc hg hx
  | shr _ _ _ _ => exact home_shr hc hg hx
  | sar _ _ _ _ => exact home_sar hc hg hx
  | shli _ _ _ _ => exact home_shli hc hg hx
  | shri _ _ _ _ => exact home_shri hc hg hx
  | sari _ _ _ _ => exact home_sari hc hg hx
  | rol _ _ _ _ => exact home_rol hc hg hx
  | roli _ _ _ _ => exact home_roli hc hg hx
  | fshl _ _ _ _ => exact home_fshl hc hg hx
  | fshr _ _ _ _ => exact home_fshr hc hg hx
  | sel _ _ _ _ => exact home_sel hc hg hx
  | seq _ _ _ _ => exact home_seq hc hg hx
  | sne _ _ _ _ => exact home_sne hc hg hx
  | slt _ _ _ _ => exact home_slt hc hg hx
  | sltu _ _ _ _ => exact home_sltu hc hg hx
  | sle _ _ _ _ => exact home_sle hc hg hx
  | sleu _ _ _ _ => exact home_sleu hc hg hx
  | seqi _ _ _ _ => exact home_seqi hc hg hx
  | slti _ _ _ _ => exact home_slti hc hg hx
  | mov _ _ _ => exact home_mov hc hg hx
  | movi _ _ _ => exact home_movi hc hg hx
  | exts _ _ _ _ => exact home_exts hc hg hx
  | extz _ _ _ _ => exact home_extz hc hg hx
  | clz _ _ _ => exact home_clz hc hg hx
  | ctz _ _ _ => exact home_ctz hc hg hx
  | popc _ _ _ => exact home_popc hc hg hx
  | brev _ _ _ => exact home_brev hc hg hx
  | bext _ _ _ _ => exact home_bext hc hg hx
  | bexts _ _ _ _ => exact home_bexts hc hg hx
  | bdep _ _ _ _ => exact home_bdep hc hg hx
  | paddL4 _ _ _ _ => exact home_paddL4 hc hg hx
  | paddL8 _ _ _ _ => exact home_paddL8 hc hg hx
  | paddL16 _ _ _ _ => exact home_paddL16 hc hg hx
  | paddL32 _ _ _ _ => exact home_paddL32 hc hg hx
  | psubL4 _ _ _ _ => exact home_psubL4 hc hg hx
  | psubL8 _ _ _ _ => exact home_psubL8 hc hg hx
  | psubL16 _ _ _ _ => exact home_psubL16 hc hg hx
  | psubL32 _ _ _ _ => exact home_psubL32 hc hg hx
  | pmaxuL4 _ _ _ _ => exact home_pmaxuL4 hc hg hx
  | pmaxuL8 _ _ _ _ => exact home_pmaxuL8 hc hg hx
  | pmaxuL16 _ _ _ _ => exact home_pmaxuL16 hc hg hx
  | pmaxuL32 _ _ _ _ => exact home_pmaxuL32 hc hg hx
  | pminuL4 _ _ _ _ => exact home_pminuL4 hc hg hx
  | pminuL8 _ _ _ _ => exact home_pminuL8 hc hg hx
  | pminuL16 _ _ _ _ => exact home_pminuL16 hc hg hx
  | pminuL32 _ _ _ _ => exact home_pminuL32 hc hg hx
  | pmaxsL4 _ _ _ _ => exact home_pmaxsL4 hc hg hx
  | pmaxsL8 _ _ _ _ => exact home_pmaxsL8 hc hg hx
  | pmaxsL16 _ _ _ _ => exact home_pmaxsL16 hc hg hx
  | pmaxsL32 _ _ _ _ => exact home_pmaxsL32 hc hg hx
  | pminsL4 _ _ _ _ => exact home_pminsL4 hc hg hx
  | pminsL8 _ _ _ _ => exact home_pminsL8 hc hg hx
  | pminsL16 _ _ _ _ => exact home_pminsL16 hc hg hx
  | pminsL32 _ _ _ _ => exact home_pminsL32 hc hg hx
  | paddssL4 _ _ _ _ => exact home_paddssL4 hc hg hx
  | paddssL8 _ _ _ _ => exact home_paddssL8 hc hg hx
  | paddssL16 _ _ _ _ => exact home_paddssL16 hc hg hx
  | paddssL32 _ _ _ _ => exact home_paddssL32 hc hg hx
  | rmaxuL4 _ _ _ _ => exact home_rmaxuL4 hc hg hx
  | rmaxuL8 _ _ _ _ => exact home_rmaxuL8 hc hg hx
  | rmaxuL16 _ _ _ _ => exact home_rmaxuL16 hc hg hx
  | rmaxuL32 _ _ _ _ => exact home_rmaxuL32 hc hg hx
  | fadd _ _ _ _ => exact home_fadd hc hg hx
  | fsub _ _ _ _ => exact home_fsub hc hg hx
  | fmul _ _ _ _ => exact home_fmul hc hg hx
  | fma _ _ _ _ => exact home_fma hc hg hx
  | fmulz _ _ _ _ => exact home_fmulz hc hg hx
  | fmin _ _ _ _ => exact home_fmin hc hg hx
  | fmax _ _ _ _ => exact home_fmax hc hg hx
  | frcp _ _ _ => exact home_frcp hc hg hx
  | frsq _ _ _ => exact home_frsq hc hg hx
  | fexp2 _ _ _ => exact home_fexp2 hc hg hx
  | flog2 _ _ _ => exact home_flog2 hc hg hx
  | fcmpeq _ _ _ _ => exact home_fcmpeq hc hg hx
  | fcmplt _ _ _ _ => exact home_fcmplt hc hg hx
  | fcmple _ _ _ _ => exact home_fcmple hc hg hx
  | fclass _ _ _ => exact home_fclass hc hg hx
  | raddf _ _ _ => exact home_raddf hc hg hx
  | badd _ _ _ _ => exact home_badd hc hg hx
  | bmul _ _ _ _ => exact home_bmul hc hg hx
  | bfma _ _ _ _ => exact home_bfma hc hg hx
  | bmax _ _ _ _ => exact home_bmax hc hg hx
  | bmin _ _ _ _ => exact home_bmin hc hg hx
  | cvt _ _ _ _ _ => exact home_cvt hc hg hx
  | cvtsr _ _ _ _ _ => exact home_cvtsr hc hg hx
  | scacc _ _ _ _ => exact home_scacc hc hg hx
  | aadd _ _ _ => exact home_aadd hc hg hx
  | asub _ _ _ => exact home_asub hc hg hx
  | aaddi _ _ _ => exact home_aaddi hc hg hx
  | amul _ _ _ => exact home_amul hc hg hx
  | aand _ _ _ => exact home_aand hc hg hx
  | aor _ _ _ => exact home_aor hc hg hx
  | axor _ _ _ => exact home_axor hc hg hx
  | ashli _ _ _ => exact home_ashli hc hg hx
  | ashri _ _ _ => exact home_ashri hc hg hx
  | asari _ _ _ => exact home_asari hc hg hx
  | aslt _ _ _ => exact home_aslt hc hg hx
  | asltu _ _ _ => exact home_asltu hc hg hx
  | amovi _ _ => exact home_amovi hc hg hx
  | aupi _ _ => exact home_aupi hc hg hx
  | amov _ _ => exact home_amov hc hg hx
  | apushq _ _ => exact home_apushq hc hg hx
  | apopq _ => exact home_apopq hc hg hx
  | cbase _ _ _ => exact home_cbase hc hg hx
  | clen _ _ _ => exact home_clen hc hg hx
  | cperm _ _ _ => exact home_cperm hc hg hx
  | cget _ _ _ => exact home_cget hc hg hx
  | cclr _ _ => exact home_cclr hc hg hx
  | ld _ _ _ _ _ _ _ => exact home_ld hc hg hx
  | ldx _ _ _ _ _ _ _ => exact home_ldx hc hg hx
  | lda _ _ _ _ _ _ _ => exact home_lda hc hg hx
  | ldc _ _ _ _ _ => exact home_ldc hc hg hx
  | ldnib _ _ _ _ _ => exact home_ldnib hc hg hx
  | st _ _ _ _ _ => exact home_st hc hg hx
  | stm _ _ _ _ _ => exact home_stm hc hg hx
  | stx _ _ _ _ _ => exact home_stx hc hg hx
  | sta _ _ _ _ _ _ => exact home_sta hc hg hx
  | stc _ _ _ _ _ => exact home_stc hc hg hx
  | stnib _ _ _ => exact home_stnib hc hg hx
  | amo _ _ _ _ _ _ _ => exact home_amo hc hg hx
  | amocas _ _ _ _ _ _ => exact home_amocas hc hg hx
  | fenceAcq _ => exact home_fenceAcq hc hg hx
  | fenceRel _ => exact home_fenceRel hc hg hx
  | fenceAr _ => exact home_fenceAr hc hg hx
  | bmov _ _ _ => exact home_bmov hc hg hx
  | rep _ _ _ _ _ _ => exact home_rep hc hg hx
  | csrr _ _ => exact home_csrr hc hg hx
  | csrw _ _ _ => exact home_csrw hc hg hx
  | beq _ _ _ => exact home_beq hc hg hx
  | bne _ _ _ => exact home_bne hc hg hx
  | blt _ _ _ => exact home_blt hc hg hx
  | bge _ _ _ => exact home_bge hc hg hx
  | bltu _ _ _ => exact home_bltu hc hg hx
  | bgeu _ _ _ => exact home_bgeu hc hg hx
  | bxq _ => exact home_bxq hc hg hx
  | bxqz _ => exact home_bxqz hc hg hx
  | j _ => exact home_j hc hg hx
  | call _ => exact home_call hc hg hx
  | ret => exact home_ret hc hg hx
  | jr _ => exact home_jr hc hg hx
  | loop _ _ => exact home_loop hc hg hx
  | endAct => exact home_endAct hc hg hx
  | ecall _ => exact home_ecall hc hg hx
  | brk _ => exact home_brk hc hg hx
  | send _ _ _ _ => exact home_send hc hg hx
  | sende _ _ _ => exact home_sende hc hg hx
  | reply _ => exact home_reply hc hg hx
  | jarrive _ _ _ => exact home_jarrive hc hg hx
  | disband => exact home_disband hc hg hx
  | stacq _ _ _ _ => exact home_stacq hc hg hx
  | strel _ _ _ => exact home_strel hc hg hx
  | dqpush _ _ => exact home_dqpush hc hg hx
  | dqpop _ => exact home_dqpop hc hg hx
  | dqsplit => exact home_dqsplit hc hg hx
  | dqsteal _ _ => exact home_dqsteal hc hg hx
  | tlwait _ _ => exact home_tlwait hc hg hx
  | tlread _ _ _ => exact home_tlread hc hg hx
  | evsig _ _ => exact home_evsig hc hg hx
  | eretEnd => exact home_eretEnd hc hg hx
  | wfi => exact home_wfi hc hg hx
  | nop => exact home_nop hc hg hx
  | himm _ => exact home_himm hc hg hx
  | hwid _ _ _ _ => exact home_hwid hc hg hx
  | hmod _ _ => exact home_hmod hc hg hx
  | hyld => exact home_hyld hc hg hx
  | macq _ _ => exact home_macq hc hg hx
  | mrel _ _ => exact home_mrel hc hg hx
  | mrelRes _ _ => exact home_mrelRes hc hg hx
  | mrelAbn _ _ => exact home_mrelAbn hc hg hx
  | mldb _ _ _ _ _ => exact home_mldb hc hg hx
  | mspec _ _ _ _ _ => exact home_mspec hc hg hx
  | mzero _ _ _ _ => exact home_mzero hc hg hx
  | mma _ _ _ _ _ => exact home_mma hc hg hx
  | lnscfg _ => exact home_lnscfg hc hg hx
  | mmas _ _ _ _ _ => exact home_mmas hc hg hx
  | mrd _ _ _ => exact home_mrd hc hg hx
  | mrdFlg _ _ _ => exact home_mrdFlg hc hg hx
  | mcopy _ _ _ _ _ => exact home_mcopy hc hg hx
  | chbond _ _ _ => exact home_chbond hc hg hx
  | chprog _ _ _ => exact home_chprog hc hg hx
  | chprogKeep _ _ _ => exact home_chprogKeep hc hg hx
  | chrunStart _ _ _ => exact home_chrunStart hc hg hx
  | chrunResume _ _ => exact home_chrunResume hc hg hx
  | chrunAbn _ _ => exact home_chrunAbn hc hg hx
  | chstat _ _ _ => exact home_chstat hc hg hx
  | chgrad _ _ _ => exact home_chgrad hc hg hx
  | grset _ _ _ => exact home_grset hc hg hx
  | grred _ _ _ _ _ _ => exact home_grred hc hg hx
  | grscan _ _ _ _ _ _ => exact home_grscan hc hg hx
  | grscanX _ _ _ _ _ _ => exact home_grscanX hc hg hx
  | grmv _ _ _ _ _ => exact home_grmv hc hg hx
  | grat _ _ _ _ _ _ => exact home_grat hc hg hx
  | grstat _ _ _ => exact home_grstat hc hg hx
  | grstatRes _ _ => exact home_grstatRes hc hg hx
  | grstatAbn _ _ => exact home_grstatAbn hc hg hx
  | cpy _ _ _ _ _ => exact home_cpy hc hg hx
  | cpywp _ _ _ => exact home_cpywp hc hg hx
  | cpychkCheck _ _ _ _ => exact home_cpychkCheck hc hg hx
  | cpychkRes _ _ => exact home_cpychkRes hc hg hx
  | cpychkAbn _ _ => exact home_cpychkAbn hc hg hx
  | gang n => exact absurd rfl (hgang n)
  | xfence p => exact absurd rfl (hxfence p)
  | eret => exact absurd rfl heret
  | _ => exact absurd henc Bool.false_ne_true

/-! ### The frame towards the rest of the part (12 R208) -/

/-- The instructions whose frame towards the rest of the part is stated apart: they use the spill area, write CSRs, send a
fault message that is owed, or end activations. -/
def frameApart : Instr → Bool
  | .call _ | .ret | .csrw _ _ _ | .cvtsr _ _ _ _ _
  | .chprogKeep _ _ _ | .chrunResume _ _ | .chrunAbn _ _
  | .endAct | .disband | .eretEnd | .eret => true
  | _ => false

/-- Whatever else a word encodes keeps the rest of the part. -/
theorem exec_kept {i : Instr} {s t : State} (henc : (encode i).isSome = true) (hframe : frameApart i = false)
    (hx : exec i s = .next t) : Kept s t := by
  cases i with
  | add _ _ _ _ => exact keeps_add hx
  | sub _ _ _ _ => exact keeps_sub hx
  | addi _ _ _ _ => exact keeps_addi hx
  | mul _ _ _ _ => exact keeps_mul hx
  | mulh _ _ _ _ => exact keeps_mulh hx
  | mulhu _ _ _ _ => exact keeps_mulhu hx
  | mulw _ _ _ _ => exact keeps_mulw hx
  | mulwu _ _ _ _ => exact keeps_mulwu hx
  | div _ _ _ _ => exact keeps_div hx
  | divu _ _ _ _ => exact keeps_divu hx
  | rem _ _ _ _ => exact keeps_rem hx
  | remu _ _ _ _ => exact keeps_remu hx
  | min _ _ _ _ => exact keeps_min hx
  | max _ _ _ _ => exact keeps_max hx
  | minu _ _ _ _ => exact keeps_minu hx
  | maxu _ _ _ _ => exact keeps_maxu hx
  | adds _ _ _ _ => exact keeps_adds hx
  | addus _ _ _ _ => exact keeps_addus hx
  | subs _ _ _ _ => exact keeps_subs hx
  | subus _ _ _ _ => exact keeps_subus hx
  | neg _ _ _ => exact keeps_neg hx
  | abs _ _ _ => exact keeps_abs hx
  | and _ _ _ _ => exact keeps_and hx
  | or _ _ _ _ => exact keeps_or hx
  | xor _ _ _ _ => exact keeps_xor hx
  | andn _ _ _ _ => exact keeps_andn hx
  | andi _ _ _ _ => exact keeps_andi hx
  | ori _ _ _ _ => exact keeps_ori hx
  | xori _ _ _ _ => exact keeps_xori hx
  | shl _ _ _ _ => exact keeps_shl hx
  | shr _ _ _ _ => exact keeps_shr hx
  | sar _ _ _ _ => exact keeps_sar hx
  | shli _ _ _ _ => exact keeps_shli hx
  | shri _ _ _ _ => exact keeps_shri hx
  | sari _ _ _ _ => exact keeps_sari hx
  | rol _ _ _ _ => exact keeps_rol hx
  | roli _ _ _ _ => exact keeps_roli hx
  | fshl _ _ _ _ => exact keeps_fshl hx
  | fshr _ _ _ _ => exact keeps_fshr hx
  | sel _ _ _ _ => exact keeps_sel hx
  | seq _ _ _ _ => exact keeps_seq hx
  | sne _ _ _ _ => exact keeps_sne hx
  | slt _ _ _ _ => exact keeps_slt hx
  | sltu _ _ _ _ => exact keeps_sltu hx
  | sle _ _ _ _ => exact keeps_sle hx
  | sleu _ _ _ _ => exact keeps_sleu hx
  | seqi _ _ _ _ => exact keeps_seqi hx
  | slti _ _ _ _ => exact keeps_slti hx
  | mov _ _ _ => exact keeps_mov hx
  | movi _ _ _ => exact keeps_movi hx
  | exts _ _ _ _ => exact keeps_exts hx
  | extz _ _ _ _ => exact keeps_extz hx
  | clz _ _ _ => exact keeps_clz hx
  | ctz _ _ _ => exact keeps_ctz hx
  | popc _ _ _ => exact keeps_popc hx
  | brev _ _ _ => exact keeps_brev hx
  | bext _ _ _ _ => exact keeps_bext hx
  | bexts _ _ _ _ => exact keeps_bexts hx
  | bdep _ _ _ _ => exact keeps_bdep hx
  | paddL4 _ _ _ _ => exact keeps_paddL4 hx
  | paddL8 _ _ _ _ => exact keeps_paddL8 hx
  | paddL16 _ _ _ _ => exact keeps_paddL16 hx
  | paddL32 _ _ _ _ => exact keeps_paddL32 hx
  | psubL4 _ _ _ _ => exact keeps_psubL4 hx
  | psubL8 _ _ _ _ => exact keeps_psubL8 hx
  | psubL16 _ _ _ _ => exact keeps_psubL16 hx
  | psubL32 _ _ _ _ => exact keeps_psubL32 hx
  | pmaxuL4 _ _ _ _ => exact keeps_pmaxuL4 hx
  | pmaxuL8 _ _ _ _ => exact keeps_pmaxuL8 hx
  | pmaxuL16 _ _ _ _ => exact keeps_pmaxuL16 hx
  | pmaxuL32 _ _ _ _ => exact keeps_pmaxuL32 hx
  | pminuL4 _ _ _ _ => exact keeps_pminuL4 hx
  | pminuL8 _ _ _ _ => exact keeps_pminuL8 hx
  | pminuL16 _ _ _ _ => exact keeps_pminuL16 hx
  | pminuL32 _ _ _ _ => exact keeps_pminuL32 hx
  | pmaxsL4 _ _ _ _ => exact keeps_pmaxsL4 hx
  | pmaxsL8 _ _ _ _ => exact keeps_pmaxsL8 hx
  | pmaxsL16 _ _ _ _ => exact keeps_pmaxsL16 hx
  | pmaxsL32 _ _ _ _ => exact keeps_pmaxsL32 hx
  | pminsL4 _ _ _ _ => exact keeps_pminsL4 hx
  | pminsL8 _ _ _ _ => exact keeps_pminsL8 hx
  | pminsL16 _ _ _ _ => exact keeps_pminsL16 hx
  | pminsL32 _ _ _ _ => exact keeps_pminsL32 hx
  | paddssL4 _ _ _ _ => exact keeps_paddssL4 hx
  | paddssL8 _ _ _ _ => exact keeps_paddssL8 hx
  | paddssL16 _ _ _ _ => exact keeps_paddssL16 hx
  | paddssL32 _ _ _ _ => exact keeps_paddssL32 hx
  | rmaxuL4 _ _ _ _ => exact keeps_rmaxuL4 hx
  | rmaxuL8 _ _ _ _ => exact keeps_rmaxuL8 hx
  | rmaxuL16 _ _ _ _ => exact keeps_rmaxuL16 hx
  | rmaxuL32 _ _ _ _ => exact keeps_rmaxuL32 hx
  | fadd _ _ _ _ => exact keeps_fadd hx
  | fsub _ _ _ _ => exact keeps_fsub hx
  | fmul _ _ _ _ => exact keeps_fmul hx
  | fma _ _ _ _ => exact keeps_fma hx
  | fmulz _ _ _ _ => exact keeps_fmulz hx
  | fmin _ _ _ _ => exact keeps_fmin hx
  | fmax _ _ _ _ => exact keeps_fmax hx
  | frcp _ _ _ => exact keeps_frcp hx
  | frsq _ _ _ => exact keeps_frsq hx
  | fexp2 _ _ _ => exact keeps_fexp2 hx
  | flog2 _ _ _ => exact keeps_flog2 hx
  | fcmpeq _ _ _ _ => exact keeps_fcmpeq hx
  | fcmplt _ _ _ _ => exact keeps_fcmplt hx
  | fcmple _ _ _ _ => exact keeps_fcmple hx
  | fclass _ _ _ => exact keeps_fclass hx
  | raddf _ _ _ => exact keeps_raddf hx
  | badd _ _ _ _ => exact keeps_badd hx
  | bmul _ _ _ _ => exact keeps_bmul hx
  | bfma _ _ _ _ => exact keeps_bfma hx
  | bmax _ _ _ _ => exact keeps_bmax hx
  | bmin _ _ _ _ => exact keeps_bmin hx
  | cvt _ _ _ _ _ => exact keeps_cvt hx
  | scacc _ _ _ _ => exact keeps_scacc hx
  | aadd _ _ _ => exact keeps_aadd hx
  | asub _ _ _ => exact keeps_asub hx
  | aaddi _ _ _ => exact keeps_aaddi hx
  | amul _ _ _ => exact keeps_amul hx
  | aand _ _ _ => exact keeps_aand hx
  | aor _ _ _ => exact keeps_aor hx
  | axor _ _ _ => exact keeps_axor hx
  | ashli _ _ _ => exact keeps_ashli hx
  | ashri _ _ _ => exact keeps_ashri hx
  | asari _ _ _ => exact keeps_asari hx
  | aslt _ _ _ => exact keeps_aslt hx
  | asltu _ _ _ => exact keeps_asltu hx
  | amovi _ _ => exact keeps_amovi hx
  | aupi _ _ => exact keeps_aupi hx
  | amov _ _ => exact keeps_amov hx
  | apushq _ _ => exact keeps_apushq hx
  | apopq _ => exact keeps_apopq hx
  | cbase _ _ _ => exact keeps_cbase hx
  | clen _ _ _ => exact keeps_clen hx
  | cperm _ _ _ => exact keeps_cperm hx
  | cget _ _ _ => exact keeps_cget hx
  | cclr _ _ => exact keeps_cclr hx
  | ld _ _ _ _ _ _ _ => exact keeps_ld hx
  | ldx _ _ _ _ _ _ _ => exact keeps_ldx hx
  | lda _ _ _ _ _ _ _ => exact keeps_lda hx
  | ldc _ _ _ _ _ => exact keeps_ldc hx
  | ldnib _ _ _ _ _ => exact keeps_ldnib hx
  | st _ _ _ _ _ => exact keeps_st hx
  | stm _ _ _ _ _ => exact keeps_stm hx
  | stx _ _ _ _ _ => exact keeps_stx hx
  | sta _ _ _ _ _ _ => exact keeps_sta hx
  | stc _ _ _ _ _ => exact keeps_stc hx
  | stnib _ _ _ => exact keeps_stnib hx
  | amo _ _ _ _ _ _ _ => exact keeps_amo hx
  | amocas _ _ _ _ _ _ => exact keeps_amocas hx
  | fenceAcq _ => exact keeps_fenceAcq hx
  | fenceRel _ => exact keeps_fenceRel hx
  | fenceAr _ => exact keeps_fenceAr hx
  | xfence _ => exact keeps_xfence hx
  | bmov _ _ _ => exact keeps_bmov hx
  | rep _ _ _ _ _ _ => exact keeps_rep hx
  | csrr _ _ => exact keeps_csrr hx
  | beq _ _ _ => exact keeps_beq hx
  | bne _ _ _ => exact keeps_bne hx
  | blt _ _ _ => exact keeps_blt hx
  | bge _ _ _ => exact keeps_bge hx
  | bltu _ _ _ => exact keeps_bltu hx
  | bgeu _ _ _ => exact keeps_bgeu hx
  | bxq _ => exact keeps_bxq hx
  | bxqz _ => exact keeps_bxqz hx
  | j _ => exact keeps_j hx
  | jr _ => exact keeps_jr hx
  | loop _ _ => exact keeps_loop hx
  | ecall _ => exact keeps_ecall hx
  | brk _ => exact keeps_brk hx
  | send _ _ _ _ => exact keeps_send hx
  | sende _ _ _ => exact keeps_sende hx
  | reply _ => exact keeps_reply hx
  | jarrive _ _ _ => exact keeps_jarrive hx
  | gang _ => exact keeps_gang hx
  | stacq _ _ _ _ => exact keeps_stacq hx
  | strel _ _ _ => exact keeps_strel hx
  | dqpush _ _ => exact keeps_dqpush hx
  | dqpop _ => exact keeps_dqpop hx
  | dqsplit => exact keeps_dqsplit hx
  | dqsteal _ _ => exact keeps_dqsteal hx
  | tlwait _ _ => exact keeps_tlwait hx
  | tlread _ _ _ => exact keeps_tlread hx
  | evsig _ _ => exact keeps_evsig hx
  | wfi => exact keeps_wfi hx
  | nop => exact keeps_nop hx
  | himm _ => exact keeps_himm hx
  | hwid _ _ _ _ => exact keeps_hwid hx
  | hmod _ _ => exact keeps_hmod hx
  | hyld => exact keeps_hyld hx
  | macq _ _ => exact keeps_macq hx
  | mrel _ _ => exact keeps_mrel hx
  | mrelRes _ _ => exact keeps_mrelRes hx
  | mrelAbn _ _ => exact keeps_mrelAbn hx
  | mldb _ _ _ _ _ => exact keeps_mldb hx
  | mspec _ _ _ _ _ => exact keeps_mspec hx
  | mzero _ _ _ _ => exact keeps_mzero hx
  | mma _ _ _ _ _ => exact keeps_mma hx
  | lnscfg _ => exact keeps_lnscfg hx
  | mmas _ _ _ _ _ => exact keeps_mmas hx
  | mrd _ _ _ => exact keeps_mrd hx
  | mrdFlg _ _ _ => exact keeps_mrdFlg hx
  | mcopy _ _ _ _ _ => exact keeps_mcopy hx
  | chbond _ _ _ => exact keeps_chbond hx
  | chprog _ _ _ => exact keeps_chprog hx
  | chrunStart _ _ _ => exact keeps_chrunStart hx
  | chstat _ _ _ => exact keeps_chstat hx
  | chgrad _ _ _ => exact keeps_chgrad hx
  | grset _ _ _ => exact keeps_grset hx
  | grred _ _ _ _ _ _ => exact keeps_grred hx
  | grscan _ _ _ _ _ _ => exact keeps_grscan hx
  | grscanX _ _ _ _ _ _ => exact keeps_grscanX hx
  | grmv _ _ _ _ _ => exact keeps_grmv hx
  | grat _ _ _ _ _ _ => exact keeps_grat hx
  | grstat _ _ _ => exact keeps_grstat hx
  | grstatRes _ _ => exact keeps_grstatRes hx
  | grstatAbn _ _ => exact keeps_grstatAbn hx
  | cpy _ _ _ _ _ => exact keeps_cpy hx
  | cpywp _ _ _ => exact keeps_cpywp hx
  | cpychkCheck _ _ _ _ => exact keeps_cpychkCheck hx
  | cpychkRes _ _ => exact keeps_cpychkRes hx
  | cpychkAbn _ _ => exact keeps_cpychkAbn hx
  | call _ | ret | csrw _ _ _ | cvtsr _ _ _ _ _ | chprogKeep _ _ _ | chrunResume _ _ | chrunAbn _ _ | endAct | disband
  | eretEnd | eret => exact absurd hframe.symm Bool.false_ne_true
  | _ => exact absurd henc Bool.false_ne_true

/-- Settles O57: `exec_kept`, and the laws of the instructions whose frame is stated apart. -/
theorem dispatchKeepsTheRest : Obligations.DispatchKeepsTheRest := by
  unfold Obligations.DispatchKeepsTheRest
  refine ⟨fun i s t henc hcall hret hcsrw hcvtsr hkeep hresume habn hend hdisband heretEnd heret hx => ?others,
    fun a b k s t hx => ?owed, fun s t hx => ?ends, fun s t a hc hg hx => ?alone,
    fun s t a b id c hc hg hs hn hb hi hx => keeps_eret hc hg hs hn hb hi hx⟩
  case others =>
    cases i with
    | call n => exact absurd rfl (hcall n)
    | ret => exact absurd rfl hret
    | csrw d x n => exact absurd rfl (hcsrw d x n)
    | cvtsr w d x u v => exact absurd rfl (hcvtsr w d x u v)
    | chprogKeep a b k => exact absurd rfl (hkeep a b k)
    | chrunResume a k => exact absurd rfl (hresume a k)
    | chrunAbn a k => exact absurd rfl (habn a k)
    | endAct => exact absurd rfl hend
    | disband => exact absurd rfl hdisband
    | eretEnd => exact absurd rfl heretEnd
    | eret => exact absurd rfl heret
    | _ => exact exec_kept henc rfl hx
  case owed =>
    rcases hx with hx | hx | hx
    · exact keeps_chprogKeep hx
    · exact keeps_chrunResume hx
    · exact keeps_chrunAbn hx
  case ends =>
    rcases hx with hx | hx | hx
    · exact keeps_endAct hx
    · exact keeps_disband hx
    · exact keeps_eretEnd hx
  case alone =>
    rcases hx with ⟨hs, hx⟩ | hx
    · exact keeps_endAct_alone hc hg hs hx
    · exact keeps_disband_alone hc hg hx

/-! ### The guarded CSRs (03 R58; 06 R118) -/

/-- What stands but for what went outside leaves the guarded CSRs: those are the cores' own. -/
theorem guarded_of_keptButOut {s t : State} (h : KeptButOut s t) : SameGuarded s t := fun k => h.guarded k

/-- A check that is passed may be used behind it. -/
theorem Att.holds_check_of {P : State → Prop} {b : Bool} {c v : Nat} {k : Att} (h : b = true → k.Holds P) :
    (Att.check b c v k).Holds P := by
  cases b with
  | false => exact Att.holds_trap
  | true => exact h rfl

section
variable {s t : State} {a : Activation} (hc : s.cur? = some a) (hg : a.flow.gang = none)
include hc hg

/-- CALL writes at most its spill slot and a trace record. -/
theorem exec_call_guarded {n : Nat} (hx : exec (.call n) s = .next t) : SameGuarded s t := by
  refine solo_dispatch hc hg (Att.holds_need (Att.holds_aBody (Att.holds_decides (Att.holds_ok fun _ => rfl)
    (Att.holds_check ?_)))) (show execCall n s = .next t from hx)
  dsimp only
  split
  · split
    · exact Att.holds_ok (guarded_setCur.trans guarded_trace)
    · refine Att.holds_ok (((guarded_of_cores ?_).trans guarded_setCur).trans guarded_trace)
      rw [State.putNat_cores, State.touch_cores]
  · exact Att.holds_ok (guarded_setCur.trans guarded_trace)

theorem exec_ret_guarded (hx : exec .ret s = .next t) : SameGuarded s t := by
  refine solo_dispatch hc hg (Att.holds_need (Att.holds_aBody (Att.holds_decides (Att.holds_ok fun _ => rfl)
    (Att.holds_check ?_)))) (show execRet s = .next t from hx)
  dsimp only
  split
  · exact Att.holds_ok (guarded_setCur.trans guarded_trace)
  · exact Att.holds_ok (((guarded_of_cores (State.touch_cores ..)).trans guarded_setCur).trans guarded_trace)

/-- CVTSR steps the generator of stochastic rounding alone. -/
theorem exec_cvtsr_guarded {w d x u v : Nat} (hx : exec (.cvtsr w d x u v) s = .next t) : SameGuarded s t := by
  refine solo_dispatch hc hg ?_ (show execCvtsr w d x u v s = .next t from hx)
  unfold cvtsrBody
  refine Att.holds_xBody fun _ _ _ _ _ _ _ _ => SameGuarded.trans ?_ guarded_setCur
  exact guarded_setCore rfl

variable (hp : a.info.priv = false)
include hp

/-- Without privilege CSRW passes its checks for XFLAGS only. -/
theorem exec_csrw_guarded {d x n : Nat} (hx : exec (.csrw d x n) s = .next t) : SameGuarded s t := by
  refine solo_dispatch hc hg (Att.holds_need (Att.holds_aBody (Att.holds_check_of fun hpriv => Att.holds_check
    (Att.holds_check (Att.holds_check_of fun hwritable => Att.holds_check (Att.holds_ok
      (csrWrite_guarded ?_ hwritable)))))) ) (show execCsrw d x n s = .next t from hx)
  rw [cur_of_cur? hc, hp, Bool.false_or, Bool.not_eq_true'] at hpriv
  exact hpriv

/-- Without privilege ERET traps at the latest at that check. -/
theorem exec_eret_guarded (hx : exec .eret s = .next t) : SameGuarded s t := by
  refine solo_dispatch hc hg (Att.holds_xQuiet (Att.holds_aBody ?_)) (show execEret s = .next t from hx)
  rw [guardPriv_bad (by rw [cur_of_cur? hc, hp])]
  exact Att.holds_trap

end

/-- Settles O56: what keeps the CSRs keeps these, and the four instructions that write CSRs or memory have laws of their
own above. -/
theorem unprivilegedKeepsProtected : Obligations.UnprivilegedKeepsProtected := by
  unfold Obligations.UnprivilegedKeepsProtected
  intro i s t a henc hc hp hg hx
  cases i with
  | call n => exact exec_call_guarded hc hg hx
  | ret => exact exec_ret_guarded hc hg hx
  | csrw d x n => exact exec_csrw_guarded hc hg hp hx
  | cvtsr w d x u v => exact exec_cvtsr_guarded hc hg hx
  | chprogKeep a b k => exact guarded_of_keptButOut (keeps_chprogKeep hx)
  | chrunResume a k => exact guarded_of_keptButOut (keeps_chrunResume hx)
  | chrunAbn a k => exact guarded_of_keptButOut (keeps_chrunAbn hx)
  | endAct => exact (keeps_endAct hx).guarded
  | disband => exact (keeps_disband hx).guarded
  | eretEnd => exact (keeps_eretEnd hx).guarded
  | eret => exact exec_eret_guarded hc hg hp hx
  | _ => exact (exec_kept henc rfl hx).guarded

end Sys2Proof.Machine
end

section
/-! PROOF. The other forms of the X-half: one source, immediates, 2W ranges and SEL for O4, the packed instructions for O5, the
float forms for O6, RADDF and the conversions for O8 (05 R79 to R95; 13 R242 to R259). -/

namespace Sys2Proof.Machine

/-! ### The integer forms of one source and of an immediate (05 R76, 03 R51) -/

/-- An instruction of one source writes its function of the operation width and the operand. -/
theorem execX2_runs {i : Instr} {w d x : Nat} {f : Nat → Nat → Nat} (h : ∀ s, exec i s = execX2 w d x f s) :
    XRuns i (widthOf w) (oneSrc (widthOf w) d x) anyHead (fun _ c p _ _ => { value := f (widthOf w) p, csr := c }) :=
  xBody_runs (fun _ => false) h (fun _ _ => rfl)

/-- An instruction with a signed immediate takes it narrowed to the operation width. -/
theorem execXI_runs {i : Instr} {w d x n : Nat} {f : Nat → Nat → Nat → Nat} (h : ∀ s, exec i s = execXI w d x n f s) :
    XRuns i (widthOf w) (oneSrc (widthOf w) d x) anyHead
      (fun e c p _ _ => { value := f (widthOf w) p (toBits (e.immS 7 n) (widthOf w)), csr := c }) :=
  xBody_runs (fun _ => false) h (fun _ _ => rfl)

theorem movi_runs (w d i : Nat) : XRuns (.movi w d i) (widthOf w) (fun _ => { a := none, b := none, d := d, dw := widthOf w })
    anyHead (fun e c _ _ _ => { value := toBits (e.immS 7 i) (widthOf w), csr := c }) :=
  xBody_runs (fun _ => false) (fun _ => rfl) (fun _ _ => rfl)

/-- An extension's length is reserved at 0 and from the operation width on (05 R90). -/
theorem lengthBad_eq_false {w n : Nat} (h : (n != 0 && decide (n < w)) = true) : lengthBad w n = false := by
  obtain ⟨h0, hw⟩ := Bool.and_eq_true_iff.mp h
  rw [lengthBad, beq_eq_false_iff_ne.mpr (bne_iff_ne.mp h0), Bool.false_or]
  exact decide_eq_false (Nat.not_le.mpr (of_decide_eq_true hw))

/-- An extension by a length that is not reserved. -/
theorem extension_runs {i : Instr} {w d x n : Nat} {f : Nat → Nat → Nat → Nat}
    (h : ∀ s, exec i s = execXC w d x n lengthBad f s) :
    XRuns i (widthOf w) (oneSrc (widthOf w) d x) (fun e => e.immU 7 n != 0 && decide (e.immU 7 n < widthOf w))
      (fun e c p _ _ => { value := f (widthOf w) p (e.immU 7 n), csr := c }) :=
  execXC_runs h fun _ => lengthBad_eq_false

/-! ### The integer forms of a 2W range, and SEL (05 R81, R86, R88) -/

theorem wide_runs {i : Instr} {w d x y : Nat} {f : Nat → Nat → Nat → Nat}
    (h : ∀ s, exec i s = dispatch .x (wideBody w d x y f) s) :
    XRuns i (widthOf w) (fun e => { twoSrc (widthOf w) d x y e with dw := 2 * widthOf w, dWide := true }) anyHead
      (fun _ c p q _ => { value := f (widthOf w) p q, csr := c }) :=
  xBody_runs (fun _ => false) h (fun _ _ => rfl)

theorem funnel_runs {i : Instr} {w d x y : Nat} {f : Nat → Nat → Nat → Nat}
    (h : ∀ s, exec i s = dispatch .x (funnelBody w d x y f) s) :
    XRuns i (2 * widthOf w)
      (fun _ => { a := some { field := x, width := 2 * widthOf w, wide := true }
                  b := some { field := y, width := widthOf w }, d := d, dw := widthOf w }) anyHead
      (fun _ c p q _ => { value := f (widthOf w) p q, csr := c }) :=
  xBody_runs (fun _ => false) h (fun _ _ => rfl)

theorem sel_runs (w d x y : Nat) : XRuns (.sel w d x y) (widthOf w)
    (fun e => { twoSrc (widthOf w) d x y e with
      c := some { field := d, width := widthOf w, wide := true }, dWide := true }) anyHead
    (fun _ c p q z => { value := if z ≠ 0 then p else q, csr := c }) :=
  xBody_runs (fun _ => false) (fun _ => rfl) (fun _ _ => rfl)

/-- Settles O4: each instruction has one of the forms above, with the function that the model names after it. -/
theorem xUnaryImmediateAndWideResults : Obligations.XUnaryImmediateAndWideResults := by
  unfold Obligations.XUnaryImmediateAndWideResults
  refine ⟨⟨fun w d x => ?unary, fun w d x i => ?immediate, movi_runs, fun w d x i => ?extension⟩, fun w d x y => ?wide⟩
  case unary =>
    simp only [List.forall_mem_cons, List.not_mem_nil, false_imp_iff, implies_true, and_true]
    exact ⟨execX2_runs (f := xNeg) fun _ => rfl, execX2_runs (f := xAbs) fun _ => rfl, execX2_runs (f := xMov) fun _ => rfl,
      execX2_runs (f := xClz) fun _ => rfl, execX2_runs (f := xCtz) fun _ => rfl, execX2_runs (f := xPopc) fun _ => rfl,
      execX2_runs (f := xBrev) fun _ => rfl⟩
  case immediate =>
    simp only [List.forall_mem_cons, List.not_mem_nil, false_imp_iff, implies_true, and_true]
    exact ⟨execXI_runs (f := xAdd) fun _ => rfl, execXI_runs (f := xAnd) fun _ => rfl, execXI_runs (f := xOr) fun _ => rfl,
      execXI_runs (f := xXor) fun _ => rfl, execXI_runs (f := xSeq) fun _ => rfl, execXI_runs (f := xSlt) fun _ => rfl⟩
  case extension =>
    simp only [List.forall_mem_cons, List.not_mem_nil, false_imp_iff, implies_true, and_true]
    exact ⟨extension_runs (f := xExts) fun _ => rfl, extension_runs (f := xExtz) fun _ => rfl⟩
  case wide =>
    exact ⟨wide_runs (f := xMulw) fun _ => rfl, wide_runs (f := xMulwu) fun _ => rfl, funnel_runs (f := xFshl) fun _ => rfl,
      funnel_runs (f := xFshr) fun _ => rfl, sel_runs w d x y⟩

/-! ### The packed form (05 R93) -/

/-- A packed instruction writes its function of two operands of the operation width. -/
theorem packed_runs {i : Instr} {w d x y : Nat} {f : Nat → Nat → Nat → Nat}
    (h : ∀ s, exec i s = dispatch .x (packedBody w d x y f) s) :
    XRuns i (widthOf w) (plainSrc (widthOf w) d x y) anyHead (fun _ c p q _ => { value := f (widthOf w) p q, csr := c }) :=
  xBody_runs (fun _ => false) h (fun _ _ => rfl)

/-- Settles O5: all eight instructions of each lane width have the packed form. -/
theorem packedResults : Obligations.PackedResults := by
  unfold Obligations.PackedResults
  intro w d x y
  simp only [List.forall_mem_cons, List.not_mem_nil, false_imp_iff, implies_true, and_true]
  refine ⟨?lanes4, ?lanes8, ?lanes16, ?lanes32⟩
  case lanes4 =>
    exact ⟨packed_runs (f := lanewise 4 (paddLane 4)) fun _ => rfl,
      packed_runs (f := lanewise 4 (psubLane 4)) fun _ => rfl,
      packed_runs (f := lanewise 4 (pmaxuLane 4)) fun _ => rfl,
      packed_runs (f := lanewise 4 (pminuLane 4)) fun _ => rfl,
      packed_runs (f := lanewise 4 (pmaxsLane 4)) fun _ => rfl,
      packed_runs (f := lanewise 4 (pminsLane 4)) fun _ => rfl,
      packed_runs (f := lanewise 4 (paddssLane 4)) fun _ => rfl, packed_runs (f := rmaxu 4) fun _ => rfl⟩
  case lanes8 =>
    exact ⟨packed_runs (f := lanewise 8 (paddLane 8)) fun _ => rfl,
      packed_runs (f := lanewise 8 (psubLane 8)) fun _ => rfl,
      packed_runs (f := lanewise 8 (pmaxuLane 8)) fun _ => rfl,
      packed_runs (f := lanewise 8 (pminuLane 8)) fun _ => rfl,
      packed_runs (f := lanewise 8 (pmaxsLane 8)) fun _ => rfl,
      packed_runs (f := lanewise 8 (pminsLane 8)) fun _ => rfl,
      packed_runs (f := lanewise 8 (paddssLane 8)) fun _ => rfl, packed_runs (f := rmaxu 8) fun _ => rfl⟩
  case lanes16 =>
    exact ⟨packed_runs (f := lanewise 16 (paddLane 16)) fun _ => rfl,
      packed_runs (f := lanewise 16 (psubLane 16)) fun _ => rfl,
      packed_runs (f := lanewise 16 (pmaxuLane 16)) fun _ => rfl,
      packed_runs (f := lanewise 16 (pminuLane 16)) fun _ => rfl,
      packed_runs (f := lanewise 16 (pmaxsLane 16)) fun _ => rfl,
      packed_runs (f := lanewise 16 (pminsLane 16)) fun _ => rfl,
      packed_runs (f := lanewise 16 (paddssLane 16)) fun _ => rfl, packed_runs (f := rmaxu 16) fun _ => rfl⟩
  case lanes32 =>
    exact ⟨packed_runs (f := lanewise 32 (paddLane 32)) fun _ => rfl,
      packed_runs (f := lanewise 32 (psubLane 32)) fun _ => rfl,
      packed_runs (f := lanewise 32 (pmaxuLane 32)) fun _ => rfl,
      packed_runs (f := lanewise 32 (pminuLane 32)) fun _ => rfl,
      packed_runs (f := lanewise 32 (pmaxsLane 32)) fun _ => rfl,
      packed_runs (f := lanewise 32 (pminsLane 32)) fun _ => rfl,
      packed_runs (f := lanewise 32 (paddssLane 32)) fun _ => rfl, packed_runs (f := rmaxu 32) fun _ => rfl⟩

/-! ### The float forms (13 R242, R246) -/

/-- An instruction of two sources that reads its destination applies its function to every lane of the format. -/
theorem execF4_runs {i : Instr} {k : Fmt} {w d x y : Nat} {f : LaneFn} (h : ∀ s, exec i s = execF4 k w d x y f s) :
    XRuns i (widthOf w) (fun e => { plainSrc (widthOf w) d x y e with
        c := some { field := d, width := widthOf w, wide := true }, dWide := true }) anyHead
      (laneRes (widthOf w) k f) :=
  xBody_runs (fun _ => false) h (fun _ _ => rfl)

/-- Settles O6: the instructions have the forms of two sources, of two sources and the destination, and of one source. -/
theorem floatResults : Obligations.FloatResults := by
  unfold Obligations.FloatResults
  refine ⟨fun w d x y => ?twoSources, fun w d x y => ?accumulating, fun w d x => ?oneSource⟩
  case twoSources =>
    simp only [List.forall_mem_cons, List.not_mem_nil, false_imp_iff, implies_true, and_true]
    exact ⟨execF3_runs (fun _ => rfl) fun _ _ _ _ _ => rfl, execF3_runs (fun _ => rfl) fun _ _ _ _ _ => rfl,
      execF3_runs (fun _ => rfl) fun _ _ _ _ _ => rfl, execF3_runs (fun _ => rfl) fun _ _ _ _ _ => rfl,
      execF3_runs (fun _ => rfl) fun _ _ _ _ _ => rfl, execF3_runs (fun _ => rfl) fun _ _ _ _ _ => rfl,
      execF3_runs (fun _ => rfl) fun _ _ _ _ _ => rfl, execF3_runs (fun _ => rfl) fun _ _ _ _ _ => rfl,
      execF3_runs (fun _ => rfl) fun _ _ _ _ _ => rfl, execF3_runs (fun _ => rfl) fun _ _ _ _ _ => rfl,
      execF3_runs (fun _ => rfl) fun _ _ _ _ _ => rfl, execF3_runs (fun _ => rfl) fun _ _ _ _ _ => rfl,
      execF3_runs (fun _ => rfl) fun _ _ _ _ _ => rfl⟩
  case accumulating =>
    simp only [List.forall_mem_cons, List.not_mem_nil, false_imp_iff, implies_true, and_true]
    exact ⟨execF4_runs fun _ => rfl, execF4_runs fun _ => rfl, execF4_runs fun _ => rfl⟩
  case oneSource =>
    simp only [List.forall_mem_cons, List.not_mem_nil, false_imp_iff, implies_true, and_true]
    exact ⟨execF2_runs (fun _ => rfl) fun _ _ _ _ _ => rfl, execF2_runs (fun _ => rfl) fun _ _ _ _ _ => rfl,
      execF2_runs (fun _ => rfl) fun _ _ _ _ _ => rfl, execF2_runs (fun _ => rfl) fun _ _ _ _ _ => rfl,
      execF2_runs (fun _ => rfl) fun _ _ _ _ _ => rfl⟩

/-! ### The reduction and the conversions (13 R253 to R258) -/

/-- Settles O8: each of the three instructions is an X body with the function of its rule. -/
theorem reductionAndConversionResults : Obligations.ReductionAndConversionResults := by
  unfold Obligations.ReductionAndConversionResults
  refine ⟨fun w d x => ?raddf, fun w d x t u => ⟨?cvt, ?cvtsr⟩⟩
  case raddf => exact xBody_runs (fun _ => false) (fun s => (rfl : _ = dispatch .x (raddfBody w d x) s)) (fun _ _ => rfl)
  case cvt => exact xBody_runs (fun _ => false) (fun s => (rfl : _ = dispatch .x (cvtBody w d x t u) s)) (fun _ _ => rfl)
  case cvtsr => exact xBody_runs (fun _ => false) (fun s => (rfl : _ = dispatch .x (cvtsrBody w d x t u) s)) (fun _ _ => rfl)

end Sys2Proof.Machine
end

section
/-! PROOF. Accesses of the A-half: queue and field transfers (O11), loads (O12), stores (O13), atomics and fences (O14), block
moves and repeats (O15), and the checks of a load in their order (O53) (02 R35; 06 R100 to R115). -/

namespace Sys2Proof.Machine

/-! ### What an A instruction's body answers -/

/-- An A instruction completes in the state that its body answers. -/
theorem body_runs {i : Instr} {body : State → Att} {pre : State → Activation → Entry → Prop}
    {post : State → Activation → Entry → State} (h : ∀ s, exec i s = dispatch .a body s)
    (hb : ∀ s a, Ready s .a a → pre s a (a.headEntry .a) → body s = .ok (post s a (a.headEntry .a))) : ARuns i pre post :=
  fun s a r hp => (h s).trans (dispatch_ok r (hb s a r hp))

section
variable {i : Instr} {body : State → Att} (h : ∀ s, exec i s = dispatch .a body s) {s t : State} {a : Activation}
  (r : Ready s .a a)
include h r

theorem body_traps {cause val : Nat} (hb : body s = .trap cause val) : exec i s = .next (s.takeTrap .a cause val) :=
  (h s).trans (dispatch_trap r hb)

theorem body_waits (hb : body s = .waits t) : exec i s = .next { t with verdict := .waiting } :=
  (h s).trans (dispatch_waits r hb)

theorem body_stalls (hb : body s = .stall) : exec i s = .next { s with verdict := .stalled } :=
  (h s).trans (dispatch_stall r hb)

theorem body_stays (hb : body s = .stay t) : exec i s = .next (t.dispatched (a.headEntry .a)) :=
  (h s).trans (dispatch_stay r hb)

/-- The last element of `n` completes a head, and any other keeps it. -/
theorem body_last {n : Nat} (hb : body s = if n = 1 then .ok t else .stay t) :
    exec i s = .next (if n = 1 then t.finish .a else t.dispatched (a.headEntry .a)) := by
  by_cases hn : n = 1
  · rw [if_pos hn] at hb ⊢
    exact (h s).trans (dispatch_ok r hb)
  · rw [if_neg hn] at hb ⊢
    exact body_stays h r hb

end

theorem lo_mod (a : Activation) (r : Nat) : a.lo r % 2 ^ 64 = a.lo r := Nat.mod_mod _ _

theorem ldqFree_ok {a : Activation} {q : Nat} (h : (a.ldq q).length < 16) : a.ldqFree q = true := decide_eq_true h

/-! ### Queue and field transfers (06 R101, R103) -/

theorem apushq_runs (q x : Nat) : ARuns (.apushq q x) (fun _ a _ => Readable a [x] ∧ (a.ldq q).length < 16)
    (fun s a _ => s.setCur (a.setLdq q (a.ldq q ++ [{ data := (a.reg x).data }]))) := by
  refine body_runs (fun _ => rfl) ?_
  rintro s a hd ⟨hr, hq⟩
  rw [hd.cur, ldqFree_ok hq, Att.need_true, aBody_ok hd hr rfl]

theorem apopq_runs (d : Nat) (v : Word64) (rest : List Word64) : ARuns (.apopq d) (fun _ a _ => a.q.xaq = v :: rest)
    (fun s a e => s.setCur (({ a with q := { a.q with xaq := rest } } : Activation).writeReg e.seq d (plain64 v.toNat))) := by
  refine body_runs (fun _ => rfl) fun s a hd hv => ?_
  rw [hd.cur, hv]
  exact aBody_ok hd (readable_nil a) rfl

/-- Settles O11. -/
theorem queueAndFieldTransfers : Obligations.QueueAndFieldTransfers := by
  unfold Obligations.QueueAndFieldTransfers
  refine ⟨apushq_runs, apopq_runs, fun d x f => ⟨?cclr, ?cget⟩⟩
  case cclr => exact regBody_runs (fun _ => rfl) (fun _ _ => rfl)
  case cget => exact regBody_runs (v := fun a _ => plain64 (capField (a.reg x) f)) (fun _ => rfl) (fun _ _ => rfl)

/-! ### Loads (06 R104, R105, R107) -/

theorem ld_runs (q c o z sg r p : Nat) : ARuns (.ld q c o z sg r p)
    (fun s a _ => Sends s a ∧ (a.ldq q).length < 16 ∧ Readable a [c, o] ∧
      Admits (a.reg c) [permLD] (a.lo o) (2 ^ z) 1 (2 ^ z))
    (fun s a e => s.emitAcc (a.setLdq q (a.ldq q ++ [{ wait := s.nextId }]))
      (s.newAcc e (.load q (8 * 2 ^ z) (sg == 1)) ((a.reg c).base + a.lo o) (a.lo o) false (r == 1) (r == 2))) := by
  refine body_runs (fun _ => rfl) ?_
  rintro s a hd ⟨hs, hq, hr, hc⟩
  unfold loadBody
  rw [sendable_ok hd hs, hd.cur, ldqFree_ok hq, Att.need_true, aBody_ok hd hr rfl]
  simp only [Nat.add_zero, lo_mod]
  exact capCheck_ok hc

theorem ldx_runs (q c o z sg r p : Nat) (v : Word64) (rest : List Word64) : ARuns (.ldx q c o z sg r p)
    (fun s a _ => a.q.xaq = v :: rest ∧ Sends s a ∧ (a.ldq q).length < 16 ∧ Readable a [c, o] ∧
      Admits (a.reg c) [permLD] ((a.lo o + v.toNat) % 2 ^ 64) (2 ^ z) 1 (2 ^ z))
    (fun s a e => s.emitAcc
      ((({ a with q := { a.q with xaq := rest } } : Activation)).setLdq q (a.ldq q ++ [{ wait := s.nextId }]))
      { s.newAcc e (.load q (8 * 2 ^ z) (sg == 1)) ((a.reg c).base + (a.lo o + v.toNat) % 2 ^ 64)
          ((a.lo o + v.toNat) % 2 ^ 64) false (r == 1) (r == 2) with popXaq := [v] }) := by
  refine body_runs (fun _ => rfl) ?_
  rintro s a hd ⟨hv, hs, hq, hr, hc⟩
  unfold loadBody
  rw [hd.cur, hv]
  dsimp only
  rw [sendable_ok hd hs, ldqFree_ok hq, Att.need_true, aBody_ok hd hr rfl]
  simp only [hv, List.tail_cons]
  exact capCheck_ok hc

/-- A load into a register sends its access and leaves the register waiting. -/
theorem loadReg_runs {i : Instr} {d c o size cause r : Nat} {perms : List Nat} {kind : AccKind}
    (h : ∀ s, exec i s = dispatch .a (loadRegBody d c o size perms cause kind r) s) : ARuns i
    (fun s a _ => Sends s a ∧ Readable a [c, o] ∧ Admits (a.reg c) perms (a.lo o) size 1 size)
    (fun s a e => s.emitAcc (a.awaitReg e.seq d s.nextId)
      { s.newAcc e kind ((a.reg c).base + a.lo o) (a.lo o) false (r == 1) (r == 2) with prev := a.prevReg e.seq d }) := by
  refine body_runs h ?_
  rintro s a hd ⟨hs, hr, hc⟩
  rw [loadRegBody, sendable_ok hd hs, aBody_ok hd hr rfl]
  exact capCheck_ok hc

theorem ldnib_runs (q c o z sg : Nat) : ARuns (.ldnib q c o z sg)
    (fun s a _ => Sends s a ∧ (a.ldq q).length < 16 ∧ Readable a [c, o] ∧
      Admits (a.reg c) [permLD] (a.lo o) (2 * 2 ^ z) 2 1)
    (fun s a e => s.emitAcc (a.setLdq q (a.ldq q ++ [{ wait := s.nextId }]))
      (s.newAcc e (.loadNib q (2 * 2 ^ z) (a.lo o % 2) (sg == 1)) ((a.reg c).base + a.lo o / 2) (a.lo o)
        false false false)) := by
  refine body_runs (fun _ => rfl) ?_
  rintro s a hd ⟨hs, hq, hr, hc⟩
  rw [sendable_ok hd hs, hd.cur, ldqFree_ok hq, Att.need_true, aBody_ok hd hr rfl]
  exact capCheck_ok hc

/-- Settles O12. -/
theorem loadsComplete : Obligations.LoadsComplete := by
  unfold Obligations.LoadsComplete
  exact fun q d c o z sg r p => ⟨ld_runs q c o z sg r p, ldx_runs q c o z sg r p, loadReg_runs fun _ => rfl,
    loadReg_runs fun _ => rfl, ldnib_runs q c o z sg⟩

/-! ### Stores (06 R104 to R107, R109) -/

theorem st_runs (c o z r p : Nat) (v : Word128) (rest : List Word128) : ARuns (.st c o z r p)
    (fun s a _ => Sends s a ∧ a.q.sdq = v :: rest ∧ Readable a [c, o] ∧
      Admits (a.reg c) [permST] (a.lo o) (2 ^ z) 1 (2 ^ z) ∧ Ordered s a r p)
    (fun s a e => s.emitAcc { a with q := { a.q with sdq := rest } }
      { s.newAcc e (.store v (fullMask (2 ^ z))) ((a.reg c).base + a.lo o) (a.lo o) ((a.reg c).perm permCODE) false
          (r == 2) with popSdq := [v] }) := by
  refine body_runs (fun _ => rfl) ?_
  rintro s a hd ⟨hs, hv, hr, hc, ho⟩
  unfold storeBody
  rw [sendable_ok hd hs, popSdq_ok hd hv, aBody_ok hd hr rfl]
  simp only [Nat.add_zero, lo_mod, orderStore_ok hd ho]
  exact capCheck_ok hc

theorem stx_runs (c o z r p : Nat) (v : Word128) (rest : List Word128) (u : Word64) (xs : List Word64) :
    ARuns (.stx c o z r p)
    (fun s a _ => a.q.xaq = u :: xs ∧ Sends s a ∧ a.q.sdq = v :: rest ∧ Readable a [c, o] ∧
      Admits (a.reg c) [permST] ((a.lo o + u.toNat) % 2 ^ 64) (2 ^ z) 1 (2 ^ z) ∧ Ordered s a r p)
    (fun s a e => s.emitAcc { a with q := { a.q with sdq := rest, xaq := xs } }
      { s.newAcc e (.store v (fullMask (2 ^ z))) ((a.reg c).base + (a.lo o + u.toNat) % 2 ^ 64)
          ((a.lo o + u.toNat) % 2 ^ 64) ((a.reg c).perm permCODE) false (r == 2) with
        popSdq := [v], popXaq := [u] }) := by
  refine body_runs (fun _ => rfl) ?_
  rintro s a hd ⟨hu, hs, hv, hr, hc, ho⟩
  unfold storeBody
  rw [hd.cur, hu]
  dsimp only
  rw [sendable_ok hd hs, popSdq_ok hd hv, aBody_ok hd hr rfl]
  simp only [hu, List.tail_cons, orderStore_ok hd ho]
  exact capCheck_ok hc

theorem stm_runs (m c o r p : Nat) (v : Word128) (rest : List Word128) : ARuns (.stm m c o r p)
    (fun s a _ => Sends s a ∧ a.q.sdq = v :: rest ∧ Readable a [c, o, m] ∧
      Admits (a.reg c) [permST] (a.lo o) (maskSpan (fld (a.reg m).data.toNat 0 16)) 1 1 ∧ Ordered s a r p)
    (fun s a e =>
      let mask := fld (a.reg m).data.toNat 0 16
      let popped : Activation := { a with q := { a.q with sdq := rest } }
      if mask = 0 then s.setCur popped
      else s.emitAcc popped { s.newAcc e (.store v (BitVec.ofNat 16 mask)) ((a.reg c).base + a.lo o) (a.lo o)
        ((a.reg c).perm permCODE) false (r == 2) with popSdq := [v] }) := by
  refine body_runs (fun _ => rfl) ?_
  rintro s a hd ⟨hs, hv, hr, hc, ho⟩
  rw [sendable_ok hd hs, popSdq_ok hd hv, aBody_ok hd hr rfl]
  dsimp only
  rw [capCheck_ok hc, orderStore_ok hd ho, ← apply_ite Att.ok]

theorem sta_runs (d c o z r p : Nat) : ARuns (.sta d c o z r p)
    (fun s a _ => Sends s a ∧ Readable a [c, o, d] ∧ Admits (a.reg c) [permST] (a.lo o) (2 ^ z) 1 (2 ^ z) ∧
      Ordered s a r p)
    (fun s a e => s.emitAcc a (s.newAcc e (.store (a.reg d).data (fullMask (2 ^ z))) ((a.reg c).base + a.lo o) (a.lo o)
      ((a.reg c).perm permCODE) false (r == 2))) := by
  refine body_runs (fun _ => rfl) ?_
  rintro s a hd ⟨hs, hr, hc, ho⟩
  rw [sendable_ok hd hs, aBody_ok hd hr rfl]
  exact (capCheck_ok hc).trans (orderStore_ok hd ho)

theorem stc_runs (d c o r p : Nat) : ARuns (.stc d c o r p)
    (fun s a _ => Sends s a ∧ Readable a [c, o, d] ∧ Admits (a.reg c) [permST, permSTC] (a.lo o) 16 1 16 ∧
      (a.reg d).tag = true ∧ Ordered s a r p)
    (fun s a e => s.emitAcc a (s.newAcc e (.storeCap (a.reg d).data) ((a.reg c).base + a.lo o) (a.lo o)
      ((a.reg c).perm permCODE) false false)) := by
  refine body_runs (fun _ => rfl) ?_
  rintro s a hd ⟨hs, hr, hc, ht, ho⟩
  rw [sendable_ok hd hs, aBody_ok hd hr rfl]
  dsimp only
  rw [capCheck_ok hc, ht, Att.check_true]
  exact orderStore_ok hd ho

theorem stnib_runs (c o z : Nat) (v : Word128) (rest : List Word128) : ARuns (.stnib c o z)
    (fun s a _ => Sends s a ∧ a.q.sdq = v :: rest ∧ Readable a [c, o] ∧
      Admits (a.reg c) [permST] (a.lo o) (2 * 2 ^ z) 2 1)
    (fun s a e => s.emitAcc { a with q := { a.q with sdq := rest } }
      { s.newAcc e (.storeNib (2 * 2 ^ z) (a.lo o % 2) v) ((a.reg c).base + a.lo o / 2) (a.lo o)
          ((a.reg c).perm permCODE) false false with popSdq := [v] }) := by
  refine body_runs (fun _ => rfl) ?_
  rintro s a hd ⟨hs, hv, hr, hc⟩
  rw [sendable_ok hd hs, popSdq_ok hd hv, aBody_ok hd hr rfl]
  exact capCheck_ok hc

/-- Settles O13. -/
theorem storesComplete : Obligations.StoresComplete := by
  unfold Obligations.StoresComplete
  exact fun d c o m z r p v rest => ⟨st_runs c o z r p v rest, stx_runs c o z r p v rest, stm_runs m c o r p v rest,
    sta_runs d c o z r p, stc_runs d c o r p, stnib_runs c o z v rest⟩

/-! ### Atomics (06 R110, R111) -/

/-- An atomic that its capability admits sends its access and leaves its register waiting. -/
theorem atomic_runs {i : Instr} {rs : List Nat} {d x b z o p : Nat} {kind : Activation → AccKind}
    (h : ∀ s, exec i s = dispatch .a (atomicBody rs d x b z o p kind) s) : ARuns i
    (fun s a _ => Sends s a ∧ Readable a rs ∧ Admits (a.reg x) [permAMO] (a.lo b) (4 * 2 ^ z) 1 (4 * 2 ^ z) ∧
      Ordered s a o p)
    (fun s a e => s.emitAcc (a.awaitReg e.seq d s.nextId)
      { s.newAcc e (kind a) ((a.reg x).base + a.lo b) (a.lo b) ((a.reg x).perm permCODE) (o == 1) false with
        prev := a.prevReg e.seq d }) := by
  refine body_runs h ?_
  rintro s a hd ⟨hs, hr, hc, ho⟩
  rw [atomicBody, sendable_ok hd hs, aBody_ok hd hr rfl]
  exact (capCheck_ok hc).trans (orderStore_ok hd ho)

/-! ### Fences (06 R112, R113; 12 R231) -/

theorem fenceAcq_runs (p : Nat) : ARuns (.fenceAcq p) (fun s a _ => Orderly s a ∧ s.acquired a.info.id = true)
    (fun s _ _ => s) := by
  refine body_runs (fun _ => rfl) ?_
  rintro s a hd ⟨hs, hq⟩
  rw [orderly_ok hd hs, hd.cur, hq, Att.need_true, aBody_ok hd (readable_nil a) rfl]

theorem fenceRel_runs (p : Nat) : ARuns (.fenceRel p) (fun s a _ => Orderly s a ∧ Ordered s a 1 p) (fun s _ _ => s) := by
  refine body_runs (fun _ => rfl) ?_
  rintro s a hd ⟨hs, ho⟩
  rw [orderly_ok hd hs, hd.cur, aBody_ok hd (readable_nil a) rfl]
  exact releaseWait_ok ho

theorem fenceAr_runs (p : Nat) : ARuns (.fenceAr p)
    (fun s a _ => Orderly s a ∧ s.acquired a.info.id = true ∧ Ordered s a 1 p) (fun s _ _ => s) := by
  refine body_runs (fun _ => rfl) ?_
  rintro s a hd ⟨hs, hq, ho⟩
  rw [orderly_ok hd hs, hd.cur, hq, Att.need_true, aBody_ok hd (readable_nil a) rfl]
  exact releaseWait_ok ho

/-- With nothing of the root in flight, and no buffer that holds it behind a hint, XFENCE completes and has dropped the
root's translations. -/
theorem xfence_runs (p : Nat) : ARuns (.xfence p)
    (fun s a e => Orderly s a ∧ a.info.priv = true ∧ Ordered s a 1 p ∧
      s.translatedInScope p s.focus.core (s.rootOf a.info.region) = false ∧
      s.wcInScope p s.focus.core (s.rootOf a.info.region) = false ∧
      (s.staleInScope p s.focus.core (s.rootOf a.info.region) = false ∨ e.hints = []))
    (fun s a _ => s.dropRoot p s.focus.core (s.rootOf a.info.region)) := by
  refine body_runs (fun _ => rfl) ?_
  rintro s a hd ⟨hs, hp, ho, ht, hw, hstale⟩
  have hwait : (s.staleInScope p s.focus.core (s.rootOf a.info.region) && !(a.headEntry .a).hints.isEmpty) = false := by
    rcases hstale with h | h
    · rw [h, Bool.false_and]
    · rw [h, List.isEmpty_nil, Bool.not_true, Bool.and_false]
  rw [orderly_ok hd hs, aBody_ok hd (readable_nil a) rfl, guardPriv_ok hp, releaseWait_ok ho]
  simp only [ht, hw, wcFlushRoot_none hw, Bool.false_or, hwait, Bool.not_false, Att.need_true, Bool.false_eq_true, if_false,
    ite_self]

/-- With a buffer of the scope that holds the root, XFENCE drops and sends what it must, and waits for what is in flight or
for its hints' cycle. -/
theorem xfence_waits {p : Nat} {s : State} {a : Activation} (hd : Ready s .a a) (hs : Orderly s a)
    (hp : a.info.priv = true) (ho : Ordered s a 1 p) (hn : (a.headEntry .a).taken = 0)
    (hstale : s.staleInScope p s.focus.core (s.rootOf a.info.region) = true)
    (hw : s.translatedInScope p s.focus.core (s.rootOf a.info.region) = true ∨
      s.wcInScope p s.focus.core (s.rootOf a.info.region) = true ∨ (a.headEntry .a).hints ≠ []) :
    exec (.xfence p) s = .next { (s.dropRoot p s.focus.core (s.rootOf a.info.region)).wcFlushRoot p s.focus.core
      (s.rootOf a.info.region) with verdict := .waiting } := by
  have hpending : (s.translatedInScope p s.focus.core (s.rootOf a.info.region) ||
      s.wcInScope p s.focus.core (s.rootOf a.info.region) || !(a.headEntry .a).hints.isEmpty) = true := by
    rcases hw with h | h | h
    · rw [h, Bool.true_or, Bool.true_or]
    · rw [h, Bool.or_true, Bool.true_or]
    · rw [List.isEmpty_eq_false_iff.mpr h, Bool.not_false, Bool.or_true]
  refine body_waits (fun _ => rfl) hd ?_
  rw [orderly_ok hd hs, aBody_ok hd (readable_nil a) rfl, guardPriv_ok hp, releaseWait_ok ho]
  simp only [hn, hstale, hpending, Bool.and_self, ne_eq, not_true_eq_false, if_false, if_true]

/-- Settles O14. -/
theorem atomicsAndFencesComplete : Obligations.AtomicsAndFencesComplete := by
  unfold Obligations.AtomicsAndFencesComplete
  exact fun d x b f z o p => ⟨atomic_runs fun _ => rfl, atomic_runs fun _ => rfl, fenceAcq_runs p, fenceRel_runs p,
    fenceAr_runs p, xfence_runs p, fun _ _ => xfence_waits⟩

/-! ### Block moves (06 R114) -/

theorem bmov_done_runs (d x b : Nat) : ARuns (.bmov d x b)
    (fun s a _ => Sends s a ∧ Readable a [d, d + 1, x, x + 1, b] ∧ a.lo b = 0) (fun s _ _ => s) := by
  refine body_runs (fun _ => rfl) ?_
  rintro s a hd ⟨hs, hr, hn⟩
  rw [sendable_ok hd hs, aBody_ok hd hr rfl]
  exact if_pos hn

/-- BMOV sends the load of one chunk and keeps its place. -/
theorem bmov_stays {d x b : Nat} {s : State} {a : Activation} (hd : Ready s .a a) (hs : Sends s a)
    (hr : Readable a [d, d + 1, x, x + 1, b]) (hn : 0 < a.lo b)
    (hl : Admits (a.reg x) [permLD] (a.lo (x + 1)) (min 16 (a.lo b)) 1 1)
    (hst : Admits (a.reg d) [permST] (a.lo (d + 1)) (min 16 (a.lo b)) 1 1)
    (h8 : s.chunksOut a.info.id (a.headEntry .a).seq < 8)
    (hover : let m := a.bmovTotal (a.headEntry .a).seq (a.lo b)
      overlaps ((a.reg x).base + a.lo (x + 1) + a.lo b - m) m ((a.reg d).base + a.lo (d + 1) + a.lo b - m) m = true →
        s.chunksOut a.info.id (a.headEntry .a).seq = 0) :
    exec (.bmov d x b) s = .next ((s.emitAcc
      { a with flow := { a.flow with hold := some s.nextId
                                     whole := some ((a.headEntry .a).seq, a.bmovTotal (a.headEntry .a).seq (a.lo b)) } }
      (s.newAcc (a.headEntry .a) (.chunk ((a.reg d).base + a.lo (d + 1)) (a.lo (d + 1)) (min 16 (a.lo b))
        ((a.reg d).perm permCODE)) ((a.reg x).base + a.lo (x + 1)) (a.lo (x + 1)) false false false)).dispatched
      (a.headEntry .a)) := by
  refine body_stays (fun _ => rfl) hd ?_
  rw [sendable_ok hd hs, aBody_ok hd hr rfl]
  dsimp only at hover ⊢
  rw [if_neg (Nat.ne_of_gt hn), capCheck_ok hl, capCheck_ok hst, decide_eq_true h8, Bool.true_and]
  have hfree : (!(overlaps ((a.reg x).base + a.lo (x + 1) + a.lo b - a.bmovTotal (a.headEntry .a).seq (a.lo b))
      (a.bmovTotal (a.headEntry .a).seq (a.lo b))
      ((a.reg d).base + a.lo (d + 1) + a.lo b - a.bmovTotal (a.headEntry .a).seq (a.lo b))
      (a.bmovTotal (a.headEntry .a).seq (a.lo b)) && s.chunksOut a.info.id (a.headEntry .a).seq != 0)) = true := by
    rw [Bool.not_eq_true', Bool.and_eq_false_imp]
    exact fun h => bne_eq_false_iff_eq.mpr (hover h)
  rw [hfree, Att.need_true]

/-! ### Repeats (06 R115) -/

theorem rep_done_runs (q x b z sg t : Nat) : ARuns (.rep q x b z sg t)
    (fun s a _ => Sends s a ∧ Readable a [x, x + 1, b, b + 1] ∧ a.lo b = 0) (fun s _ _ => s) := by
  refine body_runs (fun _ => rfl) ?_
  rintro s a hd ⟨hs, hr, hn⟩
  rw [sendable_ok hd hs, hd.cur, beq_iff_eq.mpr hn, Bool.true_or, Att.need_true, aBody_ok hd hr rfl]
  exact if_pos hn

/-- Settles O15. -/
theorem blockMovesAndRepeats : Obligations.BlockMovesAndRepeats := by
  unfold Obligations.BlockMovesAndRepeats
  refine ⟨bmov_done_runs, fun _ _ _ _ _ hd hs hr hn hl hst h8 ho => bmov_stays hd hs hr hn hl hst h8 ho, rep_done_runs,
    fun q x b z sg s a hd hs hr hn hq hc => ?load, fun q x b z sg v rest s a hd hs hr hn hv hc => ?store⟩
  case load =>
    refine body_last (fun _ => rfl) hd ?_
    rw [sendable_ok hd hs, hd.cur, if_pos rfl, ldqFree_ok hq, Bool.or_true, Att.need_true, aBody_ok hd hr rfl]
    dsimp only
    rw [if_neg (Nat.ne_of_gt hn), if_pos rfl]
    exact capCheck_ok hc
  case store =>
    refine body_last (fun _ => rfl) hd ?_
    rw [sendable_ok hd hs, hd.cur, if_neg Nat.one_ne_zero, hv, List.isEmpty_cons, Bool.not_false, Bool.or_true,
      Att.need_true, aBody_ok hd hr rfl]
    dsimp only
    rw [if_neg (Nat.ne_of_gt hn), if_neg Nat.one_ne_zero, hv]
    exact capCheck_ok hc

/-! ### The checks of a load (02 R35) -/

section
variable {c : AReg} {perms : List Nat} {off size unit align cause val : Nat} {k : Att}

theorem capCheck_untagged (ht : c.tag = false) : capCheck c perms off size unit align cause val k = .trap tCAP_TAG val := by
  rw [capCheck, ht, Att.check_false]

variable (ht : c.tag = true)
include ht

theorem capCheck_noPermission (hp : (perms.all fun p => c.perm p) = false) :
    capCheck c perms off size unit align cause val k = .trap tCAP_PERM val := by
  rw [capCheck, ht, Att.check_true, hp, Att.check_false]

variable (hp : (perms.all fun p => c.perm p) = true)
include hp

theorem capCheck_outside (hb : unit * (c.top - c.base) < off + size) :
    capCheck c perms off size unit align cause val k = .trap tCAP_BOUNDS val := by
  rw [capCheck, ht, Att.check_true, hp, Att.check_true, decide_eq_false (Nat.not_le.mpr hb), Att.check_false]

theorem capCheck_misaligned (hb : off + size ≤ unit * (c.top - c.base)) (ha : (c.base + off) % align ≠ 0) :
    capCheck c perms off size unit align cause val k = .trap cause val := by
  rw [capCheck, ht, Att.check_true, hp, Att.check_true, decide_eq_true hb, Att.check_true, beq_eq_false_iff_ne.mpr ha,
    Att.check_false]

end

/-- The body of a load that may send is its check and its access. -/
theorem ld_traps {q d o z sg r p : Nat} {s : State} {a : Activation} {cause : Nat} (hd : Ready s .a a) (hs : Sends s a)
    (hq : (a.ldq q).length < 16) (hr : Readable a [d, o])
    (hc : ∀ k, capCheck (a.reg d) [permLD] (a.lo o) (2 ^ z) 1 (2 ^ z) tALIGN (a.lo o) k = .trap cause (a.lo o)) :
    exec (.ld q d o z sg r p) s = .next (s.takeTrap .a cause (a.lo o)) := by
  refine body_traps (fun _ => rfl) hd ?_
  unfold loadBody
  rw [sendable_ok hd hs, hd.cur, ldqFree_ok hq, Att.need_true, aBody_ok hd hr rfl]
  simp only [Nat.add_zero, lo_mod]
  exact hc _

/-- Settles O53: each check fails with those before it passed. -/
theorem capabilityChecks : Obligations.CapabilityChecks := by
  unfold Obligations.CapabilityChecks
  intro q d o z sg r p s a hd hs hq hr
  have hall : ([permLD].all fun b => (a.reg d).perm b) = (a.reg d).perm permLD := Bool.and_true _
  have untagged (ht : (a.reg d).tag = false) := ld_traps (sg := sg) (r := r) (p := p) (z := z) hd hs hq hr
    fun _ => capCheck_untagged ht
  refine ⟨untagged, fun h0 => untagged (by rw [h0]; rfl),
    fun ht hp => ld_traps hd hs hq hr fun _ => capCheck_noPermission ht (hall.trans hp),
    fun ht hp hb => ld_traps hd hs hq hr fun _ => capCheck_outside ht (hall.trans hp) (by omega),
    fun ht hp hb ha => ld_traps hd hs hq hr fun _ => capCheck_misaligned ht (hall.trans hp) (by omega) ha⟩

end Sys2Proof.Machine
end

section
/-! PROOF. Control flow: branches (O17), calls, returns and loops (O18), ends, waits and gangs (O19), and hints (O21)
(02 R41; 03 R49; 06 R120 to R126; 08 R147 to R151). -/

namespace Sys2Proof.Machine

/-! ### Branches and jumps (06 R120, R121, R125) -/

theorem j_runs (t : Nat) : ARuns (.j t) (fun _ _ _ => True) (fun s a e => s.jumpTo a e (BitVec.ofNat 14 t)) := by
  refine body_runs (fun _ => rfl) fun s a hd _ => ?_
  rw [aBody_ok hd (readable_nil a) rfl]
  exact decides_ok hd _ _

theorem jr_runs (x : Nat) : ARuns (.jr x) (fun _ a _ => Readable a [x] ∧ a.lo x % 4 = 0 ∧ a.lo x < 65536)
    (fun s a e => s.jumpTo a e (BitVec.ofNat 14 (a.lo x / 4))) := by
  refine body_runs (fun _ => rfl) ?_
  rintro s a hd ⟨hr, h4, hlt⟩
  rw [aBody_ok hd hr rfl, decides_ok hd, beq_iff_eq.mpr h4, decide_eq_true hlt]
  rfl

/-- Settles O17: the compare branches and the branches on XAQ by the laws of their forms. -/
theorem branchesComplete : Obligations.BranchesComplete := by
  unfold Obligations.BranchesComplete
  refine ⟨fun x y d => ?compare, fun d v rest => ?queue, j_runs, jr_runs⟩
  case compare =>
    simp only [List.forall_mem_cons, List.not_mem_nil, false_imp_iff, implies_true, and_true]
    exact ⟨branch_runs (f := fun p q => p == q) fun _ => rfl, branch_runs (f := fun p q => p != q) fun _ => rfl,
      branch_runs (f := fun p q => decide (sext p 64 < sext q 64)) fun _ => rfl,
      branch_runs (f := fun p q => decide (sext q 64 ≤ sext p 64)) fun _ => rfl,
      branch_runs (f := fun p q => decide (p < q)) fun _ => rfl, branch_runs (f := fun p q => decide (q ≤ p)) fun _ => rfl⟩
  case queue =>
    simp only [List.forall_mem_cons, List.not_mem_nil, false_imp_iff, implies_true, and_true]
    exact ⟨⟨queueBranch_runs (f := fun p => p != 0) fun _ => rfl, fun _ _ => queueBranch_stall (f := fun p => p != 0) fun _ => rfl⟩,
      queueBranch_runs (f := fun p => p == 0) fun _ => rfl, fun _ _ => queueBranch_stall (f := fun p => p == 0) fun _ => rfl⟩

/-! ### Calls, returns and loops (02 R10, R41; 06 R121, R122) -/

/-- Settles O18: in each case the waits and checks of the instruction are passed. -/
theorem callsReturnsAndLoopsComplete : Obligations.CallsReturnsAndLoopsComplete := by
  unfold Obligations.CallsReturnsAndLoopsComplete
  refine ⟨⟨fun t => body_runs (fun _ => rfl) ?call, fun t old rest => body_runs (fun _ => rfl) ?spill,
    fun pc => body_runs (fun _ => rfl) fun s a hd hl => ?ret, body_runs (fun _ => rfl) ?reload⟩,
    fun x l => ⟨body_runs (fun _ => rfl) ?skip, body_runs (fun _ => rfl) ?loop⟩⟩
  case call =>
    rintro s a hd ⟨h8, h72⟩
    rw [hd.cur, decide_eq_true h8, Bool.or_true, Bool.true_or, Att.need_true, aBody_ok hd (readable_nil a) rfl, decides_ok hd,
      decide_eq_true h72, Att.check_true]
    dsimp only
    split
    next old rest hstack => rw [if_pos h8]
    next hstack => rw [hstack, List.nil_append]
  case spill =>
    rintro s a hd ⟨hstack, h8, h72, hlm⟩
    rw [hlm, Bool.or_true, Att.need_true, aBody_ok hd (readable_nil a) rfl, decides_ok hd, decide_eq_true h72, Att.check_true]
    dsimp only
    rw [hstack] at h8 ⊢
    exact if_neg (Nat.not_lt.mpr h8)
  case ret =>
    have hne : a.f.rstack.isEmpty = false := by
      rw [List.isEmpty_eq_false_iff]
      intro h
      rw [h] at hl
      cases hl
    rw [hd.cur, hne, Bool.not_false, Bool.or_true, Bool.true_or, Att.need_true, aBody_ok hd (readable_nil a) rfl,
      decides_ok hd, hne, Bool.not_false, Bool.true_or, Att.check_true, hl]
  case reload =>
    rintro s a hd ⟨hstack, hspilled, hlm⟩
    rw [hlm, Bool.or_true, Att.need_true, aBody_ok hd (readable_nil a) rfl, decides_ok hd, bne_iff_ne.mpr hspilled,
      Bool.or_true, Att.check_true, hstack]
    rfl
  case skip =>
    rintro s a hd ⟨hr, hin, hn⟩
    rw [aBody_ok hd hr (decide_eq_false (Nat.not_lt.mpr hin)), decides_ok hd]
    exact if_pos hn
  case loop =>
    rintro s a hd ⟨hr, hin, hn, h2, hinner⟩
    have hall : (a.f.loops.all fun r => !(decide (r.first.toNat ≤ (a.headEntry .a).wpc.toNat) &&
        decide ((a.headEntry .a).wpc.toNat ≤ r.last.toNat)) ||
        decide ((a.headEntry .a).wpc.toNat + l ≤ r.last.toNat)) = true := by
      refine List.all_eq_true.mpr fun r hm => ?_
      have := hinner r hm
      simp only [Bool.or_eq_true, Bool.not_eq_true', Bool.and_eq_false_iff, decide_eq_false_iff_not, decide_eq_true_iff]
      omega
    rw [aBody_ok hd hr (decide_eq_false (Nat.not_lt.mpr hin)), decides_ok hd]
    dsimp only
    rw [if_neg hn, decide_eq_true h2, Att.check_true, hall, Att.check_true]

/-! ### Ends and waits (06 R126; 09 R179, R180) -/

theorem endAct_runs : ARuns .endAct (fun _ a _ => XQuiet a) (fun s _ _ => s.endAct s.focus.core s.focus.ctx) :=
  body_runs (fun _ => rfl) fun _ a hd hx => (xQuiet_ok hd hx).trans (aBody_ok hd (readable_nil a) rfl)

/-- A return that passes its checks reaches its own part. -/
theorem eretBody_ok {s : State} {a : Activation} {k : State → Activation → Att} (hd : Ready s .a a) (hx : XQuiet a)
    (hp : a.info.priv = true) (hs : a.info.serves.isSome = true) : eretBody k s = k s a := by
  rw [eretBody, xQuiet_ok hd hx, aBody_ok hd (readable_nil a) rfl, guardPriv_ok hp, hs, Att.check_true]

theorem eret_runs (id : Nat) : ARuns .eret (fun _ a _ => XQuiet a ∧ a.info.priv = true ∧ a.info.serves = some id)
    (fun s a _ => ((s.setCur { a with info := { a.info with serves := none } }).endAct s.focus.core s.focus.ctx).resumeParked
      s.focus.core id) := by
  refine body_runs (fun _ => rfl) ?_
  rintro s a hd ⟨hx, hp, hs⟩
  rw [eretBody_ok hd hx hp (by rw [hs]; rfl), hs]

theorem eretEnd_runs : ARuns .eretEnd (fun _ a _ => XQuiet a ∧ a.info.priv = true ∧ a.info.serves.isSome = true)
    (fun s _ _ => s.endAct s.focus.core s.focus.ctx) := by
  refine body_runs (fun _ => rfl) ?_
  rintro s a hd ⟨hx, hp, hs⟩
  exact eretBody_ok hd hx hp hs

theorem wfi_runs : ARuns .wfi (fun _ a _ => a.info.priv = true)
    (fun s a _ => s.setCur { a with flow := { a.flow with wfi := s.curCore.queued != some s.clock } }) :=
  body_runs (fun _ => rfl) fun _ a hd hp => (aBody_ok hd (readable_nil a) rfl).trans (guardPriv_ok hp)

/-! ### Gangs (08 R149 to R151; 09 R171, R172) -/

theorem gang_runs (n : Nat) : ARuns (.gang n)
    (fun s a _ => XQuiet a ∧ Readable a (upTo 32) ∧ s.focus.core % n = 0 ∧ a.f.loops = [] ∧
      ∀ i ∈ upTo (n - 1), (s.followerRoom (s.focus.core + i + 1) a.info.region a.info.winSize).isSome = true)
    (fun s a _ => ((upTo (n - 1)).foldl (fun u i => u.addFollower n (i + 1) a) s).setCur
      { a with flow := { a.flow with
        gang := some { leaderCore := s.focus.core, leaderCtx := s.focus.ctx, lane := 0, size := n } } }) := by
  refine body_runs (fun _ => rfl) ?_
  rintro s a hd ⟨hx, hr, hn, hl, hroom⟩
  rw [xQuiet_ok hd hx, aBody_ok hd hr rfl, beq_iff_eq.mpr hn, Att.check_true, hd.solo, hl, List.all_eq_true.mpr hroom]
  rfl

theorem disband_runs : ARuns .disband (fun _ a _ => XQuiet a)
    (fun s a _ => s.setCur { a with flow := { a.flow with gang := none } }) := by
  refine body_runs (fun _ => rfl) fun s a hd hx => ?_
  rw [xQuiet_ok hd hx, aBody_ok hd (readable_nil a) rfl]
  exact if_neg (fun h => h hd.lane)

/-- A body that waits for the X-half and then runs its own part on each member. -/
def quietBody (k : State → Activation → Att) (s : State) : Att :=
  xQuiet s (aBody [] (fun _ => false) (fun act _ => k s act) s)

/-- Nothing of an activation holds up a quiet body of its followers, whose X buffer and A head are its own (08 R150). -/
def Activation.letsFollow (b : Activation) : Prop :=
  b.f.xbuf = [] ∧ (b.headEntry .a).reservedHint = none ∧ (b.headEntry .a).badHint = none

/-- A leader that is gone holds up nothing. -/
theorem letsFollow_getD {o : Option Activation} (h : ∀ b, o = some b → b.letsFollow) : (o.getD {}).letsFollow := by
  cases o with
  | none => exact ⟨rfl, by decide, by decide⟩
  | some b => exact h b rfl

/-- A follower that is as it was, and whose leader does not hold it up, runs its own part. -/
theorem quietBody_follower {u s : State} {a : Activation} {g : Gang} {k : State → Activation → Att} (h : GangReady s a g)
    {m : Nat × Nat} (hm : m ∈ (s.gangMembers g).drop 1) (hk : ((u.act? g.leaderCore g.leaderCtx).getD {}).letsFollow)
    (hu : u.act? m.1 m.2 = s.act? m.1 m.2) :
    (u.focusOn m.1 m.2).lane ≠ 0 ∧
      quietBody k (u.focusOn m.1 m.2) = k (u.focusOn m.1 m.2) (u.focusOn m.1 m.2).cur := by
  obtain ⟨b, hg, hb, hf, hl, h1, h2, hp⟩ := h.follow m hm
  obtain ⟨hx, hvalid, htaken⟩ := hk
  have hc : (u.focusOn m.1 m.2).cur = b := cur_of_cur? (hu.trans hb)
  have hleader : (u.focusOn m.1 m.2).act? hg.leaderCore hg.leaderCtx = u.act? g.leaderCore g.leaderCtx := by rw [h1, h2]; rfl
  have hbuf : (u.focusOn m.1 m.2).bufs.2 = [] := by
    rw [State.bufs, hc, hf]
    dsimp only
    rw [hleader, hx]
  have hhead : (u.focusOn m.1 m.2).head .a = ((u.act? g.leaderCore g.leaderCtx).getD {}).headEntry .a := by
    rw [State.head, hc, hf]
    dsimp only
    rw [if_neg hl, hleader]
  refine ⟨by rw [State.lane, hc, hf]; exact hl, ?_⟩
  rw [quietBody, xQuiet, hbuf, hc, hp, aBody, hhead, guardHints_ok hvalid htaken, hc]
  rfl

/-- In a gang whose followers end and whose leader goes on in `v`, the followers are gone, and the leader's core is as the
leader's own part left it, but for its dispatch (`gangRun_ends`, `gang_dispatch`). -/
theorem quietBody_gang {s v : State} {a : Activation} {g : Gang} {k : State → Activation → Att} (h : GangReady s a g)
    (hlead : k (s.focusOn g.leaderCore g.leaderCtx) a = .ok v)
    (hcores : ∀ j, g.leaderCore ≠ j → v.core j = s.core j) (hclock : v.clock = s.clock)
    (hfollow : ∀ u b, u.lane ≠ 0 → k u b = .ok (u.endAct u.focus.core u.focus.ctx))
    (hstays : ∀ b, v.act? g.leaderCore g.leaderCtx = some b → b.letsFollow) :
    ∃ t u : State, dispatch .a (quietBody k) s = .next t ∧ (∀ m ∈ (s.gangMembers g).drop 1, t.act? m.1 m.2 = none) ∧
      u.core g.leaderCore = v.core g.leaderCore ∧ u.clock = s.clock ∧
      t.act? g.leaderCore g.leaderCtx =
        ((u.focusOn g.leaderCore g.leaderCtx).finish .a).act? g.leaderCore g.leaderCtx := by
  obtain ⟨rest, hmembers, hpairs, hothers, hfollowers, hsome, hready⟩ := leader_facts h
  have hv {m : Nat × Nat} (hm : m ∈ rest) : v.act? m.1 m.2 = s.act? m.1 m.2 := act_ne (hcores m.1 (hothers m hm).symm) m.2
  have hbody {u : State} {m : Nat × Nat} (hm : m ∈ rest) (hk : ((u.act? g.leaderCore g.leaderCtx).getD {}).letsFollow)
      (hu : u.act? m.1 m.2 = s.act? m.1 m.2) :
      quietBody k (u.focusOn m.1 m.2) = .ok ((u.focusOn m.1 m.2).endAct m.1 m.2) := by
    obtain ⟨hlane, he⟩ := quietBody_follower (k := k) h (hfollowers m hm) hk hu
    exact he.trans (hfollow _ _ hlane)
  have hleader : quietBody k (s.focusOn g.leaderCore g.leaderCtx) = .ok v := (leader_body hready _).trans hlead
  obtain ⟨u, hrun, hcore, hclk, hgone⟩ := gangRun_ends (body := quietBody k) (K := g.leaderCore) rest v hpairs hothers
    (fun u m hK hm hu => hbody hm (letsFollow_getD (by rw [State.act?, hK]; exact hstays)) (hu.trans (hv hm)))
    (fun m hm => by rw [hv hm]; exact hsome m hm)
  have hall : ∀ m ∈ s.gangMembers g, ∃ w, quietBody k (s.focusOn m.1 m.2) = .ok w := by
    rw [hmembers, List.forall_mem_cons]
    refine ⟨⟨v, hleader⟩, fun m hm => ⟨_, hbody hm ?_ rfl⟩⟩
    rw [show s.act? g.leaderCore g.leaderCtx = some a from hready.here]
    exact ⟨h.quiet.1, h.valid, h.taken⟩
  have hgang : gangRun (quietBody k) (s.gangMembers g) s = .ok u := by
    rw [hmembers, gangRun, hleader]
    exact hrun
  have hfinish {m : Nat × Nat} (hm : m ∈ rest) : ((u.focusOn g.leaderCore g.leaderCtx).finish .a).act? m.1 m.2 = none := by
    rw [act_ne (finish_core (hothers m hm).symm) m.2]
    exact hgone m hm
  obtain ⟨hends, hleads⟩ := noteGang_ends (s0 := s) (g := g) (e := a.headEntry .a) (gone := true)
    (L := (g.leaderCore, g.leaderCtx)) hpairs fun m hm => hfinish hm
  refine ⟨_, u, gang_dispatch h hall hgang, ?_, hcore _ hothers, hclk.trans hclock, ?_⟩
  · rw [hmembers]
    exact hends
  · rw [hmembers]
    exact hleads g.leaderCtx hothers

/-- END ends every member (08 R151). -/
theorem endAct_gang {s : State} {a : Activation} {g : Gang} (h : GangReady s a g) :
    ∃ t, exec .endAct s = .next t ∧ ∀ m ∈ s.gangMembers g, t.act? m.1 m.2 = none := by
  obtain ⟨rest, hmembers, -, -, -, -, hready⟩ := leader_facts h
  have hgone := endAct_gone hready.here
  obtain ⟨t, u, ht, hends, hu, -, hlead⟩ := quietBody_gang (k := fun t _ => .ok (t.endAct t.focus.core t.focus.ctx)) h rfl
    (fun j hj => endAct_core_ne hj) (endAct_clock _ _ _) (fun _ _ _ => rfl) (fun _ hb => nomatch hgone.symm.trans hb)
  refine ⟨t, ht, ?_⟩
  rw [hmembers] at hends ⊢
  refine List.forall_mem_cons.mpr ⟨hlead.trans ?_, hends⟩
  have hnone : (u.focusOn g.leaderCore g.leaderCtx).cur? = none := by
    rw [← hgone]
    exact act_ne hu g.leaderCtx
  simp only [State.finish, State.dispatched, hnone]
  exact hnone

/-- A head that is finished leaves the activation in focus with its head gone and its issue noted. -/
theorem finish_act {s : State} {a : Activation} (h : s.cur? = some a) :
    (s.finish .a).act? s.focus.core s.focus.ctx = some ((a.popHead .a).yields (a.headEntry .a) s.clock s.curCore.csr.pol) := by
  simp only [State.finish, h, State.dispatched, State.cur?_setCur, cur_of_cur? h]
  refine (State.act?_setActAt_self ..).trans ?_
  simp only [State.setCur, State.setActAt, State.curCore, State.setCore_clock, State.setCore_focus, State.core_setCore_self]

/-- DISBAND ends the followers, and the leader goes on alone (08 R151). -/
theorem disband_gang {s : State} {a : Activation} {g : Gang} (h : GangReady s a g) :
    ∃ t, exec .disband s = .next t ∧
      t.act? s.focus.core s.focus.ctx = some ((({ a with flow := { a.flow with gang := none } } : Activation).popHead .a).yields
        (a.headEntry .a) s.clock s.curCore.csr.pol) ∧
      ∀ m ∈ (s.gangMembers g).drop 1, t.act? m.1 m.2 = none := by
  obtain ⟨-, hzero, hk, hc, -⟩ := h.leads
  obtain ⟨-, -, -, -, -, -, hready⟩ := leader_facts h
  have hlane : (s.focusOn g.leaderCore g.leaderCtx).lane = 0 := by
    rw [State.lane, cur_of_cur? hready.here, h.leads.1]
    exact hzero
  have hown : ((s.focusOn g.leaderCore g.leaderCtx).setCur { a with flow := { a.flow with gang := none } }).act? g.leaderCore
      g.leaderCtx = some { a with flow := { a.flow with gang := none } } := State.act?_setActAt_self ..
  obtain ⟨t, u, ht, hends, hu, hclock, hlead⟩ := quietBody_gang
    (k := fun t act => if t.lane ≠ 0 then .ok (t.endAct t.focus.core t.focus.ctx)
      else .ok (t.setCur { act with flow := { act.flow with gang := none } })) h (if_neg (fun h => h hlane))
    (fun j hj => State.core_setCore_of_ne _ _ hj) rfl (fun _ _ hl => if_pos hl)
    (fun b hb => Option.some.inj (hown.symm.trans hb) ▸ ⟨h.quiet.1, h.valid, h.taken⟩)
  have hcur : (u.focusOn g.leaderCore g.leaderCtx).cur? = some { a with flow := { a.flow with gang := none } } :=
    (act_ne hu g.leaderCtx).trans hown
  have hpol : (u.focusOn g.leaderCore g.leaderCtx).curCore.csr.pol = s.curCore.csr.pol := by
    refine (congrArg (fun c => c.csr.pol) hu).trans ?_
    rw [State.curCore, ← hk]
    exact congrArg (fun c => c.csr.pol) (State.core_setCore_self ..)
  refine ⟨t, ht, ?_, hends⟩
  rw [← hk, ← hc, hlead]
  refine (finish_act hcur).trans ?_
  rw [hpol, show (u.focusOn g.leaderCore g.leaderCtx).clock = s.clock from hclock]
  rfl

/-- Settles O19: outside a gang each instruction passes its checks; in a gang every follower ends, and the leader ends or goes
on alone. -/
theorem endsWaitsAndGangs : Obligations.EndsWaitsAndGangs := by
  unfold Obligations.EndsWaitsAndGangs
  exact ⟨⟨endAct_runs, fun _ _ _ => endAct_gang, eret_runs, eretEnd_runs, wfi_runs⟩, gang_runs, disband_runs,
    fun _ _ _ => disband_gang⟩

/-! ### Hints (03 R49) -/

/-- A hint that is next in its sequence takes its cycle. -/
theorem execHint_next {w : Nat} {s : State} {a : Activation} {h : Half} {e : Entry} {rest : List Entry} (ha : s.cur? = some a)
    (hh : hintHalf a s.focus.half w = some h) (hb : a.buf h = e :: rest) (ht : e.taken < e.hints.length) :
    execHint w s = .next { (s.lockMembers a).setCur
      (a.setBuf h ({ e with taken := e.taken + 1 } :: rest)) with verdict := .done } := by
  simp only [execHint, ha, hh, hb, if_pos ht]

/-- Settles O21: the four hints share their rule. -/
theorem hintsTakeTheirCycle : Obligations.HintsTakeTheirCycle := by
  unfold Obligations.HintsTakeTheirCycle
  intro v x y sg t
  simp only [List.forall_mem_cons, List.not_mem_nil, false_imp_iff, implies_true, and_true]
  exact ⟨fun _ _ _ _ _ => execHint_next, fun _ _ _ _ _ => execHint_next, fun _ _ _ _ _ => execHint_next,
    fun _ _ _ _ _ => execHint_next⟩

end Sys2Proof.Machine
end

section
/-! PROOF. Messages and synchronisation: messages and timelines (O22), joins, stage rings and the siding (O23) (08 R154; 09). -/

namespace Sys2Proof.Machine

/-- A target of a SEND that has its form and lies in the partition (09 R164). -/
theorem sendTarget_ok {s : State} {a : Activation} {v : Nat} {k : Att} (hlt : v < 2 ^ 25) (hf : fld v 17 8 ≠ 0)
    (hin : s.coreInPartition a.info.region (fld v 13 4) (fld v 0 13) = true) :
    (Att.check (decide (v < 2 ^ 25) && fld v 17 8 != 0) tILLEGAL_OPERAND v <|
      .check (s.coreInPartition a.info.region (fld v 13 4) (fld v 0 13)) tACCESS v k) = k := by
  rw [decide_eq_true hlt, bne_iff_ne.mpr hf, Bool.and_self, Att.check_true, hin, Att.check_true]

/-- Settles O22: every wait and check of the instruction is passed. -/
theorem sendsAndTimelinesComplete : Obligations.SendsAndTimelinesComplete := by
  unfold Obligations.SendsAndTimelinesComplete
  refine ⟨fun x y h p => ⟨body_runs (fun _ => rfl) ?send, fun hh => body_runs (fun _ => rfl) ?sendNew,
      body_runs (fun _ => rfl) ?sendReply, body_runs (fun _ => rfl) ?reply, fun hp => body_runs (fun _ => rfl) ?sende⟩,
    fun d x l k => ⟨body_runs (fun _ => rfl) ?tlwait, body_runs (fun _ => rfl) ?tlread, body_runs (fun _ => rfl) ?evsig,
      fun hk => body_runs (fun _ => rfl) ?evsigOrdered⟩⟩
  case send =>
    rintro s a hd ⟨hs, hr, hlt, hf, hin⟩
    rw [sendReady_ok hd hs, if_neg (fun h => Nat.zero_ne_one h.1), aBody_ok hd hr rfl]
    exact sendTarget_ok hlt hf hin
  case sendNew =>
    rintro s a hd ⟨hs, hr, hlt, hf, hin⟩
    rw [sendReady_ok hd hs, if_neg (fun h => hh h.2), aBody_ok hd hr rfl]
    exact (sendTarget_ok hlt hf hin).trans (if_pos hh)
  case sendReply =>
    rintro s a hd ⟨hs, hr, hlt, hf, hin, hy⟩
    rw [sendReady_ok hd hs, if_pos ⟨rfl, rfl⟩, aBody_ok hd hr rfl]
    exact (sendTarget_ok hlt hf hin).trans (replyCheck_ok hy)
  case reply =>
    rintro s a hd ⟨hs, hr, hx⟩
    rw [sendReady_ok hd hs, aBody_ok hd hr rfl, replyCheck_ok hx]
  case sende =>
    rintro s a hd ⟨hs, hr, hctx, hlt, hin, hcap⟩
    rw [sendReady_ok hd hs, aBody_ok hd hr rfl]
    dsimp only
    rw [hctx, decide_eq_true hlt, Bool.and_self, Att.check_true, hin, Att.check_true]
    obtain rfl | rfl : p = 0 ∨ p = 1 := by omega
    · rfl
    · obtain ⟨ht, hm, he⟩ := hcap rfl
      rw [ht, hm, he]
      rfl
  case tlwait =>
    rintro s a hd ⟨hr, hctx, hle⟩
    rw [aBody_ok hd hr rfl, hctx, Att.check_true, decide_eq_true hle, Att.need_true]
  case tlread =>
    intro s a hd hctx
    rw [aBody_ok hd (readable_nil a) rfl, hctx, Att.check_true]
  case evsig =>
    intro s a hd _
    rw [aBody_ok hd (readable_nil a) rfl]
    rfl
  case evsigOrdered =>
    intro s a hd ho
    rw [aBody_ok hd (readable_nil a) rfl, if_neg hk, releaseWait_ok ho]

/-- An instruction of a stage ring sends its access and holds the A head until the home has answered. -/
theorem ringBody_ok {rs : List Nat} {x y : Nat} {kind : Activation → AccKind} {wait : Activation → Entry → Nat → Activation}
    {prev : Activation → Entry → List (Nat × AReg)} {rel : Bool} {bad : Activation → Option Nat} {s : State} {a : Activation}
    (hd : Ready s .a a) (hs : Sends s a) (hr : Readable a rs) (hc : Admits (a.reg x) [permAMO] (a.lo y) 64 1 16)
    (ho : Ordered s a (ofBool rel) 3) (hb : bad a = none) :
    ringBody rs x y kind wait prev rel bad s = .ok (s.emitAcc
      { wait a (a.headEntry .a) s.nextId with flow := { (wait a (a.headEntry .a) s.nextId).flow with hold := some s.nextId } }
      { s.newAcc (a.headEntry .a) (kind a) ((a.reg x).base + a.lo y) (a.lo y) ((a.reg x).perm permCODE) false false with
        prev := prev a (a.headEntry .a) }) := by
  rw [ringBody, sendable_ok hd hs, aBody_ok hd hr rfl, hb]
  exact (capCheck_ok hc).trans (orderStore_ok hd ho)

/-- Settles O23: every wait and check of the instruction is passed. -/
theorem joinsStagesAndSidingComplete : Obligations.JoinsStagesAndSidingComplete := by
  unfold Obligations.JoinsStagesAndSidingComplete
  refine ⟨fun d x y p r => ⟨body_runs (fun _ => rfl) ?jarrive, body_runs (fun _ => rfl) ?stacq, body_runs (fun _ => rfl) ?strel⟩,
    fun d x y => ⟨body_runs (fun _ => rfl) ?push, body_runs (fun _ => rfl) ?pop, body_runs (fun _ => rfl) ?split,
      body_runs (fun _ => rfl) ?steal⟩⟩
  case jarrive =>
    rintro s a hd ⟨hs, hr, hc, ho⟩
    rw [sendable_ok hd hs, aBody_ok hd hr rfl]
    exact (capCheck_ok hc).trans (releaseWait_ok ho)
  case stacq =>
    rintro s a hd ⟨hs, hr, hc⟩
    exact ringBody_ok hd hs hr hc (fun h => absurd h Nat.zero_ne_one) rfl
  case strel =>
    rintro s a hd ⟨hs, hr, hc, ho, hf⟩
    exact ringBody_ok hd hs hr hc ho (if_pos hf)
  case push =>
    rintro s a hd ⟨hr, h32⟩
    rw [aBody_ok hd hr rfl]
    dsimp only
    rw [decide_eq_true h32, Att.check_true]
    split <;> rfl
  case pop => exact fun s a hd _ => aBody_ok hd (readable_nil a) rfl
  case split =>
    intro s a hd h32
    rw [aBody_ok hd (readable_nil a) rfl]
    dsimp only
    rw [decide_eq_true h32, Att.check_true]
  case steal =>
    rintro s a hd ⟨hs, hr, hlt, hin⟩
    rw [sendable_ok hd hs, aBody_ok hd hr rfl]
    dsimp only
    rw [decide_eq_true hlt, Att.check_true, hin, Att.check_true]
    split <;> rfl

end Sys2Proof.Machine
end

section
/-! PROOF. The commands of the engines: copies (O24), the matrix unit (O25), chains (O26) and grammars (O27) (11; 14 to 18; 20). -/

namespace Sys2Proof.Machine

/-! ### What the commands share -/

/-- A command on the parked operation that it names acts on its context (10 R192). -/
theorem parkedBody_runs {i : Instr} {x id : Nat} {f : State → State}
    (h : ∀ s, exec i s = dispatch .a (fun t => orderly t <| aBody [x] (fun _ => false) (fun act _ =>
      guardCluster t act.info.region id <| parkedCheck t t.curClu id (act.lo x) (fun _ => .ok (f t))) t) s) :
    ARuns i (fun s a _ => CanUse s a ∧ Readable a [x] ∧ ParkedWith s s.curClu id (a.lo x)) (fun s _ _ => f s) := by
  refine body_runs h ?_
  rintro s a hd ⟨hu, hr, hp⟩
  rw [orderly_ok hd hu.1, aBody_ok hd hr rfl, guardCluster_ok hu.2, parkedCheck_ok hp]

/-- A command that reads a word of its context writes it to its register. -/
theorem statusBody_runs {i : Instr} {d id : Nat} {v : State → Nat}
    (h : ∀ s, exec i s = dispatch .a (fun t => aBody [] (fun _ => false) (fun act e =>
      guardCluster t act.info.region id <| .ok (t.setCur (act.writeReg e.seq d (plain64 (v t))))) t) s) :
    ARuns i (fun s a _ => s.ownsCluster a.info.region s.curClu = true)
      (fun s a e => s.setCur (a.writeReg e.seq d (plain64 (v s)))) := by
  refine body_runs h fun s a hd ho => ?_
  rw [aBody_ok hd (readable_nil a) rfl, guardCluster_ok ho]

/-- A check that passes names nothing. -/
theorem firstBad_forall {l : List (Bool × Nat × Nat)} (h : ∀ z ∈ l, z.1 = true) (k : Att) : (firstBad l).guard k = k := by
  rw [firstBad_none h, Refused.guard_none]

/-! ### Copies (11 R200, R204; 14 R281 to R286) -/

/-- Settles O24: the waits and checks of each command are passed. -/
theorem copiesComplete : Obligations.CopiesComplete := by
  unfold Obligations.CopiesComplete
  intro d x y m k
  refine ⟨fun r b => body_runs (fun _ => rfl) ?copy, fun r b => body_runs (fun _ => rfl) ?check,
    body_runs (fun _ => rfl) ?performed, fun n core region armed waits r ca cb => body_runs (fun _ => rfl) ?running,
    body_runs (fun _ => rfl) ?neither, parkedBody_runs (fun _ => rfl), parkedBody_runs (fun _ => rfl)⟩
  case copy =>
    rintro s a hd ⟨ho, hp, hr, hpop, hc⟩
    rw [orderly_ok hd ho, hd.cur, hpop]
    dsimp only
    rw [hp, Att.need_true, aBody_ok hd hr rfl, hc, Refused.guard_none]
    rfl
  case check =>
    rintro s a hd ⟨ho, hp, hr, hpop, hc⟩
    rw [orderly_ok hd ho, hd.cur, hpop]
    dsimp only
    rw [hp, Att.need_true, aBody_ok hd hr rfl, hc, Refused.guard_none]
    rfl
  case performed =>
    rintro s a hd ⟨hr, hle⟩
    rw [aBody_ok hd hr rfl]
    dsimp only
    rw [if_pos hle]
  case running =>
    rintro s a hd ⟨hr, hlt, hbusy, hn, hhead⟩
    rw [aBody_ok hd hr rfl]
    dsimp only
    rw [if_neg (Nat.not_le.mpr hlt), hbusy, hhead, hn]
    dsimp only
    rw [if_pos (by rw [BEq.rfl]; rfl)]
  case neither =>
    rintro s a hd ⟨hr, hlt, hnone⟩
    rw [aBody_ok hd hr rfl]
    dsimp only
    rw [if_neg (Nat.not_le.mpr hlt), if_neg ?_]
    rcases hnone with hidle | hother
    · rw [hidle]
      exact Bool.false_ne_true
    · cases hhead : (s.eng s.curClu k).head with
      | none => simp only [Bool.and_false, Bool.false_eq_true, not_false_eq_true]
      | some q => simp only [beq_eq_false_iff_ne.mpr (hother q hhead), Bool.and_false, Bool.false_eq_true, not_false_eq_true]

/-! ### The matrix unit (16 R316 to R325) -/

/-- A command of the matrix unit issues its operation when its checks pass. -/
theorem matrixBody_runs {i : Instr} {rs : List Nat} {d m k : Nat} {chk : State → Activation → Refused}
    {w : State → Activation → Work} {pins : State → Activation → Nat → List (Nat × Nat × Nat)}
    (h : ∀ s, exec i s = dispatch .a (matrixBody rs d m k chk w pins) s) :
    ARuns i (fun s a _ => CanIssue s a (matrixId k) (m == 1) ∧ Readable a rs ∧ chk s a = none)
      (fun s a e => issuedMatrix s a e (matrixId k) d (m == 1) (w s a) (pins s a)) :=
  body_runs h fun _ _ hd hp => matrixBody_ok hd hp.1 hp.2.1 hp.2.2

theorem mrdBody_ok {s : State} {a : Activation} {q x k : Nat} {flags : Bool} (hd : Ready s .a a) (hu : CanUse s a)
    (hq : a.ldqFree q = true) (hr : Readable a [x]) (hlt : a.lo x < 2 ^ 17)
    (hrange : flags = false → fld (a.lo x) 8 9 + 4 ≤ 512) :
    mrdBody q x k flags s = .ok (
      let c := s.newAcc (a.headEntry .a) (.mrd q s.curClu (matrixId k) (s.timeline s.curClu (matrixId k)).issued.toNat
        (fld (a.lo x) 0 8) (fld (a.lo x) 8 9) flags) 0 0 false false false
      let t := s.takeId.setCur (a.setLdq q (a.ldq q ++ [{ wait := s.nextId }]))
      { t with accs := t.accs ++ [c] }) := by
  have hok : (flags || decide (fld (a.lo x) 8 9 + 4 ≤ 512)) = true := by
    cases flags with
    | true => rfl
    | false => exact decide_eq_true (hrange rfl)
  rw [mrdBody, orderly_ok hd hu.1, hd.cur, hq, Att.need_true, aBody_ok hd hr rfl]
  dsimp only
  rw [guardCluster_ok hu.2, decide_eq_true hlt, Att.check_true, hok, Att.check_true]

/-- Settles O25: the waits and checks of each command are passed. -/
theorem matrixCommandsComplete : Obligations.MatrixCommandsComplete := by
  unfold Obligations.MatrixCommandsComplete
  refine ⟨fun x q k => ⟨body_runs (fun _ => rfl) ?macq, body_runs (fun _ => rfl) ?mrel, parkedBody_runs (fun _ => rfl),
      parkedBody_runs (fun _ => rfl), fun r b => body_runs (fun _ => rfl) ?lnscfg, ?mrd⟩,
    fun d x y m k => ⟨matrixBody_runs (fun _ => rfl), matrixBody_runs (fun _ => rfl), matrixBody_runs (fun _ => rfl),
      matrixBody_runs (fun _ => rfl), matrixBody_runs (fun _ => rfl), matrixBody_runs (fun _ => rfl)⟩⟩
  case macq =>
    rintro s a hd ⟨hu, hr, hlt, hclaim⟩
    rw [orderly_ok hd hu.1, aBody_ok hd hr rfl]
    dsimp only
    rw [guardCluster_ok hu.2, decide_eq_true hlt, Att.check_true, hclaim]
  case mrel =>
    rintro s a hd ⟨hu, hr, hlt, hdone⟩
    rw [orderly_ok hd hu.1, aBody_ok hd hr rfl]
    dsimp only
    rw [guardCluster_ok hu.2, decide_eq_true hlt, Att.check_true, hdone, BEq.rfl, Att.need_true]
  case lnscfg =>
    rintro s a hd ⟨hu, hpop, hnest⟩
    rw [orderly_ok hd hu.1, hd.cur, hpop]
    dsimp only
    rw [aBody_ok hd (readable_nil a) rfl, guardCluster_ok hu.2, hnest]
    rfl
  case mrd =>
    simp only [List.forall_mem_cons, List.not_mem_nil, false_imp_iff, implies_true, and_true]
    exact ⟨body_runs (fun _ => rfl) fun _ _ hd ⟨hu, hq, hr, hlt, hrange⟩ => mrdBody_ok hd hu hq hr hlt fun _ => hrange.resolve_left Bool.false_ne_true,
      body_runs (fun _ => rfl) fun _ _ hd ⟨hu, hq, hr, hlt, _⟩ => mrdBody_ok hd hu hq hr hlt nofun⟩

/-! ### Chains (15 R290, R294; 17 R339 to R342) -/

/-- Settles O26: the waits and checks of each command are passed. -/
theorem chainsComplete : Obligations.ChainsComplete := by
  unfold Obligations.ChainsComplete
  intro d x y m r k
  refine ⟨body_runs (fun _ => rfl) ?bond, body_runs (fun _ => rfl) ?prog, body_runs (fun _ => rfl) ?keep,
    body_runs (fun _ => rfl) ?start, body_runs (fun _ => rfl) ?resume, body_runs (fun _ => rfl) ?abandon,
    statusBody_runs (fun _ => rfl), body_runs (fun _ => rfl) ?noGrad, fun hx => body_runs (fun _ => rfl) ?grad⟩
  case bond =>
    rintro s a hd ⟨hu, hfree, hr, hone, hmax⟩
    rw [chainBody_ok hd hu (fun _ => hfree) hr]
    exact firstBad_forall (by simp [hone, hmax]) _
  case prog =>
    rintro s a hd ⟨hu, hfree, hr, ⟨hxt, hxp, hxb, -⟩, ⟨hyt, hyp, -⟩, hbuf⟩
    have hperms : (a.reg x).perm permLD = true ∧ (a.reg x).perm permENG = true := ⟨hxp _ (by simp), hxp _ (by simp)⟩
    have hperms' : (a.reg y).perm permLD = true ∧ (a.reg y).perm permST = true ∧ (a.reg y).perm permENG = true :=
      ⟨hyp _ (by simp), hyp _ (by simp), hyp _ (by simp)⟩
    have h64 : 64 ≤ capBytes (a.reg x) := by
      unfold capBytes
      omega
    rw [chainBody_ok hd hu (fun _ => hfree) hr]
    dsimp only
    rw [firstBad_forall (by simp [hxt, hyt, hperms, hperms']), hbuf, Refused.guard_none, decide_eq_true h64, Att.check_true]
  case keep =>
    rintro s a hd ⟨hu, hr, hkeep⟩
    rw [chainBody_ok (idle := false) hd hu nofun hr]
    dsimp only
    rw [sendFault_curClu, hkeep, Refused.guard_none]
  case start =>
    rintro s a hd ⟨hu, hfree, htag⟩
    rw [chainBody_ok hd hu (fun _ => hfree) (readable_nil a)]
    dsimp only
    rw [htag, Att.check_true]
    rfl
  case resume =>
    rintro s a hd ⟨hu, hr, hp⟩
    rw [chainBody_ok (idle := false) hd hu nofun hr]
    dsimp only
    rw [sendFault_curClu, parkedCheck_ok hp]
  case abandon =>
    rintro s a hd ⟨hu, hr, hp⟩
    rw [chainBody_ok (idle := false) hd hu nofun hr]
    dsimp only
    rw [sendFault_curClu, parkedCheck_ok hp]
  case noGrad =>
    rintro s a hd ⟨hu, hfree, hr⟩
    rw [chainBody_ok hd hu (fun _ => hfree) hr]
    rfl
  case grad =>
    rintro s a hd ⟨hu, hfree, hr, hgrad⟩
    rw [chainBody_ok hd hu (fun _ => hfree) hr]
    dsimp only
    rw [if_neg hx, hgrad, Refused.guard_none]

/-! ### Grammars (18 R347, R351; 20 R376 to R384) -/

/-- Settles O27: the waits and checks of each command are passed. -/
theorem grammarsComplete : Obligations.GrammarsComplete := by
  unfold Obligations.GrammarsComplete
  intro d x y m o k
  dsimp only
  refine ⟨fun v w rest => body_runs (fun _ => rfl) ?set, body_runs (fun _ => rfl) ?red, body_runs (fun _ => rfl) ?scan,
    body_runs (fun _ => rfl) ?scanX, body_runs (fun _ => rfl) ?mv, body_runs (fun _ => rfl) ?attr,
    statusBody_runs (fun _ => rfl), parkedBody_runs (fun _ => rfl), parkedBody_runs (fun _ => rfl)⟩
  case red => exact fun _ _ hd ⟨hi, hr, hc⟩ => grammarBody_ok hd hi hr hc
  case scan => exact fun _ _ hd ⟨hi, hr, hc⟩ => grammarBody_ok hd hi hr hc
  case scanX => exact fun _ _ hd ⟨hi, hr, hc⟩ => grammarBody_ok hd hi hr hc
  case mv => exact fun _ _ hd ⟨hi, hr, hc⟩ => grammarBody_ok hd hi hr hc
  case attr => exact fun _ _ hd ⟨hi, hr, hc⟩ => grammarBody_ok hd hi hr hc
  rintro s a hd ⟨hu, hsdq, hfree, hr, ⟨hxt, hxp, -⟩, ⟨hyt, hyp, -⟩, hfields, hranges⟩
  have hdesc : packFields 128 [v.toNat, w.toNat] = v.toNat + 2 ^ 128 * w.toNat := by
    rw [packFields, packFields, packFields, Nat.mod_eq_of_lt v.isLt, Nat.mod_eq_of_lt w.isLt, Nat.mul_zero, Nat.add_zero]
  have hperms : (a.reg x).perm permLD = true ∧ (a.reg x).perm permENG = true := ⟨hxp _ (by simp), hxp _ (by simp)⟩
  have hperms' : (a.reg y).perm permLD = true ∧ (a.reg y).perm permST = true ∧ (a.reg y).perm permENG = true :=
    ⟨hyp _ (by simp), hyp _ (by simp), hyp _ (by simp)⟩
  rw [orderly_ok hd hu.1, hd.cur, hsdq]
  dsimp only
  rw [hfree, Att.need_true, aBody_ok hd hr rfl, hdesc]
  rw [guardCluster_ok hu.2, firstBad_forall (by simp [hxt, hyt, hperms, hperms']),
    firstBad_forall (List.forall_mem_map.mpr fun z hz => by rw [hfields z hz]; rfl),
    firstBad_forall (List.forall_mem_map.mpr fun z hz => decide_eq_true (hranges z hz))]

end Sys2Proof.Machine
end

section
/-! PROOF. The events of the cores (O28): illegal words, starved heads, fetch, and the landing of X results (02 R20, R28;
03 R59 to R61; 07 R130; 13 R243). -/

namespace Sys2Proof.Machine

/-! ### Illegal words and starved heads (02 R20; 03 R59 to R61) -/

/-- The head of an activation outside a gang is starved when the conditions stand, and stood in the turn before. -/
theorem starvesAt_of_starvedPort {s : State} {a : Activation} {h : Half} {q : Nat} (hsolo : a.flow.gang = none)
    (hmay : a.mayDispatch h = true) (hq : starvedPort a a h = some q) :
    s.starvesAt a h = if a.lack h = some q then some q else none := by
  have hleader : s.leaderOf a = a := by rw [State.leaderOf, hsolo]
  simp only [State.starvesAt, hleader, hq, hmay, Bool.true_and, beq_iff_eq]

/-! ### Fetch (07 R130) -/

/-- Every instruction but a hint runs as a dispatch of one half. -/
theorem exec_eq_dispatch {i : Instr} (hi : (encode i).isSome = true) (himm : ∀ v, i ≠ .himm v)
    (hwid : ∀ x y z w, i ≠ .hwid x y z w) (hmod : ∀ x y, i ≠ .hmod x y) (hyld : i ≠ .hyld) :
    ∃ h body, ∀ s, exec i s = dispatch h body s := by
  cases i with
  | himm v => exact absurd rfl (himm v)
  | hwid x y z w => exact absurd rfl (hwid x y z w)
  | hmod x y => exact absurd rfl (hmod x y)
  | hyld => exact absurd rfl hyld
  | add | sub | addi | mul | mulh | mulhu | mulw | mulwu | div | divu | rem | remu | min | max | minu | maxu | adds | addus
  | subs | subus | neg | abs | and | or | xor | andn | andi | ori | xori | shl | shr | sar | shli | shri | sari | rol | roli
  | fshl | fshr | sel | seq | sne | slt | sltu | sle | sleu | seqi | slti | mov | movi | exts | extz | clz | ctz | popc |
  brev | bext | bexts | bdep | paddL4 | paddL8 | paddL16 | paddL32 | psubL4 | psubL8 | psubL16 | psubL32 | pmaxuL4 | pmaxuL8
  | pmaxuL16 | pmaxuL32 | pminuL4 | pminuL8 | pminuL16 | pminuL32 | pmaxsL4 | pmaxsL8 | pmaxsL16 | pmaxsL32 | pminsL4 |
  pminsL8 | pminsL16 | pminsL32 | paddssL4 | paddssL8 | paddssL16 | paddssL32 | rmaxuL4 | rmaxuL8 | rmaxuL16 | rmaxuL32 |
  fadd | fsub | fmul | fma | fmulz | fmin | fmax | frcp | frsq | fexp2 | flog2 | fcmpeq | fcmplt | fcmple | fclass | raddf |
  badd | bmul | bfma | bmax | bmin | cvt | cvtsr | scacc | aadd | asub | aaddi | amul | aand | aor | axor | ashli | ashri |
  asari | aslt | asltu | amovi | aupi | amov | apushq | apopq | cbase | clen | cperm | cget | cclr | ld | ldx | lda | ldc |
  ldnib | st | stm | stx | sta | stc | stnib | amo | amocas | fenceAcq | fenceRel | fenceAr | xfence | bmov | rep | csrr |
  csrw | beq | bne | blt | bge | bltu | bgeu | bxq | bxqz | j | call | ret | jr | loop | endAct | ecall | brk | send | sende
  | reply | jarrive | gang | disband | stacq | strel | dqpush | dqpop | dqsplit | dqsteal | tlwait | tlread | evsig | eret |
  eretEnd | wfi | nop | macq | mrel | mrelRes | mrelAbn | mldb | mspec | mzero | mma | lnscfg | mmas | mrd | mrdFlg | mcopy
  | chbond | chprog | chprogKeep | chrunStart | chrunResume | chrunAbn | chstat | chgrad | grset | grred | grscan | grscanX
  | grmv | grat | grstat | grstatRes | grstatAbn | cpy | cpywp | cpychkCheck | cpychkRes | cpychkAbn => exact ⟨_, _, fun _
  => rfl⟩
  | _ => cases hi

/-- A head that has not been fetched before this turn may not be dispatched. -/
theorem mayDispatch_unseen {a : Activation} {h : Half} (hs : a.f.seen ≤ (a.headEntry h).seq) : a.mayDispatch h = false := by
  rw [Activation.mayDispatch, decide_eq_false (Nat.not_lt.mpr hs), Bool.false_and, Bool.false_and]

/-- Settles O28. -/
theorem coreEventsComplete : Obligations.CoreEventsComplete := by
  unfold Obligations.CoreEventsComplete
  refine ⟨⟨fun w s a => illegalInstruction_traps, fun core ctx half q s a hd hq => ⟨?starved, ?early⟩⟩,
    fun core ctx a => ?fetch, fun i s a hi himm hwid hmod hyld ha hseen => ?unseen, fun core ctx idx a p => ?land⟩
  case starved =>
    intro hl
    show execQueueStarved core ctx half s = _
    simp only [execQueueStarved, show s.act? core ctx = some a from hd.here, starvesAt_of_starvedPort hd.solo hd.may hq, if_pos hl]
  case early =>
    intro hl
    show execQueueStarved core ctx half s = _
    simp only [execQueueStarved, show s.act? core ctx = some a from hd.here, starvesAt_of_starvedPort hd.solo hd.may hq, if_neg hl]
  case fetch =>
    rintro s ⟨ha, hf⟩
    show execFetch core ctx s = _
    simp only [execFetch, ha, hf, if_true]
    rfl
  case unseen =>
    obtain ⟨h, body, hex⟩ := exec_eq_dispatch hi himm hwid hmod hyld
    rw [hex, dispatch_held body ha (mayDispatch_unseen (hseen h))]
  case land =>
    rintro s ⟨ha, hp, hold⟩
    have hnone : (a.pend.take idx).any (fun q => q.dest.meets p.dest) = false :=
      List.any_eq_false.mpr fun q hq => by rw [hold q hq]; exact Bool.false_ne_true
    show execXResultLand core ctx idx s = _
    simp only [execXResultLand, ha, hp, hnone, Bool.false_eq_true, if_false]

end Sys2Proof.Machine
end

section
/-! PROOF. The events of accesses and the service of a steal (O29) (06 R108; 08 R152, R155; 10 R186; 12 R208 to R230). -/

namespace Sys2Proof.Machine

/-! ### Answers (12 R208, R209) -/

/-- The answer of an access that is no load writes no register. -/
theorem answerRegs_of_store {x : Access} (h : x.kind.isLoad = false) : x.answerRegs = [] := by
  unfold Access.answerRegs
  generalize x.kind = k at h
  cases k with
  | store | storeNib | storeCap | join | strel => rfl
  | _ => cases h

/-- Settles O29. -/
theorem accessEventsComplete : Obligations.AccessEventsComplete := by
  unfold Obligations.AccessEventsComplete
  refine ⟨fun idx x => ⟨?load, ?store, fun q k p => ?perform, fun role k => ?grant, fun cause val => ?late,
    fun core ctx a => ?walkDone, fun core ctx va a => ?walkRead, fun clu id w => ?engWalk, fun clu b => ?buffer, fun clu => ?line⟩,
    fun core d x q => ?steal, fun idx k d pkg x q s hq harr hbody hdst hx hk => ?remote⟩
  case load =>
    rintro s ⟨hx, hmrd, hstage, hghost, hload, harr, hchunk, hsteal⟩
    show execLoadDataReturn idx s = _
    simp only [execLoadDataReturn, hx, hmrd, hstage, hload, harr, hghost, bne_self_eq_false, Bool.not_true, Bool.or_self,
      Bool.false_eq_true, if_false]
    rfl
  case store =>
    rintro s ⟨hx, hmrd, hstage, hload, hold, harr⟩
    show execStoreAck idx s = _
    simp only [execStoreAck, hx, hstage, hload, harr, hold, State.deliverAnswer, answerRegs_of_store hload]
    rfl
  case perform =>
    rintro s ⟨hq, harr, hbody, hx, hsteal, hp, hwait⟩
    show execHomePerform idx s = _
    simp only [execHomePerform, hq, harr, hbody, hx, hp, hwait, Bool.not_true, Bool.false_eq_true, if_false]
    split
    next hk _ => exact absurd hk (hsteal _)
    next hk _ => exact absurd hk (hsteal _)
    next => rfl
  case grant =>
    rintro s ⟨hx, hg⟩
    show execStageGrant idx s = _
    simp only [execStageGrant, hx, hg]
  case late =>
    rintro s ⟨hx, hstage, hcomplete, hghost, harr, hseq⟩
    show execLateAccessFault idx s = _
    simp only [execLateAccessFault, hx, hstage, hcomplete, harr, hseq, hghost]
    rfl
  case walkDone =>
    rintro s ⟨hlt, ha, hwalk, hlock, haddr⟩
    show execTranslationWalkDone core ctx s = _
    simp only [execTranslationWalkDone, if_neg (Nat.not_le.mpr hlt), ha, hwalk, beq_iff_eq, if_neg hlock, haddr]
  case walkRead =>
    rintro s ⟨hlt, ha, hwalk, hlock, haddr, hwalker⟩
    show execTranslationWalkDone core ctx s = _
    simp only [execTranslationWalkDone, if_neg (Nat.not_le.mpr hlt), ha, hwalk, beq_iff_eq, if_neg hlock, haddr, hwalker, if_true]
  case engWalk =>
    rintro s ⟨hwalk, hwalker⟩
    show execTranslationWalkDone (8192 + clu) id s = _
    simp only [execTranslationWalkDone, if_pos (Nat.le_add_right 8192 clu), Nat.add_sub_cancel_left, State.engWalkStep, hwalk, hwalker,
      if_true]
  case buffer =>
    rintro s ⟨hb, hns⟩
    show execWcBufferTimeout clu idx s = _
    simp only [execWcBufferTimeout, hb, if_pos hns]
  case line =>
    intro s hasked
    show execCaeCheckIn clu s = _
    simp only [execCaeCheckIn, hasked]
    rfl
  case steal =>
    rintro s ⟨hnet, harr, hdst, hbody, haccs, hk⟩
    show execSidingStealServe core s = _
    simp only [execSidingStealServe, hnet, harr, hdst, hbody, haccs, hk, List.find?_cons, List.any_cons, beq_self_eq_true,
      Bool.and_self, Bool.true_or]
  case remote =>
    have hserved : execHomePerform idx s = .next ((s.dropPacket q.id).remoteSteal x pkg) := by
      simp only [execHomePerform, hq, harr, hbody, hx, hk, hdst, Bool.not_true, Bool.false_eq_true, if_false]
    exact ⟨_, hserved⟩

end Sys2Proof.Machine
end

section
/-! PROOF. Messages (O30), and what copying out a follower does to its leader's record (O31) (08 R135 to R149; 09 R168; 10 R195). -/

namespace Sys2Proof.Machine

/-! ### Messages (08 R135 to R140; 09 R168) -/

/-- A cluster that is not gated has nothing to wake. -/
theorem wake_awake {s : State} {g : Nat} (h : (s.cluster g).gated = none) : s.wake g = s := by rw [State.wake, h]

/-- At a core of a cluster that is not gated an admission wakes nothing. -/
theorem admission_awake {s : State} {core : Nat} (h : (s.cluster (core / 32)).gated = none) :
    (if s.anyAdmissible core then s.wake (core / 32) else s) = s := by rw [wake_awake h, ite_self]

/-- Settles O30. -/
theorem messageEventsComplete : Obligations.MessageEventsComplete := by
  unfold Obligations.MessageEventsComplete
  refine ⟨fun idx core q m t => ?arrival, fun core id m rest => ?depart, fun core => ?urgent, fun core i => ?selected⟩
  case arrival =>
    rintro s ⟨hq, hbody, hdst, harr, hwait, hdeliver⟩
    show execMessageArrival idx s = _
    simp only [execMessageArrival, hq, hbody, hdst, harr, hwait, hdeliver, Bool.not_true, Bool.false_eq_true, if_false]
  case depart =>
    rintro s ⟨hout, hroute⟩
    show execOutboundDepart core s = _
    simp only [execOutboundDepart, hout, Message.dpkg, BitVec.toNat_ofNat, hroute, Bool.false_eq_true, if_false]
  case urgent =>
    rintro s ⟨hfailed, hgated, hclaim, hgang, hparked, hadm⟩
    show execAdmission core s = _
    simp only [execAdmission, admission_awake hgated, hfailed, hclaim, hgang, hparked, List.isEmpty_eq_false_iff.mpr hadm,
      Option.isSome_none, Bool.or_self, Bool.not_false, Bool.false_eq_true, if_false, if_true]
  case selected =>
    rintro s ⟨hfailed, hgated, hclaim, hgang, hparked, hadm, hsaved, hsel, hi⟩
    show execAdmission core s = _
    simp only [execAdmission, admission_awake hgated, hfailed, hclaim, hgang, hparked, hadm, hsaved, hsel,
      List.isEmpty_eq_false_iff.mpr hi, List.isEmpty_nil, Option.isSome_none, Bool.or_self, Bool.not_true, Bool.not_false,
      Bool.false_eq_true, if_false, if_true]

/-! ### Copying out (10 R195) -/

/-- A gang of two whose members are on one core, which no GANG forms (08 R149). -/
def foldedGang (lane : Nat) : Gang := { leaderCore := 0, leaderCtx := 1, lane := lane, size := 2 }

/-- Its leader, which is copied out. -/
def foldedLeader : Activation := { info := { id := 7 }, flow := { gang := some (foldedGang 0) } }

/-- Its follower, a victim with an access that waits for its walk. -/
def foldedFollower : Activation :=
  { info := { id := 5 }
    flow := { gang := some (foldedGang 1), status := .victim true false .running
              walk := some { id := 1, core := 0, act := 5, entry := { pc := 0, wpc := 0, seq := 0 }, kind := .join, va := 0, off := 0 } } }

/-- The part after reset with both on core 0. -/
def foldedState : State :=
  { State.reset with cores := [(0, { Core.reset 0 with
      acts := [(0, foldedFollower)]
      saved := [{ act := foldedLeader, record := {}, ctx := 1, winOut := true, ctxOut := true }] })] }

/-- The word of the follower's access goes back to the leader's buffer, in the record that stands already. -/
theorem foldedState_copyOut :
    exec (.copyOut 0 0) foldedState = .next (foldedState.copyOut 0 0 foldedFollower true false .running) ∧
      ((foldedState.copyOut 0 0 foldedFollower true false .running).core 0).saved.head?.map (fun v => v.act.f.abuf.length) =
        some 1 := ⟨rfl, rfl⟩

/-- Refutes O31: a victim that follows a leader copied out of the same core changes that record when it is copied out, because
the word of its access that waits for a walk goes back to its leader. -/
theorem not_parkingAndRestoringComplete : ¬ Obligations.ParkingAndRestoringComplete := by
  unfold Obligations.ParkingAndRestoringComplete
  rintro ⟨-, -, hcopy, -⟩
  obtain ⟨t, v, ht, -, hsaved, -⟩ := hcopy 0 0 foldedFollower true false .running foldedState rfl rfl rfl rfl rfl rfl
  obtain ⟨hrun, hlen⟩ := foldedState_copyOut
  obtain rfl : _ = t := Host.Outcome.next.inj (hrun.symm.trans ht)
  rw [hsaved] at hlen
  exact Nat.zero_ne_one (Option.some.inj hlen)

end Sys2Proof.Machine
end

section
/-! PROOF. The operations of the engines (O32), the signal box and the commands that arrive by message (O33) (08 R158, R161;
09 R167; 10 R192, R198; 12 R218, R219; 14 to 19). -/

namespace Sys2Proof.Machine

theorem Runs.running {s : State} {clu id : Nat} {c : EngCmd} (h : Runs s clu id c) : s.engRunning clu id = some c := h

/-! ### Copies and the matrix unit (14 R263; 16 R307 to R311) -/

/-- A copy whose source is verified where that is asked for has nothing to verify. -/
theorem verify_not_due {n : Nat} {verified : Bool} (h : n = 2 → verified = true) : ¬ (n = 2 ∧ (!verified) = true) := by
  rintro ⟨hn, hv⟩
  rw [h hn] at hv
  cases hv

/-- A matrix operation that is not done already begins with its first step. -/
theorem matrixOpBegin_begins {clu k : Nat} {c : EngCmd} {s : State} (hc : s.engMayBegin clu (matrixId k) = some c)
    (hw : c.work ≠ .done) : exec (.matrixOpBegin clu k) s =
      .next ((s.setMatrix clu (matrixId k) { s.matrix clu (matrixId k) with step := 0 }).setRun clu (matrixId k) .running) := by
  show execMatrixOpBegin clu k s = _
  simp only [execMatrixOpBegin, hc]

/-! ### Chains (15 R290, R293) -/

/-- An operation that may begin heads its queue. -/
theorem queue_of_engMayBegin {s : State} {clu id : Nat} {c : EngCmd} (h : s.engMayBegin clu id = some c) :
    ∃ rest, (s.eng clu id).queue = c :: rest := by
  unfold State.engMayBegin at h
  dsimp only at h
  split at h
  next => cases h
  next d rest hq =>
    split at h
    next => exact ⟨rest, Option.some.inj h ▸ hq⟩
    next => cases h

/-! ### Stopping (10 R198) -/

theorem filter_not_contains_self (l : List Nat) : l.filter (fun r => !(l.contains r)) = [] :=
  List.filter_eq_nil_iff.mpr fun r hr => by simp [hr]

/-- What is left of a list without its members other than `a` is its members `a`. -/
theorem filter_not_contains_filter_ne (l : List Nat) (a : Nat) :
    l.filter (fun r => !((l.filter (fun x => x != a)).contains r)) = l.filter (fun r => r == a) :=
  List.filter_congr fun r hr => by by_cases h : r = a <;> simp [h, hr]

theorem not_contains_filter_ne (l : List Nat) (a : Nat) : (l.filter (fun x => x != a)).contains a = false := by simp

/-- Settles O32. -/
theorem engineOperationsComplete : Obligations.EngineOperationsComplete := by
  unfold Obligations.EngineOperationsComplete
  refine ⟨fun clu k c r ca cb => ⟨?copyBegin, ?copyRow, ?copyChunk, ?copyCheck, ?copyDone, fun s hs => matrixOpBegin_begins hs.1 hs.2,
      ?iteration, ?matrixDone, ?chainBegin, ?chainStep, fun g => ?grammarBegin, fun g p => ?grammarWalk, fun g => ⟨?grammarDone, ?grammarWork⟩⟩,
    fun clu id code val c rest => ⟨?park, ?stop, ?stopOthers, fun t => ?reload⟩⟩
  case copyBegin =>
    intro s hc
    show execCopyOpBegin clu k s = _
    simp only [execCopyOpBegin, hc]
  case copyRow =>
    rintro s ⟨hrun, hrow, hasked, hver, hcdst⟩
    show execCopyRowDelivered clu k s = _
    simp only [execCopyRowDelivered, hrun.running, if_neg (Nat.not_le.mpr hrow), hasked, hcdst, Bool.false_and, Bool.false_eq_true, if_false]
    exact if_neg (verify_not_due hver)
  case copyChunk =>
    rintro s ⟨hrun, hrow, hasked, hver, hcdst⟩
    show execCopyRowDelivered clu k s = _
    simp only [execCopyRowDelivered, hrun.running, if_neg (Nat.not_le.mpr hrow), hasked, hcdst, Bool.false_and, Bool.false_eq_true, if_false,
      if_true]
    exact if_neg (verify_not_due hver)
  case copyCheck =>
    rintro s ⟨hrun, hver, hasked⟩
    show execCopyRowDelivered clu k s = _
    simp only [execCopyRowDelivered, hrun.running, hver, hasked, Bool.or_self, Bool.false_eq_true, if_false]
  case copyDone =>
    rintro s ⟨hrun, hrow⟩
    show execCopyOpPerformed clu k s = _
    simp only [execCopyOpPerformed, hrun.running, decide_eq_true hrow, if_true]
  case iteration =>
    rintro s ⟨hrun, hstep, hasked, hkept⟩
    show execMmaIteration clu k s = _
    simp only [execMmaIteration, hrun.running, hasked, hkept, decide_eq_false (Nat.not_le.mpr hstep),
      Bool.or_self, Bool.false_eq_true, if_false]
  case matrixDone =>
    rintro s ⟨hrun, hstep⟩
    show execMatrixOpPerformed clu k s = _
    simp only [execMatrixOpPerformed, hrun.running, if_pos hstep]
  case chainBegin =>
    intro s hc
    obtain ⟨rest, hq⟩ := queue_of_engMayBegin hc
    show execChainRunBegin clu k s = _
    simp only [execChainRunBegin, hq, hc]
  case chainStep =>
    rintro s ⟨hrun, hmid⟩
    show execChainStep clu k s = _
    simp only [execChainStep, hrun.running]
    refine if_neg ?_
    rintro ⟨hasked, hnot⟩
    rw [hmid hasked] at hnot
    cases hnot
  case grammarBegin =>
    rintro s ⟨hc, hrest, htaken⟩
    show execGrammarOpBegin clu k s = _
    simp only [execGrammarOpBegin, hc, hrest, htaken, Bool.false_eq_true, if_false]
  case grammarWalk =>
    rintro s ⟨hc, hrest⟩
    show execGrammarOpBegin clu k s = _
    simp only [execGrammarOpBegin, hc, hrest]
  case grammarDone =>
    rintro s ⟨hrun, hfin⟩
    show execGrammarOpPerformed clu k s = _
    simp only [execGrammarOpPerformed, hrun.running, hfin, if_true]
  case grammarWork =>
    rintro s ⟨hrun, hfin, hasked⟩
    show execGrammarOpPerformed clu k s = _
    simp only [execGrammarOpPerformed, hrun.running, hfin, hasked, Bool.false_and, Bool.false_eq_true,
      if_false]
  case park =>
    rintro s ⟨hrun, hq⟩
    show execEngineFaultPark clu id s = _
    simp only [execEngineFaultPark, State.sendFault, hrun, hq]
  case stop =>
    rintro s ⟨hq, hne, hbound⟩
    show execEnginePreemptStop clu id s = _
    have hall : (s.eng clu id).asked.filter (fun _ => true) = (s.eng clu id).asked := List.filter_eq_self.mpr fun _ _ => rfl
    simp only [execEnginePreemptStop, EngCtx.head, hq, List.head?_cons, hbound, Bool.or_true, hall,
      List.isEmpty_eq_false_iff.mpr hne, Bool.false_eq_true, if_false, List.any_beq, filter_not_contains_self]
  case stopOthers =>
    rintro s ⟨hq, hbound, hne⟩
    show execEnginePreemptStop clu id s = _
    have hgo : (s.eng clu id).asked.filter (fun r => !(c.region == r)) = (s.eng clu id).asked.filter (fun r => r != c.region) :=
      List.filter_congr fun r _ => by rw [bne, BEq.comm]
    simp only [execEnginePreemptStop, EngCtx.head, hq, List.head?_cons, hbound, hgo,
      List.isEmpty_eq_false_iff.mpr hne, Bool.false_eq_true, if_false, List.any_beq, not_contains_filter_ne,
      filter_not_contains_filter_ne, Bool.or_false]
  case reload =>
    rintro s ⟨hid, hlost, hrun, hq, hstopped, htaken, hok⟩
    show execMacroReload clu id s = _
    simp only [execMacroReload, EngCtx.head, hlost, hrun, hq, hstopped, htaken, if_pos hid, hok, List.head?_nil, List.isEmpty_nil, Bool.not_true,
      Bool.or_self, Bool.false_eq_true, if_false]

/-! ### The signal box and commands by message (08 R158, R161; 09 R167) -/

/-- Settles O33. -/
theorem signalsAndCommandsComplete : Obligations.SignalsAndCommandsComplete := by
  unfold Obligations.SignalsAndCommandsComplete
  refine ⟨fun clu s _ => rfl, fun clu t => ?timer, fun idx clu id q c => ⟨fun t => ?acts, fun region va => ?walks, fun code val => ?refused⟩⟩
  case timer =>
    rintro s ⟨h8, hperiod, hnext⟩
    show execTimerPulse clu t s = _
    exact if_neg (not_or.mpr ⟨hperiod, not_or.mpr ⟨Nat.not_lt.mpr hnext, Nat.not_le.mpr h8⟩⟩)
  case acts =>
    rintro s ⟨hq, hbody, hdst, harr, hhold, hact⟩
    show execEngineCommandArrival idx s = _
    simp only [execEngineCommandArrival, hq, hbody, hdst, harr, hhold, hact, Bool.not_true, Bool.or_self, Bool.false_eq_true, if_false]
  case walks =>
    rintro s ⟨hq, hbody, hdst, harr, hhold, hact⟩
    show execEngineCommandArrival idx s = _
    simp only [execEngineCommandArrival, hq, hbody, hdst, harr, hhold, hact, Bool.not_true, Bool.or_self, Bool.false_eq_true, if_false]
  case refused =>
    rintro s ⟨hq, hbody, hdst, harr, hhold, hact⟩
    show execEngineCommandArrival idx s = _
    simp only [execEngineCommandArrival, hq, hbody, hdst, harr, hhold, hact, Bool.not_true, Bool.or_self, Bool.false_eq_true, if_false]

end Sys2Proof.Machine
end

section
/-! PROOF. Slots, records and launches over several packages (O35), contracts, holders, energy and power (O36) (22 R402 to R415;
10 R199; 23 R418 to R421). -/

namespace Sys2Proof.Machine

/-! ### Slots and launches (22 R402 to R407) -/

/-- A slot that is free or done is neither submitted nor being served. -/
theorem slot_idle {b : BitVec 2} (h : b = 0 ∨ b = 3) : ¬ (b = 1 ∨ b = 2) := by
  rcases h with rfl | rfl <;> decide

theorem launch_serves {vf k : Nat} {s : State} (h : Served s vf k 0) :
    exec (.launch vf k) s = .next ((serving s vf k).launchOn vf k (s.slotRec vf k) false) := by
  obtain ⟨-, hidle, -⟩ := id h
  show execLaunch vf k s = _
  rw [execLaunch, if_neg (fun hw => by rw [hidle] at hw; cases hw.1), serveSlot_served h (by decide)]

/-- A record is prepared for the first time when no preparation of its slot stands. -/
theorem prepare_first {s : State} {vf k : Nat} (h : ∀ p ∈ s.prepare, p.coord = none → p.vf = vf → p.slot ≠ k) :
    s.prepare.find? (fun p => p.coord.isNone && p.vf == vf && p.slot == k) = none := by
  refine List.find?_eq_none.mpr fun p hp => ?_
  simp only [Bool.and_eq_true, Option.isNone_iff_eq_none, beq_iff_eq]
  rintro ⟨⟨hcoord, hvf⟩, hslot⟩
  exact h p hp hcoord hvf hslot

/-- Settles O35. -/
theorem slotsAndLaunchesComplete : Obligations.SlotsAndLaunchesComplete := by
  unfold Obligations.SlotsAndLaunchesComplete
  refine ⟨fun vf k v => ⟨?door, ?write, fun s => launch_serves, ?relaunch, ?messages, ?register, ?ends⟩,
    fun vf k => ?prepare, fun pkg r => ?receive, fun pkg p => ?ack, fun pkg st p => ?refusal, fun p => ?timeout, fun p => ?inTime,
    fun p => ?commit, fun p => ?abort⟩
  case door =>
    rintro s ⟨hk, hstat⟩
    have hfld : fld k 0 3 = k := by
      rw [fld]
      omega
    show execDoor vf k s = _
    simp only [execDoor, hfld]
    exact if_neg (not_or.mpr ⟨fun h => h (Nat.mod_eq_of_lt (by omega)), slot_idle hstat⟩)
  case write =>
    rintro s ⟨hk, hstat⟩
    exact if_neg (not_or.mpr ⟨Nat.not_le.mpr hk, slot_idle hstat⟩)
  case relaunch =>
    rintro s hw
    show execLaunch vf k s = _
    rw [execLaunch, if_pos hw]
  case messages =>
    rintro s ⟨hphase, hkind, hregion⟩
    show execLaunchFirstMessages vf k s = _
    rw [execLaunchFirstMessages, if_neg (fun h => h.elim (fun h => h hphase) (fun h => h hkind)),
      if_neg (by rw [Option.isNone_iff_eq_none]; exact Option.isSome_iff_ne_none.mp hregion)]
  case register =>
    rintro s ⟨hs, hoff⟩
    show execRegister vf k s = _
    rw [execRegister, serveSlot_served hs (by decide), if_neg (Nat.not_le.mpr hoff)]
  case ends =>
    rintro s ⟨hs, hoff, hregion⟩
    show execRegionEnd vf k s = _
    rw [execRegionEnd, serveSlot_served hs (by decide), if_pos ⟨hoff, hregion⟩]
  case prepare =>
    rintro s ⟨hs, hfirst, hown, hready⟩
    show execPrepare vf k s = _
    simp only [execPrepare, prepare_first hfirst]
    rw [serveSlot_served hs (by decide), hown, hready]
    rfl
  case receive =>
    rintro s ⟨hnew, hown, hother, hready⟩
    show execPrepareReceive pkg r s = _
    simp only [execPrepareReceive, hnew, hown, hready, beq_eq_false_iff_ne.mpr hother, Bool.not_true, Bool.or_self, Bool.false_eq_true,
      if_false]
    rfl
  case ack =>
    rintro s ⟨hp, hlimit⟩
    show execPrepareAckReceive pkg s = _
    simp only [execPrepareAckReceive, hp, if_neg (Nat.not_lt.mpr hlimit)]
  case refusal =>
    intro s hp
    show execPrepareRefusalReceive pkg st s = _
    simp only [execPrepareRefusalReceive, hp]
  case timeout =>
    rintro s ⟨hp, hcoord, hawait, hlimit⟩
    show execPrepareTimeout s = _
    have hlate : (p.coord.isNone && !p.awaiting.isEmpty && decide (p.limit ≤ s.ns)) = true := by
      rw [hcoord, List.isEmpty_eq_false_iff.mpr hawait, decide_eq_true hlimit]
      rfl
    simp only [execPrepareTimeout, hp, List.filter_cons, hlate, if_true, List.filter_nil, List.foldl_cons, List.foldl_nil]
  case inTime =>
    rintro s ⟨hp, hwhy⟩
    show execPrepareTimeout s = _
    have hnot : ¬ (p.coord.isNone && !p.awaiting.isEmpty && decide (p.limit ≤ s.ns)) = true := by
      simp only [Bool.and_eq_true, Bool.not_eq_true', List.isEmpty_eq_false_iff, decide_eq_true_iff]
      rintro ⟨⟨-, hawait⟩, hlimit⟩
      exact hwhy.elim hawait (Nat.not_lt.mpr hlimit)
    simp only [execPrepareTimeout, hp, List.filter_cons, if_neg hnot, List.filter_nil, List.foldl_nil]
  case commit =>
    intro s hp
    show execCommit s = _
    simp only [execCommit, hp]
  case abort =>
    intro s hp
    show execAbort s = _
    simp only [execAbort, hp]

/-! ### Jobs and holders (22 R406, R410, R413) -/

/-- No decision is due while the quantum is the same and the holder is eligible, or a draw has left none (22 R413). -/
theorem settled_of_holder {s : State} {g key : Nat} (hq : (s.cluster g).quantum = s.quantumNow g)
    (h : (s.cluster g).holder = some key ∧ (∃ e ∈ s.regions, s.eligibleOn g e = true ∧ e.1 = key) ∨
      (s.cluster g).holder = none ∧ (s.cluster g).vacant = true) : s.settled g = true := by
  rw [State.settled, beq_iff_eq.mpr hq]
  rcases h with ⟨hh, e, he, hel, hk⟩ | ⟨hh, hv⟩
  · simp only [hh, Bool.true_and]
    exact List.any_eq_true.mpr ⟨e, List.mem_filter.mpr ⟨he, hel⟩, beq_iff_eq.mpr hk⟩
  · simp only [hh, hv, Bool.and_self]

/-- Settles O36. -/
theorem schedulerAndEnergyComplete : Obligations.SchedulerAndEnergyComplete := by
  unfold Obligations.SchedulerAndEnergyComplete
  refine ⟨⟨fun part off => ?release, fun part off => ?period, fun part off => ?miss, fun part off => ?spent, fun part off => ?complete,
    fun g key => ⟨?placing, ?job, ?settled, ?waiter, ?draw, ?nobody⟩⟩,
    ?charge, fun part off r => ?window, fun unit key => ?unit, fun g => ?gate, fun g s _ => rfl⟩
  case release =>
    rintro s ⟨hadm, hrel, hnext, hdone⟩
    have hready : ((s.region (regionKey part off)).contract.active && !s.jobDone (regionKey part off)) = false := by
      rcases hdone with h | h <;> simp only [h, Bool.false_and, Bool.not_true, Bool.and_false]
    show execContractRelease part off s = _
    simp only [execContractRelease, hadm, Option.isNone_eq_false_iff.mpr hrel, decide_eq_false (Nat.not_lt.mpr hnext), hready, Bool.not_true,
      Bool.or_self, Bool.false_eq_true, if_false]
  case period =>
    rintro s ⟨hadm, hrel, hnext, hactive, hdone⟩
    show execContractRelease part off s = _
    simp only [execContractRelease, hadm, Option.isNone_eq_false_iff.mpr hrel, decide_eq_false (Nat.not_lt.mpr hnext), hactive, hdone,
      Bool.not_true, Bool.not_false, Bool.and_self, Bool.or_self, Bool.false_eq_true, if_false, if_true]
  case miss =>
    rintro s ⟨hadm, hrel, hjudged, hdue, hactive, hdone⟩
    show execDeadlineExpiry part off s = _
    simp only [execDeadlineExpiry, hadm, Option.isNone_eq_false_iff.mpr hrel, hjudged, decide_eq_false (Nat.not_lt.mpr hdue), hactive, hdone,
      Bool.not_true, Bool.not_false, Bool.and_self, Bool.or_self, Bool.false_eq_true, if_false, if_true]
    rfl
  case spent =>
    rintro s ⟨hheld, hleft⟩
    show execBudgetExhausted part off s = _
    simp only [execBudgetExhausted, Option.isNone_eq_false_iff.mpr hheld, hleft]
    rfl
  case complete =>
    rintro s ⟨hactive, hdone⟩
    show execJobComplete part off s = _
    simp only [execJobComplete, hactive, hdone, Bool.not_true, Bool.or_self, Bool.false_eq_true, if_false]
  case placing =>
    intro s hp
    show Host.Outcome.next (State.redecide _ g) = _
    simp only [State.redecide, hp, if_true]
  case job =>
    rintro s ⟨hp, hj, hback⟩
    show Host.Outcome.next (State.redecide _ g) = _
    simp only [State.redecide, hp, hj, hback, Bool.false_eq_true, if_false]
  case settled =>
    rintro s ⟨hp, hj, hq, hholder⟩
    show Host.Outcome.next (State.redecide _ g) = _
    simp only [State.redecide, hp, hj, settled_of_holder hq hholder, Bool.false_eq_true, if_false, if_true]
  case waiter =>
    rintro s ⟨hp, hj, hs, hw, hback⟩
    show Host.Outcome.next (State.redecide _ g) = _
    simp only [State.redecide, hp, hj, hs, hw, hback, Bool.false_eq_true, if_false]
  case draw =>
    rintro s ⟨hp, hj, hs, hw, hd, hback⟩
    show Host.Outcome.next (State.redecide _ g) = _
    simp only [State.redecide, hp, hj, hs, hw, State.drawOn, hd, hback, List.head?_nil, Bool.false_eq_true, if_false]
  case nobody =>
    rintro s ⟨hp, hj, hs, hw, hnone, hholder, hidle, hseq⟩
    show Host.Outcome.next (State.redecide _ g) = _
    simp only [State.redecide, hp, hj, hs, hw, State.drawOn, hnone, drawHolder, hholder, hidle, hseq, List.head?_nil, Bool.false_eq_true, if_false]
  case charge =>
    intro s hlt
    show execEnergyCharge s = _
    rw [execEnergyCharge, if_neg (Nat.not_le.mpr hlt)]
  case window =>
    rintro s ⟨hr, hadm, hne⟩
    show execEnergyWindowBoundary part off s = _
    simp only [execEnergyWindowBoundary, hr, hadm, beq_eq_false_iff_ne.mpr hne, Bool.or_self, Bool.false_eq_true, if_false]
  case unit =>
    intro s hk
    show execLazyUnitRestore unit s = _
    simp only [execLazyUnitRestore, hk]
  case gate =>
    rintro s ⟨hgated, hholder, henc, htrace⟩
    have hframes : (s.cluster g).enc.any (fun x => x.2.frame.isSome) = false :=
      List.any_eq_false.mpr fun x hx => by rw [henc x hx]; exact Bool.false_ne_true
    show execClusterPowerGate g s = _
    simp only [execClusterPowerGate, hgated, hholder, hframes, htrace, Option.isNone_none, Bool.not_false, Bool.and_self, if_true]

end Sys2Proof.Machine
end

section
/-! PROOF. Reset, readiness, failures, links and the host (O37), attestation (O38), debugging (O39), and the writes of registers,
CAPACITY and ENCSTAT (O40) (06 R117; 22 R393, R416, R417; 23 R422 to R434). -/

namespace Sys2Proof.Machine

/-! ### Readiness, failures and the host (22 R393; 23 R422 to R427) -/

/-- A self-test of a stack, a link or an encoder sets its readiness bit. -/
theorem selfTestPass_unit {s : State} {fn : Nat} (h : 258 ≤ fn) :
    exec (.selfTestPass fn) s = .next (s.setPlatform (
      if fn < 270 then { s.platform with hbm := s.platform.hbm ||| BitVec.ofNat 12 (2 ^ (fn - 258)) }
      else if fn < 282 then { s.platform with link := s.platform.link ||| BitVec.ofNat 12 (2 ^ (fn - 270)) }
      else if fn < 314 then { s.platform with enc := s.platform.enc ||| BitVec.ofNat 32 (2 ^ (fn - 282)) }
      else s.platform)) := by
  show execSelfTestPass fn s = _
  rw [execSelfTestPass, if_neg (by omega), if_neg (by omega), if_neg (by omega)]

/-- Settles O37. -/
theorem platformAndHostComplete : Obligations.PlatformAndHostComplete := by
  unfold Obligations.PlatformAndHostComplete
  refine ⟨⟨fun s _ => rfl, fun fn => ?cluster, fun s _ => rfl, fun s _ => rfl, fun n hn s _ => ?stack, fun n hn s _ => ?link,
      fun n hn s _ => ?encoder, fun n => ?core, fun n => ?clusterFails, fun core ctx va pa a => ?access, fun clu id va pa c => ?engine,
      fun l hl => ?down⟩,
    fun vf pa len v => ⟨?read, ?readOutside, ?write, ?writeOutside⟩⟩
  case cluster =>
    rintro s ⟨hfn, hlost⟩
    show execSelfTestPass fn s = _
    rw [execSelfTestPass, if_pos hfn, hlost]
    rfl
  case stack =>
    rw [selfTestPass_unit (by omega), if_pos (by omega), Nat.add_sub_cancel_left]
  case link =>
    rw [selfTestPass_unit (by omega), if_neg (by omega), if_pos (by omega), Nat.add_sub_cancel_left]
  case encoder =>
    rw [selfTestPass_unit (by omega), if_neg (by omega), if_neg (by omega), if_pos (by omega), Nat.add_sub_cancel_left]
  case core =>
    rintro s ⟨hn, hworks⟩
    show execUnitFailure 0 n s = _
    simp only [execUnitFailure, if_neg (Nat.not_le.mpr hn), hworks, Bool.false_eq_true, if_false]
  case clusterFails =>
    rintro s ⟨hn, hlost⟩
    show execUnitFailure 1 n s = _
    simp only [execUnitFailure, if_pos (show n < 256 ∧ (!(s.platform.lostClu.contains n)) = true from ⟨hn, by rw [hlost]; rfl⟩)]
  case access =>
    rintro s ⟨hcore, ha⟩
    show execUncorrectableMemory core ctx va pa s = _
    simp only [execUncorrectableMemory, if_neg (Nat.not_le.mpr hcore), ha]
  case engine =>
    intro s hc
    show execUncorrectableMemory (8192 + clu) id va pa s = _
    simp only [execUncorrectableMemory, if_pos (Nat.le_add_right 8192 clu), Nat.add_sub_cancel_left, State.engineError, hc]
  case down =>
    rintro s ⟨hnet, hprep⟩
    show execLinkDown l s = _
    simp only [execLinkDown, if_neg (Nat.not_le.mpr hl), State.setHealth, State.setPlatform, hnet, hprep, List.foldl_nil]
  case read =>
    rintro s ⟨hwin, hfirst⟩
    have hnone : s.net.any (fun q => q.src == .host && (runHomes pa len).contains q.dst) = false :=
      List.any_eq_false.mpr fun q hq => by
        simp only [Bool.and_eq_true, beq_iff_eq, not_and, Bool.not_eq_true]
        exact hfirst q hq
    show execCxlMemRead vf pa len s = _
    simp only [execCxlMemRead, hwin, hnone, Bool.not_true, Bool.false_eq_true, if_false]
  case readOutside =>
    intro s hwin
    show execCxlMemRead vf pa len s = _
    simp only [execCxlMemRead, hwin, Bool.not_false, if_true]
  case write =>
    intro s hwin
    show execCxlMemWrite vf pa len v s = _
    simp only [execCxlMemWrite, hwin, Bool.not_true, Bool.false_eq_true, if_false]
  case writeOutside =>
    intro s hwin
    show execCxlMemWrite vf pa len v s = _
    simp only [execCxlMemWrite, hwin, Bool.not_false, if_true]

/-! ### Attestation (22 R416) -/

/-- A request that needs negotiated algorithms is answered once they are. -/
theorem negotiated_answers {s : State} {fn code : Nat} {k : Spdm → State} (h : (s.spdmOf fn).negotiated = true) :
    s.negotiated fn code k = k (s.spdmOf fn) := if_pos h

/-- Settles O38. -/
theorem attestationComplete : Obligations.AttestationComplete := by
  unfold Obligations.AttestationComplete
  refine fun fn slot ix => ⟨fun s _ => rfl, fun s hv => ?caps, fun s hc => ?algorithms, fun s hn => ?digests, ?certificate, ?challenge,
    ?measurement, fun s hn => ?measurements, ?exchange, fun s he => ?finish⟩
  case caps =>
    exact if_neg (by rw [show (s.spdmOf fn).version = true from hv]; decide)
  case algorithms =>
    exact if_neg (by rw [show (s.spdmOf fn).caps = true from hc]; decide)
  case digests =>
    show execGetDigests fn s = _
    rw [execGetDigests, negotiated_answers hn]
  case certificate =>
    rintro s ⟨hn, hslot⟩
    show execGetCertificate fn slot s = _
    rw [execGetCertificate, negotiated_answers hn, if_neg (Nat.not_le.mpr hslot)]
  case challenge =>
    rintro s ⟨hn, hslot⟩
    show execChallenge fn slot s = _
    rw [execChallenge, negotiated_answers hn, if_neg (Nat.not_le.mpr hslot)]
  case measurement =>
    rintro s ⟨hn, h0, hff, m, hm, hix⟩
    have hsome : ((s.measurements fn).filter (fun y => y.1 == ix)).isEmpty = false :=
      List.isEmpty_eq_false_iff.mpr (List.ne_nil_of_mem (List.mem_filter.mpr ⟨hm, beq_iff_eq.mpr hix⟩))
    show execGetMeasurements fn ix s = _
    rw [execGetMeasurements, negotiated_answers hn]
    simp only [if_neg h0, if_neg hff, hsome, Bool.false_eq_true, if_false]
  case measurements =>
    show execGetMeasurements fn 0xFF s = _
    rw [execGetMeasurements, negotiated_answers hn]
    simp only [if_neg (show ¬ 0xFF = 0 by decide), show (s.measurements fn).isEmpty = false from rfl, Bool.false_eq_true, if_false, if_true]
  case exchange =>
    rintro s ⟨hn, hslot⟩
    show execKeyExchange fn slot s = _
    rw [execKeyExchange, negotiated_answers hn, if_neg (Nat.not_le.mpr hslot)]
  case finish =>
    exact if_neg (by rw [show (s.spdmOf fn).exchange = true from he]; decide)

/-! ### Debugging (23 R428 to R432) -/

/-- Settles O39. -/
theorem debugEventsComplete : Obligations.DebugEventsComplete := by
  unfold Obligations.DebugEventsComplete
  refine fun vf core ctx v => ⟨fun s _ => ?token, fun s _ => rfl, fun s he => ?expiry, fun s h => ?write, fun s h => ?noWrite,
    fun s h => ?read, fun s h => ?noRead, fun s _ => rfl, fun s _ => rfl, ?step, ?done, fun s _ => rfl⟩
  case token =>
    show execDebugTokenSubmit vf s = _
    unfold execDebugTokenSubmit
    dsimp only
    split <;> rfl
  case expiry => exact if_neg (Nat.not_lt.mpr he)
  case write => exact if_pos h
  case noWrite => exact if_neg (Bool.eq_false_iff.mp h)
  case read =>
    show execDbgdataRead vf s = _
    simp only [execDbgdataRead, h, if_true]
  case noRead =>
    show execDbgdataRead vf s = _
    simp only [execDbgdataRead, h, Bool.false_eq_true, if_false]
    rfl
  case step =>
    rintro s ⟨hhalt, ha⟩
    show Host.Outcome.next (s.askStep core ctx) = _
    rw [State.askStep, hhalt, show (Sparse.look (s.core core).acts ctx).isSome = true from ha]
    rfl
  case done =>
    rintro s ⟨hwant, hstep, hop, hdrained⟩
    have hlost : s.stepLost core = s := by rw [State.stepLost, hwant]
    show execStepdone core s = _
    simp only [execStepdone, hlost, hwant, hstep, hop, hdrained, Option.isSome_none, Bool.false_eq_true, if_false, if_true]

/-! ### Registers (06 R117; 08 R160; 23 R426, R431, R434) -/

/-- The ready clusters of a partition (23 R426). -/
def State.readyOf (s : State) (p : Partition) : List Nat :=
  (upTo 256).filter (fun g => p.granted g && bitAt s.platform.readyClu.toNat g)

/-- How many logical cores of a cluster are missing. -/
def State.missingIn (s : State) (g : Nat) : Nat := ((upTo 32).filter (fun i => (s.physOf (32 * g + i)).failed)).length

theorem length_filter_upTo_le (f : Nat → Bool) (n : Nat) : ((upTo n).filter f).length ≤ n :=
  Nat.le_trans (List.length_filter_le f (upTo n)) (Nat.le_of_eq List.length_range)

theorem readyOf_length_le (s : State) (p : Partition) : (s.readyOf p).length ≤ 256 := length_filter_upTo_le _ 256

theorem missingIn_le (s : State) (g : Nat) : s.missingIn g ≤ 32 := length_filter_upTo_le _ 32

theorem sum_map_le_mul {f : Nat → Nat} {n : Nat} (h : ∀ g, f g ≤ n) (l : List Nat) : (l.map f).sum ≤ n * l.length := by
  induction l with
  | nil => exact Nat.zero_le _
  | cons g rest ih =>
    rw [List.map_cons, List.sum_cons, List.length_cons, Nat.mul_succ, Nat.add_comm]
    exact Nat.add_le_add ih (h g)

theorem sum_missing_le (s : State) (p : Partition) : ((s.readyOf p).map s.missingIn).sum ≤ 8192 :=
  Nat.le_trans (sum_map_le_mul (missingIn_le s) _) (Nat.mul_le_mul_left 32 (readyOf_length_le s p))

/-- CAPACITY of a bound VF, with its counts at their places. -/
theorem capacity_bound {s : State} {vf : Nat} (hb : (s.vf vf).bound = true) : s.capacity vf =
    (s.readyOf (s.part (s.vf vf).part.toNat)).length +
      2 ^ 9 * ((s.readyOf (s.part (s.vf vf).part.toNat)).map s.missingIn).sum +
      2 ^ 23 * (s.lostBlocks (s.part (s.vf vf).part.toNat) % 2 ^ 32) := by
  have hready : (s.readyOf (s.part (s.vf vf).part.toNat)).length < 2 ^ 9 := Nat.lt_of_le_of_lt (readyOf_length_le s _) (by decide)
  have hmissing : ((s.readyOf (s.part (s.vf vf).part.toNat)).map s.missingIn).sum < 2 ^ 14 :=
    Nat.lt_of_le_of_lt (sum_missing_le s _) (by decide)
  have hsum : ((s.readyOf (s.part (s.vf vf).part.toNat)).flatMap
      (fun g => (upTo 32).filter (fun i => (s.physOf (32 * g + i)).failed))).length =
        ((s.readyOf (s.part (s.vf vf).part.toNat)).map s.missingIn).sum := List.length_flatMap
  rw [← Nat.mod_eq_of_lt hready, ← Nat.mod_eq_of_lt hmissing, ← hsum]
  exact if_neg (by rw [hb]; decide)

/-- ENCSTAT of the slot that the last accepted ENCBIND named. -/
theorem encstat_slot {s : State} {vf g k : Nat} (h : (s.vf vf).encSlot = some (g, k)) : s.encstat vf =
    (s.vf vf).encStat.toNat + (2 ^ 8 * (s.encSlot g k).index.toNat + 2 ^ 12 * ofBool (s.encSlot g k).frame.isSome) := by
  simp only [State.encstat, h]

theorem encstat_noSlot {s : State} {vf : Nat} (h : (s.vf vf).encSlot = none) : s.encstat vf = (s.vf vf).encStat.toNat := by
  simp only [State.encstat, h, Nat.add_zero]

theorem ofBool_eq_one (b : Bool) : (ofBool b % 2 == 1) = b := by cases b <;> rfl

/-- Settles O40. -/
theorem registerWritesComplete : Obligations.RegisterWritesComplete := by
  unfold Obligations.RegisterWritesComplete
  refine ⟨fun core v => ⟨fun s h => if_pos h, ?writes, fun k s hk => if_neg (Nat.not_le.mpr hk), fun clu s hs => ?drain⟩,
    fun s vf hb => ?capacity, fun s vf g k => ?encstat⟩
  case writes =>
    simp only [List.forall_mem_cons, List.not_mem_nil, false_imp_iff, implies_true, and_true]
    exact ⟨fun s _ => rfl, fun s _ => rfl, fun s _ => rfl, fun s _ => rfl, fun s _ => rfl, fun s _ => rfl, fun s _ => rfl, fun s _ => rfl,
      fun s _ => rfl, fun s _ => rfl⟩
  case drain =>
    obtain ⟨hdst, hheld⟩ := hs
    show execTraceDrain clu s = _
    exact if_neg (not_or.mpr ⟨hdst, hheld⟩)
  case capacity =>
    have hready := readyOf_length_le s (s.part (s.vf vf).part.toNat)
    have hmissing := sum_missing_le s (s.part (s.vf vf).part.toNat)
    have hlost : s.lostBlocks (s.part (s.vf vf).part.toNat) % 2 ^ 32 < 2 ^ 32 := Nat.mod_lt _ (by decide)
    have hvalue := capacity_bound hb
    show fld _ 0 9 = (s.readyOf _).length ∧ fld _ 9 14 = ((s.readyOf _).map s.missingIn).sum ∧ fld _ 23 32 = _ ∧ fld _ 55 9 = 0
    rw [hvalue]
    unfold fld
    omega
  case encstat =>
    have hstat : (s.vf vf).encStat.toNat < 256 := (s.vf vf).encStat.isLt
    refine ⟨?_, fun hslot => ?_⟩
    · unfold fld
      cases hslot : (s.vf vf).encSlot with
      | none =>
        rw [encstat_noSlot hslot]
        omega
      | some p =>
        rw [encstat_slot (g := p.1) (k := p.2) hslot]
        omega
    · have hindex : (s.encSlot g k).index.toNat < 16 := (s.encSlot g k).index.isLt
      rw [encstat_slot hslot]
      refine ⟨?_, Eq.trans ?_ (ofBool_eq_one _)⟩
      · unfold fld
        omega
      · rw [bitAt]
        congr 1
        omega

end Sys2Proof.Machine
end

section
/-! PROOF. Taking a trap (O51) and what a return from it resumes with (O52) (03 R50; 10 R183 to R190; 21 R388). -/

namespace Sys2Proof.Machine

/-! ### The return (10 R185, R190) -/

/-- The activation of which another TRAPPC has thrown the buffers away, before its counts land. -/
def Activation.restarted (a : Activation) (pc : BitVec 14) : Activation :=
  { a with
    f := { a.f with
      pc := pc, wrapped := false, stop := .running, abuf := [], xbuf := [], seqHints := []
      counts := a.f.counts.filter (fun w => !((a.f.abuf ++ a.f.xbuf).any (fun e => e.seq == w.seq))) }
    flow := { a.flow with status := .running, byEntry := false, putBack := [], lackA := none, lackX := none } }

theorem resumeAt_ne {a : Activation} {p pc : BitVec 14} (h : pc ≠ p) : a.resumeAt p pc = (a.restarted pc).landCounts := if_neg h

theorem resumeAt_same {a : Activation} {p : BitVec 14} (h : a.flow.byEntry = false) :
    a.resumeAt p p = { a with flow := { a.flow with status := .running } } := by
  rw [Activation.resumeAt, if_pos rfl, h]
  rfl

theorem resumeAt_byEntry {a : Activation} {p : BitVec 14} (h : a.flow.byEntry = true) :
    a.resumeAt p p = { a with
      f := { a.f with pc := p, wrapped := false, stop := .running, seqHints := []
                      abuf := a.f.abuf.filter (fun e => e.kind == .word) }
      flow := { a.flow with status := .running, byEntry := false } } := by
  rw [Activation.resumeAt, if_pos rfl, h]
  rfl

/-- Landing counts leaves what an activation's front end holds but its counts. -/
theorem Landed.front {β : Type} {l : List CountWrite} {b c : Activation} (h : Landed l b c) (g : ActFetch → β)
    (hg : ∀ f : ActFetch, g { f with counts := [] } = g f) : g c.f = g b.f := by
  rw [← hg, h.f, hg]

/-- Settles O52: with TRAPPC unchanged nothing lands; with another TRAPPC the buffers are thrown away, and the counts that are
still pending land. -/
theorem returnFromTrap : Obligations.ReturnFromTrap := by
  unfold Obligations.ReturnFromTrap
  intro a p pc
  by_cases hpc : pc = p
  · subst hpc
    cases hby : a.flow.byEntry
    case false =>
      rw [resumeAt_same hby]
      exact ⟨rfl, ⟨fun _ h => h, fun _ _ _ => rfl⟩, rfl, rfl, rfl, rfl, rfl, rfl, fun _ _ => ⟨rfl, rfl⟩, fun _ h => (Bool.noConfusion h),
        fun h => absurd rfl h⟩
    case true =>
      rw [resumeAt_byEntry hby]
      exact ⟨rfl, ⟨fun _ h => h, fun _ _ _ => rfl⟩, rfl, rfl, rfl, rfl, rfl, rfl, fun _ h => (Bool.noConfusion h), fun _ _ => ⟨rfl, rfl⟩,
        fun h => absurd rfl h⟩
  · rw [resumeAt_ne hpc]
    have hl := landCounts_same (a.restarted pc)
    have hcounts : ∀ w ∈ (a.restarted pc).f.counts, w ∈ a.f.counts := fun w hw => (List.mem_filter.mp hw).1
    refine ⟨congrArg ActFlow.status hl.flow, ⟨fun w hw => hcounts w (hl.counts w hw), fun r _ hr => hl.regs r fun w hw => hr w (hcounts w hw)⟩,
      hl.win, hl.q, hl.pend, hl.info, hl.front ActFetch.loops fun _ => rfl, hl.front ActFetch.rstack fun _ => rfl,
      fun h => absurd h hpc, fun h => absurd h hpc, fun _ => ⟨hl.front ActFetch.abuf fun _ => rfl, hl.front ActFetch.xbuf fun _ => rfl,
        hl.front ActFetch.seqHints fun _ => rfl, hl.front ActFetch.pc fun _ => rfl, hl.front ActFetch.stop fun _ => rfl⟩⟩

/-! ### The trap (03 R50; 10 R183, R184) -/

/-- The activation that has taken a trap on the head `e` of half `h`. -/
def Activation.trapped (a : Activation) (h : Half) (e : Entry) : Activation :=
  { a.rehint h with flow := { (a.rehint h).flow with status := .draining h e.seq, starved := 0, byEntry := e.kind != .word } }

/-- The record that a trap of the activation in focus writes (10 R183). -/
def State.headTrapRecord (s : State) (h : Half) (e : Entry) (cause val : Nat) : TrapRec :=
  { cause := BitVec.ofNat 8 cause, ctx := BitVec.ofNat 3 s.focus.ctx, half := h.isX, late := false, fpc := e.wpc
    pc := e.pc, val := BitVec.ofNat 64 val, ns := s.ns }

/-- The core in focus with that record, before the activation drains. -/
def State.recorded (s : State) (h : Half) (e : Entry) (cause val : Nat) : Core :=
  { s.curCore with trapRecs := Sparse.set {} s.curCore.trapRecs s.focus.ctx (s.headTrapRecord h e cause val)
                   lock := if s.curCore.lock = some s.focus.ctx then none else s.curCore.lock }

section
variable {s : State} {h : Half} {a : Activation} {cause val : Nat} (ha : s.cur? = some a) (hg : a.flow.gang = none)
include ha hg

/-- A trap outside a gang: its record, the draining activation, and a trace record. -/
theorem takeTrap_solo : s.takeTrap h cause val =
    { (((s.setCore s.focus.core (s.recorded h (a.headEntry h) cause val)).setActAt s.focus.core s.focus.ctx
        (a.trapped h (a.headEntry h))).trace s.focus.core s.focus.ctx 3
          (s.headTrapRecord h (a.headEntry h) cause val).word) with verdict := .trapped } := by
  have hcur : s.cur = a := cur_of_cur? ha
  have hhead : s.head h = a.headEntry h := by rw [State.head, hcur, hg]
  simp only [State.takeTrap, hcur, hg, hhead, State.trapAt, show s.act? s.focus.core s.focus.ctx = some a from ha]
  rfl

theorem takeTrap_curCore : (s.takeTrap h cause val).core s.focus.core =
    { s.recorded h (a.headEntry h) cause val with acts := Sparse.put s.curCore.acts s.focus.ctx (a.trapped h (a.headEntry h)) } := by
  rw [takeTrap_solo ha hg]
  refine (trace_core _ _ _ _ _ _).trans ?_
  simp only [State.setActAt, State.core_setCore_self]
  rfl

theorem takeTrap_core_ne {k : Nat} (hk : k ≠ s.focus.core) : (s.takeTrap h cause val).core k = s.core k := by
  rw [takeTrap_solo ha hg]
  refine (trace_core _ _ _ _ _ _).trans ?_
  exact (State.core_setCore_of_ne _ _ hk.symm).trans (State.core_setCore_of_ne _ _ hk.symm)

theorem takeTrap_focus : (s.takeTrap h cause val).focus = s.focus := by
  rw [takeTrap_solo ha hg]
  exact (trace_mem _ _ _ _ _).2.2.2

theorem takeTrap_memory : SameMemory s (s.takeTrap h cause val) := by
  rw [takeTrap_solo ha hg]
  obtain ⟨hm, ht, hl, -⟩ := trace_mem ((s.setCore s.focus.core (s.recorded h (a.headEntry h) cause val)).setActAt s.focus.core
    s.focus.ctx (a.trapped h (a.headEntry h))) s.focus.core s.focus.ctx 3 (s.headTrapRecord h (a.headEntry h) cause val).word
  exact ⟨fun pa => State.byteAt_congr hm hl pa, fun u => State.tagAt_congr ht hl u⟩

end

/-- The hints before the trapping word count as not executed (03 R50). -/
theorem headEntry_rehint (a : Activation) (h : Half) : (a.rehint h).headEntry h = { a.headEntry h with taken := 0 } := by
  cases h with
  | a => cases hb : a.f.abuf <;> simp [Activation.rehint, Activation.headEntry, Activation.setBuf, Activation.buf, hb]
  | x => cases hb : a.f.xbuf <;> simp [Activation.rehint, Activation.headEntry, Activation.setBuf, Activation.buf, hb]

/-- Settles O51. -/
theorem trapEntry : Obligations.TrapEntry := by
  unfold Obligations.TrapEntry
  intro s h a cause val ha hg
  have hcore := takeTrap_curCore (h := h) (cause := cause) (val := val) ha hg
  have hfocus := takeTrap_focus (h := h) (cause := cause) (val := val) ha hg
  refine ⟨⟨a.trapped h (a.headEntry h), ?drains, rfl, ?regs, ?win, ?q, rfl, headEntry_rehint a h, ?pend, ?info, rfl, ?stops, ?older⟩,
    ?record, fun c hc => ⟨?otherRecord, ?otherAct⟩, fun k hk => takeTrap_core_ne ha hg hk, takeTrap_memory ha hg,
    by rw [takeTrap_solo ha hg], fun hh hd => ?turn⟩
  case drains =>
    rw [State.cur?, hfocus, State.act?, hcore]
    exact Sparse.look_put_self _ _ _
  case regs => cases h <;> rfl
  case win => cases h <;> rfl
  case q => cases h <;> rfl
  case pend => cases h <;> rfl
  case info => cases h <;> rfl
  case stops =>
    simp only [Activation.mayDispatch, Activation.trapped, bne_self_eq_false, Bool.false_and, Bool.and_false]
  case older =>
    intro hmay
    simp only [Activation.mayDispatch, Activation.trapped, Bool.and_eq_true] at hmay
    obtain ⟨⟨-, -, hlt⟩, -⟩ := hmay
    exact of_decide_eq_true hlt
  case record =>
    rw [State.curCore, hfocus, hcore]
    exact Sparse.get_set_self (d := ({} : TrapRec)) _ _ _
  case otherRecord =>
    rw [State.curCore, hfocus, hcore]
    exact Sparse.get_set_of_ne (d := ({} : TrapRec)) _ _ hc.symm
  case otherAct =>
    rw [State.act?, hcore]
    exact Sparse.look_put_of_ne _ _ hc.symm
  case turn =>
    subst hh
    refine ⟨fun hk => dispatch_trap hd ?_, fun hk => dispatch_trap hd ?_⟩
    all_goals
      rw [hd.head]
      dsimp only
      rw [hk]
      rfl

end Sys2Proof.Machine
end

section
/-! PROOF. A core whose one activation has a head runs it (O41): what is fetched stands as the head, the opening of the turn leaves
it there, and the issue policies choose it (02 R11, R13; 07 R130 to R134). -/

namespace Sys2Proof.Machine

/-! ### The one activation and its head -/

theorem Alone.act? {s : State} {k c : Nat} {a : Activation} (h : Alone s k c a) : s.act? k c = some a := by
  simp [State.act?, h.alone, Sparse.look]

/-- The head stands in another state whose core holds the activation alone too, with the buffers that it had. -/
theorem HeadStands.of_alone {s t : State} {k c : Nat} {a b : Activation} {h : Half} {e : Entry} (hs : HeadStands s k c a h e)
    (hb : Alone t k c b) (hf : b.f = a.f) : HeadStands t k c b h e := by
  have hbuf : ∀ h', b.buf h' = a.buf h' := by intro h'; cases h' <;> simp only [Activation.buf, hf]
  exact ⟨hb, by rw [hbuf]; exact hs.head, by simpa only [hbuf] using hs.oldest, by rw [hf]; exact hs.older, hs.plain⟩

/-- A core that differs in its one activation only still holds it alone, when that runs on as it did. -/
theorem Alone.of_core {s t : State} {k c : Nat} {a b : Activation} (h : Alone s k c a)
    (hc : t.core k = { s.core k with acts := [(c, b)] }) (hi : b.info = a.info)
    (hf : b.flow.status = a.flow.status ∧ b.flow.gang = a.flow.gang ∧ b.flow.mark = a.flow.mark) : Alone t k c b := by
  obtain ⟨h1, h2, h3⟩ := hf
  refine ⟨by rw [hc], ?_, ?_⟩
  · rw [hc, hi]; exact h.free
  · rw [h1, h2, h3]; exact h.runs

/-- What fetching leaves of a plain head that it has fetched first, or found. -/
theorem headStands_of_led {s t : State} {k c : Nat} {a b : Activation} {h : Half} {e : Entry} (hs : Alone s k c a)
    (hc : t.core k = { s.core k with acts := [(c, b)] }) (l : Led h e a b)
    (hp : e.kind = .word ∧ e.hints = [] ∧ isHint e.word.toNat = false) : HeadStands t k c b h e :=
  ⟨hs.of_core hc l.info (by rw [l.flow]; exact ⟨rfl, rfl, rfl⟩), l.head, l.rest, l.next, hp⟩

/-! ### Fetching (07 R130) -/

theorem core_setActAt_alone {s : State} {k c : Nat} {a : Activation} (h : (s.core k).acts = [(c, a)]) (b : Activation) :
    (s.setActAt k c b).core k = { s.core k with acts := [(c, b)] } := by
  simp [State.setActAt, h, put_single]

/-- The one activation fetches, in a new cycle of its front end. -/
theorem fetchAll_alone {s : State} {k c : Nat} {a : Activation} (h : Alone s k c a) :
    fetchAll k [c] s = .next ((s.setActAt k c a.newCycle).fetchN k c 4) := by
  obtain ⟨hst, hgang, -⟩ := h.runs
  have hfetches : a.fetches = true := by simp [Activation.fetches, hst, hgang]
  have hfetch : exec (.fetch k c) s = .next ((s.setActAt k c a.newCycle).fetchN k c 4) := by
    show execFetch k c s = _
    simp only [execFetch, h.act?, hfetches, if_true]
  rw [fetchAll, hfetch]
  rfl

/-- A head that stands is left standing by the fetch. -/
theorem fetch_keeps_head {s : State} {k c : Nat} {a : Activation} {h : Half} {e : Entry} (hs : HeadStands s k c a h e) :
    ∃ f b, fetchAll k [c] s = .next f ∧ HeadStands f k c b h e := by
  have hled : Led h e a a.newCycle := ⟨rfl, rfl, hs.head, hs.oldest, hs.older⟩
  have hcore := core_setActAt_alone hs.alone.alone a.newCycle
  obtain ⟨d, hd, ld⟩ := fetchN_led hs.alone.runs.2.1 4 (s.setActAt k c a.newCycle) a.newCycle (by rw [hcore]) hled
  exact ⟨_, d, fetchAll_alone hs.alone, headStands_of_led hs.alone (hd.trans (by rw [hcore])) ld hs.plain⟩

/-- The word at the fetch position, read once the unit it lies in has been touched, whatever has been put into the core. -/
theorem natAt_touch_setActAt (s : State) (k c : Nat) (a b : Activation) :
    ((s.setActAt k c b).touch a.info.region (lmBase k + 4 * a.f.pc.toNat) false).natAt (lmBase k + 4 * a.f.pc.toNat) 4 =
      s.nextWord k a := by
  rw [State.setActAt, touch_setCore, State.natAt, bytesAt_setCore]
  rfl

/-- The first word that empty buffers take becomes a head, and the words fetched behind it leave it there. -/
theorem fetch_places_head {s : State} {k c : Nat} {a : Activation} (hs : AboutToFetch s k c a)
    (hw : isHint (s.nextWord k a) = false) :
    ∃ f b e, fetchAll k [c] s = .next f ∧ HeadStands f k c b (halfOf (s.nextWord k a)) e ∧
      e.word.toNat = s.nextWord k a ∧ e.pc = a.f.pc ∧ e.wpc = a.f.pc := by
  obtain ⟨halone, ⟨habuf, hxbuf, hhints, hloops⟩, hstop, hwrap, hxb⟩ := hs
  have hgang := halone.runs.2.1
  have hcore := core_setActAt_alone halone.alone a.newCycle
  have hreads : a.newCycle.readsWord ((s.setActAt k c a.newCycle).core k).csr.xb.toNat = true := by
    rw [hcore]
    simp [Activation.readsWord, Activation.newCycle, hstop, hwrap, hxb]
  have hlt : s.nextWord k a < 2 ^ 32 := natAt_lt _ _ 4
  obtain ⟨b, e, hb, lb, hword, hpc, hwpc, hno, hkind⟩ := first_fetch (a := a.newCycle) (xb := (s.core k).csr.xb.toNat)
    hstop hwrap hxb habuf hxbuf hloops hhints hw hlt
  have hplain : e.kind = .word ∧ e.hints = [] ∧ isHint e.word.toNat = false := ⟨hkind, hno, by rw [hword]; exact hw⟩
  have ltouch : ∀ r pa w, ((s.setActAt k c a.newCycle).touch r pa w).core k = { s.core k with acts := [(c, a.newCycle)] } := by
    intro r pa w
    rw [← hcore, State.core, State.core, State.touch_cores]
  obtain ⟨u, hu, hfirst⟩ : ∃ u : State, (u.core k = { s.core k with acts := [(c, b)] }) ∧
      (s.setActAt k c a.newCycle).fetchN k c 4 = u.fetchN k c 3 := by
    refine ⟨((s.setActAt k c a.newCycle).touch a.info.region (lmBase k + 4 * a.f.pc.toNat) false).setActAt k c b,
      by rw [core_setActAt_alone (by rw [ltouch]), ltouch], ?_⟩
    have hnext := natAt_touch_setActAt s k c a a.newCycle
    rw [State.fetchN]
    simp only [State.act?_setActAt_self, hreads, if_true, ltouch]
    rw [show ((s.setActAt k c a.newCycle).touch a.newCycle.info.region (lmBase k + 4 * a.newCycle.f.pc.toNat) false).natAt
      (lmBase k + 4 * a.newCycle.f.pc.toNat) 4 = s.nextWord k a from hnext, hb]
    have hbg : a.newCycle.flow.gang = none := hgang
    simp only [hbg]
    rfl
  obtain ⟨d, hd, ld⟩ := fetchN_led (a := a.newCycle) hgang 3 u b (by rw [hu]) lb
  refine ⟨_, d, e, fetchAll_alone halone, ?_, hword, hpc, hwpc⟩
  have ld' : Led (halfOf (s.nextWord k a)) e a d := ⟨ld.flow, ld.info, ld.head, ld.rest, ld.next⟩
  exact headStands_of_led halone (by rw [hfirst, hd, hu]) ld' hplain

/-! ### The opening of a turn -/

/-- No gang is led from the core, and nothing drains there. -/
theorem Alone.opening {s : State} {k c : Nat} {a : Activation} (h : Alone s k c a) : (s.landGangs k).countDrains k = s := by
  obtain ⟨hst, hgang, -⟩ := h.runs
  have hland : s.landGangs k = s := by
    simp only [State.landGangs, h.alone, List.foldl_cons, List.foldl_nil, hgang]
  rw [hland]
  simp only [State.countDrains, h.alone, List.any_cons, List.any_nil, hst, Bool.or_false, Bool.false_eq_true, if_false]

/-- No step awaits its dispatch. -/
theorem settleStep_of_want_none {s : State} {k : Nat} (h : (s.core k).dbg.want = none) : s.settleStep k = s := by
  have hlost : s.stepLost k = s := by simp only [State.stepLost, h]
  simp only [State.settleStep, hlost, h]

/-- What the turn notes of starvation leaves the one activation with its buffers. -/
theorem HeadStands.noteLacks {s : State} {k c : Nat} {a : Activation} {h : Half} {e : Entry} (hs : HeadStands s k c a h e) :
    ∃ b, b.info = a.info ∧ HeadStands (s.noteLacks k) k c b h e := by
  have hwatched : s.watched k = [(k, c)] := by
    simp only [State.watched, hs.alone.alone, List.flatMap_cons, List.flatMap_nil, hs.alone.runs.2.1, List.append_nil]
  have hat : s.actAt k c = a := by rw [State.actAt, hs.alone.act?]; rfl
  simp only [State.noteLacks, hwatched, List.foldl_cons, List.foldl_nil, hat]
  split
  · exact ⟨a, rfl, hs⟩
  · exact ⟨s.noteLack a, rfl, hs.of_alone (hs.alone.of_core (core_setActAt_alone hs.alone.alone _) rfl ⟨rfl, rfl, rfl⟩) rfl⟩

/-! ### The head is tried, and chosen (07 R131 to R134) -/

section
variable {s : State} {k c : Nat} {a : Activation} {h : Half} {e : Entry} {i : Instr}

/-- The half of the oldest head comes first. -/
theorem HeadStands.halves (hs : HeadStands s k c a h e) : ∃ rest, a.halves = h :: rest := by
  obtain ⟨-, hhead, hold, -, -⟩ := hs
  cases h with
  | a =>
    have hp : a.f.abuf.head? = some e := hhead
    cases hq : a.f.xbuf.head? with
    | none => exact ⟨[], by simp only [Activation.halves, hp, hq]⟩
    | some q =>
      have hlt : e.seq < q.seq := (hold .x q (List.mem_of_mem_head? hq)).resolve_left (fun hx => by cases hx.1)
      exact ⟨[.x], by simp only [Activation.halves, hp, hq, if_pos hlt]⟩
  | x =>
    have hq : a.f.xbuf.head? = some e := hhead
    cases hp : a.f.abuf.head? with
    | none => exact ⟨[], by simp only [Activation.halves, hp, hq]⟩
    | some p =>
      have hlt : e.seq < p.seq := (hold .a p (List.mem_of_mem_head? hp)).resolve_left (fun hx => by cases hx.1)
      exact ⟨[.a], by simp only [Activation.halves, hp, hq, if_neg (Nat.lt_asymm hlt)]⟩

/-- Trying the head is the execution of the instruction that it decodes to. -/
theorem HeadStands.runHead (hs : HeadStands s k c a h e) (hd : decode e.word.toNat = .ok i) :
    runHead k c h s = exec i (s.aim k c h) := by
  obtain ⟨hkind, hhints, hhint⟩ := hs.plain
  have hhead : s.headOf k c h = some e := by
    rw [State.headOf, hs.alone.act?]
    exact hs.head
  have hdue : e.dueHint = none := by simp [Entry.dueHint, hhints]
  have hplain : e.hinted = false := by simp [Entry.hinted, hhints]
  have htarget : runTarget k c h s = exec i (s.aim k c h) := by
    simp only [runTarget, hhead, hkind, bne_self_eq_false, hhint, Bool.false_and, Bool.false_eq_true, if_false, execWord, hd]
  unfold Machine.runHead
  simp only [hhead, Option.bind_some, hdue, Option.any_some, hplain, Bool.false_eq_true, if_false, htarget]

variable (hs : HeadStands s k c a h e) (hd : decode e.word.toNat = .ok i) (he : eligible (exec i (s.aim k c h)) = true)
include hs hd he

theorem HeadStands.firstOf : s.firstOf k [c] = some { ctx := c, half := h, out := exec i (s.aim k c h) } := by
  have hhead : s.headOf k c h = some e := by
    rw [State.headOf, hs.alone.act?]
    exact hs.head
  have hhalf : s.tryHalf k c h = some (exec i (s.aim k c h)) := by
    simp only [State.tryHalf, hhead, Option.isNone_some, Bool.false_eq_true, if_false, hs.runHead hd, he, if_true]
  have hleads : a.follows = false := by simp [Activation.follows, hs.alone.runs.2.1]
  obtain ⟨rest, hhalves⟩ := hs.halves
  have htry : s.tryAct k c = some (h, exec i (s.aim k c h)) := by
    simp only [State.tryAct, hs.alone.act?, hleads, Bool.false_eq_true, if_false, hhalves, List.findSome?_cons, hhalf, Option.map_some]
  simp only [State.firstOf, List.findSome?_cons, htry, Option.map_some]

/-- Either policy chooses the head in a group that holds its activation alone. -/
theorem HeadStands.chooseIn {y : Option Nat} (hy : y ≠ some a.info.id) (g : IssueGroup) :
    s.chooseIn k y g [(c, a)] = (s, some { ctx := c, half := h, out := exec i (s.aim k c h) }) := by
  have hfirst := hs.firstOf hd he
  by_cases hpol : (s.core k).csr.pol = true
  · have hrobin : robinOrder g [(c, a)] = [c] := by
      unfold robinOrder
      dsimp only [List.map_cons, List.map_nil]
      split
      · rfl
      case h_2 j _ =>
        by_cases hj : j < c
        · simp [hj, Nat.not_le.mpr hj]
        · simp [hj, Nat.le_of_not_lt hj]
    have hmark : a.flow.mark = false := hs.alone.runs.2.2
    simp only [State.chooseIn, hpol, if_true, hrobin, State.robin, hs.alone.act?, Option.map_some, hmark, Option.getD_some,
      Bool.false_eq_true, if_false, hfirst]
  · have hgreedy : greedyOrder g [(c, a)] = [c] := by
      by_cases hlast : g.lastAct = some a.info.id
      · simp [greedyOrder, hlast]
      · simp [greedyOrder, hlast, insertAge]
    have hstay : [(c, a)].filter (fun x => y != some x.2.info.id) = [(c, a)] := by simp [hy]
    simp only [State.chooseIn, if_neg hpol, hstay, hgreedy, hfirst]

/-- The turn chooses the head, in whichever group its activation is. -/
theorem HeadStands.choose {y : Option Nat} (hy : y ≠ some a.info.id) :
    s.choose k y = (s, some { ctx := c, half := h, out := exec i (s.aim k c h) }) := by
  obtain ⟨hlock, hhalt, -⟩ := hs.alone.free
  by_cases hu : a.urgent = true
  · have hgroup : ((s.core k).acts.filter fun x => x.2.urgent) = [(c, a)] := by simp [hs.alone.alone, hu]
    simp only [State.choose, hlock, hhalt, Bool.false_eq_true, if_false, hgroup, hs.chooseIn hd he hy]
  · have hurgent : ((s.core k).acts.filter fun x => x.2.urgent) = [] := by simp [hs.alone.alone, hu]
    have hnormal : ((s.core k).acts.filter fun x => !x.2.urgent) = [(c, a)] := by simp [hs.alone.alone, hu]
    have hnone : s.chooseIn k y (s.core k).urgent [] = (s, none) := by
      unfold State.chooseIn
      split
      · have : robinOrder (s.core k).urgent [] = [] := by unfold robinOrder; split <;> rfl
        rw [this, State.robin]
      · rfl
    simp only [State.choose, hlock, hhalt, Bool.false_eq_true, if_false, hurgent, hnone, hnormal, hs.chooseIn hd he hy]

end

/-! ### The turn and its step -/

/-- The core forgets what its last turn gave up and that a gang's head has been taken (07 R134; 08 R150). -/
def State.freed (s : State) (k : Nat) : State := s.setCore k { s.core k with yielded := none, given := false }


/-- The turn whose fetch leaves a head standing runs it. -/
theorem coreTurn_of_head {s f : State} {k c : Nat} {a b : Activation} {h : Half} {e : Entry} {i : Instr}
    (hacts : (s.core k).acts = [(c, a)]) (hfetch : fetchAll k [c] s = .next f) (hs : HeadStands f k c b h e)
    (hd : decode e.word.toNat = .ok i)
    (hfed : (f.freed k).starvedHead k = none)
    (he : eligible (exec i (((f.freed k).noteLacks k).aim k c h)) = true) :
    coreTurn k s = ((f.freed k).noteLacks k).closeTurn k
      { ctx := c, half := h, out := exec i (((f.freed k).noteLacks k).aim k c h) } := by
  obtain ⟨hlock, hhalt, hwant, hgiven, hyield⟩ := hs.alone.free
  have hopened : HeadStands (f.freed k) k c b h e := by
    rw [State.freed]
    refine hs.of_alone ⟨?_, ?_, hs.alone.runs⟩ rfl
    · rw [State.core_setCore_self]; exact hs.alone.alone
    · rw [State.core_setCore_self]; exact ⟨hlock, hhalt, hwant, rfl, nofun⟩
  have hsettled := settleStep_of_want_none hopened.alone.free.2.2.1
  obtain ⟨d, hinfo, hnoted⟩ := hopened.noteLacks
  have hchoice := hnoted.choose hd he (y := (f.core k).yielded) (by rw [hinfo]; exact hyield)
  have hopen := hs.alone.opening
  have hdispatch : dispatchTurn k f = ((f.freed k).noteLacks k).closeTurn k
      { ctx := c, half := h,
        out := exec i (((f.freed k).noteLacks k).aim k c h) } := by
    rw [State.freed] at hsettled hfed hchoice ⊢
    simp only [dispatchTurn, hsettled, hgiven, Bool.false_eq_true, if_false, hfed, hchoice]
  rw [coreTurn, hacts, show [(c, a)].map (fun x => x.1) = [c] from rfl, hfetch]
  show dispatchTurn k ((f.landGangs k).countDrains k) = _
  rw [hopen, hdispatch]

/-- The step whose agenda names a core is its turn. -/
theorem step_of_agenda (s : State) (k : Nat) :
    step { s with agenda := .core k :: s.agenda } = andThen (coreTurn k s) (fun t => .next (s.closeStep t)) := rfl

/-- The step of a machine with one core at work and nothing pending is that core's turn, and a cycle of the clock. -/
theorem step_of_cycle {s : State} {k : Nat} (hagenda : s.agenda = []) (hidle : s.firstEffect s.pending = none)
    (hone : s.cores.filter (fun x => !x.2.acts.isEmpty) = [(k, s.core k)]) :
    step s = andThen (coreTurn k s) (fun t => .next (s.closeStep { t with clock := t.clock + 1 })) := by
  have hmove : oneMove s = cycle s := by simp only [oneMove, hagenda, autoMove, hidle]
  rw [step, hmove, cycle, hone, List.map_cons, List.map_nil, turns]
  cases coreTurn k s <;> rfl

/-- A fetch that leaves a head standing gives the turn that runs it, and the steps that make that turn. -/
theorem turnRuns_of_head {s f : State} {k c : Nat} {a b : Activation} {h : Half} {e : Entry} {i : Instr}
    (hacts : (s.core k).acts = [(c, a)]) (hfetch : fetchAll k [c] s = .next f) (hs : HeadStands f k c b h e)
    (hd : decode e.word.toNat = .ok i) : TurnRuns s f k c h i := by
  intro hfed he
  have hturn := coreTurn_of_head hacts hfetch hs hd hfed he
  refine ⟨hturn, ?_, fun hagenda hidle hone => ?_⟩
  · rw [step_of_agenda, hturn]
    rfl
  · rw [step_of_cycle hagenda hidle hone, hturn]
    rfl

/-- Settles O41: fetching places the head or leaves it, and the turn chooses the one head that stands. -/
theorem stepRunsDecoded : Obligations.StepRunsDecoded := by
  refine ⟨fun s k c a hs hw => ?_, fun s k c a h e i hs hd => ?_⟩
  · obtain ⟨f, b, e, hfetch, hhead, hword, hpc, hwpc⟩ := fetch_places_head hs hw
    exact ⟨f, b, e, hfetch, hhead, hword, hpc, hwpc, fun i hd _ =>
      turnRuns_of_head hs.alone.alone hfetch hhead (by rw [hword]; exact hd)⟩
  · obtain ⟨f, b, hfetch, hhead⟩ := fetch_keeps_head hs
    exact ⟨f, b, hfetch, hhead, turnRuns_of_head hs.alone.alone hfetch hhead hd⟩

end Sys2Proof.Machine
end

section
/-! PROOF. What an access writes and brings back at its home (O59, O60) (12 R208; 02 R29; 06 R105 to R111). -/

namespace Sys2Proof.Machine

/-! ### A piece that is performed -/

/-- A piece that stands at its home: the access is under way, and the home performs its bytes on a memory that holds what
it held. -/
theorem homePerform_performs {idx : Nat} {s t : State} {x : Access} {p : Piece} (h : AtHome s idx x p)
    (hk : ∀ d, x.kind ≠ .steal d) (ht : exec (.homePerform idx) s = .next t) :
    ∃ (k : Nat) (u : State), x ∈ s.accs ∧ x.pieces[k]? = some p ∧ u.mem = s.mem ∧ u.wlog = s.wlog ∧ u.accs = s.accs ∧
      t = u.performBytes x k p := by
  obtain ⟨q, acc, k, hq, harr, hbody, hx, hp, hret, hwait, hfree, hs, hs'⟩ := h
  have hany : ((x.writes p).any fun b => s.pinned b 1 || !(s.codeOk x.core x.code b)) = false := by
    rw [List.any_eq_false]
    intro b hb
    obtain ⟨h1, h2⟩ := hfree b hb
    simp [h1, h2]
  have hserved : execHomePerform idx s = .next ((s.dropPacket q.id).performPiece x k p) := by
    simp only [execHomePerform, hq, harr, hbody, hx, Bool.not_true, Bool.false_eq_true, if_false]
    split
    case h_1 hd _ => exact absurd hd (hk _)
    case h_2 hd _ => exact absurd (by assumption) (hk _)
    case h_3 => simp only [hp, hwait, Bool.false_eq_true, if_false]
  change execHomePerform idx s = .next t at ht
  rw [hserved] at ht
  injection ht with ht
  have hperf : ∃ w, (s.dropPacket q.id).performPiece x k p =
      (((((s.dropPacket q.id).touchRange x.region p.pa p.len w).countHbm x.region p.pa).useLines x.kind.isAtomic p.pa p.len).performBytes
        x k p) := by
    have hret' : (s.dropPacket q.id).isRetired p.pa = false := hret
    have hany' : ((x.writes p).any fun b => (s.dropPacket q.id).pinned b 1 || !((s.dropPacket q.id).codeOk x.core x.code b)) =
        false := hany
    simp only [State.performPiece, hret', hany', Bool.false_eq_true, if_false]
    exact ⟨_, rfl⟩
  obtain ⟨w, hperf⟩ := hperf
  obtain ⟨m1, l1⟩ := touchRange_settles (s := s.dropPacket q.id) (w := w) hs hs'
  obtain ⟨m2, l2⟩ := countHbm_mem ((s.dropPacket q.id).touchRange x.region p.pa p.len w) x.region p.pa
  obtain ⟨m3, l3⟩ := useLines_mem (((s.dropPacket q.id).touchRange x.region p.pa p.len w).countHbm x.region p.pa)
    x.kind.isAtomic p.pa p.len
  refine ⟨k, _, List.mem_of_find?_eq_some hx, hp, m3.trans (m2.trans m1), l3.trans (l2.trans l1), ?_, ht.symm.trans hperf⟩
  rw [useLines_accs]
  have : ∀ v : State, (v.countHbm x.region p.pa).accs = v.accs := by
    intro v; unfold State.countHbm; split <;> rfl
  rw [this, touchRange_accs]
  rfl

/-! ### The bytes that it leaves (O59) -/

theorem byteAt_putNat_of_outside (s : State) {pa n q : Nat} (v : Nat) (h : q < pa ∨ pa + n ≤ q) :
    (s.putNat pa n v).byteAt q = s.byteAt q :=
  State.byteAt_putBytes_of_outside _ s pa q (by rw [toBytes_length]; exact h)

theorem outside_of_not_mem {pa n q : Nat} (h : q ∉ (upTo n).map (fun i => pa + i)) : q < pa ∨ pa + n ≤ q := by
  rw [List.mem_map] at h
  exact Decidable.byContradiction fun hq => h ⟨q - pa, mem_upTo.mpr (by omega), by omega⟩

theorem performBytes_store {u : State} {x : Access} {k : Nat} {p : Piece} {data mask} (hx : x.kind = .store data mask) (a : Nat) :
    (u.performBytes x k p).byteAt a =
      ((storeBytes data.toNat mask.toNat p).foldl (fun t b => t.putByte b.1 b.2) u).byteAt a := by
  simp only [State.performBytes, hx, putAcc_byteAt]

theorem performBytes_storeNib {u : State} {x : Access} {k : Nat} {p : Piece} {nibs odd data} (hx : x.kind = .storeNib nibs odd data)
    (a : Nat) : (u.performBytes x k p).byteAt a = (storeNibs u p.pa odd nibs data.toNat p.off p.len).byteAt a := by
  simp only [State.performBytes, hx, putAcc_byteAt]

/-- A byte under the mask becomes that of the data; the others stay. -/
theorem storeFold_byteAt (u : State) (data mask : Nat) (p : Piece) {i : Nat} (hi : i < p.len) :
    ((storeBytes data mask p).foldl (fun t b => t.putByte b.1 b.2) u).byteAt (p.pa + i) =
      if bitAt mask (p.off + i) then BitVec.ofNat 8 (fld data (8 * (p.off + i)) 8) else u.byteAt (p.pa + i) := by
  by_cases hm : bitAt mask (p.off + i) = true
  · rw [if_pos hm]
    refine fold_in _ _ _ _ (storeBytes_pairwise data mask p) ?_
    exact List.mem_map.mpr ⟨i, List.mem_filter.mpr ⟨mem_upTo.mpr hi, hm⟩, rfl⟩
  · rw [if_neg hm]
    refine fold_out _ _ _ fun b hb he => ?_
    obtain ⟨j, hj, rfl⟩ := List.mem_map.mp hb
    have : j = i := by simpa using he
    exact hm (this ▸ (List.mem_filter.mp hj).2)

/-- The two halves of a byte made of two nibbles. -/
theorem fld_nibbles {a b : Nat} (ha : a < 16) (hb : b < 16) :
    fld (BitVec.ofNat 8 (a + 16 * b)).toNat 0 4 = a ∧ fld (BitVec.ofNat 8 (a + 16 * b)).toNat 4 4 = b := by
  rw [BitVec.toNat_ofNat]
  constructor <;> (unfold fld; omega)

theorem fld_nibble_lt (v lo : Nat) : fld v lo 4 < 16 := Nat.mod_lt _ (by decide)

theorem nibble_ite_lt (c : Prop) [Decidable c] (v lo w lo' : Nat) : (if c then fld v lo 4 else fld w lo' 4) < 16 := by
  split <;> exact fld_nibble_lt _ _

/-- What a nibble store leaves in each half of each of its bytes. -/
theorem storeNibs_nibble (u : State) (pa odd nibs data off len : Nat) {i h : Nat} (hi : i < len) (hh : h < 2) :
    fld ((storeNibs u pa odd nibs data off len).byteAt (pa + i)).toNat (4 * h) 4 =
      if odd ≤ 2 * (off + i) + h ∧ 2 * (off + i) + h < odd + nibs then fld data (4 * (2 * (off + i) + h - odd)) 4
      else fld (u.byteAt (pa + i)).toNat (4 * h) 4 := by
  rw [storeNibs_byteAt, if_pos ⟨by omega, by omega⟩, Nat.add_sub_cancel_left]
  obtain ⟨hlo, hhi⟩ := fld_nibbles
    (nibble_ite_lt (odd ≤ 2 * (off + i) ∧ 2 * (off + i) < odd + nibs) data (4 * (2 * (off + i) - odd)) (u.byteAt (pa + i)).toNat 0)
    (nibble_ite_lt (odd ≤ 2 * (off + i) + 1 ∧ 2 * (off + i) + 1 < odd + nibs) data (4 * (2 * (off + i) + 1 - odd))
      (u.byteAt (pa + i)).toNat 4)
  match h, hh with
  | 0, _ => exact hlo
  | 1, _ => exact hhi

/-- Outside `Access.writes` no byte changes. -/
theorem performBytes_frame {u : State} {x : Access} {k : Nat} {p : Piece} {a : Nat}
    (hx : match x.kind with
      | .store _ _ | .storeNib _ _ _ => True
      | .storeCap _ => p.len = 16
      | .amo _ _ bits _ | .amocas _ bits _ _ => p.len = bits / 8
      | .load _ _ _ | .loadReg _ _ _ | .loadCap _ | .loadNib _ _ _ _ | .chunk _ _ _ _ => True
      | _ => False) (ha : a ∉ x.writes p) : (u.performBytes x k p).byteAt a = u.byteAt a := by
  cases hk : x.kind with
  | load => simp only [State.performBytes, hk, putAcc_byteAt]
  | loadReg => simp only [State.performBytes, hk, putAcc_byteAt]
  | loadNib => simp only [State.performBytes, hk, putAcc_byteAt]
  | loadCap => simp only [State.performBytes, hk, putAcc_byteAt]
  | chunk => simp only [State.performBytes, hk, putAcc_byteAt]
  | store data mask =>
    rw [performBytes_store hk]
    simp only [Access.writes, hk] at ha
    exact fold_out _ _ _ fun b hb he => ha (List.mem_map.mpr ⟨b, hb, he⟩)
  | storeNib nibs odd data =>
    simp only [Access.writes, hk] at ha
    rw [performBytes_storeNib hk, storeNibs_byteAt, if_neg]
    rintro ⟨h1, h2⟩
    rcases outside_of_not_mem ha with h | h <;> omega
  | storeCap data =>
    simp only [Access.writes, hk] at ha hx
    simp only [State.performBytes, hk, putAcc_byteAt, State.byteAt_putTag]
    exact byteAt_putNat_of_outside u _ (hx ▸ outside_of_not_mem ha)
  | amo d f bits v =>
    simp only [Access.writes, hk] at ha hx
    simp only [State.performBytes, hk, putAcc_byteAt]
    exact byteAt_putNat_of_outside u _ (hx ▸ outside_of_not_mem ha)
  | amocas d bits e r =>
    simp only [Access.writes, hk] at ha hx
    simp only [State.performBytes, hk, putAcc_byteAt]
    split
    · exact byteAt_putNat_of_outside u _ (hx ▸ outside_of_not_mem ha)
    · rfl
  | _ => rw [hk] at hx; exact hx.elim

/-- Settles O59: the home performs the bytes of the piece on the memory as it stood, and each kind writes its own bytes. -/
theorem homeWritesItsBytes : Obligations.HomeWritesItsBytes := by
  intro idx s t x p hhome ht
  refine ⟨fun hx pa hpa => ?_, fun data mask hx i hi => ?_, fun nibs odd data hx i h hi hh => ?_⟩
  · obtain ⟨k, u, -, -, hm, hl, -, rfl⟩ := homePerform_performs hhome (fun d hd => by rw [hd] at hx; exact hx) ht
    rw [performBytes_frame hx hpa, byteAt_same hm hl]
  · obtain ⟨k, u, -, -, hm, hl, -, rfl⟩ := homePerform_performs hhome (by simp [hx]) ht
    rw [performBytes_store hx, storeFold_byteAt _ _ _ _ hi, byteAt_same hm hl]
  · obtain ⟨k, u, -, -, hm, hl, -, rfl⟩ := homePerform_performs hhome (by simp [hx]) ht
    rw [performBytes_storeNib hx, storeNibs_nibble _ _ _ _ _ _ _ hi hh, byteAt_same hm hl]

/-! ### What it brings back (O60) -/

/-- The old bits of a word, read as bytes. -/
theorem pow_bytes {bits : Nat} (h : bits = 32 ∨ bits = 64) : 256 ^ (bits / 8) = 2 ^ bits := by
  rcases h with rfl | rfl
  · decide
  · decide

theorem natAt_lt_bits (s : State) (pa : Nat) {bits : Nat} (h : bits = 32 ∨ bits = 64) : s.natAt pa (bits / 8) < 2 ^ bits :=
  pow_bytes h ▸ natAt_lt s pa (bits / 8)

/-- An old value of at most 64 bits comes back as it is. -/
theorem signExt_old {bits old : Nat} (h : bits = 32 ∨ bits = 64) (ho : old < 2 ^ bits) :
    signExt (BitVec.ofNat 136 old).toNat bits false = BitVec.ofNat 128 old := by
  have h64 : 2 ^ bits ≤ 2 ^ 136 := Nat.pow_le_pow_right (by decide) (by omega)
  simp only [signExt, zext, Bool.false_eq_true, if_false, BitVec.toNat_ofNat]
  rw [Nat.mod_eq_of_lt (Nat.lt_of_lt_of_le ho h64), Nat.mod_eq_of_lt ho]

/-- The functions of AMO, as R110 writes them. -/
theorem amoNew_eq {f bits old : Nat} (v : Nat) (hb : 0 < bits) (hf : f ≤ 8) :
    amoNew f bits old v =
      if f = 0 then v % 2 ^ bits else if f = 1 then (old + v % 2 ^ bits) % 2 ^ bits
      else if f = 2 then old &&& v % 2 ^ bits else if f = 3 then old ||| v % 2 ^ bits else if f = 4 then old ^^^ v % 2 ^ bits
      else if f = 5 then
        (if (BitVec.ofNat bits old).toInt ≤ (BitVec.ofNat bits (v % 2 ^ bits)).toInt then old else v % 2 ^ bits)
      else if f = 6 then
        (if (BitVec.ofNat bits old).toInt ≤ (BitVec.ofNat bits (v % 2 ^ bits)).toInt then v % 2 ^ bits else old)
      else if f = 7 then min old (v % 2 ^ bits) else max old (v % 2 ^ bits) := by
  have hv : BitVec.ofNat bits (v % 2 ^ bits) = BitVec.ofNat bits v := by
    apply BitVec.eq_of_toNat_eq; simp
  rw [hv, ← sext_toInt _ _ hb, ← sext_toInt _ _ hb]
  match f, hf with
  | 0, _ => rfl
  | 1, _ => simp [amoNew]
  | 2, _ => rfl
  | 3, _ => rfl
  | 4, _ => rfl
  | 5, _ => rfl
  | 6, _ => rfl
  | 7, _ => exact Nat.min_def.symm
  | 8, _ => exact Nat.max_def.symm

/-- The new value of an AMO fits its width. -/
theorem amoNew_lt {f bits old v : Nat} (ho : old < 2 ^ bits) : amoNew f bits old v < 2 ^ bits := by
  have hv : v % 2 ^ bits < 2 ^ bits := Nat.mod_lt _ (Nat.two_pow_pos _)
  unfold amoNew
  split
  case h_1 => exact hv
  case h_2 => exact Nat.mod_lt _ (Nat.two_pow_pos _)
  case h_3 => exact Nat.and_lt_two_pow _ hv
  case h_4 => exact Nat.or_lt_two_pow ho hv
  case h_5 => exact Nat.xor_lt_two_pow ho hv
  all_goals (split <;> assumption)

/-- A sent access whose only part is performed is answered. -/
theorem ended_stage {x : Access} {p : Piece} {k : Nat} {cae : Bool} (hs : x.stage = .sent) (hp : x.pieces = [p])
    (hk : x.pieces[k]? = some p) : ((x.setPiece k cae).complete && (x.setPiece k cae).stage == .sent) = true := by
  have : (x.setPiece k cae).stage = .sent := hs
  rw [single_complete hp hk, this]
  rfl

section
variable {u : State} {x : Access} {p : Piece} {k : Nat}
variable (hs : x.stage = .sent) (hp : x.pieces = [p]) (hk : x.pieces[k]? = some p) (hx : x ∈ u.accs)
include hs hp hk hx

/-- A load in one piece is answered with the bytes that it read. -/
theorem performBytes_load (h0 : p.off = 0) (hl : p.len ≤ 17)
    (hkind : (∃ q b sg, x.kind = .load q b sg) ∨ (∃ q b sg, x.kind = .loadReg q b sg) ∨ ∃ q n o sg, x.kind = .loadNib q n o sg) :
    ∃ y ∈ (u.performBytes x k p).accs, y.id = x.id ∧ y.stage = .answered ∧ y.kind = x.kind ∧
      ∀ m ≤ 8 * p.len, y.data.toNat % 2 ^ m = u.natAt p.pa p.len % 2 ^ m := by
  have hread : u.performBytes x k p = u.putAcc { x.setPiece k (u.checkedOut p.pa) with
      data := BitVec.ofNat 136 (putFld x.data.toNat (8 * p.off) (8 * p.len) (u.natAt p.pa p.len)), stage := .answered } := by
    have he := ended_stage (cae := u.checkedOut p.pa) hs hp hk
    rcases hkind with ⟨q, b, sg, hq⟩ | ⟨q, b, sg, hq⟩ | ⟨q, n, o, sg, hq⟩ <;>
      (simp only [State.performBytes, hq]; exact congrArg _ (if_pos he))
  obtain ⟨n, hn⟩ := put_mem hx (y := { x.setPiece k (u.checkedOut p.pa) with
      data := BitVec.ofNat 136 (putFld x.data.toNat (8 * p.off) (8 * p.len) (u.natAt p.pa p.len)), stage := .answered }) rfl rfl
  rw [hread]
  refine ⟨_, hn, rfl, rfl, rfl, fun m hm => loadedData x p _ h0 hl ?_ m hm⟩
  rw [Nat.pow_mul]
  exact natAt_lt u p.pa p.len

/-- AMO brings the old value and leaves the new one. -/
theorem performBytes_amo {d f bits : Nat} {v : BitVec 64} (hkind : x.kind = .amo d f bits v) (hb : bits = 32 ∨ bits = 64) :
    (∃ y ∈ (u.performBytes x k p).accs, y.id = x.id ∧ y.stage = .answered ∧
      loadValue y = BitVec.ofNat 128 (u.natAt p.pa (bits / 8))) ∧
    (u.performBytes x k p).natAt p.pa (bits / 8) = amoNew f bits (u.natAt p.pa (bits / 8)) v.toNat := by
  have hdone : u.performBytes x k p = (u.putNat p.pa (bits / 8) (amoNew f bits (u.natAt p.pa (bits / 8)) v.toNat)).putAcc
      { x.setPiece k (u.checkedOut p.pa) with data := BitVec.ofNat 136 (u.natAt p.pa (bits / 8)), stage := .answered } := by
    simp only [State.performBytes, hkind]
    exact congrArg _ (if_pos (ended_stage hs hp hk))
  obtain ⟨n, hn⟩ := put_mem (x := x) (s := u.putNat p.pa (bits / 8) (amoNew f bits (u.natAt p.pa (bits / 8)) v.toNat))
    (by rwa [accs_putNat]) (y := { x.setPiece k (u.checkedOut p.pa) with
      data := BitVec.ofNat 136 (u.natAt p.pa (bits / 8)), stage := .answered }) rfl rfl
  have hold := natAt_lt_bits u p.pa hb
  rw [hdone]
  refine ⟨⟨_, hn, rfl, rfl, ?_⟩, ?_⟩
  · simp only [loadValue, Access.setPiece, hkind]
    exact signExt_old hb hold
  · rw [natAt_putAcc, natAt_putNat, pow_bytes hb, Nat.mod_eq_of_lt (amoNew_lt hold)]

/-- AMOCAS brings the old value, and leaves the replacement where that was the expected one. -/
theorem performBytes_amocas {d bits : Nat} {e r : BitVec 64} (hkind : x.kind = .amocas d bits e r) (hb : bits = 32 ∨ bits = 64) :
    (∃ y ∈ (u.performBytes x k p).accs, y.id = x.id ∧ y.stage = .answered ∧
      loadValue y = BitVec.ofNat 128 (u.natAt p.pa (bits / 8))) ∧
    (u.performBytes x k p).natAt p.pa (bits / 8) =
      if u.natAt p.pa (bits / 8) = e.toNat % 2 ^ bits then r.toNat % 2 ^ bits else u.natAt p.pa (bits / 8) := by
  have hdone : u.performBytes x k p =
      (if u.natAt p.pa (bits / 8) = e.toNat % 2 ^ bits then u.putNat p.pa (bits / 8) (r.toNat % 2 ^ bits) else u).putAcc
        { x.setPiece k (u.checkedOut p.pa) with data := BitVec.ofNat 136 (u.natAt p.pa (bits / 8)), stage := .answered } := by
    simp only [State.performBytes, hkind]
    exact congrArg _ (if_pos (ended_stage hs hp hk))
  have hmem : x ∈ (if u.natAt p.pa (bits / 8) = e.toNat % 2 ^ bits
      then u.putNat p.pa (bits / 8) (r.toNat % 2 ^ bits) else u).accs := by
    split
    · rwa [accs_putNat]
    · exact hx
  obtain ⟨n, hn⟩ := put_mem hmem (y := { x.setPiece k (u.checkedOut p.pa) with
      data := BitVec.ofNat 136 (u.natAt p.pa (bits / 8)), stage := .answered }) rfl rfl
  rw [hdone]
  refine ⟨⟨_, hn, rfl, rfl, ?_⟩, ?_⟩
  · simp only [loadValue, Access.setPiece, hkind]
    exact signExt_old hb (natAt_lt_bits u p.pa hb)
  · rw [natAt_putAcc]
    split
    · rw [natAt_putNat, pow_bytes hb, Nat.mod_mod]
    · rfl

end

/-- Settles O60: the one part of the access is performed on the memory as it stood, and answers with what it read there. -/
theorem homeResults : Obligations.HomeResults := by
  intro idx s t x p hhome hs hp h0 ht
  refine ⟨fun q bits sg hkind hbits hlen => ?_, fun q nibs odd sg hkind hrun hlen => ?_, fun d f bits v hkind hb hf hlen => ?_,
    fun d bits e r hkind hb hlen => ?_⟩
  · obtain ⟨k, u, hx, hk, hm, hl, hacc, rfl⟩ := homePerform_performs hhome (by rcases hkind with h | h <;> simp [h]) ht
    obtain ⟨y, hy, hid, hst, hyk, hdata⟩ := performBytes_load hs hp hk (hacc ▸ hx) h0 (by omega)
      (hkind.imp (fun h => ⟨_, _, _, h⟩) (fun h => .inl ⟨_, _, _, h⟩))
    refine ⟨y, hy, hid, hst, ?_⟩
    have hv : loadValue y = signExt y.data.toNat bits sg := by
      rcases hkind with h | h <;> simp only [loadValue, hyk, h]
    rw [hv, ← natAt_same hm hl]
    exact signExt_mod _ _ _ _ (hdata bits (by omega))
  · obtain ⟨k, u, hx, hk, hm, hl, hacc, rfl⟩ := homePerform_performs hhome (by simp [hkind]) ht
    obtain ⟨y, hy, hid, hst, hyk, hdata⟩ := performBytes_load hs hp hk (hacc ▸ hx) h0 hlen (.inr (.inr ⟨_, _, _, _, hkind⟩))
    refine ⟨y, hy, hid, hst, ?_⟩
    have hv : loadValue y = signExt (y.data.toNat / 2 ^ (4 * odd)) (4 * nibs) sg := by simp only [loadValue, hyk, hkind]
    rw [hv, ← natAt_same hm hl]
    refine signExt_mod _ _ _ _ ?_
    have hd := hdata (4 * odd + 4 * nibs) (by omega)
    rw [Nat.pow_add] at hd
    rw [← Nat.mod_mul_right_div_self, hd, Nat.mod_mul_right_div_self]
  · obtain ⟨k, u, hx, hk, hm, hl, hacc, rfl⟩ := homePerform_performs hhome (by simp [hkind]) ht
    have hr := performBytes_amo hs hp hk (hacc ▸ hx) hkind hb
    rw [natAt_same hm hl, amoNew_eq _ (by omega) hf] at hr
    simpa only [Nat.add_mod_mod] using hr
  · obtain ⟨k, u, hx, hk, hm, hl, hacc, rfl⟩ := homePerform_performs hhome (by simp [hkind]) ht
    have hr := performBytes_amocas hs hp hk (hacc ▸ hx) hkind hb
    rwa [natAt_same hm hl] at hr

end Sys2Proof.Machine
end
